-- ==== Sys2Proof/Word.lean ====
section
/-! DEFINITION. The word types of the die (R6, R7) and the ranges of its numbered units (R3, R12, R56, R69). -/

namespace Sys2Proof

/-- One byte. -/
abbrev Byte := BitVec 8
/-- A 32-bit register, scalar register or instruction word. -/
abbrev Word := BitVec 32
/-- A 64-bit address, tag or counter value. -/
abbrev DWord := BitVec 64

/-- Logical or physical core number (R3, R56). -/
abbrev CoreNo := Fin 96
/-- Clump or router number (R56, R265). -/
abbrev ClumpNo := Fin 24
/-- Link and port adapter number (R69, R267): 0–23 B0–B23, 24–29 P0–P5, 30–31 U0–U1. -/
abbrev LinkNo := Fin 32
/-- Queue context number (R303). -/
abbrev CtxNo := Fin 8192
/-- Window number (R360). -/
abbrev WinNo := Fin 1024
/-- DMA engine number (R316). -/
abbrev EngNo := Fin 8
/-- DMA channel number within its engine (R316). -/
abbrev ChanNo := Fin 64
/-- Scalar register number (R75). -/
abbrev SReg := Fin 32

/-- The two halves of the die (R56). -/
inductive Half where
  | west
  | east
  deriving DecidableEq, Repr

end Sys2Proof
end

