-- ==== Sys2Proof/Syntax.lean ====
section
/-! DEFINITION. The commands of the die: one constructor of `Instr` for each row of the table of operations and
events. An operand carries what reaches the die from outside it (a packet, a pin's level, a sensor reading, the data
a read returned) or what the manual leaves to the cycle in which an access meets a port (R128, R142). -/

namespace Sys2Proof

/-- A command packet on VC3 of U0 or U1 (R416): the header's fields and the parameter bytes. -/
structure Packet where
  /-- The substrate link it arrived on: 0 for U0, 1 for U1. -/
  link : Fin 2
  major : Byte
  minor : Byte
  hostSeq : Word
  devSeen : Word
  /-- CONTROL [31:16] LENGTH. -/
  length : BitVec 16
  /-- CONTROL [15:8]: REPLY, DUPLICATE, POLL, BROADCAST from the lowest bit. -/
  flags : Byte
  account : Byte
  tag : DWord
  /-- Offset 0x18 as sent. -/
  season : Word
  crc : Word
  params : List Byte
  deriving DecidableEq, Repr

/-- What a read that left the die, or a read of a ring or image, brought back: data, or a rejection with the link
index and tag of the negative acknowledgement (R315, R338). -/
inductive Fetched where
  | ok (data : List Byte)
  | rejected (status : Byte)
  deriving DecidableEq, Repr

/-- What an access met at its bank in its cycle: a conflict (R128) or an error its read found (R142, R143). -/
inductive PortEvent where
  | clean
  /-- Another access met the bank's port in the same cycle: bank, two writes instead of two reads, and whose it was: clump
  position, and unit as SPD_CONFLICT_LAST numbers it (R128, R129). -/
  | conflict (bank : Fin 16) (writes : Bool) (otherQ otherUnit : Fin 4)
  /-- A single-bit error was corrected in this word of the core that owns the bank. -/
  | corrected (bank : Fin 16) (row : Fin 1024) (word : Fin 64)
  /-- An uncorrectable error. -/
  | uncorrectable (bank : Fin 16) (row : Fin 1024) (word : Fin 64)
  deriving DecidableEq, Repr

/-- The agent that issues an access to spaces 2 to 5 (R11, R54, R313). -/
inductive Agent where
  | hedger
  | core (l : CoreNo)
  | dma (e : EngNo) (j : ChanNo)
  | link (i : LinkNo)
  deriving DecidableEq, Repr

/-- A link packet of types WRITE to STATUS (R380). -/
structure LinkPacket where
  ackReq : Bool
  /-- SEASON if SEASON_VALID is 1. -/
  season : Option (BitVec 16)
  /-- LENGTH as the header gives it. -/
  length : Nat
  tag : BitVec 16
  /-- Global address; for DATA and STATUS the status code in [7:0]. -/
  address : DWord
  data : List Byte
  deriving DecidableEq, Repr

/-- A binder message on VC4 (R355). -/
structure BinderMsg where
  address : DWord
  value : Word
  /-- OP 0 ADD, 1 RELEASE, 2 ROLE_PULSE, 3 ACK, 4 NAK. -/
  op : BitVec 4
  status : Byte
  source : BitVec 17
  deriving DecidableEq, Repr

/-- A pace or budget message on VC5 (R515). -/
structure Vc5Msg where
  head : Word
  dest : Word
  src : Word
  body : Word
  deriving DecidableEq, Repr

/-- A flit (R377): the header's fields, its slots and its CRC field. -/
structure Flit where
  seq : BitVec 12
  ack : BitVec 12
  kind : BitVec 3
  vc : BitVec 3
  used : BitVec 4
  cont : BitVec 4
  crVc : BitVec 3
  crCount : Byte
  epoch : BitVec 4
  slots : List (List Byte)
  crc : DWord
  deriving DecidableEq, Repr

/-- The content of a CONFIG_ECHO flit (R401). -/
structure Echo where
  width : Nat
  mapCrc : Word
  epoch : BitVec 16
  version : Byte
  deriving DecidableEq, Repr

/-- A partner's CONFIG message (R400). -/
structure LinkConfig where
  minVersion : Byte
  maxVersion : Byte
  /-- 0 compute, 1 base, 2 I/O. -/
  pclass : Fin 3
  die : BitVec 17
  credits : List Nat
  /-- LAST_SEQ, or none. -/
  lastSeq : Option (BitVec 12)
  mapCrc : Word
  epoch : BitVec 16
  /-- The SX1's placement word. -/
  placement : Option Word
  deriving DecidableEq, Repr

/-- The content of a MGMT packet (R384, R515). -/
inductive Mgmt where
  | vc5 (m : Vc5Msg)
  | other (data : List Byte)
  deriving DecidableEq, Repr

/-- A unit a self-test or a march found failing, as a dieback entry names it (R450): KIND, UNIT, DETAIL. -/
structure Defect where
  kind : Fin 6
  unit : Nat
  detail : Nat
  deriving DecidableEq, Repr

/-- An SB1 answer to a memory test phase (R461 to R463). -/
inductive Sb1Answer where
  /-- The package memory size, whether it confirms the record's TEST_ID. -/
  | size (bytes : Nat) (confirms : Bool)
  /-- A phase is done; per mille of the whole test. -/
  | progress (perMille : Nat)
  /-- The test passed; rows repaired. -/
  | passed (failingRows : Nat)
  | unusable
  deriving DecidableEq, Repr

/-- An access of the IEEE 1687 network to a fuse field (R553): its number as `Fuses.field` lists them, an index in it, and
the bits to program at a FUSE_VPP in mV, none for a read. -/
structure FuseAccess where
  field : Fin 16
  index : Nat
  program : Option (Nat × Nat)
  deriving DecidableEq, Repr

/-- The commands. -/
inductive Instr where
  -- pins, resets and bring-up
  | pwrgdEvgRise (testMode : Bool)
  | coldReset (lowNs : Nat)
  | warmReset (lowNs : Nat)
  | resetHoldEnd
  | perstNRise
  | s0End (fuseError selfCheckOk : Bool)
  | thermalTrip (sensor : Fin 64) (reading : BitVec 16)
  | refclkLost
  | sensorSample (temps : List (BitVec 16)) (mv : List Nat)
  | droopStretch (half : Half) (monitor : Fin 20) (mvBelow : Nat) (cycles : Nat)
  | droopStretchEnd (half : Half) (cycles : Nat)
  | railAck (half : Half)
  | s1PlacementTimeout
  | stageTimeLimit
  | s3SelfTestDone (found : List Defect)
  | s4End (timeUp : Bool)
  | s5End
  | sb1MemtestAnswer (a : Sb1Answer)
  | sb1AnswerTimeout
  | s7Init
  | s8Finalise
  | securityAdvance (vppMv fuses : Nat)
  -- session, bring-up and information commands
  | hello (p : Packet)
  | sync (p : Packet)
  | getInfo (p : Packet)
  | bootStage (p : Packet)
  | loadImageBegin (p : Packet)
  | loadImageChunk (p : Packet) (badCores : List CoreNo)
  | loadImageCommit (p : Packet)
  | imageCommitDone
  | getMissing (p : Packet)
  | renumber (p : Packet)
  | getDieback (p : Packet)
  | saveSettings (p : Packet)
  | restoreSettings (p : Packet) (fast : Bool)
  -- power commands
  | setPowerState (p : Packet) (fast : Bool)
  | powerTransitionDone (core : Option CoreNo)
  | powerExitTimeout (core : CoreNo)
  | setOperatingPoint (p : Packet)
  | setLimit (p : Packet)
  | setPacePolicy (p : Packet)
  | getPowerAccounting (p : Packet)
  -- telemetry and link commands
  | readTelemetry (p : Packet)
  | readEnergy (p : Packet)
  | readEvents (p : Packet)
  | linkStatus (p : Packet)
  | linkRetrain (p : Packet) (fast : Bool)
  | linkRetrainDone (link : LinkNo)
  | linkLoopback (p : Packet)
  | loopbackDone (link : LinkNo) (errors : List Nat)
  | linkBerTest (p : Packet)
  /-- Stressed and nominal errors of each lane of the link. -/
  | berTestDone (link : LinkNo) (errors : List (Nat × Nat))
  -- queue, synchronisation, security, calibration and test commands
  | queueCreate (p : Packet)
  | queueDestroy (p : Packet) (fast : Bool)
  | queueDestroyDone (q : CtxNo)
  | binderAlloc (p : Packet)
  | windowOpen (p : Packet)
  | windowClose (p : Packet) (fast : Bool)
  | windowCloseDone (w : WinNo)
  | roleAssign (p : Packet)
  | getCertificate (p : Packet)
  | attest (p : Packet)
  | attestDone
  | getMeasurements (p : Packet)
  | calReadFactory (p : Packet)
  | calWriteUser (p : Packet)
  | calClearUser (p : Packet)
  | testModeEnter (p : Packet)
  | runBist (p : Packet)
  | bistDone (failures : List Defect)
  | memtestStart (p : Packet)
  | memtestDone (passed : Bool) (failingRows : Nat)
  | memtestStatus (p : Packet)
  | longOpPoll (opcode : BitVec 16) (p : Packet)
  | seqHoldTimeout
  -- work entries
  | launchKernel (q : CtxNo) (entry image param : Fetched)
  | kernelStart (q : CtxNo)
  | binderOpArrive (q : CtxNo) (entry : Fetched)
  | binderOpAdd (q : CtxNo) (entry : Fetched)
  | binderOpReset (q : CtxNo) (entry : Fetched)
  | binderOpAwait (q : CtxNo) (entry : Fetched)
  | fenceEntry (q : CtxNo) (entry : Fetched)
  -- SQ instructions of a core
  | add (c : CoreNo) (sd sa sb : SReg)
  | sub (c : CoreNo) (sd sa sb : SReg)
  | and (c : CoreNo) (sd sa sb : SReg)
  | or (c : CoreNo) (sd sa sb : SReg)
  | xor (c : CoreNo) (sd sa sb : SReg)
  | shl (c : CoreNo) (sd sa sb : SReg)
  | shr (c : CoreNo) (sd sa sb : SReg)
  | sra (c : CoreNo) (sd sa sb : SReg)
  | slt (c : CoreNo) (sd sa sb : SReg)
  | sltu (c : CoreNo) (sd sa sb : SReg)
  | mul (c : CoreNo) (sd sa sb : SReg)
  | mulhu (c : CoreNo) (sd sa sb : SReg)
  | addi (c : CoreNo) (sd sa : SReg) (imm : BitVec 16)
  | andi (c : CoreNo) (sd sa : SReg) (imm : BitVec 16)
  | ori (c : CoreNo) (sd sa : SReg) (imm : BitVec 16)
  | lui (c : CoreNo) (sd : SReg) (imm : BitVec 16)
  | ld32 (c : CoreNo) (sd sa : SReg) (imm : BitVec 16) (port : PortEvent)
  | ld64 (c : CoreNo) (sd sa : SReg) (imm : BitVec 16) (port : PortEvent)
  | st32 (c : CoreNo) (sd sa : SReg) (imm : BitVec 16) (port : PortEvent)
  | st64 (c : CoreNo) (sd sa : SReg) (imm : BitVec 16) (port : PortEvent)
  | beq (c : CoreNo) (sa sb : SReg) (off : BitVec 16)
  | bne (c : CoreNo) (sa sb : SReg) (off : BitVec 16)
  | blt (c : CoreNo) (sa sb : SReg) (off : BitVec 16)
  | bge (c : CoreNo) (sa sb : SReg) (off : BitVec 16)
  | jal (c : CoreNo) (sd sa : SReg) (imm : BitVec 16)
  /-- `port`: what the fetch of the descriptor met. -/
  | issue (c : CoreNo) (eng : Fin 2) (tag : Fin 64) (notify barrier : Bool) (sa : SReg) (imm : BitVec 10) (port : PortEvent)
  | fence (c : CoreNo) (mx vx post store : Bool)
  /-- `early`: events set in cc 0–7 of the entry; `gap`: edges that arrive in cc 8–15 (R478). -/
  | wait (c : CoreNo) (sa : SReg) (all clear power : Bool) (imm early gap : BitVec 16)
  | coreWakeEvent (c : CoreNo)
  | sbClaim (c : CoreNo) (kind : Fin 4) (sa sb sd : SReg)
  | sbRelease (c : CoreNo) (sa : SReg)
  | sbTest (c : CoreNo) (sd : SReg)
  | post (c : CoreNo) (sa sb : SReg)
  | ctlRead (c : CoreNo) (sd sa : SReg) (imm : BitVec 15)
  | ctlWrite (c : CoreNo) (sd sa : SReg) (imm : BitVec 15)
  | end_ (c : CoreNo)
  | illegalInsn (c : CoreNo)
  | corTimerMatch (c : CoreNo)
  -- engines, scratchpad and core faults
  /-- `met`: what its reads met, each at the bank of a clump position; at completion its writes. -/
  | mxeDescStart (c : CoreNo) (met : List (Fin 4 × PortEvent))
  | mxeDescComplete (c : CoreNo) (met : List (Fin 4 × PortEvent))
  | vxeChainStart (c : CoreNo) (met : List (Fin 4 × PortEvent))
  | vxeChainComplete (c : CoreNo) (met : List (Fin 4 × PortEvent))
  /-- Entry `i` of the inbound write buffer of physical core `p`; `waited` cycles it waited for its port. -/
  | unscheduledWriteLand (p : CoreNo) (entry : Nat) (waited : Nat) (port : PortEvent)
  | unscheduledRead (p : CoreNo) (port : PortEvent)
  | eccWriteback (p : CoreNo) (bank : Fin 16) (row : Fin 1024)
  | wakeTimeout (p : CoreNo) (bank : Fin 16)
  | memWakeReturn (p : CoreNo)
  | imemScrub (p : CoreNo) (uncorrectable : Bool)
  /-- Physical core, fence cause (1 ENGINE_FAULT, 2 IMEM_UE found by fetch, 3 CLUMP_PATH). -/
  | engineFault (p : CoreNo) (cause : Fin 4)
  | fenceRetest (p : CoreNo) (passed : Bool)
  | fuseCommit (vppMv : Nat)
  | noiseHealth
  -- pleach network
  /-- `met`: what the half's bank accesses met, each at a physical core's banks; `ecc`: single-bit errors its routers' row
  buffers corrected, by clump. -/
  | plnSlotExecute (half : Half) (met : List (CoreNo × PortEvent)) (ecc : List ClumpNo)
  | plnStall (half : Half)
  | routerFailed (c : ClumpNo) (cause : Fin 3)
  | openRowHop (src : ClumpNo)
  | outboundStreamSend (a : LinkNo) (stream : Fin 2)
  -- queues and DMA
  | doorbellTail (src : Agent) (q : CtxNo) (value : Word)
  | doorbellHead (src : Agent) (q : CtxNo) (value : Word)
  | pause (src : Agent) (q : CtxNo) (value : Word)
  | resume (src : Agent) (q : CtxNo) (value : Word)
  | restart (src : Agent) (q : CtxNo) (value : Word)
  | dmaPauseDrained (e : EngNo) (j : ChanNo)
  | dmaDescriptorStart (e : EngNo) (j : ChanNo) (desc : Fetched) (port : PortEvent)
  | dmaBeatIssue (e : EngNo)
  | dmaReadReturn (e : EngNo) (j : ChanNo) (data : List Byte)
  | dmaBeatReject (e : EngNo) (j : ChanNo) (status : Byte) (link : Option LinkNo) (tag : BitVec 16) (linkUp : Bool)
  | dmaReadbackAnswer (e : EngNo) (j : ChanNo) (status : Byte) (port : PortEvent)
  | dmaCompletionAck (e : EngNo) (j : ChanNo) (status : Byte)
  | dmaEngineFault (e : EngNo)
  | recordWriteRetry (q : CtxNo) (status : Byte)
  -- binders, roles and windows
  | arrive (src : Agent) (address : DWord) (value : Word)
  | binderAdd (src : Agent) (address : DWord) (value : Word)
  | binderReset (src : Agent) (address : DWord) (value : Word)
  | binderWait (src : Agent) (address : DWord) (value : Word)
  | rolePulse (src : Agent) (address : DWord) (value : Word)
  | releaseMessage (link : LinkNo) (m : BinderMsg)
  | binderAck (link : LinkNo) (m : BinderMsg)
  | binderNak (link : LinkNo) (m : BinderMsg)
  | owedMessageSend (link : LinkNo)
  | windowWrite (src : Agent) (p : LinkPacket)
  -- link packets
  | write (link : LinkNo) (p : LinkPacket)
  | readback (link : LinkNo) (p : LinkPacket)
  | read (link : LinkNo) (p : LinkPacket)
  | data (link : LinkNo) (p : LinkPacket)
  | status (link : LinkNo) (p : LinkPacket)
  | mgmt (link : LinkNo) (tag : BitVec 16) (m : Mgmt)
  -- flits and link control
  | dataFlit (link : LinkNo) (f : Flit)
  | idleFlit (link : LinkNo) (f : Flit)
  | retry (link : LinkNo) (f : Flit)
  | retryTimeout (link : LinkNo)
  | flitSend (link : LinkNo)
  /-- Errors found on each logical lane. -/
  | laneCheck (link : LinkNo) (errors : List Nat)
  | laneCheckSend (link : LinkNo)
  | configEcho (link : LinkNo) (e : Echo)
  | configEchoSend (link : LinkNo)
  | echoTimeout (link : LinkNo)
  | reconfigReq (link : LinkNo) (used : DWord) (switchSeq : BitVec 12)
  | reconfigTimeout (link : LinkNo)
  | trickleReq (link : LinkNo)
  | trickleAck (link : LinkNo)
  | keepalive (link : LinkNo)
  | keepaliveSend (link : LinkNo)
  | rustlePattern (link : LinkNo)
  | dieWake
  | sleepTimer
  | wakeLock (link : LinkNo)
  | linkWakeTimeout (link : LinkNo)
  | trainingSequence (link : LinkNo)
  /-- `clocks`: groups whose clock lane failed in either direction (R375). -/
  | laneTestEnd (link : LinkNo) (mask : DWord) (clocks : Byte)
  | eqComplete (link : LinkNo) (mask : DWord) (eq : List Word)
  | attemptTimeout (link : LinkNo)
  | widthMap (link : LinkNo) (partnerMask : DWord)
  | configMessage (link : LinkNo) (c : LinkConfig)
  | linkTimeout (link : LinkNo)
  -- clocks, power, budget and pace
  | glideStep (half : Half)
  | hedgerClkRequest (on : Bool)
  /-- Energy of each component over the microsecond, in nanojoules, before the user overlay (R503). -/
  | energyEstimate (components : List Nat)
  /-- Microjoules of the millisecond, by account or unattributed, with the context charged. -/
  | energyAccountUpdate (shares : List (Fin 256 × Option CtxNo × Nat)) (unattributed : Nat)
  | powerFastEval
  | powerSlowEval
  | thermalEval
  | demandSend
  | budgetCompute
  | demand (link : LinkNo) (m : Vc5Msg)
  | total (link : LinkNo) (m : Vc5Msg)
  | pace (link : LinkNo) (m : Vc5Msg)
  | paceSend
  | paceTableAge
  -- Hedger and register accesses
  | hedgerWatchdog (hedgerPc : Word)
  | hedgerFault (cause : Fin 9) (hedgerPc : Word)
  | wdogKick
  | corEventSet (src : Agent) (c : CoreNo) (value : Word)
  | mxeReseed (src : Agent) (c : CoreNo) (noise : DWord)
  | vxeReseed (src : Agent) (c : CoreNo) (noise : DWord)
  | mxeGuardPop (src : Agent) (c : CoreNo) (value : Word)
  | lnkCtlRetrain (link : LinkNo)
  | rcCounterRead (src : Agent) (offset : BitVec 24)
  | counterLoRead (src : Agent) (offset : BitVec 24)
  | registerWrite (src : Agent) (offset : BitVec 24) (bytes : Nat) (value : Word)
  | refclkRestored
  | testAccessPortInstruction (ir : Byte) (shift : DWord) (fuse : Option FuseAccess)
  | unknownOpcode (link : LinkNo) (linkTag opcode : BitVec 16) (p : Packet)
  | failedWorkEntry (q : CtxNo) (entry : Fetched) (port : PortEvent)
  | restoreSettingsDone
  deriving DecidableEq, Repr

end Sys2Proof
end

