-- ==== Sys2Proof/Machine/FMap.lean ====
section
/-! DEFINITION. Sparse tables: lists of key and value in one canonical form, keys strictly rising, no entry equal to
what an absent key reads as. -/

namespace Sys2Proof.Machine

variable {α : Type}

/-- The value listed at a key, else the default. -/
def tget (d : α) : List (Nat × α) → Nat → α
  | [], _ => d
  | (k, v) :: m, i => if i = k then v else tget d m i

/-- The table without a key. -/
def tdel : List (Nat × α) → Nat → List (Nat × α)
  | [], _ => []
  | (k, v) :: m, i => if i = k then tdel m i else (k, v) :: tdel m i

/-- The table with a key listed at its place. -/
def tins : List (Nat × α) → Nat → α → List (Nat × α)
  | [], i, x => [(i, x)]
  | (k, v) :: m, i, x => if i < k then (i, x) :: (k, v) :: m else if i = k then (i, x) :: m else (k, v) :: tins m i x

/-- The table with a value at a key, unlisted when it is the default. -/
def tset [DecidableEq α] (d : α) (m : List (Nat × α)) (i : Nat) (x : α) : List (Nat × α) :=
  if x = d then tdel m i else tins m i x

/-- The value at a key changed by a function. -/
def tmod [DecidableEq α] (d : α) (m : List (Nat × α)) (i : Nat) (f : α → α) : List (Nat × α) :=
  tset d m i (f (tget d m i))

/-- Keys strictly rise. -/
def tsorted : List (Nat × α) → Bool
  | [] => true
  | [_] => true
  | (k, _) :: (k', v') :: m => decide (k < k') && tsorted ((k', v') :: m)

/-- The canonical form for a default that is the same at every key. -/
def twf [DecidableEq α] (d : α) (m : List (Nat × α)) : Bool :=
  tsorted m && m.all fun e => decide (e.2 ≠ d)

/-- The number whose bit i says whether `f i` holds, below `n`. -/
def maskOf (n : Nat) (f : Nat → Bool) : Nat :=
  (List.range n).foldl (fun a i => if f i then a + 2 ^ i else a) 0

/-- The positions below `n` of the bits set in a mask, lowest first. -/
def bitsOf (n : Nat) (m : Nat) : List Nat := (List.range n).filter fun i => m.testBit i

/-- A mask with bit `i` set. -/
def setBit (m i : Nat) : Nat := if m.testBit i then m else m + 2 ^ i

/-- A mask with bit `i` clear. -/
def clearBit (m i : Nat) : Nat := if m.testBit i then m - 2 ^ i else m

/-- The field of `w` bits at bit `lo`. -/
def bitsAt (x lo w : Nat) : Nat := x / 2 ^ lo % 2 ^ w

/-- Little-endian bytes of a number (R6). -/
def leBytes : Nat → Nat → List (BitVec 8)
  | 0, _ => []
  | n + 1, x => BitVec.ofNat 8 x :: leBytes n (x / 256)

/-- The number that little-endian bytes hold (R6). -/
def leNat : List (BitVec 8) → Nat
  | [] => 0
  | b :: bs => b.toNat + 256 * leNat bs

/-- Bytes put into a run of bytes at an offset; what lies between is 0. -/
def putAt (bs : List (BitVec 8)) (o : Nat) (d : List (BitVec 8)) : List (BitVec 8) :=
  bs.take o ++ List.replicate (o - bs.length) 0 ++ d ++ bs.drop (o + d.length)

/-- `n` bytes of a list from offset `o`, zeros past its end. -/
def slice (bs : List (BitVec 8)) (o n : Nat) : List (BitVec 8) :=
  let r := (bs.drop o).take n
  r ++ List.replicate (n - r.length) 0

/-- Little-endian number at an offset of a byte list. -/
def leAt (bs : List (BitVec 8)) (o n : Nat) : Nat := leNat (slice bs o n)

/-- Signed value of a word of `w` bits. -/
def toSigned (w x : Nat) : Int := if x % 2 ^ w < 2 ^ (w - 1) then (x % 2 ^ w : Nat) else (x % 2 ^ w : Nat) - 2 ^ w

/-- (int32)(a − b), as R421, R422 and R563 compare numbers that wrap. -/
def diff32 (a b : Nat) : Int := ((a : Int) - b + 2 ^ 31) % 2 ^ 32 - 2 ^ 31

/-- `a < b` as R563 compares indices: (int32)(a − b) < 0. -/
def before32 (a b : Nat) : Bool := decide (diff32 a b < 0)

end Sys2Proof.Machine
end

