-- ==== Sys2Proof/Machine/Crc.lean ====
section
/-! DEFINITION. The checksums: CRC-32C (R11, R315, R332, R416), CRC-64 of DMA (R332) and of flits (R378). -/

namespace Sys2Proof.Machine

/-- One bit of a reflected CRC with polynomial `poly`. -/
def crcBitR (poly c : Nat) : Nat := if c % 2 = 1 then (c / 2) ^^^ poly else c / 2

/-- One byte of a reflected CRC. -/
def crcByteR (poly c : Nat) (b : Byte) : Nat :=
  (List.range 8).foldl (fun c _ => crcBitR poly c) (c ^^^ b.toNat)

/-- One bit of a CRC of 64 bits, most significant first. -/
def crcBit64 (poly c : Nat) : Nat :=
  let x := c * 2 % 2 ^ 64
  if 2 ^ 63 ≤ c then x ^^^ poly else x

/-- One byte of it. -/
def crcByte64 (poly c : Nat) (b : Byte) : Nat :=
  (List.range 8).foldl (fun c _ => crcBit64 poly c) (c ^^^ (b.toNat * 2 ^ 56))

/-- CRC-32C's register after more bytes. -/
def crc32cRaw (c : Nat) (bs : List Byte) : Nat := bs.foldl (crcByteR 0x82F63B78) c

/-- CRC-32C of bytes. -/
def crc32c (bs : List Byte) : Nat := crc32cRaw 0xFFFFFFFF bs ^^^ 0xFFFFFFFF

/-- CRC-64 of ECMA-182: its register after more bytes. -/
def crc64Raw (c : Nat) (bs : List Byte) : Nat := bs.foldl (crcByte64 0x42F0E1EBA9EA3693) c

end Sys2Proof.Machine
end

