-- ==== Sys2Proof/Config.lean ====
section
/-! DEFINITION. What the manual leaves open, as constants with no body, and what one part fixes. No proof can see a
value of them; a statement that holds here holds for every value. -/

namespace Sys2Proof.Config

/-- A free natural number: applied to the step counter `State.fresh` and a salt it names one open value (log 3). -/
opaque freeNat : Nat → Nat → Nat

/-- What a byte of a bank reads as after its contents were lost (R145, R146): by epoch of the loss and address. -/
opaque freeByte : Nat → Nat → Byte

/-- The check bits of a 32-bit word: the manual gives their number and what the code corrects and detects, not the code
(R119). -/
opaque checkBits : Word → BitVec 7

/-- Draw `n` of the counter-based generator of stochastic rounding under a seed (R177): 16 bits of it are used. -/
opaque srDraw : Nat → Nat → Nat

/-- SLH-DSA key generation from the three seeds (R528): PK.root. -/
opaque slhRoot : List Byte → List Byte → List Byte → List Byte

/-- SLH-DSA signature of a message under the three seeds and PK.root (R541). -/
opaque slhSign : List Byte → List Byte → List Byte → List Byte → List Byte → List Byte

/-- SLH-DSA verification: parameter set number, public key, message, signature (R533, R534). -/
opaque slhVerify : Nat → List Byte → List Byte → List Byte → Bool

end Sys2Proof.Config
end

