-- ==== Sys2Proof/Machine/RegMap.lean ====
section
/-! DEFINITION. The register map of space 4 (R69): every register field of the manual's register tables, with its
address, bits, access type (R7) and reset value. A pair of _LO and _HI registers is one field of 64 bits that stands at
the _LO address. The blocks of a core stand at its PHYSICAL number `p`; `Operands` turns the logical number of an
address into it. -/

namespace Sys2Proof.Machine

/-- Access types of R7. -/
inductive FType where
  | ro
  | rw
  | w1c
  | wo
  | rc
  deriving DecidableEq, Repr

/-- One field of a register table: lowest bit, width, type and reset value. -/
structure FDesc where
  lo : Nat
  w : Nat
  ty : FType
  reset : Nat
  deriving DecidableEq, Repr

/-- One register of the tables, with its instances: strides and counts from `base`. -/
structure RDesc where
  base : Nat
  dims : List (Nat × Nat)
  pair : Bool
  fields : List FDesc
  deriving DecidableEq, Repr

/-- A register field: address of its register, lowest bit, width. -/
structure Fld where
  addr : Nat
  lo : Nat
  w : Nat
  deriving DecidableEq, Repr

/-- The key of a field in the register file of State. -/
def Fld.key (f : Fld) : Nat := f.addr * 32 + f.lo

namespace F

/-- EVG_PLACEMENT.VALID. -/
def evgPlacementValid : Fld := ⟨0x40, 31, 1⟩

/-- EVG_PLACEMENT.PEER_PRESENT. -/
def evgPlacementPeerPresent : Fld := ⟨0x40, 17, 6⟩

/-- EVG_PLACEMENT.PACKAGE. -/
def evgPlacementPackage : Fld := ⟨0x40, 4, 13⟩

/-- EVG_PLACEMENT.POSITION. -/
def evgPlacementPosition : Fld := ⟨0x40, 0, 4⟩

/-- EVG_NUMBERING.EPOCH. -/
def evgNumberingEpoch : Fld := ⟨0x44, 16, 16⟩

/-- EVG_NUMBERING.N_LOGICAL. -/
def evgNumberingNLogical : Fld := ⟨0x44, 0, 7⟩

/-- EVG_CORE_MAPk.IN_MAP. -/
def evgCoreMap (k : Nat) : Fld := ⟨0x48 + k * 0x4, 0, 32⟩

/-- EVG_FENCEDk.FENCED. -/
def evgFenced (k : Nat) : Fld := ⟨0x54 + k * 0x4, 0, 32⟩

/-- EVG_BOOT.STAGE. -/
def evgBootStage : Fld := ⟨0x60, 28, 4⟩

/-- EVG_BOOT.STATE. -/
def evgBootState : Fld := ⟨0x60, 26, 2⟩

/-- EVG_BOOT.READY. -/
def evgBootReady : Fld := ⟨0x60, 24, 2⟩

/-- EVG_BOOT.FAST_S4. -/
def evgBootFastS4 : Fld := ⟨0x60, 23, 1⟩

/-- EVG_BOOT.FAST_S6. -/
def evgBootFastS6 : Fld := ⟨0x60, 22, 1⟩

/-- EVG_BOOT.TEST_MODE. -/
def evgBootTestMode : Fld := ⟨0x60, 21, 1⟩

/-- EVG_BOOT.WARM. -/
def evgBootWarm : Fld := ⟨0x60, 20, 1⟩

/-- EVG_BOOT.HOLD_STAGE. -/
def evgBootHoldStage : Fld := ⟨0x60, 16, 4⟩

/-- EVG_BOOT.HOLD_EN. -/
def evgBootHoldEn : Fld := ⟨0x60, 15, 1⟩

/-- EVG_FUSE_JOURNAL.COMMIT_ACTIVE. -/
def evgFuseJournalCommitActive : Fld := ⟨0x64, 31, 1⟩

/-- EVG_FUSE_JOURNAL.VPP_REFUSED. -/
def evgFuseJournalVppRefused : Fld := ⟨0x64, 30, 1⟩

/-- EVG_FUSE_JOURNAL.VALID. -/
def evgFuseJournalValid : Fld := ⟨0x64, 16, 8⟩

/-- EVG_FUSE_JOURNAL.SPENT. -/
def evgFuseJournalSpent : Fld := ⟨0x64, 8, 8⟩

/-- EVG_FUSE_JOURNAL.FREE. -/
def evgFuseJournalFree : Fld := ⟨0x64, 0, 8⟩

/-- EVG_DIEBACK.ENTRIES. -/
def evgDiebackEntries : Fld := ⟨0x68, 16, 11⟩

/-- EVG_DIEBACK.UNSAVED. -/
def evgDiebackUnsaved : Fld := ⟨0x68, 0, 11⟩

/-- EVG_MEMTEST.VALID. -/
def evgMemtestValid : Fld := ⟨0x6c, 31, 1⟩

/-- EVG_MEMTEST.STATE. -/
def evgMemtestState : Fld := ⟨0x6c, 28, 3⟩

/-- EVG_MEMTEST.FAST. -/
def evgMemtestFast : Fld := ⟨0x6c, 27, 1⟩

/-- EVG_MEMTEST.PROGRESS. -/
def evgMemtestProgress : Fld := ⟨0x6c, 0, 10⟩

/-- EVG_BOOT_REPORTk.CODE. -/
def evgBootReportCode (k : Nat) : Fld := ⟨0x70 + k * 0x4, 16, 16⟩

/-- EVG_BOOT_REPORTk.CURRENT. -/
def evgBootReportCurrent (k : Nat) : Fld := ⟨0x70 + k * 0x4, 15, 1⟩

/-- EVG_BOOT_REPORTk.DURATION. -/
def evgBootReportDuration (k : Nat) : Fld := ⟨0x70 + k * 0x4, 0, 15⟩

/-- COR_STATUS.STATE. -/
def corStatusState (p : Nat) : Fld := ⟨0x400000 + p * 0x10000, 28, 4⟩

/-- COR_STATUS.MODE. -/
def corStatusMode (p : Nat) : Fld := ⟨0x400000 + p * 0x10000, 27, 1⟩

/-- COR_STATUS.VX_Q. -/
def corStatusVxQ (p : Nat) : Fld := ⟨0x400000 + p * 0x10000, 20, 4⟩

/-- COR_STATUS.MX_Q. -/
def corStatusMxQ (p : Nat) : Fld := ⟨0x400000 + p * 0x10000, 16, 4⟩

/-- COR_STATUS.PHYS_CORE. -/
def corStatusPhysCore (p : Nat) : Fld := ⟨0x400000 + p * 0x10000, 0, 7⟩

/-- COR_EVENT.SW. -/
def corEventSw (p : Nat) : Fld := ⟨0x400004 + p * 0x10000, 15, 1⟩

/-- COR_EVENT.PACE. -/
def corEventPace (p : Nat) : Fld := ⟨0x400004 + p * 0x10000, 11, 1⟩

/-- COR_EVENT.ERROR. -/
def corEventError (p : Nat) : Fld := ⟨0x400004 + p * 0x10000, 10, 1⟩

/-- COR_EVENT.UNIT_FAILED. -/
def corEventUnitFailed (p : Nat) : Fld := ⟨0x400004 + p * 0x10000, 9, 1⟩

/-- COR_EVENT.HELD_REQUEST. -/
def corEventHeldRequest (p : Nat) : Fld := ⟨0x400004 + p * 0x10000, 8, 1⟩

/-- COR_EVENT.MSG. -/
def corEventMsg (p : Nat) : Fld := ⟨0x400004 + p * 0x10000, 7, 1⟩

/-- COR_EVENT.GUARD. -/
def corEventGuard (p : Nat) : Fld := ⟨0x400004 + p * 0x10000, 6, 1⟩

/-- COR_EVENT.TIMER. -/
def corEventTimer (p : Nat) : Fld := ⟨0x400004 + p * 0x10000, 5, 1⟩

/-- COR_EVENT.POSTS_DONE. -/
def corEventPostsDone (p : Nat) : Fld := ⟨0x400004 + p * 0x10000, 4, 1⟩

/-- COR_EVENT.QUEUE_NONEMPTY. -/
def corEventQueueNonempty (p : Nat) : Fld := ⟨0x400004 + p * 0x10000, 3, 1⟩

/-- COR_EVENT.BINDER_WAKE. -/
def corEventBinderWake (p : Nat) : Fld := ⟨0x400004 + p * 0x10000, 2, 1⟩

/-- COR_EVENT.VX_DONE. -/
def corEventVxDone (p : Nat) : Fld := ⟨0x400004 + p * 0x10000, 1, 1⟩

/-- COR_EVENT.MX_DONE. -/
def corEventMxDone (p : Nat) : Fld := ⟨0x400004 + p * 0x10000, 0, 1⟩

/-- COR_EVENT_SET.SET_SW. -/
def corEventSet (p : Nat) : Fld := ⟨0x400008 + p * 0x10000, 0, 1⟩

/-- COR_ERROR.FIRST_CODE. -/
def corErrorFirstCode (p : Nat) : Fld := ⟨0x40000c + p * 0x10000, 24, 8⟩

/-- COR_ERROR.COUNT. -/
def corErrorCount (p : Nat) : Fld := ⟨0x40000c + p * 0x10000, 16, 8⟩

/-- COR_ERROR.FIRST_PC. -/
def corErrorFirstPc (p : Nat) : Fld := ⟨0x40000c + p * 0x10000, 0, 13⟩

/-- COR_PC.PC. -/
def corPc (p : Nat) : Fld := ⟨0x400010 + p * 0x10000, 0, 13⟩

/-- COR_KERNEL.ACCOUNT. -/
def corKernelAccount (p : Nat) : Fld := ⟨0x400014 + p * 0x10000, 24, 8⟩

/-- COR_KERNEL.QUEUE. -/
def corKernelQueue (p : Nat) : Fld := ⟨0x400014 + p * 0x10000, 0, 13⟩

/-- COR_TIMER.COUNT. -/
def corTimer (p : Nat) : Fld := ⟨0x400018 + p * 0x10000, 0, 32⟩

/-- COR_TIMER_CMP.CMP. -/
def corTimerCmp (p : Nat) : Fld := ⟨0x40001c + p * 0x10000, 0, 32⟩

/-- COR_CYCLES_LO.CYCLES. -/
def corCycles (p : Nat) : Fld := ⟨0x400020 + p * 0x10000, 0, 64⟩

/-- COR_FREEZE_CC_LO.FREEZE. -/
def corFreezeCc (p : Nat) : Fld := ⟨0x400028 + p * 0x10000, 0, 64⟩

/-- COR_ISSUE_FULL.STALLS. -/
def corIssueFull (p : Nat) : Fld := ⟨0x400030 + p * 0x10000, 0, 32⟩

/-- COR_SB_STALL.STALLS. -/
def corSbStall (p : Nat) : Fld := ⟨0x400034 + p * 0x10000, 0, 32⟩

/-- COR_SB_LIVE.LIVE. -/
def corSbLive (p : Nat) : Fld := ⟨0x400038 + p * 0x10000, 0, 32⟩

/-- COR_LAST_TAG.TAG. -/
def corLastTag (p : Nat) : Fld := ⟨0x40003c + p * 0x10000, 0, 6⟩

/-- COR_POST_STATUS.STATUS. -/
def corPostStatusStatus (p : Nat) : Fld := ⟨0x400040 + p * 0x10000, 24, 8⟩

/-- COR_POST_STATUS.REJECTS. -/
def corPostStatusRejects (p : Nat) : Fld := ⟨0x400040 + p * 0x10000, 0, 16⟩

/-- COR_QUEUE_WATCH.ENABLE. -/
def corQueueWatchEnable (p : Nat) : Fld := ⟨0x400044 + p * 0x10000, 31, 1⟩

/-- COR_QUEUE_WATCH.QUEUE. -/
def corQueueWatchQueue (p : Nat) : Fld := ⟨0x400044 + p * 0x10000, 0, 13⟩

/-- SPD_STATUS.DMA_ENTRIES. -/
def spdStatusDmaEntries (p : Nat) : Fld := ⟨0x404000 + p * 0x10000, 24, 4⟩

/-- SPD_STATUS.INBOUND_ROWS. -/
def spdStatusInboundRows (p : Nat) : Fld := ⟨0x404000 + p * 0x10000, 16, 5⟩

/-- SPD_STATUS.POWERED. -/
def spdStatusPowered (p : Nat) : Fld := ⟨0x404000 + p * 0x10000, 0, 16⟩

/-- SPD_RETAIN.AUTO_WAKE. -/
def spdRetainAutoWake (p : Nat) : Fld := ⟨0x404004 + p * 0x10000, 31, 1⟩

/-- SPD_RETAIN.RETAIN. -/
def spdRetainRetain (p : Nat) : Fld := ⟨0x404004 + p * 0x10000, 0, 16⟩

/-- SPD_CONFLICTS.COUNT. -/
def spdConflicts (p : Nat) : Fld := ⟨0x404008 + p * 0x10000, 0, 32⟩

/-- SPD_CONFLICT_LAST.BANK. -/
def spdConflictLastBank (p : Nat) : Fld := ⟨0x40400c + p * 0x10000, 28, 4⟩

/-- SPD_CONFLICT_LAST.KIND. -/
def spdConflictLastKind (p : Nat) : Fld := ⟨0x40400c + p * 0x10000, 27, 1⟩

/-- SPD_CONFLICT_LAST.UNIT. -/
def spdConflictLastUnit (p : Nat) : Fld := ⟨0x40400c + p * 0x10000, 24, 3⟩

/-- SPD_CONFLICT_LAST.OTHER_Q. -/
def spdConflictLastOtherQ (p : Nat) : Fld := ⟨0x40400c + p * 0x10000, 22, 2⟩

/-- SPD_CONFLICT_LAST.PC. -/
def spdConflictLastPc (p : Nat) : Fld := ⟨0x40400c + p * 0x10000, 0, 13⟩

/-- SPD_ECC_CE.COUNT. -/
def spdEccCe (p : Nat) : Fld := ⟨0x404010 + p * 0x10000, 0, 32⟩

/-- SPD_ECC_LAST.UE. -/
def spdEccLastUe (p : Nat) : Fld := ⟨0x404014 + p * 0x10000, 31, 1⟩

/-- SPD_ECC_LAST.VALID. -/
def spdEccLastValid (p : Nat) : Fld := ⟨0x404014 + p * 0x10000, 30, 1⟩

/-- SPD_ECC_LAST.BANK. -/
def spdEccLastBank (p : Nat) : Fld := ⟨0x404014 + p * 0x10000, 26, 4⟩

/-- SPD_ECC_LAST.ROW. -/
def spdEccLastRow (p : Nat) : Fld := ⟨0x404014 + p * 0x10000, 16, 10⟩

/-- SPD_ECC_LAST.WORD. -/
def spdEccLastWord (p : Nat) : Fld := ⟨0x404014 + p * 0x10000, 0, 6⟩

/-- SPD_INBOUND_WAIT.CYCLES. -/
def spdInboundWait (p : Nat) : Fld := ⟨0x404018 + p * 0x10000, 0, 32⟩

/-- SPD_DMA_SB_WAIT.CYCLES. -/
def spdDmaSbWait (p : Nat) : Fld := ⟨0x40401c + p * 0x10000, 0, 32⟩

/-- SPD_MEM_WAKES.COUNT. -/
def spdMemWakes (p : Nat) : Fld := ⟨0x404020 + p * 0x10000, 0, 32⟩

/-- SPD_PD_REJECT.COUNT. -/
def spdPdReject (p : Nat) : Fld := ⟨0x404024 + p * 0x10000, 0, 32⟩

/-- SPD_SB_Ai.VALID. -/
def spdSbAValid (p : Nat) (i : Nat) : Fld := ⟨0x404100 + p * 0x10000 + i * 0x8, 31, 1⟩

/-- SPD_SB_Ai.KIND. -/
def spdSbAKind (p : Nat) (i : Nat) : Fld := ⟨0x404100 + p * 0x10000 + i * 0x8, 30, 1⟩

/-- SPD_SB_Ai.SOURCE. -/
def spdSbASource (p : Nat) (i : Nat) : Fld := ⟨0x404100 + p * 0x10000 + i * 0x8, 28, 2⟩

/-- SPD_SB_Ai.FIRST_ROW. -/
def spdSbAFirstRow (p : Nat) (i : Nat) : Fld := ⟨0x404100 + p * 0x10000 + i * 0x8, 0, 16⟩

/-- SPD_SB_Bi.ENGINE. -/
def spdSbBEngine (p : Nat) (i : Nat) : Fld := ⟨0x404104 + p * 0x10000 + i * 0x8, 22, 3⟩

/-- SPD_SB_Bi.ORIGIN. -/
def spdSbBOrigin (p : Nat) (i : Nat) : Fld := ⟨0x404104 + p * 0x10000 + i * 0x8, 16, 6⟩

/-- SPD_SB_Bi.LAST_ROW. -/
def spdSbBLastRow (p : Nat) (i : Nat) : Fld := ⟨0x404104 + p * 0x10000 + i * 0x8, 0, 16⟩

/-- MXE_STATUS.BUSY. -/
def mxeStatusBusy (p : Nat) : Fld := ⟨0x408000 + p * 0x10000, 31, 1⟩

/-- MXE_STATUS.ACC_HELD. -/
def mxeStatusAccHeld (p : Nat) : Fld := ⟨0x408000 + p * 0x10000, 30, 1⟩

/-- MXE_STATUS.TAG. -/
def mxeStatusTag (p : Nat) : Fld := ⟨0x408000 + p * 0x10000, 24, 6⟩

/-- MXE_STATUS.A_SOURCE. -/
def mxeStatusASource (p : Nat) : Fld := ⟨0x408000 + p * 0x10000, 16, 2⟩

/-- MXE_STATUS.BLOCK. -/
def mxeStatusBlock (p : Nat) : Fld := ⟨0x408000 + p * 0x10000, 0, 10⟩

/-- MXE_SR_CTL.FIXED. -/
def mxeSrCtlFixed (p : Nat) : Fld := ⟨0x408004 + p * 0x10000, 31, 1⟩

/-- MXE_SR_CTL.RESEED. -/
def mxeSrCtlReseed (p : Nat) : Fld := ⟨0x408004 + p * 0x10000, 0, 1⟩

/-- MXE_SR_SEED_LO.SEED. -/
def mxeSrSeed (p : Nat) : Fld := ⟨0x408008 + p * 0x10000, 0, 64⟩

/-- MXE_MACS_LO.MACS. -/
def mxeMacs (p : Nat) : Fld := ⟨0x408010 + p * 0x10000, 0, 64⟩

/-- MXE_BUSY_CC_LO.CYCLES. -/
def mxeBusyCc (p : Nat) : Fld := ⟨0x408018 + p * 0x10000, 0, 64⟩

/-- MXE_DESCS.COUNT. -/
def mxeDescs (p : Nat) : Fld := ⟨0x408020 + p * 0x10000, 0, 32⟩

/-- MXE_NAN_OUT.COUNT. -/
def mxeNanOut (p : Nat) : Fld := ⟨0x408024 + p * 0x10000, 0, 32⟩

/-- MXE_T2_BAD.COUNT. -/
def mxeT2Bad (p : Nat) : Fld := ⟨0x408028 + p * 0x10000, 0, 32⟩

/-- MXE_ACC_DROP.COUNT. -/
def mxeAccDrop (p : Nat) : Fld := ⟨0x40802c + p * 0x10000, 0, 32⟩

/-- MXE_STALL_CC.CYCLES. -/
def mxeStallCc (p : Nat) : Fld := ⟨0x408030 + p * 0x10000, 0, 32⟩

/-- MXE_LAST_ERROR.REASON. -/
def mxeLastErrorReason (p : Nat) : Fld := ⟨0x408034 + p * 0x10000, 24, 8⟩

/-- MXE_LAST_ERROR.TAG. -/
def mxeLastErrorTag (p : Nat) : Fld := ⟨0x408034 + p * 0x10000, 18, 6⟩

/-- MXE_GUARD_STATUS.RECORDS. -/
def mxeGuardStatus (p : Nat) : Fld := ⟨0x408100 + p * 0x10000, 16, 5⟩

/-- MXE_GUARD_POP.POP. -/
def mxeGuardPop (p : Nat) : Fld := ⟨0x408104 + p * 0x10000, 0, 1⟩

/-- MXE_GUARD_RECk.WORD. -/
def mxeGuardRec (p : Nat) (k : Nat) : Fld := ⟨0x408110 + p * 0x10000 + k * 0x4, 0, 32⟩

/-- MXE_GUARD_TILES.COUNT. -/
def mxeGuardTiles (p : Nat) : Fld := ⟨0x408120 + p * 0x10000, 0, 32⟩

/-- MXE_GUARD_PASSED.COUNT. -/
def mxeGuardPassed (p : Nat) : Fld := ⟨0x408124 + p * 0x10000, 0, 32⟩

/-- MXE_GUARD_WIDEN.COUNT. -/
def mxeGuardWiden (p : Nat) : Fld := ⟨0x408128 + p * 0x10000, 0, 32⟩

/-- MXE_GUARD_RESCALE.COUNT. -/
def mxeGuardRescale (p : Nat) : Fld := ⟨0x40812c + p * 0x10000, 0, 32⟩

/-- MXE_GUARD_SPILL_FULL.COUNT. -/
def mxeGuardSpillFull (p : Nat) : Fld := ⟨0x408130 + p * 0x10000, 0, 32⟩

/-- MXE_GUARD_RESIDUAL.COUNT. -/
def mxeGuardResidual (p : Nat) : Fld := ⟨0x408134 + p * 0x10000, 0, 32⟩

/-- MXE_GUARD_REC_LOST.COUNT. -/
def mxeGuardRecLost (p : Nat) : Fld := ⟨0x408138 + p * 0x10000, 0, 32⟩

/-- MXE_GUARD_SAT_LO.SAT. -/
def mxeGuardSat (p : Nat) : Fld := ⟨0x408140 + p * 0x10000, 0, 64⟩

/-- MXE_GUARD_UFL_LO.UFL. -/
def mxeGuardUfl (p : Nat) : Fld := ⟨0x408148 + p * 0x10000, 0, 64⟩

/-- VXE_STATUS.BUSY. -/
def vxeStatusBusy (p : Nat) : Fld := ⟨0x40c000 + p * 0x10000, 31, 1⟩

/-- VXE_STATUS.TAG. -/
def vxeStatusTag (p : Nat) : Fld := ⟨0x40c000 + p * 0x10000, 24, 6⟩

/-- VXE_STATUS.INTERVAL. -/
def vxeStatusInterval (p : Nat) : Fld := ⟨0x40c000 + p * 0x10000, 20, 4⟩

/-- VXE_STATUS.STAGES. -/
def vxeStatusStages (p : Nat) : Fld := ⟨0x40c000 + p * 0x10000, 16, 4⟩

/-- VXE_STATUS.ROW. -/
def vxeStatusRow (p : Nat) : Fld := ⟨0x40c000 + p * 0x10000, 0, 16⟩

/-- VXE_SR_CTL.FIXED. -/
def vxeSrCtlFixed (p : Nat) : Fld := ⟨0x40c004 + p * 0x10000, 31, 1⟩

/-- VXE_SR_CTL.RESEED. -/
def vxeSrCtlReseed (p : Nat) : Fld := ⟨0x40c004 + p * 0x10000, 0, 1⟩

/-- VXE_SR_SEED_LO.SEED. -/
def vxeSrSeed (p : Nat) : Fld := ⟨0x40c008 + p * 0x10000, 0, 64⟩

/-- VXE_ROWS_LO.ROWS. -/
def vxeRows (p : Nat) : Fld := ⟨0x40c010 + p * 0x10000, 0, 64⟩

/-- VXE_BUSY_CC_LO.CYCLES. -/
def vxeBusyCc (p : Nat) : Fld := ⟨0x40c018 + p * 0x10000, 0, 64⟩

/-- VXE_DESCS.COUNT. -/
def vxeDescs (p : Nat) : Fld := ⟨0x40c020 + p * 0x10000, 0, 32⟩

/-- VXE_FLAGS.FLAGS. -/
def vxeFlags (p : Nat) : Fld := ⟨0x40c024 + p * 0x10000, 0, 9⟩

/-- VXE_NAN_OUT.COUNT. -/
def vxeNanOut (p : Nat) : Fld := ⟨0x40c028 + p * 0x10000, 0, 32⟩

/-- VXE_QUANT_SAT.COUNT. -/
def vxeQuantSat (p : Nat) : Fld := ⟨0x40c02c + p * 0x10000, 0, 32⟩

/-- VXE_T2_BAD.COUNT. -/
def vxeT2Bad (p : Nat) : Fld := ⟨0x40c030 + p * 0x10000, 0, 32⟩

/-- VXE_STALL_CC.CYCLES. -/
def vxeStallCc (p : Nat) : Fld := ⟨0x40c034 + p * 0x10000, 0, 32⟩

/-- VXE_LAST_ERROR.REASON. -/
def vxeLastErrorReason (p : Nat) : Fld := ⟨0x40c038 + p * 0x10000, 24, 8⟩

/-- VXE_LAST_ERROR.TAG. -/
def vxeLastErrorTag (p : Nat) : Fld := ⟨0x40c038 + p * 0x10000, 18, 6⟩

/-- VXE_LAST_ERROR.STAGE. -/
def vxeLastErrorStage (p : Nat) : Fld := ⟨0x40c038 + p * 0x10000, 14, 4⟩

/-- PLN_PERIOD.PERIOD. -/
def plnPeriod : Fld := ⟨0x80000, 0, 13⟩

/-- PLN_OPEN.DIV. -/
def plnOpen : Fld := ⟨0x80004, 0, 2⟩

/-- PLN_HALF_W.STALLED. -/
def plnHalfStalled (h : Nat) : Fld := ⟨0x80008 + h * 0x4, 31, 1⟩

/-- PLN_HALF_W.INDEX. -/
def plnHalfIndex (h : Nat) : Fld := ⟨0x80008 + h * 0x4, 0, 13⟩

/-- PLN_STALL_CC_W.CYCLES. -/
def plnStallCc (h : Nat) : Fld := ⟨0x80010 + h * 0x4, 0, 32⟩

/-- PLN_ROUTER_FAILED.FAILED. -/
def plnRouterFailed : Fld := ⟨0x80018, 0, 24⟩

/-- PLN_LAST_REJECT.REASON. -/
def plnLastRejectReason : Fld := ⟨0x8001c, 24, 8⟩

/-- PLN_LAST_REJECT.QUEUE. -/
def plnLastRejectQueue : Fld := ⟨0x8001c, 0, 13⟩

/-- PLN_BLOCKS.LOADED. -/
def plnBlocks : Fld := ⟨0x80020, 0, 5⟩

/-- PLN_RTR_STATUS.FAILED. -/
def plnRtrStatusFailed (c : Nat) : Fld := ⟨0x81000 + c * 0x1000, 31, 1⟩

/-- PLN_RTR_STATUS.ACC_OWNED. -/
def plnRtrStatusAccOwned (c : Nat) : Fld := ⟨0x81000 + c * 0x1000, 30, 1⟩

/-- PLN_RTR_STATUS.STREAMS. -/
def plnRtrStatusStreams (c : Nat) : Fld := ⟨0x81000 + c * 0x1000, 0, 16⟩

/-- PLN_RTR_STILE_LATE.COUNT. -/
def plnRtrStileLate (c : Nat) : Fld := ⟨0x81004 + c * 0x1000, 0, 32⟩

/-- PLN_RTR_STILE_LATE_CC.CYCLES. -/
def plnRtrStileLateCc (c : Nat) : Fld := ⟨0x81008 + c * 0x1000, 0, 32⟩

/-- PLN_RTR_SB_WAIT.CYCLES. -/
def plnRtrSbWait (c : Nat) : Fld := ⟨0x8100c + c * 0x1000, 0, 32⟩

/-- PLN_RTR_REL_MISS.COUNT. -/
def plnRtrRelMiss (c : Nat) : Fld := ⟨0x81010 + c * 0x1000, 0, 32⟩

/-- PLN_RTR_DEAD_RX.COUNT. -/
def plnRtrDeadRx (c : Nat) : Fld := ⟨0x81014 + c * 0x1000, 0, 32⟩

/-- PLN_RTR_ECC_CE.COUNT. -/
def plnRtrEccCe (c : Nat) : Fld := ⟨0x81018 + c * 0x1000, 0, 32⟩

/-- PLN_RTR_REDUCE.COUNT. -/
def plnRtrReduce (c : Nat) : Fld := ⟨0x8101c + c * 0x1000, 0, 32⟩

/-- PLN_RTR_SCHED_LO.ROWS. -/
def plnRtrSched (c : Nat) : Fld := ⟨0x81020 + c * 0x1000, 0, 64⟩

/-- PLN_RTR_OPEN_LO.ROWS. -/
def plnRtrOpen (c : Nat) : Fld := ⟨0x81028 + c * 0x1000, 0, 64⟩

/-- PLN_ADP_STATUS.OPEN_ROWS. -/
def plnAdpStatusOpenRows (a : Nat) : Fld := ⟨0x99000 + a * 0x200, 16, 9⟩

/-- PLN_ADP_STATUS.STREAM_ROWS. -/
def plnAdpStatusStreamRows (a : Nat) : Fld := ⟨0x99000 + a * 0x200, 8, 8⟩

/-- PLN_ADP_STATUS.BOUND. -/
def plnAdpStatusBound (a : Nat) : Fld := ⟨0x99000 + a * 0x200, 0, 4⟩

/-- PLN_ADP_STREAMk.ROWS. -/
def plnAdpStreamRows (a : Nat) (k : Nat) : Fld := ⟨0x99010 + a * 0x200 + k * 0x4, 24, 8⟩

/-- PLN_ADP_STREAMk.NEXT. -/
def plnAdpStreamNext (a : Nat) (k : Nat) : Fld := ⟨0x99010 + a * 0x200 + k * 0x4, 0, 24⟩

/-- PLN_ADP_AHEAD.CYCLES. -/
def plnAdpAhead (a : Nat) : Fld := ⟨0x99020 + a * 0x200, 0, 32⟩

/-- PLN_ADP_MISFIT.COUNT. -/
def plnAdpMisfit (a : Nat) : Fld := ⟨0x99024 + a * 0x200, 0, 32⟩

/-- PLN_ADP_NAK.COUNT. -/
def plnAdpNak (a : Nat) : Fld := ⟨0x99028 + a * 0x200, 0, 32⟩

/-- PLN_ADP_CREDIT_HOLD.CYCLES. -/
def plnAdpCreditHold (a : Nat) : Fld := ⟨0x9902c + a * 0x200, 0, 32⟩

/-- PLN_ADP_DISCARD.COUNT. -/
def plnAdpDiscard (a : Nat) : Fld := ⟨0x99030 + a * 0x200, 0, 32⟩

/-- QUE_CFG.TYPE. -/
def queCfgType (q : Nat) : Fld := ⟨0x100000 + q * 0x80, 29, 3⟩

/-- QUE_CFG.ENABLED. -/
def queCfgEnabled (q : Nat) : Fld := ⟨0x100000 + q * 0x80, 28, 1⟩

/-- QUE_CFG.LOG2_ENTRIES. -/
def queCfgLog2Entries (q : Nat) : Fld := ⟨0x100000 + q * 0x80, 24, 4⟩

/-- QUE_CFG.PRIORITY. -/
def queCfgPriority (q : Nat) : Fld := ⟨0x100000 + q * 0x80, 22, 2⟩

/-- QUE_CFG.ENGINE. -/
def queCfgEngine (q : Nat) : Fld := ⟨0x100000 + q * 0x80, 19, 3⟩

/-- QUE_CFG.CHANNEL. -/
def queCfgChannel (q : Nat) : Fld := ⟨0x100000 + q * 0x80, 13, 6⟩

/-- QUE_CFG.ACCOUNT. -/
def queCfgAccount (q : Nat) : Fld := ⟨0x100000 + q * 0x80, 0, 8⟩

/-- QUE_SEASON.SEASON. -/
def queSeason (q : Nat) : Fld := ⟨0x100004 + q * 0x80, 0, 16⟩

/-- QUE_BASE_LO.BASE. -/
def queBase (q : Nat) : Fld := ⟨0x100008 + q * 0x80, 0, 64⟩

/-- QUE_HEAD.INDEX. -/
def queHead (q : Nat) : Fld := ⟨0x100010 + q * 0x80, 0, 16⟩

/-- QUE_HEAD.INDEX. -/
def queTail (q : Nat) : Fld := ⟨0x100014 + q * 0x80, 0, 16⟩

/-- QUE_CQ.VALID. -/
def queCqValid (q : Nat) : Fld := ⟨0x100018 + q * 0x80, 31, 1⟩

/-- QUE_CQ.CONTEXT. -/
def queCqContext (q : Nat) : Fld := ⟨0x100018 + q * 0x80, 0, 13⟩

/-- QUE_CQ.VALID. -/
def queEqValid (q : Nat) : Fld := ⟨0x10001c + q * 0x80, 31, 1⟩

/-- QUE_CQ.CONTEXT. -/
def queEqContext (q : Nat) : Fld := ⟨0x10001c + q * 0x80, 0, 13⟩

/-- QUE_NOTIFY.EN. -/
def queNotifyEn (q : Nat) : Fld := ⟨0x100020 + q * 0x80, 31, 1⟩

/-- QUE_NOTIFY.BINDER. -/
def queNotifyBinder (q : Nat) : Fld := ⟨0x100020 + q * 0x80, 0, 13⟩

/-- QUE_STATUS.HALTED. -/
def queStatusHalted (q : Nat) : Fld := ⟨0x100024 + q * 0x80, 31, 1⟩

/-- QUE_STATUS.PAUSED. -/
def queStatusPaused (q : Nat) : Fld := ⟨0x100024 + q * 0x80, 30, 1⟩

/-- QUE_STATUS.HELD. -/
def queStatusHeld (q : Nat) : Fld := ⟨0x100024 + q * 0x80, 29, 1⟩

/-- QUE_STATUS.OWN_MISS. -/
def queStatusOwnMiss (q : Nat) : Fld := ⟨0x100024 + q * 0x80, 28, 1⟩

/-- QUE_STATUS.OVERFLOW. -/
def queStatusOverflow (q : Nat) : Fld := ⟨0x100024 + q * 0x80, 27, 1⟩

/-- QUE_STATUS.LAST_STATUS. -/
def queStatusLastStatus (q : Nat) : Fld := ⟨0x100024 + q * 0x80, 0, 8⟩

/-- QUE_ENTRIES.COUNT. -/
def queEntries (q : Nat) : Fld := ⟨0x100028 + q * 0x80, 0, 32⟩

/-- QUE_FULL_CC.CYCLES. -/
def queFullCc (q : Nat) : Fld := ⟨0x10002c + q * 0x80, 0, 32⟩

/-- QUE_DB_REJECT.COUNT. -/
def queDbReject (q : Nat) : Fld := ⟨0x100030 + q * 0x80, 0, 32⟩

/-- QUE_DROPPED.COUNT. -/
def queDropped (q : Nat) : Fld := ⟨0x100034 + q * 0x80, 0, 32⟩

/-- QUE_ENERGY_LO.ENERGY. -/
def queEnergy (q : Nat) : Fld := ⟨0x100038 + q * 0x80, 0, 64⟩

/-- DMA_ENG_STATUS.BUFFERED. -/
def dmaEngStatusBuffered (e : Nat) : Fld := ⟨0xa0000 + e * 0x8000, 12, 11⟩

/-- DMA_ENG_STATUS.ACTIVE. -/
def dmaEngStatusActive (e : Nat) : Fld := ⟨0xa0000 + e * 0x8000, 0, 7⟩

/-- DMA_ENG_BEATS_LO.BEATS. -/
def dmaEngBeats (e : Nat) : Fld := ⟨0xa0008 + e * 0x8000, 0, 64⟩

/-- DMA_ENG_HALTED0.HALTED. -/
def dmaEngHalted (e : Nat) (k : Nat) : Fld := ⟨0xa0010 + e * 0x8000 + k * 0x4, 0, 32⟩

/-- DMA_CH_STATUS.STATE. -/
def dmaChStatusState (e : Nat) (j : Nat) : Fld := ⟨0xa4000 + e * 0x8000 + j * 0x100, 29, 3⟩

/-- DMA_CH_STATUS.PRIORITY. -/
def dmaChStatusPriority (e : Nat) (j : Nat) : Fld := ⟨0xa4000 + e * 0x8000 + j * 0x100, 27, 2⟩

/-- DMA_CH_STATUS.RETRIES. -/
def dmaChStatusRetries (e : Nat) (j : Nat) : Fld := ⟨0xa4000 + e * 0x8000 + j * 0x100, 24, 3⟩

/-- DMA_CH_STATUS.LAST_STATUS. -/
def dmaChStatusLastStatus (e : Nat) (j : Nat) : Fld := ⟨0xa4000 + e * 0x8000 + j * 0x100, 16, 8⟩

/-- DMA_CH_STATUS.QUEUE. -/
def dmaChStatusQueue (e : Nat) (j : Nat) : Fld := ⟨0xa4000 + e * 0x8000 + j * 0x100, 0, 13⟩

/-- DMA_CH_CTL.FUNNEL_EN. -/
def dmaChCtlFunnelEn (e : Nat) (j : Nat) : Fld := ⟨0xa4004 + e * 0x8000 + j * 0x100, 8, 1⟩

/-- DMA_CH_CTL.RETRY_LIMIT. -/
def dmaChCtlRetryLimit (e : Nat) (j : Nat) : Fld := ⟨0xa4004 + e * 0x8000 + j * 0x100, 0, 3⟩

/-- DMA_CH_SRC_LO.SRC. -/
def dmaChSrc (e : Nat) (j : Nat) : Fld := ⟨0xa4008 + e * 0x8000 + j * 0x100, 0, 64⟩

/-- DMA_CH_DST_LO.DST. -/
def dmaChDst (e : Nat) (j : Nat) : Fld := ⟨0xa4010 + e * 0x8000 + j * 0x100, 0, 64⟩

/-- DMA_CH_REMAIN.BYTES. -/
def dmaChRemain (e : Nat) (j : Nat) : Fld := ⟨0xa4018 + e * 0x8000 + j * 0x100, 0, 32⟩

/-- DMA_CH_BUF.OUTSTANDING. -/
def dmaChBuf (e : Nat) (j : Nat) : Fld := ⟨0xa401c + e * 0x8000 + j * 0x100, 8, 9⟩

/-- DMA_CH_CRC_LO.CRC. -/
def dmaChCrc (e : Nat) (j : Nat) : Fld := ⟨0xa4020 + e * 0x8000 + j * 0x100, 0, 64⟩

/-- DMA_CH_BYTES_LO.BYTES. -/
def dmaChBytes (e : Nat) (j : Nat) : Fld := ⟨0xa4028 + e * 0x8000 + j * 0x100, 0, 64⟩

/-- DMA_CH_RETRY_CNT.COUNT. -/
def dmaChRetryCnt (e : Nat) (j : Nat) : Fld := ⟨0xa4030 + e * 0x8000 + j * 0x100, 0, 32⟩

/-- DMA_CH_PREEMPT_CC.CYCLES. -/
def dmaChPreemptCc (e : Nat) (j : Nat) : Fld := ⟨0xa4034 + e * 0x8000 + j * 0x100, 0, 32⟩

/-- BND_CFG.ARMED. -/
def bndCfgArmed (b : Nat) : Fld := ⟨0x200000 + b * 0x40, 31, 1⟩

/-- BND_CFG.PACE. -/
def bndCfgPace (b : Nat) : Fld := ⟨0x200000 + b * 0x40, 30, 1⟩

/-- BND_CFG.LIST_COUNT. -/
def bndCfgListCount (b : Nat) : Fld := ⟨0x200000 + b * 0x40, 22, 8⟩

/-- BND_CFG.LIST_FIRST. -/
def bndCfgListFirst (b : Nat) : Fld := ⟨0x200000 + b * 0x40, 0, 14⟩

/-- BND_STEP.STEP. -/
def bndStep (b : Nat) : Fld := ⟨0x200004 + b * 0x40, 0, 32⟩

/-- BND_COUNT_LO.COUNT. -/
def bndCount (b : Nat) : Fld := ⟨0x200008 + b * 0x40, 0, 64⟩

/-- BND_TARGET_LO.TARGET. -/
def bndTarget (b : Nat) : Fld := ⟨0x200010 + b * 0x40, 0, 64⟩

/-- BND_UP_LO.UP. -/
def bndUp (b : Nat) : Fld := ⟨0x200018 + b * 0x40, 0, 64⟩

/-- BND_RELEASES.RELEASES. -/
def bndReleases (b : Nat) : Fld := ⟨0x200020 + b * 0x40, 0, 32⟩

/-- BND_PENDING_UP.PENDING. -/
def bndPendingUp (b : Nat) : Fld := ⟨0x200024 + b * 0x40, 0, 32⟩

/-- BND_WAITERSk.WAITING. -/
def bndWaiters (b : Nat) (k : Nat) : Fld := ⟨0x200028 + b * 0x40 + k * 0x4, 0, 32⟩

/-- WIN_CFG.STATE. -/
def winCfgState (w : Nat) : Fld := ⟨0x280000 + w * 0x40, 30, 2⟩

/-- WIN_CFG.ACCEPT_UNTAGGED. -/
def winCfgAcceptUntagged (w : Nat) : Fld := ⟨0x280000 + w * 0x40, 29, 1⟩

/-- WIN_CFG.COUNT_EN. -/
def winCfgCountEn (w : Nat) : Fld := ⟨0x280000 + w * 0x40, 28, 1⟩

/-- WIN_CFG.STREAM. -/
def winCfgStream (w : Nat) : Fld := ⟨0x280000 + w * 0x40, 27, 1⟩

/-- WIN_CFG.COUNT_BINDER. -/
def winCfgCountBinder (w : Nat) : Fld := ⟨0x280000 + w * 0x40, 0, 13⟩

/-- WIN_SEASON.SEASON. -/
def winSeason (w : Nat) : Fld := ⟨0x280004 + w * 0x40, 0, 16⟩

/-- WIN_BASE.BASE. -/
def winBase (w : Nat) : Fld := ⟨0x280008 + w * 0x40, 0, 29⟩

/-- WIN_LENGTH.LENGTH. -/
def winLength (w : Nat) : Fld := ⟨0x28000c + w * 0x40, 0, 29⟩

/-- WIN_ACCEPTED.COUNT. -/
def winAccepted (w : Nat) : Fld := ⟨0x280010 + w * 0x40, 0, 32⟩

/-- WIN_CLOSED_NAK.COUNT. -/
def winClosedNak (w : Nat) : Fld := ⟨0x280014 + w * 0x40, 0, 32⟩

/-- WIN_STALE_NAK.COUNT. -/
def winStaleNak (w : Nat) : Fld := ⟨0x280018 + w * 0x40, 0, 32⟩

/-- WIN_UNTAGGED.COUNT. -/
def winUntagged (w : Nat) : Fld := ⟨0x28001c + w * 0x40, 0, 32⟩

/-- WIN_OTHER_NAK.COUNT. -/
def winOtherNak (w : Nat) : Fld := ⟨0x280020 + w * 0x40, 0, 32⟩

/-- WIN_BYTES_LO.BYTES. -/
def winBytes (w : Nat) : Fld := ⟨0x280028 + w * 0x40, 0, 64⟩

/-- WIN_ROLE_CFG.ASSIGNED. -/
def winRoleCfgAssigned (r : Nat) : Fld := ⟨0x290000 + r * 0x40, 31, 1⟩

/-- WIN_ROLE_CFG.CORES. -/
def winRoleCfgCores (r : Nat) : Fld := ⟨0x290000 + r * 0x40, 0, 7⟩

/-- WIN_ROLE_NAME.NAME. -/
def winRoleName (r : Nat) : Fld := ⟨0x290004 + r * 0x40, 0, 32⟩

/-- WIN_ROLE_SEASON.SEASON. -/
def winRoleSeason (r : Nat) : Fld := ⟨0x290008 + r * 0x40, 0, 16⟩

/-- WIN_ROLE_CORESk.SET. -/
def winRoleCores (r : Nat) (k : Nat) : Fld := ⟨0x29000c + r * 0x40 + k * 0x4, 0, 32⟩

/-- WIN_ROLE_PENDING.BITS. -/
def winRolePending (r : Nat) : Fld := ⟨0x290018 + r * 0x40, 0, 16⟩

/-- WIN_ROLE_PULSES.COUNT. -/
def winRolePulses (r : Nat) : Fld := ⟨0x29001c + r * 0x40, 0, 32⟩

/-- WIN_ROLE_STALE.COUNT. -/
def winRoleStale (r : Nat) : Fld := ⟨0x290020 + r * 0x40, 0, 32⟩

/-- BND_UNIT_STATUS.INQ. -/
def bndUnitStatusInq : Fld := ⟨0x298000, 16, 9⟩

/-- BND_UNIT_STATUS.LIST_USED. -/
def bndUnitStatusListUsed : Fld := ⟨0x298000, 0, 15⟩

/-- BND_INCAST_CC.CYCLES. -/
def bndIncastCc : Fld := ⟨0x298004, 0, 32⟩

/-- BND_INCAST_PEAK.PEAK. -/
def bndIncastPeak : Fld := ⟨0x298008, 0, 9⟩

/-- BND_COMBINED.COUNT. -/
def bndCombined : Fld := ⟨0x29800c, 0, 32⟩

/-- BND_REJECT.COUNT. -/
def bndReject : Fld := ⟨0x298010, 0, 32⟩

/-- BND_DROPPED.COUNT. -/
def bndDropped : Fld := ⟨0x298014, 0, 32⟩

/-- WIN_BAD_WINDOW.COUNT. -/
def winBadWindow : Fld := ⟨0x298018, 0, 32⟩

/-- BND_OUT_FULL_CC.CYCLES. -/
def bndOutFullCc : Fld := ⟨0x29801c, 0, 32⟩

/-- LNK_UP.UP. -/
def lnkUp : Fld := ⟨0xe0000, 0, 32⟩

/-- LNK_TRICKLE.TRICKLE. -/
def lnkTrickle : Fld := ⟨0xe0004, 0, 32⟩

/-- LNK_DOWNGRADED.DOWNGRADED. -/
def lnkDowngraded : Fld := ⟨0xe0008, 0, 32⟩

/-- LNK_QUAL.STRESS_V. -/
def lnkQualStressV : Fld := ⟨0xe000c, 24, 8⟩

/-- LNK_QUAL.STRESS_H. -/
def lnkQualStressH : Fld := ⟨0xe000c, 16, 8⟩

/-- LNK_QUAL.LIMIT. -/
def lnkQualLimit : Fld := ⟨0xe000c, 0, 16⟩

/-- LNK_STATUS.STATE. -/
def lnkStatusState (i : Nat) : Fld := ⟨0xe1000 + i * 0x800, 28, 4⟩

/-- LNK_STATUS.WIDTH. -/
def lnkStatusWidth (i : Nat) : Fld := ⟨0xe1000 + i * 0x800, 17, 7⟩

/-- LNK_STATUS.CLASS. -/
def lnkStatusClass (i : Nat) : Fld := ⟨0xe1000 + i * 0x800, 15, 2⟩

/-- LNK_STATUS.MASTER. -/
def lnkStatusMaster (i : Nat) : Fld := ⟨0xe1000 + i * 0x800, 14, 1⟩

/-- LNK_STATUS.ATTEMPTS. -/
def lnkStatusAttempts (i : Nat) : Fld := ⟨0xe1000 + i * 0x800, 12, 2⟩

/-- LNK_CTL.LANE_DROP_EN. -/
def lnkCtlLaneDropEn (i : Nat) : Fld := ⟨0xe1004 + i * 0x800, 2, 1⟩

/-- LNK_CTL.CHECK_EN. -/
def lnkCtlCheckEn (i : Nat) : Fld := ⟨0xe1004 + i * 0x800, 1, 1⟩

/-- LNK_CTL.RETRAIN. -/
def lnkCtlRetrain (i : Nat) : Fld := ⟨0xe1004 + i * 0x800, 0, 1⟩

/-- LNK_EPOCH.EPOCH. -/
def lnkEpoch (i : Nat) : Fld := ⟨0xe1008 + i * 0x800, 0, 16⟩

/-- LNK_VERSION.AGREED. -/
def lnkVersionAgreed (i : Nat) : Fld := ⟨0xe100c + i * 0x800, 24, 8⟩

/-- LNK_VERSION.PARTNER_MIN. -/
def lnkVersionPartnerMin (i : Nat) : Fld := ⟨0xe100c + i * 0x800, 16, 8⟩

/-- LNK_VERSION.PARTNER_MAX. -/
def lnkVersionPartnerMax (i : Nat) : Fld := ⟨0xe100c + i * 0x800, 8, 8⟩

/-- LNK_VERSION.DOWNGRADED. -/
def lnkVersionDowngraded (i : Nat) : Fld := ⟨0xe100c + i * 0x800, 0, 1⟩

/-- LNK_GOOD_LO.GOOD. -/
def lnkGood (i : Nat) : Fld := ⟨0xe1010 + i * 0x800, 0, 64⟩

/-- LNK_USED_LO.USED. -/
def lnkUsed (i : Nat) : Fld := ⟨0xe1018 + i * 0x800, 0, 64⟩

/-- LNK_PARTNER.PCLASS. -/
def lnkPartnerPclass (i : Nat) : Fld := ⟨0xe1020 + i * 0x800, 30, 2⟩

/-- LNK_PARTNER.DIE. -/
def lnkPartnerDie (i : Nat) : Fld := ⟨0xe1020 + i * 0x800, 0, 17⟩

/-- LNK_LAST_FAIL.REASON. -/
def lnkLastFailReason (i : Nat) : Fld := ⟨0xe1024 + i * 0x800, 24, 8⟩

/-- LNK_LAST_FAIL.STATE. -/
def lnkLastFailState (i : Nat) : Fld := ⟨0xe1024 + i * 0x800, 20, 4⟩

/-- LNK_RETRY.COUNT. -/
def lnkRetry (i : Nat) : Fld := ⟨0xe1028 + i * 0x800, 0, 32⟩

/-- LNK_CRC_ERR.COUNT. -/
def lnkCrcErr (i : Nat) : Fld := ⟨0xe102c + i * 0x800, 0, 32⟩

/-- LNK_ESCALATE.COUNT. -/
def lnkEscalate (i : Nat) : Fld := ⟨0xe1030 + i * 0x800, 0, 32⟩

/-- LNK_NARROWED.COUNT. -/
def lnkNarrowed (i : Nat) : Fld := ⟨0xe1034 + i * 0x800, 0, 32⟩

/-- LNK_DOWNS.COUNT. -/
def lnkDowns (i : Nat) : Fld := ⟨0xe1038 + i * 0x800, 0, 32⟩

/-- LNK_WAKES.COUNT. -/
def lnkWakes (i : Nat) : Fld := ⟨0xe103c + i * 0x800, 0, 32⟩

/-- LNK_CREDITk.GRANTED. -/
def lnkCreditGranted (i : Nat) (v : Nat) : Fld := ⟨0xe1040 + i * 0x800 + v * 0x4, 16, 16⟩

/-- LNK_CREDITk.HELD. -/
def lnkCreditHeld (i : Nat) (v : Nat) : Fld := ⟨0xe1040 + i * 0x800 + v * 0x4, 0, 16⟩

/-- LNK_VC_WAIT.FLITS. -/
def lnkVcWait (i : Nat) : Fld := ⟨0xe1058 + i * 0x800, 0, 32⟩

/-- LNK_TX_FLITS_LO.FLITS. -/
def lnkTxFlits (i : Nat) : Fld := ⟨0xe1060 + i * 0x800, 0, 64⟩

/-- LNK_RX_FLITS_LO.FLITS. -/
def lnkRxFlits (i : Nat) : Fld := ⟨0xe1068 + i * 0x800, 0, 64⟩

/-- LNK_LANE_ERRj.STRESSED. -/
def lnkLaneErrStressed (i : Nat) (j : Nat) : Fld := ⟨0xe1100 + i * 0x800 + j * 0x4, 16, 16⟩

/-- LNK_LANE_ERRj.NOMINAL. -/
def lnkLaneErrNominal (i : Nat) (j : Nat) : Fld := ⟨0xe1100 + i * 0x800 + j * 0x4, 0, 16⟩

/-- LNK_LANE_EQj.PRE. -/
def lnkLaneEqPre (i : Nat) (j : Nat) : Fld := ⟨0xe1200 + i * 0x800 + j * 0x4, 28, 4⟩

/-- LNK_LANE_EQj.MAIN. -/
def lnkLaneEqMain (i : Nat) (j : Nat) : Fld := ⟨0xe1200 + i * 0x800 + j * 0x4, 24, 4⟩

/-- LNK_LANE_EQj.POST. -/
def lnkLaneEqPost (i : Nat) (j : Nat) : Fld := ⟨0xe1200 + i * 0x800 + j * 0x4, 20, 4⟩

/-- LNK_LANE_EQj.CTLE. -/
def lnkLaneEqCtle (i : Nat) (j : Nat) : Fld := ⟨0xe1200 + i * 0x800 + j * 0x4, 16, 4⟩

/-- LNK_LANE_EQj.DFE. -/
def lnkLaneEqDfe (i : Nat) (j : Nat) : Fld := ⟨0xe1200 + i * 0x800 + j * 0x4, 12, 4⟩

/-- PWR_DIE_STATUS.STATE. -/
def pwrDieStatusState : Fld := ⟨0x20000, 30, 2⟩

/-- PWR_DIE_STATUS.PENDING. -/
def pwrDieStatusPending : Fld := ⟨0x20000, 29, 1⟩

/-- PWR_DIE_STATUS.PENDING_STATE. -/
def pwrDieStatusPendingState : Fld := ⟨0x20000, 26, 3⟩

/-- PWR_DIE_STATUS.WAKE_CAUSE. -/
def pwrDieStatusWakeCause : Fld := ⟨0x20000, 22, 4⟩

/-- PWR_DIE_STATUS.LAST_REFUSAL. -/
def pwrDieStatusLastRefusal : Fld := ⟨0x20000, 18, 4⟩

/-- PWR_DIE_STATUS.PENDING_OP. -/
def pwrDieStatusPendingOp : Fld := ⟨0x20000, 0, 16⟩

/-- PWR_DIE_REFUSE.COUNT. -/
def pwrDieRefuse : Fld := ⟨0x20004, 0, 32⟩

/-- PWR_HALF_W.GLIDING. -/
def pwrHalfGliding (h : Nat) : Fld := ⟨0x20008 + h * 0x4, 31, 1⟩

/-- PWR_HALF_W.LOCKED. -/
def pwrHalfLocked (h : Nat) : Fld := ⟨0x20008 + h * 0x4, 30, 1⟩

/-- PWR_HALF_W.FCODE. -/
def pwrHalfFcode (h : Nat) : Fld := ⟨0x20008 + h * 0x4, 24, 6⟩

/-- PWR_HALF_W.TARGET. -/
def pwrHalfTarget (h : Nat) : Fld := ⟨0x20008 + h * 0x4, 18, 6⟩

/-- PWR_HALF_W.FUSED_MAX. -/
def pwrHalfFusedMax (h : Nat) : Fld := ⟨0x20008 + h * 0x4, 12, 6⟩

/-- PWR_HEDGER_CLK.FAST. -/
def pwrHedgerClkFast : Fld := ⟨0x20010, 31, 1⟩

/-- PWR_HEDGER_CLK.LOCKED. -/
def pwrHedgerClkLocked : Fld := ⟨0x20010, 30, 1⟩

/-- PWR_HEDGER_CLK.REQUEST. -/
def pwrHedgerClkRequest : Fld := ⟨0x20010, 0, 1⟩

/-- PWR_SLEEP_TIMER.MS. -/
def pwrSleepTimer : Fld := ⟨0x20014, 0, 32⟩

/-- PWR_VETO.VETO_SLEEP. -/
def pwrVetoVetoSleep : Fld := ⟨0x20018, 2, 1⟩

/-- PWR_VETO.VETO_COPPICE. -/
def pwrVetoVetoCoppice : Fld := ⟨0x20018, 1, 1⟩

/-- PWR_VETO.VETO_DORMANT. -/
def pwrVetoVetoDormant : Fld := ⟨0x20018, 0, 1⟩

/-- PWR_PD_READS.COUNT. -/
def pwrPdReads : Fld := ⟨0x2001c, 0, 32⟩

/-- PWR_PD_WRITES.COUNT. -/
def pwrPdWrites : Fld := ⟨0x20020, 0, 32⟩

/-- PWR_SLEEPS.COUNT. -/
def pwrSleeps : Fld := ⟨0x20024, 0, 32⟩

/-- PWR_SLEEP_MS_LO.MS. -/
def pwrSleepMs : Fld := ⟨0x20028, 0, 64⟩

/-- PWR_MODEk.WAIT_STATE. -/
def pwrModeWaitState (k : Nat) (t : Nat) : Fld := ⟨0x20100 + k * 0x4, 4 * t + 0, 1⟩

/-- PWR_MODEk.IDLE_STATE. -/
def pwrModeIdleState (k : Nat) (t : Nat) : Fld := ⟨0x20100 + k * 0x4, 4 * t + 1, 2⟩

/-- PWR_CORE_STATUSl.STATE. -/
def pwrCoreStatusState (l : Nat) : Fld := ⟨0x20400 + l * 0x10, 29, 3⟩

/-- PWR_CORE_STATUSl.WAKE_CAUSE. -/
def pwrCoreStatusWakeCause (l : Nat) : Fld := ⟨0x20400 + l * 0x10, 25, 4⟩

/-- PWR_CORE_STATUSl.LAST_REFUSAL. -/
def pwrCoreStatusLastRefusal (l : Nat) : Fld := ⟨0x20400 + l * 0x10, 21, 4⟩

/-- PWR_CORE_STATUSl.PENDING. -/
def pwrCoreStatusPending (l : Nat) : Fld := ⟨0x20400 + l * 0x10, 20, 1⟩

/-- PWR_CORE_STATUSl.PENDING_STATE. -/
def pwrCoreStatusPendingState (l : Nat) : Fld := ⟨0x20400 + l * 0x10, 18, 2⟩

/-- PWR_CORE_STATUSl.PENDING_OP. -/
def pwrCoreStatusPendingOp (l : Nat) : Fld := ⟨0x20400 + l * 0x10, 0, 16⟩

/-- PWR_CORE_REFUSEl.ABORTS. -/
def pwrCoreRefuseAborts (l : Nat) : Fld := ⟨0x20404 + l * 0x10, 16, 16⟩

/-- PWR_CORE_REFUSEl.REFUSALS. -/
def pwrCoreRefuseRefusals (l : Nat) : Fld := ⟨0x20404 + l * 0x10, 0, 16⟩

/-- PWR_CORE_WAKE_LOSTl.COUNT. -/
def pwrCoreWakeLost (l : Nat) : Fld := ⟨0x20408 + l * 0x10, 0, 32⟩

/-- PWR_LIMIT_SLOW.MW. -/
def pwrLimit (f : Nat) : Fld := ⟨0x21000 + f * 0x8, 0, 32⟩

/-- PWR_LIMIT_SLOW_WIN.MS. -/
def pwrLimitWin (f : Nat) : Fld := ⟨0x21004 + f * 0x8, 0, 32⟩

/-- PWR_BUDGET.TOTAL_W. -/
def pwrBudgetTotalW : Fld := ⟨0x21010, 16, 16⟩

/-- PWR_BUDGET.SHARE_W. -/
def pwrBudgetShareW : Fld := ⟨0x21010, 0, 16⟩

/-- PWR_BUDGET_LIVE.LIVE. -/
def pwrBudgetLiveLive : Fld := ⟨0x21014, 16, 12⟩

/-- PWR_BUDGET_LIVE.DEMAND_W. -/
def pwrBudgetLiveDemandW : Fld := ⟨0x21014, 0, 16⟩

/-- PWR_CAP_W.PREF. -/
def pwrCapPref (h : Nat) : Fld := ⟨0x21018 + h * 0x4, 24, 6⟩

/-- PWR_CAP_W.POWER. -/
def pwrCapPower (h : Nat) : Fld := ⟨0x21018 + h * 0x4, 16, 6⟩

/-- PWR_CAP_W.THERMAL. -/
def pwrCapThermal (h : Nat) : Fld := ⟨0x21018 + h * 0x4, 8, 6⟩

/-- PWR_CAP_W.PACE. -/
def pwrCapPace (h : Nat) : Fld := ⟨0x21018 + h * 0x4, 0, 6⟩

/-- PWR_PREF_W0.OP. -/
def pwrPrefOp (r : Nat) (t : Nat) : Fld := ⟨0x21020 + r * 0x4, 4 * t + 0, 4⟩

/-- PWR_PACE.POLICY. -/
def pwrPacePolicy : Fld := ⟨0x21030, 31, 1⟩

/-- PWR_PACE.ORIGIN. -/
def pwrPaceOrigin : Fld := ⟨0x21030, 30, 1⟩

/-- PWR_PACE.TARGET. -/
def pwrPaceTarget : Fld := ⟨0x21030, 24, 6⟩

/-- PWR_PACE.OWN. -/
def pwrPaceOwn : Fld := ⟨0x21030, 16, 6⟩

/-- PWR_PACE.ENTRIES. -/
def pwrPaceEntries : Fld := ⟨0x21030, 8, 6⟩

/-- PWR_PACE_DROPPED.COUNT. -/
def pwrPaceDropped : Fld := ⟨0x21034, 0, 32⟩

/-- PWR_VC5_BAD.COUNT. -/
def pwrVc5Bad : Fld := ⟨0x21038, 0, 32⟩

/-- PWR_CAP_MS_FAST.MS. -/
def pwrCapMs (k : Nat) : Fld := ⟨0x2103c + k * 0x4, 0, 32⟩

/-- PWR_LIMIT_UNMET.COUNT. -/
def pwrLimitUnmet : Fld := ⟨0x2104c, 0, 32⟩

/-- PWR_OP_Wk.FCODE. -/
def pwrOpFcode (h : Nat) (k : Nat) : Fld := ⟨0x21100 + h * 0x40 + k * 0x4, 24, 6⟩

/-- PWR_OP_Wk.MV. -/
def pwrOpMv (h : Nat) (k : Nat) : Fld := ⟨0x21100 + h * 0x40 + k * 0x4, 0, 10⟩

/-- TEL_POWER.MW. -/
def telPower : Fld := ⟨0x30000, 0, 32⟩

/-- TEL_POWER_FAST.MW. -/
def telPowerAvg (f : Nat) : Fld := ⟨0x30004 + f * 0x4, 0, 32⟩

/-- TEL_TEMP_MAX.SENSOR. -/
def telTempMaxSensor : Fld := ⟨0x3000c, 24, 8⟩

/-- TEL_TEMP_MAX.TEMP. -/
def telTempMaxTemp : Fld := ⟨0x3000c, 0, 16⟩

/-- TEL_DROOP_CC_W.CYCLES. -/
def telDroopCc (h : Nat) : Fld := ⟨0x30010 + h * 0x4, 0, 32⟩

/-- TEL_DROOP_SEVERE.COUNT. -/
def telDroopSevere : Fld := ⟨0x30018, 0, 32⟩

/-- TEL_ENERGY_LO.UJ. -/
def telEnergy : Fld := ⟨0x30020, 0, 64⟩

/-- TEL_UNATTR_LO.UJ. -/
def telUnattr : Fld := ⟨0x30028, 0, 64⟩

/-- TEL_COMPk_LO.UJ. -/
def telComp (k : Nat) : Fld := ⟨0x30040 + k * 0x8, 0, 64⟩

/-- TEL_TEMPs.VALID. -/
def telTempValid (s : Nat) : Fld := ⟨0x30100 + s * 0x4, 31, 1⟩

/-- TEL_TEMPs.TEMP. -/
def telTempTemp (s : Nat) : Fld := ⟨0x30100 + s * 0x4, 0, 16⟩

/-- TEL_VMONv.VALID. -/
def telVmonValid (v : Nat) : Fld := ⟨0x30200 + v * 0x4, 31, 1⟩

/-- TEL_VMONv.MIN. -/
def telVmonMin (v : Nat) : Fld := ⟨0x30200 + v * 0x4, 16, 11⟩

/-- TEL_VMONv.MV. -/
def telVmonMv (v : Nat) : Fld := ⟨0x30200 + v * 0x4, 0, 11⟩

/-- TEL_ACCTk_LO.UJ. -/
def telAcct (k : Nat) : Fld := ⟨0x30800 + k * 0x8, 0, 64⟩

/-- SEC_STATUS.KEYS_READY. -/
def secStatusKeysReady : Fld := ⟨0x40000, 31, 1⟩

/-- SEC_STATUS.MEAS_FINAL. -/
def secStatusMeasFinal : Fld := ⟨0x40000, 30, 1⟩

/-- SEC_STATUS.ATTEST_BUSY. -/
def secStatusAttestBusy : Fld := ⟨0x40000, 29, 1⟩

/-- SEC_STATUS.ADVANCE_PENDING. -/
def secStatusAdvancePending : Fld := ⟨0x40000, 28, 1⟩

/-- SEC_STATUS.SLOTS_VALID. -/
def secStatusSlotsValid : Fld := ⟨0x40000, 16, 4⟩

/-- SEC_STATUS.FW_SLOT. -/
def secStatusFwSlot : Fld := ⟨0x40000, 12, 2⟩

/-- SEC_STATUS.MC_SLOT. -/
def secStatusMcSlot : Fld := ⟨0x40000, 10, 2⟩

/-- SEC_STATUS.REVOKE. -/
def secStatusRevoke : Fld := ⟨0x40000, 8, 2⟩

/-- SEC_STATUS.COUNTER. -/
def secStatusCounter : Fld := ⟨0x40000, 0, 7⟩

/-- SEC_IMAGE_SVN.MC_SVN. -/
def secImageSvnMcSvn : Fld := ⟨0x40004, 16, 16⟩

/-- SEC_IMAGE_SVN.FW_SVN. -/
def secImageSvnFwSvn : Fld := ⟨0x40004, 0, 16⟩

/-- SEC_ADVANCE.ADVANCE_TO. -/
def secAdvanceAdvanceTo : Fld := ⟨0x40008, 16, 7⟩

/-- SEC_ADVANCE.REVOKE_TO. -/
def secAdvanceRevokeTo : Fld := ⟨0x40008, 8, 2⟩

/-- SEC_CAL_CHANGES.COUNT. -/
def secCalChanges : Fld := ⟨0x4000c, 0, 32⟩

/-- SEC_ATTESTS.COUNT. -/
def secAttests : Fld := ⟨0x40010, 0, 32⟩

/-- SEC_AUTH_FAIL.COUNT. -/
def secAuthFail : Fld := ⟨0x40014, 0, 32⟩

/-- SEC_CERT_DIGESTj.BYTES. -/
def secCertDigest (j : Nat) : Fld := ⟨0x40020 + j * 0x4, 0, 32⟩

/-- SEC_MEASk_j.BYTES. -/
def secMeas (k : Nat) (j : Nat) : Fld := ⟨0x40100 + k * 0x20 + j * 0x4, 0, 32⟩

/-- CAL_STATUS.APPLIED. -/
def calStatusApplied : Fld := ⟨0x50000, 31, 1⟩

/-- CAL_STATUS.ITEMS. -/
def calStatusItems : Fld := ⟨0x50000, 16, 11⟩

/-- CAL_STATUS.LAST_REJECT. -/
def calStatusLastReject : Fld := ⟨0x50000, 8, 8⟩

/-- CAL_REJECTS.COUNT. -/
def calRejects : Fld := ⟨0x50004, 0, 32⟩

/-- CAL_CLAMPED.COUNT. -/
def calClamped : Fld := ⟨0x50008, 0, 32⟩

/-- CAL_TEMP_OFFs.FACTORY. -/
def calTempOffFactory (s : Nat) : Fld := ⟨0x50100 + s * 0x4, 16, 16⟩

/-- CAL_TEMP_OFFs.EFFECTIVE. -/
def calTempOffEffective (s : Nat) : Fld := ⟨0x50100 + s * 0x4, 0, 16⟩

/-- CAL_ENERGY_SCALEk.DELTA. -/
def calEnergyScale (k : Nat) : Fld := ⟨0x50200 + k * 0x4, 0, 16⟩

/-- TST_STATUS.PIN_MODE. -/
def tstStatusPinMode : Fld := ⟨0x60000, 31, 1⟩

/-- TST_STATUS.MISSION_TEST. -/
def tstStatusMissionTest : Fld := ⟨0x60000, 30, 1⟩

/-- TST_STATUS.BIST_STATE. -/
def tstStatusBistState : Fld := ⟨0x60000, 27, 3⟩

/-- TST_STATUS.BIST_TARGET. -/
def tstStatusBistTarget : Fld := ⟨0x60000, 25, 2⟩

/-- TST_STATUS.PROGRESS. -/
def tstStatusProgress : Fld := ⟨0x60000, 0, 10⟩

/-- TST_BIST_RUNS.COUNT. -/
def tstBistRuns : Fld := ⟨0x60004, 0, 32⟩

/-- TST_BIST_FAILS.COUNT. -/
def tstBistFails : Fld := ⟨0x60008, 0, 32⟩

/-- TST_FAIL_COREk.FAILED. -/
def tstFailCore (k : Nat) : Fld := ⟨0x60010 + k * 0x4, 0, 32⟩

/-- TST_FAIL_ROUTER.FAILED. -/
def tstFailRouter : Fld := ⟨0x6001c, 0, 24⟩

/-- TST_FAIL_ADAPTER.FAILED. -/
def tstFailAdapter : Fld := ⟨0x60020, 0, 32⟩

/-- FLT_STATUS.READY. -/
def fltStatusReady : Fld := ⟨0x70000, 30, 2⟩

/-- FLT_STATUS.FAULT_CAUSE. -/
def fltStatusFaultCause : Fld := ⟨0x70000, 26, 4⟩

/-- FLT_STATUS.DMA_ENGINE. -/
def fltStatusDmaEngine : Fld := ⟨0x70000, 2, 1⟩

/-- FLT_STATUS.LINK_LOST. -/
def fltStatusLinkLost : Fld := ⟨0x70000, 1, 1⟩

/-- FLT_STATUS.UNIT_FENCED. -/
def fltStatusUnitFenced : Fld := ⟨0x70000, 0, 1⟩

/-- FLT_EVT_NEXT.INDEX. -/
def fltEvtNext : Fld := ⟨0x70004, 0, 32⟩

/-- FLT_EVT_OLDEST.INDEX. -/
def fltEvtOldest : Fld := ⟨0x70008, 0, 32⟩

/-- FLT_EVT_COUNT.WAITING. -/
def fltEvtCountWaiting : Fld := ⟨0x7000c, 16, 11⟩

/-- FLT_EVT_COUNT.HELD. -/
def fltEvtCountHeld : Fld := ⟨0x7000c, 0, 11⟩

/-- FLT_EVT_LOST.COUNT. -/
def fltEvtLost : Fld := ⟨0x70010, 0, 32⟩

/-- FLT_FENCES.COUNT. -/
def fltFences : Fld := ⟨0x70014, 0, 32⟩

/-- FLT_REMOTE_REG_REJECT.COUNT. -/
def fltRemoteRegReject : Fld := ⟨0x70018, 0, 32⟩

/-- FLT_BAD_SPACE.COUNT. -/
def fltBadSpace : Fld := ⟨0x7001c, 0, 32⟩

/-- FLT_WDOG.KICK. -/
def fltWdogKick : Fld := ⟨0x70020, 31, 1⟩

/-- FLT_WDOG.EN. -/
def fltWdogEn : Fld := ⟨0x70020, 30, 1⟩

/-- FLT_WDOG.TIMEOUT_MS. -/
def fltWdogTimeoutMs : Fld := ⟨0x70020, 0, 16⟩

/-- FLT_DMA_ENG_FAILED.FAILED. -/
def fltDmaEngFailed : Fld := ⟨0x70024, 0, 8⟩

/-- FLT_LINKS_LOST.LOST. -/
def fltLinksLost : Fld := ⟨0x70028, 0, 32⟩

/-- FLT_MISROUTED.COUNT. -/
def fltMisrouted : Fld := ⟨0x7002c, 0, 32⟩


end F

/-- Register tables, block EVG. -/
def evgRegs : List RDesc := [
  ⟨0x40, [], false, [⟨31, 1, .ro, 0⟩, ⟨17, 6, .ro, 0⟩, ⟨4, 13, .ro, 0⟩, ⟨0, 4, .ro, 0⟩]⟩,
  ⟨0x44, [], false, [⟨16, 16, .ro, 0⟩, ⟨0, 7, .ro, 0⟩]⟩,
  ⟨0x48, [(0x4, 3)], false, [⟨0, 32, .ro, 0⟩]⟩,
  ⟨0x54, [(0x4, 3)], false, [⟨0, 32, .ro, 0⟩]⟩,
  ⟨0x60, [], false, [⟨28, 4, .ro, 0⟩, ⟨26, 2, .ro, 0⟩, ⟨24, 2, .ro, 0⟩, ⟨23, 1, .ro, 0⟩, ⟨22, 1, .ro, 0⟩, ⟨21, 1, .ro, 0⟩, ⟨20, 1, .ro, 0⟩, ⟨16, 4, .ro, 0⟩, ⟨15, 1, .ro, 0⟩]⟩,
  ⟨0x64, [], false, [⟨31, 1, .ro, 0⟩, ⟨30, 1, .ro, 0⟩, ⟨16, 8, .ro, 0⟩, ⟨8, 8, .ro, 0⟩, ⟨0, 8, .ro, 0⟩]⟩,
  ⟨0x68, [], false, [⟨16, 11, .ro, 0⟩, ⟨0, 11, .ro, 0⟩]⟩,
  ⟨0x6c, [], false, [⟨31, 1, .ro, 0⟩, ⟨28, 3, .ro, 0⟩, ⟨27, 1, .ro, 0⟩, ⟨0, 10, .ro, 0⟩]⟩,
  ⟨0x70, [(0x4, 10)], false, [⟨16, 16, .ro, 0⟩, ⟨15, 1, .ro, 0⟩, ⟨0, 15, .ro, 0⟩]⟩]

/-- Register tables, block COR part 0. -/
def corRegs0 : List RDesc := [
  ⟨0x400000, [(0x10000, 96)], false, [⟨28, 4, .ro, 0⟩, ⟨27, 1, .ro, 0⟩, ⟨20, 4, .ro, 0⟩, ⟨16, 4, .ro, 0⟩, ⟨0, 7, .ro, 0⟩]⟩,
  ⟨0x400004, [(0x10000, 96)], false, [⟨15, 1, .w1c, 0⟩, ⟨11, 1, .w1c, 0⟩, ⟨10, 1, .ro, 0⟩, ⟨9, 1, .ro, 0⟩, ⟨8, 1, .ro, 0⟩, ⟨7, 1, .w1c, 0⟩, ⟨6, 1, .w1c, 0⟩, ⟨5, 1, .w1c, 0⟩, ⟨4, 1, .ro, 1⟩, ⟨3, 1, .ro, 0⟩, ⟨2, 1, .w1c, 0⟩, ⟨1, 1, .w1c, 0⟩, ⟨0, 1, .w1c, 0⟩]⟩,
  ⟨0x400008, [(0x10000, 96)], false, [⟨0, 1, .wo, 0⟩]⟩,
  ⟨0x40000c, [(0x10000, 96)], false, [⟨24, 8, .ro, 0⟩, ⟨16, 8, .ro, 0⟩, ⟨0, 13, .ro, 0⟩]⟩,
  ⟨0x400010, [(0x10000, 96)], false, [⟨0, 13, .ro, 0⟩]⟩,
  ⟨0x400014, [(0x10000, 96)], false, [⟨24, 8, .ro, 0⟩, ⟨0, 13, .ro, 0⟩]⟩,
  ⟨0x400018, [(0x10000, 96)], false, [⟨0, 32, .rw, 0⟩]⟩,
  ⟨0x40001c, [(0x10000, 96)], false, [⟨0, 32, .rw, 4294967295⟩]⟩,
  ⟨0x400020, [(0x10000, 96)], true, [⟨0, 64, .ro, 0⟩]⟩,
  ⟨0x400028, [(0x10000, 96)], true, [⟨0, 64, .ro, 0⟩]⟩,
  ⟨0x400030, [(0x10000, 96)], false, [⟨0, 32, .rc, 0⟩]⟩,
  ⟨0x400034, [(0x10000, 96)], false, [⟨0, 32, .rc, 0⟩]⟩]

/-- Register tables, block COR part 1. -/
def corRegs1 : List RDesc := [
  ⟨0x400038, [(0x10000, 96)], false, [⟨0, 32, .ro, 0⟩]⟩,
  ⟨0x40003c, [(0x10000, 96)], false, [⟨0, 6, .ro, 0⟩]⟩,
  ⟨0x400040, [(0x10000, 96)], false, [⟨24, 8, .ro, 0⟩, ⟨0, 16, .ro, 0⟩]⟩,
  ⟨0x400044, [(0x10000, 96)], false, [⟨31, 1, .rw, 0⟩, ⟨0, 13, .rw, 0⟩]⟩,
  ⟨0x404000, [(0x10000, 96)], false, [⟨24, 4, .ro, 0⟩, ⟨16, 5, .ro, 0⟩, ⟨0, 16, .ro, 0⟩]⟩,
  ⟨0x404004, [(0x10000, 96)], false, [⟨31, 1, .rw, 0⟩, ⟨0, 16, .rw, 0⟩]⟩,
  ⟨0x404008, [(0x10000, 96)], false, [⟨0, 32, .rc, 0⟩]⟩,
  ⟨0x40400c, [(0x10000, 96)], false, [⟨28, 4, .ro, 0⟩, ⟨27, 1, .ro, 0⟩, ⟨24, 3, .ro, 0⟩, ⟨22, 2, .ro, 0⟩, ⟨0, 13, .ro, 0⟩]⟩,
  ⟨0x404010, [(0x10000, 96)], false, [⟨0, 32, .rc, 0⟩]⟩,
  ⟨0x404014, [(0x10000, 96)], false, [⟨31, 1, .ro, 0⟩, ⟨30, 1, .ro, 0⟩, ⟨26, 4, .ro, 0⟩, ⟨16, 10, .ro, 0⟩, ⟨0, 6, .ro, 0⟩]⟩,
  ⟨0x404018, [(0x10000, 96)], false, [⟨0, 32, .rc, 0⟩]⟩,
  ⟨0x40401c, [(0x10000, 96)], false, [⟨0, 32, .rc, 0⟩]⟩]

/-- Register tables, block COR part 2. -/
def corRegs2 : List RDesc := [
  ⟨0x404020, [(0x10000, 96)], false, [⟨0, 32, .rc, 0⟩]⟩,
  ⟨0x404024, [(0x10000, 96)], false, [⟨0, 32, .rc, 0⟩]⟩,
  ⟨0x404100, [(0x10000, 96), (0x8, 32)], false, [⟨31, 1, .ro, 0⟩, ⟨30, 1, .ro, 0⟩, ⟨28, 2, .ro, 0⟩, ⟨0, 16, .ro, 0⟩]⟩,
  ⟨0x404104, [(0x10000, 96), (0x8, 32)], false, [⟨22, 3, .ro, 0⟩, ⟨16, 6, .ro, 0⟩, ⟨0, 16, .ro, 0⟩]⟩,
  ⟨0x408000, [(0x10000, 96)], false, [⟨31, 1, .ro, 0⟩, ⟨30, 1, .ro, 0⟩, ⟨24, 6, .ro, 0⟩, ⟨16, 2, .ro, 0⟩, ⟨0, 10, .ro, 0⟩]⟩,
  ⟨0x408004, [(0x10000, 96)], false, [⟨31, 1, .rw, 0⟩, ⟨0, 1, .wo, 0⟩]⟩,
  ⟨0x408008, [(0x10000, 96)], true, [⟨0, 64, .rw, 0⟩]⟩,
  ⟨0x408010, [(0x10000, 96)], true, [⟨0, 64, .ro, 0⟩]⟩,
  ⟨0x408018, [(0x10000, 96)], true, [⟨0, 64, .ro, 0⟩]⟩,
  ⟨0x408020, [(0x10000, 96)], false, [⟨0, 32, .rc, 0⟩]⟩,
  ⟨0x408024, [(0x10000, 96)], false, [⟨0, 32, .rc, 0⟩]⟩,
  ⟨0x408028, [(0x10000, 96)], false, [⟨0, 32, .rc, 0⟩]⟩]

/-- Register tables, block COR part 3. -/
def corRegs3 : List RDesc := [
  ⟨0x40802c, [(0x10000, 96)], false, [⟨0, 32, .rc, 0⟩]⟩,
  ⟨0x408030, [(0x10000, 96)], false, [⟨0, 32, .rc, 0⟩]⟩,
  ⟨0x408034, [(0x10000, 96)], false, [⟨24, 8, .ro, 0⟩, ⟨18, 6, .ro, 0⟩]⟩,
  ⟨0x408100, [(0x10000, 96)], false, [⟨16, 5, .ro, 0⟩]⟩,
  ⟨0x408104, [(0x10000, 96)], false, [⟨0, 1, .wo, 0⟩]⟩,
  ⟨0x408110, [(0x10000, 96), (0x4, 4)], false, [⟨0, 32, .ro, 0⟩]⟩,
  ⟨0x408120, [(0x10000, 96)], false, [⟨0, 32, .rc, 0⟩]⟩,
  ⟨0x408124, [(0x10000, 96)], false, [⟨0, 32, .rc, 0⟩]⟩,
  ⟨0x408128, [(0x10000, 96)], false, [⟨0, 32, .rc, 0⟩]⟩,
  ⟨0x40812c, [(0x10000, 96)], false, [⟨0, 32, .rc, 0⟩]⟩,
  ⟨0x408130, [(0x10000, 96)], false, [⟨0, 32, .rc, 0⟩]⟩,
  ⟨0x408134, [(0x10000, 96)], false, [⟨0, 32, .rc, 0⟩]⟩]

/-- Register tables, block COR part 4. -/
def corRegs4 : List RDesc := [
  ⟨0x408138, [(0x10000, 96)], false, [⟨0, 32, .rc, 0⟩]⟩,
  ⟨0x408140, [(0x10000, 96)], true, [⟨0, 64, .ro, 0⟩]⟩,
  ⟨0x408148, [(0x10000, 96)], true, [⟨0, 64, .ro, 0⟩]⟩,
  ⟨0x40c000, [(0x10000, 96)], false, [⟨31, 1, .ro, 0⟩, ⟨24, 6, .ro, 0⟩, ⟨20, 4, .ro, 0⟩, ⟨16, 4, .ro, 0⟩, ⟨0, 16, .ro, 0⟩]⟩,
  ⟨0x40c004, [(0x10000, 96)], false, [⟨31, 1, .rw, 0⟩, ⟨0, 1, .wo, 0⟩]⟩,
  ⟨0x40c008, [(0x10000, 96)], true, [⟨0, 64, .rw, 0⟩]⟩,
  ⟨0x40c010, [(0x10000, 96)], true, [⟨0, 64, .ro, 0⟩]⟩,
  ⟨0x40c018, [(0x10000, 96)], true, [⟨0, 64, .ro, 0⟩]⟩,
  ⟨0x40c020, [(0x10000, 96)], false, [⟨0, 32, .rc, 0⟩]⟩,
  ⟨0x40c024, [(0x10000, 96)], false, [⟨0, 9, .w1c, 0⟩]⟩,
  ⟨0x40c028, [(0x10000, 96)], false, [⟨0, 32, .rc, 0⟩]⟩,
  ⟨0x40c02c, [(0x10000, 96)], false, [⟨0, 32, .rc, 0⟩]⟩]

/-- Register tables, block COR part 5. -/
def corRegs5 : List RDesc := [
  ⟨0x40c030, [(0x10000, 96)], false, [⟨0, 32, .rc, 0⟩]⟩,
  ⟨0x40c034, [(0x10000, 96)], false, [⟨0, 32, .rc, 0⟩]⟩,
  ⟨0x40c038, [(0x10000, 96)], false, [⟨24, 8, .ro, 0⟩, ⟨18, 6, .ro, 0⟩, ⟨14, 4, .ro, 0⟩]⟩]

/-- Register tables, block COR. -/
def corRegs : List RDesc := corRegs0 ++ corRegs1 ++ corRegs2 ++ corRegs3 ++ corRegs4 ++ corRegs5

/-- Register tables, block PLN part 0. -/
def plnRegs0 : List RDesc := [
  ⟨0x80000, [], false, [⟨0, 13, .rw, 1024⟩]⟩,
  ⟨0x80004, [], false, [⟨0, 2, .rw, 1⟩]⟩,
  ⟨0x80008, [(0x4, 2)], false, [⟨31, 1, .ro, 0⟩, ⟨0, 13, .ro, 0⟩]⟩,
  ⟨0x80010, [(0x4, 2)], false, [⟨0, 32, .rc, 0⟩]⟩,
  ⟨0x80018, [], false, [⟨0, 24, .ro, 0⟩]⟩,
  ⟨0x8001c, [], false, [⟨24, 8, .ro, 0⟩, ⟨0, 13, .ro, 0⟩]⟩,
  ⟨0x80020, [], false, [⟨0, 5, .ro, 0⟩]⟩,
  ⟨0x81000, [(0x1000, 24)], false, [⟨31, 1, .ro, 0⟩, ⟨30, 1, .ro, 0⟩, ⟨0, 16, .ro, 0⟩]⟩,
  ⟨0x81004, [(0x1000, 24)], false, [⟨0, 32, .rc, 0⟩]⟩,
  ⟨0x81008, [(0x1000, 24)], false, [⟨0, 32, .rc, 0⟩]⟩,
  ⟨0x8100c, [(0x1000, 24)], false, [⟨0, 32, .rc, 0⟩]⟩,
  ⟨0x81010, [(0x1000, 24)], false, [⟨0, 32, .rc, 0⟩]⟩]

/-- Register tables, block PLN part 1. -/
def plnRegs1 : List RDesc := [
  ⟨0x81014, [(0x1000, 24)], false, [⟨0, 32, .rc, 0⟩]⟩,
  ⟨0x81018, [(0x1000, 24)], false, [⟨0, 32, .rc, 0⟩]⟩,
  ⟨0x8101c, [(0x1000, 24)], false, [⟨0, 32, .rc, 0⟩]⟩,
  ⟨0x81020, [(0x1000, 24)], true, [⟨0, 64, .ro, 0⟩]⟩,
  ⟨0x81028, [(0x1000, 24)], true, [⟨0, 64, .ro, 0⟩]⟩,
  ⟨0x99000, [(0x200, 32)], false, [⟨16, 9, .ro, 0⟩, ⟨8, 8, .ro, 0⟩, ⟨0, 4, .ro, 0⟩]⟩,
  ⟨0x99010, [(0x200, 32), (0x4, 4)], false, [⟨24, 8, .ro, 0⟩, ⟨0, 24, .ro, 0⟩]⟩,
  ⟨0x99020, [(0x200, 32)], false, [⟨0, 32, .rc, 0⟩]⟩,
  ⟨0x99024, [(0x200, 32)], false, [⟨0, 32, .rc, 0⟩]⟩,
  ⟨0x99028, [(0x200, 32)], false, [⟨0, 32, .rc, 0⟩]⟩,
  ⟨0x9902c, [(0x200, 32)], false, [⟨0, 32, .rc, 0⟩]⟩,
  ⟨0x99030, [(0x200, 32)], false, [⟨0, 32, .rc, 0⟩]⟩]

/-- Register tables, block PLN. -/
def plnRegs : List RDesc := plnRegs0 ++ plnRegs1

/-- Register tables, block QUE part 0. -/
def queRegs0 : List RDesc := [
  ⟨0x100000, [(0x80, 8192)], false, [⟨29, 3, .ro, 0⟩, ⟨28, 1, .ro, 0⟩, ⟨24, 4, .ro, 0⟩, ⟨22, 2, .ro, 0⟩, ⟨19, 3, .ro, 0⟩, ⟨13, 6, .ro, 0⟩, ⟨0, 8, .ro, 0⟩]⟩,
  ⟨0x100004, [(0x80, 8192)], false, [⟨0, 16, .ro, 0⟩]⟩,
  ⟨0x100008, [(0x80, 8192)], true, [⟨0, 64, .ro, 0⟩]⟩,
  ⟨0x100010, [(0x80, 8192)], false, [⟨0, 16, .ro, 0⟩]⟩,
  ⟨0x100014, [(0x80, 8192)], false, [⟨0, 16, .ro, 0⟩]⟩,
  ⟨0x100018, [(0x80, 8192)], false, [⟨31, 1, .ro, 0⟩, ⟨0, 13, .ro, 0⟩]⟩,
  ⟨0x10001c, [(0x80, 8192)], false, [⟨31, 1, .ro, 0⟩, ⟨0, 13, .ro, 0⟩]⟩,
  ⟨0x100020, [(0x80, 8192)], false, [⟨31, 1, .ro, 0⟩, ⟨0, 13, .ro, 0⟩]⟩,
  ⟨0x100024, [(0x80, 8192)], false, [⟨31, 1, .ro, 0⟩, ⟨30, 1, .ro, 0⟩, ⟨29, 1, .ro, 0⟩, ⟨28, 1, .w1c, 0⟩, ⟨27, 1, .w1c, 0⟩, ⟨0, 8, .ro, 0⟩]⟩,
  ⟨0x100028, [(0x80, 8192)], false, [⟨0, 32, .rc, 0⟩]⟩,
  ⟨0x10002c, [(0x80, 8192)], false, [⟨0, 32, .rc, 0⟩]⟩,
  ⟨0x100030, [(0x80, 8192)], false, [⟨0, 32, .rc, 0⟩]⟩]

/-- Register tables, block QUE part 1. -/
def queRegs1 : List RDesc := [
  ⟨0x100034, [(0x80, 8192)], false, [⟨0, 32, .rc, 0⟩]⟩,
  ⟨0x100038, [(0x80, 8192)], true, [⟨0, 64, .ro, 0⟩]⟩]

/-- Register tables, block QUE. -/
def queRegs : List RDesc := queRegs0 ++ queRegs1

/-- Register tables, block DMA part 0. -/
def dmaRegs0 : List RDesc := [
  ⟨0xa0000, [(0x8000, 8)], false, [⟨12, 11, .ro, 0⟩, ⟨0, 7, .ro, 0⟩]⟩,
  ⟨0xa0008, [(0x8000, 8)], true, [⟨0, 64, .ro, 0⟩]⟩,
  ⟨0xa0010, [(0x8000, 8), (0x4, 2)], false, [⟨0, 32, .ro, 0⟩]⟩,
  ⟨0xa4000, [(0x8000, 8), (0x100, 64)], false, [⟨29, 3, .ro, 6⟩, ⟨27, 2, .ro, 0⟩, ⟨24, 3, .ro, 0⟩, ⟨16, 8, .ro, 0⟩, ⟨0, 13, .ro, 0⟩]⟩,
  ⟨0xa4004, [(0x8000, 8), (0x100, 64)], false, [⟨8, 1, .rw, 1⟩, ⟨0, 3, .rw, 3⟩]⟩,
  ⟨0xa4008, [(0x8000, 8), (0x100, 64)], true, [⟨0, 64, .ro, 0⟩]⟩,
  ⟨0xa4010, [(0x8000, 8), (0x100, 64)], true, [⟨0, 64, .ro, 0⟩]⟩,
  ⟨0xa4018, [(0x8000, 8), (0x100, 64)], false, [⟨0, 32, .ro, 0⟩]⟩,
  ⟨0xa401c, [(0x8000, 8), (0x100, 64)], false, [⟨8, 9, .ro, 0⟩]⟩,
  ⟨0xa4020, [(0x8000, 8), (0x100, 64)], true, [⟨0, 64, .ro, 0⟩]⟩,
  ⟨0xa4028, [(0x8000, 8), (0x100, 64)], true, [⟨0, 64, .ro, 0⟩]⟩,
  ⟨0xa4030, [(0x8000, 8), (0x100, 64)], false, [⟨0, 32, .rc, 0⟩]⟩]

/-- Register tables, block DMA part 1. -/
def dmaRegs1 : List RDesc := [
  ⟨0xa4034, [(0x8000, 8), (0x100, 64)], false, [⟨0, 32, .rc, 0⟩]⟩]

/-- Register tables, block DMA. -/
def dmaRegs : List RDesc := dmaRegs0 ++ dmaRegs1

/-- Register tables, block BND. -/
def bndRegs : List RDesc := [
  ⟨0x200000, [(0x40, 8192)], false, [⟨31, 1, .ro, 0⟩, ⟨30, 1, .ro, 0⟩, ⟨22, 8, .ro, 0⟩, ⟨0, 14, .ro, 0⟩]⟩,
  ⟨0x200004, [(0x40, 8192)], false, [⟨0, 32, .ro, 0⟩]⟩,
  ⟨0x200008, [(0x40, 8192)], true, [⟨0, 64, .ro, 0⟩]⟩,
  ⟨0x200010, [(0x40, 8192)], true, [⟨0, 64, .ro, 0⟩]⟩,
  ⟨0x200018, [(0x40, 8192)], true, [⟨0, 64, .ro, 0⟩]⟩,
  ⟨0x200020, [(0x40, 8192)], false, [⟨0, 32, .ro, 0⟩]⟩,
  ⟨0x200024, [(0x40, 8192)], false, [⟨0, 32, .ro, 0⟩]⟩,
  ⟨0x200028, [(0x40, 8192), (0x4, 3)], false, [⟨0, 32, .ro, 0⟩]⟩]

/-- Register tables, block WIN. -/
def winRegs : List RDesc := [
  ⟨0x280000, [(0x40, 1024)], false, [⟨30, 2, .ro, 0⟩, ⟨29, 1, .ro, 0⟩, ⟨28, 1, .ro, 0⟩, ⟨27, 1, .ro, 0⟩, ⟨0, 13, .ro, 0⟩]⟩,
  ⟨0x280004, [(0x40, 1024)], false, [⟨0, 16, .ro, 0⟩]⟩,
  ⟨0x280008, [(0x40, 1024)], false, [⟨0, 29, .ro, 0⟩]⟩,
  ⟨0x28000c, [(0x40, 1024)], false, [⟨0, 29, .ro, 0⟩]⟩,
  ⟨0x280010, [(0x40, 1024)], false, [⟨0, 32, .rc, 0⟩]⟩,
  ⟨0x280014, [(0x40, 1024)], false, [⟨0, 32, .rc, 0⟩]⟩,
  ⟨0x280018, [(0x40, 1024)], false, [⟨0, 32, .rc, 0⟩]⟩,
  ⟨0x28001c, [(0x40, 1024)], false, [⟨0, 32, .rc, 0⟩]⟩,
  ⟨0x280020, [(0x40, 1024)], false, [⟨0, 32, .rc, 0⟩]⟩,
  ⟨0x280028, [(0x40, 1024)], true, [⟨0, 64, .ro, 0⟩]⟩]

/-- Register tables, block ROL. -/
def rolRegs : List RDesc := [
  ⟨0x290000, [(0x40, 256)], false, [⟨31, 1, .ro, 0⟩, ⟨0, 7, .ro, 0⟩]⟩,
  ⟨0x290004, [(0x40, 256)], false, [⟨0, 32, .ro, 0⟩]⟩,
  ⟨0x290008, [(0x40, 256)], false, [⟨0, 16, .ro, 0⟩]⟩,
  ⟨0x29000c, [(0x40, 256), (0x4, 3)], false, [⟨0, 32, .ro, 0⟩]⟩,
  ⟨0x290018, [(0x40, 256)], false, [⟨0, 16, .rc, 0⟩]⟩,
  ⟨0x29001c, [(0x40, 256)], false, [⟨0, 32, .rc, 0⟩]⟩,
  ⟨0x290020, [(0x40, 256)], false, [⟨0, 32, .rc, 0⟩]⟩]

/-- Register tables, block CMN. -/
def cmnRegs : List RDesc := [
  ⟨0x298000, [], false, [⟨16, 9, .ro, 0⟩, ⟨0, 15, .ro, 0⟩]⟩,
  ⟨0x298004, [], false, [⟨0, 32, .rc, 0⟩]⟩,
  ⟨0x298008, [], false, [⟨0, 9, .rc, 0⟩]⟩,
  ⟨0x29800c, [], false, [⟨0, 32, .rc, 0⟩]⟩,
  ⟨0x298010, [], false, [⟨0, 32, .rc, 0⟩]⟩,
  ⟨0x298014, [], false, [⟨0, 32, .rc, 0⟩]⟩,
  ⟨0x298018, [], false, [⟨0, 32, .rc, 0⟩]⟩,
  ⟨0x29801c, [], false, [⟨0, 32, .rc, 0⟩]⟩]

/-- Register tables, block LNK part 0. -/
def lnkRegs0 : List RDesc := [
  ⟨0xe0000, [], false, [⟨0, 32, .ro, 0⟩]⟩,
  ⟨0xe0004, [], false, [⟨0, 32, .ro, 0⟩]⟩,
  ⟨0xe0008, [], false, [⟨0, 32, .ro, 0⟩]⟩,
  ⟨0xe000c, [], false, [⟨24, 8, .ro, 0⟩, ⟨16, 8, .ro, 0⟩, ⟨0, 16, .ro, 0⟩]⟩,
  ⟨0xe1000, [(0x800, 32)], false, [⟨28, 4, .ro, 1⟩, ⟨17, 7, .ro, 0⟩, ⟨15, 2, .ro, 0⟩, ⟨14, 1, .ro, 0⟩, ⟨12, 2, .ro, 0⟩]⟩,
  ⟨0xe1004, [(0x800, 32)], false, [⟨2, 1, .rw, 1⟩, ⟨1, 1, .rw, 1⟩, ⟨0, 1, .wo, 0⟩]⟩,
  ⟨0xe1008, [(0x800, 32)], false, [⟨0, 16, .ro, 0⟩]⟩,
  ⟨0xe100c, [(0x800, 32)], false, [⟨24, 8, .ro, 0⟩, ⟨16, 8, .ro, 0⟩, ⟨8, 8, .ro, 0⟩, ⟨0, 1, .ro, 0⟩]⟩,
  ⟨0xe1010, [(0x800, 32)], true, [⟨0, 64, .ro, 0⟩]⟩,
  ⟨0xe1018, [(0x800, 32)], true, [⟨0, 64, .ro, 0⟩]⟩,
  ⟨0xe1020, [(0x800, 32)], false, [⟨30, 2, .ro, 0⟩, ⟨0, 17, .ro, 0⟩]⟩,
  ⟨0xe1024, [(0x800, 32)], false, [⟨24, 8, .ro, 0⟩, ⟨20, 4, .ro, 0⟩]⟩]

/-- Register tables, block LNK part 1. -/
def lnkRegs1 : List RDesc := [
  ⟨0xe1028, [(0x800, 32)], false, [⟨0, 32, .rc, 0⟩]⟩,
  ⟨0xe102c, [(0x800, 32)], false, [⟨0, 32, .rc, 0⟩]⟩,
  ⟨0xe1030, [(0x800, 32)], false, [⟨0, 32, .rc, 0⟩]⟩,
  ⟨0xe1034, [(0x800, 32)], false, [⟨0, 32, .rc, 0⟩]⟩,
  ⟨0xe1038, [(0x800, 32)], false, [⟨0, 32, .rc, 0⟩]⟩,
  ⟨0xe103c, [(0x800, 32)], false, [⟨0, 32, .rc, 0⟩]⟩,
  ⟨0xe1040, [(0x800, 32), (0x4, 6)], false, [⟨16, 16, .ro, 0⟩, ⟨0, 16, .ro, 0⟩]⟩,
  ⟨0xe1058, [(0x800, 32)], false, [⟨0, 32, .rc, 0⟩]⟩,
  ⟨0xe1060, [(0x800, 32)], true, [⟨0, 64, .ro, 0⟩]⟩,
  ⟨0xe1068, [(0x800, 32)], true, [⟨0, 64, .ro, 0⟩]⟩,
  ⟨0xe1100, [(0x800, 32), (0x4, 64)], false, [⟨16, 16, .rc, 0⟩, ⟨0, 16, .rc, 0⟩]⟩,
  ⟨0xe1200, [(0x800, 32), (0x4, 64)], false, [⟨28, 4, .ro, 0⟩, ⟨24, 4, .ro, 0⟩, ⟨20, 4, .ro, 0⟩, ⟨16, 4, .ro, 0⟩, ⟨12, 4, .ro, 0⟩]⟩]

/-- Register tables, block LNK. -/
def lnkRegs : List RDesc := lnkRegs0 ++ lnkRegs1

/-- Register tables, block PWR part 0. -/
def pwrRegs0 : List RDesc := [
  ⟨0x20000, [], false, [⟨30, 2, .ro, 0⟩, ⟨29, 1, .ro, 0⟩, ⟨26, 3, .ro, 0⟩, ⟨22, 4, .ro, 0⟩, ⟨18, 4, .ro, 0⟩, ⟨0, 16, .ro, 0⟩]⟩,
  ⟨0x20004, [], false, [⟨0, 32, .rc, 0⟩]⟩,
  ⟨0x20008, [(0x4, 2)], false, [⟨31, 1, .ro, 0⟩, ⟨30, 1, .ro, 0⟩, ⟨24, 6, .ro, 0⟩, ⟨18, 6, .ro, 0⟩, ⟨12, 6, .ro, 0⟩]⟩,
  ⟨0x20010, [], false, [⟨31, 1, .ro, 0⟩, ⟨30, 1, .ro, 0⟩, ⟨0, 1, .rw, 0⟩]⟩,
  ⟨0x20014, [], false, [⟨0, 32, .rw, 0⟩]⟩,
  ⟨0x20018, [], false, [⟨2, 1, .rw, 0⟩, ⟨1, 1, .rw, 0⟩, ⟨0, 1, .rw, 0⟩]⟩,
  ⟨0x2001c, [], false, [⟨0, 32, .rc, 0⟩]⟩,
  ⟨0x20020, [], false, [⟨0, 32, .rc, 0⟩]⟩,
  ⟨0x20024, [], false, [⟨0, 32, .rc, 0⟩]⟩,
  ⟨0x20028, [], true, [⟨0, 64, .ro, 0⟩]⟩,
  ⟨0x20100, [(0x4, 12)], false, [⟨0, 1, .rw, 0⟩, ⟨4, 1, .rw, 0⟩, ⟨8, 1, .rw, 0⟩, ⟨12, 1, .rw, 0⟩, ⟨16, 1, .rw, 0⟩, ⟨20, 1, .rw, 0⟩, ⟨24, 1, .rw, 0⟩, ⟨28, 1, .rw, 0⟩, ⟨1, 2, .rw, 1⟩, ⟨5, 2, .rw, 1⟩, ⟨9, 2, .rw, 1⟩, ⟨13, 2, .rw, 1⟩, ⟨17, 2, .rw, 1⟩, ⟨21, 2, .rw, 1⟩, ⟨25, 2, .rw, 1⟩, ⟨29, 2, .rw, 1⟩]⟩,
  ⟨0x20400, [(0x10, 96)], false, [⟨29, 3, .ro, 0⟩, ⟨25, 4, .ro, 0⟩, ⟨21, 4, .ro, 0⟩, ⟨20, 1, .ro, 0⟩, ⟨18, 2, .ro, 0⟩, ⟨0, 16, .ro, 0⟩]⟩]

/-- Register tables, block PWR part 1. -/
def pwrRegs1 : List RDesc := [
  ⟨0x20404, [(0x10, 96)], false, [⟨16, 16, .rc, 0⟩, ⟨0, 16, .rc, 0⟩]⟩,
  ⟨0x20408, [(0x10, 96)], false, [⟨0, 32, .rc, 0⟩]⟩,
  ⟨0x21000, [(0x8, 2)], false, [⟨0, 32, .ro, 0⟩]⟩,
  ⟨0x21004, [], false, [⟨0, 32, .ro, 10000⟩]⟩,
  ⟨0x2100c, [], false, [⟨0, 32, .ro, 10⟩]⟩,
  ⟨0x21010, [], false, [⟨16, 16, .ro, 65535⟩, ⟨0, 16, .ro, 65535⟩]⟩,
  ⟨0x21014, [], false, [⟨16, 12, .ro, 0⟩, ⟨0, 16, .ro, 0⟩]⟩,
  ⟨0x21018, [(0x4, 2)], false, [⟨24, 6, .ro, 0⟩, ⟨16, 6, .ro, 0⟩, ⟨8, 6, .ro, 0⟩, ⟨0, 6, .ro, 63⟩]⟩,
  ⟨0x21020, [(0x4, 4)], false, [⟨0, 4, .ro, 15⟩, ⟨4, 4, .ro, 15⟩, ⟨8, 4, .ro, 15⟩, ⟨12, 4, .ro, 15⟩, ⟨16, 4, .ro, 15⟩, ⟨20, 4, .ro, 15⟩, ⟨24, 4, .ro, 15⟩, ⟨28, 4, .ro, 15⟩]⟩,
  ⟨0x21030, [], false, [⟨31, 1, .ro, 0⟩, ⟨30, 1, .ro, 0⟩, ⟨24, 6, .ro, 63⟩, ⟨16, 6, .ro, 63⟩, ⟨8, 6, .ro, 0⟩]⟩,
  ⟨0x21034, [], false, [⟨0, 32, .rc, 0⟩]⟩,
  ⟨0x21038, [], false, [⟨0, 32, .rc, 0⟩]⟩,
  ⟨0x2103c, [(0x4, 4)], false, [⟨0, 32, .rc, 0⟩]⟩]

/-- Register tables, block PWR part 2. -/
def pwrRegs2 : List RDesc := [
  ⟨0x2104c, [], false, [⟨0, 32, .rc, 0⟩]⟩,
  ⟨0x21100, [(0x40, 2), (0x4, 16)], false, [⟨24, 6, .ro, 0⟩, ⟨0, 10, .ro, 0⟩]⟩]

/-- Register tables, block PWR. -/
def pwrRegs : List RDesc := pwrRegs0 ++ pwrRegs1 ++ pwrRegs2

/-- Register tables, block TEL. -/
def telRegs : List RDesc := [
  ⟨0x30000, [], false, [⟨0, 32, .ro, 0⟩]⟩,
  ⟨0x30004, [(0x4, 2)], false, [⟨0, 32, .ro, 0⟩]⟩,
  ⟨0x3000c, [], false, [⟨24, 8, .ro, 0⟩, ⟨0, 16, .ro, 0⟩]⟩,
  ⟨0x30010, [(0x4, 2)], false, [⟨0, 32, .rc, 0⟩]⟩,
  ⟨0x30018, [], false, [⟨0, 32, .rc, 0⟩]⟩,
  ⟨0x30020, [], true, [⟨0, 64, .ro, 0⟩]⟩,
  ⟨0x30028, [], true, [⟨0, 64, .ro, 0⟩]⟩,
  ⟨0x30040, [(0x8, 7)], true, [⟨0, 64, .ro, 0⟩]⟩,
  ⟨0x30100, [(0x4, 64)], false, [⟨31, 1, .ro, 0⟩, ⟨0, 16, .ro, 0⟩]⟩,
  ⟨0x30200, [(0x4, 24)], false, [⟨31, 1, .ro, 0⟩, ⟨16, 11, .rc, 0⟩, ⟨0, 11, .ro, 0⟩]⟩,
  ⟨0x30800, [(0x8, 256)], true, [⟨0, 64, .ro, 0⟩]⟩]

/-- Register tables, block SEC. -/
def secRegs : List RDesc := [
  ⟨0x40000, [], false, [⟨31, 1, .ro, 0⟩, ⟨30, 1, .ro, 0⟩, ⟨29, 1, .ro, 0⟩, ⟨28, 1, .ro, 0⟩, ⟨16, 4, .ro, 0⟩, ⟨12, 2, .ro, 0⟩, ⟨10, 2, .ro, 0⟩, ⟨8, 2, .ro, 0⟩, ⟨0, 7, .ro, 0⟩]⟩,
  ⟨0x40004, [], false, [⟨16, 16, .ro, 0⟩, ⟨0, 16, .ro, 0⟩]⟩,
  ⟨0x40008, [], false, [⟨16, 7, .ro, 0⟩, ⟨8, 2, .ro, 0⟩]⟩,
  ⟨0x4000c, [], false, [⟨0, 32, .ro, 0⟩]⟩,
  ⟨0x40010, [], false, [⟨0, 32, .rc, 0⟩]⟩,
  ⟨0x40014, [], false, [⟨0, 32, .rc, 0⟩]⟩,
  ⟨0x40020, [(0x4, 8)], false, [⟨0, 32, .ro, 0⟩]⟩,
  ⟨0x40100, [(0x20, 4), (0x4, 8)], false, [⟨0, 32, .ro, 0⟩]⟩]

/-- Register tables, block CAL. -/
def calRegs : List RDesc := [
  ⟨0x50000, [], false, [⟨31, 1, .ro, 0⟩, ⟨16, 11, .ro, 0⟩, ⟨8, 8, .ro, 0⟩]⟩,
  ⟨0x50004, [], false, [⟨0, 32, .rc, 0⟩]⟩,
  ⟨0x50008, [], false, [⟨0, 32, .rc, 0⟩]⟩,
  ⟨0x50100, [(0x4, 64)], false, [⟨16, 16, .ro, 0⟩, ⟨0, 16, .ro, 0⟩]⟩,
  ⟨0x50200, [(0x4, 7)], false, [⟨0, 16, .ro, 0⟩]⟩]

/-- Register tables, block TST. -/
def tstRegs : List RDesc := [
  ⟨0x60000, [], false, [⟨31, 1, .ro, 0⟩, ⟨30, 1, .ro, 0⟩, ⟨27, 3, .ro, 0⟩, ⟨25, 2, .ro, 0⟩, ⟨0, 10, .ro, 0⟩]⟩,
  ⟨0x60004, [], false, [⟨0, 32, .rc, 0⟩]⟩,
  ⟨0x60008, [], false, [⟨0, 32, .rc, 0⟩]⟩,
  ⟨0x60010, [(0x4, 3)], false, [⟨0, 32, .ro, 0⟩]⟩,
  ⟨0x6001c, [], false, [⟨0, 24, .ro, 0⟩]⟩,
  ⟨0x60020, [], false, [⟨0, 32, .ro, 0⟩]⟩]

/-- Register tables, block FLT. -/
def fltRegs : List RDesc := [
  ⟨0x70000, [], false, [⟨30, 2, .ro, 0⟩, ⟨26, 4, .ro, 0⟩, ⟨2, 1, .ro, 0⟩, ⟨1, 1, .ro, 0⟩, ⟨0, 1, .ro, 0⟩]⟩,
  ⟨0x70004, [], false, [⟨0, 32, .ro, 0⟩]⟩,
  ⟨0x70008, [], false, [⟨0, 32, .ro, 0⟩]⟩,
  ⟨0x7000c, [], false, [⟨16, 11, .ro, 0⟩, ⟨0, 11, .ro, 0⟩]⟩,
  ⟨0x70010, [], false, [⟨0, 32, .rc, 0⟩]⟩,
  ⟨0x70014, [], false, [⟨0, 32, .rc, 0⟩]⟩,
  ⟨0x70018, [], false, [⟨0, 32, .rc, 0⟩]⟩,
  ⟨0x7001c, [], false, [⟨0, 32, .rc, 0⟩]⟩,
  ⟨0x70020, [], false, [⟨31, 1, .wo, 0⟩, ⟨30, 1, .rw, 0⟩, ⟨0, 16, .rw, 100⟩]⟩,
  ⟨0x70024, [], false, [⟨0, 8, .ro, 0⟩]⟩,
  ⟨0x70028, [], false, [⟨0, 32, .ro, 0⟩]⟩,
  ⟨0x7002c, [], false, [⟨0, 32, .rc, 0⟩]⟩]


/-- The tables of the block that holds an address (R69). -/
def blockRegs (a : Nat) : List RDesc :=
  if a < 0x10000 then evgRegs
  else if a < 0x20000 then []
  else if a < 0x30000 then pwrRegs
  else if a < 0x40000 then telRegs
  else if a < 0x50000 then secRegs
  else if a < 0x60000 then calRegs
  else if a < 0x70000 then tstRegs
  else if a < 0x80000 then fltRegs
  else if a < 0xA0000 then plnRegs
  else if a < 0xE0000 then dmaRegs
  else if a < 0x100000 then lnkRegs
  else if a < 0x200000 then queRegs
  else if a < 0x280000 then bndRegs
  else if a < 0x290000 then winRegs
  else if a < 0x298000 then rolRegs
  else if a < 0x2A0000 then cmnRegs
  else if a < 0x400000 then []
  else if a < 0xA00000 then corRegs
  else []

/-- Whether `off`, counted from a table row's base, starts one of its instances. -/
def inDims : List (Nat × Nat) → Nat → Bool
  | [], off => off == 0
  | (s, n) :: ds, off => decide (off / s < n) && inDims ds (off % s)

/-- The table row whose instance starts at `a`, if the layout assigns `a` (R71); the high half of a pair is found at
its low half. -/
def findReg (a : Nat) : Option RDesc :=
  (blockRegs a).find? fun r => decide (r.base ≤ a) && inDims r.dims (a - r.base)

/-- Reset value of the field with a key (R118 and the like); keys the tables do not hold read 0. PHYS_CORE (R116) and
CLASS (R414) are constants of their instance. -/
def resetOf (key : Nat) : Nat :=
  let a := key / 32
  match findReg a with
  | none => 0
  | some r => ((r.fields.find? fun f => f.lo == key % 32).map FDesc.reset).getD 0

end Sys2Proof.Machine
end

