-- ==== Sys2Proof/Machine/State.lean ====
section
/-! DEFINITION. The state of the die as plain data: its registers, scratchpad, and the queues, buffers and records the
manual gives it, with the queue of commands that wait. -/

namespace Sys2Proof.Machine

/-- Why the block stops. -/
inductive Fault where
  /-- A flit operand that no wire carries: not 15 slots of 16 bytes (R377). Raised by the flit commands. Safe: no
  hardware behaviour is claimed for it. -/
  | illFormed
  deriving DecidableEq, Repr

/-- Why a command has no meaning. -/
inductive Refusal where
  /-- A command without a meaning yet. Safe: the model stops. -/
  | notModelled (mnemonic : String)
  deriving DecidableEq, Repr

/-- Scratchpad contents: key is physical core × 4 MiB + byte (R52). An unlisted byte reads 0, in a lost bank a free
value of the epoch of its loss (R145); `lost` lists bank (physical core × 16 + bank) and epoch. -/
structure Mem where
  cells : List Host.Cell := []
  lost : List (Nat × Nat) := []
  deriving DecidableEq, Repr

/-- An event record (R558). -/
structure EvRec where
  severity : Nat
  kind : Nat
  status : Nat
  code : Nat
  index : Nat
  time : Nat
  unit : Nat
  context : Nat
  detail : Nat
  deriving DecidableEq, Repr

/-- A completion record (R338). -/
structure CRec where
  kind : Nat
  halted : Bool := false
  retries : Nat := 0
  status : Nat
  ring : Nat
  origin : Nat
  engine : Nat := 0
  channel : Nat := 0
  tag : Nat := 0
  value : Nat := 0
  bytes : Nat := 0
  fault : Nat := 0
  /-- It was sent on a link before and rejected: it is counted. It keeps the slot of a ring index (R580). -/
  counted : Bool := false
  slot : Option Nat := none
  deriving DecidableEq, Repr

/-- Who an answer to a binder operation goes to (R356, R369). -/
inductive Origin where
  | core (p : Nat)
  | dma (ch : Nat)
  /-- The work entry of a queue at a ring index. -/
  | work (q idx : Nat)
  /-- The binder unit's own ADD to a parent or RELEASE (R582). -/
  | unit
  | hedger
  /-- A message or WRITE that arrived on a link. -/
  | link (i : Nat)
  /-- The notify of a record queue (R342) or a window count (R363). -/
  | notify
  /-- A completion record on its way to an index of its ring, tried again so many times (R580). -/
  | record (cq idx : Nat) (r : CRec) (tries : Nat)
  /-- An event record on its way to an index of its ring. -/
  | event (eq idx : Nat) (r : EvRec) (tries : Nat)
  deriving DecidableEq, Repr

/-- An operation the binder unit has still to perform (R350). -/
structure BOp where
  address : Nat
  /-- Operation register offset: 0 ARRIVE, 4 ADD, 8 RESET, 12 WAIT, 32 ROLE_PULSE; 64 is RELEASE from a parent. -/
  op : Nat
  value : Nat
  from_ : Origin
  deriving DecidableEq, Repr

/-- An outbound binder message and the operations merged in it (R356). -/
structure BOut where
  address : Nat
  op : Nat
  value : Nat
  /-- STATUS of a NAK. -/
  status : Nat := 0
  froms : List Origin
  deriving DecidableEq, Repr

/-- A reply to a command packet (R417). -/
structure Reply where
  opcode : Nat
  version : Nat
  devSeq : Nat
  hostSeq : Nat
  status : Nat
  duplicate : Bool := false
  tag : Nat
  season : Nat
  results : List Byte := []
  deriving DecidableEq, Repr

/-- What the die sends on a virtual channel of a link (R380, R355, R515). -/
inductive OutPkt where
  | write (tag : Nat) (season : Option Nat) (ackReq : Bool) (addr : Nat) (data : List Byte)
  | readback (tag : Nat) (season : Option Nat) (addr len : Nat)
  | read (tag : Nat) (addr len : Nat)
  | data (tag status : Nat) (data : List Byte)
  | status (tag code : Nat)
  | reply (r : Reply)
  | mgmt (m : Mgmt)
  /-- A rail set-point request, in mV, 0 for off (R29); its format belongs to the package (R384). -/
  | railRequest (east : Bool) (mv : Nat)
  /-- An order to the SB1 of package memory test (R461); its format belongs to the package (R384). -/
  | memtest (full : Bool)
  deriving DecidableEq, Repr

/-- A control flit that is due (R390, R401, R403, R408 to R410). -/
inductive Ctl where
  | laneCheck
  | configEcho
  | reconfigReq (used : Nat) (switchSeq : Nat)
  | trickleReq
  | trickleAck
  | rustle
  deriving DecidableEq, Repr

/-- What a sender puts on the wire at a flit boundary (R392). -/
inductive Wire where
  | flit (f : Flit)
  /-- LANE_CHECK whose payload begins at this byte of the PRBS31 stream (R390). -/
  | laneCheck (pos : Nat)
  | configEcho (e : Echo)
  | reconfigReq (used switchSeq : Nat)
  | trickleReq
  | trickleAck
  | keepalive
  | rustle
  deriving DecidableEq, Repr

/-- An accepted unscheduled write on its way to a core's banks (R132). -/
structure InWrite where
  /-- Its place in the order in which the die accepted unscheduled accesses (R134). -/
  seq : Nat
  /-- Byte in the core's 4 MiB. -/
  off : Nat
  data : List Byte
  from_ : Origin
  /-- Tag of the link packet that carried it. -/
  tag : Nat := 0
  /-- Window that accepted it and counts it (R363). -/
  window : Option Nat := none
  /-- Its packet asks for an answer (R382). -/
  ack : Bool := false
  deriving DecidableEq, Repr

/-- Who gets the row of an unscheduled read. -/
inductive ReadFor where
  /-- A beat of a DMA channel. -/
  | dma (ch beat : Nat)
  /-- A READ or, if `back`, a READBACK that arrived on a link with a tag. -/
  | link (i tag : Nat) (back : Bool)
  deriving DecidableEq, Repr

/-- An accepted unscheduled read (R132): what it reads, and who gets the row. -/
structure InRead where
  seq : Nat
  off : Nat
  len : Nat
  dest : ReadFor
  deriving DecidableEq, Repr

/-- What an open row carries (R285). -/
inductive RowLoad where
  /-- A write to a physical core. -/
  | write (p : Nat) (w : InWrite)
  /-- A read of a physical core. -/
  | read (p : Nat) (r : InRead)
  /-- Row k for an inbound stream of an adapter (R286). -/
  | stream (adapter stream k : Nat) (w : InWrite)
  /-- A packet for a link, on its way to the link's adapter. -/
  | out (link vc : Nat) (pkt : OutPkt)
  /-- Data of a beat of a DMA channel's local read, on its way to the link's adapter that writes it. -/
  | back (ch beat : Nat) (data : List Byte)
  deriving DecidableEq, Repr

/-- An open row held at a router (R285). -/
structure OpenRow where
  /-- Where it entered the router: 0 here, 1 N, 2 S, 3 E, 4 W. -/
  from_ : Nat
  /-- Adapter in whose open region it waits (R268), none for a row of another source. -/
  home : Option Nat
  /-- Destination clump. -/
  dest : Nat
  load : RowLoad
  deriving DecidableEq, Repr

/-- A row written by output WB0 or WB1 that lands when its cycles are over (R276). -/
structure WbRow where
  left : Nat
  /-- Physical core and row of its scratchpad. -/
  p : Nat
  row : Nat
  data : List Byte
  rel : Bool
  deriving DecidableEq, Repr

/-- A row in a stile FIFO: cycles of the sending and of the receiving half still to pass (R290), and the network cycle in
which it had crossed. -/
structure StileRow where
  row : List Byte
  send : Nat
  recv : Nat
  at_ : Nat := 0
  deriving DecidableEq, Repr

/-- A clump router's rows (R270 to R276, R290). Lanes carry the source codes of R273. -/
structure RouterSt where
  /-- Rows held on sources 1 to 11; a lane with none reads as zeros. -/
  held : List (Nat × List Byte) := []
  /-- The network cycle in which each of them came (R283). -/
  heldAt : List (Nat × Nat) := []
  /-- Stile FIFOs of input lanes. -/
  stile : List (Nat × List StileRow) := []
  /-- Rows under way to a source: entries left, source code, row. -/
  flights : List (Nat × Nat × List Byte) := []
  /-- Operands under way into the accumulator: entries left, BF16, row. -/
  accIn : List (Nat × Bool × List Byte) := []
  /-- The accumulator's 128 FP32 values; empty is +0.0 throughout. -/
  acc : List Word := []
  /-- Format of the last ACC operation is BF16. -/
  accBf : Bool := false
  wbs : List WbRow := []
  /-- Stile lanes whose late row has been counted (R291). -/
  late : List Nat := []
  /-- Open rows held, in order of arrival. -/
  opens : List OpenRow := []
  deriving DecidableEq, Repr

/-- An adapter stream binding (R294). -/
structure Binding where
  adapter : Nat
  kind : Nat
  cap : Nat
  tag : Nat
  dest : Nat
  deriving DecidableEq, Repr

/-- A section of a schedule block (R293) with its progress (R275, R296). -/
structure PlnSection where
  clump : Nat
  streamMask : Nat
  own : Nat
  first : Nat
  periods : Nat
  /-- Images of the 16 stream registers, as 64-bit numbers. -/
  streams : List Nat
  bindings : List Binding
  /-- Slot entries, as 128-bit numbers. -/
  entries : List Nat
  /-- Periods begun since it was loaded. -/
  ran : Nat := 0
  /-- Earlier uses of each stream register. -/
  uses : List (Nat × Nat) := []
  deriving DecidableEq, Repr

/-- A loaded schedule block and the kernel that owns it (R109, R297). -/
structure PlnBlock where
  queue : Nat
  idx : Nat
  sections : List PlnSection
  deriving DecidableEq, Repr

/-- A bound adapter stream (R286 to R289). -/
structure AdpStream where
  queue : Nat
  idx : Nat
  cap : Nat
  tag : Nat
  dest : Nat
  /-- Next row index to take or push. -/
  next : Nat := 0
  /-- Rows held by row index, ascending. -/
  rows : List (Nat × List Byte) := []
  /-- The network cycle in which each of them came (R283). -/
  came : List (Nat × Nat) := []
  deriving DecidableEq, Repr

/-- A READBACK of space 2, 3 or 5 that waits for earlier writes of its link to land (R328): their bound in the order of
acceptance, its tag, address, length and season. -/
structure BackWait where
  seq : Nat
  tag : Nat
  addr : Nat
  len : Nat
  season : Option Nat
  /-- The rejection it met when it arrived. -/
  status : Option Nat := none
  deriving DecidableEq, Repr

/-- An entry of the binder unit's inbound queue (R357): a message, or a VC0 WRITE into space 2 with its TAG, whether it asks
for an answer, its address and its value. -/
inductive InMsg where
  | msg (m : BinderMsg)
  | write (tag : Nat) (ack : Bool) (address value : Nat)
  deriving DecidableEq, Repr

/-- A descriptor in an engine's issue queue (R89, R90). -/
structure QDesc where
  seq : Nat
  tag : Nat
  notify : Bool
  barrier : Bool
  pc : Nat
  bytes : List Byte
  /-- Its ranges stand in the scoreboard (R102). -/
  entered : Bool
  deriving DecidableEq, Repr

/-- A live scoreboard entry's place in the order of R138 and the descriptor or transfer that owns it. -/
structure SbOrd where
  entry : Nat
  /-- Issue sequence number of its descriptor, or DMA channel; none for a claim. -/
  owner : Option (Sum Nat Nat)
  deriving DecidableEq, Repr

/-- A pending WAIT (R93). -/
structure WaitReq where
  mask : Nat
  all : Bool
  clear : Bool
  power : Bool
  deriving DecidableEq, Repr

/-- A guard record (R219). -/
structure GuardRec where
  words : List Word
  deriving DecidableEq, Repr

/-- Matrix accumulators held between descriptors (R169 to R171): format code and values, row-major. -/
structure AccSt where
  rows : Nat
  cols : Nat
  words : List Word
  deriving DecidableEq, Repr

/-- Results a running descriptor has computed and not landed (R192, R256). -/
structure RunDesc where
  desc : QDesc
  /-- Byte address in the clump's 16 MiB and data of each store still to land. -/
  stores : List (Nat × List Byte) := []
  /-- Lane-rows of a chain (R225). -/
  rows : Nat := 0
  /-- The accumulator it leaves held (R169). -/
  acc : Option AccSt := none
  /-- Cycles of its stream that have passed, for the block it streams (R185). -/
  cc : Nat := 0
  /-- Cycles its stream waits (R187, R189, R191). -/
  stall : Nat := 0
  deriving DecidableEq, Repr

/-- A physical core beside its registers and banks (R72). -/
structure CoreSt where
  /-- Instruction memory; words not written since reset read 0, a value the manual does not give (R74; log 5). -/
  imem : List (Nat × Word) := []
  /-- Epoch of the loss of the instruction memory (R475): words not written since are free values. -/
  imemLost : Option Nat := none
  /-- IMAGE_ID and code table entry resident (R109). -/
  imemOwner : Option (Nat × Nat) := none
  /-- Microcode RAM, 32 KiB: the bytes Hedger firmware wrote last, none after Bare (R72, R73). -/
  ucode : List Byte := []
  /-- Scalar registers s1 to s31, unlisted 0: the manual gives no value before a launch sets them (R75, R109; log 6). -/
  sregs : List (Nat × Word) := []
  mxq : List QDesc := []
  vxq : List QDesc := []
  mxRun : Option RunDesc := none
  /-- The matrix descriptor before it, whose output drains (R191). -/
  mxDrain : Option RunDesc := none
  vxRun : Option RunDesc := none
  /-- Issue sequence number of the next descriptor. -/
  nextSeq : Nat := 0
  acc : Option AccSt := none
  /-- Guard records held, oldest first, at most 16 (R219). -/
  guardRecs : List GuardRec := []
  /-- Seed of each engine's stochastic rounding and draws taken from it (R177, R246). -/
  mxSeed : Nat := 0
  mxDraws : Nat := 0
  vxSeed : Nat := 0
  vxDraws : Nat := 0
  /-- Order of live scoreboard entries, oldest first (R138). -/
  sbOrder : List SbOrd := []
  /-- POSTs outstanding (R85). -/
  postsOut : Nat := 0
  wait : Option WaitReq := none
  /-- Inbound write buffer, at most 16 (R132). -/
  inbox : List InWrite := []
  /-- Inbound read queue, at most 8 (R132). -/
  readq : List InRead := []
  /-- Words a read corrected, still to be written back: bank and row (R142). -/
  writeback : List (Nat × Nat) := []
  /-- Target state of the power transition in progress (R494). -/
  target : Nat := 0
  /-- Wake latch: COR_EVENT bits captured below Leaf (R482). -/
  latch : Nat := 0
  /-- State to return to after a MEM_ACCESS wake (R150, R486). -/
  returnTo : Option Nat := none
  /-- Long operation of the SET_POWER_STATE in progress. -/
  powerOp : Option Nat := none
  /-- A wake to begin when the entry in progress completes: its cause (R485, R494). -/
  wakeAfter : Option Nat := none
  /-- State to return to from FROZEN (R99). -/
  frozenFrom : Option Nat := none
  /-- Frozen for a cause of its own, not by its half's stall (R99, R279). -/
  frozenOwn : Bool := false
  /-- Its kernel's start waits for the period boundary of its half (R110). -/
  startWaits : Bool := false
  deriving DecidableEq, Repr

/-- A kernel from its launch checks to its completion (R107 to R114). -/
structure Kernel where
  queue : Nat
  /-- Ring index of its entry. -/
  idx : Nat
  tag : Nat
  account : Nat
  /-- Logical cores of CORE_SET, ascending. -/
  cores : List Nat
  /-- The physical cores that hold them. -/
  phys : List Nat
  imageId : Nat
  scoreboard : Bool
  phaseClass : Nat
  slack : Nat
  /-- Code of each core: code table entry number, words and entry pc. -/
  code : List (Nat × List Word × Nat)
  sched : Option (List Byte)
  param : List Byte
  paramDest : Nat
  /-- FORCE_RELOAD (R434). -/
  reload : Bool
  /-- Order in which its doorbell arrived (R108). -/
  order : Nat
  started : Bool := false
  /-- Cores still on their way to Leaf, which a scoreboard-mode kernel starts one by one (R110). -/
  loading : List Nat := []
  startTime : Nat := 0
  /-- First fatal error: logical core and code, and the completion status of the abort (R113). -/
  aborted : Option (Nat × Nat × Nat) := none
  /-- A core of the set was fenced while it ran (R115). -/
  unitFailed : Bool := false
  deriving DecidableEq, Repr

/-- A work entry that waits or is answered later: BINDER_OP, FENCE. -/
structure WorkEntry where
  idx : Nat
  tag : Nat
  /-- 0 ARRIVE, 1 ADD, 2 RESET, 3 AWAIT, 4 FENCE, 5 LAUNCH_KERNEL. -/
  op : Nat
  address : Nat := 0
  value : Nat := 0
  deriving DecidableEq, Repr

/-- A queue context beside its registers. -/
structure QueueSt where
  /-- Work entries taken and not completed, oldest first (R106). -/
  active : List WorkEntry := []
  /-- Records held for a full or failing COMPLETION ring (R341, R580). -/
  held : List CRec := []
  /-- QUEUE_DESTROY accepted and not completed (R312). -/
  destroying : Bool := false
  /-- TAIL values of the doorbells that cover entries not yet taken, with the order they arrived in (R108). -/
  bells : List (Nat × Nat) := []
  /-- RECORD_FAILED recorded and no record landed since (R580). -/
  failNoted : Bool := false
  /-- Physical core that holds a space-1 ring (R305). -/
  ringCore : Option Nat := none
  /-- Times the reads of the entry at HEAD, of its image and of its parameter block were retried (R107, R315). -/
  readTries : Nat := 0
  imageTries : Nat := 0
  paramTries : Nat := 0
  /-- Event records due for a ring on a fenced core (R305). -/
  heldEvents : List EvRec := []
  deriving DecidableEq, Repr

/-- A DMA read outstanding (R319): its beat, the link it left on, and the data that returned. -/
structure DmaOut where
  beat : Nat
  link : Option Nat
  data : Option (List Byte) := none
  /-- Times it was issued again (R333). -/
  tries : Nat := 0
  /-- Its read failed for good. -/
  lost : Bool := false
  deriving DecidableEq, Repr

/-- A DMA descriptor in progress (R320 to R336). -/
structure DmaRun where
  /-- Ring context and ring index. -/
  ring : Nat
  idx : Nat
  bytes : List Byte
  /-- Descriptor link (R326), none when both ends are local. -/
  link : Option Nat := none
  /-- Base link of each clump for reads into it, and the base link of its space-0 accesses, as chosen at the start. -/
  paths : List (Nat × Nat) := []
  base0 : Option Nat := none
  /-- Next beat to issue. -/
  beat : Nat := 0
  /-- Reads outstanding, in source order. -/
  out : List DmaOut := []
  /-- Leading bytes whose writes were issued. -/
  written : Nat := 0
  /-- Bytes read and not yet written. -/
  carry : List Byte := []
  retries : Nat := 0
  /-- First failure: status and FAULT word. -/
  failed : Option (Nat × Nat) := none
  /-- It halts the channel (R333). -/
  halts : Bool := false
  /-- A failed beat's bytes are missing; the leading bytes before it (R334). -/
  gap : Bool := false
  lead : Option Nat := none
  /-- A funnel channel rests every second cycle (R324). -/
  rest : Bool := false
  /-- Local cores whose scoreboard entry waits for room or is live (R137, R139). -/
  sbPend : List Nat := []
  sbLive : List Nat := []
  /-- What it waits for: 0 its data, 1 the read-back, 2 the CRC write, 3 the record, 4 the cleared OWN, 5 the arrive. -/
  step : Nat := 0
  deriving DecidableEq, Repr

/-- A DMA channel beside its registers. -/
structure ChanSt where
  run : Option DmaRun := none
  /-- CRC of the last descriptor since QUEUE_CREATE, 0 none (R332). -/
  crcKind : Nat := 0
  /-- A pause waits behind a read-back (R337). -/
  pauseAfter : Bool := false
  /-- It stopped at a descriptor without OWN and waits for a TAIL doorbell (R321). -/
  ownStop : Bool := false
  deriving DecidableEq, Repr

/-- Binder state beside the BND registers. -/
structure BinderSt where
  /-- Release list (R348). -/
  list : List Nat := []
  /-- Awaited release number of each waiting logical core (R351). -/
  waiters : List (Nat × Nat) := []
  /-- Owed ADDs to the parent and owed RELEASEs of each list entry (R582). -/
  owedUp : Nat := 0
  owedRel : List (Nat × Nat) := []
  deriving DecidableEq, Repr

/-- What an outstanding 0xFD tag of the die belongs to (R382). -/
inductive TagUse where
  | record (cq idx : Nat) (r : CRec) (tries : Nat)
  | event (eq idx : Nat) (r : EvRec) (tries : Nat)
  | other
  deriving DecidableEq, Repr

/-- A link beside its registers (chapter Die-to-Die Links). -/
structure LinkSt where
  /-- Packets waiting per virtual channel, oldest first. -/
  txq : List (Nat × OutPkt) := []
  /-- Bytes of a packet partly sent, per VC (R392). -/
  txPart : List (Nat × List Byte) := []
  /-- Tags of the WRITEs and READBACKs that each unacknowledged flit carries bytes of, by its SEQ, and that of the packet
  partly sent (R41). -/
  carried : List (Nat × Nat) := []
  partTag : Option Nat := none
  /-- Binder messages waiting for a flit, at most 64 (R356). -/
  bout : List BOut := []
  /-- Operations of the die's own agents that wait for a place (R582). -/
  bheld : List BOut := []
  /-- Binder messages sent and not answered, oldest first (R355). -/
  bwait : List BOut := []
  vc5out : List Vc5Msg := []
  ctlDue : List Ctl := []
  txSeq : Nat := 0
  rxSeq : Nat := 0
  replay : List Flit := []
  /-- Flits to put on the wire before new ones: after a RETRY those of the replay buffer, after a training those that it
  held (R387, R402). -/
  resend : List Flit := []
  /-- Times the oldest unacknowledged flit has been resent (R389). -/
  resends : Nat := 0
  /-- Times in µs of the RETRYs received in the last 1 ms (R389). -/
  retryTimes : List Nat := []
  retryPending : Bool := false
  /-- A DATA flit is missing: every other is discarded until it arrives (R386). -/
  gap : Bool := false
  rxPart : List (Nat × List Byte) := []
  /-- Credits still to return, per VC (R391). -/
  creditDue : List (Nat × Nat) := []
  /-- DATA flits sent since the last LANE_CHECK became due. -/
  sinceCheck : Nat := 0
  /-- Position in the PRBS31 stream of sent and received LANE_CHECKs (R390). -/
  prbsTx : Nat := 0
  prbsRx : Nat := 0
  /-- Turn of VC0 to VC2 (R392). -/
  turn : Nat := 0
  /-- Times of lane-check errors: lane and µs (R389). -/
  laneErrTimes : List (Nat × Nat) := []
  /-- Saved settings valid for the first attempt (R397): good mask and EQ words. -/
  saved : Option (Nat × List Nat) := none
  /-- They came from a settings blob (R457). -/
  savedBlob : Bool := false
  /-- Lanes good on both sides in the last agreed map (R404). -/
  bothGood : Nat := 0
  /-- This attempt uses saved settings. -/
  fastAttempt : Bool := false
  partnerMask : Nat := 0
  /-- It left an up state without being declared down: LAST_SEQ is sent and flits are resent (R402). -/
  keepTraffic : Bool := false
  activeSince : Nat := 0
  echoSeen : Bool := false
  /-- Map named by RECONFIG_REQ and its switch sequence number (R403). -/
  reconfig : Option (Nat × Nat) := none
  trickleSent : Bool := false
  /-- No flit has gone out since it became ACTIVE: CONFIG_ECHO goes first (R401). -/
  first : Bool := false
  /-- The CONFIG this side sent in the attempt (R400). -/
  config : Option LinkConfig := none
  /-- State before LOOPBACK or BER_TEST. -/
  prior : Nat := 1
  /-- LINK_RETRAIN operation that waits on it. -/
  op : Option Nat := none
  /-- Operation of the loopback that runs, and of the qualification that names it (R412, R413). -/
  loopOp : Option Nat := none
  berOp : Option Nat := none
  /-- Result bytes of its last qualification, until the operation finishes. -/
  berRes : List Byte := []
  /-- READBACKs not yet answered (R328). -/
  backs : List BackWait := []
  /-- The lane width before the last retraining, for LINK_NARROWED. -/
  oldWidth : Nat := 0
  /-- Attempts begun since it left ACTIVE or its count was cleared (R397). -/
  tries : Nat := 0
  /-- Its transmitters listen for the partner (R38, R396). -/
  listening : Bool := false
  /-- The next attempt must not use saved settings (R401). -/
  distrust : Bool := false
  /-- Good-lane masks of both sides in this attempt (R399). -/
  ownMask : Nat := 0
  /-- What it sent last. -/
  wire : Option Wire := none
  /-- The flit it sent last as it went on the wire, CONTROL flits too (R377). -/
  flitOut : Option Flit := none
  /-- The bits of it on each physical lane, in the order sent (R376, R399). -/
  lanes : List (Nat × List Bool) := []
  /-- State of the PRBS31 generator of its LANE_CHECKs, none before the first (R390). -/
  prbs : Option Nat := none
  deriving DecidableEq, Repr

/-- A long operation (R426 to R429). -/
structure LongOp where
  id : Nat
  opcode : Nat
  hostSeq : Nat
  tag : Nat
  /-- Object number: link, queue, window or core; 0 for the die (R427). -/
  object : Nat
  /-- 0 running, 1 pending, 2 finished. -/
  state : Nat
  status : Nat
  progress : Nat := 0
  season : Nat
  finalDevSeq : Nat := 0
  /-- DEV_SEQ of a poll reply that returned the last part of the final results (R429). -/
  confirmSeq : Option Nat := none
  started : Nat
  results : List Byte := []
  deriving DecidableEq, Repr

/-- The session (R417 to R429). -/
structure Session where
  next : Nat := 0
  dev : Nat := 0
  seen : Nat := 0
  season : Nat := 0
  agreed : Nat := 0
  hostId : Nat := 0
  helloSeq : Nat := 0
  helloTag : Nat := 0
  helloReply : Option Reply := none
  /-- Replies of the 64 host sequence numbers below `next`, newest first (R423). -/
  cache : List Reply := []
  /-- Packets held ahead of order with their opcode (R421). -/
  held : List (Nat × Packet) := []
  /-- Packets that wait until the die is awake (R496). -/
  asleep : List (Nat × Packet) := []
  ops : List LongOp := []
  nextOp : Nat := 1
  deriving DecidableEq, Repr

/-- A core rail (R29, R30): its acknowledged set point in mV, 0 for off, and the set points requested and not yet
acknowledged, oldest first. -/
structure RailSt where
  mv : Nat := 750
  requests : List Nat := []
  /-- The glide in progress was caused by a cap or pace match (R473). -/
  capGlide : Bool := false
  deriving DecidableEq, Repr

/-- A dieback entry (R450). -/
structure Dieback where
  kind : Nat
  source : Nat
  unit : Nat
  detail : Nat := 0
  time : Nat := 0
  cause : Nat := 0
  fused : Bool := false
  /-- FUSE_VPP refused its commit, which the next start tries again (R25). -/
  retry : Bool := false
  deriving DecidableEq, Repr

/-- A slot of the learned-defect fuse journal (R452, R453): its data fuses, and whether the valid fuse is programmed. A
slot without it is spent. -/
structure JournalSlot where
  kind : Nat
  unit : Nat
  detail : Nat
  valid : Bool
  deriving DecidableEq, Repr

/-- Maximum frequency code and design power in mW that a grade fuses (R4, R472): 2.0 GHz and 850 W for A, 1.8 GHz and 700 W
for B, 1.5 GHz and 520 W for C. -/
def gradeLimits (grade : Nat) : Nat × Nat :=
  if grade = 0 then (48, 850000) else if grade = 1 then (40, 700000) else (28, 520000)

/-- The fuse array: what manufacture programmed and what the die programs (R4, R449, R452, R507, R527, R531, R535 to
R537, R545). No reset changes it. The values given here are those of a grade A part with the manual's typical operating
points and nothing else programmed (log 32). -/
structure Fuses where
  /-- 0 A, 1 B, 2 C. -/
  grade : Nat := 0
  revision : Nat := 0
  mapRevision : Nat := 0
  maker : Nat := 0
  /-- Maximum frequency code and design power of the grade. -/
  fmax : Nat := (gradeLimits 0).1
  designMw : Nat := (gradeLimits 0).2
  sramVmin : Nat := 0
  retVmin : Nat := 0
  /-- STRESS_V, STRESS_H, LIMIT of LNK_QUAL. -/
  qual : Nat × Nat × Nat := (15, 10, 4)
  /-- Frequency code and millivolts of west OP0 to OP15, then east. -/
  ops : List (Nat × Nat) :=
    [(0, 550), (4, 570), (8, 590), (12, 610), (16, 630), (20, 650), (24, 675), (28, 700), (32, 720), (36, 740), (38, 750),
     (40, 760), (42, 770), (44, 780), (46, 790), (48, 800)] ++
    [(0, 550), (4, 570), (8, 590), (12, 610), (16, 630), (20, 650), (24, 675), (28, 700), (32, 720), (36, 740), (38, 750),
     (40, 760), (42, 770), (44, 780), (46, 790), (48, 800)]
  /-- Thermal offsets, then voltage monitor offsets, as 16-bit words; unlisted 0. -/
  offsets : List Nat := []
  /-- Section 3, 4 and 5 of R545; unlisted bytes 0. -/
  energyModel : List Byte := []
  eqSeeds : List Byte := []
  coreVmin : List Byte := []
  certDigest : List Byte := []
  /-- Identity seed (R527). -/
  seed : List Byte := []
  /-- Digest of each vendor key slot; unlisted all 0 (R535). -/
  vendor : List (List Byte) := []
  /-- Programmed fuses of the security version row and of the revocation row. -/
  svn : Nat := 0
  revoked : Nat := 0
  /-- Factory dieback entries: KIND, UNIT, DETAIL. -/
  factory : List (Nat × Nat × Nat) := []
  /-- Journal slots with any fuse programmed, at most 192. -/
  journal : List JournalSlot := []
  deriving DecidableEq, Repr

/-- The fuse array of a grade (R4): that of grade A with the grade's limits and no operating point above them. -/
def Fuses.ofGrade (grade : Nat) : Fuses :=
  let f : Fuses := {}
  let l := gradeLimits grade
  { f with grade, fmax := l.1, designMw := l.2, ops := f.ops.map fun o => (min o.1 l.1, o.2) }

/-- A receiver of an image transfer (R442, R443): a physical core, its chunks, and failed writes of each chunk. -/
structure Receiver where
  core : Nat
  got : List Nat := []
  fails : List (Nat × Nat) := []
  deriving DecidableEq, Repr

/-- An image transfer (R443 to R448, R581). -/
structure Transfer where
  target : Nat
  id : Nat
  size : Nat
  chunks : Nat
  digest : List Byte
  /-- Chunks in Hedger SRAM. -/
  data : List (Nat × List Byte) := []
  receivers : List Receiver := []
  /-- Commit that runs. -/
  op : Option Nat := none
  committed : Bool := false
  deriving DecidableEq, Repr

/-- A committed image (R446, R533 to R538). -/
structure Image where
  bytes : List Byte
  svn : Nat
  advanceTo : Nat
  revokeTo : Nat
  slot : Nat
  deriving DecidableEq, Repr

/-- A LINKS record of a settings blob (R455). -/
structure SavedLink where
  link : Nat
  width : Nat
  good : Nat
  eq : List Nat
  deriving DecidableEq, Repr

/-- An accepted settings blob (R456, R457). -/
structure Restored where
  dieback : List Dieback := []
  links : List SavedLink := []
  memtest : Option (List Byte) := none
  network : Option (Nat × Nat) := none
  deriving DecidableEq, Repr

/-- A package memory test (R461, R462). -/
structure MemRun where
  fast : Bool := false
  /-- Fast was asked for (R461). -/
  asked : Bool := false
  started : Nat := 0
  finished : Option Nat := none
  op : Option Nat := none
  /-- Record that granted the fast test. -/
  grant : List Byte := []
  testId : Nat := 0
  deriving DecidableEq, Repr

/-- A position's DEMAND (R517, R518). -/
structure DemandEnt where
  pos : Nat
  watts : Nat
  total : Nat
  sleeping : Bool
  time : Nat
  deriving DecidableEq, Repr

/-- A pace table entry (R520). -/
structure PaceEnt where
  origin : Nat
  code : Nat
  seq : Nat
  time : Nat
  deriving DecidableEq, Repr

/-- Hedger firmware's power control beside its registers (R503 to R522). -/
structure PowerCtl where
  /-- Nanojoules of each component not yet counted in whole µJ. -/
  rest : List Nat := []
  /-- Averages of R510 in nanowatts. -/
  fastNw : Nat := 0
  slowNw : Nat := 0
  /-- Caps of each limit: PL_FAST and the slow limit. -/
  capFast : Nat := 63
  capSlow : Nat := 63
  /-- Times of the last raise, by cap: 0 PL_FAST, 1 slow, 2 thermal west, 3 thermal east. -/
  raised : List (Nat × Nat) := []
  /-- Times since which every sensor of a half is below 103.0 °C. -/
  coolSince : List (Nat × Nat) := []
  /-- Time at which the slow limit last capped the die. -/
  slowAt : Option Nat := none
  demands : List DemandEnt := []
  totalSeq : Option Nat := none
  demandSeq : Nat := 0
  pace : List PaceEnt := []
  /-- Released origins with their SEQ and time. -/
  released : List PaceEnt := []
  paceSeq : Nat := 0
  /-- Time of the last PACE that carried a lowering, and of the last PACE. -/
  lowerAt : Option Nat := none
  paceAt : Nat := 0
  /-- A PACE is due, and whether it is a release. -/
  paceDue : Option Bool := none
  /-- Microjoules already charged to an account or to the unattributed counter (R504). -/
  charged : Nat := 0
  deriving DecidableEq, Repr

/-- The die. -/
structure State where
  /-- Commands that wait, first in, first out. -/
  pending : List Instr := []
  /-- Register fields that differ from reset, by key (R7, R69). -/
  regs : List (Nat × Nat) := []
  /-- The scratchpads (R72, R119). -/
  mem : Mem := {}
  /-- Physical cores (R72). -/
  cores : List (Nat × CoreSt) := []
  /-- Rows of each bank that spare rows stand in for, at most 8, by bank: physical core × 16 + bank (R119, R144). -/
  spares : List (Nat × List Nat) := []
  /-- Kernels checked and not completed, in the order they were taken (R106). -/
  kernels : List Kernel := []
  /-- Schedule blocks loaded, at most 16 (R296). -/
  blocks : List PlnBlock := []
  /-- Clump routers (R265). -/
  routers : List (Nat × RouterSt) := []
  /-- Bound adapter streams, by adapter × 4 + binding kind (R294). -/
  streams : List (Nat × AdpStream) := []
  /-- Outbound streams of unloaded blocks whose rows are still sent, oldest first, by the same key (R289). -/
  draining : List (Nat × AdpStream) := []
  /-- Halves that have stalled for the conflicts of the entry they try (R121, R278). -/
  slotServed : List Nat := []
  /-- The model's own count of network cycles, which orders the arrival of rows (R283). -/
  pcc : Nat := 0
  /-- Halves whose stall has a cause of its own (R277, R279). -/
  stalledBy : List (Nat × Nat) := []
  /-- Sequence number of the next unscheduled access accepted (R134). -/
  inSeq : Nat := 0
  queues : List (Nat × QueueSt) := []
  chans : List (Nat × ChanSt) := []
  /-- Channel granted last, by engine × 4 + priority (R318). -/
  lastGrant : List (Nat × Nat) := []
  binders : List (Nat × BinderSt) := []
  /-- Operations the binder unit has still to perform (R350). -/
  bops : List BOp := []
  /-- Inbound queue of binder messages and space-2 WRITEs from links, at most 256, with the link of each (R357). -/
  inq : List (Nat × InMsg) := []
  links : List (Nat × LinkSt) := []
  /-- Outstanding 0xFD tags (R382) and the last chosen. -/
  tags : List (Nat × TagUse) := []
  lastTag : Nat := 0
  /-- Order of the next doorbell (R108). -/
  bells : Nat := 0
  /-- The event log, oldest first (R561). -/
  log : List EvRec := []
  session : Session := {}
  /-- Dieback list in evergreen retention, oldest first, at most 1,024 (R451). -/
  dieback : List Dieback := []
  /-- Core rails: 0 west, 1 east (R28). -/
  rails : List (Nat × RailSt) := []
  /-- Core clocks stopped by a fault (R23, R34, R571). -/
  clocksOff : Bool := false
  /-- Links whose transmitters a fault holds idle until a reset, as a mask (R34, R38, R571). -/
  txIdle : Nat := 0
  /-- Host clock in seconds, if set (R583). -/
  hostClock : Option Nat := none
  /-- Time at which it was set. -/
  hostClockAt : Nat := 0
  fuses : Fuses := {}
  /-- Pins as the die last saw them (R21): PWRGD_EVG, PERST_N, TEST_MODE as sampled. -/
  pwrgd : Bool := false
  perst : Bool := false
  /-- THERM_TRIP_N is driven low (R23). -/
  tripped : Bool := false
  /-- Reference edges are seen (R34). -/
  refclk : Bool := true
  /-- A reset is held internally: its kind, 1 cold, 2 warm (R22). -/
  hold22 : Option Nat := none
  /-- S0 is over (R31). -/
  s0Over : Bool := false
  /-- Time at which the current stage began its work. -/
  stageStart : Nat := 0
  /-- Reasons of losses in the current stage (R438). -/
  losses : List Nat := []
  /-- S0 found an uncorrectable fuse field; the rootstock's check of itself passed (R439). -/
  fuseBad : Bool := false
  selfCheckOk : Bool := true
  /-- Link whose placement word is latched (R19). -/
  latchedFrom : Option Nat := none
  /-- Report code of the last stage that reported (R430). -/
  lastCode : Nat := 0
  /-- Stage that a warm reset cut short and its duration (R437). -/
  abandoned : Option (Nat × Nat) := none
  /-- S1 has seen a placement word on a substrate link (R579), and words differed (R19). -/
  wordSeen : Bool := false
  /-- Links of S5's qualification still to report. -/
  qualifying : List Nat := []
  /-- Links up when the die entered READY (R43, R465). -/
  upAtReady : Nat := 0
  /-- Key store: identity key (48 bytes), settings key (32 bytes), PK.root (R528, R529). -/
  keys : Option (List Byte × List Byte × List Byte) := none
  transfers : List Transfer := []
  firmware : Option Image := none
  microcode : Option Image := none
  /-- A settings blob on its way: PARTS, next PART, bytes (R456). -/
  blobIn : Option (Nat × Nat × List Byte) := none
  /-- Long operation of its check. -/
  blobOp : Option Nat := none
  restored : Option Restored := none
  /-- Snapshot of SAVE_SETTINGS (R458), and DEV_SEQ of the reply with its last part. -/
  snapshot : List Byte := []
  savedAt : Option Nat := none
  /-- Memtest record in retention (R462). -/
  memRecord : List Byte := []
  memRun : MemRun := {}
  /-- Package memory bytes, 0 before S6 (R430). -/
  packageBytes : Nat := 0
  pctl : PowerCtl := {}
  /-- User items stored: ITEM and DELTA as sent, ascending ITEM (R546, R547). -/
  calItems : List (Nat × Nat) := []
  /-- User items in effect. -/
  calActive : List (Nat × Nat) := []
  /-- Report body being signed and its operation (R541). -/
  attest : Option (Nat × List Byte) := none
  /-- RUN_BIST that runs: operation, TARGET, UNIT (R554). -/
  bist : Option (Nat × Nat × Nat) := none
  /-- Frequency codes and set points on entry to die-level sleep (R490). -/
  sleepPoint : List (Nat × Nat) := []
  /-- Time at which die-level sleep began. -/
  sleepAt : Option Nat := none
  /-- Long operation of the die-level transition that runs. -/
  dieOp : Option Nat := none
  /-- Wake to begin when the sleep entry completes: its cause (R489, R494). -/
  dieWakeAfter : Option Nat := none
  /-- What the test access port last shifted out, its preloaded boundary cells, and what drives the pins: 0 the die, 1 the
  cells, 2 nothing (R552). -/
  tapOut : Nat := 0
  tapCells : Nat := 0
  tapDrive : Nat := 0
  /-- Dieback entries whose fuse commit runs or waits, oldest first: KIND, UNIT, DETAIL (R452). -/
  commits : List (Nat × Nat × Nat) := []
  /-- The security advance of this start was refused (R25, R537). -/
  advanceRefused : Bool := false
  /-- Time at which the watchdog last started (R574). -/
  wdogAt : Nat := 0
  /-- Holding registers of R11, by agent: 0 Hedger, 1 + p core, 97 + e DMA engine. Each holds the counter's address and the
  upper half of its value. -/
  hold : List (Nat × Nat × Nat) := []
  /-- What the last register read of an agent returned, by agent (R7). -/
  readData : List (Nat × Nat) := []
  /-- µs since S0 began (R558). -/
  time : Nat := 0
  /-- The model's own counter that numbers its free values (log 3). -/
  fresh : Nat := 0
  deriving DecidableEq, Repr

/-- The die with its evergreen domain held in reset: PWRGD_EVG low, before stage S0 (R22, R36). -/
def State.reset : State := {}

end Sys2Proof.Machine
end

