-- ==== Sys2Proof/Machine/Ops.lean ====
section
/-! DEFINITION. The named operations over registers, scratchpad, numbering, links and the event log that every meaning
is built of. -/

namespace Sys2Proof.Machine

/-! ### Status codes (R435) -/

abbrev stOk : Nat := 0x00
abbrev stAccepted : Nat := 0x01
abbrev stSuperseded : Nat := 0x02
abbrev stDowngraded : Nat := 0x03
abbrev stBadOpcode : Nat := 0x10
abbrev stBadParam : Nat := 0x11
abbrev stBadVersion : Nat := 0x12
abbrev stBadSequence : Nat := 0x13
abbrev stBadCrc : Nat := 0x14
abbrev stBusy : Nat := 0x20
abbrev stPoweredDown : Nat := 0x21
abbrev stNotReady : Nat := 0x22
abbrev stQuiesce : Nat := 0x23
abbrev stAuthFail : Nat := 0x30
abbrev stWindowClosed : Nat := 0x31
abbrev stSeasonStale : Nat := 0x32
abbrev stRollback : Nat := 0x33
abbrev stHwFault : Nat := 0x40
abbrev stUnitFailed : Nat := 0x41

/-! ### Register fields -/

/-- The value of a register field. -/
def State.fld (s : State) (f : Fld) : Nat := tget (resetOf f.key) s.regs f.key

/-- A register field set; a value wider than the field loses its upper bits. -/
def State.setFld (s : State) (f : Fld) (v : Nat) : State :=
  { s with regs := tset (resetOf f.key) s.regs f.key (v % 2 ^ f.w) }

/-- A counter field advanced, wrapping at its width. -/
def State.addFld (s : State) (f : Fld) (n : Nat) : State := s.setFld f (s.fld f + n)

/-- A counter field advanced, saturating at its width. -/
def State.satFld (s : State) (f : Fld) (n : Nat) : State := s.setFld f (min (s.fld f + n) (2 ^ f.w - 1))

/-- Whether a one-bit field is set. -/
def State.bit (s : State) (f : Fld) : Bool := s.fld f == 1

/-- A bit of a mask field set. -/
def State.setMaskBit (s : State) (f : Fld) (i : Nat) : State := s.setFld f (setBit (s.fld f) i)

/-- A bit of a mask field cleared. -/
def State.clearMaskBit (s : State) (f : Fld) (i : Nat) : State := s.setFld f (clearBit (s.fld f) i)

/-- Every field whose key satisfies `drop` back at its reset value. -/
def State.resetFlds (s : State) (drop : Nat → Bool) : State :=
  { s with regs := s.regs.filter fun e => !drop e.1 }

/-! ### Scratchpad (R52, R119, R145) -/

/-- Bytes of one core's scratchpad. -/
abbrev coreBytes : Nat := 0x400000
/-- Bytes of one bank. -/
abbrev bankBytes : Nat := 0x40000

/-- The value listed at a key. -/
def tfind {α : Type} : List (Nat × α) → Nat → Option α
  | [], _ => none
  | (k, v) :: m, i => if i = k then some v else tfind m i

/-- What an unlisted byte reads as: 0, or the free value of its bank's loss (R145, R146; log 4). -/
def Mem.unlisted (m : Mem) (k : Nat) : Byte :=
  match tfind m.lost (k / bankBytes) with
  | some e => Config.freeByte e k
  | none => 0

/-- One byte of scratchpad: key is physical core × 4 MiB + offset. -/
def Mem.get (m : Mem) (k : Nat) : Byte := (tfind m.cells k).getD (m.unlisted k)

/-- One byte written: in a lost bank every written byte is listed, elsewhere every nonzero one. -/
def Mem.set (m : Mem) (k : Nat) (b : Byte) : Mem :=
  match tfind m.lost (k / bankBytes) with
  | some _ => { m with cells := tins m.cells k b }
  | none => { m with cells := tset 0 m.cells k b }

/-- Consecutive bytes. -/
def Mem.gets (m : Mem) (k : Nat) : Nat → List Byte
  | 0 => []
  | n + 1 => m.get k :: m.gets (k + 1) n

/-- Consecutive bytes written. -/
def Mem.sets (m : Mem) (k : Nat) : List Byte → Mem
  | [] => m
  | b :: bs => (m.set k b).sets (k + 1) bs

/-- A bank's contents lost (R145). -/
def Mem.lose (m : Mem) (bank epoch : Nat) : Mem :=
  { cells := m.cells.filter fun c => c.1 / bankBytes ≠ bank, lost := tins m.lost bank epoch }

/-- The canonical form: keys strictly rise, a listed 0 stands in a lost bank. -/
def Mem.wf (m : Mem) : Bool :=
  tsorted m.cells && tsorted m.lost &&
    m.cells.all fun c => decide (c.2 ≠ 0) || (tfind m.lost (c.1 / bankBytes)).isSome

/-- Bytes of a core's own scratchpad. -/
def State.readCore (s : State) (p off n : Nat) : List Byte := s.mem.gets (p * coreBytes + off) n

/-- Bytes written to a core's own scratchpad. -/
def State.writeCore (s : State) (p off : Nat) (data : List Byte) : State :=
  { s with mem := s.mem.sets (p * coreBytes + off) data }

/-- Check bits stored with word w of a row of a core's bank (R119). Errors of the cells are events: a command's operand says
what a read found (R142, R143). -/
def State.checkBits (s : State) (p off : Nat) : BitVec 7 :=
  Config.checkBits (BitVec.ofNat 32 ((s.readCore p (off / 4 * 4) 4).foldr (fun b n => b.toNat + 256 * n) 0))

/-! ### Sparse parts of the state -/

def State.core (s : State) (p : Nat) : CoreSt := tget {} s.cores p
def State.setCore (s : State) (p : Nat) (c : CoreSt) : State := { s with cores := tset {} s.cores p c }
def State.queue (s : State) (q : Nat) : QueueSt := tget {} s.queues q
def State.setQueue (s : State) (q : Nat) (x : QueueSt) : State := { s with queues := tset {} s.queues q x }
/-- A DMA channel by engine × 64 + channel. -/
def State.chan (s : State) (c : Nat) : ChanSt := tget {} s.chans c
def State.setChan (s : State) (c : Nat) (x : ChanSt) : State := { s with chans := tset {} s.chans c x }
def State.binder (s : State) (b : Nat) : BinderSt := tget {} s.binders b
def State.setBinder (s : State) (b : Nat) (x : BinderSt) : State := { s with binders := tset {} s.binders b x }
def State.link (s : State) (i : Nat) : LinkSt := tget {} s.links i
def State.setLink (s : State) (i : Nat) (x : LinkSt) : State := { s with links := tset {} s.links i x }

def State.router (s : State) (c : Nat) : RouterSt := tget {} s.routers c
def State.setRouter (s : State) (c : Nat) (r : RouterSt) : State := { s with routers := tset {} s.routers c r }

/-! ### Writes under way to the banks (R132 to R134) -/

/-- Bank of a byte of a core (R52). -/
def bankOf (off : Nat) : Nat := off / bankBytes % 16

/-- Every accepted write not yet landed. -/
def State.underWay (s : State) : List InWrite :=
  (s.routers.flatMap fun r => r.2.opens.filterMap fun o =>
    match o.load with
    | .write _ w => some w
    | .stream _ _ _ w => some w
    | _ => none) ++ s.cores.flatMap fun c => c.2.inbox

/-- Accepted writes to a physical core that wait at a router. -/
def State.routedTo (s : State) (p : Nat) : List InWrite :=
  s.routers.flatMap fun r => r.2.opens.filterMap fun o =>
    match o.load with
    | .write q w => if q = p then some w else none
    | _ => none

/-- Whether an accepted write to a row of a core has still to land; an unscheduled read of the row waits for it (R134). -/
def State.rowBusy (s : State) (p row : Nat) : Bool :=
  (s.routedTo p ++ (s.core p).inbox).any fun w => w.off / 256 == row

/-- A write of the die's own into a core's banks, its ring records and the like. It lands at once in a core in Leaf where no
earlier write to its bank waits (R134); else it waits in the inbound buffer, at most 16, or at the router (R132, R133,
R148). The result says whether it landed. -/
def State.ownWrite (s : State) (p off : Nat) (data : List Byte) (o : Origin) (awake : Bool) : State × Bool :=
  let c := s.core p
  let routed := s.routedTo p
  if awake && !(c.inbox ++ routed).any (fun w => bankOf w.off == bankOf off) then (s.writeCore p off data, true)
  else
    let w : InWrite := { seq := s.inSeq, off, data, from_ := o }
    let s : State := { s with inSeq := s.inSeq + 1 }
    if c.inbox.length < 16 ∧ routed = [] then (s.setCore p { c with inbox := c.inbox ++ [w] }, false)
    else
      let r := s.router (p / 4)
      let row : OpenRow := { from_ := 0, home := none, dest := p / 4, load := .write p w }
      (s.setRouter (p / 4) { r with opens := r.opens ++ [row] }, false)

/-- The next free value: a number nothing constrains (log 3). -/
def State.draw (s : State) (salt : Nat) : Nat := Config.freeNat s.fresh salt
/-- The counter of free values advanced. -/
def State.drew (s : State) : State := { s with fresh := s.fresh + 1 }

/-! ### Addresses and numbering (R46 to R60) -/

def addrDie (a : Nat) : Nat := a / 2 ^ 47
def addrPos (a : Nat) : Nat := a / 2 ^ 47 % 16
def addrSpace (a : Nat) : Nat := a / 2 ^ 44 % 8
def addrOff (a : Nat) : Nat := a % 2 ^ 44

/-- This die's number (R46): package × 16 + position. -/
def State.dieNo (s : State) : Nat := s.fld F.evgPlacementPackage * 16 + s.fld F.evgPlacementPosition

/-- Whether an address is local (R47). -/
def State.isLocal (s : State) (a : Nat) : Bool := addrSpace a != 0 && addrDie a == s.dieNo

/-- The physical cores that hold a logical number (R60). -/
def State.coreMap (s : State) : Nat :=
  s.fld (F.evgCoreMap 0) + 2 ^ 32 * s.fld (F.evgCoreMap 1) + 2 ^ 64 * s.fld (F.evgCoreMap 2)

/-- Number of logical cores n (R60). -/
def State.nLogical (s : State) : Nat := s.fld F.evgNumberingNLogical

/-- The physical core that holds a logical number (R57). -/
def State.phys (s : State) (l : Nat) : Option Nat := (bitsOf 96 s.coreMap)[l]?

/-- The logical number of a physical core, if it holds one. -/
def State.logical (s : State) (p : Nat) : Option Nat :=
  if s.coreMap.testBit p then some ((bitsOf 96 s.coreMap).idxOf p) else none

/-- Whether a physical core is fenced (R60, R61). -/
def State.fencedCore (s : State) (p : Nat) : Bool := (s.fld (F.evgFenced (p / 32))).testBit (p % 32)

/-- R50's layout check of an address: must-be-0 bits and the object's range. -/
def State.layoutOk (s : State) (a : Nat) : Bool :=
  let o := addrOff a
  match addrSpace a with
  | 0 => decide (o < s.packageBytes)
  | 1 => decide (o / coreBytes < s.nLogical)
  | 2 | 3 => decide (o < 2 ^ 19)
  | 4 => decide (o < 2 ^ 24)
  | 5 => decide (o < 2 ^ 42)
  | _ => false

/-- The same check for an address that is not local: the core count of another die is not known here. -/
def State.remoteLayoutOk (s : State) (a : Nat) : Bool :=
  let o := addrOff a
  match addrSpace a with
  | 0 => decide (o < s.packageBytes)
  | 1 => decide (o / coreBytes < 96)
  | 2 | 3 => decide (o < 2 ^ 19)
  | 4 => decide (o < 2 ^ 24)
  | 5 => decide (o < 2 ^ 42)
  | _ => false

/-- The clump of a physical core, its position, and the clump's half: 0 west, 1 east (R56). -/
def clumpOf (p : Nat) : Nat := p / 4
def posOf (p : Nat) : Nat := p % 4
def halfOfClump (c : Nat) : Nat := if c % 6 < 3 then 0 else 1
def halfOf (p : Nat) : Nat := halfOfClump (clumpOf p)

/-! ### Core states (R116) -/

abbrev csIdle : Nat := 0
abbrev csLoading : Nat := 1
abbrev csRunning : Nat := 2
abbrev csWaiting : Nat := 3
abbrev csFencing : Nat := 4
abbrev csFrozen : Nat := 5
abbrev csEnded : Nat := 6
abbrev csFaulted : Nat := 7
abbrev csFenced : Nat := 8

def State.coreState (s : State) (p : Nat) : Nat := s.fld (F.corStatusState p)
def State.setCoreState (s : State) (p v : Nat) : State := s.setFld (F.corStatusState p) v

/-- A bit of COR_EVENT set (R116). -/
def State.setEvent (s : State) (f : Fld) : State := s.setFld f 1

/-! ### Links (R395, R577) -/

abbrev lkDisabled : Nat := 0
abbrev lkDetect : Nat := 1
abbrev lkLaneTest : Nat := 2
abbrev lkEq : Nat := 3
abbrev lkWidth : Nat := 4
abbrev lkConfig : Nat := 5
abbrev lkActive : Nat := 6
abbrev lkReconfig : Nat := 7
abbrev lkTrickle : Nat := 8
abbrev lkWake : Nat := 9
abbrev lkBerTest : Nat := 10
abbrev lkFailed : Nat := 11
abbrev lkLoopback : Nat := 12

def State.linkState (s : State) (i : Nat) : Nat := s.fld (F.lnkStatusState i)

/-- Up: ACTIVE, RECONFIG, TRICKLE, WAKE or BER_TEST (R395). -/
def State.linkUp (s : State) (i : Nat) : Bool :=
  let x := s.linkState i
  decide (lkActive ≤ x) && decide (x ≤ lkBerTest)

/-- Whether peer link `i` leads to a die (R14, R577). -/
def State.peerLeadsTo (s : State) (die i : Nat) : Bool :=
  s.linkUp i && s.fld (F.lnkPartnerPclass i) == 0 && s.fld (F.lnkPartnerDie i) == die

/-- The lower-numbered peer link to a die that is up. -/
def State.peerTo (s : State) (die : Nat) : Option Nat :=
  ((List.range 6).map (· + 24)).find? (s.peerLeadsTo die)

/-- The first base link that is up at or above `c`, modulo 24. -/
def State.baseFrom (s : State) (c : Nat) : Option Nat :=
  ((List.range 24).map fun k => (c + k) % 24).find? s.linkUp

/-- The link of binder messages, dispatcher reads and record writes (R577). -/
def State.linkToDie (s : State) (die : Nat) : Option Nat := (s.peerTo die).orElse fun _ => s.baseFrom 0

/-- The link of a core's POST into another die's space 3 or 5 (R577). -/
def State.linkOfPost (s : State) (p die : Nat) : Option Nat :=
  (s.peerTo die).orElse fun _ => s.baseFrom (clumpOf p)

/-- The link of an access of the dispatcher or of Hedger to an address: space 0 goes over a base link (R51). -/
def State.linkForAddr (s : State) (a : Nat) : Option Nat :=
  if addrSpace a = 0 then s.baseFrom 0 else s.linkToDie (addrDie a)

/-- The substrate link that carries the die's own VC3 traffic: U0, or U1 when U0 is down (R15, R29). -/
def State.substrate (s : State) : Option Nat := if s.linkUp 30 then some 30 else if s.linkUp 31 then some 31 else none

/-- A packet put last on a virtual channel of a link that is up or retrains with its traffic held (R395); a link that was
declared down takes nothing (R41). -/
def State.sendOn (s : State) (i vc : Nat) (x : OutPkt) : State :=
  let l := s.link i
  if s.linkUp i || l.keepTraffic then s.setLink i { l with txq := l.txq ++ [(vc, x)] } else s

/-- A tag 0xFD00 to 0xFDFF of the die's own choice, with what it belongs to (R382). -/
def State.newTag (s : State) (u : TagUse) : State × Nat :=
  let free := ((List.range 256).map fun k => (s.lastTag + 1 + k) % 256).find? fun t => (tfind s.tags t).isNone
  let t := free.getD ((s.lastTag + 1) % 256)
  ({ s with tags := tins s.tags t u, lastTag := t }, 0xFD00 + t)

/-- The host clock in seconds, 0 while unset (R450, R583). -/
def State.hostNow (s : State) : Nat :=
  match s.hostClock with
  | some h => h + (s.time - s.hostClockAt) / 1000000
  | none => 0

/-! ### Events (R558 to R562) -/

abbrev svInfo : Nat := 0
abbrev svWarning : Nat := 1
abbrev svAlert : Nat := 2
abbrev svFault : Nat := 3

/-- The first record of a severity taken out of a log. -/
def dropFirst (sev : Nat) : List EvRec → List EvRec
  | [] => []
  | e :: l => if e.severity = sev then l else e :: dropFirst sev l

/-- A record appended to a log of 1,024 with R562's choice of what is discarded; the flag says one was. -/
def logAppend (l : List EvRec) (e : EvRec) : List EvRec × Bool :=
  if l.length < 1024 then (l ++ [e], false)
  else if l.any (·.severity = svInfo) then (dropFirst svInfo l ++ [e], true)
  else if l.any (·.severity = svWarning) then (dropFirst svWarning l ++ [e], true)
  else if l.any (·.severity = svAlert) then
    if e.severity ≤ svWarning then (l, true) else (dropFirst svAlert l ++ [e], true)
  else (l, true)

/-- An event recorded in the log (R558, R559, R562); no copy to an EVENT context. -/
def State.logEvent (s : State) (severity kind status code unit context detail : Nat) : State :=
  let e : EvRec := { severity, kind, status, code, index := s.fld F.fltEvtNext, time := s.time, unit, context, detail }
  let r := logAppend s.log e
  let s := { s with log := r.1 }.addFld F.fltEvtNext 1
  if r.2 then s.addFld F.fltEvtLost 1 else s

/-- The record the next event would be, for its copy to an EVENT context (R564). -/
def State.nextEvent (s : State) (severity kind status code unit context detail : Nat) : EvRec :=
  { severity, kind, status, code, index := s.fld F.fltEvtNext, time := s.time, unit, context, detail }

/-- Whether an event waits to be read (R560). -/
def EvRec.waiting (e : EvRec) : Bool := e.severity == svAlert || e.severity == svFault

/-! ### Ready states (R569 to R571) -/

abbrev rdBooting : Nat := 0
abbrev rdReady : Nat := 1
abbrev rdDegraded : Nat := 2
abbrev rdFaulted : Nat := 3

def State.ready (s : State) : Nat := s.fld F.evgBootReady

/-- The DEGRADED causes as FLT_STATUS [2:0] holds them (R570). -/
def State.degraded (s : State) : Nat :=
  s.fld F.fltStatusUnitFenced + 2 * s.fld F.fltStatusLinkLost + 4 * s.fld F.fltStatusDmaEngine

/-- The ready state changed, with READY_CHANGE at every change (R565, R569). -/
def State.setReady (s : State) (r : Nat) : State :=
  if s.ready = r then s
  else
    let old := s.ready
    let s := s.setFld F.evgBootReady r
    let sev := if r = rdDegraded ∨ r = rdFaulted then svAlert else svInfo
    s.logEvent sev 0 0 0x0900 0 0
      (old + r * 4 + s.degraded * 2 ^ 8 + s.fld F.fltStatusFaultCause * 2 ^ 12)

/-- The ready state that the DEGRADED causes give, between READY and DEGRADED (R569). -/
def State.settleReady (s : State) : State :=
  if s.ready = rdReady ∧ s.degraded ≠ 0 then s.setReady rdDegraded
  else if s.ready = rdDegraded ∧ s.degraded = 0 then s.setReady rdReady
  else s

end Sys2Proof.Machine
end

