-- ==== Sys2Proof/Machine/LongOps.lean ====
section
/-! DEFINITION. Long operations: their slots, their start and finish (R426 to R429), and pending power requests (R427,
R494). -/

namespace Sys2Proof.Machine

/-- Whether a slot is free for a long operation (R427). -/
def State.opRoom (s : State) : Bool := decide (s.session.ops.length < 16)

/-- Whether an operation of an opcode runs on an object (R427). -/
def State.opRuns (s : State) (opcode object : Nat) : Bool :=
  s.session.ops.any fun o => o.opcode == opcode && o.object == object && o.state != 2

/-- A long operation started, `pending` in its slot of R494: the state and its OP_ID, never 0 (R426). -/
def State.startOp (s : State) (opcode hostSeq tag object : Nat) (pending : Bool) : State × Nat :=
  let x := s.session
  let id := x.nextOp
  let o : LongOp := { id, opcode, hostSeq, tag, object, state := if pending then 1 else 0, status := stAccepted,
                      season := x.season, started := s.time }
  let next := if id = 65535 then 1 else id + 1
  ({ s with session := { x with ops := x.ops ++ [o], nextOp := next } }, id)

/-- A long operation that runs or is pending, by OP_ID. -/
def State.findOp (s : State) (id : Nat) : Option LongOp := s.session.ops.find? fun o => o.id == id && o.state != 2

/-- One operation changed. -/
def State.setOp (s : State) (id : Nat) (f : LongOp → LongOp) : State :=
  { s with session := { s.session with ops := s.session.ops.map fun o => if o.id = id then f o else o } }

/-- A long operation finished with its final status and results; OP_DONE (R429, R565). -/
def State.finishOp (s : State) (id status : Nat) (results : List Byte) : State :=
  match s.findOp id with
  | none => s
  | some o =>
    (s.setOp id fun o => { o with state := 2, status, progress := 1000, results }).logEvent svInfo 10 status 0x0800 0 id
      o.opcode

/-- A pending operation that begins to run. -/
def State.runOp (s : State) (id : Nat) : State := s.setOp id fun o => { o with state := 0 }

/-- The pending power request of a logical core answered with a status, if there is one (R494, R496, R568). -/
def State.dropRequest (s : State) (l status : Nat) : State :=
  if s.bit (F.pwrCoreStatusPending l) then
    let id := s.fld (F.pwrCoreStatusPendingOp l)
    let s := s.finishOp id status []
    ((s.setFld (F.pwrCoreStatusPending l) 0).setFld (F.pwrCoreStatusPendingState l) 0).setFld
      (F.pwrCoreStatusPendingOp l) 0
  else s

end Sys2Proof.Machine
end

