-- ==== Sys2Proof/Machine/Clocks.lean ====
section
/-! DEFINITION. The halves' clocks and rails (R29, R472, R473, R507 to R509), and the core power transitions that other
families start (R475 to R477, R485, R494). -/

namespace Sys2Proof.Machine

/-- Number of a half: 0 west, 1 east. -/
def halfNo : Half → Nat
  | .west => 0
  | .east => 1

def State.rail (s : State) (h : Nat) : RailSt := tget {} s.rails h
def State.setRail (s : State) (h : Nat) (r : RailSt) : State := { s with rails := tset {} s.rails h r }

/-- Frequency code and rail voltage of an operating point (R507). -/
def State.opCode (s : State) (h k : Nat) : Nat := s.fld (F.pwrOpFcode h k)
def State.opMv (s : State) (h k : Nat) : Nat := s.fld (F.pwrOpMv h k)

/-- Rail voltage of a frequency code: that of the lowest operating point at or above it (R507). -/
def State.codeMv (s : State) (h code : Nat) : Nat :=
  s.opMv h (((List.range 16).find? fun k => decide (code ≤ s.opCode h k)).getD 15)

/-- The preference of a phase class (R508). -/
def State.prefOp (s : State) (h cls : Nat) : Nat := s.fld (F.pwrPrefOp (h * 2 + cls / 8) (cls % 8))

/-- The preferred code: highest among the classes of the kernels running in the half, else class 0 (R508). -/
def State.prefCode (s : State) (h : Nat) : Nat :=
  let ks := s.kernels.filter fun k => k.started && k.phys.any fun p => halfOf p == h
  match ks.map fun k => s.opCode h (s.prefOp h k.phaseClass) with
  | [] => s.opCode h (s.prefOp h 0)
  | c :: cs => cs.foldl max c

/-- The code a half is to run at: the lowest of preference, caps and fused maximum (R509). -/
def State.wantCode (s : State) (h : Nat) : Nat :=
  min (s.prefCode h) (min (s.fld (F.pwrCapPower h)) (min (s.fld (F.pwrCapThermal h))
    (min (s.fld (F.pwrCapPace h)) (s.fld (F.pwrHalfFusedMax h)))))

/-- A rail set-point request on VC3 of U0, or of U1 when U0 is down (R29); without either, nothing is sent. -/
def State.railRequest (s : State) (h mv : Nat) : State :=
  match s.substrate with
  | none => s
  | some i => (s.sendOn i 3 (.railRequest (h == 1) mv)).setRail h { s.rail h with requests := (s.rail h).requests ++ [mv] }

/-- The set point a rail will have once every request is acknowledged, and the lowest it can have until then (R29). -/
def RailSt.goal (r : RailSt) : Nat := r.requests.getLast?.getD r.mv
def RailSt.least (r : RailSt) : Nat := r.requests.foldl min r.mv

/-- A glide begun toward a code, or only its cause and end kept if it runs already. -/
def State.glideTo (s : State) (h want : Nat) (cap : Bool) : State :=
  if s.bit (F.pwrHalfGliding h) ∧ s.fld (F.pwrHalfTarget h) = want then s
  else ((s.setRail h { s.rail h with capGlide := cap }).setFld (F.pwrHalfTarget h) want).setFld (F.pwrHalfGliding h) 1

/-- A half sent toward the code it is to run at: down at once, up once its rail has acknowledged the voltage and no lower
set point is still requested (R29, R473, R509). `cap` says a cap or pace match is the cause of a change. -/
def State.retarget (s : State) (h : Nat) (cap : Bool) : State :=
  let s := s.setFld (F.pwrCapPref h) (s.prefCode h)
  let want := s.wantCode h
  let cur := s.fld (F.pwrHalfFcode h)
  if s.fld (F.pwrHalfLocked h) = 0 then s
  else if want = cur then
    (s.setFld (F.pwrHalfTarget h) cur).setFld (F.pwrHalfGliding h) 0
  else if want < cur ∨ s.codeMv h want ≤ (s.rail h).least then s.glideTo h want cap
  else if s.codeMv h want ≤ (s.rail h).goal then s
  else (s.setRail h { s.rail h with capGlide := cap }).railRequest h (s.codeMv h want)

/-! ### Core power states (R475) -/

abbrev pwLeaf : Nat := 0
abbrev pwDormant : Nat := 1
abbrev pwCoppice : Nat := 2
abbrev pwBare : Nat := 3
abbrev pwEntering : Nat := 4
abbrev pwWaking : Nat := 5

/-- Power state of a physical core; one with no logical number has no register and counts as Leaf. -/
def State.power (s : State) (p : Nat) : Nat :=
  match s.logical p with
  | some l => s.fld (F.pwrCoreStatusState l)
  | none => pwLeaf

/-- A core's own field of PWR_MODE. -/
def State.waitState (s : State) (l : Nat) : Nat := s.fld (F.pwrModeWaitState (l / 8) (l % 8))
def State.idleState (s : State) (l : Nat) : Nat := s.fld (F.pwrModeIdleState (l / 8) (l % 8))

/-- A transition of a core begun toward a state below Leaf (R494). -/
def State.beginEntry (s : State) (p target : Nat) : State :=
  match s.logical p with
  | none => s
  | some l =>
    if target = pwLeaf then s
    else (s.setCore p { s.core p with target }).setFld (F.pwrCoreStatusState l) pwEntering

/-- The veto that forbids a target state (R479 code 7). -/
def State.vetoed (s : State) (target : Nat) : Bool :=
  (target == pwDormant && s.bit F.pwrVetoVetoDormant) || (target == pwCoppice && s.bit F.pwrVetoVetoCoppice)

/-- A core whose kernel is over enters its IDLE_STATE (R477); a veto leaves it in Leaf with refusal 7 (log 12). -/
def State.enterIdle (s : State) (p : Nat) : State :=
  match s.logical p with
  | none => s
  | some l =>
    if s.fld (F.pwrCoreStatusState l) ≠ pwLeaf then s
    else if s.vetoed (s.idleState l) then
      (s.setFld (F.pwrCoreStatusLastRefusal l) 7).satFld (F.pwrCoreRefuseRefusals l) 1
    else s.beginEntry p (s.idleState l)

/-- A wake of a core begun, or due once the entry in progress completes (R485, R494). -/
def State.beginWake (s : State) (p cause : Nat) : State :=
  match s.logical p with
  | none => s
  | some l =>
    let x := s.fld (F.pwrCoreStatusState l)
    if x = pwLeaf ∨ x = pwWaking then
      if cause = 2 then s else s.setCore p { s.core p with returnTo := none }
    else if x = pwEntering then s.setCore p { s.core p with wakeAfter := some ((s.core p).wakeAfter.getD cause) }
    else
      let c := s.core p
      let s := s.setCore p { c with target := pwLeaf, returnTo := if cause = 2 then some x else none }
      (s.setFld (F.pwrCoreStatusState l) pwWaking).setFld (F.pwrCoreStatusWakeCause l) cause

/-- Whether the die sleeps or moves to or from sleep (R487, R490). -/
def State.dieAwake (s : State) : Bool := s.fld F.pwrDieStatusState == 0

/-- Traffic on a link met by a sleep entry: the wake with cause LINK follows once the entry completes (R489). -/
def State.stir (s : State) : State :=
  if s.fld F.pwrDieStatusState = 1 then { s with dieWakeAfter := some (s.dieWakeAfter.getD 5) } else s

/-- What an unscheduled access to a core meets (R62, R148): a rejection, or the state with its wake begun. -/
def State.meetCore (s : State) (p : Nat) : Except Nat State :=
  if s.fencedCore p then .error stUnitFailed
  else if s.power p = pwBare ∧ ¬ s.bit (F.spdRetainAutoWake p) then .error stPoweredDown
  else if s.power p = pwLeaf ∨ s.power p = pwWaking then .ok s
  else .ok (s.beginWake p 2)

end Sys2Proof.Machine
end

