-- ==== Sys2Proof/Machine/Records.lean ====
section
/-! DEFINITION. Completion and event records (R338, R339, R558), their rings (R306, R341 to R343, R580), events with
their copies (R564), and the completion of work entries (R340). -/

namespace Sys2Proof.Machine

abbrev qtUnused : Nat := 0
abbrev qtWork : Nat := 1
abbrev qtDma : Nat := 2
abbrev qtCompletion : Nat := 3
abbrev qtEvent : Nat := 4

/-- Entries a ring holds (R306). -/
def State.ringUsed (s : State) (q : Nat) : Nat := (s.fld (F.queTail q) + 65536 - s.fld (F.queHead q)) % 65536

/-- Size of a ring in entries (R304). -/
def State.ringSize (s : State) (q : Nat) : Nat := 2 ^ s.fld (F.queCfgLog2Entries q)

/-- PHASE of a record written at index t (R339). -/
def State.phaseAt (s : State) (q t : Nat) : Nat := 1 - t / s.ringSize q % 2

/-- The bytes of a completion record (R338). -/
def CRec.bytes32 (r : CRec) (phase : Nat) : List Byte :=
  leBytes 4 (phase * 2 ^ 31 + r.kind * 2 ^ 28 + (if r.halted then 2 ^ 27 else 0) + r.retries * 2 ^ 24 +
    r.status * 2 ^ 16 + r.ring % 65536)
  ++ leBytes 4 (r.origin * 2 ^ 16 + r.engine * 2 ^ 13 + r.channel * 2 ^ 7)
  ++ leBytes 8 r.tag ++ leBytes 8 r.value ++ leBytes 4 r.bytes ++ leBytes 4 r.fault

/-- The bytes of an event record (R558). -/
def EvRec.bytes32 (e : EvRec) (phase : Nat) : List Byte :=
  leBytes 4 (phase * 2 ^ 31 + e.severity * 2 ^ 29 + e.kind * 2 ^ 24 + e.status * 2 ^ 16 + e.code)
  ++ leBytes 4 e.index ++ leBytes 8 e.time ++ leBytes 4 e.unit ++ leBytes 4 e.context ++ leBytes 8 e.detail

/-- Global address of the slot of ring index t (R306). -/
def State.slotAddr (s : State) (q t size : Nat) : Nat := s.fld (F.queBase q) + t % s.ringSize q * size

/-- What became of a record's write. -/
inductive Wrote where
  | landed
  | full
  /-- Its ring lies on a fenced core (R305). -/
  | fenced
  | failed (status : Nat)
  deriving DecidableEq, Repr

/-- Who hears what became of a record's write. -/
def TagUse.origin : TagUse → Origin
  | .record cq idx r n => .record cq idx r n
  | .event eq idx r n => .event eq idx r n
  | .other => .hedger

/-- Whether a write is a record's on its way to a ring. -/
def Origin.toRing (o : Origin) (cq : Nat) : Bool :=
  match o with
  | .record x _ _ _ => x == cq
  | .event x _ _ _ => x == cq
  | _ => false

/-- Records on their way to a ring in this die's banks. -/
def State.ringFlight (s : State) (cq : Nat) : Nat := (s.underWay.filter fun w => w.from_.toRing cq).length

/-- A record landed at an index of its ring (R342): TAIL covers it, and it counts and is notified unless an earlier write
of it was. -/
def State.recordLanded (s : State) (cq idx : Nat) (again : Bool) : State :=
  let s := if s.ringUsed cq < (idx + 1 + 65536 - s.fld (F.queHead cq)) % 65536 then s.setFld (F.queTail cq) (idx + 1) else s
  if again then s
  else
    let s := (s.addFld (F.queEntries cq) 1).setQueue cq { s.queue cq with failNoted := false }
    if s.bit (F.queNotifyEn cq) then
      { s with bops := s.bops ++ [{ address := s.dieNo * 2 ^ 47 + 2 * 2 ^ 44 + s.fld (F.queNotifyBinder cq) * 64,
                                     op := 4, value := 1, from_ := .notify }] }
    else s

/-- 32 bytes written into a COMPLETION or EVENT context: at the slot a rejected write keeps, else at the next free one;
into the physical core that holds a space-1 ring (R305), which it meets as an unscheduled access does (R148), else as a
WRITE on the link of R577. No answer tells that a WRITE landed (R382): it is taken to have landed, and counted, unless it
is rejected (log 9). `again` says that such a write of the record was. -/
def State.ringWrite (s : State) (cq : Nat) (slot : Option Nat) (again : Bool) (data : Nat → List Byte) (u : Nat → TagUse) :
    State × Wrote :=
  let ahead := s.ringFlight cq
  let t := slot.getD ((s.fld (F.queTail cq) + ahead) % 65536)
  if slot.isNone ∧ s.ringSize cq ≤ s.ringUsed cq + ahead then (s, .full)
  else
    let bytes := data (s.phaseAt cq t)
    match (s.queue cq).ringCore with
    | some p =>
      if s.fencedCore p then (s, .fenced)
      else
        match s.meetCore p with
        | .error st => (s.addFld (F.spdPdReject p) 1, .failed st)
        | .ok s =>
          let w := s.ownWrite p (s.slotAddr cq t 32 % coreBytes) bytes (u t).origin (s.power p == pwLeaf)
          (if w.2 then w.1.recordLanded cq t false else w.1, .landed)
    | none =>
      match s.linkForAddr (s.fld (F.queBase cq)) with
      | none => (s, .failed stHwFault)
      | some i =>
        let (s, tag) := s.newTag (u t)
        ((s.sendOn i 0 (.write tag none false (s.slotAddr cq t 32) bytes)).recordLanded cq t again, .landed)

/-- RECORD_FAILED, at most once per ring until a record lands again (R580). -/
def State.noteFailed (s : State) (ring q status : Nat) (event : Bool) : State :=
  if (s.queue ring).failNoted then s
  else
    (s.setQueue ring { s.queue ring with failNoted := true }).logEvent svWarning 0 status 0x0502 0 0
      (ring + q * 2 ^ 16 + if event then 2 ^ 32 else 0)

/-- An event record dropped (R343). -/
def State.dropEvent (s : State) (eq : Nat) : State := (s.addFld (F.queDropped eq) 1).setFld (F.queStatusOverflow eq) 1

/-- A copy of an event record appended to an EVENT context; held while its ring's core is fenced (R305, R343, R564,
R580). -/
def State.copyEvent (s : State) (eq q : Nat) (e : EvRec) : State :=
  match s.ringWrite eq none false (e.bytes32 ·) (.event eq · e 0) with
  | (s, .landed) => s
  | (s, .full) => s.dropEvent eq
  | (s, .fenced) => s.setQueue eq { s.queue eq with heldEvents := (s.queue eq).heldEvents ++ [e] }
  | (s, .failed st) => (s.dropEvent eq).noteFailed eq q st true

/-- An event about a kernel or a channel: in the log, and copied to the EVENT context of its queue (R564). -/
def State.emitQ (s : State) (q severity kind status code unit context detail : Nat) : State :=
  let e := s.nextEvent severity kind status code unit context detail
  let s := s.logEvent severity kind status code unit context detail
  if s.bit (F.queEqValid q) then s.copyEvent (s.fld (F.queEqContext q)) q e else s

/-- One record of a producing context tried on its QUE_CQ. -/
def State.tryRecord (s : State) (q : Nat) (r : CRec) : State × Wrote :=
  let cq := s.fld (F.queCqContext q)
  s.ringWrite cq r.slot r.counted (r.bytes32 ·) (.record cq · { r with counted := true } 0)

/-- A record made to wait, before or behind those already held (R341). -/
def State.holdRecord (s : State) (q : Nat) (held : List CRec) : State :=
  (s.setQueue q { s.queue q with held }).setFld (F.queStatusHeld q) 1

/-- A completion record appended, or held behind earlier held ones (R340, R341, R580). -/
def State.postRecord (s : State) (q : Nat) (r : CRec) : State :=
  let hold := fun (s : State) => s.holdRecord q ((s.queue q).held ++ [r])
  if (s.queue q).held ≠ [] then hold s
  else
    match s.tryRecord q r with
    | (s, .landed) => s.setFld (F.queStatusLastStatus q) r.status
    | (s, .failed st) => (hold s).noteFailed (s.fld (F.queCqContext q)) q st false
    | (s, _) => hold s

/-- The held records of a producing context tried again, in order, until one does not land. -/
def State.retryHeld (s : State) (q : Nat) : Nat → State
  | 0 => s
  | n + 1 =>
    let x := s.queue q
    match x.held with
    | [] => s.setFld (F.queStatusHeld q) 0
    | r :: rest =>
      match s.tryRecord q r with
      | (s, .landed) =>
        ((s.setQueue q { s.queue q with held := rest }).setFld (F.queStatusLastStatus q) r.status).retryHeld q n
      | (s, .failed st) => s.noteFailed (s.fld (F.queCqContext q)) q st false
      | (s, _) => s

/-- A FENCE entry completes once every earlier entry of its queue has and no record is held (R106, R341). -/
def State.settleFence (s : State) (q : Nat) : State :=
  let x := s.queue q
  match x.active with
  | [e] =>
    if e.op = 4 ∧ x.held = [] then
      (s.setQueue q { x with active := [] }).postRecord q { kind := 1, status := 0, ring := e.idx, origin := q, tag := e.tag }
    else s
  | _ => s

/-- Held records of a producing context tried, and what they kept from starting. -/
def State.retryHeldAll (s : State) (q : Nat) : State := (s.retryHeld q ((s.queue q).held.length + 1)).settleFence q

/-- Every producing context whose records are held for a COMPLETION context tries again (R341); ascending context
numbers (log 10). -/
def State.releaseHeld (s : State) (cq : Nat) : State :=
  (s.queues.map (·.1)).foldl (fun s q =>
    if (s.queue q).held ≠ [] ∧ s.fld (F.queCqContext q) = cq then s.retryHeldAll q else s) s

/-- A work entry of a queue completed with a record of KIND 1 (R340). -/
def State.completeWork (s : State) (q idx tag status value : Nat) : State :=
  let x := s.queue q
  let s := s.setQueue q { x with active := x.active.filter fun e => e.idx ≠ idx }
  (s.postRecord q { kind := 1, status, ring := idx, origin := q, tag, value }).settleFence q

/-- A record write rejected: TAIL takes its index back where no later record has one; else it keeps its slot (R580). The
result is that slot. -/
def State.takeBack (s : State) (cq idx : Nat) : State × Option Nat :=
  let t := s.fld (F.queTail cq)
  if s.ringFlight cq = 0 ∧ t = (idx + 1) % 65536 then (s.setFld (F.queTail cq) idx, none)
  else if s.ringFlight cq = 0 ∧ t = idx % 65536 then (s, none)
  else (s, some idx)

/-- The record of a write that was rejected: retried up to 3 times after BUSY or HW_FAULT, then held (R580). -/
def State.recordRejected (s : State) (cq idx : Nat) (r : CRec) (tries status : Nat) : State :=
  let b := s.takeBack cq idx
  let s := b.1
  let r := { r with slot := b.2 }
  let hold := fun (s : State) => s.holdRecord r.origin (r :: (s.queue r.origin).held)
  if (status = stBusy ∨ status = stHwFault) ∧ tries < 3 then
    match s.ringWrite cq r.slot r.counted (r.bytes32 ·) (.record cq · { r with counted := true } (tries + 1)) with
    | (s, .landed) => s
    | (s, _) => hold s
  else (hold s).noteFailed cq r.origin status false

/-- The event record of a write that was rejected: retried, then dropped (R580). -/
def State.eventRejected (s : State) (eq idx : Nat) (e : EvRec) (tries status : Nat) : State :=
  let b := s.takeBack eq idx
  let s := b.1
  if (status = stBusy ∨ status = stHwFault) ∧ tries < 3 then
    match s.ringWrite eq b.2 true (e.bytes32 ·) (.event eq · e (tries + 1)) with
    | (s, .landed) => s
    | (s, _) => s.dropEvent eq
  else (s.dropEvent eq).noteFailed eq e.context status true

end Sys2Proof.Machine
end

