-- ==== Sys2Proof/Machine/Blocks.lean ====
section
/-! DEFINITION. The mesh's geometry (R265, R267, R273), schedule blocks as the dispatcher reads, checks, loads and
unloads them (R289, R292 to R299). -/

namespace Sys2Proof.Machine

/-! ### Geometry -/

/-- Directions: 0 N, 1 S, 2 E, 3 W; output k and input code k + 1 lie in direction k / 2. The neighbour of clump c. -/
def meshNext (c dir : Nat) : Option Nat :=
  match dir with
  | 0 => if c < 6 then none else some (c - 6)
  | 1 => if 18 ≤ c then none else some (c + 6)
  | 2 => if c % 6 = 5 then none else some (c + 1)
  | 3 => if c % 6 = 0 then none else some (c - 1)
  | _ => none

/-- The direction seen from the other end. -/
def meshBack (dir : Nat) : Nat := if dir % 2 = 0 then dir + 1 else dir - 1

/-- Whether the link of clump c in a direction crosses the stile (R290). -/
def crossesStile (c dir : Nat) : Bool := (c % 6 == 2 && dir == 2) || (c % 6 == 3 && dir == 3)

/-- The clump of adapter i (R267). -/
def adapterClump (i : Nat) : Nat :=
  if i < 24 then i
  else if i = 24 then 6 else if i = 25 then 12 else if i = 26 then 11 else if i = 27 then 17
  else if i = 28 then 19 else if i = 29 then 22 else if i = 30 then 1 else 4

/-- Adapter n (0 or 1) of a clump. -/
def clumpAdapter (c n : Nat) : Option Nat :=
  if n = 0 then some c else ((List.range 8).map (· + 24)).find? fun i => adapterClump i == c

/-! ### Slot entries (R272) -/

/-- Source of output k of an entry. -/
def entryOut (e k : Nat) : Nat := bitsAt e (4 * k) 4
/-- RDn: enabled, and its stream register. -/
def entryRd (e n : Nat) : Bool × Nat := (e.testBit (60 + 5 * n), bitsAt e (56 + 5 * n) 4)
/-- Stream register and release bit of output WBn. -/
def entryWs (e n : Nat) : Nat × Bool := (bitsAt e (66 + 5 * n) 4, e.testBit (70 + 5 * n))
/-- ROP. -/
def entryRop (e : Nat) : Nat := bitsAt e 76 3
/-- AISn and AOSn. -/
def entryAis (e n : Nat) : Nat := bitsAt e (79 + n) 1
def entryAos (e n : Nat) : Nat := bitsAt e (81 + n) 1

/-! ### Reading a block (R293, R294) -/

def Binding.ofBytes (b : List Byte) : Binding :=
  { adapter := leAt b 0 1, kind := leAt b 1 1, cap := leAt b 2 2, tag := leAt b 4 2, dest := leAt b 8 8 }

/-- The section at the head of a byte list. -/
def PlnSection.ofBytes (b : List Byte) : PlnSection :=
  let nb := leAt b 1 1
  { clump := leAt b 0 1, streamMask := leAt b 2 2, own := leAt b 4 4, first := leAt b 8 2, periods := leAt b 12 2
    streams := (List.range 16).map fun i => leAt b (0x10 + 8 * i) 8
    bindings := (List.range nb).map fun i => Binding.ofBytes (slice b (0x90 + 16 * i) 16)
    entries := (List.range (leAt b 10 2)).map fun i => leAt b (0x90 + 16 * nb + 16 * i) 16 }

/-- Bytes of the section at the head of a byte list. -/
def sectionSize (b : List Byte) : Nat := 0x90 + 16 * leAt b 1 1 + 16 * leAt b 10 2

/-- The byte lists from which each of n sections starts, and what follows the last. -/
def sectionStarts : Nat → List Byte → List (List Byte) × List Byte
  | 0, b => ([], b)
  | n + 1, b =>
    let r := sectionStarts n (b.drop (sectionSize b))
    (b :: r.1, r.2)

/-- Sections of a block. -/
def schedSections (b : List Byte) : List PlnSection := ((sectionStarts (leAt b 6 1) (b.drop 16)).1).map PlnSection.ofBytes

/-! ### Checks (R295) -/

/-- Period of the slot tables (R270). -/
def State.plnPeriod (s : State) : Nat := s.fld F.plnPeriod

/-- DIV (R284). -/
def State.openDiv (s : State) : Nat := 8 * 2 ^ s.fld F.plnOpen

def zerosAt (b : List Byte) (o n : Nat) : Bool := (slice b o n).all (· == 0)

/-- Whether the block's bytes hold exactly its header and sections. -/
def schedSized (b : List Byte) : Bool :=
  let st := sectionStarts (leAt b 6 1) (b.drop 16)
  16 + (st.1.map sectionSize).sum == b.length

def distinct (l : List Nat) : Bool := l.eraseDups.length == l.length

/-- An entry of clump c under an ownership mask: legal codes, and nothing not owned (R273, R295). AISn goes with no
ownership bit (log 27). -/
def entryOk (c own e : Nat) : Bool :=
  decide (e < 2 ^ 83) && decide (entryRop e ≤ 4) && (own.testBit 16 || entryRop e == 0) &&
  (List.range 14).all (fun k =>
    let x := entryOut e k
    (x == 0 || own.testBit k) && decide (x ≤ 14) &&
      (decide (x = 0 ∨ 8 < x) || (meshNext c ((x - 1) / 2)).isSome) &&
      (x != 14 || (clumpAdapter c 1).isSome)) &&
  (List.range 2).all fun n =>
    (own.testBit (14 + n) || bitsAt e (56 + 5 * n) 5 == 0) && (own.testBit (8 + n) || bitsAt e (66 + 5 * n) 5 == 0) &&
      (own.testBit (12 + n) || entryAos e n == 0)

/-- Owned fields exist: mesh outputs lead to a neighbour, AO1 to an adapter. -/
def ownOk (c own : Nat) : Bool :=
  decide (own < 2 ^ 18) && (List.range 8).all (fun k => !own.testBit k || (meshNext c (k / 2)).isSome) &&
    (!own.testBit 13 || (clumpAdapter c 1).isSome)

/-- A binding of a section's clump (R294). -/
def State.bindingOk (s : State) (c : Nat) (b : List Byte) : Bool :=
  let x := Binding.ofBytes b
  decide (x.adapter < 32) && adapterClump x.adapter == c && decide (x.kind ≤ 3) && decide (16 ≤ x.cap) &&
    decide (x.cap ≤ 192) && x.cap % 16 == 0 && zerosAt b 6 2 &&
    (if x.kind < 2 then decide (x.tag < 1024) && x.dest == 0
     else x.dest % 256 == 0 && !s.isLocal x.dest && s.remoteLayoutOk x.dest &&
       (addrSpace x.dest == 0 || addrSpace x.dest == 1 || addrSpace x.dest == 5))

/-- Rows bound on adapter a by a list of bindings. -/
def boundRows (a : Nat) (bs : List Binding) : Nat := ((bs.filter fun b => b.adapter == a).map Binding.cap).sum

/-- Entry indices of a section whose entry satisfies f, ascending. -/
def PlnSection.indices (x : PlnSection) (f : Nat → Bool) : List Nat :=
  (x.entries.zipIdx.filter fun e => f e.1).map fun e => x.first + e.2

/-- The section of a clump. -/
def sectionOf (l : List PlnSection) (c : Nat) : Option PlnSection := l.find? fun x => x.clump == c

/-- R292 for one stile lane: sender's output k of clump c. -/
def stilePairs (l : List PlnSection) (p slack c k : Nat) : Bool :=
  match meshNext c (k / 2) with
  | none => true
  | some d =>
    let code := meshBack (k / 2) * 2 + k % 2 + 1
    let tx := match sectionOf l c with
      | some x => x.indices fun e => entryOut e k != 0
      | none => []
    let rx := match sectionOf l d with
      | some x => x.indices fun e => (List.range 14).any fun j => entryOut e j == code
      | none => []
    tx.length == rx.length && (tx.zip rx).all fun t => decide (6 + slack ≤ (t.2 + p - t.1) % p)

/-- Clump and output of every stile lane. -/
def stileLanes : List (Nat × Nat) :=
  (List.range 4).flatMap fun y => [(6 * y + 2, 4), (6 * y + 2, 5), (6 * y + 3, 6), (6 * y + 3, 7)]

/-- The reason of R295 a block breaks, lowest first (log 22), 0 for none. -/
def State.schedReason (s : State) (b : List Byte) (slack : Nat) : Nat :=
  let st := (sectionStarts (leAt b 6 1) (b.drop 16)).1
  let l := schedSections b
  let p := s.plnPeriod
  let div := s.openDiv
  let binds := l.flatMap PlnSection.bindings
  if leAt b 0 4 ≠ 0x504C5331 ∨ leAt b 4 2 ≠ p ∨ !schedSized b then 1
  else if leAt b 6 1 = 0 ∨ 24 < leAt b 6 1 ∨ !distinct (l.map PlnSection.clump) ∨
    st.any (fun x => decide (23 < leAt x 0 1 ∨ 4 < leAt x 1 1 ∨ leAt x 10 2 = 0 ∨ 4096 < leAt x 10 2 ∨
      p < leAt x 8 2 + leAt x 10 2)) then 2
  else if !zerosAt b 7 9 ∨ st.any (fun x => !zerosAt x 14 2) ∨
    l.any (fun x => !ownOk x.clump x.own || x.entries.any (fun e => !entryOk x.clump x.own e) ||
      x.streams.zipIdx.any fun r => !x.streamMask.testBit r.2 && r.1 != 0) then 3
  else if l.any (fun x => x.own % 256 != 0 && (x.indices fun _ => true).any fun i => i % div == div - 1) then 4
  else if stileLanes.any (fun t => !stilePairs l p slack t.1 t.2) then 5
  else if l.any (fun x => (st.filter fun y => leAt y 0 1 == x.clump).any fun y =>
      (List.range (leAt y 1 1)).any fun i => !s.bindingOk x.clump (slice y (0x90 + 16 * i) 16)) ∨
    !distinct (binds.map fun x => x.adapter * 4 + x.kind) ∨
    (List.range 32).any (fun a => decide (192 < boundRows a binds)) then 6
  else if l.any (fun x => x.streams.any fun r => decide (2 ^ 48 ≤ r)) then 7
  else 0

/-- Whether a router has failed (R299, R300). -/
def State.routerFailed (s : State) (c : Nat) : Bool := (s.fld F.plnRouterFailed).testBit c

/-- Whether a clump's section names an output or an input that joins clump d. -/
def PlnSection.joins (x : PlnSection) (d : Nat) : Bool :=
  (List.range 4).any fun dir => meshNext x.clump dir == some d &&
    x.entries.any fun e => entryOut e (2 * dir) != 0 || entryOut e (2 * dir + 1) != 0 ||
      (List.range 14).any fun k => entryOut e k == 2 * dir + 1 || entryOut e k == 2 * dir + 2

/-- Whether a block's sections name a router or a link to it (R295, R300). -/
def namesRouter (l : List PlnSection) (c : Nat) : Bool := l.any fun x => x.clump == c || x.joins c

/-- A block that names a failed router (R295). -/
def State.schedDead (s : State) (b : List Byte) : Bool :=
  (List.range 24).any fun c => s.routerFailed c && namesRouter (schedSections b) c

/-! ### Slots (R296) -/

/-- Whether two sections own something in common. -/
def sectionsMeet (x y : PlnSection) : Bool :=
  x.clump == y.clump &&
    (((x.own &&& y.own) % 2 ^ 17 != 0 && decide (x.first < y.first + y.entries.length) &&
        decide (y.first < x.first + x.entries.length)) ||
      x.streamMask &&& y.streamMask != 0 || (x.own.testBit 17 && y.own.testBit 17))

/-- Halves a block touches. -/
def halvesOf (l : List PlnSection) : List Nat := (l.map fun x => halfOfClump x.clump).eraseDups

/-- Rows of the stream region of adapter a that are bound, or still drain (R289). -/
def State.streamRows (s : State) (a : Nat) : Nat :=
  (((s.streams ++ s.draining).filter fun x => x.1 / 4 == a).map fun x => x.2.cap).sum

/-- Whether a launch's slots are free (R296). -/
def State.slotsFree (s : State) (b : List Byte) (static : Bool) : Bool :=
  let l := schedSections b
  let binds := l.flatMap PlnSection.bindings
  !(s.blocks.any fun k => k.sections.any fun x => l.any fun y => sectionsMeet x y) &&
    binds.all (fun x => (tfind s.streams (x.adapter * 4 + x.kind)).isNone) &&
    (List.range 32).all (fun a => decide (s.streamRows a + boundRows a binds ≤ 192)) &&
    decide (s.blocks.length < 16) &&
    !(static && (halvesOf l).any fun h => s.bit (F.plnHalfStalled h))

/-! ### Loading and unloading -/

/-- A block loaded (R109, R286, R288). -/
def State.loadBlock (s : State) (queue idx : Nat) (b : List Byte) : State :=
  let l := schedSections b
  let s := { s with blocks := s.blocks ++ [{ queue, idx, sections := l }] }
  (l.flatMap PlnSection.bindings).foldl (fun s x =>
    let t : AdpStream := { queue, idx, cap := x.cap, tag := x.tag, dest := x.dest }
    { s with streams := tins s.streams (x.adapter * 4 + x.kind) t }) s

/-- Rows in the stile FIFOs on lanes a section owned are gone, and its accumulator's operands (R297). -/
def State.unloadSection (s : State) (x : PlnSection) : State :=
  let s := ([4, 5, 6, 7].filter fun k => x.own.testBit k && crossesStile x.clump (k / 2)).foldl (fun s k =>
    match meshNext x.clump (k / 2) with
    | some d =>
      let r := s.router d
      s.setRouter d { r with stile := tdel r.stile (meshBack (k / 2) * 2 + k % 2 + 1) }
    | none => s) s
  if x.own.testBit 17 then
    let r := s.router x.clump
    s.setRouter x.clump { r with acc := [], accIn := [], accBf := false }
  else s

/-- An adapter stream released (R289): inbound rows discarded and counted; outbound rows already pushed are still
sent. -/
def State.releaseStream (s : State) (key : Nat) (t : AdpStream) : State :=
  if key % 4 < 2 then
    ({ s with streams := tdel s.streams key }).addFld (F.plnAdpDiscard (key / 4)) t.rows.length
  else
    let s : State := { s with streams := tdel s.streams key }
    if t.rows.isEmpty then s else { s with draining := s.draining ++ [(key, t)] }

/-- A kernel's block unloaded (R297). -/
def State.unloadBlock (s : State) (queue idx : Nat) : State :=
  let mine := s.blocks.filter fun b => b.queue == queue && b.idx == idx
  let s := { s with blocks := s.blocks.filter fun b => !(b.queue == queue && b.idx == idx) }
  let s := (mine.flatMap PlnBlock.sections).foldl State.unloadSection s
  (s.streams.filter fun x => x.2.queue == queue && x.2.idx == idx).foldl
    (fun s x => s.releaseStream x.1 x.2) s

/-! ### The distance table (R298) -/

/-- Clumps reached from a frontier of clumps in n more hops past those seen, with the hop count of each. -/
def State.spread (s : State) : Nat → Nat → List Nat → List (Nat × Nat) → List (Nat × Nat)
  | 0, _, _, seen => seen
  | n + 1, h, front, seen =>
    let next := (front.flatMap fun c => (List.range 4).filterMap (meshNext c)).eraseDups.filter fun c =>
      !s.routerFailed c && !seen.any fun x => x.1 == c
    s.spread n (h + 1) next (seen ++ next.map fun c => (c, h + 1))

/-- Hops on the shortest route between two clumps that avoids failed routers. -/
def State.hops (s : State) (a b : Nat) : Option Nat :=
  if s.routerFailed a ∨ s.routerFailed b then none
  else ((s.spread 24 0 [a] [(a, 0)]).find? fun x => x.1 == b).map fun x => x.2

/-- The direction of an open row's next hop: X first and then Y, or the shortest way round failed routers. -/
def State.openDir (s : State) (c d : Nat) : Option Nat :=
  if s.fld F.plnRouterFailed = 0 then
    if c % 6 < d % 6 then some 2 else if d % 6 < c % 6 then some 3
    else if c / 6 < d / 6 then some 1 else if d / 6 < c / 6 then some 0 else none
  else
    match s.hops c d with
    | none => none
    | some h => [2, 3, 1, 0].find? fun dir =>
      match meshNext c dir with
      | some n => (s.hops n d).any fun x => decide (x + 1 = h)
      | none => false

/-- Whether the route from clump c to clump d, of at most so many hops, crosses the stile (R285, R298). -/
def State.routeCrosses (s : State) : Nat → Nat → Nat → Bool
  | 0, _, _ => false
  | n + 1, c, d =>
    match s.openDir c d with
    | none => false
    | some dir =>
      match meshNext c dir with
      | none => false
      | some x => crossesStile c dir || s.routeCrosses n x d

/-- The distance entry of clump c and adapter i: hops, and whether the route crosses the stile. -/
def State.distEntry (s : State) (c i : Nat) : Nat :=
  match s.hops (adapterClump i) c with
  | none => 0xFFFF
  | some h =>
    let st := (s.routeCrosses h (adapterClump i) c).toNat
    (2 * h + 4 * st + 6) % 256 * 256 + st * 128 + h % 16

end Sys2Proof.Machine
end

