-- ==== Sys2Proof/Machine/CoreOps.lean ====
section
/-! DEFINITION. What happens to cores and kernels whatever caused it: events, errors, abort, completion, fencing, the
scoreboard (R61, R95 to R104, R113 to R117, R137 to R141, R451, R566 to R570). -/

namespace Sys2Proof.Machine

/-! ### COR_EVENT (R116) -/

/-- The kernel that runs on a physical core. -/
def State.kernelOn (s : State) (p : Nat) : Option Kernel := s.kernels.find? fun k => k.started && k.phys.contains p

/-- The physical core an open row is for. -/
def RowLoad.core : RowLoad → Option Nat
  | .write p _ => some p
  | .read p _ => some p
  | _ => none

/-- Level bits of COR_EVENT: ERROR, UNIT_FAILED, HELD_REQUEST, POSTS_DONE, QUEUE_NONEMPTY. -/
def State.levelBits (s : State) (p : Nat) : Nat :=
  let code := s.fld (F.corErrorFirstCode p)
  let failed := match s.kernelOn p with
    | some k => k.unitFailed || k.phys.any s.fencedCore
    | none => false
  let heldReq := s.routers.any fun r => r.2.opens.any fun o => o.home.isSome && o.load.core == some p
  let qn := s.bit (F.corQueueWatchEnable p) && s.ringUsed (s.fld (F.corQueueWatchQueue p)) != 0
  (if code = 5 ∨ code = 7 ∨ code = 9 then 2 ^ 10 else 0) + (if failed then 2 ^ 9 else 0) +
    (if heldReq then 2 ^ 8 else 0) + (if (s.core p).postsOut = 0 then 2 ^ 4 else 0) + (if qn then 2 ^ 3 else 0)

/-- W1C bits of COR_EVENT as stored. -/
def State.edgeBits (s : State) (p : Nat) : Nat :=
  s.fld (F.corEventSw p) * 2 ^ 15 + s.fld (F.corEventPace p) * 2 ^ 11 + s.fld (F.corEventMsg p) * 2 ^ 7 +
    s.fld (F.corEventGuard p) * 2 ^ 6 + s.fld (F.corEventTimer p) * 2 ^ 5 + s.fld (F.corEventBinderWake p) * 2 ^ 2 +
    s.fld (F.corEventVxDone p) * 2 + s.fld (F.corEventMxDone p)

/-- COR_EVENT as read. -/
def State.eventWord (s : State) (p : Nat) : Nat := s.edgeBits p + s.levelBits p

/-- The W1C field of a COR_EVENT bit. -/
def eventFld (p : Nat) : Nat → Option Fld
  | 0 => some (F.corEventMxDone p)
  | 1 => some (F.corEventVxDone p)
  | 2 => some (F.corEventBinderWake p)
  | 5 => some (F.corEventTimer p)
  | 6 => some (F.corEventGuard p)
  | 7 => some (F.corEventMsg p)
  | 11 => some (F.corEventPace p)
  | 15 => some (F.corEventSw p)
  | _ => none

/-- An event of a core: into COR_EVENT, or below Leaf into the wake latch (R482). -/
def State.signal (s : State) (p bit : Nat) : State :=
  match eventFld p bit with
  | none => s
  | some f =>
    if s.power p = pwDormant ∨ s.power p = pwCoppice ∨ s.power p = pwWaking then
      s.setCore p { s.core p with latch := setBit (s.core p).latch bit }
    else s.setFld f 1

/-- W1C bits of COR_EVENT cleared by mask (R7, R93). -/
def State.clearEvents (s : State) (p mask : Nat) : State :=
  (bitsOf 16 mask).foldl (fun s b => match eventFld p b with | some f => s.setFld f 0 | none => s) s

/-! ### Scoreboard (R95, R102, R140, R141) -/

/-- Whether scoreboard entry i is live. -/
def State.sbLive (s : State) (p i : Nat) : Bool := s.bit (F.spdSbAValid p i)

/-- COR_SB_LIVE. -/
def State.sbMask (s : State) (p : Nat) : Nat := maskOf 32 (s.sbLive p)

/-- The lowest free entry. -/
def State.sbFree (s : State) (p : Nat) : Option Nat := (List.range 32).find? fun i => !s.sbLive p i

/-- Number of free entries. -/
def State.sbFreeCount (s : State) (p : Nat) : Nat := ((List.range 32).filter fun i => !s.sbLive p i).length

/-- A range entered into entry i, last in order (R138, R140). -/
def State.sbEnter (s : State) (p i kind source engine origin first last : Nat) (owner : Option (Sum Nat Nat)) :
    State :=
  let s := ((((s.setFld (F.spdSbAValid p i) 1).setFld (F.spdSbAKind p i) kind).setFld (F.spdSbASource p i) source).setFld
    (F.spdSbAFirstRow p i) first)
  let s := ((s.setFld (F.spdSbBEngine p i) engine).setFld (F.spdSbBOrigin p i) origin).setFld (F.spdSbBLastRow p i) last
  let c := s.core p
  s.setCore p { c with sbOrder := c.sbOrder ++ [{ entry := i, owner }] }

/-- An entry released. -/
def State.sbRelease (s : State) (p i : Nat) : State :=
  let c := s.core p
  (s.setCore p { c with sbOrder := c.sbOrder.filter fun o => o.entry ≠ i }).setFld (F.spdSbAValid p i) 0

/-- Every entry of an owner released. -/
def State.sbReleaseOwner (s : State) (p : Nat) (owner : Sum Nat Nat) : State :=
  ((s.core p).sbOrder.filter fun o => o.owner = some owner).foldl (fun s o => s.sbRelease p o.entry) s

/-- Every entry released (R97, R109, R114). -/
def State.sbClear (s : State) (p : Nat) : State := (List.range 32).foldl (fun s i => s.sbRelease p i) s

/-- Whether rows `first..last` overlap entry i (R141). -/
def State.sbOverlaps (s : State) (p i first last : Nat) : Bool :=
  decide (s.fld (F.spdSbAFirstRow p i) ≤ last) && decide (first ≤ s.fld (F.spdSbBLastRow p i))

/-! ### Dieback list (R450, R451) -/

/-- The physical core that holds the most ROW entries, lowest on a tie. -/
def mostRows (l : List Dieback) : Nat :=
  let cnt := fun p => (l.filter fun d => d.kind == 4 && d.unit == p).length
  (List.range 96).foldl (fun best p => if cnt best < cnt p then p else best) 0

/-- An entry added to the dieback list, with R451's making of room. -/
def State.addEntry (s : State) (e : Dieback) : State :=
  let more := fun (s : State) (n : Nat) => s.satFld F.evgDiebackUnsaved n
  if s.dieback.any fun d => d.kind == e.kind && d.unit == e.unit && d.detail == e.detail then s
  else if s.dieback.length < 1024 then more { s with dieback := s.dieback ++ [e] } 1
  else
    let p := mostRows s.dieback
    let rows := s.dieback.filter fun d => d.kind == 4 && d.unit == p
    let rest := s.dieback.filter fun d => !(d.kind == 4 && d.unit == p)
    let c : Dieback := { kind := 1, source := 3, unit := p, time := s.hostNow % 2 ^ 32,
                         cause := (rows.head?.map Dieback.cause).getD 0 }
    let last := if e.kind = 4 ∧ e.unit = p then [] else [e]
    more { s with dieback := rest ++ [c] ++ last } (1 + last.length)

/-- A new entry of the die's own, at the time of the host clock (R450). -/
def State.addDieback (s : State) (kind source unit detail cause : Nat) : State :=
  s.addEntry { kind, source, unit, detail, time := s.hostNow % 2 ^ 32, cause }

/-- DETAIL of a ROW entry (R450). -/
def rowDetail (bank row : Nat) : Nat := bank * 2 ^ 14 + row * 2 ^ 4

/-! ### Errors, abort and completion (R113 to R117) -/

abbrev erIllegal : Nat := 0x01
abbrev erDescAddr : Nat := 0x02
abbrev erDescriptor : Nat := 0x03
abbrev erClump : Nat := 0x04
abbrev erConflict : Nat := 0x05
abbrev erAlign : Nat := 0x06
abbrev erCtlDenied : Nat := 0x07
abbrev erSbRange : Nat := 0x08
abbrev erFencedTarget : Nat := 0x09
abbrev erHw : Nat := 0x0A

/-- Completion status of a fatal error (R117). -/
def fatalStatus (code : Nat) : Nat := if code = erHw then stHwFault else stBadParam

/-- An error recorded in COR_ERROR (R116, R117). -/
def State.recordError (s : State) (p code pc : Nat) : State :=
  let s := s.satFld (F.corErrorCount p) 1
  if s.fld (F.corErrorFirstCode p) = 0 then (s.setFld (F.corErrorFirstCode p) code).setFld (F.corErrorFirstPc p) pc
  else s

/-- Whether a stopped core has nothing left in flight (R114). -/
def State.drained (s : State) (p : Nat) : Bool :=
  let c := s.core p
  c.mxRun.isNone && c.mxDrain.isNone && c.vxRun.isNone && c.postsOut == 0

/-- A core of an aborted kernel stopped (R114): its queues discarded, its entries released; IDLE once drained, until
then FAULTED (log 13). -/
def State.stopCore (s : State) (p : Nat) : State :=
  if s.fencedCore p then s
  else
    let x := s.core p
    let s := (s.setCore p { x with mxq := [], mxRun := x.mxRun.map fun r => { r with acc := none }, vxq := [], wait := none, acc := none, frozenFrom := none, frozenOwn := false, startWaits := false }).sbClear p
    s.setCoreState p (if s.drained p then csIdle else csFaulted)

/-- Whether every core of a kernel's set is done: fenced, or ENDED, or for an aborted kernel IDLE (R113, R114). -/
def State.kernelDone (s : State) (k : Kernel) : Bool :=
  k.phys.all fun p => s.fencedCore p ||
    (if k.aborted.isSome then s.coreState p == csIdle else s.coreState p == csEnded)

/-- Completion status of a kernel (R113); an abort's status stands before a fenced core's (log 13). -/
def Kernel.status (k : Kernel) : Nat :=
  match k.aborted with
  | some (_, _, st) => st
  | none => if k.unitFailed then stUnitFailed else stOk

/-- VALUE of a kernel's completion record (R338). -/
def State.kernelValue (s : State) (k : Kernel) : Nat :=
  let t := if k.started then min (s.time - k.startTime) (2 ^ 32 - 1) else 0
  let e := match k.aborted with
    | some (l, code, _) => if code = 0 then 0xFFFF else l + code * 2 ^ 24
    | none => 0xFFFF
  e + t * 2 ^ 32

/-- A kernel completed: its cores idle and moved to IDLE_STATE (R477), its record appended (R113), its schedule block
unloaded with it (R297). -/
def State.completeKernel (s : State) (k : Kernel) : State :=
  let s := { s with kernels := s.kernels.filter fun x => x.queue ≠ k.queue ∨ x.idx ≠ k.idx }
  let s := s.unloadBlock k.queue k.idx
  let s := s.completeWork k.queue k.idx k.tag k.status (s.kernelValue k)
  let s := if k.started then
      k.phys.foldl (fun s p => if s.fencedCore p then s else (s.setCoreState p csIdle).enterIdle p) s
    else s
  ((s.retarget 0 false).retarget 1 false)

/-- Every kernel that is done completes. -/
def State.settleKernels (s : State) : State :=
  (s.kernels.filter fun k => k.started && s.kernelDone k).foldl (fun s k => s.completeKernel k) s

/-- The kernel of a core aborted (R114) for an error of logical core l, 0 for none, with a status. -/
def State.abortKernel (s : State) (k : Kernel) (l code status : Nat) : State :=
  if k.aborted.isSome then s
  else
    let ks := s.kernels.map fun x =>
      if x.queue = k.queue ∧ x.idx = k.idx then { x with aborted := some (l, code, status) } else x
    let s := ({ s with kernels := ks }).unloadBlock k.queue k.idx
    let s := k.phys.foldl (fun s p => s.stopCore p) s
    s.settleKernels

/-- A fatal error at a program counter recorded by physical core p, logical core l: KERNEL_ABORT, and kernel k aborted
(R114, R117, R565). -/
def State.fatalIn (s : State) (p l code pc : Nat) (k : Option Kernel) : State :=
  let s := s.recordError p code pc
  match k with
  | none => s
  | some k =>
    (s.emitQ k.queue svWarning 1 0 0x0200 l k.queue (code + pc * 2 ^ 8)).abortKernel k l code (fatalStatus code)

/-- A fatal error of a physical core. -/
def State.fatal (s : State) (p code : Nat) : State :=
  s.fatalIn p ((s.logical p).getD 0xFFFF) code (s.fld (F.corPc p)) (s.kernelOn p)

/-- A stopped core of an aborted kernel is idle once drained (R114). -/
def State.drainCheck (s : State) (p : Nat) : State :=
  if s.coreState p = csFaulted ∧ s.drained p then (s.setCoreState p csIdle).settleKernels else s

/-- Cores coupled to a half (R279): those of static kernels whose block has a section in it. -/
def State.coupled (s : State) (h : Nat) : List Nat :=
  (s.kernels.filter fun k => k.started && !k.scoreboard && k.aborted.isNone && s.blocks.any fun b =>
    b.queue == k.queue && b.idx == k.idx && b.sections.any fun x => halfOfClump x.clump == h).flatMap Kernel.phys

/-- A core frozen by a POST of its own goes on (R99), unless its half stalls. -/
def State.thawOwn (s : State) (p : Nat) : State :=
  let c := s.core p
  if c.frozenOwn then
    let s := s.setCore p { c with frozenOwn := false }
    let stalled := (List.range 2).any fun h => s.bit (F.plnHalfStalled h) && (s.coupled h).contains p
    match c.frozenFrom with
    | some st => if stalled then s else (s.setCore p { s.core p with frozenFrom := none }).setCoreState p st
    | none => s
  else s

/-- An outstanding POST of a core answered (R85). -/
def State.postAnswered (s : State) (p status : Nat) : State :=
  let c := s.core p
  if c.postsOut = 0 then s
  else
    let s := (s.setCore p { c with postsOut := c.postsOut - 1 }).thawOwn p
    let s := if status = stOk then s
      else (s.setFld (F.corPostStatusStatus p) status).satFld (F.corPostStatusRejects p) 1
    s.drainCheck p

/-! ### Fencing (R61, R567, R568) -/

/-- A fenced core's waits are gone (R351), its pending power request is answered (R568). -/
def State.dropWaiter (s : State) (l : Nat) : State :=
  let drop := fun (b : Nat × BinderSt) => (b.1, { b.2 with waiters := b.2.waiters.filter fun w => w.1 ≠ l })
  { s with binders := (s.binders.map drop).filter fun b => decide (b.2 ≠ {}) }

/-- The units of a core stop for good: nothing queued, running, held or awaited is left (R61, R171). -/
def State.haltUnits (s : State) (p : Nat) : State :=
  let s := s.setCore p { s.core p with
    mxq := [], vxq := [], mxRun := none, mxDrain := none, vxRun := none, acc := none, wait := none, frozenFrom := none,
    frozenOwn := false, startWaits := false }
  (s.setFld (F.mxeStatusBusy p) 0).setFld (F.vxeStatusBusy p) 0

/-- A core with a logical number fenced, or a spare recorded as failed (R61, R351, R567). -/
def State.fenceOne (s : State) (p cause : Nat) : State :=
  match s.logical p with
  | none =>
    let s := s.logEvent svAlert 2 stUnitFailed 0x0201 p 0 (p + cause * 2 ^ 8 + s.fld F.evgNumberingEpoch * 2 ^ 16)
    s.addFld F.fltFences 1
  | some l =>
    if s.fencedCore p then s
    else
      let detail := p + cause * 2 ^ 8 + s.fld F.evgNumberingEpoch * 2 ^ 16
      let s := (s.setMaskBit (F.evgFenced (p / 32)) (p % 32)).addFld F.fltFences 1
      let s := (s.haltUnits p).setCoreState p csFenced
      let s := (s.dropWaiter l).dropRequest l stUnitFailed
      match s.kernelOn p with
      | some k =>
        let ks := s.kernels.map fun x =>
          if x.queue = k.queue ∧ x.idx = k.idx then { x with unitFailed := true } else x
        let s := { s with kernels := ks }
        s.emitQ k.queue svAlert 1 stUnitFailed 0x0201 l k.queue detail
      | none => s.logEvent svAlert 1 stUnitFailed 0x0201 l 0 detail

/-- UNIT_FENCED set and the ready state lowered (R61, R569). -/
def State.unitFenced (s : State) : State := (s.setFld F.fltStatusUnitFenced 1).settleReady

/-- A core fenced (R61): its dieback entry, its events; a spare changes no ready state; `aborts` if the cause is a fatal
HW_ERROR of its kernel (R567). -/
def State.fenceCore (s : State) (p cause : Nat) (aborts : Bool) : State :=
  let had := s.logical p
  let k := s.kernelOn p
  let pc := s.fld (F.corPc p)
  let s := s.fenceOne p cause
  let s := s.addDieback 1 3 p 0 0x0201
  let s := if aborts then s.fatalIn p (had.getD 0xFFFF) erHw pc k else s
  let s := if had.isSome then s.unitFenced else s
  s.settleKernels

/-- The four cores of a clump fenced, in ascending physical order (R567, R568), with one CLUMP entry. -/
def State.fenceClump (s : State) (c cause kind evCode : Nat) : State :=
  let s := (List.range 4).foldl (fun s q => s.fenceOne (4 * c + q) cause) s
  let s := s.addDieback kind 3 c 0 evCode
  s.unitFenced.settleKernels

end Sys2Proof.Machine
end

