-- ==== Sys2Proof/Machine/DmaEntries.lean ====
section
/-! DEFINITION. The DMA descriptor (R320), its beats (R323 to R325), and the scoreboard entries that a transfer makes in the
cores it writes (R137 to R139). -/

namespace Sys2Proof.Machine

/-! ### The descriptor (R320) -/

def dmCtl (b : List Byte) : Nat := leAt b 0 4
def dmLen (b : List Byte) : Nat := leAt b 4 4
def dmSrc (b : List Byte) : Nat := leAt b 8 8
def dmDst (b : List Byte) : Nat := leAt b 16 8
def dmTag (b : List Byte) : Nat := leAt b 24 8
def dmCrcDest (b : List Byte) : Nat := leAt b 32 8
def dmNotify (b : List Byte) : Nat := leAt b 40 8
def dmSeason (b : List Byte) : Nat := leAt b 48 2
def dmSrcFixed (b : List Byte) : Bool := bitsAt (dmCtl b) 4 2 == 1
def dmDstFixed (b : List Byte) : Bool := bitsAt (dmCtl b) 6 2 == 1
/-- Bytes of a fixed access. -/
def dmWidth (b : List Byte) : Nat := if bitsAt (dmCtl b) 8 2 = 0 then 4 else if bitsAt (dmCtl b) 8 2 = 1 then 8 else 256
def dmFunnel (b : List Byte) : Bool := (dmCtl b).testBit 10
def dmCrc (b : List Byte) : Nat := bitsAt (dmCtl b) 11 2

/-! ### Beats (R317, R323 to R325) -/

/-- Number of beats. -/
def dmBeats (b : List Byte) : Nat :=
  if dmSrcFixed b || dmDstFixed b then dmLen b / dmWidth b
  else (dmSrc b + dmLen b - 1) / 256 - dmSrc b / 256 + 1

/-- Address and bytes that beat k reads. -/
def dmRead (b : List Byte) (k : Nat) : Nat × Nat :=
  if dmSrcFixed b then (dmSrc b, dmWidth b)
  else if dmDstFixed b then (dmSrc b + k * dmWidth b, dmWidth b)
  else (dmSrc b / 256 * 256 + k * 256, 256)

/-- First byte of the transfer that beat k brings, and how many. -/
def dmPart (b : List Byte) (k : Nat) : Nat × Nat :=
  if dmSrcFixed b || dmDstFixed b then (k * dmWidth b, dmWidth b)
  else
    let row := dmSrc b / 256 * 256 + k * 256
    let lo := max (dmSrc b) row
    (lo - dmSrc b, min (dmSrc b + dmLen b) (row + 256) - lo)

/-- The bytes of a beat's data that the transfer takes. -/
def dmUseful (b : List Byte) (k : Nat) (data : List Byte) : List Byte :=
  slice data (dmSrc b + (dmPart b k).1 - (dmRead b k).1) (dmPart b k).2

/-- Of fixed sources every byte counts. -/
def dmTake (b : List Byte) (k : Nat) (data : List Byte) : List Byte :=
  if dmSrcFixed b || dmDstFixed b then slice data 0 (dmWidth b) else dmUseful b k data

/-- Data of a beat that returned to a channel, kept until it is written in source order (R319). -/
def State.dmaData (s : State) (c beat : Nat) (data : List Byte) : State :=
  match (s.chan c).run with
  | none => s
  | some r =>
    let put := fun (o : DmaOut) => if o.beat = beat ∧ ¬ o.lost then { o with data := some (dmTake r.bytes beat data) } else o
    s.setChan c { s.chan c with run := some { r with out := r.out.map put } }

/-! ### Entries -/

/-- Where a local destination begins in the scratchpads of the logical cores, one after another: space 1, or a window's
range unless a stream takes its writes (R52, R286, R360). -/
def State.dmaBase (s : State) (b : List Byte) : Option Nat :=
  let a := dmDst b
  let w := addrOff a / 2 ^ 32
  if ¬ s.isLocal a then none
  else if addrSpace a = 1 then some (addrOff a)
  else if addrSpace a = 5 ∧ w < 1024 ∧ ¬ (s.streams.any fun x => decide (x.1 % 4 < 2) && x.2.tag == w) then
    some (s.fld (F.winBase w) + addrOff a % 2 ^ 32)
  else none

/-- Bytes of a channel's destination that lie in a physical core, as first byte and end within the core. -/
def State.dmaPartIn (s : State) (b : List Byte) (p : Nat) : Option (Nat × Nat) :=
  match s.dmaBase b, s.logical p with
  | some o, some l =>
    let e := o + if dmDstFixed b then dmWidth b else dmLen b
    let lo := max o (l * coreBytes)
    let hi := min e ((l + 1) * coreBytes)
    if lo < hi then some (lo - l * coreBytes, hi - l * coreBytes) else none
  | _, _ => none

/-- Live DMA entries of a core. -/
def State.dmaEntries (s : State) (p : Nat) : Nat :=
  ((List.range 32).filter fun i => s.sbLive p i && s.fld (F.spdSbASource p i) == 3).length

/-- The entry a channel waits for in core p is entered if there is room: at most 8 DMA entries, among the core's 32 (R139). -/
def State.dmaEnterOne (s : State) (c p : Nat) : State :=
  match (s.chan c).run with
  | none => s
  | some r =>
    match s.dmaPartIn r.bytes p, s.sbFree p with
    | some (lo, hi), some i =>
      if r.sbPend.contains p ∧ s.dmaEntries p < 8 then
        let row := posOf p * 16384
        let s := s.sbEnter p i 0 3 (c / 64) (c % 64) (row + lo / 256) (row + (hi - 1) / 256) (some (.inr c))
        s.setChan c { s.chan c with
          run := some { r with sbPend := r.sbPend.filter (· ≠ p), sbLive := r.sbLive ++ [p] } }
      else s
    | _, _ => s

/-- Every DMA entry that waits in core p is entered while there is room, channels in ascending order. -/
def State.dmaEnterAll (s : State) (p : Nat) : State := (s.chans.map (·.1)).foldl (fun s c => s.dmaEnterOne c p) s

end Sys2Proof.Machine
end

