-- ==== Sys2Proof/Machine/Binders.lean ====
section
/-! DEFINITION. The binder, window and role unit: operations, releases, messages and their merging, role pulses
(R348 to R358, R366 to R369, R582). -/

namespace Sys2Proof.Machine

/-- Binder number of a space-2 address (R50). -/
def binderNo (a : Nat) : Nat := addrOff a / 64 % 8192

/-- Space-2 address of a binder's arrive register on a die. -/
def binderAddr (die b : Nat) : Nat := die * 2 ^ 47 + 2 * 2 ^ 44 + b * 64

/-- A valid binder address (R348). -/
def validBinderAddr (a : Nat) : Bool :=
  addrSpace a == 2 && decide (addrPos a ≤ 11) && decide (addrOff a < 2 ^ 19) && a % 64 == 0

def State.armed (s : State) (b : Nat) : Bool := s.bit (F.bndCfgArmed b)

/-- The first failure of a channel's descriptor (R333, R334): status, FAULT word, leading bytes, whether its retries
are exhausted. Its scoreboard entries are released (R137). -/
def State.dmaFail (s : State) (c status fault : Nat) (lead : Option Nat) (exhausted : Bool) : State :=
  match (s.chan c).run with
  | none => s
  | some r =>
    if r.failed.isSome then s.setChan c { s.chan c with run := some { r with halts := r.halts || exhausted } }
    else
      let halts := exhausted || !(leAt r.bytes 0 4).testBit 1
      let lead := match r.lead with
        | some x => some x
        | none => some (lead.getD r.written)
      let r' : DmaRun := { r with failed := some (status, fault), halts, lead, sbPend := [], sbLive := [] }
      r.sbLive.foldl (fun s p => s.sbReleaseOwner p (.inr c)) (s.setChan c { s.chan c with run := some r' })

/-- An answer to a binder operation, delivered to who issued it (R85, R369, R434). -/
def State.answer (s : State) (o : Origin) (status : Nat) : State :=
  match o with
  | .core p => s.postAnswered p status
  | .dma c =>
    if status = stOk then s else s.dmaFail c status (if status = stHwFault then 0 else 0xFF000000) none false
  | .work q idx =>
    match (s.queue q).active.find? fun e => e.idx = idx with
    | some e => s.completeWork q idx e.tag status 0
    | none => s
  | _ => s

/-! ### Outbound messages (R355, R356, R582) -/

/-- The merge of a later operation into a waiting message of the same kind and address (R356). -/
def mergeOut (m x : BOut) : Option BOut :=
  if m.op ≠ x.op then none
  else if m.op = 0 ∧ m.value + x.value ≤ 0xFFFFFFFF then
    some { m with value := m.value + x.value, froms := m.froms ++ x.froms }
  else if m.op = 2 ∧ m.value / 65536 = x.value / 65536 then
    some { m with value := m.value / 65536 * 65536 + (m.value % 65536 ||| x.value % 65536), froms := m.froms ++ x.froms }
  else none

/-- The last message for an address of a waiting list merged with an operation, if it can be. -/
def mergeLast (x : BOut) : List BOut → Option (List BOut)
  | [] => none
  | m :: l =>
    match mergeLast x l with
    | some l' => some (m :: l')
    | none =>
      if m.address = x.address ∧ ¬ l.any (fun y => y.address == x.address) then (mergeOut m x).map (· :: l) else none

/-- A binder message for a link: merged, queued in one of its 64 places, or waiting for one (R356, R582). -/
def State.queueOut (s : State) (i : Nat) (x : BOut) : State :=
  let l := s.link i
  match mergeLast x l.bout with
  | some b => (s.setLink i { l with bout := b }).addFld F.bndCombined 1
  | none =>
    if l.bout.length < 64 then s.setLink i { l with bout := l.bout ++ [x] }
    else s.setLink i { l with bheld := l.bheld ++ [x] }

/-- A binder operation to another die: on the link of R577, or discarded and counted when none is up. -/
def State.sendBinder (s : State) (address op value : Nat) (o : Origin) : State :=
  match s.linkToDie (addrDie address) with
  | none => s.addFld F.bndDropped 1
  | some i => s.queueOut i { address, op, value, froms := [o] }

/-- A message the unit makes itself: it never stalls the unit; without a place it is owed in the binder's own state
(R582). `k` is 0 for the ADD to the parent, else 1 + the place in the release list. -/
def State.sendUnit (s : State) (b k address op value : Nat) : State :=
  match s.linkToDie (addrDie address) with
  | none => s.addFld F.bndDropped 1
  | some i =>
    let l := s.link i
    let x : BOut := { address, op, value, froms := [.unit] }
    match mergeLast x l.bout with
    | some m => (s.setLink i { l with bout := m }).addFld F.bndCombined 1
    | none =>
      if l.bout.length < 64 then s.setLink i { l with bout := l.bout ++ [x] }
      else
        let y := s.binder b
        if k = 0 then s.setBinder b { y with owedUp := y.owedUp + 1 }
        else s.setBinder b { y with owedRel := tmod 0 y.owedRel (k - 1) (· + 1) }

/-! ### Fires and releases (R350) -/

/-- Whether release `r` has been reached: (int32)(releases − r) ≥ 0 (R350, R351). -/
def reached (releases r : Nat) : Bool := !before32 releases r

/-- The AWAIT entries of every queue on a binder whose release has come, completed with OK (R106, R434). -/
def State.completeAwaits (s : State) (b : Nat) : State :=
  let rel := s.fld (F.bndReleases b)
  let here := binderAddr s.dieNo b
  (s.queues.map (·.1)).foldl (fun s q =>
    ((s.queue q).active.filter fun e => e.op == 3 && e.address == here && reached rel e.value).foldl
      (fun s e => s.completeWork q e.idx e.tag stOk 0) s) s

/-- A release (R350): RELEASES advances, waiters reached wake, the list's binders are released. -/
def State.release (s : State) (b : Nat) : State :=
  let s := s.addFld (F.bndReleases b) 1
  let rel := s.fld (F.bndReleases b)
  let x := s.binder b
  let s := (x.waiters.filter fun w => reached rel w.2).foldl
    (fun s w => match s.phys w.1 with | some p => s.signal p 2 | none => s) s
  let s := s.setBinder b { x with waiters := x.waiters.filter fun w => !reached rel w.2 }
  let s := s.completeAwaits b
  (x.list.zipIdx).foldl (fun s d =>
    if s.isLocal d.1 then { s with bops := s.bops ++ [{ address := d.1, op := 64, value := 0, from_ := .unit }] }
    else s.sendUnit b (d.2 + 1) d.1 1 0) s

/-- One fire (R350): upward, or a release at the root. -/
def State.fire (s : State) (b : Nat) : State :=
  let s := s.addFld (F.bndTarget b) (s.fld (F.bndStep b))
  let up := s.fld (F.bndUp b)
  if up = 0 then s.release b
  else
    let s := s.addFld (F.bndPendingUp b) 1
    if s.isLocal up then { s with bops := s.bops ++ [{ address := up, op := 4, value := 1, from_ := .unit }] }
    else s.sendUnit b 0 up 0 1

/-- ARRIVE and ADD (R350): COUNT advances, then the binder fires while COUNT reaches TARGET. -/
def State.binderAdd (s : State) (b v : Nat) : State :=
  let s := s.addFld (F.bndCount b) v
  let c := s.fld (F.bndCount b)
  let t := s.fld (F.bndTarget b)
  let step := s.fld (F.bndStep b)
  let n := if c < t ∨ step = 0 then 0 else (c - t) / step + 1
  (List.range n).foldl (fun s _ => s.fire b) s

/-! ### Roles (R366 to R368) -/

/-- The role's core set as a mask over logical cores. -/
def State.roleSet (s : State) (r : Nat) : Nat :=
  s.fld (F.winRoleCores r 0) + 2 ^ 32 * s.fld (F.winRoleCores r 1) + 2 ^ 64 * s.fld (F.winRoleCores r 2)

/-- A role pulse (R367): the state after it and its status. -/
def State.rolePulse (s : State) (r value : Nat) : State × Nat :=
  if 255 < r then (s, stBadParam)
  else
    let set := s.roleSet r
    if set = 0 ∨ value / 65536 % 65536 ≠ s.fld (F.winRoleSeason r) then (s.addFld (F.winRoleStale r) 1, stSeasonStale)
    else
      let ps := (bitsOf 96 set).filterMap s.phys
      if ps.any s.fencedCore then (s, stUnitFailed)
      else
        let s := (s.setFld (F.winRolePending r) (s.fld (F.winRolePending r) ||| value % 65536)).addFld (F.winRolePulses r) 1
        (ps.foldl (fun s p => s.signal p 7) s, stOk)

/-! ### Operations (R349) -/

/-- An operation register write to a local space-2 address from `o` (R349 to R352, R367): state and status. Operation 64
is the RELEASE of the binder's parent, accepted only from the die that its UP names (R355); that of a message is checked
where the message is performed. -/
def State.binderOp (s : State) (x : BOp) : State × Nat :=
  let b := binderNo x.address
  let fromLink := match x.from_ with | .link _ => true | _ => false
  let reject := fun (s : State) (st : Nat) => (s.addFld F.bndReject 1, st)
  if x.op = 32 then
    match s.rolePulse b x.value with
    | (s, st) => if st = stOk then (s, st) else reject s st
  else if (x.op = 8 ∨ x.op = 12) ∧ fromLink = true then reject s stAuthFail
  else if x.op = 0 then
    if x.value ≠ 0 ∨ ¬ s.armed b then reject s stBadParam else (s.binderAdd b 1, stOk)
  else if x.op = 4 then
    if ¬ s.armed b then reject s stBadParam else (s.binderAdd b x.value, stOk)
  else if x.op = 8 then
    if x.value ≠ 0 ∨ ¬ s.armed b then reject s stBadParam
    else if s.fld (F.bndPendingUp b) ≠ 0 then reject s stBusy
    else ((s.setFld (F.bndCount b) 0).setFld (F.bndTarget b) (s.fld (F.bndStep b)), stOk)
  else if x.op = 12 then
    match x.from_ with
    | .core p =>
      if ¬ s.armed b then reject s stBadParam
      else if reached (s.fld (F.bndReleases b)) x.value then (s.signal p 2, stOk)
      else
        match s.logical p with
        | none => reject s stBadParam
        | some l =>
          let y := s.binder b
          (s.setBinder b { y with waiters := tins y.waiters l x.value }, stOk)
    | _ => reject s stBadParam
  else if x.op = 64 then
    if ¬ s.armed b ∨ s.fld (F.bndPendingUp b) = 0 ∨ (fromLink = false ∧ ¬ s.isLocal (s.fld (F.bndUp b))) then reject s stBadParam
    else ((s.setFld (F.bndPendingUp b) (s.fld (F.bndPendingUp b) - 1)).release b, stOk)
  else reject s stBadParam

/-- The binder unit performs the operations that wait, in order; what the bound leaves waits on (R350). -/
def State.drain (s : State) : Nat → State
  | 0 => s
  | n + 1 =>
    match s.bops with
    | [] => s
    | x :: rest =>
      let r := { s with bops := rest }.binderOp x
      (r.1.answer x.from_ r.2).drain n

/-- The unit's work after a command. -/
def State.unitWork (s : State) : State := s.drain 4096

/-- A space-2 write issued by an agent of this die: performed here, sent to another die, or rejected at issue (R48,
R50, R349, R577). The answer reaches `o` by `answer`. -/
def State.issueBinder (s : State) (address value : Nat) (o : Origin) : State :=
  let op := address % 64
  if 11 < addrPos address ∨ ¬ s.remoteLayoutOk address then (s.addFld F.bndReject 1).answer o stBadParam
  else if s.isLocal address then
    let r := s.binderOp { address, op, value, from_ := o }
    (r.1.answer o r.2).unitWork
  else if op = 8 ∨ op = 12 then (s.addFld F.bndReject 1).answer o stAuthFail
  else if op = 0 ∧ value = 0 then s.sendBinder address 0 1 o
  else if op = 4 then s.sendBinder (address - 4) 0 value o
  else if op = 32 then s.sendBinder address 2 value o
  else (s.addFld F.bndReject 1).answer o stBadParam

end Sys2Proof.Machine
end

