-- ==== Sys2Proof/Machine/Queues.lean ====
section
/-! DEFINITION. Doorbells and channel control (R305, R311 to R313, R335 to R337). -/

namespace Sys2Proof.Machine

abbrev chIdle : Nat := 0
abbrev chActive : Nat := 1
abbrev chReadback : Nat := 2
abbrev chPausing : Nat := 3
abbrev chPaused : Nat := 4
abbrev chHalted : Nat := 5
abbrev chUnbound : Nat := 6

/-- State of DMA channel `c` = engine × 64 + channel. -/
def State.chState (s : State) (c : Nat) : Nat := s.fld (F.dmaChStatusState (c / 64) (c % 64))
def State.setChState (s : State) (c v : Nat) : State := s.setFld (F.dmaChStatusState (c / 64) (c % 64)) v

/-- The channel a DMA_RING context is bound to (R316). -/
def State.chanOf (s : State) (q : Nat) : Nat := s.fld (F.queCfgEngine q) * 64 + s.fld (F.queCfgChannel q)

/-- PAUSE (R336, R337). -/
def State.pauseChan (s : State) (c : Nat) : State :=
  let x := s.chState c
  if x = chIdle then s.setChState c chPaused
  else if x = chActive then s.setChState c chPausing
  else if x = chReadback then s.setChan c { s.chan c with pauseAfter := true }
  else s

/-- RESUME (R337): cancels a drain, continues a paused channel. -/
def State.resumeChan (s : State) (c : Nat) : State :=
  let x := s.chState c
  if x = chPausing then s.setChState c chActive
  else if x = chPaused then s.setChState c (if (s.chan c).run.isSome then chActive else chIdle)
  else if x = chReadback then s.setChan c { s.chan c with pauseAfter := false }
  else s

/-- RESTART (R335). -/
def State.restartChan (s : State) (c : Nat) : State :=
  if s.chState c = chHalted then s.setChState c chIdle else s

/-- Whether a context's ring lies on a fenced core (R305). -/
def State.ringFenced (s : State) (q : Nat) : Bool :=
  match (s.queue q).ringCore with
  | some p => s.fencedCore p
  | none => false

/-- A doorbell write (R311, R312): state and status; a rejected doorbell changes nothing but its count. -/
def State.doorbell (s : State) (q reg value : Nat) : State × Nat :=
  let ty := s.fld (F.queCfgType q)
  let v := value % 65536
  let reject := fun (st : Nat) => (s.addFld (F.queDbReject q) 1, st)
  if ty = qtUnused then (s, stBadParam)
  else if (s.queue q).destroying then reject stBadParam
  else if value / 65536 % 65536 ≠ s.fld (F.queSeason q) then reject stSeasonStale
  else if s.ringFenced q then (s, stUnitFailed)
  else if reg = 0 ∧ (ty = qtWork ∨ ty = qtDma) then
    let used := (v + 65536 - s.fld (F.queHead q)) % 65536
    if used < s.ringUsed q ∨ s.ringSize q < used then reject stBadParam
    else
      let x := s.queue q
      let bells := if v = s.fld (F.queTail q) then x.bells else x.bells ++ [(v, s.bells)]
      let s := { s with bells := s.bells + 1 }.setQueue q { x with bells }
      let s := s.setFld (F.queTail q) v
      let s := if ty = qtDma then s.setChan (s.chanOf q) { s.chan (s.chanOf q) with ownStop := false } else s
      (s, stOk)
  else if reg = 4 ∧ (ty = qtCompletion ∨ ty = qtEvent) then
    if s.ringUsed q < (v + 65536 - s.fld (F.queHead q)) % 65536 then reject stBadParam
    else ((s.setFld (F.queHead q) v).releaseHeld q, stOk)
  else if reg = 8 ∧ ty = qtDma then
    if 8 ≤ v then reject stBadParam
    else
      let c := s.chanOf q
      let s := if v.testBit 0 then s.pauseChan c else s
      let s := if v.testBit 1 then s.resumeChan c else s
      (if v.testBit 2 then s.restartChan c else s, stOk)
  else reject stBadParam

/-- Context and doorbell register of a space-3 address (R50, R311). -/
def doorbellCtx (a : Nat) : Nat := addrOff a / 64 % 8192

/-- A rejection delivered to the agent of a command that names its source: a core's POST status (R85), a DMA
descriptor's failure (R333). A link's answer belongs to the packet that carried the write. -/
def State.deliver (s : State) (src : Agent) (status : Nat) : State :=
  match src with
  | .core l =>
    match s.phys l.val with
    | some p =>
      if status = stOk then s
      else (s.setFld (F.corPostStatusStatus p) status).satFld (F.corPostStatusRejects p) 1
    | none => s
  | .dma e j => s.answer (.dma (e.val * 64 + j.val)) status
  | _ => s

/-- A DOORBELL_TAIL. -/
def execDoorbellTail (src : Agent) (q : CtxNo) (value : Word) (s : State) : Host.Outcome State Fault Refusal :=
  let r := s.doorbell q.val 0 value.toNat
  .next ((r.1.deliver src r.2).unitWork)

/-- A DOORBELL_HEAD: frees slots and releases held records (R341). -/
def execDoorbellHead (src : Agent) (q : CtxNo) (value : Word) (s : State) : Host.Outcome State Fault Refusal :=
  let r := s.doorbell q.val 4 value.toNat
  .next ((r.1.deliver src r.2).unitWork)

/-- A CONTROL doorbell that pauses (R336). -/
def execPause (src : Agent) (q : CtxNo) (value : Word) (s : State) : Host.Outcome State Fault Refusal :=
  let r := s.doorbell q.val 8 value.toNat
  .next (r.1.deliver src r.2)

/-- A CONTROL doorbell that resumes (R337). -/
def execResume (src : Agent) (q : CtxNo) (value : Word) (s : State) : Host.Outcome State Fault Refusal :=
  let r := s.doorbell q.val 8 value.toNat
  .next (r.1.deliver src r.2)

/-- A CONTROL doorbell that restarts (R335). -/
def execRestart (src : Agent) (q : CtxNo) (value : Word) (s : State) : Host.Outcome State Fault Refusal :=
  let r := s.doorbell q.val 8 value.toNat
  .next (r.1.deliver src r.2)

end Sys2Proof.Machine
end

