-- ==== Sys2Proof/Machine/Inbound.lean ====
section
/-! DEFINITION. Unscheduled accesses from the agent that makes them to the inbound path of a core or an adapter stream:
window checks (R361 to R363), open rows (R285 to R287), the inbound buffers (R132 to R134, R148). -/

namespace Sys2Proof.Machine

/-! ### Binder operations of the unit's own -/

/-- The ADD of an accepted write's bytes to its window's count binder (R363). -/
def State.countWindow (s : State) (w n : Nat) : State :=
  if s.bit (F.winCfgCountEn w) then
    let op : BOp := { address := binderAddr s.dieNo (s.fld (F.winCfgCountBinder w)), op := 4, value := n, from_ := .notify }
    ({ s with bops := s.bops ++ [op] }).unitWork
  else s

/-! ### Streams (R286, R287) -/

/-- Key of the inbound stream that binds a window. -/
def State.windowStream (s : State) (w : Nat) : Option (Nat × AdpStream) :=
  s.streams.find? fun x => decide (x.1 % 4 < 2) && x.2.tag == w

/-- Rows of a window under way to its stream as open rows. -/
def State.streamUnderWay (s : State) (key k : Nat) : Bool :=
  s.routers.any fun r => r.2.opens.any fun o =>
    match o.load with
    | .stream a t j _ => a * 4 + t == key && j == k
    | _ => false

/-- Whether a write to a stream-bound window misfits (R287). -/
def State.misfit (s : State) (key : Nat) (t : AdpStream) (byte len : Nat) : Bool :=
  byte % 256 != 0 || len != 256 || decide (byte / 256 < t.next) || (tfind t.rows (byte / 256)).isSome ||
    s.streamUnderWay key (byte / 256)

/-- The logical core and byte of its scratchpad that byte b of window w is (R360). -/
def State.windowCore (s : State) (w b : Nat) : Option Nat := s.phys ((s.fld (F.winBase w) + b) / coreBytes)
def State.windowOff (s : State) (w b : Nat) : Nat := (s.fld (F.winBase w) + b) % coreBytes

/-! ### Answers -/

/-- The outcome of an accepted write, sent to who wrote it: a STATUS on its link for a rejection or if its packet asks
(R382), a POST's answer (R85), a DMA failure (R333). -/
def State.answerWrite (s : State) (w : InWrite) (status : Nat) : State :=
  match w.from_ with
  | .link i => if status = stOk ∧ w.ack = false then s else s.sendOn i 2 (.status w.tag status)
  | .core p => s.postAnswered p status
  | .record cq idx r tries => if status = stOk then s.recordLanded cq idx false else s.recordRejected cq idx r tries status
  | .event eq idx e tries => if status = stOk then s.recordLanded eq idx false else s.eventRejected eq idx e tries status
  | o => if status = stOk then s else s.answer o status

/-! ### Delivery of open rows -/

/-- Rows of an adapter's open region in use: those that came on its link, and those that the mesh brought for its streams
(R268, R287). -/
def State.openRows (s : State) (a : Nat) : Nat :=
  ((s.router (adapterClump a)).opens.filter fun o => o.from_ == 0 && o.home == some a).length

/-- Capacity of an adapter's open region (R268). -/
def State.openRoom (s : State) (a : Nat) : Nat := 256 - s.streamRows a

/-- A row into the inbound write buffer or read queue of its core, or into its stream, if there is room (R132, R287);
a row whose stream is gone becomes a write to the window's range (R289). -/
def State.deliverLoad (s : State) (load : RowLoad) : Option (Sum State RowLoad) :=
  match load with
  | .write p w =>
    let c := s.core p
    if c.inbox.length < 16 then some (.inl (s.setCore p { c with inbox := c.inbox ++ [w] })) else none
  | .read p r =>
    let c := s.core p
    if c.readq.length < 8 then some (.inl (s.setCore p { c with readq := c.readq ++ [r] })) else none
  | .stream a t k w =>
    let win := w.window.getD 0
    match tfind s.streams (a * 4 + t) with
    | some x =>
      if x.tag ≠ win then (s.windowCore win (k * 256)).map fun p => .inr (.write p w)
      else if k < x.next + x.cap then
        let x := { x with rows := tins x.rows k w.data, came := tins x.came k s.pcc }
        some (.inl ((({ s with streams := tins s.streams (a * 4 + t) x }).countWindow win 256).answerWrite w stOk))
      else none
    | none => (s.windowCore win (k * 256)).map fun p => .inr (.write p w)
  | .out i vc pkt => some (.inl (s.sendOn i vc pkt))
  | .back ch beat data => some (.inl (s.dmaData ch beat data))

/-- Whether row o waits behind an earlier row e: the same source and destination (R285), or e waits for adapter room
(R287). -/
def OpenRow.behind (o e : OpenRow) : Bool :=
  (e.from_ == o.from_ && e.home == o.home && e.dest == o.dest) ||
    (match e.load with
     | .stream a _ _ _ => o.home == some a || (match o.load with | .stream b _ _ _ => a == b | _ => false)
     | _ => false)

/-- One pass over the rows of a router that have arrived: those in front are delivered. `kept` holds the rows passed
over, oldest first. -/
def State.deliverPass (s : State) (c : Nat) (kept : List OpenRow) : List OpenRow → State × List OpenRow
  | [] => (s, kept)
  | o :: rest =>
    if o.dest ≠ c ∨ kept.any (fun e => e.dest == c && o.behind e) then s.deliverPass c (kept ++ [o]) rest
    else
      match s.deliverLoad o.load with
      | none => s.deliverPass c (kept ++ [o]) rest
      | some (.inl t) => t.deliverPass c kept rest
      | some (.inr (.write p w)) => s.deliverPass c (kept ++ [{ o with dest := clumpOf p, load := .write p w }]) rest
      | some (.inr l) => s.deliverPass c (kept ++ [{ o with load := l }]) rest

/-- Rows that the mesh brought to a router for an adapter's streams enter the adapter's open region while it has room
(R285, R287). `used` counts the rows each adapter has taken in this pass. -/
def State.admitRows (s : State) (c : Nat) (used : List (Nat × Nat)) : List OpenRow → List OpenRow
  | [] => []
  | o :: rest =>
    match o.load with
    | .stream a _ _ _ =>
      if o.dest = c ∧ o.home ≠ some a ∧ s.openRows a + tget 0 used a < s.openRoom a then
        { o with from_ := 0, home := some a } :: s.admitRows c (tmod 0 used a (· + 1)) rest
      else o :: s.admitRows c used rest
    | _ => o :: s.admitRows c used rest

/-- Rows that have arrived at a router enter their inbound paths, or leave on their link. -/
def State.settleRouter (s : State) (c : Nat) : State :=
  let r := s.router c
  if r.opens.any fun o => o.dest == c then
    let x := s.deliverPass c [] (s.admitRows c [] r.opens)
    x.1.setRouter c { x.1.router c with opens := x.2 }
  else s

/-- An open row put at the router of a clump. -/
def State.sendRow (s : State) (c : Nat) (o : OpenRow) : State :=
  let r := s.router c
  (s.setRouter c { r with opens := r.opens ++ [o] }).settleRouter c

/-! ### Accepting -/

/-- An accepted write on its way from clump c to physical core p (R132); `home` is the adapter it arrived at. -/
def State.acceptWrite (s : State) (home : Option Nat) (c p off : Nat) (data : List Byte) (o : Origin) (tag : Nat)
    (window : Option Nat) (ack : Bool) : State :=
  let w : InWrite := { seq := s.inSeq, off, data, from_ := o, tag, window, ack }
  ({ s with inSeq := s.inSeq + 1 }).sendRow c { from_ := 0, home, dest := clumpOf p, load := .write p w }

/-- An accepted read of physical core p, whose request enters the mesh at clump c (R285). -/
def State.acceptRead (s : State) (home : Option Nat) (c p off len : Nat) (dest : ReadFor) : State :=
  let r : InRead := { seq := s.inSeq, off, len, dest }
  ({ s with inSeq := s.inSeq + 1 }).sendRow c { from_ := 0, home, dest := clumpOf p, load := .read p r }

/-- An access to a core rejected, counted if the core is in Bare (R148). -/
def State.notePd (s : State) (p status : Nat) : State :=
  if status = stPoweredDown then s.addFld (F.spdPdReject p) 1 else s

/-- Window and byte of a space-5 address. -/
def windowNo (a : Nat) : Nat := addrOff a / 2 ^ 32
def windowByte (a : Nat) : Nat := addrOff a % 2 ^ 32

/-- The rejection of a window by the checks of R361 that need no data, and of a range (checks 2 to 5, 7). -/
def State.windowStatus (s : State) (w byte len : Nat) (season : Option Nat) : Nat :=
  if s.fld (F.winCfgState w) ≠ 1 then stWindowClosed
  else if (season.getD 0 ≠ 0 ∧ season.getD 0 ≠ s.fld (F.winSeason w)) ∨
    (season.getD 0 = 0 ∧ ¬ s.bit (F.winCfgAcceptUntagged w)) then stSeasonStale
  else if s.fld (F.winLength w) < byte + len then stBadParam
  else
    match s.windowCore w byte with
    | none => stBadParam
    | some p =>
      if s.fencedCore p then stUnitFailed
      else if s.power p = pwBare ∧ ¬ s.bit (F.spdRetainAutoWake p) then stPoweredDown
      else stOk

/-- The status that the checks of spaces 2, 3 and 5 give a read-back's address, length and season, with no check of data
(R328, R311, R312, R349, R361). Of the stream checks (R287) none is repeated: the row is there already (log 42). -/
def State.backStatus (s : State) (a n : Nat) (season : Option Nat) (fromLink : Bool) : Nat :=
  let b := binderNo a
  if addrSpace a = 2 then
    if n ≠ 4 ∨ ¬ s.layoutOk a then stBadParam
    else if a % 64 = 0 ∨ a % 64 = 4 then (if s.armed b then stOk else stBadParam)
    else if a % 64 = 8 ∨ a % 64 = 12 then
      (if fromLink then stAuthFail else if s.armed b ∧ a % 64 = 8 then stOk else stBadParam)
    else if a % 64 = 32 then
      (if 255 < b then stBadParam
       else if s.roleSet b = 0 then stSeasonStale
       else if ((bitsOf 96 (s.roleSet b)).filterMap s.phys).any s.fencedCore then stUnitFailed
       else stOk)
    else stBadParam
  else if addrSpace a = 3 then
    let q := doorbellCtx a
    let ty := s.fld (F.queCfgType q)
    if n ≠ 4 ∨ ¬ s.layoutOk a ∨ ty = qtUnused ∨ (s.queue q).destroying then stBadParam
    else if s.ringFenced q then stUnitFailed
    else if (a % 64 = 0 ∧ (ty = qtWork ∨ ty = qtDma)) ∨ (a % 64 = 4 ∧ (ty = qtCompletion ∨ ty = qtEvent)) ∨
      (a % 64 = 8 ∧ ty = qtDma) then stOk
    else stBadParam
  else if 1024 ≤ windowNo a then stBadParam
  else s.windowStatus (windowNo a) (windowByte a) n season

/-- READBACKs of a link whose earlier writes have landed are answered, in order (R328). -/
def State.settleBacks (s : State) (i : Nat) : State :=
  let l := s.link i
  let w := s.underWay
  let due := l.backs.takeWhile fun b => !w.any fun x => x.from_ == .link i && decide (x.seq < b.seq)
  if due.isEmpty then s
  else
    due.foldl (fun s b => s.sendOn i 2
      (.status b.tag (b.status.getD (s.backStatus b.addr b.len b.season true)))) (s.setLink i { l with backs := l.backs.drop due.length })

/-- A rejected window write counted (R361, R371). -/
def State.windowNak (s : State) (w status : Nat) : State :=
  if status = stWindowClosed then s.addFld (F.winClosedNak w) 1
  else if status = stSeasonStale then s.addFld (F.winStaleNak w) 1
  else s.addFld (F.winOtherNak w) 1

/-- A write to a local space-5 address (R361, R363, R286): the state after its checks and its status. `c` is the clump
it enters the mesh at. -/
def State.windowWrite (s : State) (home : Option Nat) (c a : Nat) (data : List Byte) (season : Option Nat) (o : Origin)
    (tag : Nat) (ack : Bool := false) : State × Nat :=
  let w := windowNo a
  let b := windowByte a
  if 1024 ≤ w then (s.addFld F.winBadWindow 1, stBadParam)
  else
    let st := s.windowStatus w b data.length season
    let bound := s.windowStream w
    let bad := match bound with
      | some (key, t) => decide (st = stOk ∨ st = stUnitFailed ∨ st = stPoweredDown) && s.misfit key t b data.length
      | none => false
    if bad then
      ((s.windowNak w stBadParam).addFld (F.plnAdpMisfit ((bound.map fun x => x.1 / 4).getD 0)) 1, stBadParam)
    else if st ≠ stOk then
      let s := s.windowNak w st
      ((match s.windowCore w b with | some p => s.notePd p st | none => s), st)
    else
      let s := (s.addFld (F.winAccepted w) 1).addFld (F.winBytes w) data.length
      let s := if season.getD 0 = 0 then s.addFld (F.winUntagged w) 1 else s
      match bound with
      | some (key, _) =>
        let x : InWrite := { seq := s.inSeq, off := s.windowOff w b, data, from_ := o, tag, window := some w, ack }
        let r : OpenRow := { from_ := 0, home, dest := adapterClump (key / 4), load := .stream (key / 4) (key % 4) (b / 256) x }
        (({ s with inSeq := s.inSeq + 1 }).sendRow c r, stOk)
      | none =>
        match s.windowCore w b with
        | none => (s, stBadParam)
        | some p =>
          match s.meetCore p with
          | .error e => (s.notePd p e, e)
          | .ok s => (s.acceptWrite home c p (s.windowOff w b) data o tag (some w) ack, stOk)

/-- A write to a local space-1 address (R62, R132, R148). -/
def State.coreWrite (s : State) (home : Option Nat) (c a : Nat) (data : List Byte) (o : Origin) (tag : Nat)
    (ack : Bool := false) : State × Nat :=
  match s.phys (addrOff a / coreBytes) with
  | none => (s, stBadParam)
  | some p =>
    match s.meetCore p with
    | .error e => (s.notePd p e, e)
    | .ok s => (s.acceptWrite home c p (addrOff a % coreBytes) data o tag none ack, stOk)

/-! ### Landing -/

/-- Whether a DMA write waits: for its channel's entry in the core (R137), or for an earlier live engine entry that its row
overlaps (R138; log 79). -/
def State.dmaWriteWaits (s : State) (p : Nat) (w : InWrite) : Bool :=
  match w.from_ with
  | .dma ch =>
    let row := posOf p * 16384 + w.off / 256
    let before := (s.core p).sbOrder.takeWhile fun o => o.owner != some (.inr ch)
    (match (s.chan ch).run with | some r => r.sbPend.contains p | none => false) ||
      before.any fun o => (match o.owner with | some (.inl _) => true | _ => false) && s.sbOverlaps p o.entry row row
  | _ => false

end Sys2Proof.Machine
end

