-- ==== Sys2Proof/Machine/Float.lean ====
section
/-! DEFINITION. Number formats and rounding (R157 to R161, R165 to R167, R172 to R176): values are exact rationals
± m / d × 2^e until they are rounded. -/

namespace Sys2Proof.Machine

/-- A value: NaN, an infinity, or ± m / d × 2^e; a zero keeps its sign. -/
inductive FV where
  | nan
  | inf (neg : Bool)
  | fin (neg : Bool) (m d : Nat) (e : Int)
  deriving DecidableEq, Repr

/-- Plus zero. -/
def FV.zero : FV := .fin false 0 1 0

/-- A floating-point format: exponent and mantissa widths, bias, and what its top exponent holds: 0 infinity and NaN,
1 one NaN (E4M3), 2 finite values only. -/
structure Fmt where
  ew : Nat
  mw : Nat
  bias : Nat
  top : Nat
  deriving DecidableEq, Repr

def fmtF32 : Fmt := ⟨8, 23, 127, 0⟩
def fmtBf16 : Fmt := ⟨8, 7, 127, 0⟩
def fmtF16 : Fmt := ⟨5, 10, 15, 0⟩
def fmtE4M3 : Fmt := ⟨4, 3, 7, 1⟩
def fmtE5M2 : Fmt := ⟨5, 2, 15, 0⟩
def fmtE2M3 : Fmt := ⟨2, 3, 1, 2⟩
def fmtE3M2 : Fmt := ⟨3, 2, 3, 2⟩
def fmtE2M1 : Fmt := ⟨2, 1, 1, 2⟩

/-- The value a code encodes (R157). -/
def Fmt.decode (f : Fmt) (c : Nat) : FV :=
  let m := c % 2 ^ f.mw
  let e := c / 2 ^ f.mw % 2 ^ f.ew
  let neg := c / 2 ^ (f.mw + f.ew) % 2 == 1
  if f.top = 0 ∧ e = 2 ^ f.ew - 1 then if m = 0 then .inf neg else .nan
  else if f.top = 1 ∧ e = 2 ^ f.ew - 1 ∧ m = 2 ^ f.mw - 1 then .nan
  else if e = 0 then .fin neg m 1 (1 - (f.bias : Int) - f.mw)
  else .fin neg (2 ^ f.mw + m) 1 ((e : Int) - f.bias - f.mw)

/-- The code of the largest finite magnitude. -/
def Fmt.maxCode (f : Fmt) : Nat :=
  if f.top = 0 then (2 ^ f.ew - 1) * 2 ^ f.mw - 1
  else if f.top = 1 then 2 ^ (f.ew + f.mw) - 2
  else 2 ^ (f.ew + f.mw) - 1

/-- The code of the quiet NaN, where the format has one. -/
def Fmt.nanCode (f : Fmt) : Nat :=
  if f.top = 0 then (2 ^ f.ew - 1) * 2 ^ f.mw + 2 ^ (f.mw - 1) else 2 ^ (f.ew + f.mw) - 1

/-- Numerator and denominator of m / d × 2^(e − q). -/
def scaleTo (m d : Nat) (e q : Int) : Nat × Nat :=
  if q ≤ e then (m * 2 ^ (e - q).toNat, d) else (m, d * 2 ^ (q - e).toNat)

/-- ⌊log₂ (m / d × 2^e)⌋ for m > 0. -/
def ilog (m d : Nat) (e : Int) : Int :=
  let k : Int := (Nat.log2 m : Int) - (Nat.log2 d : Int)
  let r := scaleTo m d 0 k
  (if r.2 ≤ r.1 then k else k - 1) + e

/-- Rounding modes: nearest even, stochastic with 16 random bits, toward zero, toward plus infinity (R172, R176). -/
inductive Round where
  | nearest
  | stochastic (r : Nat)
  | zero
  deriving DecidableEq, Repr

/-- The integer a quotient of naturals rounds to. -/
def Round.quot (r : Round) (num den : Nat) : Nat :=
  let n := num / den
  let rem := num % den
  match r with
  | .nearest => if den < 2 * rem ∨ (2 * rem = den ∧ n % 2 = 1) then n + 1 else n
  | .stochastic k => if 65536 * den ≤ rem * 65536 + k % 65536 * den then n + 1 else n
  | .zero => n

/-- A magnitude rounded to a format with unbounded range upward: a code, which may lie above the largest finite one. -/
def Fmt.roundMag (f : Fmt) (r : Round) (m d : Nat) (e : Int) : Nat :=
  if m = 0 then 0
  else
    let emin : Int := 1 - f.bias
    let x := max (ilog m d e) emin
    let q := x - f.mw
    let nd := scaleTo m d e q
    let n := r.quot nd.1 nd.2
    -- n × 2^q with exponent field x − emin + 1 for a normal number: the carry moves into the exponent by itself
    ((x - emin).toNat) * 2 ^ f.mw + n

/-- A value rounded to FP32 with round-to-nearest-even; NaN is 0x7FC0_0000, a magnitude beyond the range an infinity
(R165 to R167). -/
def toF32 (v : FV) : Word :=
  match v with
  | .nan => 0x7FC00000#32
  | .inf neg => if neg then 0xFF800000#32 else 0x7F800000#32
  | .fin neg m d e =>
    let c := min (fmtF32.roundMag .nearest m d e) 0x7F800000
    BitVec.ofNat 32 ((if neg then 2 ^ 31 else 0) + c)

/-- The value of an FP32 word. -/
def ofF32 (w : Word) : FV := fmtF32.decode w.toNat

/-- The exact product; infinity times zero is NaN (R167). -/
def FV.mul (a b : FV) : FV :=
  match a, b with
  | .nan, _ => .nan
  | _, .nan => .nan
  | .inf n, .inf n' => .inf (n != n')
  | .inf n, .fin n' m _ _ => if m = 0 then .nan else .inf (n != n')
  | .fin n m _ _, .inf n' => if m = 0 then .nan else .inf (n != n')
  | .fin n m d e, .fin n' m' d' e' => .fin (n != n') (m * m') (d * d') (e + e')

/-- The exact quotient; x / 0 is an infinity, 0 / 0 stays 0 (log 20). -/
def FV.div (a b : FV) : FV :=
  match a, b with
  | .nan, _ => .nan
  | _, .nan => .nan
  | .inf n, .fin n' _ _ _ => .inf (n != n')
  | .inf _, .inf _ => .nan
  | .fin n _ _ _, .inf n' => .fin (n != n') 0 1 0
  | .fin n m d e, .fin n' m' d' e' =>
    if m = 0 then .fin (n != n') 0 1 0
    else if m' = 0 then .inf (n != n')
    else .fin (n != n') (m * d') (d * m') (e - e')

/-- The exact sum; opposite infinities give NaN, a zero sum is +0 unless both terms are −0 (R167). -/
def FV.add (a b : FV) : FV :=
  match a, b with
  | .nan, _ => .nan
  | _, .nan => .nan
  | .inf n, .inf n' => if n = n' then .inf n else .nan
  | .inf n, _ => .inf n
  | _, .inf n => .inf n
  | .fin n m d e, .fin n' m' d' e' =>
    let q := min e e'
    let x : Int := (m * d' * 2 ^ (e - q).toNat : Nat)
    let y : Int := (m' * d * 2 ^ (e' - q).toNat : Nat)
    let z := (if n then -x else x) + (if n' then -y else y)
    if z = 0 then .fin (n && n') 0 1 0 else .fin (decide (z < 0)) z.natAbs (d * d') q

/-- The value with its sign changed. -/
def FV.neg (a : FV) : FV :=
  match a with
  | .nan => .nan
  | .inf n => .inf !n
  | .fin n m d e => .fin (!n) m d e

/-- Its magnitude. -/
def FV.abs (a : FV) : FV :=
  match a with
  | .nan => .nan
  | .inf _ => .inf false
  | .fin _ m d e => .fin false m d e

/-- `a < b`; false with a NaN; zeros are equal. -/
def FV.lt (a b : FV) : Bool :=
  match a, b with
  | .nan, _ => false
  | _, .nan => false
  | .inf n, .inf n' => n && !n'
  | .inf n, _ => n
  | _, .inf n => !n
  | .fin n m d e, .fin n' m' d' e' =>
    let q := min e e'
    let x : Int := (m * d' * 2 ^ (e - q).toNat : Nat)
    let y : Int := (m' * d * 2 ^ (e' - q).toNat : Nat)
    decide ((if n then -x else x) < (if n' then -y else y))

/-- FP32 addition with round-to-nearest-even. -/
def f32Add (a b : Word) : Word := toF32 ((ofF32 a).add (ofF32 b))
/-- FP32 multiplication. -/
def f32Mul (a b : Word) : Word := toF32 ((ofF32 a).mul (ofF32 b))

/-- Whether a value is NaN. -/
def FV.isNan (v : FV) : Bool := match v with | .nan => true | _ => false
/-- Whether it is finite and nonzero. -/
def FV.finiteNonzero (v : FV) : Bool := match v with | .fin _ m _ _ => m != 0 | _ => false

/-- Conversion to BF16 or FP16 (R173): toward zero stays at the largest finite magnitude; an infinity is in the format's
range and stays one (log 68). -/
def Fmt.toIeee (f : Fmt) (r : Round) (v : FV) : Nat :=
  let sgn := fun (n : Bool) => if n then 2 ^ (f.ew + f.mw) else 0
  let infC := (2 ^ f.ew - 1) * 2 ^ f.mw
  match v with
  | .nan => f.nanCode
  | .inf n => sgn n + infC
  | .fin n m d e =>
    let c := f.roundMag r m d e
    sgn n + (if f.maxCode < c then (if r = .zero then f.maxCode else infC) else c)

/-- Conversion to a scaled format's element (R175): the code, whether it saturated, whether it is a zero. It saturates
where the quotient itself lies beyond the largest finite value, also where rounding would bring it back. -/
def Fmt.toElem (f : Fmt) (r : Round) (v : FV) (nanFree : Nat) : Nat × Bool × Bool :=
  let sgn := fun (n : Bool) => if n then 2 ^ (f.ew + f.mw) else 0
  match v with
  | .nan => (if f.top ≤ 1 then f.nanCode else nanFree % 2 ^ (1 + f.ew + f.mw), false, false)
  | .inf n => (sgn n + f.maxCode, true, false)
  | .fin n m d e =>
    let c := f.roundMag r m d e
    if (f.decode f.maxCode).lt (.fin false m d e) then (sgn n + f.maxCode, true, false) else (sgn n + c, false, c == 0)

/-- Conversion to an MXINT8 code: value × 64 rounded, never below −127 (R158, R175). -/
def toInt8Elem (r : Round) (v : FV) (nanFree : Nat) : Nat × Bool × Bool :=
  let enc := fun (neg : Bool) (k : Nat) => if neg ∧ k ≠ 0 then 256 - k else k
  match v with
  | .nan => (nanFree % 256, false, false)
  | .inf n => (enc n 127, true, false)
  | .fin n m d e =>
    let nd := scaleTo m d e (-6)
    let k := r.quot nd.1 nd.2
    if 127 * nd.2 < nd.1 then (enc n 127, true, false) else (enc n k, false, k == 0)

/-- Format codes of R181. -/
abbrev fcF32 : Nat := 0x00
abbrev fcBf16 : Nat := 0x01
abbrev fcF16 : Nat := 0x02
abbrev fcE4M3 : Nat := 0x10
abbrev fcE5M2 : Nat := 0x11
abbrev fcE2M3 : Nat := 0x12
abbrev fcE3M2 : Nat := 0x13
abbrev fcInt8 : Nat := 0x14
abbrev fcMx4 : Nat := 0x20
abbrev fcSb4 : Nat := 0x21
abbrev fcT2 : Nat := 0x30

/-- The floating-point element format of a code; FP32 stands for codes without one. -/
def elemFmt (fc : Nat) : Fmt :=
  if fc = fcBf16 then fmtBf16 else if fc = fcF16 then fmtF16 else if fc = fcE4M3 then fmtE4M3
  else if fc = fcE5M2 then fmtE5M2 else if fc = fcE2M3 then fmtE2M3 else if fc = fcE3M2 then fmtE3M2
  else if fc = fcMx4 ∨ fc = fcSb4 then fmtE2M1 else fmtF32

/-- Container bits of one element (R161). -/
def elemBits (fc : Nat) : Nat :=
  if fc = fcF32 then 32 else if fc = fcBf16 ∨ fc = fcF16 then 16 else if fc = fcMx4 ∨ fc = fcSb4 then 4
  else if fc = fcT2 then 2 else 8

/-- Elements per scale block, 0 for an unscaled format (R160). -/
def blockSize (fc : Nat) : Nat :=
  if fc = fcSb4 then 16 else if fc = fcT2 then 64 else if 0x10 ≤ fc ∧ fc ≤ 0x14 ∨ fc = fcMx4 then 32 else 0

/-- Whether a format is an MX format or SB4 (R182). -/
def isScaledOut (fc : Nat) : Bool := decide (0x10 ≤ fc ∧ fc ≤ 0x14) || fc == fcMx4 || fc == fcSb4

/-- The value of an element code before its scale (R157 to R159); the flag marks the ternary code 0b10. -/
def elemValue (fc : Nat) (ternary : Bool) (code : Nat) : FV × Bool :=
  if fc = fcInt8 then
    let k := code % 256
    (if k < 128 then .fin false k 1 (-6) else .fin true (256 - k) 1 (-6), false)
  else if fc = fcT2 then
    match code % 4 with
    | 0 => (FV.zero, false)
    | 1 => (.fin false 1 1 0, false)
    | 2 => if ternary then (FV.zero, true) else (.fin true 2 1 0, false)
    | _ => (.fin true 1 1 0, false)
  else ((elemFmt fc).decode (code % 2 ^ (1 + (elemFmt fc).ew + (elemFmt fc).mw)), false)

/-- The value of a scale code (R160). -/
def scaleValue (fc code : Nat) : FV :=
  if fc = fcSb4 ∨ fc = fcT2 then fmtE4M3.decode (code % 256)
  else if blockSize fc = 0 then .fin false 1 1 0
  else if code % 256 = 0xFF then .nan
  else .fin false 1 1 ((code % 256 : Nat) - 127)

/-- emax of a scaled output format (R174). -/
def emaxOf (fc : Nat) : Int :=
  if fc = fcE4M3 then 8 else if fc = fcE5M2 then 15 else if fc = fcE2M3 then 2 else if fc = fcE3M2 then 4
  else if fc = fcMx4 then 2 else 0

/-- The largest finite element value of a format, F of R202. -/
def fmaxOf (fc : Nat) : FV :=
  if fc = fcInt8 then .fin false 127 1 (-6) else (elemFmt fc).decode (elemFmt fc).maxCode

/-- The scale code of an exponent, clamped to −127 … 127 (R174). -/
def e8m0 (x : Int) : Nat := (max (-127) (min 127 x) + 127).toNat

/-- amax / 6 rounded toward +∞ to E4M3 and clamped to 448 (R174): the lowest code whose value × 6 reaches amax. -/
def sb4Scale (amax : FV) : Nat :=
  ((List.range 0x7F).find? fun c => !((fmtE4M3.decode c).mul (.fin false 6 1 0)).lt amax).getD 0x7E

/-- The largest magnitude of a block, an infinity counting as the largest finite FP32 value (R174). -/
def blockAmax (vs : List FV) : FV :=
  vs.foldl (fun a v =>
    let x := match v with | .inf _ => fmtF32.decode fmtF32.maxCode | .nan => FV.zero | x => x.abs
    if a.lt x then x else a) FV.zero

/-- The computed scale code of an output block (R174). -/
def computedScale (fc : Nat) (vs : List FV) : Nat :=
  if vs.any FV.isNan then (if fc = fcSb4 then 0x7F else 0xFF)
  else
    match blockAmax vs with
    | .fin _ m d e =>
      if m = 0 then 0
      else if fc = fcSb4 then sb4Scale (.fin false m d e)
      else e8m0 (ilog m d e - emaxOf fc)
    | _ => 0

/-- The rescaled code of an output block (R202): 2^⌈log₂(amax / F)⌉, or SB4's rule. -/
def rescaledScale (fc : Nat) (vs : List FV) : Nat :=
  if vs.any FV.isNan then (if fc = fcSb4 then 0x7F else 0xFF)
  else if fc = fcSb4 then computedScale fc vs
  else
    match (blockAmax vs).div (fmaxOf fc) with
    | .fin _ m d e =>
      if m = 0 then 0
      else
        let k := ilog m d e
        let r := scaleTo m d e k
        e8m0 (if r.1 = r.2 then k else k + 1)
    | _ => 0

/-- One element of a scaled output (R175): code, saturated, zero. A NaN scale writes code 0. -/
def convElem (fc scale : Nat) (r : Round) (nanFree : Nat) (v : FV) : Nat × Bool × Bool :=
  let sv := scaleValue fc scale
  if sv.isNan then (0, false, false)
  else if fc = fcInt8 then toInt8Elem r (v.div sv) nanFree
  else (elemFmt fc).toElem r (v.div sv) nanFree

/-- Element codes packed into bytes, lowest bits first (R161). -/
def packCodes (bits : Nat) (cs : List Nat) : List Byte :=
  leBytes ((cs.length * bits + 7) / 8) (cs.zipIdx.foldl (fun a c => a + c.1 % 2 ^ bits * 2 ^ (bits * c.2)) 0)

end Sys2Proof.Machine
end

