-- ==== Sys2Proof/Machine/Elementary.lean ====
section
/-! DEFINITION. The lookup functions of R249, to some two hundred bits, and the values their error bounds allow. -/

namespace Sys2Proof.Machine

/-- Fixed point with 256 fraction bits. -/
abbrev fxBits : Nat := 256
/-- One. -/
def fxOne : Int := 2 ^ fxBits

def fxMul (a b : Int) : Int := a * b / fxOne
def fxDiv (a b : Int) : Int := a * fxOne / b

/-- A finite value as fixed point, magnitudes of 2^11 and above clamped. -/
def fxOf (v : FV) : Int :=
  match v with
  | .fin n m d e =>
    if m = 0 then 0
    else
      let x : Int := if 10 < ilog m d e then 2048 * fxOne
        else let nd := scaleTo m d e (-(fxBits : Int)); ((nd.1 / nd.2 : Nat) : Int)
      if n then -x else x
  | _ => 0

/-- Fixed point times 2^k as a value. -/
def fvOf (x k : Int) : FV := .fin (decide (x < 0)) x.natAbs 1 (k - fxBits)

/-- ∑ zⁿ / n over odd n below 2k, alternating if `alt`. -/
def oddSeries (alt : Bool) (z : Int) : Nat → Int
  | 0 => 0
  | k + 1 =>
    -- Horner in z²: 1 / (2i + 1) for i = k down to 0
    let z2 := if alt then -(fxMul z z) else fxMul z z
    fxMul z ((List.range (k + 1)).foldl (fun a i => fxMul a z2 + fxOne / (2 * (k - i) + 1 : Nat)) 0)

def fxLn2 : Int := 2 * oddSeries false (fxOne / 3) 90
def fxPi : Int := 16 * oddSeries true (fxOne / 5) 60 - 4 * oddSeries true (fxOne / 239) 20

/-- eʳ by its series for |r| < 1. -/
def expSeries (r : Int) : Int :=
  (List.range 70).foldl (fun a i => fxOne + fxMul a r / (70 - i : Nat)) fxOne

/-- eˣ of fixed point. -/
def fxExp (x : Int) : FV :=
  let n := x.fdiv fxLn2
  fvOf (expSeries (x - n * fxLn2)) n

/-- ln of a positive value. -/
def fxLn (m d : Nat) (e : Int) : Int :=
  let k := ilog m d e
  let nd := scaleTo m d e (k - fxBits)
  let y : Int := ((nd.1 / nd.2 : Nat) : Int)
  k * fxLn2 + 2 * oddSeries false (fxDiv (y - fxOne) (y + fxOne)) 90

/-- Sine by its series, of an argument reduced to ±π; `c` 1 for cosine. -/
def fxSin (x : Int) (c : Bool) : Int :=
  let two := 2 * fxPi
  let r := x - (x + fxPi).fdiv two * two
  let r2 := fxMul r r
  let k := 60
  let h := (List.range k).foldl (fun a i =>
    let j := k - i
    let den : Nat := if c then (2 * j - 1) * (2 * j) else 2 * j * (2 * j + 1)
    fxOne - fxMul a r2 / den) fxOne
  if c then h else fxMul r h

/-- The square root of a value to 300 bits. -/
def fvSqrt (m d : Nat) (e : Int) : FV :=
  let k := ilog m d e
  let q := 2 * (k.fdiv 2) - 600
  let nd := scaleTo m d e q
  .fin false (Nat.sqrt (nd.1 / nd.2)) 1 (q.fdiv 2)

def fvOne : FV := .fin false 1 1 0

/-- 1 / (1 + e⁻ˣ). -/
def fvSigmoid (x : Int) : FV := fvOne.div (fvOne.add (fxExp (-x)))

/-- √(2/π) (x + 0.044715 x³) × 2. -/
def geluArg (v : FV) : Int :=
  let x3 := (v.mul v).mul v
  let u := v.add ((FV.fin false 44715 1000000 0).mul x3)
  let r := fvSqrt (2 * 2 ^ fxBits) fxPi.natAbs 0
  fxOf (((FV.fin false 2 1 0).mul r).mul u)

/-- A lookup function at a finite argument, its special values apart (R249). -/
def lookupFin (op : Nat) (n : Bool) (m d : Nat) (e : Int) : FV :=
  let v := FV.fin n m d e
  let x := fxOf v
  if op = 0 then fxExp x
  else if op = 1 then fxExp (fxMul x fxLn2)
  else if op = 2 ∨ op = 3 then
    if m = 0 then .inf true else if n then .nan
    else let y := fxLn m d e; fvOf (if op = 2 then y else fxDiv y fxLn2) 0
  else if op = 4 then if m = 0 then .inf n else fvOne.div v
  else if op = 5 then if m = 0 then .inf n else if n then .nan else fvOne.div (fvSqrt m d e)
  else if op = 6 then if m = 0 then v else if n then .nan else fvSqrt m d e
  else if op = 7 then fvOf (fxSin x false) 0
  else if op = 8 then fvOf (fxSin x true) 0
  else if op = 9 then
    let g := fxExp (2 * x)
    (g.add fvOne.neg).div (g.add fvOne)
  else if op = 10 then fvSigmoid x
  else if op = 11 then v.mul (fvSigmoid x)
  else v.mul (fvSigmoid (geluArg v))

/-- A lookup function at an infinity (R249). -/
def lookupInf (op : Nat) (n : Bool) : FV :=
  let zero := FV.fin n 0 1 0
  if op = 0 ∨ op = 1 then if n then FV.zero else .inf false
  else if op = 2 ∨ op = 3 ∨ op = 6 then if n then .nan else .inf false
  else if op = 4 then zero
  else if op = 5 then if n then .nan else FV.zero
  else if op = 7 ∨ op = 8 then .nan
  else if op = 9 then .fin n 1 1 0
  else if op = 10 then if n then FV.zero else fvOne
  else if n then zero else .inf false

/-- Code of a magnitude truncated to a format, at most infinity's. -/
def Fmt.floorMag (f : Fmt) (m d : Nat) (e : Int) : Nat :=
  min (f.roundMag .zero m d e) ((2 ^ f.ew - 1) * 2 ^ f.mw)

/-- Whether two values lie at most a bound apart. -/
def FV.within (a b bound : FV) : Bool := !bound.lt (a.add b.neg).abs

/-- Codes of magnitudes within k units in the last place of a magnitude; infinity's code stands for the value past the
largest finite one. -/
def Fmt.nearMags (f : Fmt) (m d : Nat) (e : Int) (k : Nat) : List Nat :=
  let b := f.floorMag m d e
  let emin : Int := 1 - f.bias
  let ulp : Int := (if m = 0 then emin else max (ilog m d e) emin) - f.mw
  let open_ : Fmt := { f with top := 2 }
  ((List.range (2 * k + 2)).filter fun i => decide (k ≤ b + i) && decide (b + i - k ≤ (2 ^ f.ew - 1) * 2 ^ f.mw) &&
    (open_.decode (b + i - k)).within (.fin false m d e) (.fin false k 1 ulp)).map fun i => b + i - k

/-- A value within k units in the last place of v: a free one of the codes that are, an infinity where none is. -/
def Fmt.nearBy (f : Fmt) (v : FV) (k free : Nat) : Nat :=
  match v with
  | .fin n m d e =>
    let cs := f.nearMags m d e k
    (if n then 2 ^ (f.ew + f.mw) else 0) + (cs[free % cs.length]?).getD ((2 ^ f.ew - 1) * 2 ^ f.mw)
  | v => f.toIeee .nearest v

/-- A value within 2^(−k) of v: v moved by a free part of that bound and rounded, or v rounded where that leaves the
bound. -/
def Fmt.nearAbs (f : Fmt) (v : FV) (k free : Nat) : Nat :=
  let t := free % 2 ^ 21
  let off : FV := .fin (decide (t < 2 ^ 20)) (if t < 2 ^ 20 then 2 ^ 20 - t else t - 2 ^ 20) 1 (-(k : Int) - 20)
  let c := f.toIeee .nearest (v.add off)
  if (f.decode c).within v (.fin false 1 1 (-(k : Int))) then c else f.toIeee .nearest v

/-- Units in the last place a function may be off in FP32 (R249). -/
def lookupUlp (op : Nat) : Nat :=
  if op ≤ 3 then 2 else if op = 4 then 1 else if op = 5 then 2 else 4

/-- A lookup result in a lane type: a free one of the values its bound allows (R249). -/
def lookup (f : Fmt) (op : Nat) (v : FV) (free : Nat) : Nat :=
  match v with
  | .nan => f.nanCode
  | .inf n => f.toIeee .nearest (lookupInf op n)
  | .fin n m d e =>
    let y := lookupFin op n m d e
    if m = 0 ∧ (op = 4 ∨ op = 5 ∨ op = 6 ∨ op = 2 ∨ op = 3) then f.toIeee .nearest y
    else if f.mw < 23 then f.nearBy y 1 free
    else if op = 6 then f.toIeee .nearest y
    else if op = 7 ∨ op = 8 then
      if (FV.fin false 1024 1 0).lt v.abs then free % (0x3F800000 + 1) + (free / 2 ^ 32 % 2) * 2 ^ 31
      else f.nearAbs y 22 free
    else if op = 9 ∧ v.abs.lt (.fin false 1 1 (-4)) then f.nearAbs y 24 free
    else f.nearBy y (lookupUlp op) free

end Sys2Proof.Machine
end

