-- ==== Sys2Proof/Machine/Operands.lean ====
section
/-! DEFINITION. SQ instruction words (R81, R82, ISSUE, FENCE, WAIT, SB, END encodings), scalar register operands (R75),
and the guard under which a sequencer executes a word (R74). -/

namespace Sys2Proof.Machine

/-- A word of fields, most significant first. -/
def wordOf (fs : List (Nat × Nat)) : Word :=
  BitVec.ofNat 32 (fs.foldl (fun a f => a * 2 ^ f.1 + f.2 % 2 ^ f.1) 0)

/-- Form A (R81). -/
def encA (opc sd sa sb : Nat) : Word := wordOf [(6, opc), (5, sd), (5, sa), (5, sb), (11, 0)]
/-- Form B (R81). -/
def encB (opc sd sa imm : Nat) : Word := wordOf [(6, opc), (5, sd), (5, sa), (16, imm)]
/-- Form C (R81). -/
def encC (opc sa sb off : Nat) : Word := wordOf [(6, opc), (5, sa), (5, sb), (16, off)]
/-- ISSUE. -/
def encIssue (eng tag notify barrier sa imm : Nat) : Word :=
  wordOf [(6, 0x20), (2, eng), (6, tag), (1, notify), (1, barrier), (1, 0), (5, sa), (10, imm)]
/-- FENCE. -/
def encFence (mx vx post store : Nat) : Word := wordOf [(6, 0x21), (1, mx), (1, vx), (1, post), (1, store), (22, 0)]
/-- WAIT. -/
def encWait (sa all clear power imm : Nat) : Word :=
  wordOf [(6, 0x22), (5, sa), (1, all), (1, clear), (1, power), (2, 0), (16, imm)]
/-- SB. -/
def encSb (fn kind sa sb sd : Nat) : Word := wordOf [(6, 0x23), (2, fn), (2, kind), (5, sa), (5, sb), (5, sd), (7, 0)]
/-- CTL: IMM16 [15] is 1 for a write (R82). -/
def encCtl (write sd sa imm : Nat) : Word := wordOf [(6, 0x25), (5, sd), (5, sa), (1, write), (15, imm)]
/-- END. -/
def encEnd : Word := wordOf [(6, 0x26), (26, 0)]

/-- Whether a fetched word is legal as it stands: a known major opcode, its must-be-0 fields 0, even registers for
64-bit operands (R75, R82, R85, R95). -/
def legalWord (w : Word) : Bool :=
  let x := w.toNat
  let opc := bitsAt x 26 6
  let sd := bitsAt x 21 5
  let sa := bitsAt x 16 5
  if opc ≤ 0x0B then bitsAt x 0 11 == 0
  else if opc ≤ 0x0E then true
  else if opc = 0x0F then sa == 0
  else if opc = 0x10 ∨ opc = 0x12 then true
  else if opc = 0x11 ∨ opc = 0x13 then sd % 2 == 0
  else if 0x18 ≤ opc ∧ opc ≤ 0x1C then true
  else if opc = 0x20 then decide (bitsAt x 24 2 < 2) && bitsAt x 15 1 == 0
  else if opc = 0x21 then bitsAt x 0 22 == 0
  else if opc = 0x22 then bitsAt x 16 2 == 0
  else if opc = 0x23 then
    let fn := bitsAt x 24 2
    let kind := bitsAt x 22 2
    let a := bitsAt x 17 5
    let b := bitsAt x 12 5
    let d := bitsAt x 7 5
    bitsAt x 0 7 == 0 &&
      (if fn = 0 then decide (kind < 2)
       else if fn = 1 then kind == 0 && b == 0 && d == 0
       else if fn = 2 then kind == 0 && a == 0 && b == 0
       else false)
  else if opc = 0x24 then sd == 0 && sa % 2 == 0 && bitsAt x 0 11 == 0
  else if opc = 0x25 then true
  else if opc = 0x26 then bitsAt x 0 26 == 0
  else false

/-- A scalar register; s0 reads 0 (R75). -/
def State.sreg (s : State) (p : Nat) (r : Nat) : Word := if r = 0 then 0 else tget 0 (s.core p).sregs r

/-- A scalar register written; a write to s0 is discarded (R75). -/
def State.setSreg (s : State) (p r : Nat) (v : Word) : State :=
  if r = 0 then s else s.setCore p { s.core p with sregs := tset 0 (s.core p).sregs r v }

/-- A 64-bit operand: the even register holds the low word (R75). -/
def State.sreg64 (s : State) (p r : Nat) : Nat := (s.sreg p r).toNat + 2 ^ 32 * (s.sreg p (r + 1)).toNat

/-- The program counter of a core (R75). -/
def State.pc (s : State) (p : Nat) : Nat := s.fld (F.corPc p)

/-- The next instruction: the counter is 13 bits wide and wraps (log 15). -/
def State.nextPc (s : State) (p : Nat) : State := s.setFld (F.corPc p) (s.pc p + 1)

/-- The word a core's sequencer fetches. -/
def State.fetchSq (s : State) (p : Nat) : Word :=
  match tfind (s.core p).imem (s.pc p), (s.core p).imemLost with
  | some w, _ => w
  | none, none => 0
  | none, some e => BitVec.ofNat 32 (Config.freeNat e (s.pc p))

/-- The physical core of a logical number if its sequencer executes `w` now: RUNNING, or in the state `or` of a stalled
instruction, with `w` at its program counter. -/
def State.sqAt (s : State) (l : CoreNo) (w : Word) (or : Nat) : Option Nat :=
  match s.phys l.val with
  | some p => if ¬ s.clocksOff ∧ (s.coreState p = csRunning ∨ s.coreState p = or) ∧ s.fetchSq p = w then some p else none
  | none => none

/-- A jump or branch: a target outside the instruction memory is illegal (R75). -/
def State.jumpTo (s : State) (p : Nat) (target : Int) : State :=
  if 0 ≤ target ∧ target ≤ 8191 then s.setFld (F.corPc p) target.toNat else s.fatal p erIllegal

end Sys2Proof.Machine
end

