-- ==== Sys2Proof/Machine/Access.lean ====
section
/-! DEFINITION. Scheduled accesses of the sequencer and the engines to the clump's banks (R76 to R80, R120, R128 to
R131, R142, R143). -/

namespace Sys2Proof.Machine

/-- Where a clump-local access goes. -/
inductive Reach where
  /-- To a physical core's banks. -/
  | ok (t : Nat)
  /-- To a fenced neighbour (R79). -/
  | fenced
  /-- To a neighbour outside the kernel, or below Leaf (R78, R131). -/
  | denied
  deriving DecidableEq, Repr

/-- The reach of physical core p into position q of its clump. A fenced neighbour with a logical number is R79's case
whatever set it is in (log 16). -/
def State.reach (s : State) (p q : Nat) : Reach :=
  let t := 4 * clumpOf p + q
  if t = p then .ok t
  else if s.fencedCore t then .fenced
  else
    match s.kernelOn p with
    | some k => if k.phys.contains t ∧ s.power t = pwLeaf then .ok t else .denied
    | none => .denied

/-- Position and byte of a clump-local address; bits above 23 are ignored (R76, log 16). -/
def clumpPos (a : Nat) : Nat := a / coreBytes % 4
def clumpByte (a : Nat) : Nat := a % coreBytes

/-! ### Bank conflicts (R128 to R130) -/

/-- Halves that stall while core p is frozen, and the cores that freeze with it (R279). -/
def State.frozenWith (s : State) (p : Nat) : List Nat × List Nat :=
  let hs := (List.range 2).filter fun h => (s.coupled h).contains p
  let hs := if hs.any fun h => (s.coupled h).any fun x => (s.coupled (1 - h)).contains x then [0, 1] else hs
  (hs, (p :: hs.flatMap s.coupled).eraseDups)

/-- Static-mode core p frozen for n cycles, with all that is coupled to it (R99, R279). -/
def State.freezeCycles (s : State) (p n : Nat) : State :=
  if s.fld (F.corStatusMode p) = 0 then
    let w := s.frozenWith p
    let s := w.1.foldl (fun s h => s.addFld (F.plnStallCc h) n) s
    w.2.foldl (fun s x => s.addFld (F.corFreezeCc x) n) s
  else s

/-- Program counter of the instruction whose access a unit of core p makes: its descriptor's ISSUE for an engine. Units: 0
sequencer, 1 matrix engine, 2 vector engine, 3 network. -/
def State.unitPc (s : State) (p unit : Nat) : Nat :=
  let of := fun (r : Option RunDesc) => (r.map fun x => x.desc.pc).getD (s.pc p)
  if unit = 1 then of (s.core p).mxRun else if unit = 2 then of (s.core p).vxRun else s.pc p

/-- A serialised access of core p recorded (R129): `servedQ` is the clump position of the core that was served. -/
def State.recordConflict (s : State) (p unit bank : Nat) (writes : Bool) (servedQ : Nat) : State :=
  let s := (s.recordError p erConflict (s.unitPc p unit)).addFld (F.spdConflicts p) 1
  let s := (s.setFld (F.spdConflictLastBank p) bank).setFld (F.spdConflictLastKind p) (if writes then 1 else 0)
  let s := (s.setFld (F.spdConflictLastUnit p) unit).setFld (F.spdConflictLastOtherQ p) servedQ
  s.setFld (F.spdConflictLastPc p) (s.pc p)

/-- The cycle a serialised access costs (R130): a freeze of its core, or in scoreboard mode a wait of the unit alone. -/
def State.payConflict (s : State) (p unit : Nat) : State :=
  if s.fld (F.corStatusMode p) = 0 then s.freezeCycles p 1
  else if unit = 2 then s.addFld (F.vxeStallCc p) 1
  else s

/-- Precedence of a unit's access within its core, the lowest first (R129). -/
def unitRank (unit : Nat) : Nat := if unit = 0 then 4 else unit

/-- Which of two accesses that meet a port is serialised (R129): physical core, unit, and clump position served. The first
is a unit's of core p, the second a unit's of position q; of two equal ones the first waits. -/
def serialised (p unit q otherUnit : Nat) : Nat × Nat × Nat :=
  let other := 4 * clumpOf p + q
  if q < posOf p then (p, unit, q)
  else if posOf p < q then (other, otherUnit, posOf p)
  else if unitRank unit < unitRank otherUnit then (p, otherUnit, q)
  else (p, unit, q)

/-- A conflict of an access of core p with another: the serialised one is recorded and pays its cycle. -/
def State.noteConflict (s : State) (p unit bank : Nat) (writes : Bool) (q otherUnit : Nat) : State :=
  let l := serialised p unit q otherUnit
  (s.recordConflict l.1 l.2.1 bank writes l.2.2).payConflict l.1 l.2.1

/-! ### Errors a read finds (R142, R143) -/

/-- SPD_ECC_LAST of the core that owns a bank (R142, R143). -/
def State.noteEcc (s : State) (t : Nat) (ue : Bool) (bank row word : Nat) : State :=
  let s := ((s.setFld (F.spdEccLastUe t) (if ue then 1 else 0)).setFld (F.spdEccLastValid t) 1)
  ((s.setFld (F.spdEccLastBank t) bank).setFld (F.spdEccLastRow t) row).setFld (F.spdEccLastWord t) word

/-- The whole SPD_ECC_LAST word. -/
def State.eccWord (s : State) (t : Nat) : Nat :=
  s.fld (F.spdEccLastUe t) * 2 ^ 31 + s.fld (F.spdEccLastValid t) * 2 ^ 30 + s.fld (F.spdEccLastBank t) * 2 ^ 26 +
    s.fld (F.spdEccLastRow t) * 2 ^ 16 + s.fld (F.spdEccLastWord t)

/-- A corrected single-bit error (R142): counted, located, its row due to be written back. -/
def State.corrected (s : State) (t bank row word : Nat) : State :=
  let s := (s.noteEcc t false bank row word).addFld (F.spdEccCe t) 1
  let c := s.core t
  s.setCore t { c with writeback := c.writeback ++ [(bank, row)] }

/-- SCRATCH_UE (R143, R565): located, a ROW entry added, the event recorded for a queue's EVENT context if one is
concerned. -/
def State.scratchUe (s : State) (t bank row word : Nat) (q : Option Nat) : State :=
  let s := (s.noteEcc t true bank row word).addDieback 4 3 t (rowDetail bank row) 0x0202
  let kind := if (s.logical t).isSome then 1 else 2
  let unit := (s.logical t).getD t
  match q with
  | some q => s.emitQ q svAlert kind stHwFault 0x0202 unit q (s.eccWord t)
  | none => s.logEvent svAlert kind stHwFault 0x0202 unit 0 (s.eccWord t)

/-- What an access's bank and port did to it (R128, R142, R143): the state, and whether its data is lost to an
uncorrectable error. A write meets no read error. -/
def State.port (s : State) (p unit t : Nat) (isRead : Bool) (e : PortEvent) : State × Bool :=
  match e with
  | .clean => (s, false)
  | .conflict bank writes q u => (s.noteConflict p unit bank.val writes q.val u.val, false)
  | .corrected bank row word => (if isRead then s.corrected t bank.val row.val word.val else s, false)
  | .uncorrectable bank row word =>
    if isRead then (s.scratchUe t bank.val row.val word.val ((s.kernelOn p).map Kernel.queue), true) else (s, false)

/-- What a port can do to an unscheduled access: it takes a cycle that no scheduled one uses, so it meets no conflict (R132). -/
def unscheduledPort : PortEvent → PortEvent
  | .conflict _ _ _ _ => .clean
  | e => e

/-- What an engine's accesses met at the banks of some clump positions. -/
def State.ports (s : State) (p unit : Nat) (isRead : Bool) (met : List (Fin 4 × PortEvent)) : State × Bool :=
  met.foldl (fun a x =>
    let b := a.1.port p unit (4 * clumpOf p + x.1.val) isRead x.2
    (b.1, a.2 || b.2)) (s, false)

/-- A fatal error of an engine at the ISSUE of its descriptor (R116). -/
def State.fatalAt (s : State) (p code pc : Nat) : State :=
  s.fatalIn p ((s.logical p).getD 0xFFFF) code pc (s.kernelOn p)

/-- A clump-local read of n bytes in one core's banks, or zeros where R79 says so. -/
def State.readClump (s : State) (p a n : Nat) : List Byte :=
  match s.reach p (clumpPos a) with
  | .ok t => s.readCore t (clumpByte a) n
  | _ => List.replicate n 0

/-- A clump-local write within one core's banks; dropped where R79 says so. -/
def State.writeClump (s : State) (p a : Nat) (data : List Byte) : State :=
  match s.reach p (clumpPos a) with
  | .ok t => s.writeCore t (clumpByte a) data
  | _ => s

end Sys2Proof.Machine
end

