-- ==== Sys2Proof/Machine/Sequencer.lean ====
section
/-! DEFINITION. SQ loads and stores, FENCE, WAIT, END, the wake of a waiting core, and the core timer (R83, R87, R92 to
R97, R113, R116, R478 to R482). -/

namespace Sys2Proof.Machine

/-! ### Loads and stores -/

/-- The clump-local address of a load or store: s[SA] + IMM16. -/
def State.memAddr (s : State) (p : Nat) (sa : SReg) (imm : BitVec 16) : Nat := (s.sreg p sa.val + imm.signExtend 32).toNat

/-- A load of n bytes (R77 to R83): `put` writes the destination from the bytes read. -/
def State.sqLoad (s : State) (p a n : Nat) (port : PortEvent) (put : State → List Byte → State) : State :=
  if a % n ≠ 0 then s.fatal p erAlign
  else
    match s.reach p (clumpPos a) with
    | .denied => s.fatal p erClump
    | .fenced => ((put (s.recordError p erFencedTarget (s.pc p)) (List.replicate n 0))).nextPc p
    | .ok t =>
      let r := s.port p 0 t true port
      if r.2 then r.1.fatal p erHw else (put r.1 (r.1.readCore t (clumpByte a) n)).nextPc p

/-- A store (R77 to R83). -/
def State.sqStore (s : State) (p a : Nat) (data : List Byte) (port : PortEvent) : State :=
  if a % data.length ≠ 0 then s.fatal p erAlign
  else
    match s.reach p (clumpPos a) with
    | .denied => s.fatal p erClump
    | .fenced => (s.recordError p erFencedTarget (s.pc p)).nextPc p
    | .ok t => (((s.port p 0 t false port).1).writeCore t (clumpByte a) data).nextPc p

/-- LD32. -/
def execLd32 (c : CoreNo) (sd sa : SReg) (imm : BitVec 16) (port : PortEvent) (s : State) :
    Host.Outcome State Fault Refusal :=
  .next <| match s.sqAt c (encB 0x10 sd.val sa.val imm.toNat) csRunning with
    | some p => s.sqLoad p (s.memAddr p sa imm) 4 port fun s bs => s.setSreg p sd.val (BitVec.ofNat 32 (leNat bs))
    | none => s

/-- LD64: SD and the register above it; an odd SD is illegal (R75). -/
def execLd64 (c : CoreNo) (sd sa : SReg) (imm : BitVec 16) (port : PortEvent) (s : State) :
    Host.Outcome State Fault Refusal :=
  .next <| match s.sqAt c (encB 0x11 sd.val sa.val imm.toNat) csRunning with
    | some p =>
      if sd.val % 2 = 1 then s.fatal p erIllegal
      else s.sqLoad p (s.memAddr p sa imm) 8 port fun s bs =>
        (s.setSreg p sd.val (BitVec.ofNat 32 (leAt bs 0 4))).setSreg p (sd.val + 1) (BitVec.ofNat 32 (leAt bs 4 4))
    | none => s

/-- ST32. -/
def execSt32 (c : CoreNo) (sd sa : SReg) (imm : BitVec 16) (port : PortEvent) (s : State) :
    Host.Outcome State Fault Refusal :=
  .next <| match s.sqAt c (encB 0x12 sd.val sa.val imm.toNat) csRunning with
    | some p => s.sqStore p (s.memAddr p sa imm) (leBytes 4 (s.sreg p sd.val).toNat) port
    | none => s

/-- ST64; an odd SD is illegal (R75). -/
def execSt64 (c : CoreNo) (sd sa : SReg) (imm : BitVec 16) (port : PortEvent) (s : State) :
    Host.Outcome State Fault Refusal :=
  .next <| match s.sqAt c (encB 0x13 sd.val sa.val imm.toNat) csRunning with
    | some p =>
      if sd.val % 2 = 1 then s.fatal p erIllegal
      else s.sqStore p (s.memAddr p sa imm) (leBytes 8 (s.sreg64 p sd.val)) port
    | none => s

/-! ### FENCE and END -/

/-- Whether the conditions a FENCE selects hold (R92); stores land at once in this model, so STORE always does. -/
def State.fenceHolds (s : State) (p : Nat) (mx vx post : Bool) : Bool :=
  let c := s.core p
  (!mx || (c.mxq.isEmpty && c.mxRun.isNone && c.mxDrain.isNone)) && (!vx || (c.vxq.isEmpty && c.vxRun.isNone)) && (!post || c.postsOut == 0)

/-- FENCE: FENCING until every selected condition holds; no selection waits for all four (R92). -/
def execFence (c : CoreNo) (mx vx post store : Bool) (s : State) : Host.Outcome State Fault Refusal :=
  .next <| match s.sqAt c (encFence mx.toNat vx.toNat post.toNat store.toNat) csFencing with
    | some p =>
      let all := !mx && !vx && !post && !store
      if s.fenceHolds p (mx || all) (vx || all) (post || all) then (s.setCoreState p csRunning).nextPc p
      else s.setCoreState p csFencing
    | none => s

/-- END: a FENCE with all conditions, then the live entries are released and the core is ENDED (R97); the kernel
completes when every unfenced core of its set is (R113). -/
def execEnd (c : CoreNo) (s : State) : Host.Outcome State Fault Refusal :=
  .next <| match s.sqAt c encEnd csFencing with
    | some p =>
      if s.fenceHolds p true true true then (((s.sbClear p).setCoreState p csEnded).settleKernels).unitWork
      else s.setCoreState p csFencing
    | none => s

/-! ### WAIT -/

/-- Whether event bits meet a wait (R93). -/
def WaitReq.met (w : WaitReq) (bits : Nat) : Bool :=
  if w.all then decide (bits &&& w.mask = w.mask) else decide (bits &&& w.mask ≠ 0)

/-- A wait that ends: CLEAR clears the W1C bits that satisfied it, and the sequencer goes on (R93). -/
def State.endWait (s : State) (p : Nat) (w : WaitReq) : State :=
  let s := if w.clear then s.clearEvents p w.mask else s
  ((s.setCore p { s.core p with wait := none, returnTo := none }).setCoreState p csRunning).nextPc p

/-- Edge bits of COR_EVENT (R94, R116): all W1C bits but BINDER_WAKE. -/
def edgeMask : Nat := 2 ^ 15 + 2 ^ 11 + 2 ^ 7 + 2 ^ 6 + 2 ^ 5 + 2 + 1

/-- Number of bits set below 16. -/
def count16 (m : Nat) : Nat := (bitsOf 16 m).length

/-- A loaded block's section in a core's router owns RD0, RD1, WB0 or WB1 (R479 code 3). -/
def State.netSlotLive (s : State) (p : Nat) : Bool :=
  s.blocks.any fun b => b.sections.any fun x => x.clump == clumpOf p && x.own &&& 0xC300 != 0

/-- The first refusal code that holds for a core's entry to a state (R479), 0 for none. Code 5, the debug hold, never
holds: no command sets one (log 17). -/
def State.entryRefusal (s : State) (p target : Nat) : Nat :=
  let c := s.core p
  let dmaLive := (List.range 32).any fun i => s.sbLive p i && s.fld (F.spdSbASource p i) == 3
  let descLive := (List.range 32).any fun i =>
    s.sbLive p i && (s.fld (F.spdSbASource p i) == 1 || s.fld (F.spdSbASource p i) == 2)
  if !c.inbox.isEmpty || !c.readq.isEmpty || dmaLive then 1
  else if !c.mxq.isEmpty || !c.vxq.isEmpty || c.mxRun.isSome || c.mxDrain.isSome || c.vxRun.isSome || descLive || c.postsOut != 0 then 2
  else if s.netSlotLive p then 3
  else if s.bit (F.pwrHalfGliding (halfOf p)) then 6
  else if s.vetoed target then 7
  else 0

/-- Banks of a core lost on entry to a state (R145, R147): all in Bare, the unretained ones in Coppice. -/
def State.loseBanks (s : State) (p target : Nat) : State :=
  let keep := if target = pwCoppice then s.fld (F.spdRetainRetain p) else if target = pwBare then 0 else 0xFFFF
  (List.range 16).foldl (fun s b =>
    if keep.testBit b then s else ({ s with mem := s.mem.lose (p * 16 + b) s.fresh }).drew) s

/-- WAIT (R93, R478 to R481). `early` are events set in cc 0 to 7 and `gap` events that arrive in cc 8 to 15 of an
entry with POWER = 1. -/
def execWait (c : CoreNo) (sa : SReg) (all clear power : Bool) (imm early gap : BitVec 16) (s : State) :
    Host.Outcome State Fault Refusal :=
  .next <| match s.sqAt c (encWait sa.val all.toNat clear.toNat power.toNat imm.toNat) csRunning with
    | some p =>
      let w : WaitReq := { mask := ((s.sreg p sa.val) ||| imm.setWidth 32).toNat % 65536, all, clear, power }
      let hold := fun (s : State) => (s.setCore p { s.core p with wait := some w }).setCoreState p csWaiting
      let finish := fun (s : State) => if w.met (s.eventWord p) then s.endWait p w else hold s
      let take := fun (s : State) (m : Nat) => (bitsOf 16 m).foldl (fun s b => s.signal p b) s
      if w.mask = 0 then s.fatal p erIllegal
      else if !power then finish s
      else if s.eventWord p &&& w.mask ≠ 0 then finish (s.satFld (F.pwrCoreRefuseAborts c.val) 1)
      else
        let target := if s.waitState c.val = 1 then pwCoppice else pwDormant
        let code := s.entryRefusal p target
        if code ≠ 0 then
          finish (take ((s.setFld (F.pwrCoreStatusLastRefusal c.val) code).satFld (F.pwrCoreRefuseRefusals c.val) 1)
            early.toNat)
        else if early.toNat &&& w.mask ≠ 0 then finish ((take s early.toNat).satFld (F.pwrCoreRefuseAborts c.val) 1)
        else
          let s := take s early.toNat
          let s := s.addFld (F.pwrCoreWakeLost c.val) (count16 (gap.toNat &&& edgeMask))
          let s := take s (gap.toNat &&& 4)
          let s := hold s
          -- the sample of level sources at cc 17
          if w.met (s.levelBits p + s.fld (F.corEventBinderWake p) * 4) then
            (s.setFld (F.pwrCoreStatusState c.val) pwDormant).beginWake p 1
          else if target = pwDormant then s.setFld (F.pwrCoreStatusState c.val) pwDormant
          else s.beginEntry p pwCoppice
    | none => s

/-- Event bits a waiting core sees: COR_EVENT, its wake latch and its level sources (R482). -/
def State.waitBits (s : State) (p : Nat) : Nat := s.eventWord p ||| (s.core p).latch

/-- CORE_WAKE_EVENT: the events meet the WAIT's mask; in Leaf the WAIT ends, below it the core wakes with cause EVENT
(R93, R482). -/
def execCoreWakeEvent (c : CoreNo) (s : State) : Host.Outcome State Fault Refusal :=
  .next <| match s.phys c.val with
    | none => s
    | some p =>
      match (s.core p).wait with
      | none => s
      | some w =>
        if s.coreState p = csWaiting ∧ w.met (s.waitBits p) then
          if s.power p = pwLeaf then s.endWait p w
          else if s.power p = pwWaking then s.setCore p { s.core p with returnTo := none }
          else s.beginWake p 1
        else s

/-- COR_TIMER_MATCH: COUNT has reached CMP and TIMER is set, in Leaf only (R116, R475). -/
def execCorTimerMatch (c : CoreNo) (s : State) : Host.Outcome State Fault Refusal :=
  .next <| match s.phys c.val with
    | some p =>
      if s.power p = pwLeaf ∧ ¬ s.fencedCore p then
        (s.setFld (F.corTimer p) (s.fld (F.corTimerCmp p))).signal p 5
      else s
    | none => s

end Sys2Proof.Machine
end

