-- ==== Sys2Proof/Machine/Matrix.lean ====
section
/-! DEFINITION. The matrix engine: its descriptor, the checks at decode, the operand streams, the block operation, the
output conversion and the guard (R153 to R221). -/

namespace Sys2Proof.Machine

/-! ### Streams of rows (R124 to R126, R162) -/

/-- A stream of 256-byte rows: read mode, base, element bytes and stride of a gather, rows. -/
structure Stream where
  mode : Nat
  base : Nat
  esz : Nat
  stride : Nat
  rows : Nat
  deriving DecidableEq, Repr

/-- Rows of a transposed block of a read mode (R124). -/
def transN (mode : Nat) : Nat := if mode = 1 then 256 else if mode = 2 then 128 else 64

/-- Clump-local address of byte `off` of a stream (R125, R126, R189). -/
def Stream.addr (t : Stream) (off : Nat) : Nat :=
  if t.mode = 0 then t.base + off
  else if t.mode = 4 then t.base + off / 256 * t.esz + off % 256 / t.esz * t.stride + off % 256 % t.esz
  else
    let n := transN t.mode
    let e := 256 / n
    let r := off / 256
    t.base + (r / n * n + off % 256 / e) * 256 + r % n * e + off % 256 % e

/-- First byte past the bytes a stream touches. -/
def Stream.hi (t : Stream) : Nat :=
  if t.rows = 0 then t.base
  else if t.mode = 0 then t.base + t.rows * 256
  else if t.mode = 4 then t.base + (t.rows - 1) * t.esz + (256 / t.esz - 1) * t.stride + t.esz
  else t.base + (t.rows + transN t.mode - 1) / transN t.mode * transN t.mode * 256

/-- Clump positions a stream touches. -/
def Stream.positions (t : Stream) : List Nat :=
  if t.rows = 0 then []
  else
    let span := fun (lo hi : Nat) => (List.range 4).filter fun q => decide (lo / coreBytes ≤ q) && decide (q ≤ hi / coreBytes)
    if t.mode = 4 then
      ((List.range (256 / t.esz)).map fun i =>
        span (t.base + i * t.stride) (t.base + i * t.stride + (t.rows - 1) * t.esz)).flatten.eraseDups
    else span t.base (t.hi - 1)

/-- Whether a read mode's placement is allowed (R124, R126). -/
def Stream.placed (t : Stream) : Bool :=
  if t.mode = 0 then true
  else if 4 < t.mode then false
  else if t.mode = 4 then
    t.stride % t.esz == 0 && decide (t.esz ≤ t.stride) && decide (t.stride ≤ 1048576) && t.base % t.esz == 0 &&
      decide (t.hi ≤ 2 ^ 24)
  else t.base % (transN t.mode * 256) == 0

/-- A byte an engine reads: zero from a fenced neighbour (R79), a free value where the access is discarded (R78). -/
def State.engByte (s : State) (p a : Nat) : Byte :=
  match s.reach p (clumpPos a) with
  | .ok t => s.mem.get (t * coreBytes + clumpByte a)
  | .fenced => 0
  | .denied => BitVec.ofNat 8 (s.draw a)

/-- Little-endian number of n bytes at offset `off` of a stream. -/
def State.streamNat (s : State) (p : Nat) (t : Stream) (off : Nat) : Nat → Nat
  | 0 => 0
  | n + 1 => (s.engByte p (t.addr off)).toNat + 256 * s.streamNat p t (off + 1) n

/-- Element code of `bits` bits at bit position `pos` of a stream. -/
def State.streamCode (s : State) (p : Nat) (t : Stream) (pos bits : Nat) : Nat :=
  if bits < 8 then (s.engByte p (t.addr (pos / 8))).toNat / 2 ^ (pos % 8) % 2 ^ bits
  else s.streamNat p t (pos / 8) (bits / 8)

/-- Clump rows from the lowest base to the highest end of some streams, in bytes. -/
def spanOf (ts : List Stream) : Nat × Nat :=
  match ts with
  | [] => (0, 0)
  | t :: r => r.foldl (fun a u => (min a.1 u.base, max a.2 u.hi)) (t.base, t.hi)

/-- Whether two byte spans share a row. -/
def rowsMeet (a b : Nat × Nat) : Bool :=
  decide (a.1 / 256 ≤ (b.2 - 1) / 256) && decide (b.1 / 256 ≤ (a.2 - 1) / 256)

/-! ### The descriptor (R180 to R184) -/

/-- The fields of a matrix operation descriptor. -/
structure MxDesc where
  kind : Nat
  aFmt : Nat
  bFmt : Nat
  cFmt : Nat
  dFmt : Nat
  control : Nat
  m : Nat
  outScale : Nat
  k : Nat
  n : Nat
  aRead : Nat
  bRead : Nat
  aBase : Nat
  aScale : Nat
  bBase : Nat
  bScale : Nat
  bStride : Nat
  bScaleStride : Nat
  cBase : Nat
  cStride : Nat
  dBase : Nat
  dStride : Nat
  dScale : Nat
  dScaleStride : Nat
  aGather : Nat
  bGather : Nat
  threshold : Nat
  action : Nat
  tensor : Nat
  tile : Nat
  spill : Nat
  map : Nat
  deriving DecidableEq, Repr

/-- The descriptor in 128 bytes (R180). -/
def MxDesc.ofBytes (b : List Byte) : MxDesc :=
  { kind := leAt b 0 1, aFmt := leAt b 1 1, bFmt := leAt b 2 1, cFmt := leAt b 3 1, dFmt := leAt b 4 1,
    control := leAt b 5 1, m := leAt b 6 1, outScale := leAt b 7 1, k := leAt b 8 2, n := leAt b 10 2,
    aRead := leAt b 12 1, bRead := leAt b 13 1, aBase := leAt b 16 4, aScale := leAt b 20 4, bBase := leAt b 24 4,
    bScale := leAt b 28 4, bStride := leAt b 32 4, bScaleStride := leAt b 36 4, cBase := leAt b 40 4,
    cStride := leAt b 44 4, dBase := leAt b 48 4, dStride := leAt b 52 4, dScale := leAt b 56 4,
    dScaleStride := leAt b 60 4, aGather := leAt b 64 4, bGather := leAt b 68 4, threshold := leAt b 72 1,
    action := leAt b 73 1, tensor := leAt b 74 2, tile := leAt b 76 4, spill := leAt b 80 4, map := leAt b 84 4 }

def MxDesc.cMode (d : MxDesc) : Nat := bitsAt d.control 0 2
def MxDesc.round (d : MxDesc) : Nat := bitsAt d.control 2 2
def MxDesc.keep (d : MxDesc) : Bool := d.control.testBit 4
def MxDesc.ternary (d : MxDesc) : Bool := d.control.testBit 5
def MxDesc.outMode (d : MxDesc) : Bool := d.control.testBit 6

/-- Class of an operand format (R154): 4-bit, 8-bit class, 16-bit, T2; 0 for none. -/
def fmtClass (fc : Nat) : Nat :=
  if fc = fcMx4 ∨ fc = fcSb4 then 4 else if 0x10 ≤ fc ∧ fc ≤ 0x14 then 8
  else if fc = fcBf16 ∨ fc = fcF16 then 16 else if fc = fcT2 then 2 else 0

/-- K_STEP of a pairing, 0 for one R155 rejects (R154). -/
def kStep (a b : Nat) : Nat :=
  if fmtClass a = 4 ∧ fmtClass b = 4 then 8
  else if fmtClass a = 4 ∧ fmtClass b = 2 then 16
  else if fmtClass a = 8 ∧ fmtClass b = 8 then 4
  else if fmtClass a = 16 ∧ fmtClass b = 16 then 2
  else 0

def MxDesc.step (d : MxDesc) : Nat := kStep d.aFmt d.bFmt
/-- Bytes of A's K-group word. -/
def MxDesc.gw (d : MxDesc) : Nat := if d.step = 16 then 8 else 4
def MxDesc.groups (d : MxDesc) : Nat := d.k / d.step
/-- The output is narrow and guarded. -/
def MxDesc.scaled (d : MxDesc) : Bool := !d.keep && isScaledOut d.dFmt

def ceilRows (bytes : Nat) : Nat := (bytes + 255) / 256

def gatherEsz (g : Nat) : Nat := 2 ^ (g / 2 ^ 30 % 4)

def MxDesc.aStream (d : MxDesc) : Stream :=
  { mode := d.aRead % 8, base := d.aBase, esz := gatherEsz d.aGather, stride := d.aGather % 2 ^ 21,
    rows := ceilRows (d.groups * d.m * d.gw) }
def MxDesc.aScaleStream (d : MxDesc) : Stream :=
  { mode := 0, base := d.aScale, esz := 1, stride := 0,
    rows := if blockSize d.aFmt = 0 then 0 else ceilRows (d.k / blockSize d.aFmt * d.m) }
def MxDesc.bStream (d : MxDesc) (j : Nat) : Stream :=
  { mode := d.bRead % 8, base := d.bBase + j * d.bStride, esz := gatherEsz d.bGather, stride := d.bGather % 2 ^ 21,
    rows := d.groups }
def MxDesc.bScaleStream (d : MxDesc) (j : Nat) : Stream :=
  { mode := 0, base := d.bScale + j * d.bScaleStride, esz := 1, stride := 0,
    rows := if blockSize d.bFmt = 0 then 0 else ceilRows (d.k / blockSize d.bFmt * 64) }
def MxDesc.cStream (d : MxDesc) (j : Nat) : Stream :=
  { mode := 0, base := d.cBase + j * d.cStride, esz := 1, stride := 0,
    rows := if d.cMode = 1 then ceilRows (d.m * 64 * elemBits d.cFmt / 8) else 0 }
def MxDesc.dBytes (d : MxDesc) : Nat := d.m * 64 * elemBits d.dFmt / 8
def MxDesc.dStream (d : MxDesc) (j : Nat) : Stream :=
  { mode := 0, base := d.dBase + j * d.dStride, esz := 1, stride := 0,
    rows := if d.keep then 0 else ceilRows d.dBytes }
def MxDesc.dScaleBytes (d : MxDesc) : Nat := d.m * (64 / blockSize d.dFmt)
def MxDesc.dScaleStream (d : MxDesc) (j : Nat) : Stream :=
  { mode := 0, base := d.dScale + j * d.dScaleStride, esz := 1, stride := 0,
    rows := if d.scaled then ceilRows d.dScaleBytes else 0 }
/-- Rows of the spill area (R204). -/
def MxDesc.spillStream (d : MxDesc) : Stream :=
  { mode := 0, base := d.spill, esz := 1, stride := 0, rows := if d.action = 1 then 256 else 0 }
/-- Rows of the map entries TILE_INDEX to TILE_INDEX + N_BLOCKS − 1 (R216). -/
def MxDesc.mapSpan (d : MxDesc) : Nat × Nat :=
  if d.action = 1 then (d.map + 4 * d.tile, d.map + 4 * (d.tile + d.n)) else (0, 0)

def nonEmpty (ts : List Stream) : List Stream := ts.filter fun t => t.rows != 0

/-- Streams of each operand over every block: the first and last block bound them. -/
def MxDesc.aAll (d : MxDesc) : List Stream := nonEmpty [d.aStream, d.aScaleStream]
def MxDesc.bAll (d : MxDesc) : List Stream :=
  nonEmpty [d.bStream 0, d.bStream (d.n - 1), d.bScaleStream 0, d.bScaleStream (d.n - 1)]
def MxDesc.cAll (d : MxDesc) : List Stream := nonEmpty [d.cStream 0, d.cStream (d.n - 1)]
def MxDesc.dAll (d : MxDesc) : List Stream :=
  nonEmpty [d.dStream 0, d.dStream (d.n - 1), d.dScaleStream 0, d.dScaleStream (d.n - 1)]

/-- Whether two spans meet where both are in use. -/
def spansMeet (a b : Nat × Nat) : Bool := decide (a.1 < a.2) && decide (b.1 < b.2) && rowsMeet a b

def MxDesc.okFormats (d : MxDesc) : Bool :=
  d.step != 0 && (d.cMode != 1 || d.cFmt == fcF32 || d.cFmt == fcBf16 || d.cFmt == fcF16) &&
    (d.keep || d.dFmt == fcF32 || d.dFmt == fcBf16 || d.dFmt == fcF16 || isScaledOut d.dFmt)

def MxDesc.okSizes (d : MxDesc) : Bool :=
  decide (1 ≤ d.m ∧ d.m ≤ 64 ∧ 64 ≤ d.k ∧ d.k ≤ 16384) && d.k % 64 == 0 && decide (1 ≤ d.n ∧ d.n ≤ 1024) &&
    (d.action != 1 || decide (d.tile + d.n - 1 ≤ 0xFFFF))

/-- Every base and stride in use is aligned, and blocks of D do not meet (R164). -/
def MxDesc.okAlign (d : MxDesc) : Bool :=
  let al := fun (used : Bool) (xs : List Nat) => !used || xs.all fun x => x % 256 == 0
  let wide := d.action % 4 == 1
  al true [d.aBase, d.bBase, d.bStride] && al (blockSize d.aFmt != 0) [d.aScale] &&
  al (blockSize d.bFmt != 0) [d.bScale, d.bScaleStride] && al (d.cMode == 1) [d.cBase, d.cStride] &&
  al (!d.keep) [d.dBase, d.dStride] && al d.scaled [d.dScale, d.dScaleStride] && al wide [d.spill, d.map] &&
  (d.n == 1 || d.keep || (decide (d.dBytes ≤ d.dStride) && (!d.scaled || decide (d.dScaleBytes ≤ d.dScaleStride))))

def MxDesc.okRanges (d : MxDesc) : Bool :=
  let a := spanOf d.aAll
  let b := spanOf d.bAll
  let c := spanOf d.cAll
  let dd := spanOf d.dAll
  let sp := spanOf (nonEmpty [d.spillStream])
  let mp := d.mapSpan
  [a, b, c, dd, sp, mp].all (fun x => decide (x.2 ≤ 2 ^ 24)) && !spansMeet dd a && !spansMeet dd b &&
    (!spansMeet dd c || (d.dBase == d.cBase && d.dStride == d.cStride)) &&
    [a, b, c, dd].all (fun x => !spansMeet sp x && !spansMeet mp x) && !spansMeet sp mp

/-- Chaining (R169, R170): `held` is M_ACTIVE of the accumulator the previous descriptor leaves. -/
def MxDesc.okChain (d : MxDesc) (held : Option Nat) : Bool :=
  (!d.keep || d.n == 1) && (d.cMode != 2 || (d.n == 1 && held == some d.m))

def MxDesc.okModes (d : MxDesc) : Bool :=
  d.aStream.placed && (d.bStream 0).placed && (d.bStream (d.n - 1)).placed &&
    (d.bRead % 8 == 0 || d.bRead % 8 == 4 || d.bStride % (transN (d.bRead % 8) * 256) == 0)

/-- Fields that must be 0: reserved ones, upper address bits, and what the settings do not use, the strides of a single
block among them (R180, R182). -/
def MxDesc.okZeros (d : MxDesc) (b : List Byte) : Bool :=
  let z := fun (used : Bool) (x : Nat) => used || x == 0
  let aS := blockSize d.aFmt != 0
  let bS := blockSize d.bFmt != 0
  let c1 := d.cMode == 1
  !d.control.testBit 7 && d.aRead / 8 == 0 && d.bRead / 8 == 0 && leAt b 14 2 == 0 &&
  [d.aBase, d.aScale, d.bBase, d.bScale, d.bStride, d.bScaleStride, d.cBase, d.cStride, d.dBase, d.dStride, d.dScale,
    d.dScaleStride, d.spill, d.map].all (fun x => decide (x < 2 ^ 24)) &&
  bitsAt d.aGather 21 9 == 0 && bitsAt d.bGather 21 9 == 0 && z (d.aRead == 4) d.aGather && z (d.bRead == 4) d.bGather &&
  z aS d.aScale && z bS d.bScale && z bS d.bScaleStride && z c1 d.cFmt && z c1 d.cBase && z c1 d.cStride &&
  (d.n != 1 || d.bStride + d.bScaleStride + d.cStride + d.dStride + d.dScaleStride == 0) &&
  z (!d.keep) (d.dFmt + d.dBase + d.dStride + d.round) && z d.scaled (d.dScale + d.dScaleStride) &&
  z d.scaled d.outMode.toNat && z d.outMode d.outScale && z (d.bFmt == fcT2) d.ternary.toNat &&
  z d.scaled (d.threshold + d.action + d.tensor + d.tile) && z (d.action % 4 == 1) (d.spill + d.map) &&
  d.action / 4 == 0 && leNat (slice b 0x58 40) == 0

/-- The reason of R183 for which a descriptor is rejected, lowest first (log 22); 0 for none, 256 for an illegal C_MODE
or ROUND, whose reason the table does not give. -/
def MxDesc.reason (d : MxDesc) (b : List Byte) (held : Option Nat) : Nat :=
  if d.kind ≠ 1 then 1
  else if ¬ d.okFormats then 2
  else if ¬ d.okSizes then 3
  else if ¬ d.okAlign then 4
  else if ¬ d.okRanges then 5
  else if ¬ d.okChain held then 6
  else if ¬ d.okModes then 7
  else if ¬ d.okZeros b then 8
  else if d.action = 3 then 9
  else if d.cMode = 3 ∨ d.round = 3 then 256
  else 0

/-- Ranges declared (R184): kind (0 write, 1 read) with first and last clump row. -/
def MxDesc.ranges (d : MxDesc) : List (Nat × Nat × Nat) :=
  let r := fun (kind : Nat) (x : Nat × Nat) => (kind, x.1 / 256, (x.2 - 1) / 256)
  [r 1 (spanOf d.aAll), r 1 (spanOf d.bAll)] ++
    (if d.cMode = 1 ∧ d.cBase ≠ d.dBase then [r 1 (spanOf d.cAll)] else []) ++
    (if d.keep then [] else [r 0 (spanOf d.dAll)]) ++
    (if d.action = 1 then [r 0 (spanOf [d.spillStream]), r 0 d.mapSpan] else [])

/-! ### The block operation (R153 to R171) -/

/-- Consecutive pieces of n. -/
def chunks {α : Type} (n : Nat) : Nat → List α → List (List α)
  | 0, _ => []
  | k + 1, l => l.take n :: chunks n k (l.drop n)

/-- An element's value and whether it is a ternary code 0b10. -/
def MxDesc.aElem (d : MxDesc) (s : State) (p m k : Nat) : FV :=
  let w := elemBits d.aFmt
  (elemValue d.aFmt false (s.streamCode p d.aStream
    (((k / d.step * d.m + m) * d.gw) * 8 + k % d.step * w) w)).1

def MxDesc.bElem (d : MxDesc) (s : State) (p j k n : Nat) : FV × Bool :=
  let w := elemBits d.bFmt
  elemValue d.bFmt d.ternary (s.streamCode p (d.bStream j) ((k / d.step * 256 + n * 4) * 8 + k % d.step * w) w)

def MxDesc.aScaleAt (d : MxDesc) (s : State) (p m k : Nat) : FV :=
  if blockSize d.aFmt = 0 then .fin false 1 1 0
  else scaleValue d.aFmt (s.streamNat p d.aScaleStream (k / blockSize d.aFmt * d.m + m) 1)

def MxDesc.bScaleAt (d : MxDesc) (s : State) (p j k n : Nat) : FV :=
  if blockSize d.bFmt = 0 then .fin false 1 1 0
  else scaleValue d.bFmt (s.streamNat p (d.bScaleStream j) (k / blockSize d.bFmt * 64 + n) 1)

/-- The exact sum of the products of two lists of values. -/
def dotExact (xs : List (FV × FV)) : FV :=
  match xs.map fun x => x.1.mul x.2 with
  | [] => FV.zero
  | y :: ys => ys.foldl FV.add y

/-- A list in the order of its sort keys. -/
def insertKey {α : Type} (k : Nat) (x : α) : List (Nat × α) → List (Nat × α)
  | [] => [(k, x)]
  | (k', y) :: l => if k ≤ k' then (k, x) :: (k', y) :: l else (k', y) :: insertKey k x l

/-- The numbers below n in an order that free sort keys choose. -/
def freeOrder (key : Nat → Nat) (n : Nat) : List Nat :=
  ((List.range n).foldl (fun l i => insertKey (key i) i l) []).map (·.2)

/-- The group sum of a group, scaled and rounded once to FP32 (R165). -/
def MxDesc.groupSum (d : MxDesc) (s : State) (p j m n g : Nat) : Word :=
  let x := dotExact ((List.range d.step).map fun h =>
    (d.aElem s p m (g * d.step + h), (d.bElem s p j (g * d.step + h) n).1))
  toF32 (x.mul ((d.aScaleAt s p m (g * d.step)).mul (d.bScaleAt s p j (g * d.step) n)))

/-- The starting value and, for C_MODE 1, what is added last (R168). -/
def MxDesc.cElem (d : MxDesc) (s : State) (p j i : Nat) : Word :=
  let w := elemBits d.cFmt
  toF32 ((elemFmt d.cFmt).decode (s.streamNat p (d.cStream j) (i * w / 8) (w / 8)))

/-- One accumulator of block j: element i = m × 64 + n. The group sums are added in an order nothing constrains. -/
def MxDesc.accum (d : MxDesc) (s : State) (p j i : Nat) (held : List Word) : Word :=
  let start := if d.cMode = 2 then held.getD i 0 else 0
  let order := freeOrder (fun g => s.draw (2 ^ 40 + j * 2 ^ 20 + g)) d.groups
  let x := order.foldl (fun a g => f32Add a (d.groupSum s p j (i / 64) (i % 64) g)) start
  if d.cMode = 1 then f32Add x (d.cElem s p j i) else x

/-- The FP32 values of block j, row-major. -/
def MxDesc.block (d : MxDesc) (s : State) (p j : Nat) (held : List Word) : List Word :=
  (List.range (d.m * 64)).map fun i => d.accum s p j i held

/-- Ternary elements with code 0b10 over every block (R159). -/
def MxDesc.t2Bad (d : MxDesc) (s : State) (p : Nat) : Nat :=
  if d.bFmt = fcT2 ∧ d.ternary = true then
    ((List.range d.n).map fun j => ((List.range (d.k * 64)).filter fun x =>
      (d.bElem s p j (x / 64) (x % 64)).2).length).sum
  else 0

/-! ### Output conversion (R172 to R176) -/

/-- The rounding of draw number i. -/
def roundOf (mode seed i : Nat) : Round :=
  if mode = 1 then .stochastic (Config.srDraw seed i % 65536) else if mode = 2 then .zero else .nearest

/-- A tile converted to a scaled format: scales, element codes, saturated and zero flags per scale block. -/
structure Tile where
  scales : List Nat
  codes : List (List (Nat × Bool × Bool))
  deriving DecidableEq, Repr

/-- The conversion of FP32 values in blocks under given scales; draw numbers start at `at_`. -/
def convTile (fc round seed at_ free : Nat) (blocks : List (List FV)) (scales : List Nat) : Tile :=
  { scales,
    codes := (blocks.zip scales).zipIdx.map fun b => b.1.1.zipIdx.map fun v =>
      convElem fc b.1.2 (roundOf round seed (at_ + b.2 * blockSize fc + v.2)) (free + v.2) v.1 }

def Tile.sat (t : Tile) : Nat := (t.codes.map fun b => (b.filter fun c => c.2.1).length).sum
/-- Elements of finite nonzero value written as zero (R196). -/
def Tile.ufl (t : Tile) (blocks : List (List FV)) : Nat :=
  ((t.codes.zip blocks).map fun b => ((b.1.zip b.2).filter fun c => c.1.2.2 && c.2.finiteNonzero).length).sum
def Tile.bytes (t : Tile) (fc : Nat) : List Byte := packCodes (elemBits fc) (t.codes.flatten.map fun c => c.1)
def Tile.scaleBytes (t : Tile) : List Byte := t.scales.map (BitVec.ofNat 8 ·)

/-- Output elements that are written as NaN or stand in a block with a NaN scale (R194): a format without a NaN code
writes none. -/
def nanOut (fc : Nat) (blocks : List (List FV)) (scales : List Nat) : Nat :=
  ((blocks.zip scales).map fun b =>
    if (scaleValue fc b.2).isNan then b.1.length
    else if fc = fcE4M3 ∨ fc = fcE5M2 then (b.1.filter FV.isNan).length
    else 0).sum

/-- Bytes filled up with zeros to whole rows (R163). -/
def padRows (bs : List Byte) : List Byte := slice bs 0 (ceilRows bs.length * 256)

/-- The scales of a tile before any rescaling (R174). -/
def MxDesc.tileScales (d : MxDesc) (blocks : List (List FV)) : List Nat :=
  blocks.map fun b => if d.outMode then d.outScale else computedScale d.dFmt b

/-! ### The guard (R196 to R219) -/

/-- Wide format of a narrow one (R199). -/
def wideFmt (fc : Nat) : Nat := if fc = fcMx4 ∨ fc = fcSb4 ∨ fc = fcE2M3 ∨ fc = fcE3M2 then fcE4M3 else fcBf16

/-- Spill rows of a widened tile (R199). -/
def wideRows (fc m : Nat) : Nat :=
  if wideFmt fc = fcE4M3 then ceilRows (m * 64) + ceilRows (m * 2) else (m + 1) / 2

/-- What has been gathered over the tiles of a descriptor. -/
structure MxWork where
  stores : List (Nat × List Byte) := []
  draws : Nat := 0
  nextSlot : Nat := 0
  fullCount : Nat := 0
  records : List GuardRec := []
  sat : Nat := 0
  ufl : Nat := 0
  passed : Nat := 0
  widened : Nat := 0
  rescaled : Nat := 0
  spillFull : Nat := 0
  residual : Nat := 0
  nans : Nat := 0
  /-- Of each tile: cycles before its first D write beyond those of R190, and writes of its output stage (R213). -/
  outs : List (Nat × Nat) := []
  deriving DecidableEq, Repr

/-- The largest finite magnitude of a tile as FP32, or infinity if it held one (R218). -/
def tileAmax (vs : List FV) : Word :=
  if vs.any fun v => v == .inf true || v == .inf false then 0x7F800000#32
  else toF32 (vs.foldl (fun a v => if v.isNan then a else if a.lt v.abs then v.abs else a) FV.zero)

/-- A guard record (R218). -/
def MxDesc.record (d : MxDesc) (tag outcome j sat ufl : Nat) (amax : Word) : GuardRec :=
  { words := [BitVec.ofNat 32 (d.tensor * 2 ^ 16 + tag * 2 ^ 10 + d.action % 4 * 2 ^ 8 + outcome * 2 ^ 6),
      BitVec.ofNat 32 (d.tile + j), BitVec.ofNat 32 (sat * 2 ^ 16 + ufl), amax] }

/-- A map entry (R209). -/
def mapEntry (state fmt sat slotRow : Nat) : List Byte :=
  leBytes 4 (state * 2 ^ 30 + fmt * 2 ^ 24 + min sat 255 * 2 ^ 16 + slotRow)

/-- The wide copy of a tile (R200): bytes of a spill slot, and elements counted as residual (R201). -/
def wideCopy (fc round seed at_ free m : Nat) (vs : List FV) : List Byte × Nat :=
  if wideFmt fc = fcE4M3 then
    let blocks := chunks 32 (m * 2) vs
    let t := convTile fcE4M3 round seed at_ free blocks (blocks.map (computedScale fcE4M3 ·))
    (padRows (t.bytes fcE4M3) ++ padRows t.scaleBytes, t.sat)
  else
    let cs := vs.zipIdx.map fun v => fmtBf16.toIeee (roundOf round seed (at_ + v.2)) v.1
    (padRows (packCodes 16 cs),
      ((vs.zip cs).filter fun x => x.1.finiteNonzero && x.2 % 0x8000 == 0x7F80).length)

/-- One narrow tile converted, guarded and written (R196 to R214); `slotRows` is the header's SLOT_ROWS. -/
def MxDesc.guardTile (d : MxDesc) (static : Bool) (tag seed free slotRows j : Nat) (vals : List Word) (w : MxWork) : MxWork :=
  let bs := blockSize d.dFmt
  let vs := vals.map ofF32
  let blocks := chunks bs (d.m * 64 / bs) vs
  let adv := if d.round = 1 then d.m * 64 else 0
  let t1 := convTile d.dFmt d.round seed w.draws free blocks (d.tileScales blocks)
  let sat := t1.sat
  let ufl := t1.ufl blocks
  let pass := decide (d.threshold < sat)
  let w := { w with draws := w.draws + adv, sat := w.sat + sat, ufl := w.ufl + ufl,
                    passed := w.passed + pass.toNat }
  let amax := tileAmax vs
  let put := fun (t : Tile) (w : MxWork) =>
    { w with stores := w.stores ++ [((d.dStream j).base, padRows (t.bytes d.dFmt)),
                                     ((d.dScaleStream j).base, padRows t.scaleBytes)],
             nans := w.nans + nanOut d.dFmt blocks t.scales }
  let note := fun (outcome : Nat) (w : MxWork) =>
    { w with records := w.records ++ [d.record tag outcome j sat ufl amax] }
  let mapAt := d.map + 4 * (d.tile + j)
  let putMap := fun (e : List Byte) (w : MxWork) => { w with stores := w.stores ++ [(mapAt, e)] }
  let dr := ceilRows d.dBytes + ceilRows d.dScaleBytes
  let wide := if d.action = 1 ∧ (pass ∨ static) then wideRows d.dFmt d.m else 0
  let w := { w with outs := w.outs ++ [
    (if d.action = 2 then (if pass ∨ static then 2 * dr + 6 else dr + 2) else 0, dr + wide + if d.action = 1 then 1 else 0)] }
  if d.action = 2 ∧ pass = true then
    let scales := ((blocks.zip t1.scales).zip t1.codes).map fun x =>
      if x.2.any (fun c => c.2.1) then rescaledScale d.dFmt x.1.1 else x.1.2
    let t2 := convTile d.dFmt d.round seed w.draws free blocks scales
    note 2 (put t2 { w with draws := w.draws + adv, rescaled := w.rescaled + 1, residual := w.residual + t2.sat })
  else if d.action = 1 then
    let w := put t1 w
    if pass then
      let wr := wideRows d.dFmt d.m
      if slotRows = 0 ∨ 32 < slotRows ∨ slotRows < wr ∨ 255 / slotRows ≤ w.nextSlot then
        note 3 (putMap (mapEntry 2 0 sat 0)
          { w with fullCount := min (w.fullCount + 1) 0xFFFF, spillFull := w.spillFull + 1 })
      else
        let slot := d.spill + 256 + w.nextSlot * slotRows * 256
        let wide := wideCopy d.dFmt d.round seed w.draws free d.m vs
        note 1 (putMap (mapEntry 1 (wideFmt d.dFmt) sat (slot / 256 % 65536))
          { w with stores := w.stores ++ [(slot, wide.1)], draws := w.draws + adv, nextSlot := w.nextSlot + 1,
                   widened := w.widened + 1, residual := w.residual + wide.2 })
    else putMap (mapEntry 0 0 sat 0) w
  else
    let w := put t1 w
    if pass then note 0 w else w

/-- One block's output in FP32, BF16 or FP16 (R172, R173). -/
def MxDesc.plainTile (d : MxDesc) (seed j : Nat) (vals : List Word) (w : MxWork) : MxWork :=
  let adv := if d.round = 1 ∧ d.dFmt ≠ fcF32 then d.m * 64 else 0
  let codes := vals.zipIdx.map fun v =>
    if d.dFmt = fcF32 then v.1.toNat else (elemFmt d.dFmt).toIeee (roundOf d.round seed (w.draws + v.2)) (ofF32 v.1)
  { w with stores := w.stores ++ [((d.dStream j).base, padRows (packCodes (elemBits d.dFmt) codes))],
           draws := w.draws + adv, outs := w.outs ++ [(0, ceilRows d.dBytes)], nans := w.nans + (vals.filter fun v => (ofF32 v).isNan).length }

/-! ### Start and completion (R185 to R192) -/

/-- The ways an engine's accesses meet the clump (R78, R79): FENCED_TARGET for each fenced position, CLUMP_ACCESS if one
is denied. `pc` is the descriptor's ISSUE. -/
def State.meetClump (s : State) (p : Nat) (qs : List Nat) (pc : Nat) : State × Bool :=
  (qs.foldl (fun s q => if s.reach p q = .fenced then s.recordError p erFencedTarget pc else s) s,
    qs.any fun q => s.reach p q = .denied)

/-- Clump positions a descriptor reads. -/
def MxDesc.positions (d : MxDesc) : List Nat :=
  ((d.aAll ++ ((List.range d.n).map fun j => nonEmpty [d.bStream j, d.bScaleStream j, d.cStream j]).flatten ++
    (if d.action = 1 then [Stream.mk 0 d.spill 1 0 1] else [])).map Stream.positions).flatten.eraseDups

/-- Clump positions that some stores touch. -/
def storePositions (xs : List (Nat × List Byte)) : List Nat :=
  (xs.flatMap fun x => (Stream.mk 0 x.1 1 0 (ceilRows x.2.length)).positions).eraseDups

/-- A scoreboard entry that holds a descriptor back (R102): a live one of an earlier descriptor, of a claim, or of a DMA
write that entered before it (R138, log 21). -/
def State.sbBlocks (s : State) (p seq kind first last : Nat) : Bool :=
  let c := s.core p
  let mine := c.sbOrder.findIdx fun o => o.owner = some (.inl seq)
  c.sbOrder.zipIdx.any fun o =>
    let considered := match o.1.owner with
      | none => true
      | some (.inl q) => decide (q < seq)
      | some (.inr _) => decide (o.2 < mine)
    considered && s.sbOverlaps p o.1.entry first last && (kind == 0 || s.fld (F.spdSbAKind p o.1.entry) == 0)

/-- Whether the order rules let a queued descriptor start (R91, R98, R102, BARRIER). -/
def State.mayStart (s : State) (p : Nat) (q : QDesc) (ranges : List (Nat × Nat × Nat)) : Bool :=
  let c := s.core p
  let runs := c.mxRun.toList ++ c.mxDrain.toList ++ c.vxRun.toList
  let others := c.mxq ++ c.vxq ++ runs.map RunDesc.desc
  let barrier := !q.barrier || others.all fun o => decide (q.seq ≤ o.seq)
  let sb := s.fld (F.corStatusMode p) = 0 || (q.entered && ranges.all fun r => !s.sbBlocks p q.seq r.1 r.2.1 r.2.2)
  barrier && sb && !s.clocksOff && !s.fencedCore p && s.power p == pwLeaf && s.coreState p != csFrozen

/-- The running descriptor whose header a new one continues: it names the same SPILL_BASE and has not written its header
back (R207). -/
def State.headerOf (s : State) (p : Nat) (d : MxDesc) : Option RunDesc :=
  (s.core p).mxRun.filter fun r =>
    let e := MxDesc.ofBytes r.desc.bytes
    d.action == 1 && e.action == 1 && e.spill == d.spill

/-- The spill header a descriptor starts from: SLOT_ROWS, NEXT_SLOT, FULL_COUNT as it reads them, or as the descriptor
before it leaves them (R204, R207). -/
def MxDesc.header (d : MxDesc) (s : State) (p : Nat) : Nat × Nat × Nat :=
  match (s.headerOf p d).bind fun r => r.stores.getLast? with
  | some x => (leAt x.2 0 2, leAt x.2 2 2, leAt x.2 4 2)
  | none => (s.streamNat p d.spillStream 0 2, s.streamNat p d.spillStream 2 2, s.streamNat p d.spillStream 4 2)

/-- Every block of a descriptor converted. -/
def MxDesc.output (d : MxDesc) (s : State) (p tag : Nat) (held : List Word) : MxWork :=
  let c := s.core p
  let h := d.header s p
  let static := s.fld (F.corStatusMode p) == 0
  let w := (List.range d.n).foldl (fun w j =>
    let vals := d.block s p j held
    if d.scaled then d.guardTile static tag c.mxSeed (s.draw (2 ^ 41 + j)) h.1 j vals w else d.plainTile c.mxSeed j vals w)
    { draws := c.mxDraws, nextSlot := h.2.1, fullCount := h.2.2 }
  if d.action = 1 then
    { w with stores := w.stores ++
        [(d.spill, padRows (leBytes 2 h.1 ++ leBytes 2 w.nextSlot ++ leBytes 2 w.fullCount))] }
  else w

/-! ### The stream's waits (R185 to R191, R213) -/

/-- A fits the A buffer (R188). -/
def MxDesc.fits (d : MxDesc) : Bool :=
  decide (d.groups * d.m * d.gw ≤ 131072 ∧ d.aScaleStream.rows * 256 ≤ 8192)

/-- Distinct rows a gathered row r touches, 1 for another read mode (R126, R189). -/
def Stream.cost (t : Stream) (r : Nat) : Nat :=
  if t.mode = 4 then
    ((List.range (256 / t.esz)).map fun i => (t.base + r * t.esz + i * t.stride) / 256).eraseDups.length
  else 1

/-- Cycles B row i of block j takes: one, more where B is gathered or A's rows do not keep up (R187, R189). -/
def MxDesc.rowCycles (d : MxDesc) (j i : Nat) : Nat :=
  let bytes := d.m * d.gw
  let first := if i = 0 then 0 else (i * bytes - 1) / 256 + 1
  let last := ((i + 1) * bytes - 1) / 256
  let a := if j ≠ 0 ∧ d.fits then 0
    else if 256 < bytes then ((List.range 2).map fun k => d.aStream.cost (2 * i + k)).sum
    else ((List.range (last + 1 - first)).map fun k => d.aStream.cost (first + k)).sum
  max ((d.bStream j).cost i) (max a 1)

/-- Cycles of block j's stream. -/
def MxDesc.streamCycles (d : MxDesc) (j : Nat) : Nat := ((List.range d.groups).map (d.rowCycles j)).sum

/-- Cycles from a B row's read to its arrival (R123). -/
def MxDesc.arrival (d : MxDesc) (q j : Nat) : Nat :=
  let t := d.bStream j
  (if t.positions.any (· != q) then 2 else 0) +
    (if t.mode = 0 then 6 else if t.mode = 4 then 5 + t.cost (d.groups - 1) else 5 + transN t.mode)

/-- Waits of a descriptor's stream: for gathered and late A rows in each block, and before each block from the third on
while the output of the block two before it still drains (R187, R189, R191; log 77). `outs` is what R213 gives each tile. -/
def MxDesc.stallCycles (d : MxDesc) (q : Nat) (outs : List (Nat × Nat)) : Nat :=
  let lens := (List.range d.n).map d.streamCycles
  let rows := (lens.map fun x => x - d.groups).sum
  let step := fun (a : Nat × Nat × Nat × Nat) (x : Nat × Nat) =>
    -- next start, end of the drain before last, end of the last drain, waits
    let start := max a.1 a.2.1
    let o := outs.getD x.2 (0, 0)
    let lastRead := start + x.1 - 1
    let drained := lastRead + d.arrival q x.2 + (if d.scaled then 4 else 2) + o.1 + o.2
    (start + x.1, a.2.2.1, max drained a.2.2.1, a.2.2.2 + (start - a.1))
  rows + (lens.zipIdx.foldl step (0, 0, 0, 0)).2.2.2

/-- The guard's counters, records and event of a descriptor (R197, R198, R219). -/
def State.guardNote (s : State) (p tiles : Nat) (w : MxWork) : State :=
  let s := ((s.addFld (F.mxeGuardTiles p) tiles).addFld (F.mxeGuardSat p) w.sat).addFld (F.mxeGuardUfl p) w.ufl
  let s := ((s.addFld (F.mxeGuardPassed p) w.passed).addFld (F.mxeGuardWiden p) w.widened).addFld
    (F.mxeGuardRescale p) w.rescaled
  let s := (s.addFld (F.mxeGuardSpillFull p) w.spillFull).addFld (F.mxeGuardResidual p) w.residual
  let c := s.core p
  let room := 16 - c.guardRecs.length
  let s := s.setCore p { c with guardRecs := c.guardRecs ++ w.records.take room }
  let s := s.addFld (F.mxeGuardRecLost p) (w.records.length - room)
  if w.records = [] then s else s.signal p 6

/-- The accumulator that a descriptor which starts now finds held: that of a KEEP_ACC descriptor that still runs, else the
engine's (R169). -/
def CoreSt.heldAcc (c : CoreSt) : Option AccSt :=
  match c.mxRun with
  | some r => r.acc
  | none => c.acc

/-- A matrix descriptor's start with its results computed (R185): a held accumulator is taken or dropped (R171), the
descriptor before it drains (R191), and leaves its header to this one where R207 says so. -/
def State.mxRunDesc (s : State) (p : Nat) (q : QDesc) (d : MxDesc) : State :=
  let c := s.core p
  let held := (c.heldAcc.map AccSt.words).getD []
  let w := if d.keep then {} else d.output s p q.tag held
  let acc : Option AccSt := if d.keep then some { rows := d.m, cols := 64, words := d.block s p 0 held } else none
  let shared := (s.headerOf p d).isSome
  let drain := c.mxRun.map fun r => { r with acc := none, stores := if shared then r.stores.dropLast else r.stores }
  let run : RunDesc := { desc := q, stores := w.stores, acc, stall := d.stallCycles (posOf p) w.outs }
  let s := if d.cMode ≠ 2 ∧ c.heldAcc.isSome then s.addFld (F.mxeAccDrop p) 1 else s
  let s := s.addFld (F.mxeT2Bad p) (d.t2Bad s p)
  let s := ((s.setFld (F.mxeStatusBusy p) 1).setFld (F.mxeStatusTag p) q.tag).setFld (F.mxeStatusASource p) 1
  let s := s.setFld (F.mxeStatusBlock p) 0
  let draws := if d.keep then c.mxDraws else w.draws
  let s := s.setCore p { c with mxq := c.mxq.drop 1, mxRun := some run, mxDrain := drain, acc := none, mxDraws := draws }
  let s := s.addFld (F.mxeNanOut p) w.nans
  (if d.scaled then s.guardNote p d.n w else s).drew

/-- A descriptor's read ranges released once its last operand is read (R104). In this model that is its start, where it reads
them all; its write ranges stand until it completes. -/
def State.sbReleaseReads (s : State) (p seq : Nat) : State :=
  ((s.core p).sbOrder.filter fun o => o.owner = some (.inl seq) && s.fld (F.spdSbAKind p o.entry) == 1).foldl
    (fun s o => s.sbRelease p o.entry) s

/-- Stores land in order; a fenced neighbour's are dropped, a denied one's discarded (R78, R79). -/
def State.landStores (s : State) (p : Nat) (xs : List (Nat × List Byte)) : State :=
  xs.foldl (fun s x => (chunks 256 (ceilRows x.2.length) x.2).zipIdx.foldl
    (fun s r => s.writeClump p (x.1 + r.2 * 256) r.1) s) s

/-- A fetched descriptor's ranges entered in program order while entries are free (R102, R103). -/
def State.enterOne (s : State) (p seq source tag : Nat) (ranges : List (Nat × Nat × Nat)) : State :=
  ranges.foldl (fun s r =>
    match s.sbFree p with
    | some i => s.sbEnter p i r.1 source 0 tag r.2.1 r.2.2 (some (.inl seq))
    | none => s) s

end Sys2Proof.Machine
end

