-- ==== Sys2Proof/Machine/Vector.lean ====
section
/-! DEFINITION. The vector engine's chains: descriptor, checks at decode and stages (R222 to R264). -/

namespace Sys2Proof.Machine

/-! ### Types (R229) -/

abbrev tyI32 : Nat := 0x40
abbrev tyU32 : Nat := 0x41
abbrev tyI16 : Nat := 0x42
abbrev tyU16 : Nat := 0x43
abbrev tyI8 : Nat := 0x44
abbrev tyU8 : Nat := 0x45
abbrev tyMask : Nat := 0x46
abbrev tyE8m0 : Nat := 0x50
abbrev tyE4m3 : Nat := 0x51

/-- A narrow element format. -/
def isCode (ty : Nat) : Bool := isScaledOut ty || ty == fcT2
def isScaleTy (ty : Nat) : Bool := ty == tyE8m0 || ty == tyE4m3
/-- The scale type of a narrow format (R160). -/
def scaleTy (fc : Nat) : Nat := if fc = fcSb4 ∨ fc = fcT2 then tyE4m3 else tyE8m0
def isFloatTy (ty : Nat) : Bool := ty == fcF32 || ty == fcBf16 || ty == fcF16

/-- Lane types of a chain's width (R222). -/
def isLaneTy (wide : Bool) (ty : Nat) : Bool :=
  if wide then ty == fcF32 || ty == tyI32 || ty == tyU32 else ty == fcBf16 || ty == fcF16 || ty == tyI16

/-- Lane type, mask or code type that a bank format carries in a chain (R229, R236; log 23). -/
def bankLane (wide : Bool) (ty : Nat) : Option Nat :=
  if isCode ty || isScaleTy ty || ty == tyMask then some ty
  else if wide then
    if ty = fcF32 ∨ ty = fcBf16 ∨ ty = fcF16 then some fcF32
    else if ty = tyI32 ∨ ty = tyI16 ∨ ty = tyI8 then some tyI32
    else if ty = tyU32 ∨ ty = tyU16 ∨ ty = tyU8 then some tyU32
    else none
  else if ty = fcBf16 ∨ ty = fcF16 then some ty
  else if ty = tyI16 ∨ ty = tyU16 ∨ ty = tyI8 ∨ ty = tyU8 then some tyI16
  else none

/-- Bits of one element in the banks. -/
def bankBits (ty : Nat) : Nat :=
  if ty = tyMask then 1 else if ty = tyI32 ∨ ty = tyU32 then 32 else if ty = tyI16 ∨ ty = tyU16 then 16
  else if ty = tyI8 ∨ ty = tyU8 ∨ isScaleTy ty then 8 else elemBits ty

/-! ### The descriptor (R224, R227) -/

structure Stage where
  kind : Nat
  op : Nat
  ty : Nat
  mask : Nat
  a : Nat
  b : Nat
  c : Nat
  seg : Nat
  p0 : Nat
  p1 : Nat
  deriving DecidableEq, Repr

structure VxDesc where
  kind : Nat
  width : Nat
  control : Nat
  elems : Nat
  elemsPtr : Nat
  result : Nat
  count : Nat
  stages : List Stage
  deriving DecidableEq, Repr

def Stage.ofBytes (b : List Byte) (o : Nat) : Stage :=
  { kind := leAt b o 1, op := leAt b (o + 1) 1, ty := leAt b (o + 2) 1, mask := leAt b (o + 3) 1, a := leAt b (o + 4) 1,
    b := leAt b (o + 5) 1, c := leAt b (o + 6) 1, seg := leAt b (o + 7) 1, p0 := leAt b (o + 8) 4,
    p1 := leAt b (o + 12) 4 }

def VxDesc.ofBytes (b : List Byte) : VxDesc :=
  { kind := leAt b 0 1, width := leAt b 2 1, control := leAt b 3 1, elems := leAt b 4 4, elemsPtr := leAt b 8 4,
    result := leAt b 12 4, count := leAt b 1 1,
    stages := (List.range (min (leAt b 1 1) 12)).map fun i => Stage.ofBytes b (64 + 16 * i) }

def VxDesc.wide (d : VxDesc) : Bool := d.width == 0
def VxDesc.lanes (d : VxDesc) : Nat := if d.wide then 64 else 128
def VxDesc.laneBits (d : VxDesc) : Nat := if d.wide then 32 else 16
def VxDesc.resultEn (d : VxDesc) : Bool := d.control.testBit 0
def VxDesc.fromPtr (d : VxDesc) : Bool := d.control.testBit 1
def VxDesc.round (d : VxDesc) : Nat := bitsAt d.control 2 2

abbrev vkLoad : Nat := 1
abbrev vkArith : Nat := 2
abbrev vkCompare : Nat := 3
abbrev vkSelect : Nat := 4
abbrev vkCompress : Nat := 5
abbrev vkExpand : Nat := 6
abbrev vkScan : Nat := 7
abbrev vkReduce : Nat := 8
abbrev vkLookup : Nat := 9
abbrev vkQuant : Nat := 10
abbrev vkDequant : Nat := 11
abbrev vkStore : Nat := 12

def Stage.packed (t : Stage) : Bool := t.p1.testBit 28
def Stage.mode (t : Stage) : Nat := t.p1 / 2 ^ 29 % 8
def Stage.stepBytes (t : Stage) : Nat := t.p1 % 2 ^ 24
def Stage.cap (t : Stage) : Nat := t.p1 % 2 ^ 16
def Stage.softmax (t : Stage) : Bool := t.kind == vkReduce && t.op == 7
def Stage.broadcast (t : Stage) : Bool := t.kind == vkReduce && (t.p0.testBit 0 || t.op == 7)

/-- What a port carries: its type, whether it is a packed stream. -/
structure PType where
  ty : Nat
  packed : Bool := false
  deriving DecidableEq, Repr

/-- Port types of a stage (R231). -/
def Stage.ports (wide : Bool) (t : Stage) : Option PType × Option PType :=
  if t.kind = vkLoad then ((bankLane wide t.ty).map fun x => ⟨x, t.packed⟩, none)
  else if t.kind = vkCompare then (some ⟨tyMask, false⟩, none)
  else if t.kind = vkCompress then (some ⟨t.ty, true⟩, if t.seg ≠ 0xFF then some ⟨tyMask, true⟩ else none)
  else if t.kind = vkReduce then
    (some ⟨t.ty, !t.broadcast⟩, if t.op = 5 ∨ t.op = 6 then some ⟨tyU32, !t.broadcast⟩ else none)
  else if t.kind = vkQuant then (some ⟨t.ty, false⟩, some ⟨scaleTy t.ty, false⟩)
  else if t.kind = vkStore then (none, none)
  else (some ⟨t.ty, false⟩, none)

/-- Which of A, B and C a stage uses (R231). -/
def Stage.uses (t : Stage) : Bool × Bool × Bool :=
  if t.kind = vkArith then
    if t.op = 3 then (true, true, true) else if 6 ≤ t.op ∧ t.op ≤ 8 then (true, false, false) else (true, true, false)
  else if t.kind = vkCompare then (true, t.op ≤ 5 || (0x10 ≤ t.op && t.op ≤ 0x13), false)
  else if t.kind = vkSelect then (true, true, true)
  else if t.kind = vkExpand ∨ t.kind = vkDequant then (true, true, false)
  else if t.kind = vkLoad then (false, false, false)
  else if t.kind = vkReduce ∧ t.op = 4 then (false, false, false)
  else (true, false, false)

/-! ### Checks at decode (R262) -/

/-- Legal KIND, OP and TYPE of a stage. -/
def Stage.legal (wide : Bool) (t : Stage) : Bool :=
  let lane := isLaneTy wide t.ty
  if t.kind = vkLoad then t.op == 0 && (bankLane wide t.ty).isSome
  else if t.kind = vkArith then decide (t.op ≤ 0x0E) && lane
  else if t.kind = vkCompare then
    (decide (t.op ≤ 7) && (lane || t.ty == tyMask)) || (decide (0x10 ≤ t.op ∧ t.op ≤ 0x14) && (lane || t.ty == tyMask))
  else if t.kind = vkSelect ∨ t.kind = vkCompress ∨ t.kind = vkExpand then t.op == 0 && lane
  else if t.kind = vkScan then decide (t.op ≤ 2) && lane
  else if t.kind = vkReduce then decide (t.op ≤ 7) && lane && (t.op != 7 || isFloatTy t.ty)
  else if t.kind = vkLookup then decide (t.op ≤ 0x0C) && lane && isFloatTy t.ty
  else if t.kind = vkQuant then t.op == 0 && isCode t.ty
  else if t.kind = vkDequant then t.op == 0 && lane && isFloatTy t.ty
  else if t.kind = vkStore then t.op == 0 && (bankLane wide t.ty).isSome
  else false

/-- What a source code names for stage i: none if no such port, else its type; immediates take `lane`. -/
def VxDesc.srcType (d : VxDesc) (i code lane : Nat) : Option PType :=
  if code < 0x0C then if code < i then (d.stages[code]?.bind fun t => (t.ports d.wide).1) else none
  else if 0x10 ≤ code ∧ code ≤ 0x1B then
    if code - 0x10 < i then (d.stages[code - 0x10]?.bind fun t => (t.ports d.wide).2) else none
  else if code = 0x20 ∨ code = 0x22 then some ⟨lane, false⟩
  else if code = 0x21 then some ⟨if d.wide then tyU32 else tyI16, false⟩
  else none

/-- The lane type in which a stage's immediates stand. -/
def VxDesc.laneOf (d : VxDesc) (i : Nat) (t : Stage) : Nat :=
  if t.kind = vkCompare ∧ t.ty = tyMask then
    match d.srcType i t.a 0xFFF, d.srcType i t.b 0xFFF with
    | some x, some y => if x.ty = 0xFFF then y.ty else x.ty
    | some x, none => x.ty
    | none, _ => tyMask
  else if t.kind = vkStore then (bankLane d.wide t.ty).getD 0
  else t.ty

/-- Reason 2 of a source: its type (R232). -/
def VxDesc.typeOk (d : VxDesc) (i : Nat) (t : Stage) : Bool :=
  let lane := d.laneOf i t
  let ok := fun (code : Nat) (f : Nat → Bool) => match d.srcType i code lane with | some x => f x.ty | none => true
  let u := t.uses
  let need := fun (used : Bool) (code : Nat) (f : Nat → Bool) => !used || ok code f
  if t.kind = vkArith ∧ t.op = 8 then ok t.a (isLaneTy d.wide ·)
  else if t.kind = vkCompare ∧ 0x10 ≤ t.op then true
  else if t.kind = vkCompare then isLaneTy d.wide lane && ok t.a (· == lane) && need u.2.1 t.b (· == lane)
  else if t.kind = vkQuant then ok t.a fun x => isLaneTy d.wide x && isFloatTy x
  else if t.kind = vkDequant then
    ok t.a isCode && (match d.srcType i t.a lane with | some x => ok t.b (· == scaleTy x.ty) | none => true)
  else if t.kind = vkSelect then ok t.a (· == lane) && ok t.b (· == lane)
  else if t.kind = vkExpand then ok t.a (· == lane) && (t.b == 0xFF || ok t.b (· == lane))
  else need u.1 t.a (· == lane) && need u.2.1 t.b (· == lane) && need u.2.2 t.c (· == lane)

/-- Reason 3: a source that names no port, or a value where a mask is required. -/
def VxDesc.srcOk (d : VxDesc) (i : Nat) (t : Stage) : Bool :=
  let lane := d.laneOf i t
  let named := fun (code : Nat) => (d.srcType i code lane).isSome
  let isMask := fun (code : Nat) => (d.srcType i code 0).any fun x => x.ty == tyMask
  let u := t.uses
  (!u.1 || named t.a) && (!u.2.1 || named t.b || (t.kind == vkExpand && t.b == 0xFF)) && (!u.2.2 || named t.c) &&
  (t.mask == 0xFF || isMask t.mask) &&
  (t.kind != vkSelect || isMask t.c) &&
  (t.kind != vkCompare || t.op < 0x10 || (isMask t.a && (t.op == 0x14 || isMask t.b))) &&
  (t.seg == 0xFF || t.seg == 0xFE || isMask t.seg)

/-- A LOAD that is packed. -/
def VxDesc.isPackedLoad (d : VxDesc) (i : Nat) : Bool := (d.stages[i]?).any fun t => t.kind == vkLoad && t.packed

/-- Block size of the elements whose scales a LOAD or a QUANT's port carries. -/
def VxDesc.scaleBlock (d : VxDesc) (i : Nat) (ty : Nat) : Nat :=
  if ty = tyE8m0 then 32
  else
    match d.stages.find? fun t => t.kind == vkDequant && t.b == i with
    | some t => match d.stages[t.a]? with | some l => blockSize l.ty | none => 16
    | none => 16

/-- Elements in the banks for n elements of the chain: one per block for scales. -/
def VxDesc.bankElems (d : VxDesc) (i : Nat) (t : Stage) (n : Nat) : Nat :=
  if isScaleTy t.ty then
    let bs := if t.kind = vkStore then
        match d.stages[t.a - 0x10]? with | some q => blockSize q.ty | none => 16
      else d.scaleBlock i t.ty
    (n + bs - 1) / bs
  else n

/-- Bank rows of n elements. -/
def VxDesc.bankRows (d : VxDesc) (i : Nat) (t : Stage) (n : Nat) : Nat :=
  (d.bankElems i t n * bankBits t.ty + 2047) / 2048

/-- Rows a LOAD or STORE may touch, as byte spans (R259): bank rows STEP apart, a gather's elements, a packed
stream's CAP_ROWS. -/
def VxDesc.touch (d : VxDesc) (i : Nat) (t : Stage) (n : Nat) : List Stream :=
  let rows := d.bankRows i t n
  let row := fun (r : Nat) => Stream.mk 0 (t.p0 + r * t.stepBytes) 1 0 1
  if t.packed then [Stream.mk 0 t.p0 1 0 t.cap]
  else if rows = 0 then []
  else if t.kind = vkStore ∨ t.mode = 0 then [row 0, row (rows - 1)]
  else if t.mode = 4 then [Stream.mk 4 t.p0 (d.laneBits / 8) (t.p1 % 2 ^ 21) rows]
  else
    let n := transN t.mode
    [Stream.mk t.mode t.p0 1 0 n, Stream.mk t.mode (t.p0 + (rows - 1) / n * n * t.stepBytes) 1 0 n]

/-- Reason 5 of a LOAD or STORE (R237, R239): alignment, STEP, CAP_ROWS, and the clump's 16 MiB. -/
def VxDesc.addrOk (d : VxDesc) (i : Nat) (t : Stage) : Bool :=
  if t.kind = vkLoad ∨ t.kind = vkStore then
    t.p0 % 256 == 0 && (t.packed || t.mode == 4 || t.stepBytes % 256 == 0) &&
    (t.kind != vkStore || (t.mode == 0 && (t.packed || decide (256 ≤ t.stepBytes)))) &&
    (!t.packed || decide (1 ≤ t.cap)) &&
    ((d.touch i t d.elems).all fun x => decide (x.hi ≤ 2 ^ 24))
  else true

/-- Reason 6: read mode and placement (R124, R126, R236). -/
def VxDesc.modeOk (d : VxDesc) (i : Nat) (t : Stage) : Bool :=
  if t.kind ≠ vkLoad ∨ t.mode = 0 then true
  else
    bankBits t.ty == d.laneBits && !t.packed && t.mode != 1 && decide (t.mode ≤ 4) &&
    (t.mode != 3 || d.wide) && (t.mode != 2 || !d.wide) && (d.touch i t (max d.elems 1)).all Stream.placed

/-- Stages of a kind that are numbered in order. -/
def VxDesc.countOf (d : VxDesc) (f : Stage → Bool) : Nat := (d.stages.filter f).length

/-- Reason 4 of the whole chain, with the stage at fault. -/
def VxDesc.shapeFault (d : VxDesc) : Option Nat :=
  let nth := fun (f : Stage → Bool) (k : Nat) =>
    ((d.stages.zipIdx.filter fun x => f x.1)[k]?).map Prod.snd
  let per := d.stages.zipIdx.find? fun x =>
    let t := x.1
    (t.softmax && !t.p0.testBit 0) ||
    (t.kind == vkReduce && decide (4 ≤ t.op ∧ t.op ≤ 6) && !d.wide) ||
    (t.kind == vkExpand && !(decide (t.a < x.2) && d.isPackedLoad t.a))
  (nth (fun t => t.kind == vkLoad) 4).orElse fun _ => (nth (fun t => t.kind == vkStore) 4).orElse fun _ =>
    (nth Stage.broadcast 1).orElse fun _ => (per.map Prod.snd).orElse fun _ =>
    if d.countOf (fun t => t.kind == vkStore) = 0 ∧ d.resultEn = false then some 15 else none

/-- Row interval (R254). -/
def VxDesc.interval (d : VxDesc) : Nat :=
  let k := fun (f : Nat → Bool) => d.countOf fun t => f t.kind
  max 1 (max (max (k (· == vkArith) + 2 * d.countOf Stage.softmax) (k (· == vkLookup)))
    (max ((k (fun x => decide (vkCompress ≤ x ∧ x ≤ vkReduce)) + 1) / 2) (k fun x => x == vkQuant || x == vkDequant)))

/-- Latency of a stage at its largest broadcast segment (R123, R231, R246); q is the core's clump position. -/
def VxDesc.latency (d : VxDesc) (q i : Nat) (t : Stage) : Nat :=
  if t.kind = vkLoad then
    let far := (d.touch i t (max d.elems 1)).any fun x => x.positions.any (· != q)
    let base := if far then 7 else 5
    if t.mode = 0 ∨ t.packed then base + 1
    else if t.mode = 4 then
      base + ((List.range (256 / (d.laneBits / 8))).map fun k =>
        (t.p0 + k * (t.p1 % 2 ^ 21)) / 256).eraseDups.length
    else base + transN t.mode
  else if t.kind = vkArith ∨ t.kind = vkCompress ∨ t.kind = vkExpand then 4
  else if t.kind = vkCompare ∨ t.kind = vkSelect then 2
  else if t.kind = vkScan ∨ t.kind = vkLookup then 8
  else if t.kind = vkReduce then
    if t.broadcast then
      let len := if t.seg = 0xFE then t.p1 % 65536 else min 4096 d.elems
      ((len + d.lanes - 1) / d.lanes - 1) * d.interval + (if t.op = 7 then 16 else 10)
    else 8
  else if t.kind = vkStore then 0
  else 6

/-- Sources of a stage that are ports. -/
def Stage.portSrcs (t : Stage) : List Nat :=
  let u := t.uses
  (([(u.1, t.a), (u.2.1, t.b), (u.2.2, t.c), (true, t.mask), (decide (t.seg < 0x20), t.seg)].filter (·.1)).map
    Prod.snd).filterMap fun c =>
      if c < 0x0C then some c else if 0x10 ≤ c ∧ c ≤ 0x1B then some (c - 0x10) else none

/-- Cycle in which the first lane-row leaves each stage (R255). -/
def VxDesc.leaves (d : VxDesc) (q : Nat) : List Nat :=
  (d.stages.zipIdx).foldl (fun l x =>
    l ++ [(x.1.portSrcs.map fun k => l.getD k 0).foldl max 0 + d.latency q x.2 x.1]) []

/-- Reason 9: a source of stage i waits more than 128 cc. -/
def VxDesc.delayOk (d : VxDesc) (q i : Nat) (t : Stage) : Bool :=
  let l := d.leaves q
  let r := t.portSrcs.map fun k => l.getD k 0
  let _ := i
  r.all fun x => decide (r.foldl max 0 ≤ x + 128)

/-- Whether source code `code` names port `port` of a stage of a kind. -/
def VxDesc.names (d : VxDesc) (code port kind : Nat) : Bool :=
  code / 16 == port && (d.stages[code % 16]?).any fun t => t.kind == kind

/-- Rules of the chapter whose breach the table gives no reason for: sources that are missing or not 0xFF where unused
(R228), packed streams elsewhere than R239 and R242 say, codes and scales elsewhere than R229 and R251 say, WIDTH,
alignment of the two header addresses, masks of stores narrower than a byte (R238). -/
def VxDesc.otherOk (d : VxDesc) (i : Nat) (t : Stage) : Bool :=
  let u := t.uses
  let pk := fun (code : Nat) => (d.srcType i code 0).any fun x => x.packed
  let segs := t.kind == vkCompress || t.kind == vkScan || t.kind == vkReduce
  (u.1 || t.a == 0xFF) && (u.2.1 || t.b == 0xFF) && (u.2.2 || t.c == 0xFF) && !pk t.mask && !pk t.b && !pk t.c &&
  !pk t.seg && (segs || t.seg == 0xFF) && ((t.kind != vkLoad && t.kind != vkDequant) || t.mask == 0xFF) &&
  (if t.kind = vkExpand then true else if t.kind = vkStore then pk t.a == t.packed else !pk t.a) &&
  (t.kind != vkStore || !t.packed || !d.names t.a 0 vkLoad) &&
  (t.kind != vkStore || !isCode t.ty || d.names t.a 0 vkQuant) &&
  (t.kind != vkStore || !isScaleTy t.ty || d.names t.a 1 vkQuant) &&
  (t.kind != vkDequant || (d.names t.a 0 vkLoad && d.names t.b 0 vkLoad)) &&
  (t.kind != vkStore || 8 ≤ bankBits t.ty || t.mask == 0xFF)

/-- Reason and stage for which a chain is rejected (R262), lowest reason first (log 22); 0 for none, 256 where the
table gives no reason. -/
def VxDesc.reason (d : VxDesc) (b : List Byte) (q : Nat) (static : Bool) : Nat × Nat :=
  let at_ := fun (bad : Nat → Stage → Bool) => (d.stages.zipIdx.find? fun x => bad x.2 x.1).map Prod.snd
  if d.kind ≠ 2 ∨ d.count = 0 ∨ 12 < d.count then (1, 15)
  else
    match at_ fun i t => !t.legal d.wide || !d.typeOk i t with
    | some i => (2, i)
    | none =>
      match at_ fun i t => !d.srcOk i t with
      | some i => (3, i)
      | none =>
        match d.shapeFault with
        | some i => (4, i)
        | none =>
          match at_ fun i t => !d.addrOk i t with
          | some i => (5, i)
          | none =>
            if 2 ^ 24 < d.elemsPtr + 4 ∧ d.elemsPtr < 2 ^ 24 ∨ 2 ^ 24 < d.result + 64 ∧ d.result < 2 ^ 24 then (5, 15)
            else
              match at_ fun i t => !d.modeOk i t with
              | some i => (6, i)
              | none =>
                match at_ fun _ t => static && t.broadcast && decide (t.seg < 0xFE) with
                | some i => (7, i)
                | none =>
                  if static = true ∧ d.fromPtr = true then (7, 15)
                  else if d.control / 16 ≠ 0 ∨ leNat (slice b 0x10 48) ≠ 0 ∨ 4194304 < d.elems ∨ d.round = 3 ∨
                      (d.fromPtr = false ∧ d.elemsPtr ≠ 0) ∨ (d.resultEn = false ∧ d.result ≠ 0) ∨
                      2 ^ 24 ≤ d.elemsPtr ∨ 2 ^ 24 ≤ d.result ∨
                      leNat (slice b (64 + 16 * d.count) (192 - 16 * d.count)) ≠ 0 then (8, 15)
                  else
                    match at_ fun _ t => ((t.kind == vkLoad || t.kind == vkStore) && decide (2 ^ 24 ≤ t.p0)) ||
                        ((decide (vkCompress = t.kind ∨ vkScan = t.kind ∨ vkReduce = t.kind)) && t.seg == 0xFE &&
                          !decide (1 ≤ t.p1 % 65536 ∧ t.p1 % 65536 ≤ 4096)) with
                    | some i => (8, i)
                    | none =>
                      match at_ fun i t => !d.delayOk q i t with
                      | some i => (9, i)
                      | none =>
                        if 1 < d.width ∨ d.elemsPtr % 4 ≠ 0 ∨ d.result % 64 ≠ 0 then (256, 15)
                        else match at_ fun i t => !d.otherOk i t with
                          | some i => (256, i)
                          | none => (0, 0)

/-- Ranges declared in scoreboard mode (R259). -/
def VxDesc.ranges (d : VxDesc) : List (Nat × Nat × Nat) :=
  let all := fun (k : Nat) => nonEmpty ((d.stages.zipIdx.filter fun x => x.1.kind == k).map fun x =>
    d.touch x.2 x.1 d.elems).flatten
  let r := fun (kind : Nat) (ts : List Stream) (extra : List (Nat × Nat)) =>
    match (ts.map fun t => (t.base, t.hi)) ++ extra with
    | [] => []
    | x :: xs =>
      let y := xs.foldl (fun a u => (min a.1 u.1, max a.2 u.2)) x
      [(kind, y.1 / 256, (y.2 - 1) / 256)]
  (if d.countOf (fun t => t.kind == vkLoad) = 0 then []
   else r 1 (all vkLoad) (if d.fromPtr then [(d.elemsPtr, d.elemsPtr + 4)] else [])) ++
  r 0 (all vkStore) (if d.resultEn then [(d.result, d.result + 64)] else [])

/-! ### Lane arithmetic (R233 to R235) -/

def laneFmt (ty : Nat) : Fmt := if ty = fcBf16 then fmtBf16 else if ty = fcF16 then fmtF16 else fmtF32

/-- Value of a lane: a float's, or an integer's. -/
def laneVal (ty x : Nat) : FV :=
  if isFloatTy ty then (laneFmt ty).decode x
  else
    let w := bankBits ty
    let v := if ty = tyU32 ∨ ty = tyU16 ∨ ty = tyU8 then ((x % 2 ^ w : Nat) : Int) else toSigned w x
    .fin (decide (v < 0)) v.natAbs 1 0

/-- A two's complement code of w bits. -/
def ofInt (w : Nat) (v : Int) : Nat := (v % (2 ^ w : Nat)).toNat

/-- A value made an integer, rounded by `r` and saturated; NaN is 0 (R234). -/
def fvToInt (r : Round) (ty : Nat) (v : FV) : Nat :=
  let w := bankBits ty
  let lo : Int := if ty = tyU32 then 0 else -(2 ^ (w - 1) : Nat)
  let hi : Int := if ty = tyU32 then (2 ^ w : Nat) - 1 else (2 ^ (w - 1) : Nat) - 1
  match v with
  | .nan => 0
  | .inf n => ofInt w (if n then lo else hi)
  | .fin n m d e =>
    let nd := scaleTo m d e 0
    let k : Int := (r.quot nd.1 nd.2 : Nat)
    ofInt w (max lo (min hi (if n then -k else k)))

/-- A lane value converted to a lane type: floats by `r`, float to integer toward zero (R234). -/
def convLane (r : Round) (from_ dst x : Nat) : Nat :=
  if isFloatTy dst then
    (laneFmt dst).toIeee (if isFloatTy from_ then r else .nearest) (laneVal from_ x)
  else if isFloatTy from_ then fvToInt .zero dst (laneVal from_ x)
  else x

/-- `a < b` with −0.0 below +0.0 (R233). -/
def totLt (a b : FV) : Bool :=
  a.lt b || (match a, b with | .fin true 0 _ _, .fin false 0 _ _ => true | _, _ => false)

/-- Integer operation of an ARITH stage, wrapping. -/
def intOp (op ty a b c : Nat) : Nat :=
  let w := bankBits ty
  let sh := b % (if w = 16 then 16 else 32)
  let s := fun (x : Nat) => toSigned w x
  let v := fun (x : Nat) => if ty = tyU32 then ((x % 2 ^ w : Nat) : Int) else toSigned w x
  ofInt w (match op with
    | 0 => s a + s b
    | 1 => s a - s b
    | 2 => s a * s b
    | 3 => s a * s b + s c
    | 4 => if v b < v a then s b else s a
    | 5 => if v a < v b then s b else s a
    | 6 => if v a < 0 then -s a else s a
    | 7 => -s a
    | 9 => (Nat.land a b : Nat)
    | 10 => (Nat.lor a b : Nat)
    | 11 => (Nat.xor a b : Nat)
    | 12 => (a * 2 ^ sh : Nat)
    | 13 => (a % 2 ^ w / 2 ^ sh : Nat)
    | 14 => s a / (2 ^ sh : Nat)
    | _ => s a)

/-- Floating-point operation of an ARITH stage (R233): computed exactly and rounded to FP32, from there to a 16-bit lane's
type. -/
def fltOp (op ty a b c : Nat) : Nat :=
  let f := laneFmt ty
  let x := f.decode a
  let y := f.decode b
  let z := f.decode c
  let sign := 2 ^ (f.ew + f.mw)
  let rnd := fun (v : FV) => f.toIeee .nearest (ofF32 (toF32 v))
  match op with
  | 0 => rnd (x.add y)
  | 1 => rnd (x.add y.neg)
  | 2 => rnd (x.mul y)
  | 3 => rnd ((x.mul y).add z)
  | 4 => if x.isNan || y.isNan then f.nanCode else if totLt y x then b else a
  | 5 => if x.isNan || y.isNan then f.nanCode else if totLt x y then b else a
  | 6 => if x.isNan then f.nanCode else a % sign
  | 7 => if x.isNan then f.nanCode else (a + sign) % (2 * sign)
  | _ => intOp op (if f.mw = 23 then tyI32 else tyI16) a b c

/-- A comparison (R235). -/
def cmpOp (op ty a b : Nat) : Bool :=
  let x := laneVal ty a
  let y := laneVal ty b
  let n := x.isNan || y.isNan
  match op with
  | 0 => !n && !x.lt y && !y.lt x
  | 1 => n || x.lt y || y.lt x
  | 2 => x.lt y
  | 3 => !n && !y.lt x
  | 4 => y.lt x
  | 5 => !n && !x.lt y
  | 6 => x.isNan
  | 7 => x == .inf true || x == .inf false
  | 0x10 => a == 1 && b == 1
  | 0x11 => a == 1 || b == 1
  | 0x12 => a != b
  | 0x13 => a == 1 && b == 0
  | _ => a == 0

/-! ### Evaluation of a chain -/

/-- Ports and effects gathered stage by stage: values of both ports, result words, stores, flags and counts. -/
structure VxWork where
  ports : List (List Nat × List Nat) := []
  words : List Nat := []
  stores : List (Nat × List Byte) := []
  flags : Nat := 0
  draws : Nat := 0
  nanOut : Nat := 0
  sat : Nat := 0
  t2Bad : Nat := 0
  deriving DecidableEq, Repr

/-- What a stage sees: the state, core, descriptor, element count, its number and the free values' salt. -/
structure VxEnv where
  s : State
  p : Nat
  d : VxDesc
  n : Nat
  i : Nat
  seed : Nat

def VxEnv.free (v : VxEnv) (e : Nat) : Nat := v.s.draw (2 ^ 50 + v.i * 2 ^ 32 + e)

/-- The n values of a source (R228). -/
def VxWork.src (w : VxWork) (v : VxEnv) (t : Stage) (code : Nat) : List Nat :=
  if code < 0x0C then (w.ports.getD code ([], [])).1
  else if 0x10 ≤ code ∧ code ≤ 0x1B then (w.ports.getD (code - 0x10) ([], [])).2
  else if code = 0x20 then List.replicate v.n (t.p0 % 2 ^ v.d.laneBits)
  else if code = 0x21 then (List.range v.n).map (· % 2 ^ v.d.laneBits)
  else List.replicate v.n 0

/-- The active elements of a stage. -/
def VxWork.act (w : VxWork) (v : VxEnv) (t : Stage) : List Bool :=
  if t.mask = 0xFF then List.replicate v.n true else (w.src v t t.mask).map (· == 1)

/-- Element indices of each segment (R243). -/
def VxWork.segments (w : VxWork) (v : VxEnv) (t : Stage) : List (List Nat) :=
  if t.seg = 0xFF then [List.range v.n]
  else if t.seg = 0xFE then
    let l := max 1 (t.p1 % 65536)
    chunks l ((v.n + l - 1) / l) (List.range v.n)
  else
    (((w.src v t t.seg).zipIdx.take v.n).foldl (fun (a : List (List Nat)) x =>
      match a with
      | [] => [[x.2]]
      | g :: gs => if x.1 = 1 then [x.2] :: g :: gs else (g ++ [x.2]) :: gs) []).reverse

def VxWork.put (w : VxWork) (p0 p1 : List Nat) (word : Nat) : VxWork :=
  { w with ports := w.ports ++ [(p0, p1)], words := w.words ++ [word] }

def setFlag (flags i : Nat) (on : Bool) : Nat := if on then setBit flags i else flags

/-- Address of a bank element for a LOAD or STORE: element e of `epr` per bank row. -/
def bankAddr (d : VxDesc) (t : Stage) (bits e : Nat) : Nat :=
  let epr := 2048 / bits
  let r := e / epr
  let o := e % epr * bits / 8
  if t.packed then t.p0 + r * 256 + o
  else if t.kind = vkLoad ∧ t.mode = 4 then
    (Stream.mk 4 t.p0 (d.laneBits / 8) (t.p1 % 2 ^ 21) 0).addr (r * 256 + o)
  else if t.kind = vkLoad ∧ t.mode ≠ 0 then
    let n := transN t.mode
    (Stream.mk t.mode (t.p0 + r / n * n * t.stepBytes) 1 0 0).addr (r % n * 256 + o)
  else t.p0 + r * t.stepBytes + o

/-- A narrower integer extended, a narrower float widened (R236). -/
def widen (wide : Bool) (ty x : Nat) : Nat :=
  if isCode ty || isScaleTy ty || ty == tyMask then x
  else if wide ∧ (ty = fcBf16 ∨ ty = fcF16) then fmtF32.toIeee .nearest ((laneFmt ty).decode x)
  else if ty = tyI8 ∨ ty = tyI16 then ofInt (if wide then 32 else 16) (toSigned (bankBits ty) x)
  else x

/-- Bank rows a LOAD reads: a row once each, a gather's distinct rows per lane-row, transposed blocks whole. -/
def loadRows (v : VxEnv) (t : Stage) (rows : Nat) : Nat :=
  if t.mode = 4 then
    ((List.range rows).map fun r => ((List.range (256 / (v.d.laneBits / 8))).map fun k =>
      (t.p0 + r * (v.d.laneBits / 8) + k * (t.p1 % 2 ^ 21)) / 256).eraseDups.length).sum
  else if t.mode = 0 then rows
  else (rows + transN t.mode - 1) / transN t.mode * transN t.mode

/-- LOAD (R236, R237, R239). -/
def VxWork.load (w : VxWork) (v : VxEnv) (t : Stage) : VxWork :=
  let bits := bankBits t.ty
  let cnt := if t.packed then min v.n (t.cap * (2048 / bits)) else v.d.bankElems v.i t v.n
  let one := fun (e : Nat) =>
    let a := bankAddr v.d t bits e
    let x := if bits < 8 then (v.s.engByte v.p a).toNat / 2 ^ (e * bits % 8) % 2 ^ bits
      else leNat ((List.range (bits / 8)).map fun k => v.s.engByte v.p (a + k))
    widen v.d.wide t.ty x
  w.put ((List.range cnt).map one) [] (if t.packed then 0 else loadRows v t (v.d.bankRows v.i t v.n))

/-- A NaN lane of a lane type. -/
def isNanLane (ty x : Nat) : Bool := isFloatTy ty && ((laneFmt ty).decode x).isNan

/-- Results of an arithmetic or lookup stage noted: NaN results, and the flag for NaNs from other inputs (R260). -/
def VxWork.noteNan (w : VxWork) (ty : Nat) (xs : List (Bool × Bool × Nat)) (p1 : List Nat) : VxWork :=
  let nans := xs.filter fun x => x.1 && isNanLane ty x.2.2
  let w := { w with flags := setFlag w.flags 8 (nans.any fun x => !x.2.1) }
  w.put (xs.map fun x => x.2.2) p1 nans.length

/-- ARITH (R230, R233, R234). -/
def VxWork.arith (w : VxWork) (v : VxEnv) (t : Stage) : VxWork :=
  let u := t.uses
  let as := w.src v t t.a
  let bs := if u.2.1 then w.src v t t.b else as
  let cs := if u.2.2 then w.src v t t.c else as
  let from_ := ((v.d.srcType v.i t.a t.ty).map PType.ty).getD t.ty
  let draws := v.d.round == 1 && t.op == 8 && isFloatTy from_ && from_ != t.ty
  let one := fun (e : Nat) (act : Bool) (a b c : Nat) =>
    if !act then a
    else if t.op = 8 then
      if from_ = t.ty ∧ isNanLane t.ty a = false then a
      else convLane (if from_ = t.ty then .nearest else roundOf v.d.round v.seed (w.draws + e)) from_ t.ty a
    else if isFloatTy t.ty then fltOp t.op t.ty a b c
    else intOp t.op t.ty a b c
  let inNan := fun (a b c : Nat) => isNanLane from_ a || (u.2.1 && isNanLane t.ty b) || (u.2.2 && isNanLane t.ty c)
  let xs := (List.range v.n).map fun e =>
    let act := (w.act v t).getD e false
    let a := as.getD e 0
    let b := bs.getD e 0
    let c := cs.getD e 0
    (act, inNan a b c, one e act a b c)
  let w := { w with draws := if draws then w.draws + v.n else w.draws }
  w.noteNan t.ty xs []

/-- COMPARE (R235); an inactive lane passes a mask operand, and has a free bit where its operand is a value. -/
def VxWork.compare (w : VxWork) (v : VxEnv) (t : Stage) : VxWork :=
  let as := w.src v t t.a
  let bs := w.src v t t.b
  let ty := v.d.laneOf v.i t
  let xs := (List.range v.n).map fun e =>
    let a := as.getD e 0
    if (w.act v t).getD e false then (true, (cmpOp t.op ty a (bs.getD e 0)).toNat)
    else (false, if 0x10 ≤ t.op then a else v.free e % 2)
  w.put (xs.map Prod.snd) [] (xs.filter fun x => x.1 && x.2 == 1).length

/-- SELECT. -/
def VxWork.select (w : VxWork) (v : VxEnv) (t : Stage) : VxWork :=
  let as := w.src v t t.a
  let bs := w.src v t t.b
  let cs := w.src v t t.c
  w.put ((List.range v.n).map fun e =>
    if (w.act v t).getD e false ∧ cs.getD e 0 = 0 then bs.getD e 0 else as.getD e 0) [] 0

/-- COMPRESS (R241): the kept elements, and the bits at the first kept element of each segment. -/
def VxWork.compress (w : VxWork) (v : VxEnv) (t : Stage) : VxWork :=
  let as := w.src v t t.a
  let act := w.act v t
  let kept := (List.range v.n).filter fun e => act.getD e false
  let firsts := (w.segments v t).filterMap fun g => g.find? fun e => act.getD e false
  let starts := if t.seg = 0xFF then [] else kept.map fun e => (firsts.contains e).toNat
  w.put (kept.map fun e => as.getD e 0) starts kept.length

/-- EXPAND (R242) of a packed LOAD, whose rows it counts; beyond CAP_ROWS zeros are supplied (R239). -/
def VxWork.expand (w : VxWork) (v : VxEnv) (t : Stage) : VxWork :=
  let as := w.src v t t.a
  let bs := if t.b = 0xFF then List.replicate v.n 0 else w.src v t t.b
  let act := w.act v t
  let r := (List.range v.n).foldl (fun (a : List Nat × Nat) e =>
    if act.getD e false then (a.1 ++ [as.getD a.2 0], a.2 + 1) else (a.1 ++ [bs.getD e 0], a.2)) ([], 0)
  let ld := v.d.stages[t.a]?
  let epr := match ld with | some l => 2048 / bankBits l.ty | none => 64
  let cap := match ld with | some l => l.cap * epr | none => 0
  let used := (min r.2 cap + epr - 1) / epr
  let w := { w with flags := setFlag w.flags 5 (decide (cap < r.2)), words := w.words.set t.a used }
  w.put r.1 [] r.2

/-- FP32 sum or product of values in a free order (R244, R245), rounded once to the type. -/
def foldFree (v : VxEnv) (salt ty : Nat) (mul : Bool) (xs : List Nat) : Nat :=
  let vs := xs.map fun x => toF32 (laneVal ty x)
  let order := freeOrder (fun i => v.free (salt * 8192 + i + 2 ^ 24)) vs.length
  let r := match order.map fun i => vs.getD i 0 with
    | [] => if mul then toF32 fvOne else 0
    | x :: l => l.foldl (fun a b => if mul then f32Mul a b else f32Add a b) x
  if isFloatTy ty then (laneFmt ty).toIeee .nearest (ofF32 r) else fvToInt .nearest ty (ofF32 r)

/-- Largest or smallest of some lanes with their index; NaN wins, ties go to the lowest index (R245). -/
def extreme (ty : Nat) (isMax : Bool) : List (Nat × Nat) → Option (Nat × Nat)
  | [] => none
  | x :: l =>
    match extreme ty isMax l with
    | none => some x
    | some y =>
      if isNanLane ty x.1 then some x else if isNanLane ty y.1 then some y
      else
        let lt := totLt (laneVal ty x.1) (laneVal ty y.1)
        let gt := totLt (laneVal ty y.1) (laneVal ty x.1)
        if (if isMax then lt else gt) then some y else some x

/-- −∞ or +∞ of a lane type; an integer type has none, the value is free. -/
def infLane (ty : Nat) (neg : Bool) (free : Nat) : Nat :=
  if isFloatTy ty then (laneFmt ty).toIeee .nearest (.inf neg) else free % 2 ^ bankBits ty

/-- SCAN (R244). -/
def VxWork.scan (w : VxWork) (v : VxEnv) (t : Stage) : VxWork :=
  let as := w.src v t t.a
  let act := w.act v t
  let excl := t.p0.testBit 0
  let run := fun (e : Nat) (xs : List Nat) =>
    if t.op = 0 then
      if isFloatTy t.ty then foldFree v e t.ty false xs
      else ofInt (bankBits t.ty) ((xs.map fun x => toSigned (bankBits t.ty) x).sum)
    else match extreme t.ty (t.op == 1) (xs.map fun x => (x, 0)) with
      | some y => if isNanLane t.ty y.1 then (laneFmt t.ty).nanCode else y.1
      | none => infLane t.ty (t.op == 1) (v.free e)
  let outs := ((w.segments v t).map fun g => g.zipIdx.map fun x =>
    let upto := (g.take (if excl then x.2 else x.2 + 1)).filter fun e => act.getD e false
    run x.1 (upto.map fun e => as.getD e 0)).flatten
  w.put outs [] (v.free (2 ^ 31))

/-- A segment's reduction (R245, R247): result and index. -/
def reduceSeg (v : VxEnv) (t : Stage) (g : List Nat) (as : List Nat) (act : List Bool) : Nat × Nat :=
  let xs := g.zipIdx.filter fun x => act.getD x.1 false
  let salt := g.headD 0
  let vals := xs.map fun x => as.getD x.1 0
  let ext := fun (isMax : Bool) =>
    match extreme t.ty isMax (xs.map fun x => (as.getD x.1 0, x.2)) with
    | some y => if isNanLane t.ty y.1 then ((laneFmt t.ty).nanCode, y.2) else y
    | none => (infLane t.ty isMax (v.free salt), 0xFFFFFFFF)
  match t.op with
  | 0 => (foldFree v salt t.ty false vals, 0)
  | 1 => (foldFree v salt t.ty true vals, 0)
  | 2 => ext true
  | 3 => ext false
  | 4 => (if isFloatTy t.ty then (laneFmt t.ty).toIeee .nearest (.fin false xs.length 1 0) else xs.length, 0)
  | 5 => ext true
  | _ => ext false

/-- SOFTMAX of a segment (R248): its outputs and the flag it raises, 0 for none. -/
def softmaxSeg (v : VxEnv) (t : Stage) (g : List Nat) (as : List Nat) (act : List Bool) : List Nat × Nat :=
  let f := laneFmt t.ty
  let x := fun (e : Nat) => f.decode (as.getD e 0)
  let live := g.filter fun e => act.getD e false
  let z0 := f.toIeee .nearest FV.zero
  if live.any fun e => (x e).isNan then (g.map fun _ => f.nanCode, 3)
  else if live.all fun e => x e == .inf true then (g.map fun _ => z0, 1)
  else
    let k := (live.filter fun e => x e == .inf false).length
    if k ≠ 0 then
      let one := f.toIeee .nearest (ofF32 (toF32 (.fin false 1 k 0)))
      (g.map fun e => if act.getD e false && x e == .inf false then one else z0, 2)
    else
      let m := live.foldl (fun a e => if a.lt (x e) then x e else a) (.inf true)
      let ex := fun (e : Nat) => match x e with | .inf _ => FV.zero | y => fxExp (fxOf (y.add m.neg))
      let s := live.foldl (fun a e => a.add (ex e)) FV.zero
      (g.map fun e =>
        if act.getD e false && x e != .inf true then
          f.toIeee .nearest (fmtF32.decode (fmtF32.nearBy ((ex e).div s) 4 (v.free e)))
        else z0, 0)

/-- REDUCE (R245 to R248). -/
def VxWork.reduce (w : VxWork) (v : VxEnv) (t : Stage) : VxWork :=
  let as := w.src v t t.a
  let act := w.act v t
  let segs := w.segments v t
  if t.op = 7 then
    let outs := segs.map fun g =>
      if 4096 < g.length then (g.map fun _ => (laneFmt t.ty).nanCode, 4) else softmaxSeg v t g as act
    let flags := outs.foldl (fun fl o => setFlag fl o.2 (o.2 != 0)) w.flags
    let w := { w with flags }
    w.put (outs.map Prod.fst).flatten [] segs.length
  else
    let res := segs.map fun g => (reduceSeg v t g as act, g)
    let empty := segs.any fun g => g.all fun e => !act.getD e false
    let w := { w with flags := setFlag w.flags 0 empty }
    if t.broadcast then
      let tooLong := fun (g : List Nat) => decide (4096 < g.length)
      let bad := if t.op = 4 then 0xFFFFFFFF else if isFloatTy t.ty then (laneFmt t.ty).nanCode
        else v.free (2 ^ 30) % 2 ^ bankBits t.ty
      let w := { w with flags := setFlag w.flags 4 (segs.any tooLong) }
      w.put ((res.map fun r => r.2.map fun _ => if tooLong r.2 then bad else r.1.1).flatten)
        ((res.map fun r => r.2.map fun _ => if tooLong r.2 then 0xFFFFFFFF else r.1.2).flatten) segs.length
    else w.put (res.map fun r => r.1.1) (res.map fun r => r.1.2) segs.length

/-- LOOKUP (R249). -/
def VxWork.lookup (w : VxWork) (v : VxEnv) (t : Stage) : VxWork :=
  let as := w.src v t t.a
  let f := laneFmt t.ty
  let xs := (List.range v.n).map fun e =>
    let a := as.getD e 0
    let act := (w.act v t).getD e false
    (act, isNanLane t.ty a, if act then Sys2Proof.Machine.lookup f t.op (f.decode a) (v.free e) else a)
  w.noteNan t.ty xs []

/-- The largest finite magnitude among values as FP32, infinity if one is infinite (R252). -/
def amaxWord (vs : List FV) : Nat := (tileAmax vs).toNat

/-- A T2 element code of a value under a scale (R159, R250): rounded, saturated to the codes there are (log 24). -/
def t2Elem (ternary : Bool) (r : Round) (v : FV) (free : Nat) : Nat × Bool :=
  match v with
  | .nan => (free % 4, false)
  | .inf n => (if n then (if ternary then 3 else 2) else 1, true)
  | .fin n m d e =>
    let nd := scaleTo m d e 0
    let k := r.quot nd.1 nd.2
    if n then
      if ternary then (if k = 0 then 0 else 3, decide (nd.2 < nd.1))
      else (if k = 0 then 0 else if k = 1 then 3 else 2, decide (2 * nd.2 < nd.1))
    else (if k = 0 then 0 else 1, decide (nd.2 < nd.1))

/-- The computed scale of a T2 block: amax rounded toward +∞ to E4M3 (R250). -/
def t2Scale (vs : List FV) : Nat :=
  if vs.any FV.isNan then 0x7F
  else
    let a := blockAmax vs
    match a with
    | .fin _ 0 _ _ => 0
    | _ => ((List.range 0x7F).find? fun c => !(fmtE4M3.decode c).lt a).getD 0x7E

/-- QUANT (R250, R252). -/
def VxWork.quant (w : VxWork) (v : VxEnv) (t : Stage) : VxWork :=
  let from_ := ((v.d.srcType v.i t.a 0).map PType.ty).getD fcF32
  let act := w.act v t
  let vals := (w.src v t t.a).zipIdx.map fun x => if act.getD x.2 false then laneVal from_ x.1 else FV.zero
  let bs := blockSize t.ty
  let blocks := chunks bs ((v.n + bs - 1) / bs) vals
  let scales := blocks.map fun b =>
    if t.p0.testBit 8 then t.p0 % 256 else if t.ty = fcT2 then t2Scale b else computedScale t.ty b
  let codes : List (Nat × Bool) := ((blocks.zip scales).zipIdx.map fun b => b.1.1.zipIdx.map fun x =>
    let e := b.2 * bs + x.2
    let r := roundOf v.d.round v.seed (w.draws + e)
    if act.getD e false = false then (0, false)
    else if t.ty = fcT2 then
      let sv := scaleValue fcT2 b.1.2
      if sv.isNan then (0, false) else t2Elem (t.p0.testBit 9) r (x.1.div sv) (v.free e)
    else
      let c := convElem t.ty b.1.2 r (v.free e) x.1
      (c.1, c.2.1)).flatten
  let sat := (codes.filter fun c => c.2).length
  let w := { w with draws := if v.d.round = 1 then w.draws + v.n else w.draws, sat := w.sat + sat,
                    flags := setFlag w.flags 7 (sat != 0) }
  w.put (codes.map Prod.fst) scales
    (amaxWord ((vals.zipIdx.filter fun x => act.getD x.2 false).map Prod.fst))

/-- DEQUANT (R251, R252). -/
def VxWork.dequant (w : VxWork) (v : VxEnv) (t : Stage) : VxWork :=
  let fc := ((v.d.srcType v.i t.a 0).map PType.ty).getD fcE4M3
  let cs := w.src v t t.a
  let sc := w.src v t t.b
  let outs : List (FV × Bool) := cs.zipIdx.map fun x =>
    let ev := elemValue fc (t.p0.testBit 0) x.1
    (ev.1.mul (scaleValue fc (sc.getD (x.2 / blockSize fc) 0)), ev.2)
  let lanes := outs.map fun o => (laneFmt t.ty).toIeee .nearest o.1
  let bad := (outs.filter fun o => o.2).length
  let w := { w with t2Bad := w.t2Bad + bad }
  w.put lanes []
    (amaxWord (lanes.map (laneVal t.ty ·)))

/-- A lane stored in a bank format: floats narrowed by ROUND; an integer outside a narrower format has no stated result
and is free. -/
def narrow (v : VxEnv) (t : Stage) (lane e draw x : Nat) : Nat :=
  if isCode t.ty || isScaleTy t.ty || t.ty == tyMask then x
  else if isFloatTy t.ty then
    if lane = t.ty then x else (laneFmt t.ty).toIeee (roundOf v.d.round v.seed draw) (laneVal lane x)
  else
    let wb := bankBits t.ty
    if bankBits lane = wb then x
    else
      let fits := if t.ty = tyU16 ∨ t.ty = tyU8 then decide (x < 2 ^ wb)
        else decide (ofInt (bankBits lane) (toSigned wb x) = x)
      if fits then x % 2 ^ wb else v.free e % 2 ^ wb

/-- STORE (R237 to R241). -/
def VxWork.store (w : VxWork) (v : VxEnv) (t : Stage) : VxWork :=
  let lane := (bankLane v.d.wide t.ty).getD fcF32
  let bits := bankBits t.ty
  let xs := w.src v t t.a
  let act := w.act v t
  let narrowing := v.d.round == 1 && isFloatTy t.ty && lane != t.ty
  let cs := xs.zipIdx.map fun x => narrow v t lane x.2 (w.draws + x.2) x.1
  let room := t.cap * (2048 / bits)
  let nans := if isFloatTy lane then
    (xs.zipIdx.filter fun x => (if t.packed then decide (x.2 < room) else act.getD x.2 false) && isNanLane lane x.1).length
    else 0
  let w := { w with draws := if narrowing then w.draws + cs.length else w.draws, nanOut := w.nanOut + nans }
  if t.packed then
    -- whole lane-rows: the partial one is flushed with zeros
    let full := (cs.length + v.d.lanes - 1) / v.d.lanes * v.d.lanes
    let bs := packCodes bits (cs ++ List.replicate (full - cs.length) 0)
    let overflow := decide (t.cap * 256 < bs.length)
    let bs := bs.take (t.cap * 256)
    let w := { w with stores := w.stores ++ [(t.p0, bs)], flags := setFlag w.flags 5 overflow }
    w.put [] [] (ceilRows bs.length)
  else if bits < 8 then
    let epr := 2048 / bits
    let rows := (cs.length + epr - 1) / epr
    let st := (chunks epr rows cs).zipIdx.map fun r => (t.p0 + r.2 * t.stepBytes, packCodes bits r.1)
    let w := { w with stores := w.stores ++ st }
    w.put [] [] rows
  else
    let live := cs.zipIdx.filter fun x => if isScaleTy t.ty then true else act.getD x.2 false
    let st := live.map fun x => (bankAddr v.d t bits x.2, leBytes (bits / 8) x.1)
    let w := { w with stores := w.stores ++ st }
    w.put [] [] ((live.map fun x => x.2 / (2048 / bits)).eraseDups.length)

/-- One stage. -/
def VxWork.stage (w : VxWork) (v : VxEnv) (t : Stage) : VxWork :=
  if t.kind = vkLoad then w.load v t
  else if t.kind = vkArith then w.arith v t
  else if t.kind = vkCompare then w.compare v t
  else if t.kind = vkSelect then w.select v t
  else if t.kind = vkCompress then w.compress v t
  else if t.kind = vkExpand then w.expand v t
  else if t.kind = vkScan then w.scan v t
  else if t.kind = vkReduce then w.reduce v t
  else if t.kind = vkLookup then w.lookup v t
  else if t.kind = vkQuant then w.quant v t
  else if t.kind = vkDequant then w.dequant v t
  else w.store v t

/-- The element count of a chain and whether it was clamped (R226). -/
def VxDesc.elemCount (d : VxDesc) (s : State) (p : Nat) : Nat × Bool :=
  if d.fromPtr then
    let n := leNat ((List.range 4).map fun k => s.engByte p (d.elemsPtr + k))
    if d.elems < n then (d.elems, true) else (n, false)
  else (d.elems, false)

/-- A chain run over its elements. -/
def VxDesc.eval (d : VxDesc) (s : State) (p : Nat) : VxWork :=
  let ec := d.elemCount s p
  let c := s.core p
  d.stages.zipIdx.foldl (fun w x =>
    w.stage { s, p, d, n := ec.1, i := x.2, seed := c.vxSeed } x.1)
    { draws := c.vxDraws, flags := if ec.2 then 2 ^ 6 else 0 }

/-- The result record (R260); CYCLES is a free value, since the model has no cycle times (log 1). -/
def resultRecord (flags n : Nat) (words : List Nat) (cycles : Nat) : List Byte :=
  leBytes 4 flags ++ leBytes 4 n ++ ((List.range 12).map fun i => leBytes 4 (words.getD i 0)).flatten ++
    leBytes 4 cycles ++ leBytes 4 0

/-- Clump positions a chain reads. -/
def VxDesc.positions (d : VxDesc) (n : Nat) : List Nat :=
  (((d.stages.zipIdx.filter fun x => x.1.kind == vkLoad).map fun x =>
      let rows := d.bankRows x.2 x.1 n
      if x.1.packed ∨ x.1.mode ≠ 0 then (d.touch x.2 x.1 n).map Stream.positions
      else (List.range rows).map fun r => [clumpPos (x.1.p0 + r * x.1.stepBytes)]).flatten.flatten ++
    (if d.fromPtr then [clumpPos d.elemsPtr] else [])).eraseDups

/-- A chain's start with its results computed (R255, R261). -/
def State.vxRunDesc (s : State) (p : Nat) (q : QDesc) (d : VxDesc) : State :=
  let n := (d.elemCount s p).1
  let w := d.eval s p
  let stores := w.stores ++ if d.resultEn then [(d.result, resultRecord w.flags n w.words (s.draw (2 ^ 52)))] else []
  let rows := (n + d.lanes - 1) / d.lanes
  let s := ((s.setFld (F.vxeStatusBusy p) 1).setFld (F.vxeStatusTag p) q.tag).setFld (F.vxeStatusInterval p) d.interval
  let s := (s.setFld (F.vxeStatusStages p) d.count).setFld (F.vxeStatusRow p) 0
  let s := (s.addFld (F.vxeRows p) rows).setFld (F.vxeFlags p) (s.fld (F.vxeFlags p) ||| w.flags)
  let s := ((s.addFld (F.vxeNanOut p) w.nanOut).addFld (F.vxeQuantSat p) w.sat).addFld (F.vxeT2Bad p) w.t2Bad
  let c := s.core p
  (s.setCore p { c with vxq := c.vxq.drop 1, vxRun := some { desc := q, stores, rows }, vxDraws := w.draws }).drew

end Sys2Proof.Machine
end

