-- ==== Sys2Proof/Machine/Issue.lean ====
section
/-! DEFINITION. ISSUE, the SB instructions, and the completion of engine descriptors (R87 to R104, R137 to R141, R183,
R192, R256, R262). -/

namespace Sys2Proof.Machine

/-- Ranges a queued descriptor declares, with its SOURCE code in a scoreboard entry (R140, R184, R259). -/
def State.declared (s : State) (p : Nat) (q : QDesc) : Nat × List (Nat × Nat × Nat) :=
  if (s.core p).mxq.any fun x => x.seq == q.seq then (1, (MxDesc.ofBytes q.bytes).ranges)
  else (2, (VxDesc.ofBytes q.bytes).ranges)

/-- The next fetched descriptor whose ranges are not entered, in program order (R103). -/
def State.nextToEnter (s : State) (p : Nat) : Option QDesc :=
  let c := s.core p
  ((c.mxq ++ c.vxq).filter fun q => !q.entered).foldl (fun a q =>
    match a with
    | some b => if q.seq < b.seq then some q else a
    | none => some q) none

/-- A queued descriptor marked as entered. -/
def markEntered (seq : Nat) (l : List QDesc) : List QDesc := l.map fun q => if q.seq = seq then { q with entered := true } else q

/-- Fetched descriptors enter their ranges in program order while entries are free; one that finds too few waits (R102,
R103). -/
def State.enterDescs (s : State) (p : Nat) : Nat → State
  | 0 => s
  | n + 1 =>
    match s.nextToEnter p with
    | none => s
    | some q =>
      let r := s.declared p q
      if s.sbFreeCount p < r.2.length then s
      else
        let s := s.enterOne p q.seq r.1 q.tag r.2
        let c := s.core p
        (s.setCore p { c with mxq := markEntered q.seq c.mxq, vxq := markEntered q.seq c.vxq }).enterDescs p n

/-- Whether a fetched descriptor of a core waits for entries (R103). -/
def State.sbWaits (s : State) (p : Nat) : Bool :=
  s.fld (F.corStatusMode p) != 0 && (s.nextToEnter p).any fun q => decide (s.sbFreeCount p < (s.declared p q).2.length)

/-- The scoreboard of a core after entries were freed: DMA entries that wait come first (R138). -/
def State.sbFreed (s : State) (p : Nat) : State :=
  let s := s.dmaEnterAll p
  if s.fld (F.corStatusMode p) = 0 then s else s.enterDescs p 17

/-- M_ACTIVE of the accumulator that the matrix engine will hold when it reaches a new descriptor (R170). -/
def State.heldFor (s : State) (p : Nat) : Option Nat :=
  let c := s.core p
  match c.mxq.getLast? with
  | some q => let d := MxDesc.ofBytes q.bytes; if d.keep then some d.m else none
  | none => c.heldAcc.map AccSt.rows

/-- A reason code, free where the table gives none. -/
def State.reasonCode (s : State) (r : Nat) : Nat := if r = 256 then s.draw 1 % 256 else r

/-- ISSUE (R87 to R91): the address is checked, the descriptor fetched and decoded, and put last in its engine's queue. An
address with bits [31:24] set is outside the core's own banks (log 26). `port` is what the engine's fetch met (R128,
R142, R143). -/
def execIssue (c : CoreNo) (eng : Fin 2) (tag : Fin 64) (notify barrier : Bool) (sa : SReg) (imm : BitVec 10)
    (port : PortEvent) (s : State) : Host.Outcome State Fault Refusal :=
  .next <| match s.sqAt c (encIssue eng.val tag.val notify.toNat barrier.toNat sa.val imm.toNat) csRunning with
    | none => s
    | some p =>
      let a := (s.sreg p sa.val + BitVec.ofNat 32 (imm.toNat * 64)).toNat
      let size := if eng.val = 0 then 128 else 256
      let x := s.core p
      let static := s.fld (F.corStatusMode p) == 0
      if a % 64 ≠ 0 ∨ a / coreBytes ≠ posOf p ∨ coreBytes < a % coreBytes + size then s.fatal p erDescAddr
      else if 8 ≤ (if eng.val = 0 then x.mxq else x.vxq).length then s.addFld (F.corIssueFull p) 1
      else
        let met := s.port p (eng.val + 1) p true port
        let s := met.1
        let x := s.core p
        let bytes := s.readCore p (a % coreBytes) size
        let q : QDesc := { seq := x.nextSeq, tag := tag.val, notify, barrier, pc := s.pc p, bytes, entered := false }
        if met.2 then s.fatal p erHw
        else if eng.val = 0 then
          let r := (MxDesc.ofBytes bytes).reason bytes (s.heldFor p)
          if r ≠ 0 then
            (((s.setFld (F.mxeLastErrorReason p) (s.reasonCode r)).setFld (F.mxeLastErrorTag p) tag.val).drew).fatal p
              erDescriptor
          else ((s.setCore p { x with mxq := x.mxq ++ [q], nextSeq := x.nextSeq + 1 }).nextPc p).sbFreed p
        else
          let r := (VxDesc.ofBytes bytes).reason bytes (posOf p) static
          if r.1 ≠ 0 then
            ((((s.setFld (F.vxeLastErrorReason p) (s.reasonCode r.1)).setFld (F.vxeLastErrorTag p) tag.val).setFld
              (F.vxeLastErrorStage p) r.2).drew).fatal p erDescriptor
          else ((s.setCore p { x with vxq := x.vxq ++ [q], nextSeq := x.nextSeq + 1 }).nextPc p).sbFreed p

/-! ### SB -/

/-- SB.CLAIM (R95, R96): a range entered, its entry index in SD; without a free entry it stalls and counts. KIND 2 and 3
are no encodings of it and are illegal (log 25). -/
def execSbClaim (c : CoreNo) (kind : Fin 4) (sa sb sd : SReg) (s : State) : Host.Outcome State Fault Refusal :=
  .next <| match s.sqAt c (encSb 0 kind.val sa.val sb.val sd.val) csRunning with
    | none => s
    | some p =>
      let a := (s.sreg p sa.val).toNat
      let len := (s.sreg p sb.val).toNat
      if 2 ≤ kind.val then s.fatal p erIllegal
      else if s.fld (F.corStatusMode p) = 0 ∨ len = 0 ∨ 2 ^ 24 < a + len then s.fatal p erSbRange
      else
        match s.sbFree p with
        | none => s.addFld (F.corSbStall p) 1
        | some i =>
          ((s.sbEnter p i kind.val 0 0 0 (a / 256) ((a + len - 1) / 256) none).setSreg p sd.val
            (BitVec.ofNat 32 i)).nextPc p

/-- SB.RELEASE frees the entry that s[SA] [4:0] names (R95). -/
def execSbRelease (c : CoreNo) (sa : SReg) (s : State) : Host.Outcome State Fault Refusal :=
  .next <| match s.sqAt c (encSb 1 0 sa.val 0 0) csRunning with
    | none => s
    | some p =>
      if s.fld (F.corStatusMode p) = 0 then s.fatal p erSbRange
      else ((s.sbRelease p ((s.sreg p sa.val).toNat % 32)).nextPc p).sbFreed p

/-- SB.TEST writes the mask of live entries (R95). -/
def execSbTest (c : CoreNo) (sd : SReg) (s : State) : Host.Outcome State Fault Refusal :=
  .next <| match s.sqAt c (encSb 2 0 0 0 sd.val) csRunning with
    | none => s
    | some p =>
      if s.fld (F.corStatusMode p) = 0 then s.fatal p erSbRange
      else (s.setSreg p sd.val (BitVec.ofNat 32 (s.sbMask p))).nextPc p

/-! ### Start of a descriptor -/

/-- What follows the start of descriptor x on a unit: its read ranges are released, for this model reads every operand at
the start (R104; log 78); denied and failed reads are fatal at its ISSUE (R78, R143). -/
def State.startMet (s : State) (p unit : Nat) (x : QDesc) (met : List (Fin 4 × PortEvent)) (denied : Bool) : State :=
  let e := ((s.sbReleaseReads p x.seq).sbFreed p).ports p unit true met
  if denied then e.1.fatalAt p erClump x.pc else if e.2 then e.1.fatalAt p erHw x.pc else e.1

/-- MXE_DESC_START: the descriptor at the head of the matrix queue starts when order and scoreboard allow, also while the
output of the one before it drains (R91, R102, R185, R191); `met` is what its reads met (R128, R142, R143). -/
def execMxeDescStart (c : CoreNo) (met : List (Fin 4 × PortEvent)) (s : State) : Host.Outcome State Fault Refusal :=
  .next <| match s.phys c.val with
    | none => s
    | some p =>
      match (s.core p).mxq, (s.core p).mxDrain with
      | x :: _, none =>
        let d := MxDesc.ofBytes x.bytes
        if s.mayStart p x d.ranges then
          let m := s.meetClump p d.positions x.pc
          (m.1.mxRunDesc p x d).startMet p 1 x met m.2
        else s
      | _, _ => s

/-- VXE_CHAIN_START: the chain at the head of the vector queue starts when order and scoreboard allow (R91, R102,
R257); `met` is what its reads met. -/
def execVxeChainStart (c : CoreNo) (met : List (Fin 4 × PortEvent)) (s : State) : Host.Outcome State Fault Refusal :=
  .next <| match s.phys c.val with
    | none => s
    | some p =>
      match (s.core p).vxq, (s.core p).vxRun with
      | x :: _, none =>
        let d := VxDesc.ofBytes x.bytes
        if s.mayStart p x d.ranges then
          let m := s.meetClump p (d.positions (d.elemCount s p).1) x.pc
          (m.1.vxRunDesc p x d).startMet p 2 x met m.2
        else s
      | _, _ => s

/-! ### Completion -/

/-- Rows in which stores leave bytes of a 32-bit word unwritten and write others (R122). -/
def mergeRows (xs : List (Nat × List Byte)) : List Nat :=
  let bytes := (xs.filter fun x => x.1 % 4 != 0 || x.2.length % 4 != 0).flatMap fun x =>
    (List.range x.2.length).map (x.1 + ·)
  let words := (bytes.map (· / 4)).eraseDups
  ((words.filter fun w => !((List.range 4).all fun k => bytes.contains (4 * w + k))).map (· / 64)).eraseDups

/-- The clump row a read error lies in. -/
def rowMet (x : Fin 4 × PortEvent) : Option Nat :=
  match x.2 with
  | .corrected b r _ => some (x.1.val * 16384 + b.val * 1024 + r.val)
  | .uncorrectable b r _ => some (x.1.val * 16384 + b.val * 1024 + r.val)
  | _ => none

/-- Whether an event is an uncorrectable error. -/
def isUe (x : Fin 4 × PortEvent) : Bool := match x.2 with | .uncorrectable _ _ _ => true | _ => false

/-- A descriptor's stores land (R78, R79, R122, R131, R143): each fenced neighbour is an error, a denied one or a merge read's
uncorrectable error a fatal one. A write meets read errors in the rows it merges only, and one that merges a lost row is
dropped. -/
def State.landRun (s : State) (p unit : Nat) (r : RunDesc) (met : List (Fin 4 × PortEvent)) : State :=
  let merged := mergeRows r.stores
  let met := met.filter fun x => (rowMet x).all merged.contains
  let lost := (met.filter isUe).filterMap rowMet
  let m := s.meetClump p (storePositions r.stores) r.desc.pc
  let e := m.1.ports p unit true met
  let s := e.1.landStores p (r.stores.filter fun x => !lost.contains (x.1 / 256))
  if m.2 then s.fatalAt p erClump r.desc.pc else if e.2 then s.fatalAt p erHw r.desc.pc else s

/-- What every completion does: the stores land, the entries are released, the tag is noted, DONE is set if NOTIFY was,
and a stopped core may become idle (R104, R114, R192, R256). -/
def State.descDone (s : State) (p unit : Nat) (r : RunDesc) (met : List (Fin 4 × PortEvent)) (event : Nat) : State :=
  let s := s.landRun p unit r met
  let s := (s.sbReleaseOwner p (.inl r.desc.seq)).setFld (F.corLastTag p) r.desc.tag
  let s := if r.desc.notify then s.signal p event else s
  (s.sbFreed p).drainCheck p

/-- The matrix descriptor that completes next: the one that drains, else the one that runs, which leaves its accumulator
held; with the core after it. -/
def CoreSt.mxNext (c : CoreSt) : Option (RunDesc × CoreSt) :=
  match c.mxDrain with
  | some r => some (r, { c with mxDrain := none })
  | none => c.mxRun.map fun r => (r, { c with mxRun := none, acc := r.acc })

/-- MXE_DESC_COMPLETE (R192): BLOCK and A_SOURCE stay as the last descriptor left them (log 77). -/
def execMxeDescComplete (c : CoreNo) (met : List (Fin 4 × PortEvent)) (s : State) : Host.Outcome State Fault Refusal :=
  .next <| match s.phys c.val with
    | none => s
    | some p =>
      match (if s.coreState p = csFrozen ∨ s.clocksOff then none else (s.core p).mxNext) with
      | none => s
      | some (r, k) =>
        let d := MxDesc.ofBytes r.desc.bytes
        let s := s.setCore p k
        let s := (s.addFld (F.mxeDescs p) 1).addFld (F.mxeMacs p) (d.m * 64 * d.k * d.n)
        let s := s.addFld (F.mxeStallCc p) r.stall
        let s := if k.mxRun.isSome then s
          else ((s.setFld (F.mxeStatusBusy p) 0).setFld (F.mxeStatusBlock p) (d.n - 1)).setFld (F.mxeStatusASource p)
            (if d.fits then 2 else 3)
        (s.descDone p 1 r met 0).unitWork

/-- VXE_CHAIN_COMPLETE (R256). -/
def execVxeChainComplete (c : CoreNo) (met : List (Fin 4 × PortEvent)) (s : State) : Host.Outcome State Fault Refusal :=
  .next <| match s.phys c.val with
    | none => s
    | some p =>
      match (if s.coreState p = csFrozen ∨ s.clocksOff then none else (s.core p).vxRun) with
      | none => s
      | some r =>
        let s := s.setCore p { s.core p with vxRun := none }
        let s := (s.addFld (F.vxeDescs p) 1).setFld (F.vxeStatusBusy p) 0
        let s := s.setFld (F.vxeStatusRow p) (r.rows - 1)
        (s.descDone p 2 r met 1).unitWork

end Sys2Proof.Machine
end

