-- ==== Sys2Proof/Machine/Dma.lean ====
section
/-! DEFINITION. DMA engines and channels: descriptors, beats, funnel, CRC, failures, completion, pause (R316 to R337),
and the writes of held records (R580). -/

namespace Sys2Proof.Machine

/-- Whether an address the DMA issues passes R48 and R50. -/
def State.dmaAddrOk (s : State) (a : Nat) : Bool :=
  (addrSpace a == 0 || decide (addrPos a ≤ 11)) && (if s.isLocal a then s.layoutOk a else s.remoteLayoutOk a)

/-- Both ends of a range of bytes. -/
def State.dmaRangeOk (s : State) (a n : Nat) : Bool :=
  s.dmaAddrOk a && s.dmaAddrOk (a + n - 1) && addrSpace a == addrSpace (a + n - 1) && addrDie a == addrDie (a + n - 1)

/-- The checks of R322; the must-be-0 fields include those that the settings do not use (R320). -/
def State.dmaCheck (s : State) (c : Nat) (b : List Byte) : Bool :=
  let ctl := dmCtl b
  let sf := dmSrcFixed b
  let df := dmDstFixed b
  let w := dmWidth b
  let ss := addrSpace (dmSrc b)
  let ds := addrSpace (dmDst b)
  let fixed := sf || df
  decide (0 < dmLen b) && decide (ctl < 2 ^ 14) && zerosAt b 50 14 && decide (bitsAt ctl 4 2 ≤ 1) &&
    decide (bitsAt ctl 6 2 ≤ 1) && bitsAt ctl 8 2 != 3 && dmCrc b != 3 && !(sf && df) && !(dmFunnel b && fixed) &&
    (fixed || bitsAt ctl 8 2 == 0) && (dmCrc b != 0 || (!ctl.testBit 13 && dmCrcDest b == 0)) &&
    (ds == 5 || dmSeason b == 0) &&
    (ss == 0 || ss == 1) && (ds == 0 || ds == 1 || ds == 2 || ds == 3 || ds == 5) &&
    (!(ds == 2 || ds == 3) || (df && bitsAt ctl 8 2 == 0)) &&
    (if fixed then dmSrc b % w == 0 && dmDst b % w == 0 && dmLen b % w == 0
     else dmFunnel b || dmSrc b % 256 == dmDst b % 256) &&
    (!dmFunnel b || s.bit (F.dmaChCtlFunnelEn (c / 64) (c % 64))) &&
    (dmCrcDest b == 0 || (dmCrcDest b % 8 == 0 && s.dmaAddrOk (dmCrcDest b) &&
      (addrSpace (dmCrcDest b) == 0 || (addrSpace (dmCrcDest b) == 1 && s.isLocal (dmCrcDest b))))) &&
    (dmNotify b == 0 || (addrSpace (dmNotify b) == 2 && dmNotify b % 64 == 0 && s.dmaAddrOk (dmNotify b))) &&
    (if sf then s.dmaRangeOk (dmSrc b) w
     else if df then s.dmaRangeOk (dmSrc b) (dmLen b)
     else s.dmaRangeOk (dmSrc b / 256 * 256) ((dmSrc b % 256 + dmLen b + 255) / 256 * 256)) &&
    s.dmaRangeOk (dmDst b) (if df then w else dmLen b)

/-! ### Links (R326) -/

/-- The link's traffic carries no season tags (R406). -/
def State.link2x (s : State) (i : Nat) : Bool := s.fld (F.lnkVersionAgreed i) / 16 == 2

/-- TAG of a descriptor's packets (R382). -/
def dmTagOf (c idx : Nat) : Nat := c / 64 * 2 ^ 12 + c % 64 * 2 ^ 6 + idx % 64

/-- The clump of a local space-1 address. -/
def State.clumpOfAddr (s : State) (a : Nat) : Option Nat :=
  if addrSpace a = 1 ∧ s.isLocal a then (s.phys (addrOff a / coreBytes)).map clumpOf else none

/-- The base link of a descriptor of channel c: of the clump that holds its local end's first byte, or its channel's own; the
next one up if that is down. -/
def State.dmaBaseLink (s : State) (c : Nat) (b : List Byte) : Option Nat :=
  s.baseFrom (((s.clumpOfAddr (dmSrc b)).orElse fun _ => s.clumpOfAddr (dmDst b)).getD (3 * (c / 64) + c % 64 % 3))

/-- The descriptor link of channel c. -/
def State.dmaLink (s : State) (c : Nat) (b : List Byte) : Option Nat :=
  let dst := dmDst b
  let peers := (List.range 6).filterMap fun k =>
    if addrSpace dst != 0 && !s.isLocal dst && s.peerLeadsTo (addrDie dst) (24 + k) then some (24 + k) else none
  match peers with
  | [i] => some i
  | i :: j :: _ => some (if i % 2 = c % 2 then i else j)
  | [] => s.dmaBaseLink c b

/-- The base link of each clump, as a descriptor finds them when it starts (R326). -/
def State.basePaths (s : State) : List (Nat × Nat) :=
  (List.range 24).filterMap fun cl => (s.baseFrom cl).map fun i => (cl, i)

/-- The link of the read of beat k (R326), for a non-local source: the base link of the clump it fills, or the descriptor
link; package memory is read over base links alone (R47). -/
def State.dmaReadLink (s : State) (r : DmaRun) (k : Nat) : Option Nat :=
  let b := r.bytes
  let own := if addrSpace (dmSrc b) = 0 then r.base0 else r.link
  if s.isLocal (dmDst b) then
    match s.clumpOfAddr (dmDst b + if dmDstFixed b then 0 else (dmPart b k).1) with
    | some cl => tfind r.paths cl
    | none => own
  else own

/-! ### Scoreboard entries (R137, R139) -/

/-- Entries a descriptor waits for are entered where there is room; each that still waits counts a cycle (R139). -/
def State.dmaEnter (s : State) (c : Nat) : State :=
  match (s.chan c).run with
  | none => s
  | some r =>
    let s := r.sbPend.foldl (fun s p => s.dmaEnterOne c p) s
    (((s.chan c).run.map DmaRun.sbPend).getD []).foldl (fun s p => s.addFld (F.spdDmaSbWait p) 1) s

/-- Whether writes of a channel to a core are still under way. -/
def State.dmaWaitsIn (s : State) (c p : Nat) : Bool :=
  (s.routers.any fun r => r.2.opens.any fun o =>
    match o.load with
    | .write q w => q == p && w.from_ == .dma c
    | _ => false) || (s.core p).inbox.any fun w => w.from_ == .dma c

/-- Entries whose part has landed are released. -/
def State.dmaRelease (s : State) (c : Nat) : State :=
  match (s.chan c).run with
  | none => s
  | some r =>
    let done := r.sbLive.filter fun p =>
      match s.dmaPartIn r.bytes p, s.logical p with
      | some (_, hi), some l =>
        let need := if dmDstFixed r.bytes then dmLen r.bytes else l * coreBytes + hi - (s.dmaBase r.bytes).getD 0
        decide (need ≤ r.written) && !s.dmaWaitsIn c p
      | _, _ => true
    done.foldl (fun s p => (s.sbReleaseOwner p (.inr c)).sbFreed p)
      (s.setChan c { s.chan c with run := some { r with sbLive := r.sbLive.filter fun p => !done.contains p } })

/-! ### Writing -/

/-- One write of a channel's data at an address (R327, R331). `cl` is the clump its data comes from. -/
def State.dmaWrite (s : State) (c cl a : Nat) (data : List Byte) : State :=
  match (s.chan c).run with
  | none => s
  | some r =>
    let b := r.bytes
    let before := r.written
    let s := s.setChan c { s.chan c with run := some { r with written := before + data.length } }
    let wrote := fun (s : State) => s.addFld (F.dmaChBytes (c / 64) (c % 64)) data.length
    let s := s.setFld (F.dmaChDst (c / 64) (c % 64)) (if dmDstFixed b then dmDst b else a + data.length)
    let season := if addrSpace a = 5 then some (dmSeason b) else none
    let note := fun (x : State × Nat) =>
      if x.2 = stOk then wrote x.1
      else x.1.dmaFail c x.2 (if x.2 = stHwFault then 0 else 0xFF000000) (some before) false
    if addrSpace a = 2 then (wrote s).issueBinder a (leNat data) (.dma c)
    else if s.isLocal a then
      if addrSpace a = 1 then note (s.coreWrite none cl a data (.dma c) 0)
      else if addrSpace a = 3 then note (s.doorbell (doorbellCtx a) (a % 64) (leNat data))
      else note (s.windowWrite none cl a data season (.dma c) 0)
    else
      match r.link with
      | none => s.dmaFail c stHwFault 0 (some before) false
      | some i =>
        if s.linkUp i then
          (wrote s).sendOn i 0 (.write (dmTagOf c r.idx) (if s.link2x i then none else season) false a data)
        else s.dmaFail c stHwFault 0 (some before) false

/-- The CRC register after more bytes (R332). -/
def crcMore (kind raw : Nat) (data : List Byte) : Nat :=
  if kind = 1 then crc32cRaw raw data else if kind = 2 then crc64Raw raw data else 0

/-- Rows that the bytes at hand complete are written, at most n. -/
def State.dmaFlush (s : State) (c cl : Nat) : Nat → State
  | 0 => s
  | n + 1 =>
    match (s.chan c).run with
    | none => s
    | some r =>
      let b := r.bytes
      let a := if dmDstFixed b then dmDst b else dmDst b + r.written
      let m := if dmDstFixed b ∨ dmSrcFixed b then dmWidth b else min (256 - a % 256) (dmLen b - r.written)
      if m = 0 ∨ r.carry.length < m then s
      else
        let s := s.setChan c { s.chan c with run := some { r with carry := r.carry.drop m } }
        (s.dmaWrite c cl a (r.carry.take m)).dmaFlush c cl n

/-- Where a beat after a gap is written (R334): at its own place, in pieces within rows. -/
def State.dmaPieces (s : State) (c cl a : Nat) (data : List Byte) (fixed : Bool) : State :=
  if fixed then s.dmaWrite c cl a data
  else
    let m := 256 - a % 256
    let s := s.dmaWrite c cl a (data.take m)
    if (data.drop m).isEmpty then s else s.dmaWrite c cl (a + m) (data.drop m)

/-- Returned beats at the head of the outstanding reads are written in source order (R319). -/
def State.dmaPump (s : State) (c : Nat) : Nat → State
  | 0 => s
  | n + 1 =>
    match (s.chan c).run with
    | none => s
    | some r =>
      match r.out with
      | [] => s
      | o :: rest =>
        let b := r.bytes
        let cl := match o.link with
          | some i => adapterClump i
          | none => (s.clumpOfAddr (dmRead b o.beat).1).getD 0
        let set := fun (s : State) (r : DmaRun) => s.setChan c { s.chan c with run := some r }
        if o.lost then
          let s := set s { r with out := rest, gap := true, carry := [] }
          let s := if r.carry.isEmpty then s else s.dmaPieces c cl (dmDst b + r.written) r.carry false
          s.dmaPump c n
        else
          match o.data with
          | none => s
          | some data =>
            if r.gap then
              let a := if dmDstFixed b then dmDst b else dmDst b + (dmPart b o.beat).1
              ((set s { r with out := rest }).dmaPieces c cl a data (dmDstFixed b || dmSrcFixed b)).dmaPump c n
            else
              let f := F.dmaChCrc (c / 64) (c % 64)
              let s := s.setFld f (crcMore (dmCrc b) (s.fld f) data)
              ((set s { r with out := rest, carry := r.carry ++ data }).dmaFlush c cl 66).dmaPump c n

/-! ### Completion (R328, R329, R334, R335) -/

/-- A channel halts (R335). -/
def State.haltChan (s : State) (c status idx : Nat) : State :=
  let q := s.fld (F.dmaChStatusQueue (c / 64) (c % 64))
  (s.setChState c chHalted).emitQ q svWarning 5 status 0x0500 c q idx

/-- The channel's state once its descriptor is over. -/
def State.dmaAfter (s : State) (c : Nat) (r : DmaRun) : State :=
  let st := match r.failed with
    | some (x, _) => x
    | none => stOk
  let s := (s.setFld (F.dmaChStatusLastStatus (c / 64) (c % 64)) st).setFld (F.dmaChStatusRetries (c / 64) (c % 64)) 0
  let x := s.chan c
  let s := s.setChan c { x with run := none, pauseAfter := false, crcKind := dmCrc r.bytes }
  if (s.queue r.ring).destroying then s.setChState c chPaused
  else if r.halts ∨ (s.fld F.fltDmaEngFailed).testBit (c / 64) then s.haltChan c st r.idx
  else if s.chState c = chPausing ∨ s.chState c = chPaused ∨ x.pauseAfter then s.setChState c chPaused
  else s.setChState c chIdle

/-- The CRC value as records and CRC_DEST hold it. -/
def crcValue (kind raw : Nat) : Nat := if kind = 1 then raw ^^^ 0xFFFFFFFF else raw

/-- A write of the channel's own: the CRC, or the word that clears OWN; with the status it met at its issue. Into this die's
banks it goes as the die's own writes do, in the order of R134, or behind the engine entries it must wait for (R138). -/
def State.dmaOwnWrite (s : State) (c a : Nat) (data : List Byte) (core : Option Nat) (link : Option Nat) (idx : Nat) :
    State × Nat :=
  let into := fun (s : State) (p : Nat) =>
    match s.meetCore p with
    | .error st => (s.notePd p st, st)
    | .ok s =>
      let w : InWrite := { seq := s.inSeq, off := a % coreBytes, data, from_ := .dma c }
      ((s.ownWrite p (a % coreBytes) data (.dma c) (s.power p == pwLeaf && !s.dmaWriteWaits p w)).1, stOk)
  match core with
  | some p => into s p
  | none =>
    if s.isLocal a then
      match s.phys (addrOff a / coreBytes) with
      | some p => into s p
      | none => (s, stBadParam)
    else
      match link.orElse fun _ => s.linkForAddr a with
      | some i => (s.sendOn i 0 (.write (dmTagOf c idx) none false a data), stOk)
      | none => (s, stHwFault)

/-- Step k of the completion issued, steps without anything to do passed over: 2 the CRC, 3 the record, 4 the cleared
OWN with the advance of HEAD, 5 the arrive, 6 the end. -/
def State.dmaStep (s : State) (c k : Nat) : Nat → State
  | 0 => s
  | n + 1 =>
    match (s.chan c).run with
    | none => s
    | some r =>
      let b := r.bytes
      let e := c / 64
      let j := c % 64
      let ok := r.failed.isNone
      let s := s.setChan c { s.chan c with run := some { r with step := k } }
      let value := if dmCrc b = 0 then 0 else crcValue (dmCrc b) (s.fld (F.dmaChCrc e j))
      if k = 2 then
        if ok ∧ dmCrcDest b ≠ 0 then
          let w := s.dmaOwnWrite c (dmCrcDest b) (leBytes 8 value) none r.base0 r.idx
          if w.2 = stOk then w.1
          else (w.1.dmaFail c w.2 (if w.2 = stHwFault then 0 else 0xFF000000) none false).dmaStep c 3 n
        else s.dmaStep c 3 n
      else if k = 3 then
        if ok ∧ ¬ (dmCtl b).testBit 2 then s.dmaStep c 4 n
        else
          let st := match r.failed with
            | some x => x
            | none => (stOk, 0)
          let moved := if ok then dmLen b else r.lead.getD r.written
          let x : CRec := { kind := 0, halted := r.halts, retries := min r.retries 7, status := st.1, ring := r.idx, origin := r.ring }
          s.postRecord r.ring { x with engine := e, channel := j, tag := dmTag b, value := value, bytes := moved, fault := st.2 }
      else if k = 4 then
        let s := (s.setFld (F.queHead r.ring) (r.idx + 1)).addFld (F.queEntries r.ring) 1
        (s.dmaOwnWrite c (s.slotAddr r.ring r.idx 64) (leBytes 4 (dmCtl b - dmCtl b % 2)) (s.queue r.ring).ringCore none r.idx).1
      else if k = 5 then
        if ok ∧ dmNotify b ≠ 0 then s.issueBinder (dmNotify b) 0 .notify else s.dmaStep c 6 n
      else s.dmaAfter c r

/-- Whether a channel has nothing outstanding and nothing under way in this die. -/
def State.dmaQuiet (s : State) (c : Nat) (r : DmaRun) : Bool :=
  r.out.isEmpty && !s.underWay.any fun w => w.from_ == .dma c

/-- Address and bytes of the read-back: the last row written, or the fixed destination (R328). -/
def dmBack (b : List Byte) : Nat × Nat :=
  if dmDstFixed b then (dmDst b, dmWidth b)
  else
    let lo := max ((dmDst b + dmLen b - 1) / 256 * 256) (dmDst b)
    (lo, dmDst b + dmLen b - lo)

/-- A descriptor moves on when its data is all written, or it has failed and drained: to its read-back, or to its record
(R328, R334). -/
def State.dmaAdvance (s : State) (c : Nat) : State :=
  let s := s.dmaRelease c
  match (s.chan c).run with
  | none => s
  | some r =>
    if 2 ≤ r.step then s
    else if r.failed.isSome then
      let s := ((List.range 96).filter fun p => (s.dmaPartIn r.bytes p).isSome).foldl (fun s p => s.sbFreed p) s
      if s.dmaQuiet c r then s.dmaStep c 3 8 else s
    else if r.step = 0 ∧ s.chState c = chActive ∧ dmBeats r.bytes ≤ r.beat ∧ r.out.isEmpty ∧ dmLen r.bytes ≤ r.written then
      let s := s.setChan c { s.chan c with run := some { r with step := 1 } }
      let s := s.setChState c chReadback
      let b := r.bytes
      match r.link with
      | some i =>
        if s.isLocal (dmDst b) then s
        else if s.linkUp i then
          let season := if addrSpace (dmDst b) = 5 ∧ ¬ s.link2x i then some (dmSeason b) else none
          s.sendOn i 0 (.readback (dmTagOf c r.idx) season (dmBack b).1 (dmBack b).2)
        else (s.dmaFail c stHwFault 0 none false).dmaStep c 3 8
      | none => s
    else s

/-- The read-back answered with a status (R328). -/
def State.dmaReadback (s : State) (c status fault : Nat) : State :=
  match (s.chan c).run with
  | none => s
  | some r =>
    if r.step ≠ 1 then s
    else if status = stOk then s.dmaStep c 2 8
    else (s.dmaFail c status fault none false).dmaStep c 3 8

/-! ### Meanings -/

/-- DMA_DESCRIPTOR_START (R321, R322, R326, R137): the channel takes the descriptor at HEAD; `desc` is what the read of
a ring that is not in this die's scratchpad brought, `port` what the bank of one that is met (R142, R143). -/
def execDmaDescriptorStart (e : EngNo) (j : ChanNo) (desc : Fetched) (port : PortEvent) (s : State) :
    Host.Outcome State Fault Refusal :=
  let c := e.val * 64 + j.val
  let q := s.fld (F.dmaChStatusQueue e.val j.val)
  let x := s.chan c
  .next <|
    if s.chState c ≠ chIdle ∨ s.clocksOff ∨ x.run.isSome ∨ x.ownStop ∨ s.ringUsed q = 0 ∨ (s.queue q).destroying ∨
      (s.queue q).held ≠ [] ∨ s.ringFenced q ∨ (s.fld F.fltDmaEngFailed).testBit e.val then s
    else
      let idx := s.fld (F.queHead q)
      -- a core below Leaf that holds the ring is woken, and the descriptor waits for it (R148)
      let met := match (s.queue q).ringCore with
        | some p => (match s.meetCore p with | .ok t => (t, stOk) | .error st => (s.notePd p st, st))
        | none => (s, stOk)
      let s := met.1
      let off := s.slotAddr q idx 64 % coreBytes
      -- and an earlier write to the descriptor's row lands first (R134)
      let waits := match (s.queue q).ringCore with
        | some p => decide (met.2 = stOk ∧ (s.power p ≠ pwLeaf ∨ s.rowBusy p (off / 256)))
        | none => false
      let read := match (s.queue q).ringCore with
        | some p => if met.2 = stOk ∧ ¬ waits then s.port p 3 p true (unscheduledPort port) else (s, false)
        | none => (s, false)
      let s := read.1
      let got := match (s.queue q).ringCore with
        | some p => if read.2 then Except.error stHwFault else if met.2 = stOk then Except.ok (s.readCore p off 64) else .error met.2
        | none =>
          match desc with
          | .ok data => .ok (slice data 0 64)
          | .rejected st => .error st.toNat
      if waits then s
      else match got with
      | .error st =>
        -- the manual states nothing of a descriptor read that is rejected: the channel halts, HEAD stays (log 28)
        s.haltChan c st idx
      | .ok b =>
        if ¬ (dmCtl b).testBit 0 then
          (s.setChan c { x with ownStop := true }).setFld (F.queStatusOwnMiss q) 1
        else
          let f := F.dmaChCrc e.val j.val
          let fresh := ¬ ((dmCtl b).testBit 13 ∧ x.crcKind = dmCrc b ∧ dmCrc b ≠ 0)
          let s := if fresh then s.setFld f (if dmCrc b = 1 then 0xFFFFFFFF else 0) else s
          let s := ((s.setFld (F.dmaChSrc e.val j.val) (dmSrc b)).setFld (F.dmaChDst e.val j.val) (dmDst b)).setFld
            (F.dmaChRemain e.val j.val) (dmLen b)
          let s := (s.setChState c chActive).setFld (F.dmaChStatusRetries e.val j.val) 0
          let start := fun (s : State) (r : DmaRun) => s.setChan c { s.chan c with run := some r }
          let r : DmaRun := { ring := q, idx, bytes := b }
          if !s.dmaCheck c b then
            let bad := [dmSrc b, dmDst b, dmCrcDest b, dmNotify b].filter fun a => addrSpace a == 6 || addrSpace a == 7
            let s := s.addFld F.fltBadSpace bad.length
            (((start s r).dmaFail c stBadParam 0 (some 0) false).dmaAdvance c).unitWork
          else
            let needs := !s.isLocal (dmDst b) || !s.isLocal (dmSrc b)
            let link := if needs then s.dmaLink c b else none
            if needs ∧ link = none then (((start s r).dmaFail c stHwFault 0 (some 0) false).dmaAdvance c).unitWork
            else
              let pend := (List.range 96).filter fun p =>
                (s.dmaPartIn b p).isSome && (match s.kernelOn p with | some k => k.scoreboard | none => false)
              (start s { r with link, paths := s.basePaths, base0 := s.dmaBaseLink c b, sbPend := pend }).dmaEnter c

/-- Whether a channel can issue a beat (R317, R319, R336). -/
def State.dmaReady (s : State) (c buffered : Nat) : Bool :=
  match (s.chan c).run with
  | none => false
  | some r =>
    s.chState c == chActive && r.failed.isNone && decide (r.beat < dmBeats r.bytes) && decide (r.out.length < 256) &&
      decide (buffered < 2048) && r.sbPend.isEmpty && !r.rest &&
      !(s.links.any fun l => l.2.bheld.any fun m => m.froms.any fun o => o == .dma c)

/-- Return buffer rows an engine has reserved (R319). -/
def State.dmaBuffered (s : State) (e : Nat) : Nat :=
  ((s.chans.filter fun x => x.1 / 64 == e).map fun x =>
    match x.2.run with
    | some r => r.out.length
    | none => 0).sum

/-- The next beat of a channel issued (R317, R326): a read queued at a core of this die, or a READ on a link. -/
def State.dmaIssue (s : State) (c : Nat) : State :=
  match (s.chan c).run with
  | none => s
  | some r =>
    let b := r.bytes
    let k := r.beat
    let a := (dmRead b k).1
    let n := (dmRead b k).2
    let f := F.dmaChSrc (c / 64) (c % 64)
    let done := (dmPart b k).1 + (dmPart b k).2
    let s := s.setFld f (if dmSrcFixed b then dmSrc b else dmSrc b + done)
    let s := (s.setFld (F.dmaChRemain (c / 64) (c % 64)) (dmLen b - done)).addFld (F.dmaEngBeats (c / 64)) 1
    let cl := match r.link with
      | some i => if s.isLocal (dmDst b) then s.clumpOfAddr (dmDst b + (dmPart b k).1) else some (adapterClump i)
      | none => s.clumpOfAddr (dmDst b + if dmDstFixed b then 0 else (dmPart b k).1)
    let put := fun (s : State) (link : Option Nat) =>
      s.setChan c { s.chan c with run := some { r with beat := k + 1, out := r.out ++ [{ beat := k, link }], rest := dmFunnel b } }
    if s.isLocal a then
      match s.phys (addrOff a / coreBytes) with
      | none => s
      | some p =>
        match s.meetCore p with
        | .error st => ((put s none).notePd p st).dmaFail c st 0xFF000000 none false
        | .ok s => (put s none).acceptRead none (cl.getD (clumpOf p)) p (addrOff a % coreBytes) n (.dma c k)
    else
      match s.dmaReadLink r k with
      | none => (put s none).dmaFail c stHwFault 0 none false
      | some i => (put s (some i)).sendOn i 1 (.read (dmTagOf c r.idx) a n)

/-- Beats lost with their issue are marked, so that the rest drains. -/
def State.dmaLose (s : State) (c k : Nat) : State :=
  match (s.chan c).run with
  | none => s
  | some r =>
    let out := r.out.map fun o => if o.beat = k then { o with lost := true } else o
    s.setChan c { s.chan c with run := some { r with out := out } }

/-- Beats issued in one cycle of an engine: up to `n`, priority `pr` and downward, round-robin in each, at most one for
a channel (R317, R318). `used` lists the channels granted. -/
def State.dmaGrant (s : State) (e : Nat) : Nat → Nat → Nat → List Nat → State × List Nat
  | 0, _, _, used => (s, used)
  | _, _, 0, used => (s, used)
  | fuel + 1, pr, n + 1, used =>
    let last := (tfind s.lastGrant (e * 4 + pr)).getD 63
    let ready := ((List.range 64).map fun k => (last + 1 + k) % 64).filter fun j =>
      s.fld (F.dmaChStatusPriority e j) == pr && !used.contains j && s.dmaReady (e * 64 + j) (s.dmaBuffered e)
    match ready with
    | [] => if pr = 0 then (s, used) else s.dmaGrant e fuel (pr - 1) (n + 1) used
    | j :: _ =>
      let c := e * 64 + j
      let k := match (s.chan c).run with
        | some r => r.beat
        | none => 0
      let s := ({ s with lastGrant := tins s.lastGrant (e * 4 + pr) j }).dmaIssue c
      let s := match (s.chan c).run with
        | some r => if r.failed.isSome then s.dmaLose c k else s
        | none => s
      s.dmaGrant e fuel pr n (used ++ [j])

/-- Every channel of an engine moved on. -/
def State.dmaAdvanceAll (s : State) (e : Nat) : State :=
  ((s.chans.map (·.1)).filter fun c => c / 64 == e).foldl (fun s c => (s.dmaPump c 257).dmaAdvance c) s

/-- DMA_BEAT_ISSUE (R317 to R319, R324, R139): one cycle of an engine. -/
def execDmaBeatIssue (e : EngNo) (s : State) : Host.Outcome State Fault Refusal :=
  .next <|
    if s.clocksOff then s
    else
      let mine := (s.chans.map (·.1)).filter fun c => c / 64 == e.val
      let s := mine.foldl (fun s c => s.dmaEnter c) s
      let ready := (List.range 64).filter fun j => s.dmaReady (e.val * 64 + j) (s.dmaBuffered e.val)
      let resting := mine.filter fun c => match (s.chan c).run with | some r => r.rest | none => false
      let g := s.dmaGrant e.val 8 3 4 []
      let s := (ready.filter fun j => !g.2.contains j).foldl (fun s j => s.addFld (F.dmaChPreemptCc e.val j) 1) g.1
      let s := resting.foldl (fun s c =>
        match (s.chan c).run with
        | some r => s.setChan c { s.chan c with run := some { r with rest := false } }
        | none => s) s
      (s.dmaAdvanceAll e.val).unitWork

/-- A read of a channel answered with data: the oldest outstanding one on its link (R319). -/
def State.dmaReturned (s : State) (c : Nat) (link : Option Nat) (beat : Option Nat) (data : List Byte) : State :=
  match (s.chan c).run with
  | none => s
  | some r =>
    match r.out.find? fun o => o.data.isNone && !o.lost && (link.isNone || o.link == link) &&
        (match beat with | some k => o.beat == k | none => o.link.isSome) with
    | none => s
    | some o =>
      let o' := { o with data := some (dmTake r.bytes o.beat data) }
      let out := r.out.map fun x => if x.beat = o.beat then o' else x
      let s := s.setChan c { s.chan c with run := some { r with out := out } }
      ((s.dmaPump c 257).dmaAdvance c).unitWork

/-- DMA_READ_RETURN: data of the oldest read that left the die (R319). -/
def execDmaReadReturn (e : EngNo) (j : ChanNo) (data : List Byte) (s : State) : Host.Outcome State Fault Refusal :=
  .next (s.dmaReturned (e.val * 64 + j.val) none none data)

/-- A rejected read of a channel (R333): BUSY, or HW_FAULT while the link stays up, is retried; else the descriptor
fails. -/
def State.dmaRejected (s : State) (c status : Nat) (link : Option Nat) (beat : Option Nat) (fault : Nat) (linkUp : Bool) :
    State :=
  match (s.chan c).run with
  | none => s
  | some r =>
    match r.out.find? fun o => o.data.isNone && !o.lost && (link.isNone || o.link == link) &&
        (match beat with | some k => o.beat == k | none => true) with
    | none => s
    | some o =>
      let retry := decide (status = stBusy ∨ (status = stHwFault ∧ linkUp = true)) && r.failed.isNone
      match o.link with
      | some i =>
        if retry ∧ o.tries < s.fld (F.dmaChCtlRetryLimit (c / 64) (c % 64)) then
          let o' := { o with tries := o.tries + 1 }
          let out := r.out.map fun x => if x.beat = o.beat then o' else x
          let r' := { r with out := out, retries := r.retries + 1 }
          let s := (s.setChan c { s.chan c with run := some r' }).addFld (F.dmaChRetryCnt (c / 64) (c % 64)) 1
          let s := s.setFld (F.dmaChStatusRetries (c / 64) (c % 64)) (min (r.retries + 1) 7)
          s.sendOn i 1 (.read (dmTagOf c r.idx) (dmRead r.bytes o.beat).1 (dmRead r.bytes o.beat).2)
        else
          ((((s.dmaLose c o.beat).dmaFail c status fault none retry).dmaPump c 257).dmaAdvance c).unitWork
      | none => ((((s.dmaLose c o.beat).dmaFail c status fault none false).dmaPump c 257).dmaAdvance c).unitWork

/-- FAULT of a rejection: link and tag, or 0xFF for a local one (R338). -/
def faultWord (link : Option Nat) (tag : Nat) : Nat :=
  match link with
  | some i => i * 2 ^ 24 + tag
  | none => 0xFF000000

/-- DMA_BEAT_REJECT. -/
def execDmaBeatReject (e : EngNo) (j : ChanNo) (status : Byte) (link : Option LinkNo) (tag : BitVec 16) (linkUp : Bool)
    (s : State) : Host.Outcome State Fault Refusal :=
  let l := link.map fun x => x.val
  .next (s.dmaRejected (e.val * 64 + j.val) status.toNat l none (faultWord l tag.toNat) linkUp)

/-- DMA_READBACK_ANSWER (R328): a local destination answers once every write has landed, with the status its checks
give, a bank's row being read for it; a remote one with the status that came. -/
def execDmaReadbackAnswer (e : EngNo) (j : ChanNo) (status : Byte) (port : PortEvent) (s : State) :
    Host.Outcome State Fault Refusal :=
  let c := e.val * 64 + j.val
  .next <| match (s.chan c).run with
    | none => s
    | some r =>
      if r.step ≠ 1 then s
      else if s.isLocal (dmDst r.bytes) then
        if s.dmaQuiet c r then
          let x := dmBack r.bytes
          let read := match s.phys (addrOff x.1 / coreBytes) with
            | some p => if addrSpace x.1 = 1 then s.port p 3 p true (unscheduledPort port) else (s, false)
            | none => (s, false)
          let st := if read.2 then stHwFault
            else if addrSpace x.1 = 1 then stOk else s.backStatus x.1 x.2 (some (dmSeason r.bytes)) false
          (read.1.dmaReadback c st (if read.2 then 0 else 0xFF000000)).unitWork
        else s
      else (s.dmaReadback c status.toNat (faultWord r.link (dmTagOf c r.idx))).unitWork

/-- Whether a record of a producing context is on its way to its ring in this die's banks. -/
def State.recordMoves (s : State) (q : Nat) : Bool :=
  s.underWay.any fun w => match w.from_ with
    | .record _ _ r _ => r.origin == q
    | _ => false

/-- DMA_COMPLETION_ACK (R329): the completion step that waits was acknowledged by its destination; the next is issued. A
write into this die's banks is acknowledged once it has landed. A record that is held keeps the channel (R341). A CRC write's
rejection fails the descriptor. -/
def execDmaCompletionAck (e : EngNo) (j : ChanNo) (status : Byte) (s : State) : Host.Outcome State Fault Refusal :=
  let c := e.val * 64 + j.val
  .next <| match (s.chan c).run with
    | none => s
    | some r =>
      if r.step < 2 then (s.dmaAdvance c).unitWork
      else if ¬ s.dmaQuiet c r then s
      else if r.step = 2 then
        let s := if status = 0 then s else s.dmaFail c status.toNat (faultWord r.link (dmTagOf c r.idx)) none false
        (s.dmaStep c 3 8).unitWork
      else if r.step = 3 then
        if (s.queue r.ring).held ≠ [] ∨ s.recordMoves r.ring then s else (s.dmaStep c 4 8).unitWork
      else if r.step = 4 then (s.dmaStep c 5 8).unitWork
      else (s.dmaStep c 6 8).unitWork

/-- A channel's descriptor completes errored with HW_FAULT (R333, R334): the outstanding reads that `gone` names are lost; the
others return, and their data is written. -/
def State.dmaKill (s : State) (c : Nat) (gone : DmaOut → Bool) (exhausted : Bool) : State :=
  match (s.chan c).run with
  | none => s
  | some _ =>
    let s := s.dmaFail c stHwFault 0 none exhausted
    match (s.chan c).run with
    | none => s
    | some r =>
      let out := r.out.map fun o => if o.data.isNone && gone o then { o with lost := true } else o
      let s := s.setChan c { s.chan c with run := some { r with out } }
      if r.step = 1 ∨ r.step = 2 then s.dmaStep c 3 8 else (s.dmaPump c 257).dmaAdvance c

/-- A paused channel whose context is being destroyed completes its descriptor with HW_FAULT (R310). -/
def State.dmaGiveUp (s : State) (c : Nat) : State :=
  match (s.chan c).run with
  | none => s
  | some r =>
    if (s.queue r.ring).destroying ∧ s.chState c = chPaused ∧ r.step < 2 then s.dmaKill c (fun _ => true) false else s

/-- Clump at which the data of the beats issued last stands: of the local source, or of the adapter that brings it. -/
def State.dmaClump (s : State) (r : DmaRun) : Nat :=
  let k := r.beat - 1
  match s.clumpOfAddr (dmRead r.bytes k).1 with
  | some cl => cl
  | none => ((s.dmaReadLink r k).map adapterClump).getD 0

/-- DMA_PAUSE_DRAINED (R336): every read has returned and its data is written, what the funnel held of a row too. -/
def execDmaPauseDrained (e : EngNo) (j : ChanNo) (s : State) : Host.Outcome State Fault Refusal :=
  let c := e.val * 64 + j.val
  .next <| match (s.chan c).run with
    | none => if s.chState c = chPausing then s.setChState c chPaused else s
    | some r =>
      if s.chState c = chPausing ∧ r.out.isEmpty then
        let s := s.setChan c { s.chan c with run := some { r with carry := [] } }
        let s := if r.carry = [] then s else s.dmaWrite c (s.dmaClump r) (dmDst r.bytes + r.written) r.carry
        ((s.setChState c chPaused).dmaGiveUp c).unitWork
      else s

/-- Channels of an engine that are bound. -/
def State.boundChans (s : State) (e : Nat) : List Nat :=
  (List.range 64).filter fun j => s.chState (e * 64 + j) != chUnbound

/-- DMA_ENGINE_FAULT (R567, R569, R570): descriptors complete errored, bound channels halt, the engine takes no
descriptor until a reset. -/
def execDmaEngineFault (e : EngNo) (s : State) : Host.Outcome State Fault Refusal :=
  .next <|
    if (s.fld F.fltDmaEngFailed).testBit e.val then s
    else
      let s := s.setMaskBit F.fltDmaEngFailed e.val
      let s := s.logEvent svAlert 5 stHwFault 0x0501 (e.val * 64) 0 0
      let s := (s.boundChans e.val).foldl (fun s j =>
        let c := e.val * 64 + j
        if (s.chan c).run.isSome then s.dmaKill c (fun _ => true) true
        else if s.chState c = chHalted then s
        else s.haltChan c stHwFault (s.fld (F.queHead (s.fld (F.dmaChStatusQueue e.val j))))) s
      ((s.setFld F.fltStatusDmaEngine 1).settleReady).unitWork

/-- RECORD_WRITE_RETRY (R580): a held completion record of a context is written again; `status` is a rejection of that
write, 0 for none. -/
def execRecordWriteRetry (q : CtxNo) (status : Byte) (s : State) : Host.Outcome State Fault Refusal :=
  .next <|
    if (s.queue q.val).held = [] then s
    else if status = 0 then (s.retryHeldAll q.val).unitWork
    else s.noteFailed (s.fld (F.queCqContext q.val)) q.val status.toNat false

end Sys2Proof.Machine
end

