-- ==== Sys2Proof/Machine/Sha.lean ====
section
/-! DEFINITION. SHA-256, HMAC-SHA-256 and HKDF-SHA-256, which the manual names and does not define (R446, R455, R528;
log 33). -/

namespace Sys2Proof.Machine

/-- The primes below 312: the first 64. -/
def shaPrimes : List Nat :=
  (List.range 312).filter fun n => decide (1 < n) && (List.range 18).all fun d => decide (d < 2) || n == d || n % d != 0

/-- The largest number below 2^40 whose k-th power is at most n. -/
def rootOf (k n : Nat) : Nat := (List.range 40).foldr (fun b r => if (r + 2 ^ b) ^ k ≤ n then r + 2 ^ b else r) 0

/-- The first 32 bits of the fraction of a number's k-th root. -/
def rootFraction (k n : Nat) : Nat := rootOf k (n * 2 ^ (32 * k)) % 2 ^ 32

/-- Round constants of SHA-256: from the cube roots of the first 64 primes. -/
def shaK : List Nat := shaPrimes.map (rootFraction 3)

/-- Initial hash value of SHA-256: from the square roots of the first 8. -/
def shaInit : List Nat := (shaPrimes.take 8).map (rootFraction 2)

/-- A 32-bit rotation to the right. -/
def rotr (n x : Nat) : Nat := x / 2 ^ n + x % 2 ^ n * 2 ^ (32 - n)

/-- Big-endian bytes of a number. -/
def beBytes (n x : Nat) : List Byte := (leBytes n x).reverse

/-- The next word of the message schedule from the last 16, newest first. -/
def shaNext (w : List Nat) : Nat :=
  let a := (w[1]?).getD 0
  let b := (w[14]?).getD 0
  let s0 := rotr 7 b ^^^ rotr 18 b ^^^ b / 8
  let s1 := rotr 17 a ^^^ rotr 19 a ^^^ a / 1024
  (s1 + (w[6]?).getD 0 + s0 + (w[15]?).getD 0) % 2 ^ 32

/-- The message schedule extended by n words; newest first. -/
def shaExtend : Nat → List Nat → List Nat
  | 0, w => w
  | n + 1, w => shaExtend n (shaNext w :: w)

/-- One round. -/
def shaRound (v : List Nat) (kw : Nat × Nat) : List Nat :=
  match v with
  | [a, b, c, d, e, f, g, h] =>
    let ch := (e &&& f) ^^^ ((0xFFFFFFFF ^^^ e) &&& g)
    let t1 := (h + (rotr 6 e ^^^ rotr 11 e ^^^ rotr 25 e) + ch + kw.1 + kw.2) % 2 ^ 32
    let maj := (a &&& b) ^^^ (a &&& c) ^^^ (b &&& c)
    let t2 := (rotr 2 a ^^^ rotr 13 a ^^^ rotr 22 a) + maj
    [(t1 + t2) % 2 ^ 32, a, b, c, (d + t1) % 2 ^ 32, e, f, g]
  | v => v

/-- One block of 64 bytes. -/
def shaBlock (h : List Nat) (b : List Byte) : List Nat :=
  let w := (List.range 16).map fun i => leNat ((slice b (4 * i) 4).reverse)
  let ws := (shaExtend 48 w.reverse).reverse
  let v := (shaK.zip ws).foldl shaRound h
  (h.zip v).map fun x => (x.1 + x.2) % 2 ^ 32

/-- The blocks of a padded message. -/
def shaBlocks : Nat → List Nat → List Byte → List Nat
  | 0, h, _ => h
  | n + 1, h, b => shaBlocks n (shaBlock h b) (b.drop 64)

/-- SHA-256 of bytes. -/
def sha256 (m : List Byte) : List Byte :=
  let z := (119 - m.length % 64) % 64
  let b := m ++ [0x80] ++ List.replicate z 0 ++ beBytes 8 (8 * m.length)
  (shaBlocks (b.length / 64) shaInit b).flatMap (beBytes 4)

/-- HMAC-SHA-256. -/
def hmac (key m : List Byte) : List Byte :=
  let k := if key.length ≤ 64 then key else sha256 key
  let k := k ++ List.replicate (64 - k.length) 0
  sha256 (k.map (· ^^^ 0x5c) ++ sha256 (k.map (· ^^^ 0x36) ++ m))

/-- HKDF-SHA-256's expand step: blocks n of the output, from the previous one. -/
def hkdfBlocks (prk info : List Byte) : Nat → Nat → List Byte → List Byte
  | 0, _, _ => []
  | n + 1, i, t =>
    let t := hmac prk (t ++ info ++ [BitVec.ofNat 8 i])
    t ++ hkdfBlocks prk info n (i + 1) t

/-- HKDF-SHA-256 of n bytes. -/
def hkdf (ikm salt info : List Byte) (n : Nat) : List Byte :=
  (hkdfBlocks (hmac salt ikm) info ((n + 31) / 32) 1 []).take n

/-- ASCII bytes of a string. -/
def ascii (x : String) : List Byte := x.toList.map fun c => BitVec.ofNat 8 c.toNat

end Sys2Proof.Machine
end

