-- ==== Sys2Proof/Machine/Stages.lean ====
section
/-! DEFINITION. Bring-up stages: their reports, starts and holds, what each begins with, and the values that come from
fuses (R17 to R20, R57 to R60, R397, R436 to R441, R457, R460 to R462, R474, R527 to R529, R551, R579). -/

namespace Sys2Proof.Machine

abbrev ocPassed : Nat := 0
abbrev ocFallback : Nat := 1
abbrev ocFailed : Nat := 2
abbrev ocRejected : Nat := 3
abbrev ocAbandoned : Nat := 4

def State.stage (s : State) : Nat := s.fld F.evgBootStage
/-- Whether a stage is running. -/
def State.inStage (s : State) (k : Nat) : Bool := s.stage == k && s.fld F.evgBootState == 0 && s.ready != rdFaulted
def State.testMode (s : State) : Bool := s.bit F.evgBootTestMode

/-- EVG_PLACEMENT as a word (R17). -/
def State.placementWord (s : State) : Nat :=
  s.fld F.evgPlacementValid * 2 ^ 31 + s.fld F.evgPlacementPeerPresent * 2 ^ 17 + s.fld F.evgPlacementPackage * 16 +
    s.fld F.evgPlacementPosition

/-- EVG_NUMBERING as a word (R60). -/
def State.numberingWord (s : State) : Nat := s.fld F.evgNumberingEpoch * 2 ^ 16 + s.fld F.evgNumberingNLogical

/-! ### Fused values (R4, R472, R507, R510, R535, R536, R545) -/

/-- One 16-bit offset of the sensors, thermal first. -/
def Fuses.offset (f : Fuses) (i : Nat) : Nat := (f.offsets[i]?).getD 0

/-- A fuse row's counter: the highest programmed fuse plus 1 (R535, R536). -/
def fuseCount (n m : Nat) : Nat := ((List.range n).filter fun i => m.testBit i).foldl (fun _ i => i + 1) 0

def Fuses.counter (f : Fuses) : Nat := fuseCount 64 f.svn
def Fuses.revokeIndex (f : Fuses) : Nat := fuseCount 3 f.revoked

/-- A programmed vendor key slot. -/
def Fuses.vendorKey (f : Fuses) (i : Nat) : Option (List Byte) :=
  match f.vendor[i]? with
  | some k => if k.all (· == 0) then none else some k
  | none => none

/-- SEC_STATUS and SEC_CERT_DIGEST from the fuses. -/
def State.senseSec (s : State) : State :=
  let f := s.fuses
  let slots := maskOf 4 fun i => (f.vendorKey i).isSome && decide (f.revokeIndex ≤ i)
  let s := ((s.setFld F.secStatusSlotsValid slots).setFld F.secStatusRevoke f.revokeIndex).setFld F.secStatusCounter f.counter
  (List.range 8).foldl (fun s j => s.setFld (F.secCertDigest j) (leAt f.certDigest (4 * j) 4)) s

/-- Register fields that hold fused values, as S0 senses them. -/
def State.applyFused (s : State) : State :=
  let f := s.fuses
  let s := (List.range 2).foldl (fun s h =>
    let s := (s.setFld (F.pwrHalfFusedMax h) f.fmax).setFld (F.pwrCapPref h) f.fmax
    let s := (s.setFld (F.pwrCapPower h) f.fmax).setFld (F.pwrCapThermal h) f.fmax
    (List.range 16).foldl (fun s k =>
      let op := (f.ops[16 * h + k]?).getD (0, 0)
      (s.setFld (F.pwrOpFcode h k) op.1).setFld (F.pwrOpMv h k) op.2) s) s
  let s := (s.setFld (F.pwrLimit 0) f.designMw).setFld (F.pwrLimit 1) (f.designMw * 12 / 10)
  let s := ((s.setFld F.lnkQualStressV f.qual.1).setFld F.lnkQualStressH f.qual.2.1).setFld F.lnkQualLimit f.qual.2.2
  let s := (List.range 64).foldl (fun s i =>
    (s.setFld (F.calTempOffFactory i) (f.offset i)).setFld (F.calTempOffEffective i) (f.offset i)) s
  s.senseSec

/-! ### Reports (R437, R439) -/

/-- A stage report: its event and its register. -/
def State.reportDur (s : State) (stage outcome reason us : Nat) : State :=
  let code := stage * 2 ^ 12 + outcome * 2 ^ 8 + reason
  let dur := min (us / 10000) 0x7FFF
  let sev := if outcome = ocFailed then (if stage = 0 ∨ (stage = 1 ∧ reason = 1) then svFault else svAlert) else svInfo
  let s := s.logEvent sev 6 0 0x0100 stage 0 (code + dur * 2 ^ 16)
  let s := (s.setFld (F.evgBootReportCode stage) code).setFld (F.evgBootReportCurrent stage) 1
  { s.setFld (F.evgBootReportDuration stage) dur with lastCode := code }

/-- A report of the current stage. -/
def State.report (s : State) (outcome reason : Nat) : State :=
  let s := s.reportDur s.stage outcome reason (s.time - s.stageStart)
  if outcome = ocPassed ∨ outcome = ocFallback then s.setFld F.evgBootState 1
  else if outcome = ocFailed then s.setFld F.evgBootState 2
  else s

/-- FAULTED entered with a cause; a later cause does not replace an earlier one, but a thermal trip does (R571, R584). -/
def State.enterFaulted (s : State) (cause : Nat) : State :=
  if s.ready = rdFaulted then (if cause = 7 then s.setFld F.fltStatusFaultCause 7 else s)
  else (s.setFld F.fltStatusFaultCause cause).setReady rdFaulted

/-! ### What stages begin -/

/-- Whether link i has a partner (R18). -/
def State.linkExists (s : State) (i : Nat) : Bool :=
  decide (i < 24) || decide (30 ≤ i) || (s.fld F.evgPlacementPeerPresent).testBit (i - 24)

/-- A link's training state cleared (R415): STATE, width, masks and credits. -/
def State.clearLink (s : State) (i st : Nat) : State :=
  let s := ((s.setFld (F.lnkStatusState i) st).setFld (F.lnkStatusWidth i) 0).setFld (F.lnkGood i) 0
  let s := s.setFld (F.lnkUsed i) 0
  (List.range 6).foldl (fun s v => (s.setFld (F.lnkCreditGranted i v) 0).setFld (F.lnkCreditHeld i v) 0) s

/-- A link begins to listen for its partner (R38, R459); a peer link without a partner is disabled (R18, R396). -/
def State.startTraining (s : State) (i : Nat) : State :=
  if ¬ s.linkExists i then s.setFld (F.lnkStatusState i) lkDisabled
  else if s.txIdle.testBit i then s
  else s.setLink i { s.link i with listening := true }

/-- Both core PLLs locked at FCODE 8 (R474, R551). -/
def State.lockPlls (s : State) : State :=
  (List.range 2).foldl (fun s h => ((s.setFld (F.pwrHalfLocked h) 1).setFld (F.pwrHalfFcode h) 8).setFld (F.pwrHalfTarget h) 8) s

/-- The rootstock derives the die's keys (R528). -/
def State.deriveKeys (s : State) : State :=
  let salt := ascii "Camivo SJ1-0960"
  let seed := slice s.fuses.seed 0 48
  let id := hkdf seed salt (ascii "identity") 48
  let root := Config.slhRoot (slice id 0 16) (slice id 16 16) (slice id 32 16)
  { s.setFld F.secStatusKeysReady 1 with keys := some (id, hkdf seed salt (ascii "settings") 32, root) }

/-- S1 begins (R441, R551, R579). A die whose fuses or rootstock failed goes to FAULTED and still trains U0 and U1
(R439). -/
def State.beginS1 (s : State) : State :=
  let s := { s.lockPlls with wordSeen := false }
  let train := fun (s : State) => (s.startTraining 30).startTraining 31
  if s.fuseBad then train (s.enterFaulted 2)
  else if ¬ s.selfCheckOk then train ((s.report ocFailed 1).enterFaulted 3)
  else if s.testMode then
    train ((List.range 30).foldl (fun s i => s.setFld (F.lnkStatusState i) lkDisabled) s)
  else train s.deriveKeys

/-- The settings records of a restored blob taken up by their links (R457). -/
def State.takeSavedLinks (s : State) : State :=
  match s.restored with
  | none => s
  | some r => r.links.foldl (fun s x =>
      s.setLink x.link { s.link x.link with saved := some (x.good, x.eq), savedBlob := true }) s

/-- A link's state while it is qualified (R395, R413). -/
def State.toBerTest (s : State) (i : Nat) : State :=
  if s.linkState i = lkActive then
    (s.setFld (F.lnkStatusState i) lkBerTest).setLink i { s.link i with prior := lkActive }
  else s

/-- S5 begins: every ACTIVE base and peer link is qualified, and U1 before U0 (R413, R460). A lone substrate link is not
qualified, since nothing else could carry its traffic (log 34). -/
def State.beginS5 (s : State) : State :=
  let ls := (List.range 30).filter fun i => s.linkState i == lkActive
  let us := if s.linkState 30 = lkActive ∧ s.linkState 31 = lkActive then [31, 30] else []
  let s := ls.foldl (fun s i => s.toBerTest i) { s with qualifying := ls ++ us }
  if us.isEmpty then s else s.toBerTest 31

/-- VALID of the memtest record (R462). -/
def State.memValid (s : State) : Bool := (s.memRecord[0x3F]?).getD 0 == 1

/-- A memory test begins: VALID is written 0, and the SB1 is asked (R461, R462). `grant` is the record a fast test may
be granted on. -/
def State.beginMemtest (s : State) (fast : Bool) (grant : List Byte) (op : Option Nat) : State :=
  let run : MemRun := { fast, asked := fast, started := s.time, op, grant, testId := s.draw 0x461 % 2 ^ 32 }
  let rec_ := if s.memRecord.isEmpty then [] else s.memRecord.take 0x3F ++ [0]
  let s := { s.drew with memRun := run, memRecord := rec_ }
  let s := ((s.setFld F.evgMemtestState 1).setFld F.evgMemtestProgress 0).setFld F.evgMemtestFast (if fast then 1 else 0)
  match s.substrate with
  | some i => s.sendOn i 3 (.memtest (!fast))
  | none => s

/-- S6 begins with the record that may grant a fast test: retention's, else the restored blob's (R461; log 35). -/
def State.beginS6 (s : State) : State :=
  let grant := if s.memValid then s.memRecord
    else match s.restored with
      | some r => r.memtest.getD []
      | none => []
  s.beginMemtest (!grant.isEmpty) grant none

/-- S9: READY or DEGRADED, the links that count under R43, each half to its code, and the fuse advance (R465, R474, R537,
R569). -/
def State.beginS9 (s : State) : State :=
  let s := { s with upAtReady := maskOf 32 s.linkUp }
  let s := s.setReady (if s.degraded = 0 then rdReady else rdDegraded)
  let s := match s.firmware with
    | some f => s.setFld F.secStatusAdvancePending
        (if s.fuses.counter < f.advanceTo ∨ s.fuses.revokeIndex < f.revokeTo then 1 else 0)
    | none => s
  (s.retarget 0 false).retarget 1 false

/-- A stage started. -/
def State.startStage (s : State) (k : Nat) : State :=
  let s := { (s.setFld F.evgBootStage k).setFld F.evgBootState 0 with stageStart := s.time, losses := [] }
  if k = 1 then
    let s := match s.abandoned with
      | some (st, us) => { s.reportDur st ocAbandoned 0 us with abandoned := none }
      | none => s
    s.beginS1
  else if k = 4 then
    let s := s.takeSavedLinks
    let s := match s.restored with
      | some r => if r.links.isEmpty then s else s.setFld F.evgBootFastS4 1
      | none => s
    (List.range 30).foldl (fun s i => s.startTraining i) s
  else if k = 5 then s.beginS5
  else if k = 6 then s.beginS6
  else if k = 9 then s.beginS9
  else s

/-- The next stage, unless the die is held before it (R440). -/
def State.nextStage (s : State) (k : Nat) : State :=
  if s.bit F.evgBootHoldEn ∧ s.fld F.evgBootHoldStage = k then s.setFld F.evgBootState 3 else s.startStage k

/-- The report of a stage that passed, with the lowest reason of its losses (R438; log 36). -/
def State.reportPass (s : State) : State :=
  match s.losses.foldl (fun (a : Option Nat) r => some (min r (a.getD r))) none with
  | some r => s.report ocFallback r
  | none => s.report ocPassed 0

/-- Whether S2 can pass: both images are committed (R448). -/
def State.bothImages (s : State) : Bool := s.firmware.isSome && s.microcode.isSome

/-- S2 passed: Hedger firmware starts, and arms its watchdog (R448 and FLT_WDOG). -/
def State.passS2 (s : State) : State := ({ s.reportPass with wdogAt := s.time }.setFld F.fltWdogEn 1).nextStage 3

/-- A stage passed. S2 passes at once if both images were committed in S1. -/
def State.passStage (s : State) (k : Nat) : State :=
  if k = 2 then s.passS2
  else
    let s := s.reportPass.nextStage (k + 1)
    if k = 1 ∧ s.bothImages then s.passS2 else s

/-- A loss noted in the current stage. -/
def State.lose (s : State) (k reason : Nat) : State :=
  if s.stage = k ∧ ¬ s.losses.contains reason then { s with losses := s.losses ++ [reason] } else s

/-- A stage failed (R439). -/
def State.failStage (s : State) (reason : Nat) : State := s.report ocFailed reason

/-! ### S1 (R17, R19, R436, R439, R579) -/

/-- Whether a substrate link's attempts have begun and are not over. -/
def State.inAttempts (s : State) (i : Nat) : Bool :=
  let x := s.linkState i
  (decide (lkLaneTest ≤ x) && decide (x ≤ lkConfig)) || (x == lkDetect && s.fld (F.lnkStatusAttempts i) != 0)

/-- S1 passes once a substrate link is up with a placement word latched and none trains on (R17, R436); after a failure
for lack of a link it reruns when one is ACTIVE (R439). -/
def State.checkS1 (s : State) : State :=
  let ok := s.bit F.evgPlacementValid && (s.linkUp 30 || s.linkUp 31)
  if s.stage ≠ 1 ∨ s.ready = rdFaulted ∨ s.testMode then s
  else if s.fld F.evgBootState = 2 then
    if s.linkState 30 = lkActive ∨ s.linkState 31 = lkActive then
      let s := s.startStage 1
      if ok ∧ ¬ s.inAttempts 30 ∧ ¬ s.inAttempts 31 then s.passStage 1 else s
    else s
  else if ok ∧ ¬ s.inAttempts 30 ∧ ¬ s.inAttempts 31 then s.passStage 1
  else s

/-! ### Numbering (R57 to R60) -/

/-- Physical cores that a dieback list excludes (R58). -/
def excludes (l : List Dieback) (p : Nat) : Bool :=
  l.any fun d => (d.kind == 1 && d.unit == p) || ((d.kind == 2 || d.kind == 3) && d.unit == clumpOf p)

/-- The cores numbered from the dieback list as it stands, with an epoch (R57, R60, R64). -/
def State.number (s : State) (epoch : Nat) : State :=
  let keep := (List.range 96).filter fun p => !excludes s.dieback p
  let m := keep.foldl (fun m p => m + 2 ^ p) 0
  let s := (s.setFld F.evgNumberingNLogical keep.length).setFld F.evgNumberingEpoch epoch
  let s := ((s.setFld (F.evgCoreMap 0) (m % 2 ^ 32)).setFld (F.evgCoreMap 1) (m / 2 ^ 32 % 2 ^ 32)).setFld (F.evgCoreMap 2) (m / 2 ^ 64)
  (List.range 3).foldl (fun s k => s.setFld (F.evgFenced k) 0) s

/-- Number of cores a numbering would give. -/
def State.remaining (s : State) : Nat := ((List.range 96).filter fun p => !excludes s.dieback p).length

/-- Routers the dieback list fails (R299). -/
def State.failRouters (s : State) : State :=
  s.setFld F.plnRouterFailed (maskOf 24 fun c => s.dieback.any fun d => d.kind == 3 && d.unit == c)

end Sys2Proof.Machine
end

