-- ==== Sys2Proof/Machine/Links.lean ====
section
/-! DEFINITION. Links from training to ACTIVE, links declared down, taken out of service or failed, and what a failed
router takes with it (R19, R20, R40 to R43, R300, R389, R394 to R407, R438, R579). -/

namespace Sys2Proof.Machine

/-! ### Declared down (R40, R41, R43) -/

/-- Pace and budget messages among the packets of a link (R406). -/
def paceIn (q : List (Nat × OutPkt)) : Nat :=
  (q.filter fun x => match x.2 with | .mgmt (.vc5 _) => true | _ => false).length

/-- Binder, pace and budget messages in a reserved flit, one a slot (R377, R379). -/
def messagesIn (f : Flit) : Nat := if f.kind = 0 ∧ f.vc = 4 then f.used.toNat + f.cont.toNat else 0

/-- A waiting binder message given to the link its destination now has (R577, R582). -/
def State.rerouteOut (s : State) (x : BOut) : State :=
  match s.linkToDie (addrDie x.address) with
  | none => s.addFld F.bndDropped 1
  | some j => s.queueOut j x

/-- Everything held for a link discarded; binder and pace messages count, those in flits that the partner has not
acknowledged too (R41, log 37). Operations of the die's own
agents that had no place go to the link R577 now names. -/
def State.discardLink (s : State) (i : Nat) : State :=
  let l := s.link i
  let n := l.bout.length + l.vc5out.length + paceIn l.txq + (l.replay.map messagesIn).sum
  let l' : LinkSt := { l with txq := [], txPart := [], bout := [], bheld := [], bwait := [], vc5out := [], ctlDue := [] }
  let l' : LinkSt := { l' with replay := [], resend := [], rxPart := [], backs := [], wire := none, keepTraffic := false }
  let l' : LinkSt := { l' with flitOut := none, lanes := [], carried := [], partTag := none }
  let l' : LinkSt := { l' with creditDue := [], retryPending := false, gap := false, resends := 0, retryTimes := [], reconfig := none }
  l.bheld.foldl State.rerouteOut ((s.setLink i l').addFld F.bndDropped n)

/-- TAG of a WRITE or READBACK. -/
def OutPkt.writeTag : OutPkt → Option Nat
  | .write tag _ _ _ _ => some tag
  | .readback tag _ _ _ => some tag
  | _ => none

/-- Whether a WRITE or READBACK with a tag is held for a link: it waits, is partly sent, or is in a flit that the partner has
not acknowledged (R41). -/
def LinkSt.holds (l : LinkSt) (tag : Nat) : Bool :=
  (l.txq.any fun x => x.2.writeTag == some tag) || l.partTag == some tag ||
    l.carried.any fun x => x.2 == tag && (l.replay ++ l.resend).any fun f => f.seq.toNat == x.1

/-- Channels whose descriptor has data held for a link, or waits for an answer from it (R41, R333). -/
def State.dmaOnLink (s : State) (i : Nat) : List Nat :=
  (s.chans.filter fun c => match c.2.run with
    | some r =>
      let reads := r.out.any fun o => o.link == some i && o.data.isNone && !o.lost
      decide (r.step ≤ 2) && (reads || (s.link i).holds (dmTagOf c.1 r.idx) ||
        (r.step == 1 && r.link == some i && !s.isLocal (dmDst r.bytes)))
    | none => false).map (·.1)

/-- Whether a link counts under R43. -/
def State.linkCounts (s : State) (i : Nat) : Bool :=
  s.upAtReady.testBit i && (s.ready == rdReady || s.ready == rdDegraded)

/-- A link declared down, left in state `next` (R40, R41, R43, R438, R565, R569). -/
def State.linkDown (s : State) (i next : Nat) : State :=
  let counts := s.linkCounts i
  let s := (s.clearLink i next).setLink i { s.link i with oldWidth := 0 }
  let s := (s.addFld (F.lnkEpoch i) 1).addFld (F.lnkDowns i) 1
  let s := s.logEvent (if counts then svAlert else svWarning) 4 0 0x0400 i 0 (s.fld (F.lnkEpoch i))
  let hit := s.dmaOnLink i
  let s := s.discardLink i
  let s := hit.foldl (fun s c => s.dmaKill c (fun o => o.link == some i) false) s
  let s := if counts then ((s.setMaskBit F.fltLinksLost i).setFld F.fltStatusLinkLost 1).settleReady else s
  (s.lose 5 2).unitWork

/-- A link that is up, or retrains with its traffic held, is declared down; any other is only left in state `next`. -/
def State.downIfUp (s : State) (i next : Nat) : State :=
  if s.linkUp i ∨ (s.link i).keepTraffic then s.linkDown i next else s.clearLink i next

/-- FLT_LINKS_LOST after a link has come back (R570). -/
def State.linkBack (s : State) (i : Nat) : State :=
  let s := s.clearMaskBit F.fltLinksLost i
  if s.fld F.fltLinksLost = 0 ∧ s.bit F.fltStatusLinkLost then (s.setFld F.fltStatusLinkLost 0).settleReady else s

/-! ### Attempts (R395 to R398) -/

/-- A link leaves an up state for DETECT with its traffic held by credits (R395). Its failed attempts are forgotten
after an ACTIVE period of 1 s (R398). -/
def State.leaveUp (s : State) (i : Nat) : State :=
  let s := if (s.link i).activeSince + 1000000 ≤ s.time then s.setFld (F.lnkStatusAttempts i) 0 else s
  let l := s.link i
  let l' : LinkSt := { l with keepTraffic := true, tries := 0, oldWidth := s.fld (F.lnkStatusWidth i), ctlDue := [] }
  let l' : LinkSt := { l' with reconfig := none, trickleSent := false, echoSeen := false, wire := none, flitOut := none, lanes := [] }
  (s.setLink i { l' with listening := true, resends := 0, retryTimes := [], retryPending := false, gap := false }).clearLink i lkDetect

/-- A failure recorded in LNK_LAST_FAIL. -/
def State.noteFail (s : State) (i reason st : Nat) : State :=
  (s.setFld (F.lnkLastFailReason i) reason).setFld (F.lnkLastFailState i) st

/-- A link enters FAILED, declared down if traffic is held for it (R398). -/
def State.toFailed (s : State) (i : Nat) : State :=
  let s := s.downIfUp i lkFailed
  let s := s.setLink i { s.link i with listening := false }
  if i < 30 then s.lose 4 3 else s

/-- An attempt failed in a state with a reason; the third failure enters FAILED (R397, R398). -/
def State.failAttempt (s : State) (i reason st : Nat) : State :=
  let s := s.noteFail i reason st
  let n := min 3 (s.fld (F.lnkStatusAttempts i) + 1)
  let s := s.setFld (F.lnkStatusAttempts i) n
  let s := if i < 30 ∧ (s.link i).savedBlob then s.lose 4 2 else s
  if n < 3 then s.clearLink i lkDetect
  else ((s.toFailed i).logEvent svAlert 4 stHwFault 0x0401 i 0 reason).checkS1

/-- A link that is up goes to full training for a reason that counts no attempt (R389, R404). -/
def State.escalate (s : State) (i reason : Nat) : State :=
  let st := s.linkState i
  (((s.addFld (F.lnkEscalate i) 1).noteFail i reason st).leaveUp i).lose 5 2

/-- Physical lanes of a link's class (R399). -/
def laneCount (i : Nat) : Nat := if i < 30 then 64 else 16

/-- LANE_TEST_END: the good-lane mask, one bit per lane received without error; a group whose clock lane failed has none
(R375, R399). -/
def execLaneTestEnd (link : LinkNo) (mask : DWord) (clocks : Byte) (s : State) : Host.Outcome State Fault Refusal :=
  let i := link.val
  let m := maskOf (laneCount i) fun j => mask.toNat.testBit j && !clocks.toNat.testBit (j / 8)
  .next <|
    if s.linkState i = lkLaneTest then
      ((s.setLink i { s.link i with ownMask := m }).setFld (F.lnkGood i) m).setFld (F.lnkStatusState i) lkEq
    else s

/-- The equalisation words of a link's lanes (R414): DFE stands only on substrate links. -/
def State.setEq (s : State) (i : Nat) (eq : List Nat) : State :=
  (eq.take (laneCount i)).zipIdx.foldl (fun s e =>
    let s := ((s.setFld (F.lnkLaneEqPre i e.2) (bitsAt e.1 28 4)).setFld (F.lnkLaneEqMain i e.2) (bitsAt e.1 24 4))
    let s := (s.setFld (F.lnkLaneEqPost i e.2) (bitsAt e.1 20 4)).setFld (F.lnkLaneEqCtle i e.2) (bitsAt e.1 16 4)
    s.setFld (F.lnkLaneEqDfe i e.2) (if 30 ≤ i then bitsAt e.1 12 4 else 0)) s

/-- The factory seed that an equalisation item names (R545). -/
def Fuses.eqSeed (f : Fuses) (item : Nat) : Nat :=
  let x := item % 2 ^ 24
  let w := leAt f.eqSeeds ((x / 2 ^ 16 * 64 + x / 2 ^ 8 % 256) * 4) 4
  bitsAt w (16 - 4 * (x % 256)) 4

/-- The effective seed of one tap: the factory's and the user's step, clamped to 0–15 (R546). -/
def State.eqTap (s : State) (item : Nat) : Nat :=
  let v := (s.fuses.eqSeed item : Int) + toSigned 32 ((tfind s.calActive item).getD 0)
  (max 0 (min 15 v)).toNat

/-- The word that a full attempt starts a lane from (R545, R548). -/
def State.eqStart (s : State) (i j : Nat) : Nat :=
  let tap := fun (k : Nat) => s.eqTap (0x03000000 + i * 2 ^ 16 + j * 2 ^ 8 + k) * 2 ^ (28 - 4 * k)
  tap 0 + tap 1 + tap 2 + tap 3 + tap 4

/-- The equalisation that an attempt starts from: the saved settings, or the seeds (R397, R545, R548). -/
def State.seedEq (s : State) (i : Nat) (fast : Bool) : State :=
  match (fast, (s.link i).saved) with
  | (true, some x) => s.setEq i x.2
  | _ => s.setEq i ((List.range (laneCount i)).map (s.eqStart i))

/-- The equalisation words as registers. -/
def State.eqWords (s : State) (i : Nat) : List Nat :=
  (List.range (laneCount i)).map fun j =>
    s.fld (F.lnkLaneEqPre i j) * 2 ^ 28 + s.fld (F.lnkLaneEqMain i j) * 2 ^ 24 + s.fld (F.lnkLaneEqPost i j) * 2 ^ 20 +
      s.fld (F.lnkLaneEqCtle i j) * 2 ^ 16 + s.fld (F.lnkLaneEqDfe i j) * 2 ^ 12

/-- EQ_COMPLETE: lanes outside the mask cannot meet their eye target and leave the good mask (R399). -/
def execEqComplete (link : LinkNo) (mask : DWord) (eq : List Word) (s : State) : Host.Outcome State Fault Refusal :=
  let i := link.val
  .next <|
    if s.linkState i = lkEq then
      let m := (s.link i).ownMask &&& mask.toNat
      let s := s.setEq i (eq.map BitVec.toNat)
      ((s.setLink i { s.link i with ownMask := m }).setFld (F.lnkGood i) m).setFld (F.lnkStatusState i) lkWidth
    else s

/-- ATTEMPT_TIMEOUT: the state of the attempt passed its limit (R397). -/
def execAttemptTimeout (link : LinkNo) (s : State) : Host.Outcome State Fault Refusal :=
  let i := link.val
  let st := s.linkState i
  .next <|
    if st = lkLaneTest then s.failAttempt i 0x01 st
    else if st = lkEq then s.failAttempt i 0x02 st
    else if st = lkWidth then s.failAttempt i 0x0C st
    else if st = lkConfig then s.failAttempt i 0x08 st
    else s

/-- Credits the die grants on a VC of link i at version v (R391, R406): VC0 and VC1 share the free rows of the open
region. -/
def State.grant (s : State) (i v vc : Nat) : Nat :=
  let free := s.openRoom i - s.openRows i
  match vc with
  | 0 => max 8 (free - free / 2)
  | 1 => max 8 (free / 2)
  | 2 => 0xFFFF
  | 3 => if 30 ≤ i then 64 else 4
  | 4 => 8
  | _ => if v < 0x30 then 0 else 8

/-- The width and the used lanes that two good-lane masks give (R399). -/
def widthOf (good n : Nat) : Nat := (bitsOf n good).length / 8 * 8
def usedOf (good n : Nat) : Nat := ((bitsOf n good).take (widthOf good n)).foldl (fun m j => m + 2 ^ j) 0

/-- MAP_CRC: the CRC-32C of the used mask and the width (R400), mask first (log 38). -/
def mapCrc (used width : Nat) : Nat := crc32c (leBytes 8 used ++ leBytes 1 width)

abbrev ownMin : Nat := 0x20
abbrev ownMax : Nat := 0x32

/-- The CONFIG this die sends with a map: its range of versions, class, number, credits, LAST_SEQ, MAP_CRC and epoch (R400,
R402, R406). -/
def State.ownConfig (s : State) (i used width : Nat) : LinkConfig :=
  let l := s.link i
  { minVersion := BitVec.ofNat 8 ownMin, maxVersion := BitVec.ofNat 8 ownMax, pclass := 0, die := BitVec.ofNat 17 s.dieNo
    credits := (List.range 6).map fun vc => min 0xFF (s.grant i ownMax vc)
    lastSeq := if l.keepTraffic then some (BitVec.ofNat 12 (l.rxSeq + 4095)) else none
    mapCrc := BitVec.ofNat 32 (mapCrc used width), epoch := BitVec.ofNat 16 (s.fld (F.lnkEpoch i)), placement := none }

/-- WIDTH_MAP: the width and map from both sides' masks; this side sends its CONFIG (R399, R400). -/
def execWidthMap (link : LinkNo) (partnerMask : DWord) (s : State) : Host.Outcome State Fault Refusal :=
  let i := link.val
  let n := laneCount i
  let l := s.link i
  let good := l.ownMask &&& (partnerMask.toNat % 2 ^ n)
  .next <|
    if s.linkState i ≠ lkWidth then s
    else if widthOf good n < 8 then s.failAttempt i 0x03 lkWidth
    else
      let s := s.setLink i { l with partnerMask := partnerMask.toNat % 2 ^ n,
                                    config := some (s.ownConfig i (usedOf good n) (widthOf good n)) }
      ((s.setFld (F.lnkStatusWidth i) (widthOf good n)).setFld (F.lnkUsed i) (usedOf good n)).setFld (F.lnkStatusState i)
        lkConfig

/-! ### Narrowing (R404, R450) -/

/-- Runs of consecutive lanes of a mask: first lane and count. -/
def laneRuns (n m : Nat) : List (Nat × Nat) :=
  (bitsOf n m).foldl (fun rs j => match rs.reverse with
    | (f, c) :: rest => if f + c = j then (rest.reverse) ++ [(f, c + 1)] else rs ++ [(j, 1)]
    | [] => [(j, 1)]) []

/-- Lanes newly lost on either side go to the dieback list, a link that narrowed to the log (R404). -/
def State.noteLanes (s : State) (i good oldWidth width : Nat) : State :=
  let n := laneCount i
  let had := if (s.link i).bothGood = 0 then 2 ^ n - 1 else (s.link i).bothGood
  let lost := had - (had &&& good)
  let s := (laneRuns n lost).foldl (fun s r => s.addDieback 5 4 i (r.2 * 2 ^ 8 + r.1) 0x0402) s
  let s := s.setLink i { s.link i with bothGood := good }
  if width < oldWidth then s.logEvent svWarning 4 0 0x0402 i 0 (width + oldWidth * 2 ^ 8) else s

/-! ### Placement words (R17, R19, R20, R579) -/

/-- A substrate link taken out of service over a word. -/
def State.takeOut (s : State) (i word : Nat) : State :=
  let s := s.noteFail i 0x0D (s.linkState i)
  let s := s.downIfUp i lkFailed
  let s := s.setLink i { s.link i with listening := false }
  s.logEvent svAlert 4 0 0x0404 i 0 word

/-- A valid word latched. -/
def State.latchWord (s : State) (i word : Nat) : State :=
  let s := (s.setFld F.evgPlacementValid 1).setFld F.evgPlacementPeerPresent (bitsAt word 17 6)
  let s := (s.setFld F.evgPlacementPackage (bitsAt word 4 13)).setFld F.evgPlacementPosition (bitsAt word 0 4)
  { s with latchedFrom := some i }

/-- A placement word delivered on substrate link i: the state, and whether the link may go on. -/
def State.placement (s : State) (i word : Nat) : State × Bool :=
  let s := if s.stage = 1 then { s with wordSeen := true } else s
  let own := s.placementWord % 2 ^ 23
  if 11 < word % 16 then (s.takeOut i word, false)
  else if ¬ s.bit F.evgPlacementValid then (s.latchWord i word, true)
  else if word % 2 ^ 23 = own then (s, true)
  else if i = 30 ∧ s.latchedFrom = some 31 ∧ s.inStage 1 then
    (((s.takeOut 31 (own + 2 ^ 31)).latchWord 30 word).lose 1 4, true)
  else ((s.takeOut i word).lose 1 4, false)

/-! ### CONFIG and ACTIVE (R391, R394, R400, R402, R406, R407) -/

/-- Credits of a link set at CONFIG: its own grants, and what the partner grants; 0xFF is unlimited. -/
def State.setCredits (s : State) (i v : Nat) (held : List Nat) : State :=
  (List.range 6).foldl (fun s vc =>
    let h := (held[vc]?).getD 0
    (s.setFld (F.lnkCreditGranted i vc) (s.grant i v vc)).setFld (F.lnkCreditHeld i vc) (if h = 0xFF then 0xFFFF else h)) s

/-- Flits of an earlier training's resend that have not gone out since (R402). -/
def LinkSt.unsent (l : LinkSt) : List Flit := l.resend.filter fun x => !l.replay.any fun y => y.seq == x.seq

/-- Flits of a replay buffer after the partner's LAST_SEQ (R402). -/
def afterSeq (q : List Flit) (last : Nat) : List Flit :=
  if q.any fun f => f.seq.toNat == last then (q.dropWhile fun f => f.seq.toNat != last).drop 1 else q

/-- The bytes of a flit before its CRC (R377). -/
def flitHeader (f : Flit) : Nat :=
  f.seq.toNat + f.ack.toNat * 2 ^ 12 + f.kind.toNat * 2 ^ 24 + f.vc.toNat * 2 ^ 27 + f.used.toNat * 2 ^ 30 +
    f.cont.toNat * 2 ^ 34 + f.crVc.toNat * 2 ^ 38 + f.crCount.toNat * 2 ^ 41 + f.epoch.toNat * 2 ^ 49

/-- CRC-64 of a flit (R378). -/
def flitCrc (f : Flit) : Nat :=
  crc64Raw (2 ^ 64 - 1) (leBytes 8 (flitHeader f) ++ f.slots.flatMap fun x => x) ^^^ (2 ^ 64 - 1)

/-- A flit with its CRC. -/
def sealFlit (f : Flit) : Flit := { f with crc := BitVec.ofNat 64 (flitCrc f) }

/-- Flits to resend after training: numbered from 0 under the new epoch (R402). -/
def renumber (q : List Flit) (epoch : Nat) : List Flit :=
  q.zipIdx.map fun f => sealFlit { f.1 with seq := BitVec.ofNat 12 f.2, epoch := BitVec.ofNat 4 epoch }

/-- A link enters ACTIVE from CONFIG with a partner's CONFIG and the agreed version. -/
def State.linkActive (s : State) (i v : Nat) (c : LinkConfig) : State :=
  let old := (s.link i).oldWidth
  let width := s.fld (F.lnkStatusWidth i)
  let epoch := (max (s.fld (F.lnkEpoch i)) c.epoch.toNat + 1) % 65536
  let s := (s.setFld (F.lnkEpoch i) epoch).setFld (F.lnkVersionAgreed i) v
  let s := s.setFld (F.lnkVersionDowngraded i) (if v < ownMax then 1 else 0)
  let s := if v < ownMax then (s.setMaskBit F.lnkDowngraded i).logEvent svInfo 4 stDowngraded 0x0403 i 0 v
    else s.clearMaskBit F.lnkDowngraded i
  let s := s.setCredits i v c.credits
  let l := s.link i
  let keep := l.keepTraffic && c.lastSeq.isSome
  let last := (c.lastSeq.map fun x => x.toNat).getD 0
  let left := if keep then afterSeq (l.replay ++ l.unsent) last else []
  let resend := renumber left epoch
  let carried := left.zipIdx.flatMap fun f => (l.carried.filter fun x => x.1 == f.1.seq.toNat).map fun x => (f.2, x.2)
  let l' : LinkSt := { l with resend, replay := [], txSeq := resend.length % 4096, rxSeq := 0, keepTraffic := false }
  let l' : LinkSt := { l' with carried, partTag := if keep then l.partTag else none }
  let l' : LinkSt := { l' with txPart := if keep then l.txPart else [], activeSince := s.time, echoSeen := false, first := true }
  let l' : LinkSt := { l' with saved := some (s.fld (F.lnkGood i), s.eqWords i), savedBlob := false, distrust := false }
  let used := s.fld (F.lnkUsed i)
  let l' : LinkSt := { l' with ctlDue := [.configEcho], creditDue := [], sinceCheck := 0, prbsTx := 0, prbsRx := 0 }
  let s := s.setLink i l'
  let s := s.setFld (F.lnkStatusState i) lkActive
  let s := s.logEvent svInfo 4 0 0x0405 i 0 (width + epoch * 2 ^ 16)
  let s := s.noteLanes i (l.ownMask &&& l.partnerMask) old width
  let s := if i < 30 ∧ (width < laneCount i ∨ width < old ∨ used = 0) then s.lose 4 3 else s
  let s := if i < 30 ∧ l.savedBlob ∧ ¬ l.fastAttempt then s.lose 4 2 else s
  let s := if s.qualifying.contains i then s else s.lose 5 3
  (s.linkBack i).checkS1

/-- CONFIG_MESSAGE: the partner's CONFIG (R19, R20, R394, R395, R400, R406). A MAP_CRC that differs is left to the echo
(R401). -/
def execConfigMessage (link : LinkNo) (c : LinkConfig) (s : State) : Host.Outcome State Fault Refusal :=
  let i := link.val
  .next <|
    if s.linkState i ≠ lkConfig then s
    else if 24 ≤ i ∧ i < 30 ∧ c.pclass = 0 ∧ c.die.toNat = s.dieNo then s.failAttempt i 0x06 lkConfig
    else
      let s := (s.setFld (F.lnkVersionPartnerMin i) c.minVersion.toNat).setFld (F.lnkVersionPartnerMax i) c.maxVersion.toNat
      let s := (s.setFld (F.lnkPartnerPclass i) c.pclass.val).setFld (F.lnkPartnerDie i) (if c.pclass = 0 then c.die.toNat else 0)
      let s := s.setFld (F.lnkStatusMaster i) (if 24 ≤ i ∧ i < 30 ∧ s.dieNo < c.die.toNat then 1 else 0)
      let v := min ownMax c.maxVersion.toNat
      if v < max ownMin c.minVersion.toNat then
        ((s.noteFail i 0x04 lkConfig).toFailed i).checkS1
      else
        let p := match c.placement with
          | some w => if 30 ≤ i then s.placement i w.toNat else (s, true)
          | none => (s, true)
        if p.2 then (p.1.linkActive i v c).unitWork else p.1.checkS1.unitWork

/-! ### Losing a link -/

/-- LINK_TIMEOUT: 10 µs without a valid flit or keepalive (R40, R395). -/
def execLinkTimeout (link : LinkNo) (s : State) : Host.Outcome State Fault Refusal :=
  let i := link.val
  .next <|
    if s.linkUp i then
      let s := if (s.link i).activeSince + 1000000 ≤ s.time then s.setFld (F.lnkStatusAttempts i) 0 else s
      let s := s.setLink i { s.link i with tries := 0, listening := true, trickleSent := false, echoSeen := false }
      s.linkDown i lkDetect
    else s

/-- LINK_WAKE_TIMEOUT: 40 µs in WAKE without lock fail an attempt; traffic waits (R395). -/
def execLinkWakeTimeout (link : LinkNo) (s : State) : Host.Outcome State Fault Refusal :=
  let i := link.val
  .next (if s.linkState i = lkWake then ((s.leaveUp i).failAttempt i 0x07 lkWake).unitWork else s)

/-- A link sent to full training from an up state, its traffic held (R395, R431). -/
def State.retrainUp (s : State) (i : Nat) : State := (s.leaveUp i).lose 5 2

/-- LNK_CTL_RETRAIN: Hedger firmware's write of RETRAIN starts full training as LINK_RETRAIN with action 0 does (R395,
R414). -/
def State.retrain (s : State) (i : Nat) : State :=
  let st := s.linkState i
  if st = lkLoopback ∨ ¬ s.linkExists i ∨ s.txIdle.testBit i then s
  else if s.linkUp i then s.retrainUp i
  else if st = lkDisabled ∨ st = lkFailed then
    (s.setLink i { s.link i with tries := 0, listening := true }).clearLink i lkDetect |>.setFld (F.lnkStatusAttempts i) 0
  else s

/-- LINK_RETRAIN_DONE: the operation ends with the link ACTIVE or DISABLED (OK) or FAILED (HW_FAULT) (R429, R431). -/
def execLinkRetrainDone (link : LinkNo) (s : State) : Host.Outcome State Fault Refusal :=
  let i := link.val
  let st := s.linkState i
  .next <|
    match (s.link i).op with
    | none => s
    | some id =>
      let s' := s.setLink i { s.link i with op := none }
      if st = lkActive ∨ st = lkDisabled then s'.finishOp id stOk []
      else if st = lkFailed then s'.finishOp id stHwFault []
      else s

/-! ### A failed router (R300) -/

/-- What owned an open row of a failed router: a DMA descriptor fails. -/
def OpenRow.dma (o : OpenRow) : Option Nat :=
  match o.load with
  | .write _ w => (match w.from_ with | .dma c => some c | _ => none)
  | .stream _ _ _ w => (match w.from_ with | .dma c => some c | _ => none)
  | .read _ r => (match r.dest with | .dma c _ => some c | _ => none)
  | .back c _ _ => some c
  | .out _ _ _ => none

/-- The beat that an open row of a channel's read is. -/
def OpenRow.beat (o : OpenRow) (c : Nat) : Option Nat :=
  match o.load with
  | .read _ r => (match r.dest with | .dma d k => if d = c then some k else none | _ => none)
  | .back d k _ => if d = c then some k else none
  | _ => none

/-- ROUTER_FAILED. A kernel whose block names the router, or a link to it, is aborted with UNIT_FAILED. Hedger's new routes
and distances stand at once: no open row waits for them (log 39). -/
def execRouterFailed (c : ClumpNo) (cause : Fin 3) (s : State) : Host.Outcome State Fault Refusal :=
  let k := c.val
  .next <|
    if s.routerFailed k then s
    else
      let s := s.setMaskBit F.plnRouterFailed k
      let s := s.logEvent svAlert 3 stHwFault 0x0300 k 0 cause.val
      let s := s.fenceClump k 4 3 0x0300
      let s := ((List.range 32).filter fun i => adapterClump i == k).foldl (fun s i =>
        if s.linkUp i ∨ (s.link i).keepTraffic then s.linkDown i lkDetect else s) s
      let hit := s.kernels.filter fun x => x.started && s.blocks.any fun b =>
        b.queue == x.queue && b.idx == x.idx && namesRouter b.sections k
      let mark := fun (x : Kernel) => if hit.any (fun y => y.queue == x.queue && y.idx == x.idx) then { x with unitFailed := true } else x
      let s := { s with kernels := s.kernels.map mark }
      let s := hit.foldl (fun s x => s.abortKernel x 0 0 stUnitFailed) s
      let gone := (s.router k).opens
      let s := s.setRouter k { s.router k with opens := [] }
      let s := (gone.filterMap OpenRow.dma).eraseDups.foldl (fun s d =>
        s.dmaKill d (fun x => gone.any fun o => o.beat d == some x.beat) false) s
      s.settleKernels.unitWork

end Sys2Proof.Machine
end

