-- ==== Sys2Proof/Machine/Scratch.lean ====
section
/-! DEFINITION. What happens at a core's inbound path and its banks beside the schedule (R132 to R150), and the faults
of a core and its microcode (R178, R567). -/

namespace Sys2Proof.Machine

/-- Entry i of a list taken out. -/
def takeAt {α : Type} : List α → Nat → Option (α × List α)
  | [], _ => none
  | a :: l, 0 => some (a, l)
  | a :: l, i + 1 => (takeAt l i).map fun x => (x.1, a :: x.2)

/-- What follows a write that has left the inbound path: its READBACKs, its DMA channel. -/
def State.afterWrite (s : State) (p : Nat) (w : InWrite) : State :=
  let s := s.settleRouter (clumpOf p)
  match w.from_ with
  | .link i => s.settleBacks i
  | .dma c => s.dmaAdvance c
  | _ => s

/-- A write is a merge if an edge splits a 32-bit word (R122). -/
def InWrite.merges (w : InWrite) : Bool := w.off % 4 != 0 || (w.off + w.data.length) % 4 != 0

/-- UNSCHEDULED_WRITE_LAND (R132 to R134, R138, R143, R363): entry i of the inbound write buffer lands, unless an
earlier write to its bank or a live engine entry keeps it. -/
def execUnscheduledWriteLand (p : CoreNo) (i waited : Nat) (port : PortEvent) (s : State) :
    Host.Outcome State Fault Refusal :=
  .next <|
    let c := s.core p.val
    match takeAt c.inbox i with
    | none => s
    | some (w, rest) =>
      if s.power p.val ≠ pwLeaf then s
      else if (c.inbox.take i).any fun x => bankOf x.off == bankOf w.off then s
      else
        let s := s.addFld (F.spdInboundWait p.val) waited
        if s.dmaWriteWaits p.val w then s
        else
          let s := s.setCore p.val { c with inbox := rest }
          if s.fencedCore p.val then ((s.answerWrite w stUnitFailed).afterWrite p.val w).unitWork
          else
            let met := if w.merges then s.port p.val 3 p.val true (unscheduledPort port)
              else (s, false)
            if met.2 then ((met.1.answerWrite w stHwFault).afterWrite p.val w).unitWork
            else
              let s := met.1.writeCore p.val w.off w.data
              let s := match w.window with
                | some x => s.countWindow x w.data.length
                | none => s
              ((s.answerWrite w stOk).afterWrite p.val w).unitWork

/-- Whether an unscheduled read may be served: every write to its row accepted earlier has landed (R134), and before a
READBACK every earlier write of its link (R328). -/
def State.readReady (s : State) (p : Nat) (r : InRead) : Bool :=
  let rows := s.routers.any fun x => x.2.opens.any fun o =>
    match o.load with
    | .write q w => q == p && decide (w.seq < r.seq) && w.off / 256 == r.off / 256
    | _ => false
  let mine := (s.core p).inbox.any fun w => decide (w.seq < r.seq) && w.off / 256 == r.off / 256
  let back := match r.dest with
    | .link i _ true => s.underWay.any fun w => w.from_ == .link i && decide (w.seq < r.seq)
    | _ => false
  !rows && !mine && !back

/-- A packet from a core's inbound path to the adapter of its link, as an open row (R285). -/
def State.replyRow (s : State) (p i : Nat) (pkt : OutPkt) : State :=
  s.sendRow (clumpOf p) { from_ := 0, home := none, dest := adapterClump i, load := .out i 2 pkt }

/-- A read of core p answered with its data: to its link, or to the channel that writes it; data that leaves the die
crosses the mesh to the adapter of its link (R285, R326). -/
def State.answerRead (s : State) (p : Nat) (r : InRead) (data : List Byte) : State :=
  match r.dest with
  | .dma c k =>
    match (s.chan c).run with
    | none => s
    | some x =>
      match x.link with
      | some i =>
        if s.isLocal (dmDst x.bytes) then s.dmaReturned c none (some k) data
        else (((s.sendRow (clumpOf p) { from_ := 0, home := none, dest := adapterClump i, load := .back c k data }).dmaPump
          c 257).dmaAdvance c).unitWork
      | none => s.dmaReturned c none (some k) data
  | .link i tag _ => s.replyRow p i (.data tag stOk data)

/-- A read of core p rejected. -/
def State.rejectRead (s : State) (p : Nat) (r : InRead) (status : Nat) : State :=
  match r.dest with
  | .dma c k => s.dmaRejected c status none (some k) (if status = stHwFault then 0 else 0xFF000000) false
  | .link i tag _ => s.replyRow p i (.status tag status)

/-- UNSCHEDULED_READ (R132, R134, R142, R143): the first read of the queue that may be served. -/
def execUnscheduledRead (p : CoreNo) (port : PortEvent) (s : State) : Host.Outcome State Fault Refusal :=
  .next <|
    let c := s.core p.val
    if s.power p.val ≠ pwLeaf then s
    else
      match c.readq.findIdx? (s.readReady p.val) with
      | none => s
      | some i =>
        match takeAt c.readq i with
        | none => s
        | some (r, rest) =>
          let s := (s.setCore p.val { c with readq := rest }).settleRouter (clumpOf p.val)
          if s.fencedCore p.val then (s.rejectRead p.val r stUnitFailed).unitWork
          else
            let met := s.port p.val 3 p.val true (unscheduledPort port)
            if met.2 then (met.1.rejectRead p.val r stHwFault).unitWork
            else (met.1.answerRead p.val r (met.1.readCore p.val r.off r.len)).unitWork

/-- ECC_WRITEBACK (R142): a corrected word of this row is written back. -/
def execEccWriteback (p : CoreNo) (bank : Fin 16) (row : Fin 1024) (s : State) : Host.Outcome State Fault Refusal :=
  let c := s.core p.val
  .next (s.setCore p.val { c with writeback := c.writeback.erase (bank.val, row.val) })

/-- Unit kind and number of a core in an event: logical if it has a number, else physical (R567). -/
def State.coreUnit (s : State) (p : Nat) : Nat × Nat :=
  match s.logical p with
  | some l => (1, l)
  | none => (2, p)

/-- WAKE_TIMEOUT (R149): the bank of held accesses was not powered in time; they are rejected and an event recorded. -/
def execWakeTimeout (p : CoreNo) (bank : Fin 16) (s : State) : Host.Outcome State Fault Refusal :=
  .next <|
    let c := s.core p.val
    let ws := c.inbox.filter fun w => bankOf w.off == bank.val
    let rs := c.readq.filter fun r => bankOf r.off == bank.val
    if s.power p.val = pwLeaf ∨ (ws.isEmpty ∧ rs.isEmpty) then s
    else
      let s := s.setCore p.val { c with inbox := c.inbox.filter (fun w => bankOf w.off != bank.val),
                                        readq := c.readq.filter (fun r => bankOf r.off != bank.val) }
      let u := s.coreUnit p.val
      let s := s.logEvent svWarning u.1 stHwFault 0x0203 u.2 0 bank.val
      let s := ws.foldl (fun s w => (s.answerWrite w stHwFault).afterWrite p.val w) s
      (rs.foldl (fun s r => s.rejectRead p.val r stHwFault) s).unitWork

/-- MEM_WAKE_RETURN (R150, R486): the inbound path has been empty for 1,024 cc; the core returns to the state it was in
before the wake. -/
def execMemWakeReturn (p : CoreNo) (s : State) : Host.Outcome State Fault Refusal :=
  .next <|
    let c := s.core p.val
    match c.returnTo with
    | none => s
    | some x =>
      if s.power p.val = pwLeaf ∧ c.inbox.isEmpty ∧ c.readq.isEmpty then
        (s.setCore p.val { c with returnTo := none }).beginEntry p.val x
      else s

/-- IMEM_SCRUB (R567 cause 2): a clean word changes nothing; an uncorrectable one fences the core, and its kernel goes
on (R115). -/
def execImemScrub (p : CoreNo) (uncorrectable : Bool) (s : State) : Host.Outcome State Fault Refusal :=
  .next (if uncorrectable then (s.fenceCore p.val 2 false).unitWork else s)

/-- ENGINE_FAULT (R567 causes 1 to 3). -/
def execEngineFault (p : CoreNo) (cause : Fin 4) (s : State) : Host.Outcome State Fault Refusal :=
  .next <|
    if cause.val = 1 then (s.fenceCore p.val 1 true).unitWork
    else if cause.val = 2 then (s.fenceCore p.val 2 true).unitWork
    else if cause.val = 3 then (s.fenceClump (clumpOf p.val) 3 2 0x0201).unitWork
    else s

/-- NOISE_HEALTH (R178): the event; the engines keep their seeds. -/
def execNoiseHealth (s : State) : Host.Outcome State Fault Refusal :=
  .next (s.logEvent svWarning 0 0 0x0204 0 0 0)

end Sys2Proof.Machine
end

