-- ==== Sys2Proof/Machine/Pleach.lean ====
section
/-! DEFINITION. The pleach network in motion: slot entries, stalls, reduction, the stile (R266, R270 to R283, R290,
R291), open rows (R284, R285). -/

namespace Sys2Proof.Machine

/-! ### Entries that act -/

/-- Whether a section acts at an index (R293, R296). -/
def PlnSection.acts (x : PlnSection) (i : Nat) : Bool :=
  decide (0 < x.ran) && (x.periods == 0 || decide (x.ran ≤ x.periods)) && decide (x.first ≤ i) &&
    decide (i < x.first + x.entries.length)

/-- Sections that act in a router at an index, with the kernel of each: queue, ring index, section. -/
def State.actors (s : State) (c i : Nat) : List (Nat × Nat × PlnSection) :=
  if s.routerFailed c then []
  else s.blocks.flatMap fun b => (b.sections.filter fun x => x.clump == c && x.acts i).map fun x => (b.queue, b.idx, x)

/-- A section's entry at an index. -/
def PlnSection.at_ (x : PlnSection) (i : Nat) : Nat := (x.entries[i - x.first]?).getD 0

/-- What a router's outputs carry at an index: the fields of all its sections together, disjoint by R296. -/
def State.entryAt (s : State) (c i : Nat) : Nat := (s.actors c i).foldl (fun a x => a ||| x.2.2.at_ i) 0

/-- Routers of a half. -/
def halfClumps (h : Nat) : List Nat := (List.range 24).filter fun c => halfOfClump c == h

/-- The section whose stream register r a router uses: the one that owns it; an unowned register reads 0 (log 27). -/
def State.streamRow (s : State) (c r : Nat) : Nat :=
  match (s.blocks.flatMap PlnBlock.sections).find? fun x => x.clump == c && x.streamMask.testBit r with
  | none => 0
  | some x =>
    let v := (x.streams[r]?).getD 0
    let wrap := if bitsAt v 32 16 = 0 then 65536 else bitsAt v 32 16
    (bitsAt v 0 16 + bitsAt v 16 16 * (tget 0 x.uses r % wrap)) % 65536

/-- A use of stream register r counted (R275). -/
def State.useStream (s : State) (c r : Nat) : State :=
  let bump := fun (x : PlnSection) =>
    if x.clump == c && x.streamMask.testBit r then
      let uses := tmod 0 x.uses r (· + 1)
      { x with uses := uses }
    else x
  { s with blocks := s.blocks.map fun b => { b with sections := b.sections.map bump } }

/-- The core a clump row lies in, and the row within the core. -/
def rowCore (c row : Nat) : Nat := 4 * c + row / 16384
def rowIn (row : Nat) : Nat := row % 16384

/-! ### Sources (R273, R274) -/

def zeroRow : List Byte := List.replicate 256 0

/-- Whether an input code of a router comes over the stile. -/
def stileInput (c code : Nat) : Bool := decide (1 ≤ code ∧ code ≤ 8) && crossesStile c ((code - 1) / 2)

/-- The front row of a stile FIFO, once it has crossed (R290). -/
def State.stileFront (s : State) (c code : Nat) : Option (List Byte) :=
  match tget [] (s.router c).stile code with
  | r :: _ => if r.send = 0 ∧ r.recv = 0 then some r.row else none
  | [] => none

/-- Key of the inbound stream an entry's AIn reads, of the outbound stream its AOn feeds. -/
def aiKey (c e n : Nat) : Option Nat := (clumpAdapter c n).map fun a => a * 4 + entryAis e n
def aoKey (c e n : Nat) : Option Nat := (clumpAdapter c n).map fun a => a * 4 + 2 + entryAos e n

/-- The next row of an inbound stream. -/
def State.aiRow (s : State) (c e n : Nat) : Option (List Byte) :=
  match aiKey c e n with
  | none => none
  | some k =>
    match tfind s.streams k with
    | some t => tfind t.rows t.next
    | none => none

/-- 256 bytes of FP32 words. -/
def f32Row (ws : List Word) : List Byte := ws.flatMap fun w => leBytes 4 w.toNat
/-- 256 bytes of FP32 values rounded to BF16. -/
def bf16Row (ws : List Word) : List Byte := ws.flatMap fun w => leBytes 2 (fmtBf16.toIeee .nearest (ofF32 w))
/-- FP32 values of a row of FP32 or BF16 elements. -/
def rowVals (bf : Bool) (row : List Byte) : List Word :=
  if bf then (List.range 128).map fun i => BitVec.ofNat 32 (leAt row (2 * i) 2 * 65536)
  else (List.range 64).map fun i => BitVec.ofNat 32 (leAt row (4 * i) 4)

/-- The accumulator as source ACC delivers it (R283). -/
def RouterSt.accRow (r : RouterSt) : List Byte :=
  let vs := (List.range 128).map fun i => (r.acc[i]?).getD 0
  if r.accBf then bf16Row vs else f32Row (vs.take 64)

/-- The row a source supplies, none if it is not present. -/
def State.source (s : State) (c e code : Nat) : Option (List Byte) :=
  if code = 0 then none
  else if stileInput c code then
    (if (match meshNext c ((code - 1) / 2) with | some d => s.routerFailed d | none => false) then some zeroRow
     else s.stileFront c code)
  else if code ≤ 8 then
    (if (match meshNext c ((code - 1) / 2) with | some d => s.routerFailed d | none => false) then some zeroRow
     else some (tget zeroRow (s.router c).held code))
  else if code ≤ 11 then some (tget zeroRow (s.router c).held code)
  else if code = 12 then some (s.router c).accRow
  else s.aiRow c e (code - 13)

/-- A code that names an input from a failed router. -/
def State.deadSource (s : State) (c code : Nat) : Bool :=
  decide (1 ≤ code ∧ code ≤ 8) &&
    match meshNext c ((code - 1) / 2) with
    | some d => s.routerFailed d
    | none => false

/-- Whether an entry's ROP is an ACC. -/
def isAcc (e : Nat) : Bool := entryRop e == 3 || entryRop e == 4
def isAdd (e : Nat) : Bool := entryRop e == 1 || entryRop e == 2

/-- The network cycle since which a source's row is present; 0 for one that always is, none for one that is not (log 29). -/
def State.presentAt (s : State) (c e code : Nat) : Option Nat :=
  if (s.source c e code).isNone then none
  else if s.deadSource c code then some 0
  else if stileInput c code then ((tget [] (s.router c).stile code).head?).map StileRow.at_
  else if code ≤ 11 then some (tget 0 (s.router c).heldAt code)
  else if code = 12 then some 0
  else
    match aiKey c e (code - 13) with
    | none => some 0
    | some k => (tfind s.streams k).map fun t => tget 0 t.came t.next

/-- The operand an ACC takes: that of RA and RB whose row was present first, RA on a tie (R283). -/
def State.accOperand (s : State) (c e : Nat) : Nat :=
  match s.presentAt c e (entryOut e 10), s.presentAt c e (entryOut e 11) with
  | some a, some b => if b < a then entryOut e 11 else entryOut e 10
  | some _, none => entryOut e 10
  | none, _ => entryOut e 11

/-- Source codes an entry takes, each once. -/
def State.taken (s : State) (c e : Nat) : List Nat :=
  let plain := ((List.range 14).filter fun k => k != 10 && k != 11 || !isAcc e).map (entryOut e)
  ((plain ++ if isAcc e then [s.accOperand c e] else []).filter (· ≠ 0)).eraseDups

/-! ### Stalls (R277) -/

/-- Row of RDn or WBn of a router held by its core's scoreboard (R280). -/
def State.slotHeld (s : State) (c row : Nat) (wr : Bool) : Bool :=
  let p := rowCore c row
  match s.kernelOn p with
  | none => false
  | some k =>
    k.scoreboard && (List.range 32).any fun i =>
      let src := s.fld (F.spdSbASource p i)
      let rd := s.bit (F.spdSbAKind p i)
      s.sbLive p i && s.sbOverlaps p i row row && (if wr then rd || src != 0 else !rd && src != 0)

/-- Whether a router's bank accesses are held. -/
def State.entryHeld (s : State) (c e : Nat) : Bool :=
  (List.range 2).any fun n =>
    ((entryRd e n).1 && s.slotHeld c (s.streamRow c (entryRd e n).2) false) ||
      (entryOut e (8 + n) != 0 && s.slotHeld c (s.streamRow c (entryWs e n).1) true)

/-- Stile lanes a router's entry waits for. -/
def State.lateLanes (s : State) (c e : Nat) : List Nat :=
  let codes := (s.taken c e) ++ if isAcc e then [entryOut e 10, entryOut e 11] else []
  if isAcc e && ((s.source c e (entryOut e 10)).isSome || (s.source c e (entryOut e 11)).isSome) then
    (s.taken c e).filter fun x => stileInput c x && (s.source c e x).isNone
  else (codes.eraseDups).filter fun x => stileInput c x && (s.source c e x).isNone

/-- The first cause of R277's list that keeps a router from executing entry e, 0 for none; `frozen` says a coupled core
is. An operand of ADD or both of ACC that name no source are not present: cause 2 (log 29). -/
def State.stallCause (s : State) (c e : Nat) (frozen : Bool) : Nat :=
  let miss := (s.taken c e).any fun x => (s.source c e x).isNone
  let none2 := (isAdd e && (entryOut e 10 == 0 || entryOut e 11 == 0)) ||
    (isAcc e && (s.source c e (entryOut e 10)).isNone && (s.source c e (entryOut e 11)).isNone)
  let full := (List.range 8).any fun k => entryOut e k != 0 && crossesStile c (k / 2) &&
    match meshNext c (k / 2) with
    | some d => !s.routerFailed d && decide (8 ≤ (tget [] (s.router d).stile (meshBack (k / 2) * 2 + k % 2 + 1)).length)
    | none => false
  let ao := (List.range 2).any fun n => entryOut e (12 + n) != 0 &&
    match aoKey c e n with
    | some k => (match tfind s.streams k with | some t => decide (t.cap ≤ t.rows.length) | none => true)
    | none => true
  if !(s.lateLanes c e).isEmpty then 1
  else if miss || none2 then 2
  else if full then 3
  else if ao then 4
  else if s.entryHeld c e then 5
  else if frozen then 6
  else 0

/-- Whether a coupled core of a half is frozen for a reason that is not the half's own stall (R279). -/
def State.coupledFrozen (s : State) (h : Nat) : Bool :=
  let own := fun (l : List Nat) => l.any fun p => (s.core p).frozenOwn
  let a := s.coupled h
  let b := s.coupled (1 - h)
  own a || (a.any (fun p => b.contains p) && ((tfind s.stalledBy (1 - h)).isSome || own b))

/-- The first router of a half that cannot execute, and its cause. -/
def State.plnCause (s : State) (h : Nat) : Option (Nat × Nat) :=
  let i := s.fld (F.plnHalfIndex h)
  let frozen := s.coupledFrozen h
  ((halfClumps h).filter fun c => !s.routerFailed c).findSome? fun c =>
    let x := s.stallCause c (s.entryAt c i) frozen
    if x = 0 then none else some (c, x)

/-- A coupled core frozen for a cycle of its half's stall (R99, R279). -/
def State.freezeCore (s : State) (h p : Nat) : State :=
  let st := s.coreState p
  let s := if csRunning ≤ st ∧ st ≤ csFencing then
      (s.setCore p { s.core p with frozenFrom := some st }).setCoreState p csFrozen
    else s
  if halfOf p = h ∨ ¬ s.bit (F.plnHalfStalled (halfOf p)) then s.addFld (F.corFreezeCc p) 1 else s

/-- A coupled core goes on when its half does. -/
def State.thawCore (s : State) (h p : Nat) : State :=
  let c := s.core p
  match c.frozenFrom with
  | none => s
  | some st =>
    if c.frozenOwn ∨ (s.bit (F.plnHalfStalled (1 - h)) ∧ (s.coupled (1 - h)).contains p) then s
    else (s.setCore p { c with frozenFrom := none }).setCoreState p st

/-- Counters of a router in a stalled cycle (R280, R291). -/
def State.noteStall (s : State) (c e : Nat) : State :=
  let late := s.lateLanes c e
  let r := s.router c
  let s := if late.isEmpty then s
    else
      let new := late.filter fun x => !r.late.contains x
      let s := s.setRouter c { r with late := r.late ++ new }
      (s.addFld (F.plnRtrStileLate c) new.length).addFld (F.plnRtrStileLateCc c) 1
  if s.entryHeld c e then s.addFld (F.plnRtrSbWait c) 1 else s

/-- A stalled cycle of a half. -/
def State.plnStallCycle (s : State) (h cause : Nat) : State :=
  let i := s.fld (F.plnHalfIndex h)
  let s := (s.setFld (F.plnHalfStalled h) 1).addFld (F.plnStallCc h) 1
  let s := { s with stalledBy := if cause = 6 then tdel s.stalledBy h else tins s.stalledBy h cause }
  let s := ((halfClumps h).filter fun c => !s.routerFailed c).foldl (fun s c => s.noteStall c (s.entryAt c i)) s
  (s.coupled h).foldl (fun s p => s.freezeCore h p) s

/-! ### Execution -/

/-- Flights of a router advance by one entry, in a network cycle; those that arrive replace the row of their source or
enter the accumulator (R276, R283). -/
def RouterSt.advance (r : RouterSt) (cycle : Nat) : RouterSt :=
  let fl := r.flights.map fun f => (f.1 - 1, f.2)
  let held := (fl.filter fun f => f.1 == 0).foldl (fun m f => tset zeroRow m f.2.1 f.2.2) r.held
  let heldAt := (fl.filter fun f => f.1 == 0).foldl (fun m f => tset 0 m f.2.1 cycle) r.heldAt
  let ai := r.accIn.map fun f => (f.1 - 1, f.2)
  let come := ai.filter fun f => f.1 == 0
  let acc := come.foldl (fun (a : List Word) f =>
    let vs := rowVals f.2.1 f.2.2
    (List.range 128).map fun i =>
      match vs[i]? with
      | some v => f32Add ((a[i]?).getD 0) v
      | none => (a[i]?).getD 0) r.acc
  let bf := match come.getLast? with
    | some f => f.2.1
    | none => r.accBf
  { r with flights := fl.filter (fun f => f.1 != 0), held, heldAt, accIn := ai.filter (fun f => f.1 != 0), acc,
           accBf := bf, late := [] }

/-- Element-wise ADD (R282). -/
def addRows (bf : Bool) (a b : List Byte) : List Byte :=
  let vs := (rowVals bf a).zipWith f32Add (rowVals bf b)
  if bf then bf16Row vs else f32Row vs

/-- Receiver edges that a row across the stile waits for: the first ends the crossing of a row whose 2 sender cycles are over,
the 4 cycles of the receiving half follow (R290). -/
abbrev stileEdges : Nat := 5

/-- One output of a mesh lane carried to the neighbour (R272, R290, R300). -/
def State.sendLane (s : State) (c k : Nat) (row : List Byte) : State :=
  match meshNext c (k / 2) with
  | none => s
  | some d =>
    if s.routerFailed d then s
    else
      let code := meshBack (k / 2) * 2 + k % 2 + 1
      let r := s.router d
      if crossesStile c (k / 2) then
        s.setRouter d { r with stile := tins r.stile code (tget [] r.stile code ++ [{ row, send := 2, recv := stileEdges }]) }
      else s.setRouter d { r with flights := r.flights ++ [(2, code, row)] }

/-- Sources 13, 14 and stile inputs that an entry takes are used up; ACC is cleared (R274, R283). -/
def State.consume (s : State) (c e code : Nat) : State :=
  if stileInput c code then
    let r := s.router c
    let q := (tget [] r.stile code).drop 1
    s.setRouter c { r with stile := tset [] r.stile code q }
  else if code = 12 then s.setRouter c { s.router c with acc := [] }
  else if 13 ≤ code then
    match aiKey c e (code - 13) with
    | none => s
    | some k =>
      match tfind s.streams k with
      | none => s
      | some t =>
        let t' : AdpStream := { t with next := t.next + 1, rows := tdel t.rows t.next }
        ({ s with streams := tins s.streams k t' }).settleRouter c
  else s

/-- The kernel of a section, by queue and ring index. -/
def State.kernelAt (s : State) (q idx : Nat) : Option Kernel := s.kernels.find? fun k => k.queue == q && k.idx == idx

/-- Whether a scheduled bank access to core p is served (R266). -/
def State.slotAllowed (s : State) (q idx p : Nat) : Bool :=
  match s.kernelAt q idx with
  | some k => k.phys.contains p && s.power p == pwLeaf
  | none => false

/-- A section's bank accesses at an entry: the rows it reads and writes, and the cores whose access was denied. `rows` gives
the row each WB output carries; `old` is the scratchpad before this cycle's writes landed, which a read returns (R121; log
81). -/
def State.slotBanks (s : State) (old : Mem) (c : Nat) (x : Nat × Nat × PlnSection) (e : Nat) (rows : Nat → List Byte) :
    State × List (Nat × Nat × Nat) :=
  let rd := (List.range 2).foldl (fun (a : State × List (Nat × Nat × Nat)) n =>
    if (entryRd e n).1 then
      let row := a.1.streamRow c (entryRd e n).2
      let p := rowCore c row
      if a.1.slotAllowed x.1 x.2.1 p then
        let r := a.1.router c
        (a.1.setRouter c { r with flights := r.flights ++ [(6, 9 + n, old.gets (p * coreBytes + rowIn row * 256) 256)] }, a.2)
      else (a.1, a.2 ++ [(x.1, x.2.1, p)])
    else a) (s, [])
  (List.range 2).foldl (fun (a : State × List (Nat × Nat × Nat)) n =>
    if entryOut e (8 + n) ≠ 0 then
      let row := a.1.streamRow c (entryWs e n).1
      let p := rowCore c row
      if a.1.slotAllowed x.1 x.2.1 p then
        let r := a.1.router c
        let w : WbRow := { left := 6, p, row := rowIn row, data := rows (entryOut e (8 + n)), rel := (entryWs e n).2 }
        (a.1.setRouter c { r with wbs := r.wbs ++ [w] }, a.2)
      else (a.1, a.2 ++ [(x.1, x.2.1, p)])
    else a) rd

/-- Stream registers an entry uses, each once. -/
def entryRegs (e : Nat) : List Nat :=
  ((List.range 2).flatMap fun n =>
    (if (entryRd e n).1 then [(entryRd e n).2] else []) ++ if entryOut e (8 + n) ≠ 0 then [(entryWs e n).1] else []).eraseDups

/-- A router executes its entry. The result lists denied bank accesses: kernel and core. -/
def State.execRouter (s : State) (old : Mem) (c i : Nat) : State × List (Nat × Nat × Nat) :=
  let e := s.entryAt c i
  if e = 0 then (s, [])
  else
    let who := s.actors c i
    let codes := s.taken c e
    let rows := fun code => ((codes.map fun x => (x, (s.source c e x).getD zeroRow)).find? fun y => y.1 == code).elim zeroRow
      (fun y => y.2)
    let dead := (codes.filter (s.deadSource c)).length
    let op := if isAcc e then s.accOperand c e else 0
    let s1 := codes.foldl (fun s x => s.consume c e x) s
    let s2 := s1.addFld (F.plnRtrDeadRx c) dead
    let outs := (List.range 14).filter fun k => entryOut e k != 0
    let s3 := s2.addFld (F.plnRtrSched c) (outs.filter fun k => k != 10 && k != 11).length
    let s4 := (outs.filter fun k => decide (k < 8)).foldl (fun s k => s.sendLane c k (rows (entryOut e k))) s3
    let s5 := (outs.filter fun k => decide (12 ≤ k)).foldl (fun s k =>
      match aoKey c e (k - 12) with
      | none => s
      | some key =>
        match tfind s.streams key with
        | none => s
        | some t =>
          let t' : AdpStream := { t with next := t.next + 1, rows := tins t.rows t.next (rows (entryOut e k)) }
          { s with streams := tins s.streams key t' }) s4
    let r := s5.router c
    let s6 := if isAdd e then
        let sum := addRows (entryRop e == 2) (rows (entryOut e 10)) (rows (entryOut e 11))
        (s5.setRouter c { r with flights := r.flights ++ [(2, 11, sum)] }).addFld (F.plnRtrReduce c) 1
      else if isAcc e then
        (s5.setRouter c { r with accIn := r.accIn ++ [(2, entryRop e == 4, rows op)] }).addFld (F.plnRtrReduce c) 1
      else s5
    let s7 := who.foldl (fun (a : State × List (Nat × Nat × Nat)) x =>
      let b := a.1.slotBanks old c x (x.2.2.at_ i) rows
      (b.1, a.2 ++ b.2)) (s6, [])
    ((entryRegs e).foldl (fun s r => s.useStream c r) s7.1, s7.2)

/-- A period begins in a half (R270, R296, R110): sections begin a period, and static kernels' cores that wait for it
start. -/
def State.periodBegins (s : State) (h : Nat) : State :=
  let go := fun (x : PlnSection) =>
    if halfOfClump x.clump = h then { x with ran := if x.periods = 0 then 1 else min (x.ran + 1) (x.periods + 1) } else x
  let s := { s with blocks := s.blocks.map fun b => { b with sections := b.sections.map go } }
  ((List.range 96).filter fun p => halfOf p == h && (s.core p).startWaits).foldl (fun s p =>
    (s.setCore p { s.core p with startWaits := false }).setCoreState p csRunning) s

/-- A denied bank access (R266): a fatal CLUMP_ACCESS on its core, or on the kernel's lowest core. -/
def State.denySlot (s : State) (x : Nat × Nat × Nat) : State :=
  match s.kernelAt x.1 x.2.1 with
  | none => s
  | some k =>
    if k.phys.contains x.2.2 then s.fatal x.2.2 erClump
    else
      match k.phys.head? with
      | some p => s.fatal p erClump
      | none => s

/-- Cycles that pass in a half whether it stalls or not: rows cross the stile (R290), WB rows land (R276, R280). -/
def State.plnPass (s : State) (h : Nat) : State :=
  let cross := fun (s : State) (c : Nat) =>
    let r := s.router c
    let step := fun (x : StileRow) =>
      if halfOfClump c = h then
        (if x.send = 0 ∧ 0 < x.recv then { x with recv := x.recv - 1, at_ := s.pcc } else x)
      else { x with send := x.send - 1 }
    if r.stile.isEmpty then s else s.setRouter c { r with stile := r.stile.map fun q => (q.1, q.2.map step) }
  let s := (List.range 24).foldl cross s
  (halfClumps h).foldl (fun s c =>
    let r := s.router c
    if r.wbs.isEmpty then s
    else
      let ws := r.wbs.map fun w => { w with left := w.left - 1 }
      let s := s.setRouter c { r with wbs := ws.filter fun w => w.left != 0 }
      (ws.filter fun w => w.left == 0).foldl (fun s w =>
        let s := s.writeCore w.p (w.row * 256) w.data
        if w.rel then
          let row := posOf w.p * 16384 + w.row
          match (s.core w.p).sbOrder.find? fun o => o.owner.isNone && s.fld (F.spdSbAKind w.p o.entry) == 0 &&
              s.sbOverlaps w.p o.entry row row with
          | some o => (s.sbRelease w.p o.entry).sbFreed w.p
          | none => s.addFld (F.plnRtrRelMiss c) 1
        else s) s) s

/-- Cycles in which an adapter's open region is full, and in which a row waits beyond a stream's capacity (R268,
R287). -/
def State.adapterCycle (s : State) (h : Nat) : State :=
  ((List.range 32).filter fun a => halfOfClump (adapterClump a) == h).foldl (fun s a =>
    let s := if s.openRoom a ≤ s.openRows a then s.addFld (F.plnAdpCreditHold a) 1 else s
    let ahead := (s.router (adapterClump a)).opens.any fun o =>
      match o.load with
      | .stream b t k _ => b == a && o.home == some a &&
          (match tfind s.streams (a * 4 + t) with | some x => decide (x.next + x.cap ≤ k) | none => false)
      | _ => false
    if ahead then s.addFld (F.plnAdpAhead a) 1 else s) s

/-- Bank accesses of a router's entry: physical core, bank, whether it writes (R266). -/
def State.slotAccesses (s : State) (c e : Nat) : List (Nat × Nat × Bool) :=
  (List.range 2).flatMap fun n =>
    (if (entryRd e n).1 then
      let row := s.streamRow c (entryRd e n).2
      [(rowCore c row, rowIn row / 1024, false)] else []) ++
    (if entryOut e (8 + n) ≠ 0 then
      let row := s.streamRow c (entryWs e n).1
      [(rowCore c row, rowIn row / 1024, true)] else [])

/-- Accesses that meet another of the same entry at a bank's port: two reads or two writes (R128). -/
def repeated (l : List (Nat × Nat × Bool)) : List (Nat × Nat × Bool) := l.eraseDups.filter fun x => decide (1 < l.count x)

/-- Conflicts that the entries of a half have among themselves at an index. -/
def State.selfConflicts (s : State) (h i : Nat) : List (Nat × Nat × Bool) :=
  (halfClumps h).flatMap fun c => repeated (s.slotAccesses c (s.entryAt c i))

/-- A scheduled access that lost its port to another: core, bank, kind, clump position served (R129). -/
def lostAccess (x : CoreNo × PortEvent) : Option (Nat × Nat × Bool × Nat) :=
  match x.2 with
  | .conflict bank writes q u =>
    let l := serialised x.1.val 3 q.val u.val
    if l.1 = x.1.val ∧ l.2.1 = 3 then some (x.1.val, bank.val, writes, l.2.2) else none
  | _ => none

/-- A serialised access costs the half a cycle (R278), and freezes its core if that is in a static-mode kernel (R130): each
conflict recorded, a stalled cycle, a freeze of the cores that the half's stall does not freeze. -/
def State.slotStall (s : State) (h : Nat) (lost : List (Nat × Nat × Bool × Nat)) : State :=
  let s := lost.foldl (fun s x => s.recordConflict x.1 3 x.2.1 x.2.2.1 x.2.2.2) s
  let s := (({ s with slotServed := h :: s.slotServed.filter (· ≠ h) }).plnStallCycle h 7)
  ((lost.map (·.1)).eraseDups.filter fun p => !(s.coupled h).contains p).foldl (fun s p => s.freezeCycles p 1) s

/-- What a bank or its port did to a scheduled access that is carried out: a conflict that another unit lost (R129), a
corrected error, or an uncorrectable one, which is fatal (R143). -/
def State.slotMet (s : State) (x : CoreNo × PortEvent) : State :=
  let p := x.1.val
  let r := s.port p 3 p true x.2
  if r.2 then r.1.fatal p erHw else r.1

/-- The entries of a half carried out (R270, R274 to R276): every router's, then the index moves on. -/
def State.execHalf (s : State) (old : Mem) (h : Nat) (met : List (CoreNo × PortEvent)) : State :=
  let i := s.fld (F.plnHalfIndex h)
  let s := ({ s with stalledBy := tdel s.stalledBy h, slotServed := s.slotServed.filter (· ≠ h) }).setFld (F.plnHalfStalled h) 0
  let s := (halfClumps h).foldl (fun s c => s.setRouter c ((s.router c).advance s.pcc)) s
  let x := (halfClumps h).foldl (fun (a : State × List (Nat × Nat × Nat)) c =>
    let b := a.1.execRouter old c i
    (b.1, a.2 ++ b.2)) (s, [])
  let s := (x.1.coupled h).foldl (fun s p => s.thawCore h p) x.1
  let wrap := decide (s.plnPeriod ≤ i + 1)
  let s := s.setFld (F.plnHalfIndex h) (if wrap then 0 else i + 1)
  let s := if wrap then s.periodBegins h else s
  let s := x.2.foldl (fun s d => s.denySlot d) s
  (met.foldl State.slotMet s).unitWork

/-- PLN_SLOT_EXECUTE: one cycle of a half (R270, R277, R278). `met` says what the accesses of cores met at their banks, `ecc`
in which slot tables an error was corrected (R301). -/
def execPlnSlotExecute (half : Half) (met : List (CoreNo × PortEvent)) (ecc : List ClumpNo) (s : State) :
    Host.Outcome State Fault Refusal :=
  let h := halfNo half
  .next <|
    if s.clocksOff then s
    else
      let old := s.mem
      let s := (ecc.filter fun c => halfOfClump c.val == h).foldl (fun s c => s.addFld (F.plnRtrEccCe c.val) 1) s
      let s := (({ s with pcc := s.pcc + 1 }).plnPass h).adapterCycle h
      match s.plnCause h with
      | some (_, cause) => s.plnStallCycle h cause
      | none =>
        let i := s.fld (F.plnHalfIndex h)
        let cores := ((halfClumps h).flatMap fun c => s.slotAccesses c (s.entryAt c i)).map (·.1)
        let met := met.filter fun x => cores.contains x.1.val
        let own := if s.slotServed.contains h then [] else s.selfConflicts h i
        let lost := own.map (fun x => (x.1, x.2.1, x.2.2, posOf x.1)) ++ met.filterMap lostAccess
        if lost = [] then s.execHalf old h met else s.slotStall h lost

/-- PLN_STALL (R281): the half has stalled for 1,048,576 cycles; it goes on stalling. -/
def execPlnStall (half : Half) (s : State) : Host.Outcome State Fault Refusal :=
  let h := halfNo half
  .next <|
    if s.bit (F.plnHalfStalled h) then
      match s.plnCause h with
      | some (c, cause) => s.logEvent svWarning 8 0 0x0301 h 0 (c + cause * 2 ^ 8 + s.fld (F.plnHalfIndex h) * 2 ^ 16)
      | none => s
    else s

/-! ### Open rows (R285) -/

/-- Rows of an input direction a router may hold: 8 on each of two lanes. -/
abbrev openLaneRoom : Nat := 16

/-- Whether a router's mesh link in a direction carries open traffic in this cycle: a lane that no loaded section owns at the
entry its half is at, or any lane while the half stalls (R284). -/
def State.laneFree (s : State) (c dir : Nat) : Bool :=
  let h := halfOfClump c
  let i := s.fld (F.plnHalfIndex h)
  s.bit (F.plnHalfStalled h) || [2 * dir, 2 * dir + 1].any fun k =>
    !s.blocks.any fun b => b.sections.any fun x =>
      x.clump == c && x.own.testBit k && decide (x.first ≤ i) && decide (i < x.first + x.entries.length)

/-- The first open row of a router that can hop, with the clump it goes to and the rows before and after it. -/
def State.hopPick (s : State) (c : Nat) (before : List OpenRow) : List OpenRow → Option (List OpenRow × OpenRow × Nat × Nat)
  | [] => none
  | o :: rest =>
    let go := if o.dest = c ∨ before.any (o.behind ·) then none
      else
        match s.openDir c o.dest with
        | none => none
        | some dir =>
          match meshNext c dir with
          | none => none
          | some n =>
            if s.laneFree c dir ∧ ((s.router n).opens.filter fun x => x.from_ == meshBack dir + 1).length < openLaneRoom then
              some (dir, n)
            else none
    match go with
    | some (dir, n) => some (before ++ rest, o, dir, n)
    | none => s.hopPick c (before ++ [o]) rest

/-- OPEN_ROW_HOP: the first open row of a router that has room ahead moves one hop. -/
def execOpenRowHop (src : ClumpNo) (s : State) : Host.Outcome State Fault Refusal :=
  let c := src.val
  .next <|
    if s.routerFailed c then s
    else
      match s.hopPick c [] (s.router c).opens with
      | none => s
      | some (left, o, dir, n) =>
        let s := (s.setRouter c { s.router c with opens := left }).addFld (F.plnRtrOpen c) 1
        let o' : OpenRow := { o with from_ := meshBack dir + 1, home := none }
        (((s.sendRow n o').settleRouter c)).unitWork

end Sys2Proof.Machine
end

