-- ==== Sys2Proof/Machine/Posts.lean ====
section
/-! DEFINITION. POST, and the writes that agents and links make to binders, roles and windows (R85, R99, R349 to R358,
R361, R367, R369, R382, R577, R582). -/

namespace Sys2Proof.Machine

/-! ### POST -/

/-- A POST counted as outstanding. -/
def State.postOut (s : State) (p : Nat) : State := s.setCore p { s.core p with postsOut := (s.core p).postsOut + 1 }

/-- A write of 4 bytes within one row (R381). -/
def inRow (a n : Nat) : Bool := decide (0 < n) && decide (n ≤ 256) && decide (a % 256 + n ≤ 256)

/-- An outstanding POST of physical core p and logical number l on its way (R48, R50, R55, R85, R382, R577). -/
def State.sendPost (s : State) (p l a : Nat) (v : Word) : State :=
  let data := leBytes 4 v.toNat
  if 6 ≤ addrSpace a then (s.addFld F.fltBadSpace 1).postAnswered p stBadParam
  else if addrSpace a = 2 then s.issueBinder a v.toNat (.core p)
  else if 11 < addrPos a ∨ (¬ s.isLocal a ∧ ¬ s.remoteLayoutOk a) then s.postAnswered p stBadParam
  else if s.isLocal a then
    if addrSpace a = 3 then
      if ¬ s.layoutOk a then s.postAnswered p stBadParam
      else
        let r := s.doorbell (doorbellCtx a) (a % 64) v.toNat
        r.1.postAnswered p r.2
    else if ¬ inRow a 4 then s.postAnswered p stBadParam
    else
      let r := s.windowWrite none (clumpOf p) a data none (.core p) 0
      if r.2 = stOk then r.1 else r.1.postAnswered p r.2
  else
    match s.linkOfPost p (addrDie a) with
    | none => s.postAnswered p stHwFault
    | some i => s.sendOn i 0 (.write (0xFF00 + l * 2) none true a data)

/-- POST (R85, R99): with 16 outstanding the sequencer stalls, and in static mode the core freezes; the cycles it stays
frozen count as they pass. -/
def execPost (c : CoreNo) (sa sb : SReg) (s : State) : Host.Outcome State Fault Refusal :=
  .next <| match s.sqAt c (encA 0x24 0 sa.val sb.val) csFrozen with
    | some p =>
      let a := s.sreg64 p sa.val
      if sa.val % 2 = 1 ∨ addrSpace a = 0 ∨ addrSpace a = 1 ∨ addrSpace a = 4 then s.fatal p erIllegal
      else if 16 ≤ (s.core p).postsOut then
        if s.fld (F.corStatusMode p) = 0 then
          let k := s.core p
          if s.coreState p = csFrozen then s.setCore p { k with frozenOwn := true }
          else (s.setCore p { k with frozenOwn := true, frozenFrom := some csRunning }).setCoreState p csFrozen
        else s
      else if s.coreState p = csFrozen then s
      else (((s.postOut p).nextPc p).sendPost p c.val a (s.sreg p sb.val)).unitWork
    | none => s

/-! ### Messages of the binder unit (R355 to R357) -/

/-- An ACK or a NAK for a message that arrived on link i (R355). -/
def State.ackMessage (s : State) (i : Nat) (m : BinderMsg) (status : Nat) : State :=
  let x : BOut := { address := m.address.toNat, op := if status = stOk then 3 else 4,
                    value := if status = stOk then 0 else m.value.toNat, status, froms := [.unit] }
  s.queueOut i x

/-- A message of the inbound queue performed and answered (R355, R576). An illegal OP is dropped (log 43). -/
def State.performMessage (s : State) (i : Nat) (m : BinderMsg) : State :=
  let a := m.address.toNat
  let b := binderNo a
  let run := fun (op : Nat) =>
    let r := s.binderOp { address := a / 64 * 64, op, value := m.value.toNat, from_ := .link i }
    r.1.ackMessage i m r.2
  if 2 < m.op.toNat then s
  else if ¬ s.isLocal a then (s.addFld F.fltMisrouted 1).ackMessage i m stBadParam
  else if addrSpace a ≠ 2 ∨ ¬ s.layoutOk a ∨ a % 64 ≠ (if m.op = 2 then 32 else 0) then
    (s.addFld F.bndReject 1).ackMessage i m stBadParam
  else if m.op = 0 then run 4
  else if m.op = 2 then run 32
  else if s.fld (F.bndUp b) = 0 ∨ addrDie (s.fld (F.bndUp b)) ≠ m.source.toNat then
    (s.addFld F.bndReject 1).ackMessage i m stBadParam
  else run 64

/-- A rejection sent back on the link. -/
def State.statusOn (s : State) (i tag status : Nat) : State := s.sendOn i 2 (.status tag status)

/-- An entry of the inbound queue performed and answered (R349, R355, R357, R382). -/
def State.performIn (s : State) (i : Nat) : InMsg → State
  | .msg m => s.performMessage i m
  | .write tag ack a v =>
    let r := s.binderOp { address := a, op := a % 64, value := v, from_ := .link i }
    if r.2 = stOk ∧ ack = false then r.1 else r.1.statusOn i tag r.2

/-- The unit takes operations alternately from the inbound queue and from those that its own work has left, until neither
waits (R357). -/
def State.serveInq (s : State) : Nat → State
  | 0 => s
  | n + 1 =>
    match s.inq with
    | [] => s.unitWork
    | (i, m) :: rest => ((({ s with inq := rest }).performIn i m).drain 1).serveInq n

/-- An operation that arrives on a link enters the inbound queue; a full queue is first served whole, for it drops nothing
(R357; log 75). -/
def State.enterInq (s : State) (i : Nat) (m : InMsg) : State :=
  let s := if 256 ≤ s.inq.length then { s.serveInq 257 with inq := [(i, m)] } else { s with inq := s.inq ++ [(i, m)] }
  s.setFld F.bndIncastPeak (max (s.fld F.bndIncastPeak) s.inq.length)

/-- An operation enters the inbound queue and the unit serves it. -/
def State.messageIn (s : State) (i : Nat) (m : InMsg) : State := (s.enterInq i m).serveInq 257

/-- Whether a link carries packets and messages: ACTIVE or RECONFIG. -/
def State.linkOpen (s : State) (i : Nat) : Bool := s.linkState i == lkActive || s.linkState i == lkReconfig

/-! ### Answers (R355, R356) -/

/-- The first message for an address in a list, and the rest. -/
def takeFor (a : Nat) : List BOut → Option (BOut × List BOut)
  | [] => none
  | m :: l => if m.address = a then some (m, l) else (takeFor a l).map fun x => (x.1, m :: x.2)

/-- An ACK or NAK answers the oldest message sent for its address, and every operation merged in it. -/
def State.answerMessage (s : State) (i : Nat) (m : BinderMsg) : State :=
  let l := s.link i
  match takeFor m.address.toNat l.bwait with
  | none => s
  | some (x, rest) =>
    let st := if m.op = 3 then stOk else m.status.toNat
    (x.froms.foldl (fun s o => s.answer o st) (s.setLink i { l with bwait := rest })).unitWork

/-- BINDER_ACK. -/
def execBinderAck (link : LinkNo) (m : BinderMsg) (s : State) : Host.Outcome State Fault Refusal :=
  .next (if s.linkOpen link.val ∧ m.op = 3 then s.stir.answerMessage link.val m else s)

/-- BINDER_NAK (R369). -/
def execBinderNak (link : LinkNo) (m : BinderMsg) (s : State) : Host.Outcome State Fault Refusal :=
  .next (if s.linkOpen link.val ∧ m.op = 4 then s.stir.answerMessage link.val m else s)

/-! ### Places that free (R582) -/

/-- The first owed message whose link is i: binder, and 0 for an ADD to the parent or 1 + the place in the list. -/
def State.firstOwed (s : State) (i : Nat) : Option (Nat × Nat) :=
  s.binders.findSome? fun x =>
    if x.2.owedUp ≠ 0 ∧ s.linkToDie (addrDie (s.fld (F.bndUp x.1))) = some i then some (x.1, 0)
    else (x.2.owedRel.find? fun e => decide (e.2 ≠ 0) &&
      s.linkToDie (addrDie ((x.2.list[e.1]?).getD 0)) == some i).map fun e => (x.1, e.1 + 1)

/-- OWED_MESSAGE_SEND: a place of a link is free; an operation that waits takes it, else an owed message, in binder order
(log 44). -/
def execOwedMessageSend (link : LinkNo) (s : State) : Host.Outcome State Fault Refusal :=
  let i := link.val
  let l := s.link i
  .next <|
    if 64 ≤ l.bout.length then s
    else
      match l.bheld with
      | x :: rest => ((s.setLink i { l with bheld := rest }).queueOut i x).unitWork
      | [] =>
        match s.firstOwed i with
        | none => s
        | some (b, 0) =>
          let y := s.binder b
          (s.setBinder b { y with owedUp := y.owedUp - 1 }).sendUnit b 0 (s.fld (F.bndUp b)) 0 1
        | some (b, k + 1) =>
          let y := s.binder b
          (s.setBinder b { y with owedRel := tmod 0 y.owedRel k (· - 1) }).sendUnit b (k + 1) ((y.list[k]?).getD 0) 1 0

/-! ### Inbound WRITE, READBACK and READ (R53 to R55, R328, R381, R382, R576) -/

/-- The season a packet carries: none on a 2.x link (R406). -/
def State.seasonOf (s : State) (i : Nat) (p : LinkPacket) : Option Nat :=
  if s.link2x i then none else p.season.map BitVec.toNat

/-- What rejects an access of a link before its space's own checks: the state after its count, and the status. The rules
give no order among R54, R55, R576, R381 and R50; here a row crossing and a bad layout come last, so that each of the first
three counts every packet it names (log 41). -/
def State.linkReject (s : State) (a n : Nat) : Option (State × Nat) :=
  if addrSpace a = 4 then some (s.addFld F.fltRemoteRegReject 1, stAuthFail)
  else if 6 ≤ addrSpace a then some (s.addFld F.fltBadSpace 1, stBadParam)
  else if ¬ s.isLocal a then some (s.addFld F.fltMisrouted 1, stBadParam)
  else if ¬ inRow a n ∨ (addrSpace a ≠ 5 ∧ ¬ s.layoutOk a) then some (s, stBadParam)
  else none

/-- A rejected operation on a local binder counted (R349). -/
def State.noteReject (s : State) (a : Nat) : State :=
  if s.isLocal a ∧ addrSpace a = 2 then s.addFld F.bndReject 1 else s

/-- An inbound WRITE served. -/
def State.serveWrite (s : State) (i : Nat) (p : LinkPacket) : State :=
  let a := p.address.toNat
  let n := p.length
  let tag := p.tag.toNat
  let data := slice p.data 0 n
  let now := fun (r : State × Nat) => if r.2 = stOk ∧ p.ackReq = false then r.1 else r.1.statusOn i tag r.2
  let later := fun (r : State × Nat) => if r.2 = stOk then r.1 else r.1.statusOn i tag r.2
  match s.linkReject a n with
  | some r => now (r.1.noteReject a, r.2)
  | none =>
    if addrSpace a = 1 then (later (s.coreWrite (some i) (adapterClump i) a data (.link i) tag p.ackReq)).unitWork
    else if addrSpace a = 2 then
      if n ≠ 4 then now (s.addFld F.bndReject 1, stBadParam)
      else s.messageIn i (.write tag p.ackReq a (leNat data))
    else if addrSpace a = 3 then
      if n ≠ 4 then now (s.addFld (F.queDbReject (doorbellCtx a)) 1, stBadParam)
      else (now (s.doorbell (doorbellCtx a) (a % 64) (leNat data))).unitWork
    else (later (s.windowWrite (some i) (adapterClump i) a data (s.seasonOf i p) (.link i) tag p.ackReq)).unitWork

/-- The answer of a READBACK that waits for the earlier writes of its link (R328). -/
def State.backLater (s : State) (i tag a n : Nat) (season status : Option Nat) : State :=
  let l := s.link i
  let b : BackWait := { seq := s.inSeq, tag, addr := a, len := n, season, status }
  (s.setLink i { l with backs := l.backs ++ [b] }).settleBacks i

/-- The rejection of a READ, sent at once, or of a READBACK, sent in its turn (R328). -/
def State.readRejected (s : State) (i a n tag status : Nat) (back : Bool) : State :=
  if back then s.backLater i tag a n none (some status) else s.statusOn i tag status

/-- An inbound READ, or a READBACK of space 1, of a core. -/
def State.serveCoreRead (s : State) (i a n tag : Nat) (back : Bool) : State :=
  match s.phys (addrOff a / coreBytes) with
  | none => s.readRejected i a n tag stBadParam back
  | some p =>
    match s.meetCore p with
    | .error e => (s.notePd p e).readRejected i a n tag e back
    | .ok s => s.acceptRead (some i) (adapterClump i) p (addrOff a % coreBytes) n (.link i tag back)

/-- An inbound READ served. -/
def State.serveRead (s : State) (i : Nat) (p : LinkPacket) : State :=
  let a := p.address.toNat
  let tag := p.tag.toNat
  match s.linkReject a p.length with
  | some r => (r.1.noteReject a).statusOn i tag r.2
  | none =>
    if addrSpace a = 1 then s.serveCoreRead i a p.length tag false
    else (if addrSpace a = 2 then s.addFld F.bndReject 1 else s).statusOn i tag stBadParam

/-- An inbound READBACK served: answered once every earlier write of its link has landed or been rejected (R328). -/
def State.serveReadback (s : State) (i : Nat) (p : LinkPacket) : State :=
  let a := p.address.toNat
  let tag := p.tag.toNat
  match s.linkReject a p.length with
  | some r => r.1.readRejected i a p.length tag r.2 true
  | none =>
    if addrSpace a = 1 then s.serveCoreRead i a p.length tag true
    else s.backLater i tag a p.length (s.seasonOf i p) none

/-! ### Writes to space 2 that a command names with their source (R349, R355) -/

/-- The operation register `op` of the binder or role at an address written by an agent of this die, or by a message of a
link. What a link brings for the other registers is a VC0 WRITE, whose TAG the command does not give (log 74). -/
def State.spaceTwo (s : State) (src : Agent) (address : DWord) (op value : Nat) : State :=
  let a := address.toNat / 64 * 64
  match src with
  | .hedger => s.issueBinder (a + op) value .hedger
  | .dma e j => s.issueBinder (a + op) value (.dma (e.val * 64 + j.val))
  | .core l =>
    match s.phys l.val with
    | none => s
    | some p => if s.fencedCore p ∨ 16 ≤ (s.core p).postsOut then s else (s.postOut p).issueBinder (a + op) value (.core p)
  | .link i =>
    if ¬ s.linkOpen i.val then s
    else if op = 4 ∨ op = 32 then
      let addr := if op = 32 then a + 32 else a
      s.stir.messageIn i.val (.msg { address := BitVec.ofNat 64 addr, value := BitVec.ofNat 32 value,
                                     op := if op = 32 then 2 else 0, status := 0, source := BitVec.ofNat 17 (addrDie a) })
    else
      s.stir.drew.serveWrite i.val
        { ackReq := false, season := none, length := 4, tag := BitVec.ofNat 16 (s.draw 0x382),
          address := BitVec.ofNat 64 (a + op), data := leBytes 4 value }

/-- ARRIVE (R350). -/
def execArrive (src : Agent) (address : DWord) (value : Word) (s : State) : Host.Outcome State Fault Refusal :=
  .next ((s.spaceTwo src address 0 value.toNat).unitWork)

/-- BINDER_ADD: a write of ADD, or an ADD message from a link (R350, R355). -/
def execBinderAdd (src : Agent) (address : DWord) (value : Word) (s : State) : Host.Outcome State Fault Refusal :=
  .next ((s.spaceTwo src address 4 value.toNat).unitWork)

/-- BINDER_RESET (R352). -/
def execBinderReset (src : Agent) (address : DWord) (value : Word) (s : State) : Host.Outcome State Fault Refusal :=
  .next ((s.spaceTwo src address 8 value.toNat).unitWork)

/-- BINDER_WAIT (R351). -/
def execBinderWait (src : Agent) (address : DWord) (value : Word) (s : State) : Host.Outcome State Fault Refusal :=
  .next ((s.spaceTwo src address 12 value.toNat).unitWork)

/-- ROLE_PULSE: a write of its register, or a message from a link (R355, R367). -/
def execRolePulse (src : Agent) (address : DWord) (value : Word) (s : State) : Host.Outcome State Fault Refusal :=
  .next ((s.spaceTwo src address 32 value.toNat).unitWork)

/-- RELEASE_MESSAGE: a RELEASE from the parent's die (R350, R355). -/
def execReleaseMessage (link : LinkNo) (m : BinderMsg) (s : State) : Host.Outcome State Fault Refusal :=
  .next (if s.linkOpen link.val ∧ m.op = 1 then s.stir.messageIn link.val (.msg m) else s)

/-! ### Packets that a link brings -/

/-- WRITE. -/
def execWrite (link : LinkNo) (p : LinkPacket) (s : State) : Host.Outcome State Fault Refusal :=
  .next (if s.linkOpen link.val then s.stir.serveWrite link.val p else s)

/-- READBACK. -/
def execReadback (link : LinkNo) (p : LinkPacket) (s : State) : Host.Outcome State Fault Refusal :=
  .next (if s.linkOpen link.val then s.stir.serveReadback link.val p else s)

/-- READ. -/
def execRead (link : LinkNo) (p : LinkPacket) (s : State) : Host.Outcome State Fault Refusal :=
  .next (if s.linkOpen link.val then s.stir.serveRead link.val p else s)

/-- WINDOW_WRITE: a write to a local space-5 address by an agent or from a link (R361, R363). -/
def execWindowWrite (src : Agent) (p : LinkPacket) (s : State) : Host.Outcome State Fault Refusal :=
  let a := p.address.toNat
  let data := slice p.data 0 p.length
  let season := p.season.map BitVec.toNat
  .next <|
    if addrSpace a ≠ 5 then s
    else
      match src with
      | .link i => if s.linkOpen i.val then s.stir.serveWrite i.val p else s
      | .hedger =>
        if s.isLocal a ∧ inRow a p.length then ((s.windowWrite none 0 a data season .hedger 0).1).unitWork else s
      | .dma e j =>
        let c := e.val * 64 + j.val
        if s.isLocal a ∧ inRow a p.length then
          let r := s.windowWrite none 0 a data season (.dma c) 0
          (r.1.answer (.dma c) r.2).unitWork
        else s
      | .core l =>
        match s.phys l.val with
        | none => s
        | some q =>
          if ¬ s.isLocal a ∨ ¬ inRow a p.length ∨ s.fencedCore q ∨ 16 ≤ (s.core q).postsOut then s
          else
            let r := (s.postOut q).windowWrite none (clumpOf q) a data none (.core q) 0
            (if r.2 = stOk then r.1 else r.1.postAnswered q r.2).unitWork

/-! ### DATA and STATUS (R319, R328, R333, R369, R382, R580) -/

/-- A DMA channel's answer: data of its oldest read on the link, its read-back, a step of its completion, or the rejection
of a write. The tag is the same for reads and writes (R382): where both are outstanding on the link, which of them a STATUS
rejects is a free choice (log 80). -/
def State.dmaAnswer (s : State) (i tag status : Nat) (data : Option (List Byte)) : State :=
  let c := tag / 4096 * 64 + tag / 64 % 64
  match (s.chan c).run with
  | none => s
  | some r =>
    if r.idx % 64 ≠ tag % 64 then s
    else
      let fault := faultWord (some i) tag
      let waits := r.out.any fun o => o.link == some i && o.data.isNone && !o.lost
      if r.step = 0 then
        match data with
        | some d => if status = stOk then s.dmaReturned c (some i) none d
          else s.dmaRejected c status (some i) none fault (s.linkUp i)
        | none =>
          let wrote := decide (0 < r.written) && !s.isLocal (dmDst r.bytes) && r.link == some i
          if status = stOk then s
          else if waits ∧ (¬ wrote ∨ s.draw 0x444D % 2 = 0) then s.drew.dmaRejected c status (some i) none fault (s.linkUp i)
          else ((s.drew.dmaFail c status fault none false).dmaAdvance c).unitWork
      else if r.step = 1 then
        if r.link = some i then (s.dmaReadback c status fault).unitWork else s
      else if r.step = 2 ∧ status ≠ stOk then ((s.dmaFail c status fault none false).dmaStep c 3 8).unitWork
      else s

/-- The rejection of a packet of the die's own with a tag of R382. -/
def State.answerTag (s : State) (i tag status : Nat) (data : Option (List Byte)) : State :=
  if tag < 0x8000 then s.dmaAnswer i tag status data
  else if tag / 256 = 0xFF then
    match s.phys (tag / 2 % 128) with
    | some p => (s.postAnswered p status).unitWork
    | none => s
  else if tag / 256 = 0xFE then
    if status = stOk then s
    else
      let a := tag / 8 % 32
      (s.addFld (F.plnAdpNak a) 1).logEvent svWarning 9 status 0x0302 a 0 (tag % 4 + tag * 2 ^ 16)
  else if tag / 256 = 0xFD then
    let s' := { s with tags := tdel s.tags (tag % 256) }
    match tfind s.tags (tag % 256) with
    | some (.record cq idx r tries) => if status = stOk then s' else (s'.recordRejected cq idx r tries status).unitWork
    | some (.event eq idx e tries) => if status = stOk then s' else (s'.eventRejected eq idx e tries status).unitWork
    | some .other => s'
    | none => s
  else s

/-- DATA: an answer that brings read data (R380). -/
def execData (link : LinkNo) (p : LinkPacket) (s : State) : Host.Outcome State Fault Refusal :=
  .next <|
    if s.linkOpen link.val then
      s.stir.answerTag link.val p.tag.toNat (p.address.toNat % 256) (some (slice p.data 0 p.length))
    else s

/-- STATUS: an answer without data (R369, R380). -/
def execStatus (link : LinkNo) (p : LinkPacket) (s : State) : Host.Outcome State Fault Refusal :=
  .next (if s.linkOpen link.val then s.stir.answerTag link.val p.tag.toNat (p.address.toNat % 256) none else s)

end Sys2Proof.Machine
end

