-- ==== Sys2Proof/Machine/Energy.lean ====
section
/-! DEFINITION. Sensors, droop, energy and accounts, limits and caps, glides (R24, R29, R30, R473, R501 to R514, R519,
R522). -/

namespace Sys2Proof.Machine

/-- The evergreen domain runs: its power is good and no reset is held (R22). -/
def State.alive (s : State) : Bool := s.pwrgd && s.hold22.isNone

/-- Hedger firmware runs power control: from READY on, awake (R474, R490, R511). -/
def State.controls (s : State) : Bool :=
  (s.ready == rdReady || s.ready == rdDegraded) && s.dieAwake && !s.clocksOff

/-! ### Sensors and droop -/

/-- A 16-bit signed sum. -/
def add16 (a b : Nat) : Nat := (a + b) % 65536

/-- Whether a signed 16-bit reading is at or above a bound. -/
def atLeast16 (x : Nat) (bound : Int) : Bool := decide (bound ≤ toSigned 16 x)

/-- Sensor s sampled: its offset-corrected reading, and THERMAL_ALERT as it crosses 110 °C (R24, R501, R565; log 45). -/
def State.sampleTemp (s : State) (k raw : Nat) : State :=
  let t := add16 raw (s.fld (F.calTempOffEffective k))
  let was := s.bit (F.telTempValid k) && atLeast16 (s.fld (F.telTempTemp k)) 1760
  let s := (s.setFld (F.telTempValid k) 1).setFld (F.telTempTemp k) t
  if atLeast16 t 1760 ∧ ¬ was then s.logEvent svAlert 7 0 0x0604 k 0 t else s

/-- The first hottest valid sensor of some. -/
def State.hottest (s : State) (ks : List Nat) : Option Nat :=
  (ks.filter fun k => s.bit (F.telTempValid k)).foldl (fun b k => match b with
    | none => some k
    | some j => if toSigned 16 (s.fld (F.telTempTemp j)) < toSigned 16 (s.fld (F.telTempTemp k)) then some k else some j) none

/-- Monitor v sampled, with its fused offset (R501, R545): MIN is the lowest reading since it was read; 0 stands for none. -/
def State.sampleMv (s : State) (v raw : Nat) : State :=
  let mv := (min 1500 (max 0 ((raw : Int) + toSigned 16 (s.fuses.offset (64 + v))))).toNat
  let low := s.fld (F.telVmonMin v)
  let s := (s.setFld (F.telVmonValid v) 1).setFld (F.telVmonMv v) mv
  s.setFld (F.telVmonMin v) (if low = 0 then mv else min low mv)

/-- SENSOR_SAMPLE (R501): raw readings, of thermal sensors in 1/16 °C and of monitors in mV. -/
def execSensorSample (temps : List (BitVec 16)) (mv : List Nat) (s : State) : Host.Outcome State Fault Refusal :=
  .next <|
    if s.alive then
      let s := (temps.take 64).zipIdx.foldl (fun s x => s.sampleTemp x.2 x.1.toNat) s
      let s := (mv.take 24).zipIdx.foldl (fun s x => s.sampleMv x.2 x.1) s
      match s.hottest (List.range 64) with
      | some k => (s.setFld F.telTempMaxSensor k).setFld F.telTempMaxTemp (s.fld (F.telTempTemp k))
      | none => s
    else s

/-- DROOP_STRETCH: a monitor of the half reads `mvBelow` below the set point and `cycles` cycles are lengthened (R514). -/
def execDroopStretch (half : Half) (monitor : Fin 20) (mvBelow cycles : Nat) (s : State) :
    Host.Outcome State Fault Refusal :=
  let h := halfNo half
  .next <|
    if s.clocksOff ∨ ¬ s.alive ∨ monitor.val / 10 ≠ h ∨ mvBelow < 20 then s
    else
      let s := s.addFld (F.telDroopCc h) cycles
      if 50 < mvBelow then
        (s.addFld F.telDroopSevere 1).logEvent svWarning 7 0 0x0602 (128 + monitor.val) 0 ((s.rail h).mv - mvBelow)
      else s

/-- DROOP_STRETCH_END: the last cycles of a stretch (R514). -/
def execDroopStretchEnd (half : Half) (cycles : Nat) (s : State) : Host.Outcome State Fault Refusal :=
  .next (if s.clocksOff ∨ ¬ s.alive then s else s.addFld (F.telDroopCc (halfNo half)) cycles)

/-! ### Caps and pace (R511, R519 to R522) -/

/-- The code a half's own limits leave it, pace apart. -/
def State.ownCode (s : State) (h : Nat) : Nat :=
  min (s.prefCode h) (min (s.fld (F.pwrCapPower h)) (min (s.fld (F.pwrCapThermal h)) (s.fld (F.pwrHalfFusedMax h))))

/-- Whether a half runs under a power or thermal cap below its preferred code. -/
def State.capped (s : State) (h : Nat) : Bool :=
  decide (min (s.fld (F.pwrCapPower h)) (s.fld (F.pwrCapThermal h)) < s.prefCode h)

/-- CAP_CHANGE (R522). Causes: 0 PL_FAST, 1 slow limit, 2 thermal, 3 pace. -/
def State.capEvent (s : State) (h code cause : Nat) (release : Bool) : State :=
  s.logEvent svInfo 8 0 0x0600 h 0 (code + cause * 2 ^ 8 + if release then 2 ^ 10 else 0)

/-- A cap field given a new code: a lowering and the return to the fused maximum are recorded (log 46). `top` is what
stands for no cap. -/
def State.setCap (s : State) (f : Fld) (h code cause top : Nat) : State :=
  let old := s.fld f
  let s := s.setFld f code
  if code < old then s.capEvent h code cause false
  else if old < code ∧ code = top then s.capEvent h code cause true
  else s

/-- Origin, announced code, target and pace cap as they now are (R519 to R521), and each half sent toward its code. The
announced code leaves the pace cap out (log 47). -/
def State.settlePace (s : State) : State :=
  let origin := s.capped 0 || s.capped 1
  let own := if origin then min (s.ownCode 0) (s.ownCode 1) else 0x3F
  let was := s.fld F.pwrPaceOwn
  let s := (s.setFld F.pwrPaceOrigin (if origin then 1 else 0)).setFld F.pwrPaceOwn own
  let due := if own < was then some false else if was ≠ 0x3F ∧ own = 0x3F then some true else s.pctl.paceDue
  let s := { s with pctl := { s.pctl with paceDue := due } }
  let target : Nat := s.pctl.pace.foldl (fun a e => min a e.code) own
  let s := s.setFld F.pwrPaceTarget target
  let cap : Nat := if s.bit F.pwrPacePolicy then 0x3F else target
  let s := (s.setCap (F.pwrCapPace 0) 0 cap 3 0x3F).setCap (F.pwrCapPace 1) 1 cap 3 0x3F
  if s.controls then (s.retarget 0 true).retarget 1 true else s

/-- LIMIT_UNMET (R512). -/
def State.unmet (s : State) (limit : Nat) : State :=
  (s.addFld F.pwrLimitUnmet 1).logEvent svWarning 0 0 0x0601 0 0 limit

/-- Whether some half runs at FCODE 0. -/
def State.atFloor (s : State) : Bool := s.fld (F.pwrHalfFcode 0) == 0 || s.fld (F.pwrHalfFcode 1) == 0

def State.lastRaise (s : State) (k : Nat) : Nat := tget 0 s.pctl.raised k
def State.noteRaise (s : State) (k : Nat) : State :=
  { s with pctl := { s.pctl with raised := tins s.pctl.raised k s.time } }

/-- The power cap of both halves from the caps of both limits; `cause` names the limit that changed. -/
def State.setPowerCap (s : State) (cause : Nat) : State :=
  let top := s.fld (F.pwrHalfFusedMax 0)
  let code := min s.pctl.capFast (min s.pctl.capSlow top)
  (((s.setCap (F.pwrCapPower 0) 0 code cause top).setCap (F.pwrCapPower 1) 1 code cause top)).settlePace

/-- Averages in mW. -/
def State.fastMw (s : State) : Nat := s.pctl.fastNw / 1000000
def State.slowMw (s : State) : Nat := s.pctl.slowNw / 1000000

/-- The effective slow limit in mW (R510, R516, R518). -/
def State.slowLimit (s : State) : Nat :=
  let share := s.fld F.pwrBudgetShareW
  if s.fld F.pwrBudgetTotalW = 0xFFFF ∨ share = 0xFFFF then s.fld (F.pwrLimit 0)
  else min (s.fld (F.pwrLimit 0)) (share * 1000)

/-- POWER_FAST_EVAL (R511, R512). -/
def execPowerFastEval (s : State) : Host.Outcome State Fault Refusal :=
  .next <|
    if ¬ s.controls then s
    else
      let top := s.fld (F.pwrHalfFusedMax 0)
      let cap := min s.pctl.capFast top
      let lim := s.fld (F.pwrLimit 1)
      if lim < s.fastMw then
        let s := if s.atFloor then s.unmet 0 else s
        ({ s with pctl := { s.pctl with capFast := cap - 2 } }).setPowerCap 0
      else if s.fastMw * 100 < lim * 95 ∧ cap < top ∧ s.lastRaise 0 + 100 ≤ s.time then
        (({ s with pctl := { s.pctl with capFast := cap + 1 } }).noteRaise 0).setPowerCap 0
      else s.settlePace

/-- Whether cap `c` of half h holds it below its preference. -/
def State.holds (s : State) (h c : Nat) : Bool := decide (c < s.prefCode h) && c == s.wantCode h

/-- Milliseconds in which each cause held a half below its preference (R506). -/
def State.countCaps (s : State) : State :=
  let any := fun (f : Nat → Nat) => s.holds 0 (f 0) || s.holds 1 (f 1)
  let add := fun (s : State) (k : Nat) (b : Bool) => if b then s.addFld (F.pwrCapMs k) 1 else s
  add (add (add (add s 0 (any fun _ => s.pctl.capFast)) 1 (any fun _ => s.pctl.capSlow)) 2
    (any fun h => s.fld (F.pwrCapThermal h))) 3 (any fun h => s.fld (F.pwrCapPace h))

/-- POWER_SLOW_EVAL (R511, R512, R517). -/
def execPowerSlowEval (s : State) : Host.Outcome State Fault Refusal :=
  .next <|
    if ¬ s.controls then s
    else
      let top := s.fld (F.pwrHalfFusedMax 0)
      let cap := min s.pctl.capSlow top
      let lim := s.slowLimit
      let s :=
        if lim < s.slowMw then
          let s := if s.atFloor then s.unmet 1 else s
          ({ s with pctl := { s.pctl with capSlow := cap - 1 } }).setPowerCap 1
        else if s.slowMw * 100 < lim * 95 ∧ cap < top ∧ s.lastRaise 1 + 10000 ≤ s.time then
          (({ s with pctl := { s.pctl with capSlow := cap + 1 } }).noteRaise 1).setPowerCap 1
        else s
      let s := if s.holds 0 s.pctl.capSlow ∨ s.holds 1 s.pctl.capSlow then
          { s with pctl := { s.pctl with slowAt := some s.time } } else s
      s.countCaps

/-- Thermal sensors of a half (R501, R502). -/
def halfSensors (h : Nat) : List Nat :=
  (List.range 64).filter fun k =>
    if k < 48 then halfOfClump (k / 2) == h
    else if k < 56 then decide ((k - 48) / 4 = h)
    else decide ((k - 56) / 4 = h)

/-- The thermal cap of a half adjusted (R511, R512). -/
def State.thermalHalf (s : State) (h : Nat) : State :=
  match s.hottest (halfSensors h) with
  | none => s
  | some k =>
    let t := toSigned 16 (s.fld (F.telTempTemp k))
    let top := s.fld (F.pwrHalfFusedMax h)
    let cap := s.fld (F.pwrCapThermal h)
    let cool := if t < 1648 then
        (match tfind s.pctl.coolSince h with
         | some _ => s.pctl.coolSince
         | none => tins s.pctl.coolSince h s.time)
      else tdel s.pctl.coolSince h
    let s := { s with pctl := { s.pctl with coolSince := cool } }
    if 1680 < t then
      let s := if s.fld (F.pwrHalfFcode h) = 0 then s.unmet 2 else s
      s.setCap (F.pwrCapThermal h) h (cap - 1) 2 top
    else
      match tfind cool h with
      | some since =>
        if since + 10000 ≤ s.time ∧ cap < top ∧ s.lastRaise (2 + h) + 100 ≤ s.time then
          (s.noteRaise (2 + h)).setCap (F.pwrCapThermal h) h (cap + 1) 2 top
        else s
      | none => s

/-- THERMAL_EVAL (R511). -/
def execThermalEval (s : State) : Host.Outcome State Fault Refusal :=
  .next (if s.controls then ((s.thermalHalf 0).thermalHalf 1).settlePace else s)

/-! ### Glides and rails -/

/-- GLIDE_STEP: one step of a gliding half; its end sets COR_EVENT.PACE if a cap or pace match caused it, and lowers the
rail (R29, R473). -/
def execGlideStep (half : Half) (s : State) : Host.Outcome State Fault Refusal :=
  let h := halfNo half
  .next <|
    if s.clocksOff ∨ ¬ s.bit (F.pwrHalfGliding h) ∨ ¬ s.bit (F.pwrHalfLocked h) then s
    else
      let cur := s.fld (F.pwrHalfFcode h)
      let to_ := s.fld (F.pwrHalfTarget h)
      let next := if cur < to_ then cur + 1 else if to_ < cur then cur - 1 else cur
      let s := s.setFld (F.pwrHalfFcode h) next
      if next ≠ to_ then s
      else
        let s := s.setFld (F.pwrHalfGliding h) 0
        let s := if (s.rail h).capGlide then
            ((bitsOf 96 s.coreMap).filter fun p => halfOf p == h && !s.fencedCore p).foldl (fun s p => s.signal p 11) s
          else s
        if s.codeMv h next < (s.rail h).goal then s.railRequest h (s.codeMv h next) else s

/-- RAIL_ACK: the package has settled the oldest set point requested (R29, R473). -/
def execRailAck (half : Half) (s : State) : Host.Outcome State Fault Refusal :=
  let h := halfNo half
  .next <| match (s.rail h).requests with
    | [] => s
    | mv :: requests =>
      let s := s.setRail h { s.rail h with mv, requests }
      if s.controls ∧ mv ≠ 0 then s.retarget h (s.rail h).capGlide else s

/-! ### Energy (R503 to R505, R510) -/

/-- Energy of component k in nanojoules under the user overlay (R503, R546). -/
def State.scaled (s : State) (k nj : Nat) : Nat :=
  (((nj : Int) * (10000 + toSigned 16 (s.fld (F.calEnergyScale k)))) / 10000).toNat

/-- Component k charged: whole microjoules to its counter and the die's, the rest kept. -/
def State.addComp (s : State) (k nj : Nat) : State :=
  let t := (s.pctl.rest[k]?).getD 0 + nj
  let rest := (List.range 7).map fun j => if j = k then t % 1000 else (s.pctl.rest[j]?).getD 0
  (({ s with pctl := { s.pctl with rest } }).addFld (F.telComp k) (t / 1000)).addFld F.telEnergy (t / 1000)

/-- One step of an exponentially weighted average in nW toward a power in mW over a window in µs (R510; log 48). -/
def ewma (avg mw win : Nat) : Nat := (avg * (win - 1) + mw * 1000000) / max 1 win

/-- ENERGY_ESTIMATE (R503): the evergreen timer's microsecond passes and its energy counts. -/
def execEnergyEstimate (components : List Nat) (s : State) : Host.Outcome State Fault Refusal :=
  .next <|
    if ¬ s.alive then s
    else
      let s := { s with time := s.time + 1 }
      let nj := (List.range 7).map fun k => s.scaled k ((components[k]?).getD 0)
      let s := nj.zipIdx.foldl (fun s x => s.addComp x.2 x.1) s
      let mw := nj.sum
      let f := ewma s.pctl.fastNw mw (s.fld (F.pwrLimitWin 1) * 1000)
      let l := ewma s.pctl.slowNw mw (s.fld (F.pwrLimitWin 0) * 1000)
      let s := { s with pctl := { s.pctl with fastNw := f, slowNw := l } }
      ((s.setFld F.telPower mw).setFld (F.telPowerAvg 0) s.fastMw).setFld (F.telPowerAvg 1) s.slowMw

/-- Whether a share fits its context: a kernel's, an image load's or a descriptor's energy goes to the account of the context
that it came through (R112, R344). -/
def State.shareFits (s : State) (x : Fin 256 × Option CtxNo × Nat) : Bool :=
  match x.2.1 with
  | some q =>
    let ty := s.fld (F.queCfgType q.val)
    if ty = qtWork ∨ ty = qtDma then s.fld (F.queCfgAccount q.val) == x.1.val else ty == qtUnused
  | none => true

/-- ENERGY_ACCOUNT_UPDATE (R504, R505): the millisecond's energy by account, with the context charged, and the
unattributed rest. Shares that do not sum to the die's energy within 1 µJ, or that do not fit their context, are no such
update (log 2). -/
def execEnergyAccountUpdate (shares : List (Fin 256 × Option CtxNo × Nat)) (unattributed : Nat) (s : State) :
    Host.Outcome State Fault Refusal :=
  let sum := (shares.map fun x => x.2.2).sum + unattributed
  let due := s.fld F.telEnergy - s.pctl.charged
  .next <|
    if ¬ s.alive ∨ due + 1 < sum ∨ sum + 1 < due ∨ ¬ shares.all s.shareFits then s
    else
      let s := shares.foldl (fun s x =>
        let s := s.addFld (F.telAcct x.1.val) x.2.2
        match x.2.1 with
        | some q => s.addFld (F.queEnergy q.val) x.2.2
        | none => s) s
      let s := s.addFld F.telUnattr unattributed
      { s with pctl := { s.pctl with charged := s.pctl.charged + sum } }

end Sys2Proof.Machine
end

