-- ==== Sys2Proof/Machine/Pace.lean ====
section
/-! DEFINITION. Pace and budget messages (R358, R406, R515 to R521) and MGMT packets (R384). -/

namespace Sys2Proof.Machine

/-! ### Messages (R515) -/

def vcKind (m : Vc5Msg) : Nat := bitsAt m.head.toNat 0 8
def vcSeq (m : Vc5Msg) : Nat := bitsAt m.head.toNat 16 16

/-- (int16)(a − b) ≤ 0. -/
def notAfter16 (a b : Nat) : Bool := decide (((a : Int) - b + 2 ^ 15) % 2 ^ 16 - 2 ^ 15 ≤ 0)

def vcMsg (head dest src body : Nat) : Vc5Msg :=
  { head := BitVec.ofNat 32 head, dest := BitVec.ofNat 32 dest, src := BitVec.ofNat 32 src, body := BitVec.ofNat 32 body }

/-- Whether a packet is a COMMAND of VC3, here a reply. -/
def isReply : OutPkt → Bool
  | .reply _ => true
  | _ => false

/-- Whether a link agreed a version below 3.0 (R406). -/
def State.below3 (s : State) (i : Nat) : Bool := decide (s.fld (F.lnkVersionAgreed i) < 0x30)

/-- A message sent on the link R515 names; on a 2.x link as a MGMT packet ahead of every COMMAND packet (R406). Without a
link nothing is sent. -/
def State.sendVc5 (s : State) (m : Vc5Msg) : State :=
  match s.linkToDie (m.dest.toNat % 2 ^ 17) with
  | none => s
  | some i =>
    let l := s.link i
    if s.below3 i then
      let before := l.txq.takeWhile fun x => !isReply x.2
      s.setLink i { l with txq := before ++ (3, .mgmt (.vc5 m)) :: l.txq.drop before.length }
    else s.setLink i { l with vc5out := l.vc5out ++ [m] }

/-- Package and position of a die number. -/
def State.mates (s : State) : List Nat := (List.range 12).filter fun k => k ≠ s.fld F.evgPlacementPosition

/-- Whether a die of this package last announced that it sleeps (R517). -/
def State.sleepingMate (s : State) (die : Nat) : Bool :=
  die / 16 == s.dieNo / 16 && s.pctl.demands.any fun d => d.pos == die % 16 && d.sleeping

/-! ### Budget (R516 to R518) -/

/-- TOTAL taken if its SEQ is the most recent (R516). -/
def State.takeTotal (s : State) (m : Vc5Msg) : State :=
  let seen := match s.pctl.totalSeq with
    | some q => notAfter16 (vcSeq m) q
    | none => false
  if seen then s
  else
    let w := bitsAt m.body.toNat 0 16
    let s := { s with pctl := { s.pctl with totalSeq := some (vcSeq m) } }
    s.setFld F.pwrBudgetTotalW w

/-- DEMAND of another position recorded. -/
def State.takeDemand (s : State) (m : Vc5Msg) : State :=
  let die := m.src.toNat % 2 ^ 17
  let pos := die % 16
  if die / 16 ≠ s.dieNo / 16 ∨ 11 < pos ∨ die = s.dieNo then s
  else
    let e : DemandEnt := { pos, watts := bitsAt m.body.toNat 0 16, total := bitsAt m.body.toNat 16 16,
                           sleeping := m.head.toNat.testBit 12, time := s.time }
    let ds := (s.pctl.demands.filter fun d => decide (d.pos < pos)) ++ [e] ++ s.pctl.demands.filter fun d => decide (pos < d.pos)
    { s with pctl := { s.pctl with demands := ds } }

/-- DEMAND_W (R517). -/
def State.demandW (s : State) : Nat :=
  let slow := s.fld (F.pwrLimit 0) / 1000
  let recent := match s.pctl.slowAt with
    | some t => decide (s.time ≤ t + 10000)
    | none => false
  if recent then slow else min slow ((11 * s.slowMw + 9999) / 10000 + 20)

/-- DEMAND sent to every other position that does not sleep. -/
def State.sendDemand (s : State) (w : Nat) (sleeping : Bool) : State :=
  let seq := (s.pctl.demandSeq + 1) % 65536
  let s := ({ s with pctl := { s.pctl with demandSeq := seq } }).setFld F.pwrBudgetLiveDemandW w
  s.mates.foldl (fun s k =>
    let die := s.dieNo / 16 * 16 + k
    if s.sleepingMate die then s
    else s.sendVc5 (vcMsg (2 + (if sleeping then 2 ^ 12 else 0) + seq * 2 ^ 16) die s.dieNo
      (w % 65536 + s.fld F.pwrBudgetTotalW * 2 ^ 16))) s

/-- DEMAND_SEND (R517). -/
def execDemandSend (s : State) : Host.Outcome State Fault Refusal :=
  .next (if s.controls then s.sendDemand s.demandW false else s)

/-- Live positions and their demands, this die's own among them (R518). -/
def State.liveDemands (s : State) : List (Nat × Nat) :=
  let own := s.fld F.evgPlacementPosition
  let w := if s.fld F.pwrBudgetLiveDemandW = 0 then s.fld (F.pwrLimit 0) / 1000 else s.fld F.pwrBudgetLiveDemandW
  let others := s.pctl.demands.filter fun d => !d.sleeping && decide (s.time ≤ d.time + 30000) && d.pos != own
  others.map (fun d => (d.pos, d.watts)) ++ [(own, w)]

/-- The largest whole level whose capped demands stay within a total (R518), watts rounded down (log 49). -/
def waterLevel (ds : List Nat) (t : Nat) : Nat :=
  (List.range (t + 1)).foldl (fun best l => if (ds.map fun d => min d l).sum ≤ t then l else best) 0

/-- BUDGET_COMPUTE (R518). -/
def execBudgetCompute (s : State) : Host.Outcome State Fault Refusal :=
  .next <|
    if ¬ s.controls then s
    else
      let live := s.liveDemands
      let ds := live.map fun x => x.2
      let own := s.fld F.evgPlacementPosition
      let d := ((live.find? fun x => x.1 == own).map fun x => x.2).getD 0
      let t := s.fld F.pwrBudgetTotalW
      let s := s.setFld F.pwrBudgetLiveLive (maskOf 12 fun k => live.any fun x => x.1 == k)
      let s := (s.pctl.demands.filter fun e => (live.any fun x => x.1 == e.pos) && e.total != t).foldl
        (fun s e => s.logEvent svWarning 0 0 0x0603 0 0 (t + e.total * 2 ^ 16 + e.pos * 2 ^ 32)) s
      if t = 0xFFFF then s.setFld F.pwrBudgetShareW 0xFFFF
      else if ds.sum ≤ t then s.setFld F.pwrBudgetShareW (min 0xFFFF (d + (t - ds.sum) / live.length))
      else s.setFld F.pwrBudgetShareW (min d (waterLevel ds t))

/-! ### Pace (R358, R519 to R521) -/

/-- Dies named by the parent or the release list of an ARMED binder with PACE = 1 (R358). -/
def State.pacePartners (s : State) : List Nat :=
  let bs := (s.binders.map fun b => b.1) ++ (s.regs.filterMap fun r =>
    let a := r.1 / 32
    if 0x200000 ≤ a ∧ a < 0x280000 then some ((a - 0x200000) / 64) else none)
  let on := (bs.eraseDups.filter fun b => s.armed b && s.bit (F.bndCfgPace b))
  let dies := on.flatMap fun b =>
    (if s.fld (F.bndUp b) = 0 then [] else [addrDie (s.fld (F.bndUp b))]) ++ (s.binder b).list.map addrDie
  dies.eraseDups.filter fun d => d != s.dieNo

/-- A PACE to a partner that does not sleep (R517). -/
def State.sendPace (s : State) (dest ttl cause seq origin code : Nat) : State :=
  if s.sleepingMate dest then s
  else s.sendVc5 (vcMsg (1 + ttl * 2 ^ 8 + cause * 2 ^ 12 + seq * 2 ^ 16) dest origin (s.dieNo + code * 2 ^ 17))

/-- CAUSE of this die's own PACE: the lowest cap of its slower half. -/
def State.paceCause (s : State) : Nat :=
  let h := if s.ownCode 1 < s.ownCode 0 then 1 else 0
  if s.fld (F.pwrCapThermal h) ≤ s.fld (F.pwrCapPower h) then 3
  else if s.pctl.capFast ≤ s.pctl.capSlow then 1 else 2

/-- PACE_SEND (R519): a release that is due, a lowering at most every 100 µs, or the announcement of every 10 ms. -/
def execPaceSend (s : State) : Host.Outcome State Fault Refusal :=
  .next <|
    if ¬ s.controls then s
    else
      let k := s.pctl
      let seq := (k.paceSeq + 1) % 65536
      let send := fun (s : State) (cause code : Nat) =>
        s.pacePartners.foldl (fun s d => s.sendPace d 8 cause seq s.dieNo code) s
      let mayLower : Bool := match k.lowerAt with
        | some t => decide (t + 100 ≤ s.time)
        | none => true
      if k.paceDue = some true then
        send { s with pctl := { k with paceDue := none, paceSeq := seq, paceAt := s.time } } 0 0x3F
      else if s.bit F.pwrPaceOrigin ∧ k.paceDue = some false ∧ mayLower then
        send { s with pctl := { k with paceDue := none, paceSeq := seq, paceAt := s.time, lowerAt := some s.time } }
          s.paceCause (s.fld F.pwrPaceOwn)
      else if s.bit F.pwrPaceOrigin ∧ k.paceAt + 10000 ≤ s.time then
        send { s with pctl := { k with paceSeq := seq, paceAt := s.time } } s.paceCause (s.fld F.pwrPaceOwn)
      else s

/-- The table with an origin's entry set; none if it is full of lower codes (R520). -/
def setPace (l : List PaceEnt) (e : PaceEnt) : Option (List PaceEnt) :=
  if l.any fun x => x.origin == e.origin then some (l.map fun x => if x.origin = e.origin then e else x)
  else if l.length < 32 then some (l ++ [e])
  else
    let top := l.foldl (fun m x => max m x.code) 0
    if top < e.code then none
    else
      match l.find? fun x => x.code == top with
      | some y => some (l.map fun x => if x.origin = y.origin then e else x)
      | none => none

/-- A PACE handled as R520 has it. -/
def State.takePace (s : State) (m : Vc5Msg) : State :=
  let origin := m.src.toNat % 2 ^ 17
  let sender := bitsAt m.body.toNat 0 17
  let code := bitsAt m.body.toNat 17 6
  let ttl := bitsAt m.head.toNat 8 4
  let seq := vcSeq m
  let k := s.pctl
  let seen := (k.pace ++ k.released).any fun e => e.origin == origin && notAfter16 seq e.seq
  if origin = s.dieNo ∨ seen then s
  else
    let e : PaceEnt := { origin, code, seq, time := s.time }
    let gone := k.pace.filter fun x => x.origin ≠ origin
    let old := k.released.filter fun x => x.origin ≠ origin
    let next := if code = 0x3F then some { k with pace := gone, released := old ++ [e] }
      else (setPace k.pace e).map fun l => { k with pace := l, released := old }
    match next with
    | none => s.addFld F.pwrPaceDropped 1
    | some k =>
      let s := ({ s with pctl := k }).settlePace
      if ttl = 0 then s
      else (s.pacePartners.filter fun p => p != sender && p != origin).foldl
        (fun s p => s.sendPace p (ttl - 1) (bitsAt m.head.toNat 12 4) seq origin code) s

/-- A pace or budget message that arrives, by KIND; an illegal one is discarded and counted (R515). -/
def State.vc5In (s : State) (m : Vc5Msg) : State :=
  if vcKind m = 1 then s.takePace m
  else if vcKind m = 2 then s.takeDemand m
  else if vcKind m = 3 then s.takeTotal m
  else s.addFld F.pwrVc5Bad 1

/-- PACE. -/
def execPace (link : LinkNo) (m : Vc5Msg) (s : State) : Host.Outcome State Fault Refusal :=
  .next (if s.linkOpen link.val ∧ (vcKind m = 1 ∨ vcKind m = 0 ∨ 3 < vcKind m) then s.stir.vc5In m else s)

/-- DEMAND. -/
def execDemand (link : LinkNo) (m : Vc5Msg) (s : State) : Host.Outcome State Fault Refusal :=
  .next (if s.linkOpen link.val ∧ vcKind m = 2 then s.stir.vc5In m else s)

/-- TOTAL. -/
def execTotal (link : LinkNo) (m : Vc5Msg) (s : State) : Host.Outcome State Fault Refusal :=
  .next (if s.linkOpen link.val ∧ vcKind m = 3 then s.stir.vc5In m else s)

/-- PACE_TABLE_AGE (R520): entries, and released origins' SEQs, older than 50 ms go. -/
def execPaceTableAge (s : State) : Host.Outcome State Fault Refusal :=
  .next <|
    if ¬ s.controls then s
    else
      let fresh := fun (e : PaceEnt) => decide (s.time ≤ e.time + 50000)
      let k := s.pctl
      ({ s with pctl := { k with pace := k.pace.filter fresh, released := k.released.filter fresh } }).settlePace

/-- A MGMT packet served (R384): a pace or budget message; what the package's own formats carry has commands of its own,
and on a base or peer link is rejected. -/
def State.serveMgmt (s : State) (i tag : Nat) (m : Mgmt) : State :=
  match m with
  | .vc5 x => if 30 ≤ i ∨ s.below3 i then s.vc5In x else s.statusOn i tag stBadParam
  | .other _ => if 30 ≤ i then s else s.statusOn i tag stBadParam

/-- MGMT. -/
def execMgmt (link : LinkNo) (tag : BitVec 16) (m : Mgmt) (s : State) : Host.Outcome State Fault Refusal :=
  .next (if s.linkOpen link.val then s.stir.serveMgmt link.val tag.toNat m else s)

end Sys2Proof.Machine
end

