-- ==== Sys2Proof/Machine/Power.lean ====
section
/-! DEFINITION. Core power transitions, die-level sleep and its wake, Hedger's clock (R471, R475 to R496, R410, R568). -/

namespace Sys2Proof.Machine

/-! ### What Bare loses (R475) -/

/-- COR fields of a core whose value Bare loses; its state stays IDLE. -/
def corFields (p : Nat) : List Fld :=
  [F.corStatusMode p, F.corEventSw p, F.corEventPace p, F.corEventMsg p, F.corEventGuard p, F.corEventTimer p,
   F.corEventBinderWake p, F.corEventVxDone p, F.corEventMxDone p, F.corErrorFirstCode p, F.corErrorCount p,
   F.corErrorFirstPc p, F.corPc p, F.corKernelAccount p, F.corKernelQueue p, F.corTimer p, F.corTimerCmp p,
   F.corCycles p, F.corFreezeCc p, F.corIssueFull p, F.corSbStall p, F.corLastTag p, F.corPostStatusStatus p,
   F.corPostStatusRejects p, F.corQueueWatchEnable p, F.corQueueWatchQueue p]

/-- A core's registers, code and claims lost: each register is a free value until something writes it (log 3, log 50). -/
def State.loseCore (s : State) (p : Nat) : State :=
  let s := (corFields p).zipIdx.foldl (fun s f => s.setFld f.1 (s.draw (0x4750 + f.2))) s
  let regs := (List.range 31).foldl (fun m j => tset 0 m (j + 1) (BitVec.ofNat 32 (s.draw (0x4790 + j)))) []
  let c := s.core p
  let s := s.setCore p { c with sregs := regs, imem := [], imemLost := some s.fresh, imemOwner := none, ucode := [], acc := none }
  s.drew.sbClear p

/-- A core in its target state, with what that state loses (R145, R475). -/
def State.settleIn (s : State) (p l x : Nat) : State :=
  let s := (s.setFld (F.pwrCoreStatusState l) x).loseBanks p x
  if x = pwBare then s.loseCore p else s

/-! ### Requests (R494, R495) -/

/-- The operation of the transition in progress finished, once no other core still runs it. -/
def State.powerDone (s : State) (p status : Nat) : State :=
  match (s.core p).powerOp with
  | none => s
  | some id =>
    let s := s.setCore p { s.core p with powerOp := none }
    let more := s.cores.any (fun c => c.2.powerOp == some id) ||
      (List.range 96).any fun l => s.bit (F.pwrCoreStatusPending l) && s.fld (F.pwrCoreStatusPendingOp l) == id
    if more then s
    else
      let s := s.finishOp id status []
      if s.dieOp = some id then { s with dieOp := none } else s

/-- A transition toward a state begun: a wake with cause HOST, or an entry (R485, R494). -/
def State.beginTransition (s : State) (p x : Nat) : State := if x = pwLeaf then s.beginWake p 4 else s.beginEntry p x

/-- The pending request of logical core l taken from its slot: its state and operation. -/
def State.takePending (s : State) (l : Nat) : Option (State × Nat × Nat) :=
  if s.bit (F.pwrCoreStatusPending l) then
    let x := s.fld (F.pwrCoreStatusPendingState l)
    let id := s.fld (F.pwrCoreStatusPendingOp l)
    some (((s.setFld (F.pwrCoreStatusPending l) 0).setFld (F.pwrCoreStatusPendingState l) 0).setFld
      (F.pwrCoreStatusPendingOp l) 0, x, id)
  else none

/-- The pending request of a core that has no transition in progress starts. -/
def State.startPending (s : State) (p l : Nat) : State :=
  match s.takePending l with
  | none => s
  | some (s, x, id) =>
    let s := s.setCore p { s.core p with powerOp := some id }
    if s.power p = x then s.powerDone p stOk
    else if s.vetoed x then
      ((s.setFld (F.pwrCoreStatusLastRefusal l) 7).satFld (F.pwrCoreRefuseRefusals l) 1).powerDone p stBusy
    else (s.runOp id).beginTransition p x

/-! ### Transitions that end (R475 to R486) -/

/-- Accesses held for a core that Bare no longer wakes are rejected (R148). -/
def State.rejectHeld (s : State) (p : Nat) : State :=
  let c := s.core p
  let s := (s.setCore p { c with inbox := [], readq := [] }).addFld (F.spdPdReject p) (c.inbox.length + c.readq.length)
  let s := c.inbox.foldl (fun s w => (s.answerWrite w stPoweredDown).afterWrite p w) s
  (c.readq.foldl (fun s r => s.rejectRead p r stPoweredDown) s).unitWork

/-- An entry ends in its target: its operation finishes, then a wake that came meanwhile begins, else a pending request
(R485, R494). -/
def State.entryDone (s : State) (p l : Nat) : State :=
  let x := (s.core p).target
  let s := (s.settleIn p l x).powerDone p stOk
  match (s.core p).wakeAfter with
  | some cause =>
    let s := s.setCore p { s.core p with wakeAfter := none }
    if cause = 2 ∧ x = pwBare ∧ ¬ s.bit (F.spdRetainAutoWake p) then (s.rejectHeld p).startPending p l
    else s.beginWake p cause
  | none => s.startPending p l

/-- A wake ends in Leaf: latched events go to COR_EVENT, a WAIT they meet ends, a MEM_ACCESS wake is counted, and a
pending request starts (R150, R482, R486, R494). -/
def State.wakeDone (s : State) (p l : Nat) : State :=
  let s := s.setFld (F.pwrCoreStatusState l) pwLeaf
  let s := if s.fld (F.pwrCoreStatusWakeCause l) = 2 then s.addFld (F.spdMemWakes p) 1 else s
  let s := match s.microcode with
    | some im => if (s.core p).ucode = [] then s.setCore p { s.core p with ucode := im.bytes } else s
    | none => s
  let latch := (s.core p).latch
  let s := (bitsOf 16 latch).foldl (fun s b => s.signal p b) (s.setCore p { s.core p with latch := 0 })
  let s := match (s.core p).wait with
    | some w => if s.coreState p = csWaiting ∧ w.met (s.eventWord p) then s.endWait p w else s
    | none => s
  (s.powerDone p stOk).startPending p l

/-- The transition of physical core p reaches its target. While the die enters sleep or sleeps, a core that ends above
Coppice goes to Coppice (R487; log 51). -/
def State.coreDone (s : State) (p : Nat) : State :=
  match s.logical p with
  | none => s
  | some l =>
    let x := s.fld (F.pwrCoreStatusState l)
    let s := if x = pwEntering then s.entryDone p l else if x = pwWaking then s.wakeDone p l else s
    let d := s.fld F.pwrDieStatusState
    let y := s.fld (F.pwrCoreStatusState l)
    if (d = 1 ∨ d = 2) ∧ (y = pwLeaf ∨ y = pwDormant) then s.settleIn p l pwCoppice else s

/-! ### Die-level sleep (R479, R487 to R493) -/

/-- The first die-level refusal code that holds, 0 for none (R479; code 5 never, log 17). -/
def State.sleepRefusal (s : State) : Nat :=
  let busy := (List.range 512).any fun c => decide (chActive ≤ s.chState c) && decide (s.chState c ≤ chPausing)
  let work := !s.blocks.isEmpty || !s.kernels.isEmpty || s.queues.any fun q => q.2.active.any fun e => e.op == 5
  let training := (List.range 32).any fun i =>
    let x := s.linkState i
    (decide (lkLaneTest ≤ x) && decide (x ≤ lkConfig)) || x == lkReconfig || x == lkWake || x == lkBerTest
  if busy then 1
  else if work then 3
  else if training then 4
  else if s.bit (F.pwrHalfGliding 0) || s.bit (F.pwrHalfGliding 1) then 6
  else if s.bit F.pwrVetoVetoSleep then 7
  else 0

/-- A control flit made due on a link. -/
def State.ctlOn (s : State) (i : Nat) (x : Ctl) : State :=
  let l := s.link i
  s.setLink i { l with ctlDue := l.ctlDue ++ [x] }

/-- The die enters sleep (R487): cores to Coppice, the pace and budget announcement (R517), clocks and rails off,
TRICKLE_REQ due on every ACTIVE link. -/
def State.beginSleep (s : State) : State :=
  let s := (bitsOf 96 s.coreMap).foldl (fun s p => match s.logical p with
    | none => s
    | some l => if s.power p = pwLeaf ∨ s.power p = pwDormant then s.settleIn p l pwCoppice else s) s
  let point := (List.range 2).map fun h => (s.fld (F.pwrHalfFcode h), (s.rail h).goal)
  let s := ({ s with sleepPoint := point, dieWakeAfter := none }).sendDemand 0 true
  let s := ((s.setFld (F.pwrHalfLocked 0) 0).setFld (F.pwrHalfLocked 1) 0).setFld F.pwrDieStatusState 1
  let s := (s.railRequest 0 0).railRequest 1 0
  ((List.range 32).filter fun i => s.linkState i == lkActive).foldl (fun s i => s.ctlOn i .trickleReq) s

/-- A link leaves TRICKLE for WAKE on the rustle pattern (R410). -/
def State.wakeLink (s : State) (i : Nat) : State :=
  if s.linkState i = lkTrickle then ((s.setFld (F.lnkStatusState i) lkWake).addFld (F.lnkWakes i) 1).ctlOn i .rustle else s

/-- The die begins to wake from sleep (R490, R493). -/
def State.beginDieWake (s : State) (cause : Nat) : State :=
  if s.fld F.pwrDieStatusState ≠ 2 then s
  else
    let slept := match s.sleepAt with
      | some t => (s.time - t) / 1000
      | none => 0
    let s := ((s.setFld F.pwrDieStatusState 3).setFld F.pwrDieStatusWakeCause cause).addFld F.pwrSleepMs slept
    let s := ({ s with sleepAt := none }.wakeLink 30).wakeLink 31
    s.sleepPoint.zipIdx.foldl (fun s x => s.railRequest x.2 x.1.2) s

/-- Traffic on a link wakes a sleeping die, or one whose sleep entry it meets once that completes (R410, R489). -/
def State.linkTraffic (s : State) : State :=
  let d := s.fld F.pwrDieStatusState
  if d = 1 then { s with dieWakeAfter := some (s.dieWakeAfter.getD 5) } else if d = 2 then s.beginDieWake 5 else s

/-- The die is asleep once every up link is in TRICKLE (R487); a wake it met meanwhile begins (R489). -/
def State.checkAsleep (s : State) : State :=
  let still := (List.range 32).all fun i => !s.linkUp i || s.linkState i == lkTrickle
  if s.fld F.pwrDieStatusState = 1 ∧ still = true then
    let s := ({ s with sleepAt := some s.time }.setFld F.pwrDieStatusState 2).addFld F.pwrSleeps 1
    match s.dieWakeAfter with
    | some cause => { s with dieWakeAfter := none }.beginDieWake cause
    | none => s
  else s

/-- The wake is complete when both rails have acknowledged and a substrate link is ACTIVE; each half runs again as it did
(R490). -/
def State.finishDieWake (s : State) : State :=
  let rails := s.sleepPoint.zipIdx.all fun x => (s.rail x.2).requests.isEmpty && (s.rail x.2).mv == x.1.2
  let up := s.linkState 30 == lkActive || s.linkState 31 == lkActive
  if s.fld F.pwrDieStatusState = 3 ∧ rails ∧ up then
    let s := s.sleepPoint.zipIdx.foldl (fun s x =>
      ((s.setFld (F.pwrHalfLocked x.2) 1).setFld (F.pwrHalfFcode x.2) x.1.1).setFld (F.pwrHalfTarget x.2) x.1.1) s
    (({ s with sleepPoint := [] }.setFld F.pwrDieStatusState 0).retarget 0 false).retarget 1 false
  else s

/-! ### SET_POWER_STATE's effect (R494, R495) -/

/-- A physical core in the CORE_SET of a queued or running kernel. -/
def State.inKernel (s : State) (p : Nat) : Bool := s.kernels.any fun k => k.phys.contains p

/-- Whether a transition of core p is in progress. -/
def State.inTransition (s : State) (p : Nat) : Bool := s.power p == pwEntering || s.power p == pwWaking

/-- IDLE_STATE of logical core l. -/
def State.setIdle (s : State) (l x : Nat) : State := s.setFld (F.pwrModeIdleState (l / 8) (l % 8)) x

/-- Whether a transition from the core's state to x completes within 100 µs: an exit from Bare takes 200 µs (R475). -/
def State.quick (s : State) (p x : Nat) : Bool := !(x == pwLeaf && s.power p == pwBare)

/-- A request of operation `id` for core p: it starts, or takes the pending slot, whose earlier request is SUPERSEDED. -/
def State.askCore (s : State) (p l x id : Nat) : State :=
  if s.inTransition p then
    let s := s.dropRequest l stSuperseded
    ((s.setFld (F.pwrCoreStatusPending l) 1).setFld (F.pwrCoreStatusPendingState l) x).setFld (F.pwrCoreStatusPendingOp l) id
  else
    let s := s.setCore p { s.core p with powerOp := some id, returnTo := none }
    if s.power p = x then s.powerDone p stOk else (s.runOp id).beginTransition p x

/-- A request that completes at once. -/
def State.moveCore (s : State) (p x : Nat) : State :=
  let s := s.setCore p { s.core p with returnTo := none }
  if s.power p = x then s else (s.beginTransition p x).coreDone p

/-- Idle cores with a logical number, with their logical number (R495). -/
def State.idleCores (s : State) : List (Nat × Nat) :=
  (bitsOf 96 s.coreMap).zipIdx.filter fun x => !s.fencedCore x.1 && !s.inKernel x.1

/-- The pending die-level request starts once the die-level transition is over (R494). -/
def State.startDiePending (s : State) : State :=
  if s.bit F.pwrDieStatusPending ∧ s.dieOp.isNone ∧ s.dieAwake then
    let x := s.fld F.pwrDieStatusPendingState
    let id := s.fld F.pwrDieStatusPendingOp
    let s := ((s.setFld F.pwrDieStatusPending 0).setFld F.pwrDieStatusPendingState 0).setFld F.pwrDieStatusPendingOp 0
    if x = 4 then
      let code := s.sleepRefusal
      if code ≠ 0 then
        ((s.setFld F.pwrDieStatusLastRefusal code).addFld F.pwrDieRefuse 1).finishOp id stBusy []
      else (s.finishOp id stOk []).beginSleep
    else
      let cs := s.idleCores
      let s := cs.foldl (fun s c => s.setIdle c.2 x) { s.runOp id with dieOp := some id }
      let s := (cs.filter fun c => !s.vetoed x && (s.inTransition c.1 || s.power c.1 != x)).foldl
        (fun s c => s.askCore c.1 c.2 x id) s
      if s.cores.any (fun c => c.2.powerOp == some id) ||
          (List.range 96).any fun l => s.bit (F.pwrCoreStatusPending l) && s.fld (F.pwrCoreStatusPendingOp l) == id then s
      else { s.finishOp id stOk [] with dieOp := none }
  else s

/-! ### Commands -/

/-- POWER_EXIT_TIMEOUT (R567 cause 5, R568): the core is fenced; the launch it was woken for completes UNIT_FAILED when it
is offered its start. -/
def execPowerExitTimeout (core : CoreNo) (s : State) : Host.Outcome State Fault Refusal :=
  .next <| match s.phys core.val with
    | none => s
    | some p =>
      if s.power p = pwWaking ∧ ¬ s.fencedCore p then ((s.fenceCore p 5 false).powerDone p stUnitFailed).unitWork else s

/-- SLEEP_TIMER (R493): the die has slept PWR_SLEEP_TIMER milliseconds. -/
def execSleepTimer (s : State) : Host.Outcome State Fault Refusal :=
  let ms := s.fld F.pwrSleepTimer
  .next <|
    if s.fld F.pwrDieStatusState = 2 ∧ ms ≠ 0 then
      ({ s with time := max s.time ((s.sleepAt.getD s.time) + ms * 1000) }).beginDieWake 6
    else s

/-- HEDGER_CLK_REQUEST (R471). -/
def execHedgerClkRequest (on : Bool) (s : State) : Host.Outcome State Fault Refusal :=
  let v := on.toNat
  .next <|
    if s.alive then ((s.setFld F.pwrHedgerClkRequest v).setFld F.pwrHedgerClkLocked v).setFld F.pwrHedgerClkFast v else s

/-- RUSTLE_PATTERN on a link in TRICKLE (R410, R411, R489). -/
def execRustlePattern (link : LinkNo) (s : State) : Host.Outcome State Fault Refusal :=
  .next (if s.linkState link.val = lkTrickle then (s.wakeLink link.val).linkTraffic else s)

/-- TRAINING_SEQUENCE: a partner's training sequence (R38, R395, R397, R405, R410). -/
def execTrainingSequence (link : LinkNo) (s : State) : Host.Outcome State Fault Refusal :=
  let i := link.val
  let st := s.linkState i
  let l := s.link i
  .next <|
    if st = lkDetect ∧ l.listening ∧ s.linkExists i then
      let fast := l.tries == 0 && l.saved.isSome && !l.distrust
      let s := s.setLink i { l with tries := l.tries + 1, fastAttempt := fast, ownMask := 0, partnerMask := 0 }
      (s.seedEq i fast).setFld (F.lnkStatusState i) lkLaneTest
    else if st = lkActive ∨ st = lkReconfig ∨ st = lkWake then (s.leaveUp i).lose 5 2
    else if st = lkTrickle then (s.wakeLink i).linkTraffic
    else s

end Sys2Proof.Machine
end

