-- ==== Sys2Proof/Machine/Session.lean ====
section
/-! DEFINITION. Command packets and the session: the checks, sequence rules, replies, polls and broadcasts that every
command shares (R416 to R430, R581). -/

namespace Sys2Proof.Machine

/-- A command as it reaches its handler: its packet and what the row's operands say of it. -/
structure Cmd where
  opcode : Nat
  p : Packet
  /-- It completes within 100 µs (R426). -/
  fast : Bool := false
  /-- Physical cores whose microcode memory does not take the chunk (R443). -/
  bad : List Nat := []
  /-- DEV_SEQ of its reply (R417, R423). -/
  dev : Nat := 0

/-- What a handler answers: the state after it, status and results, and what follows the reply. -/
structure Resp where
  s : State
  status : Nat := stOk
  results : List Byte := []
  after : State → State := fun s => s

/-- Parameter of n bytes at an offset (R416). -/
def Cmd.par (c : Cmd) (o n : Nat) : Nat := leAt c.p.params o n
/-- Whether the packet holds n bytes of parameters. -/
def Cmd.has (c : Cmd) (n : Nat) : Bool := decide (n ≤ c.p.params.length)
def Cmd.poll (c : Cmd) : Bool := c.p.flags.toNat.testBit 2
def Cmd.broadcast (c : Cmd) : Bool := c.p.flags.toNat.testBit 3

/-- A rejection that changes nothing. -/
def rej (s : State) (status : Nat) : Resp := { s, status }

/-! ### Packets (R416, R417, R419 check 1) -/

/-- The packet as bytes with its CRC field 0. -/
def packetBytes (opcode : Nat) (p : Packet) : List Byte :=
  leBytes 4 (p.major.toNat * 2 ^ 24 + p.minor.toNat * 2 ^ 16 + opcode % 65536) ++ leBytes 4 p.hostSeq.toNat ++
    leBytes 4 p.devSeen.toNat ++ leBytes 4 (p.length.toNat * 2 ^ 16 + p.flags.toNat * 2 ^ 8 + p.account.toNat) ++
    leBytes 8 p.tag.toNat ++ leBytes 4 p.season.toNat ++ leBytes 4 0 ++ p.params

/-- Check 1. -/
def Cmd.crcOk (c : Cmd) : Bool :=
  let n := 32 + c.p.params.length
  c.p.length.toNat == n && decide (n ≤ 4128) && crc32c (packetBytes c.opcode c.p) == c.p.crc.toNat

/-- A reply sent on the substrate link of its packet, or on the other if that one is down (R418). -/
def State.sendReply (s : State) (link : Nat) (r : Reply) : State :=
  let i := 30 + link
  s.sendOn (if s.linkUp i then i else if s.linkUp (61 - i) then 61 - i else i) 3 (.reply r)

/-- Bytes padded with zeros to a multiple of 4 (R416). -/
def pad4 (b : List Byte) : List Byte := b ++ List.replicate ((4 - b.length % 4) % 4) 0

/-- The reply to a packet (R417); below version 4.0 SEASON is returned as 0 (R420; log 54). -/
def State.makeReply (s : State) (c : Cmd) (dev status : Nat) (results : List Byte) (duplicate : Bool) : Reply :=
  let x := s.session
  { opcode := c.opcode, version := if x.agreed = 0 then 0x0401 else x.agreed, devSeq := dev,
    hostSeq := c.p.hostSeq.toNat, status, duplicate, tag := c.p.tag.toNat,
    season := if x.agreed ≠ 0 ∧ x.agreed < 0x0400 then 0 else x.season, results := pad4 results }

/-- A reply with the next DEV_SEQ (R417). -/
def State.reply (s : State) (c : Cmd) (status : Nat) (results : List Byte) : State :=
  let dev := (s.session.dev + 1) % 2 ^ 32
  let s := { s with session := { s.session with dev } }
  s.sendReply c.p.link.val (s.makeReply c dev status results false)

/-- BAD_SEQUENCE, with NEXT (R421, R422, R435). -/
def State.badSeq (s : State) (c : Cmd) : State := s.reply c stBadSequence (leBytes 4 s.session.next)

/-! ### Availability (R430, R432, R434, R581) -/

/-- Opcodes the die knows, with their From point: 1 S1, 3 S3, 8 S8, 9 READY or DEGRADED. -/
def opcodeFrom : List (Nat × Nat) :=
  [(0x0001, 1), (0x0002, 1), (0x0003, 1), (0x0101, 1), (0x0102, 1), (0x0103, 1), (0x0104, 1), (0x0105, 1), (0x0106, 9),
   (0x0110, 3), (0x0111, 9), (0x0112, 1), (0x0201, 9), (0x0202, 9), (0x0203, 3), (0x0204, 9), (0x0205, 3), (0x0301, 1),
   (0x0302, 3), (0x0303, 1), (0x0401, 1), (0x0402, 1)] ++
  [(0x0403, 3), (0x0404, 9), (0x0501, 9), (0x0502, 9), (0x0503, 9), (0x0504, 9), (0x0505, 9), (0x0506, 9), (0x0601, 1),
   (0x0602, 8), (0x0603, 3), (0x0701, 3), (0x0702, 3), (0x0703, 3), (0x0801, 9), (0x0802, 9), (0x0803, 9), (0x0804, 1)]

/-- Check 5 (R420's feature table, R434). -/
def State.knownOpcode (s : State) (op : Nat) : Bool :=
  let v := s.session.agreed
  (tfind opcodeFrom op).isSome && !(op == 0x0602 && v != 0 && decide (v < 0x0400)) &&
    !(op == 0x0204 && v != 0 && decide (v < 0x0401))

/-- Check 6. -/
def State.available (s : State) (op : Nat) : Bool :=
  let frm := (tfind opcodeFrom op).getD 9
  if s.ready = rdFaulted then op == 0x0001 || op == 0x0002 || op == 0x0003 || op == 0x0303 || op == 0x0301 || op == 0x0603
  else if s.testMode then frm == 1 || op == 0x0802 || op == 0x0403
  else if op = 0x0102 ∨ op = 0x0103 ∨ op = 0x0104 then decide (s.stage ≤ 2)
  else if frm = 9 then s.ready == rdReady || s.ready == rdDegraded
  else decide (frm ≤ s.stage)

/-! ### Long operations (R426 to R429) -/

/-- A long operation started on an object and answered ACCEPTED, or BUSY (R427). ESTIMATE_MS is a free value (log 3). -/
def State.startLong (s : State) (c : Cmd) (object : Nat) (begin_ : State → Nat → State) : Resp :=
  if ¬ s.opRoom ∨ s.opRuns c.opcode object then rej s stBusy
  else
    let r := s.startOp c.opcode c.p.hostSeq.toNat c.p.tag.toNat object false
    let est := leBytes 4 (r.1.draw 0x426)
    { s := begin_ r.1.drew r.2, status := stAccepted, results := leBytes 2 r.2 ++ [0, 0] ++ est }

/-- Finished operations whose last part SEEN covers are freed (R429). -/
def State.freeOps (s : State) : State :=
  let x := s.session
  let done := fun (o : LongOp) => o.state == 2 && match o.confirmSeq with
    | some d => decide (0 ≤ diff32 x.seen d)
    | none => false
  { s with session := { x with ops := x.ops.filter fun o => !done o } }

/-- Parts of an operation's results, at least one (R428). -/
def LongOp.parts (o : LongOp) : Nat := max 1 ((o.results.length + 4055) / 4056)

/-- PROGRESS of an operation: 1,000 at its end; before it what the register of a self-test or memory test shows, else a free
value up to 1,000, since no rule says how it advances (R428; log 83). -/
def State.progressOf (s : State) (o : LongOp) : Nat :=
  if o.state = 2 then o.progress
  else if o.opcode = 0x0802 then s.fld F.tstStatusProgress
  else if o.opcode = 0x0803 then s.fld F.evgMemtestProgress
  else s.draw (0x42800000 + o.id) % 1001

/-- A poll (R428): the answer, and the operation and part that a final status returned. Below 4.0, part 0 only (R420). -/
def State.pollOp (s : State) (c : Cmd) : Resp × Option (Nat × Bool) :=
  let id := c.par 0 2
  let part := if s.session.agreed ≠ 0 ∧ s.session.agreed < 0x0400 then 0 else c.par 2 2
  match s.session.ops.find? fun o => o.id == id && o.opcode == c.opcode with
  | none => (rej s stBadParam, none)
  | some o =>
    if ¬ c.has 4 then (rej s stBadParam, none)
    else if o.state ≠ 2 then
      ({ s := s.drew, status := stAccepted,
         results := leBytes 2 id ++ leBytes 2 part ++ leBytes 2 0 ++ leBytes 2 (s.progressOf o) }, none)
    else if o.parts ≤ part then (rej s stBadParam, none)
    else
      ({ s, status := o.status, results := leBytes 2 id ++ leBytes 2 part ++ leBytes 2 o.parts ++ leBytes 2 o.progress ++
          (o.results.drop (part * 4056)).take 4056 }, some (id, part + 1 == o.parts))

/-- The reply of a poll that returned a final status noted with its DEV_SEQ (R429). -/
def State.notePoll (s : State) (x : Option (Nat × Bool)) (dev : Nat) : State :=
  match x with
  | none => s
  | some (id, last) => s.setOp id fun o =>
      { o with finalDevSeq := dev, confirmSeq := if last ∧ o.confirmSeq.isNone then some dev else o.confirmSeq }

/-! ### Checks 5 to 7 and the reply -/

/-- A taken command, or a re-run: checks 5 and 6, then a poll or its handler. -/
def State.perform (s : State) (handle : Cmd → State → Resp) (c : Cmd) : Resp × Option (Nat × Bool) :=
  if ¬ s.knownOpcode c.opcode then (rej s stBadOpcode, none)
  else if ¬ s.available c.opcode then (rej s stNotReady, none)
  else if c.poll then s.pollOp c
  else (handle c s, none)

/-- SEEN raised to a packet's DEV_SEEN (R422), and what that frees. -/
def State.see (s : State) (devSeen : Nat) : State :=
  let x := s.session
  let s := if 0 < diff32 devSeen x.seen then { s with session := { x with seen := devSeen } } else s
  let s := match s.savedAt with
    | some d => if 0 ≤ diff32 s.session.seen d then { s.setFld F.evgDiebackUnsaved 0 with savedAt := none } else s
    | none => s
  s.freeOps

/-- A packet in order taken, answered and its reply cached (R419, R421, R423). -/
def State.take (s : State) (handle : Cmd → State → Resp) (c : Cmd) : State :=
  let s := { s with session := { s.session with next := (s.session.next + 1) % 2 ^ 32 } }
  let s := s.see c.p.devSeen.toNat
  let dev := (s.session.dev + 1) % 2 ^ 32
  let r := s.perform handle { c with dev }
  let s := { r.1.s with session := { r.1.s.session with dev } }
  let rep := s.makeReply c dev r.1.status r.1.results false
  let s := { s with session := { s.session with cache := (rep :: s.session.cache).take 64 } }
  r.1.after ((s.sendReply c.p.link.val rep).notePoll r.2 dev)

/-- Opcodes that run again on duplication (R423, R430). -/
def rerun (op : Nat) : Bool :=
  [0x0003, 0x0103, 0x0105, 0x0110, 0x0111, 0x0205, 0x0301, 0x0302, 0x0303, 0x0401, 0x0601, 0x0603, 0x0701, 0x0804].contains op

/-- A duplicate of a packet already taken (R423). -/
def State.duplicate (s : State) (handle : Cmd → State → Resp) (c : Cmd) : State :=
  match s.session.cache.find? fun r => r.hostSeq == c.p.hostSeq.toNat with
  | none => s.badSeq c
  | some old =>
    if old.opcode = c.opcode ∧ (c.poll ∨ rerun c.opcode) then
      let r := s.perform handle { c with dev := old.devSeq }
      r.1.after ((r.1.s.sendReply c.p.link.val (r.1.s.makeReply c old.devSeq r.1.status r.1.results true)).notePoll r.2
        old.devSeq)
    else s.sendReply c.p.link.val { old with duplicate := true }

/-- Held packets that are now next taken in order (R421). -/
def State.takeHeld (s : State) (handle : Cmd → State → Resp) : Nat → State
  | 0 => s
  | n + 1 =>
    match s.session.held.find? fun h => h.2.hostSeq.toNat == s.session.next with
    | none => s
    | some h =>
      let x := s.session
      let s := { s with session := { x with held := x.held.filter fun y => y.2.hostSeq ≠ h.2.hostSeq } }
      let c : Cmd := { opcode := h.1, p := h.2 }
      if 0 < diff32 c.p.devSeen.toNat s.session.dev then s.badSeq c else (s.take handle c).takeHeld handle n

/-- The sequence rules (R421, R422). -/
def State.sequence (s : State) (handle : Cmd → State → Resp) (c : Cmd) : State :=
  let x := s.session
  let seq := c.p.hostSeq.toNat
  let d := diff32 seq x.next
  if 0 < diff32 c.p.devSeen.toNat x.dev then s.badSeq c
  else if d = 0 then (s.take handle c).takeHeld handle 16
  else if 1 ≤ d ∧ d ≤ 15 then
    if x.held.any fun h => h.2.hostSeq.toNat == seq then s
    else { s with session := { x with held := x.held ++ [(c.opcode, c.p)] } }
  else if -64 ≤ d ∧ d ≤ -1 then s.duplicate handle c
  else s.badSeq c

/-! ### HELLO and SYNC (R420, R424) -/

/-- NEXT_HOST_SEQ, ready state and stage of a HELLO's results. -/
def State.helloWord (s : State) (next : Nat) : Nat := next + s.ready * 2 ^ 32 + s.stage * 2 ^ 40

/-- HELLO. -/
def State.hello (s : State) (c : Cmd) : State :=
  let x := s.session
  let seq := c.p.hostSeq.toNat
  let hostId := c.par 4 4
  let lo := max (c.par 0 2) 0x0300
  let hi := min (c.par 2 2) 0x0401
  let again := match x.helloReply with
    | some r => x.agreed != 0 && x.helloSeq == seq && x.hostId == hostId && r.tag == c.p.tag.toNat
    | none => false
  if again then
    match x.helloReply with
    | some r => s.sendReply c.p.link.val { r with duplicate := true }
    | none => s
  else if ¬ c.has 20 ∨ 1 < c.par 16 4 then s.reply c stBadParam []
  else if hi < lo then s.reply c stBadVersion []
  else
    let season := if x.season = 65535 then 1 else x.season + 1
    let next := (seq + 1) % 2 ^ 32
    let ops := if c.par 16 4 = 1 then x.ops.filter (fun o => o.state != 2) else x.ops
    let x : Session := { x with season, next, cache := [], held := [], seen := x.dev, agreed := hi }
    let x : Session := { x with hostId, helloSeq := seq, helloTag := c.p.tag.toNat, ops }
    let s := { s with session := x, hostClock := some (c.par 8 8), hostClockAt := s.time }
    let s := s.see s.session.dev
    let status := if hi < 0x0401 then stDowngraded else stOk
    let results := leBytes 2 hi ++ leBytes 2 0x0300 ++ leBytes 4 (0x0401 * 2 ^ 16 + season) ++ leBytes 8 (s.helloWord next)
    let dev := (s.session.dev + 1) % 2 ^ 32
    let r := s.makeReply c dev status results false
    { s with session := { s.session with dev, helloReply := some r } }.sendReply c.p.link.val r

/-- One operation of SYNC's list. -/
def LongOp.syncEntry (o : LongOp) (now progress : Nat) : List Byte :=
  leBytes 2 o.id ++ leBytes 2 o.opcode ++ leBytes 4 o.hostSeq ++ leBytes 8 o.tag ++ leBytes 1 o.state ++
    leBytes 1 o.status ++ leBytes 2 progress ++ leBytes 2 o.season ++ leBytes 2 0 ++ leBytes 4 o.finalDevSeq ++
    leBytes 4 (min ((now - o.started) / 1000) (2 ^ 32 - 1))

/-- SYNC's results. -/
def State.syncResults (s : State) : List Byte :=
  let x := s.session
  let ops := if x.agreed ≠ 0 ∧ x.agreed < 0x0400 then [] else x.ops
  let oldest := x.cache.foldl (fun m r => if diff32 r.hostSeq m < 0 then r.hostSeq else m) x.next
  leBytes 4 x.next ++ leBytes 4 x.dev ++ leBytes 4 x.seen ++ leBytes 2 x.season ++ leBytes 1 s.ready ++ leBytes 1 s.stage ++
    leBytes 4 oldest ++ leBytes 4 x.hostId ++ leBytes 2 x.agreed ++ leBytes 1 ops.length ++ leBytes 5 0 ++
    ops.flatMap fun o => o.syncEntry s.time (s.progressOf o)

/-! ### Broadcasts (R425) -/

/-- A broadcast packet that passes check 1: its effect without a reply, or CHUNK_DISCARDED. -/
def State.broadcast (s : State) (handle : Cmd → State → Resp) (c : Cmd) : State :=
  if (c.opcode = 0x0102 ∨ c.opcode = 0x0103) ∧ s.available c.opcode then (handle c s).s
  else
    let low := if c.opcode = 0x0103 then c.p.tag.toNat % 2 ^ 32
      else if c.opcode = 0x0102 ∧ c.has 4 then 0xFFFF + c.par 2 2 * 2 ^ 16
      else 0xFFFF
    s.logEvent svWarning 0 0 0x0101 0 0 (low + c.opcode * 2 ^ 32)

/-! ### A packet that arrives (R419) -/

/-- Check 2. -/
def State.versionOk (s : State) (c : Cmd) : Bool :=
  let v := c.p.major.toNat * 256 + c.p.minor.toNat
  let any := c.opcode == 1 || c.opcode == 2 || s.session.agreed == 0
  if any then decide (0x0300 ≤ v) else v == s.session.agreed

/-- Check 3. -/
def State.seasonOk (s : State) (c : Cmd) : Bool :=
  let x := s.session
  c.opcode == 1 || c.opcode == 2 || (x.agreed != 0 && decide (x.agreed < 0x0400)) || c.p.season.toNat == x.season

/-- A command packet checked and answered. -/
def State.receive (s : State) (handle : Cmd → State → Resp) (c : Cmd) : State :=
  if ¬ c.crcOk then s.reply c stBadCrc []
  else if c.broadcast then s.broadcast handle c
  else if ¬ s.versionOk c then s.reply c stBadVersion []
  else if ¬ s.seasonOk c then s.reply c stSeasonStale []
  else if c.opcode = 1 then s.hello c
  else if c.opcode = 2 then s.drew.reply c stOk s.syncResults
  else if s.session.agreed = 0 then s.badSeq c
  else s.sequence handle c

/-- A packet on a substrate link: taken at once by a die that is awake, kept by one that is not until it is (R496). -/
def State.command (s : State) (handle : Cmd → State → Resp) (c : Cmd) : State :=
  if ¬ s.alive ∨ ¬ s.linkOpen (30 + c.p.link.val) then s
  else if s.dieAwake then (s.receive handle c).unitWork
  else { s with session := { s.session with asleep := s.session.asleep ++ [(c.opcode, c.p)] } }.linkTraffic

/-- Packets kept during sleep taken in the order in which they came (R496). -/
def State.takeAsleep (s : State) (handle : Cmd → State → Resp) : State :=
  if s.dieAwake then
    s.session.asleep.foldl (fun s x => s.command handle { opcode := x.1, p := x.2 })
      { s with session := { s.session with asleep := [] } }
  else s

end Sys2Proof.Machine
end

