-- ==== Sys2Proof/Machine/RegView.lean ====
section
/-! DEFINITION. What a register reads as: stored fields, and the fields that show other state (R7, R69, R71, R116, R140,
R298 and the register tables). A core's blocks stand at its physical number here. -/

namespace Sys2Proof.Machine

/-! ### Fields that show other state, by block; `a` is the register's address, `lo` the field's lowest bit -/

def State.viewEvg (s : State) (a lo : Nat) : Option Nat :=
  let j := s.fuses.journal
  let good := (j.filter fun x => x.valid).length
  if a = 0x64 then
    (if lo = 16 then some good else if lo = 8 then some (j.length - good) else if lo = 0 then some (192 - j.length) else none)
  else if a = 0x68 ∧ lo = 16 then some s.dieback.length
  else if a = 0x6C ∧ lo = 31 then some s.memValid.toNat
  else none

/-- FLT_EVT_OLDEST and FLT_EVT_COUNT (R558, R560). -/
def State.viewFlt (s : State) (a lo : Nat) : Option Nat :=
  if a = 0x70000 ∧ lo = 30 then some s.ready
  else if a = 0x70008 then some ((s.log.head?.map EvRec.index).getD (s.fld F.fltEvtNext))
  else if a = 0x7000C then some (if lo = 16 then (s.log.filter EvRec.waiting).length else s.log.length)
  else none

/-- Pleach registers: blocks loaded, routers, adapters. -/
def State.viewPln (s : State) (a lo : Nat) : Option Nat :=
  let sections := s.blocks.flatMap PlnBlock.sections
  if a = 0x80020 then some s.blocks.length
  else if 0x81000 ≤ a ∧ a < 0x99000 then
    let c := (a - 0x81000) / 0x1000
    if (a - 0x81000) % 0x1000 ≠ 0 then none
    else if lo = 31 then some (s.routerFailed c).toNat
    else if lo = 30 then some (sections.any fun x => x.clump == c && x.own.testBit 17).toNat
    else some ((sections.filter fun x => x.clump == c).foldl (fun m x => m ||| x.streamMask) 0)
  else if 0x99000 ≤ a then
    let d := (a - 0x99000) / 0x200
    let r := (a - 0x99000) % 0x200
    if r = 0 then
      (if lo = 16 then some (s.openRows d) else if lo = 8 then some (s.streamRows d)
       else some (maskOf 4 fun k => (tfind s.streams (d * 4 + k)).isSome))
    else if 0x10 ≤ r ∧ r < 0x20 then
      match tfind s.streams (d * 4 + (r - 0x10) / 4) with
      | some t => some (if lo = 24 then t.rows.length else t.next)
      | none => some 0
    else none
  else none

/-- DMA registers: rows reserved, channels active and halted, reads outstanding. -/
def State.viewDma (s : State) (a lo : Nat) : Option Nat :=
  let e := (a - 0xA0000) / 0x8000
  let r := (a - 0xA0000) % 0x8000
  if r = 0 then
    (if lo = 12 then some (s.dmaBuffered e)
     else some (s.chans.filter fun x => x.1 / 64 == e && x.2.run.isSome).length)
  else if r = 0x10 ∨ r = 0x14 then
    some (maskOf 32 fun i => s.chState (e * 64 + (r - 0x10) * 8 + i) == chHalted)
  else if 0x4000 ≤ r ∧ (r - 0x4000) % 0x100 = 0x1C then
    some (match (s.chan (e * 64 + (r - 0x4000) / 0x100)).run with | some x => (x.out.filter fun o => o.data.isNone && !o.lost).length | none => 0)
  else none

/-- LNK_UP, LNK_TRICKLE and CLASS. -/
def State.viewLnk (s : State) (a lo : Nat) : Option Nat :=
  if a = 0xE0000 then some (maskOf 32 s.linkUp)
  else if a = 0xE0004 then some (maskOf 32 fun i => s.linkState i == lkTrickle)
  else if 0xE1000 ≤ a ∧ (a - 0xE1000) % 0x800 = 0 ∧ lo = 15 then
    let i := (a - 0xE1000) / 0x800
    some (if i < 24 then 0 else if i < 30 then 1 else 2)
  else none

/-- Queue, binder, window and role registers. -/
def State.viewUnit (s : State) (a lo : Nat) : Option Nat :=
  if a < 0x200000 then
    let q := (a - 0x100000) / 0x80
    if (a - 0x100000) % 0x80 = 0x24 ∧ (lo = 31 ∨ lo = 30) then
      some (if s.fld (F.queCfgType q) = qtDma ∧ s.chState (s.chanOf q) = (if lo = 31 then chHalted else chPaused) then 1 else 0)
    else none
  else if a < 0x280000 then
    let b := (a - 0x200000) / 0x40
    let r := (a - 0x200000) % 0x40
    if 0x28 ≤ r ∧ r < 0x34 then
      some (maskOf 32 fun i => (tfind (s.binder b).waiters ((r - 0x28) * 8 + i)).isSome)
    else none
  else if a < 0x290000 then
    if (a - 0x280000) % 0x40 = 0 ∧ lo = 27 then some (s.windowStream ((a - 0x280000) / 0x40)).isSome.toNat else none
  else if a < 0x298000 then
    let n := (bitsOf 96 (s.roleSet ((a - 0x290000) / 0x40))).length
    if (a - 0x290000) % 0x40 = 0 then some (if lo = 31 then (if n = 0 then 0 else 1) else n) else none
  else if a = 0x298000 then
    some (if lo = 16 then s.inq.length else (s.binders.map fun b => b.2.list.length).sum)
  else none

/-- Banks of a core that are powered: none before the cores are numbered, in Coppice those it retains, in Bare none (R145,
R152). -/
def State.poweredBanks (s : State) (p : Nat) : Nat :=
  if s.nLogical = 0 ∨ s.power p = pwBare then 0
  else if s.power p = pwCoppice then s.fld (F.spdRetainRetain p)
  else 0xFFFF

/-- The voltage in mV of retained banks in Coppice and in die-level sleep: the highest retention Vmin among the cores that
retain some, plus 25 mV; none while none does (R483, R545). -/
def State.retentionMv (s : State) : Option Nat :=
  let vs := ((bitsOf 96 s.coreMap).filter fun p => s.power p == pwCoppice && s.poweredBanks p != 0).map fun p =>
    500 + ((s.fuses.coreVmin[p]?).getD 0).toNat
  if vs.isEmpty then none else some (vs.foldl max 0 + 25)

/-- COR, SPD, MXE and VXE registers of physical core p at offset r of its slot. -/
def State.viewCore (s : State) (p r lo : Nat) : Option Nat :=
  let c := s.core p
  if r = 0 then
    (if lo = 20 then some c.vxq.length else if lo = 16 then some c.mxq.length else if lo = 0 then some p else none)
  else if r = 4 ∧ (lo = 10 ∨ lo = 9 ∨ lo = 8 ∨ lo = 4 ∨ lo = 3) then some (bitsAt (s.levelBits p) lo 1)
  else if r = 0x38 then some (s.sbMask p)
  else if r = 0x4000 then
    (if lo = 24 then some ((List.range 32).filter fun i => s.sbLive p i && s.fld (F.spdSbASource p i) == 3).length
     else if lo = 16 then some c.inbox.length else some (s.poweredBanks p))
  else if r = 0x8000 ∧ lo = 30 then some c.acc.isSome.toNat
  else if r = 0x8100 then some c.guardRecs.length
  else if 0x8110 ≤ r ∧ r < 0x8120 then
    some (match c.guardRecs with | g :: _ => ((g.words[(r - 0x8110) / 4]?).getD 0).toNat | [] => 0)
  else none

/-- The value of a field that shows other state. -/
def State.computed (s : State) (a lo : Nat) : Option Nat :=
  if a < 0x20000 then s.viewEvg a lo
  else if a = 0x21030 ∧ lo = 8 then some s.pctl.pace.length
  else if a = 0x50000 ∧ lo = 16 then some s.calItems.length
  else if a = 0x60000 ∧ lo = 31 then some s.testMode.toNat
  else if 0x70000 ≤ a ∧ a < 0x80000 then s.viewFlt a lo
  else if 0x80000 ≤ a ∧ a < 0xA0000 then s.viewPln a lo
  else if 0xA0000 ≤ a ∧ a < 0xE0000 then s.viewDma a lo
  else if 0xE0000 ≤ a ∧ a < 0x100000 then s.viewLnk a lo
  else if 0x100000 ≤ a ∧ a < 0x400000 then s.viewUnit a lo
  else if 0x400000 ≤ a then s.viewCore ((a - 0x400000) / 0x10000) ((a - 0x400000) % 0x10000) lo
  else none

/-- A field of the register at `a` as it reads; write-only fields read 0 (R7). -/
def State.viewField (s : State) (a : Nat) (f : FDesc) : Nat :=
  if f.ty = .wo then 0
  else
    match s.computed a f.lo with
    | some v => v % 2 ^ f.w
    | none => s.fld ⟨a, f.lo, f.w⟩

/-- A register with all its fields, as a number of 32 or, for a pair, 64 bits. -/
def State.viewReg (s : State) (a : Nat) (r : RDesc) : Nat :=
  r.fields.foldl (fun x f => x + s.viewField a f * 2 ^ f.lo) 0

/-- Words of the distance table, written at S7 (R298, R464). -/
def State.distWord (s : State) (a : Nat) : Nat :=
  let c := (a - 0x80800) / 0x40
  let j := (a - 0x80800) % 0x40 / 4
  if s.stage < 7 then 0 else s.distEntry c (2 * j) + s.distEntry c (2 * j + 1) * 2 ^ 16

/-- Whether an address lies in the distance table. -/
def inDist (a : Nat) : Bool := decide (0x80800 ≤ a) && decide (a < 0x80E00)

/-- Registers of U0 and U1 that stand only on links with 64 lanes (R414). -/
def lnkAbsent (a : Nat) : Bool :=
  let i := (a - 0xE1000) / 0x800
  let r := (a - 0xE1000) % 0x800
  decide (0xE1000 ≤ a) && decide (a < 0x100000) && decide (30 ≤ i) &&
    ((decide (0x140 ≤ r) && decide (r < 0x200)) || decide (0x240 ≤ r))

/-- The register whose word stands at `a`: its address, row, and whether `a` is the high word of a pair; none where
nothing is assigned (R71). -/
def regAt (a : Nat) : Option (Nat × RDesc × Bool) :=
  if lnkAbsent a then none
  else
    match findReg a with
    | some r => some (a, r, false)
    | none =>
      if a < 4 then none
      else
        match findReg (a - 4) with
        | some r => if r.pair then some (a - 4, r, true) else none
        | none => none

/-- The word at `a`, without any effect of the read. -/
def State.regWord (s : State) (a : Nat) : Nat :=
  if inDist a then s.distWord a
  else
    match regAt a with
    | none => 0
    | some (b, r, hi) => if hi then s.viewReg b r / 2 ^ 32 else s.viewReg b r % 2 ^ 32

/-- The words from `a` to `a + 4 (n − 1)` as bytes. -/
def State.regBytes (s : State) (a n : Nat) : List Byte := (List.range n).flatMap fun k => leBytes 4 (s.regWord (a + 4 * k))

end Sys2Proof.Machine
end

