-- ==== Sys2Proof/Machine/HostBoot.lean ====
section
/-! DEFINITION. Bring-up commands: information, holds, image loading, renumbering, the dieback list and settings blobs
(R63 to R66, R430, R440 to R448, R450, R455 to R458, R533 to R538, R581). -/

namespace Sys2Proof.Machine

/-! ### GET_INFO and BOOT_STAGE -/

/-- GET_INFO. -/
def hGetInfo (c : Cmd) (s : State) : Resp :=
  let sec := c.par 0 2
  if ¬ c.has 2 ∨ 2 < sec then rej s stBadParam
  else if sec = 0 then
    { s, results := leBytes 2 0x0960 ++ leBytes 1 s.fuses.grade ++ leBytes 1 s.fuses.revision ++ s.regBytes 0x40 8 ++
        leBytes 4 (s.regWord 0xE0000) ++ leBytes 8 s.packageBytes ++ leBytes 1 s.ready ++ leBytes 1 s.stage ++
        leBytes 1 s.testMode.toNat }
  else if sec = 1 then
    { s, results := leBytes 12 (maskOf 96 (excludes s.dieback)) ++ leBytes 4 (s.fld F.plnRouterFailed) }
  else { s, results := s.regBytes 0x80800 384 }

/-- BOOT_STAGE's results. -/
def State.bootResults (s : State) : List Byte :=
  leBytes 1 s.stage ++ leBytes 1 (s.fld F.evgBootState) ++ leBytes 2 s.lastCode ++
    leBytes 4 ((s.time - s.stageStart) / 1000)

/-- A die held before a stage that no hold names any more goes on (R440). -/
def State.goOn (s : State) : State :=
  let next := s.stage + 1
  if s.fld F.evgBootState = 3 ∧ ¬ (s.bit F.evgBootHoldEn ∧ s.fld F.evgBootHoldStage = next) then s.startStage next else s

/-- BOOT_STAGE (R440). -/
def hBootStage (c : Cmd) (s : State) : Resp :=
  let k := c.par 1 1
  if ¬ c.has 2 ∨ 2 < c.par 0 1 then rej s stBadParam
  else if c.par 0 1 = 0 then { s, results := s.bootResults }
  else if c.par 0 1 = 1 then
    if k < 3 ∨ 9 < k ∨ k ≤ s.stage then rej s stBadParam
    else
      let s := ((s.setFld F.evgBootHoldEn 1).setFld F.evgBootHoldStage k).goOn
      { s, results := s.bootResults }
  else
    let s := ((s.setFld F.evgBootHoldEn 0).setFld F.evgBootHoldStage 0).goOn
    { s, results := s.bootResults }

/-! ### Images (R442 to R448, R533 to R536, R581) -/

/-- The transfer that a number names: one still open, else one committed. -/
def State.transfer (s : State) (id : Nat) : Option Transfer :=
  (s.transfers.find? fun t => t.id == id && !t.committed).orElse fun _ => s.transfers.find? fun t => t.id == id

/-- Capacity of a target (R442). -/
def imageCapacity (target : Nat) : Nat := if target = 0 then 196608 else 32768

/-- A fresh transfer with its receivers. -/
def State.newTransfer (s : State) (target id size : Nat) (digest : List Byte) : Transfer :=
  let cores := (List.range 96).filter fun p => !excludes s.dieback p
  { target, id, size, chunks := (size + 4095) / 4096, digest,
    receivers := if target = 1 then cores.map (fun p => { core := p }) else [] }

/-- LOAD_IMAGE_BEGIN. -/
def hLoadBegin (c : Cmd) (s : State) : Resp :=
  let target := c.par 0 1
  let id := c.par 2 2
  let size := c.par 4 4
  let digest := slice c.p.params 12 32
  if ¬ c.has 44 ∨ 1 < target ∨ size = 0 ∨ imageCapacity target < size ∨ size % 16 ≠ 0 ∨ c.par 8 4 ≠ (size + 4095) / 4096 then
    rej s stBadParam
  else if s.transfers.any fun t => t.target == target && t.op.isSome then rej s stBusy
  else
    let same := s.transfers.any fun t =>
      t.target == target && !t.committed && t.id == id && t.size == size && t.digest == digest
    if same then { s }
    else
      let keep := s.transfers.filter fun t => t.target ≠ target ∨ t.committed
      { s := { s with transfers := keep ++ [s.newTransfer target id size digest] } }

/-- A transfer changed. -/
def State.setTransfer (s : State) (t : Transfer) : State :=
  { s with transfers := s.transfers.map fun x => if x.target = t.target ∧ x.id = t.id ∧ ¬ x.committed then t else x }

/-- A chunk written to one core: received, or one more failure. -/
def Receiver.write (r : Receiver) (chunk : Nat) (bad : List Nat) : Receiver :=
  if r.got.contains chunk then r
  else if bad.contains r.core then { r with fails := tmod 0 r.fails chunk (· + 1) }
  else { r with got := r.got ++ [chunk] }

/-- A chunk written to a transfer's receivers (R443): each core that lacks it gets Hedger's copy in its microcode RAM. A write
that fails leaves the RAM as it was (log 82). -/
def State.writeChunk (s : State) (t : Transfer) (chunk : Nat) (data : List Byte) (bad : List Nat) : State :=
  let data := if t.data.any (fun d => d.1 == chunk) then t.data else tins t.data chunk data
  let took := t.receivers.filter fun r => !r.got.contains chunk && !bad.contains r.core
  let s := took.foldl (fun s r =>
    s.setCore r.core { s.core r.core with ucode := putAt (s.core r.core).ucode (chunk * 4096) (tget [] data chunk) }) s
  let rs := t.receivers.map fun r => r.write chunk bad
  let lost := rs.filter fun r => decide (4 ≤ tget 0 r.fails chunk)
  let s := s.setTransfer { t with data, receivers := rs.filter fun r => tget 0 r.fails chunk < 4 }
  lost.foldl (fun s r =>
    let s := s.addDieback 1 3 r.core 0 0x0201
    (s.logEvent svAlert 2 stUnitFailed 0x0201 r.core 0
      (r.core + 2 * 2 ^ 8 + s.fld F.evgNumberingEpoch * 2 ^ 16)).lose 2 4) s

/-- LOAD_IMAGE_CHUNK; a broadcast of a transfer not begun is recorded (R444). -/
def hLoadChunk (c : Cmd) (s : State) : Resp :=
  let chunk := c.p.tag.toNat % 65536
  match s.transfer (c.p.tag.toNat / 65536 % 65536) with
  | none =>
    if c.broadcast then
      { s := s.logEvent svWarning 0 0 0x0101 0 0 (c.p.tag.toNat % 2 ^ 32 + 0x0103 * 2 ^ 32), status := stBadParam }
    else rej s stBadParam
  | some t =>
    if t.chunks ≤ chunk ∨ c.p.params.length ≠ min 4096 (t.size - chunk * 4096) then rej s stBadParam
    else if t.committed ∨ t.op.isSome then { s }
    else { s := s.writeChunk t chunk c.p.params c.bad }

/-- Whether a receiver of a transfer lacks a chunk. -/
def Transfer.lacks (t : Transfer) (chunk : Nat) : Bool :=
  if t.committed then false
  else !(t.data.any fun d => d.1 == chunk) || t.receivers.any fun r => !r.got.contains chunk

/-- Receivers that lack a chunk (R445): the die, or cores. -/
def Transfer.incomplete (t : Transfer) : Nat :=
  if t.committed then 0
  else if t.target = 0 then (if t.data.length < t.chunks then 1 else 0)
  else (t.receivers.filter fun r => decide (r.got.length < t.chunks)).length

/-- GET_MISSING. -/
def hGetMissing (c : Cmd) (s : State) : Resp :=
  match s.transfer (c.par 0 2) with
  | none => rej s stBadParam
  | some t =>
    let m := maskOf t.chunks t.lacks
    if ¬ c.has 2 then rej s stBadParam
    else { s, results := leBytes 2 t.id ++ leBytes 2 (bitsOf t.chunks m).length ++ leBytes 4 t.incomplete ++ leBytes 512 m }

/-- LOAD_IMAGE_COMMIT. -/
def hLoadCommit (c : Cmd) (s : State) : Resp :=
  match s.transfer (c.par 0 2) with
  | none => rej s stBadParam
  | some t =>
    if ¬ c.has 2 then rej s stBadParam
    else s.startLong c 0 fun s id =>
      { s with transfers := s.transfers.map fun x =>
          if x.target = t.target ∧ x.id = t.id ∧ x.committed = t.committed then { x with op := some id } else x }

/-- The header of a signed image (R533, R534 step 1). -/
def headerOk (target : Nat) (b : List Byte) : Bool :=
  let body := leAt b 0x0C 4
  let zero := fun (o n : Nat) => (slice b o n).all (· == 0)
  leAt b 0 4 == 0x53494D31 && leAt b 4 1 == target && leAt b 5 1 == 1 && zero 6 2 && leAt b 8 4 == 0x100 &&
    body % 16 == 0 && leAt b 0x10 4 == 0x100 + body && b.length == 0x100 + body + 16224 && zero 0x1D 3 && zero 0x70 144 &&
    decide (leAt b 0x18 2 ≤ 64) && decide (leAt b 0x1A 2 ≤ leAt b 0x18 2) && decide (leAt b 0x1C 1 ≤ 3) &&
    (target == 0 || (leAt b 0x14 4 == 0 && leAt b 0x1A 2 == 0 && leAt b 0x1C 1 == 0)) &&
    (target == 1 || decide (leAt b 0x14 4 < body))

/-- The vendor key slot that an image's key matches (R534 step 2, R535). -/
def State.keySlot (s : State) (b : List Byte) : Option Nat :=
  let d := sha256 (slice b 0x20 48)
  (List.range 4).find? fun i => decide (s.fuses.revokeIndex ≤ i) && s.fuses.vendorKey i == some d

/-- Checks 3 and 4 of R446: the status, and the slot that verified the image. -/
def State.verify (s : State) (target : Nat) (b : List Byte) : Nat × Nat :=
  if ¬ headerOk target b then (stAuthFail, 0)
  else
    match s.keySlot b with
    | none => (stAuthFail, 0)
    | some k =>
      let n := leAt b 0x10 4
      if k < leAt b 0x1C 1 then (stAuthFail, 0)
      else if ¬ Config.slhVerify 1 (slice b 0x20 48) (b.take n) (b.drop n) then (stAuthFail, 0)
      else if leAt b 0x18 2 < s.fuses.counter then (stRollback, 0)
      else (stOk, k)

/-- Measurement k set (R538). -/
def State.setMeas (s : State) (k : Nat) (d : List Byte) : State :=
  (List.range 8).foldl (fun s j => s.setFld (F.secMeas k j) (leAt d (4 * j) 4)) s

/-- A commit rejected (R447). -/
def State.rejectImage (s : State) (t : Transfer) (status : Nat) : State :=
  let reason := if status = stAuthFail then 1 else if status = stRollback then 2 else 3
  let s := if status = stBadParam then s else s.addFld F.secAuthFail 1
  let s := s.reportDur 2 ocRejected reason (s.time - s.stageStart)
  let s := s.logEvent svWarning 0 status 0x0103 0 0 (t.id + t.target * 2 ^ 16)
  { s with transfers := s.transfers.filter fun x => ¬ (x.target = t.target ∧ x.id = t.id ∧ x.op.isSome) }

/-- A committed image taken up (R537, R538). -/
def State.takeImage (s : State) (target slot : Nat) (b d : List Byte) : State :=
  let im : Image := { bytes := b, svn := leAt b 0x18 2, advanceTo := leAt b 0x1A 2, revokeTo := leAt b 0x1C 1, slot }
  let s := s.setMeas target d
  if target = 0 then
    let s := { (s.setFld F.secStatusFwSlot slot).setFld F.secImageSvnFwSvn im.svn with firmware := some im }
    (s.setFld F.secAdvanceAdvanceTo im.advanceTo).setFld F.secAdvanceRevokeTo im.revokeTo
  else
    { (s.setFld F.secStatusMcSlot slot).setFld F.secImageSvnMcSvn im.svn with microcode := some im }

/-- IMAGE_COMMIT_DONE: the checks of R446 in order, and what follows (R447, R448). -/
def execImageCommitDone (s : State) : Host.Outcome State Fault Refusal :=
  .next <| match s.transfers.find? fun t => t.op.isSome with
    | none => s
    | some t =>
      let id := t.op.getD 0
      let b := (t.data.flatMap fun d => d.2).take t.size
      let d := sha256 b
      let whole := (List.range t.chunks).all fun k => !t.lacks k
      let v := s.verify t.target b
      if ¬ whole then (s.rejectImage t stBadParam).finishOp id stBadParam (List.replicate 32 0)
      else if d ≠ t.digest then (s.rejectImage t stAuthFail).finishOp id stAuthFail d
      else if v.1 ≠ stOk then (s.rejectImage t v.1).finishOp id v.1 d
      else
        let done := fun (x : Transfer) => if x.op.isSome then { x with op := none, committed := true } else x
        let s : State := { s with transfers := s.transfers.map done }
        let s : State := (s.takeImage t.target v.2 b d).finishOp id stOk d
        if (s.inStage 2 && s.bothImages) = true then s.passS2 else s

/-! ### RENUMBER and GET_DIEBACK (R63 to R66, R450) -/

/-- What numbering is bound to by R63, a channel idle as R573 says. -/
def State.quiesced (s : State) : Bool :=
  let busyQueue := s.queues.any fun q => decide (s.fld (F.queCfgType q.1) = qtWork) &&
    (decide (s.ringUsed q.1 ≠ 0) || !q.2.active.isEmpty)
  let ringWork := s.regs.any fun r =>
    let a := r.1 / 32
    decide (0x100000 ≤ a) && decide (a < 0x200000) && decide ((a - 0x100000) % 0x80 = 0x14) &&
      (let q := (a - 0x100000) / 0x80
       decide (s.fld (F.queCfgType q) = qtWork) && decide (s.ringUsed q ≠ 0))
  let dma := (List.range 512).all fun c => let x := s.chState c; x == chIdle || x == chPaused || x == chHalted || x == chUnbound
  let windows := (List.range 1024).all fun w => s.fld (F.winCfgState w) != 1
  let roles := (List.range 256).all fun r => s.roleSet r == 0
  let rings := s.queues.all fun q => match q.2.ringCore with | some p => !excludes s.dieback p | none => true
  !busyQueue && !ringWork && s.kernels.isEmpty && dma && windows && roles && rings

/-- The power fields of one logical core, as a list. -/
def corePowerFields (l : Nat) : List Fld :=
  [F.pwrCoreStatusState l, F.pwrCoreStatusWakeCause l, F.pwrCoreStatusLastRefusal l, F.pwrCoreStatusPending l,
   F.pwrCoreStatusPendingState l, F.pwrCoreStatusPendingOp l, F.pwrCoreRefuseAborts l, F.pwrCoreRefuseRefusals l,
   F.pwrCoreWakeLost l]

/-- The cores numbered afresh; a physical core's power state and counts follow it to its new number (log 55), and a
ring in its scratchpad takes that number (R305). -/
def State.renumber (s : State) : State :=
  let old := s.coreMap
  let s' := s.number (s.fld F.evgNumberingEpoch % 0xFFFF + 1)
  let ps := bitsOf 96 s'.coreMap
  let was := bitsOf 96 old
  let s' := s'.queues.foldl (fun t q => match q.2.ringCore.bind t.logical with
    | some l =>
      let base := t.fld (F.queBase q.1)
      t.setFld (F.queBase q.1) (base / 2 ^ 44 * 2 ^ 44 + l * coreBytes + base % coreBytes)
    | none => t) s'
  (List.range 96).foldl (fun t l =>
    let vals := match ps[l]? with
      | some p => if was.contains p then (corePowerFields (was.idxOf p)).map s.fld else (corePowerFields l).map fun _ => 0
      | none => (corePowerFields l).map fun _ => 0
    ((corePowerFields l).zip vals).foldl (fun t x => t.setFld x.1 x.2) t) s'

/-- RENUMBER. -/
def hRenumber (_ : Cmd) (s : State) : Resp :=
  if ¬ s.quiesced then rej s stQuiesce
  else if s.remaining < 92 then rej s stHwFault
  else
    let s := (s.renumber.setFld F.fltStatusUnitFenced 0).settleReady
    { s, results := leBytes 1 s.nLogical ++ leBytes 1 0 ++ leBytes 2 (s.fld F.evgNumberingEpoch) }

/-- A dieback entry as bytes (R450). -/
def Dieback.bytes16 (d : Dieback) : List Byte :=
  leBytes 1 d.kind ++ leBytes 1 d.source ++ leBytes 2 d.unit ++ leBytes 4 d.detail ++ leBytes 4 d.time ++
    leBytes 2 d.cause ++ leBytes 1 d.fused.toNat ++ leBytes 1 0

/-- An entry read from bytes. -/
def Dieback.ofBytes (b : List Byte) : Dieback :=
  { kind := leAt b 0 1, source := leAt b 1 1, unit := leAt b 2 2, detail := leAt b 4 4, time := leAt b 8 4,
    cause := leAt b 12 2, fused := (leAt b 14 1).testBit 0 }

/-- GET_DIEBACK. -/
def hGetDieback (c : Cmd) (s : State) : Resp :=
  let es := (s.dieback.drop (c.par 0 2)).take 255
  if ¬ c.has 2 then rej s stBadParam
  else { s, results := leBytes 2 s.dieback.length ++ leBytes 2 es.length ++ leBytes 4 0 ++ es.flatMap Dieback.bytes16 }

/-! ### Settings (R455 to R458) -/

/-- A section of a blob. -/
def blobSection (ty : Nat) (body : List Byte) : List Byte := leBytes 2 ty ++ leBytes 2 0 ++ leBytes 4 body.length ++ body

/-- One LINKS record. -/
def State.linkRecord (s : State) (i : Nat) : List Byte :=
  let w := s.fld (F.lnkStatusWidth i)
  let eq := s.eqWords i
  leBytes 1 i ++ leBytes 1 w ++ leBytes 2 0 ++ leBytes 4 (mapCrc (s.fld (F.lnkUsed i)) w) ++
    leBytes 8 (s.fld (F.lnkGood i)) ++ (List.range 64).flatMap fun j => leBytes 4 ((eq[j]?).getD 0)

/-- The digest of a blob: its HMAC with the DIGEST field 0, under the settings key. -/
def State.blobDigest (s : State) (b : List Byte) : List Byte :=
  let key := match s.keys with | some k => k.2.1 | none => []
  hmac key (b.take 0x20 ++ List.replicate 32 0 ++ b.drop 0x40)

/-- A snapshot of the settings blob. -/
def State.makeBlob (s : State) : List Byte :=
  let up := (List.range 32).filter fun i => s.linkState i == lkActive
  let mem := if s.memValid then [blobSection 3 s.memRecord] else []
  let net := leBytes 2 (s.fld F.plnPeriod) ++ leBytes 1 (s.fld F.plnOpen) ++ leBytes 1 0
  let parts := [blobSection 1 (s.dieback.flatMap Dieback.bytes16), blobSection 2 (up.flatMap s.linkRecord)] ++ mem ++
    [blobSection 4 net]
  let body := parts.flatMap fun x => x
  let head := leBytes 4 0x53455431 ++ leBytes 2 1 ++ leBytes 2 parts.length ++ leBytes 8 s.hostNow ++
    leBytes 4 (64 + body.length) ++ leBytes 4 s.placementWord ++ slice s.fuses.certDigest 0 8
  let b := head ++ List.replicate 32 0 ++ body
  head ++ s.blobDigest b ++ body

/-- SAVE_SETTINGS (R458). -/
def hSaveSettings (c : Cmd) (s : State) : Resp :=
  let part := c.par 0 2
  if ¬ c.has 2 then rej s stBadParam
  else
    let s := if part = 0 then { s with snapshot := s.makeBlob, savedAt := none } else s
    let parts := (s.snapshot.length + 4063) / 4064
    if parts ≤ part then rej s stBadParam
    else
      let s := if part + 1 = parts ∧ s.savedAt.isNone then { s with savedAt := some c.dev } else s
      { s, results := leBytes 2 part ++ leBytes 2 parts ++ leBytes 4 0 ++ (s.snapshot.drop (part * 4064)).take 4064 }

/-- The sections of a blob: type and body. -/
def blobSections : Nat → List Byte → List (Nat × List Byte)
  | 0, _ => []
  | n + 1, b =>
    let len := leAt b 4 4
    (leAt b 0 2, slice b 8 len) :: blobSections n (b.drop (8 + len))

/-- Consecutive pieces of a list. -/
def pieces (k : Nat) : Nat → List Byte → List (List Byte)
  | 0, _ => []
  | n + 1, b => slice b 0 k :: pieces k n (b.drop k)

/-- A LINKS record read. -/
def SavedLink.ofBytes (b : List Byte) : SavedLink :=
  { link := leAt b 0 1, width := leAt b 1 1, good := leAt b 8 8, eq := (List.range 64).map fun j => leAt b (0x10 + 4 * j) 4 }

/-- An accepted blob (R457): its sections, only DIEBACK if its placement is another (R456). -/
def readBlob (b : List Byte) (placed : Bool) : Restored :=
  let secs := blobSections (leAt b 6 2) (b.drop 64)
  let get := fun (ty : Nat) => (secs.find? fun x => x.1 == ty).map fun x => x.2
  let die := ((get 1).getD [])
  let links := if placed then (get 2).getD [] else []
  { dieback := (pieces 16 (die.length / 16) die).map Dieback.ofBytes
    links := ((pieces 272 (links.length / 272) links).map SavedLink.ofBytes).filter fun x => x.link < 32
    memtest := if placed then get 3 else none
    network := if placed then (get 4).map fun x => (leAt x 0 2, leAt x 2 1) else none }

/-- The checks of R456 in order. -/
def State.blobStatus (s : State) (b : List Byte) : Nat :=
  let created := leAt b 8 8
  if leAt b 0 4 ≠ 0x53455431 ∨ leAt b 4 2 ≠ 1 ∨ leAt b 0x10 4 ≠ b.length ∨ b.length < 64 then stBadParam
  else if slice b 0x20 32 ≠ s.blobDigest b ∨ slice b 0x18 8 ≠ slice s.fuses.certDigest 0 8 then stAuthFail
  else if s.hostClock.isNone ∨ created + 604800 < s.hostNow ∨ s.hostNow + 3600 < created then stBadParam
  else stOk

/-- A complete blob checked and, if it passes, accepted (R457, R538). -/
def State.takeBlob (s : State) : State × Nat :=
  match s.blobIn with
  | none => (s, stBadParam)
  | some (_, _, b) =>
    let s' := { s with blobIn := none, blobOp := none }
    let st := s.blobStatus b
    if st ≠ stOk then (s', st)
    else ({ s' with restored := some (readBlob b (leAt b 0x14 4 == s.placementWord)) }.setMeas 3 (sha256 b), stOk)

/-- RESTORE_SETTINGS (R456). -/
def hRestoreSettings (c : Cmd) (s : State) : Resp :=
  let part := c.par 0 2
  let parts := c.par 2 2
  let data := c.p.params.drop 8
  if ¬ c.has 8 ∨ parts ≤ part then rej s stBadParam
  else if 3 ≤ s.stage ∨ s.blobOp.isSome then rej s stBusy
  else
    let prev := match s.blobIn with
      | some (n, k, b) => if part = 0 then some [] else if n = parts ∧ k = part then some b else none
      | none => if part = 0 then some [] else none
    match prev with
    | none => { s := { s with blobIn := none }, status := stBadParam }
    | some b =>
      if part + 1 = parts ∧ ¬ c.fast ∧ ¬ s.opRoom then rej s stBusy
      else
      let s := { s with blobIn := some (parts, part + 1, b ++ data) }
      if part + 1 < parts then { s }
      else if c.fast then
        let r := s.takeBlob
        { s := r.1, status := r.2 }
      else s.startLong c 0 fun s id => { s with blobOp := some id }

/-- RESTORE_SETTINGS_DONE: the check of a restored blob ends after more than 100 µs (R426, R456). -/
def execRestoreSettingsDone (s : State) : Host.Outcome State Fault Refusal :=
  .next <| match s.blobOp with
    | none => s
    | some id =>
      let r := s.takeBlob
      r.1.finishOp id r.2 []

end Sys2Proof.Machine
end

