-- ==== Sys2Proof/Machine/HostPower.lean ====
section
/-! DEFINITION. Power and telemetry commands (R430, R487, R494, R495, R505 to R510, R521, R523, R563). -/

namespace Sys2Proof.Machine

/-! ### SET_POWER_STATE (R487, R494, R495) -/

/-- A long operation for a power request; one object may hold two (R427, R494). -/
def State.startPower (s : State) (c : Cmd) (object : Nat) (pending : Bool) (begin_ : State → Nat → State) : Resp :=
  if ¬ s.opRoom then rej s stBusy
  else
    let r := s.startOp c.opcode c.p.hostSeq.toNat c.p.tag.toNat object pending
    let est := leBytes 4 (r.1.draw 0x426)
    { s := begin_ r.1.drew r.2, status := stAccepted, results := leBytes 2 r.2 ++ [0, 0] ++ est }

/-- SCOPE 1: logical core l asked for state x. -/
def State.powerCore (s : State) (c : Cmd) (l p x : Nat) : Resp :=
  if s.fencedCore p then rej s stUnitFailed
  else if s.inKernel p ∨ s.dieOp.isSome ∨ s.bit F.pwrDieStatusPending then rej s stBusy
  else if s.vetoed x ∧ s.power p ≠ x then
    rej ((s.setFld (F.pwrCoreStatusLastRefusal l) 7).satFld (F.pwrCoreRefuseRefusals l) 1) stBusy
  else if s.inTransition p then
    s.startPower c l true fun s id => (s.setIdle l x).askCore p l x id
  else if s.power p = x then { s := s.setIdle l x }
  else if c.fast ∧ s.quick p x then { s := (s.setIdle l x).moveCore p x }
  else s.startPower c l false fun s id => (s.setIdle l x).askCore p l x id

/-- Idle cores that a request for state x still has to move. -/
def State.toMove (s : State) (x : Nat) : List (Nat × Nat) :=
  s.idleCores.filter fun c => !s.vetoed x && (s.inTransition c.1 || s.power c.1 != x)

/-- SCOPE 0, STATE 0 to 3. -/
def State.powerAll (s : State) (c : Cmd) (x : Nat) : Resp :=
  let setAll := fun (s : State) => s.idleCores.foldl (fun s c => s.setIdle c.2 x) s
  let ms := s.toMove x
  if ms.isEmpty then { s := setAll s }
  else if (c.fast && ms.all fun m => !s.inTransition m.1 && s.quick m.1 x) = true then
    { s := ms.foldl (fun s m => s.moveCore m.1 x) (setAll s) }
  else s.startPower c 0 false fun s id =>
    ms.foldl (fun s m => s.askCore m.1 m.2 x id) { setAll s with dieOp := some id }

/-- A die-level request while another die-level transition runs: it takes the pending slot (R494). -/
def State.pendDie (s : State) (c : Cmd) (x : Nat) : Resp :=
  s.startPower c 0 true fun s id =>
    let s := if s.bit F.pwrDieStatusPending then s.finishOp (s.fld F.pwrDieStatusPendingOp) stSuperseded [] else s
    ((s.setFld F.pwrDieStatusPending 1).setFld F.pwrDieStatusPendingState x).setFld F.pwrDieStatusPendingOp id

/-- SET_POWER_STATE. -/
def hSetPowerState (c : Cmd) (s : State) : Resp :=
  let scope := c.par 0 1
  let x := c.par 1 1
  let l := c.par 2 2
  if ¬ c.has 4 ∨ 1 < scope ∨ 4 < x then rej s stBadParam
  else if scope = 1 then
    match s.phys l with
    | none => rej s stBadParam
    | some p => if x = 4 then rej s stBadParam else s.powerCore c l p x
  else if s.dieOp.isSome then s.pendDie c x
  else if x = 4 then
    let code := s.sleepRefusal
    if code ≠ 0 then rej ((s.setFld F.pwrDieStatusLastRefusal code).addFld F.pwrDieRefuse 1) stBusy
    else { s, after := State.beginSleep }
  else s.powerAll c x

/-! ### Operating points, limits and pace -/

/-- The highest operating point of a half at or below the code it runs at or glides to (R509). -/
def State.opApplied (s : State) (h : Nat) : Nat :=
  let code := if s.bit (F.pwrHalfGliding h) then s.fld (F.pwrHalfTarget h) else s.fld (F.pwrHalfFcode h)
  ((List.range 16).filter fun k => decide (s.opCode h k ≤ code)).foldl max 0

/-- SET_OPERATING_POINT (R508, R509). -/
def hSetOperatingPoint (c : Cmd) (s : State) : Resp :=
  let half := c.par 0 1
  let op := c.par 1 1
  let cls := c.par 2 1
  if ¬ c.has 3 ∨ 2 < half ∨ 15 < op ∨ (15 < cls ∧ cls ≠ 0xFF) then rej s stBadParam
  else
    let hs := if half = 2 then [0, 1] else [half]
    let ks := if cls = 0xFF then List.range 16 else [cls]
    let s := hs.foldl (fun s h => ks.foldl (fun s k => s.setFld (F.pwrPrefOp (h * 2 + k / 8) (k % 8)) op) s) s
    let s := hs.foldl (fun s h => if s.controls then s.retarget h false else s.setFld (F.pwrCapPref h) (s.prefCode h)) s
    { s, results := leBytes 1 (s.opApplied 0) ++ leBytes 1 (s.opApplied 1) }

/-- SET_LIMIT (R510). -/
def hSetLimit (c : Cmd) (s : State) : Resp :=
  let lim := c.par 0 1
  let mw := c.par 4 4
  let ms := c.par 8 4
  let design := s.fuses.designMw
  let ok :=
    if lim = 0 then decide (200000 ≤ mw) && decide (mw ≤ design) && decide (mw ≤ s.fld (F.pwrLimit 1)) &&
      decide (1000 ≤ ms) && decide (ms ≤ 60000)
    else decide (s.fld (F.pwrLimit 0) ≤ mw) && decide (mw * 10 ≤ design * 13) && decide (1 ≤ ms) && decide (ms ≤ 100)
  if ¬ c.has 12 ∨ 1 < lim ∨ ok = false then rej s stBadParam
  else
    { s := (s.setFld (F.pwrLimit lim) mw).setFld (F.pwrLimitWin lim) ms
      results := leBytes 4 lim ++ leBytes 4 mw ++ leBytes 4 ms }

/-- SET_PACE_POLICY (R521). -/
def hSetPacePolicy (c : Cmd) (s : State) : Resp :=
  if ¬ c.has 1 ∨ 1 < c.par 0 1 then rej s stBadParam else { s := (s.setFld F.pwrPacePolicy (c.par 0 1)).settlePace }

/-! ### Accounting and telemetry -/

/-- GET_POWER_ACCOUNTING (R506). -/
def hGetPowerAccounting (_ : Cmd) (s : State) : Resp :=
  { s, results := leBytes 8 s.time ++ leBytes 8 (s.fld F.telEnergy) ++
      ((List.range 7).flatMap fun k => leBytes 8 (s.fld (F.telComp k))) ++ leBytes 8 (s.fld F.telUnattr) ++
      ((List.range 4).flatMap fun k => leBytes 4 (s.fld (F.pwrCapMs k))) ++ leBytes 8 (s.fld F.pwrSleepMs) }

/-- One entry of the pace table (R523). -/
def PaceEnt.bytes16 (e : PaceEnt) (now : Nat) : List Byte :=
  leBytes 4 (e.origin + e.code * 2 ^ 17) ++ leBytes 2 e.seq ++ leBytes 4 (now - e.time) ++ leBytes 6 0

/-- A sum over the logical cores. -/
def State.sumCores (s : State) (f : Nat → Fld) : Nat := ((bitsOf 96 s.coreMap).map fun p => s.fld (f p)).sum

/-- READ_TELEMETRY's record of a group (R523). -/
def State.telemetry (s : State) (g : Nat) : Option (List Byte) :=
  let words := fun (as : List Nat) => as.flatMap fun a => leBytes 4 (s.regWord a)
  if g = 0 then
    some (words [0x30000, 0x30004, 0x30008, 0x3000C, 0x20008, 0x2000C, 0x21018, 0x2101C, 0x21030, 0x21010, 0x60])
  else if g = 1 then some (s.regBytes 0x30100 64)
  else if g = 2 then some (s.regBytes 0x30200 24)
  else if g = 3 then some (s.regBytes 0x21000 20)
  else if g = 4 then
    let es := s.pctl.pace.take 32
    some ((es.flatMap fun e => e.bytes16 s.time) ++ List.replicate (16 * (32 - es.length)) 0)
  else if g = 5 then
    some (([F.mxeMacs, F.mxeBusyCc, F.vxeRows, F.vxeBusyCc, F.mxeGuardSat, F.mxeGuardUfl].flatMap fun f => leBytes 8 (s.sumCores f)) ++
      [F.mxeGuardPassed, F.mxeGuardWiden, F.mxeGuardRescale, F.mxeGuardSpillFull, F.mxeGuardResidual, F.mxeGuardRecLost].flatMap
        fun f => leBytes 4 (s.sumCores f))
  else none

/-- READ_TELEMETRY. -/
def hReadTelemetry (c : Cmd) (s : State) : Resp :=
  if ¬ c.has 2 then rej s stBadParam
  else
    match s.telemetry (c.par 0 2) with
    | some results => { s, results }
    | none => rej s stBadParam

/-- READ_ENERGY (R505). -/
def hReadEnergy (c : Cmd) (s : State) : Resp :=
  let first := c.par 0 2
  let count := c.par 2 2
  if ¬ c.has 4 ∨ count = 0 ∨ 256 < first + count then rej s stBadParam
  else
    { s, results := leBytes 8 s.time ++ (List.range count).flatMap fun k => leBytes 8 (s.fld (F.telAcct (first + k))) }

/-- READ_EVENTS (R563). -/
def hReadEvents (c : Cmd) (s : State) : Resp :=
  let max_ := c.par 4 2
  if ¬ c.has 6 ∨ max_ = 0 ∨ 126 < max_ then rej s stBadParam
  else
    let s := { s with log := s.log.filter fun e => decide (0 ≤ diff32 e.index (c.par 0 4)) }
    let es := s.log.take max_
    let first := match es with
      | e :: _ => e.index
      | [] => s.fld F.fltEvtNext
    { s, results := leBytes 4 first ++ leBytes 2 es.length ++ leBytes 2 0 ++ es.flatMap fun e => e.bytes32 0 }

end Sys2Proof.Machine
end

