-- ==== Sys2Proof/Machine/HostLinks.lean ====
section
/-! DEFINITION. Link commands, loopback, qualification and lane drop (R389, R403, R404, R412, R413, R430, R431, R460). -/

namespace Sys2Proof.Machine

/-! ### Lane drop (R403, R404) -/

/-- A link that is up goes to full training without a failure of its own to record (R389, R404). -/
def State.escalateQuiet (s : State) (i : Nat) : State := ((s.addFld (F.lnkEscalate i) 1).leaveUp i).lose 5 2

/-- Lanes of a mask that are not in another. -/
def lanesWithout (n m bad : Nat) : Nat := maskOf n fun j => m.testBit j && !bad.testBit j

/-- Failing lanes dropped: RECONFIG, with the request due if this die is the master, or full training (R389, R403,
R404). The switch sequence number is a free value (log 3). -/
def State.dropLanes (s : State) (i bad : Nat) : State :=
  let n := laneCount i
  let l := s.link i
  let own := lanesWithout n l.ownMask bad
  let good := own &&& l.partnerMask
  if s.fld (F.lnkVersionAgreed i) < 0x31 ∨ ¬ s.bit (F.lnkCtlLaneDropEn i) ∨ widthOf good n < 8 then s.escalateQuiet i
  else
    let s := (s.setFld (F.lnkGood i) own).setFld (F.lnkStatusState i) lkReconfig
    if s.bit (F.lnkStatusMaster i) then
      let used := usedOf good n
      let seq := s.draw 0x403 % 4096
      let l' : LinkSt := { l with ownMask := own, reconfig := some (used, seq), ctlDue := l.ctlDue ++ [.reconfigReq used seq] }
      s.drew.setLink i l'
    else s.setLink i { l with ownMask := own, reconfig := none }

/-- The map of a RECONFIG takes effect (R403, R404): a lane below the highest used lane that is not used is lost. -/
def State.switchMap (s : State) (i used : Nat) : State :=
  let n := laneCount i
  let l := s.link i
  let old := s.fld (F.lnkStatusWidth i)
  let width := (bitsOf n used).length
  let top := (bitsOf n used).foldl max 0
  let good := maskOf n fun j => (l.ownMask &&& l.partnerMask).testBit j && (used.testBit j || decide (top < j))
  let s := s.setLink i { l with reconfig := none, partnerMask := l.partnerMask &&& good }
  let s := ((s.setFld (F.lnkStatusWidth i) width).setFld (F.lnkUsed i) used).setFld (F.lnkStatusState i) lkActive
  ((s.addFld (F.lnkNarrowed i) 1).noteLanes i good old width).lose 5 1

/-! ### Qualification and loopback (R412, R413, R460) -/

/-- Errors counted on the lanes of a link, saturating: stressed and nominal. -/
def State.laneErrors (s : State) (i : Nat) (errs : List (Nat × Nat)) : State :=
  (errs.take (laneCount i)).zipIdx.foldl (fun s e =>
    (s.satFld (F.lnkLaneErrStressed i e.2) e.1.1).satFld (F.lnkLaneErrNominal i e.2) e.1.2) s

/-- Used lanes that fail a qualification. -/
def State.failedLanes (s : State) (i : Nat) (errs : List (Nat × Nat)) : Nat :=
  maskOf (laneCount i) fun j =>
    let e := (errs[j]?).getD (0, 0)
    (s.fld (F.lnkUsed i)).testBit j && (decide (0 < e.2) || decide (s.fld F.lnkQualLimit < e.1))

/-- A link's result in LINK_BER_TEST. -/
def berBytes (errs : List (Nat × Nat)) : List Byte :=
  (List.range 64).flatMap fun j =>
    let e := (errs[j]?).getD (0, 0)
    leBytes 2 (min 0xFFFF e.2) ++ leBytes 2 (min 0xFFFF e.1)

/-- A LINK_BER_TEST operation finishes when no link it names is still tested. -/
def State.berDone (s : State) (id : Nat) : State :=
  let mine := (List.range 32).filter fun i => (s.link i).berOp == some id
  if mine.all fun i => !(s.link i).berRes.isEmpty then
    let res := mine.flatMap fun i => (s.link i).berRes
    (mine.foldl (fun s i => s.setLink i { s.link i with berOp := none, berRes := [] }) s).finishOp id stOk res
  else s

/-- A qualification ends in S5: U0 follows U1 (R413, R460). -/
def State.qualified (s : State) (i : Nat) : State :=
  let s := { s with qualifying := s.qualifying.filter fun x => x != i }
  if i = 31 ∧ s.qualifying.contains 30 then s.toBerTest 30 else s

/-- BER_TEST_DONE: stressed and nominal errors of the lanes. -/
def execBerTestDone (link : LinkNo) (errors : List (Nat × Nat)) (s : State) : Host.Outcome State Fault Refusal :=
  let i := link.val
  .next <|
    if s.linkState i ≠ lkBerTest ∧ (s.link i).berOp.isNone then s
    else
      let s :=
        if s.linkState i = lkBerTest then
          let s := (s.laneErrors i errors).setFld (F.lnkStatusState i) lkActive
          let bad := s.failedLanes i errors
          let s := if bad = 0 then s else s.dropLanes i bad
          s.qualified i
        else s
      match (s.link i).berOp with
      | none => s.unitWork
      | some id => ((s.setLink i { s.link i with berRes := berBytes errors }).berDone id).unitWork

/-- LOOPBACK_DONE: nominal errors of the lanes; the link returns to its earlier state. -/
def execLoopbackDone (link : LinkNo) (errors : List Nat) (s : State) : Host.Outcome State Fault Refusal :=
  let i := link.val
  .next <|
    if s.linkState i ≠ lkLoopback then s
    else
      let l := s.link i
      let s := (s.laneErrors i (errors.map fun e => (0, e))).setFld (F.lnkStatusState i) l.prior
      match l.loopOp with
      | none => s
      | some id =>
        let res := (List.range 64).flatMap fun j => leBytes 2 (min 0xFFFF ((errors[j]?).getD 0))
        (s.setLink i { l with loopOp := none }).finishOp id stOk res

/-! ### Commands -/

/-- LINK_STATUS. -/
def hLinkStatus (c : Cmd) (s : State) : Resp :=
  let i := c.par 0 1
  if ¬ c.has 1 ∨ (31 < i ∧ i ≠ 0xFF) then rej s stBadParam
  else
    let is := if i = 0xFF then List.range 32 else [i]
    { s, results := is.flatMap fun k => s.regBytes (0xE1000 + k * 0x800) 28 }

/-- Replies that wait on a substrate link moved to the other one (log 53). -/
def State.moveReplies (s : State) (i : Nat) : State :=
  let l := s.link i
  let s := s.setLink i { l with txq := l.txq.filter fun x => !isReply x.2 }
  (l.txq.filter fun x => isReply x.2).foldl (fun s x => s.sendOn (61 - i) 3 x.2) s

/-- LINK_RETRAIN's effect: 0 full training, 1 disable, 2 enable. -/
def State.retrainAs (s : State) (i act : Nat) : State :=
  if act = 1 then
    let s := if 30 ≤ i then s.moveReplies i else s
    let s := s.downIfUp i lkDisabled
    (s.setLink i { s.link i with listening := false }).unitWork
  else (s.retrain i).unitWork

/-- LINK_RETRAIN (R431). -/
def hLinkRetrain (c : Cmd) (s : State) : Resp :=
  let i := c.par 0 1
  let act := c.par 1 1
  let st := s.linkState i
  if ¬ c.has 2 ∨ 31 < i ∨ 2 < act ∨ ¬ s.linkExists i then rej s stBadParam
  else if st = lkLoopback then rej s stBusy
  else if act ≠ 2 ∧ 30 ≤ i ∧ s.linkUp i ∧ ¬ s.linkUp (61 - i) then rej s stBusy
  else if act = 2 ∧ st ≠ lkDisabled ∧ st ≠ lkFailed then { s }
  else if act = 1 ∧ c.fast then { s, after := fun s => s.retrainAs i 1 }
  else
    let r := s.startLong c i fun s id => s.setLink i { s.link i with op := some id }
    if r.status = stAccepted then { r with after := fun s => s.retrainAs i act } else r

/-- LINK_LOOPBACK (R412). -/
def hLinkLoopback (c : Cmd) (s : State) : Resp :=
  let i := c.par 0 1
  let ms := c.par 4 4
  let st := s.linkState i
  if ¬ c.has 8 ∨ 31 < i ∨ 1 < c.par 1 1 ∨ ms = 0 ∨ 60000 < ms then rej s stBadParam
  else if (st ≠ lkDisabled ∧ st ≠ lkDetect ∧ st ≠ lkFailed) ∨ (¬ s.linkExists i ∧ ¬ s.testMode) then rej s stBusy
  else s.startLong c i fun s id =>
    (s.setLink i { s.link i with prior := st, loopOp := some id }).setFld (F.lnkStatusState i) lkLoopback

/-- LINK_BER_TEST (R413): the named links that are ACTIVE. A substrate link is tested while the other carries its traffic.
A named link that is not ACTIVE, or is already under test, is answered BUSY (log 56). -/
def hLinkBerTest (c : Cmd) (s : State) : Resp :=
  let i := c.par 0 1
  let ms := c.par 4 4
  if ¬ c.has 8 ∨ (31 < i ∧ i ≠ 0xFF) ∨ ms = 0 ∨ 60000 < ms then rej s stBadParam
  else
    let is := if i = 0xFF then (List.range 30).filter fun k => s.linkState k == lkActive && (s.link k).berOp.isNone else [i]
    if i ≠ 0xFF ∧ (s.linkState i ≠ lkActive ∨ (s.link i).berOp.isSome ∨ (30 ≤ i ∧ ¬ s.linkOpen (61 - i))) then rej s stBusy
    else s.startLong c i fun s id =>
      if is.isEmpty then s.finishOp id stOk []
      else is.foldl (fun s k =>
        let s := s.toBerTest k
        s.setLink k { s.link k with berOp := some id, berRes := [] }) s

/-- LNK_CTL_RETRAIN (R414). -/
def execLnkCtlRetrain (link : LinkNo) (s : State) : Host.Outcome State Fault Refusal :=
  .next (if s.alive then (s.retrain link.val).unitWork else s)

end Sys2Proof.Machine
end

