-- ==== Sys2Proof/Machine/HostQueues.lean ====
section
/-! DEFINITION. Queue, binder, window and role commands (R303 to R310, R316, R348, R359, R360, R364 to R366). -/

namespace Sys2Proof.Machine

/-- A season advanced by 1, from 0xFFFF to 1 (R307, R360, R366). -/
def nextSeason (x : Nat) : Nat := if x = 0xFFFF then 1 else x + 1

/-- The long operation of an opcode that runs on an object. -/
def State.runningOp (s : State) (opcode object : Nat) : Option Nat :=
  (s.session.ops.find? fun o => o.opcode == opcode && o.object == object && o.state != 2).map LongOp.id

/-! ### QUEUE_CREATE (R303 to R309, R316) -/

/-- Whether a ring base is one that R304 allows. -/
def State.baseOk (s : State) (base log2 ty : Nat) : Bool :=
  let size := 2 ^ log2 * (if ty = qtWork then 128 else if ty = qtDma then 64 else 32)
  base % (max 4096 size) == 0 && ((addrSpace base == 0 && s.layoutOk base) || (addrSpace base == 1 && s.isLocal base && s.layoutOk base))

/-- The physical core that a space-1 ring lies on (R305). -/
def State.ringPhys (s : State) (base : Nat) : Option Nat :=
  if addrSpace base = 1 then s.phys (addrOff base / coreBytes) else none

/-- A context created. -/
def State.createQueue (s : State) (c : Cmd) (q ty log2 base cq eq : Nat) : State :=
  let produces := decide (ty = qtWork ∨ ty = qtDma)
  let dma := decide (ty = qtDma)
  let on := fun (b : Bool) (v : Nat) => if b then v else 0
  let s := ((s.setFld (F.queCfgType q) ty).setFld (F.queCfgEnabled q) 1).setFld (F.queCfgLog2Entries q) log2
  let s := (s.setFld (F.queCfgPriority q) (on dma (c.par 0x12 1))).setFld (F.queCfgEngine q) (on dma (c.par 0x10 1))
  let s := (s.setFld (F.queCfgChannel q) (on dma (c.par 0x11 1))).setFld (F.queCfgAccount q) c.p.account.toNat
  let s := (s.setFld (F.queSeason q) (nextSeason (s.fld (F.queSeason q)))).setFld (F.queBase q) base
  let s := (s.setFld (F.queHead q) 0).setFld (F.queTail q) 0
  let s := (s.setFld (F.queCqValid q) (on produces 1)).setFld (F.queCqContext q) (on produces cq)
  let e := produces && decide (eq ≠ 0xFFFF)
  let s := (s.setFld (F.queEqValid q) (on e 1)).setFld (F.queEqContext q) (on e eq)
  let s := (s.setFld (F.queNotifyEn q) (on (!produces) (c.par 0x13 1))).setFld (F.queNotifyBinder q)
    (on (!produces) (c.par 0x14 2))
  let s := (s.setFld (F.queStatusHeld q) 0).setQueue q { ringCore := s.ringPhys base }
  if dma then
    let ch := s.chanOf q
    let s := (s.setChan ch {}).setChState ch chIdle
    (s.setFld (F.dmaChStatusPriority (ch / 64) (ch % 64)) (c.par 0x12 1)).setFld (F.dmaChStatusQueue (ch / 64) (ch % 64)) q
  else s

/-- QUEUE_CREATE. -/
def hQueueCreate (c : Cmd) (s : State) : Resp :=
  let q := c.par 0 2
  let ty := c.par 2 1
  let log2 := c.par 3 1
  let base := c.par 4 8
  let cq := c.par 0xC 2
  let eq := c.par 0xE 2
  let produces := ty = qtWork ∨ ty = qtDma
  let ch := c.par 0x10 1 * 64 + c.par 0x11 1
  if ¬ c.has 0x16 ∨ 8191 < q ∨ ty = 0 ∨ 4 < ty ∨ log2 < 4 ∨ 15 < log2 ∨ ¬ s.baseOk base log2 ty then rej s stBadParam
  else if produces ∧ (8191 < cq ∨ (8191 < eq ∧ eq ≠ 0xFFFF)) then rej s stBadParam
  else if ty = qtDma ∧ (7 < c.par 0x10 1 ∨ 63 < c.par 0x11 1 ∨ 3 < c.par 0x12 1) then rej s stBadParam
  else if ¬ produces ∧ (1 < c.par 0x13 1 ∨ 8191 < c.par 0x14 2) then rej s stBadParam
  else if s.fld (F.queCfgType q) ≠ qtUnused then rej s stBusy
  else if produces ∧ (s.fld (F.queCfgType cq) ≠ qtCompletion ∨ (eq ≠ 0xFFFF ∧ s.fld (F.queCfgType eq) ≠ qtEvent)) then
    rej s stBadParam
  else if ty = qtDma ∧ s.chState ch ≠ chUnbound then rej s stBusy
  else
    match s.ringPhys base with
    | some p =>
      if s.fencedCore p then rej s stUnitFailed
      else
        let s := s.createQueue c q ty log2 base cq eq
        { s, results := leBytes 2 (s.fld (F.queSeason q)) }
    | none =>
      let s := s.createQueue c q ty log2 base cq eq
      { s, results := leBytes 2 (s.fld (F.queSeason q)) }

/-! ### QUEUE_DESTROY (R310, R312) -/

/-- A context returned to type 0. -/
def State.freeQueue (s : State) (q : Nat) : State :=
  let s := (s.setFld (F.queCfgType q) qtUnused).setFld (F.queCfgEnabled q) 0
  (s.setFld (F.queStatusHeld q) 0).setQueue q {}

/-- The contexts of a type other than UNUSED, as the register file lists them. -/
def State.liveQueues (s : State) : List Nat :=
  (s.regs.filterMap fun r =>
    let a := r.1 / 32
    if 0x100000 ≤ a ∧ a < 0x200000 ∧ (a - 0x100000) % 0x80 = 0 ∧ r.1 % 32 = 29 then some ((a - 0x100000) / 0x80) else none)

/-- Whether any live WORK or DMA_RING context names a queue. -/
def State.named (s : State) (q : Nat) : Bool :=
  s.liveQueues.any fun x =>
    let ty := s.fld (F.queCfgType x)
    decide (ty = qtWork ∨ ty = qtDma) &&
      (s.fld (F.queCqContext x) == q || (s.bit (F.queEqValid x) && s.fld (F.queEqContext x) == q))

/-- The destruction of a WORK context begins: entries not started are discarded, its running kernels aborted. -/
def State.endWork (s : State) (q : Nat) : State :=
  let x := s.queue q
  let runs := fun (k : Kernel) => k.queue == q && k.started
  let s := { s with kernels := s.kernels.filter fun k => k.queue != q || k.started }
  let keep := x.active.filter fun e => s.kernels.any fun k => runs k && k.idx == e.idx
  let s := (s.setQueue q { x with active := keep, bells := [], destroying := true }).setFld (F.queHead q) (s.fld (F.queTail q))
  (s.kernels.filter runs).foldl (fun s k => s.abortKernel k 0 0 stHwFault) s

/-- The destruction of a DMA_RING context begins. -/
def State.endRing (s : State) (q : Nat) : State :=
  let c := s.chanOf q
  ((s.setQueue q { s.queue q with destroying := true }).pauseChan c).dmaGiveUp c

/-- Whether a destroyed context's kernel or channel has come to rest. A channel whose record is held has: that record is
discarded (R580). -/
def State.atRest (s : State) (q : Nat) : Bool :=
  if s.fld (F.queCfgType q) = qtWork then !s.kernels.any fun k => k.queue == q
  else
    let x := s.chState (s.chanOf q)
    (s.queue q).held ≠ [] ||
      ((s.chan (s.chanOf q)).run.isNone && (x == chIdle || x == chPaused || x == chHalted || x == chUnbound))

/-- The end of a destruction: a DMA ring's channel becomes unbound, the context type 0. -/
def State.finishDestroy (s : State) (q : Nat) : State :=
  if s.fld (F.queCfgType q) = qtDma then
    let c := s.chanOf q
    ((s.setChan c {}).setChState c chUnbound).freeQueue q
  else s.freeQueue q

/-- QUEUE_DESTROY. -/
def hQueueDestroy (c : Cmd) (s : State) : Resp :=
  let q := c.par 0 2
  let ty := s.fld (F.queCfgType q)
  if ¬ c.has 2 ∨ 8191 < q ∨ ty = qtUnused then rej s stBadParam
  else if ty = qtCompletion ∨ ty = qtEvent then
    if s.named q then rej s stBusy else { s := s.freeQueue q }
  else if (s.queue q).destroying then rej s stBusy
  else
    let s' := (if ty = qtWork then s.endWork q else s.endRing q).unitWork
    if c.fast ∧ s'.atRest q then { s := (s'.finishDestroy q).unitWork }
    else if ¬ s.opRoom then rej s stBusy
    else s'.startLong c q fun s _ => s

/-- QUEUE_DESTROY_DONE. -/
def execQueueDestroyDone (q : CtxNo) (s : State) : Host.Outcome State Fault Refusal :=
  .next <| match s.runningOp 0x0502 q.val with
    | none => s
    | some id => if s.atRest q.val then ((s.finishDestroy q.val).finishOp id stOk []).unitWork else s

/-! ### BINDER_ALLOC (R348, R359) -/

/-- Entries of the release list table in use: first and count. -/
def State.listsUsed (s : State) : List (Nat × Nat) :=
  s.binders.filterMap fun b =>
    if s.armed b.1 ∧ s.fld (F.bndCfgListCount b.1) ≠ 0 then
      some (s.fld (F.bndCfgListFirst b.1), s.fld (F.bndCfgListCount b.1)) else none

/-- Places of the table with n consecutive entries free. -/
def State.listPlaces (s : State) (n : Nat) : List Nat :=
  let used := s.listsUsed
  (List.range (16384 - n + 1)).filter fun k => used.all fun u => decide (k + n ≤ u.1) || decide (u.1 + u.2 ≤ k)

/-- Owed messages of a binder that is freed wait at its links instead. -/
def State.flushOwed (s : State) (b : Nat) : State :=
  let x := s.binder b
  x.owedRel.foldl (fun s e =>
    let a := (x.list[e.1]?).getD 0
    match s.linkToDie (addrDie a) with
    | none => s.addFld F.bndDropped e.2
    | some i =>
      let l := s.link i
      let m : BOut := { address := a, op := 1, value := 0, froms := [.unit] }
      s.setLink i { l with bheld := l.bheld ++ List.replicate e.2 m }) s

/-- A binder returned to FREE. -/
def State.freeBinder (s : State) (b : Nat) : State :=
  let s := (s.flushOwed b).setBinder b {}
  let s := (s.setFld (F.bndCfgArmed b) 0).setFld (F.bndCfgPace b) 0
  (s.setFld (F.bndCfgListCount b) 0).setFld (F.bndCfgListFirst b) 0

/-- A binder armed, its list at entry `first` of the table. -/
def State.armBinder (s : State) (b step up pace first : Nat) (list : List Nat) : State :=
  let s := ((s.setFld (F.bndCfgArmed b) 1).setFld (F.bndCfgPace b) pace).setFld (F.bndCfgListCount b) list.length
  let s := ((s.setFld (F.bndCfgListFirst b) first).setFld (F.bndStep b) step).setFld (F.bndTarget b) step
  let s := ((s.setFld (F.bndCount b) 0).setFld (F.bndReleases b) 0).setFld (F.bndPendingUp b) 0
  (s.setFld (F.bndUp b) up).setBinder b { list }

/-- Whether AWAIT entries wait on a binder of this die. -/
def State.awaited (s : State) (b : Nat) : Bool :=
  s.queues.any fun q => q.2.active.any fun e => e.op == 3 && e.address == binderAddr s.dieNo b

/-- BINDER_ALLOC. Where a list stands in the table is a free value among the places that have room (log 57). -/
def hBinderAlloc (c : Cmd) (s : State) : Resp :=
  let b := c.par 0 2
  let flags := c.par 2 1
  let n := c.par 3 1
  let step := c.par 4 4
  let up := c.par 8 8
  let list := (List.range n).map fun k => c.par (0x10 + 8 * k) 8
  if ¬ c.has (0x10 + 8 * n) ∨ 8191 < b ∨ 3 < flags then rej s stBadParam
  else if flags % 2 = 1 then
    if flags ≠ 1 ∨ n ≠ 0 ∨ step ≠ 0 ∨ up ≠ 0 then rej s stBadParam
    else if s.armed b ∧ (¬ (s.binder b).waiters.isEmpty ∨ s.awaited b ∨ s.fld (F.bndPendingUp b) ≠ 0) then rej s stBusy
    else { s := if s.armed b then s.freeBinder b else s }
  else if step = 0 ∨ (up ≠ 0 ∧ ¬ validBinderAddr up) ∨ ¬ list.all validBinderAddr then rej s stBadParam
  else if s.armed b then rej s stBusy
  else
    let places := s.listPlaces n
    match places[s.draw 0x359 % max 1 places.length]? with
    | none => rej s stBusy
    | some first => { s := s.drew.armBinder b step up (flags / 2) first list }

/-! ### Windows (R360, R364, R365) -/

/-- WINDOW_OPEN. -/
def hWindowOpen (c : Cmd) (s : State) : Resp :=
  let w := c.par 0 2
  let flags := c.par 2 1
  let cb := c.par 4 2
  let base := c.par 8 8
  let len := c.par 0x10 4
  let last := base + len
  let cores := ((List.range 96).filter fun l => decide (base < (l + 1) * coreBytes) && decide (l * coreBytes < last)).filterMap s.phys
  if ¬ c.has 0x14 ∨ 1023 < w ∨ 3 < flags ∨ base % 256 ≠ 0 ∨ len = 0 ∨ len % 256 ≠ 0 ∨ s.nLogical * coreBytes < last ∨ 8191 < cb then
    rej s stBadParam
  else if s.fld (F.winCfgState w) ≠ 0 then rej s stBusy
  else if flags / 2 = 1 ∧ ¬ s.armed cb then rej s stBadParam
  else if cores.any s.fencedCore then rej s stUnitFailed
  else
    let s := ((s.setFld (F.winCfgState w) 1).setFld (F.winCfgAcceptUntagged w) (flags % 2)).setFld (F.winCfgCountEn w) (flags / 2)
    let s := ((s.setFld (F.winCfgCountBinder w) cb).setFld (F.winBase w) base).setFld (F.winLength w) len
    let s := s.setFld (F.winSeason w) (nextSeason (s.fld (F.winSeason w)))
    { s, results := leBytes 2 (s.fld (F.winSeason w)) }

/-- Whether every accepted write of a window has landed and been counted. -/
def State.windowQuiet (s : State) (w : Nat) : Bool := !(s.underWay.any fun x => x.window == some w) && s.bops.isEmpty

/-- WINDOW_CLOSE. -/
def hWindowClose (c : Cmd) (s : State) : Resp :=
  let w := c.par 0 2
  if ¬ c.has 2 ∨ 1023 < w then rej s stBadParam
  else if s.fld (F.winCfgState w) ≠ 1 then rej s stBadParam
  else if (s.windowStream w).isSome then rej s stBusy
  else if c.fast ∧ s.windowQuiet w then { s := s.setFld (F.winCfgState w) 0 }
  else s.startLong c w fun s _ => s.setFld (F.winCfgState w) 2

/-- WINDOW_CLOSE_DONE. -/
def execWindowCloseDone (w : WinNo) (s : State) : Host.Outcome State Fault Refusal :=
  .next <| match s.runningOp 0x0505 w.val with
    | none => s
    | some id => if s.windowQuiet w.val then (s.setFld (F.winCfgState w.val) 0).finishOp id stOk [] else s

/-! ### ROLE_ASSIGN (R366) -/

/-- ROLE_ASSIGN. -/
def hRoleAssign (c : Cmd) (s : State) : Resp :=
  let r := c.par 0 1
  let set := c.par 8 12
  if ¬ c.has 20 ∨ 2 ^ s.nLogical ≤ set then rej s stBadParam
  else if ((bitsOf 96 set).filterMap s.phys).any s.fencedCore then rej s stUnitFailed
  else
    let s := (s.setFld (F.winRoleName r) (c.par 4 4)).setFld (F.winRolePending r) 0
    let s := (s.setFld (F.winRoleCores r 0) (set % 2 ^ 32)).setFld (F.winRoleCores r 1) (set / 2 ^ 32 % 2 ^ 32)
    let s := (s.setFld (F.winRoleCores r 2) (set / 2 ^ 64)).setFld (F.winRoleSeason r) (nextSeason (s.fld (F.winRoleSeason r)))
    { s, results := leBytes 2 (s.fld (F.winRoleSeason r)) }

end Sys2Proof.Machine
end

