-- ==== Sys2Proof/Machine/HostSec.lean ====
section
/-! DEFINITION. Identity, attestation, calibration, self-test and package memory test (R432, R461 to R463, R528 to R531,
R538 to R541, R545 to R550, R554, R555). -/

namespace Sys2Proof.Machine

/-! ### Identity and attestation -/

/-- The identity key: SK.seed, SK.prf, PK.seed and PK.root; empty before S1 derives it and in test mode (R529). -/
def State.idKey (s : State) : List Byte × List Byte × List Byte × List Byte :=
  match s.keys with
  | some (id, _, root) => (slice id 0 16, slice id 16 16, slice id 32 16, slice root 0 16)
  | none => (List.replicate 16 0, List.replicate 16 0, List.replicate 16 0, List.replicate 16 0)

/-- GET_CERTIFICATE (R531). -/
def hGetCertificate (_ : Cmd) (s : State) : Resp :=
  let k := s.idKey
  { s, results := slice s.fuses.certDigest 0 32 ++ k.2.2.1 ++ k.2.2.2 }

/-- GET_MEASUREMENTS (R538). -/
def hGetMeasurements (_ : Cmd) (s : State) : Resp := { s, results := s.regBytes 0x40100 32 }

/-- The body of an attestation report (R540). DEBUG_USED is 0: no core is halted or stepped here (log 17). -/
def State.reportBody (s : State) (nonce : List Byte) : List Byte :=
  let flags := s.fld F.secStatusAdvancePending + s.fld F.tstStatusMissionTest * 2
  leBytes 4 0x41545331 ++ leBytes 2 1 ++ leBytes 2 17344 ++ slice s.fuses.certDigest 0 32 ++ nonce ++
    s.regBytes 0x40100 32 ++ leBytes 1 s.fuses.counter ++ leBytes 1 s.fuses.revokeIndex ++
    leBytes 1 (s.fld F.secStatusFwSlot) ++ leBytes 1 (s.fld F.secStatusMcSlot) ++ leBytes 2 (s.fld F.secImageSvnFwSvn) ++
    leBytes 2 (s.fld F.secImageSvnMcSvn) ++ s.regBytes 0x40 2 ++ leBytes 1 s.ready ++ leBytes 1 flags ++ leBytes 2 0 ++
    leBytes 4 (s.fld F.secCalChanges) ++ leBytes 8 s.hostNow ++ leBytes 24 0

/-- ATTEST: the body's snapshot is taken with the command (R541). -/
def hAttest (c : Cmd) (s : State) : Resp :=
  if ¬ c.has 32 then rej s stBadParam
  else s.startLong c 0 fun s id =>
    { s.setFld F.secStatusAttestBusy 1 with attest := some (id, s.reportBody (slice c.p.params 0 32)) }

/-- ATTEST_DONE. -/
def execAttestDone (s : State) : Host.Outcome State Fault Refusal :=
  .next <| match s.attest with
    | none => s
    | some (id, body) =>
      let k := s.idKey
      let sig := slice (Config.slhSign k.1 k.2.1 k.2.2.1 k.2.2.2 body) 0 17088
      let s := ({ s with attest := none }.setFld F.secStatusAttestBusy 0).addFld F.secAttests 1
      s.finishOp id stOk (body ++ sig)

/-! ### Calibration (R545 to R550) -/

/-- A section of the factory calibration (R545). -/
def Fuses.calSection (f : Fuses) (k : Nat) : Option (List Byte) :=
  if k = 0 then
    some (leBytes 1 f.grade ++ leBytes 1 f.fmax ++ leBytes 2 f.mapRevision ++ leBytes 4 f.designMw ++ leBytes 2 f.sramVmin ++
      leBytes 2 f.retVmin ++ leBytes 4 (f.qual.1 * 2 ^ 24 + f.qual.2.1 * 2 ^ 16 + f.qual.2.2) ++ leBytes 16 0)
  else if k = 1 then
    some ((List.range 32).flatMap fun j => let o := (f.ops[j]?).getD (0, 0); leBytes 4 (o.1 * 2 ^ 24 + o.2))
  else if k = 2 then some ((List.range 88).flatMap fun j => leBytes 2 (f.offset j))
  else if k = 3 then some (slice f.energyModel 0 1024)
  else if k = 4 then some (slice f.eqSeeds 0 8192)
  else if k = 5 then some (slice f.coreVmin 0 96)
  else none

/-- CAL_READ_FACTORY. -/
def hCalReadFactory (c : Cmd) (s : State) : Resp :=
  let part := c.par 2 2
  match s.fuses.calSection (c.par 0 2) with
  | none => rej s stBadParam
  | some b =>
    let parts := (b.length + 4063) / 4064
    if ¬ c.has 4 ∨ parts ≤ part then rej s stBadParam
    else { s, results := leBytes 2 parts ++ leBytes 2 0 ++ (b.drop (part * 4064)).take 4064 }

/-- The reason why R547 rejects an item, 0 for none. -/
def itemReason (item delta : Nat) : Nat :=
  let cls := item / 2 ^ 24
  let x := item % 2 ^ 24
  let d := toSigned 32 delta
  let within := fun (b : Int) => decide (-b ≤ d) && decide (d ≤ b)
  if cls = 1 then (if 63 < x then 1 else if within 64 then 0 else 2)
  else if cls = 2 then (if 6 < x then 1 else if within 1000 then 0 else 2)
  else if cls = 3 then
    let link := x / 2 ^ 16
    let lane := x / 2 ^ 8 % 256
    let tap := x % 256
    if 31 < link ∨ laneCount link ≤ lane ∨ 4 < tap ∨ (tap = 4 ∧ link < 30) then 1 else if within 2 then 0 else 2
  else 1

/-- The first reason of a command's items, in their order: an unknown item, a bound, or an ITEM named before. -/
def itemsReason : List (Nat × Nat) → List Nat → Nat
  | [], _ => 0
  | (i, d) :: rest, seen =>
    let r := itemReason i d
    if r ≠ 0 then r else if seen.contains i then 3 else itemsReason rest (i :: seen)

/-- Whether an equalisation item's sum is clamped to 0–15 (R546). -/
def Fuses.clamps (f : Fuses) (e : Nat × Nat) : Bool :=
  let v := (f.eqSeed e.1 : Int) + toSigned 32 e.2
  e.1 / 2 ^ 24 == 3 && (decide (v < 0) || decide (15 < v))

/-- The calibration measurement of a set of items (R539). -/
def calMeasure (items : List (Nat × Nat)) : List Byte :=
  if items.isEmpty then List.replicate 32 0 else sha256 (items.flatMap fun e => leBytes 4 e.1 ++ leBytes 4 e.2)

/-- The stored items take effect (R546, R548, R550). -/
def State.applyCal (s : State) : State :=
  let items := s.calItems
  let delta := fun (i : Nat) => (tfind items i).getD 0 % 65536
  let clamped := (items.filter fun e => s.fuses.clamps e && tfind s.calActive e.1 != some e.2).length
  let changed := decide (items ≠ s.calActive)
  let s := { s with calActive := items }.addFld F.calClamped clamped
  let s := (List.range 64).foldl (fun s k =>
    s.setFld (F.calTempOffEffective k) (add16 (s.fuses.offset k) (delta (0x01000000 + k)))) s
  let s := (List.range 7).foldl (fun s k => s.setFld (F.calEnergyScale k) (delta (0x02000000 + k))) s
  if changed then (s.setMeas 2 (calMeasure items)).addFld F.secCalChanges 1 else s

/-- Items stored from S7 onward take effect at once (R548). -/
def State.calStored (s : State) : State := if s.bit F.calStatusApplied then s.applyCal else s

/-- A rejection recorded in CAL_STATUS (R547). -/
def State.calReject (s : State) (reason status : Nat) : Resp :=
  rej ((s.setFld F.calStatusLastReject reason).addFld F.calRejects 1) status

/-- CAL_WRITE_USER. -/
def hCalWriteUser (c : Cmd) (s : State) : Resp :=
  let n := c.par 0 2
  let items := (List.range n).map fun k => (c.par (4 + 8 * k) 4, c.par (8 + 8 * k) 4)
  if n = 0 ∨ 255 < n ∨ ¬ c.has (4 + 8 * n) then rej s stBadParam
  else
    let r := itemsReason items []
    let next := items.foldl (fun m e => if e.2 = 0 then tdel m e.1 else tins m e.1 e.2) s.calItems
    if r ≠ 0 then s.calReject r stBadParam
    else if 1024 < next.length then s.calReject 4 stBusy
    else { s := { s with calItems := next }.calStored }

/-- CAL_CLEAR_USER. -/
def hCalClearUser (_ : Cmd) (s : State) : Resp := { s := { s with calItems := [] }.calStored }

/-! ### Test mode and self-test (R432, R554, R555) -/

/-- TEST_MODE_ENTER. -/
def hTestModeEnter (c : Cmd) (s : State) : Resp :=
  if ¬ c.has 4 ∨ c.par 0 4 ≠ 0x54455354 then rej s stBadParam
  else if ¬ s.quiesced then rej s stQuiesce
  else { s := s.setFld F.tstStatusMissionTest 1 }

/-- Whether the dieback list excludes a unit of a BIST target. -/
def State.bistExcluded (s : State) (target u : Nat) : Bool :=
  if target = 0 then excludes s.dieback u
  else if target = 1 then s.dieback.any fun d => d.kind == 3 && d.unit == u
  else false

/-- The units that a BIST tests. -/
def State.bistUnits (s : State) (target unit : Nat) : List Nat :=
  let n := if target = 0 then 96 else if target = 1 then 24 else 32
  if unit = 0xFFFF then (List.range n).filter fun u => !s.bistExcluded target u else [unit]

/-- RUN_BIST. PROGRESS while it runs is a free value (log 83). -/
def hRunBist (c : Cmd) (s : State) : Resp :=
  let target := c.par 0 1
  let unit := c.par 2 2
  let n := if target = 0 then 96 else if target = 1 then 24 else 32
  if ¬ s.bit F.tstStatusMissionTest ∧ ¬ s.testMode then rej s stNotReady
  else if ¬ c.has 4 ∨ 2 < target ∨ (n ≤ unit ∧ unit ≠ 0xFFFF) then rej s stBadParam
  else if unit ≠ 0xFFFF ∧ s.bistExcluded target unit then rej s stBadParam
  else if target = 2 ∧ s.memRun.op.isSome then rej s stBusy
  else s.startLong c 0 fun s id =>
    let s := ((s.setFld F.tstStatusBistState 1).setFld F.tstStatusBistTarget target).setFld F.tstStatusProgress
      (s.draw 0x556 % 1001)
    { s with bist := some (id, target, unit) }

/-- Units of a target that its test found failing; ROW entries name repairs, not failing units. -/
def bistFailed (target : Nat) (units : List Nat) (ds : List Defect) : List Nat :=
  units.filter fun u => ds.any fun d =>
    if target = 0 then (d.kind.val == 1 && d.unit == u) || (d.kind.val == 2 && d.unit == clumpOf u)
    else if target = 1 then d.kind.val == 3 && d.unit == u
    else d.kind.val != 4 && d.unit == u

/-- What a test leaves in the units it tested (R554). -/
def State.bistCleared (s : State) (target : Nat) (units : List Nat) : State :=
  if target = 0 then
    let gone := fun (k : Nat) => units.contains (k / coreBytes)
    let lost := s.mem.lost.filter fun b => !units.contains (b.1 / 16)
    let s : State := { s with mem := { cells := s.mem.cells.filter fun x => !gone x.1, lost } }
    match s.microcode with
    | some im => units.foldl (fun s p => s.setCore p { s.core p with ucode := im.bytes }) s
    | none => s
  else if target = 1 then { s with routers := s.routers.filter fun r => !units.contains r.1 }
  else
    let keep := fun (o : OpenRow) => match o.home with | some i => !units.contains i | none => true
    { s with routers := (s.routers.map fun r => (r.1, { r.2 with opens := r.2.opens.filter keep })).filter fun r =>
        decide (r.2 ≠ {}) }

/-- A unit that failed a test: its event, and what it loses (R555). No core is fenced before numbering (R61). -/
def State.bistFail (s : State) (target u : Nat) : State :=
  let kind := if target = 0 then 2 else if target = 1 then 3 else 9
  let s := (s.addFld F.tstBistFails 1).logEvent svAlert kind 0 0x0A00 u 0 target
  if target = 2 then (if s.linkUp u ∨ (s.link u).keepTraffic then s.linkDown u lkDetect else s)
  else if s.nLogical = 0 then s
  else if target = 0 then s.fenceCore u 6 false
  else (s.setMaskBit F.plnRouterFailed u).fenceClump u 6 3 0x0A00

/-- BIST_DONE. -/
def execBistDone (failures : List Defect) (s : State) : Host.Outcome State Fault Refusal :=
  .next <| match s.bist with
    | none => s
    | some (id, target, unit) =>
      let units := s.bistUnits target unit
      let bad := bistFailed target units failures
      let mask := maskOf 96 fun u => bad.contains u
      let mine := failures.filter fun d => match target with
        | 0 => (d.kind.val == 1 && units.contains d.unit) || (d.kind.val == 2 && (units.map clumpOf).contains d.unit) ||
            (d.kind.val == 4 && units.contains d.unit)
        | 1 => d.kind.val == 3 && units.contains d.unit
        | _ => d.kind.val == 5 && units.contains d.unit
      let s := mine.foldl (fun s d => s.addDieback d.kind.val 2 d.unit d.detail 0x0A00) s
      let s := { s with bist := none }.bistCleared target units
      let s := bad.foldl (fun s u => s.bistFail target u) s
      let s := (s.setFld F.tstStatusBistState (if bad.isEmpty then 2 else 3)).setFld F.tstStatusProgress 1000
      let s := s.addFld F.tstBistRuns 1
      let s := match target with
        | 0 => (List.range 3).foldl (fun (s : State) k => s.setFld (F.tstFailCore k) (mask / 2 ^ (32 * k) % 2 ^ 32)) s
        | 1 => s.setFld F.tstFailRouter mask
        | _ => s.setFld F.tstFailAdapter mask
      let part := fun (k n : Nat) => leBytes n (if target = k then mask else 0)
      (s.finishOp id stOk (part 0 12 ++ part 1 4 ++ part 2 4)).unitWork

/-! ### Package memory test (R461 to R463) -/

/-- Bytes of the slice that this die tests. -/
def memSlice (bytes : Nat) : Nat := bytes / 12 / 4096 * 4096

/-- Whether a record grants a fast test for a package memory size (R461). -/
def State.memGranted (s : State) (g : List Byte) (bytes : Nat) (confirms : Bool) : Bool :=
  let done := leAt g 0x08 8
  let n := memSlice bytes
  !g.isEmpty && leAt g 0x30 1 == 0 && s.hostClock.isSome && decide (done ≤ s.hostNow + 604800) &&
    decide (s.hostNow ≤ done + 604800) && leAt g 0x18 4 == s.placementWord && leAt g 0x10 8 == bytes &&
    leAt g 0x20 8 == s.fld F.evgPlacementPosition * n && leAt g 0x28 8 == n && confirms

/-- The record of a full test that passed (R462). -/
def State.memNew (s : State) (rows : Nat) : List Byte :=
  let n := memSlice s.packageBytes
  leBytes 4 0x4D545231 ++ leBytes 4 s.memRun.testId ++ leBytes 8 s.hostNow ++ leBytes 8 s.packageBytes ++
    leBytes 4 s.placementWord ++ leBytes 4 rows ++ leBytes 8 (s.fld F.evgPlacementPosition * n) ++ leBytes 8 n ++
    leBytes 15 0 ++ leBytes 1 1

/-- A memory test runs. -/
def State.memRuns (s : State) : Bool := s.fld F.evgMemtestState == 1

/-- A memory test ends: its record, and the operation or the stage that it was for. -/
def State.memEnd (s : State) (passed : Bool) (rows reason : Nat) : State :=
  let run := s.memRun
  let rec_ := if ¬ passed then s.memRecord else if run.fast then slice run.grant 0 0x3F ++ [1] else s.memNew rows
  let s := { s with memRecord := rec_, memRun := { run with finished := some s.time, op := none } }
  let s := s.setFld F.evgMemtestState (if passed then 2 else 3)
  let s := if passed then s.setFld F.evgMemtestProgress 1000 else s
  match run.op with
  | some id =>
    s.finishOp id (if passed then stOk else stHwFault) (leBytes 8 (memSlice s.packageBytes) ++ leBytes 4 rows)
  | none =>
    if s.inStage 6 then (if passed then s.passStage 6 else s.failStage reason) else s

/-- SB1_MEMTEST_ANSWER (R461, R463). -/
def execSb1MemtestAnswer (a : Sb1Answer) (s : State) : Host.Outcome State Fault Refusal :=
  .next <|
    if ¬ s.memRuns ∨ ¬ s.alive then s
    else
      match a with
      | .size bytes confirms =>
        let run := s.memRun
        let fast := run.asked && s.memGranted run.grant bytes confirms
        let s := { s with packageBytes := bytes, memRun := { run with fast } }.setFld F.evgMemtestFast fast.toNat
        if s.inStage 6 then
          let s := s.setFld F.evgBootFastS6 fast.toNat
          if run.asked ∧ ¬ fast then s.lose 6 1 else s
        else s
      | .progress pm => s.setFld F.evgMemtestProgress (min pm 1000)
      | .passed rows => s.memEnd true rows 0
      | .unusable => s.memEnd false 0 2

/-- SB1_ANSWER_TIMEOUT (R436, R438). -/
def execSb1AnswerTimeout (s : State) : Host.Outcome State Fault Refusal :=
  .next (if s.memRuns ∧ s.alive then s.memEnd false 0 3 else s)

/-- MEMTEST_DONE (R462). -/
def execMemtestDone (passed : Bool) (failingRows : Nat) (s : State) : Host.Outcome State Fault Refusal :=
  .next (if s.memRuns ∧ s.alive then s.memEnd passed failingRows 2 else s)

/-- MEMTEST_START. -/
def hMemtestStart (c : Cmd) (s : State) : Resp :=
  let mode := c.par 0 1
  if ¬ s.bit F.tstStatusMissionTest then rej s stNotReady
  else if ¬ c.has 1 ∨ 1 < mode ∨ (mode = 1 ∧ ¬ s.memValid) then rej s stBadParam
  else s.startLong c 0 fun s id => s.beginMemtest (mode == 1) (if mode = 1 then s.memRecord else []) (some id)

/-- MEMTEST_STATUS. -/
def hMemtestStatus (_ : Cmd) (s : State) : Resp :=
  let run := s.memRun
  let us := match run.finished with
    | some t => t - run.started
    | none => if s.memRuns then s.time - run.started else 0
  { s, results := leBytes 1 (s.fld F.evgMemtestState) ++ leBytes 1 s.memValid.toNat ++
      leBytes 2 (s.fld F.evgMemtestProgress) ++ leBytes 4 (us / 1000000) }

end Sys2Proof.Machine
end

