-- ==== Sys2Proof/Machine/Commands.lean ====
section
/-! DEFINITION. The table of opcode handlers, the commands that arrive as packets, and what ends a core's or the die's
power transition (R421, R428, R430, R490, R494, R496, R575). -/

namespace Sys2Proof.Machine

/-- Handlers of the opcodes of R430 that are taken in sequence. -/
def handlers : List (Nat × (Cmd → State → Resp)) :=
  [(0x0003, hGetInfo), (0x0101, hBootStage), (0x0102, hLoadBegin), (0x0103, hLoadChunk),
   (0x0104, hLoadCommit), (0x0105, hGetMissing), (0x0106, hRenumber), (0x0110, hGetDieback)] ++
  [(0x0111, hSaveSettings), (0x0112, hRestoreSettings), (0x0201, hSetPowerState), (0x0202, hSetOperatingPoint),
   (0x0203, hSetLimit), (0x0204, hSetPacePolicy), (0x0205, hGetPowerAccounting), (0x0301, hReadTelemetry)] ++
  [(0x0302, hReadEnergy), (0x0303, hReadEvents), (0x0401, hLinkStatus), (0x0402, hLinkRetrain),
   (0x0403, hLinkLoopback), (0x0404, hLinkBerTest), (0x0501, hQueueCreate), (0x0502, hQueueDestroy)] ++
  [(0x0503, hBinderAlloc), (0x0504, hWindowOpen), (0x0505, hWindowClose), (0x0506, hRoleAssign),
   (0x0601, hGetCertificate), (0x0602, hAttest), (0x0603, hGetMeasurements), (0x0701, hCalReadFactory)] ++
  [(0x0702, hCalWriteUser), (0x0703, hCalClearUser), (0x0801, hTestModeEnter), (0x0802, hRunBist),
   (0x0803, hMemtestStart), (0x0804, hMemtestStatus)]

/-- What an opcode does (check 7 of R419 and its effect). -/
def handle (c : Cmd) (s : State) : Resp :=
  match tfind handlers c.opcode with
  | some h => h c s
  | none => rej s stBadOpcode

/-! ### Commands -/

/-- HELLO. -/
def execHello (p : Packet) (s : State) : Host.Outcome State Fault Refusal :=
  .next (s.command handle { opcode := 0x0001, p })

/-- SYNC. -/
def execSync (p : Packet) (s : State) : Host.Outcome State Fault Refusal :=
  .next (s.command handle { opcode := 0x0002, p })

/-- GET_INFO. -/
def execGetInfo (p : Packet) (s : State) : Host.Outcome State Fault Refusal :=
  .next (s.command handle { opcode := 0x0003, p })

/-- BOOT_STAGE. -/
def execBootStage (p : Packet) (s : State) : Host.Outcome State Fault Refusal :=
  .next (s.command handle { opcode := 0x0101, p })

/-- LOAD_IMAGE_BEGIN. -/
def execLoadImageBegin (p : Packet) (s : State) : Host.Outcome State Fault Refusal :=
  .next (s.command handle { opcode := 0x0102, p })

/-- LOAD_IMAGE_CHUNK. -/
def execLoadImageChunk (p : Packet) (badCores : List CoreNo) (s : State) : Host.Outcome State Fault Refusal :=
  .next (s.command handle { opcode := 0x0103, p, bad := badCores.map fun x => x.val })

/-- LOAD_IMAGE_COMMIT. -/
def execLoadImageCommit (p : Packet) (s : State) : Host.Outcome State Fault Refusal :=
  .next (s.command handle { opcode := 0x0104, p })

/-- GET_MISSING. -/
def execGetMissing (p : Packet) (s : State) : Host.Outcome State Fault Refusal :=
  .next (s.command handle { opcode := 0x0105, p })

/-- RENUMBER. -/
def execRenumber (p : Packet) (s : State) : Host.Outcome State Fault Refusal :=
  .next (s.command handle { opcode := 0x0106, p })

/-- GET_DIEBACK. -/
def execGetDieback (p : Packet) (s : State) : Host.Outcome State Fault Refusal :=
  .next (s.command handle { opcode := 0x0110, p })

/-- SAVE_SETTINGS. -/
def execSaveSettings (p : Packet) (s : State) : Host.Outcome State Fault Refusal :=
  .next (s.command handle { opcode := 0x0111, p })

/-- RESTORE_SETTINGS. -/
def execRestoreSettings (p : Packet) (fast : Bool) (s : State) : Host.Outcome State Fault Refusal :=
  .next (s.command handle { opcode := 0x0112, p, fast })

/-- SET_POWER_STATE. -/
def execSetPowerState (p : Packet) (fast : Bool) (s : State) : Host.Outcome State Fault Refusal :=
  .next (s.command handle { opcode := 0x0201, p, fast })

/-- SET_OPERATING_POINT. -/
def execSetOperatingPoint (p : Packet) (s : State) : Host.Outcome State Fault Refusal :=
  .next (s.command handle { opcode := 0x0202, p })

/-- SET_LIMIT. -/
def execSetLimit (p : Packet) (s : State) : Host.Outcome State Fault Refusal :=
  .next (s.command handle { opcode := 0x0203, p })

/-- SET_PACE_POLICY. -/
def execSetPacePolicy (p : Packet) (s : State) : Host.Outcome State Fault Refusal :=
  .next (s.command handle { opcode := 0x0204, p })

/-- GET_POWER_ACCOUNTING. -/
def execGetPowerAccounting (p : Packet) (s : State) : Host.Outcome State Fault Refusal :=
  .next (s.command handle { opcode := 0x0205, p })

/-- READ_TELEMETRY. -/
def execReadTelemetry (p : Packet) (s : State) : Host.Outcome State Fault Refusal :=
  .next (s.command handle { opcode := 0x0301, p })

/-- READ_ENERGY. -/
def execReadEnergy (p : Packet) (s : State) : Host.Outcome State Fault Refusal :=
  .next (s.command handle { opcode := 0x0302, p })

/-- READ_EVENTS. -/
def execReadEvents (p : Packet) (s : State) : Host.Outcome State Fault Refusal :=
  .next (s.command handle { opcode := 0x0303, p })

/-- LINK_STATUS. -/
def execLinkStatus (p : Packet) (s : State) : Host.Outcome State Fault Refusal :=
  .next (s.command handle { opcode := 0x0401, p })

/-- LINK_RETRAIN. -/
def execLinkRetrain (p : Packet) (fast : Bool) (s : State) : Host.Outcome State Fault Refusal :=
  .next (s.command handle { opcode := 0x0402, p, fast })

/-- LINK_LOOPBACK. -/
def execLinkLoopback (p : Packet) (s : State) : Host.Outcome State Fault Refusal :=
  .next (s.command handle { opcode := 0x0403, p })

/-- LINK_BER_TEST. -/
def execLinkBerTest (p : Packet) (s : State) : Host.Outcome State Fault Refusal :=
  .next (s.command handle { opcode := 0x0404, p })

/-- QUEUE_CREATE. -/
def execQueueCreate (p : Packet) (s : State) : Host.Outcome State Fault Refusal :=
  .next (s.command handle { opcode := 0x0501, p })

/-- QUEUE_DESTROY. -/
def execQueueDestroy (p : Packet) (fast : Bool) (s : State) : Host.Outcome State Fault Refusal :=
  .next (s.command handle { opcode := 0x0502, p, fast })

/-- BINDER_ALLOC. -/
def execBinderAlloc (p : Packet) (s : State) : Host.Outcome State Fault Refusal :=
  .next (s.command handle { opcode := 0x0503, p })

/-- WINDOW_OPEN. -/
def execWindowOpen (p : Packet) (s : State) : Host.Outcome State Fault Refusal :=
  .next (s.command handle { opcode := 0x0504, p })

/-- WINDOW_CLOSE. -/
def execWindowClose (p : Packet) (fast : Bool) (s : State) : Host.Outcome State Fault Refusal :=
  .next (s.command handle { opcode := 0x0505, p, fast })

/-- ROLE_ASSIGN. -/
def execRoleAssign (p : Packet) (s : State) : Host.Outcome State Fault Refusal :=
  .next (s.command handle { opcode := 0x0506, p })

/-- GET_CERTIFICATE. -/
def execGetCertificate (p : Packet) (s : State) : Host.Outcome State Fault Refusal :=
  .next (s.command handle { opcode := 0x0601, p })

/-- ATTEST. -/
def execAttest (p : Packet) (s : State) : Host.Outcome State Fault Refusal :=
  .next (s.command handle { opcode := 0x0602, p })

/-- GET_MEASUREMENTS. -/
def execGetMeasurements (p : Packet) (s : State) : Host.Outcome State Fault Refusal :=
  .next (s.command handle { opcode := 0x0603, p })

/-- CAL_READ_FACTORY. -/
def execCalReadFactory (p : Packet) (s : State) : Host.Outcome State Fault Refusal :=
  .next (s.command handle { opcode := 0x0701, p })

/-- CAL_WRITE_USER. -/
def execCalWriteUser (p : Packet) (s : State) : Host.Outcome State Fault Refusal :=
  .next (s.command handle { opcode := 0x0702, p })

/-- CAL_CLEAR_USER. -/
def execCalClearUser (p : Packet) (s : State) : Host.Outcome State Fault Refusal :=
  .next (s.command handle { opcode := 0x0703, p })

/-- TEST_MODE_ENTER. -/
def execTestModeEnter (p : Packet) (s : State) : Host.Outcome State Fault Refusal :=
  .next (s.command handle { opcode := 0x0801, p })

/-- RUN_BIST. -/
def execRunBist (p : Packet) (s : State) : Host.Outcome State Fault Refusal :=
  .next (s.command handle { opcode := 0x0802, p })

/-- MEMTEST_START. -/
def execMemtestStart (p : Packet) (s : State) : Host.Outcome State Fault Refusal :=
  .next (s.command handle { opcode := 0x0803, p })

/-- MEMTEST_STATUS. -/
def execMemtestStatus (p : Packet) (s : State) : Host.Outcome State Fault Refusal :=
  .next (s.command handle { opcode := 0x0804, p })

/-- LONG_OP_POLL: a packet with POLL = 1 (R428). -/
def execLongOpPoll (opcode : BitVec 16) (p : Packet) (s : State) : Host.Outcome State Fault Refusal :=
  .next (s.command handle { opcode := opcode.toNat, p })

/-- UNKNOWN_OPCODE: an opcode outside R430's tables on U0 or U1; a COMMAND packet on a base or peer link is answered on
that link (R384, R419, R434). -/
def execUnknownOpcode (link : LinkNo) (linkTag opcode : BitVec 16) (p : Packet) (s : State) :
    Host.Outcome State Fault Refusal :=
  .next <|
    if link.val < 30 then (if s.linkOpen link.val then s.statusOn link.val linkTag.toNat stBadParam else s)
    else s.command handle { opcode := opcode.toNat, p := { p with link := if link.val = 30 then 0 else 1 } }

/-- SEQ_HOLD_TIMEOUT: the packet held longest, 100 µs by now, is answered BAD_SEQUENCE; each held packet has its own
100 µs (R421). -/
def execSeqHoldTimeout (s : State) : Host.Outcome State Fault Refusal :=
  .next <|
    if s.alive then
      match s.session.held with
      | [] => s
      | h :: r => { s with session := { s.session with held := r } }.badSeq { opcode := h.1, p := h.2 }
    else s

/-! ### Ends of power transitions -/

/-- What follows a die-level transition: a pending request, and the packets kept during sleep. -/
def State.afterDie (s : State) : State := ((s.startDiePending).takeAsleep handle).unitWork

/-- POWER_TRANSITION_DONE: logical core's transition, or the die's without one, reaches its target (R494). -/
def execPowerTransitionDone (core : Option CoreNo) (s : State) : Host.Outcome State Fault Refusal :=
  .next <|
    match core with
    | some l =>
      match s.phys l.val with
      | some p => (s.coreDone p).afterDie
      | none => s
    | none =>
      if s.fld F.pwrDieStatusState = 1 then s.checkAsleep
      else if s.fld F.pwrDieStatusState = 3 then s.finishDieWake.afterDie
      else s

/-- DIE_WAKE (R490). -/
def execDieWake (s : State) : Host.Outcome State Fault Refusal :=
  .next (if s.fld F.pwrDieStatusState = 3 then s.finishDieWake.afterDie else s)

end Sys2Proof.Machine
end

