-- ==== Sys2Proof/WellFormed.lean ====
section
/-! DEFINITION. Operands that no wire carries are ill formed: a flit is 15 slots of 16 bytes (R377). -/

namespace Sys2Proof

/-- A flit carries 15 slots of 16 bytes (R377). -/
def Flit.wf (f : Flit) : Bool := f.slots.length == 15 && f.slots.all fun x => x.length == 16

/-- The flit a command carries, if any. -/
def Instr.flit? : Instr → Option Flit
  | .dataFlit _ f => some f
  | .idleFlit _ f => some f
  | .retry _ f => some f
  | _ => none

/-- Whether a command's operands can reach the die. -/
def Instr.wf (i : Instr) : Bool :=
  match i.flit? with
  | some f => f.wf
  | none => true

end Sys2Proof
end

