-- ==== Sys2Proof/Machine/Flits.lean ====
section
/-! DEFINITION. Flits: what a link sends at each flit boundary, what it does with what arrives, and the control flits
(R377 to R393, R401 to R411). -/

namespace Sys2Proof.Machine

/-! ### Packets and messages as bytes (R355, R379, R380, R416, R417, R515) -/

/-- A reply as bytes, with its CRC (R416, R417). -/
def Reply.bytes (r : Reply) : List Byte :=
  let len := 32 + r.results.length
  let head := leBytes 4 (r.version * 2 ^ 16 + r.opcode) ++ leBytes 4 r.devSeq ++ leBytes 4 r.hostSeq ++
    leBytes 4 (len * 2 ^ 16 + (if r.duplicate then 3 else 1) * 2 ^ 8 + r.status) ++ leBytes 8 r.tag ++ leBytes 4 r.season
  head ++ leBytes 4 (crc32c (head ++ [0, 0, 0, 0] ++ r.results)) ++ r.results

/-- Bytes padded to whole slots. -/
def pad16 (b : List Byte) : List Byte := b ++ List.replicate ((16 - b.length % 16) % 16) 0

/-- A packet: header slot and data slots (R379, R380). -/
def packetOf (ty flags len tag season addr : Nat) (data : List Byte) : List Byte :=
  leBytes 1 ty ++ leBytes 1 flags ++ leBytes 2 len ++ leBytes 2 tag ++ leBytes 2 season ++ leBytes 8 addr ++ pad16 data

/-- A VC5 message as bytes. -/
def vc5Bytes (m : Vc5Msg) : List Byte :=
  leBytes 4 m.head.toNat ++ leBytes 4 m.dest.toNat ++ leBytes 4 m.src.toNat ++ leBytes 4 m.body.toNat

/-- A binder message of this die as bytes. -/
def BOut.bytes (x : BOut) (die : Nat) : List Byte :=
  leBytes 8 x.address ++ leBytes 4 x.value ++ leBytes 4 (x.op * 2 ^ 28 + x.status * 2 ^ 20 + die)

/-- A packet of the die as bytes. The tag of a COMMAND or MGMT packet, which nothing answers, and the package's own
content are free values (log 3); so is what the data slots that R379 gives a READ or READBACK hold (log 72). -/
def State.encode (s : State) (i : Nat) (x : OutPkt) : List Byte :=
  let own := 0xFD00 + s.draw 0x382 % 256
  let free := (List.range 16).map fun k => BitVec.ofNat 8 (s.draw (0x3800 + k))
  let unsaid := fun n => (List.range n).map fun k => BitVec.ofNat 8 (s.draw (0x37900 + k))
  match x with
  | .write tag season ack addr data =>
    let sn := if s.below3 i then none else season
    packetOf 1 (ack.toNat + (if sn.isSome then 2 else 0)) data.length tag (sn.getD 0) addr data
  | .readback tag season addr len =>
    let sn := if s.below3 i then none else season
    packetOf 2 (if sn.isSome then 2 else 0) len tag (sn.getD 0) addr (unsaid len)
  | .read tag addr len => packetOf 3 0 len tag 0 addr (unsaid len)
  | .data tag status data => packetOf 4 0 data.length tag 0 status data
  | .status tag code => packetOf 5 0 0 tag 0 code []
  | .reply r => packetOf 6 0 r.bytes.length own 0 0 r.bytes
  | .mgmt (.vc5 m) => packetOf 7 0 16 own 0 0 (vc5Bytes m)
  | .mgmt (.other data) => packetOf 7 0 data.length own 0 0 data
  | .railRequest _ _ => packetOf 7 0 16 own 0 0 free
  | .memtest _ => packetOf 7 0 16 own 0 0 free

/-! ### Credits and the window (R388, R391, R406) -/

/-- The replay window of a link. -/
def State.window (s : State) (i : Nat) : Nat :=
  let w := s.fld (F.lnkStatusWidth i)
  if s.fld (F.lnkVersionAgreed i) < 0x31 then 64
  else if 30 ≤ i then (if w = 16 then 7 else 3)
  else if w = 64 then 64 else w - 1

/-- Credits a packet needs on its VC. -/
def creditsFor (vc bytes : Nat) : Nat := if vc = 3 then (bytes + 255) / 256 else 1

/-- Credits held on a VC, and whether a number of them is. -/
def State.heldCredit (s : State) (i vc : Nat) : Nat := s.fld (F.lnkCreditHeld i vc)
def State.canSend (s : State) (i vc n : Nat) : Bool := s.heldCredit i vc == 0xFFFF || decide (n ≤ s.heldCredit i vc)

/-- Credits used. -/
def State.useCredit (s : State) (i vc n : Nat) : State :=
  if s.heldCredit i vc = 0xFFFF then s else s.setFld (F.lnkCreditHeld i vc) (s.heldCredit i vc - n)

/-- Rows of a link that still hold a credit of VC0 or VC1 in the open region. -/
def State.rowsHeld (s : State) (i vc : Nat) : Nat :=
  (s.routers.flatMap fun r => r.2.opens.filter fun o => o.home == some i && (match o.load with
    | .read _ r => (match r.dest with | .link _ _ back => back == (vc == 0) | _ => false)
    | .write _ w => vc == 0 && w.from_ == .link i
    | .stream _ _ _ w => vc == 0 && w.from_ == .link i
    | _ => false)).length

/-- Credits due on a VC. -/
def State.dueOn (s : State) (i vc : Nat) : Nat := (tfind (s.link i).creditDue vc).getD 0

/-- Free rows of a link's open region that no credit the partner holds stands for (R268). -/
def State.unpledged (s : State) (i : Nat) : Nat :=
  let held := fun vc => s.fld (F.lnkCreditGranted i vc) - s.dueOn i vc
  s.openRoom i - s.openRows i - held 0 - held 1

/-- Credits that can be returned on a VC (R391): of VC0 and VC1 those of packets that have left the open region, while it
has free rows for them (R268), of VC4 none while the inbound queue is full (R357). -/
def State.returnable (s : State) (i vc : Nat) : Nat :=
  let due := s.dueOn i vc
  if vc < 2 then min (due - s.rowsHeld i vc) (s.unpledged i)
  else if vc = 4 ∧ 256 ≤ s.inq.length then 0
  else due

/-- Credits due for what arrived. -/
def State.owe (s : State) (i vc n : Nat) : State :=
  let l := s.link i
  s.setLink i { l with creditDue := tmod 0 l.creditDue vc (· + n) }

/-! ### Sending (R379, R385, R387, R391, R392) -/

/-- The fields every header carries; the VC whose credits it returns is a free choice among those due (log 3). -/
def State.header (s : State) (i kind : Nat) : Flit × State :=
  let l := s.link i
  let vcs := (List.range 6).filter fun v => decide (0 < s.returnable i v)
  let vc := (vcs[s.draw 0x391 % max 1 vcs.length]?).getD 0
  let n := min 255 (s.returnable i vc)
  let f : Flit := { seq := BitVec.ofNat 12 l.txSeq, ack := BitVec.ofNat 12 (l.rxSeq + 4095), kind := BitVec.ofNat 3 kind,
                    vc := 0, used := 0, cont := 0, crVc := BitVec.ofNat 3 vc, crCount := BitVec.ofNat 8 n,
                    epoch := BitVec.ofNat 4 (s.fld (F.lnkEpoch i)), slots := List.replicate 15 (List.replicate 16 0), crc := 0 }
  (f, s.drew.setLink i { l with creditDue := (tmod 0 l.creditDue vc (· - n)).filter fun e => e.2 != 0 })

/-- Bytes as 15 slots. -/
def slotsOf (b : List Byte) : List (List Byte) := (List.range 15).map fun k => slice b (16 * k) 16

/-- Packets of a VC packed into a flit's room, in bytes: what goes out, and the state with the rest left. -/
def State.pack (s : State) (i vc : Nat) : Nat → Nat → State × List Byte
  | 0, _ => (s, [])
  | fuel + 1, room =>
    if room = 0 then (s, [])
    else
      let l := s.link i
      match tfind l.txPart vc with
      | some b =>
        let s := s.setLink i { l with txPart := if b.length ≤ room then tdel l.txPart vc else tins l.txPart vc (b.drop room) }
        let r := s.pack i vc fuel (room - b.length)
        (r.1, b.take room ++ r.2)
      | none =>
        match l.txq.find? fun x => x.1 == vc with
        | none => (s, [])
        | some x =>
          let b := s.encode i x.2
          let n := creditsFor vc b.length
          if s.canSend i vc n then
            let s := (s.drew.useCredit i vc n).setLink i { l with txq := l.txq.erase x, txPart := tins l.txPart vc b }
            s.pack i vc fuel room
          else (s, [])

/-- Whether a VC has something that can go out: the rest of a packet, or a packet with credits. -/
def State.vcReady (s : State) (i vc : Nat) : Bool :=
  let l := s.link i
  (tfind l.txPart vc).isSome || match l.txq.find? fun x => x.1 == vc with
    | some x => s.canSend i vc (creditsFor vc (s.encode i x.2).length)
    | none => false

/-- Whether traffic of some VC waits for a credit. -/
def State.vcWaits (s : State) (i : Nat) : Bool :=
  let l := s.link i
  ((List.range 4).any fun vc => (tfind l.txPart vc).isNone && (l.txq.any fun x => x.1 == vc) && !s.vcReady i vc) ||
    (!l.bout.isEmpty && s.heldCredit i 4 == 0) || (!l.vc5out.isEmpty && s.heldCredit i 5 == 0)

/-- A DATA flit put on the wire and kept in the replay buffer (R385); a new map begins with it if its SEQ says so
(R403). -/
def State.sendData (s : State) (i vc used cont : Nat) (b : List Byte) : State :=
  let h := s.header i 0
  let s := h.2
  let l := s.link i
  let f := sealFlit { h.1 with vc := BitVec.ofNat 3 vc, used := BitVec.ofNat 4 used, cont := BitVec.ofNat 4 cont,
                               slots := slotsOf b }
  let n := l.sinceCheck + 1
  let due := if n = 65536 ∧ s.bit (F.lnkCtlCheckEn i) ∧ ¬ l.ctlDue.contains .laneCheck then l.ctlDue ++ [.laneCheck] else l.ctlDue
  let l' : LinkSt := { l with wire := some (.flit f), replay := l.replay ++ [f], txSeq := (l.txSeq + 1) % 4096 }
  let s := (s.setLink i { l' with sinceCheck := n % 65536, ctlDue := due }).addFld (F.lnkTxFlits i) 1
  match (s.linkState i == lkReconfig, l.reconfig) with
  | (true, some (map, at_)) => if (l.txSeq + 4096 - at_) % 4096 < 2048 then s.switchMap i map else s
  | _ => s

/-- Which WRITEs and READBACKs of VC0 a flit now sent carries bytes of, given those that waited before (R41). -/
def State.noteTags (s : State) (i : Nat) (before : LinkSt) : State :=
  let l := s.link i
  let sent := (before.txq.filter fun x => x.1 == 0 && !l.txq.contains x).filterMap fun x => x.2.writeTag
  let tags := before.partTag.toList ++ sent
  s.setLink i { l with
    carried := (l.carried.filter fun x => (l.replay ++ l.resend).any fun f => f.seq.toNat == x.1) ++ tags.map fun t => (l.txSeq, t)
    partTag := if (tfind l.txPart 0).isSome then tags.getLast? else none }

/-- A DATA flit of a packet VC: the leading slots continue a packet begun before (R377). -/
def State.sendVc (s : State) (i vc : Nat) : State :=
  let l := s.link i
  let before := ((tfind l.txPart vc).map fun b => b.length).getD 0
  let r := s.pack i vc 32 240
  let s := if vc = 0 then r.1.noteTags i l else r.1
  s.sendData i vc (r.2.length / 16) (min 15 (before / 16)) r.2

/-- A reserved flit: waiting VC4 messages, then VC5 messages, each with a credit, up to 15 (R392). -/
def State.sendReserved (s : State) (i : Nat) : State :=
  let l := s.link i
  let n4 := min 15 (if s.heldCredit i 4 = 0xFFFF then 15 else s.heldCredit i 4)
  let ms := l.bout.take n4
  let n5 := min (15 - ms.length) (if s.heldCredit i 5 = 0xFFFF then 15 else s.heldCredit i 5)
  let ps := l.vc5out.take n5
  let wait := ms.filter fun m => decide (m.op < 3)
  let l' : LinkSt := { l with bout := l.bout.drop ms.length, bwait := l.bwait ++ wait, vc5out := l.vc5out.drop ps.length }
  let s := ((s.setLink i l').useCredit i 4 ms.length).useCredit i 5 ps.length
  s.sendData i 4 ms.length ps.length ((ms.flatMap fun m => m.bytes s.dieNo) ++ ps.flatMap vc5Bytes)

/-- What this side applies, as CONFIG_ECHO carries it (R401). -/
def State.ownEcho (s : State) (i : Nat) : Echo :=
  let w := s.fld (F.lnkStatusWidth i)
  { width := w, mapCrc := BitVec.ofNat 32 (mapCrc (s.fld (F.lnkUsed i)) w), epoch := BitVec.ofNat 16 (s.fld (F.lnkEpoch i)),
    version := BitVec.ofNat 8 (s.fld (F.lnkVersionAgreed i)) }

/-- Whether a link holds traffic to send (R408). -/
def LinkSt.hasTraffic (l : LinkSt) : Bool :=
  !l.txq.isEmpty || !l.txPart.isEmpty || !l.bout.isEmpty || !l.bheld.isEmpty || !l.vc5out.isEmpty || !l.replay.isEmpty ||
    !l.resend.isEmpty

/-- The 256 bytes of a flit (R377). -/
def flitBytes (f : Flit) : List Byte := leBytes 8 (flitHeader f) ++ (f.slots.flatMap fun x => x) ++ leBytes 8 f.crc.toNat

/-- The bits that logical lane j of w carries of a run of bytes: byte k goes to lane k mod w, least significant bit first
(R376). -/
def laneBits (w j : Nat) (b : List Byte) : List Bool :=
  (b.zipIdx.filter fun x => x.2 % w == j).flatMap fun x => (List.range 8).map fun k => x.1.getLsbD k

/-- A flit on the wire at width w: its bytes dealt to the lanes, logical lane j on the j-th physical lane in use (R376,
R399). -/
def State.dealOut (s : State) (i w : Nat) (f : Flit) : State :=
  let used := bitsOf (laneCount i) (s.fld (F.lnkUsed i))
  let b := flitBytes f
  s.setLink i { s.link i with flitOut := some f, lanes := (used.take w).zipIdx.map fun x => (x.1, laneBits w x.2 b) }

/-- The rustle pattern on both trickle lanes, bit 63 first (R410). -/
def rustleBits : List Bool := (List.range 64).map fun k => (0xA5C33C5A96E11E69 : Nat).testBit (63 - k)

/-- 8 bits of the PRBS31 stream x³¹ + x²⁸ + 1 from a generator state, the first in bit 0, and the state after them (R390). -/
def prbsStep (x : Nat) : Nat × Nat :=
  (List.range 8).foldl (fun a k =>
    let bit := ((a.2 / 2 ^ 30) + (a.2 / 2 ^ 27)) % 2
    (a.1 + bit * 2 ^ k, (a.2 * 2 + bit) % 2 ^ 31)) (0, x)

/-- n bytes of the stream. -/
def prbsBytes : Nat → Nat → List Byte × Nat
  | 0, x => ([], x)
  | n + 1, x =>
    let a := prbsStep x
    let r := prbsBytes n a.2
    (BitVec.ofNat 8 a.1 :: r.1, r.2)

/-- A CONTROL flit on the wire. The manual gives no layout of its content but that of LANE_CHECK, whose stream it does not
say where to begin: those bytes are free values (log 3, log 73). -/
def State.controlOut (s : State) (i w : Nat) (check : Bool) : State :=
  let h := s.header i 3
  let s := h.2
  let l := s.link i
  let p := prbsBytes 240 (l.prbs.getD (1 + s.draw 0x390 % (2 ^ 31 - 1)))
  let free := (List.range 240).map fun k => BitVec.ofNat 8 (s.draw (0x37700 + k))
  let f := sealFlit { h.1 with slots := slotsOf (if check then p.1 else free) }
  ((s.drew.setLink i { l with prbs := if check then some p.2 else l.prbs })).dealOut i w f

/-- Whether a due control flit may go now: TRICKLE_REQ waits for an empty replay buffer and whole packets (R408). -/
def LinkSt.ctlReady (l : LinkSt) : Ctl → Bool
  | .trickleReq => l.replay.isEmpty && l.txPart.isEmpty && l.resend.isEmpty
  | .rustle => false
  | _ => true

/-- A control flit sent. TRICKLE_ACK moves this side to TRICKLE if it still holds no traffic (R408). -/
def State.sendCtl (s : State) (i : Nat) (c : Ctl) : State :=
  let l := s.link i
  let l : LinkSt := { l with ctlDue := l.ctlDue.erase c }
  let w := s.fld (F.lnkStatusWidth i)
  match c with
  | .laneCheck =>
    s.setLink i { l with wire := some (.laneCheck l.prbsTx), prbsTx := (l.prbsTx + 240) % (2 ^ 31 - 1), sinceCheck := 0 }
      |>.controlOut i w true
  | .configEcho => (s.setLink i { l with wire := some (.configEcho (s.ownEcho i)) }).controlOut i w false
  | .reconfigReq used at_ => (s.setLink i { l with wire := some (.reconfigReq used at_) }).controlOut i w false
  | .trickleReq => (s.setLink i { l with wire := some .trickleReq, trickleSent := true }).controlOut i w false
  | .trickleAck =>
    if l.hasTraffic then s.setLink i l
    else (((s.setLink i { l with wire := some .trickleAck }).controlOut i w false).setFld (F.lnkStatusState i) lkTrickle).checkAsleep
  | .rustle =>
    let two := (bitsOf (laneCount i) (s.fld (F.lnkUsed i))).take 2
    s.setLink i { l with wire := some .rustle, flitOut := none, lanes := two.map fun j => (j, rustleBits) }

/-- A flit of the resend list on the wire again, or for the first time in its epoch (R387, R402). -/
def State.sendAgain (s : State) (i : Nat) (f : Flit) (rest : List Flit) : State :=
  let l := s.link i
  let old := l.replay.any fun x => x.seq == f.seq
  if ¬ old ∧ s.window i ≤ l.replay.length then s
  else
    let replay := if old then l.replay else l.replay ++ [f]
    (s.setLink i { l with wire := some (.flit f), resend := rest, replay }).addFld (F.lnkTxFlits i) 1

/-- A RETRY, or an IDLE flit (R386, R392). -/
def State.sendBare (s : State) (i kind : Nat) : State :=
  let h := s.header i kind
  let l := h.2.link i
  let s := h.2.setLink i { l with wire := some (.flit (sealFlit h.1)), retryPending := if kind = 2 then false else l.retryPending }
  if kind = 2 then s.addFld (F.lnkRetry i) 1 else s

/-- The choice of R392; the first flit in ACTIVE is the CONFIG_ECHO (R401). -/
def State.sendFlit (s : State) (i : Nat) : State :=
  let s := if s.vcWaits i then s.addFld (F.lnkVcWait i) 1 else s
  let l := s.link i
  let room := decide (l.replay.length < s.window i)
  if l.first ∧ l.ctlDue.contains .configEcho then (s.setLink i { l with first := false }).sendCtl i .configEcho
  else match l.resend with
  | f :: rest => s.sendAgain i f rest
  | [] =>
    if room ∧ ((¬ l.bout.isEmpty ∧ 0 < s.heldCredit i 4) ∨ (¬ l.vc5out.isEmpty ∧ 0 < s.heldCredit i 5)) then s.sendReserved i
    else if l.retryPending then s.sendBare i 2
    else
      match l.ctlDue.find? l.ctlReady with
      | some c => s.sendCtl i c
      | none =>
        if room ∧ s.vcReady i 3 then s.sendVc i 3
        else
          match ((List.range 3).map fun k => (l.turn + k) % 3).find? fun vc => room && s.vcReady i vc with
          | some vc =>
            let s := s.sendVc i vc
            s.setLink i { s.link i with turn := (vc + 1) % 3 }
          | none => s.sendBare i 1

/-- A DATA, IDLE or RETRY flit that went out dealt to the lanes; a CONTROL flit already is. -/
def State.dealFlit (s : State) (i : Nat) : State :=
  match (s.link i).wire with
  | some (.flit f) => s.dealOut i (s.fld (F.lnkStatusWidth i)) f
  | _ => s

/-- FLIT_SEND. Traffic for a link in TRICKLE sends the rustle pattern (R410). -/
def execFlitSend (link : LinkNo) (s : State) : Host.Outcome State Fault Refusal :=
  let i := link.val
  .next <|
    if s.linkOpen i then (s.sendFlit i).dealFlit i
    else if s.linkState i = lkTrickle ∧ (s.link i).hasTraffic then
      let s := s.wakeLink i
      s.sendCtl i .rustle
    else if s.linkState i = lkWake ∧ (s.link i).ctlDue.contains .rustle then s.sendCtl i .rustle
    else s

/-! ### Receiving (R378, R382 to R387, R391) -/

/-- A link packet read from its bytes. -/
def linkPacketOf (b : List Byte) : LinkPacket :=
  let flags := leAt b 1 1
  { ackReq := flags.testBit 0
    season := if flags.testBit 1 then some (BitVec.ofNat 16 (leAt b 6 2)) else none
    length := leAt b 2 2, tag := BitVec.ofNat 16 (leAt b 4 2), address := BitVec.ofNat 64 (leAt b 8 8)
    data := slice b 16 (leAt b 2 2) }

/-- A command packet read from its bytes (R416). -/
def packetRead (link : Fin 2) (b : List Byte) : Nat × Packet :=
  (leAt b 0 2,
   { link, major := BitVec.ofNat 8 (leAt b 3 1), minor := BitVec.ofNat 8 (leAt b 2 1), hostSeq := BitVec.ofNat 32 (leAt b 4 4),
     devSeen := BitVec.ofNat 32 (leAt b 8 4), length := BitVec.ofNat 16 (leAt b 14 2), flags := BitVec.ofNat 8 (leAt b 13 1),
     account := BitVec.ofNat 8 (leAt b 12 1), tag := BitVec.ofNat 64 (leAt b 16 8), season := BitVec.ofNat 32 (leAt b 24 4),
     crc := BitVec.ofNat 32 (leAt b 28 4), params := b.drop 32 })

/-- A VC5 message read from its bytes. -/
def vc5Read (b : List Byte) : Vc5Msg := vcMsg (leAt b 0 4) (leAt b 4 4) (leAt b 8 4) (leAt b 12 4)

/-- A binder message read from its bytes (R355). -/
def binderRead (b : List Byte) : BinderMsg :=
  let k := leAt b 12 4
  { address := BitVec.ofNat 64 (leAt b 0 8), value := BitVec.ofNat 32 (leAt b 8 4), op := BitVec.ofNat 4 (k / 2 ^ 28),
    status := BitVec.ofNat 8 (k / 2 ^ 20), source := BitVec.ofNat 17 k }

/-- A whole packet of a VC served. A TYPE that its VC does not carry is dropped (log 58). -/
def State.deliverPacket (s : State) (i vc : Nat) (b : List Byte) : State :=
  let ty := leAt b 0 1
  let p := linkPacketOf b
  let tag := p.tag.toNat
  if vc = 0 ∧ ty = 1 then (s.owe i 0 1).serveWrite i p
  else if vc = 0 ∧ ty = 2 then (s.owe i 0 1).serveReadback i p
  else if vc = 1 ∧ ty = 3 then (s.owe i 1 1).serveRead i p
  else if vc = 2 ∧ ty = 4 then s.answerTag i tag (p.address.toNat % 256) (some p.data)
  else if vc = 2 ∧ ty = 5 then s.answerTag i tag (p.address.toNat % 256) none
  else if vc = 3 then
    let s := s.owe i 3 (creditsFor 3 b.length)
    if i < 30 then
      (if ty = 7 ∧ p.length = 16 then s.serveMgmt i tag (.vc5 (vc5Read p.data)) else s.statusOn i tag stBadParam)
    else if ty = 6 then
      let c := packetRead (if i = 30 then 0 else 1) p.data
      s.command handle { opcode := c.1, p := c.2 }
    else s
  else s

/-- The whole packets at the front of what has arrived on a VC served, in order (R379, R383). -/
def State.unpack (s : State) (i vc : Nat) : Nat → List Byte → State
  | 0, b => let l := s.link i; s.setLink i { l with rxPart := tins l.rxPart vc b }
  | fuel + 1, b =>
    let n := 16 + (leAt b 2 2 + 15) / 16 * 16
    if b.length < 16 ∨ b.length < n then
      let l := s.link i
      s.setLink i { l with rxPart := if b.isEmpty then tdel l.rxPart vc else tins l.rxPart vc b }
    else (s.deliverPacket i vc (b.take n)).unpack i vc fuel (b.drop n)

/-- A binder message of a reserved flit: an answer is taken at once, an operation enters the inbound queue (R357). -/
def State.arrive (s : State) (i : Nat) (m : BinderMsg) : State :=
  let s := s.owe i 4 1
  if m.op = 3 ∨ m.op = 4 then s.answerMessage i m else s.enterInq i (.msg m)

/-- The content of an accepted DATA flit; VC 5 to 7 are illegal and carry nothing. -/
def State.content (s : State) (i : Nat) (f : Flit) : State :=
  let b := f.slots.flatMap fun x => x
  let vc := f.vc.toNat
  if vc = 4 then
    let s := ((f.slots.take f.used.toNat).foldl (fun s x => s.arrive i (binderRead x)) s).serveInq 257
    ((f.slots.drop f.used.toNat).take f.cont.toNat).foldl (fun s x => (s.owe i 5 1).vc5In (vc5Read x)) s
  else if vc < 4 then s.unpack i vc 17 ((tfind (s.link i).rxPart vc).getD [] ++ b.take (16 * f.used.toNat))
  else s

/-- A RETRY becomes due (R386). -/
def State.askRetry (s : State) (i : Nat) : State :=
  let l := s.link i
  if l.gap then s else s.setLink i { l with gap := true, retryPending := true }

/-- Credits and the acknowledgement of a header (R385, R391). -/
def State.headerIn (s : State) (i : Nat) (f : Flit) : State :=
  let vc := f.crVc.toNat
  let n := f.crCount.toNat
  let s := if vc < 6 ∧ s.heldCredit i vc ≠ 0xFFFF then s.setFld (F.lnkCreditHeld i vc) (min 0xFFFE (s.heldCredit i vc + n)) else s
  let l := s.link i
  let kept := afterSeq l.replay f.ack.toNat
  if kept.length < l.replay.length then
    let left := l.resend.filter fun x => !(l.replay.any fun y => y.seq == x.seq) || kept.any fun y => y.seq == x.seq
    s.setLink i { l with replay := kept, resend := left, resends := 0 }
  else s

/-- The checks of CRC and epoch: the state to go on with, and whether the flit stands (R378, R386). A whole flit of
another KIND than its command names is no such event (log 2). -/
def State.flitIn (s : State) (i : Nat) (f : Flit) (kind : Nat) : State × Bool :=
  if flitCrc f ≠ f.crc.toNat then ((s.addFld (F.lnkCrcErr i) 1).askRetry i, false)
  else if f.kind.toNat ≠ kind then (s, false)
  else if f.epoch.toNat ≠ s.fld (F.lnkEpoch i) % 16 then (s, false)
  else (s.headerIn i f, true)

/-- A flit that shows the next SEQ of its sender: DATA flits before it are missing (R386). -/
def State.seqShows (s : State) (i seq : Nat) : State :=
  let d := (seq + 4096 - (s.link i).rxSeq) % 4096
  if d = 0 ∨ 2048 ≤ d then s else s.askRetry i

/-- A flit other than a KEEPALIVE on a link in TRICKLE counts as a rustle pattern (R410). -/
def State.rustled (s : State) (i : Nat) : State := (s.wakeLink i).linkTraffic

/-- DATA_FLIT. -/
def execDataFlit (link : LinkNo) (f : Flit) (s : State) : Host.Outcome State Fault Refusal :=
  let i := link.val
  if ¬ f.wf then .fault .illFormed
  else .next <|
    if s.linkState i = lkTrickle then s.rustled i
    else if ¬ s.linkOpen i then s
    else
      let r := s.flitIn i f 0
      let s := r.1
      if ¬ r.2 then s
      else
        let l := s.link i
        let s := s.setLink i { l with trickleSent := false }
        if f.seq.toNat ≠ l.rxSeq then s.seqShows i f.seq.toNat
        else
          let l : LinkSt := { l with rxSeq := (l.rxSeq + 1) % 4096, gap := false, retryPending := false, trickleSent := false }
          let s := (s.setLink i l).addFld (F.lnkRxFlits i) 1
          let s := match (s.linkState i == lkReconfig, l.reconfig) with
            | (true, some (map, at_)) => if (f.seq.toNat + 4096 - at_) % 4096 < 2048 then s.switchMap i map else s
            | _ => s
          (s.stir.content i f).unitWork

/-- IDLE_FLIT (R377, R386). -/
def execIdleFlit (link : LinkNo) (f : Flit) (s : State) : Host.Outcome State Fault Refusal :=
  let i := link.val
  if ¬ f.wf then .fault .illFormed
  else .next <|
    if s.linkState i = lkTrickle then s.rustled i
    else if ¬ s.linkOpen i then s
    else
      let r := s.flitIn i f 1
      if r.2 then r.1.seqShows i f.seq.toNat else r.1

/-- RETRY (R387, R389): every unacknowledged flit goes out again, unless the link escalates. -/
def execRetry (link : LinkNo) (f : Flit) (s : State) : Host.Outcome State Fault Refusal :=
  let i := link.val
  if ¬ f.wf then .fault .illFormed
  else .next <|
    if s.linkState i = lkTrickle then s.rustled i
    else if ¬ s.linkOpen i then s
    else
      let r := s.flitIn i f 2
      if ¬ r.2 then r.1
      else
        let s := (r.1.seqShows i f.seq.toNat).addFld (F.lnkRetry i) 1
        let l := s.link i
        let times := (l.retryTimes.filter fun t => decide (s.time < t + 1000)) ++ [s.time]
        let s := s.setLink i { l with retryTimes := times }
        if 256 ≤ times.length then s.escalate i 0x0A
        else if l.replay.isEmpty then s
        else if 8 ≤ l.resends then s.escalate i 0x09
        else s.setLink i { l with retryTimes := times, resend := l.replay ++ l.unsent, resends := l.resends + 1 }

/-- RETRY_TIMEOUT (R386). -/
def execRetryTimeout (link : LinkNo) (s : State) : Host.Outcome State Fault Refusal :=
  let l := s.link link.val
  .next (if s.linkOpen link.val ∧ l.gap then s.setLink link.val { l with retryPending := true } else s)

/-! ### Control flits -/

/-- LANE_CHECK: errors of each logical lane, counted on its physical lane; four within 1 s drop it (R389, R390). -/
def execLaneCheck (link : LinkNo) (errors : List Nat) (s : State) : Host.Outcome State Fault Refusal :=
  let i := link.val
  .next <|
    if s.linkState i = lkTrickle then s.rustled i
    else if ¬ s.linkOpen i then s
    else
      let l := s.link i
      let lanes := bitsOf (laneCount i) (s.fld (F.lnkUsed i))
      let found := (lanes.zip errors).filter fun e => e.2 != 0
      let s := found.foldl (fun s e => s.satFld (F.lnkLaneErrNominal i e.1) e.2) s
      let new := found.flatMap fun e => List.replicate (min 4 e.2) (e.1, s.time)
      let times := (l.laneErrTimes.filter fun e => decide (s.time < e.2 + 1000000)) ++ new
      let bad := maskOf (laneCount i) fun j => decide (4 ≤ (times.filter fun e => e.1 == j).length)
      let rest := times.filter fun e => !bad.testBit e.1
      let s := s.setLink i { l with laneErrTimes := rest, prbsRx := (l.prbsRx + 240) % (2 ^ 31 - 1) }
      if bad ≠ 0 ∧ s.linkState i = lkActive then s.dropLanes i bad else s

/-- A control flit made due once. -/
def State.ctlOnce (s : State) (i : Nat) (c : Ctl) : State := if (s.link i).ctlDue.contains c then s else s.ctlOn i c

/-- LANE_CHECK_SEND (R390). -/
def execLaneCheckSend (link : LinkNo) (s : State) : Host.Outcome State Fault Refusal :=
  .next (if s.linkOpen link.val ∧ s.bit (F.lnkCtlCheckEn link.val) then s.ctlOnce link.val .laneCheck else s)

/-- An echo that differs or does not come (R401). -/
def State.echoFails (s : State) (i : Nat) : State :=
  let st := s.linkState i
  let s := (s.addFld (F.lnkEpoch i) 1).leaveUp i
  ((s.setLink i { s.link i with distrust := true }).lose 5 2).failAttempt i 0x05 st

/-- CONFIG_ECHO (R401). -/
def execConfigEcho (link : LinkNo) (e : Echo) (s : State) : Host.Outcome State Fault Refusal :=
  let i := link.val
  .next <|
    if s.linkState i = lkTrickle then s.rustled i
    else if ¬ s.linkOpen i then s
    else if e = s.ownEcho i then s.setLink i { s.link i with echoSeen := true }
    else (s.echoFails i).unitWork

/-- CONFIG_ECHO_SEND: at 3.2, every 1 ms (R401). -/
def execConfigEchoSend (link : LinkNo) (s : State) : Host.Outcome State Fault Refusal :=
  .next (if s.linkOpen link.val ∧ 0x32 ≤ s.fld (F.lnkVersionAgreed link.val) then s.ctlOnce link.val .configEcho else s)

/-- ECHO_TIMEOUT (R401). -/
def execEchoTimeout (link : LinkNo) (s : State) : Host.Outcome State Fault Refusal :=
  .next (if s.linkOpen link.val ∧ ¬ (s.link link.val).echoSeen then (s.echoFails link.val).unitWork else s)

/-- RECONFIG_REQ from the master (R403, R404). -/
def execReconfigReq (link : LinkNo) (used : DWord) (switchSeq : BitVec 12) (s : State) : Host.Outcome State Fault Refusal :=
  let i := link.val
  let n := laneCount i
  .next <|
    if s.linkState i = lkTrickle then s.rustled i
    else if ¬ s.linkOpen i ∨ s.bit (F.lnkStatusMaster i) ∨ s.fld (F.lnkVersionAgreed i) < 0x31 then s
    else if widthOf (used.toNat % 2 ^ n) n < 8 then s.escalateQuiet i
    else
      (s.setFld (F.lnkStatusState i) lkReconfig).setLink i
        { s.link i with reconfig := some (usedOf (used.toNat % 2 ^ n) n, switchSeq.toNat) }

/-- RECONFIG_TIMEOUT (R404). -/
def execReconfigTimeout (link : LinkNo) (s : State) : Host.Outcome State Fault Refusal :=
  .next (if s.linkState link.val = lkReconfig then (s.escalate link.val 0x0B).unitWork else s)

/-- TRICKLE_REQ (R408). -/
def execTrickleReq (link : LinkNo) (s : State) : Host.Outcome State Fault Refusal :=
  let i := link.val
  .next <|
    if s.linkState i = lkTrickle then s.rustled i
    else if s.linkState i = lkActive ∧ ¬ (s.link i).hasTraffic then s.ctlOnce i .trickleAck
    else s

/-- TRICKLE_ACK (R408, R487). -/
def execTrickleAck (link : LinkNo) (s : State) : Host.Outcome State Fault Refusal :=
  let i := link.val
  .next <|
    if s.linkState i = lkTrickle then s.rustled i
    else if s.linkState i = lkActive ∧ (s.link i).trickleSent then
      ((s.setLink i { s.link i with trickleSent := false }).setFld (F.lnkStatusState i) lkTrickle).checkAsleep
    else s

/-- KEEPALIVE: the link stays in TRICKLE (R40, R409). -/
def execKeepalive (_link : LinkNo) (s : State) : Host.Outcome State Fault Refusal := .next s

/-- KEEPALIVE_SEND (R409). -/
def execKeepaliveSend (link : LinkNo) (s : State) : Host.Outcome State Fault Refusal :=
  let i := link.val
  .next (if s.linkState i = lkTrickle then (s.setLink i { s.link i with wire := some .keepalive }).controlOut i 2 false else s)

/-- WAKE_LOCK (R395, R411). -/
def execWakeLock (link : LinkNo) (s : State) : Host.Outcome State Fault Refusal :=
  let i := link.val
  let l := s.link i
  .next <|
    if s.linkState i = lkWake then
      (s.setLink i { l with ctlDue := l.ctlDue.erase .rustle, activeSince := s.time }).setFld (F.lnkStatusState i) lkActive
    else s

/-! ### Outbound streams (R288, R289) -/

/-- Whether a link takes a new packet on VC0 into its replay buffer at once. -/
def State.takesWrite (s : State) (i : Nat) : Bool :=
  let l := s.link i
  s.linkUp i && !(l.txq.any fun x => x.1 == 0) && (tfind l.txPart 0).isNone && s.canSend i 0 1 &&
    decide (l.replay.length < s.window i)

/-- The write of row k of an outbound stream of an adapter (R288). -/
def State.streamWrite (s : State) (key : Nat) (t : AdpStream) (k : Nat) (row : List Byte) : State :=
  let i := key / 4
  s.sendOn i 0 (.write (0xFE00 + i * 8 + key % 4 - 2) (if s.link2x i then none else some t.tag) false (t.dest + 256 * k) row)

/-- OUTBOUND_STREAM_SEND (R288, R289): the oldest row pushed into an outbound stream leaves on its own link, if that takes
it; rows of an unloaded block's stream go before those of a new one. -/
def execOutboundStreamSend (a : LinkNo) (stream : Fin 2) (s : State) : Host.Outcome State Fault Refusal :=
  let key := a.val * 4 + 2 + stream.val
  .next <|
    if s.takesWrite a.val then
      match s.draining.find? fun x => x.1 == key with
      | some x =>
        match x.2.rows with
        | [] => { s with draining := s.draining.erase x }
        | (k, row) :: rest =>
          let left := s.draining.flatMap fun y =>
            if y = x then (if rest.isEmpty then [] else [(key, { x.2 with rows := rest })]) else [y]
          ({ s with draining := left }).streamWrite key x.2 k row
      | none =>
        match tfind s.streams key with
        | none => s
        | some t =>
          match t.rows with
          | [] => s
          | (k, row) :: rest => ({ s with streams := tins s.streams key { t with rows := rest } }).streamWrite key t k row
    else s

end Sys2Proof.Machine
end

