-- ==== Sys2Proof/Machine/Boot.lean ====
section
/-! DEFINITION. Pins, resets, bring-up's stages, the learned-defect and security fuses, and the causes of FAULTED (R17 to
R38, R144, R436 to R474, R535 to R537, R551, R567 to R584). -/

namespace Sys2Proof.Machine

/-! ### Pins the die drives (R23, R24) -/

/-- THERM_TRIP_N and ALERT_N as the die drives them. -/
def State.thermTripN (s : State) : Bool := !s.tripped
def State.alertN (s : State) : Bool :=
  let hot := (List.range 64).any fun k => s.bit (F.telTempValid k) && atLeast16 (s.fld (F.telTempTemp k)) 1760
  !(s.ready == rdFaulted || hot || s.log.any EvRec.waiting)

/-! ### Resets (R22, R36, R437, R466, R468, R575) -/

/-- Every bank undefined (R145). -/
def State.allLost (s : State) : Mem := { lost := (List.range 1536).map fun b => (b, s.fresh) }

/-- The fuse array after a reset: a commit cut short leaves a spent slot (R453). -/
def State.cutCommit (s : State) : Fuses :=
  match s.commits with
  | (kind, unit, detail) :: _ =>
    if s.fuses.journal.length < 192 then
      { s.fuses with journal := s.fuses.journal ++ [{ kind, unit, detail := detail % 2 ^ 21, valid := false }] }
    else s.fuses
  | [] => s.fuses

/-- The die in a cold reset: fuses stay, and the levels of pins. -/
def State.cold (s : State) : State :=
  { State.reset with pending := s.pending, fuses := s.cutCommit, fresh := s.fresh + 1, mem := s.allLost, perst := s.perst,
                     refclk := s.refclk, hold22 := some 1 }

/-- Register fields that a warm reset keeps (R468, R575); the test mode lasts to the next cold reset (R26; log 59). -/
def warmKeeps (key : Nat) : Bool :=
  let a := key / 32
  (decide (0x64 ≤ a) && decide (a ≤ 0x6C)) || (decide (0x70 ≤ a) && decide (a ≤ 0x94) && key % 32 != 15) ||
    [F.fltEvtNext, F.evgBootTestMode, F.evgBootReady].any fun f => f.key == key

/-- The stage that a warm reset cuts short, and its time so far (R437). -/
def State.cutStage (s : State) : Option (Nat × Nat) :=
  if s.stage = 0 then s.abandoned
  else if s.fld F.evgBootState = 0 ∧ s.stage ≤ 8 then some (s.stage, s.time - s.stageStart)
  else none

/-- The die in a warm reset: what the evergreen domain keeps stays (R36, R559, R561, R583). -/
def State.warm (s : State) : State :=
  let run := if s.memRuns then { s.memRun with op := none, finished := some s.time } else { s.memRun with op := none }
  let s' : State :=
    { State.reset with pending := s.pending, fuses := s.cutCommit, fresh := s.fresh + 1, mem := s.allLost,
                       regs := (s.resetFlds fun k => !warmKeeps k).regs, log := s.log, time := s.time,
                       dieback := s.dieback.map fun d => if s.commits.contains (d.kind, d.unit, d.detail) then { d with retry := true } else d,
                       hostClock := s.hostClock, hostClockAt := s.hostClockAt, pwrgd := s.pwrgd, refclk := s.refclk,
                       hold22 := some 2, s0Over := s.s0Over, fuseBad := s.fuseBad, selfCheckOk := s.selfCheckOk,
                       lastCode := s.lastCode, abandoned := s.cutStage, memRecord := s.memRecord, memRun := run,
                       tapOut := s.tapOut, tapCells := s.tapCells, tapDrive := s.tapDrive, wdogAt := s.time }
  let s' := (s'.setFld F.evgBootWarm 1).setFld F.evgFuseJournalCommitActive 0
  let s' := if s.memRuns then s'.setFld F.evgMemtestState 4 else s'
  (if s.s0Over then s'.applyFused else s').setReady rdBooting

/-! ### The stop of clocks and links by a fault (R23, R34, R571, R584) -/

/-- A link's transmitter idle: it carries nothing until it trains again, and what it held is discarded (R38, R41; log 62). -/
def State.quietLink (s : State) (i : Nat) : State :=
  let st := s.linkState i
  let s := (s.discardLink i).clearLink i (if st = lkDisabled ∨ st = lkFailed then st else lkDetect)
  s.setLink i { s.link i with listening := false }

/-- Some links quiet until a reset, core clocks stopped. -/
def State.stopAll (s : State) (links : List Nat) : State :=
  let t := links.foldl (fun s i => s.quietLink i) s
  { t with clocksOff := true, txIdle := links.foldl setBit t.txIdle }

/-- A lost reference (R34). -/
def State.refStop (s : State) : State :=
  ((s.logEvent svFault 0 0 0x0606 0 0 0).enterFaulted 1).stopAll (List.range 32)

/-- Kernels running and queued completed with HW_FAULT: with the clocks stopped and the links idle nothing that a core
waits for can come (R571; log 63). -/
def State.abortAll (s : State) : State :=
  s.kernels.foldl (fun s k =>
    if k.started then
      let s := k.phys.foldl (fun s p =>
        let s := s.setCore p { s.core p with mxRun := none, mxDrain := none, vxRun := none, postsOut := 0 }
        (s.setFld (F.mxeStatusBusy p) 0).setFld (F.vxeStatusBusy p) 0) s
      s.abortKernel k 0 0 stHwFault
    else s.completeKernel { k with aborted := some (0, 0, stHwFault) }) s

/-- Every bound channel of every engine halted, its descriptor completed with HW_FAULT (R571). -/
def State.haltAll (s : State) : State :=
  (List.range 8).foldl (fun s e => (s.boundChans e).foldl (fun s j =>
    let c := e * 64 + j
    if (s.chan c).run.isSome then s.dmaKill c (fun _ => true) true
    else if s.chState c = chHalted then s
    else s.haltChan c stHwFault (s.fld (F.queHead (s.fld (F.dmaChStatusQueue e j))))) s) s

/-- A fault of Hedger or of the evergreen domain: causes 4, 5, 6 and 8 (R571). -/
def State.hedgerStop (s : State) (cause pc : Nat) : State :=
  let was := s.ready
  let s := (s.logEvent svFault 0 0 0x0901 0 0 (cause + pc * 2 ^ 32)).enterFaulted cause
  if was = rdFaulted then s else ((s.abortAll.haltAll).stopAll (List.range 30)).unitWork

/-! ### Stage S0 and the start of S1 (R22, R26, R31, R34, R436, R439, R545) -/

/-- S0 begins. -/
def State.beginS0 (s : State) : State :=
  let s := { s with time := 0, stageStart := 0, s0Over := false }
  if s.refclk then s else s.refStop

/-- S1 begins at the later of the end of S0 and the rise of PERST_N, once no reset is held; a die whose clocks a trip or a
lost reference has stopped starts nothing (R23, R34, R37). A die with a bad fuse field only trains U0 and U1 (R439). -/
def State.tryS1 (s : State) : State :=
  if s.alive ∧ s.perst ∧ s.s0Over ∧ s.stage = 0 ∧ s.clocksOff = false then
    if s.fuseBad then (s.setFld F.evgBootState 2).beginS1
    else if s.ready = rdFaulted then s
    else s.startStage 1
  else s

/-- PWRGD_EVG_RISE: TEST_MODE is sampled and S0 begins, or waits for the end of a held reset. -/
def execPwrgdEvgRise (testMode : Bool) (s : State) : Host.Outcome State Fault Refusal :=
  .next <|
    if s.pwrgd then s
    else
      let s := { s with pwrgd := true }.setFld F.evgBootTestMode testMode.toNat
      if s.hold22.isNone then s.beginS0 else s

/-- COLD_RESET: PWRGD_EVG low for a time (R22). The S0 that follows meets a reference that is still missing (R34). -/
def execColdReset (lowNs : Nat) (s : State) : Host.Outcome State Fault Refusal :=
  .next (if lowNs < 100 ∨ ¬ s.pwrgd then s else s.cold)

/-- WARM_RESET: PERST_N low for a time. While THERM_TRIP_N is low, and in a cold reset, only the pin's level counts (R37).
A warm reset does not rerun S0 (R36, R559): S0, in the evergreen domain, goes on, and S1 waits (R31; log 60). The die stays
FAULTED for a reference that has not returned (R34; log 61). -/
def execWarmReset (lowNs : Nat) (s : State) : Host.Outcome State Fault Refusal :=
  .next <|
    if lowNs < 100 ∨ ¬ s.perst then s
    else if ¬ s.pwrgd ∨ s.hold22 = some 1 ∨ s.tripped then { s with perst := false }
    else if s.refclk then s.warm
    else s.warm.refStop

/-- RESET_HOLD_END: 10 µs from the fall have passed. -/
def execResetHoldEnd (s : State) : Host.Outcome State Fault Refusal :=
  .next <| match s.hold22 with
    | none => s
    | some 1 =>
      let s := { s with hold22 := none }
      if s.pwrgd then s.beginS0 else s
    | some _ => ({ s with hold22 := none }).tryS1

/-- PERST_N_RISE. -/
def execPerstNRise (s : State) : Host.Outcome State Fault Refusal :=
  .next (if s.perst then s else ({ s with perst := true }).tryS1)

/-- S0_END: the fuses are sensed; spent journal slots are reported (R438, R453). -/
def execS0End (fuseError selfCheckOk : Bool) (s : State) : Host.Outcome State Fault Refusal :=
  .next <|
    if ¬ s.pwrgd ∨ s.hold22 = some 1 ∨ s.s0Over ∨ ¬ s.inStage 0 then s
    else
      let s := { s with time := max s.time 10000, s0Over := true, fuseBad := fuseError, selfCheckOk }
      let s := s.applyFused
      let s :=
        if fuseError then (s.failStage 1).enterFaulted 2
        else (if s.fuses.journal.all (fun x => x.valid) then s else s.lose 0 2).reportPass
      s.tryS1

/-! ### Faults from outside -/

/-- THERMAL_TRIP (R23, R571). -/
def execThermalTrip (sensor : Fin 64) (reading : BitVec 16) (s : State) : Host.Outcome State Fault Refusal :=
  .next <|
    if ¬ s.pwrgd ∨ s.hold22 = some 1 ∨ s.tripped ∨ ¬ atLeast16 reading.toNat 1840 then s
    else
      let s := { s with tripped := true }.logEvent svFault 7 0 0x0605 sensor.val 0 reading.toNat
      (s.enterFaulted 7).stopAll (List.range 32)

/-- REFCLK_LOST (R34). -/
def execRefclkLost (s : State) : Host.Outcome State Fault Refusal :=
  .next <|
    if ¬ s.refclk then s
    else
      let s := { s with refclk := false }
      if ¬ s.pwrgd ∨ s.hold22 = some 1 then s else s.refStop

/-- REFCLK_RESTORED: the die stays FAULTED until a reset (R34, R572). -/
def execRefclkRestored (s : State) : Host.Outcome State Fault Refusal := .next { s with refclk := true }

/-- HEDGER_WATCHDOG: TIMEOUT_MS has passed since the watchdog started, and it does not run in sleep (R571, R574, R575). -/
def execHedgerWatchdog (hedgerPc : Word) (s : State) : Host.Outcome State Fault Refusal :=
  .next <|
    if ¬ s.alive ∨ ¬ s.bit F.fltWdogEn ∨ ¬ s.dieAwake then s
    else ({ s with time := max s.time (s.wdogAt + s.fld F.fltWdogTimeoutMs * 1000) }).hedgerStop 4 hedgerPc.toNat

/-- HEDGER_FAULT: an error in Hedger SRAM (5) or retention (6), or a firmware trap (8), of firmware that runs (R448,
R571). -/
def execHedgerFault (cause : Fin 9) (hedgerPc : Word) (s : State) : Host.Outcome State Fault Refusal :=
  .next <|
    if ¬ s.alive then s
    else if cause.val = 5 ∨ cause.val = 6 ∨ (cause.val = 8 ∧ 3 ≤ s.stage) then s.hedgerStop cause.val hedgerPc.toNat
    else s

/-- WDOG_KICK (R574). -/
def execWdogKick (s : State) : Host.Outcome State Fault Refusal := .next { s with wdogAt := s.time }

/-! ### Time limits (R436, R438, R579) -/

/-- S1's limit: it passes if only another substrate link still trains. -/
def State.s1Limit (s : State) : State :=
  if s.bit F.evgPlacementValid ∧ (s.linkUp 30 ∨ s.linkUp 31) then s.passStage 1
  else s.failStage (if s.wordSeen ∧ ¬ s.bit F.evgPlacementValid then 5 else 3)

/-- The clock at a time since the current stage began, or after it. -/
def State.runTo (s : State) (us : Nat) : State := { s with time := max s.time (s.stageStart + us) }

/-- S1_PLACEMENT_TIMEOUT. -/
def execS1PlacementTimeout (s : State) : Host.Outcome State Fault Refusal :=
  .next (if s.inStage 1 ∧ ¬ s.testMode then (s.runTo 5000000).s1Limit else s)

/-- R44 at the end of S4. -/
def State.s4Done (s : State) : State :=
  if ((List.range 24).filter s.linkUp).length < 12 then s.failStage 1 else s.passStage 4

/-- STAGE_TIME_LIMIT: S4 ends as R459 says; S5, S7 and S8 fail with no reason, as R438 gives them none (log 64). -/
def execStageTimeLimit (s : State) : Host.Outcome State Fault Refusal :=
  .next <|
    if s.inStage 1 ∧ ¬ s.testMode then (s.runTo 5000000).s1Limit
    else if s.inStage 3 then (s.runTo 5000000).failStage 5
    else if s.inStage 4 then (s.runTo 3500000).s4Done
    else if s.inStage 5 then (s.runTo 2000000).failStage 0
    else if s.inStage 6 ∧ s.memRuns then (s.runTo 600000000).memEnd false 0 3
    else if s.inStage 7 ∨ s.inStage 8 then (s.runTo 1000000).failStage 0
    else s

/-! ### S3 (R57 to R59, R144, R299, R449 to R454) -/

/-- Whether a journal slot holds an entry. -/
def JournalSlot.holds (j : JournalSlot) (d : Dieback) : Bool :=
  j.valid && j.kind == d.kind && j.unit == d.unit && j.detail == d.detail % 2 ^ 21

/-- FUSED of every entry as the journal has it (R450). -/
def State.markFused (s : State) : State :=
  { s with dieback := s.dieback.map fun d => { d with fused := s.fuses.journal.any fun j => j.holds d } }

/-- Factory fuses, learned fuses and restored settings merged into the entries in retention (R449). -/
def State.mergeDieback (s : State) : State :=
  let s := s.fuses.factory.foldl (fun s e => s.addDieback e.1 0 e.2.1 e.2.2 0) s
  let s := (s.fuses.journal.filter fun j => j.valid).foldl (fun s j => s.addDieback j.kind 1 j.unit j.detail 0) s
  let s := match s.restored with
    | some r => r.dieback.foldl (fun (s : State) e => s.addEntry e) s
    | none => s
  s.markFused

/-- Whether S3 tests the unit of a defect under a dieback list (R449). -/
def tested (l : List Dieback) (d : Defect) : Bool :=
  match d.kind.val with
  | 1 | 4 => decide (d.unit < 96) && !excludes l d.unit
  | 2 => decide (d.unit < 24) && (List.range 4).any fun q => !excludes l (4 * d.unit + q)
  | 3 => decide (d.unit < 24) && !(l.any fun x => x.kind == 3 && x.unit == d.unit)
  | _ => false

/-- Cores with a bank that needs more than 8 spare rows (R144). -/
def shortOfSpares (l : List Dieback) : List Nat :=
  (List.range 96).filter fun p => !excludes l p && (List.range 16).any fun b =>
    decide (8 < (l.filter fun d => d.kind == 4 && d.unit == p && d.detail / 2 ^ 14 % 16 == b).length)

/-- Entries to be committed at the end of S3: those it found or confirmed, and those of an earlier start whose commit was
refused or cut short (R25, R452, R453). -/
def State.toCommit (s : State) (found : List Defect) : List (Nat × Nat × Nat) :=
  (s.dieback.filter fun d => decide (1 ≤ d.kind) && decide (d.kind ≤ 4) && !d.fused && (d.source == 2 || d.retry ||
    found.any fun f => f.kind.val == d.kind && f.unit == d.unit && f.detail == d.detail)).map fun d => (d.kind, d.unit, d.detail)

/-- Commits that begin or wait (R452). -/
def State.queueCommits (s : State) (l : List (Nat × Nat × Nat)) : State :=
  let new := l.filter fun e => !s.commits.contains e
  if new.isEmpty then s else { s with commits := s.commits ++ new }.setFld F.evgFuseJournalCommitActive 1

/-- Every bank of every logical core zero (R144). -/
def State.zeroFill (s : State) : State :=
  { s with mem := { cells := [], lost := s.mem.lost.filter fun b => !s.coreMap.testBit (b.1 / 16) } }

/-- The rows that spare rows stand in for, by bank: those of the ROW entries of cores that are kept (R144). -/
def sparesOf (l : List Dieback) : List (Nat × List Nat) :=
  (l.filter fun d => d.kind == 4 && !excludes l d.unit).foldl (fun m d =>
    tmod [] m (d.unit * 16 + d.detail / 2 ^ 14 % 16) (· ++ [d.detail / 2 ^ 4 % 1024])) []

/-- S3_SELF_TEST_DONE: the stage ends once its commits have. -/
def execS3SelfTestDone (found : List Defect) (s : State) : Host.Outcome State Fault Refusal :=
  .next <|
    if ¬ s.inStage 3 ∨ s.commits ≠ [] then s
    else
      let s := s.mergeDieback
      let held := s.dieback
      let s := (found.filter (tested held)).foldl (fun s d => s.addDieback d.kind.val 2 d.unit d.detail 0) s
      let s := (shortOfSpares s.dieback).foldl (fun s p => s.addDieback 1 2 p 0 0) s
      let s := if s.dieback = held then s else s.lose 3 2
      let s := s.queueCommits (s.toCommit found)
      if s.remaining < 92 then s.failStage 1
      else
        let s := ((s.number 1).failRouters).zeroFill
        let s := { s with spares := sparesOf s.dieback }
        if s.commits.isEmpty then s.passStage 3 else s

/-- An entry whose commit was refused is to be committed at the next start (R25). -/
def State.refuseCommit (s : State) (kind unit detail : Nat) : State :=
  { s with dieback := s.dieback.map fun d =>
      if d.kind = kind ∧ d.unit = unit ∧ d.detail = detail then { d with retry := true } else d }

/-- FUSE_COMMIT: the oldest commit finishes, or is refused for want of FUSE_VPP or of a free slot (R25, R452 to R454). -/
def execFuseCommit (vppMv : Nat) (s : State) : Host.Outcome State Fault Refusal :=
  .next <| match s.commits with
    | [] => s
    | (kind, unit, detail) :: rest =>
      let slot := s.fuses.journal.length
      let u := if kind = 1 ∨ kind = 4 then s.coreUnit unit else (3, unit)
      let low := decide (vppMv < 1600)
      let s : State := { s with commits := rest }.setFld F.evgFuseJournalVppRefused low.toNat
      let s : State :=
        if low ∨ 192 ≤ slot then ((s.refuseCommit kind unit detail).logEvent svWarning u.1 0 0x0102 u.2 0 (0xFF + kind * 2 ^ 8)).lose 3 3
        else
          let j : JournalSlot := { kind, unit, detail := detail % 2 ^ 21, valid := true }
          ({ s with fuses := { s.fuses with journal := s.fuses.journal ++ [j] } }.markFused).logEvent svInfo u.1 0 0x0102 u.2 0
            (slot + kind * 2 ^ 8)
      if rest.isEmpty then
        let s := s.setFld F.evgFuseJournalCommitActive 0
        if s.inStage 3 ∧ s.nLogical ≠ 0 then s.passStage 3 else s
      else s

/-- FENCE_RETEST: a unit that fails its retest is committed to the journal (R452). -/
def execFenceRetest (p : CoreNo) (passed : Bool) (s : State) : Host.Outcome State Fault Refusal :=
  .next <|
    if passed ∨ s.nLogical = 0 ∨ (s.logical p.val).isSome ∧ ¬ s.fencedCore p.val then s
    else
      match s.dieback.find? fun d => !d.fused && ((d.kind == 1 && d.unit == p.val) ||
          ((d.kind == 2 || d.kind == 3) && d.unit == clumpOf p.val)) with
      | some d => s.queueCommits [(d.kind, d.unit, d.detail)]
      | none => s

/-! ### S4 to S9 (R44, R271, R459, R460, R464, R465, R474, R537) -/

/-- S4_END: every base and peer link with a partner is ACTIVE or FAILED, or 3.5 s have passed. -/
def execS4End (timeUp : Bool) (s : State) : Host.Outcome State Fault Refusal :=
  .next <|
    let ended := (List.range 30).all fun i => !s.linkExists i || s.linkState i == lkActive || s.linkState i == lkFailed
    if ¬ s.inStage 4 ∨ ¬ (timeUp ∨ ended) then s
    else (if timeUp then s.runTo 3500000 else s).s4Done

/-- S5_END: no link of the qualification is still tested (R460). -/
def execS5End (s : State) : Host.Outcome State Fault Refusal :=
  .next (if s.inStage 5 ∧ s.qualifying.all (fun i => s.linkState i != lkBerTest) then s.passStage 5 else s)

/-- S7_INIT. -/
def execS7Init (s : State) : Host.Outcome State Fault Refusal :=
  .next <|
    if ¬ s.inStage 7 then s
    else
      let clears := fun (k : Nat) =>
        let a := k / 32
        (decide (0x100000 ≤ a) && decide (a < 0x298000)) || (decide (0x30800 ≤ a) && decide (a < 0x31000))
      let s := { s with queues := [], chans := [], binders := [] }.resetFlds clears
      let net := (s.restored.bind Restored.network).getD (1024, 1)
      let s := (s.setFld F.plnPeriod net.1).setFld F.plnOpen net.2
      ((s.setFld F.calStatusApplied 1).applyCal).passStage 7

/-- S8_FINALISE: S9 follows at once, unless it is held. -/
def execS8Finalise (s : State) : Host.Outcome State Fault Refusal :=
  .next (if s.inStage 8 then (s.setFld F.secStatusMeasFinal 1).passStage 8 else s)

/-- Fuses of a row programmed from one count to a higher one, ascending (R537). -/
def fuseUpTo (m n k : Nat) : Nat := (List.range (k - n)).foldl (fun m i => setBit m (n + i)) m

/-- SECURITY_ADVANCE: up to `fuses` more fuses are programmed, the counter's first; a reset can come before the last. The
advance is refused for this start if FUSE_VPP is low (R25, R537). -/
def execSecurityAdvance (vppMv fuses : Nat) (s : State) : Host.Outcome State Fault Refusal :=
  .next <| match s.firmware with
    | none => s
    | some im =>
      if ¬ s.bit F.secStatusAdvancePending ∨ s.advanceRefused ∨ s.ready = rdFaulted ∨ ¬ s.alive then s
      else if vppMv < 1600 then
        let s := { s with advanceRefused := true }.setFld F.evgFuseJournalVppRefused 1
        s.logEvent svWarning 0 0 0x0102 0 0 0xFF
      else
        let c := s.fuses.counter
        let r := s.fuses.revokeIndex
        let c' := max c (min im.advanceTo (c + fuses))
        let left := if c' < im.advanceTo then 0 else fuses - (c' - c)
        let r' := max r (min im.revokeTo (r + left))
        let f := { s.fuses with svn := fuseUpTo s.fuses.svn c c', revoked := fuseUpTo s.fuses.revoked r r' }
        let s := ({ s with fuses := f }.setFld F.evgFuseJournalVppRefused 0).senseSec
        if im.advanceTo ≤ c' ∧ im.revokeTo ≤ r' then s.setFld F.secStatusAdvancePending 0 else s

/-! ### The test access port (R26, R27, R551 to R553) -/

/-- An element of a list of numbers of a fuse field replaced by its bits with more programmed. -/
def orAt (l : List Nat) (i v : Nat) : List Nat :=
  let l := l ++ List.replicate (i + 1 - l.length) 0
  l.set i ((l[i]?).getD 0 ||| v)

def orByte (l : List Byte) (i v : Nat) : List Byte := (orAt (l.map BitVec.toNat) i v).map fun n => BitVec.ofNat 8 n

/-- A fuse field by number: 0 to 9 the scalars of R545's summary and operating points, 10 sensor offsets, 11 energy model,
12 equalisation seeds, 13 retention voltages, 14 certificate digest, 15 vendor keys (slot × 32 + byte). The identity seed
has no number (R553). -/
def Fuses.field (f : Fuses) (n i : Nat) : Nat :=
  let b := fun (l : List Byte) => (((l[i]?).map BitVec.toNat)).getD 0
  match n with
  | 0 => f.grade
  | 1 => f.revision
  | 2 => f.mapRevision
  | 3 => f.maker
  | 4 => f.fmax
  | 5 => f.designMw
  | 6 => f.sramVmin
  | 7 => f.retVmin
  | 8 => if i = 0 then f.qual.1 else if i = 1 then f.qual.2.1 else f.qual.2.2
  | 9 => let o := (f.ops[i / 2]?).getD (0, 0); if i % 2 = 0 then o.1 else o.2
  | 10 => (f.offsets[i]?).getD 0
  | 11 => b f.energyModel
  | 12 => b f.eqSeeds
  | 13 => b f.coreVmin
  | 14 => b f.certDigest
  | _ => ((((f.vendor[i / 32]?).getD [])[i % 32]?).map BitVec.toNat).getD 0

/-- Unprogrammed bits of a factory field programmed; none is ever cleared (R553). -/
def Fuses.program (f : Fuses) (n i v : Nat) : Fuses :=
  match n with
  | 0 => { f with grade := f.grade ||| v }
  | 1 => { f with revision := f.revision ||| v }
  | 2 => { f with mapRevision := f.mapRevision ||| v }
  | 3 => { f with maker := f.maker ||| v }
  | 4 => { f with fmax := f.fmax ||| v }
  | 5 => { f with designMw := f.designMw ||| v }
  | 6 => { f with sramVmin := f.sramVmin ||| v }
  | 7 => { f with retVmin := f.retVmin ||| v }
  | 8 =>
    let q := f.qual
    { f with qual := if i = 0 then (q.1 ||| v, q.2) else if i = 1 then (q.1, q.2.1 ||| v, q.2.2) else (q.1, q.2.1, q.2.2 ||| v) }
  | 9 =>
    let l := f.ops ++ List.replicate (i / 2 + 1 - f.ops.length) (0, 0)
    let o := (l[i / 2]?).getD (0, 0)
    { f with ops := l.set (i / 2) (if i % 2 = 0 then (o.1 ||| v, o.2) else (o.1, o.2 ||| v)) }
  | 10 => { f with offsets := orAt f.offsets i v }
  | 11 => { f with energyModel := orByte f.energyModel i v }
  | 12 => { f with eqSeeds := orByte f.eqSeeds i v }
  | 13 => { f with coreVmin := orByte f.coreVmin i v }
  | 14 => { f with certDigest := orByte f.certDigest i v }
  | _ =>
    let l := f.vendor ++ List.replicate (i / 32 + 1 - f.vendor.length) []
    { f with vendor := l.set (i / 32) (orByte ((l[i / 32]?).getD []) (i % 32) v) }

/-- The sideband pins as the boundary cells capture them, in the order R552 lists them (log 65). -/
def State.boundary (s : State) : Nat :=
  s.pwrgd.toNat + s.perst.toNat * 2 + s.thermTripN.toNat * 4 + s.alertN.toNat * 8 + s.testMode.toNat * 16

/-- What the port shifts out in BYPASS: what was shifted in, one bit later. -/
def tapBypass (shift : DWord) : Nat := shift.toNat * 2 % 2 ^ 64

/-- IJTAG_ACCESS: a fuse field read or programmed; any other segment's content is a free value (R552, R553; log 66). -/
def State.ijtag (s : State) (fuse : Option FuseAccess) : State :=
  match fuse with
  | none => { s.drew with tapOut := s.draw 0x552 }
  | some a =>
    match a.program with
    | none => { s with tapOut := s.fuses.field a.field.val a.index }
    | some (v, vpp) => if vpp < 1600 then s else { s with fuses := s.fuses.program a.field.val a.index v }

/-- TEST_ACCESS_PORT_INSTRUCTION (R27, R552): a code the port does not offer acts as BYPASS. -/
def execTestAccessPortInstruction (ir : Byte) (shift : DWord) (fuse : Option FuseAccess) (s : State) :
    Host.Outcome State Fault Refusal :=
  let n := ir.toNat
  .next <|
    if ¬ s.pwrgd then s
    else if n = 0x01 then
      { s with tapOut := s.fuses.revision % 16 * 2 ^ 28 + 0x0960 * 2 ^ 12 + s.fuses.maker % 2 ^ 11 * 2 + 1, tapDrive := 0 }
    else if n = 0x11 then
      { s with tapOut := s.regWord 0x60 + s.regWord 0x60000 * 2 ^ 32 + s.regWord F.telTempMaxTemp.addr * 2 ^ 64, tapDrive := 0 }
    else if s.testMode ∧ n = 0x02 then { s with tapOut := s.boundary, tapCells := shift.toNat % 32, tapDrive := 0 }
    else if s.testMode ∧ n = 0x03 then { s with tapOut := s.boundary, tapCells := shift.toNat % 32, tapDrive := 1 }
    else if s.testMode ∧ n = 0x04 then { s with tapOut := tapBypass shift, tapDrive := 1 }
    else if s.testMode ∧ n = 0x05 then { s with tapOut := tapBypass shift, tapDrive := 2 }
    else if s.testMode ∧ n = 0x10 then { s with tapDrive := 0 }.ijtag fuse
    else { s with tapOut := tapBypass shift, tapDrive := 0 }

end Sys2Proof.Machine
end

