-- ==== Sys2Proof/Machine/Dispatcher.lean ====
section
/-! DEFINITION. The queue dispatcher: work entries and their checks (R106, R315, R340, R434), kernel images and
launches (R67, R105, R107 to R113, R295, R296, R432, R568). -/

namespace Sys2Proof.Machine

/-! ### Reading -/

/-- Bytes of this die's space 1, across logical cores; none where a core does not exist. -/
def State.bytesAt (s : State) (o : Nat) : Nat → List Byte
  | 0 => []
  | n + 1 =>
    (match s.phys (o / coreBytes) with
     | some p => s.mem.get (p * coreBytes + o % coreBytes)
     | none => 0) :: s.bytesAt (o + 1) n

/-- The status a local space-1 read of n bytes meets (R50, R62, R148). -/
def State.localReadStatus (s : State) (o n : Nat) : Nat :=
  let ls := (List.range 97).filter fun l => decide (o / coreBytes ≤ l) && decide (l ≤ (o + n - 1) / coreBytes)
  if s.nLogical ≤ (o + n - 1) / coreBytes then stBadParam
  else if ls.any fun l => match s.phys l with | some p => s.fencedCore p | none => true then stUnitFailed
  else if ls.any fun l => match s.phys l with
      | some p => s.power p == pwBare && !s.bit (F.spdRetainAutoWake p)
      | none => true then stPoweredDown
  else stOk

/-- The rejection of a dispatcher's read of n bytes that the die makes itself (R48, R50, R55, R107, R577), OK if none. -/
def State.readStatus (s : State) (a n : Nat) : Nat :=
  if 2 ≤ addrSpace a ∨ (addrSpace a ≠ 0 ∧ 11 < addrPos a) then stBadParam
  else if s.isLocal a then s.localReadStatus (addrOff a) n
  else if ¬ (s.remoteLayoutOk a ∧ s.remoteLayoutOk (a + n - 1)) then stBadParam
  else if (s.linkForAddr a).isNone then stHwFault
  else stOk

/-- What the dispatcher's read of n bytes at a global address brings: `x` is what a read that leaves the die brought. -/
def State.dispatchRead (s : State) (a n : Nat) (x : Fetched) : Except Nat (List Byte) :=
  let st := s.readStatus a n
  if st ≠ stOk then .error st
  else if s.isLocal a then .ok (s.bytesAt (addrOff a) n)
  else
    match x with
    | .ok data => .ok data
    | .rejected st => .error st.toNat

/-- Whether a read that left the die met a rejection that R315 retries. -/
def State.readRetried (s : State) (a n : Nat) (x : Fetched) : Bool :=
  !s.isLocal a && s.readStatus a n == stOk &&
    match x with
    | .ok _ => false
    | .rejected st => st.toNat == stBusy || st.toNat == stHwFault

/-- Whether a write to a row of a local range has still to land: an unscheduled read waits for it (R134). -/
def State.readBusy (s : State) (a n : Nat) : Bool :=
  s.isLocal a && (List.range 97).any fun l =>
    match s.phys l with
    | some p => (s.routedTo p ++ (s.core p).inbox).any fun w =>
        decide (addrOff a / 256 ≤ (l * coreBytes + w.off) / 256) && decide ((l * coreBytes + w.off) / 256 ≤ (addrOff a + n - 1) / 256)
    | none => false

/-! ### Work entries (R315) -/

def weOpcode (b : List Byte) : Nat := leAt b 0 2
def weTag (b : List Byte) : Nat := leAt b 16 8
def weLength (b : List Byte) : Nat := leAt b 14 2

/-- A packet's bytes with the four of its CRC field taken as 0. -/
def withoutCrc (b : List Byte) (o : Nat) : List Byte := b.take o ++ [0, 0, 0, 0] ++ b.drop (o + 4)

/-- Parameter bytes that an opcode needs (R434). -/
def weNeeds (op : Nat) : Nat := if op = 0x1001 then 24 else if op = 0x1002 then 13 else 0

/-- The first check of R315 that an entry fails, OK if none. A BINDER_OP whose OP is above 3 fails as a parameter
(log 31); one with AWAIT is not known below version 4.1 (the feature table of R420). -/
def State.weStatus (s : State) (q : Nat) (b : List Byte) : Nat :=
  let n := weLength b
  if n < 32 ∨ 128 < n ∨ n % 4 ≠ 0 ∨ crc32c ((withoutCrc b 28).take n) ≠ leAt b 28 4 then stBadCrc
  else if weOpcode b < 0x1001 ∨ 0x1003 < weOpcode b then stBadOpcode
  else if weOpcode b = 0x1002 ∧ leAt b 44 1 = 3 ∧ s.session.agreed ≠ 0 ∧ s.session.agreed < 0x0401 then stBadOpcode
  else if leAt b 3 1 < 3 ∨ 4 < leAt b 3 1 then stBadVersion
  else if leAt b 24 4 ≠ s.fld (F.queSeason q) then stSeasonStale
  else if leAt b 12 1 ≠ s.fld (F.queCfgAccount q) then stBadParam
  else if n < 32 + weNeeds (weOpcode b) then stBadParam
  else if weOpcode b = 0x1002 ∧ 3 < leAt b 44 1 then stBadParam
  else stOk

/-- The kernel of a queue's ring index. -/
def State.kernelOf (s : State) (q idx : Nat) : Option Kernel := s.kernels.find? fun k => k.queue == q && k.idx == idx

/-- Whether an active entry has started (R106): a launch with its kernel, an AWAIT or FENCE only on completion. -/
def State.entryStarted (s : State) (q : Nat) (e : WorkEntry) : Bool :=
  if e.op = 3 ∨ e.op = 4 then false
  else if e.op = 5 then (match s.kernelOf q e.idx with | some k => k.started | none => true)
  else true

/-- Whether the dispatcher reads the entry at HEAD of a queue (R106, R305, R310, R341). -/
def State.mayRead (s : State) (q : Nat) : Bool :=
  s.fld (F.queCfgType q) == qtWork && !(s.queue q).destroying && decide (s.ringUsed q ≠ 0) &&
    (s.queue q).held.isEmpty && !s.ringFenced q && !s.clocksOff && s.dieAwake &&
    (s.queue q).active.all (s.entryStarted q)

/-- Whether a ring can be read now: its core, if a core holds it, is in Leaf, or the read is rejected (R148). -/
def State.ringAwake (s : State) (q : Nat) : Bool :=
  match (s.queue q).ringCore with
  | some p => s.power p == pwLeaf || (match s.meetCore p with | .ok _ => false | .error _ => true)
  | none => true

/-- Whether the dispatcher takes the entry at HEAD of a queue. -/
def State.canTake (s : State) (q : Nat) : Bool :=
  s.mayRead q && s.ringAwake q &&
    match (s.queue q).ringCore with
    | some p => !s.rowBusy p (s.slotAddr q (s.fld (F.queHead q)) 128 % coreBytes / 256)
    | none => true

/-- A core below Leaf that holds the ring an entry is due from is woken; the entry waits (R148). -/
def State.wakeRing (s : State) (q : Nat) : State :=
  if s.mayRead q then
    match (s.queue q).ringCore with
    | some p => if s.ringAwake q then s else (match s.meetCore p with | .ok s => s | .error _ => s)
    | none => s
  else s

/-- The cores that a read of n bytes at a local address reaches are woken, a rejection counted (R148). -/
def State.meetRead (s : State) (a n : Nat) : State :=
  if s.isLocal a ∧ addrSpace a = 1 then
    let o := addrOff a
    ((List.range 97).filter fun l => decide (o / coreBytes ≤ l) && decide (l ≤ (o + n - 1) / coreBytes)).foldl (fun s l =>
      match s.phys l with
      | some p => (match s.meetCore p with | .ok s => s | .error st => s.notePd p st)
      | none => s) s
  else s

/-- The entry at HEAD of a queue: `x` is what a read that leaves the die brought. -/
def State.entryAtHead (s : State) (q : Nat) (x : Fetched) : Except Nat (List Byte) :=
  let a := s.slotAddr q (s.fld (F.queHead q)) 128
  match (s.queue q).ringCore with
  | some p =>
    match s.meetCore p with
    | .ok _ => .ok (s.readCore p (a % coreBytes) 128)
    | .error st => .error st
  | none =>
    match s.dispatchRead a 128 x with
    | .ok b => .ok (slice b 0 128)
    | .error st => .error st

/-- The entry at HEAD taken: HEAD advances, QUE_ENTRIES counts it, and the entry is active until its record. The result is its ring index and
the order of the doorbell that covers it (R108). -/
def State.takeEntry (s : State) (q op tag address value : Nat) : State × Nat × Nat :=
  let x := s.queue q
  let idx := s.fld (F.queHead q)
  let order := ((x.bells.head?).map fun b => b.2).getD s.bells
  let s := (s.setFld (F.queHead q) (idx + 1)).addFld (F.queEntries q) 1
  let e : WorkEntry := { idx, tag, op, address, value }
  let x := { x with active := x.active ++ [e], bells := x.bells.filter fun b => b.1 ≠ (idx + 1) % 65536 }
  (s.setQueue q { x with readTries := 0, imageTries := 0, paramTries := 0 }, idx, order)

/-- An entry that passes its checks and has an opcode, with BINDER_OP's OP. -/
def State.goodEntry (s : State) (q : Nat) (x : Fetched) (opcode op : Nat) : Option (List Byte) :=
  if s.canTake q then
    match s.entryAtHead q x with
    | .ok b =>
      if s.weStatus q b = stOk ∧ weOpcode b = opcode ∧ (opcode ≠ 0x1002 ∨ leAt b 44 1 = op) then some b else none
    | .error _ => none
  else none

/-- Whether an entry's slot lies outside this die's banks, and its read met a rejection that is retried (R315). -/
def State.slotRetried (s : State) (q : Nat) (x : Fetched) : Bool :=
  (s.queue q).ringCore.isNone && s.readRetried (s.slotAddr q (s.fld (F.queHead q)) 128) 128 x &&
    decide ((s.queue q).readTries < 3)

/-- VALUE of the record of an entry that failed a check: a LAUNCH_KERNEL names no core (R338). -/
def failedValue (b : List Byte) (status : Nat) : Nat :=
  if weOpcode b = 0x1001 ∧ status ≠ stBadCrc then 0xFFFF else 0

/-- FAILED_WORK_ENTRY (R315): its read is rejected, and retried where that may help, or it fails a check; a record, and the
next entry. `port` is what the read of a slot in this die's banks met (R142, R143). -/
def execFailedWorkEntry (q : CtxNo) (entry : Fetched) (port : PortEvent) (s : State) : Host.Outcome State Fault Refusal :=
  .next <|
    if s.canTake q.val then
      if s.slotRetried q.val entry then
        s.setQueue q.val { s.queue q.val with readTries := (s.queue q.val).readTries + 1 }
      else
        let met := match (s.queue q.val).ringCore with
          | some p => s.port p 3 p true (unscheduledPort port)
          | none => (s, false)
        let s := met.1
        match if met.2 then .error stHwFault else s.entryAtHead q.val entry with
        | .error st =>
          let r := (match (s.queue q.val).ringCore with | some p => s.notePd p st | none => s).takeEntry q.val 6 0 0 0
          (r.1.completeWork q.val r.2.1 0 st 0).unitWork
        | .ok b =>
          let st := s.weStatus q.val b
          if st = stOk then s
          else
            let r := s.takeEntry q.val 6 (weTag b) 0 0
            (r.1.completeWork q.val r.2.1 (weTag b) st (failedValue b st)).unitWork
    else s.wakeRing q.val

/-- A BINDER_OP that issues one operation and completes with its answer (R434). -/
def State.binderEntry (s : State) (q : Nat) (b : List Byte) (op : Nat) : State :=
  let a := leAt b 32 8
  let r := s.takeEntry q op (weTag b) a (leAt b 40 4)
  if ¬ validBinderAddr a then (r.1.completeWork q r.2.1 (weTag b) stBadParam 0).unitWork
  else (r.1.issueBinder (a + 4 * op) (leAt b 40 4) (.work q r.2.1)).unitWork

/-- BINDER_OP ARRIVE. -/
def execBinderOpArrive (q : CtxNo) (entry : Fetched) (s : State) : Host.Outcome State Fault Refusal :=
  .next <| match s.goodEntry q.val entry 0x1002 0 with
    | some b => s.binderEntry q.val b 0
    | none => s.wakeRing q.val

/-- BINDER_OP ADD. -/
def execBinderOpAdd (q : CtxNo) (entry : Fetched) (s : State) : Host.Outcome State Fault Refusal :=
  .next <| match s.goodEntry q.val entry 0x1002 1 with
    | some b => s.binderEntry q.val b 1
    | none => s.wakeRing q.val

/-- BINDER_OP RESET. -/
def execBinderOpReset (q : CtxNo) (entry : Fetched) (s : State) : Host.Outcome State Fault Refusal :=
  .next <| match s.goodEntry q.val entry 0x1002 2 with
    | some b => s.binderEntry q.val b 2
    | none => s.wakeRing q.val

/-- BINDER_OP AWAIT: completes once the local binder's release has come; BAD_PARAM for a remote or FREE binder (R434). -/
def execBinderOpAwait (q : CtxNo) (entry : Fetched) (s : State) : Host.Outcome State Fault Refusal :=
  .next <| match s.goodEntry q.val entry 0x1002 3 with
    | some b =>
      let a := leAt b 32 8
      let v := leAt b 40 4
      let r := s.takeEntry q.val 3 (weTag b) a v
      let done := fun (st : Nat) => (r.1.completeWork q.val r.2.1 (weTag b) st 0).unitWork
      if ¬ validBinderAddr a ∨ ¬ s.isLocal a ∨ ¬ s.armed (binderNo a) then done stBadParam
      else if reached (s.fld (F.bndReleases (binderNo a))) v then done stOk
      else r.1
    | none => s.wakeRing q.val

/-- FENCE: completes once every earlier entry of its queue has (R106). -/
def execFenceEntry (q : CtxNo) (entry : Fetched) (s : State) : Host.Outcome State Fault Refusal :=
  .next <| match s.goodEntry q.val entry 0x1003 0 with
    | some b => (((s.takeEntry q.val 4 (weTag b) 0 0).1).settleFence q.val).unitWork
    | none => s.wakeRing q.val

/-! ### Kernel images (R105) -/

/-- The code table entry of rank j: its bytes. -/
def imgCode (b : List Byte) (j : Nat) : List Byte := slice b (leAt b 0x24 4 + 16 * j) 16

/-- Logical cores of CORE_SET. -/
def imgCores (b : List Byte) : List Nat := bitsOf 96 (leAt b 0x18 12)

/-- Whether an image's header and code table agree with R105 and R107; a header value outside the range its table gives
breaks it. -/
def State.imageOk (s : State) (b : List Byte) : Bool :=
  let size := leAt b 0x3C 4
  let cores := imgCores b
  let table := leAt b 0x24 4
  decide (leAt b 0 4 = 0x4B4E4C31) && leAt b 4 2 == 1 && leAt b 0x13 1 == 0 && zerosAt b 0x44 60 &&
    decide (leAt b 0x10 1 ≤ 1) && decide (leAt b 0x11 1 ≤ 15) && decide (leAt b 0x12 1 ≤ 15) &&
    decide (128 ≤ size) && decide (size ≤ 0x1000000) && decide (size ≤ b.length) &&
    crc32c ((withoutCrc b 0x40).take size) == leAt b 0x40 4 &&
    leAt b 0x14 4 != 0 && leAt b 0x14 4 == cores.length && cores.all (fun l => decide (l < s.nLogical)) &&
    table % 16 == 0 && decide (table + 16 * cores.length ≤ size) &&
    (leAt b 0x28 4 == 0 || decide (leAt b 0x28 4 + leAt b 0x2C 4 ≤ size)) &&
    decide (leAt b 0x30 4 + leAt b 0x34 4 ≤ size) && decide (leAt b 0x34 4 ≤ 4096) && leAt b 0x34 4 % 64 == 0 &&
    leAt b 0x38 4 % 64 == 0 && decide (leAt b 0x38 4 + leAt b 0x34 4 ≤ coreBytes) &&
    cores.zipIdx.all fun c =>
      let e := imgCode b c.2
      leAt e 0 2 == c.1 && leAt e 2 2 == 0 && leAt e 4 4 % 4 == 0 && decide (leAt e 4 4 + leAt e 8 4 ≤ size) &&
        decide (leAt e 8 4 ≤ 32768) && decide (leAt e 12 4 ≤ 8191)

/-- Instruction words of bytes. -/
def wordsOf (b : List Byte) : List Word := (List.range ((b.length + 3) / 4)).map fun i => BitVec.ofNat 32 (leAt b (4 * i) 4)

/-- The kernel that a checked image and entry ask for. -/
def State.kernelFrom (s : State) (q idx order : Nat) (e b param : List Byte) : Kernel :=
  let cores := imgCores b
  let code := cores.zipIdx.map fun c =>
    let x := imgCode b c.2
    (c.2, wordsOf (slice b (leAt x 4 4) (leAt x 8 4)), leAt x 12 4)
  let sched := if leAt b 0x28 4 = 0 then none else some (slice b (leAt b 0x28 4) (leAt b 0x2C 4))
  { queue := q, idx, tag := weTag e, account := leAt e 12 1, cores, phys := cores.filterMap s.phys, imageId := leAt b 8 8
    scoreboard := leAt b 0x10 1 == 1, phaseClass := leAt b 0x11 1, slack := leAt b 0x12 1, code, sched, param
    paramDest := leAt b 0x38 4, reload := leAt e 40 4 % 2 == 1, order }

/-- What the die reads for a launch: the image, as long as its header says, and the parameter block, none for one that
the image holds itself. `tries` says whether a rejection is retried (R107, R315). -/
structure LaunchReads where
  image : Except Nat (List Byte)
  imageAddr : Nat
  imageLen : Nat
  /-- The image's read met a rejection that is retried. -/
  retried : Bool

/-- The image's header, then as much as it says it holds (R105). -/
def State.readImage (s : State) (a : Nat) (x : Fetched) : LaunchReads :=
  match s.dispatchRead a 128 x with
  | .error st => { image := .error st, imageAddr := a, imageLen := 128, retried := s.readRetried a 128 x }
  | .ok h =>
    let n := max 128 (min (leAt (slice h 0 128) 0x3C 4) 0x1000000)
    { image := s.dispatchRead a n x, imageAddr := a, imageLen := n, retried := s.readRetried a n x }

/-- The parameter block of a launch: at PARAM_ADDR, or in the image (R107, R434). -/
def State.readParam (s : State) (a : Nat) (b : List Byte) (x : Fetched) : Except Nat (List Byte) :=
  if a = 0 then .ok (slice b (leAt b 0x30 4) (leAt b 0x34 4)) else s.dispatchRead a (leAt b 0x34 4) x

/-- Whether an image that could be read passes what comes before its parameter block is read: R105, R67, no fenced core. -/
def State.imageStatus (s : State) (b : List Byte) : Nat :=
  if ¬ s.imageOk b ∨ leAt b 6 2 ≠ s.fld F.evgNumberingEpoch then stBadParam
  else if (imgCores b).any fun l => match s.phys l with | some p => s.fencedCore p | none => true then stUnitFailed
  else stOk

/-- A launch whose reads are all there: its schedule block checked (R295), and the kernel waits for its start. -/
def State.acceptLaunch (s : State) (k : Kernel) : State :=
  match k.sched with
  | none => { s with kernels := s.kernels ++ [k] }
  | some x =>
    let reason := s.schedReason x k.slack
    if reason ≠ 0 then
      (((s.setFld F.plnLastRejectReason reason).setFld F.plnLastRejectQueue k.queue).completeWork k.queue k.idx k.tag
        stBadParam 0xFFFF).unitWork
    else if s.schedDead x then (s.completeWork k.queue k.idx k.tag stUnitFailed 0xFFFF).unitWork
    else { s with kernels := s.kernels ++ [k] }

/-- LAUNCH_KERNEL (R67, R107, R295, R432): the entry's checks, then the image's; a launch that passes waits for its cores
and slots. `image` and `param` are what reads that leave the die brought: a rejection that is retried leaves the entry at
the head, for the next try (R315). -/
def execLaunchKernel (q : CtxNo) (entry image param : Fetched) (s : State) : Host.Outcome State Fault Refusal :=
  .next <| match s.goodEntry q.val entry 0x1001 0 with
    | none => s.wakeRing q.val
    | some e =>
      let ia := leAt e 32 8
      let pa := leAt e 48 8
      let x := s.queue q.val
      let take := fun (s : State) => s.takeEntry q.val 5 (weTag e) 0 0
      let fail := fun (s : State) (st : Nat) => let r := take s
        (r.1.completeWork q.val r.2.1 (weTag e) st 0xFFFF).unitWork
      let space := fun (s : State) (a : Nat) => if 6 ≤ addrSpace a then s.addFld F.fltBadSpace 1 else s
      if s.bit F.tstStatusMissionTest then fail s stBusy
      else
        let img := s.readImage ia image
        let s := s.meetRead ia img.imageLen
        if s.readBusy ia img.imageLen then s
        else if img.retried ∧ x.imageTries < 3 then s.setQueue q.val { x with imageTries := x.imageTries + 1 }
        else
          match img.image with
          | .error st => fail (space s ia) st
          | .ok b =>
            let st := s.imageStatus b
            if st ≠ stOk then fail s st
            else
              let n := leAt b 0x34 4
              let s := if pa = 0 then s else s.meetRead pa n
              if pa ≠ 0 ∧ s.readBusy pa n then s
              else if pa ≠ 0 ∧ s.readRetried pa n param ∧ x.paramTries < 3 then
                s.setQueue q.val { x with paramTries := x.paramTries + 1 }
              else
                match s.readParam pa b param with
                | .error st => fail (space s pa) st
                | .ok p =>
                  let r := take s
                  r.1.acceptLaunch (r.1.kernelFrom q.val r.2.1 r.2.2 e b (slice p 0 n))

/-! ### Starting (R108 to R110) -/

/-- Whether two launches need a core or a slot in common (R108). -/
def Kernel.meets (j k : Kernel) : Bool :=
  j.phys.any (fun p => k.phys.contains p) ||
    (schedSections (j.sched.getD [])).any fun x => (schedSections (k.sched.getD [])).any fun y => sectionsMeet x y

/-- Whether an earlier launch waits for a core or slot of a launch (R108): doorbell order, then lower context. -/
def State.launchBehind (s : State) (k : Kernel) : Bool :=
  s.kernels.any fun j => !j.started && j.meets k &&
    (decide (j.order < k.order) || (j.order == k.order && decide (j.queue < k.queue)))

/-- Physical core p of rank j prepared (R109). -/
def State.prepare (s : State) (k : Kernel) (rank p l : Nat) : State :=
  let c := s.core p
  let code := (k.code[rank]?).getD (0, [], 0)
  let words := code.2.1.zipIdx
  let owner := some (k.imageId, code.1)
  let imem := if c.imemOwner = owner ∧ ¬ k.reload then c.imem else words.foldl (fun m w => tins m w.2 w.1) c.imem
  let regs := [(1, l), (2, rank), (3, k.cores.length), (4, k.paramDest)].foldl
    (fun m r => tset (0 : Word) m r.1 (BitVec.ofNat 32 r.2)) []
  let mx := if s.bit (F.mxeSrCtlFixed p) then s.fld (F.mxeSrSeed p) else s.draw (4 * p) % 2 ^ 64
  let vx := if s.bit (F.vxeSrCtlFixed p) then s.fld (F.vxeSrSeed p) else s.draw (4 * p + 1) % 2 ^ 64
  let c := { c with imem, imemOwner := owner, sregs := regs, guardRecs := [], acc := none }
  let c := { c with mxSeed := mx, mxDraws := 0, vxSeed := vx, vxDraws := 0, latch := 0 }
  let s := (s.setCore p c).writeCore p k.paramDest k.param
  let s := (s.clearEvents p 0xFFFF).sbClear p
  let s := ((s.setFld (F.corErrorFirstCode p) 0).setFld (F.corErrorCount p) 0).setFld (F.corErrorFirstPc p) 0
  let s := (s.setFld (F.corPostStatusStatus p) 0).setFld (F.corPostStatusRejects p) 0
  let s := (s.setFld (F.corPc p) code.2.2).setFld (F.corStatusMode p) (if k.scoreboard then 1 else 0)
  (s.setFld (F.corKernelAccount p) k.account).setFld (F.corKernelQueue p) k.queue

/-- Bytes of a channel's descriptor that are on their way to a physical core. -/
def State.dmaBytesTo (s : State) (c p : Nat) : Nat :=
  (((s.routedTo p ++ (s.core p).inbox).filter fun w => w.from_ == .dma c).map fun w => w.data.length).sum

/-- Whether a channel's descriptor writes into a core and has landed no byte there (R137). -/
def State.dmaUntouched (s : State) (c p : Nat) : Bool :=
  match (s.chan c).run with
  | none => false
  | some r =>
    match s.dmaPartIn r.bytes p, s.logical p with
    | some (lo, hi), some l =>
      let o := (s.dmaBase r.bytes).getD 0
      let sent := if dmDstFixed r.bytes then r.written else min (r.written - (l * coreBytes + lo - o)) (hi - lo)
      r.failed.isNone && decide (sent ≤ s.dmaBytesTo c p)
    | _, _ => false

/-- A scoreboard-mode kernel begins on a core: each descriptor that will write there gets its entry first (R137, R139). -/
def State.sbStart (s : State) (p : Nat) : State :=
  let cs := (s.chans.map (·.1)).filter fun c => s.dmaUntouched c p
  let s := cs.foldl (fun s c =>
    match (s.chan c).run with
    | some r => s.setChan c { s.chan c with run := some { r with sbPend := r.sbPend ++ [p] } }
    | none => s) s
  s.dmaEnterAll p

/-- Cores of a kernel that are prepared: each with its rank. -/
def State.prepareAll (s : State) (k : Kernel) (who : Nat → Bool) : State :=
  (((k.phys.zip k.cores).zipIdx).filter fun x => who x.1.1).foldl (fun s x => s.prepare k x.2 x.1.1 x.1.2) s

/-- The awake cores of a scoreboard-mode kernel that it has not begun on are prepared and begin (R110). -/
def State.beginAwake (s : State) (k : Kernel) (waiting : List Nat) : State :=
  let awake := fun p => waiting.contains p && s.power p == pwLeaf && !s.fencedCore p
  let s := (s.prepareAll k awake).drew
  let s := (k.phys.filter awake).foldl (fun s p => (s.setCoreState p csRunning).sbStart p) s
  let ks := s.kernels.map fun x =>
    if x.queue = k.queue ∧ x.idx = k.idx then { x with loading := waiting.filter fun p => !awake p && !s.fencedCore p } else x
  { s with kernels := ks }

/-- A kernel's block loaded and the kernel started: a scoreboard kernel on each core that is in Leaf, the others as they
come; a static one, all of whose cores are, in each half on the half's period boundary (R110). -/
def State.startKernel (s : State) (k : Kernel) : State :=
  let s := match k.sched with
    | some b => s.loadBlock k.queue k.idx b
    | none => s
  let at0 := fun (h : Nat) => s.fld (F.plnHalfIndex h) == 0
  let first := fun (x : PlnSection) => if at0 (halfOfClump x.clump) then { x with ran := 1 } else x
  let mine := fun (b : PlnBlock) => b.queue == k.queue && b.idx == k.idx
  let blocks := s.blocks.map fun b => if mine b then { b with sections := b.sections.map first } else b
  let kernels := s.kernels.map fun x =>
    if x.queue = k.queue ∧ x.idx = k.idx then { x with started := true, startTime := s.time } else x
  let s := { s with blocks, kernels }
  let s := if k.scoreboard then s.beginAwake k k.phys
    else
      k.phys.foldl (fun s p =>
        if at0 (halfOf p) then s.setCoreState p csRunning
        else (s.setCore p { s.core p with startWaits := true }).setCoreState p csLoading) ((s.prepareAll k fun _ => true).drew)
  (s.retarget 0 false).retarget 1 false

/-- KERNEL_START (R108 to R110, R341, R477, R496, R568): the first launch of a queue that has not started, unless a record
of the queue is held. Cores below Leaf are woken; a static-mode launch waits for them, a scoreboard-mode kernel that has
started begins on those that have come. A fence since the checks completes a launch with UNIT_FAILED. -/
def execKernelStart (q : CtxNo) (s : State) : Host.Outcome State Fault Refusal :=
  .next <| match s.kernels.find? fun k => k.queue == q.val && (!k.started || (k.aborted.isNone && !k.loading.isEmpty)) with
    | none => s
    | some k =>
      if s.clocksOff ∨ ¬ s.dieAwake then s
      else if k.started then s.beginAwake k k.loading
      else if s.launchBehind k ∨ (s.queue q.val).held ≠ [] then s
      else if k.phys.any s.fencedCore then
        (({ s with kernels := s.kernels.filter fun x => x.queue ≠ k.queue ∨ x.idx ≠ k.idx }).completeWork k.queue k.idx
          k.tag stUnitFailed 0xFFFF).unitWork
      else
        let free := k.phys.all fun p => s.coreState p == csIdle
        let slots := match k.sched with
          | some b => s.slotsFree b (!k.scoreboard)
          | none => true
        if !free || !slots then s
        else
          let s := k.cores.foldl (fun s l => s.dropRequest l stSuperseded) s
          let asleep := k.phys.filter fun p => s.power p != pwLeaf
          let s := asleep.foldl (fun s p => s.beginWake p 3) s
          if asleep = [] ∨ (k.scoreboard ∧ asleep ≠ k.phys) then s.startKernel k else s

end Sys2Proof.Machine
end

