-- ==== Sys2Proof/Machine/RegAccess.lean ====
section
/-! DEFINITION. Accesses of registers by the die's own agents: who may reach what, what a read does to RC fields and
64-bit pairs, what a write does to each field, and CTL (R7 to R11, R54, R62, R69 to R71, R86, R271, R284, R497 to R499,
R574, R578). -/

namespace Sys2Proof.Machine

/-! ### Reaching a register -/

/-- PWR registers of logical core l, if the address is one of them. -/
def pwrCoreOf (a : Nat) : Option Nat :=
  if 0x20400 ≤ a ∧ a < 0x20A00 then some ((a - 0x20400) / 0x10) else none

/-- Whether an address belongs to a block that die-level sleep switches off beside the cores' (R497). -/
def sleepsOff (a : Nat) : Bool :=
  (decide (0x80000 ≤ a) && decide (a < 0xE0000)) || (decide (0x100000 ≤ a) && decide (a < 0x400000))

/-- Where an access to a space-4 offset goes: the address in the register file, with a core's slot at its physical
number, or the status that answers it (R54, R62, R70, R71, R497, R498, R578; log 30). -/
def State.reachReg (s : State) (src : Agent) (a : Nat) : Except Nat Nat :=
  let asleep := decide (2 ≤ s.fld F.pwrDieStatusState)
  if a % 4 ≠ 0 then .error stBadParam
  else if 0x10000 ≤ a ∧ a < 0x20000 then (if src = .hedger then .ok a else .error stAuthFail)
  else if 0x400000 ≤ a ∧ a < 0xA00000 then
    match s.phys ((a - 0x400000) / 0x10000) with
    | none => .error stBadParam
    | some p =>
      let b := 0x400000 + p * 0x10000 + a % 0x10000
      if s.fencedCore p then .error stUnitFailed
      else if asleep ∨ s.power p = pwCoppice ∨ s.power p = pwBare ∨ s.power p = pwWaking then .error stPoweredDown
      else if (regAt b).isSome then .ok b else .error stBadParam
  else if asleep ∧ sleepsOff a then .error stPoweredDown
  else if inDist a ∨ (regAt a).isSome then .ok a
  else .error stBadParam

/-- An access answered POWERED_DOWN is counted (R498). -/
def State.countOff (s : State) (status : Nat) (f : Fld) : State := if status = stPoweredDown then s.addFld f 1 else s

/-! ### Reads -/

/-- The holding register of an agent (R11). -/
def State.holder (s : State) : Agent → Nat
  | .hedger => 0
  | .core l => 1 + (s.phys l.val).getD l.val
  | .dma e _ => 97 + e.val
  | .link _ => 0

/-- The word of a register as an agent's read returns it, PWR fields of absent cores as 0 (R499). -/
def State.readWord (s : State) (a : Nat) : Nat :=
  let n := s.nLogical
  match pwrCoreOf a with
  | some l => if n ≤ l then 0 else s.regWord a
  | none =>
    if 0x20100 ≤ a ∧ a < 0x20130 then s.regWord a % 2 ^ (4 * min 8 (n - (a - 0x20100) / 4 * 8)) else s.regWord a

/-- Pairs that are no counters and that no table reads under R11: addresses, a CRC, a binder's TARGET and UP. -/
def plainPairs : List Nat := [0x100008, 0xA4008, 0xA4010, 0xA4020, 0x200010, 0x200018]

/-- Whether a register is a 64-bit counter (R11). -/
def RDesc.counter (r : RDesc) : Bool := r.pair && !plainPairs.contains r.base

/-- What a read does: RC fields are cleared; the low word of a counter fills the agent's holding register, and the next
read of that counter's high word takes it from there. A high word whose low word was not read first is live (R7, R11). -/
def State.readEffect (s : State) (who a : Nat) : State × Nat :=
  let v := s.readWord a
  match regAt a with
  | none => (s, v)
  | some (b, r, hi) =>
    if hi then
      match tfind s.hold who with
      | some (of, x) => if r.counter ∧ of = b then ({ s with hold := tdel s.hold who }, x) else (s, v)
      | none => (s, v)
    else
      let s := if r.counter then { s with hold := tins s.hold who (b, s.viewReg b r / 2 ^ 32) } else s
      ((r.fields.filter fun f => f.ty == .rc).foldl (fun s f => s.setFld ⟨b, f.lo, f.w⟩ 0) s, v)

/-- An agent other than a sequencer has read a value (R7). -/
def State.returned (x : State × Nat) (who : Nat) : State := { x.1 with readData := tins x.1.readData who x.2 }

/-- A register read by an agent: the state after it and the value, 0 with any rejection. The content of HDG belongs to
Hedger firmware and is a free value (R578; log 3). -/
def State.regRead (s : State) (src : Agent) (a : Nat) : State × Nat :=
  match src with
  | .link _ => (s.addFld F.fltRemoteRegReject 1, 0)
  | _ =>
    match s.reachReg src a with
    | .error st => (s.countOff st F.pwrPdReads, 0)
    | .ok b =>
      if 0x10000 ≤ b ∧ b < 0x20000 then (s.drew, s.draw b % 2 ^ 32)
      else
        let gone := match pwrCoreOf b with | some l => decide (s.nLogical ≤ l) | none => false
        if gone then (s, 0) else s.readEffect (s.holder src) b

/-! ### Writes -/

/-- A field written with its bits of the value, in the half of a pair that is written (R7). -/
def State.writeField (s : State) (b v : Nat) (pair hi : Bool) (f : FDesc) : State :=
  let fld : Fld := ⟨b, f.lo, f.w⟩
  let x := v / 2 ^ f.lo % 2 ^ f.w
  let old := s.fld fld
  match f.ty with
  | .rw =>
    if pair then s.setFld fld (if hi then v % 2 ^ 32 * 2 ^ 32 + old % 2 ^ 32 else old / 2 ^ 32 * 2 ^ 32 + v % 2 ^ 32)
    else if hi then s
    else s.setFld fld x
  | .w1c => if hi then s else s.setFld fld (old - (old &&& x))
  | _ => s

/-- Whether a write to a field is ignored for its value or the state of the network (R271, R284, R574). -/
def State.ignores (s : State) (b v : Nat) (f : FDesc) : Bool :=
  (b == 0x80000 && (!s.blocks.isEmpty || v % 8192 % 64 != 0 || decide (v % 8192 < 64) || decide (4096 < v % 8192))) ||
    (b == 0x80004 && !s.blocks.isEmpty) ||
    (b == 0x70020 && f.lo == 0 && (decide (v % 65536 < 10) || decide (10000 < v % 65536))) ||
    (decide (0x20100 ≤ b) && decide (b < 0x20130) && decide (s.nLogical ≤ (b - 0x20100) / 4 * 8 + f.lo / 4))

/-- A matrix or vector engine reseeded from the source that FIXED selects (R177, R253). -/
def State.reseedMx (s : State) (p noise : Nat) : State :=
  s.setCore p { s.core p with mxSeed := if s.bit (F.mxeSrCtlFixed p) then s.fld (F.mxeSrSeed p) else noise, mxDraws := 0 }
def State.reseedVx (s : State) (p noise : Nat) : State :=
  s.setCore p { s.core p with vxSeed := if s.bit (F.vxeSrCtlFixed p) then s.fld (F.vxeSrSeed p) else noise, vxDraws := 0 }

/-- The oldest guard record discarded (R220). -/
def State.popGuard (s : State) (p : Nat) : State := s.setCore p { s.core p with guardRecs := (s.core p).guardRecs.drop 1 }

/-- What the fields of type WO do, and what follows a write of a field that starts something (R116, R177, R220, R253, R414,
R471, R574). -/
def State.writeAction (s : State) (b v noise : Nat) : State :=
  let p := (b - 0x400000) / 0x10000
  let r := b % 0x10000
  if 0x400000 ≤ b then
    if r = 8 ∧ v % 2 = 1 then s.signal p 15
    else if r = 0x8004 ∧ v % 2 = 1 then s.reseedMx p noise
    else if r = 0xC004 ∧ v % 2 = 1 then s.reseedVx p noise
    else if r = 0x8104 ∧ v % 2 = 1 then s.popGuard p
    else s
  else if b = 0x20010 then
    (s.setFld F.pwrHedgerClkLocked (v % 2)).setFld F.pwrHedgerClkFast (v % 2)
  else if b = 0x70020 then (if v.testBit 31 then { s with wdogAt := s.time } else s)
  else if 0xE1000 ≤ b ∧ b < 0xF1000 ∧ (b - 0xE1000) % 0x800 = 4 ∧ v % 2 = 1 then
    (s.retrain ((b - 0xE1000) / 0x800)).unitWork
  else s

/-- A register that an agent may write and reaches is written. -/
def State.writeReg (s : State) (b v noise : Nat) : State :=
  match regAt b with
  | none => s
  | some (a, r, hi) =>
    let armed := s.bit F.fltWdogEn
    let s := (r.fields.filter fun f => !s.ignores a v f).foldl (fun s f => s.writeField a v r.pair hi f) s
    let s := if a = 0x70020 ∧ ¬ armed ∧ s.bit F.fltWdogEn then { s with wdogAt := s.time } else s
    if hi then s else s.writeAction a v noise

/-- The value that a core's CTL write gives a register: of PWR_MODE only the core's own field changes (R86, R499). -/
def State.ctlValue (s : State) (l a v : Nat) : Option Nat :=
  if 0x400000 + l * 0x10000 ≤ a ∧ a < 0x410000 + l * 0x10000 then some v
  else if a = 0x20100 + l / 8 * 4 then
    let lo := l % 8 * 4
    let old := s.regWord a
    some (old - bitsAt old lo 4 * 2 ^ lo + bitsAt v lo 4 * 2 ^ lo)
  else none

/-- A register written by an agent. `noise` is the seed that a reseed takes from the noise source. -/
def State.regWrite (s : State) (src : Agent) (a v noise : Nat) : State :=
  match src with
  | .link _ => s.addFld F.fltRemoteRegReject 1
  | .core l =>
    match s.phys l.val, s.ctlValue l.val a v with
    | some p, none => s.recordError p erCtlDenied (s.pc p)
    | some _, some x =>
      match s.reachReg src a with
      | .error st => s.countOff st F.pwrPdWrites
      | .ok b => s.writeReg b x noise
    | none, _ => s
  | _ =>
    match s.reachReg src a with
    | .error st => s.countOff st F.pwrPdWrites
    | .ok b => s.writeReg b v noise

/-! ### Commands -/

/-- A CTL access outside the core's own register blocks freezes a static-mode core while it lasts (R99), cycles the manual
does not number (log 76). -/
def State.ctlFreeze (s : State) (p : Nat) (c : CoreNo) (a : Nat) : State :=
  if a / 0x10000 = 0x40 + c.val then s else (s.freezeCycles p (s.draw 0x178)).drew

/-- CTL with IMM16 [15] = 0: a register read into SD (R86). -/
def execCtlRead (c : CoreNo) (sd sa : SReg) (imm : BitVec 15) (s : State) : Host.Outcome State Fault Refusal :=
  .next <| match s.sqAt c (encB 0x25 sd.val sa.val imm.toNat) csRunning with
    | some p =>
      let a := ((s.sreg p sa.val).toNat + imm.toNat) % 2 ^ 32
      let r := s.regRead (.core c) a
      ((r.1.setSreg p sd.val (BitVec.ofNat 32 r.2)).ctlFreeze p c a).nextPc p
    | none => s

/-- CTL with IMM16 [15] = 1: s[SD] written to a register (R86). -/
def execCtlWrite (c : CoreNo) (sd sa : SReg) (imm : BitVec 15) (s : State) : Host.Outcome State Fault Refusal :=
  .next <| match s.sqAt c (encB 0x25 sd.val sa.val (0x8000 + imm.toNat)) csRunning with
    | some p =>
      let a := ((s.sreg p sa.val).toNat + imm.toNat) % 2 ^ 32
      ((s.drew.regWrite (.core c) a (s.sreg p sd.val).toNat (s.draw 0x177 % 2 ^ 64)).ctlFreeze p c a).nextPc p
    | none => s

/-- COR_EVENT_SET (R116). -/
def execCorEventSet (src : Agent) (c : CoreNo) (value : Word) (s : State) : Host.Outcome State Fault Refusal :=
  .next (s.regWrite src (0x400008 + c.val * 0x10000) value.toNat 0)

/-- RESEED written 1 and FIXED as it stands. -/
def State.reseedValue (s : State) (l : Nat) (f : Nat → Fld) : Nat :=
  match s.phys l with
  | some p => 1 + s.fld (f p) * 2 ^ 31
  | none => 1

/-- MXE_RESEED (R177). -/
def execMxeReseed (src : Agent) (c : CoreNo) (noise : DWord) (s : State) : Host.Outcome State Fault Refusal :=
  .next (s.regWrite src (0x408004 + c.val * 0x10000) (s.reseedValue c.val F.mxeSrCtlFixed) noise.toNat)

/-- VXE_RESEED (R253). -/
def execVxeReseed (src : Agent) (c : CoreNo) (noise : DWord) (s : State) : Host.Outcome State Fault Refusal :=
  .next (s.regWrite src (0x40C004 + c.val * 0x10000) (s.reseedValue c.val F.vxeSrCtlFixed) noise.toNat)

/-- MXE_GUARD_POP (R220). -/
def execMxeGuardPop (src : Agent) (c : CoreNo) (value : Word) (s : State) : Host.Outcome State Fault Refusal :=
  .next (s.regWrite src (0x408104 + c.val * 0x10000) value.toNat 0)

/-- RC_COUNTER_READ (R7, R9). -/
def execRcCounterRead (src : Agent) (offset : BitVec 24) (s : State) : Host.Outcome State Fault Refusal :=
  .next (State.returned (s.regRead src offset.toNat) (s.holder src))

/-- COUNTER_LO_READ (R11). -/
def execCounterLoRead (src : Agent) (offset : BitVec 24) (s : State) : Host.Outcome State Fault Refusal :=
  .next (State.returned (s.regRead src offset.toNat) (s.holder src))

/-- REGISTER_WRITE: an access that is not of 32 bits is rejected (R7, R54, R70). -/
def execRegisterWrite (src : Agent) (offset : BitVec 24) (bytes : Nat) (value : Word) (s : State) :
    Host.Outcome State Fault Refusal :=
  .next <| match src with
    | .link _ => s.addFld F.fltRemoteRegReject 1
    | _ => if bytes ≠ 4 then s else s.drew.regWrite src offset.toNat value.toNat (s.draw 0x177 % 2 ^ 64)

end Sys2Proof.Machine
end

