-- ==== Sys2Proof/Machine/Flags.lean ====
section
/-! DEFINITION. The conditions the sequencer computes: it has no flags register, comparisons write a scalar register
or decide a branch (R82). -/

namespace Sys2Proof.Machine

/-- SLT: 1 if a is below b as signed words, else 0. -/
def sltWord (a b : Word) : Word := if a.toInt < b.toInt then 1 else 0

/-- SLTU: 1 if a is below b as unsigned words, else 0. -/
def sltuWord (a b : Word) : Word := if a.toNat < b.toNat then 1 else 0

/-- BLT's condition; BLT and BGE compare signed words (log 14). -/
def condLt (a b : Word) : Bool := decide (a.toInt < b.toInt)

/-- BGE's condition. -/
def condGe (a b : Word) : Bool := !condLt a b

/-- BEQ's condition. -/
def condEq (a b : Word) : Bool := decide (a = b)

/-- BNE's condition. -/
def condNe (a b : Word) : Bool := !condEq a b

/-- The unsigned high word of a product (R82). -/
def mulhuWord (a b : Word) : Word := BitVec.ofNat 32 (a.toNat * b.toNat / 2 ^ 32)

end Sys2Proof.Machine
end

