-- ==== Sys2Proof/Machine/Scalar.lean ====
section
/-! DEFINITION. SQ arithmetic and branches (R82). A command whose core does not execute its word leaves the state as it
is (log 2). -/

namespace Sys2Proof.Machine

/-- A form A or B instruction that writes SD from the operand registers. -/
def State.sqWrite (s : State) (l : CoreNo) (w : Word) (sd : SReg) (f : Nat → Word) : State :=
  match s.sqAt l w csRunning with
  | some p => (s.setSreg p sd.val (f p)).nextPc p
  | none => s

/-- A two-register operation (form A). -/
def State.sqAlu (s : State) (l : CoreNo) (opc : Nat) (sd sa sb : SReg) (f : Word → Word → Word) : State :=
  s.sqWrite l (encA opc sd.val sa.val sb.val) sd fun p => f (s.sreg p sa.val) (s.sreg p sb.val)

/-- A branch (form C): PC + OFFSET16 if the condition holds, else the next instruction. -/
def State.sqBranch (s : State) (l : CoreNo) (opc : Nat) (sa sb : SReg) (off : BitVec 16) (f : Word → Word → Bool) :
    State :=
  match s.sqAt l (encC opc sa.val sb.val off.toNat) csRunning with
  | some p => if f (s.sreg p sa.val) (s.sreg p sb.val) then s.jumpTo p (s.pc p + off.toInt) else s.nextPc p
  | none => s

/-- ADD. -/
def execAdd (c : CoreNo) (sd sa sb : SReg) (s : State) : Host.Outcome State Fault Refusal :=
  .next (s.sqAlu c 0x00 sd sa sb fun a b => a + b)
/-- SUB. -/
def execSub (c : CoreNo) (sd sa sb : SReg) (s : State) : Host.Outcome State Fault Refusal :=
  .next (s.sqAlu c 0x01 sd sa sb fun a b => a - b)
/-- AND. -/
def execAnd (c : CoreNo) (sd sa sb : SReg) (s : State) : Host.Outcome State Fault Refusal :=
  .next (s.sqAlu c 0x02 sd sa sb fun a b => a &&& b)
/-- OR. -/
def execOr (c : CoreNo) (sd sa sb : SReg) (s : State) : Host.Outcome State Fault Refusal :=
  .next (s.sqAlu c 0x03 sd sa sb fun a b => a ||| b)
/-- XOR. -/
def execXor (c : CoreNo) (sd sa sb : SReg) (s : State) : Host.Outcome State Fault Refusal :=
  .next (s.sqAlu c 0x04 sd sa sb fun a b => a ^^^ b)
/-- SHL by s[SB] [4:0]. -/
def execShl (c : CoreNo) (sd sa sb : SReg) (s : State) : Host.Outcome State Fault Refusal :=
  .next (s.sqAlu c 0x05 sd sa sb fun a b => a <<< (b.toNat % 32))
/-- SHR by s[SB] [4:0]. -/
def execShr (c : CoreNo) (sd sa sb : SReg) (s : State) : Host.Outcome State Fault Refusal :=
  .next (s.sqAlu c 0x06 sd sa sb fun a b => a >>> (b.toNat % 32))
/-- SRA by s[SB] [4:0]. -/
def execSra (c : CoreNo) (sd sa sb : SReg) (s : State) : Host.Outcome State Fault Refusal :=
  .next (s.sqAlu c 0x07 sd sa sb fun a b => a.sshiftRight (b.toNat % 32))
/-- SLT. -/
def execSlt (c : CoreNo) (sd sa sb : SReg) (s : State) : Host.Outcome State Fault Refusal :=
  .next (s.sqAlu c 0x08 sd sa sb sltWord)
/-- SLTU. -/
def execSltu (c : CoreNo) (sd sa sb : SReg) (s : State) : Host.Outcome State Fault Refusal :=
  .next (s.sqAlu c 0x09 sd sa sb sltuWord)
/-- MUL, the low 32 bits of the product. -/
def execMul (c : CoreNo) (sd sa sb : SReg) (s : State) : Host.Outcome State Fault Refusal :=
  .next (s.sqAlu c 0x0A sd sa sb fun a b => a * b)
/-- MULHU, the unsigned high 32 bits of the product. -/
def execMulhu (c : CoreNo) (sd sa sb : SReg) (s : State) : Host.Outcome State Fault Refusal :=
  .next (s.sqAlu c 0x0B sd sa sb mulhuWord)
/-- ADDI, sign-extended immediate. -/
def execAddi (c : CoreNo) (sd sa : SReg) (imm : BitVec 16) (s : State) : Host.Outcome State Fault Refusal :=
  .next (s.sqWrite c (encB 0x0C sd.val sa.val imm.toNat) sd fun p => s.sreg p sa.val + imm.signExtend 32)
/-- ANDI, zero-extended immediate. -/
def execAndi (c : CoreNo) (sd sa : SReg) (imm : BitVec 16) (s : State) : Host.Outcome State Fault Refusal :=
  .next (s.sqWrite c (encB 0x0D sd.val sa.val imm.toNat) sd fun p => s.sreg p sa.val &&& imm.setWidth 32)
/-- ORI, zero-extended immediate. -/
def execOri (c : CoreNo) (sd sa : SReg) (imm : BitVec 16) (s : State) : Host.Outcome State Fault Refusal :=
  .next (s.sqWrite c (encB 0x0E sd.val sa.val imm.toNat) sd fun p => s.sreg p sa.val ||| imm.setWidth 32)
/-- LUI. -/
def execLui (c : CoreNo) (sd : SReg) (imm : BitVec 16) (s : State) : Host.Outcome State Fault Refusal :=
  .next (s.sqWrite c (encB 0x0F sd.val 0 imm.toNat) sd fun _ => imm.setWidth 32 <<< 16)
/-- BEQ. -/
def execBeq (c : CoreNo) (sa sb : SReg) (off : BitVec 16) (s : State) : Host.Outcome State Fault Refusal :=
  .next (s.sqBranch c 0x18 sa sb off condEq)
/-- BNE. -/
def execBne (c : CoreNo) (sa sb : SReg) (off : BitVec 16) (s : State) : Host.Outcome State Fault Refusal :=
  .next (s.sqBranch c 0x19 sa sb off condNe)
/-- BLT. -/
def execBlt (c : CoreNo) (sa sb : SReg) (off : BitVec 16) (s : State) : Host.Outcome State Fault Refusal :=
  .next (s.sqBranch c 0x1A sa sb off condLt)
/-- BGE. -/
def execBge (c : CoreNo) (sa sb : SReg) (off : BitVec 16) (s : State) : Host.Outcome State Fault Refusal :=
  .next (s.sqBranch c 0x1B sa sb off condGe)

/-- JAL: SD ← PC + 1, PC ← s[SA] + IMM16; an illegal target writes nothing. -/
def execJal (c : CoreNo) (sd sa : SReg) (imm : BitVec 16) (s : State) : Host.Outcome State Fault Refusal :=
  .next <| match s.sqAt c (encB 0x1C sd.val sa.val imm.toNat) csRunning with
    | some p =>
      let t := (s.sreg p sa.val + imm.signExtend 32).toNat
      if t ≤ 8191 then (s.setSreg p sd.val (BitVec.ofNat 32 (s.pc p + 1))).setFld (F.corPc p) t
      else s.fatal p erIllegal
    | none => s

/-- ILLEGAL_INSN: the fetched word is illegal as it stands (R82). -/
def execIllegalInsn (c : CoreNo) (s : State) : Host.Outcome State Fault Refusal :=
  .next <| match s.phys c.val with
    | some p => if s.coreState p = csRunning ∧ ¬ legalWord (s.fetchSq p) then s.fatal p erIllegal else s
    | none => s

end Sys2Proof.Machine
end

