-- ==== Sys2Proof/Machine/Dispatch.lean ====
section
/-! DEFINITION. One arm per command: its meaning. -/

namespace Sys2Proof.Machine

/-- The effect of a command on everything but the queue. -/
def exec (i : Instr) (s : State) : Host.Outcome State Fault Refusal :=
  match i with
  | .pwrgdEvgRise testMode => Sys2Proof.Machine.execPwrgdEvgRise testMode s
  | .coldReset lowNs => Sys2Proof.Machine.execColdReset lowNs s
  | .warmReset lowNs => Sys2Proof.Machine.execWarmReset lowNs s
  | .resetHoldEnd => Sys2Proof.Machine.execResetHoldEnd s
  | .perstNRise => Sys2Proof.Machine.execPerstNRise s
  | .s0End fuseError selfCheckOk => Sys2Proof.Machine.execS0End fuseError selfCheckOk s
  | .thermalTrip sensor reading => Sys2Proof.Machine.execThermalTrip sensor reading s
  | .refclkLost => Sys2Proof.Machine.execRefclkLost s
  | .sensorSample temps mv => Sys2Proof.Machine.execSensorSample temps mv s
  | .droopStretch half monitor mvBelow cycles => Sys2Proof.Machine.execDroopStretch half monitor mvBelow cycles s
  | .droopStretchEnd half cycles => Sys2Proof.Machine.execDroopStretchEnd half cycles s
  | .railAck half => Sys2Proof.Machine.execRailAck half s
  | .s1PlacementTimeout => Sys2Proof.Machine.execS1PlacementTimeout s
  | .stageTimeLimit => Sys2Proof.Machine.execStageTimeLimit s
  | .s3SelfTestDone found => Sys2Proof.Machine.execS3SelfTestDone found s
  | .s4End timeUp => Sys2Proof.Machine.execS4End timeUp s
  | .s5End => Sys2Proof.Machine.execS5End s
  | .sb1MemtestAnswer a => Sys2Proof.Machine.execSb1MemtestAnswer a s
  | .sb1AnswerTimeout => Sys2Proof.Machine.execSb1AnswerTimeout s
  | .s7Init => Sys2Proof.Machine.execS7Init s
  | .s8Finalise => Sys2Proof.Machine.execS8Finalise s
  | .securityAdvance vppMv fuses => Sys2Proof.Machine.execSecurityAdvance vppMv fuses s
  | .hello p => Sys2Proof.Machine.execHello p s
  | .sync p => Sys2Proof.Machine.execSync p s
  | .getInfo p => Sys2Proof.Machine.execGetInfo p s
  | .bootStage p => Sys2Proof.Machine.execBootStage p s
  | .loadImageBegin p => Sys2Proof.Machine.execLoadImageBegin p s
  | .loadImageChunk p badCores => Sys2Proof.Machine.execLoadImageChunk p badCores s
  | .loadImageCommit p => Sys2Proof.Machine.execLoadImageCommit p s
  | .imageCommitDone => Sys2Proof.Machine.execImageCommitDone s
  | .getMissing p => Sys2Proof.Machine.execGetMissing p s
  | .renumber p => Sys2Proof.Machine.execRenumber p s
  | .getDieback p => Sys2Proof.Machine.execGetDieback p s
  | .saveSettings p => Sys2Proof.Machine.execSaveSettings p s
  | .restoreSettings p fast => Sys2Proof.Machine.execRestoreSettings p fast s
  | .setPowerState p fast => Sys2Proof.Machine.execSetPowerState p fast s
  | .powerTransitionDone core => Sys2Proof.Machine.execPowerTransitionDone core s
  | .powerExitTimeout core => Sys2Proof.Machine.execPowerExitTimeout core s
  | .setOperatingPoint p => Sys2Proof.Machine.execSetOperatingPoint p s
  | .setLimit p => Sys2Proof.Machine.execSetLimit p s
  | .setPacePolicy p => Sys2Proof.Machine.execSetPacePolicy p s
  | .getPowerAccounting p => Sys2Proof.Machine.execGetPowerAccounting p s
  | .readTelemetry p => Sys2Proof.Machine.execReadTelemetry p s
  | .readEnergy p => Sys2Proof.Machine.execReadEnergy p s
  | .readEvents p => Sys2Proof.Machine.execReadEvents p s
  | .linkStatus p => Sys2Proof.Machine.execLinkStatus p s
  | .linkRetrain p fast => Sys2Proof.Machine.execLinkRetrain p fast s
  | .linkRetrainDone link => Sys2Proof.Machine.execLinkRetrainDone link s
  | .linkLoopback p => Sys2Proof.Machine.execLinkLoopback p s
  | .loopbackDone link errors => Sys2Proof.Machine.execLoopbackDone link errors s
  | .linkBerTest p => Sys2Proof.Machine.execLinkBerTest p s
  | .berTestDone link errors => Sys2Proof.Machine.execBerTestDone link errors s
  | .queueCreate p => Sys2Proof.Machine.execQueueCreate p s
  | .queueDestroy p fast => Sys2Proof.Machine.execQueueDestroy p fast s
  | .queueDestroyDone q => Sys2Proof.Machine.execQueueDestroyDone q s
  | .binderAlloc p => Sys2Proof.Machine.execBinderAlloc p s
  | .windowOpen p => Sys2Proof.Machine.execWindowOpen p s
  | .windowClose p fast => Sys2Proof.Machine.execWindowClose p fast s
  | .windowCloseDone w => Sys2Proof.Machine.execWindowCloseDone w s
  | .roleAssign p => Sys2Proof.Machine.execRoleAssign p s
  | .getCertificate p => Sys2Proof.Machine.execGetCertificate p s
  | .attest p => Sys2Proof.Machine.execAttest p s
  | .attestDone => Sys2Proof.Machine.execAttestDone s
  | .getMeasurements p => Sys2Proof.Machine.execGetMeasurements p s
  | .calReadFactory p => Sys2Proof.Machine.execCalReadFactory p s
  | .calWriteUser p => Sys2Proof.Machine.execCalWriteUser p s
  | .calClearUser p => Sys2Proof.Machine.execCalClearUser p s
  | .testModeEnter p => Sys2Proof.Machine.execTestModeEnter p s
  | .runBist p => Sys2Proof.Machine.execRunBist p s
  | .bistDone failures => Sys2Proof.Machine.execBistDone failures s
  | .memtestStart p => Sys2Proof.Machine.execMemtestStart p s
  | .memtestDone passed failingRows => Sys2Proof.Machine.execMemtestDone passed failingRows s
  | .memtestStatus p => Sys2Proof.Machine.execMemtestStatus p s
  | .longOpPoll opcode p => Sys2Proof.Machine.execLongOpPoll opcode p s
  | .seqHoldTimeout => Sys2Proof.Machine.execSeqHoldTimeout s
  | .launchKernel q entry image param => Sys2Proof.Machine.execLaunchKernel q entry image param s
  | .kernelStart q => Sys2Proof.Machine.execKernelStart q s
  | .binderOpArrive q entry => Sys2Proof.Machine.execBinderOpArrive q entry s
  | .binderOpAdd q entry => Sys2Proof.Machine.execBinderOpAdd q entry s
  | .binderOpReset q entry => Sys2Proof.Machine.execBinderOpReset q entry s
  | .binderOpAwait q entry => Sys2Proof.Machine.execBinderOpAwait q entry s
  | .fenceEntry q entry => Sys2Proof.Machine.execFenceEntry q entry s
  | .add c sd sa sb => Sys2Proof.Machine.execAdd c sd sa sb s
  | .sub c sd sa sb => Sys2Proof.Machine.execSub c sd sa sb s
  | .and c sd sa sb => Sys2Proof.Machine.execAnd c sd sa sb s
  | .or c sd sa sb => Sys2Proof.Machine.execOr c sd sa sb s
  | .xor c sd sa sb => Sys2Proof.Machine.execXor c sd sa sb s
  | .shl c sd sa sb => Sys2Proof.Machine.execShl c sd sa sb s
  | .shr c sd sa sb => Sys2Proof.Machine.execShr c sd sa sb s
  | .sra c sd sa sb => Sys2Proof.Machine.execSra c sd sa sb s
  | .slt c sd sa sb => Sys2Proof.Machine.execSlt c sd sa sb s
  | .sltu c sd sa sb => Sys2Proof.Machine.execSltu c sd sa sb s
  | .mul c sd sa sb => Sys2Proof.Machine.execMul c sd sa sb s
  | .mulhu c sd sa sb => Sys2Proof.Machine.execMulhu c sd sa sb s
  | .addi c sd sa imm => Sys2Proof.Machine.execAddi c sd sa imm s
  | .andi c sd sa imm => Sys2Proof.Machine.execAndi c sd sa imm s
  | .ori c sd sa imm => Sys2Proof.Machine.execOri c sd sa imm s
  | .lui c sd imm => Sys2Proof.Machine.execLui c sd imm s
  | .ld32 c sd sa imm port => Sys2Proof.Machine.execLd32 c sd sa imm port s
  | .ld64 c sd sa imm port => Sys2Proof.Machine.execLd64 c sd sa imm port s
  | .st32 c sd sa imm port => Sys2Proof.Machine.execSt32 c sd sa imm port s
  | .st64 c sd sa imm port => Sys2Proof.Machine.execSt64 c sd sa imm port s
  | .beq c sa sb off => Sys2Proof.Machine.execBeq c sa sb off s
  | .bne c sa sb off => Sys2Proof.Machine.execBne c sa sb off s
  | .blt c sa sb off => Sys2Proof.Machine.execBlt c sa sb off s
  | .bge c sa sb off => Sys2Proof.Machine.execBge c sa sb off s
  | .jal c sd sa imm => Sys2Proof.Machine.execJal c sd sa imm s
  | .issue c eng tag notify barrier sa imm port => Sys2Proof.Machine.execIssue c eng tag notify barrier sa imm port s
  | .fence c mx vx post store => Sys2Proof.Machine.execFence c mx vx post store s
  | .wait c sa all clear power imm early gap => Sys2Proof.Machine.execWait c sa all clear power imm early gap s
  | .coreWakeEvent c => Sys2Proof.Machine.execCoreWakeEvent c s
  | .sbClaim c kind sa sb sd => Sys2Proof.Machine.execSbClaim c kind sa sb sd s
  | .sbRelease c sa => Sys2Proof.Machine.execSbRelease c sa s
  | .sbTest c sd => Sys2Proof.Machine.execSbTest c sd s
  | .post c sa sb => Sys2Proof.Machine.execPost c sa sb s
  | .ctlRead c sd sa imm => Sys2Proof.Machine.execCtlRead c sd sa imm s
  | .ctlWrite c sd sa imm => Sys2Proof.Machine.execCtlWrite c sd sa imm s
  | .end_ c => Sys2Proof.Machine.execEnd c s
  | .illegalInsn c => Sys2Proof.Machine.execIllegalInsn c s
  | .corTimerMatch c => Sys2Proof.Machine.execCorTimerMatch c s
  | .mxeDescStart c met => Sys2Proof.Machine.execMxeDescStart c met s
  | .mxeDescComplete c met => Sys2Proof.Machine.execMxeDescComplete c met s
  | .vxeChainStart c met => Sys2Proof.Machine.execVxeChainStart c met s
  | .vxeChainComplete c met => Sys2Proof.Machine.execVxeChainComplete c met s
  | .unscheduledWriteLand p entry waited port => Sys2Proof.Machine.execUnscheduledWriteLand p entry waited port s
  | .unscheduledRead p port => Sys2Proof.Machine.execUnscheduledRead p port s
  | .eccWriteback p bank row => Sys2Proof.Machine.execEccWriteback p bank row s
  | .wakeTimeout p bank => Sys2Proof.Machine.execWakeTimeout p bank s
  | .memWakeReturn p => Sys2Proof.Machine.execMemWakeReturn p s
  | .imemScrub p uncorrectable => Sys2Proof.Machine.execImemScrub p uncorrectable s
  | .engineFault p cause => Sys2Proof.Machine.execEngineFault p cause s
  | .fenceRetest p passed => Sys2Proof.Machine.execFenceRetest p passed s
  | .fuseCommit vppMv => Sys2Proof.Machine.execFuseCommit vppMv s
  | .noiseHealth => Sys2Proof.Machine.execNoiseHealth s
  | .plnSlotExecute half met ecc => Sys2Proof.Machine.execPlnSlotExecute half met ecc s
  | .plnStall half => Sys2Proof.Machine.execPlnStall half s
  | .routerFailed c cause => Sys2Proof.Machine.execRouterFailed c cause s
  | .openRowHop src => Sys2Proof.Machine.execOpenRowHop src s
  | .outboundStreamSend a stream => Sys2Proof.Machine.execOutboundStreamSend a stream s
  | .doorbellTail src q value => Sys2Proof.Machine.execDoorbellTail src q value s
  | .doorbellHead src q value => Sys2Proof.Machine.execDoorbellHead src q value s
  | .pause src q value => Sys2Proof.Machine.execPause src q value s
  | .resume src q value => Sys2Proof.Machine.execResume src q value s
  | .restart src q value => Sys2Proof.Machine.execRestart src q value s
  | .dmaPauseDrained e j => Sys2Proof.Machine.execDmaPauseDrained e j s
  | .dmaDescriptorStart e j desc port => Sys2Proof.Machine.execDmaDescriptorStart e j desc port s
  | .dmaBeatIssue e => Sys2Proof.Machine.execDmaBeatIssue e s
  | .dmaReadReturn e j data => Sys2Proof.Machine.execDmaReadReturn e j data s
  | .dmaBeatReject e j status link tag linkUp => Sys2Proof.Machine.execDmaBeatReject e j status link tag linkUp s
  | .dmaReadbackAnswer e j status port => Sys2Proof.Machine.execDmaReadbackAnswer e j status port s
  | .dmaCompletionAck e j status => Sys2Proof.Machine.execDmaCompletionAck e j status s
  | .dmaEngineFault e => Sys2Proof.Machine.execDmaEngineFault e s
  | .recordWriteRetry q status => Sys2Proof.Machine.execRecordWriteRetry q status s
  | .arrive src address value => Sys2Proof.Machine.execArrive src address value s
  | .binderAdd src address value => Sys2Proof.Machine.execBinderAdd src address value s
  | .binderReset src address value => Sys2Proof.Machine.execBinderReset src address value s
  | .binderWait src address value => Sys2Proof.Machine.execBinderWait src address value s
  | .rolePulse src address value => Sys2Proof.Machine.execRolePulse src address value s
  | .releaseMessage link m => Sys2Proof.Machine.execReleaseMessage link m s
  | .binderAck link m => Sys2Proof.Machine.execBinderAck link m s
  | .binderNak link m => Sys2Proof.Machine.execBinderNak link m s
  | .owedMessageSend link => Sys2Proof.Machine.execOwedMessageSend link s
  | .windowWrite src p => Sys2Proof.Machine.execWindowWrite src p s
  | .write link p => Sys2Proof.Machine.execWrite link p s
  | .readback link p => Sys2Proof.Machine.execReadback link p s
  | .read link p => Sys2Proof.Machine.execRead link p s
  | .data link p => Sys2Proof.Machine.execData link p s
  | .status link p => Sys2Proof.Machine.execStatus link p s
  | .mgmt link tag m => Sys2Proof.Machine.execMgmt link tag m s
  | .dataFlit link f => Sys2Proof.Machine.execDataFlit link f s
  | .idleFlit link f => Sys2Proof.Machine.execIdleFlit link f s
  | .retry link f => Sys2Proof.Machine.execRetry link f s
  | .retryTimeout link => Sys2Proof.Machine.execRetryTimeout link s
  | .flitSend link => Sys2Proof.Machine.execFlitSend link s
  | .laneCheck link errors => Sys2Proof.Machine.execLaneCheck link errors s
  | .laneCheckSend link => Sys2Proof.Machine.execLaneCheckSend link s
  | .configEcho link e => Sys2Proof.Machine.execConfigEcho link e s
  | .configEchoSend link => Sys2Proof.Machine.execConfigEchoSend link s
  | .echoTimeout link => Sys2Proof.Machine.execEchoTimeout link s
  | .reconfigReq link used switchSeq => Sys2Proof.Machine.execReconfigReq link used switchSeq s
  | .reconfigTimeout link => Sys2Proof.Machine.execReconfigTimeout link s
  | .trickleReq link => Sys2Proof.Machine.execTrickleReq link s
  | .trickleAck link => Sys2Proof.Machine.execTrickleAck link s
  | .keepalive link => Sys2Proof.Machine.execKeepalive link s
  | .keepaliveSend link => Sys2Proof.Machine.execKeepaliveSend link s
  | .rustlePattern link => Sys2Proof.Machine.execRustlePattern link s
  | .dieWake => Sys2Proof.Machine.execDieWake s
  | .sleepTimer => Sys2Proof.Machine.execSleepTimer s
  | .wakeLock link => Sys2Proof.Machine.execWakeLock link s
  | .linkWakeTimeout link => Sys2Proof.Machine.execLinkWakeTimeout link s
  | .trainingSequence link => Sys2Proof.Machine.execTrainingSequence link s
  | .laneTestEnd link mask clocks => Sys2Proof.Machine.execLaneTestEnd link mask clocks s
  | .eqComplete link mask eq => Sys2Proof.Machine.execEqComplete link mask eq s
  | .attemptTimeout link => Sys2Proof.Machine.execAttemptTimeout link s
  | .widthMap link partnerMask => Sys2Proof.Machine.execWidthMap link partnerMask s
  | .configMessage link c => Sys2Proof.Machine.execConfigMessage link c s
  | .linkTimeout link => Sys2Proof.Machine.execLinkTimeout link s
  | .glideStep half => Sys2Proof.Machine.execGlideStep half s
  | .hedgerClkRequest on => Sys2Proof.Machine.execHedgerClkRequest on s
  | .energyEstimate components => Sys2Proof.Machine.execEnergyEstimate components s
  | .energyAccountUpdate shares unattributed => Sys2Proof.Machine.execEnergyAccountUpdate shares unattributed s
  | .powerFastEval => Sys2Proof.Machine.execPowerFastEval s
  | .powerSlowEval => Sys2Proof.Machine.execPowerSlowEval s
  | .thermalEval => Sys2Proof.Machine.execThermalEval s
  | .demandSend => Sys2Proof.Machine.execDemandSend s
  | .budgetCompute => Sys2Proof.Machine.execBudgetCompute s
  | .demand link m => Sys2Proof.Machine.execDemand link m s
  | .total link m => Sys2Proof.Machine.execTotal link m s
  | .pace link m => Sys2Proof.Machine.execPace link m s
  | .paceSend => Sys2Proof.Machine.execPaceSend s
  | .paceTableAge => Sys2Proof.Machine.execPaceTableAge s
  | .hedgerWatchdog hedgerPc => Sys2Proof.Machine.execHedgerWatchdog hedgerPc s
  | .hedgerFault cause hedgerPc => Sys2Proof.Machine.execHedgerFault cause hedgerPc s
  | .wdogKick => Sys2Proof.Machine.execWdogKick s
  | .corEventSet src c value => Sys2Proof.Machine.execCorEventSet src c value s
  | .mxeReseed src c noise => Sys2Proof.Machine.execMxeReseed src c noise s
  | .vxeReseed src c noise => Sys2Proof.Machine.execVxeReseed src c noise s
  | .mxeGuardPop src c value => Sys2Proof.Machine.execMxeGuardPop src c value s
  | .lnkCtlRetrain link => Sys2Proof.Machine.execLnkCtlRetrain link s
  | .rcCounterRead src offset => Sys2Proof.Machine.execRcCounterRead src offset s
  | .counterLoRead src offset => Sys2Proof.Machine.execCounterLoRead src offset s
  | .registerWrite src offset bytes value => Sys2Proof.Machine.execRegisterWrite src offset bytes value s
  | .refclkRestored => Sys2Proof.Machine.execRefclkRestored s
  | .testAccessPortInstruction ir shift fuse => Sys2Proof.Machine.execTestAccessPortInstruction ir shift fuse s
  | .unknownOpcode link linkTag opcode p => Sys2Proof.Machine.execUnknownOpcode link linkTag opcode p s
  | .failedWorkEntry q entry port => Sys2Proof.Machine.execFailedWorkEntry q entry port s
  | .restoreSettingsDone => Sys2Proof.Machine.execRestoreSettingsDone s

end Sys2Proof.Machine
end

