-- ==== Sys2Proof/Machine/Tick.lean ====
section
/-! DEFINITION. What one core cycle does when no command waits (log 18): core timers count in Leaf (R116, R475), the
cycle counters of cores that run, freeze or wait for the scoreboard count (R99, R103, R116), as do those of the engines
(R185, R193, R258), of full rings (R341) and of the binder unit (R372, R582). -/

namespace Sys2Proof.Machine

/-- COR_TIMER of a physical core counts in Leaf and sets TIMER when it meets CMP (R116). -/
def State.tickTimer (s : State) (p : Nat) : State :=
  if s.power p = pwLeaf ∧ ¬ s.fencedCore p then
    let s := s.addFld (F.corTimer p) 1
    if s.fld (F.corTimer p) = s.fld (F.corTimerCmp p) then s.signal p 5 else s
  else s

/-- COR_CYCLES of a core between RUNNING and FROZEN counts, COR_FREEZE_CC of a FROZEN one, COR_SB_STALL while a fetched
descriptor waits for entries (R99, R103, R116). -/
def State.tickCycles (s : State) (p : Nat) : State :=
  let s := if csRunning ≤ s.coreState p ∧ s.coreState p ≤ csFrozen then s.addFld (F.corCycles p) 1 else s
  let s := if s.coreState p = csFrozen then s.addFld (F.corFreezeCc p) 1 else s
  if s.sbWaits p then s.addFld (F.corSbStall p) 1 else s

/-- BLOCK and A_SOURCE after x cycles of a descriptor's stream (R185 to R188, R194). -/
def MxDesc.streamAt (d : MxDesc) (x : Nat) : Nat × Nat :=
  let l0 := d.streamCycles 0
  let l := d.streamCycles 1
  if x < l0 then (0, 1) else (min (1 + (x - l0) / max l 1) (d.n - 1), if d.fits then 2 else 3)

/-- A cycle of the matrix engine's stream passes, unless its core is frozen (R99, R185). -/
def State.tickStream (s : State) (p : Nat) : State :=
  match (s.core p).mxRun with
  | none => s
  | some r =>
    if s.coreState p = csFrozen then s
    else
      let x := (MxDesc.ofBytes r.desc.bytes).streamAt (r.cc + 1)
      let s := s.setCore p { s.core p with mxRun := some { r with cc := r.cc + 1 } }
      (s.setFld (F.mxeStatusBlock p) x.1).setFld (F.mxeStatusASource p) x.2

/-- The busy counters of an engine with BUSY = 1 count (R193, R258). -/
def State.tickBusy (s : State) (p : Nat) : State :=
  let s := if s.bit (F.mxeStatusBusy p) then s.addFld (F.mxeBusyCc p) 1 else s
  if s.bit (F.vxeStatusBusy p) then s.addFld (F.vxeBusyCc p) 1 else s

/-- QUE_FULL_CC of every full COMPLETION context that a producer holds a record for counts (R341). -/
def State.tickFull (s : State) : State :=
  let cqs := (s.queues.filterMap fun q =>
    if q.2.held.isEmpty then none else some (s.fld (F.queCqContext q.1))).eraseDups
  cqs.foldl (fun s q => if s.ringSize q ≤ s.ringUsed q then s.addFld (F.queFullCc q) 1 else s) s

/-- The binder unit's cycles: BND_INCAST_CC while its inbound queue is full, BND_OUT_FULL_CC while an operation of one of the
die's agents waits for a place of a link (R372, R582). -/
def State.tickBinder (s : State) : State :=
  let s := if 256 ≤ s.inq.length then s.addFld F.bndIncastCc 1 else s
  if s.links.any fun l => l.2.bheld.any fun m => m.froms.any (· != .unit) then s.addFld F.bndOutFullCc 1 else s

/-- One core cycle. -/
def State.tick (s : State) : State :=
  if s.clocksOff then s
  else
    let s := (bitsOf 96 s.coreMap).foldl (fun s p => (((s.tickTimer p).tickCycles p).tickStream p).tickBusy p) s
    s.tickFull.tickBinder

end Sys2Proof.Machine
end

