-- ==== Sys2Proof/Safety.lean ====
section
/-! DEFINITION. The terms in which statements speak of a run. -/

namespace Sys2Proof.Machine

/-- The canonical form of the register file: keys strictly rise, no field is listed at its reset value (log 19). -/
def regsCanonical (m : List (Nat × Nat)) : Bool := tsorted m && m.all fun e => decide (e.2 ≠ resetOf e.1)

/-- What holds of the die at every moment: scratchpad and register file stand in their canonical form (log 19), the
event log holds at most 1,024 records (R561), the reply cache at most 64 replies (R423), the inbound queue of binder
messages at most 256 (R357). -/
structure State.Inv (s : State) : Prop where
  mem : s.mem.wf = true
  regs : regsCanonical s.regs = true
  log : s.log.length ≤ 1024
  cache : s.session.cache.length ≤ 64
  inq : s.inq.length ≤ 256

/-- A command is answered by a next state of which P holds. -/
def Answers (i : Instr) (s : State) (P : State → Prop) : Prop := ∃ t, exec i s = .next t ∧ P t

/-- The sequencer of logical core c, held by physical core p, is RUNNING and has the word w at its program counter. -/
structure State.SqRuns (s : State) (c : CoreNo) (p : Nat) (w : Word) : Prop where
  phys : s.phys c.val = some p
  clock : s.clocksOff = false
  running : s.coreState p = csRunning
  fetch : s.fetchSq p = w

/-- Every register field but those whose keys are listed is as it was. -/
def fieldsKept (s t : State) (keys : List Nat) : Prop := ∀ g : Fld, g.key ∉ keys → t.fld g = s.fld g

/-- The log of t is that of s with one event more, as R562 makes room for it. -/
def logs (s t : State) (severity kind status code unit context detail : Nat) : Prop :=
  t.log = (logAppend s.log (s.nextEvent severity kind status code unit context detail)).1

/-- The bytes from key k on hold the data, and every other byte of the scratchpads reads as it did. -/
def memHolds (s t : State) (k : Nat) (data : List Byte) : Prop :=
  ∀ j, t.mem.get j = if k ≤ j ∧ j < k + data.length then data.getD (j - k) 0 else s.mem.get j

/-- A record of queue q lands at once: the ring of its COMPLETION context lies on an unfenced core p in Leaf, has room for
it, no write is on its way in this die, and it notifies no binder. -/
structure State.RingRoom (s : State) (q p : Nat) : Prop where
  ring : (s.queue (s.fld (F.queCqContext q))).ringCore = some p
  fenced : s.fencedCore p = false
  leaf : s.power p = pwLeaf
  room : s.ringUsed (s.fld (F.queCqContext q)) < s.ringSize (s.fld (F.queCqContext q))
  size : s.ringSize (s.fld (F.queCqContext q)) ≤ 2 ^ 15
  tail : s.fld (F.queTail (s.fld (F.queCqContext q))) < 2 ^ 16
  head : s.fld (F.queHead (s.fld (F.queCqContext q))) < 2 ^ 16
  flight : s.underWay = []
  notify : s.bit (F.queNotifyEn (s.fld (F.queCqContext q))) = false
  other : s.fld (F.queCqContext q) ≠ q
  bound : s.fld (F.queCqContext q) < 8192

/-- A queue whose next completion record lands at once: none is held before it. -/
structure State.RecordRoom (s : State) (q p : Nat) : Prop where
  held : (s.queue q).held = []
  ring : s.RingRoom q p

/-- The record of queue q stands at TAIL of its COMPLETION ring on core p, TAIL moves on, and no other byte changes. -/
def recordLands (s t : State) (q p : Nat) (r : CRec) : Prop :=
  let cq := s.fld (F.queCqContext q)
  let tail := s.fld (F.queTail cq)
  memHolds s t (p * 2 ^ 22 + s.slotAddr cq tail 32 % 2 ^ 22) (r.bytes32 (1 - tail / s.ringSize cq % 2)) ∧
    t.fld (F.queTail cq) = (tail + 1) % 2 ^ 16

/-- The dispatcher has taken the entry at HEAD of queue q. -/
def entryTaken (s t : State) (q : Nat) : Prop :=
  t.fld (F.queHead q) = (s.fld (F.queHead q) + 1) % 2 ^ 16 ∧
    t.fld (F.queEntries q) = (s.fld (F.queEntries q) + 1) % 2 ^ 32

/-- What an SQ instruction that writes scalar registers only leaves as it was: everything but the scalar registers of
core p and register fields. -/
def sqFrame (s t : State) (p : Nat) : Prop :=
  ({ t with regs := s.regs, cores := s.cores } : State) = s ∧ (∀ j, j ≠ p → t.core j = s.core j) ∧
    ({ t.core p with sregs := (s.core p).sregs } : CoreSt) = s.core p

/-- What an SQ instruction that writes `v` to SD does: SD holds v unless it is s0, every other scalar register is as it
was, the program counter moves on by one and wraps at 13 bits (R75; log 15), and nothing else changes. -/
def sqWrites (s t : State) (p : Nat) (sd : SReg) (v : Word) : Prop :=
  (∀ r : Nat, t.sreg p r = if r = sd.val ∧ sd.val ≠ 0 then v else s.sreg p r) ∧
    t.pc p = (s.pc p + 1) % 2 ^ 13 ∧ fieldsKept s t [(F.corPc p).key] ∧ sqFrame s t p

/-- Opcode and packet of the commands that arrive as command packets on U0 or U1 (R430). -/
def hostPacket : Instr → Option (Nat × Packet)
  | .hello p => some (0x0001, p)
  | .sync p => some (0x0002, p)
  | .getInfo p => some (0x0003, p)
  | .bootStage p => some (0x0101, p)
  | .loadImageBegin p => some (0x0102, p)
  | .loadImageChunk p _ => some (0x0103, p)
  | .loadImageCommit p => some (0x0104, p)
  | .getMissing p => some (0x0105, p)
  | .renumber p => some (0x0106, p)
  | .getDieback p => some (0x0110, p)
  | .saveSettings p => some (0x0111, p)
  | .restoreSettings p _ => some (0x0112, p)
  | .setPowerState p _ => some (0x0201, p)
  | .setOperatingPoint p => some (0x0202, p)
  | .setLimit p => some (0x0203, p)
  | .setPacePolicy p => some (0x0204, p)
  | .getPowerAccounting p => some (0x0205, p)
  | .readTelemetry p => some (0x0301, p)
  | .readEnergy p => some (0x0302, p)
  | .readEvents p => some (0x0303, p)
  | .linkStatus p => some (0x0401, p)
  | .linkRetrain p _ => some (0x0402, p)
  | .linkLoopback p => some (0x0403, p)
  | .linkBerTest p => some (0x0404, p)
  | .queueCreate p => some (0x0501, p)
  | .queueDestroy p _ => some (0x0502, p)
  | .binderAlloc p => some (0x0503, p)
  | .windowOpen p => some (0x0504, p)
  | .windowClose p _ => some (0x0505, p)
  | .roleAssign p => some (0x0506, p)
  | .getCertificate p => some (0x0601, p)
  | .attest p => some (0x0602, p)
  | .getMeasurements p => some (0x0603, p)
  | .calReadFactory p => some (0x0701, p)
  | .calWriteUser p => some (0x0702, p)
  | .calClearUser p => some (0x0703, p)
  | .testModeEnter p => some (0x0801, p)
  | .runBist p => some (0x0802, p)
  | .memtestStart p => some (0x0803, p)
  | .memtestStatus p => some (0x0804, p)
  | .longOpPoll op p => some (op.toNat, p)
  | .unknownOpcode l _ op p => if l.val < 30 then none else some (op.toNat, { p with link := if l.val = 30 then 0 else 1 })
  | _ => none

/-- A packet can reach the die: it is alive and awake, the packet's substrate link is ACTIVE or RECONFIG, and the binder
unit has no operation left. -/
structure State.Hears (s : State) (p : Packet) : Prop where
  alive : s.alive = true
  link : s.linkOpen (30 + p.link.val) = true
  awake : s.dieAwake = true
  bops : s.bops = []

/-- A packet that passes checks 1 to 3 of R419 and is no broadcast. -/
structure State.Well (s : State) (op : Nat) (p : Packet) : Prop where
  hears : s.Hears p
  crc : ({ opcode := op, p } : Cmd).crcOk = true
  single : ({ opcode := op, p } : Cmd).broadcast = false
  version : s.versionOk { opcode := op, p } = true
  season : s.seasonOk { opcode := op, p } = true

/-- A packet that passes check 4 of R419 as well: the next in order of an open session, with no packet held behind it. -/
structure State.InTurn (s : State) (op : Nat) (p : Packet) : Prop where
  well : s.Well op p
  agreed : s.session.agreed ≠ 0
  later : op ≠ 1 ∧ op ≠ 2
  next : p.hostSeq.toNat = s.session.next
  seen : diff32 p.devSeen.toNat s.session.dev ≤ 0
  held : s.session.held = []

/-- A packet that reaches its opcode's own checks: checks 5 and 6 of R419 pass too and it is no poll. -/
structure State.Takes (s : State) (op : Nat) (p : Packet) : Prop where
  turn : s.InTurn op p
  known : s.knownOpcode op = true
  ready : s.available op = true
  first : ({ opcode := op, p } : Cmd).poll = false

/-- The state in which a packet that is taken meets checks 5 to 7: NEXT has advanced and SEEN covers DEV_SEEN (R421,
R422, R429). -/
def State.offered (s : State) (p : Packet) : State :=
  ({ s with session := { s.session with next := (s.session.next + 1) % 2 ^ 32 } } : State).see p.devSeen.toNat

/-- The reply of R417 to a packet, as a session that agreed a version at all sends it (R420; log 54). -/
def State.replyTo (s : State) (op : Nat) (p : Packet) (status : Nat) (results : List Byte) : Reply :=
  { opcode := op, version := if s.session.agreed = 0 then 0x0401 else s.session.agreed,
    devSeq := (s.session.dev + 1) % 2 ^ 32, hostSeq := p.hostSeq.toNat, status, duplicate := false, tag := p.tag.toNat,
    season := if s.session.agreed ≠ 0 ∧ s.session.agreed < 0x0400 then 0 else s.session.season,
    results := results ++ List.replicate ((4 - results.length % 4) % 4) 0 }

/-- The reply goes out last on VC3 of the packet's link, and DEV is its DEV_SEQ. -/
def sends (s t : State) (p : Packet) (r : Reply) : Prop :=
  t.session.dev = r.devSeq ∧ (t.link (30 + p.link.val)).txq = (s.link (30 + p.link.val)).txq ++ [(3, .reply r)]

/-- A taken packet is answered: its reply is sent and cached (R423) and NEXT has advanced (R421). -/
def replies (s t : State) (op : Nat) (p : Packet) (status : Nat) (results : List Byte) : Prop :=
  let r := s.replyTo op p status results
  sends s t p r ∧ t.session.next = (s.session.next + 1) % 2 ^ 32 ∧ t.session.cache = (r :: s.session.cache).take 64

/-- A taken packet is answered and changes nothing else. -/
def onlyReplies (s t : State) (op : Nat) (p : Packet) (status : Nat) (results : List Byte) : Prop :=
  replies s t op p status results ∧
    ({ t with session := s.session, links := s.links } : State) =
      { s.offered p with session := s.session, links := s.links } ∧
    (∀ i, i ≠ 30 + p.link.val → t.link i = s.link i)

/-- A little-endian parameter of a packet: n bytes at an offset (R416). -/
def packetPar (p : Packet) (o n : Nat) : Nat := leAt p.params o n

/-- Every register field outside the addresses from lo to hi is as it was, but for EVG_DIEBACK's UNSAVED, which a reply
seen by the host may clear (R458). -/
def blockKept (s t : State) (lo hi : Nat) : Prop :=
  ∀ g : Fld, ¬ (lo * 32 ≤ g.key ∧ g.key < hi * 32) → g.key ≠ F.evgDiebackUnsaved.key → t.fld g = s.fld g

/-- A taken packet is answered and its reply cached, whatever else goes out before or after it. -/
def answered (s t : State) (op : Nat) (p : Packet) (status : Nat) (results : List Byte) : Prop :=
  let r := s.replyTo op p status results
  t.session.dev = r.devSeq ∧ t.session.next = (s.session.next + 1) % 2 ^ 32 ∧
    t.session.cache = (r :: s.session.cache).take 64 ∧ (3, .reply r) ∈ (t.link (30 + p.link.val)).txq

/-- A taken packet starts a long operation on an object (R426, R427): ACCEPTED with its OP_ID, whose ESTIMATE_MS is a free
value, and a slot that runs. -/
def starts (s t : State) (op : Nat) (p : Packet) (object : Nat) : Prop :=
  let id := s.session.nextOp
  (∃ est, answered s t op p stAccepted (leBytes 2 id ++ [0, 0] ++ leBytes 4 est)) ∧
    (∃ o, t.session.ops = (s.offered p).session.ops ++ [o] ∧ o.id = id ∧ o.opcode = op ∧ o.hostSeq = p.hostSeq.toNat ∧
      o.tag = p.tag.toNat ∧ o.object = object ∧ o.state = 0) ∧
    t.session.nextOp = if id = 65535 then 1 else id + 1

/-- A slot is free for a long operation when a packet is taken, and none of its opcode runs on the object (R427). -/
def State.canStart (s : State) (op : Nat) (p : Packet) (object : Nat) : Prop :=
  (s.offered p).session.ops.length < 16 ∧
    ∀ o ∈ (s.offered p).session.ops, ¬ (o.opcode = op ∧ o.object = object ∧ o.state ≠ 2)

/-- A long operation has finished with a status and results (R429). -/
def finishes (s t : State) (id status : Nat) (results : List Byte) : Prop :=
  ∀ o ∈ s.session.ops, o.id = id →
    { o with state := 2, status, progress := 1000, results } ∈ t.session.ops

/-- An operation of this OP_ID runs or is pending. -/
def State.opLive (s : State) (id : Nat) : Prop := ∃ o ∈ s.session.ops, o.id = id ∧ o.state ≠ 2

end Sys2Proof.Machine
end

