-- ==== Sys2Proof/Certificates/Slice0/Obligations.lean ====
section
/-! DEFINITION. The statements for the provers. -/

open Sys2Proof Sys2Proof.Machine

/-- A step with a command at the front of the queue is that command's meaning on the state with the rest of the queue. On
an empty queue (the model's choice, log 18) one core cycle passes, and nothing happens while the core clocks are
stopped. -/
def Obligations.StepRunsFrontCommand : Prop :=
  (∀ (s : State) (c : Instr), Sys2Proof.Machine.step { s with pending := c :: s.pending } = Sys2Proof.Machine.exec c s) ∧
    (∀ s : State, s.pending = [] → Sys2Proof.Machine.step s = .next s.tick) ∧
    (∀ s : State, s.pending = [] → s.clocksOff = true → Sys2Proof.Machine.step s = .next s)

/-- From every state that meets the invariant (scratchpad and register file in canonical form, at most 1,024 events in the
log, at most 64 replies in the cache, at most 256 binder messages in the inbound queue), whatever command waits first,
a step that answers a next state answers one that meets the invariant, and its queue is the rest of the queue. -/
def Obligations.StepKeepsInvariant : Prop :=
  ∀ s t : State, s.Inv → Sys2Proof.Machine.step s = .next t → t.Inv ∧ t.pending = s.pending.tail

/-- The state after reset meets the invariant and no command waits in it. Every register field holds its reset value, so
the ready state is BOOTING, no link is up, no fault cause stands and no dieback entry is unsaved; the log and the
dieback list are empty, no queue, kernel or session exists, and S0 has not begun. -/
def Obligations.ResetMeetsInvariant : Prop :=
  State.reset.Inv ∧ State.reset.pending = [] ∧ (∀ g : Fld, State.reset.fld g = resetOf g.key) ∧
    State.reset.ready = rdBooting ∧ (∀ i, i < 32 → State.reset.linkUp i = false) ∧ State.reset.fld F.fltStatusFaultCause = 0 ∧
    State.reset.fld F.evgDiebackUnsaved = 0 ∧ State.reset.log = [] ∧ State.reset.dieback = [] ∧ State.reset.queues = [] ∧
    State.reset.kernels = [] ∧ State.reset.session = {} ∧ State.reset.pwrgd = false ∧ State.reset.mem.cells = []

/-- ADD, SUB, AND, OR, XOR, SHL, SHR, SRA, SLT, SLTU, MUL and MULHU of a core that runs them write the result of R82 to SD
(nothing where SD is s0), move the program counter on, and change nothing else. Shifts use the low five bits of SB;
SLT compares signed and SLTU unsigned words; MUL gives the low and MULHU the unsigned high word of the product. ADDI
adds its sign-extended immediate, ANDI and ORI take theirs zero-extended, LUI puts its immediate in the upper half;
each writes SD, moves the program counter on, and changes nothing else.

Completes: ADD, SUB, AND, OR, XOR, SHL, SHR, SRA, SLT, SLTU, MUL, MULHU, ADDI, ANDI, ORI, LUI. -/
def Obligations.SqResults : Prop :=
  (∀ (s : State) (c : CoreNo) (p : Nat) (sd sa sb : SReg),
      let a := s.sreg p sa.val
      let b := s.sreg p sb.val
      (s.SqRuns c p (encA 0x00 sd.val sa.val sb.val) → Answers (.add c sd sa sb) s (sqWrites s · p sd (a + b))) ∧
      (s.SqRuns c p (encA 0x01 sd.val sa.val sb.val) → Answers (.sub c sd sa sb) s (sqWrites s · p sd (a - b))) ∧
      (s.SqRuns c p (encA 0x02 sd.val sa.val sb.val) → Answers (.and c sd sa sb) s (sqWrites s · p sd (a &&& b))) ∧
      (s.SqRuns c p (encA 0x03 sd.val sa.val sb.val) → Answers (.or c sd sa sb) s (sqWrites s · p sd (a ||| b))) ∧
      (s.SqRuns c p (encA 0x04 sd.val sa.val sb.val) → Answers (.xor c sd sa sb) s (sqWrites s · p sd (a ^^^ b))) ∧
      (s.SqRuns c p (encA 0x05 sd.val sa.val sb.val) →
        Answers (.shl c sd sa sb) s (sqWrites s · p sd (BitVec.ofNat 32 (a.toNat * 2 ^ (b.toNat % 32))))) ∧
      (s.SqRuns c p (encA 0x06 sd.val sa.val sb.val) →
        Answers (.shr c sd sa sb) s (sqWrites s · p sd (BitVec.ofNat 32 (a.toNat / 2 ^ (b.toNat % 32))))) ∧
      (s.SqRuns c p (encA 0x07 sd.val sa.val sb.val) →
        Answers (.sra c sd sa sb) s (sqWrites s · p sd (BitVec.ofInt 32 (a.toInt / 2 ^ (b.toNat % 32))))) ∧
      (s.SqRuns c p (encA 0x08 sd.val sa.val sb.val) →
        Answers (.slt c sd sa sb) s (sqWrites s · p sd (if a.toInt < b.toInt then 1 else 0))) ∧
      (s.SqRuns c p (encA 0x09 sd.val sa.val sb.val) →
        Answers (.sltu c sd sa sb) s (sqWrites s · p sd (if a.toNat < b.toNat then 1 else 0))) ∧
      (s.SqRuns c p (encA 0x0A sd.val sa.val sb.val) →
        Answers (.mul c sd sa sb) s (sqWrites s · p sd (BitVec.ofNat 32 (a.toNat * b.toNat)))) ∧
      (s.SqRuns c p (encA 0x0B sd.val sa.val sb.val) →
        Answers (.mulhu c sd sa sb) s (sqWrites s · p sd (BitVec.ofNat 32 (a.toNat * b.toNat / 2 ^ 32))))) ∧
  (∀ (s : State) (c : CoreNo) (p : Nat) (sd sa : SReg) (imm : BitVec 16),
      let a := s.sreg p sa.val
      (s.SqRuns c p (encB 0x0C sd.val sa.val imm.toNat) →
        Answers (.addi c sd sa imm) s (sqWrites s · p sd (BitVec.ofInt 32 (a.toInt + imm.toInt)))) ∧
      (s.SqRuns c p (encB 0x0D sd.val sa.val imm.toNat) →
        Answers (.andi c sd sa imm) s (sqWrites s · p sd (BitVec.ofNat 32 (a.toNat &&& imm.toNat)))) ∧
      (s.SqRuns c p (encB 0x0E sd.val sa.val imm.toNat) →
        Answers (.ori c sd sa imm) s (sqWrites s · p sd (BitVec.ofNat 32 (a.toNat ||| imm.toNat)))) ∧
      (s.SqRuns c p (encB 0x0F sd.val 0 imm.toNat) →
        Answers (.lui c sd imm) s (sqWrites s · p sd (BitVec.ofNat 32 (imm.toNat * 65536)))))

/-- BEQ, BNE, BLT and BGE of a core that runs them put PC + OFFSET16 into the program counter if their condition holds and
the target lies in 0 to 8,191, and PC + 1, wrapped at 13 bits (log 15), if it does not hold; nothing else changes. BLT
and BGE compare signed words (log 14). A target outside that range stops the core with a fatal ILLEGAL error and
leaves the program counter and the scalar registers. JAL of a core that runs it writes PC + 1 to SD and jumps to s[SA]
+ IMM16 if that lies in 0 to 8,191, and leaves every other register and the memory as they were; another target is a
fatal ILLEGAL error.

Completes: BEQ, BNE, BLT, BGE, JAL. -/
def Obligations.SqBranchesAndJumps : Prop :=
  (∀ (s : State) (c : CoreNo) (p : Nat) (sa sb : SReg) (off : BitVec 16),
      let a := s.sreg p sa.val
      let b := s.sreg p sb.val
      let target : Int := s.pc p + off.toInt
      let branches := fun (t : State) (holds : Prop) =>
        (holds ∧ 0 ≤ target ∧ target ≤ 8191 → t = s.setFld (F.corPc p) target.toNat) ∧
          (holds ∧ (target < 0 ∨ 8191 < target) → t = s.fatal p erIllegal) ∧
          (¬ holds → t = s.setFld (F.corPc p) ((s.pc p + 1) % 2 ^ 13))
      (s.SqRuns c p (encC 0x18 sa.val sb.val off.toNat) → Answers (.beq c sa sb off) s (branches · (a = b))) ∧
      (s.SqRuns c p (encC 0x19 sa.val sb.val off.toNat) → Answers (.bne c sa sb off) s (branches · (a ≠ b))) ∧
      (s.SqRuns c p (encC 0x1A sa.val sb.val off.toNat) → Answers (.blt c sa sb off) s (branches · (a.toInt < b.toInt))) ∧
      (s.SqRuns c p (encC 0x1B sa.val sb.val off.toNat) → Answers (.bge c sa sb off) s (branches · (b.toInt ≤ a.toInt)))) ∧
  (∀ (s : State) (c : CoreNo) (p : Nat) (sd sa : SReg) (imm : BitVec 16),
      s.SqRuns c p (encB 0x1C sd.val sa.val imm.toNat) →
      let target := (s.sreg p sa.val + imm.signExtend 32).toNat
      (target ≤ 8191 → Answers (.jal c sd sa imm) s fun t =>
        (∀ r : Nat, t.sreg p r = if r = sd.val ∧ sd.val ≠ 0 then BitVec.ofNat 32 (s.pc p + 1) else s.sreg p r) ∧
          t.pc p = target ∧ fieldsKept s t [(F.corPc p).key] ∧ sqFrame s t p) ∧
      (8191 < target → Sys2Proof.Machine.exec (.jal c sd sa imm) s = .next (s.fatal p erIllegal)))

/-- LD32 and LD64 of a core that runs them, at the clump-local address s[SA] + IMM16. An address that is no multiple of
the size is a fatal ALIGN error and LD64 with an odd SD a fatal ILLEGAL error. An aligned load that reaches the banks
of a core q and meets no uncorrectable error writes the little-endian word there to SD (LD64: the low word to SD and
the high word to the register above it; nothing is written to s0), moves the program counter on, and leaves the
memory, every other scalar register, and, if its bank had nothing to report, everything else. An address in a
neighbour that may not be reached is a fatal CLUMP error. A core always reaches its own banks. ST32 and ST64 of a core
that runs them, at the clump-local address s[SA] + IMM16: an address that is no multiple of the size is a fatal ALIGN
error, ST64 with an odd SD a fatal ILLEGAL error, a neighbour that may not be reached a fatal CLUMP error. Otherwise,
where core q's banks hold the address, the 4 bytes of s[SD] or the 8 bytes of s[SD], s[SD + 1] stand there in
little-endian order, every byte outside them reads as before, the program counter moves on, no scalar register
changes, and, if no conflict is reported, nothing else changes.

Completes: LD32, LD64, ST32, ST64. -/
def Obligations.SqLoadsAndStores : Prop :=
  (∀ (s : State) (c : CoreNo) (p : Nat) (sd sa : SReg) (imm : BitVec 16) (port : PortEvent),
      let a := (s.sreg p sa.val + imm.signExtend 32).toNat
      let word := fun q i => BitVec.ofNat 32 (leNat (s.mem.gets (q * 2 ^ 22 + a % 2 ^ 22 + i) 4))
      let reads := fun i (writes : Nat → Option Word) =>
        (∀ b r w, port ≠ .uncorrectable b r w) → Answers i s fun t => t.mem = s.mem ∧
          (∀ r, t.sreg p r = (writes r).getD (s.sreg p r)) ∧ t.pc p = (s.pc p + 1) % 2 ^ 13 ∧
          (port = .clean → fieldsKept s t [(F.corPc p).key] ∧ sqFrame s t p)
      s.reach p (p % 4) = .ok p ∧
      (s.SqRuns c p (encB 0x10 sd.val sa.val imm.toNat) →
        (a % 4 ≠ 0 → Sys2Proof.Machine.exec (.ld32 c sd sa imm port) s = .next (s.fatal p erAlign)) ∧
        (a % 4 = 0 → s.reach p (a / 2 ^ 22 % 4) = .denied →
          Sys2Proof.Machine.exec (.ld32 c sd sa imm port) s = .next (s.fatal p erClump)) ∧
        (∀ q, a % 4 = 0 → s.reach p (a / 2 ^ 22 % 4) = .ok q → reads (.ld32 c sd sa imm port) fun r =>
          if r = sd.val ∧ r ≠ 0 then some (word q 0) else none)) ∧
      (s.SqRuns c p (encB 0x11 sd.val sa.val imm.toNat) →
        (sd.val % 2 = 1 → Sys2Proof.Machine.exec (.ld64 c sd sa imm port) s = .next (s.fatal p erIllegal)) ∧
        (sd.val % 2 = 0 → a % 8 ≠ 0 → Sys2Proof.Machine.exec (.ld64 c sd sa imm port) s = .next (s.fatal p erAlign)) ∧
        (sd.val % 2 = 0 → a % 8 = 0 → s.reach p (a / 2 ^ 22 % 4) = .denied →
          Sys2Proof.Machine.exec (.ld64 c sd sa imm port) s = .next (s.fatal p erClump)) ∧
        (∀ q, sd.val % 2 = 0 → a % 8 = 0 → s.reach p (a / 2 ^ 22 % 4) = .ok q → reads (.ld64 c sd sa imm port) fun r =>
          if r = sd.val ∧ r ≠ 0 then some (word q 0) else if r = sd.val + 1 then some (word q 4) else none))) ∧
  (∀ (s : State) (c : CoreNo) (p : Nat) (sd sa : SReg) (imm : BitVec 16) (port : PortEvent),
      let a := (s.sreg p sa.val + imm.signExtend 32).toNat
      let stores := fun i (q n : Nat) (v : Nat) =>
        let at_ := q * 2 ^ 22 + a % 2 ^ 22
        Answers i s fun t =>
          (∀ j, j < n → t.mem.get (at_ + j) = BitVec.ofNat 8 (v / 256 ^ j)) ∧
          (∀ k, k < at_ ∨ at_ + n ≤ k → t.mem.get k = s.mem.get k) ∧
          (∀ r, t.sreg p r = s.sreg p r) ∧ t.pc p = (s.pc p + 1) % 2 ^ 13 ∧
          ((∀ b w o u, port ≠ .conflict b w o u) →
            fieldsKept s t [(F.corPc p).key] ∧ ({ t with regs := s.regs, mem := s.mem } : State) = s)
      (s.SqRuns c p (encB 0x12 sd.val sa.val imm.toNat) →
        (a % 4 ≠ 0 → Sys2Proof.Machine.exec (.st32 c sd sa imm port) s = .next (s.fatal p erAlign)) ∧
        (a % 4 = 0 → s.reach p (a / 2 ^ 22 % 4) = .denied →
          Sys2Proof.Machine.exec (.st32 c sd sa imm port) s = .next (s.fatal p erClump)) ∧
        (∀ q, a % 4 = 0 → s.reach p (a / 2 ^ 22 % 4) = .ok q →
          stores (.st32 c sd sa imm port) q 4 (s.sreg p sd.val).toNat)) ∧
      (s.SqRuns c p (encB 0x13 sd.val sa.val imm.toNat) →
        (sd.val % 2 = 1 → Sys2Proof.Machine.exec (.st64 c sd sa imm port) s = .next (s.fatal p erIllegal)) ∧
        (sd.val % 2 = 0 → a % 8 ≠ 0 → Sys2Proof.Machine.exec (.st64 c sd sa imm port) s = .next (s.fatal p erAlign)) ∧
        (sd.val % 2 = 0 → a % 8 = 0 → s.reach p (a / 2 ^ 22 % 4) = .denied →
          Sys2Proof.Machine.exec (.st64 c sd sa imm port) s = .next (s.fatal p erClump)) ∧
        (∀ q, sd.val % 2 = 0 → a % 8 = 0 → s.reach p (a / 2 ^ 22 % 4) = .ok q → stores (.st64 c sd sa imm port) q 8
          ((s.sreg p sd.val).toNat + 2 ^ 32 * (s.sreg p (sd.val + 1)).toNat))))

/-- A core reaches its own banks always. A fenced neighbour's banks answer as R79 says: a load returns 0, a store is
dropped, a FENCED_TARGET error is recorded and the kernel goes on. A neighbour that is not fenced is reached exactly
if it belongs to the core set of the kernel that runs on this core and is in Leaf. With no kernel on this core no
neighbour is reached.

Completes: LD32, ST32. -/
def Obligations.ClumpReach : Prop :=
  ∀ (s : State) (p q : Nat),
    (q = p % 4 → s.reach p q = .ok p) ∧
    (q ≠ p % 4 → q < 4 →
      let n := 4 * (p / 4) + q
      (s.fencedCore n = true → s.reach p q = .fenced) ∧
      (s.fencedCore n = false → s.kernelOn p = none → s.reach p q = .denied) ∧
      (∀ k, s.fencedCore n = false → s.kernelOn p = some k →
        (s.reach p q = .ok n ↔ n ∈ k.phys ∧ s.power n = pwLeaf) ∧ (s.reach p q ≠ .ok n → s.reach p q = .denied))) ∧
    (∀ (c : CoreNo) (sd sa : SReg) (imm : BitVec 16) (port : PortEvent),
      let a := (s.sreg p sa.val + imm.signExtend 32).toNat
      a % 4 = 0 → s.reach p (a / 2 ^ 22 % 4) = .fenced →
        let e := s.recordError p erFencedTarget (s.pc p)
        (s.SqRuns c p (encB 0x10 sd.val sa.val imm.toNat) →
          Answers (.ld32 c sd sa imm port) s fun t => t = (e.setSreg p sd.val 0).nextPc p) ∧
        (s.SqRuns c p (encB 0x12 sd.val sa.val imm.toNat) →
          Answers (.st32 c sd sa imm port) s fun t => t = e.nextPc p))

/-- FENCE of a core that runs it or stalls at it goes on, in RUNNING, if every condition it selects holds (no selection
means all four; stores land at once, so STORE always holds): no descriptor queued or running in the matrix engine,
none in the vector engine, no POST outstanding. Else the core is FENCING and nothing else changes. END waits in the
same way for all conditions; then no scoreboard entry of the core is live, the core is ENDED, and the kernels that
this completes do.

Completes: FENCE, END. -/
def Obligations.SqFenceAndEnd : Prop :=
  ∀ (s : State) (c : CoreNo) (p : Nat) (mx vx post store : Bool),
    let all := !mx && !vx && !post && !store
    let mxIdle := (s.core p).mxq = [] ∧ (s.core p).mxRun = none ∧ (s.core p).mxDrain = none
    let vxIdle := (s.core p).vxq = [] ∧ (s.core p).vxRun = none
    let holds := ((mx || all) = true → mxIdle) ∧ ((vx || all) = true → vxIdle) ∧
      ((post || all) = true → (s.core p).postsOut = 0)
    (s.sqAt c (encFence mx.toNat vx.toNat post.toNat store.toNat) csFencing = some p →
      (holds → Sys2Proof.Machine.exec (.fence c mx vx post store) s =
        .next ((s.setFld (F.corStatusState p) csRunning).setFld (F.corPc p) ((s.pc p + 1) % 2 ^ 13))) ∧
      (¬ holds → Sys2Proof.Machine.exec (.fence c mx vx post store) s =
        .next (s.setFld (F.corStatusState p) csFencing))) ∧
    (s.sqAt c encEnd csFencing = some p →
      (¬ (mxIdle ∧ vxIdle ∧ (s.core p).postsOut = 0) → Sys2Proof.Machine.exec (.end_ c) s =
        .next (s.setFld (F.corStatusState p) csFencing)) ∧
      (mxIdle ∧ vxIdle ∧ (s.core p).postsOut = 0 → ∃ u : State, Sys2Proof.Machine.exec (.end_ c) s =
          .next u.settleKernels.unitWork ∧ u.coreState p = csEnded ∧ (∀ i, i < 32 → u.sbLive p i = false) ∧
          u.mem = s.mem ∧ u.kernels = s.kernels ∧ (∀ j, j ≠ p → u.core j = s.core j) ∧
          fieldsKept s u ((F.corStatusState p).key :: (List.range 32).map fun i => (F.spdSbAValid p i).key)))

/-- WAIT with an empty mask is a fatal ILLEGAL error. With POWER 0 the wait ends at once if COR_EVENT meets its mask (any
bit, or with ALL every bit); else the core is WAITING and holds the wait. A core that waits in Leaf goes on when its
events meet the mask. A wait that ends moves the program counter on in RUNNING and, with CLEAR, clears the W1C bits of
its mask; it holds no wait then. Neither touches memory, scalar registers or power states.

Completes: WAIT, CORE_WAKE_EVENT. -/
def Obligations.SqWait : Prop :=
  ∀ (s : State) (c : CoreNo) (p : Nat) (sa : SReg) (all clear : Bool) (imm early gap : BitVec 16),
    let mask := ((s.sreg p sa.val) ||| imm.setWidth 32).toNat % 65536
    let w : WaitReq := { mask, all, clear, power := false }
    let meets := fun (v : WaitReq) (bits : Nat) => if v.all then bits &&& v.mask = v.mask else bits &&& v.mask ≠ 0
    let ends := fun (t : State) (v : WaitReq) => t.coreState p = csRunning ∧ t.pc p = (s.pc p + 1) % 2 ^ 13 ∧
      (t.core p).wait = none ∧ t.mem = s.mem ∧ (∀ r, t.sreg p r = s.sreg p r) ∧ t.power p = s.power p ∧
      (∀ b f, b < 16 → eventFld p b = some f →
        t.fld f = if v.clear = true ∧ v.mask.testBit b = true then 0 else s.fld f)
    (s.SqRuns c p (encWait sa.val all.toNat clear.toNat 0 imm.toNat) →
      (mask = 0 → Sys2Proof.Machine.exec (.wait c sa all clear false imm early gap) s = .next (s.fatal p erIllegal)) ∧
      (mask ≠ 0 → meets w (s.eventWord p) → Answers (.wait c sa all clear false imm early gap) s (ends · w)) ∧
      (mask ≠ 0 → ¬ meets w (s.eventWord p) → Answers (.wait c sa all clear false imm early gap) s fun t =>
        t = (s.setCore p { s.core p with wait := some w }).setFld (F.corStatusState p) csWaiting)) ∧
    (∀ v, s.phys c.val = some p → (s.core p).wait = some v → s.coreState p = csWaiting → s.power p = pwLeaf →
      meets v (s.eventWord p ||| (s.core p).latch) → Answers (.coreWakeEvent c) s (ends · v))

/-- In a static-mode kernel each SB instruction is a fatal SB_RANGE error, as is a claim of length 0 or of a range that
leaves the clump's 16 MiB. A claim takes the lowest free entry i: the entry is live with KIND, SOURCE 0 and the rows
the range touches, SD holds i, the program counter moves on; other entries stay. Without a free entry only
COR_SB_STALL advances. A release of a core with no fetched descriptor and no DMA write waiting for entries frees the
entry that s[SA] [4:0] names and no other; SB.TEST writes the mask of live entries to SD and changes nothing but the
program counter.

Completes: SB_CLAIM, SB_RELEASE, SB_TEST. -/
def Obligations.SqScoreboard : Prop :=
  ∀ (s : State) (c : CoreNo) (p : Nat) (kind : Fin 4) (sa sb sd : SReg),
    let a := (s.sreg p sa.val).toNat
    let len := (s.sreg p sb.val).toNat
    let static := s.fld (F.corStatusMode p) = 0
    let bad := static ∨ len = 0 ∨ 2 ^ 24 < a + len
    (kind.val < 2 → s.SqRuns c p (encSb 0 kind.val sa.val sb.val sd.val) →
      (bad → Sys2Proof.Machine.exec (.sbClaim c kind sa sb sd) s = .next (s.fatal p erSbRange)) ∧
      (¬ bad → (∀ i, i < 32 → s.sbLive p i = true) →
        Sys2Proof.Machine.exec (.sbClaim c kind sa sb sd) s = .next (s.setFld (F.corSbStall p) (s.fld (F.corSbStall p) + 1))) ∧
      (∀ i, ¬ bad → i < 32 → s.sbLive p i = false → (∀ j, j < i → s.sbLive p j = true) →
        Answers (.sbClaim c kind sa sb sd) s fun t =>
          t.sbLive p i = true ∧ (∀ j, j < 32 → j ≠ i → t.sbLive p j = s.sbLive p j) ∧
          t.fld (F.spdSbAKind p i) = kind.val ∧ t.fld (F.spdSbASource p i) = 0 ∧
          t.fld (F.spdSbAFirstRow p i) = a / 256 ∧ t.fld (F.spdSbBLastRow p i) = (a + len - 1) / 256 ∧
          (∀ r, t.sreg p r = if r = sd.val ∧ r ≠ 0 then BitVec.ofNat 32 i else s.sreg p r) ∧
          t.pc p = (s.pc p + 1) % 2 ^ 13 ∧ t.mem = s.mem)) ∧
    (s.SqRuns c p (encSb 1 0 sa.val 0 0) →
      (static → Sys2Proof.Machine.exec (.sbRelease c sa) s = .next (s.fatal p erSbRange)) ∧
      (¬ static → (∀ d ∈ (s.core p).mxq ++ (s.core p).vxq, d.entered = true) →
        (∀ j r, (s.chan j).run = some r → r.sbPend = []) → Answers (.sbRelease c sa) s fun t =>
        t.sbLive p (a % 32) = false ∧ (∀ j, j < 32 → j ≠ a % 32 → t.sbLive p j = s.sbLive p j) ∧
        (∀ r, t.sreg p r = s.sreg p r) ∧ t.pc p = (s.pc p + 1) % 2 ^ 13 ∧ t.mem = s.mem)) ∧
    (s.SqRuns c p (encSb 2 0 0 0 sd.val) →
      (static → Sys2Proof.Machine.exec (.sbTest c sd) s = .next (s.fatal p erSbRange)) ∧
      (¬ static → Answers (.sbTest c sd) s fun t => ∃ m : Nat, m < 2 ^ 32 ∧
        (∀ i, i < 32 → m.testBit i = s.sbLive p i) ∧ sqWrites s t p sd (BitVec.ofNat 32 m)))

/-- ISSUE computes s[SA] + IMM10 × 64. An address that is not 64-byte aligned or does not lie, with the whole descriptor,
in the core's own banks is a fatal BAD_DESC_ADDR error, an uncorrectable error of the fetch a fatal HW_ERROR. With 8
descriptors in the engine's queue only COR_ISSUE_FULL advances. Else the 128 or 256 bytes there are the descriptor:
one the engine rejects is a fatal BAD_DESCRIPTOR error with its tag in the engine's LAST_ERROR register; any other
stands last in its engine's queue with its tag, its NOTIFY and BARRIER bits and the next sequence number, the other
engine's queue holds what it held, the program counter moves on, and scratchpad and scalar registers are as they were.

Completes: ISSUE. -/
def Obligations.SqIssue : Prop :=
  ∀ (s : State) (c : CoreNo) (p : Nat) (eng : Fin 2) (tag : Fin 64) (notify barrier : Bool) (sa : SReg) (imm : BitVec 10)
      (port : PortEvent),
    s.SqRuns c p (encIssue eng.val tag.val notify.toNat barrier.toNat sa.val imm.toNat) →
    let i : Instr := .issue c eng tag notify barrier sa imm port
    let a := (s.sreg p sa.val + BitVec.ofNat 32 (imm.toNat * 64)).toNat
    let size := if eng = 0 then 128 else 256
    let queue := fun (u : State) (e : Nat) =>
      (if e = 0 then (u.core p).mxq else (u.core p).vxq).map fun q => (q.seq, q.tag, q.notify, q.barrier, q.bytes)
    let bytes := s.mem.gets (p * 2 ^ 22 + a % 2 ^ 22) size
    let bad := a % 64 ≠ 0 ∨ a / 2 ^ 22 ≠ p % 4 ∨ 2 ^ 22 < a % 2 ^ 22 + size
    let reason := if eng = 0 then (MxDesc.ofBytes bytes).reason bytes (s.heldFor p)
      else ((VxDesc.ofBytes bytes).reason bytes (p % 4) (s.fld (F.corStatusMode p) == 0)).1
    let lastTag := if eng = 0 then F.mxeLastErrorTag p else F.vxeLastErrorTag p
    (bad → Sys2Proof.Machine.exec i s = .next (s.fatal p erDescAddr)) ∧
    (¬ bad → 8 ≤ (queue s eng.val).length →
      Sys2Proof.Machine.exec i s = .next (s.setFld (F.corIssueFull p) (s.fld (F.corIssueFull p) + 1))) ∧
    (¬ bad → (queue s eng.val).length < 8 → (∃ b r w, port = .uncorrectable b r w) → ∃ u : State,
      Sys2Proof.Machine.exec i s = .next (u.fatal p erHw) ∧ u.mem = s.mem ∧ u.cores = s.cores ∧ u.kernels = s.kernels) ∧
    (¬ bad → (queue s eng.val).length < 8 → port = .clean → reason ≠ 0 → ∃ u : State,
      Sys2Proof.Machine.exec i s = .next (u.fatal p erDescriptor) ∧ u.fld lastTag = tag.val ∧ u.mem = s.mem ∧
        u.cores = s.cores ∧ u.kernels = s.kernels) ∧
    (¬ bad → (queue s eng.val).length < 8 → (∀ b r w, port ≠ .uncorrectable b r w) → reason = 0 → Answers i s fun t =>
      queue t eng.val = queue s eng.val ++ [((s.core p).nextSeq, tag.val, notify, barrier, bytes)] ∧
        queue t (1 - eng.val) = queue s (1 - eng.val) ∧ (t.core p).nextSeq = (s.core p).nextSeq + 1 ∧
        t.pc p = (s.pc p + 1) % 2 ^ 13 ∧ (∀ r, t.sreg p r = s.sreg p r) ∧ t.mem = s.mem ∧
        (∀ j, j ≠ p → t.core j = s.core j))

/-- The descriptor at the head of an engine's queue that order, scoreboard and clocks allow to start, whose streams lie in
the core's own banks and meet no error there, leaves the queue and runs: the engine's STATUS says BUSY with its tag,
and no result stands in the scratchpad before it completes; a matrix descriptor that ran drains meanwhile; scalar
registers, the program counter and the other engine's queue are as they were. A descriptor with BARRIER does not
start, and nothing changes, while an earlier one on either engine has not completed.

Completes: MXE_DESC_START, VXE_CHAIN_START. -/
def Obligations.EnginesStart : Prop :=
  ∀ (s : State) (c : CoreNo) (p : Nat) (met : List (Fin 4 × PortEvent)) (x : QDesc) (rest : List QDesc),
    s.phys c.val = some p →
    let keeps := fun t : State => t.mem = s.mem ∧ t.pc p = s.pc p ∧ (∀ r, t.sreg p r = s.sreg p r) ∧
      t.kernels = s.kernels ∧ (∀ j, j ≠ p → t.core j = s.core j)
    let queue := fun l : List QDesc => l.map fun q => (q.seq, q.tag, q.notify, q.barrier, q.bytes)
    let mx := MxDesc.ofBytes x.bytes
    let vx := VxDesc.ofBytes x.bytes
    let runs := ((s.core p).mxRun.toList ++ (s.core p).mxDrain.toList ++ (s.core p).vxRun.toList).map RunDesc.desc
    let blocked := x.barrier = true ∧ ∃ o ∈ (s.core p).mxq ++ (s.core p).vxq ++ runs, o.seq < x.seq
    ((s.core p).mxq = x :: rest → (s.core p).mxDrain = none →
      (blocked → Sys2Proof.Machine.exec (.mxeDescStart c met) s = .next s) ∧
      (s.mayStart p x mx.ranges = true → (∀ i ∈ mx.positions, i = p % 4) → (∀ e ∈ met, e.2 = .clean) →
        Answers (.mxeDescStart c met) s fun t => keeps t ∧ queue (t.core p).mxq = queue rest ∧
          (t.core p).mxRun.map RunDesc.desc = some x ∧ queue (t.core p).vxq = queue (s.core p).vxq ∧
          (t.core p).mxDrain.map RunDesc.desc = (s.core p).mxRun.map RunDesc.desc ∧
          t.fld (F.mxeStatusBusy p) = 1 ∧ t.fld (F.mxeStatusTag p) = x.tag % 64)) ∧
    ((s.core p).vxq = x :: rest → (s.core p).vxRun = none →
      (blocked → Sys2Proof.Machine.exec (.vxeChainStart c met) s = .next s) ∧
      (s.mayStart p x vx.ranges = true → (∀ i ∈ vx.positions (vx.elemCount s p).1, i = p % 4) → (∀ e ∈ met, e.2 = .clean) →
        Answers (.vxeChainStart c met) s fun t => keeps t ∧ queue (t.core p).vxq = queue rest ∧
          (t.core p).vxRun.map RunDesc.desc = some x ∧ queue (t.core p).mxq = queue (s.core p).mxq ∧
          t.fld (F.vxeStatusBusy p) = 1 ∧ t.fld (F.vxeStatusTag p) = x.tag % 64))

/-- A descriptor that runs, of a core that is not frozen, completes: its engine runs nothing and is not BUSY, its
scoreboard entries are released, COR_LAST_TAG holds its tag, MX_DONE or VX_DONE is set if NOTIFY was, and its results
land. The statement is for a static-mode core in RUNNING whose descriptor's stores lie in its own banks and meet
nothing there: every byte of a stored range holds what the engine computed and every byte outside the stores is as it
was.

Completes: MXE_DESC_COMPLETE, VXE_CHAIN_COMPLETE. -/
def Obligations.EnginesComplete : Prop :=
  ∀ (s : State) (c : CoreNo) (p a : Nat) (r : RunDesc) (data : List Byte),
    s.phys c.val = some p → s.clocksOff = false → s.coreState p = csRunning → s.fld (F.corStatusMode p) = 0 → s.bops = [] →
    s.power p = pwLeaf → r.stores = [(p % 4 * 2 ^ 22 + a, data)] → data.length ≤ 256 → a % 256 = 0 → a < 2 ^ 22 →
    let done := fun (t : State) (event : Nat) (f : Fld) =>
      (∀ k, t.mem.get k = if p * 2 ^ 22 + a ≤ k ∧ k < p * 2 ^ 22 + a + data.length
        then data.getD (k - (p * 2 ^ 22 + a)) 0 else s.mem.get k) ∧
      (∀ o ∈ (t.core p).sbOrder, o.owner ≠ some (.inl r.desc.seq)) ∧ t.fld (F.corLastTag p) = r.desc.tag % 64 ∧
      (r.desc.notify = true → ∀ e, eventFld p event = some e → t.fld e = 1) ∧ t.fld f = 0 ∧
      t.pc p = s.pc p ∧ (∀ j, t.sreg p j = s.sreg p j) ∧ t.kernels = s.kernels
    ((s.core p).mxRun = some r → (s.core p).mxDrain = none → Answers (.mxeDescComplete c []) s fun t =>
      (t.core p).mxRun = none ∧ (t.core p).vxRun = (s.core p).vxRun ∧ done t 0 (F.mxeStatusBusy p)) ∧
    ((s.core p).vxRun = some r → Answers (.vxeChainComplete c []) s fun t =>
      (t.core p).vxRun = none ∧ (t.core p).mxRun = (s.core p).mxRun ∧ done t 1 (F.vxeStatusBusy p))

/-- POST of a core that runs it. An odd SA and an address in space 0, 1 or 4 are fatal ILLEGAL errors. With 16 POSTs
outstanding a core in scoreboard mode stalls unchanged, and one in static mode is FROZEN. Else the POST counts as
outstanding and the program counter moves on: to a place in another die's space 3 or 5 it is a WRITE of 4 bytes on VC0
of the link the numbering gives, with tag 0xFF00 + 2 × the logical core, that asks for an answer; in a reserved space
it is counted in FLT_BAD_SPACE and answered BAD_PARAM, which stands in COR_POST_STATUS.

Completes: POST. -/
def Obligations.SqPost : Prop :=
  ∀ (s : State) (c : CoreNo) (p : Nat) (sa sb : SReg),
    s.SqRuns c p (encA 0x24 0 sa.val sb.val) →
    let a := (s.sreg p sa.val).toNat + 2 ^ 32 * (s.sreg p (sa.val + 1)).toNat
    let space := a / 2 ^ 44 % 8
    let bad := sa.val % 2 = 1 ∨ space = 0 ∨ space = 1 ∨ space = 4
    let n := (s.core p).postsOut
    (bad → Sys2Proof.Machine.exec (.post c sa sb) s = .next (s.fatal p erIllegal)) ∧
    (¬ bad → 16 ≤ n → s.fld (F.corStatusMode p) ≠ 0 → Sys2Proof.Machine.exec (.post c sa sb) s = .next s) ∧
    (¬ bad → 16 ≤ n → s.fld (F.corStatusMode p) = 0 → Answers (.post c sa sb) s fun t =>
      t.coreState p = csFrozen ∧ t.pc p = s.pc p ∧ (t.core p).postsOut = n ∧ t.mem = s.mem) ∧
    (∀ i, ¬ bad → n < 16 → s.bops = [] → space = 3 ∨ space = 5 → a / 2 ^ 47 ≠ s.dieNo → a / 2 ^ 47 % 16 ≤ 11 →
      s.remoteLayoutOk a = true → s.linkOfPost p (a / 2 ^ 47) = some i → s.linkUp i = true → Answers (.post c sa sb) s fun t =>
        (t.link i).txq = (s.link i).txq ++
          [(0, .write (0xFF00 + c.val * 2) none true a (leBytes 4 (s.sreg p sb.val).toNat))] ∧
        (t.core p).postsOut = n + 1 ∧ t.pc p = (s.pc p + 1) % 2 ^ 13 ∧ t.mem = s.mem ∧
        (∀ j, j ≠ i → t.link j = s.link j) ∧ fieldsKept s t [(F.corPc p).key]) ∧
    (¬ bad → n < 16 → s.bops = [] → 6 ≤ space → (s.core p).frozenOwn = false → Answers (.post c sa sb) s fun t =>
      t.fld F.fltBadSpace = (s.fld F.fltBadSpace + 1) % 2 ^ 32 ∧ t.fld (F.corPostStatusStatus p) = stBadParam ∧
        (t.core p).postsOut = n ∧ t.pc p = (s.pc p + 1) % 2 ^ 13 ∧ t.mem = s.mem)

/-- A CTL read of a core that runs it writes to SD the word at the space-4 offset s[SA] + IMM16 [14:0]. Of a register that
the core reaches and that has no RC field and no high word it changes nothing else, but that an access outside the
core's own blocks in static mode counts the cycles in which it freezes the core and what is coupled to it; a read that
is rejected writes 0 to SD. A CTL write of an offset outside the core's own slot and its own PWR_MODE word changes no
register but those counters: it is recorded as a non-fatal CTL_DENIED error and the core goes on.

Completes: CTL_READ, CTL_WRITE. -/
def Obligations.SqRegisterAccess : Prop :=
  ∀ (s : State) (c : CoreNo) (p : Nat) (sd sa : SReg) (imm : BitVec 15),
    let a := ((s.sreg p sa.val).toNat + imm.toNat) % 2 ^ 32
    let own := a / 0x10000 = 0x40 + c.val
    let frozen := if own ∨ s.fld (F.corStatusMode p) ≠ 0 then [] else
      [(F.plnStallCc 0).key, (F.plnStallCc 1).key] ++ (List.range 96).map fun x => (F.corFreezeCc x).key
    let reads := fun (t : State) (v : Word) => (∀ r : Nat, t.sreg p r = if r = sd.val ∧ sd.val ≠ 0 then v else s.sreg p r) ∧
      t.pc p = (s.pc p + 1) % 2 ^ 13 ∧ fieldsKept s t ((F.corPc p).key :: frozen) ∧ sqFrame s { t with fresh := s.fresh } p
    (s.SqRuns c p (encB 0x25 sd.val sa.val imm.toNat) →
      (∀ b r, s.reachReg (.core c) a = .ok b → regAt b = some (b, r, false) → r.pair = false → r.fields.all (·.ty != .rc) = true →
        pwrCoreOf b = none → ¬ (0x20100 ≤ b ∧ b < 0x20130) → ¬ (0x10000 ≤ b ∧ b < 0x20000) →
        Answers (.ctlRead c sd sa imm) s (reads · (BitVec.ofNat 32 (s.regWord b)))) ∧
      (∀ e, s.reachReg (.core c) a = .error e → e ≠ stPoweredDown →
        Answers (.ctlRead c sd sa imm) s (reads · 0))) ∧
    (s.SqRuns c p (encB 0x25 sd.val sa.val (0x8000 + imm.toNat)) →
      ¬ (0x400000 + c.val * 0x10000 ≤ a ∧ a < 0x410000 + c.val * 0x10000) → a ≠ 0x20100 + c.val / 8 * 4 →
      Answers (.ctlWrite c sd sa imm) s fun t =>
        ({ t with fresh := s.fresh, regs := s.regs } : State) = s ∧ t.pc p = (s.pc p + 1) % 2 ^ 13 ∧
        t.fld (F.corErrorCount p) = min 255 (s.fld (F.corErrorCount p) + 1) ∧
        (s.fld (F.corErrorFirstCode p) = 0 → t.fld (F.corErrorFirstCode p) = erCtlDenied ∧
          t.fld (F.corErrorFirstPc p) = s.pc p % 2 ^ 13) ∧
        fieldsKept s t ((F.corPc p).key :: (F.corErrorCount p).key :: (F.corErrorFirstCode p).key :: (F.corErrorFirstPc p).key ::
          frozen))

/-- A word whose major opcode is none of R82's, or with a nonzero must-be-0 field, stops the core that runs it with a
fatal ILLEGAL error. COR_TIMER reaching COR_TIMER_CMP in Leaf sets the TIMER bit of COR_EVENT with the timer at that
value, and changes nothing else.

Completes: ILLEGAL_INSN, COR_TIMER_MATCH. -/
def Obligations.IllegalWordsStop : Prop :=
  ∀ (s : State) (c : CoreNo) (p : Nat) (w : Word),
    (s.phys c.val = some p → s.coreState p = csRunning → s.fetchSq p = w →
      ((w.toNat / 2 ^ 26 ∈ [0x14, 0x15, 0x16, 0x17, 0x1D, 0x1E, 0x1F] ∨ 0x27 ≤ w.toNat / 2 ^ 26) ∨
        (w.toNat / 2 ^ 26 ≤ 0x0B ∧ w.toNat % 2 ^ 11 ≠ 0) ∨ (w.toNat / 2 ^ 26 = 0x21 ∧ w.toNat % 2 ^ 22 ≠ 0) ∨
        (w.toNat / 2 ^ 26 = 0x26 ∧ w.toNat % 2 ^ 26 ≠ 0)) →
      Sys2Proof.Machine.exec (.illegalInsn c) s = .next (s.fatal p erIllegal)) ∧
    (s.phys c.val = some p → s.fencedCore p = false → s.power p = pwLeaf → Answers (.corTimerMatch c) s fun t =>
      t = (s.setFld (F.corTimer p) (s.fld (F.corTimerCmp p))).setFld (F.corEventTimer p) 1)

/-- A fatal error of a core p (here an illegal instruction) of a running kernel that has a second core q with a POST
outstanding: COR_ERROR holds the code and the program counter if it held none, KERNEL_ABORT is logged, the kernel is
aborted with that error and BAD_PARAM, both cores' queues, waits and scoreboard entries are gone; p, which has nothing
in flight, is IDLE, and q is FAULTED until it has drained. Other kernels' cores, and the scratchpad, are as they were.

Completes: ILLEGAL_INSN. -/
def Obligations.FatalErrorAborts : Prop :=
  ∀ (s : State) (c : CoreNo) (p q : Nat) (k : Kernel),
    s.phys c.val = some p → s.logical p = some c.val → s.coreState p = csRunning → legalWord (s.fetchSq p) = false →
    s.kernels = [k] → k.started = true → k.aborted = none → k.phys = [p, q] → p < 96 → q < 96 → p ≠ q → s.blocks = [] →
    s.streams = [] → s.fencedCore p = false → s.fencedCore q = false → s.bit (F.queEqValid k.queue) = false →
    k.queue < 8192 → (s.core p).mxRun = none → (s.core p).vxRun = none → (s.core p).postsOut = 0 →
    (s.core q).postsOut ≠ 0 →
    Answers (.illegalInsn c) s fun t =>
      t.kernels = [{ k with aborted := some (c.val, erIllegal, stBadParam) }] ∧
      t.coreState p = csIdle ∧ t.coreState q = csFaulted ∧
      (∀ j, j = p ∨ j = q → (t.core j).mxq = [] ∧ (t.core j).vxq = [] ∧ (t.core j).wait = none ∧
        ∀ i, i < 32 → t.sbLive j i = false) ∧
      (s.fld (F.corErrorFirstCode p) = 0 → t.fld (F.corErrorFirstCode p) = erIllegal ∧
        t.fld (F.corErrorFirstPc p) = s.pc p % 2 ^ 13) ∧
      (∀ j, j ≠ p → j ≠ q → t.core j = s.core j) ∧ t.mem = s.mem ∧
      logs s t svWarning 1 0 0x0200 (c.val) (k.queue) (erIllegal + s.pc p * 2 ^ 8)

/-- Entry i of a core's inbound write buffer, a write that came over a link, on a core in Leaf with no READBACK waiting
and no open row at its router. An entry behind an earlier one for its bank changes nothing. Of a fenced core it is
dropped and answered UNIT_FAILED. Else its bytes stand at their place, every other byte of every core reads as before,
the entry is gone and the others stay in order, SPD_INBOUND_WAIT counts the cycles it waited, and the link it came
over is sent a STATUS only if the packet asked for one.

Completes: UNSCHEDULED_WRITE_LAND. -/
def Obligations.UnscheduledWritesLand : Prop :=
  ∀ (s : State) (p : CoreNo) (i waited : Nat) (port : PortEvent) (w : InWrite) (rest : List InWrite) (j : Nat),
    takeAt (s.core p.val).inbox i = some (w, rest) → s.power p.val = pwLeaf → w.from_ = .link j → w.window = none →
    (s.link j).backs = [] → (s.router (clumpOf p.val)).opens = [] → s.bops = [] → s.linkUp j = true →
    (∀ b r x, port ≠ .uncorrectable b r x) → (∀ b r x, port ≠ .corrected b r x) →
    let first := ∀ x ∈ (s.core p.val).inbox.take i, bankOf x.off ≠ bankOf w.off
    let answer := fun st => [(2, OutPkt.status w.tag st)]
    let wait := (s.fld (F.spdInboundWait p.val) + waited) % 2 ^ 32
    (¬ first → Sys2Proof.Machine.exec (.unscheduledWriteLand p i waited port) s = .next s) ∧
    (first → s.fencedCore p.val = true → Answers (.unscheduledWriteLand p i waited port) s fun t =>
      t.mem = s.mem ∧ (t.core p.val).inbox = rest ∧ (t.link j).txq = (s.link j).txq ++ answer stUnitFailed) ∧
    (first → s.fencedCore p.val = false → Answers (.unscheduledWriteLand p i waited port) s fun t =>
      memHolds s t (p.val * 2 ^ 22 + w.off) w.data ∧ (t.core p.val).inbox = rest ∧
        (t.link j).txq = (s.link j).txq ++ (if w.ack = true then answer stOk else []) ∧
        t.fld (F.spdInboundWait p.val) = wait ∧ fieldsKept s t [(F.spdInboundWait p.val).key] ∧
        (∀ x, x ≠ p.val → t.core x = s.core x) ∧ t.kernels = s.kernels)

/-- The first read of a core's inbound read queue, one that came over link i with a tag and may be served, on a core in
Leaf with no open row at its router: of a fenced core it is answered UNIT_FAILED; if its row holds an uncorrectable
error it is answered HW_FAULT; else a DATA packet with the tag and the bytes that stand there goes out on VC2 of that
link, at once if the link's adapter stands in the core's clump, else as an open row over the mesh to it. No byte of
the scratchpad changes, and the read is gone from the queue. A read whose row an earlier write still waits to reach is
not served.

Completes: UNSCHEDULED_READ. -/
def Obligations.UnscheduledReadsServed : Prop :=
  ∀ (s : State) (p : CoreNo) (port : PortEvent) (r : InRead) (rest : List InRead) (i tag : Nat) (back : Bool),
    (s.core p.val).readq = r :: rest → s.power p.val = pwLeaf → r.dest = .link i tag back → s.linkUp i = true →
    (s.router (clumpOf p.val)).opens = [] → s.bops = [] →
    let i' : Instr := .unscheduledRead p port
    let sends := fun (t : State) (x : OutPkt) => (t.core p.val).readq = rest ∧ t.mem = s.mem ∧ t.kernels = s.kernels ∧
      (if adapterClump i = clumpOf p.val then (t.link i).txq = (s.link i).txq ++ [(2, x)] ∧ ∀ j, j ≠ i → t.link j = s.link j
       else t.links = s.links ∧
        (t.router (clumpOf p.val)).opens = [{ from_ := 0, home := none, dest := adapterClump i, load := .out i 2 x }])
    (rest = [] → (∃ w ∈ (s.core p.val).inbox, w.seq < r.seq ∧ w.off / 256 = r.off / 256) →
      Sys2Proof.Machine.exec i' s = .next s) ∧
    (s.readReady p.val r = true → s.fencedCore p.val = true → Answers i' s (sends · (.status tag stUnitFailed))) ∧
    (s.readReady p.val r = true → s.fencedCore p.val = false → (∃ b x w, port = .uncorrectable b x w) →
      s.kernels = [] → Answers i' s (sends · (.status tag stHwFault))) ∧
    (s.readReady p.val r = true → s.fencedCore p.val = false → (∀ b x w, port ≠ .uncorrectable b x w) →
      Answers i' s (sends · (.data tag stOk (s.mem.gets (p.val * 2 ^ 22 + r.off) r.len))))

/-- ECC_WRITEBACK takes one due row of a core off its list and changes no byte. WAKE_TIMEOUT on a core below Leaf whose
held accesses for the bank came over links drops them, records event 0x0203 with status HW_FAULT, and leaves the
scratchpad and the accesses of other banks. MEM_WAKE_RETURN of a core in Leaf whose inbound path is empty begins the
transition back to the state the memory wake left, and touches nothing else. RUN_BIST in a mission test or in
stand-alone mode and MEMTEST_START in a mission test are answered ACCEPTED with their OP_ID and begin; else they are
NOT_READY, and of a unit that does not exist or is excluded, or of a mode without a record, BAD_PARAM. BIST_DONE
without failures reports zeros and passed, and tested cores read 0. MEMTEST_DONE records the result.

Completes: RUN_BIST, BIST_DONE, MEMTEST_START, MEMTEST_DONE, ECC_WRITEBACK, WAKE_TIMEOUT, MEM_WAKE_RETURN. -/
def Obligations.BankUpkeep : Prop :=
  (∀ (s : State) (p : CoreNo) (bank : Fin 16) (row : Fin 1024) (x : Nat),
    (Answers (.eccWriteback p bank row) s fun t =>
      (t.core p.val).writeback = (s.core p.val).writeback.erase (bank.val, row.val) ∧ t.mem = s.mem ∧ t.regs = s.regs ∧
        (∀ j, j ≠ p.val → t.core j = s.core j)) ∧
    (s.power p.val ≠ pwLeaf → (s.router (clumpOf p.val)).opens = [] → s.bops = [] →
      (∃ w ∈ (s.core p.val).inbox, bankOf w.off = bank.val) →
      (∀ w ∈ (s.core p.val).inbox, bankOf w.off = bank.val → ∃ j, w.from_ = .link j) →
      (∀ r ∈ (s.core p.val).readq, bankOf r.off = bank.val → ∃ j tag b, r.dest = .link j tag b) →
      Answers (.wakeTimeout p bank) s fun t =>
        (t.core p.val).inbox = (s.core p.val).inbox.filter (fun w => bankOf w.off != bank.val) ∧
        (t.core p.val).readq = (s.core p.val).readq.filter (fun r => bankOf r.off != bank.val) ∧ t.mem = s.mem ∧
        logs s t svWarning ((s.coreUnit p.val).1) stHwFault 0x0203 ((s.coreUnit p.val).2) 0 (bank.val)) ∧
    (∀ l, s.logical p.val = some l → s.power p.val = pwLeaf → (s.core p.val).returnTo = some x → x ≠ pwLeaf →
      (s.core p.val).inbox = [] → (s.core p.val).readq = [] → Answers (.memWakeReturn p) s fun t =>
        t.fld (F.pwrCoreStatusState l) = pwEntering ∧ (t.core p.val).target = x ∧ (t.core p.val).returnTo = none ∧
          t.mem = s.mem ∧ fieldsKept s t [(F.pwrCoreStatusState l).key] ∧ (∀ j, j ≠ p.val → t.core j = s.core j))) ∧
  (∀ (s : State) (p : Packet),
    let n := p.params.length
    let i := packetPar p 0 1
    let id := s.session.nextOp
    (s.Takes 0x0802 p → 4 ≤ n → i ≤ 2 →
      let unit := packetPar p 2 2
      let units := if i = 0 then 96 else if i = 1 then 24 else 32
      let allowed := s.bit F.tstStatusMissionTest = true ∨ s.testMode = true
      (¬ allowed → Answers (.runBist p) s fun t => onlyReplies s t 0x0802 p stNotReady []) ∧
      (allowed → units ≤ unit → unit ≠ 0xFFFF → Answers (.runBist p) s fun t => onlyReplies s t 0x0802 p stBadParam []) ∧
      (allowed → unit < units → s.bistExcluded i unit = true →
        Answers (.runBist p) s fun t => onlyReplies s t 0x0802 p stBadParam []) ∧
      (allowed → (unit = 0xFFFF ∨ (unit < units ∧ s.bistExcluded i unit = false)) → s.memRun.op = none →
        s.canStart 0x0802 p 0 → Answers (.runBist p) s fun t => starts s t 0x0802 p 0 ∧ t.bist = some (id, i, unit) ∧
          t.fld F.tstStatusBistState = 1 ∧ t.fld F.tstStatusBistTarget = i ∧ t.fld F.tstStatusProgress ≤ 1000 ∧ t.mem = s.mem)) ∧
    (s.Takes 0x0803 p → 1 ≤ n → (s.bit F.tstStatusMissionTest = false →
        Answers (.memtestStart p) s fun t => onlyReplies s t 0x0803 p stNotReady []) ∧
      (s.bit F.tstStatusMissionTest = true → (1 < i ∨ (i = 1 ∧ s.memValid = false)) →
        Answers (.memtestStart p) s fun t => onlyReplies s t 0x0803 p stBadParam []) ∧
      (s.bit F.tstStatusMissionTest = true → (i = 0 ∨ (i = 1 ∧ s.memValid = true)) → s.canStart 0x0803 p 0 →
        Answers (.memtestStart p) s fun t => starts s t 0x0803 p 0 ∧ t.fld F.evgMemtestState = 1 ∧
          t.fld F.evgMemtestProgress = 0 ∧ t.fld F.evgMemtestFast = i ∧ t.memRun.op = some id ∧ t.memValid = false ∧
          t.mem = s.mem))) ∧
  (∀ (s : State) (id : Nat),
    s.opLive id →
    (∀ (target unit : Nat), s.bist = some (id, target, unit) → target ≤ 2 → s.bops = [] →
      Answers (.bistDone []) s fun t => finishes s t id stOk (List.replicate 20 0) ∧ t.bist = none ∧
        t.fld F.tstStatusBistState = 2 ∧ t.fld F.tstStatusProgress = 1000 ∧
        t.fld F.tstBistRuns = (s.fld F.tstBistRuns + 1) % 2 ^ 32 ∧ t.dieback = s.dieback ∧
        (target = 0 → ∀ c ∈ s.bistUnits 0 unit, ∀ k, k < 2 ^ 22 → t.mem.get (c * 2 ^ 22 + k) = 0)) ∧
    (∀ (passed : Bool) (rows : Nat), s.fld F.evgMemtestState = 1 → s.alive = true → s.memRun.op = some id →
      Answers (.memtestDone passed rows) s fun t =>
        finishes s t id (if passed then stOk else stHwFault) (leBytes 8 (s.packageBytes / 12 / 4096 * 4096) ++ leBytes 4 rows) ∧
        t.fld F.evgMemtestState = (if passed then 2 else 3) ∧ t.memRun.op = none ∧ (passed = false → t.memRecord = s.memRecord) ∧
        (passed = true → t.memValid = true ∧ t.fld F.evgMemtestProgress = 1000) ∧ t.mem = s.mem))

/-- An uncorrectable word found by the scrub, and engine faults of causes 1 and 2, of a numbered core with no kernel, in a
READY die, fence the core: its EVG_FENCED bit is set and no other changes, its state is FENCED, the dieback list gains
its CORE entry, UNIT_FENCED is set, the die is DEGRADED, and FLT_FENCES counts one. A clean scrub changes nothing. A
clump path fault (cause 3) fences every numbered core of the clump, with one CLUMP entry.

Completes: IMEM_SCRUB, ENGINE_FAULT. -/
def Obligations.CoresAreFenced : Prop :=
  ∀ (s : State) (p : CoreNo) (l : Nat) (cause : Fin 4),
    s.logical p.val = some l → s.kernels = [] → s.bops = [] → s.ready = rdReady → s.dieback.length < 1024 →
    (∀ j, j < 96 → s.bit (F.pwrCoreStatusPending j) = false) → (∀ q, q < 96 → s.fencedCore q = false) →
    let fenced := fun (t : State) (cs : List Nat) (kind unit : Nat) =>
      (∀ q, q < 96 → t.fencedCore q = decide (q ∈ cs)) ∧ t.coreState p.val = csFenced ∧
        (∃ d, t.dieback = s.dieback ++ d ∧ (d = [] ∨ ∃ e, d = [e] ∧ e.kind = kind ∧ e.unit = unit ∧ e.source = 3)) ∧
        (∃ e ∈ t.dieback, e.kind = kind ∧ e.unit = unit) ∧
        t.fld F.fltStatusUnitFenced = 1 ∧ t.ready = rdDegraded ∧ t.mem = s.mem ∧ t.nLogical = s.nLogical
    Sys2Proof.Machine.exec (.imemScrub p false) s = .next s ∧
    Answers (.imemScrub p true) s (fenced · [p.val] 1 p.val) ∧
    (cause.val = 1 ∨ cause.val = 2 → Answers (.engineFault p cause) s (fenced · [p.val] 1 p.val)) ∧
    (cause.val = 3 → Answers (.engineFault p cause) s
      (fenced · (((List.range 4).map fun k => 4 * (p.val / 4) + k).filter fun q => (s.logical q).isSome) 2 (p.val / 4)))

/-- A fenced unit that passes its retest changes nothing. One that fails it is due for a commit: its unfused dieback entry
is put last among the commits, once. A commit with FUSE_VPP at 1,600 mV or more and a free slot programs one slot with
the entry and its valid fuse, marks the entry fused and logs FUSE_COMMIT with the slot; with less the journal is as it
was, VPP_REFUSED is set and the entry stays unfused, to be tried again. Neither touches the scratchpad. A failed noise
test is logged as NOISE_HEALTH and the engines keep their seeds. ATTEST with 32 bytes is answered ACCEPTED with its
OP_ID and takes the body of its report, and with fewer is BAD_PARAM; ATTEST_DONE returns body and signature.

Completes: ATTEST, ATTEST_DONE, FENCE_RETEST, FUSE_COMMIT, NOISE_HEALTH. -/
def Obligations.FuseCommits : Prop :=
  (∀ (s : State) (p : CoreNo) (mv kind unit detail : Nat) (rest : List (Nat × Nat × Nat)),
    Sys2Proof.Machine.exec (.fenceRetest p true) s = .next s ∧
    (∀ d, s.nLogical ≠ 0 → s.fencedCore p.val = true → (s.dieback.find? fun d => !d.fused && ((d.kind == 1 && d.unit == p.val) ||
        ((d.kind == 2 || d.kind == 3) && d.unit == p.val / 4))) = some d →
      Answers (.fenceRetest p false) s fun t => t.mem = s.mem ∧ t.fuses = s.fuses ∧
        t.commits = (if (d.kind, d.unit, d.detail) ∈ s.commits then s.commits else s.commits ++ [(d.kind, d.unit, d.detail)])) ∧
    (s.commits = (kind, unit, detail) :: rest → rest ≠ [] → s.fuses.journal.length < 192 → detail < 2 ^ 21 →
      (1600 ≤ mv → Answers (.fuseCommit mv) s fun t =>
        t.fuses.journal = s.fuses.journal ++ [{ kind, unit, detail, valid := true }] ∧ t.commits = rest ∧ t.mem = s.mem ∧
          (∀ d ∈ t.dieback, d.kind = kind → d.unit = unit → d.detail = detail → d.fused = true) ∧
          t.fld F.evgFuseJournalVppRefused = 0) ∧
      (mv < 1600 → Answers (.fuseCommit mv) s fun t => t.fuses = s.fuses ∧ t.commits = rest ∧ t.mem = s.mem ∧
        t.dieback = s.dieback.map (fun d =>
          if d.kind = kind ∧ d.unit = unit ∧ d.detail = detail then { d with retry := true } else d) ∧
        t.fld F.evgFuseJournalVppRefused = 1)) ∧
    (Answers .noiseHealth s fun t => t.cores = s.cores ∧ t.mem = s.mem ∧
      logs s t svWarning 0 0 0x0204 0 0 0)) ∧
  (∀ (s : State) (p : Packet),
    let u := s.offered p
    let n := p.params.length
    let id := s.session.nextOp
    (s.Takes 0x0602 p → (n < 32 → Answers (.attest p) s fun t => onlyReplies s t 0x0602 p stBadParam []) ∧
      (32 ≤ n → s.canStart 0x0602 p 0 → Answers (.attest p) s fun t => starts s t 0x0602 p 0 ∧
        t.attest = some (id, u.reportBody (slice p.params 0 32)) ∧ t.fld F.secStatusAttestBusy = 1 ∧ t.mem = s.mem))) ∧
  (∀ (s : State) (id : Nat),
    s.opLive id →
    (∀ body, s.attest = some (id, body) → Answers .attestDone s fun t =>
      finishes s t id stOk (body ++ slice (Config.slhSign s.idKey.1 s.idKey.2.1 s.idKey.2.2.1 s.idKey.2.2.2 body) 0 17088) ∧
      t.attest = none ∧ t.fld F.secStatusAttestBusy = 0 ∧ t.fld F.secAttests = (s.fld F.secAttests + 1) % 2 ^ 32 ∧
      t.mem = s.mem))

/-- The log holds at most 1,024 events. One that finds room stands last. In a full log the oldest INFO goes, else the
oldest WARNING; without either, a new INFO or WARNING is itself discarded, and a new ALERT or FAULT takes the place of
the oldest ALERT. No FAULT is ever discarded for another event, and the kept events stay in order. -/
def Obligations.EventLogDiscards : Prop :=
  ∀ (l : List EvRec) (e : EvRec), l.length ≤ 1024 →
    let r := (logAppend l e).1
    r.length ≤ 1024 ∧ (l.length < 1024 → r = l ++ [e]) ∧
    (l.length = 1024 → (∃ x ∈ l, x.severity = svInfo) → ∃ a x b, l = a ++ x :: b ∧ x.severity = svInfo ∧
      (∀ y ∈ a, y.severity ≠ svInfo) ∧ r = a ++ b ++ [e]) ∧
    (l.length = 1024 → (∀ x ∈ l, x.severity ≠ svInfo) → (∃ x ∈ l, x.severity = svWarning) → ∃ a x b, l = a ++ x :: b ∧
      x.severity = svWarning ∧ (∀ y ∈ a, y.severity ≠ svWarning) ∧ r = a ++ b ++ [e]) ∧
    (l.length = 1024 → (∀ x ∈ l, svAlert ≤ x.severity) → e.severity ≤ svWarning → r = l) ∧
    (l.length = 1024 → (∀ x ∈ l, svAlert ≤ x.severity) → svAlert ≤ e.severity → (∃ x ∈ l, x.severity = svAlert) →
      ∃ a x b, l = a ++ x :: b ∧ x.severity = svAlert ∧ (∀ y ∈ a, y.severity ≠ svAlert) ∧ r = a ++ b ++ [e]) ∧
    (l.length = 1024 → (∀ x ∈ l, x.severity = svFault) → r = l) ∧ (∀ f ∈ l, f.severity = svFault → f ∈ r)

/-- PLN_SLOT_EXECUTE with the core clocks on, no kernel running, no open row held and nothing reported by a bank. After
the rows under way have moved, the half stalls if a router of it cannot execute its entry, or for one cycle if two
accesses of an entry meet at one bank's port: it is STALLED, its index stays, and PLN_STALL_CC counts one cycle. Else
it is not STALLED and its index advances by one, from PLN_PERIOD − 1 to 0. A row that WB wrote and that has one cycle
left lands in its bank in either case, and every other byte of the scratchpads stays; a row with more cycles left does
not land.

Completes: PLN_SLOT_EXECUTE. -/
def Obligations.PleachCycle : Prop :=
  ∀ (s : State) (half : Half) (c : Nat) (w : WbRow),
    s.clocksOff = false → s.kernels = [] → s.bops = [] → (∀ r, (s.router r).opens = []) →
    let h := halfNo half
    let i : Instr := .plnSlotExecute half [] []
    let u := (({ s with pcc := s.pcc + 1 } : State).plnPass h).adapterCycle h
    let idx := s.fld (F.plnHalfIndex h)
    let stalls := fun t : State => t.fld (F.plnHalfIndex h) = idx ∧ t.fld (F.plnHalfStalled h) = 1 ∧
      t.fld (F.plnStallCc h) = (s.fld (F.plnStallCc h) + 1) % 2 ^ 32 ∧ t.mem = u.mem
    (∀ r x, u.plnCause h = some (r, x) → Answers i s stalls) ∧
    (u.plnCause h = none → h ∉ s.slotServed → u.selfConflicts h idx ≠ [] → Answers i s stalls) ∧
    (u.plnCause h = none → h ∈ s.slotServed ∨ u.selfConflicts h idx = [] → idx < 4096 → Answers i s fun t =>
      t.fld (F.plnHalfIndex h) = (if s.plnPeriod ≤ idx + 1 then 0 else idx + 1) ∧
      t.fld (F.plnHalfStalled h) = 0 ∧ t.mem = u.mem) ∧
    (c ∈ halfClumps h → (s.router c).wbs = [w] → w.rel = false → (∀ r ∈ halfClumps h, r ≠ c → (s.router r).wbs = []) →
      (w.left = 1 → memHolds s u (w.p * 2 ^ 22 + w.row * 256) w.data) ∧
      (1 < w.left → u.mem = s.mem ∧ (u.router c).wbs = [{ w with left := w.left - 1 }]))

/-- A router that fails in a READY die with no kernel has its bit set in PLN_ROUTER_FAILED and no other bit changes, its
clump's numbered cores and no others are fenced, the dieback list gains its ROUTER entry, and the die is DEGRADED; the
scratchpad stays. A router that has failed already changes nothing. PLN_STALL of a stalled half records the event with
the half, the first router that cannot execute, and the cause, and the half goes on stalling.

Completes: PLN_STALL, ROUTER_FAILED. -/
def Obligations.PleachRoutersFail : Prop :=
  ∀ (s : State) (c : ClumpNo) (cause : Fin 3) (half : Half),
    (s.routerFailed c.val = true → Sys2Proof.Machine.exec (.routerFailed c cause) s = .next s) ∧
    (s.fld F.plnRouterFailed < 2 ^ 24 → s.routerFailed c.val = false → s.kernels = [] → s.bops = [] → s.ready = rdReady →
      s.dieback.length < 1024 →
      (∀ j, j < 96 → s.bit (F.pwrCoreStatusPending j) = false) → (∀ q, q < 96 → s.fencedCore q = false) →
      (∀ q, 4 * c.val ≤ q → q < 4 * c.val + 4 → (s.logical q).isSome = true) → (s.router c.val).opens = [] →
      (∀ i, i < 32 → adapterClump i = c.val → s.linkUp i = false ∧ (s.link i).keepTraffic = false) →
      Answers (.routerFailed c cause) s fun t =>
        (∀ r, r < 24 → t.routerFailed r = (s.routerFailed r || r == c.val)) ∧
        (∀ q, q < 96 → t.fencedCore q = (q / 4 == c.val)) ∧ (∃ e ∈ t.dieback, e.kind = 3 ∧ e.unit = c.val) ∧
        t.ready = rdDegraded ∧ t.mem = s.mem ∧ t.links = s.links) ∧
    (let h := halfNo half
     ∀ r x, s.fld (F.plnHalfStalled h) = 1 → s.plnCause h = some (r, x) → Answers (.plnStall half) s fun t =>
      logs s t svWarning 8 0 0x0301 h 0 (r + x * 2 ^ 8 + s.fld (F.plnHalfIndex h) * 2 ^ 16) ∧
        t.fld (F.plnHalfStalled h) = 1 ∧ t.mem = s.mem ∧ t.routers = s.routers)

/-- With no failed router, the first open row of a router, not for this router, goes to the neighbour in X while its
column differs and then in Y, if a lane is free of scheduled traffic and that neighbour has room on the lanes it
enters by; it leaves the router, the hop is counted, and at a router that is not its destination it stands last. A
write row at its destination enters the core's inbound write buffer, if that has room. OUTBOUND_STREAM_SEND takes the
oldest row k of an outbound stream and puts a 256-byte write to DEST + 256 × k with the stream's season on VC0 of its
own link when that takes a packet at once and no unloaded block's stream drains; the stream keeps its later rows.

Completes: OPEN_ROW_HOP, OUTBOUND_STREAM_SEND. -/
def Obligations.OpenRowsHop : Prop :=
  ∀ (s : State) (c : ClumpNo) (o : OpenRow) (rest : List OpenRow) (n back : Nat),
    let x := c.val % 6
    let y := c.val / 6
    (s.fld F.plnRouterFailed = 0 → (s.router c.val).opens = o :: rest → o.dest ≠ c.val → o.dest < 24 → s.bops = [] →
      ((x < o.dest % 6 ∧ n = c.val + 1 ∧ back = 4) ∨ (o.dest % 6 < x ∧ n = c.val - 1 ∧ back = 3) ∨
        (x = o.dest % 6 ∧ y < o.dest / 6 ∧ n = c.val + 6 ∧ back = 1) ∨
        (x = o.dest % 6 ∧ o.dest / 6 < y ∧ n = c.val - 6 ∧ back = 2)) →
      ((s.router n).opens.filter fun r => r.from_ == back).length < 16 → (∀ r ∈ (s.router n).opens, r.dest ≠ n) →
      (∀ r ∈ rest, r.dest ≠ c.val) → (∀ d, d < 5 → s.laneFree c.val d = true) →
      let o' : OpenRow := { o with from_ := back, home := none }
      Answers (.openRowHop c) s fun t => (t.router c.val).opens = rest ∧ t.mem = s.mem ∧
        t.fld (F.plnRtrOpen c.val) = (s.fld (F.plnRtrOpen c.val) + 1) % 2 ^ 64 ∧
        (o.dest ≠ n → (t.router n).opens = (s.router n).opens ++ [o'] ∧ t.cores = s.cores) ∧
        (∀ p w, o.dest = n → (s.router n).opens = [] → o.load = .write p w → (s.core p).inbox.length < 16 →
          (t.router n).opens = [] ∧ (t.core p).inbox = (s.core p).inbox ++ [w])) ∧
    (∀ (a : LinkNo) (m : Fin 2) (t : AdpStream) (k : Nat) (row : List Byte) (more : List (Nat × List Byte)),
      tfind s.streams (a.val * 4 + 2 + m.val) = some t → t.rows = (k, row) :: more → s.takesWrite a.val = true →
      s.draining = [] →
      Answers (.outboundStreamSend a m) s fun u =>
        (u.link a.val).txq = (s.link a.val).txq ++ [(0, .write (0xFE00 + a.val * 8 + m.val)
          (if s.link2x a.val then none else some t.tag) false (t.dest + 256 * k) row)] ∧
        (tfind u.streams (a.val * 4 + 2 + m.val)).map AdpStream.rows = some more ∧
        u.mem = s.mem ∧ u.regs = s.regs ∧ (∀ j, j ≠ a.val → u.link j = s.link j))

/-- A TAIL doorbell of a WORK or DMA_RING context, and a HEAD doorbell of a COMPLETION or EVENT context with no record
held for it, with the context's season, whoever rings it: a value that neither moves the index back nor beyond what
the ring holds is the new TAIL or HEAD, and no other register field and no byte changes; a TAIL doorbell lets a DMA
channel that stopped at a missing OWN go on. Any other value changes neither index and is counted in QUE_DB_REJECT.

Completes: DOORBELL_TAIL, DOORBELL_HEAD. -/
def Obligations.DoorbellsMoveRings : Prop :=
  ∀ (s : State) (src : Agent) (q : CtxNo) (value : Word),
    let ty := s.fld (F.queCfgType q.val)
    let v := value.toNat % 65536
    let moved := (v + 65536 - s.fld (F.queHead q.val)) % 65536
    let counted := fun t : State => t.fld (F.queDbReject q.val) = (s.fld (F.queDbReject q.val) + 1) % 2 ^ 32 ∧
      t.fld (F.queTail q.val) = s.fld (F.queTail q.val) ∧ t.fld (F.queHead q.val) = s.fld (F.queHead q.val)
    (s.queue q.val).destroying = false → value.toNat / 65536 = s.fld (F.queSeason q.val) → s.ringFenced q.val = false →
      s.bops = [] →
    (ty = qtWork ∨ ty = qtDma →
      (s.ringUsed q.val ≤ moved → moved ≤ s.ringSize q.val → Answers (.doorbellTail src q value) s fun t =>
        t.fld (F.queTail q.val) = v ∧ fieldsKept s t [(F.queTail q.val).key] ∧ t.mem = s.mem ∧ t.cores = s.cores ∧
          t.kernels = s.kernels ∧ (ty = qtDma → (t.chan (s.chanOf q.val)).ownStop = false)) ∧
      (moved < s.ringUsed q.val ∨ s.ringSize q.val < moved → Answers (.doorbellTail src q value) s counted)) ∧
    (ty = qtCompletion ∨ ty = qtEvent → (∀ x ∈ s.queues, (s.queue x.1).held = []) →
      (moved ≤ s.ringUsed q.val → Answers (.doorbellHead src q value) s fun t =>
        t.fld (F.queHead q.val) = v ∧ fieldsKept s t [(F.queHead q.val).key] ∧ t.mem = s.mem ∧ t.cores = s.cores) ∧
      (s.ringUsed q.val < moved → Answers (.doorbellHead src q value) s counted))

/-- CONTROL doorbells of a DMA_RING context with its season, whoever rings them. PAUSE: an IDLE channel is PAUSED, an
ACTIVE one is PAUSING, one in its read-back pauses after its descriptor, any other stays. RESUME: a PAUSING channel is
ACTIVE again, a PAUSED one is ACTIVE with a descriptor in progress and IDLE without, one with a pause due after its
read-back loses it, any other stays. RESTART: a HALTED channel is IDLE, any other stays. Nothing else changes. A
drained channel in PAUSING is PAUSED. A doorbell of any kind from Hedger with another season changes only
QUE_DB_REJECT.

Completes: DOORBELL_TAIL, DOORBELL_HEAD, PAUSE, RESUME, RESTART, DMA_PAUSE_DRAINED. -/
def Obligations.ControlDoorbells : Prop :=
  ∀ (s : State) (src : Agent) (q : CtxNo) (value : Word) (e : EngNo) (j : ChanNo),
    let c := s.chanOf q.val
    let x := s.chState c
    let v := value.toNat % 65536
    let k := s.chan c
    let good := s.fld (F.queCfgType q.val) = qtDma ∧ (s.queue q.val).destroying = false ∧
      value.toNat / 65536 = s.fld (F.queSeason q.val) ∧ s.ringFenced q.val = false
    (good → v = 1 → Answers (.pause src q value) s fun t => t =
      if x = chIdle then s.setChState c chPaused else if x = chActive then s.setChState c chPausing
      else if x = chReadback then s.setChan c { k with pauseAfter := true } else s) ∧
    (good → v = 2 → Answers (.resume src q value) s fun t => t =
      if x = chPausing then s.setChState c chActive
      else if x = chPaused then s.setChState c (if k.run.isSome then chActive else chIdle)
      else if x = chReadback then s.setChan c { k with pauseAfter := false } else s) ∧
    (good → v = 4 → Answers (.restart src q value) s fun t => t = if x = chHalted then s.setChState c chIdle else s) ∧
    (let d := e.val * 64 + j.val
     s.chState d = chPausing → s.bops = [] → (∀ r, (s.chan d).run = some r → r.out = [] ∧ r.carry = [] ∧ (s.queue r.ring).destroying = false) →
      Answers (.dmaPauseDrained e j) s fun t => t = s.setChState d chPaused) ∧
    (s.fld (F.queCfgType q.val) ≠ qtUnused → (s.queue q.val).destroying = false → s.bops = [] →
      value.toNat / 65536 ≠ s.fld (F.queSeason q.val) →
      ∀ i ∈ [Instr.doorbellTail .hedger q value, .doorbellHead .hedger q value, .pause .hedger q value,
        .resume .hedger q value, .restart .hedger q value],
        Sys2Proof.Machine.exec i s = .next (s.setFld (F.queDbReject q.val) (s.fld (F.queDbReject q.val) + 1)))

/-- An IDLE channel whose ring, which stands outside this die's scratchpad, holds an entry. A descriptor without OWN stops
the channel until the next TAIL doorbell and sets OWN_MISS, and nothing else changes. One that passes R322 and moves
data between cores of this die runs: the channel is ACTIVE with DMA_CH_SRC, DMA_CH_DST and DMA_CH_REMAIN as the
descriptor has them, no beat issued, HEAD and the scratchpad as they were. One that breaks R322, with a destination in
package memory, runs no beat and fails with BAD_PARAM and no byte moved.

Completes: DMA_DESCRIPTOR_START. -/
def Obligations.DmaStartsDescriptors : Prop :=
  ∀ (s : State) (e : EngNo) (j : ChanNo) (data : List Byte),
    let c := e.val * 64 + j.val
    let q := s.fld (F.dmaChStatusQueue e.val j.val)
    let b := slice data 0 64
    let i : Instr := .dmaDescriptorStart e j (.ok data) .clean
    let own := (dmCtl b).testBit 0 = true
    let link := !s.isLocal (dmDst b) || !s.isLocal (dmSrc b)
    s.chState c = chIdle → s.clocksOff = false → (s.chan c).run = none → (s.chan c).ownStop = false → s.ringUsed q ≠ 0 →
      (s.queue q).destroying = false → (s.queue q).held = [] → (s.queue q).ringCore = none →
      (s.fld F.fltDmaEngFailed).testBit e.val = false → s.bops = [] → s.underWay = [] →
    (¬ own → Answers i s fun t =>
      t = (s.setChan c { s.chan c with ownStop := true }).setFld (F.queStatusOwnMiss q) 1) ∧
    (own → s.dmaCheck c b = true → link = false → s.kernels = [] → Answers i s fun t =>
      (∃ r, (t.chan c).run = some r ∧ r.bytes = b ∧ r.idx = s.fld (F.queHead q) ∧ r.beat = 0 ∧ r.out = [] ∧
        r.failed = none) ∧
      t.chState c = chActive ∧ t.fld (F.dmaChSrc e.val j.val) = dmSrc b ∧ t.fld (F.dmaChDst e.val j.val) = dmDst b ∧
      t.fld (F.dmaChRemain e.val j.val) = dmLen b ∧ t.fld (F.queHead q) = s.fld (F.queHead q) ∧ t.mem = s.mem) ∧
    (own → s.dmaCheck c b = false → addrSpace (dmDst b) = 0 → addrSpace (dmSrc b) = 0 →
      s.bit (F.queNotifyEn (s.fld (F.queCqContext q))) = false → Answers i s fun t =>
      ∃ r, (t.chan c).run = some r ∧ r.bytes = b ∧ r.beat = 0 ∧ r.out = [] ∧ r.failed = some (stBadParam, 0) ∧
        r.lead = some 0)

/-- A channel that is the only one with work issues its next beat as one 256-byte row read of a core of this die in Leaf,
and counts it; its data goes to package memory, so the request stands in the core's read queue if the descriptor's
link, a base link, joins the core's clump, and enters the mesh at that link's clump as an open row if it joins
another. The row that answers the oldest read of a descriptor to package memory is written at DST plus the bytes
written so far, as one 256-byte WRITE on VC0 of the descriptor's link with the descriptor's tag, and DMA_CH_CRC takes
it in. A read answered BUSY with retries left is sent again on VC1 and counted in DMA_CH_RETRY_CNT; one answered with
a rejection that is not retried is the descriptor's failure, with the link and tag of the answer in FAULT.

Completes: DMA_BEAT_ISSUE, DMA_READ_RETURN, DMA_BEAT_REJECT. -/
def Obligations.DmaMovesBeats : Prop :=
  ∀ (s : State) (e : EngNo) (j : ChanNo) (r : DmaRun) (o : DmaOut) (more : List DmaOut) (i : LinkNo) (row : List Byte)
      (status : Byte) (tag : BitVec 16) (x : ChanSt),
    let c := e.val * 64 + j.val
    let b := r.bytes
    let tagOf := e.val * 2 ^ 12 + j.val * 2 ^ 6 + r.idx % 64
    s.clocksOff = false → s.bops = [] → s.chans = [(c, x)] → x.run = some r → r.failed = none → r.step = 0 → r.gap = false →
      r.sbPend = [] → r.sbLive = [] → r.carry = [] → dmSrcFixed b = false → dmDstFixed b = false → dmFunnel b = false →
      dmSrc b % 256 = 0 → dmDst b % 256 = 0 → dmLen b % 256 = 0 → dmDst b + dmLen b < 2 ^ 64 →
    let a := dmSrc b + 256 * r.beat
    let l := addrOff a / 2 ^ 22
    (∀ p, r.out = [] → r.rest = false → r.beat < dmBeats b → s.chState c = chActive → (∀ y ∈ s.links, y.2.bheld = []) →
      addrSpace (dmDst b) = 0 → r.link = some i.val → i.val < 24 → s.isLocal a = true → addrSpace a = 1 → s.phys l = some p →
      s.power p = pwLeaf → s.fencedCore p = false → (s.router i.val).opens = [] → (s.core p).readq.length < 8 →
      s.fld (F.dmaChStatusPriority e.val j.val) < 4 →
      Answers (.dmaBeatIssue e) s fun t =>
        (∃ r', (t.chan c).run = some r' ∧ r'.beat = r.beat + 1 ∧ r'.out = [{ beat := r.beat, link := none }] ∧
          r'.bytes = b) ∧
        (let rd : InRead := { seq := s.inSeq, off := addrOff a % 2 ^ 22, len := 256, dest := .dma c r.beat }
         if p / 4 = i.val then (t.core p).readq = (s.core p).readq ++ [rd] ∧ (t.router i.val).opens = []
         else (t.core p).readq = (s.core p).readq ∧
           (t.router i.val).opens = [{ from_ := 0, home := none, dest := p / 4, load := .read p rd }]) ∧
        t.fld (F.dmaEngBeats e.val) = (s.fld (F.dmaEngBeats e.val) + 1) % 2 ^ 64 ∧ t.mem = s.mem) ∧
    (r.out = o :: more → o.link = some i.val → o.data = none → o.lost = false → (∀ m ∈ more, m.beat ≠ o.beat) →
      (∀ m, more.head? = some m → m.data = none ∧ m.lost = false) →
      (o.beat * 256 = r.written → r.written + 256 ≤ dmLen b → r.beat < dmBeats b → addrSpace (dmDst b) = 0 →
        addrSpace (dmDst b + dmLen b) = 0 → r.link = some i.val → s.linkUp i.val = true →
        Answers (.dmaReadReturn e j row) s fun t =>
          (t.link i.val).txq = (s.link i.val).txq ++
            [(0, .write tagOf none false (dmDst b + r.written) (slice row 0 256))] ∧
          (∃ r', (t.chan c).run = some r' ∧ r'.out = more ∧ r'.written = r.written + 256 ∧ r'.carry = []) ∧
          t.fld (F.dmaChCrc e.val j.val) =
            crcMore (dmCrc b) (s.fld (F.dmaChCrc e.val j.val)) (slice row 0 256) % 2 ^ 64 ∧ t.mem = s.mem) ∧
      (o.tries < s.fld (F.dmaChCtlRetryLimit e.val j.val) → s.linkUp i.val = true →
        Answers (.dmaBeatReject e j 0x20 (some i) tag true) s fun t =>
          (t.link i.val).txq = (s.link i.val).txq ++ [(1, .read tagOf (dmSrc b + 256 * o.beat) 256)] ∧
          (∃ r', (t.chan c).run = some r' ∧ r'.out = { o with tries := o.tries + 1 } :: more ∧ r'.failed = none) ∧
          t.fld (F.dmaChRetryCnt e.val j.val) = (s.fld (F.dmaChRetryCnt e.val j.val) + 1) % 2 ^ 32 ∧ t.mem = s.mem) ∧
      (more ≠ [] → addrSpace (dmDst b) = 0 → status ≠ 0x20 → status ≠ 0x40 →
        Answers (.dmaBeatReject e j status (some i) tag true) s fun t => t.mem = s.mem ∧ t.links = s.links ∧
          ∃ r', (t.chan c).run = some r' ∧ r'.out = more ∧
            r'.failed = some (status.toNat, i.val * 2 ^ 24 + tag.toNat)))

/-- A remote read-back answered OK with CRC_DEST set sends the CRC on the base link chosen at the descriptor's start (log
28). Once the record is there, the descriptor's word with OWN cleared is written to its slot, HEAD advances past it
and QUE_ENTRIES counts it. Once the last step is acknowledged the channel has no descriptor, its LAST_STATUS is OK and
it is IDLE, or PAUSED if a pause waited. A read-back answered with a rejection makes that the descriptor's failure.

Completes: DMA_READBACK_ANSWER, DMA_COMPLETION_ACK. -/
def Obligations.DmaCompletes : Prop :=
  ∀ (s : State) (e : EngNo) (j : ChanNo) (r : DmaRun) (status : Byte) (i : Nat),
    let c := e.val * 64 + j.val
    let b := r.bytes
    let tag := e.val * 2 ^ 12 + j.val * 2 ^ 6 + r.idx % 64
    let raw := s.fld (F.dmaChCrc e.val j.val)
    let crc := if dmCrc b = 0 then 0 else if dmCrc b = 1 then raw ^^^ 0xFFFFFFFF else raw
    (s.chan c).run = some r → r.failed = none → s.bops = [] →
    (r.step = 1 → s.isLocal (dmDst b) = false → r.base0 = some i → s.linkUp i = true → dmCrcDest b ≠ 0 →
      s.isLocal (dmCrcDest b) = false → Answers (.dmaReadbackAnswer e j 0 .clean) s fun t =>
        (t.link i).txq = (s.link i).txq ++ [(0, .write tag none false (dmCrcDest b) (leBytes 8 crc))] ∧
        (t.chan c).run = some { r with step := 2 } ∧ t.mem = s.mem ∧ t.regs = s.regs) ∧
    (r.step = 1 → s.isLocal (dmDst b) = false → status ≠ 0 → r.sbLive = [] →
      s.bit (F.queNotifyEn (s.fld (F.queCqContext r.ring))) = false → Answers (.dmaReadbackAnswer e j status .clean) s fun t =>
        ∃ r', (t.chan c).run = some r' ∧ r'.step = 3 ∧ r'.failed = some (status.toNat, faultWord r.link tag)) ∧
    (r.step = 3 → r.out = [] → s.underWay = [] → (s.queue r.ring).held = [] → (s.queue r.ring).ringCore = none → r.ring < 8192 →
      s.isLocal (s.slotAddr r.ring r.idx 64) = false → s.linkForAddr (s.slotAddr r.ring r.idx 64) = some i →
      s.linkUp i = true → Answers (.dmaCompletionAck e j status) s fun t =>
        (t.link i).txq = (s.link i).txq ++
          [(0, .write tag none false (s.slotAddr r.ring r.idx 64) (leBytes 4 (dmCtl b / 2 * 2)))] ∧
        t.fld (F.queHead r.ring) = (r.idx + 1) % 2 ^ 16 ∧
          t.fld (F.queEntries r.ring) = (s.fld (F.queEntries r.ring) + 1) % 2 ^ 32 ∧ (t.chan c).run = some { r with step := 4 } ∧ t.mem = s.mem) ∧
    (r.step = 5 → r.out = [] → s.underWay = [] → (s.queue r.ring).destroying = false → r.halts = false →
      (s.fld F.fltDmaEngFailed).testBit e.val = false → s.chState c = chReadback →
      Answers (.dmaCompletionAck e j status) s fun t => (t.chan c).run = none ∧
        t.fld (F.dmaChStatusLastStatus e.val j.val) = stOk ∧
        t.chState c = (if (s.chan c).pauseAfter = true then chPaused else chIdle) ∧ t.mem = s.mem)

/-- A fault of an engine with no descriptor in progress in a READY die: its bit is set in FLT_DMA_ENG and no other,
DMA_ENGINE is set, the die is DEGRADED, and every bound channel of the engine is HALTED; the scratchpad stays if no
EVENT context is named. A held completion record whose ring, on an unfenced core in Leaf, has room stands at the
ring's TAIL with its PHASE, TAIL and QUE_ENTRIES advance by one, every other byte stays, and nothing is held any more;
a write that is rejected leaves it held. WDOG_KICK restarts the watchdog. A watchdog that runs out and a fault of
Hedger of causes 5, 6 or 8 leave the die FAULTED with their cause and core clocks stopped.

Completes: DMA_ENGINE_FAULT, RECORD_WRITE_RETRY, HEDGER_WATCHDOG, HEDGER_FAULT, WDOG_KICK. -/
def Obligations.DmaEnginesFail : Prop :=
  (∀ (s : State) (e : EngNo) (q : CtxNo) (r : CRec) (p : Nat) (status : Byte),
    ((s.fld F.fltDmaEngFailed).testBit e.val = false → s.fld F.fltDmaEngFailed < 256 → s.ready = rdReady → s.bops = [] →
      (∀ j, j < 64 → (s.chan (e.val * 64 + j)).run = none) → 
      (∀ j, j < 64 → s.bit (F.queEqValid (s.fld (F.dmaChStatusQueue e.val j))) = false) →
      (∀ j, j < 64 → s.fld (F.dmaChStatusQueue e.val j) < 8192) →
      Answers (.dmaEngineFault e) s fun t =>
        (∀ k, k < 8 → (t.fld F.fltDmaEngFailed).testBit k = ((s.fld F.fltDmaEngFailed).testBit k || k == e.val)) ∧
        t.fld F.fltStatusDmaEngine = 1 ∧ t.ready = rdDegraded ∧ t.mem = s.mem ∧
        (∀ j, j < 64 → t.chState (e.val * 64 + j) =
          if s.chState (e.val * 64 + j) = chUnbound then chUnbound else chHalted)) ∧
    (let cq := s.fld (F.queCqContext q.val)
     (s.queue q.val).held = [r] →
      (r.slot = none → s.RingRoom q.val p → s.bops = [] → (s.queue q.val).active = [] →
        Answers (.recordWriteRetry q 0) s fun t => recordLands s t q.val p r ∧
          t.fld (F.queEntries cq) = (s.fld (F.queEntries cq) + 1) % 2 ^ 32 ∧
          (t.queue q.val).held = [] ∧ t.fld (F.queStatusHeld q.val) = 0 ∧
          t.fld (F.queStatusLastStatus q.val) = r.status % 256) ∧
      (status ≠ 0 → Answers (.recordWriteRetry q status) s fun t =>
        (t.queue q.val).held = [r] ∧ t.mem = s.mem ∧ t.fld (F.queTail cq) = s.fld (F.queTail cq)))) ∧
  (∀ (s : State),
    s.bops = [] →
    Sys2Proof.Machine.exec .wdogKick s = .next { s with wdogAt := s.time } ∧
    (∀ pc : Word, s.alive = true → s.bit F.fltWdogEn = true → s.dieAwake = true → s.ready ≠ rdFaulted → s.kernels = [] →
      (∀ c, c < 512 → s.chState c = chUnbound) → s.chans = [] →
      Answers (.hedgerWatchdog pc) s fun t => t.ready = rdFaulted ∧ t.fld F.fltStatusFaultCause = 4 ∧ t.clocksOff = true ∧
        s.wdogAt + s.fld F.fltWdogTimeoutMs * 1000 ≤ t.time ∧ t.mem = s.mem) ∧
    (∀ pc : Word, s.bit F.fltWdogEn = false → Sys2Proof.Machine.exec (.hedgerWatchdog pc) s = .next s) ∧
    (∀ (cause : Fin 9) (pc : Word), s.alive = true → s.ready ≠ rdFaulted → s.kernels = [] → s.chans = [] →
      (∀ c, c < 512 → s.chState c = chUnbound) → (cause.val = 5 ∨ cause.val = 6 ∨ (cause.val = 8 ∧ 3 ≤ s.stage)) →
      Answers (.hedgerFault cause pc) s fun t => t.ready = rdFaulted ∧ t.fld F.fltStatusFaultCause = cause.val ∧
        t.clocksOff = true ∧ (∀ i, i < 30 → t.linkUp i = false) ∧ t.mem = s.mem))

/-- An ARRIVE or ADD by Hedger to an armed binder without a list, a waiter, a notified queue or an UP binder moves COUNT
on by 1 or v; while COUNT reaches TARGET, TARGET moves on by STEP and RELEASES by one; nothing else changes. RESET
sets COUNT to 0 and TARGET to STEP and leaves the rest, and is rejected while PENDING_UP is nonzero. An operation on a
binder that is not armed is rejected. A rejection changes only BND_REJECT. BINDER_ALLOC arms a FREE binder with COUNT
0 and TARGET STEP, and frees an armed one that nothing waits on.

Completes: BINDER_ALLOC, ARRIVE, BINDER_ADD, BINDER_RESET. -/
def Obligations.BindersCount : Prop :=
  (∀ (s : State) (address : DWord) (v : Word),
    let a := address.toNat
    let b := a % 2 ^ 44 / 64
    let local_ := a % 64 = 0 ∧ a / 2 ^ 44 % 8 = 2 ∧ a % 2 ^ 44 < 2 ^ 19 ∧ a / 2 ^ 47 = s.dieNo ∧ a / 2 ^ 47 % 16 ≤ 11
    let step := s.fld (F.bndStep b)
    let target := s.fld (F.bndTarget b)
    let adds := fun (n : Nat) (t : State) =>
      let count := (s.fld (F.bndCount b) + n) % 2 ^ 64
      let fires := if count < target then 0 else (count - target) / step + 1
      t.fld (F.bndCount b) = count ∧ (fires ≠ 0 → t.fld (F.bndTarget b) = (target + fires * step) % 2 ^ 64 ∧
        t.fld (F.bndReleases b) = (s.fld (F.bndReleases b) + fires) % 2 ^ 32) ∧
      fieldsKept s t ((F.bndCount b).key :: if fires = 0 then [] else [(F.bndTarget b).key, (F.bndReleases b).key]) ∧
      t.mem = s.mem ∧ t.cores = s.cores ∧ t.links = s.links
    let rejected := s.setFld F.bndReject (s.fld F.bndReject + 1)
    local_ → s.bops = [] →
    (s.armed b = true → s.binder b = {} → s.queues = [] → step ≠ 0 → s.fld (F.bndUp b) = 0 →
      Answers (.arrive .hedger address 0) s (adds 1) ∧ Answers (.binderAdd .hedger address v) s (adds v.toNat)) ∧
    (s.armed b = true → s.fld (F.bndPendingUp b) = 0 → Answers (.binderReset .hedger address 0) s fun t =>
      t = (s.setFld (F.bndCount b) 0).setFld (F.bndTarget b) step) ∧
    (s.armed b = true → s.fld (F.bndPendingUp b) ≠ 0 →
      Sys2Proof.Machine.exec (.binderReset .hedger address 0) s = .next rejected) ∧
    (s.armed b = false → ∀ i ∈ [Instr.arrive .hedger address 0, .binderAdd .hedger address v, .binderReset .hedger address 0],
      Sys2Proof.Machine.exec i s = .next rejected)) ∧
  (∀ (s : State) (p : Packet),
    let b := packetPar p 0 2
    let flags := packetPar p 2 1
    let n := packetPar p 3 1
    let step := packetPar p 4 4
    let up := packetPar p 8 8
    let list := (List.range n).map fun k => packetPar p (0x10 + 8 * k) 8
    s.Takes 0x0503 p → 0x10 + 8 * n ≤ p.params.length → b ≤ 8191 → flags ≤ 3 →
    (flags % 2 = 0 → step ≠ 0 → (up = 0 ∨ validBinderAddr up = true) → (∀ a ∈ list, validBinderAddr a = true) →
      (s.armed b = true → Answers (.binderAlloc p) s fun t => onlyReplies s t 0x0503 p stBusy []) ∧
      (s.armed b = false → (s.offered p).listPlaces n ≠ [] → Answers (.binderAlloc p) s fun t =>
        replies s t 0x0503 p stOk [] ∧ t.armed b = true ∧ t.fld (F.bndCfgPace b) = flags / 2 ∧ t.fld (F.bndCount b) = 0 ∧
        t.fld (F.bndStep b) = step ∧ t.fld (F.bndTarget b) = step ∧ t.fld (F.bndUp b) = up ∧ t.fld (F.bndReleases b) = 0 ∧
        t.fld (F.bndPendingUp b) = 0 ∧ t.fld (F.bndCfgListCount b) = n ∧ t.binder b = { list } ∧
        t.fld (F.bndCfgListFirst b) ∈ (s.offered p).listPlaces n ∧
        blockKept s t (0x200000 + b * 0x40) (0x200040 + b * 0x40) ∧ t.mem = s.mem)) ∧
    (flags = 1 → n = 0 → step = 0 → up = 0 → s.armed b = true → (s.binder b).owedRel = [] →
      ((s.binder b).waiters = [] → (s.offered p).awaited b = false → s.fld (F.bndPendingUp b) = 0 →
        Answers (.binderAlloc p) s fun t => replies s t 0x0503 p stOk [] ∧ t.armed b = false ∧ t.binder b = {}) ∧
      ((s.binder b).waiters ≠ [] → Answers (.binderAlloc p) s fun t => onlyReplies s t 0x0503 p stBusy [])))

/-- A WAIT for release W by a core in Leaf with fewer than 16 POSTs outstanding, on a local armed binder: if
(int32)(RELEASES − W) ≥ 0 BINDER_WAKE is set in that core and it is not registered; else it is registered with W in
place of any earlier W, and its BINDER_WAKE stays. An agent that is no core is rejected. A ROLE_PULSE by Hedger to an
assigned role with its season and no fenced core ORs its bits into PENDING, counts one pulse and sets MSG in every
core of the role; one to a role with no core, or with another season, counts in WIN_ROLE_STALE and BND_REJECT and
changes nothing else. ROLE_ASSIGN sets a role's cores and name, clears its pulses and advances its season.

Completes: ROLE_ASSIGN, BINDER_WAIT, ROLE_PULSE. -/
def Obligations.BinderWaitsWake : Prop :=
  (∀ (s : State) (address : DWord) (v : Word) (c : CoreNo) (p : Nat),
    let a := address.toNat
    let b := a % 2 ^ 44 / 64
    let local_ := a % 64 = 0 ∧ a / 2 ^ 44 % 8 = 2 ∧ a % 2 ^ 44 < 2 ^ 19 ∧ a / 2 ^ 47 = s.dieNo ∧ a / 2 ^ 47 % 16 ≤ 11
    let rejected := s.setFld F.bndReject (s.fld F.bndReject + 1)
    let season := v.toNat / 65536
    local_ → s.bops = [] → s.kernels = [] →
    (s.armed b = true → s.phys c.val = some p → s.logical p = some c.val → p < 96 → s.fencedCore p = false →
      s.power p = pwLeaf → (s.core p).postsOut < 16 → (s.core p).frozenOwn = false → s.coreState p ≠ csFaulted →
      let late := 0 ≤ diff32 (s.fld (F.bndReleases b)) v.toNat
      Answers (.binderWait (.core c) address v) s fun t =>
        (late → t.fld (F.corEventBinderWake p) = 1 ∧ t.binders = s.binders) ∧
        (¬ late → tfind (t.binder b).waiters c.val = some v.toNat ∧
          (∀ x, x ≠ c.val → tfind (t.binder b).waiters x = tfind (s.binder b).waiters x) ∧
          t.fld (F.corEventBinderWake p) = s.fld (F.corEventBinderWake p)) ∧
        (t.core p).postsOut = (s.core p).postsOut ∧ t.fld (F.bndCount b) = s.fld (F.bndCount b) ∧ t.mem = s.mem) ∧
    Sys2Proof.Machine.exec (.binderWait .hedger address v) s = .next rejected ∧
    (b < 256 → s.roleSet b ≠ 0 → season = s.fld (F.winRoleSeason b) →
      ((bitsOf 96 (s.roleSet b)).filterMap s.phys).any s.fencedCore = false → (∀ q, q < 96 → s.power q = pwLeaf) →
      Answers (.rolePulse .hedger address v) s fun t =>
        t.fld (F.winRolePending b) = (s.fld (F.winRolePending b) ||| v.toNat % 65536) % 2 ^ 16 ∧
        t.fld (F.winRolePulses b) = (s.fld (F.winRolePulses b) + 1) % 2 ^ 32 ∧ t.mem = s.mem ∧
        (∀ l q, l < 96 → (s.roleSet b).testBit l = true → s.phys l = some q → t.fld (F.corEventMsg q) = 1)) ∧
    (b < 256 → s.roleSet b = 0 ∨ season ≠ s.fld (F.winRoleSeason b) →
      Sys2Proof.Machine.exec (.rolePulse .hedger address v) s =
        .next ((s.setFld (F.winRoleStale b) (s.fld (F.winRoleStale b) + 1)).setFld F.bndReject (s.fld F.bndReject + 1)))) ∧
  (∀ (s : State) (p : Packet),
    let r := packetPar p 0 1
    let set := packetPar p 8 12
    let season := if s.fld (F.winRoleSeason r) = 0xFFFF then 1 else s.fld (F.winRoleSeason r) + 1
    s.Takes 0x0506 p → 20 ≤ p.params.length → set < 2 ^ s.nLogical → ((bitsOf 96 set).filterMap s.phys).any s.fencedCore = false →
    Answers (.roleAssign p) s fun t => replies s t 0x0506 p stOk (leBytes 2 season) ∧ t.roleSet r = set ∧
      t.fld (F.winRoleName r) = packetPar p 4 4 ∧ t.fld (F.winRolePending r) = 0 ∧ t.fld (F.winRoleSeason r) = season % 2 ^ 16 ∧
      blockKept s t (0x290000 + r * 0x40) (0x290040 + r * 0x40) ∧ t.mem = s.mem)

/-- On an open link, with the die not entering sleep. A RELEASE from the die of the binder's UP address, while PENDING_UP
is nonzero, takes one off PENDING_UP, advances RELEASES, and an ACK with its address waits for a flit; from another
die it is answered with a NAK of BAD_PARAM. An ACK or NAK answers the oldest message sent for its address and no
other: a core's POST is no longer outstanding, and a NAK's status stands in COR_POST_STATUS. When a place of a link is
free, the oldest operation that waited for one takes it.

Completes: RELEASE_MESSAGE, BINDER_ACK, BINDER_NAK, OWED_MESSAGE_SEND. -/
def Obligations.BinderMessages : Prop :=
  ∀ (s : State) (link : LinkNo) (m : BinderMsg) (x : BOut) (rest : List BOut) (p : Nat),
    let i := link.val
    let a := m.address.toNat
    let b := a % 2 ^ 44 / 64
    let l := s.link i
    let up := s.fld (F.bndUp b)
    s.linkOpen i = true → s.fld F.pwrDieStatusState ≠ 1 → s.bops = [] → s.inq = [] → s.kernels = [] →
    (m.op = 1 → a % 64 = 0 → a / 2 ^ 44 % 8 = 2 → a % 2 ^ 44 < 2 ^ 19 → a / 2 ^ 47 = s.dieNo → l.bout = [] →
      s.armed b = true → s.binder b = {} → s.queues = [] → up ≠ 0 →
      (up / 2 ^ 47 = m.source.toNat → s.fld (F.bndPendingUp b) ≠ 0 → Answers (.releaseMessage link m) s fun t =>
        t.fld (F.bndPendingUp b) = (s.fld (F.bndPendingUp b) - 1) % 2 ^ 32 ∧
        t.fld (F.bndReleases b) = (s.fld (F.bndReleases b) + 1) % 2 ^ 32 ∧ t.mem = s.mem ∧
        (t.link i).bout = [{ address := a, op := 3, value := 0, status := 0, froms := [.unit] }]) ∧
      (up / 2 ^ 47 ≠ m.source.toNat → Answers (.releaseMessage link m) s fun t =>
        t.fld (F.bndReleases b) = s.fld (F.bndReleases b) ∧ t.fld (F.bndPendingUp b) = s.fld (F.bndPendingUp b) ∧
        (t.link i).bout = [{ address := a, op := 4, value := m.value.toNat, status := stBadParam, froms := [.unit] }])) ∧
    (l.bwait = x :: rest → x.address = a → x.froms = [.core p] → p < 96 → (s.core p).postsOut ≠ 0 →
      (s.core p).frozenOwn = false → s.coreState p ≠ csFaulted →
      (m.op = 3 → Answers (.binderAck link m) s fun t => (t.link i).bwait = rest ∧
        (t.core p).postsOut = (s.core p).postsOut - 1 ∧ t.regs = s.regs ∧ t.mem = s.mem) ∧
      (m.op = 4 → m.status ≠ 0 → Answers (.binderNak link m) s fun t => (t.link i).bwait = rest ∧
        (t.core p).postsOut = (s.core p).postsOut - 1 ∧ t.fld (F.corPostStatusStatus p) = m.status.toNat ∧ t.mem = s.mem)) ∧
    (l.bout.length < 64 → l.bheld = x :: rest → (∀ y ∈ l.bout, y.address ≠ x.address) →
      Answers (.owedMessageSend link) s fun t => (t.link i).bheld = rest ∧ (t.link i).bout = l.bout ++ [x] ∧
        (∀ j, j ≠ i → t.link j = s.link j) ∧ t.regs = s.regs ∧ t.mem = s.mem)

/-- A WRITE to a window of this die by Hedger, of at most 256 bytes in one row. To a window that is not open: counted.
With a tag that is not the season, or none where untagged writes are not accepted: SEASON_STALE, counted. Past LENGTH:
BAD_PARAM, counted. Each changes one counter of the window and nothing else. If all checks pass, with no stream bound
and the target core in Leaf in the clump where the write enters, the window counts the write and its bytes, and the
write stands last in the core's inbound write buffer with the bytes written and their place in the core. WINDOW_OPEN
opens a closed window and advances its season; WINDOW_CLOSE closes a quiet one at once, or by WINDOW_CLOSE_DONE.

Completes: WINDOW_OPEN, WINDOW_CLOSE, WINDOW_CLOSE_DONE, WINDOW_WRITE. -/
def Obligations.WindowWrites : Prop :=
  (∀ (s : State) (p : LinkPacket) (q : Nat),
    let a := p.address.toNat
    let w := a % 2 ^ 44 / 2 ^ 32
    let byte := a % 2 ^ 32
    let n := p.length
    let tag := (p.season.map BitVec.toNat).getD 0
    let counts := fun (f : Fld) => Sys2Proof.Machine.exec (.windowWrite .hedger p) s = .next (s.setFld f (s.fld f + 1))
    let open_ := s.fld (F.winCfgState w) = 1
    let stale := (tag ≠ 0 ∧ tag ≠ s.fld (F.winSeason w)) ∨ (tag = 0 ∧ s.fld (F.winCfgAcceptUntagged w) ≠ 1)
    let target := s.fld (F.winBase w) + byte
    a / 2 ^ 44 % 8 = 5 → a / 2 ^ 47 = s.dieNo → w < 1024 → 0 < n → n ≤ 256 → a % 256 + n ≤ 256 → s.bops = [] →
      s.streams = [] →
    (¬ open_ → counts (F.winClosedNak w)) ∧
    (open_ → stale → counts (F.winStaleNak w)) ∧
    (open_ → ¬ stale → s.fld (F.winLength w) < byte + n → counts (F.winOtherNak w)) ∧
    (open_ → ¬ stale → byte + n ≤ s.fld (F.winLength w) → s.phys (target / 2 ^ 22) = some q → s.fencedCore q = false →
      s.power q = pwLeaf → q < 4 → (s.router 0).opens = [] → (s.core q).inbox.length < 16 →
      Answers (.windowWrite .hedger p) s fun t =>
        t.fld (F.winAccepted w) = (s.fld (F.winAccepted w) + 1) % 2 ^ 32 ∧
        t.fld (F.winBytes w) = (s.fld (F.winBytes w) + n) % 2 ^ 64 ∧ t.mem = s.mem ∧
        ∃ e, (t.core q).inbox = (s.core q).inbox ++ [e] ∧ e.off = target % 2 ^ 22 ∧ e.data = slice p.data 0 n ∧
          e.window = some w)) ∧
  (∀ (s : State) (p : Packet),
    let w := packetPar p 0 2
    let flags := packetPar p 2 1
    let base := packetPar p 8 8
    let len := packetPar p 0x10 4
    let season := if s.fld (F.winSeason w) = 0xFFFF then 1 else s.fld (F.winSeason w) + 1
    s.Takes 0x0504 p → 0x14 ≤ p.params.length → w ≤ 1023 → flags ≤ 3 → base % 256 = 0 → 0 < len → len % 256 = 0 →
    base + len ≤ s.nLogical * 2 ^ 22 → s.nLogical ≤ 96 → packetPar p 4 2 ≤ 8191 → s.fld (F.winCfgState w) = 0 →
    (flags / 2 = 1 → s.armed (packetPar p 4 2) = true) →
    (∀ l, l < 96 → base < (l + 1) * 2 ^ 22 → l * 2 ^ 22 < base + len → (s.phys l).any s.fencedCore = false) →
    Answers (.windowOpen p) s fun t => replies s t 0x0504 p stOk (leBytes 2 season) ∧ t.fld (F.winCfgState w) = 1 ∧
      t.fld (F.winCfgAcceptUntagged w) = flags % 2 ∧ t.fld (F.winCfgCountEn w) = flags / 2 ∧
      t.fld (F.winCfgCountBinder w) = packetPar p 4 2 ∧ t.fld (F.winBase w) = base ∧ t.fld (F.winLength w) = len ∧
      t.fld (F.winSeason w) = season % 2 ^ 16 ∧ t.mem = s.mem ∧ blockKept s t (0x280000 + w * 0x40) (0x280040 + w * 0x40)) ∧
  (∀ (s : State) (p : Packet) (fast : Bool),
    let w := packetPar p 0 2
    s.windowStream w = none → w ≤ 1023 →
    (s.Takes 0x0505 p → 2 ≤ p.params.length → s.fld (F.winCfgState w) ≠ 1 →
      Answers (.windowClose p fast) s fun t => onlyReplies s t 0x0505 p stBadParam []) ∧
    (s.Takes 0x0505 p → 2 ≤ p.params.length → s.fld (F.winCfgState w) = 1 → fast = true → s.windowQuiet w = true →
      Answers (.windowClose p fast) s fun t => replies s t 0x0505 p stOk [] ∧ t.fld (F.winCfgState w) = 0 ∧ t.mem = s.mem) ∧
    (s.Takes 0x0505 p → 2 ≤ p.params.length → s.fld (F.winCfgState w) = 1 → fast = false → s.canStart 0x0505 p w →
      Answers (.windowClose p fast) s fun t => starts s t 0x0505 p w ∧ t.fld (F.winCfgState w) = 2) ∧
    (∀ (x : WinNo) (id : Nat), x.val = w → s.runningOp 0x0505 w = some id → s.windowQuiet w = true →
      Answers (.windowCloseDone x) s fun t => t.fld (F.winCfgState w) = 0 ∧ finishes s t id stOk [] ∧ t.mem = s.mem))

/-- On an open link with the die not entering sleep. A WRITE, READ or READBACK to space 4 of this die is counted in
FLT_REMOTE_REG_REJECT and answered AUTH_FAIL, a READBACK with no write under way at once. A WRITE to a core in Leaf of
the clump where the link enters stands last in its inbound write buffer, unanswered; a READ of such a core stands last
in its read queue with the link and tag that it answers. A READBACK of a doorbell with no write under way is answered
at once with the status the doorbell's checks give. A DATA packet brings its row to the oldest unanswered read of its
descriptor on that link, and while an earlier read is unanswered nothing is written. A STATUS for a core's POST ends
it, and a rejection stands in COR_POST_STATUS. A MGMT packet with a pace or budget message does what the message does
under protocol 2.x; above it on a base or peer link, and in the package's own format there, it is rejected.

Completes: WRITE, READBACK, READ, DATA, STATUS, MGMT, DEMAND, TOTAL, PACE. -/
def Obligations.LinkPackets : Prop :=
  ∀ (s : State) (link : LinkNo) (p : LinkPacket) (q : Nat) (tag : BitVec 16) (x : List Byte),
    let i := link.val
    let a := p.address.toNat
    let n := p.length
    let fits := 0 < n ∧ n ≤ 256 ∧ a % 256 + n ≤ 256
    let space := a / 2 ^ 44 % 8
    let sends := fun (t : State) (m : OutPkt) => (t.link i).txq = (s.link i).txq ++ [(2, m)] ∧ t.mem = s.mem
    let core := s.phys (a % 2 ^ 44 / 2 ^ 22) = some q ∧ q < 96 ∧ s.fencedCore q = false ∧ s.power q = pwLeaf ∧
      q / 4 = adapterClump i ∧ (s.router (q / 4)).opens = []
    s.linkOpen i = true → s.linkUp i = true → s.fld F.pwrDieStatusState ≠ 1 → s.bops = [] →
    (space = 4 → ∀ c ∈ [Instr.write link p, .read link p, .readback link p],
      (c = .readback link p → s.underWay = [] ∧ (s.link i).backs = []) → Answers c s fun t =>
      sends t (.status p.tag.toNat stAuthFail) ∧
        t.fld F.fltRemoteRegReject = (s.fld F.fltRemoteRegReject + 1) % 2 ^ 32) ∧
    (fits → space = 1 → a / 2 ^ 47 = s.dieNo → a % 2 ^ 44 / 2 ^ 22 < s.nLogical → core →
      ((s.core q).inbox.length < 16 → Answers (.write link p) s fun t => t.mem = s.mem ∧ t.links = s.links ∧
        ∃ e, (t.core q).inbox = (s.core q).inbox ++ [e] ∧ e.off = a % 2 ^ 22 ∧ e.data = slice p.data 0 n ∧
          e.from_ = .link i ∧ e.tag = p.tag.toNat ∧ e.ack = p.ackReq) ∧
      ((s.core q).readq.length < 8 → Answers (.read link p) s fun t => t.mem = s.mem ∧ t.links = s.links ∧
        ∃ r, (t.core q).readq = (s.core q).readq ++ [r] ∧ r.off = a % 2 ^ 22 ∧ r.len = n ∧
          r.dest = .link i p.tag.toNat false)) ∧
    (fits → space = 3 → a / 2 ^ 47 = s.dieNo → a % 2 ^ 44 < 2 ^ 19 → s.underWay = [] → (s.link i).backs = [] →
      Answers (.readback link p) s fun t =>
        sends t (.status p.tag.toNat (s.backStatus a n (s.seasonOf i p) true)) ∧ t.regs = s.regs) ∧
    (∀ (c : Nat) (r : DmaRun) (o1 o2 : DmaOut) (more : List DmaOut), c = p.tag.toNat / 4096 * 64 + p.tag.toNat / 64 % 64 →
      p.tag.toNat < 0x8000 → (s.chan c).run = some r → r.idx % 64 = p.tag.toNat % 64 → r.step = 0 → r.failed = none →
      r.sbLive = [] → r.out = o1 :: o2 :: more → o1.data = none → o1.lost = false → o1.link ≠ some i → o2.link = some i →
      o2.data = none → o2.lost = false → o1.beat ≠ o2.beat → (∀ m ∈ more, m.beat ≠ o2.beat) → a % 256 = stOk →
      Answers (.data link p) s fun t => t.mem = s.mem ∧ t.links = s.links ∧
        (t.chan c).run = some { r with out := o1 :: { o2 with data := some (dmTake r.bytes o2.beat (slice p.data 0 n)) } :: more }) ∧
    (p.tag.toNat / 256 = 0xFF → s.phys (p.tag.toNat / 2 % 128) = some q → q < 96 → (s.core q).postsOut ≠ 0 →
      (s.core q).frozenOwn = false → s.coreState q ≠ csFaulted → Answers (.status link p) s fun t =>
        (t.core q).postsOut = (s.core q).postsOut - 1 ∧ t.mem = s.mem ∧
        (a % 256 ≠ stOk → t.fld (F.corPostStatusStatus q) = a % 256) ∧ (a % 256 = stOk → t.regs = s.regs)) ∧
    (i < 30 → Answers (.mgmt link tag (.other x)) s fun t => sends t (.status tag.toNat stBadParam) ∧ t.regs = s.regs) ∧
    (30 ≤ i → Answers (.mgmt link tag (.other x)) s fun t => t.regs = s.regs ∧ t.links = s.links ∧ t.mem = s.mem) ∧
    (∀ y : Vc5Msg,
      (30 ≤ i ∨ s.below3 i = true → Answers (.mgmt link tag (.vc5 y)) s fun t => Sys2Proof.Machine.exec
        (if vcKind y = 2 then .demand link y else if vcKind y = 3 then .total link y else .pace link y) s = .next t) ∧
      (i < 30 → s.below3 i = false → Answers (.mgmt link tag (.vc5 y)) s fun t =>
        sends t (.status tag.toNat stBadParam) ∧ t.regs = s.regs))

/-- An entry that passes the checks of R315 on a queue with no entry active whose next record lands at once. ARRIVE and
ADD at a local armed binder whose COUNT stays below TARGET advance COUNT; RESET sets COUNT to 0 and TARGET to STEP;
FENCE has nothing to wait for: each completes with a record of KIND 1, status OK and the entry's tag. An AWAIT on a
local armed binder completes in the same way if its release has come, and else stays active with no record and no byte
written. An invalid binder address, and an AWAIT on a remote binder, complete with BAD_PARAM. Every entry is taken:
HEAD and QUE_ENTRIES advance.

Completes: BINDER_OP_ARRIVE, BINDER_OP_ADD, BINDER_OP_RESET, BINDER_OP_AWAIT, FENCE_ENTRY. -/
def Obligations.BinderWorkEntries : Prop :=
  ∀ (s : State) (q : CtxNo) (entry : Fetched) (e : List Byte) (p : Nat),
    let a := leAt e 32 8
    let v := leAt e 40 4
    let b := a % 2 ^ 44 / 64
    let record := fun (t : State) (st : Nat) => entryTaken s t q.val ∧ (t.queue q.val).active = [] ∧
      recordLands s t q.val p { kind := 1, status := st, ring := s.fld (F.queHead q.val), origin := q.val, tag := weTag e }
    let valid := validBinderAddr a = true
    let here := valid ∧ a / 2 ^ 47 = s.dieNo ∧ s.armed b = true
    let count := s.fld (F.bndCount b)
    let adds := fun (t : State) (n : Nat) => record t stOk ∧ t.fld (F.bndCount b) = count + n ∧
      t.fld (F.bndReleases b) = s.fld (F.bndReleases b)
    s.RecordRoom q.val p → (s.queue q.val).active = [] → s.bops = [] →
    (s.goodEntry q.val entry 0x1002 0 = some e → here → v = 0 → count + 1 < s.fld (F.bndTarget b) →
      s.fld (F.bndTarget b) < 2 ^ 64 → Answers (.binderOpArrive q entry) s (adds · 1)) ∧
    (s.goodEntry q.val entry 0x1002 1 = some e → here → count + v < s.fld (F.bndTarget b) →
      s.fld (F.bndTarget b) < 2 ^ 64 → Answers (.binderOpAdd q entry) s (adds · v)) ∧
    (s.goodEntry q.val entry 0x1002 2 = some e → here → v = 0 → s.fld (F.bndPendingUp b) = 0 →
      Answers (.binderOpReset q entry) s fun t => record t stOk ∧ t.fld (F.bndCount b) = 0 ∧
        t.fld (F.bndTarget b) = s.fld (F.bndStep b) % 2 ^ 64) ∧
    (s.goodEntry q.val entry 0x1002 3 = some e →
      (here → 0 ≤ diff32 (s.fld (F.bndReleases b)) v → Answers (.binderOpAwait q entry) s (record · stOk)) ∧
      (here → diff32 (s.fld (F.bndReleases b)) v < 0 → Answers (.binderOpAwait q entry) s fun t =>
        entryTaken s t q.val ∧ t.mem = s.mem ∧ ((t.queue q.val).active.map fun x => (x.op, x.address, x.value)) = [(3, a, v)]) ∧
      (valid → a / 2 ^ 47 ≠ s.dieNo → Answers (.binderOpAwait q entry) s (record · stBadParam))) ∧
    (¬ valid → (s.goodEntry q.val entry 0x1002 0 = some e → Answers (.binderOpArrive q entry) s (record · stBadParam)) ∧
      (s.goodEntry q.val entry 0x1002 1 = some e → Answers (.binderOpAdd q entry) s (record · stBadParam)) ∧
      (s.goodEntry q.val entry 0x1002 2 = some e → Answers (.binderOpReset q entry) s (record · stBadParam))) ∧
    (s.goodEntry q.val entry 0x1003 0 = some e → Answers (.fenceEntry q entry) s (record · stOk))

/-- LAUNCH_KERNEL of an entry that passes R315, outside a mission test, whose image stands in package memory: an image
that breaks R105 or has another numbering epoch completes with BAD_PARAM, one with a fenced core in its set with
UNIT_FAILED; one that passes, with its parameters in it and no schedule, waits as a kernel with the queue, ring index,
logical cores, mode and tag that the entry and image give, and no byte or core changes. A scoreboard-mode kernel of
one idle core in Leaf that waits for no earlier launch starts: the core is RUNNING at its entry, s1 to s4 hold its
logical number, its rank 0, the number of cores and the parameter address, every other scalar register reads 0, no
scoreboard entry is live, no error is recorded, and its parameters stand in its scratchpad. An entry that fails a
check of R315 completes with that status, and a launch then with VALUE 0xFFFF unless its CRC is bad.

Completes: LAUNCH_KERNEL, KERNEL_START, FAILED_WORK_ENTRY. -/
def Obligations.KernelsLaunch : Prop :=
  ∀ (s : State) (q : CtxNo) (entry image param : Fetched) (e b : List Byte) (p l : Nat) (k : Kernel) (c : Nat × List Word × Nat),
    let record := fun (t : State) (tag st value : Nat) => entryTaken s t q.val ∧
      recordLands s t q.val p { kind := 1, status := st, ring := s.fld (F.queHead q.val), origin := q.val, tag, value }
    (s.RecordRoom q.val p → (s.queue q.val).active = [] → s.bops = [] → s.goodEntry q.val entry 0x1001 0 = some e →
      s.fld F.tstStatusMissionTest = 0 → addrSpace (leAt e 32 8) = 0 → (s.linkForAddr (leAt e 32 8)).isSome = true →
      leAt e 32 8 % 2 ^ 44 + b.length ≤ min s.packageBytes (2 ^ 44) → image = .ok b → leAt b 0x3C 4 ≤ b.length → 128 ≤ b.length →
      let good := s.imageOk b = true ∧ leAt b 6 2 = s.fld F.evgNumberingEpoch
      let fenced := ∃ x ∈ imgCores b, (s.phys x).any s.fencedCore = true
      (¬ good → Answers (.launchKernel q entry image param) s (record · (weTag e) stBadParam 0xFFFF)) ∧
      (good → fenced → Answers (.launchKernel q entry image param) s (record · (weTag e) stUnitFailed 0xFFFF)) ∧
      (good → (∀ x ∈ imgCores b, (s.phys x).any (fun y => !s.fencedCore y) = true) → leAt b 0x28 4 = 0 → leAt e 48 8 = 0 →
        Answers (.launchKernel q entry image param) s fun t => entryTaken s t q.val ∧ t.mem = s.mem ∧ t.cores = s.cores ∧
          ∃ x, t.kernels = s.kernels ++ [x] ∧ x.queue = q.val ∧ x.idx = s.fld (F.queHead q.val) ∧ x.tag = weTag e ∧
            x.cores = imgCores b ∧ x.scoreboard = (leAt b 0x10 1 == 1) ∧ x.started = false ∧ x.sched = none)) ∧
    (s.RecordRoom q.val p → (s.queue q.val).active = [] → s.bops = [] → s.canTake q.val = true →
      s.entryAtHead q.val entry = .ok b → s.weStatus q.val b ≠ stOk →
      Answers (.failedWorkEntry q entry .clean) s (record · (weTag b) (s.weStatus q.val b)
        (if weOpcode b = 0x1001 ∧ s.weStatus q.val b ≠ stBadCrc then 0xFFFF else 0))) ∧
    (s.kernels = [k] → k.queue = q.val → k.started = false → k.cores = [l] → k.phys = [p] → k.code = [c] → c.2.2 < 2 ^ 13 →
      k.scoreboard = true → k.sched = none → p < 96 → l < 96 → s.logical p = some l → s.clocksOff = false →
      s.fld F.pwrDieStatusState = 0 → (s.queue q.val).held = [] → s.chans = [] → s.fencedCore p = false → s.coreState p = csIdle → s.power p = pwLeaf → s.bit (F.pwrCoreStatusPending l) = false →
      s.fld (F.pwrHalfLocked 0) = 0 → s.fld (F.pwrHalfLocked 1) = 0 →
      Answers (.kernelStart q) s fun t => t.kernels = [{ k with started := true, startTime := s.time, loading := [] }] ∧
        t.coreState p = csRunning ∧ t.pc p = c.2.2 ∧ t.fld (F.corStatusMode p) = 1 ∧
        (∀ r, t.sreg p r = if r = 1 then BitVec.ofNat 32 l else if r = 3 then 1
          else if r = 4 then BitVec.ofNat 32 k.paramDest else 0) ∧
        (∀ i, i < 32 → t.sbLive p i = false) ∧ t.fld (F.corErrorFirstCode p) = 0 ∧
        memHolds s t (p * 2 ^ 22 + k.paramDest) k.param ∧ (∀ j, j ≠ p → t.core j = s.core j))

/-- A host command packet that reaches an awake die on an open substrate link. A packet that fails check 1, 2, 3 or 4 is
answered BAD_CRC, BAD_VERSION, SEASON_STALE or BAD_SEQUENCE (with NEXT) by a reply with the next DEV_SEQ on its link,
and nothing else changes. A packet up to 15 ahead of its turn is held; a second copy of it is discarded. A duplicate
whose reply is cached gets it again with DUPLICATE set, unless its opcode runs again. A packet in its turn whose
opcode is unknown or not available is taken and answered BAD_OPCODE or NOT_READY with no other effect. A broadcast of
an opcode that may not be broadcast gets no reply and is recorded as CHUNK_DISCARDED. A COMMAND packet on a base or
peer link is answered there with STATUS BAD_PARAM.

Completes: UNKNOWN_OPCODE. -/
def Obligations.CommandsAreChecked : Prop :=
  (∀ (s : State) (i : Instr) (op : Nat) (p : Packet), hostPacket i = some (op, p) → s.Hears p →
    let c : Cmd := { opcode := op, p }
    let d := diff32 p.hostSeq.toNat s.session.next
    let untaken := fun (r : Reply) (t : State) => sends s t p r ∧
      ({ t with session := { t.session with dev := s.session.dev }, links := s.links } : State) = s ∧
      ∀ j, j ≠ 30 + p.link.val → t.link j = s.link j
    let refused := fun (st : Nat) (res : List Byte) => Answers i s (untaken (s.replyTo op p st res))
    (c.crcOk = false → refused stBadCrc []) ∧
    (c.crcOk = true → c.broadcast = true → op ≠ 0x0102 → op ≠ 0x0103 → Answers i s fun t =>
      logs s t svWarning 0 0 0x0101 0 0 (0xFFFF + op * 2 ^ 32) ∧ t.session = s.session ∧ t.links = s.links) ∧
    (c.crcOk = true → c.broadcast = false → s.versionOk c = false → refused stBadVersion []) ∧
    (c.crcOk = true → c.broadcast = false → s.versionOk c = true → s.seasonOk c = false → refused stSeasonStale []) ∧
    (s.Well op p → op ≠ 1 → op ≠ 2 →
      ((s.session.agreed = 0 ∨ 0 < diff32 p.devSeen.toNat s.session.dev ∨ 16 ≤ d ∨ d < -64 ∨
        (-64 ≤ d ∧ d < 0 ∧ ∀ r ∈ s.session.cache, r.hostSeq ≠ p.hostSeq.toNat)) →
          refused stBadSequence (leBytes 4 s.session.next)) ∧
      (s.session.agreed ≠ 0 → diff32 p.devSeen.toNat s.session.dev ≤ 0 → 1 ≤ d → d ≤ 15 → Answers i s fun t =>
        t = if s.session.held.any (fun h => h.2.hostSeq == p.hostSeq) then s
          else { s with session := { s.session with held := s.session.held ++ [(op, p)] } }) ∧
      (∀ r, s.session.agreed ≠ 0 → diff32 p.devSeen.toNat s.session.dev ≤ 0 → -64 ≤ d → d < 0 →
        s.session.cache.find? (fun x => x.hostSeq == p.hostSeq.toNat) = some r →
        ¬ (r.opcode = op ∧ (c.poll = true ∨ rerun op = true)) → Answers i s fun t =>
          (t.link (30 + p.link.val)).txq = (s.link (30 + p.link.val)).txq ++ [(3, .reply { r with duplicate := true })] ∧
          ({ t with links := s.links } : State) = s)) ∧
    (s.InTurn op p → s.knownOpcode op = false → Answers i s fun t => onlyReplies s t op p stBadOpcode []) ∧
    (s.InTurn op p → s.knownOpcode op = true → s.available op = false → Answers i s fun t =>
      onlyReplies s t op p stNotReady [])) ∧
  (∀ (s : State) (l : LinkNo) (tag op : BitVec 16) (p : Packet), l.val < 30 → s.linkOpen l.val = true →
    Answers (.unknownOpcode l tag op p) s fun t =>
      (t.link l.val).txq = (s.link l.val).txq ++ [(2, .status tag.toNat stBadParam)] ∧ ({ t with links := s.links } : State) = s)

/-- HELLO with a common version advances the session season, agrees the lower maximum, sets NEXT to HOST_SEQ + 1 and SEEN
to DEV, empties the cache and the held packets, sets the host clock, keeps every operation that runs and, with
CLEAR_DONE, no finished one; it replies OK or DOWNGRADED with the results of R420. With no common version it replies
BAD_VERSION and the session is unchanged but for DEV. A repeat of the HELLO that opened the session gets its reply
again with DUPLICATE. SYNC replies with the die's view of the session, with a fresh DEV_SEQ, and changes nothing else.
A poll of an operation replies ACCEPTED with its progress (log 83) while it runs, its final status and part when it
has finished, and BAD_PARAM when no such operation or part exists. A packet held 100 µs is answered BAD_SEQUENCE with
NEXT.

Completes: HELLO, SYNC, LONG_OP_POLL, SEQ_HOLD_TIMEOUT. -/
def Obligations.SessionsOpenAndResume : Prop :=
  (∀ (s : State) (p : Packet), s.Well 1 p → 20 ≤ p.params.length → packetPar p 16 4 ≤ 1 →
    let lo := max (packetPar p 0 2) 0x0300
    let hi := min (packetPar p 2 2) 0x0401
    let repeats := s.session.helloReply ≠ none ∧ s.session.agreed ≠ 0 ∧ s.session.helloSeq = p.hostSeq.toNat ∧
      s.session.hostId = packetPar p 4 4 ∧ (s.session.helloReply.map Reply.tag) = some p.tag.toNat
    (¬ repeats → lo ≤ hi → Answers (.hello p) s fun t =>
      let x := t.session
      let season := if s.session.season = 65535 then 1 else s.session.season + 1
      let next := (p.hostSeq.toNat + 1) % 2 ^ 32
      x.season = season ∧ x.agreed = hi ∧ x.next = next ∧ x.seen = s.session.dev ∧ x.cache = [] ∧ x.held = [] ∧
        x.hostId = packetPar p 4 4 ∧ t.hostClock = some (packetPar p 8 8) ∧ t.hostClockAt = s.time ∧
        (∀ o ∈ x.ops, o ∈ s.session.ops ∧ (packetPar p 16 4 = 1 → o.state ≠ 2)) ∧
        (∀ o ∈ s.session.ops, o.state ≠ 2 → o ∈ x.ops) ∧
        sends s t p { opcode := 1, version := hi, devSeq := (s.session.dev + 1) % 2 ^ 32, hostSeq := p.hostSeq.toNat,
                      status := if hi < 0x0401 then stDowngraded else stOk, tag := p.tag.toNat,
                      season := if hi < 0x0400 then 0 else season,
                      results := leBytes 2 hi ++ leBytes 2 0x0300 ++ leBytes 4 (0x0401 * 2 ^ 16 + season) ++
                        leBytes 8 (next + s.ready * 2 ^ 32 + s.stage * 2 ^ 40) }) ∧
    (¬ repeats → hi < lo → Answers (.hello p) s fun t => sends s t p (s.replyTo 1 p stBadVersion []) ∧
      ({ t with session := { t.session with dev := s.session.dev }, links := s.links } : State) = s) ∧
    (∀ r, repeats → s.session.helloReply = some r → Answers (.hello p) s fun t =>
      (t.link (30 + p.link.val)).txq = (s.link (30 + p.link.val)).txq ++ [(3, .reply { r with duplicate := true })] ∧
      ({ t with links := s.links } : State) = s)) ∧
  (∀ (s : State) (p : Packet), s.Well 2 p → Answers (.sync p) s fun t =>
    let x := s.session
    let ops := if x.agreed ≠ 0 ∧ x.agreed < 0x0400 then [] else x.ops
    let oldest := x.cache.foldl (fun m r => if diff32 r.hostSeq m < 0 then r.hostSeq else m) x.next
    sends s t p (s.replyTo 2 p stOk (leBytes 4 x.next ++ leBytes 4 x.dev ++ leBytes 4 x.seen ++ leBytes 2 x.season ++
        leBytes 1 s.ready ++ leBytes 1 s.stage ++ leBytes 4 oldest ++ leBytes 4 x.hostId ++ leBytes 2 x.agreed ++
        leBytes 1 ops.length ++ leBytes 5 0 ++ ops.flatMap fun o => o.syncEntry s.time (s.progressOf o))) ∧
      ({ t with session := { t.session with dev := s.session.dev }, links := s.links, fresh := s.fresh } : State) = s) ∧
  (∀ (s : State) (code : BitVec 16) (p : Packet),
    let op := code.toNat
    let i : Instr := .longOpPoll code p
    s.InTurn op p →
    s.knownOpcode op = true → s.available op = true → ({ opcode := op, p } : Cmd).poll = true → 4 ≤ p.params.length →
    let ops := (s.offered p).session.ops
    let id := packetPar p 0 2
    let part := if s.session.agreed < 0x0400 then 0 else packetPar p 2 2
    ((∀ o ∈ ops, o.id = id → o.opcode ≠ op) → Answers i s fun t => onlyReplies s t op p stBadParam []) ∧
    ∀ o, ops.find? (fun o => o.id == id && o.opcode == op) = some o →
      (o.state ≠ 2 → Answers i s fun t => replies s t op p stAccepted
        (leBytes 2 id ++ leBytes 2 part ++ leBytes 2 0 ++ leBytes 2 ((s.offered p).progressOf o)) ∧
        t.session.ops = ops ∧ t.mem = s.mem ∧ fieldsKept (s.offered p) t []) ∧
      (o.state = 2 → o.parts ≤ part → Answers i s fun t => onlyReplies s t op p stBadParam []) ∧
      (o.state = 2 → part < o.parts → Answers i s fun t => replies s t op p o.status
        (leBytes 2 id ++ leBytes 2 part ++ leBytes 2 o.parts ++ leBytes 2 o.progress ++
          (o.results.drop (part * 4056)).take 4056) ∧
        ∀ x ∈ t.session.ops, x.id = id → x.finalDevSeq = (s.session.dev + 1) % 2 ^ 32 ∧
          (part + 1 = o.parts → x.confirmSeq ≠ none))) ∧
  (∀ (s : State) (op : Nat) (p : Packet) (rest : List (Nat × Packet)), s.alive = true → s.session.held = (op, p) :: rest →
    s.linkOpen (30 + p.link.val) = true → Answers .seqHoldTimeout s fun t =>
      t.session.held = rest ∧ sends s t p (s.replyTo op p stBadSequence (leBytes 4 s.session.next)))

/-- Each read opcode that is taken replies OK with the data R430 lays out, computed when it is taken, and changes nothing
but the session and its link: GET_INFO, BOOT_STAGE's report, GET_DIEBACK, GET_MISSING, GET_POWER_ACCOUNTING,
READ_TELEMETRY, READ_ENERGY, LINK_STATUS, GET_CERTIFICATE, GET_MEASUREMENTS, CAL_READ_FACTORY and MEMTEST_STATUS.
READ_EVENTS also discards the records below its cursor, and SAVE_SETTINGS of PART 0 takes a snapshot that later parts
read. Parameters that are short or out of range are answered BAD_PARAM with no other effect.

Completes: GET_INFO, BOOT_STAGE, GET_MISSING, GET_DIEBACK, SAVE_SETTINGS, GET_POWER_ACCOUNTING, READ_TELEMETRY,
READ_ENERGY, READ_EVENTS, LINK_STATUS, GET_CERTIFICATE, GET_MEASUREMENTS, CAL_READ_FACTORY, MEMTEST_STATUS. -/
def Obligations.ReadsAnswerData : Prop :=
  ∀ (s : State) (p : Packet),
    let u := s.offered p
    let n := p.params.length
    let a := packetPar p 0 2
    let c := packetPar p 2 2
    let ok := fun (i : Instr) (op : Nat) (res : List Byte) => Answers i s fun t => onlyReplies s t op p stOk res
    let bad := fun (i : Instr) (op : Nat) => Answers i s fun t => onlyReplies s t op p stBadParam []
    (s.Takes 0x0003 p →
      (2 ≤ n → a = 0 → ok (.getInfo p) 0x0003 (leBytes 2 0x0960 ++ leBytes 1 u.fuses.grade ++ leBytes 1 u.fuses.revision ++
        u.regBytes 0x40 8 ++ leBytes 4 (u.regWord 0xE0000) ++ leBytes 8 u.packageBytes ++ leBytes 1 u.ready ++
        leBytes 1 u.stage ++ leBytes 1 (if u.testMode then 1 else 0))) ∧
      (2 ≤ n → a = 1 → ok (.getInfo p) 0x0003 (leBytes 12 (maskOf 96 (excludes u.dieback)) ++
        leBytes 4 (u.fld F.plnRouterFailed))) ∧
      (2 ≤ n → a = 2 → ok (.getInfo p) 0x0003 (u.regBytes 0x80800 384)) ∧
      (n < 2 ∨ 2 < a → bad (.getInfo p) 0x0003)) ∧
    (s.Takes 0x0101 p → (2 ≤ n → packetPar p 0 1 = 0 → ok (.bootStage p) 0x0101 (leBytes 1 u.stage ++
        leBytes 1 (u.fld F.evgBootState) ++ leBytes 2 u.lastCode ++ leBytes 4 ((u.time - u.stageStart) / 1000))) ∧
      (n < 2 ∨ 2 < packetPar p 0 1 → bad (.bootStage p) 0x0101)) ∧
    (s.Takes 0x0110 p → (2 ≤ n →
        let es := (u.dieback.drop a).take 255
        ok (.getDieback p) 0x0110 (leBytes 2 u.dieback.length ++ leBytes 2 es.length ++ leBytes 4 0 ++
          es.flatMap Dieback.bytes16)) ∧ (n < 2 → bad (.getDieback p) 0x0110)) ∧
    (s.Takes 0x0105 p → (∀ x, 2 ≤ n → u.transfer a = some x →
        ok (.getMissing p) 0x0105 (leBytes 2 x.id ++ leBytes 2 ((List.range x.chunks).filter x.lacks).length ++
          leBytes 4 x.incomplete ++ leBytes 512 (maskOf x.chunks x.lacks))) ∧
      (n < 2 ∨ u.transfer a = none → bad (.getMissing p) 0x0105)) ∧
    (s.Takes 0x0205 p → ok (.getPowerAccounting p) 0x0205 (leBytes 8 u.time ++ leBytes 8 (u.fld F.telEnergy) ++
      ((List.range 7).flatMap fun k => leBytes 8 (u.fld (F.telComp k))) ++ leBytes 8 (u.fld F.telUnattr) ++
      ((List.range 4).flatMap fun k => leBytes 4 (u.fld (F.pwrCapMs k))) ++ leBytes 8 (u.fld F.pwrSleepMs))) ∧
    (s.Takes 0x0301 p → (∀ res, 2 ≤ n → u.telemetry a = some res → ok (.readTelemetry p) 0x0301 res) ∧
      (n < 2 ∨ 5 < a → bad (.readTelemetry p) 0x0301)) ∧
    (s.Takes 0x0302 p → (4 ≤ n → 0 < c → a + c ≤ 256 → ok (.readEnergy p) 0x0302 (leBytes 8 u.time ++
        (List.range c).flatMap fun k => leBytes 8 (u.fld (F.telAcct (a + k))))) ∧
      (n < 4 ∨ c = 0 ∨ 256 < a + c → bad (.readEnergy p) 0x0302)) ∧
    (s.Takes 0x0401 p →
      (1 ≤ n → packetPar p 0 1 ≤ 31 → ok (.linkStatus p) 0x0401 (u.regBytes (0xE1000 + packetPar p 0 1 * 0x800) 28)) ∧
      (1 ≤ n → packetPar p 0 1 = 0xFF → ok (.linkStatus p) 0x0401
        ((List.range 32).flatMap fun k => u.regBytes (0xE1000 + k * 0x800) 28)) ∧
      (n < 1 ∨ (31 < packetPar p 0 1 ∧ packetPar p 0 1 ≠ 0xFF) → bad (.linkStatus p) 0x0401)) ∧
    (s.Takes 0x0601 p → ok (.getCertificate p) 0x0601 (slice u.fuses.certDigest 0 32 ++ u.idKey.2.2.1 ++ u.idKey.2.2.2)) ∧
    (s.Takes 0x0603 p → ok (.getMeasurements p) 0x0603 (u.regBytes 0x40100 32)) ∧
    (s.Takes 0x0701 p → (∀ b, 4 ≤ n → u.fuses.calSection a = some b → c * 4064 < b.length →
        ok (.calReadFactory p) 0x0701 (leBytes 2 ((b.length + 4063) / 4064) ++ leBytes 2 0 ++ (b.drop (c * 4064)).take 4064)) ∧
      (n < 4 ∨ 5 < a → bad (.calReadFactory p) 0x0701)) ∧
    (s.Takes 0x0804 p →
      let us := match u.memRun.finished with
        | some t => t - u.memRun.started
        | none => if u.fld F.evgMemtestState = 1 then u.time - u.memRun.started else 0
      ok (.memtestStatus p) 0x0804 (leBytes 1 (u.fld F.evgMemtestState) ++ leBytes 1 (if u.memValid then 1 else 0) ++
        leBytes 2 (u.fld F.evgMemtestProgress) ++ leBytes 4 (us / 1000000))) ∧
    (s.Takes 0x0303 p → let m := packetPar p 4 2
      (6 ≤ n → 0 < m → m ≤ 126 → Answers (.readEvents p) s fun t =>
        t.log = s.log.filter (fun e => decide (0 ≤ diff32 e.index (packetPar p 0 4))) ∧
        replies s t 0x0303 p stOk (leBytes 4 ((t.log.head?.map EvRec.index).getD (s.fld F.fltEvtNext)) ++
          leBytes 2 (min m t.log.length) ++ leBytes 2 0 ++ (t.log.take m).flatMap fun e => e.bytes32 0)) ∧
      (n < 6 ∨ m = 0 ∨ 126 < m → bad (.readEvents p) 0x0303)) ∧
    (s.Takes 0x0111 p →
      let b := if a = 0 then u.makeBlob else u.snapshot
      (2 ≤ n → a * 4064 < b.length → Answers (.saveSettings p) s fun t => t.snapshot = b ∧
        replies s t 0x0111 p stOk (leBytes 2 a ++ leBytes 2 ((b.length + 4063) / 4064) ++ leBytes 4 0 ++
          (b.drop (a * 4064)).take 4064)) ∧
      (n < 2 → bad (.saveSettings p) 0x0111))

/-- QUEUE_CREATE of an unused context with parameters that R303 to R306 allow makes the context: its type, ring, contexts
and notify as given, HEAD and TAIL 0, its season advanced; a DMA ring binds its channel. QUEUE_DESTROY of a COMPLETION
or EVENT context that nothing names frees it, and of a named one is BUSY; of a WORK context with no kernel it finishes
at once or as a long operation that QUEUE_DESTROY_DONE ends. RENUMBER of a quiesced die with 92 cores or more numbers
the remaining cores and advances the epoch. Memory, cores and the registers of every other object stay as they were.

Completes: RENUMBER, QUEUE_CREATE, QUEUE_DESTROY, QUEUE_DESTROY_DONE. -/
def Obligations.ObjectsAreMade : Prop :=
  (∀ (s : State) (p : Packet),
    let u := s.offered p
    let n := p.params.length
    let q := packetPar p 0 2
    let ty := packetPar p 2 1
    let log2 := packetPar p 3 1
    let base := packetPar p 4 8
    let cq := packetPar p 0xC 2
    let eq := packetPar p 0xE 2
    let ring := 2 ^ log2 * (if ty = qtWork then 128 else if ty = qtDma then 64 else 32)
    let ch := packetPar p 0x10 1 * 64 + packetPar p 0x11 1
    let produces := ty = qtWork ∨ ty = qtDma
    let season := if s.fld (F.queSeason q) = 0xFFFF then 1 else s.fld (F.queSeason q) + 1
    s.Takes 0x0501 p → 0x16 ≤ n → q ≤ 8191 → 1 ≤ ty → ty ≤ 4 → 4 ≤ log2 → log2 ≤ 15 → base % max 4096 ring = 0 →
    s.layoutOk base = true → (addrSpace base = 0 ∨ (addrSpace base = 1 ∧ s.isLocal base = true)) →
    (produces → cq ≤ 8191 ∧ (eq ≤ 8191 ∨ eq = 0xFFFF)) →
    (ty = qtDma → packetPar p 0x10 1 ≤ 7 ∧ packetPar p 0x11 1 ≤ 63 ∧ packetPar p 0x12 1 ≤ 3) →
    (¬ produces → packetPar p 0x13 1 ≤ 1 ∧ packetPar p 0x14 2 ≤ 8191) →
    (s.fld (F.queCfgType q) ≠ 0 → Answers (.queueCreate p) s fun t => onlyReplies s t 0x0501 p stBusy []) ∧
    (s.fld (F.queCfgType q) = 0 →
      (produces → s.fld (F.queCfgType cq) = qtCompletion ∧ (eq = 0xFFFF ∨ s.fld (F.queCfgType eq) = qtEvent)) →
      (ty = qtDma → s.chState ch = chUnbound) → (s.ringPhys base).any s.fencedCore = false →
      Answers (.queueCreate p) s fun t => replies s t 0x0501 p stOk (leBytes 2 season) ∧
        t.fld (F.queCfgType q) = ty ∧ t.fld (F.queCfgEnabled q) = 1 ∧ t.fld (F.queCfgLog2Entries q) = log2 ∧
        t.fld (F.queCfgAccount q) = p.account.toNat ∧ t.fld (F.queBase q) = base ∧ t.fld (F.queHead q) = 0 ∧
        t.fld (F.queTail q) = 0 ∧ t.fld (F.queSeason q) = season % 2 ^ 16 ∧
        (produces → t.fld (F.queCqValid q) = 1 ∧ t.fld (F.queCqContext q) = cq ∧
          t.fld (F.queEqValid q) = (if eq = 0xFFFF then 0 else 1) ∧ (eq ≠ 0xFFFF → t.fld (F.queEqContext q) = eq)) ∧
        (¬ produces → t.fld (F.queNotifyEn q) = packetPar p 0x13 1 ∧ t.fld (F.queNotifyBinder q) = packetPar p 0x14 2) ∧
        (ty = qtDma → t.chanOf q = ch ∧ t.chState ch = chIdle ∧ t.fld (F.dmaChStatusQueue (ch / 64) (ch % 64)) = q) ∧
        (ty ≠ qtDma → blockKept s t (0x100000 + q * 0x80) (0x100080 + q * 0x80)) ∧ t.mem = s.mem ∧ t.cores = s.cores ∧
        t.queue q = { ringCore := u.ringPhys base } ∧ ∀ x, x ≠ q → t.queue x = s.queue x)) ∧
    (∀ (s : State) (p : Packet) (fast : Bool),
    let q := packetPar p 0 2
    let ty := s.fld (F.queCfgType q)
    let freed := fun (t : State) => t.fld (F.queCfgType q) = 0 ∧ t.fld (F.queCfgEnabled q) = 0 ∧ t.queue q = {} ∧
      t.mem = s.mem ∧ blockKept s t (0x100000 + q * 0x80) (0x100080 + q * 0x80) ∧ ∀ x, x ≠ q → t.queue x = s.queue x
    (s.Takes 0x0502 p → 2 ≤ p.params.length → q ≤ 8191 →
      (ty = 0 → Answers (.queueDestroy p fast) s fun t => onlyReplies s t 0x0502 p stBadParam []) ∧
      (ty = qtCompletion ∨ ty = qtEvent → (s.offered p).named q = true →
        Answers (.queueDestroy p fast) s fun t => onlyReplies s t 0x0502 p stBusy []) ∧
      (ty = qtCompletion ∨ ty = qtEvent → (s.offered p).named q = false →
        Answers (.queueDestroy p fast) s fun t => replies s t 0x0502 p stOk [] ∧ freed t) ∧
      (ty = qtWork → (∀ k ∈ s.kernels, k.queue ≠ q) → (s.queue q).destroying = false →
        (fast = true → Answers (.queueDestroy p fast) s fun t => replies s t 0x0502 p stOk [] ∧ freed t) ∧
        (fast = false → s.canStart 0x0502 p q → Answers (.queueDestroy p fast) s fun t => starts s t 0x0502 p q ∧
          (t.queue q).destroying = true ∧ (t.queue q).active = [] ∧ t.fld (F.queHead q) = s.fld (F.queTail q) % 2 ^ 16))) ∧
    (∀ (x : CtxNo) (id : Nat), x.val = q → ty = qtWork → s.bops = [] → (∀ k ∈ s.kernels, k.queue ≠ q) →
      s.runningOp 0x0502 q = some id → Answers (.queueDestroyDone x) s fun t =>
      t.fld (F.queCfgType q) = 0 ∧ t.fld (F.queCfgEnabled q) = 0 ∧ t.queue q = {} ∧ t.mem = s.mem ∧ finishes s t id stOk [])) ∧
    (∀ (s : State) (p : Packet),
    let n := ((List.range 96).filter fun c => !excludes s.dieback c).length
    let epoch := s.fld F.evgNumberingEpoch % 0xFFFF + 1
    s.Takes 0x0106 p →
    ((s.offered p).quiesced = false → Answers (.renumber p) s fun t => onlyReplies s t 0x0106 p stQuiesce []) ∧
    ((s.offered p).quiesced = true → 92 ≤ n → Answers (.renumber p) s fun t =>
      replies s t 0x0106 p stOk (leBytes 1 n ++ leBytes 1 0 ++ leBytes 2 epoch) ∧ t.nLogical = n ∧
      t.fld F.evgNumberingEpoch = epoch ∧ (∀ c, c < 96 → t.coreMap.testBit c = !excludes s.dieback c) ∧
      (∀ c, c < 96 → t.fencedCore c = false) ∧ t.fld F.fltStatusUnitFenced = 0 ∧ t.mem = s.mem))

/-- SET_LIMIT within R510's bounds sets the limit and its window, and outside them is BAD_PARAM. SET_PACE_POLICY sets the
policy: with 1 the pace caps are 0x3F, with 0 the pace target. SET_OPERATING_POINT sets the preference of the named
phase classes in the named halves and no other. SET_POWER_STATE of an idle core that can move at once leaves it in the
state asked for, with IDLE_STATE set; of a core in a kernel is BUSY; of a fenced core is UNIT_FAILED; to sleep with no
refusal begins die-level sleep with both PLLs off, and with a refusal is BUSY with its code and count. TEST_MODE_ENTER
of a quiesced die sets MISSION_TEST and of another is QUIESCE_REQUIRED. BOOT_STAGE sets and clears the hold.

Completes: BOOT_STAGE, SET_POWER_STATE, SET_OPERATING_POINT, SET_LIMIT, SET_PACE_POLICY, TEST_MODE_ENTER. -/
def Obligations.SettingsTakeEffect : Prop :=
  (∀ (s : State) (p : Packet),
    let lim := packetPar p 0 1
    let mw := packetPar p 4 4
    let ms := packetPar p 8 4
    let ok := if lim = 0 then 200000 ≤ mw ∧ mw ≤ s.fuses.designMw ∧ mw ≤ s.fld (F.pwrLimit 1) ∧ 1000 ≤ ms ∧ ms ≤ 60000
      else s.fld (F.pwrLimit 0) ≤ mw ∧ mw * 10 ≤ s.fuses.designMw * 13 ∧ 1 ≤ ms ∧ ms ≤ 100
    s.Takes 0x0203 p → 12 ≤ p.params.length → lim ≤ 1 →
    (ok → Answers (.setLimit p) s fun t => replies s t 0x0203 p stOk (leBytes 4 lim ++ leBytes 4 mw ++ leBytes 4 ms) ∧
      t.fld (F.pwrLimit lim) = mw ∧ t.fld (F.pwrLimitWin lim) = ms ∧
      blockKept s t (0x21000 + lim * 8) (0x21008 + lim * 8) ∧ t.mem = s.mem) ∧
    (¬ ok → Answers (.setLimit p) s fun t => onlyReplies s t 0x0203 p stBadParam [])) ∧
    (∀ (s : State) (p : Packet) (h : Nat), h < 2 → s.Takes 0x0204 p → 1 ≤ p.params.length → packetPar p 0 1 ≤ 1 →
    Answers (.setPacePolicy p) s fun t => answered s t 0x0204 p stOk [] ∧ t.fld F.pwrPacePolicy = packetPar p 0 1 ∧
      t.fld (F.pwrCapPace h) = (if packetPar p 0 1 = 1 then 0x3F else t.fld F.pwrPaceTarget) ∧ t.mem = s.mem) ∧
    (∀ (s : State) (p : Packet),
    let half := packetPar p 0 1
    let cls := packetPar p 2 1
    s.Takes 0x0202 p → 3 ≤ p.params.length → half ≤ 2 → packetPar p 1 1 ≤ 15 → (cls ≤ 15 ∨ cls = 0xFF) →
    Answers (.setOperatingPoint p) s fun t =>
      answered s t 0x0202 p stOk (leBytes 1 (t.opApplied 0) ++ leBytes 1 (t.opApplied 1)) ∧ t.mem = s.mem ∧
      ∀ h k, h < 2 → k < 16 → t.fld (F.pwrPrefOp (h * 2 + k / 8) (k % 8)) =
        if (half = 2 ∨ half = h) ∧ (cls = 0xFF ∨ cls = k) then packetPar p 1 1
        else s.fld (F.pwrPrefOp (h * 2 + k / 8) (k % 8))) ∧
    (∀ (s : State) (p : Packet) (fast : Bool) (c : Nat),
    let x := packetPar p 1 1
    let l := packetPar p 2 2
    s.Takes 0x0201 p → 4 ≤ p.params.length →
    (packetPar p 0 1 = 1 → x ≤ 3 → s.phys l = some c →
      (s.fencedCore c = true → Answers (.setPowerState p fast) s fun t => onlyReplies s t 0x0201 p stUnitFailed []) ∧
      (s.fencedCore c = false → s.inKernel c = true →
        Answers (.setPowerState p fast) s fun t => onlyReplies s t 0x0201 p stBusy []) ∧
      (s.fencedCore c = false → s.inKernel c = false → s.dieOp = none → s.bit F.pwrDieStatusPending = false →
        s.vetoed x = false → s.power c ≤ 3 → fast = true → ¬ (x = pwLeaf ∧ s.power c = pwBare) →
        s.bit (F.pwrCoreStatusPending l) = false → (s.core c).wakeAfter = none → (s.core c).powerOp = none →
        (s.core c).wait = none → (s.core c).latch = 0 →
        Answers (.setPowerState p fast) s fun t => answered s t 0x0201 p stOk [] ∧ t.power c = x ∧ t.idleState l = x)) ∧
    (packetPar p 0 1 = 0 → x = 4 → s.dieOp = none →
      ((s.offered p).sleepRefusal = 0 → Answers (.setPowerState p fast) s fun t =>
        answered s t 0x0201 p stOk [] ∧ t.fld F.pwrDieStatusState = 1 ∧ t.fld (F.pwrHalfLocked 0) = 0 ∧
        t.fld (F.pwrHalfLocked 1) = 0) ∧
      ((s.offered p).sleepRefusal ≠ 0 → Answers (.setPowerState p fast) s fun t => replies s t 0x0201 p stBusy [] ∧
        t.fld F.pwrDieStatusLastRefusal = (s.offered p).sleepRefusal ∧
        t.fld F.pwrDieRefuse = (s.fld F.pwrDieRefuse + 1) % 2 ^ 32 ∧ t.mem = s.mem ∧ t.cores = s.cores))) ∧
    (∀ (s : State) (p : Packet), s.Takes 0x0801 p → 4 ≤ p.params.length →
    (packetPar p 0 4 ≠ 0x54455354 → Answers (.testModeEnter p) s fun t => onlyReplies s t 0x0801 p stBadParam []) ∧
    (packetPar p 0 4 = 0x54455354 → (s.offered p).quiesced = false →
      Answers (.testModeEnter p) s fun t => onlyReplies s t 0x0801 p stQuiesce []) ∧
    (packetPar p 0 4 = 0x54455354 → (s.offered p).quiesced = true → Answers (.testModeEnter p) s fun t =>
      replies s t 0x0801 p stOk [] ∧ t.fld F.tstStatusMissionTest = 1 ∧ blockKept s t 0x60000 0x60004 ∧ t.mem = s.mem)) ∧
    (∀ (s : State) (p : Packet), let k := packetPar p 1 1
    s.Takes 0x0101 p → 2 ≤ p.params.length → s.fld F.evgBootState ≠ 3 →
    let res := leBytes 1 s.stage ++ leBytes 1 (s.fld F.evgBootState) ++ leBytes 2 s.lastCode ++
      leBytes 4 ((s.time - s.stageStart) / 1000)
    (packetPar p 0 1 = 1 → s.stage < k → 3 ≤ k → k ≤ 9 → Answers (.bootStage p) s fun t =>
      replies s t 0x0101 p stOk res ∧ t.fld F.evgBootHoldEn = 1 ∧ t.fld F.evgBootHoldStage = k ∧ t.stage = s.stage) ∧
    (packetPar p 0 1 = 1 → (k ≤ s.stage ∨ k < 3 ∨ 9 < k) → Answers (.bootStage p) s fun t =>
      onlyReplies s t 0x0101 p stBadParam []) ∧
    (packetPar p 0 1 = 2 → Answers (.bootStage p) s fun t => replies s t 0x0101 p stOk res ∧
      t.fld F.evgBootHoldEn = 0 ∧ t.fld F.evgBootHoldStage = 0 ∧ t.stage = s.stage))

/-- When a slot is free, each of these is answered ACCEPTED with its OP_ID and begins: LOAD_IMAGE_COMMIT of a known
transfer; LINK_RETRAIN of a DISABLED or FAILED link (enabled into DETECT) or of an ACTIVE base or peer link (sent to
full training with its traffic held); LINK_LOOPBACK of a link in DISABLED, DETECT or FAILED; LINK_BER_TEST of an
ACTIVE link, a substrate link only while the other is open, or of every ACTIVE link. Their rejections are BAD_PARAM
and BUSY as R412, R413 and R431 say. LINK_RETRAIN with action 2 on any other link is OK and changes nothing.
RESTORE_SETTINGS gathers parts in order. LNK_CTL_RETRAIN acts as LINK_RETRAIN with action 0.

Completes: LOAD_IMAGE_COMMIT, RESTORE_SETTINGS, LINK_RETRAIN, LINK_LOOPBACK, LINK_BER_TEST, LNK_CTL_RETRAIN. -/
def Obligations.LongOperationsBegin : Prop :=
  (∀ (s : State) (p : Packet) (fast : Bool),
    let u := s.offered p
    let n := p.params.length
    let i := packetPar p 0 1
    let act := packetPar p 1 1
    let ms := packetPar p 4 4
    let id := s.session.nextOp
    (s.Takes 0x0104 p → 2 ≤ n → (u.transfer (packetPar p 0 2) = none →
        Answers (.loadImageCommit p) s fun t => onlyReplies s t 0x0104 p stBadParam []) ∧
      ∀ x, u.transfer (packetPar p 0 2) = some x → s.canStart 0x0104 p 0 → Answers (.loadImageCommit p) s fun t =>
        starts s t 0x0104 p 0 ∧ { x with op := some id } ∈ t.transfers ∧ t.mem = s.mem) ∧
    (s.Takes 0x0402 p → 2 ≤ n → i ≤ 31 → act ≤ 2 →
      let st := s.linkState i
      (s.linkExists i = false → Answers (.linkRetrain p fast) s fun t => onlyReplies s t 0x0402 p stBadParam []) ∧
      (s.linkExists i = true → s.txIdle.testBit i = false →
        (st = lkLoopback → Answers (.linkRetrain p fast) s fun t => onlyReplies s t 0x0402 p stBusy []) ∧
        (act = 2 → st ≠ lkDisabled → st ≠ lkFailed → st ≠ lkLoopback →
          Answers (.linkRetrain p fast) s fun t => onlyReplies s t 0x0402 p stOk []) ∧
        (act = 2 → st = lkDisabled ∨ st = lkFailed → s.canStart 0x0402 p i → Answers (.linkRetrain p fast) s fun t =>
          starts s t 0x0402 p i ∧ t.linkState i = lkDetect ∧ (t.link i).listening = true ∧ (t.link i).op = some id ∧
          t.fld (F.lnkStatusAttempts i) = 0 ∧ t.mem = s.mem) ∧
        (act = 0 → i < 30 → st = lkActive → s.canStart 0x0402 p i → Answers (.linkRetrain p fast) s fun t =>
          starts s t 0x0402 p i ∧ t.linkState i = lkDetect ∧ (t.link i).keepTraffic = true ∧ (t.link i).op = some id ∧
          (t.link i).txq = (s.link i).txq ∧ (t.link i).replay = (s.link i).replay ∧ t.mem = s.mem) ∧
        (act = 1 → fast = true → st = lkDetect → (s.link i).keepTraffic = false → i < 30 →
          Answers (.linkRetrain p fast) s fun t => replies s t 0x0402 p stOk [] ∧ t.linkState i = lkDisabled ∧
            (t.link i).listening = false))) ∧
    (s.Takes 0x0403 p → 8 ≤ n → i ≤ 31 → act ≤ 1 → 1 ≤ ms → ms ≤ 60000 → s.linkExists i = true →
      let st := s.linkState i
      let free := st = lkDisabled ∨ st = lkDetect ∨ st = lkFailed
      (¬ free → Answers (.linkLoopback p) s fun t => onlyReplies s t 0x0403 p stBusy []) ∧
      (free → s.canStart 0x0403 p i → Answers (.linkLoopback p) s fun t => starts s t 0x0403 p i ∧
        t.linkState i = lkLoopback ∧ (t.link i).prior = st ∧ (t.link i).loopOp = some id ∧ t.mem = s.mem)) ∧
    (s.Takes 0x0404 p → 8 ≤ n → i ≤ 31 → 1 ≤ ms → ms ≤ 60000 →
      (s.linkState i ≠ lkActive → Answers (.linkBerTest p) s fun t => onlyReplies s t 0x0404 p stBusy []) ∧
      (s.linkState i = lkActive → (s.link i).berOp = none → (i < 30 ∨ s.linkOpen (61 - i) = true) → s.canStart 0x0404 p i →
        Answers (.linkBerTest p) s fun t => starts s t 0x0404 p i ∧ t.linkState i = lkBerTest ∧
          (t.link i).berOp = some id ∧ t.mem = s.mem)) ∧
    (s.Takes 0x0404 p → 8 ≤ n → i = 0xFF → 1 ≤ ms → ms ≤ 60000 → s.canStart 0x0404 p i →
      (∃ k, k < 30 ∧ s.linkState k = lkActive ∧ (s.link k).berOp = none) → Answers (.linkBerTest p) s fun t =>
        starts s t 0x0404 p i ∧ ∀ k, k < 30 → s.linkState k = lkActive → (s.link k).berOp = none →
          t.linkState k = lkBerTest ∧ (t.link k).berOp = some id) ∧
    (s.Takes 0x0112 p → 8 ≤ n → s.stage < 3 → s.blobOp = none →
      let part := packetPar p 0 2
      let parts := packetPar p 2 2
      ∀ b, (part = 0 ∧ b = [] ∨ part ≠ 0 ∧ s.blobIn = some (parts, part, b)) →
      (part + 1 < parts → Answers (.restoreSettings p fast) s fun t => replies s t 0x0112 p stOk [] ∧
        t.blobIn = some (parts, part + 1, b ++ p.params.drop 8) ∧ t.mem = s.mem) ∧
      (part + 1 = parts → fast = false → s.canStart 0x0112 p 0 → Answers (.restoreSettings p fast) s fun t =>
        starts s t 0x0112 p 0 ∧ t.blobIn = some (parts, part + 1, b ++ p.params.drop 8) ∧ t.blobOp = some id))) ∧
  (∀ (s : State),
    s.bops = [] →
    (∀ i : LinkNo, s.alive = true → s.linkExists i.val = true → s.txIdle.testBit i.val = false →
      (s.linkState i.val = lkActive → Answers (.lnkCtlRetrain i) s fun t => t.linkState i.val = lkDetect ∧
        (t.link i.val).keepTraffic = true ∧ (t.link i.val).txq = (s.link i.val).txq ∧ t.mem = s.mem) ∧
      (s.linkState i.val = lkLoopback → Sys2Proof.Machine.exec (.lnkCtlRetrain i) s = .next s) ∧
      (s.linkState i.val = lkDisabled ∨ s.linkState i.val = lkFailed → Answers (.lnkCtlRetrain i) s fun t =>
        t.linkState i.val = lkDetect ∧ (t.link i.val).listening = true ∧ t.fld (F.lnkStatusAttempts i.val) = 0 ∧
        t.mem = s.mem)))

/-- A completion gives its operation its final status and results and leaves the object at rest. LINK_RETRAIN_DONE: OK for
a link that is ACTIVE or DISABLED, HW_FAULT for a FAILED one. LOOPBACK_DONE returns the link to its earlier state,
with the errors of each lane as results. BER_TEST_DONE of a test of one link without a failing lane leaves it ACTIVE
and reports its errors. RESTORE_SETTINGS_DONE accepts the blob or gives the status of the check that failed.
POWER_TRANSITION_DONE leaves a core in its target, a waking one in Leaf, and a die whose up links are all in TRICKLE
asleep. POWER_EXIT_TIMEOUT of a die with no kernel fences the core that did not wake. PWR_SLEEP_TIMER wakes a sleeping
die with cause TIMER, and the wake completes when both rails and a substrate link are back.

Completes: POWER_TRANSITION_DONE, POWER_EXIT_TIMEOUT, LINK_RETRAIN_DONE, LOOPBACK_DONE, BER_TEST_DONE, DIE_WAKE,
SLEEP_TIMER, RESTORE_SETTINGS_DONE. -/
def Obligations.LongOperationsEnd : Prop :=
  (∀ (s : State) (id : Nat),
    s.opLive id →
    (∀ (l : LinkNo), (s.link l.val).op = some id →
      (s.linkState l.val = lkActive ∨ s.linkState l.val = lkDisabled → Answers (.linkRetrainDone l) s fun t =>
        finishes s t id stOk [] ∧ (t.link l.val).op = none ∧ t.linkState l.val = s.linkState l.val) ∧
      (s.linkState l.val = lkFailed → Answers (.linkRetrainDone l) s fun t =>
        finishes s t id stHwFault [] ∧ (t.link l.val).op = none)) ∧
    (∀ (l : LinkNo) (errors : List Nat), s.linkState l.val = lkLoopback → (s.link l.val).loopOp = some id →
      Answers (.loopbackDone l errors) s fun t => t.linkState l.val = (s.link l.val).prior % 2 ^ 4 ∧
        (t.link l.val).loopOp = none ∧ t.mem = s.mem ∧
        finishes s t id stOk ((List.range 64).flatMap fun j => leBytes 2 (min 0xFFFF (errors.getD j 0)))) ∧
    (∀ (l : LinkNo) (errors : List (Nat × Nat)), s.linkState l.val = lkBerTest → (s.link l.val).berOp = some id →
      (∀ k, k < 32 → k ≠ l.val → (s.link k).berOp ≠ some id) → s.failedLanes l.val errors = 0 → s.bops = [] →
      Answers (.berTestDone l errors) s fun t => t.linkState l.val = lkActive ∧ (t.link l.val).berOp = none ∧
        t.mem = s.mem ∧ finishes s t id stOk ((List.range 64).flatMap fun j =>
          leBytes 2 (min 0xFFFF (errors.getD j (0, 0)).2) ++ leBytes 2 (min 0xFFFF (errors.getD j (0, 0)).1))) ∧
    (∀ (k n : Nat) (b : List Byte), s.blobOp = some id → s.blobIn = some (n, k, b) →
      Answers .restoreSettingsDone s fun t => finishes s t id (s.blobStatus b) [] ∧ t.blobIn = none ∧ t.blobOp = none ∧
        t.restored = if s.blobStatus b = stOk then some (readBlob b (leAt b 0x14 4 == s.placementWord)) else s.restored) ∧
    (∀ (l : CoreNo) (c : Nat), s.phys l.val = some c → s.dieAwake = true → s.bops = [] → s.session.asleep = [] →
      s.bit F.pwrDieStatusPending = false → s.bit (F.pwrCoreStatusPending l.val) = false → (s.core c).powerOp = some id →
      tsorted s.cores = true → (∀ x ∈ s.cores, x.1 ≠ c → x.2.powerOp ≠ some id) →
      (∀ k, k < 96 → ¬ (s.bit (F.pwrCoreStatusPending k) = true ∧ s.fld (F.pwrCoreStatusPendingOp k) = id)) →
      (s.power c = pwEntering → (s.core c).wakeAfter = none → (s.core c).target ≤ 3 →
        Answers (.powerTransitionDone (some l)) s fun t => t.power c = (s.core c).target ∧ finishes s t id stOk []) ∧
      (s.power c = pwWaking → (s.core c).latch = 0 → (s.core c).wait = none →
        Answers (.powerTransitionDone (some l)) s fun t => t.power c = pwLeaf ∧ finishes s t id stOk [])) ∧
    (s.fld F.pwrDieStatusState = 1 → (∀ i, i < 32 → s.linkUp i = true → s.linkState i = lkTrickle) → s.dieWakeAfter = none →
      Answers (.powerTransitionDone none) s fun t => t.fld F.pwrDieStatusState = 2 ∧ t.sleepAt = some s.time ∧
        t.fld F.pwrSleeps = (s.fld F.pwrSleeps + 1) % 2 ^ 32 ∧ t.mem = s.mem ∧ t.session = s.session) ∧
    (∀ (l : CoreNo) (c : Nat), s.phys l.val = some c → s.power c = pwWaking → s.fencedCore c = false → s.kernels = [] →
      s.bops = [] →
      Answers (.powerExitTimeout l) s fun t => t.fencedCore c = true ∧ t.coreState c = csFenced)) ∧
  (∀ (s : State),
    (s.fld F.pwrDieStatusState = 2 → s.fld F.pwrSleepTimer ≠ 0 → Answers .sleepTimer s fun t => t.mem = s.mem ∧
      t.cores = s.cores ∧ t.fld F.pwrDieStatusState = 3 ∧ t.fld F.pwrDieStatusWakeCause = 6 ∧
      (s.linkState 30 = lkTrickle → t.linkState 30 = lkWake) ∧ (s.linkState 31 = lkTrickle → t.linkState 31 = lkWake)) ∧
    (s.fld F.pwrSleepTimer = 0 → Sys2Proof.Machine.exec .sleepTimer s = .next s) ∧
    (s.fld F.pwrDieStatusState ≠ 3 → Sys2Proof.Machine.exec .dieWake s = .next s) ∧
    (s.fld F.pwrDieStatusState = 3 → s.linkState 30 = lkActive → s.fld F.pwrDieStatusPending = 0 → s.sleepPoint.length = 2 →
      s.session.asleep = [] → s.bops = [] →
      (∀ y ∈ s.sleepPoint.zipIdx, (s.rail y.2).requests = [] ∧ (s.rail y.2).mv = y.1.2) →
      Answers .dieWake s fun t => t.fld F.pwrDieStatusState = 0 ∧ t.mem = s.mem))

/-- LOAD_IMAGE_BEGIN with a size, capacity and chunk count that R442 allows opens a transfer in place of an uncommitted
one of its target, keeps one that it repeats, and is BUSY while a commit runs; other parameters are BAD_PARAM.
LOAD_IMAGE_CHUNK of an open transfer stores the chunk once and gives it to every core that takes it, with no failure;
of an unknown transfer, or with a wrong number or length, it is BAD_PARAM; of a committed one it changes nothing.
IMAGE_COMMIT_DONE ends the commit with BAD_PARAM when a receiver lacks a chunk, AUTH_FAIL when the digest differs or
the header, key or signature fails, ROLLBACK when the version is below the counter, each with the transfer removed,
and else OK, with the image taken up and measured.

Completes: LOAD_IMAGE_BEGIN, LOAD_IMAGE_CHUNK, IMAGE_COMMIT_DONE. -/
def Obligations.ImagesAreLoaded : Prop :=
  (∀ (s : State) (p : Packet),
    let n := p.params.length
    let target := packetPar p 0 1
    let id := packetPar p 2 2
    let size := packetPar p 4 4
    let digest := slice p.params 12 32
    let form := 44 ≤ n ∧ target ≤ 1 ∧ 0 < size ∧ size ≤ (if target = 0 then 196608 else 32768) ∧ size % 16 = 0 ∧
      packetPar p 8 4 = (size + 4095) / 4096
    let fresh : Transfer := { target, id, size, chunks := (size + 4095) / 4096, digest, receivers := if target = 1 then
      ((List.range 96).filter fun c => !excludes s.dieback c).map (fun c => { core := c }) else [] }
    s.Takes 0x0102 p →
    (¬ form → Answers (.loadImageBegin p) s fun t => onlyReplies s t 0x0102 p stBadParam []) ∧
    (form → (∃ x ∈ s.transfers, x.target = target ∧ x.op ≠ none) →
      Answers (.loadImageBegin p) s fun t => onlyReplies s t 0x0102 p stBusy []) ∧
    (form → (∀ x ∈ s.transfers, x.target = target → x.op = none) →
      ((∃ x ∈ s.transfers, x.target = target ∧ x.committed = false ∧ x.id = id ∧ x.size = size ∧ x.digest = digest) →
        Answers (.loadImageBegin p) s fun t => onlyReplies s t 0x0102 p stOk []) ∧
      (¬ (∃ x ∈ s.transfers, x.target = target ∧ x.committed = false ∧ x.id = id ∧ x.size = size ∧ x.digest = digest) →
        Answers (.loadImageBegin p) s fun t => replies s t 0x0102 p stOk [] ∧ t.mem = s.mem ∧ t.regs = (s.offered p).regs ∧
          t.transfers = s.transfers.filter (fun x => decide (x.target ≠ target) || x.committed) ++ [fresh]))) ∧
  (∀ (s : State) (p : Packet) (bad : List CoreNo) (x : Transfer),
    let chunk := p.tag.toNat % 65536
    let id := p.tag.toNat / 65536 % 65536
    s.Takes 0x0103 p →
    (s.transfer id = none → Answers (.loadImageChunk p bad) s fun t => onlyReplies s t 0x0103 p stBadParam []) ∧
    (s.transfer id = some x →
      (x.chunks ≤ chunk ∨ p.params.length ≠ min 4096 (x.size - chunk * 4096) →
        Answers (.loadImageChunk p bad) s fun t => onlyReplies s t 0x0103 p stBadParam []) ∧
      (chunk < x.chunks → p.params.length = min 4096 (x.size - chunk * 4096) → x.committed = true ∨ x.op ≠ none →
        Answers (.loadImageChunk p bad) s fun t => onlyReplies s t 0x0103 p stOk []) ∧
      (chunk < x.chunks → p.params.length = min 4096 (x.size - chunk * 4096) → x.committed = false → x.op = none →
        (∀ c ∈ bad, ∀ r ∈ x.receivers, r.core ≠ c.val) → (∀ r ∈ x.receivers, tget 0 r.fails chunk < 4) →
        Answers (.loadImageChunk p bad) s fun t => replies s t 0x0103 p stOk [] ∧ t.mem = s.mem ∧
          { x with data := if x.data.any (fun d => d.1 == chunk) then x.data else tins x.data chunk p.params,
                   receivers := x.receivers.map fun r => if r.got.contains chunk then r else { r with got := r.got ++ [chunk] } }
            ∈ t.transfers))) ∧
  (∀ (s : State) (x : Transfer) (id : Nat), s.transfers.find? (fun x => x.op.isSome) = some x → x.op = some id → x.target ≤ 1 → s.opLive id →
    let b := (x.data.flatMap fun d => d.2).take x.size
    let whole := ∀ k, k < x.chunks → x.lacks k = false
    let gone := fun (t : State) => ∀ y ∈ t.transfers, ¬ (y.target = x.target ∧ y.id = x.id ∧ y.op ≠ none)
    let v := s.verify x.target b
    (¬ whole → Answers .imageCommitDone s fun t => finishes s t id stBadParam (List.replicate 32 0) ∧ gone t) ∧
    (whole → sha256 b ≠ x.digest → Answers .imageCommitDone s fun t => finishes s t id stAuthFail (sha256 b) ∧ gone t ∧
      t.fld F.secAuthFail = (s.fld F.secAuthFail + 1) % 2 ^ 32) ∧
    (whole → sha256 b = x.digest → v.1 ≠ stOk → Answers .imageCommitDone s fun t =>
      finishes s t id v.1 (sha256 b) ∧ gone t ∧ (v.1 = stAuthFail ∨ v.1 = stRollback)) ∧
    (whole → sha256 b = x.digest → v.1 = stOk → Answers .imageCommitDone s fun t =>
      finishes s t id stOk (sha256 b) ∧ (∀ y ∈ t.transfers, y.op = none) ∧
      (∀ j, j < 8 → t.fld (F.secMeas x.target j) = leAt (sha256 b) (4 * j) 4) ∧
      (x.target = 0 → ∃ im, t.firmware = some im ∧ im.bytes = b ∧ im.svn = leAt b 0x18 2 ∧ im.slot = v.2) ∧
      (x.target ≠ 0 → ∃ im, t.microcode = some im ∧ im.bytes = b ∧ im.svn = leAt b 0x18 2 ∧ im.slot = v.2)))

/-- PWRGD_EVG's rise samples TEST_MODE and begins S0 at time 0. A cold reset of at least 100 ns returns every register to
its reset value, loses the log, the dieback list, the session and every bank, and keeps the fuses; a warm reset keeps
the dieback list, the time, the host clock, the memtest record and the fuses, ends the session, empties the units and
returns the die to BOOTING; in a cold reset, and while THERM_TRIP_N is low, PERST_N's fall changes only the pin.
Shorter pulses change nothing. The end of a hold begins S0 after a cold reset. S0's end senses the fuses, passes, or
leaves the die FAULTED with cause 2; PERST_N's rise after it begins S1, with both PLLs at FCODE 8 and U0 and U1
listening. A thermal trip and a lost reference leave the die FAULTED with causes 7 and 1, core clocks stopped and no
link up; a restored reference changes nothing else.

Completes: PWRGD_EVG_RISE, COLD_RESET, WARM_RESET, RESET_HOLD_END, PERST_N_RISE, S0_END, THERMAL_TRIP, REFCLK_LOST,
REFCLK_RESTORED. -/
def Obligations.PinsAndResets : Prop :=
  ∀ (s : State) (ns : Nat) (tm fuseError : Bool) (sensor : Fin 64) (reading : BitVec 16),
    (s.pwrgd = true → Sys2Proof.Machine.exec (.pwrgdEvgRise tm) s = .next s) ∧
    (s.pwrgd = false → s.hold22 = none → s.refclk = true → Answers (.pwrgdEvgRise tm) s fun t => t.pwrgd = true ∧
      t.testMode = tm ∧ t.time = 0 ∧ t.stageStart = 0 ∧ t.s0Over = false ∧ t.mem = s.mem ∧ fieldsKept s t [F.evgBootTestMode.key]) ∧
    (ns < 100 → Sys2Proof.Machine.exec (.coldReset ns) s = .next s ∧ Sys2Proof.Machine.exec (.warmReset ns) s = .next s) ∧
    (100 ≤ ns → s.pwrgd = true → Answers (.coldReset ns) s fun t => (∀ g : Fld, t.fld g = resetOf g.key) ∧
      t.pwrgd = false ∧ t.hold22 = some 1 ∧ t.log = [] ∧ t.dieback = [] ∧ t.session = {} ∧ t.cores = [] ∧ t.kernels = [] ∧
      t.queues = [] ∧ t.links = [] ∧ t.mem.cells = [] ∧ (∀ b, b < 1536 → (tfind t.mem.lost b).isSome = true) ∧
      t.pending = s.pending ∧ t.perst = s.perst ∧ (s.commits = [] → t.fuses = s.fuses)) ∧
    (100 ≤ ns → s.perst = true → s.pwrgd = false ∨ s.hold22 = some 1 ∨ s.tripped = true →
      Sys2Proof.Machine.exec (.warmReset ns) s = .next { s with perst := false }) ∧
    (100 ≤ ns → s.perst = true → s.pwrgd = true → s.hold22 ≠ some 1 → s.tripped = false → s.refclk = true →
      Answers (.warmReset ns) s fun t => t.dieback = s.dieback ∧ t.time = s.time ∧ t.hostClock = s.hostClock ∧
        t.memRecord = s.memRecord ∧ t.session = {} ∧ t.cores = [] ∧ t.kernels = [] ∧ t.queues = [] ∧ t.binders = [] ∧
        t.chans = [] ∧ t.links = [] ∧ t.mem.cells = [] ∧ t.ready = rdBooting ∧ t.stage = 0 ∧ t.fld F.evgBootWarm = 1 ∧
        t.hold22 = some 2 ∧ t.perst = false ∧ t.testMode = s.testMode ∧ t.pending = s.pending ∧
        (s.commits = [] → t.fuses = s.fuses)) ∧
    (s.hold22 = none → Sys2Proof.Machine.exec .resetHoldEnd s = .next s) ∧
    (s.hold22 = some 1 → s.pwrgd = true → s.refclk = true →
      Sys2Proof.Machine.exec .resetHoldEnd s = .next { s with hold22 := none, time := 0, stageStart := 0, s0Over := false }) ∧
    (s.hold22 = some 2 → s.perst = false → Sys2Proof.Machine.exec .resetHoldEnd s = .next { s with hold22 := none }) ∧
    (s.pwrgd = true → s.hold22 ≠ some 1 → s.s0Over = false → s.inStage 0 = true → s.perst = false →
      Answers (.s0End fuseError true) s fun t => t.s0Over = true ∧ t.time = max s.time 10000 ∧
        t.fld (F.pwrLimit 0) = s.fuses.designMw % 2 ^ 32 ∧ t.mem = s.mem ∧
        (fuseError = true → t.ready = rdFaulted ∧ t.fld F.fltStatusFaultCause = 2 ∧ t.fld F.evgBootState = 2) ∧
        (fuseError = false → t.fld F.evgBootState = 1 ∧ t.ready = s.ready ∧ t.stage = 0)) ∧
    (s.perst = true → Sys2Proof.Machine.exec .perstNRise s = .next s) ∧
    (s.perst = false → s.alive = true → s.s0Over = true → s.stage = 0 → s.clocksOff = false → s.txIdle = 0 → s.fuseBad = false → s.ready ≠ rdFaulted →
      s.selfCheckOk = true → s.testMode = false → Answers .perstNRise s fun t => t.perst = true ∧ t.stage = 1 ∧
        t.fld F.evgBootState = 0 ∧ (t.link 30).listening = true ∧ (t.link 31).listening = true ∧ t.keys ≠ none ∧
        (∀ h, h < 2 → t.fld (F.pwrHalfLocked h) = 1 ∧ t.fld (F.pwrHalfFcode h) = 8) ∧ t.mem = s.mem) ∧
    (s.pwrgd = true → s.hold22 ≠ some 1 →
      (s.tripped = false → 1840 ≤ reading.toInt → Answers (.thermalTrip sensor reading) s fun t => t.tripped = true ∧
        t.thermTripN = false ∧ t.ready = rdFaulted ∧ t.fld F.fltStatusFaultCause = 7 ∧ t.clocksOff = true ∧
        (∀ i, i < 32 → t.linkUp i = false) ∧ t.mem = s.mem) ∧
      (reading.toInt < 1840 → Sys2Proof.Machine.exec (.thermalTrip sensor reading) s = .next s) ∧
      (s.refclk = true → s.ready ≠ rdFaulted → Answers .refclkLost s fun t => t.refclk = false ∧ t.ready = rdFaulted ∧
        t.fld F.fltStatusFaultCause = 1 ∧ t.clocksOff = true ∧ (∀ i, i < 32 → t.linkUp i = false) ∧ t.mem = s.mem)) ∧
    (s.pwrgd = false → Sys2Proof.Machine.exec .refclkLost s = .next { s with refclk := false }) ∧
    Sys2Proof.Machine.exec .refclkRestored s = .next { s with refclk := true }

/-- In a die that holds no stage back. S1's time limit, from which the clock reads at least 5 s, passes with a placement
word and a substrate link up, and else fails with reason 5 when words came and none was latched, else 3; the limits of
S3, S5, S7 and S8 fail their stages. S3's self-test that finds nothing, with the fuses' and settings' entries already
merged, numbers every core the dieback list leaves, zeroes their banks and passes, with nothing to commit; with fewer
than 92 cores it fails with reason 1. S4 ends when every link with a partner is ACTIVE or FAILED, passing with 12 base
links up and failing with reason 1 otherwise. S5 passes when no link is under test. The SB1's answers give the size,
progress and end of the memory test; without an answer it fails. S7 empties queues, channels and binders and applies
the calibration. S8 finalises the measurements and the die becomes READY. A security advance programs fuses up to the
image's, or is refused below 1,600 mV. Each stage report says stage, outcome and reason.

Completes: S1_PLACEMENT_TIMEOUT, STAGE_TIME_LIMIT, S3_SELF_TEST_DONE, S4_END, S5_END, SB1_MEMTEST_ANSWER,
SB1_ANSWER_TIMEOUT, S7_INIT, S8_FINALISE, SECURITY_ADVANCE. -/
def Obligations.StagesRun : Prop :=
  ∀ (s : State), s.fld F.evgBootHoldEn = 0 → s.bops = [] →
    let failed := fun (t : State) (k r : Nat) => t.stage = k ∧ t.fld F.evgBootState = 2 ∧
      t.fld (F.evgBootReportCode k) = k * 2 ^ 12 + 2 * 2 ^ 8 + r ∧ t.fld (F.evgBootReportCurrent k) = 1
    let passed := fun (t : State) (k : Nat) => t.fld (F.evgBootReportCurrent k) = 1 ∧ t.stage = k + 1 ∧
      (s.losses = [] → t.fld (F.evgBootReportCode k) = k * 2 ^ 12)
    (s.inStage 1 = true → s.testMode = false →
      let ok := s.bit F.evgPlacementValid = true ∧ (s.linkUp 30 = true ∨ s.linkUp 31 = true)
      (ok → s.bothImages = false → ∀ i ∈ [Instr.s1PlacementTimeout, Instr.stageTimeLimit], Answers i s fun t => passed t 1 ∧
        s.stageStart + 5000000 ≤ t.time) ∧
      (¬ ok → ∀ i ∈ [Instr.s1PlacementTimeout, Instr.stageTimeLimit], Answers i s fun t =>
        failed t 1 (if s.wordSeen = true ∧ s.bit F.evgPlacementValid = false then 5 else 3) ∧
        s.stageStart + 5000000 ≤ t.time)) ∧
    (s.inStage 3 = true → Answers .stageTimeLimit s (failed · 3 5)) ∧
    (s.inStage 5 = true → Answers .stageTimeLimit s (failed · 5 0)) ∧
    (s.inStage 7 = true → Answers .stageTimeLimit s (failed · 7 0)) ∧
    (s.inStage 8 = true → Answers .stageTimeLimit s (failed · 8 0)) ∧
    (s.inStage 3 = true → s.commits = [] → s.mergeDieback = s → shortOfSpares s.dieback = [] →
      (∀ d ∈ s.dieback, d.source ≠ 2 ∧ d.retry = false) →
      (92 ≤ s.remaining → Answers (.s3SelfTestDone []) s fun t => passed t 3 ∧ t.nLogical = s.remaining ∧
        t.fld F.evgNumberingEpoch = 1 ∧ (∀ c, c < 96 → t.coreMap.testBit c = !excludes s.dieback c) ∧
        (∀ c k, c < 96 → excludes s.dieback c = false → k < 2 ^ 22 → t.mem.get (c * 2 ^ 22 + k) = 0)) ∧
      (s.remaining < 92 → Answers (.s3SelfTestDone []) s (failed · 3 1))) ∧
    (s.inStage 4 = true → (∀ i, i < 30 → s.linkExists i = true → s.linkState i = lkActive ∨ s.linkState i = lkFailed) →
      let up := ((List.range 24).filter s.linkUp).length
      (12 ≤ up → Answers (.s4End false) s (passed · 4)) ∧ (up < 12 → Answers (.s4End false) s (failed · 4 1))) ∧
    (s.inStage 5 = true → (∀ i ∈ s.qualifying, s.linkState i ≠ lkBerTest) → Answers .s5End s (passed · 5)) ∧
    (s.fld F.evgMemtestState = 1 → s.alive = true →
      (∀ bytes confirms, s.inStage 6 = false → Answers (.sb1MemtestAnswer (.size bytes confirms)) s fun t =>
        t.packageBytes = bytes ∧ t.fld F.evgMemtestFast =
          (if s.memRun.asked = true ∧ s.memGranted s.memRun.grant bytes confirms = true then 1 else 0) ∧ t.mem = s.mem) ∧
      (∀ pm, Answers (.sb1MemtestAnswer (.progress pm)) s fun t => t.fld F.evgMemtestProgress = min pm 1000 ∧
        fieldsKept s t [F.evgMemtestProgress.key] ∧ t.mem = s.mem) ∧
      (∀ rows, s.inStage 6 = true → s.memRun.op = none → Answers (.sb1MemtestAnswer (.passed rows)) s fun t =>
        passed t 6 ∧ t.fld F.evgMemtestState = 2 ∧ t.memValid = true) ∧
      (s.inStage 6 = true → s.memRun.op = none → Answers (.sb1MemtestAnswer .unusable) s fun t =>
        failed t 6 2 ∧ t.fld F.evgMemtestState = 3 ∧ t.memRecord = s.memRecord) ∧
      (s.inStage 6 = true → s.memRun.op = none → Answers .sb1AnswerTimeout s fun t =>
        failed t 6 3 ∧ t.fld F.evgMemtestState = 3 ∧ t.memRecord = s.memRecord)) ∧
    (s.inStage 7 = true → Answers .s7Init s fun t => passed t 7 ∧ t.queues = [] ∧ t.chans = [] ∧ t.binders = [] ∧
      t.fld F.calStatusApplied = 1 ∧ t.calActive = s.calItems ∧ t.mem = s.mem) ∧
    (s.inStage 8 = true → s.degraded = 0 → Answers .s8Finalise s fun t => passed t 8 ∧ t.ready = rdReady ∧
      t.fld F.secStatusMeasFinal = 1 ∧ t.mem = s.mem) ∧
    (∀ im mv n, s.firmware = some im → s.bit F.secStatusAdvancePending = true → s.advanceRefused = false →
      s.ready ≠ rdFaulted → s.alive = true →
      (mv < 1600 → Answers (.securityAdvance mv n) s fun t => t.advanceRefused = true ∧ t.fuses = s.fuses ∧
        t.fld F.evgFuseJournalVppRefused = 1) ∧
      (1600 ≤ mv → im.advanceTo ≤ 64 → im.revokeTo ≤ 3 → s.fuses.svn < 2 ^ 64 → s.fuses.revoked < 2 ^ 3 → 67 ≤ n →
        Answers (.securityAdvance mv n) s fun t => t.fuses.counter = max s.fuses.counter im.advanceTo ∧
          t.fuses.revokeIndex = max s.fuses.revokeIndex im.revokeTo ∧ t.fld F.secStatusAdvancePending = 0 ∧ t.mem = s.mem))

/-- A sample stores each sensor's reading with its offset and marks it valid; TEL_VMON holds the reading clamped to 1,500
mV and MIN the lowest since it was read. A droop of 20 mV or more counts the lengthened cycles, and one above 50 mV is
counted and logged as severe; the end of a stretch counts its last cycles; a monitor of the other half or a droop
below 20 mV changes nothing. One glide step moves FCODE by one toward TARGET, and the last clears GLIDING. A rail's
acknowledgement takes the voltage of the oldest request, and without a request changes nothing. HEDGER_CLK_REQUEST
sets REQUEST, LOCKED and FAST alike. CAL_WRITE_USER stores the items, a 0 DELTA removing one, or rejects all of them
with the reason; CAL_CLEAR_USER removes all.

Completes: SENSOR_SAMPLE, DROOP_STRETCH, DROOP_STRETCH_END, RAIL_ACK, CAL_WRITE_USER, CAL_CLEAR_USER, GLIDE_STEP,
HEDGER_CLK_REQUEST. -/
def Obligations.ClocksAndSensors : Prop :=
  (∀ (s : State) (h : Half) (m : Fin 20) (mv n k : Nat) (on : Bool) (raw : BitVec 16),
    (s.alive = true → Answers (.sensorSample [raw] [mv]) s fun t =>
      t.fld (F.telTempValid 0) = 1 ∧ t.fld (F.telTempTemp 0) = (raw.toNat + s.fld (F.calTempOffEffective 0)) % 2 ^ 16 ∧
      t.fld (F.telVmonValid 0) = 1 ∧
      (let v := (min 1500 (max 0 ((mv : Int) + toSigned 16 (s.fuses.offset 64)))).toNat
       t.fld (F.telVmonMv 0) = v ∧
       t.fld (F.telVmonMin 0) = if s.fld (F.telVmonMin 0) = 0 then v else min (s.fld (F.telVmonMin 0)) v % 2 ^ 11) ∧
      (∀ j, 1 ≤ j → j < 64 → t.fld (F.telTempTemp j) = s.fld (F.telTempTemp j)) ∧
      (∀ j, 1 ≤ j → j < 24 → t.fld (F.telVmonMv j) = s.fld (F.telVmonMv j)) ∧ t.mem = s.mem ∧ t.cores = s.cores) ∧
    (s.clocksOff = false → s.alive = true →
      (m.val / 10 = halfNo h → 20 ≤ mv → mv ≤ 50 → Answers (.droopStretch h m mv n) s fun t =>
        t.fld (F.telDroopCc (halfNo h)) = (s.fld (F.telDroopCc (halfNo h)) + n) % 2 ^ 32 ∧
        fieldsKept s t [(F.telDroopCc (halfNo h)).key] ∧ t.log = s.log ∧ t.mem = s.mem) ∧
      (m.val / 10 = halfNo h → 50 < mv → Answers (.droopStretch h m mv n) s fun t =>
        t.fld (F.telDroopCc (halfNo h)) = (s.fld (F.telDroopCc (halfNo h)) + n) % 2 ^ 32 ∧
        t.fld F.telDroopSevere = (s.fld F.telDroopSevere + 1) % 2 ^ 32 ∧
        logs s t svWarning 7 0 0x0602 (128 + m.val) 0 ((s.rail (halfNo h)).mv - mv) ∧ t.mem = s.mem) ∧
      (m.val / 10 ≠ halfNo h ∨ mv < 20 → Sys2Proof.Machine.exec (.droopStretch h m mv n) s = .next s) ∧
      Answers (.droopStretchEnd h n) s fun t =>
        t.fld (F.telDroopCc (halfNo h)) = (s.fld (F.telDroopCc (halfNo h)) + n) % 2 ^ 32 ∧
        fieldsKept s t [(F.telDroopCc (halfNo h)).key] ∧ t.mem = s.mem) ∧
    (s.clocksOff = false → s.bit (F.pwrHalfGliding (halfNo h)) = true → s.bit (F.pwrHalfLocked (halfNo h)) = true →
      let cur := s.fld (F.pwrHalfFcode (halfNo h))
      let to_ := s.fld (F.pwrHalfTarget (halfNo h))
      cur < 64 → to_ < 64 →
      let next := if cur < to_ then cur + 1 else if to_ < cur then cur - 1 else cur
      Answers (.glideStep h) s fun t => t.fld (F.pwrHalfFcode (halfNo h)) = next ∧
        t.fld (F.pwrHalfTarget (halfNo h)) = to_ ∧ t.bit (F.pwrHalfGliding (halfNo h)) = decide (next ≠ to_) ∧
        t.fld (F.pwrHalfFcode (1 - halfNo h)) = s.fld (F.pwrHalfFcode (1 - halfNo h)) ∧ t.mem = s.mem ∧
        (next ≠ to_ → fieldsKept s t [(F.pwrHalfFcode (halfNo h)).key] ∧ t.cores = s.cores)) ∧
    (s.bit (F.pwrHalfGliding (halfNo h)) = false → Sys2Proof.Machine.exec (.glideStep h) s = .next s) ∧
    ((s.rail (halfNo h)).requests = [] → Sys2Proof.Machine.exec (.railAck h) s = .next s) ∧
    (∀ later, (s.rail (halfNo h)).requests = k :: later → (k = 0 ∨ s.controls = false) → Answers (.railAck h) s fun t =>
      t = s.setRail (halfNo h) { s.rail (halfNo h) with mv := k, requests := later }) ∧
    (s.alive = true → Answers (.hedgerClkRequest on) s fun t => t.bit F.pwrHedgerClkRequest = on ∧
      t.bit F.pwrHedgerClkLocked = on ∧ t.bit F.pwrHedgerClkFast = on ∧ t.mem = s.mem ∧
      fieldsKept s t [F.pwrHedgerClkRequest.key, F.pwrHedgerClkLocked.key, F.pwrHedgerClkFast.key])) ∧
  (∀ (s : State) (p : Packet),
    let n := packetPar p 0 2
    let items := (List.range n).map fun k => (packetPar p (4 + 8 * k) 4, packetPar p (8 + 8 * k) 4)
    let next := items.foldl (fun m e => if e.2 = 0 then tdel m e.1 else tins m e.1 e.2) s.calItems
    s.Takes 0x0702 p → 1 ≤ n → n ≤ 255 → 4 + 8 * n ≤ p.params.length →
    (itemsReason items [] = 0 → next.length ≤ 1024 → Answers (.calWriteUser p) s fun t =>
      replies s t 0x0702 p stOk [] ∧ t.calItems = next ∧ t.mem = s.mem ∧
      t.calActive = if s.bit F.calStatusApplied then next else s.calActive) ∧
    (itemsReason items [] ≠ 0 → Answers (.calWriteUser p) s fun t => replies s t 0x0702 p stBadParam [] ∧
      t.calItems = s.calItems ∧ t.calActive = s.calActive ∧ t.fld F.calStatusLastReject = itemsReason items [] % 2 ^ 8 ∧
      t.fld F.calRejects = (s.fld F.calRejects + 1) % 2 ^ 32 ∧ blockKept s t 0x50000 0x50008)) ∧
  (∀ (s : State) (p : Packet), s.Takes 0x0703 p → Answers (.calClearUser p) s fun t => replies s t 0x0703 p stOk [] ∧
    t.calItems = [] ∧ t.mem = s.mem ∧ t.calActive = if s.bit F.calStatusApplied then [] else s.calActive)

/-- A microsecond's estimate, with no user scale, advances the clock by 1 µs, adds each component's whole microjoules to
its counter and keeps the rest, and reports the power in mW. An account update whose shares sum to the energy adds
each share to its account, which is that of the context it names, and the rest to the unattributed counter; one that
does not, or names another account, is no update (log 2). While power control runs: a fast average above the fast
limit lowers the fast cap by 2, one below 95 % raises it by 1 at most every 100 µs; a slow average above the effective
slow limit lowers the slow cap by 1; a sensor above 105 °C lowers its half's thermal cap by 1; the power caps are the
lower of the two caps and the fused maximum.

Completes: ENERGY_ESTIMATE, ENERGY_ACCOUNT_UPDATE, POWER_FAST_EVAL, POWER_SLOW_EVAL, THERMAL_EVAL. -/
def Obligations.PowerIsAccountedAndCapped : Prop :=
  ∀ (s : State),
    (∀ (js : List Nat), s.alive = true → js.length = 7 → s.pctl.rest.length = 7 →
      (∀ k, k < 7 → toSigned 16 (s.fld (F.calEnergyScale k)) = 0) → Answers (.energyEstimate js) s fun t =>
        t.time = s.time + 1 ∧ t.fld F.telPower = js.sum % 2 ^ 32 ∧ t.mem = s.mem ∧ t.cores = s.cores ∧
        ∀ k, k < 7 → t.fld (F.telComp k) = (s.fld (F.telComp k) + (s.pctl.rest.getD k 0 + js.getD k 0) / 1000) % 2 ^ 64 ∧
          t.pctl.rest.getD k 0 = (s.pctl.rest.getD k 0 + js.getD k 0) % 1000) ∧
    (∀ (a : Fin 256) (q : CtxNo) (uj rest : Nat), s.alive = true →
      let due := s.fld F.telEnergy - s.pctl.charged
      let ty := s.fld (F.queCfgType q.val)
      let fits := ty = qtUnused ∨ ((ty = qtWork ∨ ty = qtDma) ∧ s.fld (F.queCfgAccount q.val) = a.val)
      (fits → uj + rest = due → Answers (.energyAccountUpdate [(a, some q, uj)] rest) s fun t =>
        t.fld (F.telAcct a.val) = (s.fld (F.telAcct a.val) + uj) % 2 ^ 64 ∧
        t.fld (F.queEnergy q.val) = (s.fld (F.queEnergy q.val) + uj) % 2 ^ 64 ∧
        t.fld F.telUnattr = (s.fld F.telUnattr + rest) % 2 ^ 64 ∧ t.pctl.charged = s.pctl.charged + due ∧ t.mem = s.mem ∧
        fieldsKept s t [(F.telAcct a.val).key, (F.queEnergy q.val).key, F.telUnattr.key]) ∧
      (¬ fits ∨ due + 1 < uj + rest → Sys2Proof.Machine.exec (.energyAccountUpdate [(a, some q, uj)] rest) s = .next s)) ∧
    (s.controls = true →
      let top := s.fld (F.pwrHalfFusedMax 0)
      top < 64 →
      let capF := min s.pctl.capFast top
      let capS := min s.pctl.capSlow top
      (s.fld (F.pwrLimit 1) < s.fastMw → Answers .powerFastEval s fun t => t.pctl.capFast = capF - 2 ∧
        t.pctl.capSlow = s.pctl.capSlow ∧ (∀ h, h < 2 → t.fld (F.pwrCapPower h) = min (capF - 2) (min s.pctl.capSlow top)) ∧
        (s.atFloor = true → t.fld F.pwrLimitUnmet = (s.fld F.pwrLimitUnmet + 1) % 2 ^ 32) ∧ t.mem = s.mem) ∧
      (s.fastMw * 100 < s.fld (F.pwrLimit 1) * 95 → capF < top → s.lastRaise 0 + 100 ≤ s.time →
        Answers .powerFastEval s fun t => t.pctl.capFast = capF + 1 ∧ t.lastRaise 0 = s.time ∧
          (∀ h, h < 2 → t.fld (F.pwrCapPower h) = min (capF + 1) (min s.pctl.capSlow top)) ∧ t.mem = s.mem) ∧
      (s.slowLimit < s.slowMw → Answers .powerSlowEval s fun t => t.pctl.capSlow = capS - 1 ∧
        t.pctl.capFast = s.pctl.capFast ∧ (∀ h, h < 2 → t.fld (F.pwrCapPower h) = min s.pctl.capFast (min (capS - 1) top)) ∧
        t.mem = s.mem) ∧
      (s.slowMw * 100 < s.slowLimit * 95 → capS < top → s.lastRaise 1 + 10000 ≤ s.time →
        Answers .powerSlowEval s fun t => t.pctl.capSlow = capS + 1 ∧ t.lastRaise 1 = s.time ∧
          (∀ h, h < 2 → t.fld (F.pwrCapPower h) = min s.pctl.capFast (min (capS + 1) top)) ∧ t.mem = s.mem) ∧
      (∀ h k, h < 2 → s.hottest (halfSensors h) = some k → tsorted s.pctl.coolSince = true → s.fld (F.pwrCapThermal h) < 64 →
        let d := toSigned 16 (s.fld (F.telTempTemp k))
        (1680 < d → Answers .thermalEval s fun t => t.fld (F.pwrCapThermal h) = s.fld (F.pwrCapThermal h) - 1 ∧ t.mem = s.mem) ∧
        (1648 ≤ d → d ≤ 1680 → Answers .thermalEval s fun t => t.fld (F.pwrCapThermal h) = s.fld (F.pwrCapThermal h) ∧
          t.mem = s.mem))) ∧
    (s.controls = false → ∀ i ∈ [Instr.powerFastEval, .powerSlowEval, .thermalEval], Sys2Proof.Machine.exec i s = .next s)

/-- While power control runs, DEMAND_SEND sends DEMAND_W with the next SEQ to every other position that does not sleep,
BUDGET_COMPUTE gives the share of R518 (all of it without a total, the demand and an equal part of the surplus, or the
demand capped at the largest whole level that fits), PACE_SEND sends a release or a lowering that is due to every pace
partner that does not sleep and nothing when nothing is due, and PACE_TABLE_AGE drops entries of more than 50 ms. A
DEMAND of another position of the package replaces that position's entry; a TOTAL that is the most recent sets TOTAL_W
and an older one changes nothing; a PACE of another origin that is the most recent sets its entry, or removes it for
code 0x3F, and one of this die or an older one changes nothing; a message of another KIND is counted. Memory stays as
it was.

Completes: DEMAND_SEND, BUDGET_COMPUTE, DEMAND, TOTAL, PACE, PACE_SEND, PACE_TABLE_AGE. -/
def Obligations.PaceAndBudgetMessages : Prop :=
  ∀ (s : State),
    (s.controls = true →
      (∀ k ∈ s.mates, ∀ i, let die := s.dieNo / 16 * 16 + k
        s.sleepingMate die = false → s.linkToDie (die % 2 ^ 17) = some i → s.below3 i = false →
        Answers .demandSend s fun t => t.fld F.pwrBudgetLiveDemandW = s.demandW % 2 ^ 16 ∧ t.mem = s.mem ∧
          t.pctl.demandSeq = (s.pctl.demandSeq + 1) % 2 ^ 16 ∧
          vcMsg (2 + (s.pctl.demandSeq + 1) % 65536 * 2 ^ 16) die s.dieNo
            (s.demandW % 2 ^ 16 + s.fld F.pwrBudgetTotalW * 2 ^ 16) ∈ (t.link i).vc5out) ∧
      (let live := s.liveDemands
       let sum := (live.map Prod.snd).sum
       let total := s.fld F.pwrBudgetTotalW
       ∀ d, (live.find? fun x => x.1 == s.fld F.evgPlacementPosition) = some (s.fld F.evgPlacementPosition, d) →
       (total = 0xFFFF → Answers .budgetCompute s fun t => t.fld F.pwrBudgetShareW = 0xFFFF ∧ t.mem = s.mem) ∧
       (total ≠ 0xFFFF → sum ≤ total → Answers .budgetCompute s fun t => t.mem = s.mem ∧
         t.fld F.pwrBudgetShareW = min 0xFFFF (d + (total - sum) / live.length) ∧
         t.fld F.pwrBudgetLiveLive = maskOf 12 fun k => live.any fun x => x.1 == k) ∧
       (total ≠ 0xFFFF → total < sum → Answers .budgetCompute s fun t => t.mem = s.mem ∧ ∃ level,
         t.fld F.pwrBudgetShareW = min d level % 2 ^ 16 ∧ ((live.map Prod.snd).map fun x => min x level).sum ≤ total ∧
         total < ((live.map Prod.snd).map fun x => min x (level + 1)).sum)) ∧
      (let seq := (s.pctl.paceSeq + 1) % 65536
       ∀ d ∈ s.pacePartners, ∀ i, s.sleepingMate d = false → s.linkToDie (d % 2 ^ 17) = some i → s.below3 i = false →
       (s.pctl.paceDue = some true → Answers .paceSend s fun t => t.pctl.paceDue = none ∧ t.pctl.paceSeq = seq ∧
         t.pctl.paceAt = s.time ∧ t.mem = s.mem ∧
         vcMsg (1 + 8 * 2 ^ 8 + seq * 2 ^ 16) d s.dieNo (s.dieNo + 0x3F * 2 ^ 17) ∈ (t.link i).vc5out) ∧
       (s.pctl.paceDue = some false → s.bit F.pwrPaceOrigin = true → (∀ x, s.pctl.lowerAt = some x → x + 100 ≤ s.time) →
         Answers .paceSend s fun t => t.pctl.paceDue = none ∧ t.pctl.paceSeq = seq ∧ t.pctl.lowerAt = some s.time ∧
         t.mem = s.mem ∧ vcMsg (1 + 8 * 2 ^ 8 + s.paceCause * 2 ^ 12 + seq * 2 ^ 16) d s.dieNo
           (s.dieNo + s.fld F.pwrPaceOwn * 2 ^ 17) ∈ (t.link i).vc5out)) ∧
      (s.pctl.paceDue = none → (s.bit F.pwrPaceOrigin = false ∨ s.time < s.pctl.paceAt + 10000) →
        Sys2Proof.Machine.exec .paceSend s = .next s) ∧
      Answers .paceTableAge s fun t => t.pctl.pace = s.pctl.pace.filter (fun e => decide (s.time ≤ e.time + 50000)) ∧
        t.pctl.released = s.pctl.released.filter (fun e => decide (s.time ≤ e.time + 50000)) ∧ t.mem = s.mem) ∧
    (s.controls = false → ∀ i ∈ [Instr.demandSend, .budgetCompute, .paceSend, .paceTableAge],
      Sys2Proof.Machine.exec i s = .next s) ∧
    (∀ (l : LinkNo) (m : Vc5Msg), s.linkOpen l.val = true →
      let src := m.src.toNat % 2 ^ 17
      let seq := m.head.toNat / 2 ^ 16 % 2 ^ 16
      (vcKind m = 2 → src / 16 = s.dieNo / 16 → src % 16 ≤ 11 → src ≠ s.dieNo → Answers (.demand l m) s fun t =>
        let e : DemandEnt := { pos := src % 16, watts := m.body.toNat % 2 ^ 16, total := m.body.toNat / 2 ^ 16 % 2 ^ 16,
                               sleeping := m.head.toNat.testBit 12, time := s.time }
        (∀ x, x ∈ t.pctl.demands ↔ x = e ∨ (x ∈ s.pctl.demands ∧ x.pos ≠ src % 16)) ∧ t.mem = s.mem ∧ t.regs = s.regs) ∧
      (vcKind m = 2 → (src / 16 ≠ s.dieNo / 16 ∨ 11 < src % 16 ∨ src = s.dieNo) →
        Sys2Proof.Machine.exec (.demand l m) s = .next s.stir) ∧
      (vcKind m = 3 → (∀ q, s.pctl.totalSeq = some q → notAfter16 seq q = false) → Answers (.total l m) s fun t =>
        t.fld F.pwrBudgetTotalW = m.body.toNat % 2 ^ 16 ∧ t.pctl.totalSeq = some seq ∧
        fieldsKept s t [F.pwrBudgetTotalW.key] ∧ t.mem = s.mem) ∧
      (∀ q, vcKind m = 3 → s.pctl.totalSeq = some q → notAfter16 seq q = true →
        Sys2Proof.Machine.exec (.total l m) s = .next s.stir) ∧
      (vcKind m = 1 → src ≠ s.dieNo →
        (∀ e ∈ s.pctl.pace ++ s.pctl.released, e.origin = src → notAfter16 seq e.seq = false) →
        let code := m.body.toNat / 2 ^ 17 % 2 ^ 6
        let e : PaceEnt := { origin := src, code, seq, time := s.time }
        (code = 0x3F → Answers (.pace l m) s fun t => (∀ x ∈ t.pctl.pace, x.origin ≠ src) ∧ e ∈ t.pctl.released ∧ t.mem = s.mem) ∧
        (code ≠ 0x3F → (s.pctl.pace.length < 32 ∨ ∃ x ∈ s.pctl.pace, x.origin = src) → Answers (.pace l m) s fun t =>
          e ∈ t.pctl.pace ∧ (∀ x ∈ t.pctl.pace, x.origin = src → x = e) ∧
          (∀ x ∈ s.pctl.pace, x.origin ≠ src → x ∈ t.pctl.pace) ∧ t.fld F.pwrPaceTarget ≤ code ∧ t.mem = s.mem)) ∧
      (vcKind m = 1 → src = s.dieNo ∨ (∃ e ∈ s.pctl.pace ++ s.pctl.released, e.origin = src ∧ notAfter16 seq e.seq = true) →
        Sys2Proof.Machine.exec (.pace l m) s = .next s.stir) ∧
      (vcKind m = 0 ∨ 3 < vcKind m → Answers (.pace l m) s fun t => t.fld F.pwrVc5Bad = (s.fld F.pwrVc5Bad + 1) % 2 ^ 32 ∧
        fieldsKept s t [F.pwrVc5Bad.key] ∧ t.mem = s.mem))

/-- By Hedger, to an existing register of a running core or the die. COR_EVENT_SET, the reseeds of both engines and the
guard pop act on the core that the slot names. A read of a lone RC field returns its word and clears it; one of the
low word of a pair returns it and fills the reader's holding register with the high word; a misaligned write changes
nothing, and an access from a link changes no register but the count of a link's. A write to PWR_SLEEP_TIMER and to
FLT_WDOG with a legal timeout takes effect, one with an illegal timeout leaves it. The test port's IDCODE, BYPASS and
SAMPLE shift out what R552 names, and a code it does not offer acts as BYPASS.

Completes: COR_EVENT_SET, MXE_RESEED, VXE_RESEED, MXE_GUARD_POP, RC_COUNTER_READ, COUNTER_LO_READ, REGISTER_WRITE,
TEST_ACCESS_PORT_INSTRUCTION. -/
def Obligations.RegistersAreAccessed : Prop :=
  ∀ (s : State),
    s.bops = [] →
    (∀ (l : CoreNo) (c : Nat) (v : Word) (noise : DWord), s.phys l.val = some c → c < 96 → s.fencedCore c = false →
      s.fld F.pwrDieStatusState = 0 → s.power c = pwLeaf →
      s.fld (F.mxeSrCtlFixed c) < 2 → s.fld (F.vxeSrCtlFixed c) < 2 →
      (v.toNat % 2 = 1 → s.coreState c = csIdle → Answers (.corEventSet .hedger l v) s fun t =>
        t.fld (F.corEventSw c) = 1 ∧ t.mem = s.mem) ∧
      (v.toNat % 2 = 0 → Answers (.corEventSet .hedger l v) s fun t => t.regs = s.regs ∧ t.cores = s.cores ∧ t.mem = s.mem) ∧
      Answers (.mxeReseed .hedger l noise) s (fun t => (t.core c).mxDraws = 0 ∧
        (t.core c).mxSeed = (if s.bit (F.mxeSrCtlFixed c) then s.fld (F.mxeSrSeed c) else noise.toNat) ∧
        (t.core c).acc = (s.core c).acc ∧ t.mem = s.mem) ∧
      Answers (.vxeReseed .hedger l noise) s (fun t => (t.core c).vxDraws = 0 ∧
        (t.core c).vxSeed = (if s.bit (F.vxeSrCtlFixed c) then s.fld (F.vxeSrSeed c) else noise.toNat) ∧ t.mem = s.mem) ∧
      (v.toNat % 2 = 1 → Answers (.mxeGuardPop .hedger l v) s fun t =>
        (t.core c).guardRecs = (s.core c).guardRecs.drop 1 ∧ t.regs = s.regs ∧ t.mem = s.mem)) ∧
    (∀ (i : LinkNo) (offset : BitVec 24) (n : Nat) (v : Word),
      (∀ x ∈ [Instr.rcCounterRead (.link i) offset, .counterLoRead (.link i) offset, .registerWrite (.link i) offset n v],
        Answers x s fun t => t.fld F.fltRemoteRegReject = (s.fld F.fltRemoteRegReject + 1) % 2 ^ 32 ∧
          fieldsKept s t [F.fltRemoteRegReject.key] ∧
          ({ t with regs := s.regs, readData := s.readData } : State) = s) ∧
      (n ≠ 4 → Sys2Proof.Machine.exec (.registerWrite .hedger offset n v) s = .next s)) ∧
    (∀ h, h < 24 → s.fld F.pwrDieStatusState < 2 →
      Answers (.rcCounterRead .hedger (BitVec.ofNat 24 (0x30200 + 4 * h))) s fun t =>
        tfind t.readData 0 =
          some ((s.fld (F.telVmonMv h) + s.fld (F.telVmonMin h) * 2 ^ 16 + s.fld (F.telVmonValid h) * 2 ^ 31) % 2 ^ 32) ∧
        t.fld (F.telVmonMin h) = 0 ∧ fieldsKept s t [(F.telVmonMin h).key] ∧ t.mem = s.mem ∧ t.cores = s.cores) ∧
    (Answers (.counterLoRead .hedger 0x30020) s fun t => tfind t.readData 0 = some (s.fld F.telEnergy % 2 ^ 32) ∧
      tfind t.hold 0 = some (0x30020, s.fld F.telEnergy / 2 ^ 32) ∧
      t.regs = s.regs ∧ t.mem = s.mem ∧ t.cores = s.cores) ∧
    (∀ v : Word, Answers (.registerWrite .hedger 0x20014 4 v) s fun t => t.fld F.pwrSleepTimer = v.toNat ∧
      fieldsKept s t [F.pwrSleepTimer.key] ∧ t.mem = s.mem) ∧
    (∀ v : Word, 10 ≤ v.toNat % 2 ^ 16 → v.toNat % 2 ^ 16 ≤ 10000 → Answers (.registerWrite .hedger 0x70020 4 v) s fun t =>
      t.fld F.fltWdogTimeoutMs = v.toNat % 2 ^ 16 ∧ t.fld F.fltWdogEn = v.toNat / 2 ^ 30 % 2 ∧
      (v.toNat.testBit 31 = true → t.wdogAt = s.time) ∧ t.mem = s.mem) ∧
    (∀ v : Word, v.toNat % 2 ^ 16 < 10 → Answers (.registerWrite .hedger 0x70020 4 v) s fun t =>
      t.fld F.fltWdogTimeoutMs = s.fld F.fltWdogTimeoutMs ∧ t.mem = s.mem) ∧
    (∀ (shift : DWord) (fuse : Option FuseAccess), s.pwrgd = true →
      Answers (.testAccessPortInstruction 1 shift fuse) s (fun t => t = { s with tapDrive := 0, tapOut :=
        s.fuses.revision % 16 * 2 ^ 28 + 0x0960 * 2 ^ 12 + s.fuses.maker % 2 ^ 11 * 2 + 1 }) ∧
      (∀ ir : Byte, ir ≠ 1 → ir ≠ 0x11 → (s.testMode = false ∨ (ir.toNat < 2 ∨ 5 < ir.toNat ∧ ir ≠ 0x10)) →
        Answers (.testAccessPortInstruction ir shift fuse) s fun t =>
          t = { s with tapDrive := 0, tapOut := shift.toNat * 2 % 2 ^ 64 }) ∧
      (s.testMode = true → Answers (.testAccessPortInstruction 2 shift fuse) s fun t =>
        t = { s with tapOut := s.boundary, tapCells := shift.toNat % 32, tapDrive := 0 }))

/-- A flit not made of 15 slots of 16 bytes stops by the name illFormed. On an open link: a flit whose CRC fails is
counted in LNK_CRC_ERR and a RETRY becomes due once; one of another epoch, or of another KIND than its command names,
changes nothing. A DATA flit of the link's epoch with the next SEQ is accepted: the next SEQ moves on, the gap and a
due RETRY end, LNK_RX_FLITS counts it, its ACK frees the replay buffer and its credits return; bytes that do not
finish a packet wait for the rest of it, a whole READ of a register space is counted and answered AUTH_FAIL and owes
its credit, and on VC 5 to 7, which are illegal, the content is dropped (the model's choice, log 58). A DATA or IDLE
flit that shows a missing DATA flit makes a RETRY due, an earlier one does not, and neither brings content. A RETRY is
counted in LNK_RETRY and every unacknowledged flit goes out again in order; after 8 resends, or as the 256th within 1
ms, it sends the link to full training. RETRY_TIMEOUT makes the RETRY due again while the gap lasts.

Completes: DATA_FLIT, IDLE_FLIT, RETRY, RETRY_TIMEOUT. -/
def Obligations.FlitsArrive : Prop :=
  ∀ (s : State) (link : LinkNo) (f : Flit),
    let i := link.val
    let l := s.link i
    let ok := flitCrc f = f.crc.toNat
    let same := f.epoch.toNat = s.fld (F.lnkEpoch i) % 16
    let credits := (List.range 6).map fun v => (F.lnkCreditHeld i v).key
    let others := fun t : State => t.mem = s.mem ∧ (∀ j, j ≠ i → t.link j = s.link j) ∧
      ({ t with regs := s.regs, links := s.links } : State) = s
    let credited := fun t : State => ∀ v, v < 6 → t.fld (F.lnkCreditHeld i v) =
      if v = f.crVc.toNat ∧ s.fld (F.lnkCreditHeld i v) ≠ 0xFFFF then min 0xFFFE (s.fld (F.lnkCreditHeld i v) + f.crCount.toNat)
      else s.fld (F.lnkCreditHeld i v)
    let ahead := (f.seq.toNat + 4096 - l.rxSeq) % 4096
    let asked := decide (0 < ahead ∧ ahead < 2048)
    let kept := afterSeq l.replay f.ack.toNat
    let left := if kept.length < l.replay.length then
        l.resend.filter fun x => !(l.replay.any fun y => y.seq == x.seq) || kept.any fun y => y.seq == x.seq
      else l.resend
    (f.wf = false → ∀ c ∈ [Instr.dataFlit link f, .idleFlit link f, .retry link f],
      Sys2Proof.Machine.exec c s = .fault .illFormed) ∧
    (s.linkOpen i = true → f.wf = true →
      (∀ c ∈ [(0, Instr.dataFlit link f), (1, .idleFlit link f), (2, .retry link f)],
        (¬ ok → Answers c.2 s fun t => others t ∧ fieldsKept s t [(F.lnkCrcErr i).key] ∧
          t.fld (F.lnkCrcErr i) = (s.fld (F.lnkCrcErr i) + 1) % 2 ^ 32 ∧
          t.link i = { l with gap := true, retryPending := l.retryPending || !l.gap }) ∧
        (ok → f.kind.toNat ≠ c.1 ∨ ¬ same → Sys2Proof.Machine.exec c.2 s = .next s)) ∧
      (ok → same → f.kind = 0 → s.linkState i = lkActive → s.fld F.pwrDieStatusState ≠ 1 → s.bops = [] →
        f.seq.toNat = l.rxSeq →
        let vc := f.vc.toNat
        let b := ((tfind l.rxPart vc).getD []) ++ (f.slots.flatMap fun x => x).take (16 * f.used.toNat)
        let n := 16 + (leAt b 2 2 + 15) / 16 * 16
        let taken := fun t : State => (t.link i).rxSeq = (l.rxSeq + 1) % 4096 ∧ (t.link i).gap = false ∧
          (t.link i).retryPending = false ∧ (t.link i).replay = kept ∧ (t.link i).resend = left ∧ credited t ∧
          t.fld (F.lnkRxFlits i) = (s.fld (F.lnkRxFlits i) + 1) % 2 ^ 64 ∧ t.mem = s.mem ∧ t.cores = s.cores
        (vc < 4 → b.length < 16 ∨ b.length < n → Answers (.dataFlit link f) s fun t => taken t ∧ others t ∧
          (tfind (t.link i).rxPart vc).getD [] = b ∧ fieldsKept s t ((F.lnkRxFlits i).key :: credits)) ∧
        (vc = 1 → b.length = n → leAt b 0 1 = 3 → s.linkUp i = true → addrSpace (linkPacketOf b).address.toNat = 4 →
          Answers (.dataFlit link f) s fun t => taken t ∧ tfind (t.link i).rxPart vc = none ∧
            (t.link i).txq = l.txq ++ [(2, .status (linkPacketOf b).tag.toNat stAuthFail)] ∧
            (tfind (t.link i).creditDue 1).getD 0 = (tfind l.creditDue 1).getD 0 + 1 ∧
            t.fld F.fltRemoteRegReject = (s.fld F.fltRemoteRegReject + 1) % 2 ^ 32) ∧
        (4 < vc → Answers (.dataFlit link f) s fun t => taken t ∧ others t ∧ (t.link i).rxPart = l.rxPart ∧
          fieldsKept s t ((F.lnkRxFlits i).key :: credits))) ∧
      (ok → same → (f.kind = 0 ∧ f.seq.toNat ≠ l.rxSeq) ∨ f.kind = 1 →
        Answers (if f.kind = 0 then .dataFlit link f else .idleFlit link f) s fun t => others t ∧ credited t ∧
          (t.link i).rxSeq = l.rxSeq ∧ (t.link i).rxPart = l.rxPart ∧ (t.link i).txq = l.txq ∧
          (t.link i).gap = (l.gap || asked) ∧ (t.link i).retryPending = (l.retryPending || (asked && !l.gap)) ∧
          (t.link i).replay = kept ∧ (t.link i).resend = left ∧ fieldsKept s t credits) ∧
      (ok → same → f.kind = 2 →
        let times := (l.retryTimes.filter fun x => decide (s.time < x + 1000)).length + 1
        let tries := if kept.length < l.replay.length then 0 else l.resends
        let trains := fun (t : State) (reason : Nat) => t.linkState i = lkDetect ∧ (t.link i).keepTraffic = true ∧
          (t.link i).replay = kept ∧ t.fld (F.lnkLastFailReason i) = reason ∧ t.fld (F.lnkLastFailState i) = s.linkState i % 16 ∧
          t.fld (F.lnkEscalate i) = (s.fld (F.lnkEscalate i) + 1) % 2 ^ 32 ∧ t.mem = s.mem ∧ t.cores = s.cores ∧ t.log = s.log
        (times < 256 → kept ≠ [] → tries < 8 → Answers (.retry link f) s fun t => others t ∧ credited t ∧
          (t.link i).replay = kept ∧ (t.link i).resends = tries + 1 ∧
          (t.link i).resend = kept ++ l.resend.filter (fun x => !l.replay.any fun y => y.seq == x.seq) ∧
          t.fld (F.lnkRetry i) = (s.fld (F.lnkRetry i) + 1) % 2 ^ 32 ∧ fieldsKept s t ((F.lnkRetry i).key :: credits)) ∧
        (256 ≤ times → Answers (.retry link f) s (trains · 0x0A)) ∧
        (times < 256 → kept ≠ [] → 8 ≤ tries → Answers (.retry link f) s (trains · 0x09)))) ∧
    (s.linkOpen i = true → Answers (.retryTimeout link) s fun t =>
      t = if l.gap = true then s.setLink i { l with retryPending := true } else s) ∧
    (s.linkOpen i = false → Sys2Proof.Machine.exec (.retryTimeout link) s = .next s)

/-- On an open link: with nothing to send an IDLE flit goes out with the next SEQ, the last accepted SEQ as ACK, the
link's epoch and its CRC; a due RETRY goes out with nothing before it and is counted; the first flit of the resend
list goes out unchanged; the CONFIG_ECHO with which a link entered ACTIVE goes out before anything else, and a due one
before packets; a STATUS packet with a credit goes out alone in a DATA flit that stands in the replay buffer, takes
the next SEQ and uses one credit of VC2 unless they are unlimited. Byte k of a flit goes out on logical lane k mod the
width, least significant bit first. On a link in TRICKLE with traffic the rustle pattern goes out on its two lowest
lanes and the link enters WAKE, counted in LNK_WAKES. On a link in no state that sends, nothing changes.

Completes: FLIT_SEND. -/
def Obligations.FlitsAreSent : Prop :=
  ∀ (s : State) (link : LinkNo),
    let i := link.val
    let l := s.link i
    let others := fun t : State => t.mem = s.mem ∧ (∀ j, j ≠ i → t.link j = s.link j) ∧ t.cores = s.cores ∧ t.log = s.log
    let headed := fun (g : Flit) (kind vc used : Nat) => g.seq = BitVec.ofNat 12 l.txSeq ∧
      g.ack = BitVec.ofNat 12 (l.rxSeq + 4095) ∧ g.kind = BitVec.ofNat 3 kind ∧ g.vc = BitVec.ofNat 3 vc ∧
      g.used = BitVec.ofNat 4 used ∧ g.cont = 0 ∧ g.epoch = BitVec.ofNat 4 (s.fld (F.lnkEpoch i)) ∧
      g.crc = BitVec.ofNat 64 (flitCrc g) ∧ g.wf = true
    let quiet := l.resend = [] ∧ l.bout = [] ∧ l.vc5out = []
    let later := l.first = false ∨ .configEcho ∉ l.ctlDue
    let w := s.fld (F.lnkStatusWidth i)
    let dealt := fun (t : State) (g : Flit) => (t.link i).flitOut = some g ∧ (g.wf = true → 0 < w →
      ∀ k e p, k < 256 → e < 8 → (bitsOf (laneCount i) (s.fld (F.lnkUsed i)))[k % w]? = some p →
        ∃ x ∈ (t.link i).lanes, x.1 = p ∧ x.2[k / w * 8 + e]? = some (((flitBytes g).getD k 0).getLsbD e))
    let go := Instr.flitSend link
    (s.linkOpen i = true →
      (quiet → l.retryPending = false → l.ctlDue = [] → l.txq = [] → l.txPart = [] → Answers go s fun t => others t ∧
        (∃ g, (t.link i).wire = some (.flit g) ∧ headed g 1 0 0 ∧ dealt t g) ∧ (t.link i).txSeq = l.txSeq ∧ (t.link i).replay = l.replay ∧
        fieldsKept s t []) ∧
      (quiet → l.retryPending = true → later → Answers go s fun t => others t ∧ (t.link i).retryPending = false ∧
        (∃ g, (t.link i).wire = some (.flit g) ∧ headed g 2 0 0 ∧ dealt t g) ∧ (t.link i).txSeq = l.txSeq ∧ (t.link i).txq = l.txq ∧
        t.fld (F.lnkRetry i) = (s.fld (F.lnkRetry i) + 1) % 2 ^ 32 ∧ fieldsKept s t [(F.lnkRetry i).key, (F.lnkVcWait i).key]) ∧
      (∀ g rest, later → l.resend = g :: rest → (∃ x ∈ l.replay, x.seq = g.seq) → Answers go s fun t => others t ∧
        (t.link i).wire = some (.flit g) ∧ dealt t g ∧ (t.link i).resend = rest ∧ (t.link i).replay = l.replay ∧
        (t.link i).txSeq = l.txSeq ∧ (t.link i).txq = l.txq ∧
        t.fld (F.lnkTxFlits i) = (s.fld (F.lnkTxFlits i) + 1) % 2 ^ 64 ∧
        fieldsKept s t [(F.lnkTxFlits i).key, (F.lnkVcWait i).key]) ∧
      (∀ rest, (quiet ∧ l.retryPending = false) ∨ l.first = true → l.ctlDue = .configEcho :: rest → Answers go s fun t =>
        others t ∧ (t.link i).wire = some (.configEcho (s.ownEcho i)) ∧ (t.link i).ctlDue = rest ∧
        (t.link i).first = false ∧ (t.link i).txSeq = l.txSeq ∧ (t.link i).txq = l.txq ∧ (t.link i).replay = l.replay ∧
        (∃ g, headed g 3 0 0 ∧ dealt t g) ∧
        fieldsKept s t [(F.lnkVcWait i).key]) ∧
      (∀ (tag : Nat) (code : Nat), quiet → l.retryPending = false → l.ctlDue = [] → l.txPart = [] →
        l.txq = [(2, .status tag code)] → s.linkState i = lkActive → l.replay.length < s.window i → s.canSend i 2 1 = true →
        Answers go s fun t => others t ∧
          (∃ g, (t.link i).wire = some (.flit g) ∧ headed g 0 2 1 ∧ dealt t g ∧ g.slots = slotsOf (packetOf 5 0 0 tag 0 code []) ∧
            (t.link i).replay = l.replay ++ [g]) ∧
          (t.link i).txq = [] ∧ (t.link i).txPart = [] ∧ (t.link i).txSeq = (l.txSeq + 1) % 4096 ∧
          t.fld (F.lnkTxFlits i) = (s.fld (F.lnkTxFlits i) + 1) % 2 ^ 64 ∧
          (s.heldCredit i 2 ≤ 0xFFFF → t.heldCredit i 2 = if s.heldCredit i 2 = 0xFFFF then 0xFFFF else s.heldCredit i 2 - 1) ∧
          fieldsKept s t [(F.lnkTxFlits i).key, (F.lnkCreditHeld i 2).key])) ∧
    (s.linkState i = lkTrickle → l.hasTraffic = true → Answers go s fun t => others t ∧ t.linkState i = lkWake ∧
      (t.link i).wire = some .rustle ∧ (t.link i).flitOut = none ∧ (t.link i).txq = l.txq ∧
      (t.link i).lanes = ((bitsOf (laneCount i) (s.fld (F.lnkUsed i))).take 2).map (fun j => (j, rustleBits)) ∧ t.fld (F.lnkWakes i) = (s.fld (F.lnkWakes i) + 1) % 2 ^ 32 ∧
      fieldsKept s t [(F.lnkStatusState i).key, (F.lnkWakes i).key]) ∧
    (s.linkState i < lkActive ∨ lkBerTest ≤ s.linkState i → Sys2Proof.Machine.exec go s = .next s)

/-- On an open link. A LANE_CHECK counts each logical lane's errors on its physical lane in LNK_LANE_ERR; while no lane
has four within 1 s the link stays as it is. A LANE_CHECK becomes due when checks are enabled, a CONFIG_ECHO when the
link runs 3.2. An echo equal to this side's values is noted and nothing else changes; one that differs, or none in
time, increments the epoch, counts a failed attempt with reason ECHO_MISMATCH and sends the link to full training with
its traffic held. A RECONFIG_REQ to a slave at 3.1 or above with at least 8 lanes begins RECONFIG with its map and
switch number, one with fewer lanes is full training, and a master or a link below 3.1 ignores it. A RECONFIG that
does not complete is full training. A TRICKLE_REQ on an ACTIVE link is answered if no traffic is held, else ignored; a
TRICKLE_ACK to this side's request moves the link to TRICKLE. A KEEPALIVE changes nothing, and one goes out in
TRICKLE.

Completes: LANE_CHECK, LANE_CHECK_SEND, CONFIG_ECHO, CONFIG_ECHO_SEND, ECHO_TIMEOUT, RECONFIG_REQ, RECONFIG_TIMEOUT,
TRICKLE_REQ, TRICKLE_ACK, KEEPALIVE, KEEPALIVE_SEND. -/
def Obligations.ControlFlits : Prop :=
  ∀ (s : State) (link : LinkNo) (errs : List Nat) (e : Echo) (used : DWord) (at_ : BitVec 12),
    let i := link.val
    let l := s.link i
    let v := s.fld (F.lnkVersionAgreed i)
    let lanes := bitsOf (laneCount i) (s.fld (F.lnkUsed i))
    let traffic := fun t : State => t.mem = s.mem ∧ t.cores = s.cores ∧ (t.link i).txq = l.txq ∧ (t.link i).replay = l.replay
    let mismatch := fun t : State => traffic t ∧ t.linkState i = lkDetect ∧ (t.link i).keepTraffic = true ∧
      (t.link i).distrust = true ∧ t.fld (F.lnkEpoch i) = (s.fld (F.lnkEpoch i) + 1) % 2 ^ 16 ∧
      t.fld (F.lnkStatusAttempts i) = s.fld (F.lnkStatusAttempts i) + 1 ∧ t.fld (F.lnkLastFailReason i) = 5 ∧ t.log = s.log
    let early := s.time < l.activeSince + 1000000 ∧ s.fld (F.lnkStatusAttempts i) < 2 ∧ s.bops = []
    (s.linkOpen i = true →
      ((∀ j, j < laneCount i → (l.laneErrTimes.filter fun x => decide (s.time < x.2 + 1000000) && x.1 == j).length +
          ((lanes.zip errs).filterMap fun x => if x.1 = j then some x.2 else none).sum < 4) →
        Answers (.laneCheck link errs) s fun t => traffic t ∧ t.linkState i = s.linkState i ∧ t.log = s.log ∧
          (∀ k, k < lanes.length → errs.getD k 0 ≠ 0 → t.fld (F.lnkLaneErrNominal i (lanes.getD k 0)) =
            min (s.fld (F.lnkLaneErrNominal i (lanes.getD k 0)) + errs.getD k 0) 0xFFFF) ∧
          fieldsKept s t ((List.range 64).map fun j => (F.lnkLaneErrNominal i j).key)) ∧
      (s.bit (F.lnkCtlCheckEn i) = true → .laneCheck ∉ l.ctlDue → Sys2Proof.Machine.exec (.laneCheckSend link) s =
        .next (s.setLink i { l with ctlDue := l.ctlDue ++ [.laneCheck] })) ∧
      (s.bit (F.lnkCtlCheckEn i) = false → Sys2Proof.Machine.exec (.laneCheckSend link) s = .next s) ∧
      (e = s.ownEcho i → Sys2Proof.Machine.exec (.configEcho link e) s = .next (s.setLink i { l with echoSeen := true })) ∧
      (e ≠ s.ownEcho i → early → Answers (.configEcho link e) s mismatch) ∧
      (0x32 ≤ v → .configEcho ∉ l.ctlDue → Sys2Proof.Machine.exec (.configEchoSend link) s =
        .next (s.setLink i { l with ctlDue := l.ctlDue ++ [.configEcho] })) ∧
      (v < 0x32 → Sys2Proof.Machine.exec (.configEchoSend link) s = .next s) ∧
      (l.echoSeen = true → Sys2Proof.Machine.exec (.echoTimeout link) s = .next s) ∧
      (l.echoSeen = false → early → Answers (.echoTimeout link) s mismatch) ∧
      (let m := used.toNat % 2 ^ laneCount i
       (s.bit (F.lnkStatusMaster i) = true ∨ v < 0x31 → Sys2Proof.Machine.exec (.reconfigReq link used at_) s = .next s) ∧
       (s.bit (F.lnkStatusMaster i) = false → 0x31 ≤ v → 8 ≤ widthOf m (laneCount i) →
        Answers (.reconfigReq link used at_) s fun t => traffic t ∧ t.linkState i = lkReconfig ∧
          (t.link i).reconfig = some (usedOf m (laneCount i), at_.toNat) ∧ fieldsKept s t [(F.lnkStatusState i).key]) ∧
       (s.bit (F.lnkStatusMaster i) = false → 0x31 ≤ v → widthOf m (laneCount i) < 8 →
        Answers (.reconfigReq link used at_) s fun t => traffic t ∧ t.linkState i = lkDetect ∧ (t.link i).keepTraffic = true ∧
          t.fld (F.lnkEscalate i) = (s.fld (F.lnkEscalate i) + 1) % 2 ^ 32))) ∧
    (s.linkState i = lkReconfig → s.bops = [] → Answers (.reconfigTimeout link) s fun t => traffic t ∧
      t.linkState i = lkDetect ∧ (t.link i).keepTraffic = true ∧ t.fld (F.lnkLastFailReason i) = 0x0B ∧
      t.fld (F.lnkEscalate i) = (s.fld (F.lnkEscalate i) + 1) % 2 ^ 32) ∧
    (s.linkState i ≠ lkReconfig → Sys2Proof.Machine.exec (.reconfigTimeout link) s = .next s) ∧
    (s.linkState i = lkActive →
      (l.hasTraffic = false → .trickleAck ∉ l.ctlDue → Sys2Proof.Machine.exec (.trickleReq link) s =
        .next (s.setLink i { l with ctlDue := l.ctlDue ++ [.trickleAck] })) ∧
      (l.hasTraffic = true → Sys2Proof.Machine.exec (.trickleReq link) s = .next s) ∧
      (l.trickleSent = true → s.fld F.pwrDieStatusState ≠ 1 → Answers (.trickleAck link) s fun t => traffic t ∧
        t.linkState i = lkTrickle ∧ (t.link i).trickleSent = false ∧ fieldsKept s t [(F.lnkStatusState i).key]) ∧
      (l.trickleSent = false → Sys2Proof.Machine.exec (.trickleAck link) s = .next s)) ∧
    Sys2Proof.Machine.exec (.keepalive link) s = .next s ∧
    (s.linkState i = lkTrickle →
      Answers (.keepaliveSend link) s fun t => traffic t ∧ (t.link i).wire = some .keepalive ∧ t.linkState i = lkTrickle ∧
        (∃ g, (t.link i).flitOut = some g ∧ g.kind = 3 ∧ g.wf = true ∧ g.crc = BitVec.ofNat 64 (flitCrc g)) ∧ fieldsKept s t []) ∧
    (s.linkState i ≠ lkTrickle → Sys2Proof.Machine.exec (.keepaliveSend link) s = .next s)

/-- A partner's training sequence on a listening link in DETECT begins an attempt in LANE_TEST, and on an ACTIVE link or
one in RECONFIG or WAKE sends it to DETECT with its traffic held. The end of the lane test gives LNK_GOOD and EQ, no
lane of a group whose clock lane failed being good; EQ's end clears the lanes that missed their eye target, sets the
equalisation and gives WIDTH; both masks give the width, a multiple of 8 of the lanes good on both sides, and the
lowest such lanes as the map, and CONFIG; fewer than 8 lanes fail the attempt. A state that passes its limit fails the
attempt with the state's reason. A CONFIG of a common version makes the link ACTIVE at the lower maximum with the
larger epoch plus one; without a common version the link is FAILED. In TRICKLE a rustle pattern and a training
sequence both give WAKE, counted, with the pattern due as answer, and wake a sleeping die with cause LINK; lock in
WAKE gives ACTIVE with width and map as they were, no lock in 40 µs fails an attempt with its traffic held. 10 µs of
silence on a link that is up declares it down: DETECT, nothing held, epoch and LNK_DOWNS plus one.

Completes: RUSTLE_PATTERN, WAKE_LOCK, LINK_WAKE_TIMEOUT, TRAINING_SEQUENCE, LANE_TEST_END, EQ_COMPLETE,
ATTEMPT_TIMEOUT, WIDTH_MAP, CONFIG_MESSAGE, LINK_TIMEOUT. -/
def Obligations.LinksTrain : Prop :=
  ∀ (s : State) (link : LinkNo) (mask : DWord) (clocks : Byte) (eq : List Word) (c : LinkConfig),
    let i := link.val
    let l := s.link i
    let n := laneCount i
    let x := s.linkState i
    let still := fun t : State => t.mem = s.mem ∧ t.cores = s.cores ∧ t.kernels = s.kernels
    let traffic := fun t : State => still t ∧ (t.link i).txq = l.txq ∧ (t.link i).replay = l.replay
    let fails := fun (t : State) (reason : Nat) => still t ∧ t.linkState i = lkDetect ∧ t.fld (F.lnkLastFailReason i) = reason ∧
      t.fld (F.lnkLastFailState i) = x % 16 ∧ t.fld (F.lnkStatusAttempts i) = s.fld (F.lnkStatusAttempts i) + 1
    let early := s.fld (F.lnkStatusAttempts i) < 2
    (x = lkDetect → l.listening = true → s.linkExists i = true → Answers (.trainingSequence link) s fun t => still t ∧
      t.linkState i = lkLaneTest ∧ (t.link i).tries = l.tries + 1 ∧
      (l.saved = none → ∀ j, j < n → t.fld (F.lnkLaneEqMain i j) = s.eqTap (0x03000001 + i * 2 ^ 16 + j * 2 ^ 8)) ∧
      fieldsKept s t ((F.lnkStatusState i).key :: (List.range 64).flatMap fun j => [(F.lnkLaneEqPre i j).key,
        (F.lnkLaneEqMain i j).key, (F.lnkLaneEqPost i j).key, (F.lnkLaneEqCtle i j).key, (F.lnkLaneEqDfe i j).key])) ∧
    (x = lkActive ∨ x = lkReconfig ∨ x = lkWake → Answers (.trainingSequence link) s fun t => traffic t ∧
      t.linkState i = lkDetect ∧ (t.link i).keepTraffic = true ∧ t.fld (F.lnkEpoch i) = s.fld (F.lnkEpoch i)) ∧
    (x = lkLaneTest → Answers (.laneTestEnd link mask clocks) s fun t => traffic t ∧ t.linkState i = lkEq ∧
      t.fld (F.lnkGood i) < 2 ^ 64 ∧ (∀ j, j < 64 → ((t.fld (F.lnkGood i)).testBit j = true ↔
        j < n ∧ mask.toNat.testBit j = true ∧ clocks.toNat.testBit (j / 8) = false)) ∧ fieldsKept s t [(F.lnkGood i).key, (F.lnkStatusState i).key]) ∧
    (x = lkEq → Answers (.eqComplete link mask eq) s fun t => traffic t ∧ t.linkState i = lkWidth ∧
      (∀ j, t.fld (F.lnkGood i) < 2 ^ 64 ∧ (j < 64 → ((t.fld (F.lnkGood i)).testBit j = true ↔
        l.ownMask.testBit j = true ∧ mask.toNat.testBit j = true))) ∧
      (∀ j w, j < n → eq[j]? = some w → t.fld (F.lnkLaneEqMain i j) = w.toNat / 2 ^ 24 % 16 ∧
        t.fld (F.lnkLaneEqPre i j) = w.toNat / 2 ^ 28 % 16)) ∧
    (x = lkWidth →
      let good := l.ownMask &&& (mask.toNat % 2 ^ n)
      let w := (bitsOf n good).length / 8 * 8
      (8 ≤ w → Answers (.widthMap link mask) s fun t => traffic t ∧ t.linkState i = lkConfig ∧
        t.fld (F.lnkStatusWidth i) = w ∧ bitsOf 64 (t.fld (F.lnkUsed i)) = (bitsOf n good).take w ∧
        fieldsKept s t [(F.lnkStatusWidth i).key, (F.lnkUsed i).key, (F.lnkStatusState i).key]) ∧
      (w < 8 → early → Answers (.widthMap link mask) s (fails · 3))) ∧
    (early → (x = lkLaneTest → Answers (.attemptTimeout link) s (fails · 1)) ∧
      (x = lkEq → Answers (.attemptTimeout link) s (fails · 2)) ∧
      (x = lkWidth → Answers (.attemptTimeout link) s (fails · 0x0C)) ∧
      (x = lkConfig → Answers (.attemptTimeout link) s (fails · 8))) ∧
    (x = lkConfig → i < 24 → s.stage ≠ 1 →
      let v := min 0x32 c.maxVersion.toNat
      (max 0x20 c.minVersion.toNat ≤ v → s.bops = [] → Answers (.configMessage link c) s fun t => t.mem = s.mem ∧
        t.cores = s.cores ∧ t.linkState i = lkActive ∧ t.fld (F.lnkVersionAgreed i) = v ∧
        t.fld (F.lnkEpoch i) = (max (s.fld (F.lnkEpoch i)) c.epoch.toNat + 1) % 2 ^ 16 ∧
        t.fld (F.lnkStatusWidth i) = s.fld (F.lnkStatusWidth i) ∧ (t.link i).rxSeq = 0 ∧ (t.link i).replay = [] ∧
        .configEcho ∈ (t.link i).ctlDue) ∧
      (v < max 0x20 c.minVersion.toNat → l.keepTraffic = false → Answers (.configMessage link c) s fun t => t.mem = s.mem ∧
        t.linkState i = lkFailed ∧ t.fld (F.lnkLastFailReason i) = 4 ∧ (t.link i).listening = false)) ∧
    (x = lkTrickle → ∀ a ∈ [Instr.rustlePattern link, .trainingSequence link], Answers a s fun t => t.mem = s.mem ∧
      t.cores = s.cores ∧ t.linkState i = lkWake ∧ .rustle ∈ (t.link i).ctlDue ∧ t.fld (F.lnkWakes i) =
        (s.fld (F.lnkWakes i) + 1) % 2 ^ 32 ∧
      (s.fld F.pwrDieStatusState = 2 → t.fld F.pwrDieStatusState = 3 ∧ t.fld F.pwrDieStatusWakeCause = 5)) ∧
    (x = lkWake → Answers (.wakeLock link) s fun t => traffic t ∧ t.linkState i = lkActive ∧
      fieldsKept s t [(F.lnkStatusState i).key]) ∧
    (x ≠ lkWake → Sys2Proof.Machine.exec (.wakeLock link) s = .next s) ∧
    (x = lkWake → early → s.bops = [] → s.time < l.activeSince + 1000000 → Answers (.linkWakeTimeout link) s fun t =>
      fails t 7 ∧ (t.link i).keepTraffic = true ∧ (t.link i).txq = l.txq) ∧
    (s.linkUp i = true → s.bops = [] → s.dmaOnLink i = [] → l.bheld = [] → s.linkCounts i = false →
      Answers (.linkTimeout link) s fun t => t.mem = s.mem ∧ t.linkState i = lkDetect ∧
        t.fld (F.lnkEpoch i) = (s.fld (F.lnkEpoch i) + 1) % 2 ^ 16 ∧ t.fld (F.lnkDowns i) = (s.fld (F.lnkDowns i) + 1) % 2 ^ 32 ∧
        (t.link i).txq = [] ∧ (t.link i).bout = [] ∧ (t.link i).replay = [] ∧
        logs s t svWarning 4 0 0x0400 i 0 ((s.fld (F.lnkEpoch i) + 1) % 2 ^ 16)) ∧
    (s.linkUp i = false → Sys2Proof.Machine.exec (.linkTimeout link) s = .next s)

/-- RESET of an armed binder, by any agent of this die: with PENDING_UP 0, COUNT is 0 and TARGET is STEP, RELEASES and the
waiter list are unchanged, and so is every other register field and the scratchpad; with PENDING_UP nonzero it is
rejected with status BUSY and changes nothing of the binder.

Completes: BINDER_RESET. -/
def Obligations.BinderReset : Prop :=
  ∀ (s : State) (a : Nat) (o : Origin),
    let b := a % 2 ^ 44 / 64 % 8192
    let r := s.binderOp { address := a, op := 8, value := 0, from_ := o }
    s.armed b = true → (∀ i, o ≠ .link i) → s.fld (F.bndStep b) < 2 ^ 32 →
    (s.fld (F.bndPendingUp b) = 0 → r.2 = stOk ∧ r.1.fld (F.bndCount b) = 0 ∧ r.1.fld (F.bndTarget b) = s.fld (F.bndStep b) ∧
      r.1.fld (F.bndReleases b) = s.fld (F.bndReleases b) ∧ (r.1.binder b).waiters = (s.binder b).waiters ∧
      fieldsKept s r.1 [(F.bndCount b).key, (F.bndTarget b).key] ∧ ({ r.1 with regs := s.regs } : State) = s) ∧
    (s.fld (F.bndPendingUp b) ≠ 0 → r.2 = stBusy ∧ fieldsKept s r.1 [F.bndReject.key] ∧
      ({ r.1 with regs := s.regs } : State) = s) ∧
    (∀ (address : DWord), address.toNat = a → a % 64 = 0 → a / 2 ^ 44 % 8 = 2 → a % 2 ^ 44 < 2 ^ 19 → a / 2 ^ 47 = s.dieNo →
      a / 2 ^ 47 % 16 ≤ 11 → s.bops = [] → o = .hedger →
      Sys2Proof.Machine.exec (.binderReset .hedger address 0) s = .next r.1)

/-- A partner's training sequence that arrives while a link is in RECONFIG or WAKE: the link abandons that state, stands
in DETECT and listens, and the partner's next training sequence begins an attempt in LANE_TEST.

Completes: TRAINING_SEQUENCE. -/
def Obligations.TrainingDuringReconfigOrWake : Prop :=
  ∀ (s : State) (link : LinkNo),
    let i := link.val
    s.linkState i = lkReconfig ∨ s.linkState i = lkWake → Answers (.trainingSequence link) s fun t =>
      t.linkState i = lkDetect ∧ (t.link i).listening = true ∧ (t.link i).reconfig = none ∧ (t.link i).ctlDue = [] ∧
      (s.linkExists i = true → Answers (.trainingSequence link) t fun u => u.linkState i = lkLaneTest)

/-- A SYNC packet that reaches the die whole, at version 3.0 or above, is answered OK whatever its HOST_SEQ and its
SEASON. The reply takes a fresh DEV_SEQ, one above the last; nothing else of the session changes, so no sequence state
does, and the packet is neither held nor its reply cached.

Completes: SYNC. -/
def Obligations.SyncIsOutOfSequence : Prop :=
  ∀ (s : State) (p : Packet), s.Hears p → ({ opcode := 2, p } : Cmd).crcOk = true →
    ({ opcode := 2, p } : Cmd).broadcast = false → 0x0300 ≤ p.major.toNat * 256 + p.minor.toNat →
    Answers (.sync p) s fun t => (∃ results, sends s t p (s.replyTo 2 p stOk results)) ∧
      t.session = { s.session with dev := (s.session.dev + 1) % 2 ^ 32 } ∧ t.mem = s.mem ∧ fieldsKept s t []
end

