-- ==== Sys2Proof/Laws/Tables.lean ====
section
/-! SUPPORT. Laws of the sparse tables and of the scratchpad: reads after writes, and that every operation keeps the
canonical form. -/

namespace Sys2Proof.Machine

variable {α : Type}

/-- Every key of a table is above `b`. -/
def tabove (b : Nat) (m : List (Nat × α)) : Prop := ∀ e ∈ m, b < e.1

/-- Sortedness as a statement about head and tail. -/
theorem tsorted_cons (k : Nat) (v : α) (m : List (Nat × α)) :
    tsorted ((k, v) :: m) = true ↔ tabove k m ∧ tsorted m = true := by
  induction m generalizing k v with
  | nil => simp [tsorted, tabove]
  | cons e m ih =>
    obtain ⟨k', v'⟩ := e
    simp only [tsorted, Bool.and_eq_true, decide_eq_true_eq]
    constructor
    · rintro ⟨h, h'⟩
      refine ⟨?_, h'⟩
      intro e he
      rcases List.mem_cons.mp he with rfl | he
      · exact h
      · exact lt_trans h (((ih k' v').mp h').1 e he)
    · rintro ⟨h, h'⟩
      exact ⟨h _ List.mem_cons_self, h'⟩

theorem mem_tdel {m : List (Nat × α)} {i : Nat} {e : Nat × α} (h : e ∈ tdel m i) : e ∈ m := by
  induction m with
  | nil => exact h
  | cons x m ih =>
    obtain ⟨k, v⟩ := x
    unfold tdel at h
    split at h
    · exact List.mem_cons_of_mem _ (ih h)
    · rcases List.mem_cons.mp h with rfl | h
      · exact List.mem_cons_self
      · exact List.mem_cons_of_mem _ (ih h)

theorem mem_tins {m : List (Nat × α)} {i : Nat} {x : α} {e : Nat × α} (h : e ∈ tins m i x) : e = (i, x) ∨ e ∈ m := by
  induction m with
  | nil => exact .inl (List.mem_singleton.mp h)
  | cons y m ih =>
    obtain ⟨k, v⟩ := y
    unfold tins at h
    split at h
    · rcases List.mem_cons.mp h with rfl | h
      · exact .inl rfl
      · exact .inr h
    · split at h
      · rcases List.mem_cons.mp h with rfl | h
        · exact .inl rfl
        · exact .inr (List.mem_cons_of_mem _ h)
      · rcases List.mem_cons.mp h with rfl | h
        · exact .inr List.mem_cons_self
        · exact (ih h).imp id (List.mem_cons_of_mem _)

theorem tdel_sorted {m : List (Nat × α)} (h : tsorted m = true) (i : Nat) : tsorted (tdel m i) = true := by
  induction m with
  | nil => rfl
  | cons x m ih =>
    obtain ⟨k, v⟩ := x
    obtain ⟨ha, hs⟩ := (tsorted_cons k v m).mp h
    unfold tdel
    split
    · exact ih hs
    · exact (tsorted_cons k v _).mpr ⟨fun e he => ha e (mem_tdel he), ih hs⟩

theorem tins_sorted {m : List (Nat × α)} (h : tsorted m = true) (i : Nat) (x : α) : tsorted (tins m i x) = true := by
  induction m with
  | nil => rfl
  | cons y m ih =>
    obtain ⟨k, v⟩ := y
    obtain ⟨ha, hs⟩ := (tsorted_cons k v m).mp h
    unfold tins
    split
    · rename_i hlt
      refine (tsorted_cons _ _ _).mpr ⟨?_, h⟩
      intro e he
      rcases List.mem_cons.mp he with rfl | he
      · exact hlt
      · exact lt_trans hlt (ha e he)
    · split
      · rename_i heq
        subst heq
        exact (tsorted_cons _ _ _).mpr ⟨ha, hs⟩
      · rename_i hlt hne
        refine (tsorted_cons _ _ _).mpr ⟨?_, ih hs⟩
        intro e he
        rcases mem_tins he with rfl | he
        · exact lt_of_le_of_ne (Nat.not_lt.mp hlt) (Ne.symm hne)
        · exact ha e he

theorem tset_sorted [DecidableEq α] {m : List (Nat × α)} (h : tsorted m = true) (d : α) (i : Nat) (x : α) :
    tsorted (tset d m i x) = true := by
  unfold tset
  split
  · exact tdel_sorted h i
  · exact tins_sorted h i x

theorem mem_tset [DecidableEq α] {d : α} {m : List (Nat × α)} {i : Nat} {x : α} {e : Nat × α} (h : e ∈ tset d m i x) :
    e = (i, x) ∧ x ≠ d ∨ e ∈ m := by
  unfold tset at h
  split at h
  · exact .inr (mem_tdel h)
  · rename_i hx
    exact (mem_tins h).imp (⟨·, hx⟩) id

/-- A filter keeps a table sorted. -/
theorem filter_sorted {m : List (Nat × α)} (h : tsorted m = true) (f : Nat × α → Bool) : tsorted (m.filter f) = true := by
  induction m with
  | nil => rfl
  | cons x m ih =>
    obtain ⟨k, v⟩ := x
    obtain ⟨ha, hs⟩ := (tsorted_cons k v m).mp h
    rw [List.filter_cons]
    split
    · exact (tsorted_cons k v _).mpr ⟨fun e he => ha e (List.mem_filter.mp he).1, ih hs⟩
    · exact ih hs

/-! ### Reading after a write -/

theorem tget_tins_self (d : α) (m : List (Nat × α)) (i : Nat) (x : α) : tget d (tins m i x) i = x := by
  induction m with
  | nil => simp [tins, tget]
  | cons y m ih =>
    obtain ⟨k, v⟩ := y
    unfold tins
    split
    · simp [tget]
    · split
      · simp [tget]
      · rename_i hne
        rw [tget, if_neg hne]
        exact ih

theorem tget_tins_ne (d : α) (m : List (Nat × α)) {i j : Nat} (h : j ≠ i) (x : α) :
    tget d (tins m i x) j = tget d m j := by
  induction m with
  | nil => simp [tins, tget, h]
  | cons y m ih =>
    obtain ⟨k, v⟩ := y
    unfold tins
    split
    · rw [tget, if_neg h]
    · split
      · rename_i hk
        subst hk
        simp only [tget, if_neg h]
      · simp only [tget, ih]

theorem tget_tdel_ne (d : α) (m : List (Nat × α)) {i j : Nat} (h : j ≠ i) : tget d (tdel m i) j = tget d m j := by
  induction m with
  | nil => rfl
  | cons y m ih =>
    obtain ⟨k, v⟩ := y
    unfold tdel
    split
    · rename_i hk
      subst hk
      rw [ih, tget, if_neg h]
    · simp only [tget, ih]

theorem tget_tdel_self (d : α) (m : List (Nat × α)) (i : Nat) : tget d (tdel m i) i = d := by
  induction m with
  | nil => rfl
  | cons y m ih =>
    obtain ⟨k, v⟩ := y
    unfold tdel
    split
    · exact ih
    · rename_i hk
      rw [tget, if_neg hk]
      exact ih

/-- Reading what was written. -/
theorem tget_tset_self [DecidableEq α] (d : α) (m : List (Nat × α)) (i : Nat) (x : α) :
    tget d (tset d m i x) i = x := by
  unfold tset
  split
  · rename_i hx
    rw [tget_tdel_self d, hx]
  · exact tget_tins_self d m i x

theorem tget_tset_ne [DecidableEq α] (d d' : α) (m : List (Nat × α)) {i j : Nat} (h : j ≠ i) (x : α) :
    tget d (tset d' m i x) j = tget d m j := by
  unfold tset
  split
  · exact tget_tdel_ne d m h
  · exact tget_tins_ne d m h x

theorem tfind_tins_self (m : List (Nat × α)) (i : Nat) (x : α) : tfind (tins m i x) i = some x := by
  induction m with
  | nil => simp [tins, tfind]
  | cons y m ih =>
    obtain ⟨k, v⟩ := y
    unfold tins
    split
    · simp [tfind]
    · split
      · simp [tfind]
      · rename_i hne
        rw [tfind, if_neg hne]
        exact ih

theorem tfind_tins_ne (m : List (Nat × α)) {i j : Nat} (h : j ≠ i) (x : α) : tfind (tins m i x) j = tfind m j := by
  induction m with
  | nil => simp [tins, tfind, h]
  | cons y m ih =>
    obtain ⟨k, v⟩ := y
    unfold tins
    split
    · rw [tfind, if_neg h]
    · split
      · rename_i hk
        subst hk
        simp only [tfind, if_neg h]
      · simp only [tfind, ih]

theorem tfind_tdel_ne (m : List (Nat × α)) {i j : Nat} (h : j ≠ i) : tfind (tdel m i) j = tfind m j := by
  induction m with
  | nil => rfl
  | cons y m ih =>
    obtain ⟨k, v⟩ := y
    unfold tdel
    split
    · rename_i hk
      subst hk
      rw [ih, tfind, if_neg h]
    · simp only [tfind, ih]

theorem tfind_tdel_self (m : List (Nat × α)) (i : Nat) : tfind (tdel m i) i = none := by
  induction m with
  | nil => rfl
  | cons y m ih =>
    obtain ⟨k, v⟩ := y
    unfold tdel
    split
    · exact ih
    · rename_i hk
      rw [tfind, if_neg hk]
      exact ih

theorem tfind_filter_key (f : Nat → Bool) (m : List (Nat × α)) {i : Nat} (h : f i = true) :
    tfind (m.filter fun e => f e.1) i = tfind m i := by
  induction m with
  | nil => rfl
  | cons y m ih =>
    obtain ⟨k, v⟩ := y
    rw [List.filter_cons]
    by_cases hk : i = k
    · subst hk
      simp [h, tfind]
    · split
      · simp only [tfind, if_neg hk, ih]
      · simp only [tfind, if_neg hk, ih]

/-! ### The register file -/

theorem regsCanonical_iff (m : List (Nat × Nat)) :
    regsCanonical m = true ↔ tsorted m = true ∧ ∀ e ∈ m, e.2 ≠ resetOf e.1 := by
  simp [regsCanonical]

theorem tset_regsCanonical {m : List (Nat × Nat)} (h : regsCanonical m = true) (k v : Nat) :
    regsCanonical (tset (resetOf k) m k v) = true := by
  obtain ⟨hs, hd⟩ := (regsCanonical_iff m).mp h
  refine (regsCanonical_iff _).mpr ⟨tset_sorted hs _ _ _, ?_⟩
  intro e he
  rcases mem_tset he with ⟨rfl, hx⟩ | he
  · exact hx
  · exact hd e he

theorem filter_regsCanonical {m : List (Nat × Nat)} (h : regsCanonical m = true) (f : Nat × Nat → Bool) :
    regsCanonical (m.filter f) = true := by
  obtain ⟨hs, hd⟩ := (regsCanonical_iff m).mp h
  exact (regsCanonical_iff _).mpr ⟨filter_sorted hs f, fun e he => hd e (List.mem_filter.mp he).1⟩

/-! ### The scratchpad keeps its canonical form -/

theorem Mem.wf_iff (m : Mem) : m.wf = true ↔
    tsorted m.cells = true ∧ tsorted m.lost = true ∧
      ∀ c ∈ m.cells, c.2 ≠ 0 ∨ (tfind m.lost (c.1 / bankBytes)).isSome = true := by
  simp only [Mem.wf, Bool.and_eq_true, List.all_eq_true, Bool.or_eq_true, decide_eq_true_eq]
  tauto

theorem Mem.set_lost (m : Mem) (k : Nat) (b : Byte) : (m.set k b).lost = m.lost := by
  unfold Mem.set
  split <;> rfl

/-- Writing a byte keeps the canonical form. -/
theorem Mem.set_wf {m : Mem} (h : m.wf = true) (k : Nat) (b : Byte) : (m.set k b).wf = true := by
  obtain ⟨hc, hl, hz⟩ := (Mem.wf_iff m).mp h
  unfold Mem.set
  split
  · rename_i hf
    refine (Mem.wf_iff _).mpr ⟨tins_sorted hc k b, hl, ?_⟩
    intro c he
    rcases mem_tins he with rfl | he
    · right
      show (tfind m.lost (k / bankBytes)).isSome = true
      rw [hf]
      rfl
    · exact hz c he
  · refine (Mem.wf_iff _).mpr ⟨tset_sorted hc _ k b, hl, ?_⟩
    intro c he
    rcases mem_tset he with ⟨rfl, hx⟩ | he
    · exact .inl hx
    · exact hz c he

/-- Writing consecutive bytes keeps the canonical form. -/
theorem Mem.sets_wf {m : Mem} (h : m.wf = true) (k : Nat) (bs : List Byte) : (m.sets k bs).wf = true := by
  induction bs generalizing m k with
  | nil => exact h
  | cons b bs ih => exact ih (Mem.set_wf h k b) (k + 1)

/-- Losing a bank keeps the canonical form. -/
theorem Mem.lose_wf {m : Mem} (h : m.wf = true) (bank e : Nat) : (m.lose bank e).wf = true := by
  obtain ⟨hc, hl, hz⟩ := (Mem.wf_iff m).mp h
  refine (Mem.wf_iff _).mpr ⟨filter_sorted hc _, tins_sorted hl bank e, ?_⟩
  intro c he
  obtain ⟨he, hb⟩ := List.mem_filter.mp he
  have hb : c.1 / bankBytes ≠ bank := by simpa using hb
  rcases hz c he with hz | hz
  · exact .inl hz
  · right
    show (tfind (tins m.lost bank e) (c.1 / bankBytes)).isSome = true
    rw [tfind_tins_ne _ hb]
    exact hz

/-- Bytes and losses of some cores taken away together keep the canonical form. -/
theorem Mem.drop_wf {m : Mem} (h : m.wf = true) (keep : Nat → Bool) :
    Mem.wf { cells := m.cells.filter fun x => keep (x.1 / coreBytes), lost := m.lost.filter fun b => keep (b.1 / 16) }
      = true := by
  obtain ⟨hc, hl, hz⟩ := (Mem.wf_iff m).mp h
  refine (Mem.wf_iff _).mpr ⟨filter_sorted hc _, filter_sorted hl _, ?_⟩
  intro c he
  obtain ⟨he, hb⟩ := List.mem_filter.mp he
  rcases hz c he with hz | hz
  · exact .inl hz
  · right
    show (tfind (m.lost.filter fun b => keep (b.1 / 16)) (c.1 / bankBytes)).isSome = true
    have hq : c.1 / bankBytes / 16 = c.1 / coreBytes := Nat.div_div_eq_div_mul _ _ _
    rw [tfind_filter_key (fun k => keep (k / 16)) m.lost (by rw [hq]; exact hb)]
    exact hz

/-- Reading the byte that was written. -/
theorem Mem.get_set_self (m : Mem) (k : Nat) (b : Byte) : (m.set k b).get k = b := by
  unfold Mem.set
  split
  · simp only [Mem.get, tfind_tins_self, Option.getD_some]
  · rename_i hf
    unfold tset
    split
    · rename_i hb
      simp only [Mem.get, tfind_tdel_self, Option.getD_none, Mem.unlisted, hf, hb]
    · simp only [Mem.get, tfind_tins_self, Option.getD_some]

/-- Every other byte reads as before. -/
theorem Mem.get_set_ne (m : Mem) {k j : Nat} (h : j ≠ k) (b : Byte) : (m.set k b).get j = m.get j := by
  unfold Mem.set
  split
  · simp only [Mem.get, tfind_tins_ne _ h, Mem.unlisted]
  · unfold tset
    split
    · simp only [Mem.get, tfind_tdel_ne _ h, Mem.unlisted]
    · simp only [Mem.get, tfind_tins_ne _ h, Mem.unlisted]

/-- A byte outside the bytes written reads as before. -/
theorem Mem.get_sets_outside (m : Mem) (k j : Nat) (bs : List Byte) (h : j < k ∨ k + bs.length ≤ j) :
    (m.sets k bs).get j = m.get j := by
  induction bs generalizing m k with
  | nil => rfl
  | cons b bs ih =>
    rw [Mem.sets, ih]
    · exact Mem.get_set_ne m (by simp only [List.length_cons] at h; omega) b
    · simp only [List.length_cons] at h; omega

/-- The bytes written read back. -/
theorem Mem.gets_sets (m : Mem) (k : Nat) (bs : List Byte) : (m.sets k bs).gets k bs.length = bs := by
  induction bs generalizing m k with
  | nil => rfl
  | cons b bs ih =>
    simp only [List.length_cons, Mem.gets, Mem.sets]
    rw [ih, Mem.get_sets_outside _ _ _ _ (by omega), Mem.get_set_self]

/-- Every bank lost is canonical. -/
theorem bankList_sorted (n e : Nat) : tsorted ((List.range n).map fun b => (b, e)) = true := by
  induction n with
  | zero => rfl
  | succ n ih =>
    rw [List.range_succ, List.map_append]
    have : ∀ (m : List (Nat × Nat)) (k v : Nat), tsorted m = true → (∀ e ∈ m, e.1 < k) → tsorted (m ++ [(k, v)]) = true := by
      intro m
      induction m with
      | nil => intros; rfl
      | cons x m ihm =>
        intro k v hs hl
        obtain ⟨a, c⟩ := x
        obtain ⟨ha, hm⟩ := (tsorted_cons a c m).mp hs
        refine (tsorted_cons a c _).mpr ⟨?_, ihm k v hm fun e he => hl e (List.mem_cons_of_mem _ he)⟩
        intro e he
        rcases List.mem_append.mp he with he | he
        · exact ha e he
        · rw [List.mem_singleton.mp he]
          exact hl (a, c) List.mem_cons_self
    refine this _ n e ih ?_
    intro x hx
    obtain ⟨b, hb, rfl⟩ := List.mem_map.mp hx
    exact List.mem_range.mp hb

end Sys2Proof.Machine
end

