-- ==== Sys2Proof/Laws/Keep.lean ====
section
/-! SUPPORT. The predicate that every operation keeps: the queue of commands as it was, and `State.Inv`; its laws for
the operations that write what it speaks of. -/

namespace Sys2Proof.Machine

/-- The queue of commands is `q`, and the invariant holds. -/
def Keep (q : List Instr) (s : State) : Prop := s.pending = q ∧ s.Inv

/-- An outcome's next state, if it has one, keeps. -/
def KeepOut (q : List Instr) (o : Host.Outcome State Fault Refusal) : Prop := ∀ t, o = .next t → Keep q t

/-- An answer keeps: its state does, and so does what follows it. -/
def KeepR (q : List Instr) (r : Resp) : Prop := Keep q r.s ∧ ∀ t, Keep q t → Keep q (r.after t)

variable {q : List Instr} {s t : State}

theorem keepR_mk {status : Nat} {results : List Byte} {after : State → State} (h : Keep q s)
    (ha : ∀ t, Keep q t → Keep q (after t)) : KeepR q { s, status, results, after } := ⟨h, ha⟩

theorem Resp.s_keep {r : Resp} (h : KeepR q r) : Keep q r.s := h.1

theorem Resp.after_keep {r : Resp} (hr : KeepR q r) (h : Keep q s) : Keep q (r.after s) := hr.2 s h

/-- An update that touches none of the fields the predicate speaks of. -/
theorem keep_of (h : Keep q s) (hp : t.pending = s.pending) (hm : t.mem = s.mem) (hr : t.regs = s.regs)
    (hl : t.log = s.log) (hc : t.session.cache = s.session.cache) (hi : t.inq = s.inq) : Keep q t := by
  obtain ⟨hq, h⟩ := h
  exact ⟨hp.trans hq, ⟨hm ▸ h.mem, hr ▸ h.regs, hl ▸ h.log, hc ▸ h.cache, hi ▸ h.inq⟩⟩

theorem keep_foldl {β : Type} {f : State → β → State} {l : List β} (hf : ∀ s x, Keep q s → Keep q (f s x))
    (h : Keep q s) : Keep q (l.foldl f s) := by
  induction l generalizing s with
  | nil => exact h
  | cons x l ih => exact ih (hf s x h)

theorem keep_foldl_fst {β γ : Type} {f : State × γ → β → State × γ} {l : List β} {a : State × γ}
    (hf : ∀ a x, Keep q a.1 → Keep q (f a x).1) (h : Keep q a.1) : Keep q (l.foldl f a).1 := by
  induction l generalizing a with
  | nil => exact h
  | cons x l ih => exact ih (hf a x h)

/-- The first part of a pair that a match has taken apart. -/
theorem keep_fst {γ : Type} {a : State × γ} {b : State} {c : γ} (h : Keep q a.1) (e : a = (b, c)) : Keep q b := by
  subst e
  exact h

theorem keepOut_next (h : Keep q s) : KeepOut q (.next s) := by
  intro t ht
  cases ht
  exact h

theorem keepOut_fault {f : Fault} : KeepOut q (.fault f) := fun _ ht => nomatch ht

theorem State.setFld_keep {f : Fld} {v : Nat} (h : Keep q s) : Keep q (s.setFld f v) := by
  obtain ⟨hq, h⟩ := h
  exact ⟨hq, ⟨h.mem, tset_regsCanonical h.regs _ _, h.log, h.cache, h.inq⟩⟩

theorem State.resetFlds_keep {f : Nat → Bool} (h : Keep q s) : Keep q (s.resetFlds f) := by
  obtain ⟨hq, h⟩ := h
  exact ⟨hq, ⟨h.mem, filter_regsCanonical h.regs _, h.log, h.cache, h.inq⟩⟩

theorem State.writeCore_keep {p off : Nat} {data : List Byte} (h : Keep q s) : Keep q (s.writeCore p off data) := by
  obtain ⟨hq, h⟩ := h
  exact ⟨hq, ⟨Mem.sets_wf h.mem _ _, h.regs, h.log, h.cache, h.inq⟩⟩

theorem lose_keep (b e : Nat) (h : Keep q s) : Keep q { s with mem := s.mem.lose b e } := by
  obtain ⟨hq, h⟩ := h
  exact ⟨hq, ⟨Mem.lose_wf h.mem _ _, h.regs, h.log, h.cache, h.inq⟩⟩

theorem dropFirst_length {v : Nat} {l : List EvRec} (h : l.any (·.severity = v) = true) :
    (dropFirst v l).length + 1 = l.length := by
  induction l with
  | nil => simp at h
  | cons e l ih =>
    unfold dropFirst
    split
    · rfl
    · rename_i hv
      have : l.any (·.severity = v) = true := by simpa [hv] using h
      simp [ih this]

theorem logAppend_length {l : List EvRec} (e : EvRec) (h : l.length ≤ 1024) : (logAppend l e).1.length ≤ 1024 := by
  unfold logAppend
  split
  · simp; omega
  · split
    · rename_i _ h1
      have := dropFirst_length h1
      simp; omega
    · split
      · rename_i _ _ h1
        have := dropFirst_length h1
        simp; omega
      · split
        · rename_i _ _ _ h1
          have := dropFirst_length h1
          split
          · exact h
          · simp; omega
        · exact h

theorem setLog_keep {l : List EvRec} (hl : l.length ≤ 1024) (h : Keep q s) : Keep q { s with log := l } := by
  obtain ⟨hq, h⟩ := h
  exact ⟨hq, ⟨h.mem, h.regs, hl, h.cache, h.inq⟩⟩

theorem setInq_keep {l : List (Nat × InMsg)} (hl : l.length ≤ 256) (h : Keep q s) : Keep q { s with inq := l } := by
  obtain ⟨hq, h⟩ := h
  exact ⟨hq, ⟨h.mem, h.regs, h.log, h.cache, hl⟩⟩

theorem setSession_keep {x : Session} (hx : x.cache.length ≤ 64) (h : Keep q s) : Keep q { s with session := x } := by
  obtain ⟨hq, h⟩ := h
  exact ⟨hq, ⟨h.mem, h.regs, h.log, hx, h.inq⟩⟩

theorem setMem_keep {m : Mem} (hm : m.wf = true) (h : Keep q s) : Keep q { s with mem := m } := by
  obtain ⟨hq, h⟩ := h
  exact ⟨hq, ⟨hm, h.regs, h.log, h.cache, h.inq⟩⟩

theorem reset_inv : State.reset.Inv := by
  refine ⟨?_, ?_, ?_, ?_, ?_⟩ <;> decide

/-- All banks lost is a canonical scratchpad. -/
theorem lostBanks_wf (n e : Nat) : Mem.wf { lost := (List.range n).map fun b => (b, e) } = true := by
  rw [Mem.wf_iff]
  refine ⟨rfl, bankList_sorted n e, ?_⟩
  intro c hc
  cases hc

theorem allLost_wf (s : State) : s.allLost.wf = true := lostBanks_wf 1536 s.fresh

end Sys2Proof.Machine
end

