-- ==== Sys2Proof/Laws/KeepOps.lean ====
section
/-! SUPPORT. Every operation of Ops keeps the invariant and the queue. -/

namespace Sys2Proof.Machine

variable {q : List Instr}

theorem State.addFld_keep {s : State} {f : Fld} {n : Nat} (hk : Keep q s) : Keep q (State.addFld s f n) :=
  State.setFld_keep hk

theorem State.satFld_keep {s : State} {f : Fld} {n : Nat} (hk : Keep q s) : Keep q (State.satFld s f n) :=
  State.setFld_keep hk

theorem State.setMaskBit_keep {s : State} {f : Fld} {i : Nat} (hk : Keep q s) : Keep q (State.setMaskBit s f i) :=
  State.setFld_keep hk

theorem State.clearMaskBit_keep {s : State} {f : Fld} {i : Nat} (hk : Keep q s) : Keep q (State.clearMaskBit s f i) :=
  State.setFld_keep hk

theorem State.setCore_keep {s : State} {p : Nat} {c : CoreSt} (hk : Keep q s) : Keep q (State.setCore s p c) :=
  keep_of hk rfl rfl rfl rfl rfl rfl

theorem State.setQueue_keep {s : State} {q0 : Nat} {x : QueueSt} (hk : Keep q s) : Keep q (State.setQueue s q0 x) :=
  keep_of hk rfl rfl rfl rfl rfl rfl

theorem State.setChan_keep {s : State} {c : Nat} {x : ChanSt} (hk : Keep q s) : Keep q (State.setChan s c x) :=
  keep_of hk rfl rfl rfl rfl rfl rfl

theorem State.setBinder_keep {s : State} {b : Nat} {x : BinderSt} (hk : Keep q s) : Keep q (State.setBinder s b x) :=
  keep_of hk rfl rfl rfl rfl rfl rfl

theorem State.setLink_keep {s : State} {i : Nat} {x : LinkSt} (hk : Keep q s) : Keep q (State.setLink s i x) :=
  keep_of hk rfl rfl rfl rfl rfl rfl

theorem State.setRouter_keep {s : State} {c : Nat} {r : RouterSt} (hk : Keep q s) : Keep q (State.setRouter s c r) :=
  keep_of hk rfl rfl rfl rfl rfl rfl

theorem State.ownWrite_keep {s : State} {p off : Nat} {data : List Byte} {o : Origin} {awake : Bool} (hk : Keep q s) :
    Keep q (State.ownWrite s p off data o awake).1 := by
  unfold State.ownWrite
  extract_lets +onlyGivenNames x1 x2
  clear_value x1 x2
  split
  · exact State.writeCore_keep hk
  · extract_lets +onlyGivenNames x3
    clear_value x3
    extract_lets +onlyGivenNames x4
    have h5 : Keep q x4 := keep_of hk rfl rfl rfl rfl rfl rfl
    clear_value x4
    split
    · exact State.setCore_keep h5
    · extract_lets +onlyGivenNames x6 x7
      clear_value x6 x7
      exact State.setRouter_keep h5

theorem State.drew_keep {s : State} (hk : Keep q s) : Keep q (State.drew s) :=
  keep_of hk rfl rfl rfl rfl rfl rfl

theorem State.setCoreState_keep {s : State} {p v : Nat} (hk : Keep q s) : Keep q (State.setCoreState s p v) :=
  State.setFld_keep hk

theorem State.setEvent_keep {s : State} {f : Fld} (hk : Keep q s) : Keep q (State.setEvent s f) :=
  State.setFld_keep hk

theorem State.sendOn_keep {s : State} {i vc : Nat} {x : OutPkt} (hk : Keep q s) : Keep q (State.sendOn s i vc x) := by
  unfold State.sendOn
  extract_lets +onlyGivenNames x1
  clear_value x1
  split
  · exact State.setLink_keep hk
  · exact hk

theorem State.newTag_keep {s : State} {u : TagUse} (hk : Keep q s) : Keep q (State.newTag s u).1 := by
  unfold State.newTag
  extract_lets +onlyGivenNames x1 x2
  clear_value x1 x2
  exact keep_of hk rfl rfl rfl rfl rfl rfl

theorem State.logEvent_keep {s : State} {severity kind status code unit context detail : Nat} (h : Keep q s) :
    Keep q (s.logEvent severity kind status code unit context detail) := by
  unfold State.logEvent
  have hl := fun e => logAppend_length e h.2.log
  dsimp only
  split
  · exact State.addFld_keep (State.addFld_keep (setLog_keep (hl _) h))
  · exact State.addFld_keep (setLog_keep (hl _) h)

theorem State.setReady_keep {s : State} {r : Nat} (hk : Keep q s) : Keep q (State.setReady s r) := by
  unfold State.setReady
  split
  · exact hk
  · extract_lets +onlyGivenNames x1
    clear_value x1
    extract_lets +onlyGivenNames x2
    have h3 : Keep q x2 := State.setFld_keep hk
    clear_value x2
    extract_lets +onlyGivenNames x4
    clear_value x4
    exact State.logEvent_keep h3

theorem State.settleReady_keep {s : State} (hk : Keep q s) : Keep q (State.settleReady s) := by
  unfold State.settleReady
  split
  · exact State.setReady_keep hk
  · split
    · exact State.setReady_keep hk
    · exact hk

end Sys2Proof.Machine
end

