-- ==== Sys2Proof/Laws/KeepLongOps.lean ====
section
/-! SUPPORT. Every operation of LongOps keeps the invariant and the queue. -/

namespace Sys2Proof.Machine

variable {q : List Instr}

theorem State.startOp_keep {s : State} {opcode hostSeq tag object : Nat} {pending : Bool} (hk : Keep q s) :
    Keep q (State.startOp s opcode hostSeq tag object pending).1 := by
  unfold State.startOp
  extract_lets +onlyGivenNames x1
  extract_lets +onlyGivenNames x2 x3 x4
  clear_value x2 x3 x4
  exact keep_of hk rfl rfl rfl rfl rfl rfl

theorem State.setOp_keep {s : State} {id : Nat} {f : LongOp → LongOp} (hk : Keep q s) : Keep q (State.setOp s id f) :=
  keep_of hk rfl rfl rfl rfl rfl rfl

theorem State.finishOp_keep {s : State} {id status : Nat} {results : List Byte} (hk : Keep q s) :
    Keep q (State.finishOp s id status results) := by
  unfold State.finishOp
  split
  · exact hk
  · exact State.logEvent_keep (State.setOp_keep hk)

theorem State.runOp_keep {s : State} {id : Nat} (hk : Keep q s) : Keep q (State.runOp s id) :=
  State.setOp_keep hk

theorem State.dropRequest_keep {s : State} {l status : Nat} (hk : Keep q s) : Keep q (State.dropRequest s l status) := by
  unfold State.dropRequest
  split
  · extract_lets +onlyGivenNames x1
    clear_value x1
    extract_lets +onlyGivenNames x2
    have h3 : Keep q x2 := State.finishOp_keep hk
    clear_value x2
    exact State.setFld_keep (State.setFld_keep (State.setFld_keep h3))
  · exact hk

end Sys2Proof.Machine
end

