-- ==== Sys2Proof/Laws/KeepClocks.lean ====
section
/-! SUPPORT. Every operation of Clocks keeps the invariant and the queue. -/

namespace Sys2Proof.Machine

variable {q : List Instr}

theorem State.setRail_keep {s : State} {h : Nat} {r : RailSt} (hk : Keep q s) : Keep q (State.setRail s h r) :=
  keep_of hk rfl rfl rfl rfl rfl rfl

theorem State.railRequest_keep {s : State} {h mv : Nat} (hk : Keep q s) : Keep q (State.railRequest s h mv) := by
  unfold State.railRequest
  split
  · exact hk
  · exact State.setRail_keep (State.sendOn_keep hk)

theorem State.glideTo_keep {s : State} {h want : Nat} {cap : Bool} (hk : Keep q s) :
    Keep q (State.glideTo s h want cap) := by
  unfold State.glideTo
  split
  · exact hk
  · exact State.setFld_keep (State.setFld_keep (State.setRail_keep hk))

theorem State.retarget_keep {s : State} {h : Nat} {cap : Bool} (hk : Keep q s) : Keep q (State.retarget s h cap) := by
  unfold State.retarget
  extract_lets +onlyGivenNames x1
  have h2 : Keep q x1 := State.setFld_keep hk
  clear_value x1
  extract_lets +onlyGivenNames x3 x4
  clear_value x3 x4
  split
  · exact h2
  · split
    · exact State.setFld_keep (State.setFld_keep h2)
    · split
      · exact State.glideTo_keep h2
      · split
        · exact h2
        · exact State.railRequest_keep (State.setRail_keep h2)

theorem State.beginEntry_keep {s : State} {p target : Nat} (hk : Keep q s) : Keep q (State.beginEntry s p target) := by
  unfold State.beginEntry
  split
  · exact hk
  · split
    · exact hk
    · exact State.setFld_keep (State.setCore_keep hk)

theorem State.enterIdle_keep {s : State} {p : Nat} (hk : Keep q s) : Keep q (State.enterIdle s p) := by
  unfold State.enterIdle
  split
  · exact hk
  · split
    · exact hk
    · split
      · exact State.satFld_keep (State.setFld_keep hk)
      · exact State.beginEntry_keep hk

theorem State.beginWake_keep {s : State} {p cause : Nat} (hk : Keep q s) : Keep q (State.beginWake s p cause) := by
  unfold State.beginWake
  split
  · exact hk
  · extract_lets +onlyGivenNames x1
    clear_value x1
    split
    · split
      · exact hk
      · exact State.setCore_keep hk
    · split
      · exact State.setCore_keep hk
      · extract_lets +onlyGivenNames x2
        clear_value x2
        extract_lets +onlyGivenNames x3
        have h4 : Keep q x3 := State.setCore_keep hk
        clear_value x3
        exact State.setFld_keep (State.setFld_keep h4)

theorem State.stir_keep {s : State} (hk : Keep q s) : Keep q (State.stir s) := by
  unfold State.stir
  split
  · exact keep_of hk rfl rfl rfl rfl rfl rfl
  · exact hk

theorem State.meetCore_keepO {s t : State} {p : Nat} (hk : Keep q s) (h : s.meetCore p = .ok t) : Keep q t := by
  unfold State.meetCore at h
  split at h
  · cases h
  · split at h
    · cases h
    · split at h
      · cases h; exact hk
      · cases h; exact State.beginWake_keep hk

end Sys2Proof.Machine
end

