-- ==== Sys2Proof/Laws/KeepRecords.lean ====
section
/-! SUPPORT. Every operation of Records keeps the invariant and the queue. -/

namespace Sys2Proof.Machine

variable {q : List Instr}

theorem State.recordLanded_keep {s : State} {cq idx : Nat} {again : Bool} (hk : Keep q s) :
    Keep q (State.recordLanded s cq idx again) := by
  unfold State.recordLanded
  extract_lets +onlyGivenNames x1
  have h2 : Keep q x1 := by
    unfold x1
    split
    · exact State.setFld_keep hk
    · exact hk
  clear_value x1
  split
  · exact h2
  · extract_lets +onlyGivenNames x3
    clear_value x3
    extract_lets +onlyGivenNames x4
    have h5 : Keep q x4 := State.setQueue_keep (State.addFld_keep h2)
    clear_value x4
    split
    · exact keep_of h5 rfl rfl rfl rfl rfl rfl
    · exact h5

theorem State.ringWrite_keep {s : State} {cq : Nat} {slot : Option Nat} {again : Bool} {data : Nat → List Byte} {u : Nat → TagUse} (hk : Keep q s) :
    Keep q (State.ringWrite s cq slot again data u).1 := by
  unfold State.ringWrite
  extract_lets +onlyGivenNames x1 x2
  clear_value x1 x2
  split
  · exact hk
  · extract_lets +onlyGivenNames x3
    clear_value x3
    split
    · split
      · exact hk
      · split
        · exact State.addFld_keep hk
        · have h4 := State.meetCore_keepO hk (by assumption)
          extract_lets +onlyGivenNames x5
          have h6 : Keep q x5.1 := State.ownWrite_keep h4
          clear_value x5
          dsimp -zeta only
          split
          · have h7 := State.meetCore_keepO hk (by assumption)
            exact State.recordLanded_keep h6
          · have h8 := State.meetCore_keepO hk (by assumption)
            exact h6
    · split
      · exact hk
      · split
        · have h9 := keep_fst (State.newTag_keep hk) (by assumption)
          exact State.recordLanded_keep (State.sendOn_keep h9)

theorem State.noteFailed_keep {s : State} {ring q0 status : Nat} {event : Bool} (hk : Keep q s) :
    Keep q (State.noteFailed s ring q0 status event) := by
  unfold State.noteFailed
  split
  · exact hk
  · exact State.logEvent_keep (State.setQueue_keep hk)

theorem State.dropEvent_keep {s : State} {eq : Nat} (hk : Keep q s) : Keep q (State.dropEvent s eq) :=
  State.setFld_keep (State.addFld_keep hk)

theorem State.copyEvent_keep {s : State} {eq q0 : Nat} {e : EvRec} (hk : Keep q s) :
    Keep q (State.copyEvent s eq q0 e) := by
  unfold State.copyEvent
  split
  · have h1 := keep_fst (State.ringWrite_keep hk) (by assumption)
    exact h1
  · have h2 := keep_fst (State.ringWrite_keep hk) (by assumption)
    exact State.dropEvent_keep h2
  · have h3 := keep_fst (State.ringWrite_keep hk) (by assumption)
    exact State.setQueue_keep h3
  · have h4 := keep_fst (State.ringWrite_keep hk) (by assumption)
    exact State.noteFailed_keep (State.dropEvent_keep h4)

theorem State.emitQ_keep {s : State} {q0 severity kind status code unit context detail : Nat} (hk : Keep q s) :
    Keep q (State.emitQ s q0 severity kind status code unit context detail) := by
  unfold State.emitQ
  extract_lets +onlyGivenNames x1
  clear_value x1
  extract_lets +onlyGivenNames x2
  have h3 : Keep q x2 := State.logEvent_keep hk
  clear_value x2
  split
  · exact State.copyEvent_keep h3
  · exact h3

theorem State.tryRecord_keep {s : State} {q0 : Nat} {r : CRec} (hk : Keep q s) : Keep q (State.tryRecord s q0 r).1 := by
  unfold State.tryRecord
  extract_lets +onlyGivenNames x1
  clear_value x1
  exact State.ringWrite_keep hk

theorem State.holdRecord_keep {s : State} {q0 : Nat} {held : List CRec} (hk : Keep q s) :
    Keep q (State.holdRecord s q0 held) :=
  State.setFld_keep (State.setQueue_keep hk)

theorem State.postRecord_keep {s : State} {q0 : Nat} {r : CRec} (hk : Keep q s) : Keep q (State.postRecord s q0 r) := by
  unfold State.postRecord
  extract_lets +onlyGivenNames x1
  have h2 : ∀ y0, Keep q y0 → Keep q (x1 y0) := fun y3 h4 => State.holdRecord_keep h4
  clear_value x1
  split
  · exact h2 _ hk
  · split
    · have h5 := keep_fst (State.tryRecord_keep hk) (by assumption)
      exact State.setFld_keep h5
    · have h6 := keep_fst (State.tryRecord_keep hk) (by assumption)
      exact State.noteFailed_keep (h2 _ h6)
    · have h7 := keep_fst (State.tryRecord_keep hk) (by assumption)
      exact h2 _ h7

theorem State.retryHeld_keep {s : State} {q0 x2 : Nat} (hk : Keep q s) : Keep q (State.retryHeld s q0 x2) := by
  induction x2 generalizing s with
  | zero =>
    unfold State.retryHeld
    exact hk
  | succ n ih =>
    unfold State.retryHeld
    extract_lets +onlyGivenNames x1
    clear_value x1
    split
    · exact State.setFld_keep hk
    · split
      · have h2 := keep_fst (State.tryRecord_keep hk) (by assumption)
        exact ih (State.setFld_keep (State.setQueue_keep h2))
      · have h3 := keep_fst (State.tryRecord_keep hk) (by assumption)
        exact State.noteFailed_keep h3
      · have h4 := keep_fst (State.tryRecord_keep hk) (by assumption)
        exact h4

theorem State.settleFence_keep {s : State} {q0 : Nat} (hk : Keep q s) : Keep q (State.settleFence s q0) := by
  unfold State.settleFence
  extract_lets +onlyGivenNames x1
  clear_value x1
  split
  · split
    · exact State.postRecord_keep (State.setQueue_keep hk)
    · exact hk
  · exact hk

theorem State.retryHeldAll_keep {s : State} {q0 : Nat} (hk : Keep q s) : Keep q (State.retryHeldAll s q0) :=
  State.settleFence_keep (State.retryHeld_keep hk)

theorem State.releaseHeld_keep {s : State} {cq : Nat} (hk : Keep q s) : Keep q (State.releaseHeld s cq) := by
  unfold State.releaseHeld
  refine keep_foldl ?_ hk
  intro s1 x2 h3
  split
  · exact State.retryHeldAll_keep h3
  · exact h3

theorem State.completeWork_keep {s : State} {q0 idx tag status value : Nat} (hk : Keep q s) :
    Keep q (State.completeWork s q0 idx tag status value) := by
  unfold State.completeWork
  extract_lets +onlyGivenNames x1
  clear_value x1
  extract_lets +onlyGivenNames x2
  have h3 : Keep q x2 := State.setQueue_keep hk
  clear_value x2
  exact State.settleFence_keep (State.postRecord_keep h3)

theorem State.takeBack_keep {s : State} {cq idx : Nat} (hk : Keep q s) : Keep q (State.takeBack s cq idx).1 := by
  unfold State.takeBack
  extract_lets +onlyGivenNames x1
  clear_value x1
  split
  · exact State.setFld_keep hk
  · split
    · exact hk
    · exact hk

theorem State.recordRejected_keep {s : State} {cq idx : Nat} {r : CRec} {tries status : Nat} (hk : Keep q s) :
    Keep q (State.recordRejected s cq idx r tries status) := by
  unfold State.recordRejected
  extract_lets +onlyGivenNames x1
  have h2 : Keep q x1.1 := State.takeBack_keep hk
  clear_value x1
  extract_lets +onlyGivenNames x3
  have h4 : Keep q x3 := h2
  clear_value x3
  extract_lets +onlyGivenNames x5
  clear_value x5
  extract_lets +onlyGivenNames x6
  have h7 : ∀ y0, Keep q y0 → Keep q (x6 y0) := fun y8 h9 => State.holdRecord_keep h9
  clear_value x6
  split
  · split
    · have h10 := keep_fst (State.ringWrite_keep h4) (by assumption)
      exact h10
    · have h11 := keep_fst (State.ringWrite_keep h4) (by assumption)
      exact h7 _ h11
  · exact State.noteFailed_keep (h7 _ h4)

theorem State.eventRejected_keep {s : State} {eq idx : Nat} {e : EvRec} {tries status : Nat} (hk : Keep q s) :
    Keep q (State.eventRejected s eq idx e tries status) := by
  unfold State.eventRejected
  extract_lets +onlyGivenNames x1
  have h2 : Keep q x1.1 := State.takeBack_keep hk
  clear_value x1
  extract_lets +onlyGivenNames x3
  have h4 : Keep q x3 := h2
  clear_value x3
  split
  · split
    · have h5 := keep_fst (State.ringWrite_keep h4) (by assumption)
      exact h5
    · have h6 := keep_fst (State.ringWrite_keep h4) (by assumption)
      exact State.dropEvent_keep h6
  · exact State.noteFailed_keep (State.dropEvent_keep h4)

end Sys2Proof.Machine
end

