-- ==== Sys2Proof/Laws/KeepBlocks.lean ====
section
/-! SUPPORT. Every operation of Blocks keeps the invariant and the queue. -/

namespace Sys2Proof.Machine

variable {q : List Instr}

theorem State.loadBlock_keep {s : State} {queue idx : Nat} {b : List Byte} (hk : Keep q s) :
    Keep q (State.loadBlock s queue idx b) := by
  unfold State.loadBlock
  extract_lets +onlyGivenNames x1
  clear_value x1
  extract_lets +onlyGivenNames x2
  have h3 : Keep q x2 := keep_of hk rfl rfl rfl rfl rfl rfl
  clear_value x2
  refine keep_foldl ?_ h3
  intro s4 x5 h6
  extract_lets +onlyGivenNames x7
  clear_value x7
  exact keep_of h6 rfl rfl rfl rfl rfl rfl

theorem State.unloadSection_keep {s : State} {x : PlnSection} (hk : Keep q s) : Keep q (State.unloadSection s x) := by
  unfold State.unloadSection
  extract_lets +onlyGivenNames x1
  have h2 : Keep q x1 := by
    unfold x1
    refine keep_foldl ?_ hk
    intro s3 x4 h5
    split
    · extract_lets +onlyGivenNames x6
      clear_value x6
      exact State.setRouter_keep h5
    · exact h5
  clear_value x1
  split
  · extract_lets +onlyGivenNames x7
    clear_value x7
    exact State.setRouter_keep h2
  · exact h2

theorem State.releaseStream_keep {s : State} {key : Nat} {t : AdpStream} (hk : Keep q s) :
    Keep q (State.releaseStream s key t) := by
  unfold State.releaseStream
  split
  · exact State.addFld_keep (keep_of hk rfl rfl rfl rfl rfl rfl)
  · extract_lets +onlyGivenNames x1
    have h2 : Keep q x1 := keep_of hk rfl rfl rfl rfl rfl rfl
    clear_value x1
    split
    · exact h2
    · exact keep_of h2 rfl rfl rfl rfl rfl rfl

theorem State.unloadBlock_keep {s : State} {queue idx : Nat} (hk : Keep q s) :
    Keep q (State.unloadBlock s queue idx) := by
  unfold State.unloadBlock
  extract_lets +onlyGivenNames x1
  clear_value x1
  extract_lets +onlyGivenNames x2
  have h3 : Keep q x2 := keep_of hk rfl rfl rfl rfl rfl rfl
  clear_value x2
  extract_lets +onlyGivenNames x4
  have h5 : Keep q x4 := keep_foldl (fun s6 x7 h8 => State.unloadSection_keep h8) h3
  clear_value x4
  exact keep_foldl (fun s9 x10 h11 => State.releaseStream_keep h11) h5

end Sys2Proof.Machine
end

