-- ==== Sys2Proof/Laws/KeepCoreOps.lean ====
section
/-! SUPPORT. Every operation of CoreOps keeps the invariant and the queue. -/

namespace Sys2Proof.Machine

variable {q : List Instr}

theorem State.signal_keep {s : State} {p bit : Nat} (hk : Keep q s) : Keep q (State.signal s p bit) := by
  unfold State.signal
  split
  · exact hk
  · split
    · exact State.setCore_keep hk
    · exact State.setFld_keep hk

theorem State.clearEvents_keep {s : State} {p mask : Nat} (hk : Keep q s) : Keep q (State.clearEvents s p mask) := by
  unfold State.clearEvents
  refine keep_foldl ?_ hk
  intro s1 x2 h3
  split
  · exact State.setFld_keep h3
  · exact h3

theorem State.sbEnter_keep {s : State} {p i kind source engine origin first last : Nat} {owner : Option (Nat ⊕ Nat)} (hk : Keep q s) :
    Keep q (State.sbEnter s p i kind source engine origin first last owner) := by
  unfold State.sbEnter
  extract_lets +onlyGivenNames x1
  have h2 : Keep q x1 := State.setFld_keep (State.setFld_keep (State.setFld_keep (State.setFld_keep hk)))
  clear_value x1
  extract_lets +onlyGivenNames x3
  have h4 : Keep q x3 := State.setFld_keep (State.setFld_keep (State.setFld_keep h2))
  clear_value x3
  extract_lets +onlyGivenNames x5
  clear_value x5
  exact State.setCore_keep h4

theorem State.sbRelease_keep {s : State} {p i : Nat} (hk : Keep q s) : Keep q (State.sbRelease s p i) := by
  unfold State.sbRelease
  extract_lets +onlyGivenNames x1
  clear_value x1
  exact State.setFld_keep (State.setCore_keep hk)

theorem State.sbReleaseOwner_keep {s : State} {p : Nat} {owner : Nat ⊕ Nat} (hk : Keep q s) :
    Keep q (State.sbReleaseOwner s p owner) :=
  keep_foldl (fun _ _ h3 => State.sbRelease_keep h3) hk

theorem State.sbClear_keep {s : State} {p : Nat} (hk : Keep q s) : Keep q (State.sbClear s p) :=
  keep_foldl (fun _ _ h3 => State.sbRelease_keep h3) hk

theorem State.addEntry_keep {s : State} {e : Dieback} (hk : Keep q s) : Keep q (State.addEntry s e) := by
  unfold State.addEntry
  extract_lets +onlyGivenNames x1
  have h2 : ∀ y0 y1, Keep q y0 → Keep q (x1 y0 y1) := fun y3 y4 h5 => State.satFld_keep h5
  clear_value x1
  split
  · exact hk
  · split
    · exact h2 _ _ (keep_of hk rfl rfl rfl rfl rfl rfl)
    · extract_lets +onlyGivenNames x6 x7 x8 x9 x10
      clear_value x6 x7 x8 x9 x10
      exact h2 _ _ (keep_of hk rfl rfl rfl rfl rfl rfl)

theorem State.addDieback_keep {s : State} {kind source unit detail cause : Nat} (hk : Keep q s) :
    Keep q (State.addDieback s kind source unit detail cause) :=
  State.addEntry_keep hk

theorem State.recordError_keep {s : State} {p code pc : Nat} (hk : Keep q s) :
    Keep q (State.recordError s p code pc) := by
  unfold State.recordError
  extract_lets +onlyGivenNames x1
  have h2 : Keep q x1 := State.satFld_keep hk
  clear_value x1
  split
  · exact State.setFld_keep (State.setFld_keep h2)
  · exact h2

theorem State.stopCore_keep {s : State} {p : Nat} (hk : Keep q s) : Keep q (State.stopCore s p) := by
  unfold State.stopCore
  split
  · exact hk
  · extract_lets +onlyGivenNames x1
    clear_value x1
    extract_lets +onlyGivenNames x2
    have h3 : Keep q x2 := State.sbClear_keep (State.setCore_keep hk)
    clear_value x2
    exact State.setCoreState_keep h3

theorem State.completeKernel_keep {s : State} {k : Kernel} (hk : Keep q s) : Keep q (State.completeKernel s k) := by
  unfold State.completeKernel
  extract_lets +onlyGivenNames x1
  have h2 : Keep q x1 := keep_of hk rfl rfl rfl rfl rfl rfl
  clear_value x1
  extract_lets +onlyGivenNames x3
  have h4 : Keep q x3 := State.unloadBlock_keep h2
  clear_value x3
  extract_lets +onlyGivenNames x5
  have h6 : Keep q x5 := State.completeWork_keep h4
  clear_value x5
  extract_lets +onlyGivenNames x7
  have h8 : Keep q x7 := by
    unfold x7
    split
    · refine keep_foldl ?_ h6
      intro s9 x10 h11
      split
      · exact h11
      · exact State.enterIdle_keep (State.setCoreState_keep h11)
    · exact h6
  clear_value x7
  exact State.retarget_keep (State.retarget_keep h8)

theorem State.settleKernels_keep {s : State} (hk : Keep q s) : Keep q (State.settleKernels s) :=
  keep_foldl (fun _ _ h3 => State.completeKernel_keep h3) hk

theorem State.abortKernel_keep {s : State} {k : Kernel} {l code status : Nat} (hk : Keep q s) :
    Keep q (State.abortKernel s k l code status) := by
  unfold State.abortKernel
  split
  · exact hk
  · extract_lets +onlyGivenNames x1
    clear_value x1
    extract_lets +onlyGivenNames x2
    have h3 : Keep q x2 := State.unloadBlock_keep (keep_of hk rfl rfl rfl rfl rfl rfl)
    clear_value x2
    extract_lets +onlyGivenNames x4
    have h5 : Keep q x4 := keep_foldl (fun s6 x7 h8 => State.stopCore_keep h8) h3
    clear_value x4
    exact State.settleKernels_keep h5

theorem State.fatalIn_keep {s : State} {p l code pc : Nat} {k : Option Kernel} (hk : Keep q s) :
    Keep q (State.fatalIn s p l code pc k) := by
  unfold State.fatalIn
  extract_lets +onlyGivenNames x1
  have h2 : Keep q x1 := State.recordError_keep hk
  clear_value x1
  split
  · exact h2
  · exact State.abortKernel_keep (State.emitQ_keep h2)

theorem State.fatal_keep {s : State} {p code : Nat} (hk : Keep q s) : Keep q (State.fatal s p code) :=
  State.fatalIn_keep hk

theorem State.drainCheck_keep {s : State} {p : Nat} (hk : Keep q s) : Keep q (State.drainCheck s p) := by
  unfold State.drainCheck
  split
  · exact State.settleKernels_keep (State.setCoreState_keep hk)
  · exact hk

theorem State.thawOwn_keep {s : State} {p : Nat} (hk : Keep q s) : Keep q (State.thawOwn s p) := by
  unfold State.thawOwn
  extract_lets +onlyGivenNames x1
  clear_value x1
  split
  · extract_lets +onlyGivenNames x2
    have h3 : Keep q x2 := State.setCore_keep hk
    clear_value x2
    extract_lets +onlyGivenNames x4
    clear_value x4
    split
    · split
      · exact h3
      · exact State.setCoreState_keep (State.setCore_keep h3)
    · exact h3
  · exact hk

theorem State.postAnswered_keep {s : State} {p status : Nat} (hk : Keep q s) :
    Keep q (State.postAnswered s p status) := by
  unfold State.postAnswered
  extract_lets +onlyGivenNames x1
  clear_value x1
  split
  · exact hk
  · extract_lets +onlyGivenNames x2
    have h3 : Keep q x2 := State.thawOwn_keep (State.setCore_keep hk)
    clear_value x2
    extract_lets +onlyGivenNames x4
    have h5 : Keep q x4 := by
      unfold x4
      split
      · exact h3
      · exact State.satFld_keep (State.setFld_keep h3)
    clear_value x4
    exact State.drainCheck_keep h5

theorem State.dropWaiter_keep {s : State} {l : Nat} (hk : Keep q s) : Keep q (State.dropWaiter s l) := by
  unfold State.dropWaiter
  extract_lets +onlyGivenNames x1
  clear_value x1
  exact keep_of hk rfl rfl rfl rfl rfl rfl

theorem State.haltUnits_keep {s : State} {p : Nat} (hk : Keep q s) : Keep q (State.haltUnits s p) := by
  unfold State.haltUnits
  extract_lets +onlyGivenNames x1
  clear_value x1
  extract_lets +onlyGivenNames x2
  have h3 : Keep q x2 := State.setCore_keep hk
  clear_value x2
  exact State.setFld_keep (State.setFld_keep h3)

theorem State.fenceOne_keep {s : State} {p cause : Nat} (hk : Keep q s) : Keep q (State.fenceOne s p cause) := by
  unfold State.fenceOne
  split
  · extract_lets +onlyGivenNames x1
    have h2 : Keep q x1 := State.logEvent_keep hk
    clear_value x1
    exact State.addFld_keep h2
  · split
    · exact hk
    · extract_lets +onlyGivenNames x3
      clear_value x3
      extract_lets +onlyGivenNames x4
      have h5 : Keep q x4 := State.addFld_keep (State.setMaskBit_keep hk)
      clear_value x4
      extract_lets +onlyGivenNames x6
      have h7 : Keep q x6 := State.setCoreState_keep (State.haltUnits_keep h5)
      clear_value x6
      extract_lets +onlyGivenNames x8
      have h9 : Keep q x8 := State.dropRequest_keep (State.dropWaiter_keep h7)
      clear_value x8
      split
      · extract_lets +onlyGivenNames x10
        clear_value x10
        extract_lets +onlyGivenNames x11
        have h12 : Keep q x11 := keep_of h9 rfl rfl rfl rfl rfl rfl
        clear_value x11
        exact State.emitQ_keep h12
      · exact State.logEvent_keep h9

theorem State.unitFenced_keep {s : State} (hk : Keep q s) : Keep q (State.unitFenced s) :=
  State.settleReady_keep (State.setFld_keep hk)

theorem State.fenceCore_keep {s : State} {p cause : Nat} {aborts : Bool} (hk : Keep q s) :
    Keep q (State.fenceCore s p cause aborts) := by
  unfold State.fenceCore
  extract_lets +onlyGivenNames x1 x2 x3
  clear_value x1 x2 x3
  extract_lets +onlyGivenNames x4
  have h5 : Keep q x4 := State.fenceOne_keep hk
  clear_value x4
  extract_lets +onlyGivenNames x6
  have h7 : Keep q x6 := State.addDieback_keep h5
  clear_value x6
  extract_lets +onlyGivenNames x8
  have h9 : Keep q x8 := by
    unfold x8
    split
    · exact State.fatalIn_keep h7
    · exact h7
  clear_value x8
  extract_lets +onlyGivenNames x10
  have h11 : Keep q x10 := by
    unfold x10
    split
    · exact State.unitFenced_keep h9
    · exact h9
  clear_value x10
  exact State.settleKernels_keep h11

theorem State.fenceClump_keep {s : State} {c cause kind evCode : Nat} (hk : Keep q s) :
    Keep q (State.fenceClump s c cause kind evCode) := by
  unfold State.fenceClump
  extract_lets +onlyGivenNames x1
  have h2 : Keep q x1 := keep_foldl (fun s3 x4 h5 => State.fenceOne_keep h5) hk
  clear_value x1
  extract_lets +onlyGivenNames x6
  have h7 : Keep q x6 := State.addDieback_keep h2
  clear_value x6
  exact State.settleKernels_keep (State.unitFenced_keep h7)

end Sys2Proof.Machine
end

