-- ==== Sys2Proof/Laws/KeepOperands.lean ====
section
/-! SUPPORT. Every operation of Operands keeps the invariant and the queue. -/

namespace Sys2Proof.Machine

variable {q : List Instr}

theorem State.setSreg_keep {s : State} {p r : Nat} {v : Word} (hk : Keep q s) : Keep q (State.setSreg s p r v) := by
  unfold State.setSreg
  split
  · exact hk
  · exact State.setCore_keep hk

theorem State.nextPc_keep {s : State} {p : Nat} (hk : Keep q s) : Keep q (State.nextPc s p) :=
  State.setFld_keep hk

theorem State.jumpTo_keep {s : State} {p : Nat} {target : Int} (hk : Keep q s) : Keep q (State.jumpTo s p target) := by
  unfold State.jumpTo
  split
  · exact State.setFld_keep hk
  · exact State.fatal_keep hk

end Sys2Proof.Machine
end

