-- ==== Sys2Proof/Laws/KeepAccess.lean ====
section
/-! SUPPORT. Every operation of Access keeps the invariant and the queue. -/

namespace Sys2Proof.Machine

variable {q : List Instr}

theorem State.freezeCycles_keep {s : State} {p n : Nat} (hk : Keep q s) : Keep q (State.freezeCycles s p n) := by
  unfold State.freezeCycles
  split
  · extract_lets +onlyGivenNames x1
    clear_value x1
    extract_lets +onlyGivenNames x2
    have h3 : Keep q x2 := keep_foldl (fun s4 x5 h6 => State.addFld_keep h6) hk
    clear_value x2
    exact keep_foldl (fun s7 x8 h9 => State.addFld_keep h9) h3
  · exact hk

theorem State.recordConflict_keep {s : State} {p unit bank : Nat} {writes : Bool} {servedQ : Nat} (hk : Keep q s) :
    Keep q (State.recordConflict s p unit bank writes servedQ) := by
  unfold State.recordConflict
  extract_lets +onlyGivenNames x1
  have h2 : Keep q x1 := State.addFld_keep (State.recordError_keep hk)
  clear_value x1
  extract_lets +onlyGivenNames x3
  have h4 : Keep q x3 := State.setFld_keep (State.setFld_keep h2)
  clear_value x3
  extract_lets +onlyGivenNames x5
  have h6 : Keep q x5 := State.setFld_keep (State.setFld_keep h4)
  clear_value x5
  exact State.setFld_keep h6

theorem State.payConflict_keep {s : State} {p unit : Nat} (hk : Keep q s) : Keep q (State.payConflict s p unit) := by
  unfold State.payConflict
  split
  · exact State.freezeCycles_keep hk
  · split
    · exact State.addFld_keep hk
    · exact hk

theorem State.noteConflict_keep {s : State} {p unit bank : Nat} {writes : Bool} {q0 otherUnit : Nat} (hk : Keep q s) :
    Keep q (State.noteConflict s p unit bank writes q0 otherUnit) := by
  unfold State.noteConflict
  extract_lets +onlyGivenNames x1
  clear_value x1
  exact State.payConflict_keep (State.recordConflict_keep hk)

theorem State.noteEcc_keep {s : State} {t : Nat} {ue : Bool} {bank row word : Nat} (hk : Keep q s) :
    Keep q (State.noteEcc s t ue bank row word) := by
  unfold State.noteEcc
  extract_lets +onlyGivenNames x1
  have h2 : Keep q x1 := State.setFld_keep (State.setFld_keep hk)
  clear_value x1
  exact State.setFld_keep (State.setFld_keep (State.setFld_keep h2))

theorem State.corrected_keep {s : State} {t bank row word : Nat} (hk : Keep q s) :
    Keep q (State.corrected s t bank row word) := by
  unfold State.corrected
  extract_lets +onlyGivenNames x1
  have h2 : Keep q x1 := State.addFld_keep (State.noteEcc_keep hk)
  clear_value x1
  extract_lets +onlyGivenNames x3
  clear_value x3
  exact State.setCore_keep h2

theorem State.scratchUe_keep {s : State} {t bank row word : Nat} {q0 : Option Nat} (hk : Keep q s) :
    Keep q (State.scratchUe s t bank row word q0) := by
  unfold State.scratchUe
  extract_lets +onlyGivenNames x1
  have h2 : Keep q x1 := State.addDieback_keep (State.noteEcc_keep hk)
  clear_value x1
  extract_lets +onlyGivenNames x3 x4
  clear_value x3 x4
  split
  · exact State.emitQ_keep h2
  · exact State.logEvent_keep h2

theorem State.port_keep {s : State} {p unit t : Nat} {isRead : Bool} {e : PortEvent} (hk : Keep q s) :
    Keep q (State.port s p unit t isRead e).1 := by
  unfold State.port
  split
  · exact hk
  · exact State.noteConflict_keep hk
  · dsimp -zeta only
    split
    · exact State.corrected_keep hk
    · exact hk
  · split
    · exact State.scratchUe_keep hk
    · exact hk

theorem State.ports_keep {s : State} {p unit : Nat} {isRead : Bool} {met : List (Fin 4 × PortEvent)} (hk : Keep q s) :
    Keep q (State.ports s p unit isRead met).1 := by
  unfold State.ports
  refine keep_foldl_fst ?_ hk
  intro x1 x2 h3
  extract_lets +onlyGivenNames x4
  have h5 : Keep q x4.1 := State.port_keep h3
  clear_value x4
  exact h5

theorem State.fatalAt_keep {s : State} {p code pc : Nat} (hk : Keep q s) : Keep q (State.fatalAt s p code pc) :=
  State.fatalIn_keep hk

theorem State.writeClump_keep {s : State} {p a : Nat} {data : List Byte} (hk : Keep q s) :
    Keep q (State.writeClump s p a data) := by
  unfold State.writeClump
  split
  · exact State.writeCore_keep hk
  · exact hk

end Sys2Proof.Machine
end

