-- ==== Sys2Proof/Laws/KeepBinders.lean ====
section
/-! SUPPORT. Every operation of Binders keeps the invariant and the queue. -/

namespace Sys2Proof.Machine

variable {q : List Instr}

theorem State.dmaFail_keep {s : State} {c status fault : Nat} {lead : Option Nat} {exhausted : Bool} (hk : Keep q s) :
    Keep q (State.dmaFail s c status fault lead exhausted) := by
  unfold State.dmaFail
  split
  · exact hk
  · split
    · exact State.setChan_keep hk
    · extract_lets +onlyGivenNames x1 x2 x3
      clear_value x1 x2 x3
      exact keep_foldl (fun s4 x5 h6 => State.sbReleaseOwner_keep h6) (State.setChan_keep hk)

theorem State.answer_keep {s : State} {o : Origin} {status : Nat} (hk : Keep q s) : Keep q (State.answer s o status) := by
  unfold State.answer
  split
  · exact State.postAnswered_keep hk
  · split
    · exact hk
    · exact State.dmaFail_keep hk
  · split
    · exact State.completeWork_keep hk
    · exact hk
  · exact hk

theorem State.queueOut_keep {s : State} {i : Nat} {x : BOut} (hk : Keep q s) : Keep q (State.queueOut s i x) := by
  unfold State.queueOut
  extract_lets +onlyGivenNames x1
  clear_value x1
  split
  · exact State.addFld_keep (State.setLink_keep hk)
  · split
    · exact State.setLink_keep hk
    · exact State.setLink_keep hk

theorem State.sendBinder_keep {s : State} {address op value : Nat} {o : Origin} (hk : Keep q s) :
    Keep q (State.sendBinder s address op value o) := by
  unfold State.sendBinder
  split
  · exact State.addFld_keep hk
  · exact State.queueOut_keep hk

theorem State.sendUnit_keep {s : State} {b k address op value : Nat} (hk : Keep q s) :
    Keep q (State.sendUnit s b k address op value) := by
  unfold State.sendUnit
  split
  · exact State.addFld_keep hk
  · extract_lets +onlyGivenNames x1 x2
    clear_value x1 x2
    split
    · exact State.addFld_keep (State.setLink_keep hk)
    · split
      · exact State.setLink_keep hk
      · extract_lets +onlyGivenNames x3
        clear_value x3
        split
        · exact State.setBinder_keep hk
        · exact State.setBinder_keep hk

theorem State.completeAwaits_keep {s : State} {b : Nat} (hk : Keep q s) : Keep q (State.completeAwaits s b) := by
  unfold State.completeAwaits
  extract_lets +onlyGivenNames x1 x2
  clear_value x1 x2
  exact keep_foldl (fun s3 x4 h5 => keep_foldl (fun s6 x7 h8 => State.completeWork_keep h8) h5) hk

theorem State.release_keep {s : State} {b : Nat} (hk : Keep q s) : Keep q (State.release s b) := by
  unfold State.release
  extract_lets +onlyGivenNames x1
  have h2 : Keep q x1 := State.addFld_keep hk
  clear_value x1
  extract_lets +onlyGivenNames x3 x4
  clear_value x3 x4
  extract_lets +onlyGivenNames x5
  have h6 : Keep q x5 := by
    unfold x5
    refine keep_foldl ?_ h2
    intro s7 x8 h9
    split
    · exact State.signal_keep h9
    · exact h9
  clear_value x5
  extract_lets +onlyGivenNames x10
  have h11 : Keep q x10 := State.setBinder_keep h6
  clear_value x10
  extract_lets +onlyGivenNames x12
  have h13 : Keep q x12 := State.completeAwaits_keep h11
  clear_value x12
  refine keep_foldl ?_ h13
  intro s14 x15 h16
  split
  · exact keep_of h16 rfl rfl rfl rfl rfl rfl
  · exact State.sendUnit_keep h16

theorem State.fire_keep {s : State} {b : Nat} (hk : Keep q s) : Keep q (State.fire s b) := by
  unfold State.fire
  extract_lets +onlyGivenNames x1
  have h2 : Keep q x1 := State.addFld_keep hk
  clear_value x1
  extract_lets +onlyGivenNames x3
  clear_value x3
  split
  · exact State.release_keep h2
  · extract_lets +onlyGivenNames x4
    have h5 : Keep q x4 := State.addFld_keep h2
    clear_value x4
    split
    · exact keep_of h5 rfl rfl rfl rfl rfl rfl
    · exact State.sendUnit_keep h5

theorem State.binderAdd_keep {s : State} {b v : Nat} (hk : Keep q s) : Keep q (State.binderAdd s b v) := by
  unfold State.binderAdd
  extract_lets +onlyGivenNames x1
  have h2 : Keep q x1 := State.addFld_keep hk
  clear_value x1
  extract_lets +onlyGivenNames x3 x4 x5 x6
  clear_value x3 x4 x5 x6
  exact keep_foldl (fun s7 h8 h9 => State.fire_keep h9) h2

theorem State.rolePulse_keep {s : State} {r value : Nat} (hk : Keep q s) : Keep q (State.rolePulse s r value).1 := by
  unfold State.rolePulse
  split
  · exact hk
  · extract_lets +onlyGivenNames x1
    clear_value x1
    split
    · exact State.addFld_keep hk
    · extract_lets +onlyGivenNames x2
      clear_value x2
      split
      · exact hk
      · extract_lets +onlyGivenNames x3
        have h4 : Keep q x3 := State.addFld_keep (State.setFld_keep hk)
        clear_value x3
        exact keep_foldl (fun s5 x6 h7 => State.signal_keep h7) h4

theorem State.binderOp_keep {s : State} {x : BOp} (hk : Keep q s) : Keep q (State.binderOp s x).1 := by
  unfold State.binderOp
  extract_lets +onlyGivenNames x1 x2
  clear_value x1 x2
  extract_lets +onlyGivenNames x3
  have h4 : ∀ y0 y1, Keep q y0 → Keep q (x3 y0 y1).1 := fun y5 y6 h7 => State.addFld_keep h7
  clear_value x3
  split
  · split
    · have h8 := keep_fst (State.rolePulse_keep hk) (by assumption)
      split
      · have h9 := keep_fst (State.rolePulse_keep hk) (by assumption)
        exact h8
      · have h10 := keep_fst (State.rolePulse_keep hk) (by assumption)
        exact h4 _ _ h8
  · split
    · exact h4 _ _ hk
    · split
      · split
        · exact h4 _ _ hk
        · exact State.binderAdd_keep hk
      · split
        · split
          · exact h4 _ _ hk
          · exact State.binderAdd_keep hk
        · split
          · split
            · exact h4 _ _ hk
            · split
              · exact h4 _ _ hk
              · exact State.setFld_keep (State.setFld_keep hk)
          · split
            · split
              · split
                · exact h4 _ _ hk
                · split
                  · exact State.signal_keep hk
                  · split
                    · exact h4 _ _ hk
                    · extract_lets +onlyGivenNames x11
                      clear_value x11
                      exact State.setBinder_keep hk
              · exact h4 _ _ hk
            · split
              · split
                · exact h4 _ _ hk
                · exact State.release_keep (State.setFld_keep hk)
              · exact h4 _ _ hk

theorem State.drain_keep {s : State} {x1 : Nat} (hk : Keep q s) : Keep q (State.drain s x1) := by
  induction x1 generalizing s with
  | zero =>
    unfold State.drain
    exact hk
  | succ n ih =>
    unfold State.drain
    split
    · exact hk
    · extract_lets +onlyGivenNames x1
      have h2 : Keep q x1.1 := State.binderOp_keep (keep_of hk rfl rfl rfl rfl rfl rfl)
      clear_value x1
      exact ih (State.answer_keep h2)

theorem State.unitWork_keep {s : State} (hk : Keep q s) : Keep q (State.unitWork s) :=
  State.drain_keep hk

theorem State.issueBinder_keep {s : State} {address value : Nat} {o : Origin} (hk : Keep q s) :
    Keep q (State.issueBinder s address value o) := by
  unfold State.issueBinder
  extract_lets +onlyGivenNames x1
  clear_value x1
  split
  · exact State.answer_keep (State.addFld_keep hk)
  · split
    · extract_lets +onlyGivenNames x2
      have h3 : Keep q x2.1 := State.binderOp_keep hk
      clear_value x2
      exact State.unitWork_keep (State.answer_keep h3)
    · split
      · exact State.answer_keep (State.addFld_keep hk)
      · split
        · exact State.sendBinder_keep hk
        · split
          · exact State.sendBinder_keep hk
          · split
            · exact State.sendBinder_keep hk
            · exact State.answer_keep (State.addFld_keep hk)

end Sys2Proof.Machine
end

