-- ==== Sys2Proof/Laws/KeepDmaEntries.lean ====
section
/-! SUPPORT. Every operation of DmaEntries keeps the invariant and the queue. -/

namespace Sys2Proof.Machine

variable {q : List Instr}

theorem State.dmaData_keep {s : State} {c beat : Nat} {data : List Byte} (hk : Keep q s) :
    Keep q (State.dmaData s c beat data) := by
  unfold State.dmaData
  split
  · exact hk
  · extract_lets +onlyGivenNames x1
    clear_value x1
    exact State.setChan_keep hk

theorem State.dmaEnterOne_keep {s : State} {c p : Nat} (hk : Keep q s) : Keep q (State.dmaEnterOne s c p) := by
  unfold State.dmaEnterOne
  split
  · exact hk
  · split
    · split
      · extract_lets +onlyGivenNames x1
        clear_value x1
        extract_lets +onlyGivenNames x2
        have h3 : Keep q x2 := State.sbEnter_keep hk
        clear_value x2
        exact State.setChan_keep h3
      · exact hk
    · exact hk

theorem State.dmaEnterAll_keep {s : State} {p : Nat} (hk : Keep q s) : Keep q (State.dmaEnterAll s p) :=
  keep_foldl (fun _ _ h3 => State.dmaEnterOne_keep h3) hk

end Sys2Proof.Machine
end

