-- ==== Sys2Proof/Laws/KeepQueues.lean ====
section
/-! SUPPORT. Every operation of Queues keeps the invariant and the queue. -/

namespace Sys2Proof.Machine

variable {q : List Instr}

theorem State.setChState_keep {s : State} {c v : Nat} (hk : Keep q s) : Keep q (State.setChState s c v) :=
  State.setFld_keep hk

theorem State.pauseChan_keep {s : State} {c : Nat} (hk : Keep q s) : Keep q (State.pauseChan s c) := by
  unfold State.pauseChan
  extract_lets +onlyGivenNames x1
  clear_value x1
  split
  · exact State.setChState_keep hk
  · split
    · exact State.setChState_keep hk
    · split
      · exact State.setChan_keep hk
      · exact hk

theorem State.resumeChan_keep {s : State} {c : Nat} (hk : Keep q s) : Keep q (State.resumeChan s c) := by
  unfold State.resumeChan
  extract_lets +onlyGivenNames x1
  clear_value x1
  split
  · exact State.setChState_keep hk
  · split
    · exact State.setChState_keep hk
    · split
      · exact State.setChan_keep hk
      · exact hk

theorem State.restartChan_keep {s : State} {c : Nat} (hk : Keep q s) : Keep q (State.restartChan s c) := by
  unfold State.restartChan
  split
  · exact State.setChState_keep hk
  · exact hk

theorem State.doorbell_keep {s : State} {q0 reg value : Nat} (hk : Keep q s) :
    Keep q (State.doorbell s q0 reg value).1 := by
  unfold State.doorbell
  extract_lets +onlyGivenNames x1 x2
  clear_value x1 x2
  extract_lets +onlyGivenNames x3
  have h4 : ∀ y0, Keep q (x3 y0).1 := fun y5 => State.addFld_keep hk
  clear_value x3
  split
  · exact hk
  · split
    · exact h4 _
    · split
      · exact h4 _
      · split
        · exact hk
        · split
          · extract_lets +onlyGivenNames x6
            clear_value x6
            split
            · exact h4 _
            · extract_lets +onlyGivenNames x7 x8
              clear_value x7 x8
              extract_lets +onlyGivenNames x9
              have h10 : Keep q x9 := State.setQueue_keep (keep_of hk rfl rfl rfl rfl rfl rfl)
              clear_value x9
              extract_lets +onlyGivenNames x11
              have h12 : Keep q x11 := State.setFld_keep h10
              clear_value x11
              extract_lets +onlyGivenNames x13
              clear_value x13
              extract_lets +onlyGivenNames x14
              have h15 : Keep q x14 := by
                unfold x14
                split
                · exact State.setChan_keep h12
                · exact h12
              clear_value x14
              exact h15
          · split
            · split
              · exact h4 _
              · exact State.releaseHeld_keep (State.setFld_keep hk)
            · split
              · split
                · exact h4 _
                · extract_lets +onlyGivenNames x16
                  clear_value x16
                  extract_lets +onlyGivenNames x17
                  have h18 : Keep q x17 := by
                    unfold x17
                    split
                    · exact State.pauseChan_keep hk
                    · exact hk
                  clear_value x17
                  extract_lets +onlyGivenNames x19
                  have h20 : Keep q x19 := by
                    unfold x19
                    split
                    · exact State.resumeChan_keep h18
                    · exact h18
                  clear_value x19
                  dsimp -zeta only
                  split
                  · exact State.restartChan_keep h20
                  · exact h20
              · exact h4 _

theorem State.deliver_keep {s : State} {src : Agent} {status : Nat} (hk : Keep q s) :
    Keep q (State.deliver s src status) := by
  unfold State.deliver
  split
  · split
    · split
      · exact hk
      · exact State.satFld_keep (State.setFld_keep hk)
    · exact hk
  · exact State.answer_keep hk
  · exact hk

theorem execDoorbellTail_keep {src : Agent} {q0 : CtxNo} {value : Word} {s : State} (hk : Keep q s) :
    KeepOut q (execDoorbellTail src q0 value s) := by
  unfold execDoorbellTail
  extract_lets +onlyGivenNames x1
  have h2 : Keep q x1.1 := State.doorbell_keep hk
  clear_value x1
  exact keepOut_next (State.unitWork_keep (State.deliver_keep h2))

theorem execDoorbellHead_keep {src : Agent} {q0 : CtxNo} {value : Word} {s : State} (hk : Keep q s) :
    KeepOut q (execDoorbellHead src q0 value s) := by
  unfold execDoorbellHead
  extract_lets +onlyGivenNames x1
  have h2 : Keep q x1.1 := State.doorbell_keep hk
  clear_value x1
  exact keepOut_next (State.unitWork_keep (State.deliver_keep h2))

theorem execPause_keep {src : Agent} {q0 : CtxNo} {value : Word} {s : State} (hk : Keep q s) :
    KeepOut q (execPause src q0 value s) := by
  unfold execPause
  extract_lets +onlyGivenNames x1
  have h2 : Keep q x1.1 := State.doorbell_keep hk
  clear_value x1
  exact keepOut_next (State.deliver_keep h2)

theorem execResume_keep {src : Agent} {q0 : CtxNo} {value : Word} {s : State} (hk : Keep q s) :
    KeepOut q (execResume src q0 value s) := by
  unfold execResume
  extract_lets +onlyGivenNames x1
  have h2 : Keep q x1.1 := State.doorbell_keep hk
  clear_value x1
  exact keepOut_next (State.deliver_keep h2)

theorem execRestart_keep {src : Agent} {q0 : CtxNo} {value : Word} {s : State} (hk : Keep q s) :
    KeepOut q (execRestart src q0 value s) := by
  unfold execRestart
  extract_lets +onlyGivenNames x1
  have h2 : Keep q x1.1 := State.doorbell_keep hk
  clear_value x1
  exact keepOut_next (State.deliver_keep h2)

end Sys2Proof.Machine
end

