-- ==== Sys2Proof/Laws/KeepInbound.lean ====
section
/-! SUPPORT. Every operation of Inbound keeps the invariant and the queue. -/

namespace Sys2Proof.Machine

variable {q : List Instr}

theorem State.countWindow_keep {s : State} {w n : Nat} (hk : Keep q s) : Keep q (State.countWindow s w n) := by
  unfold State.countWindow
  split
  · extract_lets +onlyGivenNames x1
    clear_value x1
    exact State.unitWork_keep (keep_of hk rfl rfl rfl rfl rfl rfl)
  · exact hk

theorem State.answerWrite_keep {s : State} {w : InWrite} {status : Nat} (hk : Keep q s) :
    Keep q (State.answerWrite s w status) := by
  unfold State.answerWrite
  split
  · split
    · exact hk
    · exact State.sendOn_keep hk
  · exact State.postAnswered_keep hk
  · split
    · exact State.recordLanded_keep hk
    · exact State.recordRejected_keep hk
  · split
    · exact State.recordLanded_keep hk
    · exact State.eventRejected_keep hk
  · split
    · exact hk
    · exact State.answer_keep hk

theorem State.deliverLoad_keepO {s t : State} {load : RowLoad} (hk : Keep q s)
    (h : s.deliverLoad load = some (.inl t)) : Keep q t := by
  unfold State.deliverLoad at h
  split at h
  · dsimp only at h
    split at h
    · cases h; exact State.setCore_keep hk
    · cases h
  · dsimp only at h
    split at h
    · cases h; exact State.setCore_keep hk
    · cases h
  · dsimp only at h
    split at h
    · split at h
      · simp at h
      · split at h
        · cases h
          exact State.answerWrite_keep (State.countWindow_keep (keep_of hk rfl rfl rfl rfl rfl rfl))
        · cases h
    · simp at h
  · cases h; exact State.sendOn_keep hk
  · cases h; exact State.dmaData_keep hk

theorem State.deliverPass_keep {s : State} {c : Nat} {kept x3 : List OpenRow} (hk : Keep q s) :
    Keep q (State.deliverPass s c kept x3).1 := by
  induction x3 generalizing s kept with
  | nil =>
    unfold State.deliverPass
    exact hk
  | cons y l ih =>
    unfold State.deliverPass
    split
    · exact ih hk
    · split
      · exact ih hk
      · have h1 := State.deliverLoad_keepO hk (by assumption)
        exact ih h1
      · exact ih hk
      · exact ih hk

theorem State.settleRouter_keep {s : State} {c : Nat} (hk : Keep q s) : Keep q (State.settleRouter s c) := by
  unfold State.settleRouter
  extract_lets +onlyGivenNames x1
  clear_value x1
  split
  · extract_lets +onlyGivenNames x2
    have h3 : Keep q x2.1 := State.deliverPass_keep hk
    clear_value x2
    exact State.setRouter_keep h3
  · exact hk

theorem State.sendRow_keep {s : State} {c : Nat} {o : OpenRow} (hk : Keep q s) : Keep q (State.sendRow s c o) := by
  unfold State.sendRow
  extract_lets +onlyGivenNames x1
  clear_value x1
  exact State.settleRouter_keep (State.setRouter_keep hk)

theorem State.acceptWrite_keep {s : State} {home : Option Nat} {c p off : Nat} {data : List Byte} {o : Origin} {tag : Nat} {window : Option Nat} {ack : Bool} (hk : Keep q s) :
    Keep q (State.acceptWrite s home c p off data o tag window ack) := by
  unfold State.acceptWrite
  extract_lets +onlyGivenNames x1
  clear_value x1
  exact State.sendRow_keep (keep_of hk rfl rfl rfl rfl rfl rfl)

theorem State.acceptRead_keep {s : State} {home : Option Nat} {c p off len : Nat} {dest : ReadFor} (hk : Keep q s) :
    Keep q (State.acceptRead s home c p off len dest) := by
  unfold State.acceptRead
  extract_lets +onlyGivenNames x1
  clear_value x1
  exact State.sendRow_keep (keep_of hk rfl rfl rfl rfl rfl rfl)

theorem State.notePd_keep {s : State} {p status : Nat} (hk : Keep q s) : Keep q (State.notePd s p status) := by
  unfold State.notePd
  split
  · exact State.addFld_keep hk
  · exact hk

theorem State.settleBacks_keep {s : State} {i : Nat} (hk : Keep q s) : Keep q (State.settleBacks s i) := by
  unfold State.settleBacks
  extract_lets +onlyGivenNames x1 x2 x3
  clear_value x1 x2 x3
  split
  · exact hk
  · exact keep_foldl (fun s4 x5 h6 => State.sendOn_keep h6) (State.setLink_keep hk)

theorem State.windowNak_keep {s : State} {w status : Nat} (hk : Keep q s) : Keep q (State.windowNak s w status) := by
  unfold State.windowNak
  split
  · exact State.addFld_keep hk
  · split
    · exact State.addFld_keep hk
    · exact State.addFld_keep hk

theorem State.windowWrite_keep {s : State} {home : Option Nat} {c a : Nat} {data : List Byte} {season : Option Nat} {o : Origin} {tag : Nat} {ack : optParam Bool false} (hk : Keep q s) :
    Keep q (State.windowWrite s home c a data season o tag ack).1 := by
  unfold State.windowWrite
  extract_lets +onlyGivenNames x1 x2
  clear_value x1 x2
  split
  · exact State.addFld_keep hk
  · extract_lets +onlyGivenNames x3 x4 x5
    clear_value x3 x4 x5
    split
    · exact State.addFld_keep (State.windowNak_keep hk)
    · split
      · extract_lets +onlyGivenNames x6
        have h7 : Keep q x6 := State.windowNak_keep hk
        clear_value x6
        dsimp -zeta only
        split
        · exact State.notePd_keep h7
        · exact h7
      · extract_lets +onlyGivenNames x8
        have h9 : Keep q x8 := State.addFld_keep (State.addFld_keep hk)
        clear_value x8
        extract_lets +onlyGivenNames x10
        have h11 : Keep q x10 := by
          unfold x10
          split
          · exact State.addFld_keep h9
          · exact h9
        clear_value x10
        split
        · extract_lets +onlyGivenNames x12 x13
          clear_value x12 x13
          exact State.sendRow_keep (keep_of h11 rfl rfl rfl rfl rfl rfl)
        · split
          · exact h11
          · split
            · exact State.notePd_keep h11
            · have h14 := State.meetCore_keepO h11 (by assumption)
              exact State.acceptWrite_keep h14

theorem State.coreWrite_keep {s : State} {home : Option Nat} {c a : Nat} {data : List Byte} {o : Origin} {tag : Nat} {ack : optParam Bool false} (hk : Keep q s) :
    Keep q (State.coreWrite s home c a data o tag ack).1 := by
  unfold State.coreWrite
  split
  · exact hk
  · split
    · exact State.notePd_keep hk
    · have h1 := State.meetCore_keepO hk (by assumption)
      exact State.acceptWrite_keep h1

end Sys2Proof.Machine
end

