-- ==== Sys2Proof/Laws/KeepSequencer.lean ====
section
/-! SUPPORT. Every operation of Sequencer keeps the invariant and the queue. -/

namespace Sys2Proof.Machine

variable {q : List Instr}

theorem State.sqLoad_keep {s : State} {p a n : Nat} {port : PortEvent} {put : State → List Byte → State} (hk : Keep q s) (hput : ∀ y0 y1, Keep q y0 → Keep q (put y0 y1)) :
    Keep q (State.sqLoad s p a n port put) := by
  unfold State.sqLoad
  split
  · exact State.fatal_keep hk
  · split
    · exact State.fatal_keep hk
    · exact State.nextPc_keep (hput _ _ (State.recordError_keep hk))
    · extract_lets +onlyGivenNames x1
      have h2 : Keep q x1.1 := State.port_keep hk
      clear_value x1
      split
      · exact State.fatal_keep h2
      · exact State.nextPc_keep (hput _ _ h2)

theorem State.sqStore_keep {s : State} {p a : Nat} {data : List Byte} {port : PortEvent} (hk : Keep q s) :
    Keep q (State.sqStore s p a data port) := by
  unfold State.sqStore
  split
  · exact State.fatal_keep hk
  · split
    · exact State.fatal_keep hk
    · exact State.nextPc_keep (State.recordError_keep hk)
    · exact State.nextPc_keep (State.writeCore_keep (State.port_keep hk))

theorem execLd32_keep {c : CoreNo} {sd sa : SReg} {imm : BitVec 16} {port : PortEvent} {s : State} (hk : Keep q s) :
    KeepOut q (execLd32 c sd sa imm port s) := by
  unfold execLd32
  refine keepOut_next ?_
  split
  · exact State.sqLoad_keep hk (fun s1 x2 h3 => State.setSreg_keep h3)
  · exact hk

theorem execLd64_keep {c : CoreNo} {sd sa : SReg} {imm : BitVec 16} {port : PortEvent} {s : State} (hk : Keep q s) :
    KeepOut q (execLd64 c sd sa imm port s) := by
  unfold execLd64
  refine keepOut_next ?_
  split
  · split
    · exact State.fatal_keep hk
    · exact State.sqLoad_keep hk (fun s1 x2 h3 => State.setSreg_keep (State.setSreg_keep h3))
  · exact hk

theorem execSt32_keep {c : CoreNo} {sd sa : SReg} {imm : BitVec 16} {port : PortEvent} {s : State} (hk : Keep q s) :
    KeepOut q (execSt32 c sd sa imm port s) := by
  unfold execSt32
  refine keepOut_next ?_
  split
  · exact State.sqStore_keep hk
  · exact hk

theorem execSt64_keep {c : CoreNo} {sd sa : SReg} {imm : BitVec 16} {port : PortEvent} {s : State} (hk : Keep q s) :
    KeepOut q (execSt64 c sd sa imm port s) := by
  unfold execSt64
  refine keepOut_next ?_
  split
  · split
    · exact State.fatal_keep hk
    · exact State.sqStore_keep hk
  · exact hk

theorem execFence_keep {c : CoreNo} {mx vx post store : Bool} {s : State} (hk : Keep q s) :
    KeepOut q (execFence c mx vx post store s) := by
  unfold execFence
  refine keepOut_next ?_
  split
  · extract_lets +onlyGivenNames x1
    clear_value x1
    split
    · exact State.nextPc_keep (State.setCoreState_keep hk)
    · exact State.setCoreState_keep hk
  · exact hk

theorem execEnd_keep {c : CoreNo} {s : State} (hk : Keep q s) : KeepOut q (execEnd c s) := by
  unfold execEnd
  refine keepOut_next ?_
  split
  · split
    · exact State.unitWork_keep (State.settleKernels_keep (State.setCoreState_keep (State.sbClear_keep hk)))
    · exact State.setCoreState_keep hk
  · exact hk

theorem State.endWait_keep {s : State} {p : Nat} {w : WaitReq} (hk : Keep q s) : Keep q (State.endWait s p w) := by
  unfold State.endWait
  extract_lets +onlyGivenNames x1
  have h2 : Keep q x1 := by
    unfold x1
    split
    · exact State.clearEvents_keep hk
    · exact hk
  clear_value x1
  exact State.nextPc_keep (State.setCoreState_keep (State.setCore_keep h2))

theorem State.loseBanks_keep {s : State} {p target : Nat} (hk : Keep q s) : Keep q (s.loseBanks p target) := by
  unfold State.loseBanks
  extract_lets keep
  clear_value keep
  refine keep_foldl (fun s b h => ?_) hk
  split
  · exact h
  · exact State.drew_keep (lose_keep _ _ h)

theorem execWait_keep {c : CoreNo} {sa : SReg} {all clear power : Bool} {imm early gap : BitVec 16} {s : State} (hk : Keep q s) :
    KeepOut q (execWait c sa all clear power imm early gap s) := by
  unfold execWait
  refine keepOut_next ?_
  split
  · extract_lets +onlyGivenNames x1
    clear_value x1
    extract_lets +onlyGivenNames x2
    have h3 : ∀ y0, Keep q y0 → Keep q (x2 y0) := fun y4 h5 => State.setCoreState_keep (State.setCore_keep h5)
    clear_value x2
    extract_lets +onlyGivenNames x6
    have h7 : ∀ y0, Keep q y0 → Keep q (x6 y0) := by
      intro y8 h9
      unfold x6
      split
      · exact State.endWait_keep h9
      · exact h3 _ h9
    clear_value x6
    extract_lets +onlyGivenNames x10
    have h11 : ∀ y0 y1, Keep q y0 → Keep q (x10 y0 y1) := fun y12 y13 h14 => keep_foldl (fun s15 x16 h17 => State.signal_keep h17) h14
    clear_value x10
    split
    · exact State.fatal_keep hk
    · split
      · exact h7 _ hk
      · split
        · exact h7 _ (State.satFld_keep hk)
        · extract_lets +onlyGivenNames x18 x19
          clear_value x18 x19
          split
          · exact h7 _ (h11 _ _ (State.satFld_keep (State.setFld_keep hk)))
          · split
            · exact h7 _ (State.satFld_keep (h11 _ _ hk))
            · extract_lets +onlyGivenNames x20
              have h21 : Keep q x20 := h11 _ _ hk
              clear_value x20
              extract_lets +onlyGivenNames x22
              have h23 : Keep q x22 := State.addFld_keep h21
              clear_value x22
              extract_lets +onlyGivenNames x24
              have h25 : Keep q x24 := h11 _ _ h23
              clear_value x24
              extract_lets +onlyGivenNames x26
              have h27 : Keep q x26 := h3 _ h25
              clear_value x26
              split
              · exact State.beginWake_keep (State.setFld_keep h27)
              · split
                · exact State.setFld_keep h27
                · exact State.beginEntry_keep h27
  · exact hk

theorem execCoreWakeEvent_keep {c : CoreNo} {s : State} (hk : Keep q s) : KeepOut q (execCoreWakeEvent c s) := by
  unfold execCoreWakeEvent
  refine keepOut_next ?_
  split
  · exact hk
  · split
    · exact hk
    · split
      · split
        · exact State.endWait_keep hk
        · split
          · exact State.setCore_keep hk
          · exact State.beginWake_keep hk
      · exact hk

theorem execCorTimerMatch_keep {c : CoreNo} {s : State} (hk : Keep q s) : KeepOut q (execCorTimerMatch c s) := by
  unfold execCorTimerMatch
  refine keepOut_next ?_
  split
  · split
    · exact State.signal_keep (State.setFld_keep hk)
    · exact hk
  · exact hk

end Sys2Proof.Machine
end

