-- ==== Sys2Proof/Laws/KeepMatrix.lean ====
section
/-! SUPPORT. Every operation of Matrix keeps the invariant and the queue. -/

namespace Sys2Proof.Machine

variable {q : List Instr}

theorem State.meetClump_keep {s : State} {p : Nat} {qs : List Nat} {pc : Nat} (hk : Keep q s) :
    Keep q (State.meetClump s p qs pc).1 := by
  unfold State.meetClump
  dsimp -zeta only
  refine keep_foldl ?_ hk
  intro s1 x2 h3
  split
  · exact State.recordError_keep h3
  · exact h3

theorem State.guardNote_keep {s : State} {p tiles : Nat} {w : MxWork} (hk : Keep q s) :
    Keep q (State.guardNote s p tiles w) := by
  unfold State.guardNote
  extract_lets +onlyGivenNames x1
  have h2 : Keep q x1 := State.addFld_keep (State.addFld_keep (State.addFld_keep hk))
  clear_value x1
  extract_lets +onlyGivenNames x3
  have h4 : Keep q x3 := State.addFld_keep (State.addFld_keep (State.addFld_keep h2))
  clear_value x3
  extract_lets +onlyGivenNames x5
  have h6 : Keep q x5 := State.addFld_keep (State.addFld_keep h4)
  clear_value x5
  extract_lets +onlyGivenNames x7 x8
  clear_value x7 x8
  extract_lets +onlyGivenNames x9
  have h10 : Keep q x9 := State.setCore_keep h6
  clear_value x9
  extract_lets +onlyGivenNames x11
  have h12 : Keep q x11 := State.addFld_keep h10
  clear_value x11
  split
  · exact h12
  · exact State.signal_keep h12

theorem State.mxRunDesc_keep {s : State} {p : Nat} {q0 : QDesc} {d : MxDesc} (hk : Keep q s) :
    Keep q (State.mxRunDesc s p q0 d) := by
  unfold State.mxRunDesc
  extract_lets +onlyGivenNames x1 x2 x3 x4 x5 x6 x7
  clear_value x1 x2 x3 x4 x5 x6 x7
  extract_lets +onlyGivenNames x8
  have h9 : Keep q x8 := by
    unfold x8
    split
    · exact State.addFld_keep hk
    · exact hk
  clear_value x8
  extract_lets +onlyGivenNames x10
  have h11 : Keep q x10 := State.addFld_keep h9
  clear_value x10
  extract_lets +onlyGivenNames x12
  have h13 : Keep q x12 := State.setFld_keep (State.setFld_keep (State.setFld_keep h11))
  clear_value x12
  extract_lets +onlyGivenNames x14
  have h15 : Keep q x14 := State.setFld_keep h13
  clear_value x14
  extract_lets +onlyGivenNames x16
  clear_value x16
  extract_lets +onlyGivenNames x17
  have h18 : Keep q x17 := State.setCore_keep h15
  clear_value x17
  extract_lets +onlyGivenNames x19
  have h20 : Keep q x19 := State.addFld_keep h18
  clear_value x19
  refine State.drew_keep ?_
  split
  · exact State.guardNote_keep h20
  · exact h20

theorem State.sbReleaseReads_keep {s : State} {p seq : Nat} (hk : Keep q s) : Keep q (State.sbReleaseReads s p seq) :=
  keep_foldl (fun _ _ h3 => State.sbRelease_keep h3) hk

theorem State.landStores_keep {s : State} {p : Nat} {xs : List (Nat × List Byte)} (hk : Keep q s) :
    Keep q (State.landStores s p xs) :=
  keep_foldl (fun _ _ h3 => keep_foldl (fun _ _ h6 => State.writeClump_keep h6) h3) hk

theorem State.enterOne_keep {s : State} {p seq source tag : Nat} {ranges : List (Nat × Nat × Nat)} (hk : Keep q s) :
    Keep q (State.enterOne s p seq source tag ranges) := by
  unfold State.enterOne
  refine keep_foldl ?_ hk
  intro s1 x2 h3
  split
  · exact State.sbEnter_keep h3
  · exact h3

end Sys2Proof.Machine
end

