-- ==== Sys2Proof/Laws/KeepVector.lean ====
section
/-! SUPPORT. Every operation of Vector keeps the invariant and the queue. -/

namespace Sys2Proof.Machine

variable {q : List Instr}

theorem State.vxRunDesc_keep {s : State} {p : Nat} {q0 : QDesc} {d : VxDesc} (hk : Keep q s) :
    Keep q (State.vxRunDesc s p q0 d) := by
  unfold State.vxRunDesc
  extract_lets +onlyGivenNames x1 x2 x3 x4
  clear_value x1 x2 x3 x4
  extract_lets +onlyGivenNames x5
  have h6 : Keep q x5 := State.setFld_keep (State.setFld_keep (State.setFld_keep hk))
  clear_value x5
  extract_lets +onlyGivenNames x7
  have h8 : Keep q x7 := State.setFld_keep (State.setFld_keep h6)
  clear_value x7
  extract_lets +onlyGivenNames x9
  have h10 : Keep q x9 := State.setFld_keep (State.addFld_keep h8)
  clear_value x9
  extract_lets +onlyGivenNames x11
  have h12 : Keep q x11 := State.addFld_keep (State.addFld_keep (State.addFld_keep h10))
  clear_value x11
  extract_lets +onlyGivenNames x13
  clear_value x13
  exact State.drew_keep (State.setCore_keep h12)

end Sys2Proof.Machine
end

