-- ==== Sys2Proof/Laws/KeepIssue.lean ====
section
/-! SUPPORT. Every operation of Issue keeps the invariant and the queue. -/

namespace Sys2Proof.Machine

variable {q : List Instr}

theorem State.enterDescs_keep {s : State} {p x2 : Nat} (hk : Keep q s) : Keep q (State.enterDescs s p x2) := by
  induction x2 generalizing s with
  | zero =>
    unfold State.enterDescs
    exact hk
  | succ n ih =>
    unfold State.enterDescs
    split
    · exact hk
    · extract_lets +onlyGivenNames x1
      clear_value x1
      split
      · exact hk
      · extract_lets +onlyGivenNames x2
        have h3 : Keep q x2 := State.enterOne_keep hk
        clear_value x2
        extract_lets +onlyGivenNames x4
        clear_value x4
        exact ih (State.setCore_keep h3)

theorem State.sbFreed_keep {s : State} {p : Nat} (hk : Keep q s) : Keep q (State.sbFreed s p) := by
  unfold State.sbFreed
  extract_lets +onlyGivenNames x1
  have h2 : Keep q x1 := State.dmaEnterAll_keep hk
  clear_value x1
  split
  · exact h2
  · exact State.enterDescs_keep h2

theorem execIssue_keep {c : CoreNo} {eng : Fin 2} {tag : Fin 64} {notify barrier : Bool} {sa : SReg} {imm : BitVec 10} {port : PortEvent} {s : State} (hk : Keep q s) :
    KeepOut q (execIssue c eng tag notify barrier sa imm port s) := by
  unfold execIssue
  refine keepOut_next ?_
  split
  · exact hk
  · extract_lets +onlyGivenNames x1 x2 x3 x4
    clear_value x1 x2 x3 x4
    split
    · exact State.fatal_keep hk
    · split
      · split
        · exact State.addFld_keep hk
        · extract_lets +onlyGivenNames x5
          have h6 : Keep q x5.1 := State.port_keep hk
          clear_value x5
          extract_lets +onlyGivenNames x7
          have h8 : Keep q x7 := h6
          clear_value x7
          extract_lets +onlyGivenNames x9 x10 x11
          clear_value x9 x10 x11
          split
          · exact State.fatal_keep h8
          · extract_lets +onlyGivenNames x12
            clear_value x12
            split
            · exact State.fatal_keep (State.drew_keep (State.setFld_keep (State.setFld_keep h8)))
            · exact State.sbFreed_keep (State.nextPc_keep (State.setCore_keep h8))
      · split
        · exact State.addFld_keep hk
        · extract_lets +onlyGivenNames x13
          have h14 : Keep q x13.1 := State.port_keep hk
          clear_value x13
          extract_lets +onlyGivenNames x15
          have h16 : Keep q x15 := h14
          clear_value x15
          extract_lets +onlyGivenNames x17 x18 x19
          clear_value x17 x18 x19
          split
          · exact State.fatal_keep h16
          · extract_lets +onlyGivenNames x20
            clear_value x20
            split
            · exact State.fatal_keep (State.drew_keep (State.setFld_keep (State.setFld_keep (State.setFld_keep h16))))
            · exact State.sbFreed_keep (State.nextPc_keep (State.setCore_keep h16))

theorem execSbClaim_keep {c : CoreNo} {kind : Fin 4} {sa sb sd : SReg} {s : State} (hk : Keep q s) :
    KeepOut q (execSbClaim c kind sa sb sd s) := by
  unfold execSbClaim
  refine keepOut_next ?_
  split
  · exact hk
  · extract_lets +onlyGivenNames x1 x2
    clear_value x1 x2
    split
    · exact State.fatal_keep hk
    · split
      · exact State.fatal_keep hk
      · split
        · exact State.addFld_keep hk
        · exact State.nextPc_keep (State.setSreg_keep (State.sbEnter_keep hk))

theorem execSbRelease_keep {c : CoreNo} {sa : SReg} {s : State} (hk : Keep q s) : KeepOut q (execSbRelease c sa s) := by
  unfold execSbRelease
  refine keepOut_next ?_
  split
  · exact hk
  · split
    · exact State.fatal_keep hk
    · exact State.sbFreed_keep (State.nextPc_keep (State.sbRelease_keep hk))

theorem execSbTest_keep {c : CoreNo} {sd : SReg} {s : State} (hk : Keep q s) : KeepOut q (execSbTest c sd s) := by
  unfold execSbTest
  refine keepOut_next ?_
  split
  · exact hk
  · split
    · exact State.fatal_keep hk
    · exact State.nextPc_keep (State.setSreg_keep hk)

theorem State.startMet_keep {s : State} {p unit : Nat} {x : QDesc} {met : List (Fin 4 × PortEvent)} {denied : Bool} (hk : Keep q s) :
    Keep q (State.startMet s p unit x met denied) := by
  unfold State.startMet
  extract_lets +onlyGivenNames x1
  have h2 : Keep q x1.1 := State.ports_keep (State.sbFreed_keep (State.sbReleaseReads_keep hk))
  clear_value x1
  split
  · exact State.fatalAt_keep h2
  · split
    · exact State.fatalAt_keep h2
    · exact h2

theorem execMxeDescStart_keep {c : CoreNo} {met : List (Fin 4 × PortEvent)} {s : State} (hk : Keep q s) :
    KeepOut q (execMxeDescStart c met s) := by
  unfold execMxeDescStart
  refine keepOut_next ?_
  split
  · exact hk
  · split
    · extract_lets +onlyGivenNames x1
      clear_value x1
      split
      · extract_lets +onlyGivenNames x2
        have h3 : Keep q x2.1 := State.meetClump_keep hk
        clear_value x2
        exact State.startMet_keep (State.mxRunDesc_keep h3)
      · exact hk
    · exact hk

theorem execVxeChainStart_keep {c : CoreNo} {met : List (Fin 4 × PortEvent)} {s : State} (hk : Keep q s) :
    KeepOut q (execVxeChainStart c met s) := by
  unfold execVxeChainStart
  refine keepOut_next ?_
  split
  · exact hk
  · split
    · extract_lets +onlyGivenNames x1
      clear_value x1
      split
      · extract_lets +onlyGivenNames x2
        have h3 : Keep q x2.1 := State.meetClump_keep hk
        clear_value x2
        exact State.startMet_keep (State.vxRunDesc_keep h3)
      · exact hk
    · exact hk

theorem State.landRun_keep {s : State} {p unit : Nat} {r : RunDesc} {met : List (Fin 4 × PortEvent)} (hk : Keep q s) :
    Keep q (State.landRun s p unit r met) := by
  unfold State.landRun
  extract_lets +onlyGivenNames x1 x2 x3
  clear_value x1 x2 x3
  extract_lets +onlyGivenNames x4
  have h5 : Keep q x4.1 := State.meetClump_keep hk
  clear_value x4
  extract_lets +onlyGivenNames x6
  have h7 : Keep q x6.1 := State.ports_keep h5
  clear_value x6
  extract_lets +onlyGivenNames x8
  have h9 : Keep q x8 := State.landStores_keep h7
  clear_value x8
  split
  · exact State.fatalAt_keep h9
  · split
    · exact State.fatalAt_keep h9
    · exact h9

theorem State.descDone_keep {s : State} {p unit : Nat} {r : RunDesc} {met : List (Fin 4 × PortEvent)} {event : Nat} (hk : Keep q s) :
    Keep q (State.descDone s p unit r met event) := by
  unfold State.descDone
  extract_lets +onlyGivenNames x1
  have h2 : Keep q x1 := State.landRun_keep hk
  clear_value x1
  extract_lets +onlyGivenNames x3
  have h4 : Keep q x3 := State.setFld_keep (State.sbReleaseOwner_keep h2)
  clear_value x3
  extract_lets +onlyGivenNames x5
  have h6 : Keep q x5 := by
    unfold x5
    split
    · exact State.signal_keep h4
    · exact h4
  clear_value x5
  exact State.drainCheck_keep (State.sbFreed_keep h6)

theorem execMxeDescComplete_keep {c : CoreNo} {met : List (Fin 4 × PortEvent)} {s : State} (hk : Keep q s) :
    KeepOut q (execMxeDescComplete c met s) := by
  unfold execMxeDescComplete
  refine keepOut_next ?_
  split
  · exact hk
  · split
    · exact hk
    · extract_lets +onlyGivenNames x1
      clear_value x1
      extract_lets +onlyGivenNames x2
      have h3 : Keep q x2 := State.setCore_keep hk
      clear_value x2
      extract_lets +onlyGivenNames x4
      have h5 : Keep q x4 := State.addFld_keep (State.addFld_keep h3)
      clear_value x4
      extract_lets +onlyGivenNames x6
      have h7 : Keep q x6 := State.addFld_keep h5
      clear_value x6
      extract_lets +onlyGivenNames x8
      have h9 : Keep q x8 := by
        unfold x8
        split
        · exact h7
        · exact State.setFld_keep (State.setFld_keep (State.setFld_keep h7))
      clear_value x8
      exact State.unitWork_keep (State.descDone_keep h9)

theorem execVxeChainComplete_keep {c : CoreNo} {met : List (Fin 4 × PortEvent)} {s : State} (hk : Keep q s) :
    KeepOut q (execVxeChainComplete c met s) := by
  unfold execVxeChainComplete
  refine keepOut_next ?_
  split
  · exact hk
  · split
    · exact hk
    · extract_lets +onlyGivenNames x1
      clear_value x1
      extract_lets +onlyGivenNames x2
      have h3 : Keep q x2 := State.setCore_keep hk
      clear_value x2
      extract_lets +onlyGivenNames x4
      have h5 : Keep q x4 := State.setFld_keep (State.addFld_keep h3)
      clear_value x4
      extract_lets +onlyGivenNames x6
      have h7 : Keep q x6 := State.setFld_keep h5
      clear_value x6
      exact State.unitWork_keep (State.descDone_keep h7)

end Sys2Proof.Machine
end

