-- ==== Sys2Proof/Laws/KeepDma.lean ====
section
/-! SUPPORT. Every operation of Dma keeps the invariant and the queue. -/

namespace Sys2Proof.Machine

variable {q : List Instr}

theorem State.dmaEnter_keep {s : State} {c : Nat} (hk : Keep q s) : Keep q (State.dmaEnter s c) := by
  unfold State.dmaEnter
  split
  · exact hk
  · extract_lets +onlyGivenNames x1
    have h2 : Keep q x1 := keep_foldl (fun s3 x4 h5 => State.dmaEnterOne_keep h5) hk
    clear_value x1
    exact keep_foldl (fun s6 x7 h8 => State.addFld_keep h8) h2

theorem State.dmaRelease_keep {s : State} {c : Nat} (hk : Keep q s) : Keep q (State.dmaRelease s c) := by
  unfold State.dmaRelease
  split
  · exact hk
  · extract_lets +onlyGivenNames x1
    clear_value x1
    exact keep_foldl (fun s2 x3 h4 => State.sbFreed_keep (State.sbReleaseOwner_keep h4)) (State.setChan_keep hk)

theorem State.dmaWrite_keep {s : State} {c cl a : Nat} {data : List Byte} (hk : Keep q s) :
    Keep q (State.dmaWrite s c cl a data) := by
  unfold State.dmaWrite
  split
  · exact hk
  · extract_lets +onlyGivenNames x1 x2 x3
    clear_value x1 x2 x3
    extract_lets +onlyGivenNames x4
    have h5 : Keep q x4 := State.setChan_keep hk
    clear_value x4
    extract_lets +onlyGivenNames x6
    have h7 : ∀ y0, Keep q y0 → Keep q (x6 y0) := fun y8 h9 => State.addFld_keep h9
    clear_value x6
    extract_lets +onlyGivenNames x10
    have h11 : Keep q x10 := State.setFld_keep h5
    clear_value x10
    extract_lets +onlyGivenNames x12
    clear_value x12
    extract_lets +onlyGivenNames x13
    have h14 : ∀ y0, Keep q y0.1 → Keep q (x13 y0) := by
      intro y15 h16
      unfold x13
      split
      · exact h7 _ h16
      · exact State.dmaFail_keep h16
    clear_value x13
    split
    · exact State.issueBinder_keep (h7 _ h11)
    · split
      · split
        · exact h14 _ (State.coreWrite_keep h11)
        · split
          · exact h14 _ (State.doorbell_keep h11)
          · exact h14 _ (State.windowWrite_keep h11)
      · split
        · exact State.dmaFail_keep h11
        · split
          · exact State.sendOn_keep (h7 _ h11)
          · exact State.dmaFail_keep h11

theorem State.dmaFlush_keep {s : State} {c cl x3 : Nat} (hk : Keep q s) : Keep q (State.dmaFlush s c cl x3) := by
  induction x3 generalizing s with
  | zero =>
    unfold State.dmaFlush
    exact hk
  | succ n ih =>
    unfold State.dmaFlush
    split
    · exact hk
    · extract_lets +onlyGivenNames x1 x2 x3
      clear_value x1 x2 x3
      split
      · exact hk
      · extract_lets +onlyGivenNames x4
        clear_value x4
        extract_lets +onlyGivenNames x5
        have h6 : Keep q x5 := State.setChan_keep hk
        clear_value x5
        exact ih (State.dmaWrite_keep h6)

theorem State.dmaPieces_keep {s : State} {c cl a : Nat} {data : List Byte} {fixed : Bool} (hk : Keep q s) :
    Keep q (State.dmaPieces s c cl a data fixed) := by
  unfold State.dmaPieces
  split
  · exact State.dmaWrite_keep hk
  · extract_lets +onlyGivenNames x1
    clear_value x1
    extract_lets +onlyGivenNames x2
    have h3 : Keep q x2 := State.dmaWrite_keep hk
    clear_value x2
    split
    · exact h3
    · exact State.dmaWrite_keep h3

theorem State.dmaPump_keep {s : State} {c x2 : Nat} (hk : Keep q s) : Keep q (State.dmaPump s c x2) := by
  induction x2 generalizing s with
  | zero =>
    unfold State.dmaPump
    exact hk
  | succ n ih =>
    unfold State.dmaPump
    split
    · exact hk
    · split
      · exact hk
      · extract_lets +onlyGivenNames x1 x2
        clear_value x1 x2
        extract_lets +onlyGivenNames x3
        have h4 : ∀ y0 y1, Keep q y0 → Keep q (x3 y0 y1) := fun y5 y6 h7 => State.setChan_keep h7
        clear_value x3
        split
        · extract_lets +onlyGivenNames x8
          have h9 : Keep q x8 := h4 _ _ hk
          clear_value x8
          extract_lets +onlyGivenNames x10
          have h11 : Keep q x10 := by
            unfold x10
            split
            · exact h9
            · exact State.dmaPieces_keep h9
          clear_value x10
          exact ih h11
        · split
          · exact hk
          · split
            · extract_lets +onlyGivenNames x12
              clear_value x12
              exact ih (State.dmaPieces_keep (h4 _ _ hk))
            · extract_lets +onlyGivenNames x13
              clear_value x13
              extract_lets +onlyGivenNames x14
              have h15 : Keep q x14 := State.setFld_keep hk
              clear_value x14
              exact ih (State.dmaFlush_keep (h4 _ _ h15))

theorem State.haltChan_keep {s : State} {c status idx : Nat} (hk : Keep q s) :
    Keep q (State.haltChan s c status idx) := by
  unfold State.haltChan
  extract_lets +onlyGivenNames x1
  clear_value x1
  exact State.emitQ_keep (State.setChState_keep hk)

theorem State.dmaAfter_keep {s : State} {c : Nat} {r : DmaRun} (hk : Keep q s) : Keep q (State.dmaAfter s c r) := by
  unfold State.dmaAfter
  extract_lets +onlyGivenNames x1
  clear_value x1
  extract_lets +onlyGivenNames x2
  have h3 : Keep q x2 := State.setFld_keep (State.setFld_keep hk)
  clear_value x2
  extract_lets +onlyGivenNames x4
  clear_value x4
  extract_lets +onlyGivenNames x5
  have h6 : Keep q x5 := State.setChan_keep h3
  clear_value x5
  split
  · exact State.setChState_keep h6
  · split
    · exact State.haltChan_keep h6
    · split
      · exact State.setChState_keep h6
      · exact State.setChState_keep h6

theorem State.dmaOwnWrite_keep {s : State} {c a : Nat} {data : List Byte} {core link : Option Nat} {idx : Nat} (hk : Keep q s) :
    Keep q (State.dmaOwnWrite s c a data core link idx).1 := by
  unfold State.dmaOwnWrite
  extract_lets +onlyGivenNames x1
  have h2 : ∀ y0 y1, Keep q y0 → Keep q (x1 y0 y1).1 := by
    intro y3 y4 h5
    unfold x1
    split
    · exact State.notePd_keep h5
    · have h6 := State.meetCore_keepO h5 (by assumption)
      extract_lets +onlyGivenNames x7
      clear_value x7
      exact State.ownWrite_keep h6
  clear_value x1
  split
  · exact h2 _ _ hk
  · split
    · split
      · exact h2 _ _ hk
      · exact hk
    · split
      · exact State.sendOn_keep hk
      · exact hk

theorem State.dmaStep_keep {s : State} {c k x3 : Nat} (hk : Keep q s) : Keep q (State.dmaStep s c k x3) := by
  induction x3 generalizing s c k with
  | zero =>
    unfold State.dmaStep
    exact hk
  | succ n ih =>
    unfold State.dmaStep
    split
    · exact hk
    · extract_lets +onlyGivenNames x1 x2 x3 x4 x5
      clear_value x1 x2 x3 x4 x5
      extract_lets +onlyGivenNames x6
      have h7 : Keep q x6 := State.setChan_keep hk
      clear_value x6
      extract_lets +onlyGivenNames x8
      clear_value x8
      split
      · split
        · extract_lets +onlyGivenNames x9
          have h10 : Keep q x9.1 := State.dmaOwnWrite_keep h7
          clear_value x9
          split
          · exact h10
          · exact ih (State.dmaFail_keep h10)
        · exact ih h7
      · split
        · split
          · exact ih h7
          · extract_lets +onlyGivenNames x11 x12 x13
            clear_value x11 x12 x13
            exact State.postRecord_keep h7
        · split
          · extract_lets +onlyGivenNames x14
            have h15 : Keep q x14 := State.addFld_keep (State.setFld_keep h7)
            clear_value x14
            exact State.dmaOwnWrite_keep h15
          · split
            · split
              · exact State.issueBinder_keep h7
              · exact ih h7
            · exact State.dmaAfter_keep h7

theorem State.dmaAdvance_keep {s : State} {c : Nat} (hk : Keep q s) : Keep q (State.dmaAdvance s c) := by
  unfold State.dmaAdvance
  extract_lets +onlyGivenNames x1
  have h2 : Keep q x1 := State.dmaRelease_keep hk
  clear_value x1
  split
  · exact h2
  · split
    · exact h2
    · split
      · extract_lets +onlyGivenNames x3
        have h4 : Keep q x3 := keep_foldl (fun s5 x6 h7 => State.sbFreed_keep h7) h2
        clear_value x3
        split
        · exact State.dmaStep_keep h4
        · exact h4
      · split
        · extract_lets +onlyGivenNames x8
          clear_value x8
          extract_lets +onlyGivenNames x9
          have h10 : Keep q x9 := State.setChan_keep h2
          clear_value x9
          extract_lets +onlyGivenNames x11
          have h12 : Keep q x11 := State.setChState_keep h10
          clear_value x11
          extract_lets +onlyGivenNames x13
          clear_value x13
          split
          · split
            · exact h12
            · split
              · extract_lets +onlyGivenNames x14
                clear_value x14
                exact State.sendOn_keep h12
              · exact State.dmaStep_keep (State.dmaFail_keep h12)
          · exact h12
        · exact h2

theorem State.dmaReadback_keep {s : State} {c status fault : Nat} (hk : Keep q s) :
    Keep q (State.dmaReadback s c status fault) := by
  unfold State.dmaReadback
  split
  · exact hk
  · split
    · exact hk
    · split
      · exact State.dmaStep_keep hk
      · exact State.dmaStep_keep (State.dmaFail_keep hk)

theorem execDmaDescriptorStart_keep {e : EngNo} {j : ChanNo} {desc : Fetched} {port : PortEvent} {s : State} (hk : Keep q s) :
    KeepOut q (execDmaDescriptorStart e j desc port s) := by
  unfold execDmaDescriptorStart
  extract_lets +onlyGivenNames x1 x2 x3
  clear_value x1 x2 x3
  refine keepOut_next ?_
  split
  · exact hk
  · extract_lets +onlyGivenNames x4
    clear_value x4
    extract_lets +onlyGivenNames x5
    have h6 : Keep q x5.1 := by
      unfold x5
      split
      · split
        · have h7 := State.meetCore_keepO hk (by assumption)
          exact h7
        · exact State.notePd_keep hk
      · exact hk
    clear_value x5
    extract_lets +onlyGivenNames x8
    have h9 : Keep q x8 := h6
    clear_value x8
    extract_lets +onlyGivenNames x10 x11
    clear_value x10 x11
    extract_lets +onlyGivenNames x12
    have h13 : Keep q x12.1 := by
      unfold x12
      split
      · split
        · exact State.port_keep h9
        · exact h9
      · exact h9
    clear_value x12
    extract_lets +onlyGivenNames x14
    have h15 : Keep q x14 := h13
    clear_value x14
    extract_lets +onlyGivenNames x16
    clear_value x16
    split
    · exact h15
    · split
      · exact State.haltChan_keep h15
      · split
        · exact State.setFld_keep (State.setChan_keep h15)
        · extract_lets +onlyGivenNames x17
          clear_value x17
          extract_lets +onlyGivenNames x18
          extract_lets +onlyGivenNames x19
          have h20 : Keep q x19 := by
            unfold x19
            split
            · exact State.setFld_keep h15
            · exact h15
          clear_value x19
          extract_lets +onlyGivenNames x21
          have h22 : Keep q x21 := State.setFld_keep (State.setFld_keep (State.setFld_keep h20))
          clear_value x21
          extract_lets +onlyGivenNames x23
          have h24 : Keep q x23 := State.setFld_keep (State.setChState_keep h22)
          clear_value x23
          extract_lets +onlyGivenNames x25
          have h26 : ∀ y0 y1, Keep q y0 → Keep q (x25 y0 y1) := fun y27 y28 h29 => State.setChan_keep h29
          clear_value x25
          extract_lets +onlyGivenNames x30
          clear_value x30
          split
          · extract_lets +onlyGivenNames x31
            clear_value x31
            extract_lets +onlyGivenNames x32
            have h33 : Keep q x32 := State.addFld_keep h24
            clear_value x32
            exact State.unitWork_keep (State.dmaAdvance_keep (State.dmaFail_keep (h26 _ _ h33)))
          · extract_lets +onlyGivenNames x34 x35
            clear_value x34 x35
            split
            · exact State.unitWork_keep (State.dmaAdvance_keep (State.dmaFail_keep (h26 _ _ h24)))
            · extract_lets +onlyGivenNames x36
              clear_value x36
              exact State.dmaEnter_keep (h26 _ _ h24)

theorem State.dmaIssue_keep {s : State} {c : Nat} (hk : Keep q s) : Keep q (State.dmaIssue s c) := by
  unfold State.dmaIssue
  split
  · exact hk
  · extract_lets +onlyGivenNames x1 x2 x3 x4 x5 x6
    clear_value x1 x2 x3 x4 x5 x6
    extract_lets +onlyGivenNames x7
    have h8 : Keep q x7 := State.setFld_keep hk
    clear_value x7
    extract_lets +onlyGivenNames x9
    have h10 : Keep q x9 := State.addFld_keep (State.setFld_keep h8)
    clear_value x9
    extract_lets +onlyGivenNames x11
    clear_value x11
    extract_lets +onlyGivenNames x12
    have h13 : ∀ y0 y1, Keep q y0 → Keep q (x12 y0 y1) := fun y14 y15 h16 => State.setChan_keep h16
    clear_value x12
    split
    · split
      · exact h10
      · split
        · exact State.dmaFail_keep (State.notePd_keep (h13 _ _ h10))
        · have h17 := State.meetCore_keepO h10 (by assumption)
          exact State.acceptRead_keep (h13 _ _ h17)
    · split
      · exact State.dmaFail_keep (h13 _ _ h10)
      · exact State.sendOn_keep (h13 _ _ h10)

theorem State.dmaLose_keep {s : State} {c k : Nat} (hk : Keep q s) : Keep q (State.dmaLose s c k) := by
  unfold State.dmaLose
  split
  · exact hk
  · extract_lets +onlyGivenNames x1
    clear_value x1
    exact State.setChan_keep hk

theorem State.dmaGrant_keep {s : State} {e fuel pr n : Nat} {used : List Nat} (hk : Keep q s) :
    Keep q (s.dmaGrant e fuel pr n used).1 := by
  induction fuel generalizing s pr n used with
  | zero => simpa only [State.dmaGrant] using hk
  | succ fuel ih =>
    cases n with
    | zero => simpa only [State.dmaGrant] using hk
    | succ n =>
      unfold State.dmaGrant
      extract_lets last ready
      clear_value ready last
      split
      · split
        · exact hk
        · exact ih hk
      · extract_lets c k s1 s2
        have h1 : Keep q s1 := State.dmaIssue_keep (keep_of hk rfl rfl rfl rfl rfl rfl)
        clear_value s1 k
        refine ih ?_
        unfold s2
        split
        · split
          · exact State.dmaLose_keep h1
          · exact h1
        · exact h1

theorem State.dmaAdvanceAll_keep {s : State} {e : Nat} (hk : Keep q s) : Keep q (State.dmaAdvanceAll s e) :=
  keep_foldl (fun _ _ h3 => State.dmaAdvance_keep (State.dmaPump_keep h3)) hk

theorem execDmaBeatIssue_keep {e : EngNo} {s : State} (hk : Keep q s) : KeepOut q (execDmaBeatIssue e s) := by
  unfold execDmaBeatIssue
  refine keepOut_next ?_
  split
  · exact hk
  · extract_lets +onlyGivenNames x1
    clear_value x1
    extract_lets +onlyGivenNames x2
    have h3 : Keep q x2 := keep_foldl (fun s4 x5 h6 => State.dmaEnter_keep h6) hk
    clear_value x2
    extract_lets +onlyGivenNames x7 x8
    clear_value x7 x8
    extract_lets +onlyGivenNames x9
    have h10 : Keep q x9.1 := State.dmaGrant_keep h3
    clear_value x9
    extract_lets +onlyGivenNames x11
    have h12 : Keep q x11 := keep_foldl (fun s13 x14 h15 => State.addFld_keep h15) h10
    clear_value x11
    extract_lets +onlyGivenNames x16
    have h17 : Keep q x16 := by
      unfold x16
      refine keep_foldl ?_ h12
      intro s18 x19 h20
      split
      · exact State.setChan_keep h20
      · exact h20
    clear_value x16
    exact State.unitWork_keep (State.dmaAdvanceAll_keep h17)

theorem State.dmaReturned_keep {s : State} {c : Nat} {link beat : Option Nat} {data : List Byte} (hk : Keep q s) :
    Keep q (State.dmaReturned s c link beat data) := by
  unfold State.dmaReturned
  split
  · exact hk
  · split
    · exact hk
    · extract_lets +onlyGivenNames x1 x2 x3
      clear_value x1 x2 x3
      extract_lets +onlyGivenNames x4
      have h5 : Keep q x4 := State.setChan_keep hk
      clear_value x4
      exact State.unitWork_keep (State.dmaAdvance_keep (State.dmaPump_keep h5))

theorem execDmaReadReturn_keep {e : EngNo} {j : ChanNo} {data : List Byte} {s : State} (hk : Keep q s) :
    KeepOut q (execDmaReadReturn e j data s) :=
  keepOut_next (State.dmaReturned_keep hk)

theorem State.dmaRejected_keep {s : State} {c status : Nat} {link beat : Option Nat} {fault : Nat} {linkUp : Bool} (hk : Keep q s) :
    Keep q (State.dmaRejected s c status link beat fault linkUp) := by
  unfold State.dmaRejected
  split
  · exact hk
  · split
    · exact hk
    · extract_lets +onlyGivenNames x1
      clear_value x1
      split
      · split
        · extract_lets +onlyGivenNames x2 x3 x4 x5
          clear_value x2 x3 x4 x5
          extract_lets +onlyGivenNames x6
          have h7 : Keep q x6 := State.addFld_keep (State.setChan_keep hk)
          clear_value x6
          extract_lets +onlyGivenNames x8
          have h9 : Keep q x8 := State.setFld_keep h7
          clear_value x8
          exact State.sendOn_keep h9
        · exact State.unitWork_keep (State.dmaAdvance_keep (State.dmaPump_keep (State.dmaFail_keep (State.dmaLose_keep hk))))
      · exact State.unitWork_keep (State.dmaAdvance_keep (State.dmaPump_keep (State.dmaFail_keep (State.dmaLose_keep hk))))

theorem execDmaBeatReject_keep {e : EngNo} {j : ChanNo} {status : Byte} {link : Option LinkNo} {tag : BitVec 16} {linkUp : Bool} {s : State} (hk : Keep q s) :
    KeepOut q (execDmaBeatReject e j status link tag linkUp s) := by
  unfold execDmaBeatReject
  extract_lets +onlyGivenNames x1
  clear_value x1
  exact keepOut_next (State.dmaRejected_keep hk)

theorem execDmaReadbackAnswer_keep {e : EngNo} {j : ChanNo} {status : Byte} {port : PortEvent} {s : State} (hk : Keep q s) :
    KeepOut q (execDmaReadbackAnswer e j status port s) := by
  unfold execDmaReadbackAnswer
  extract_lets +onlyGivenNames x1
  clear_value x1
  refine keepOut_next ?_
  split
  · exact hk
  · split
    · exact hk
    · split
      · split
        · extract_lets +onlyGivenNames x2
          clear_value x2
          extract_lets +onlyGivenNames x3
          have h4 : Keep q x3.1 := by
            unfold x3
            split
            · split
              · exact State.port_keep hk
              · exact hk
            · exact hk
          clear_value x3
          extract_lets +onlyGivenNames x5
          clear_value x5
          exact State.unitWork_keep (State.dmaReadback_keep h4)
        · exact hk
      · exact State.unitWork_keep (State.dmaReadback_keep hk)

theorem execDmaCompletionAck_keep {e : EngNo} {j : ChanNo} {status : Byte} {s : State} (hk : Keep q s) :
    KeepOut q (execDmaCompletionAck e j status s) := by
  unfold execDmaCompletionAck
  extract_lets +onlyGivenNames x1
  clear_value x1
  refine keepOut_next ?_
  split
  · exact hk
  · split
    · exact State.unitWork_keep (State.dmaAdvance_keep hk)
    · split
      · exact hk
      · split
        · extract_lets +onlyGivenNames x2
          have h3 : Keep q x2 := by
            unfold x2
            split
            · exact hk
            · exact State.dmaFail_keep hk
          clear_value x2
          exact State.unitWork_keep (State.dmaStep_keep h3)
        · split
          · split
            · exact hk
            · exact State.unitWork_keep (State.dmaStep_keep hk)
          · split
            · exact State.unitWork_keep (State.dmaStep_keep hk)
            · exact State.unitWork_keep (State.dmaStep_keep hk)

theorem State.dmaKill_keep {s : State} {c : Nat} {gone : DmaOut → Bool} {exhausted : Bool} (hk : Keep q s) :
    Keep q (State.dmaKill s c gone exhausted) := by
  unfold State.dmaKill
  split
  · exact hk
  · extract_lets +onlyGivenNames x1
    have h2 : Keep q x1 := State.dmaFail_keep hk
    clear_value x1
    split
    · exact h2
    · extract_lets +onlyGivenNames x3 x4
      clear_value x3 x4
      extract_lets +onlyGivenNames x5
      have h6 : Keep q x5 := State.setChan_keep h2
      clear_value x5
      split
      · exact State.dmaStep_keep h6
      · exact State.dmaAdvance_keep (State.dmaPump_keep h6)

theorem State.dmaGiveUp_keep {s : State} {c : Nat} (hk : Keep q s) : Keep q (State.dmaGiveUp s c) := by
  unfold State.dmaGiveUp
  split
  · exact hk
  · split
    · exact State.dmaKill_keep hk
    · exact hk

theorem execDmaPauseDrained_keep {e : EngNo} {j : ChanNo} {s : State} (hk : Keep q s) :
    KeepOut q (execDmaPauseDrained e j s) := by
  unfold execDmaPauseDrained
  extract_lets +onlyGivenNames x1
  clear_value x1
  refine keepOut_next ?_
  split
  · split
    · exact State.setChState_keep hk
    · exact hk
  · split
    · extract_lets +onlyGivenNames x2
      clear_value x2
      extract_lets +onlyGivenNames x3
      have h4 : Keep q x3 := State.setChan_keep hk
      clear_value x3
      extract_lets +onlyGivenNames x5
      have h6 : Keep q x5 := by
        unfold x5
        split
        · exact h4
        · exact State.dmaWrite_keep h4
      clear_value x5
      exact State.unitWork_keep (State.dmaGiveUp_keep (State.setChState_keep h6))
    · exact hk

theorem execDmaEngineFault_keep {e : EngNo} {s : State} (hk : Keep q s) : KeepOut q (execDmaEngineFault e s) := by
  unfold execDmaEngineFault
  refine keepOut_next ?_
  split
  · exact hk
  · extract_lets +onlyGivenNames x1
    have h2 : Keep q x1 := State.setMaskBit_keep hk
    clear_value x1
    extract_lets +onlyGivenNames x3
    have h4 : Keep q x3 := State.logEvent_keep h2
    clear_value x3
    extract_lets +onlyGivenNames x5
    have h6 : Keep q x5 := by
      unfold x5
      refine keep_foldl ?_ h4
      intro s7 x8 h9
      extract_lets +onlyGivenNames x10
      clear_value x10
      split
      · exact State.dmaKill_keep h9
      · split
        · exact h9
        · exact State.haltChan_keep h9
    clear_value x5
    exact State.unitWork_keep (State.settleReady_keep (State.setFld_keep h6))

theorem execRecordWriteRetry_keep {q0 : CtxNo} {status : Byte} {s : State} (hk : Keep q s) :
    KeepOut q (execRecordWriteRetry q0 status s) := by
  unfold execRecordWriteRetry
  refine keepOut_next ?_
  split
  · exact hk
  · split
    · exact State.unitWork_keep (State.retryHeldAll_keep hk)
    · exact State.noteFailed_keep hk

end Sys2Proof.Machine
end

