-- ==== Sys2Proof/Laws/KeepStages.lean ====
section
/-! SUPPORT. Every operation of Stages keeps the invariant and the queue. -/

namespace Sys2Proof.Machine

variable {q : List Instr}

theorem State.senseSec_keep {s : State} (hk : Keep q s) : Keep q (State.senseSec s) := by
  unfold State.senseSec
  extract_lets +onlyGivenNames x1 x2
  clear_value x1 x2
  extract_lets +onlyGivenNames x3
  have h4 : Keep q x3 := State.setFld_keep (State.setFld_keep (State.setFld_keep hk))
  clear_value x3
  exact keep_foldl (fun s5 x6 h7 => State.setFld_keep h7) h4

theorem State.applyFused_keep {s : State} (hk : Keep q s) : Keep q (State.applyFused s) := by
  unfold State.applyFused
  extract_lets +onlyGivenNames x1
  clear_value x1
  extract_lets +onlyGivenNames x2
  have h3 : Keep q x2 := by
    unfold x2
    refine keep_foldl ?_ hk
    intro s4 x5 h6
    extract_lets +onlyGivenNames x7
    have h8 : Keep q x7 := State.setFld_keep (State.setFld_keep h6)
    clear_value x7
    extract_lets +onlyGivenNames x9
    have h10 : Keep q x9 := State.setFld_keep (State.setFld_keep h8)
    clear_value x9
    refine keep_foldl ?_ h10
    intro s11 x12 h13
    extract_lets +onlyGivenNames x14
    clear_value x14
    exact State.setFld_keep (State.setFld_keep h13)
  clear_value x2
  extract_lets +onlyGivenNames x15
  have h16 : Keep q x15 := State.setFld_keep (State.setFld_keep h3)
  clear_value x15
  extract_lets +onlyGivenNames x17
  have h18 : Keep q x17 := State.setFld_keep (State.setFld_keep (State.setFld_keep h16))
  clear_value x17
  extract_lets +onlyGivenNames x19
  have h20 : Keep q x19 := keep_foldl (fun s21 x22 h23 => State.setFld_keep (State.setFld_keep h23)) h18
  clear_value x19
  exact State.senseSec_keep h20

theorem State.reportDur_keep {s : State} {stage outcome reason us : Nat} (hk : Keep q s) :
    Keep q (State.reportDur s stage outcome reason us) := by
  unfold State.reportDur
  extract_lets +onlyGivenNames x1 x2 x3
  clear_value x1 x2 x3
  extract_lets +onlyGivenNames x4
  have h5 : Keep q x4 := State.logEvent_keep hk
  clear_value x4
  extract_lets +onlyGivenNames x6
  have h7 : Keep q x6 := State.setFld_keep (State.setFld_keep h5)
  clear_value x6
  extract_lets +onlyGivenNames x8
  have h9 : Keep q x8 := State.setFld_keep h7
  clear_value x8
  exact keep_of h9 rfl rfl rfl rfl rfl rfl

theorem State.report_keep {s : State} {outcome reason : Nat} (hk : Keep q s) :
    Keep q (State.report s outcome reason) := by
  unfold State.report
  extract_lets +onlyGivenNames x1
  have h2 : Keep q x1 := State.reportDur_keep hk
  clear_value x1
  split
  · exact State.setFld_keep h2
  · split
    · exact State.setFld_keep h2
    · exact h2

theorem State.enterFaulted_keep {s : State} {cause : Nat} (hk : Keep q s) : Keep q (State.enterFaulted s cause) := by
  unfold State.enterFaulted
  split
  · split
    · exact State.setFld_keep hk
    · exact hk
  · exact State.setReady_keep (State.setFld_keep hk)

theorem State.clearLink_keep {s : State} {i st : Nat} (hk : Keep q s) : Keep q (State.clearLink s i st) := by
  unfold State.clearLink
  extract_lets +onlyGivenNames x1
  have h2 : Keep q x1 := State.setFld_keep (State.setFld_keep (State.setFld_keep hk))
  clear_value x1
  extract_lets +onlyGivenNames x3
  have h4 : Keep q x3 := State.setFld_keep h2
  clear_value x3
  exact keep_foldl (fun s5 x6 h7 => State.setFld_keep (State.setFld_keep h7)) h4

theorem State.startTraining_keep {s : State} {i : Nat} (hk : Keep q s) : Keep q (State.startTraining s i) := by
  unfold State.startTraining
  split
  · exact State.setFld_keep hk
  · split
    · exact hk
    · exact State.setLink_keep hk

theorem State.lockPlls_keep {s : State} (hk : Keep q s) : Keep q (State.lockPlls s) :=
  keep_foldl (fun _ _ h3 => State.setFld_keep (State.setFld_keep (State.setFld_keep h3))) hk

theorem State.deriveKeys_keep {s : State} (hk : Keep q s) : Keep q (State.deriveKeys s) := by
  unfold State.deriveKeys
  extract_lets +onlyGivenNames x1 x2 x3 x4
  clear_value x1 x2 x3 x4
  extract_lets +onlyGivenNames x5
  have h6 : Keep q x5 := State.setFld_keep hk
  clear_value x5
  exact keep_of h6 rfl rfl rfl rfl rfl rfl

theorem State.beginS1_keep {s : State} (hk : Keep q s) : Keep q (State.beginS1 s) := by
  unfold State.beginS1
  extract_lets +onlyGivenNames x1
  have h2 : Keep q x1 := State.lockPlls_keep hk
  clear_value x1
  extract_lets +onlyGivenNames x3
  have h4 : Keep q x3 := keep_of h2 rfl rfl rfl rfl rfl rfl
  clear_value x3
  extract_lets +onlyGivenNames x5
  have h6 : ∀ y0, Keep q y0 → Keep q (x5 y0) := fun y7 h8 => State.startTraining_keep (State.startTraining_keep h8)
  clear_value x5
  split
  · exact h6 _ (State.enterFaulted_keep h4)
  · split
    · exact h6 _ (State.enterFaulted_keep (State.report_keep h4))
    · split
      · exact h6 _ (keep_foldl (fun s9 x10 h11 => State.setFld_keep h11) h4)
      · exact h6 _ (State.deriveKeys_keep h4)

theorem State.takeSavedLinks_keep {s : State} (hk : Keep q s) : Keep q (State.takeSavedLinks s) := by
  unfold State.takeSavedLinks
  split
  · exact hk
  · exact keep_foldl (fun s1 x2 h3 => State.setLink_keep h3) hk

theorem State.toBerTest_keep {s : State} {i : Nat} (hk : Keep q s) : Keep q (State.toBerTest s i) := by
  unfold State.toBerTest
  split
  · exact State.setLink_keep (State.setFld_keep hk)
  · exact hk

theorem State.beginS5_keep {s : State} (hk : Keep q s) : Keep q (State.beginS5 s) := by
  unfold State.beginS5
  extract_lets +onlyGivenNames x1 x2
  clear_value x1 x2
  extract_lets +onlyGivenNames x3
  have h4 : Keep q x3 := keep_foldl (fun s5 x6 h7 => State.toBerTest_keep h7) (keep_of hk rfl rfl rfl rfl rfl rfl)
  clear_value x3
  split
  · exact h4
  · exact State.toBerTest_keep h4

theorem State.beginMemtest_keep {s : State} {fast : Bool} {grant : List Byte} {op : Option Nat} (hk : Keep q s) :
    Keep q (State.beginMemtest s fast grant op) := by
  unfold State.beginMemtest
  extract_lets +onlyGivenNames x1 x2
  clear_value x1 x2
  extract_lets +onlyGivenNames x3
  have h4 : Keep q x3 := State.drew_keep hk
  clear_value x3
  extract_lets +onlyGivenNames x5
  have h6 : Keep q x5 := keep_of h4 rfl rfl rfl rfl rfl rfl
  clear_value x5
  extract_lets +onlyGivenNames x7
  have h8 : Keep q x7 := State.setFld_keep (State.setFld_keep (State.setFld_keep h6))
  clear_value x7
  split
  · exact State.sendOn_keep h8
  · exact h8

theorem State.beginS6_keep {s : State} (hk : Keep q s) : Keep q (State.beginS6 s) := by
  unfold State.beginS6
  extract_lets +onlyGivenNames x1
  clear_value x1
  exact State.beginMemtest_keep hk

theorem State.beginS9_keep {s : State} (hk : Keep q s) : Keep q (State.beginS9 s) := by
  unfold State.beginS9
  extract_lets +onlyGivenNames x1
  have h2 : Keep q x1 := keep_of hk rfl rfl rfl rfl rfl rfl
  clear_value x1
  extract_lets +onlyGivenNames x3
  have h4 : Keep q x3 := State.setReady_keep h2
  clear_value x3
  extract_lets +onlyGivenNames x5
  have h6 : Keep q x5 := by
    unfold x5
    split
    · exact State.setFld_keep h4
    · exact h4
  clear_value x5
  exact State.retarget_keep (State.retarget_keep h6)

theorem State.startStage_keep {s : State} {k : Nat} (hk : Keep q s) : Keep q (State.startStage s k) := by
  unfold State.startStage
  extract_lets +onlyGivenNames x1
  have h2 : Keep q x1 := State.setFld_keep (State.setFld_keep hk)
  clear_value x1
  extract_lets +onlyGivenNames x3
  have h4 : Keep q x3 := keep_of h2 rfl rfl rfl rfl rfl rfl
  clear_value x3
  split
  · extract_lets +onlyGivenNames x5
    have h6 : Keep q x5 := by
      unfold x5
      split
      · extract_lets +onlyGivenNames x7
        have h8 : Keep q x7 := State.reportDur_keep h4
        clear_value x7
        exact keep_of h8 rfl rfl rfl rfl rfl rfl
      · exact h4
    clear_value x5
    exact State.beginS1_keep h6
  · split
    · extract_lets +onlyGivenNames x9
      have h10 : Keep q x9 := State.takeSavedLinks_keep h4
      clear_value x9
      extract_lets +onlyGivenNames x11
      have h12 : Keep q x11 := by
        unfold x11
        split
        · split
          · exact h10
          · exact State.setFld_keep h10
        · exact h10
      clear_value x11
      exact keep_foldl (fun s13 x14 h15 => State.startTraining_keep h15) h12
    · split
      · exact State.beginS5_keep h4
      · split
        · exact State.beginS6_keep h4
        · split
          · exact State.beginS9_keep h4
          · exact h4

theorem State.nextStage_keep {s : State} {k : Nat} (hk : Keep q s) : Keep q (State.nextStage s k) := by
  unfold State.nextStage
  split
  · exact State.setFld_keep hk
  · exact State.startStage_keep hk

theorem State.reportPass_keep {s : State} (hk : Keep q s) : Keep q (State.reportPass s) := by
  unfold State.reportPass
  split
  · exact State.report_keep hk
  · exact State.report_keep hk

theorem State.passS2_keep {s : State} (hk : Keep q s) : Keep q (State.passS2 s) := by
  unfold State.passS2
  refine State.nextStage_keep ?_
  refine State.setFld_keep ?_
  extract_lets +onlyGivenNames x1
  have h2 : Keep q x1 := State.reportPass_keep hk
  clear_value x1
  exact keep_of h2 rfl rfl rfl rfl rfl rfl

theorem State.passStage_keep {s : State} {k : Nat} (hk : Keep q s) : Keep q (State.passStage s k) := by
  unfold State.passStage
  split
  · exact State.passS2_keep hk
  · extract_lets +onlyGivenNames x1
    have h2 : Keep q x1 := State.nextStage_keep (State.reportPass_keep hk)
    clear_value x1
    split
    · exact State.passS2_keep h2
    · exact h2

theorem State.lose_keep {s : State} {k reason : Nat} (hk : Keep q s) : Keep q (State.lose s k reason) := by
  unfold State.lose
  split
  · exact keep_of hk rfl rfl rfl rfl rfl rfl
  · exact hk

theorem State.failStage_keep {s : State} {reason : Nat} (hk : Keep q s) : Keep q (State.failStage s reason) :=
  State.report_keep hk

theorem State.checkS1_keep {s : State} (hk : Keep q s) : Keep q (State.checkS1 s) := by
  unfold State.checkS1
  extract_lets +onlyGivenNames x1
  clear_value x1
  split
  · exact hk
  · split
    · split
      · extract_lets +onlyGivenNames x2
        have h3 : Keep q x2 := State.startStage_keep hk
        clear_value x2
        split
        · exact State.passStage_keep h3
        · exact h3
      · exact hk
    · split
      · exact State.passStage_keep hk
      · exact hk

theorem State.number_keep {s : State} {epoch : Nat} (hk : Keep q s) : Keep q (State.number s epoch) := by
  unfold State.number
  extract_lets +onlyGivenNames x1 x2
  clear_value x1 x2
  extract_lets +onlyGivenNames x3
  have h4 : Keep q x3 := State.setFld_keep (State.setFld_keep hk)
  clear_value x3
  extract_lets +onlyGivenNames x5
  have h6 : Keep q x5 := State.setFld_keep (State.setFld_keep (State.setFld_keep h4))
  clear_value x5
  exact keep_foldl (fun s7 x8 h9 => State.setFld_keep h9) h6

theorem State.failRouters_keep {s : State} (hk : Keep q s) : Keep q (State.failRouters s) :=
  State.setFld_keep hk

end Sys2Proof.Machine
end

