-- ==== Sys2Proof/Laws/KeepLinks.lean ====
section
/-! SUPPORT. Every operation of Links keeps the invariant and the queue. -/

namespace Sys2Proof.Machine

variable {q : List Instr}

theorem State.rerouteOut_keep {s : State} {x : BOut} (hk : Keep q s) : Keep q (State.rerouteOut s x) := by
  unfold State.rerouteOut
  split
  · exact State.addFld_keep hk
  · exact State.queueOut_keep hk

theorem State.discardLink_keep {s : State} {i : Nat} (hk : Keep q s) : Keep q (State.discardLink s i) := by
  unfold State.discardLink
  extract_lets +onlyGivenNames x1 x2 x3 x4 x5 x6
  clear_value x1 x2 x3 x4 x5 x6
  exact keep_foldl (fun s7 x8 h9 => State.rerouteOut_keep h9) (State.addFld_keep (State.setLink_keep hk))

theorem State.linkDown_keep {s : State} {i next : Nat} (hk : Keep q s) : Keep q (State.linkDown s i next) := by
  unfold State.linkDown
  extract_lets +onlyGivenNames x1 x2
  clear_value x1 x2
  extract_lets +onlyGivenNames x3
  have h4 : Keep q x3 := State.setLink_keep (State.clearLink_keep hk)
  clear_value x3
  extract_lets +onlyGivenNames x5
  have h6 : Keep q x5 := State.addFld_keep (State.addFld_keep h4)
  clear_value x5
  extract_lets +onlyGivenNames x7
  have h8 : Keep q x7 := State.logEvent_keep h6
  clear_value x7
  extract_lets +onlyGivenNames x9
  clear_value x9
  extract_lets +onlyGivenNames x10
  have h11 : Keep q x10 := State.discardLink_keep h8
  clear_value x10
  extract_lets +onlyGivenNames x12
  have h13 : Keep q x12 := keep_foldl (fun s14 x15 h16 => State.dmaKill_keep h16) h11
  clear_value x12
  extract_lets +onlyGivenNames x17
  have h18 : Keep q x17 := by
    unfold x17
    split
    · exact State.settleReady_keep (State.setFld_keep (State.setMaskBit_keep h13))
    · exact h13
  clear_value x17
  exact State.unitWork_keep (State.lose_keep h18)

theorem State.downIfUp_keep {s : State} {i next : Nat} (hk : Keep q s) : Keep q (State.downIfUp s i next) := by
  unfold State.downIfUp
  split
  · exact State.linkDown_keep hk
  · exact State.clearLink_keep hk

theorem State.linkBack_keep {s : State} {i : Nat} (hk : Keep q s) : Keep q (State.linkBack s i) := by
  unfold State.linkBack
  extract_lets +onlyGivenNames x1
  have h2 : Keep q x1 := State.clearMaskBit_keep hk
  clear_value x1
  split
  · exact State.settleReady_keep (State.setFld_keep h2)
  · exact h2

theorem State.leaveUp_keep {s : State} {i : Nat} (hk : Keep q s) : Keep q (State.leaveUp s i) := by
  unfold State.leaveUp
  extract_lets +onlyGivenNames x1
  have h2 : Keep q x1 := by
    unfold x1
    split
    · exact State.setFld_keep hk
    · exact hk
  clear_value x1
  extract_lets +onlyGivenNames x3 x4 x5
  clear_value x3 x4 x5
  exact State.clearLink_keep (State.setLink_keep h2)

theorem State.noteFail_keep {s : State} {i reason st : Nat} (hk : Keep q s) : Keep q (State.noteFail s i reason st) :=
  State.setFld_keep (State.setFld_keep hk)

theorem State.toFailed_keep {s : State} {i : Nat} (hk : Keep q s) : Keep q (State.toFailed s i) := by
  unfold State.toFailed
  extract_lets +onlyGivenNames x1
  have h2 : Keep q x1 := State.downIfUp_keep hk
  clear_value x1
  extract_lets +onlyGivenNames x3
  clear_value x3
  extract_lets +onlyGivenNames x4
  have h5 : Keep q x4 := State.setLink_keep h2
  clear_value x4
  split
  · exact State.lose_keep h5
  · exact h5

theorem State.failAttempt_keep {s : State} {i reason st : Nat} (hk : Keep q s) :
    Keep q (State.failAttempt s i reason st) := by
  unfold State.failAttempt
  extract_lets +onlyGivenNames x1
  have h2 : Keep q x1 := State.noteFail_keep hk
  clear_value x1
  extract_lets +onlyGivenNames x3
  clear_value x3
  extract_lets +onlyGivenNames x4
  have h5 : Keep q x4 := State.setFld_keep h2
  clear_value x4
  extract_lets +onlyGivenNames x6
  have h7 : Keep q x6 := by
    unfold x6
    split
    · exact State.lose_keep h5
    · exact h5
  clear_value x6
  split
  · exact State.clearLink_keep h7
  · exact State.checkS1_keep (State.logEvent_keep (State.toFailed_keep h7))

theorem State.escalate_keep {s : State} {i reason : Nat} (hk : Keep q s) : Keep q (State.escalate s i reason) := by
  unfold State.escalate
  extract_lets +onlyGivenNames x1
  clear_value x1
  exact State.lose_keep (State.leaveUp_keep (State.noteFail_keep (State.addFld_keep hk)))

theorem execLaneTestEnd_keep {link : LinkNo} {mask : DWord} {clocks : Byte} {s : State} (hk : Keep q s) :
    KeepOut q (execLaneTestEnd link mask clocks s) := by
  unfold execLaneTestEnd
  extract_lets +onlyGivenNames x1 x2
  clear_value x1 x2
  refine keepOut_next ?_
  split
  · exact State.setFld_keep (State.setFld_keep (State.setLink_keep hk))
  · exact hk

theorem State.setEq_keep {s : State} {i : Nat} {eq : List Nat} (hk : Keep q s) : Keep q (State.setEq s i eq) := by
  unfold State.setEq
  refine keep_foldl ?_ hk
  intro s1 x2 h3
  extract_lets +onlyGivenNames x4
  have h5 : Keep q x4 := State.setFld_keep (State.setFld_keep h3)
  clear_value x4
  extract_lets +onlyGivenNames x6
  have h7 : Keep q x6 := State.setFld_keep (State.setFld_keep h5)
  clear_value x6
  exact State.setFld_keep h7

theorem State.seedEq_keep {s : State} {i : Nat} {fast : Bool} (hk : Keep q s) : Keep q (State.seedEq s i fast) := by
  unfold State.seedEq
  split
  · exact State.setEq_keep hk
  · exact State.setEq_keep hk

theorem execEqComplete_keep {link : LinkNo} {mask : DWord} {eq : List Word} {s : State} (hk : Keep q s) :
    KeepOut q (execEqComplete link mask eq s) := by
  unfold execEqComplete
  extract_lets +onlyGivenNames x1
  clear_value x1
  refine keepOut_next ?_
  split
  · extract_lets +onlyGivenNames x2
    clear_value x2
    extract_lets +onlyGivenNames x3
    have h4 : Keep q x3 := State.setEq_keep hk
    clear_value x3
    exact State.setFld_keep (State.setFld_keep (State.setLink_keep h4))
  · exact hk

theorem execAttemptTimeout_keep {link : LinkNo} {s : State} (hk : Keep q s) : KeepOut q (execAttemptTimeout link s) := by
  unfold execAttemptTimeout
  extract_lets +onlyGivenNames x1 x2
  clear_value x1 x2
  refine keepOut_next ?_
  split
  · exact State.failAttempt_keep hk
  · split
    · exact State.failAttempt_keep hk
    · split
      · exact State.failAttempt_keep hk
      · split
        · exact State.failAttempt_keep hk
        · exact hk

theorem execWidthMap_keep {link : LinkNo} {partnerMask : DWord} {s : State} (hk : Keep q s) :
    KeepOut q (execWidthMap link partnerMask s) := by
  unfold execWidthMap
  extract_lets +onlyGivenNames x1 x2 x3 x4
  clear_value x1 x2 x3 x4
  refine keepOut_next ?_
  split
  · exact hk
  · split
    · exact State.failAttempt_keep hk
    · extract_lets +onlyGivenNames x5
      have h6 : Keep q x5 := State.setLink_keep hk
      clear_value x5
      exact State.setFld_keep (State.setFld_keep (State.setFld_keep h6))

theorem State.noteLanes_keep {s : State} {i good oldWidth width : Nat} (hk : Keep q s) :
    Keep q (State.noteLanes s i good oldWidth width) := by
  unfold State.noteLanes
  extract_lets +onlyGivenNames x1 x2 x3
  clear_value x1 x2 x3
  extract_lets +onlyGivenNames x4
  have h5 : Keep q x4 := keep_foldl (fun s6 x7 h8 => State.addDieback_keep h8) hk
  clear_value x4
  extract_lets +onlyGivenNames x9
  clear_value x9
  extract_lets +onlyGivenNames x10
  have h11 : Keep q x10 := State.setLink_keep h5
  clear_value x10
  split
  · exact State.logEvent_keep h11
  · exact h11

theorem State.takeOut_keep {s : State} {i word : Nat} (hk : Keep q s) : Keep q (State.takeOut s i word) := by
  unfold State.takeOut
  extract_lets +onlyGivenNames x1
  have h2 : Keep q x1 := State.noteFail_keep hk
  clear_value x1
  extract_lets +onlyGivenNames x3
  have h4 : Keep q x3 := State.downIfUp_keep h2
  clear_value x3
  extract_lets +onlyGivenNames x5
  clear_value x5
  extract_lets +onlyGivenNames x6
  have h7 : Keep q x6 := State.setLink_keep h4
  clear_value x6
  exact State.logEvent_keep h7

theorem State.latchWord_keep {s : State} {i word : Nat} (hk : Keep q s) : Keep q (State.latchWord s i word) := by
  unfold State.latchWord
  extract_lets +onlyGivenNames x1
  have h2 : Keep q x1 := State.setFld_keep (State.setFld_keep hk)
  clear_value x1
  extract_lets +onlyGivenNames x3
  have h4 : Keep q x3 := State.setFld_keep (State.setFld_keep h2)
  clear_value x3
  exact keep_of h4 rfl rfl rfl rfl rfl rfl

theorem State.placement_keep {s : State} {i word : Nat} (hk : Keep q s) : Keep q (State.placement s i word).1 := by
  unfold State.placement
  extract_lets +onlyGivenNames x1
  have h2 : Keep q x1 := by
    unfold x1
    split
    · exact keep_of hk rfl rfl rfl rfl rfl rfl
    · exact hk
  clear_value x1
  extract_lets +onlyGivenNames x3
  clear_value x3
  split
  · exact State.takeOut_keep h2
  · split
    · exact State.latchWord_keep h2
    · split
      · exact h2
      · split
        · exact State.lose_keep (State.latchWord_keep (State.takeOut_keep h2))
        · exact State.lose_keep (State.takeOut_keep h2)

theorem State.setCredits_keep {s : State} {i v : Nat} {held : List Nat} (hk : Keep q s) :
    Keep q (State.setCredits s i v held) := by
  unfold State.setCredits
  refine keep_foldl ?_ hk
  intro s1 x2 h3
  extract_lets +onlyGivenNames x4
  clear_value x4
  exact State.setFld_keep (State.setFld_keep h3)

theorem State.linkActive_keep {s : State} {i v : Nat} {c : LinkConfig} (hk : Keep q s) :
    Keep q (State.linkActive s i v c) := by
  unfold State.linkActive
  extract_lets +onlyGivenNames x1 x2 x3
  clear_value x1 x2 x3
  extract_lets +onlyGivenNames x4
  have h5 : Keep q x4 := State.setFld_keep (State.setFld_keep hk)
  clear_value x4
  extract_lets +onlyGivenNames x6
  have h7 : Keep q x6 := State.setFld_keep h5
  clear_value x6
  extract_lets +onlyGivenNames x8
  have h9 : Keep q x8 := by
    unfold x8
    split
    · exact State.logEvent_keep (State.setMaskBit_keep h7)
    · exact State.clearMaskBit_keep h7
  clear_value x8
  extract_lets +onlyGivenNames x10
  have h11 : Keep q x10 := State.setCredits_keep h9
  clear_value x10
  extract_lets +onlyGivenNames x12 x13 x14 x15 x16 x17 x18 x19 x20 x21 x22 x23
  clear_value x12 x13 x14 x15 x16 x17 x18 x19 x20 x21 x22 x23
  extract_lets +onlyGivenNames x24
  have h25 : Keep q x24 := State.setLink_keep h11
  clear_value x24
  extract_lets +onlyGivenNames x26
  have h27 : Keep q x26 := State.setFld_keep h25
  clear_value x26
  extract_lets +onlyGivenNames x28
  have h29 : Keep q x28 := State.logEvent_keep h27
  clear_value x28
  extract_lets +onlyGivenNames x30
  have h31 : Keep q x30 := State.noteLanes_keep h29
  clear_value x30
  extract_lets +onlyGivenNames x32
  have h33 : Keep q x32 := by
    unfold x32
    split
    · exact State.lose_keep h31
    · exact h31
  clear_value x32
  extract_lets +onlyGivenNames x34
  have h35 : Keep q x34 := by
    unfold x34
    split
    · exact State.lose_keep h33
    · exact h33
  clear_value x34
  extract_lets +onlyGivenNames x36
  have h37 : Keep q x36 := by
    unfold x36
    split
    · exact h35
    · exact State.lose_keep h35
  clear_value x36
  exact State.checkS1_keep (State.linkBack_keep h37)

theorem execConfigMessage_keep {link : LinkNo} {c : LinkConfig} {s : State} (hk : Keep q s) :
    KeepOut q (execConfigMessage link c s) := by
  unfold execConfigMessage
  extract_lets +onlyGivenNames x1
  clear_value x1
  refine keepOut_next ?_
  split
  · exact hk
  · split
    · exact State.failAttempt_keep hk
    · extract_lets +onlyGivenNames x2
      have h3 : Keep q x2 := State.setFld_keep (State.setFld_keep hk)
      clear_value x2
      extract_lets +onlyGivenNames x4
      have h5 : Keep q x4 := State.setFld_keep (State.setFld_keep h3)
      clear_value x4
      extract_lets +onlyGivenNames x6
      have h7 : Keep q x6 := State.setFld_keep h5
      clear_value x6
      extract_lets +onlyGivenNames x8
      clear_value x8
      split
      · exact State.checkS1_keep (State.toFailed_keep (State.noteFail_keep h7))
      · extract_lets +onlyGivenNames x9
        have h10 : Keep q x9.1 := by
          unfold x9
          split
          · split
            · exact State.placement_keep h7
            · exact h7
          · exact h7
        clear_value x9
        split
        · exact State.unitWork_keep (State.linkActive_keep h10)
        · exact State.unitWork_keep (State.checkS1_keep h10)

theorem execLinkTimeout_keep {link : LinkNo} {s : State} (hk : Keep q s) : KeepOut q (execLinkTimeout link s) := by
  unfold execLinkTimeout
  extract_lets +onlyGivenNames x1
  clear_value x1
  refine keepOut_next ?_
  split
  · extract_lets +onlyGivenNames x2
    have h3 : Keep q x2 := by
      unfold x2
      split
      · exact State.setFld_keep hk
      · exact hk
    clear_value x2
    extract_lets +onlyGivenNames x4
    clear_value x4
    extract_lets +onlyGivenNames x5
    have h6 : Keep q x5 := State.setLink_keep h3
    clear_value x5
    exact State.linkDown_keep h6
  · exact hk

theorem execLinkWakeTimeout_keep {link : LinkNo} {s : State} (hk : Keep q s) :
    KeepOut q (execLinkWakeTimeout link s) := by
  unfold execLinkWakeTimeout
  extract_lets +onlyGivenNames x1
  clear_value x1
  refine keepOut_next ?_
  split
  · exact State.unitWork_keep (State.failAttempt_keep (State.leaveUp_keep hk))
  · exact hk

theorem State.retrainUp_keep {s : State} {i : Nat} (hk : Keep q s) : Keep q (State.retrainUp s i) :=
  State.lose_keep (State.leaveUp_keep hk)

theorem State.retrain_keep {s : State} {i : Nat} (hk : Keep q s) : Keep q (State.retrain s i) := by
  unfold State.retrain
  extract_lets +onlyGivenNames x1
  clear_value x1
  split
  · exact hk
  · split
    · exact State.retrainUp_keep hk
    · split
      · exact State.setFld_keep (State.clearLink_keep (State.setLink_keep hk))
      · exact hk

theorem execLinkRetrainDone_keep {link : LinkNo} {s : State} (hk : Keep q s) :
    KeepOut q (execLinkRetrainDone link s) := by
  unfold execLinkRetrainDone
  extract_lets +onlyGivenNames x1 x2
  clear_value x1 x2
  refine keepOut_next ?_
  split
  · exact hk
  · extract_lets +onlyGivenNames x3
    clear_value x3
    extract_lets +onlyGivenNames x4
    have h5 : Keep q x4 := State.setLink_keep hk
    clear_value x4
    split
    · exact State.finishOp_keep h5
    · split
      · exact State.finishOp_keep h5
      · exact hk

theorem execRouterFailed_keep {c : ClumpNo} {cause : Fin 3} {s : State} (hk : Keep q s) :
    KeepOut q (execRouterFailed c cause s) := by
  unfold execRouterFailed
  extract_lets +onlyGivenNames x1
  clear_value x1
  refine keepOut_next ?_
  split
  · exact hk
  · extract_lets +onlyGivenNames x2
    have h3 : Keep q x2 := State.setMaskBit_keep hk
    clear_value x2
    extract_lets +onlyGivenNames x4
    have h5 : Keep q x4 := State.logEvent_keep h3
    clear_value x4
    extract_lets +onlyGivenNames x6
    have h7 : Keep q x6 := State.fenceClump_keep h5
    clear_value x6
    extract_lets +onlyGivenNames x8
    have h9 : Keep q x8 := by
      unfold x8
      refine keep_foldl ?_ h7
      intro s10 x11 h12
      split
      · exact State.linkDown_keep h12
      · exact h12
    clear_value x8
    extract_lets +onlyGivenNames x13 x14
    clear_value x13 x14
    extract_lets +onlyGivenNames x15
    have h16 : Keep q x15 := keep_of h9 rfl rfl rfl rfl rfl rfl
    clear_value x15
    extract_lets +onlyGivenNames x17
    have h18 : Keep q x17 := keep_foldl (fun s19 x20 h21 => State.abortKernel_keep h21) h16
    clear_value x17
    extract_lets +onlyGivenNames x22 x23
    clear_value x22 x23
    extract_lets +onlyGivenNames x24
    have h25 : Keep q x24 := State.setRouter_keep h18
    clear_value x24
    extract_lets +onlyGivenNames x26
    have h27 : Keep q x26 := keep_foldl (fun s28 x29 h30 => State.dmaKill_keep h30) h25
    clear_value x26
    exact State.unitWork_keep (State.settleKernels_keep h27)

end Sys2Proof.Machine
end

