-- ==== Sys2Proof/Laws/KeepScratch.lean ====
section
/-! SUPPORT. Every operation of Scratch keeps the invariant and the queue. -/

namespace Sys2Proof.Machine

variable {q : List Instr}

theorem State.afterWrite_keep {s : State} {p : Nat} {w : InWrite} (hk : Keep q s) : Keep q (State.afterWrite s p w) := by
  unfold State.afterWrite
  extract_lets +onlyGivenNames x1
  have h2 : Keep q x1 := State.settleRouter_keep hk
  clear_value x1
  split
  · exact State.settleBacks_keep h2
  · exact State.dmaAdvance_keep h2
  · exact h2

theorem execUnscheduledWriteLand_keep {p : CoreNo} {i waited : Nat} {port : PortEvent} {s : State} (hk : Keep q s) :
    KeepOut q (execUnscheduledWriteLand p i waited port s) := by
  unfold execUnscheduledWriteLand
  refine keepOut_next ?_
  extract_lets +onlyGivenNames x1
  clear_value x1
  split
  · exact hk
  · split
    · exact hk
    · split
      · exact hk
      · extract_lets +onlyGivenNames x2
        have h3 : Keep q x2 := State.addFld_keep hk
        clear_value x2
        split
        · exact h3
        · extract_lets +onlyGivenNames x4
          have h5 : Keep q x4 := State.setCore_keep h3
          clear_value x4
          split
          · exact State.unitWork_keep (State.afterWrite_keep (State.answerWrite_keep h5))
          · extract_lets +onlyGivenNames x6
            have h7 : Keep q x6.1 := by
              unfold x6
              split
              · exact State.port_keep h5
              · exact h5
            clear_value x6
            split
            · exact State.unitWork_keep (State.afterWrite_keep (State.answerWrite_keep h7))
            · extract_lets +onlyGivenNames x8
              have h9 : Keep q x8 := State.writeCore_keep h7
              clear_value x8
              extract_lets +onlyGivenNames x10
              have h11 : Keep q x10 := by
                unfold x10
                split
                · exact State.countWindow_keep h9
                · exact h9
              clear_value x10
              exact State.unitWork_keep (State.afterWrite_keep (State.answerWrite_keep h11))

theorem State.replyRow_keep {s : State} {p i : Nat} {pkt : OutPkt} (hk : Keep q s) :
    Keep q (State.replyRow s p i pkt) :=
  State.sendRow_keep hk

theorem State.answerRead_keep {s : State} {p : Nat} {r : InRead} {data : List Byte} (hk : Keep q s) :
    Keep q (State.answerRead s p r data) := by
  unfold State.answerRead
  split
  · split
    · exact hk
    · split
      · split
        · exact State.dmaReturned_keep hk
        · exact State.unitWork_keep (State.dmaAdvance_keep (State.dmaPump_keep (State.sendRow_keep hk)))
      · exact State.dmaReturned_keep hk
  · exact State.replyRow_keep hk

theorem State.rejectRead_keep {s : State} {p : Nat} {r : InRead} {status : Nat} (hk : Keep q s) :
    Keep q (State.rejectRead s p r status) := by
  unfold State.rejectRead
  split
  · exact State.dmaRejected_keep hk
  · exact State.replyRow_keep hk

theorem execUnscheduledRead_keep {p : CoreNo} {port : PortEvent} {s : State} (hk : Keep q s) :
    KeepOut q (execUnscheduledRead p port s) := by
  unfold execUnscheduledRead
  refine keepOut_next ?_
  extract_lets +onlyGivenNames x1
  clear_value x1
  split
  · exact hk
  · split
    · exact hk
    · split
      · exact hk
      · extract_lets +onlyGivenNames x2
        have h3 : Keep q x2 := State.settleRouter_keep (State.setCore_keep hk)
        clear_value x2
        split
        · exact State.unitWork_keep (State.rejectRead_keep h3)
        · extract_lets +onlyGivenNames x4
          have h5 : Keep q x4.1 := State.port_keep h3
          clear_value x4
          split
          · exact State.unitWork_keep (State.rejectRead_keep h5)
          · exact State.unitWork_keep (State.answerRead_keep h5)

theorem execEccWriteback_keep {p : CoreNo} {bank : Fin 16} {row : Fin 1024} {s : State} (hk : Keep q s) :
    KeepOut q (execEccWriteback p bank row s) := by
  unfold execEccWriteback
  extract_lets +onlyGivenNames x1
  clear_value x1
  exact keepOut_next (State.setCore_keep hk)

theorem execWakeTimeout_keep {p : CoreNo} {bank : Fin 16} {s : State} (hk : Keep q s) :
    KeepOut q (execWakeTimeout p bank s) := by
  unfold execWakeTimeout
  refine keepOut_next ?_
  extract_lets +onlyGivenNames x1 x2 x3
  clear_value x1 x2 x3
  split
  · exact hk
  · extract_lets +onlyGivenNames x4
    have h5 : Keep q x4 := State.setCore_keep hk
    clear_value x4
    extract_lets +onlyGivenNames x6
    clear_value x6
    extract_lets +onlyGivenNames x7
    have h8 : Keep q x7 := State.logEvent_keep h5
    clear_value x7
    extract_lets +onlyGivenNames x9
    have h10 : Keep q x9 := keep_foldl (fun s11 x12 h13 => State.afterWrite_keep (State.answerWrite_keep h13)) h8
    clear_value x9
    exact State.unitWork_keep (keep_foldl (fun s14 x15 h16 => State.rejectRead_keep h16) h10)

theorem execMemWakeReturn_keep {p : CoreNo} {s : State} (hk : Keep q s) : KeepOut q (execMemWakeReturn p s) := by
  unfold execMemWakeReturn
  refine keepOut_next ?_
  extract_lets +onlyGivenNames x1
  clear_value x1
  split
  · exact hk
  · split
    · exact State.beginEntry_keep (State.setCore_keep hk)
    · exact hk

theorem execImemScrub_keep {p : CoreNo} {uncorrectable : Bool} {s : State} (hk : Keep q s) :
    KeepOut q (execImemScrub p uncorrectable s) := by
  unfold execImemScrub
  refine keepOut_next ?_
  split
  · exact State.unitWork_keep (State.fenceCore_keep hk)
  · exact hk

theorem execEngineFault_keep {p : CoreNo} {cause : Fin 4} {s : State} (hk : Keep q s) :
    KeepOut q (execEngineFault p cause s) := by
  unfold execEngineFault
  refine keepOut_next ?_
  split
  · exact State.unitWork_keep (State.fenceCore_keep hk)
  · split
    · exact State.unitWork_keep (State.fenceCore_keep hk)
    · split
      · exact State.unitWork_keep (State.fenceClump_keep hk)
      · exact hk

theorem execNoiseHealth_keep {s : State} (hk : Keep q s) : KeepOut q (execNoiseHealth s) :=
  keepOut_next (State.logEvent_keep hk)

end Sys2Proof.Machine
end

