-- ==== Sys2Proof/Laws/KeepPleach.lean ====
section
/-! SUPPORT. Every operation of Pleach keeps the invariant and the queue. -/

namespace Sys2Proof.Machine

variable {q : List Instr}

theorem State.useStream_keep {s : State} {c r : Nat} (hk : Keep q s) : Keep q (State.useStream s c r) := by
  unfold State.useStream
  extract_lets +onlyGivenNames x1
  clear_value x1
  exact keep_of hk rfl rfl rfl rfl rfl rfl

theorem State.freezeCore_keep {s : State} {h p : Nat} (hk : Keep q s) : Keep q (State.freezeCore s h p) := by
  unfold State.freezeCore
  extract_lets +onlyGivenNames x1 x2
  clear_value x1 x2
  extract_lets +onlyGivenNames x3
  have h4 : Keep q x3 := by
    unfold x3
    split
    · exact State.setCoreState_keep (State.setCore_keep hk)
    · exact hk
  clear_value x3
  split
  · exact State.addFld_keep h4
  · exact h4

theorem State.thawCore_keep {s : State} {h p : Nat} (hk : Keep q s) : Keep q (State.thawCore s h p) := by
  unfold State.thawCore
  extract_lets +onlyGivenNames x1
  clear_value x1
  split
  · exact hk
  · split
    · exact hk
    · exact State.setCoreState_keep (State.setCore_keep hk)

theorem State.noteStall_keep {s : State} {c e : Nat} (hk : Keep q s) : Keep q (State.noteStall s c e) := by
  unfold State.noteStall
  extract_lets +onlyGivenNames x1 x2 x3
  clear_value x1 x2 x3
  extract_lets +onlyGivenNames x4
  have h5 : Keep q x4 := State.setRouter_keep hk
  clear_value x4
  extract_lets +onlyGivenNames x6
  have h7 : Keep q x6 := by
    unfold x6
    split
    · exact hk
    · exact State.addFld_keep (State.addFld_keep h5)
  clear_value x6
  split
  · exact State.addFld_keep h7
  · exact h7

theorem State.plnStallCycle_keep {s : State} {h cause : Nat} (hk : Keep q s) :
    Keep q (State.plnStallCycle s h cause) := by
  unfold State.plnStallCycle
  extract_lets +onlyGivenNames x1
  clear_value x1
  extract_lets +onlyGivenNames x2
  have h3 : Keep q x2 := State.addFld_keep (State.setFld_keep hk)
  clear_value x2
  extract_lets +onlyGivenNames x4
  have h5 : Keep q x4 := keep_of h3 rfl rfl rfl rfl rfl rfl
  clear_value x4
  extract_lets +onlyGivenNames x6
  have h7 : Keep q x6 := keep_foldl (fun s8 x9 h10 => State.noteStall_keep h10) h5
  clear_value x6
  exact keep_foldl (fun s11 x12 h13 => State.freezeCore_keep h13) h7

theorem State.sendLane_keep {s : State} {c k : Nat} {row : List Byte} (hk : Keep q s) :
    Keep q (State.sendLane s c k row) := by
  unfold State.sendLane
  split
  · exact hk
  · split
    · exact hk
    · extract_lets +onlyGivenNames x1 x2
      clear_value x1 x2
      split
      · exact State.setRouter_keep hk
      · exact State.setRouter_keep hk

theorem State.consume_keep {s : State} {c e code : Nat} (hk : Keep q s) : Keep q (State.consume s c e code) := by
  unfold State.consume
  split
  · extract_lets +onlyGivenNames x1 x2
    clear_value x1 x2
    exact State.setRouter_keep hk
  · split
    · exact State.setRouter_keep hk
    · split
      · split
        · exact hk
        · split
          · exact hk
          · extract_lets +onlyGivenNames x3
            clear_value x3
            exact State.settleRouter_keep (keep_of hk rfl rfl rfl rfl rfl rfl)
      · exact hk

theorem State.slotBanks_keep {s : State} {old : Mem} {c : Nat} {x : Nat × Nat × PlnSection} {e : Nat} {rows : Nat → List Byte} (hk : Keep q s) :
    Keep q (State.slotBanks s old c x e rows).1 := by
  unfold State.slotBanks
  extract_lets +onlyGivenNames x1
  have h2 : Keep q x1.1 := by
    unfold x1
    refine keep_foldl_fst ?_ hk
    intro x3 x4 h5
    split
    · extract_lets +onlyGivenNames x6 x7
      clear_value x6 x7
      split
      · extract_lets +onlyGivenNames x8
        clear_value x8
        exact State.setRouter_keep h5
      · exact h5
    · exact h5
  clear_value x1
  refine keep_foldl_fst ?_ h2
  intro x9 x10 h11
  split
  · extract_lets +onlyGivenNames x12 x13
    clear_value x12 x13
    split
    · extract_lets +onlyGivenNames x14 x15
      clear_value x14 x15
      exact State.setRouter_keep h11
    · exact h11
  · exact h11

theorem State.execRouter_keep {s : State} {old : Mem} {c i : Nat} (hk : Keep q s) :
    Keep q (State.execRouter s old c i).1 := by
  unfold State.execRouter
  extract_lets +onlyGivenNames x1
  clear_value x1
  split
  · exact hk
  · extract_lets +onlyGivenNames x2 x3 x4 x5 x6
    clear_value x2 x3 x4 x5 x6
    extract_lets +onlyGivenNames x7
    have h8 : Keep q x7 := keep_foldl (fun s9 x10 h11 => State.consume_keep h11) hk
    clear_value x7
    extract_lets +onlyGivenNames x12
    have h13 : Keep q x12 := State.addFld_keep h8
    clear_value x12
    extract_lets +onlyGivenNames x14
    clear_value x14
    extract_lets +onlyGivenNames x15
    have h16 : Keep q x15 := State.addFld_keep h13
    clear_value x15
    extract_lets +onlyGivenNames x17
    have h18 : Keep q x17 := keep_foldl (fun s19 x20 h21 => State.sendLane_keep h21) h16
    clear_value x17
    extract_lets +onlyGivenNames x22
    have h23 : Keep q x22 := by
      unfold x22
      refine keep_foldl ?_ h18
      intro s24 x25 h26
      split
      · exact h26
      · split
        · exact h26
        · extract_lets +onlyGivenNames x27
          clear_value x27
          exact keep_of h26 rfl rfl rfl rfl rfl rfl
    clear_value x22
    extract_lets +onlyGivenNames x28 x29
    clear_value x28 x29
    extract_lets +onlyGivenNames x30
    have h31 : Keep q x30 := by
      unfold x30
      split
      · exact State.addFld_keep (State.setRouter_keep h23)
      · split
        · exact State.addFld_keep (State.setRouter_keep h23)
        · exact h23
    clear_value x30
    extract_lets +onlyGivenNames x32
    have h33 : Keep q x32.1 := by
      unfold x32
      refine keep_foldl_fst ?_ h31
      intro x34 x35 h36
      extract_lets +onlyGivenNames x37
      have h38 : Keep q x37.1 := State.slotBanks_keep h36
      clear_value x37
      exact h38
    clear_value x32
    exact keep_foldl (fun s39 x40 h41 => State.useStream_keep h41) h33

theorem State.periodBegins_keep {s : State} {h : Nat} (hk : Keep q s) : Keep q (State.periodBegins s h) := by
  unfold State.periodBegins
  extract_lets +onlyGivenNames x1
  clear_value x1
  extract_lets +onlyGivenNames x2
  have h3 : Keep q x2 := keep_of hk rfl rfl rfl rfl rfl rfl
  clear_value x2
  exact keep_foldl (fun s4 x5 h6 => State.setCoreState_keep (State.setCore_keep h6)) h3

theorem State.denySlot_keep {s : State} {x : Nat × Nat × Nat} (hk : Keep q s) : Keep q (State.denySlot s x) := by
  unfold State.denySlot
  split
  · exact hk
  · split
    · exact State.fatal_keep hk
    · split
      · exact State.fatal_keep hk
      · exact hk

theorem State.plnPass_keep {s : State} {h : Nat} (hk : Keep q s) : Keep q (State.plnPass s h) := by
  unfold State.plnPass
  extract_lets +onlyGivenNames x1
  have h2 : ∀ y0 y1, Keep q y0 → Keep q (x1 y0 y1) := by
    intro y3 y4 h5
    unfold x1
    extract_lets +onlyGivenNames x6 x7
    clear_value x6 x7
    split
    · exact h5
    · exact State.setRouter_keep h5
  clear_value x1
  extract_lets +onlyGivenNames x8
  have h9 : Keep q x8 := keep_foldl (fun s10 x11 h12 => h2 _ _ h12) hk
  clear_value x8
  refine keep_foldl ?_ h9
  intro s13 x14 h15
  extract_lets +onlyGivenNames x16
  clear_value x16
  split
  · exact h15
  · extract_lets +onlyGivenNames x17
    clear_value x17
    extract_lets +onlyGivenNames x18
    have h19 : Keep q x18 := State.setRouter_keep h15
    clear_value x18
    refine keep_foldl ?_ h19
    intro s20 x21 h22
    extract_lets +onlyGivenNames x23
    have h24 : Keep q x23 := State.writeCore_keep h22
    clear_value x23
    split
    · extract_lets +onlyGivenNames x25
      clear_value x25
      split
      · exact State.sbFreed_keep (State.sbRelease_keep h24)
      · exact State.addFld_keep h24
    · exact h24

theorem State.adapterCycle_keep {s : State} {h : Nat} (hk : Keep q s) : Keep q (State.adapterCycle s h) := by
  unfold State.adapterCycle
  refine keep_foldl ?_ hk
  intro s1 x2 h3
  extract_lets +onlyGivenNames x4
  have h5 : Keep q x4 := by
    unfold x4
    split
    · exact State.addFld_keep h3
    · exact h3
  clear_value x4
  extract_lets +onlyGivenNames x6
  clear_value x6
  split
  · exact State.addFld_keep h5
  · exact h5

theorem State.slotStall_keep {s : State} {h : Nat} {lost : List (Nat × Nat × Bool × Nat)} (hk : Keep q s) :
    Keep q (State.slotStall s h lost) := by
  unfold State.slotStall
  extract_lets +onlyGivenNames x1
  have h2 : Keep q x1 := keep_foldl (fun s3 x4 h5 => State.recordConflict_keep h5) hk
  clear_value x1
  extract_lets +onlyGivenNames x6
  have h7 : Keep q x6 := State.plnStallCycle_keep (keep_of h2 rfl rfl rfl rfl rfl rfl)
  clear_value x6
  exact keep_foldl (fun s8 x9 h10 => State.freezeCycles_keep h10) h7

theorem State.slotMet_keep {s : State} {x : CoreNo × PortEvent} (hk : Keep q s) : Keep q (State.slotMet s x) := by
  unfold State.slotMet
  extract_lets +onlyGivenNames x1
  clear_value x1
  extract_lets +onlyGivenNames x2
  have h3 : Keep q x2.1 := State.port_keep hk
  clear_value x2
  split
  · exact State.fatal_keep h3
  · exact h3

theorem State.execHalf_keep {s : State} {old : Mem} {h : Nat} {met : List (CoreNo × PortEvent)} (hk : Keep q s) :
    Keep q (State.execHalf s old h met) := by
  unfold State.execHalf
  extract_lets +onlyGivenNames x1
  clear_value x1
  extract_lets +onlyGivenNames x2
  have h3 : Keep q x2 := State.setFld_keep (keep_of hk rfl rfl rfl rfl rfl rfl)
  clear_value x2
  extract_lets +onlyGivenNames x4
  have h5 : Keep q x4 := keep_foldl (fun s6 x7 h8 => State.setRouter_keep h8) h3
  clear_value x4
  extract_lets +onlyGivenNames x9
  have h10 : Keep q x9.1 := by
    unfold x9
    refine keep_foldl_fst ?_ h5
    intro x11 x12 h13
    extract_lets +onlyGivenNames x14
    have h15 : Keep q x14.1 := State.execRouter_keep h13
    clear_value x14
    exact h15
  clear_value x9
  extract_lets +onlyGivenNames x16
  have h17 : Keep q x16 := keep_foldl (fun s18 x19 h20 => State.thawCore_keep h20) h10
  clear_value x16
  extract_lets +onlyGivenNames x21
  clear_value x21
  extract_lets +onlyGivenNames x22
  have h23 : Keep q x22 := State.setFld_keep h17
  clear_value x22
  extract_lets +onlyGivenNames x24
  have h25 : Keep q x24 := by
    unfold x24
    split
    · exact State.periodBegins_keep h23
    · exact h23
  clear_value x24
  extract_lets +onlyGivenNames x26
  have h27 : Keep q x26 := keep_foldl (fun s28 x29 h30 => State.denySlot_keep h30) h25
  clear_value x26
  exact State.unitWork_keep (keep_foldl (fun s31 x32 h33 => State.slotMet_keep h33) h27)

theorem execPlnSlotExecute_keep {half : Half} {met : List (CoreNo × PortEvent)} {ecc : List ClumpNo} {s : State} (hk : Keep q s) :
    KeepOut q (execPlnSlotExecute half met ecc s) := by
  unfold execPlnSlotExecute
  extract_lets +onlyGivenNames x1
  clear_value x1
  refine keepOut_next ?_
  split
  · exact hk
  · extract_lets +onlyGivenNames x2
    clear_value x2
    extract_lets +onlyGivenNames x3
    have h4 : Keep q x3 := keep_foldl (fun s5 x6 h7 => State.addFld_keep h7) hk
    clear_value x3
    extract_lets +onlyGivenNames x8
    have h9 : Keep q x8 := State.adapterCycle_keep (State.plnPass_keep (keep_of h4 rfl rfl rfl rfl rfl rfl))
    clear_value x8
    split
    · exact State.plnStallCycle_keep h9
    · extract_lets +onlyGivenNames x10 x11 x12 x13 x14
      clear_value x10 x11 x12 x13 x14
      split
      · exact State.execHalf_keep h9
      · exact State.slotStall_keep h9

theorem execPlnStall_keep {half : Half} {s : State} (hk : Keep q s) : KeepOut q (execPlnStall half s) := by
  unfold execPlnStall
  extract_lets +onlyGivenNames x1
  clear_value x1
  refine keepOut_next ?_
  split
  · split
    · exact State.logEvent_keep hk
    · exact hk
  · exact hk

theorem execOpenRowHop_keep {src : ClumpNo} {s : State} (hk : Keep q s) : KeepOut q (execOpenRowHop src s) := by
  unfold execOpenRowHop
  extract_lets +onlyGivenNames x1
  clear_value x1
  refine keepOut_next ?_
  split
  · exact hk
  · split
    · exact hk
    · extract_lets +onlyGivenNames x2
      clear_value x2
      extract_lets +onlyGivenNames x3
      have h4 : Keep q x3 := State.addFld_keep (State.setRouter_keep hk)
      clear_value x3
      extract_lets +onlyGivenNames x5
      clear_value x5
      exact State.unitWork_keep (State.settleRouter_keep (State.sendRow_keep h4))

end Sys2Proof.Machine
end

