-- ==== Sys2Proof/Laws/KeepPosts.lean ====
section
/-! SUPPORT. Every operation of Posts keeps the invariant and the queue. -/

namespace Sys2Proof.Machine

variable {q : List Instr}

theorem State.postOut_keep {s : State} {p : Nat} (hk : Keep q s) : Keep q (State.postOut s p) :=
  State.setCore_keep hk

theorem State.sendPost_keep {s : State} {p l a : Nat} {v : Word} (hk : Keep q s) : Keep q (State.sendPost s p l a v) := by
  unfold State.sendPost
  extract_lets +onlyGivenNames x1
  clear_value x1
  split
  · exact State.postAnswered_keep (State.addFld_keep hk)
  · split
    · exact State.issueBinder_keep hk
    · split
      · exact State.postAnswered_keep hk
      · split
        · split
          · split
            · exact State.postAnswered_keep hk
            · extract_lets +onlyGivenNames x2
              have h3 : Keep q x2.1 := State.doorbell_keep hk
              clear_value x2
              exact State.postAnswered_keep h3
          · split
            · exact State.postAnswered_keep hk
            · extract_lets +onlyGivenNames x4
              have h5 : Keep q x4.1 := State.windowWrite_keep hk
              clear_value x4
              split
              · exact h5
              · exact State.postAnswered_keep h5
        · split
          · exact State.postAnswered_keep hk
          · exact State.sendOn_keep hk

theorem execPost_keep {c : CoreNo} {sa sb : SReg} {s : State} (hk : Keep q s) : KeepOut q (execPost c sa sb s) := by
  unfold execPost
  refine keepOut_next ?_
  split
  · extract_lets +onlyGivenNames x1
    clear_value x1
    split
    · exact State.fatal_keep hk
    · split
      · split
        · extract_lets +onlyGivenNames x2
          clear_value x2
          split
          · exact State.setCore_keep hk
          · exact State.setCoreState_keep (State.setCore_keep hk)
        · exact hk
      · split
        · exact hk
        · exact State.unitWork_keep (State.sendPost_keep (State.nextPc_keep (State.postOut_keep hk)))
  · exact hk

theorem State.ackMessage_keep {s : State} {i : Nat} {m : BinderMsg} {status : Nat} (hk : Keep q s) :
    Keep q (State.ackMessage s i m status) := by
  unfold State.ackMessage
  extract_lets +onlyGivenNames x1
  clear_value x1
  exact State.queueOut_keep hk

theorem State.performMessage_keep {s : State} {i : Nat} {m : BinderMsg} (hk : Keep q s) :
    Keep q (State.performMessage s i m) := by
  unfold State.performMessage
  extract_lets +onlyGivenNames x1 x2
  clear_value x1 x2
  extract_lets +onlyGivenNames x3
  have h4 : ∀ y0, Keep q (x3 y0) := by
    intro y5
    unfold x3
    extract_lets +onlyGivenNames x6
    have h7 : Keep q x6.1 := State.binderOp_keep hk
    clear_value x6
    exact State.ackMessage_keep h7
  clear_value x3
  split
  · exact hk
  · split
    · exact State.ackMessage_keep (State.addFld_keep hk)
    · split
      · split
        · exact State.ackMessage_keep (State.addFld_keep hk)
        · split
          · exact h4 _
          · exact h4 _
      · split
        · exact State.ackMessage_keep (State.addFld_keep hk)
        · split
          · exact h4 _
          · split
            · exact State.ackMessage_keep (State.addFld_keep hk)
            · exact h4 _

theorem State.statusOn_keep {s : State} {i tag status : Nat} (hk : Keep q s) :
    Keep q (State.statusOn s i tag status) :=
  State.sendOn_keep hk

theorem State.performIn_keep {s : State} {i : Nat} {x2 : InMsg} (hk : Keep q s) : Keep q (State.performIn s i x2) := by
  unfold State.performIn
  split
  · exact State.performMessage_keep hk
  · extract_lets +onlyGivenNames x1
    have h2 : Keep q x1.1 := State.binderOp_keep hk
    clear_value x1
    split
    · exact h2
    · exact State.statusOn_keep h2

theorem State.serveInq_keep {s : State} {n : Nat} (hk : Keep q s) : Keep q (s.serveInq n) := by
  induction n generalizing s with
  | zero => exact hk
  | succ n ih =>
    unfold State.serveInq
    split
    · exact State.unitWork_keep hk
    · rename_i i m rest h
      have hl := hk.2.inq
      rw [h, List.length_cons] at hl
      exact ih (State.drain_keep (State.performIn_keep (setInq_keep (by omega) hk)))

theorem State.enterInq_keep {s : State} {i : Nat} {m : InMsg} (hk : Keep q s) : Keep q (s.enterInq i m) := by
  unfold State.enterInq
  refine State.setFld_keep ?_
  split
  · exact setInq_keep (by simp) (State.serveInq_keep hk)
  · refine setInq_keep ?_ hk
    rw [List.length_append, List.length_singleton]
    omega

theorem State.messageIn_keep {s : State} {i : Nat} {m : InMsg} (hk : Keep q s) : Keep q (State.messageIn s i m) :=
  State.serveInq_keep (State.enterInq_keep hk)

theorem State.answerMessage_keep {s : State} {i : Nat} {m : BinderMsg} (hk : Keep q s) :
    Keep q (State.answerMessage s i m) := by
  unfold State.answerMessage
  extract_lets +onlyGivenNames x1
  clear_value x1
  split
  · exact hk
  · extract_lets +onlyGivenNames x2
    clear_value x2
    exact State.unitWork_keep (keep_foldl (fun s3 x4 h5 => State.answer_keep h5) (State.setLink_keep hk))

theorem execBinderAck_keep {link : LinkNo} {m : BinderMsg} {s : State} (hk : Keep q s) :
    KeepOut q (execBinderAck link m s) := by
  unfold execBinderAck
  refine keepOut_next ?_
  split
  · exact State.answerMessage_keep (State.stir_keep hk)
  · exact hk

theorem execBinderNak_keep {link : LinkNo} {m : BinderMsg} {s : State} (hk : Keep q s) :
    KeepOut q (execBinderNak link m s) := by
  unfold execBinderNak
  refine keepOut_next ?_
  split
  · exact State.answerMessage_keep (State.stir_keep hk)
  · exact hk

theorem execOwedMessageSend_keep {link : LinkNo} {s : State} (hk : Keep q s) :
    KeepOut q (execOwedMessageSend link s) := by
  unfold execOwedMessageSend
  extract_lets +onlyGivenNames x1 x2
  clear_value x1 x2
  refine keepOut_next ?_
  split
  · exact hk
  · split
    · exact State.unitWork_keep (State.queueOut_keep (State.setLink_keep hk))
    · split
      · exact hk
      · extract_lets +onlyGivenNames x3
        clear_value x3
        exact State.sendUnit_keep (State.setBinder_keep hk)
      · extract_lets +onlyGivenNames x4
        clear_value x4
        exact State.sendUnit_keep (State.setBinder_keep hk)

theorem State.linkReject_keepO {s : State} {a n : Nat} {x : State × Nat} (hk : Keep q s)
    (h : s.linkReject a n = some x) : Keep q x.1 := by
  unfold State.linkReject at h
  split at h
  · cases h; exact State.addFld_keep hk
  · split at h
    · cases h; exact State.addFld_keep hk
    · split at h
      · cases h; exact State.addFld_keep hk
      · split at h
        · cases h; exact hk
        · cases h

theorem State.noteReject_keep {s : State} {a : Nat} (hk : Keep q s) : Keep q (State.noteReject s a) := by
  unfold State.noteReject
  split
  · exact State.addFld_keep hk
  · exact hk

theorem State.serveWrite_keep {s : State} {i : Nat} {p : LinkPacket} (hk : Keep q s) :
    Keep q (State.serveWrite s i p) := by
  unfold State.serveWrite
  extract_lets +onlyGivenNames x1 x2 x3 x4
  clear_value x1 x2 x3 x4
  extract_lets +onlyGivenNames x5
  have h6 : ∀ y0, Keep q y0.1 → Keep q (x5 y0) := by
    intro y7 h8
    unfold x5
    split
    · exact h8
    · exact State.statusOn_keep h8
  clear_value x5
  extract_lets +onlyGivenNames x9
  have h10 : ∀ y0, Keep q y0.1 → Keep q (x9 y0) := by
    intro y11 h12
    unfold x9
    split
    · exact h12
    · exact State.statusOn_keep h12
  clear_value x9
  split
  · have h13 := State.linkReject_keepO hk (by assumption)
    exact h6 _ (State.noteReject_keep h13)
  · split
    · exact State.unitWork_keep (h10 _ (State.coreWrite_keep hk))
    · split
      · split
        · exact h6 _ (State.addFld_keep hk)
        · exact State.messageIn_keep hk
      · split
        · split
          · exact h6 _ (State.addFld_keep hk)
          · exact State.unitWork_keep (h6 _ (State.doorbell_keep hk))
        · exact State.unitWork_keep (h10 _ (State.windowWrite_keep hk))

theorem State.backLater_keep {s : State} {i tag a n : Nat} {season status : Option Nat} (hk : Keep q s) :
    Keep q (State.backLater s i tag a n season status) := by
  unfold State.backLater
  extract_lets +onlyGivenNames x1 x2
  clear_value x1 x2
  exact State.settleBacks_keep (State.setLink_keep hk)

theorem State.readRejected_keep {s : State} {i a n tag status : Nat} {back : Bool} (hk : Keep q s) :
    Keep q (State.readRejected s i a n tag status back) := by
  unfold State.readRejected
  split
  · exact State.backLater_keep hk
  · exact State.statusOn_keep hk

theorem State.serveCoreRead_keep {s : State} {i a n tag : Nat} {back : Bool} (hk : Keep q s) :
    Keep q (State.serveCoreRead s i a n tag back) := by
  unfold State.serveCoreRead
  split
  · exact State.readRejected_keep hk
  · split
    · exact State.readRejected_keep (State.notePd_keep hk)
    · have h1 := State.meetCore_keepO hk (by assumption)
      exact State.acceptRead_keep h1

theorem State.serveRead_keep {s : State} {i : Nat} {p : LinkPacket} (hk : Keep q s) : Keep q (State.serveRead s i p) := by
  unfold State.serveRead
  extract_lets +onlyGivenNames x1 x2
  clear_value x1 x2
  split
  · have h3 := State.linkReject_keepO hk (by assumption)
    exact State.statusOn_keep (State.noteReject_keep h3)
  · split
    · exact State.serveCoreRead_keep hk
    · refine State.statusOn_keep ?_
      split
      · exact State.addFld_keep hk
      · exact hk

theorem State.serveReadback_keep {s : State} {i : Nat} {p : LinkPacket} (hk : Keep q s) :
    Keep q (State.serveReadback s i p) := by
  unfold State.serveReadback
  extract_lets +onlyGivenNames x1 x2
  clear_value x1 x2
  split
  · have h3 := State.linkReject_keepO hk (by assumption)
    exact State.readRejected_keep h3
  · split
    · exact State.serveCoreRead_keep hk
    · exact State.backLater_keep hk

theorem State.spaceTwo_keep {s : State} {src : Agent} {address : DWord} {op value : Nat} (hk : Keep q s) :
    Keep q (State.spaceTwo s src address op value) := by
  unfold State.spaceTwo
  extract_lets +onlyGivenNames x1
  clear_value x1
  split
  · exact State.issueBinder_keep hk
  · exact State.issueBinder_keep hk
  · split
    · exact hk
    · split
      · exact hk
      · exact State.issueBinder_keep (State.postOut_keep hk)
  · split
    · exact hk
    · split
      · extract_lets +onlyGivenNames x2
        clear_value x2
        exact State.messageIn_keep (State.stir_keep hk)
      · exact State.serveWrite_keep (State.drew_keep (State.stir_keep hk))

theorem execArrive_keep {src : Agent} {address : DWord} {value : Word} {s : State} (hk : Keep q s) :
    KeepOut q (execArrive src address value s) :=
  keepOut_next (State.unitWork_keep (State.spaceTwo_keep hk))

theorem execBinderAdd_keep {src : Agent} {address : DWord} {value : Word} {s : State} (hk : Keep q s) :
    KeepOut q (execBinderAdd src address value s) :=
  keepOut_next (State.unitWork_keep (State.spaceTwo_keep hk))

theorem execBinderReset_keep {src : Agent} {address : DWord} {value : Word} {s : State} (hk : Keep q s) :
    KeepOut q (execBinderReset src address value s) :=
  keepOut_next (State.unitWork_keep (State.spaceTwo_keep hk))

theorem execBinderWait_keep {src : Agent} {address : DWord} {value : Word} {s : State} (hk : Keep q s) :
    KeepOut q (execBinderWait src address value s) :=
  keepOut_next (State.unitWork_keep (State.spaceTwo_keep hk))

theorem execRolePulse_keep {src : Agent} {address : DWord} {value : Word} {s : State} (hk : Keep q s) :
    KeepOut q (execRolePulse src address value s) :=
  keepOut_next (State.unitWork_keep (State.spaceTwo_keep hk))

theorem execReleaseMessage_keep {link : LinkNo} {m : BinderMsg} {s : State} (hk : Keep q s) :
    KeepOut q (execReleaseMessage link m s) := by
  unfold execReleaseMessage
  refine keepOut_next ?_
  split
  · exact State.messageIn_keep (State.stir_keep hk)
  · exact hk

theorem execWrite_keep {link : LinkNo} {p : LinkPacket} {s : State} (hk : Keep q s) : KeepOut q (execWrite link p s) := by
  unfold execWrite
  refine keepOut_next ?_
  split
  · exact State.serveWrite_keep (State.stir_keep hk)
  · exact hk

theorem execReadback_keep {link : LinkNo} {p : LinkPacket} {s : State} (hk : Keep q s) :
    KeepOut q (execReadback link p s) := by
  unfold execReadback
  refine keepOut_next ?_
  split
  · exact State.serveReadback_keep (State.stir_keep hk)
  · exact hk

theorem execRead_keep {link : LinkNo} {p : LinkPacket} {s : State} (hk : Keep q s) : KeepOut q (execRead link p s) := by
  unfold execRead
  refine keepOut_next ?_
  split
  · exact State.serveRead_keep (State.stir_keep hk)
  · exact hk

theorem execWindowWrite_keep {src : Agent} {p : LinkPacket} {s : State} (hk : Keep q s) :
    KeepOut q (execWindowWrite src p s) := by
  unfold execWindowWrite
  extract_lets +onlyGivenNames x1 x2 x3
  clear_value x1 x2 x3
  refine keepOut_next ?_
  split
  · exact hk
  · split
    · split
      · exact State.serveWrite_keep (State.stir_keep hk)
      · exact hk
    · split
      · exact State.unitWork_keep (State.windowWrite_keep hk)
      · exact hk
    · extract_lets +onlyGivenNames x4
      clear_value x4
      split
      · extract_lets +onlyGivenNames x5
        have h6 : Keep q x5.1 := State.windowWrite_keep hk
        clear_value x5
        exact State.unitWork_keep (State.answer_keep h6)
      · exact hk
    · split
      · exact hk
      · split
        · exact hk
        · extract_lets +onlyGivenNames x7
          have h8 : Keep q x7.1 := State.windowWrite_keep (State.postOut_keep hk)
          clear_value x7
          refine State.unitWork_keep ?_
          split
          · exact h8
          · exact State.postAnswered_keep h8

theorem State.dmaAnswer_keep {s : State} {i tag status : Nat} {data : Option (List Byte)} (hk : Keep q s) :
    Keep q (State.dmaAnswer s i tag status data) := by
  unfold State.dmaAnswer
  extract_lets +onlyGivenNames x1
  clear_value x1
  split
  · exact hk
  · split
    · exact hk
    · extract_lets +onlyGivenNames x2 x3
      clear_value x2 x3
      split
      · split
        · split
          · exact State.dmaReturned_keep hk
          · exact State.dmaRejected_keep hk
        · extract_lets +onlyGivenNames x4
          clear_value x4
          split
          · exact hk
          · split
            · exact State.dmaRejected_keep (State.drew_keep hk)
            · exact State.unitWork_keep (State.dmaAdvance_keep (State.dmaFail_keep (State.drew_keep hk)))
      · split
        · split
          · exact State.unitWork_keep (State.dmaReadback_keep hk)
          · exact hk
        · split
          · exact State.unitWork_keep (State.dmaStep_keep (State.dmaFail_keep hk))
          · exact hk

theorem State.answerTag_keep {s : State} {i tag status : Nat} {data : Option (List Byte)} (hk : Keep q s) :
    Keep q (State.answerTag s i tag status data) := by
  unfold State.answerTag
  split
  · exact State.dmaAnswer_keep hk
  · split
    · split
      · exact State.unitWork_keep (State.postAnswered_keep hk)
      · exact hk
    · split
      · split
        · exact hk
        · extract_lets +onlyGivenNames x1
          clear_value x1
          exact State.logEvent_keep (State.addFld_keep hk)
      · split
        · extract_lets +onlyGivenNames x2
          have h3 : Keep q x2 := keep_of hk rfl rfl rfl rfl rfl rfl
          clear_value x2
          split
          · split
            · exact h3
            · exact State.unitWork_keep (State.recordRejected_keep h3)
          · split
            · exact h3
            · exact State.unitWork_keep (State.eventRejected_keep h3)
          · exact h3
          · exact hk
        · exact hk

theorem execData_keep {link : LinkNo} {p : LinkPacket} {s : State} (hk : Keep q s) : KeepOut q (execData link p s) := by
  unfold execData
  refine keepOut_next ?_
  split
  · exact State.answerTag_keep (State.stir_keep hk)
  · exact hk

theorem execStatus_keep {link : LinkNo} {p : LinkPacket} {s : State} (hk : Keep q s) :
    KeepOut q (execStatus link p s) := by
  unfold execStatus
  refine keepOut_next ?_
  split
  · exact State.answerTag_keep (State.stir_keep hk)
  · exact hk

end Sys2Proof.Machine
end

