-- ==== Sys2Proof/Laws/KeepEnergy.lean ====
section
/-! SUPPORT. Every operation of Energy keeps the invariant and the queue. -/

namespace Sys2Proof.Machine

variable {q : List Instr}

theorem State.sampleTemp_keep {s : State} {k raw : Nat} (hk : Keep q s) : Keep q (State.sampleTemp s k raw) := by
  unfold State.sampleTemp
  extract_lets +onlyGivenNames x1 x2
  clear_value x1 x2
  extract_lets +onlyGivenNames x3
  have h4 : Keep q x3 := State.setFld_keep (State.setFld_keep hk)
  clear_value x3
  split
  · exact State.logEvent_keep h4
  · exact h4

theorem State.sampleMv_keep {s : State} {v raw : Nat} (hk : Keep q s) : Keep q (State.sampleMv s v raw) := by
  unfold State.sampleMv
  extract_lets +onlyGivenNames x1 x2
  clear_value x1 x2
  extract_lets +onlyGivenNames x3
  have h4 : Keep q x3 := State.setFld_keep (State.setFld_keep hk)
  clear_value x3
  exact State.setFld_keep h4

theorem execSensorSample_keep {temps : List (BitVec 16)} {mv : List Nat} {s : State} (hk : Keep q s) :
    KeepOut q (execSensorSample temps mv s) := by
  unfold execSensorSample
  refine keepOut_next ?_
  split
  · extract_lets +onlyGivenNames x1
    have h2 : Keep q x1 := keep_foldl (fun s3 x4 h5 => State.sampleTemp_keep h5) hk
    clear_value x1
    extract_lets +onlyGivenNames x6
    have h7 : Keep q x6 := keep_foldl (fun s8 x9 h10 => State.sampleMv_keep h10) h2
    clear_value x6
    split
    · exact State.setFld_keep (State.setFld_keep h7)
    · exact h7
  · exact hk

theorem execDroopStretch_keep {half : Half} {monitor : Fin 20} {mvBelow cycles : Nat} {s : State} (hk : Keep q s) :
    KeepOut q (execDroopStretch half monitor mvBelow cycles s) := by
  unfold execDroopStretch
  extract_lets +onlyGivenNames x1
  clear_value x1
  refine keepOut_next ?_
  split
  · exact hk
  · extract_lets +onlyGivenNames x2
    have h3 : Keep q x2 := State.addFld_keep hk
    clear_value x2
    split
    · exact State.logEvent_keep (State.addFld_keep h3)
    · exact h3

theorem execDroopStretchEnd_keep {half : Half} {cycles : Nat} {s : State} (hk : Keep q s) :
    KeepOut q (execDroopStretchEnd half cycles s) := by
  unfold execDroopStretchEnd
  refine keepOut_next ?_
  split
  · exact hk
  · exact State.addFld_keep hk

theorem State.capEvent_keep {s : State} {h code cause : Nat} {release : Bool} (hk : Keep q s) :
    Keep q (State.capEvent s h code cause release) :=
  State.logEvent_keep hk

theorem State.setCap_keep {s : State} {f : Fld} {h code cause top : Nat} (hk : Keep q s) :
    Keep q (State.setCap s f h code cause top) := by
  unfold State.setCap
  extract_lets +onlyGivenNames x1
  clear_value x1
  extract_lets +onlyGivenNames x2
  have h3 : Keep q x2 := State.setFld_keep hk
  clear_value x2
  split
  · exact State.capEvent_keep h3
  · split
    · exact State.capEvent_keep h3
    · exact h3

theorem State.settlePace_keep {s : State} (hk : Keep q s) : Keep q (State.settlePace s) := by
  unfold State.settlePace
  extract_lets +onlyGivenNames x1 x2 x3
  clear_value x1 x2 x3
  extract_lets +onlyGivenNames x4
  have h5 : Keep q x4 := State.setFld_keep (State.setFld_keep hk)
  clear_value x4
  extract_lets +onlyGivenNames x6 x7
  clear_value x6 x7
  extract_lets +onlyGivenNames x8
  have h9 : Keep q x8 := keep_of h5 rfl rfl rfl rfl rfl rfl
  clear_value x8
  extract_lets +onlyGivenNames x10
  clear_value x10
  extract_lets +onlyGivenNames x11
  have h12 : Keep q x11 := State.setFld_keep h9
  clear_value x11
  extract_lets +onlyGivenNames x13
  clear_value x13
  extract_lets +onlyGivenNames x14
  have h15 : Keep q x14 := State.setCap_keep (State.setCap_keep h12)
  clear_value x14
  split
  · exact State.retarget_keep (State.retarget_keep h15)
  · exact h15

theorem State.unmet_keep {s : State} {limit : Nat} (hk : Keep q s) : Keep q (State.unmet s limit) :=
  State.logEvent_keep (State.addFld_keep hk)

theorem State.noteRaise_keep {s : State} {k : Nat} (hk : Keep q s) : Keep q (State.noteRaise s k) :=
  keep_of hk rfl rfl rfl rfl rfl rfl

theorem State.setPowerCap_keep {s : State} {cause : Nat} (hk : Keep q s) : Keep q (State.setPowerCap s cause) := by
  unfold State.setPowerCap
  extract_lets +onlyGivenNames x1 x2
  clear_value x1 x2
  exact State.settlePace_keep (State.setCap_keep (State.setCap_keep hk))

theorem execPowerFastEval_keep {s : State} (hk : Keep q s) : KeepOut q (execPowerFastEval s) := by
  unfold execPowerFastEval
  refine keepOut_next ?_
  split
  · exact hk
  · extract_lets +onlyGivenNames x1 x2 x3
    clear_value x1 x2 x3
    split
    · extract_lets +onlyGivenNames x4
      have h5 : Keep q x4 := by
        unfold x4
        split
        · exact State.unmet_keep hk
        · exact hk
      clear_value x4
      exact State.setPowerCap_keep (keep_of h5 rfl rfl rfl rfl rfl rfl)
    · split
      · exact State.setPowerCap_keep (State.noteRaise_keep (keep_of hk rfl rfl rfl rfl rfl rfl))
      · exact State.settlePace_keep hk

theorem State.countCaps_keep {s : State} (hk : Keep q s) : Keep q (State.countCaps s) := by
  unfold State.countCaps
  extract_lets +onlyGivenNames x1
  clear_value x1
  extract_lets +onlyGivenNames x2
  have h3 : ∀ y0 y1 y2, Keep q y0 → Keep q (x2 y0 y1 y2) := by
    intro y4 y5 y6 h7
    unfold x2
    split
    · exact State.addFld_keep h7
    · exact h7
  clear_value x2
  exact h3 _ _ _ (h3 _ _ _ (h3 _ _ _ (h3 _ _ _ hk)))

theorem execPowerSlowEval_keep {s : State} (hk : Keep q s) : KeepOut q (execPowerSlowEval s) := by
  unfold execPowerSlowEval
  refine keepOut_next ?_
  split
  · exact hk
  · extract_lets +onlyGivenNames x1 x2 x3
    clear_value x1 x2 x3
    extract_lets +onlyGivenNames x4
    have h5 : Keep q x4 := by
      unfold x4
      split
      · exact State.unmet_keep hk
      · exact hk
    clear_value x4
    extract_lets +onlyGivenNames x6 x7
    clear_value x6 x7
    extract_lets +onlyGivenNames x8
    have h9 : Keep q x8 := by
      unfold x8
      split
      · exact State.setPowerCap_keep (keep_of h5 rfl rfl rfl rfl rfl rfl)
      · split
        · exact State.setPowerCap_keep (State.noteRaise_keep (keep_of hk rfl rfl rfl rfl rfl rfl))
        · exact hk
    clear_value x8
    extract_lets +onlyGivenNames x10
    clear_value x10
    extract_lets +onlyGivenNames x11
    have h12 : Keep q x11 := by
      unfold x11
      split
      · exact keep_of h9 rfl rfl rfl rfl rfl rfl
      · exact h9
    clear_value x11
    exact State.countCaps_keep h12

theorem State.thermalHalf_keep {s : State} {h : Nat} (hk : Keep q s) : Keep q (State.thermalHalf s h) := by
  unfold State.thermalHalf
  split
  · exact hk
  · extract_lets +onlyGivenNames x1 x2 x3 x4 x5
    clear_value x1 x2 x3 x4 x5
    extract_lets +onlyGivenNames x6
    have h7 : Keep q x6 := keep_of hk rfl rfl rfl rfl rfl rfl
    clear_value x6
    split
    · extract_lets +onlyGivenNames x8
      have h9 : Keep q x8 := by
        unfold x8
        split
        · exact State.unmet_keep h7
        · exact h7
      clear_value x8
      exact State.setCap_keep h9
    · split
      · split
        · exact State.setCap_keep (State.noteRaise_keep h7)
        · exact h7
      · exact h7

theorem execThermalEval_keep {s : State} (hk : Keep q s) : KeepOut q (execThermalEval s) := by
  unfold execThermalEval
  refine keepOut_next ?_
  split
  · exact State.settlePace_keep (State.thermalHalf_keep (State.thermalHalf_keep hk))
  · exact hk

theorem execGlideStep_keep {half : Half} {s : State} (hk : Keep q s) : KeepOut q (execGlideStep half s) := by
  unfold execGlideStep
  extract_lets +onlyGivenNames x1
  clear_value x1
  refine keepOut_next ?_
  split
  · exact hk
  · extract_lets +onlyGivenNames x2 x3 x4
    clear_value x2 x3 x4
    extract_lets +onlyGivenNames x5
    have h6 : Keep q x5 := State.setFld_keep hk
    clear_value x5
    split
    · exact h6
    · extract_lets +onlyGivenNames x7
      have h8 : Keep q x7 := State.setFld_keep h6
      clear_value x7
      extract_lets +onlyGivenNames x9
      have h10 : Keep q x9 := by
        unfold x9
        split
        · exact keep_foldl (fun s11 x12 h13 => State.signal_keep h13) h8
        · exact h8
      clear_value x9
      split
      · exact State.railRequest_keep h10
      · exact h10

theorem execRailAck_keep {half : Half} {s : State} (hk : Keep q s) : KeepOut q (execRailAck half s) := by
  unfold execRailAck
  extract_lets +onlyGivenNames x1
  clear_value x1
  refine keepOut_next ?_
  split
  · exact hk
  · extract_lets +onlyGivenNames x2
    clear_value x2
    extract_lets +onlyGivenNames x3
    have h4 : Keep q x3 := State.setRail_keep hk
    clear_value x3
    split
    · exact State.retarget_keep h4
    · exact h4

theorem State.addComp_keep {s : State} {k nj : Nat} (hk : Keep q s) : Keep q (State.addComp s k nj) := by
  unfold State.addComp
  extract_lets +onlyGivenNames x1 x2
  clear_value x1 x2
  exact State.addFld_keep (State.addFld_keep (keep_of hk rfl rfl rfl rfl rfl rfl))

theorem execEnergyEstimate_keep {components : List Nat} {s : State} (hk : Keep q s) :
    KeepOut q (execEnergyEstimate components s) := by
  unfold execEnergyEstimate
  refine keepOut_next ?_
  split
  · exact hk
  · extract_lets +onlyGivenNames x1
    have h2 : Keep q x1 := keep_of hk rfl rfl rfl rfl rfl rfl
    clear_value x1
    extract_lets +onlyGivenNames x3
    clear_value x3
    extract_lets +onlyGivenNames x4
    have h5 : Keep q x4 := keep_foldl (fun s6 x7 h8 => State.addComp_keep h8) h2
    clear_value x4
    extract_lets +onlyGivenNames x9 x10 x11 x12
    clear_value x9 x10 x11 x12
    extract_lets +onlyGivenNames x13
    have h14 : Keep q x13 := keep_of h5 rfl rfl rfl rfl rfl rfl
    clear_value x13
    exact State.setFld_keep (State.setFld_keep (State.setFld_keep h14))

theorem execEnergyAccountUpdate_keep {shares : List (Fin 256 × Option CtxNo × Nat)} {unattributed : Nat} {s : State} (hk : Keep q s) :
    KeepOut q (execEnergyAccountUpdate shares unattributed s) := by
  unfold execEnergyAccountUpdate
  extract_lets +onlyGivenNames x1 x2
  clear_value x1 x2
  refine keepOut_next ?_
  split
  · exact hk
  · extract_lets +onlyGivenNames x3
    have h4 : Keep q x3 := by
      unfold x3
      refine keep_foldl ?_ hk
      intro s5 x6 h7
      extract_lets +onlyGivenNames x8
      have h9 : Keep q x8 := State.addFld_keep h7
      clear_value x8
      split
      · exact State.addFld_keep h9
      · exact h9
    clear_value x3
    extract_lets +onlyGivenNames x10
    have h11 : Keep q x10 := State.addFld_keep h4
    clear_value x10
    exact keep_of h11 rfl rfl rfl rfl rfl rfl

end Sys2Proof.Machine
end

