-- ==== Sys2Proof/Laws/KeepPace.lean ====
section
/-! SUPPORT. Every operation of Pace keeps the invariant and the queue. -/

namespace Sys2Proof.Machine

variable {q : List Instr}

theorem State.sendVc5_keep {s : State} {m : Vc5Msg} (hk : Keep q s) : Keep q (State.sendVc5 s m) := by
  unfold State.sendVc5
  split
  · exact hk
  · extract_lets +onlyGivenNames x1
    clear_value x1
    split
    · extract_lets +onlyGivenNames x2
      clear_value x2
      exact State.setLink_keep hk
    · exact State.setLink_keep hk

theorem State.takeTotal_keep {s : State} {m : Vc5Msg} (hk : Keep q s) : Keep q (State.takeTotal s m) := by
  unfold State.takeTotal
  extract_lets +onlyGivenNames x1
  clear_value x1
  split
  · exact hk
  · extract_lets +onlyGivenNames x2 x3
    clear_value x2 x3
    extract_lets +onlyGivenNames x4
    have h5 : Keep q x4 := keep_of hk rfl rfl rfl rfl rfl rfl
    clear_value x4
    exact State.setFld_keep h5

theorem State.takeDemand_keep {s : State} {m : Vc5Msg} (hk : Keep q s) : Keep q (State.takeDemand s m) := by
  unfold State.takeDemand
  extract_lets +onlyGivenNames x1 x2
  clear_value x1 x2
  split
  · exact hk
  · extract_lets +onlyGivenNames x3 x4
    clear_value x3 x4
    exact keep_of hk rfl rfl rfl rfl rfl rfl

theorem State.sendDemand_keep {s : State} {w : Nat} {sleeping : Bool} (hk : Keep q s) :
    Keep q (State.sendDemand s w sleeping) := by
  unfold State.sendDemand
  extract_lets +onlyGivenNames x1 x2
  clear_value x1 x2
  extract_lets +onlyGivenNames x3
  have h4 : Keep q x3 := State.setFld_keep (keep_of hk rfl rfl rfl rfl rfl rfl)
  clear_value x3
  refine keep_foldl ?_ h4
  intro s5 x6 h7
  extract_lets +onlyGivenNames x8
  clear_value x8
  split
  · exact h7
  · exact State.sendVc5_keep h7

theorem execDemandSend_keep {s : State} (hk : Keep q s) : KeepOut q (execDemandSend s) := by
  unfold execDemandSend
  refine keepOut_next ?_
  split
  · exact State.sendDemand_keep hk
  · exact hk

theorem execBudgetCompute_keep {s : State} (hk : Keep q s) : KeepOut q (execBudgetCompute s) := by
  unfold execBudgetCompute
  refine keepOut_next ?_
  split
  · exact hk
  · extract_lets +onlyGivenNames x1 x2 x3 x4 x5
    clear_value x1 x2 x3 x4 x5
    extract_lets +onlyGivenNames x6
    have h7 : Keep q x6 := State.setFld_keep hk
    clear_value x6
    extract_lets +onlyGivenNames x8
    have h9 : Keep q x8 := keep_foldl (fun s10 x11 h12 => State.logEvent_keep h12) h7
    clear_value x8
    split
    · exact State.setFld_keep h9
    · split
      · exact State.setFld_keep h9
      · exact State.setFld_keep h9

theorem State.sendPace_keep {s : State} {dest ttl cause seq origin code : Nat} (hk : Keep q s) :
    Keep q (State.sendPace s dest ttl cause seq origin code) := by
  unfold State.sendPace
  split
  · exact hk
  · exact State.sendVc5_keep hk

theorem execPaceSend_keep {s : State} (hk : Keep q s) : KeepOut q (execPaceSend s) := by
  unfold execPaceSend
  refine keepOut_next ?_
  split
  · exact hk
  · extract_lets +onlyGivenNames x1 x2
    clear_value x1 x2
    extract_lets +onlyGivenNames x3
    have h4 : ∀ y0 y1 y2, Keep q y0 → Keep q (x3 y0 y1 y2) := fun y5 y6 y7 h8 => keep_foldl (fun s9 x10 h11 => State.sendPace_keep h11) h8
    clear_value x3
    extract_lets +onlyGivenNames x12
    clear_value x12
    split
    · exact h4 _ _ _ (keep_of hk rfl rfl rfl rfl rfl rfl)
    · split
      · exact h4 _ _ _ (keep_of hk rfl rfl rfl rfl rfl rfl)
      · split
        · exact h4 _ _ _ (keep_of hk rfl rfl rfl rfl rfl rfl)
        · exact hk

theorem State.takePace_keep {s : State} {m : Vc5Msg} (hk : Keep q s) : Keep q (State.takePace s m) := by
  unfold State.takePace
  extract_lets +onlyGivenNames x1 x2 x3 x4 x5 x6 x7
  clear_value x1 x2 x3 x4 x5 x6 x7
  split
  · exact hk
  · extract_lets +onlyGivenNames x8 x9 x10 x11
    clear_value x8 x9 x10 x11
    split
    · exact State.addFld_keep hk
    · extract_lets +onlyGivenNames x12
      have h13 : Keep q x12 := State.settlePace_keep (keep_of hk rfl rfl rfl rfl rfl rfl)
      clear_value x12
      split
      · exact h13
      · exact keep_foldl (fun s14 x15 h16 => State.sendPace_keep h16) h13

theorem State.vc5In_keep {s : State} {m : Vc5Msg} (hk : Keep q s) : Keep q (State.vc5In s m) := by
  unfold State.vc5In
  split
  · exact State.takePace_keep hk
  · split
    · exact State.takeDemand_keep hk
    · split
      · exact State.takeTotal_keep hk
      · exact State.addFld_keep hk

theorem execPace_keep {link : LinkNo} {m : Vc5Msg} {s : State} (hk : Keep q s) : KeepOut q (execPace link m s) := by
  unfold execPace
  refine keepOut_next ?_
  split
  · exact State.vc5In_keep (State.stir_keep hk)
  · exact hk

theorem execDemand_keep {link : LinkNo} {m : Vc5Msg} {s : State} (hk : Keep q s) : KeepOut q (execDemand link m s) := by
  unfold execDemand
  refine keepOut_next ?_
  split
  · exact State.vc5In_keep (State.stir_keep hk)
  · exact hk

theorem execTotal_keep {link : LinkNo} {m : Vc5Msg} {s : State} (hk : Keep q s) : KeepOut q (execTotal link m s) := by
  unfold execTotal
  refine keepOut_next ?_
  split
  · exact State.vc5In_keep (State.stir_keep hk)
  · exact hk

theorem execPaceTableAge_keep {s : State} (hk : Keep q s) : KeepOut q (execPaceTableAge s) := by
  unfold execPaceTableAge
  refine keepOut_next ?_
  split
  · exact hk
  · extract_lets +onlyGivenNames x1 x2
    clear_value x1 x2
    exact State.settlePace_keep (keep_of hk rfl rfl rfl rfl rfl rfl)

theorem State.serveMgmt_keep {s : State} {i tag : Nat} {m : Mgmt} (hk : Keep q s) :
    Keep q (State.serveMgmt s i tag m) := by
  unfold State.serveMgmt
  split
  · split
    · exact State.vc5In_keep hk
    · exact State.statusOn_keep hk
  · split
    · exact hk
    · exact State.statusOn_keep hk

theorem execMgmt_keep {link : LinkNo} {tag : BitVec 16} {m : Mgmt} {s : State} (hk : Keep q s) :
    KeepOut q (execMgmt link tag m s) := by
  unfold execMgmt
  refine keepOut_next ?_
  split
  · exact State.serveMgmt_keep (State.stir_keep hk)
  · exact hk

end Sys2Proof.Machine
end

