-- ==== Sys2Proof/Laws/KeepPower.lean ====
section
/-! SUPPORT. Every operation of Power keeps the invariant and the queue. -/

namespace Sys2Proof.Machine

variable {q : List Instr}

theorem State.loseCore_keep {s : State} {p : Nat} (hk : Keep q s) : Keep q (State.loseCore s p) := by
  unfold State.loseCore
  extract_lets +onlyGivenNames x1
  have h2 : Keep q x1 := keep_foldl (fun s3 x4 h5 => State.setFld_keep h5) hk
  clear_value x1
  extract_lets +onlyGivenNames x6 x7
  clear_value x6 x7
  extract_lets +onlyGivenNames x8
  have h9 : Keep q x8 := State.setCore_keep h2
  clear_value x8
  exact State.sbClear_keep (State.drew_keep h9)

theorem State.settleIn_keep {s : State} {p l x : Nat} (hk : Keep q s) : Keep q (State.settleIn s p l x) := by
  unfold State.settleIn
  extract_lets +onlyGivenNames x1
  have h2 : Keep q x1 := State.loseBanks_keep (State.setFld_keep hk)
  clear_value x1
  split
  · exact State.loseCore_keep h2
  · exact h2

theorem State.powerDone_keep {s : State} {p status : Nat} (hk : Keep q s) : Keep q (State.powerDone s p status) := by
  unfold State.powerDone
  split
  · exact hk
  · extract_lets +onlyGivenNames x1
    clear_value x1
    extract_lets +onlyGivenNames x2
    have h3 : Keep q x2 := State.setCore_keep hk
    clear_value x2
    extract_lets +onlyGivenNames x4
    clear_value x4
    split
    · exact h3
    · extract_lets +onlyGivenNames x5
      have h6 : Keep q x5 := State.finishOp_keep h3
      clear_value x5
      split
      · exact keep_of h6 rfl rfl rfl rfl rfl rfl
      · exact h6

theorem State.beginTransition_keep {s : State} {p x : Nat} (hk : Keep q s) : Keep q (State.beginTransition s p x) := by
  unfold State.beginTransition
  split
  · exact State.beginWake_keep hk
  · exact State.beginEntry_keep hk

theorem State.takePending_keepO {s : State} {l : Nat} {x : State × Nat × Nat} (hk : Keep q s)
    (h : s.takePending l = some x) : Keep q x.1 := by
  unfold State.takePending at h
  split at h
  · cases h; exact State.setFld_keep (State.setFld_keep (State.setFld_keep hk))
  · cases h

theorem State.startPending_keep {s : State} {p l : Nat} (hk : Keep q s) : Keep q (State.startPending s p l) := by
  unfold State.startPending
  split
  · exact hk
  · have h1 := State.takePending_keepO hk (by assumption)
    extract_lets +onlyGivenNames x2
    clear_value x2
    extract_lets +onlyGivenNames x3
    have h4 : Keep q x3 := State.setCore_keep h1
    clear_value x3
    split
    · have h5 := State.takePending_keepO hk (by assumption)
      exact State.powerDone_keep h4
    · have h6 := State.takePending_keepO hk (by assumption)
      split
      · have h7 := State.takePending_keepO hk (by assumption)
        exact State.powerDone_keep (State.satFld_keep (State.setFld_keep h4))
      · have h8 := State.takePending_keepO hk (by assumption)
        exact State.beginTransition_keep (State.runOp_keep h4)

theorem State.rejectHeld_keep {s : State} {p : Nat} (hk : Keep q s) : Keep q (State.rejectHeld s p) := by
  unfold State.rejectHeld
  extract_lets +onlyGivenNames x1
  clear_value x1
  extract_lets +onlyGivenNames x2
  have h3 : Keep q x2 := State.addFld_keep (State.setCore_keep hk)
  clear_value x2
  extract_lets +onlyGivenNames x4
  have h5 : Keep q x4 := keep_foldl (fun s6 x7 h8 => State.afterWrite_keep (State.answerWrite_keep h8)) h3
  clear_value x4
  exact State.unitWork_keep (keep_foldl (fun s9 x10 h11 => State.rejectRead_keep h11) h5)

theorem State.entryDone_keep {s : State} {p l : Nat} (hk : Keep q s) : Keep q (State.entryDone s p l) := by
  unfold State.entryDone
  extract_lets +onlyGivenNames x1
  clear_value x1
  extract_lets +onlyGivenNames x2
  have h3 : Keep q x2 := State.powerDone_keep (State.settleIn_keep hk)
  clear_value x2
  split
  · extract_lets +onlyGivenNames x4
    clear_value x4
    extract_lets +onlyGivenNames x5
    have h6 : Keep q x5 := State.setCore_keep h3
    clear_value x5
    split
    · exact State.startPending_keep (State.rejectHeld_keep h6)
    · exact State.beginWake_keep h6
  · exact State.startPending_keep h3

theorem State.wakeDone_keep {s : State} {p l : Nat} (hk : Keep q s) : Keep q (State.wakeDone s p l) := by
  unfold State.wakeDone
  extract_lets +onlyGivenNames x1
  have h2 : Keep q x1 := State.setFld_keep hk
  clear_value x1
  extract_lets +onlyGivenNames x3
  have h4 : Keep q x3 := by
    unfold x3
    split
    · exact State.addFld_keep h2
    · exact h2
  clear_value x3
  extract_lets +onlyGivenNames x5
  clear_value x5
  extract_lets +onlyGivenNames x6
  have h7 : Keep q x6 := by
    unfold x6
    split
    · split
      · exact State.setCore_keep h4
      · exact h4
    · exact h4
  clear_value x6
  extract_lets +onlyGivenNames x8 x9
  clear_value x8 x9
  extract_lets +onlyGivenNames x10
  have h11 : Keep q x10 := keep_foldl (fun s12 x13 h14 => State.signal_keep h14) (State.setCore_keep h7)
  clear_value x10
  extract_lets +onlyGivenNames x15
  have h16 : Keep q x15 := by
    unfold x15
    split
    · split
      · exact State.endWait_keep h11
      · exact h11
    · exact h11
  clear_value x15
  exact State.startPending_keep (State.powerDone_keep h16)

theorem State.coreDone_keep {s : State} {p : Nat} (hk : Keep q s) : Keep q (State.coreDone s p) := by
  unfold State.coreDone
  split
  · exact hk
  · extract_lets +onlyGivenNames x1
    clear_value x1
    extract_lets +onlyGivenNames x2
    have h3 : Keep q x2 := by
      unfold x2
      split
      · exact State.entryDone_keep hk
      · split
        · exact State.wakeDone_keep hk
        · exact hk
    clear_value x2
    extract_lets +onlyGivenNames x4 x5
    clear_value x4 x5
    split
    · exact State.settleIn_keep h3
    · exact h3

theorem State.ctlOn_keep {s : State} {i : Nat} {x : Ctl} (hk : Keep q s) : Keep q (State.ctlOn s i x) := by
  unfold State.ctlOn
  extract_lets +onlyGivenNames x1
  clear_value x1
  exact State.setLink_keep hk

theorem State.beginSleep_keep {s : State} (hk : Keep q s) : Keep q (State.beginSleep s) := by
  unfold State.beginSleep
  extract_lets +onlyGivenNames x1
  have h2 : Keep q x1 := by
    unfold x1
    refine keep_foldl ?_ hk
    intro s3 x4 h5
    split
    · exact h5
    · split
      · exact State.settleIn_keep h5
      · exact h5
  clear_value x1
  extract_lets +onlyGivenNames x6
  clear_value x6
  extract_lets +onlyGivenNames x7
  have h8 : Keep q x7 := State.sendDemand_keep (keep_of h2 rfl rfl rfl rfl rfl rfl)
  clear_value x7
  extract_lets +onlyGivenNames x9
  have h10 : Keep q x9 := State.setFld_keep (State.setFld_keep (State.setFld_keep h8))
  clear_value x9
  extract_lets +onlyGivenNames x11
  have h12 : Keep q x11 := State.railRequest_keep (State.railRequest_keep h10)
  clear_value x11
  exact keep_foldl (fun s13 x14 h15 => State.ctlOn_keep h15) h12

theorem State.wakeLink_keep {s : State} {i : Nat} (hk : Keep q s) : Keep q (State.wakeLink s i) := by
  unfold State.wakeLink
  split
  · exact State.ctlOn_keep (State.addFld_keep (State.setFld_keep hk))
  · exact hk

theorem State.beginDieWake_keep {s : State} {cause : Nat} (hk : Keep q s) : Keep q (State.beginDieWake s cause) := by
  unfold State.beginDieWake
  split
  · exact hk
  · extract_lets +onlyGivenNames x1
    clear_value x1
    extract_lets +onlyGivenNames x2
    have h3 : Keep q x2 := State.addFld_keep (State.setFld_keep (State.setFld_keep hk))
    clear_value x2
    extract_lets +onlyGivenNames x4
    have h5 : Keep q x4 := State.wakeLink_keep (State.wakeLink_keep (keep_of h3 rfl rfl rfl rfl rfl rfl))
    clear_value x4
    exact keep_foldl (fun s6 x7 h8 => State.railRequest_keep h8) h5

theorem State.linkTraffic_keep {s : State} (hk : Keep q s) : Keep q (State.linkTraffic s) := by
  unfold State.linkTraffic
  extract_lets +onlyGivenNames x1
  clear_value x1
  split
  · exact keep_of hk rfl rfl rfl rfl rfl rfl
  · split
    · exact State.beginDieWake_keep hk
    · exact hk

theorem State.checkAsleep_keep {s : State} (hk : Keep q s) : Keep q (State.checkAsleep s) := by
  unfold State.checkAsleep
  extract_lets +onlyGivenNames x1
  clear_value x1
  split
  · extract_lets +onlyGivenNames x2
    have h3 : Keep q x2 := State.addFld_keep (State.setFld_keep (keep_of hk rfl rfl rfl rfl rfl rfl))
    clear_value x2
    split
    · exact State.beginDieWake_keep (keep_of h3 rfl rfl rfl rfl rfl rfl)
    · exact h3
  · exact hk

theorem State.finishDieWake_keep {s : State} (hk : Keep q s) : Keep q (State.finishDieWake s) := by
  unfold State.finishDieWake
  extract_lets +onlyGivenNames x1 x2
  clear_value x1 x2
  split
  · extract_lets +onlyGivenNames x3
    have h4 : Keep q x3 := keep_foldl (fun s5 x6 h7 => State.setFld_keep (State.setFld_keep (State.setFld_keep h7))) hk
    clear_value x3
    exact State.retarget_keep (State.retarget_keep (State.setFld_keep (keep_of h4 rfl rfl rfl rfl rfl rfl)))
  · exact hk

theorem State.setIdle_keep {s : State} {l x : Nat} (hk : Keep q s) : Keep q (State.setIdle s l x) :=
  State.setFld_keep hk

theorem State.askCore_keep {s : State} {p l x id : Nat} (hk : Keep q s) : Keep q (State.askCore s p l x id) := by
  unfold State.askCore
  split
  · extract_lets +onlyGivenNames x1
    have h2 : Keep q x1 := State.dropRequest_keep hk
    clear_value x1
    exact State.setFld_keep (State.setFld_keep (State.setFld_keep h2))
  · extract_lets +onlyGivenNames x3
    clear_value x3
    extract_lets +onlyGivenNames x4
    have h5 : Keep q x4 := State.setCore_keep hk
    clear_value x4
    split
    · exact State.powerDone_keep h5
    · exact State.beginTransition_keep (State.runOp_keep h5)

theorem State.moveCore_keep {s : State} {p x : Nat} (hk : Keep q s) : Keep q (State.moveCore s p x) := by
  unfold State.moveCore
  extract_lets +onlyGivenNames x1
  clear_value x1
  extract_lets +onlyGivenNames x2
  have h3 : Keep q x2 := State.setCore_keep hk
  clear_value x2
  split
  · exact h3
  · exact State.coreDone_keep (State.beginTransition_keep h3)

theorem State.startDiePending_keep {s : State} (hk : Keep q s) : Keep q (State.startDiePending s) := by
  unfold State.startDiePending
  split
  · extract_lets +onlyGivenNames x1 x2
    clear_value x1 x2
    extract_lets +onlyGivenNames x3
    have h4 : Keep q x3 := State.setFld_keep (State.setFld_keep (State.setFld_keep hk))
    clear_value x3
    split
    · extract_lets +onlyGivenNames x5
      clear_value x5
      split
      · exact State.finishOp_keep (State.addFld_keep (State.setFld_keep h4))
      · exact State.beginSleep_keep (State.finishOp_keep h4)
    · extract_lets +onlyGivenNames x6
      clear_value x6
      extract_lets +onlyGivenNames x7
      have h8 : Keep q x7 := State.runOp_keep h4
      clear_value x7
      extract_lets +onlyGivenNames x9
      have h10 : Keep q x9 := keep_foldl (fun s11 x12 h13 => State.setIdle_keep h13) (keep_of h8 rfl rfl rfl rfl rfl rfl)
      clear_value x9
      extract_lets +onlyGivenNames x14
      have h15 : Keep q x14 := keep_foldl (fun s16 x17 h18 => State.askCore_keep h18) h10
      clear_value x14
      split
      · exact h15
      · extract_lets +onlyGivenNames x19
        have h20 : Keep q x19 := State.finishOp_keep h15
        clear_value x19
        exact keep_of h20 rfl rfl rfl rfl rfl rfl
  · exact hk

theorem execPowerExitTimeout_keep {core : CoreNo} {s : State} (hk : Keep q s) :
    KeepOut q (execPowerExitTimeout core s) := by
  unfold execPowerExitTimeout
  refine keepOut_next ?_
  split
  · exact hk
  · split
    · exact State.unitWork_keep (State.powerDone_keep (State.fenceCore_keep hk))
    · exact hk

theorem execSleepTimer_keep {s : State} (hk : Keep q s) : KeepOut q (execSleepTimer s) := by
  unfold execSleepTimer
  extract_lets +onlyGivenNames x1
  clear_value x1
  refine keepOut_next ?_
  split
  · exact State.beginDieWake_keep (keep_of hk rfl rfl rfl rfl rfl rfl)
  · exact hk

theorem execHedgerClkRequest_keep {on : Bool} {s : State} (hk : Keep q s) : KeepOut q (execHedgerClkRequest on s) := by
  unfold execHedgerClkRequest
  extract_lets +onlyGivenNames x1
  clear_value x1
  refine keepOut_next ?_
  split
  · exact State.setFld_keep (State.setFld_keep (State.setFld_keep hk))
  · exact hk

theorem execRustlePattern_keep {link : LinkNo} {s : State} (hk : Keep q s) : KeepOut q (execRustlePattern link s) := by
  unfold execRustlePattern
  refine keepOut_next ?_
  split
  · exact State.linkTraffic_keep (State.wakeLink_keep hk)
  · exact hk

theorem execTrainingSequence_keep {link : LinkNo} {s : State} (hk : Keep q s) :
    KeepOut q (execTrainingSequence link s) := by
  unfold execTrainingSequence
  extract_lets +onlyGivenNames x1 x2 x3
  clear_value x1 x2 x3
  refine keepOut_next ?_
  split
  · extract_lets +onlyGivenNames x4
    clear_value x4
    extract_lets +onlyGivenNames x5
    have h6 : Keep q x5 := State.setLink_keep hk
    clear_value x5
    exact State.setFld_keep (State.seedEq_keep h6)
  · split
    · exact State.lose_keep (State.leaveUp_keep hk)
    · split
      · exact State.linkTraffic_keep (State.wakeLink_keep hk)
      · exact hk

end Sys2Proof.Machine
end

