-- ==== Sys2Proof/Laws/KeepSession.lean ====
section
/-! SUPPORT. Every operation of Session keeps the invariant and the queue. -/

namespace Sys2Proof.Machine

variable {q : List Instr}

theorem rej_keep {s : State} {status : Nat} (hk : Keep q s) : KeepR q (rej s status) :=
  keepR_mk hk (fun _ h2 => h2)

theorem State.sendReply_keep {s : State} {link : Nat} {r : Reply} (hk : Keep q s) :
    Keep q (State.sendReply s link r) := by
  unfold State.sendReply
  extract_lets +onlyGivenNames x1
  clear_value x1
  exact State.sendOn_keep hk

theorem State.reply_keep {s : State} {c : Cmd} {status : Nat} {results : List Byte} (hk : Keep q s) :
    Keep q (State.reply s c status results) := by
  unfold State.reply
  extract_lets +onlyGivenNames x1
  clear_value x1
  extract_lets +onlyGivenNames x2
  extract_lets +onlyGivenNames x3
  have h4 : Keep q x3 := keep_of hk rfl rfl rfl rfl rfl rfl
  clear_value x3
  exact State.sendReply_keep h4

theorem State.badSeq_keep {s : State} {c : Cmd} (hk : Keep q s) : Keep q (State.badSeq s c) :=
  State.reply_keep hk

theorem State.startLong_keep {s : State} {c : Cmd} {object : Nat} {begin_ : State → Nat → State} (hk : Keep q s) (hbegin_ : ∀ y0 y1, Keep q y0 → Keep q (begin_ y0 y1)) :
    KeepR q (State.startLong s c object begin_) := by
  unfold State.startLong
  split
  · exact rej_keep hk
  · extract_lets +onlyGivenNames x1
    have h2 : Keep q x1.1 := State.startOp_keep hk
    clear_value x1
    extract_lets +onlyGivenNames x3
    clear_value x3
    exact keepR_mk (hbegin_ _ _ (State.drew_keep h2)) (fun s4 h5 => h5)

theorem State.freeOps_keep {s : State} (hk : Keep q s) : Keep q (State.freeOps s) := by
  unfold State.freeOps
  extract_lets +onlyGivenNames x1
  extract_lets +onlyGivenNames x2
  clear_value x2
  exact keep_of hk rfl rfl rfl rfl rfl rfl

theorem State.pollOp_keep {s : State} {c : Cmd} (hk : Keep q s) : KeepR q (State.pollOp s c).1 := by
  unfold State.pollOp
  extract_lets +onlyGivenNames x1 x2
  clear_value x1 x2
  split
  · exact rej_keep hk
  · split
    · exact rej_keep hk
    · split
      · exact keepR_mk (State.drew_keep hk) (fun s3 h4 => h4)
      · split
        · exact rej_keep hk
        · exact keepR_mk hk (fun s5 h6 => h6)

theorem State.notePoll_keep {s : State} {x : Option (Nat × Bool)} {dev : Nat} (hk : Keep q s) :
    Keep q (State.notePoll s x dev) := by
  unfold State.notePoll
  split
  · exact hk
  · exact State.setOp_keep hk

theorem State.perform_keep {s : State} {handle : Cmd → State → Resp} {c : Cmd} (hk : Keep q s) (hhandle : ∀ y0 y1, Keep q y1 → KeepR q (handle y0 y1)) :
    KeepR q (State.perform s handle c).1 := by
  unfold State.perform
  split
  · exact rej_keep hk
  · split
    · exact rej_keep hk
    · split
      · exact State.pollOp_keep hk
      · exact hhandle _ _ hk

theorem State.see_keep {s : State} {devSeen : Nat} (hk : Keep q s) : Keep q (State.see s devSeen) := by
  unfold State.see
  extract_lets +onlyGivenNames x1
  extract_lets +onlyGivenNames x2
  have h3 : Keep q x2 := by
    unfold x2
    split
    · exact keep_of hk rfl rfl rfl rfl rfl rfl
    · exact hk
  clear_value x2
  extract_lets +onlyGivenNames x4
  have h5 : Keep q x4 := State.setFld_keep h3
  clear_value x4
  extract_lets +onlyGivenNames x6
  have h7 : Keep q x6 := by
    unfold x6
    split
    · split
      · exact keep_of h5 rfl rfl rfl rfl rfl rfl
      · exact h3
    · exact h3
  clear_value x6
  exact State.freeOps_keep h7

theorem State.take_keep {s : State} {handle : Cmd → State → Resp} {c : Cmd} (hk : Keep q s)
    (hh : ∀ c s, Keep q s → KeepR q (handle c s)) : Keep q (State.take s handle c) := by
  unfold State.take
  extract_lets x1 s1 s2 dev r x2 x2s s3 rep x3 s4
  have h1 : Keep q s1 := keep_of hk rfl rfl rfl rfl rfl rfl
  have h2 : Keep q s2 := State.see_keep h1
  have hr : KeepR q r.1 := State.perform_keep h2 hh
  have h3 : Keep q s3 := keep_of hr.1 rfl rfl rfl rfl rfl rfl
  have h4 : Keep q s4 := setSession_keep (by simp) h3
  exact Resp.after_keep hr (State.notePoll_keep (State.sendReply_keep h4))

theorem State.duplicate_keep {s : State} {handle : Cmd → State → Resp} {c : Cmd} (hk : Keep q s) (hhandle : ∀ y0 y1, Keep q y1 → KeepR q (handle y0 y1)) :
    Keep q (State.duplicate s handle c) := by
  unfold State.duplicate
  split
  · exact State.badSeq_keep hk
  · split
    · extract_lets +onlyGivenNames x1
      have h2 : KeepR q x1.1 := State.perform_keep hk (fun x3 s4 h5 => hhandle _ _ h5)
      clear_value x1
      exact Resp.after_keep h2 (State.notePoll_keep (State.sendReply_keep (Resp.s_keep h2)))
    · exact State.sendReply_keep hk

theorem State.takeHeld_keep {s : State} {handle : Cmd → State → Resp} {x2 : Nat} (hk : Keep q s) (hhandle : ∀ y0 y1, Keep q y1 → KeepR q (handle y0 y1)) :
    Keep q (State.takeHeld s handle x2) := by
  induction x2 generalizing s handle with
  | zero =>
    unfold State.takeHeld
    exact hk
  | succ n ih =>
    unfold State.takeHeld
    split
    · exact hk
    · extract_lets +onlyGivenNames x1
      extract_lets +onlyGivenNames x2
      have h3 : Keep q x2 := keep_of hk rfl rfl rfl rfl rfl rfl
      clear_value x2
      extract_lets +onlyGivenNames x4
      clear_value x4
      split
      · exact State.badSeq_keep h3
      · exact ih (State.take_keep h3 (fun x5 s6 h7 => hhandle _ _ h7)) (fun x8 s9 h10 => hhandle _ _ h10)

theorem State.sequence_keep {s : State} {handle : Cmd → State → Resp} {c : Cmd} (hk : Keep q s) (hhandle : ∀ y0 y1, Keep q y1 → KeepR q (handle y0 y1)) :
    Keep q (State.sequence s handle c) := by
  unfold State.sequence
  extract_lets +onlyGivenNames x1
  extract_lets +onlyGivenNames x2 x3
  clear_value x2 x3
  split
  · exact State.badSeq_keep hk
  · split
    · exact State.takeHeld_keep (State.take_keep hk (fun x4 s5 h6 => hhandle _ _ h6)) (fun x7 s8 h9 => hhandle _ _ h9)
    · split
      · split
        · exact hk
        · exact keep_of hk rfl rfl rfl rfl rfl rfl
      · split
        · exact State.duplicate_keep hk (fun x10 s11 h12 => hhandle _ _ h12)
        · exact State.badSeq_keep hk

theorem State.hello_keep {s : State} {c : Cmd} (hk : Keep q s) : Keep q (State.hello s c) := by
  unfold State.hello
  extract_lets x seq hostId lo hi again season next ops x1 x2 s1 s2 status results dev r
  split
  · split
    · exact State.sendReply_keep hk
    · exact hk
  · split
    · exact State.reply_keep hk
    · split
      · exact State.reply_keep hk
      · have h0 : Keep q { s with session := x2 } := setSession_keep (by simp [x2, x1]) hk
        have h1 : Keep q s1 := keep_of h0 rfl rfl rfl rfl rfl rfl
        have h2 : Keep q s2 := State.see_keep h1
        clear_value s2 r
        exact State.sendReply_keep (keep_of h2 rfl rfl rfl rfl rfl rfl)

theorem State.broadcast_keep {s : State} {handle : Cmd → State → Resp} {c : Cmd} (hk : Keep q s) (hhandle : ∀ y0 y1, Keep q y1 → KeepR q (handle y0 y1)) :
    Keep q (State.broadcast s handle c) := by
  unfold State.broadcast
  split
  · exact Resp.s_keep (hhandle _ _ hk)
  · extract_lets +onlyGivenNames x1
    clear_value x1
    exact State.logEvent_keep hk

theorem State.receive_keep {s : State} {handle : Cmd → State → Resp} {c : Cmd} (hk : Keep q s) (hhandle : ∀ y0 y1, Keep q y1 → KeepR q (handle y0 y1)) :
    Keep q (State.receive s handle c) := by
  unfold State.receive
  split
  · exact State.reply_keep hk
  · split
    · exact State.broadcast_keep hk (fun x1 s2 h3 => hhandle _ _ h3)
    · split
      · exact State.reply_keep hk
      · split
        · exact State.reply_keep hk
        · split
          · exact State.hello_keep hk
          · split
            · exact State.reply_keep (State.drew_keep hk)
            · split
              · exact State.badSeq_keep hk
              · exact State.sequence_keep hk (fun x4 s5 h6 => hhandle _ _ h6)

theorem State.command_keep {s : State} {handle : Cmd → State → Resp} {c : Cmd} (hk : Keep q s) (hhandle : ∀ y0 y1, Keep q y1 → KeepR q (handle y0 y1)) :
    Keep q (State.command s handle c) := by
  unfold State.command
  split
  · exact hk
  · split
    · exact State.unitWork_keep (State.receive_keep hk (fun x1 s2 h3 => hhandle _ _ h3))
    · exact State.linkTraffic_keep (keep_of hk rfl rfl rfl rfl rfl rfl)

theorem State.takeAsleep_keep {s : State} {handle : Cmd → State → Resp} (hk : Keep q s) (hhandle : ∀ y0 y1, Keep q y1 → KeepR q (handle y0 y1)) :
    Keep q (State.takeAsleep s handle) := by
  unfold State.takeAsleep
  split
  · exact keep_foldl (fun s1 x2 h3 => State.command_keep h3 (fun x4 s5 h6 => hhandle _ _ h6)) (keep_of hk rfl rfl rfl rfl rfl rfl)
  · exact hk

end Sys2Proof.Machine
end

