-- ==== Sys2Proof/Laws/KeepHostBoot.lean ====
section
/-! SUPPORT. Every operation of HostBoot keeps the invariant and the queue. -/

namespace Sys2Proof.Machine

variable {q : List Instr}

theorem hGetInfo_keep {c : Cmd} {s : State} (hk : Keep q s) : KeepR q (hGetInfo c s) := by
  unfold hGetInfo
  extract_lets +onlyGivenNames x1
  clear_value x1
  split
  · exact rej_keep hk
  · split
    · exact keepR_mk hk (fun s2 h3 => h3)
    · split
      · exact keepR_mk hk (fun s4 h5 => h5)
      · exact keepR_mk hk (fun s6 h7 => h7)

theorem State.goOn_keep {s : State} (hk : Keep q s) : Keep q (State.goOn s) := by
  unfold State.goOn
  extract_lets +onlyGivenNames x1
  clear_value x1
  split
  · exact State.startStage_keep hk
  · exact hk

theorem hBootStage_keep {c : Cmd} {s : State} (hk : Keep q s) : KeepR q (hBootStage c s) := by
  unfold hBootStage
  extract_lets +onlyGivenNames x1
  clear_value x1
  split
  · exact rej_keep hk
  · split
    · exact keepR_mk hk (fun s2 h3 => h3)
    · split
      · split
        · exact rej_keep hk
        · extract_lets +onlyGivenNames x4
          have h5 : Keep q x4 := State.goOn_keep (State.setFld_keep (State.setFld_keep hk))
          clear_value x4
          exact keepR_mk h5 (fun s6 h7 => h7)
      · extract_lets +onlyGivenNames x8
        have h9 : Keep q x8 := State.goOn_keep (State.setFld_keep (State.setFld_keep hk))
        clear_value x8
        exact keepR_mk h9 (fun s10 h11 => h11)

theorem hLoadBegin_keep {c : Cmd} {s : State} (hk : Keep q s) : KeepR q (hLoadBegin c s) := by
  unfold hLoadBegin
  extract_lets +onlyGivenNames x1 x2 x3 x4
  clear_value x1 x2 x3 x4
  split
  · exact rej_keep hk
  · split
    · exact rej_keep hk
    · extract_lets +onlyGivenNames x5
      clear_value x5
      split
      · exact keepR_mk hk (fun s6 h7 => h7)
      · extract_lets +onlyGivenNames x8
        clear_value x8
        exact keepR_mk (keep_of hk rfl rfl rfl rfl rfl rfl) (fun s9 h10 => h10)

theorem State.setTransfer_keep {s : State} {t : Transfer} (hk : Keep q s) : Keep q (State.setTransfer s t) :=
  keep_of hk rfl rfl rfl rfl rfl rfl

theorem State.writeChunk_keep {s : State} {t : Transfer} {chunk : Nat} {data : List Byte} {bad : List Nat} (hk : Keep q s) :
    Keep q (State.writeChunk s t chunk data bad) := by
  unfold State.writeChunk
  extract_lets +onlyGivenNames x1 x2
  clear_value x1 x2
  extract_lets +onlyGivenNames x3
  have h4 : Keep q x3 := keep_foldl (fun s5 x6 h7 => State.setCore_keep h7) hk
  clear_value x3
  extract_lets +onlyGivenNames x8 x9
  clear_value x8 x9
  extract_lets +onlyGivenNames x10
  have h11 : Keep q x10 := State.setTransfer_keep h4
  clear_value x10
  refine keep_foldl ?_ h11
  intro s12 x13 h14
  extract_lets +onlyGivenNames x15
  have h16 : Keep q x15 := State.addDieback_keep h14
  clear_value x15
  exact State.lose_keep (State.logEvent_keep h16)

theorem hLoadChunk_keep {c : Cmd} {s : State} (hk : Keep q s) : KeepR q (hLoadChunk c s) := by
  unfold hLoadChunk
  extract_lets +onlyGivenNames x1
  clear_value x1
  split
  · split
    · exact keepR_mk (State.logEvent_keep hk) (fun s2 h3 => h3)
    · exact rej_keep hk
  · split
    · exact rej_keep hk
    · split
      · exact keepR_mk hk (fun s4 h5 => h5)
      · exact keepR_mk (State.writeChunk_keep hk) (fun s6 h7 => h7)

theorem hGetMissing_keep {c : Cmd} {s : State} (hk : Keep q s) : KeepR q (hGetMissing c s) := by
  unfold hGetMissing
  split
  · exact rej_keep hk
  · extract_lets +onlyGivenNames x1
    clear_value x1
    split
    · exact rej_keep hk
    · exact keepR_mk hk (fun s2 h3 => h3)

theorem hLoadCommit_keep {c : Cmd} {s : State} (hk : Keep q s) : KeepR q (hLoadCommit c s) := by
  unfold hLoadCommit
  split
  · exact rej_keep hk
  · split
    · exact rej_keep hk
    · exact State.startLong_keep hk (fun s1 x2 h3 => keep_of h3 rfl rfl rfl rfl rfl rfl)

theorem State.setMeas_keep {s : State} {k : Nat} {d : List Byte} (hk : Keep q s) : Keep q (State.setMeas s k d) :=
  keep_foldl (fun _ _ h3 => State.setFld_keep h3) hk

theorem State.rejectImage_keep {s : State} {t : Transfer} {status : Nat} (hk : Keep q s) :
    Keep q (State.rejectImage s t status) := by
  unfold State.rejectImage
  extract_lets +onlyGivenNames x1
  clear_value x1
  extract_lets +onlyGivenNames x2
  have h3 : Keep q x2 := by
    unfold x2
    split
    · exact hk
    · exact State.addFld_keep hk
  clear_value x2
  extract_lets +onlyGivenNames x4
  have h5 : Keep q x4 := State.reportDur_keep h3
  clear_value x4
  extract_lets +onlyGivenNames x6
  have h7 : Keep q x6 := State.logEvent_keep h5
  clear_value x6
  exact keep_of h7 rfl rfl rfl rfl rfl rfl

theorem State.takeImage_keep {s : State} {target slot : Nat} {b d : List Byte} (hk : Keep q s) :
    Keep q (State.takeImage s target slot b d) := by
  unfold State.takeImage
  extract_lets +onlyGivenNames x1
  clear_value x1
  extract_lets +onlyGivenNames x2
  have h3 : Keep q x2 := State.setMeas_keep hk
  clear_value x2
  split
  · extract_lets +onlyGivenNames x4
    have h5 : Keep q x4 := State.setFld_keep (State.setFld_keep h3)
    clear_value x4
    extract_lets +onlyGivenNames x6
    have h7 : Keep q x6 := keep_of h5 rfl rfl rfl rfl rfl rfl
    clear_value x6
    exact State.setFld_keep (State.setFld_keep h7)
  · extract_lets +onlyGivenNames x8
    have h9 : Keep q x8 := State.setFld_keep (State.setFld_keep h3)
    clear_value x8
    exact keep_of h9 rfl rfl rfl rfl rfl rfl

theorem execImageCommitDone_keep {s : State} (hk : Keep q s) : KeepOut q (execImageCommitDone s) := by
  unfold execImageCommitDone
  refine keepOut_next ?_
  split
  · exact hk
  · extract_lets +onlyGivenNames x1 x2 x3 x4 x5
    clear_value x1 x2 x3 x4 x5
    split
    · exact State.finishOp_keep (State.rejectImage_keep hk)
    · split
      · exact State.finishOp_keep (State.rejectImage_keep hk)
      · split
        · exact State.finishOp_keep (State.rejectImage_keep hk)
        · extract_lets +onlyGivenNames x6
          clear_value x6
          extract_lets +onlyGivenNames x7
          have h8 : Keep q x7 := keep_of hk rfl rfl rfl rfl rfl rfl
          clear_value x7
          extract_lets +onlyGivenNames x9
          have h10 : Keep q x9 := State.finishOp_keep (State.takeImage_keep h8)
          clear_value x9
          split
          · exact State.passS2_keep h10
          · exact h10

theorem State.renumber_keep {s : State} (hk : Keep q s) : Keep q (State.renumber s) := by
  unfold State.renumber
  extract_lets +onlyGivenNames x1
  clear_value x1
  extract_lets +onlyGivenNames x2
  have h3 : Keep q x2 := State.number_keep hk
  clear_value x2
  extract_lets +onlyGivenNames x4 x5
  clear_value x4 x5
  extract_lets +onlyGivenNames x6
  have h7 : Keep q x6 := by
    unfold x6
    refine keep_foldl ?_ h3
    intro s8 x9 h10
    split
    · extract_lets +onlyGivenNames x11
      clear_value x11
      exact State.setFld_keep h10
    · exact h10
  clear_value x6
  refine keep_foldl ?_ h7
  intro s12 x13 h14
  extract_lets +onlyGivenNames x15
  clear_value x15
  exact keep_foldl (fun s16 x17 h18 => State.setFld_keep h18) h14

theorem hRenumber_keep {x0 : Cmd} {s : State} (hk : Keep q s) : KeepR q (hRenumber x0 s) := by
  unfold hRenumber
  split
  · exact rej_keep hk
  · split
    · exact rej_keep hk
    · extract_lets +onlyGivenNames x1
      have h2 : Keep q x1 := State.settleReady_keep (State.setFld_keep (State.renumber_keep hk))
      clear_value x1
      exact keepR_mk h2 (fun s3 h4 => h4)

theorem hGetDieback_keep {c : Cmd} {s : State} (hk : Keep q s) : KeepR q (hGetDieback c s) := by
  unfold hGetDieback
  extract_lets +onlyGivenNames x1
  clear_value x1
  split
  · exact rej_keep hk
  · exact keepR_mk hk (fun s2 h3 => h3)

theorem hSaveSettings_keep {c : Cmd} {s : State} (hk : Keep q s) : KeepR q (hSaveSettings c s) := by
  unfold hSaveSettings
  extract_lets +onlyGivenNames x1
  clear_value x1
  split
  · exact rej_keep hk
  · extract_lets +onlyGivenNames x2
    have h3 : Keep q x2 := by
      unfold x2
      split
      · exact keep_of hk rfl rfl rfl rfl rfl rfl
      · exact hk
    clear_value x2
    extract_lets +onlyGivenNames x4
    clear_value x4
    split
    · exact rej_keep h3
    · extract_lets +onlyGivenNames x5
      have h6 : Keep q x5 := by
        unfold x5
        split
        · exact keep_of h3 rfl rfl rfl rfl rfl rfl
        · exact h3
      clear_value x5
      exact keepR_mk h6 (fun s7 h8 => h8)

theorem State.takeBlob_keep {s : State} (hk : Keep q s) : Keep q (State.takeBlob s).1 := by
  unfold State.takeBlob
  split
  · exact hk
  · extract_lets +onlyGivenNames x1
    have h2 : Keep q x1 := keep_of hk rfl rfl rfl rfl rfl rfl
    clear_value x1
    extract_lets +onlyGivenNames x3
    clear_value x3
    split
    · exact h2
    · exact State.setMeas_keep (keep_of h2 rfl rfl rfl rfl rfl rfl)

theorem hRestoreSettings_keep {c : Cmd} {s : State} (hk : Keep q s) : KeepR q (hRestoreSettings c s) := by
  unfold hRestoreSettings
  extract_lets +onlyGivenNames x1 x2 x3
  clear_value x1 x2 x3
  split
  · exact rej_keep hk
  · split
    · exact rej_keep hk
    · extract_lets +onlyGivenNames x4
      clear_value x4
      split
      · exact keepR_mk (keep_of hk rfl rfl rfl rfl rfl rfl) (fun s5 h6 => h6)
      · split
        · exact rej_keep hk
        · extract_lets +onlyGivenNames x7
          have h8 : Keep q x7 := keep_of hk rfl rfl rfl rfl rfl rfl
          clear_value x7
          split
          · exact keepR_mk h8 (fun s9 h10 => h10)
          · split
            · extract_lets +onlyGivenNames x11
              have h12 : Keep q x11.1 := State.takeBlob_keep h8
              clear_value x11
              exact keepR_mk h12 (fun s13 h14 => h14)
            · exact State.startLong_keep h8 (fun s15 x16 h17 => keep_of h17 rfl rfl rfl rfl rfl rfl)

theorem execRestoreSettingsDone_keep {s : State} (hk : Keep q s) : KeepOut q (execRestoreSettingsDone s) := by
  unfold execRestoreSettingsDone
  refine keepOut_next ?_
  split
  · exact hk
  · extract_lets +onlyGivenNames x1
    have h2 : Keep q x1.1 := State.takeBlob_keep hk
    clear_value x1
    exact State.finishOp_keep h2

end Sys2Proof.Machine
end

