-- ==== Sys2Proof/Laws/KeepHostPower.lean ====
section
/-! SUPPORT. Every operation of HostPower keeps the invariant and the queue. -/

namespace Sys2Proof.Machine

variable {q : List Instr}

theorem State.startPower_keep {s : State} {c : Cmd} {object : Nat} {pending : Bool} {begin_ : State → Nat → State} (hk : Keep q s) (hbegin_ : ∀ y0 y1, Keep q y0 → Keep q (begin_ y0 y1)) :
    KeepR q (State.startPower s c object pending begin_) := by
  unfold State.startPower
  split
  · exact rej_keep hk
  · extract_lets +onlyGivenNames x1
    have h2 : Keep q x1.1 := State.startOp_keep hk
    clear_value x1
    extract_lets +onlyGivenNames x3
    clear_value x3
    exact keepR_mk (hbegin_ _ _ (State.drew_keep h2)) (fun s4 h5 => h5)

theorem State.powerCore_keep {s : State} {c : Cmd} {l p x : Nat} (hk : Keep q s) :
    KeepR q (State.powerCore s c l p x) := by
  unfold State.powerCore
  split
  · exact rej_keep hk
  · split
    · exact rej_keep hk
    · split
      · exact rej_keep (State.satFld_keep (State.setFld_keep hk))
      · split
        · exact State.startPower_keep hk (fun s1 x2 h3 => State.askCore_keep (State.setIdle_keep h3))
        · split
          · exact keepR_mk (State.setIdle_keep hk) (fun s4 h5 => h5)
          · split
            · exact keepR_mk (State.moveCore_keep (State.setIdle_keep hk)) (fun s6 h7 => h7)
            · exact State.startPower_keep hk (fun s8 x9 h10 => State.askCore_keep (State.setIdle_keep h10))

theorem State.powerAll_keep {s : State} {c : Cmd} {x : Nat} (hk : Keep q s) : KeepR q (State.powerAll s c x) := by
  unfold State.powerAll
  extract_lets +onlyGivenNames x1
  have h2 : ∀ y0, Keep q y0 → Keep q (x1 y0) := fun y3 h4 => keep_foldl (fun s5 x6 h7 => State.setIdle_keep h7) h4
  clear_value x1
  extract_lets +onlyGivenNames x8
  clear_value x8
  split
  · exact keepR_mk (h2 _ hk) (fun s9 h10 => h10)
  · split
    · exact keepR_mk (keep_foldl (fun s11 x12 h13 => State.moveCore_keep h13) (h2 _ hk)) (fun s14 h15 => h15)
    · refine State.startPower_keep hk ?_
      intro s16 x17 h18
      refine keep_foldl (fun s19 x20 h21 => State.askCore_keep h21) ?_
      extract_lets +onlyGivenNames x22
      have h23 : Keep q x22 := h2 _ h18
      clear_value x22
      exact keep_of h23 rfl rfl rfl rfl rfl rfl

theorem State.pendDie_keep {s : State} {c : Cmd} {x : Nat} (hk : Keep q s) : KeepR q (State.pendDie s c x) := by
  unfold State.pendDie
  refine State.startPower_keep hk ?_
  intro s1 x2 h3
  extract_lets +onlyGivenNames x4
  have h5 : Keep q x4 := by
    unfold x4
    split
    · exact State.finishOp_keep h3
    · exact h3
  clear_value x4
  exact State.setFld_keep (State.setFld_keep (State.setFld_keep h5))

theorem hSetPowerState_keep {c : Cmd} {s : State} (hk : Keep q s) : KeepR q (hSetPowerState c s) := by
  unfold hSetPowerState
  extract_lets +onlyGivenNames x1 x2 x3
  clear_value x1 x2 x3
  split
  · exact rej_keep hk
  · split
    · split
      · exact rej_keep hk
      · split
        · exact rej_keep hk
        · exact State.powerCore_keep hk
    · split
      · exact State.pendDie_keep hk
      · split
        · extract_lets +onlyGivenNames x4
          clear_value x4
          split
          · exact rej_keep (State.addFld_keep (State.setFld_keep hk))
          · exact keepR_mk hk (fun s5 h6 => State.beginSleep_keep h6)
        · exact State.powerAll_keep hk

theorem hSetOperatingPoint_keep {c : Cmd} {s : State} (hk : Keep q s) : KeepR q (hSetOperatingPoint c s) := by
  unfold hSetOperatingPoint
  extract_lets +onlyGivenNames x1 x2 x3
  clear_value x1 x2 x3
  split
  · exact rej_keep hk
  · extract_lets +onlyGivenNames x4 x5
    clear_value x4 x5
    extract_lets +onlyGivenNames x6
    have h7 : Keep q x6 := keep_foldl (fun s8 x9 h10 => keep_foldl (fun s11 x12 h13 => State.setFld_keep h13) h10) hk
    clear_value x6
    extract_lets +onlyGivenNames x14
    have h15 : Keep q x14 := by
      unfold x14
      refine keep_foldl ?_ h7
      intro s16 x17 h18
      split
      · exact State.retarget_keep h18
      · exact State.setFld_keep h18
    clear_value x14
    exact keepR_mk h15 (fun s19 h20 => h20)

theorem hSetLimit_keep {c : Cmd} {s : State} (hk : Keep q s) : KeepR q (hSetLimit c s) := by
  unfold hSetLimit
  extract_lets +onlyGivenNames x1 x2 x3 x4 x5
  clear_value x1 x2 x3 x4 x5
  split
  · exact rej_keep hk
  · exact keepR_mk (State.setFld_keep (State.setFld_keep hk)) (fun s6 h7 => h7)

theorem hSetPacePolicy_keep {c : Cmd} {s : State} (hk : Keep q s) : KeepR q (hSetPacePolicy c s) := by
  unfold hSetPacePolicy
  split
  · exact rej_keep hk
  · exact keepR_mk (State.settlePace_keep (State.setFld_keep hk)) (fun s1 h2 => h2)

theorem hGetPowerAccounting_keep {x0 : Cmd} {s : State} (hk : Keep q s) : KeepR q (hGetPowerAccounting x0 s) :=
  keepR_mk hk (fun _ h2 => h2)

theorem hReadTelemetry_keep {c : Cmd} {s : State} (hk : Keep q s) : KeepR q (hReadTelemetry c s) := by
  unfold hReadTelemetry
  split
  · exact rej_keep hk
  · split
    · exact keepR_mk hk (fun s1 h2 => h2)
    · exact rej_keep hk

theorem hReadEnergy_keep {c : Cmd} {s : State} (hk : Keep q s) : KeepR q (hReadEnergy c s) := by
  unfold hReadEnergy
  extract_lets +onlyGivenNames x1 x2
  clear_value x1 x2
  split
  · exact rej_keep hk
  · exact keepR_mk hk (fun s3 h4 => h4)

theorem hReadEvents_keep {c : Cmd} {s : State} (hk : Keep q s) : KeepR q (hReadEvents c s) := by
  unfold hReadEvents
  extract_lets n s1 es first
  split
  · exact rej_keep hk
  · have h1 : Keep q s1 := setLog_keep ((List.length_filter_le _ _).trans hk.2.log) hk
    exact keepR_mk h1 (fun _ h => h)

end Sys2Proof.Machine
end

