-- ==== Sys2Proof/Laws/KeepHostLinks.lean ====
section
/-! SUPPORT. Every operation of HostLinks keeps the invariant and the queue. -/

namespace Sys2Proof.Machine

variable {q : List Instr}

theorem State.escalateQuiet_keep {s : State} {i : Nat} (hk : Keep q s) : Keep q (State.escalateQuiet s i) :=
  State.lose_keep (State.leaveUp_keep (State.addFld_keep hk))

theorem State.dropLanes_keep {s : State} {i bad : Nat} (hk : Keep q s) : Keep q (State.dropLanes s i bad) := by
  unfold State.dropLanes
  extract_lets +onlyGivenNames x1 x2 x3 x4
  clear_value x1 x2 x3 x4
  split
  · exact State.escalateQuiet_keep hk
  · extract_lets +onlyGivenNames x5
    have h6 : Keep q x5 := State.setFld_keep (State.setFld_keep hk)
    clear_value x5
    split
    · extract_lets +onlyGivenNames x7 x8 x9
      clear_value x7 x8 x9
      exact State.setLink_keep (State.drew_keep h6)
    · exact State.setLink_keep h6

theorem State.switchMap_keep {s : State} {i used : Nat} (hk : Keep q s) : Keep q (State.switchMap s i used) := by
  unfold State.switchMap
  extract_lets +onlyGivenNames x1 x2 x3 x4 x5 x6
  clear_value x1 x2 x3 x4 x5 x6
  extract_lets +onlyGivenNames x7
  have h8 : Keep q x7 := State.setLink_keep hk
  clear_value x7
  extract_lets +onlyGivenNames x9
  have h10 : Keep q x9 := State.setFld_keep (State.setFld_keep (State.setFld_keep h8))
  clear_value x9
  exact State.lose_keep (State.noteLanes_keep (State.addFld_keep h10))

theorem State.laneErrors_keep {s : State} {i : Nat} {errs : List (Nat × Nat)} (hk : Keep q s) :
    Keep q (State.laneErrors s i errs) :=
  keep_foldl (fun _ _ h3 => State.satFld_keep (State.satFld_keep h3)) hk

theorem State.berDone_keep {s : State} {id : Nat} (hk : Keep q s) : Keep q (State.berDone s id) := by
  unfold State.berDone
  extract_lets +onlyGivenNames x1
  clear_value x1
  split
  · extract_lets +onlyGivenNames x2
    clear_value x2
    exact State.finishOp_keep (keep_foldl (fun s3 x4 h5 => State.setLink_keep h5) hk)
  · exact hk

theorem State.qualified_keep {s : State} {i : Nat} (hk : Keep q s) : Keep q (State.qualified s i) := by
  unfold State.qualified
  extract_lets +onlyGivenNames x1
  have h2 : Keep q x1 := keep_of hk rfl rfl rfl rfl rfl rfl
  split
  · exact State.toBerTest_keep h2
  · exact h2

theorem execBerTestDone_keep {link : LinkNo} {errors : List (Nat × Nat)} {s : State} (hk : Keep q s) :
    KeepOut q (execBerTestDone link errors s) := by
  unfold execBerTestDone
  extract_lets +onlyGivenNames x1
  clear_value x1
  refine keepOut_next ?_
  split
  · exact hk
  · extract_lets +onlyGivenNames x2
    have h3 : Keep q x2 := State.setFld_keep (State.laneErrors_keep hk)
    clear_value x2
    extract_lets +onlyGivenNames x4
    clear_value x4
    extract_lets +onlyGivenNames x5
    have h6 : Keep q x5 := by
      unfold x5
      split
      · exact h3
      · exact State.dropLanes_keep h3
    clear_value x5
    extract_lets +onlyGivenNames x7
    have h8 : Keep q x7 := by
      unfold x7
      split
      · exact State.qualified_keep h6
      · exact hk
    clear_value x7
    split
    · exact State.unitWork_keep h8
    · exact State.unitWork_keep (State.berDone_keep (State.setLink_keep h8))

theorem execLoopbackDone_keep {link : LinkNo} {errors : List Nat} {s : State} (hk : Keep q s) :
    KeepOut q (execLoopbackDone link errors s) := by
  unfold execLoopbackDone
  extract_lets +onlyGivenNames x1
  clear_value x1
  refine keepOut_next ?_
  split
  · exact hk
  · extract_lets +onlyGivenNames x2
    clear_value x2
    extract_lets +onlyGivenNames x3
    have h4 : Keep q x3 := State.setFld_keep (State.laneErrors_keep hk)
    clear_value x3
    split
    · exact h4
    · extract_lets +onlyGivenNames x5
      clear_value x5
      exact State.finishOp_keep (State.setLink_keep h4)

theorem hLinkStatus_keep {c : Cmd} {s : State} (hk : Keep q s) : KeepR q (hLinkStatus c s) := by
  unfold hLinkStatus
  extract_lets +onlyGivenNames x1
  clear_value x1
  split
  · exact rej_keep hk
  · extract_lets +onlyGivenNames x2
    clear_value x2
    exact keepR_mk hk (fun s3 h4 => h4)

theorem State.moveReplies_keep {s : State} {i : Nat} (hk : Keep q s) : Keep q (State.moveReplies s i) := by
  unfold State.moveReplies
  extract_lets +onlyGivenNames x1
  clear_value x1
  extract_lets +onlyGivenNames x2
  have h3 : Keep q x2 := State.setLink_keep hk
  clear_value x2
  exact keep_foldl (fun s4 x5 h6 => State.sendOn_keep h6) h3

theorem State.retrainAs_keep {s : State} {i act : Nat} (hk : Keep q s) : Keep q (State.retrainAs s i act) := by
  unfold State.retrainAs
  split
  · extract_lets +onlyGivenNames x1
    have h2 : Keep q x1 := by
      unfold x1
      split
      · exact State.moveReplies_keep hk
      · exact hk
    clear_value x1
    extract_lets +onlyGivenNames x3
    have h4 : Keep q x3 := State.downIfUp_keep h2
    clear_value x3
    exact State.unitWork_keep (State.setLink_keep h4)
  · exact State.unitWork_keep (State.retrain_keep hk)

theorem hLinkRetrain_keep {c : Cmd} {s : State} (hk : Keep q s) : KeepR q (hLinkRetrain c s) := by
  unfold hLinkRetrain
  extract_lets +onlyGivenNames x1 x2 x3
  clear_value x1 x2 x3
  split
  · exact rej_keep hk
  · split
    · exact rej_keep hk
    · split
      · exact rej_keep hk
      · split
        · exact keepR_mk hk (fun s4 h5 => h5)
        · split
          · exact keepR_mk hk (fun s6 h7 => State.retrainAs_keep h7)
          · extract_lets +onlyGivenNames x8
            have h9 : KeepR q x8 := State.startLong_keep hk (fun s10 x11 h12 => State.setLink_keep h12)
            clear_value x8
            split
            · exact keepR_mk (Resp.s_keep h9) (fun s13 h14 => State.retrainAs_keep h14)
            · exact h9

theorem hLinkLoopback_keep {c : Cmd} {s : State} (hk : Keep q s) : KeepR q (hLinkLoopback c s) := by
  unfold hLinkLoopback
  extract_lets +onlyGivenNames x1 x2 x3
  clear_value x1 x2 x3
  split
  · exact rej_keep hk
  · split
    · exact rej_keep hk
    · exact State.startLong_keep hk (fun s4 x5 h6 => State.setFld_keep (State.setLink_keep h6))

theorem hLinkBerTest_keep {c : Cmd} {s : State} (hk : Keep q s) : KeepR q (hLinkBerTest c s) := by
  unfold hLinkBerTest
  extract_lets +onlyGivenNames x1 x2
  clear_value x1 x2
  split
  · exact rej_keep hk
  · extract_lets +onlyGivenNames x3
    clear_value x3
    split
    · exact rej_keep hk
    · refine State.startLong_keep hk ?_
      intro s4 x5 h6
      split
      · exact State.finishOp_keep h6
      · refine keep_foldl ?_ h6
        intro s7 x8 h9
        extract_lets +onlyGivenNames x10
        have h11 : Keep q x10 := State.toBerTest_keep h9
        clear_value x10
        exact State.setLink_keep h11

theorem execLnkCtlRetrain_keep {link : LinkNo} {s : State} (hk : Keep q s) : KeepOut q (execLnkCtlRetrain link s) := by
  unfold execLnkCtlRetrain
  refine keepOut_next ?_
  split
  · exact State.unitWork_keep (State.retrain_keep hk)
  · exact hk

end Sys2Proof.Machine
end

