-- ==== Sys2Proof/Laws/KeepHostQueues.lean ====
section
/-! SUPPORT. Every operation of HostQueues keeps the invariant and the queue. -/

namespace Sys2Proof.Machine

variable {q : List Instr}

theorem State.createQueue_keep {s : State} {c : Cmd} {q0 ty log2 base cq eq : Nat} (hk : Keep q s) :
    Keep q (State.createQueue s c q0 ty log2 base cq eq) := by
  unfold State.createQueue
  extract_lets +onlyGivenNames x1 x2 x3
  clear_value x1 x2 x3
  extract_lets +onlyGivenNames x4
  have h5 : Keep q x4 := State.setFld_keep (State.setFld_keep (State.setFld_keep hk))
  clear_value x4
  extract_lets +onlyGivenNames x6
  have h7 : Keep q x6 := State.setFld_keep (State.setFld_keep h5)
  clear_value x6
  extract_lets +onlyGivenNames x8
  have h9 : Keep q x8 := State.setFld_keep (State.setFld_keep h7)
  clear_value x8
  extract_lets +onlyGivenNames x10
  have h11 : Keep q x10 := State.setFld_keep (State.setFld_keep h9)
  clear_value x10
  extract_lets +onlyGivenNames x12
  have h13 : Keep q x12 := State.setFld_keep (State.setFld_keep h11)
  clear_value x12
  extract_lets +onlyGivenNames x14
  have h15 : Keep q x14 := State.setFld_keep (State.setFld_keep h13)
  clear_value x14
  extract_lets +onlyGivenNames x16
  clear_value x16
  extract_lets +onlyGivenNames x17
  have h18 : Keep q x17 := State.setFld_keep (State.setFld_keep h15)
  clear_value x17
  extract_lets +onlyGivenNames x19
  have h20 : Keep q x19 := State.setFld_keep (State.setFld_keep h18)
  clear_value x19
  extract_lets +onlyGivenNames x21
  have h22 : Keep q x21 := State.setQueue_keep (State.setFld_keep h20)
  clear_value x21
  split
  · extract_lets +onlyGivenNames x23
    clear_value x23
    extract_lets +onlyGivenNames x24
    have h25 : Keep q x24 := State.setChState_keep (State.setChan_keep h22)
    clear_value x24
    exact State.setFld_keep (State.setFld_keep h25)
  · exact h22

theorem hQueueCreate_keep {c : Cmd} {s : State} (hk : Keep q s) : KeepR q (hQueueCreate c s) := by
  unfold hQueueCreate
  extract_lets +onlyGivenNames x1 x2 x3 x4 x5 x6
  clear_value x1 x2 x3 x4 x5 x6
  extract_lets +onlyGivenNames x7
  extract_lets +onlyGivenNames x8
  clear_value x8
  split
  · exact rej_keep hk
  · split
    · exact rej_keep hk
    · split
      · exact rej_keep hk
      · split
        · exact rej_keep hk
        · split
          · exact rej_keep hk
          · split
            · exact rej_keep hk
            · split
              · exact rej_keep hk
              · split
                · split
                  · exact rej_keep hk
                  · extract_lets +onlyGivenNames x9
                    have h10 : Keep q x9 := State.createQueue_keep hk
                    clear_value x9
                    exact keepR_mk h10 (fun s11 h12 => h12)
                · extract_lets +onlyGivenNames x13
                  have h14 : Keep q x13 := State.createQueue_keep hk
                  clear_value x13
                  exact keepR_mk h14 (fun s15 h16 => h16)

theorem State.freeQueue_keep {s : State} {q0 : Nat} (hk : Keep q s) : Keep q (State.freeQueue s q0) := by
  unfold State.freeQueue
  extract_lets +onlyGivenNames x1
  have h2 : Keep q x1 := State.setFld_keep (State.setFld_keep hk)
  clear_value x1
  exact State.setQueue_keep (State.setFld_keep h2)

theorem State.endWork_keep {s : State} {q0 : Nat} (hk : Keep q s) : Keep q (State.endWork s q0) := by
  unfold State.endWork
  extract_lets +onlyGivenNames x1 x2
  clear_value x1 x2
  extract_lets +onlyGivenNames x3
  have h4 : Keep q x3 := keep_of hk rfl rfl rfl rfl rfl rfl
  clear_value x3
  extract_lets +onlyGivenNames x5
  clear_value x5
  extract_lets +onlyGivenNames x6
  have h7 : Keep q x6 := State.setFld_keep (State.setQueue_keep h4)
  clear_value x6
  exact keep_foldl (fun s8 x9 h10 => State.abortKernel_keep h10) h7

theorem State.endRing_keep {s : State} {q0 : Nat} (hk : Keep q s) : Keep q (State.endRing s q0) := by
  unfold State.endRing
  extract_lets +onlyGivenNames x1
  clear_value x1
  exact State.dmaGiveUp_keep (State.pauseChan_keep (State.setQueue_keep hk))

theorem State.finishDestroy_keep {s : State} {q0 : Nat} (hk : Keep q s) : Keep q (State.finishDestroy s q0) := by
  unfold State.finishDestroy
  split
  · extract_lets +onlyGivenNames x1
    clear_value x1
    exact State.freeQueue_keep (State.setChState_keep (State.setChan_keep hk))
  · exact State.freeQueue_keep hk

theorem hQueueDestroy_keep {c : Cmd} {s : State} (hk : Keep q s) : KeepR q (hQueueDestroy c s) := by
  unfold hQueueDestroy
  extract_lets +onlyGivenNames x1 x2
  clear_value x1 x2
  split
  · exact rej_keep hk
  · split
    · split
      · exact rej_keep hk
      · exact keepR_mk (State.freeQueue_keep hk) (fun s3 h4 => h4)
    · split
      · exact rej_keep hk
      · extract_lets +onlyGivenNames x5
        have h6 : Keep q x5 := by
          unfold x5
          refine State.unitWork_keep ?_
          split
          · exact State.endWork_keep hk
          · exact State.endRing_keep hk
        clear_value x5
        split
        · exact keepR_mk (State.unitWork_keep (State.finishDestroy_keep h6)) (fun s7 h8 => h8)
        · split
          · exact rej_keep hk
          · exact State.startLong_keep h6 (fun s9 h10 h11 => h11)

theorem execQueueDestroyDone_keep {q0 : CtxNo} {s : State} (hk : Keep q s) : KeepOut q (execQueueDestroyDone q0 s) := by
  unfold execQueueDestroyDone
  refine keepOut_next ?_
  split
  · exact hk
  · split
    · exact State.unitWork_keep (State.finishOp_keep (State.finishDestroy_keep hk))
    · exact hk

theorem State.flushOwed_keep {s : State} {b : Nat} (hk : Keep q s) : Keep q (State.flushOwed s b) := by
  unfold State.flushOwed
  extract_lets +onlyGivenNames x1
  clear_value x1
  refine keep_foldl ?_ hk
  intro s2 x3 h4
  extract_lets +onlyGivenNames x5
  clear_value x5
  split
  · exact State.addFld_keep h4
  · extract_lets +onlyGivenNames x6 x7
    clear_value x6 x7
    exact State.setLink_keep h4

theorem State.freeBinder_keep {s : State} {b : Nat} (hk : Keep q s) : Keep q (State.freeBinder s b) := by
  unfold State.freeBinder
  extract_lets +onlyGivenNames x1
  have h2 : Keep q x1 := State.setBinder_keep (State.flushOwed_keep hk)
  clear_value x1
  extract_lets +onlyGivenNames x3
  have h4 : Keep q x3 := State.setFld_keep (State.setFld_keep h2)
  clear_value x3
  exact State.setFld_keep (State.setFld_keep h4)

theorem State.armBinder_keep {s : State} {b step up pace first : Nat} {list : List Nat} (hk : Keep q s) :
    Keep q (State.armBinder s b step up pace first list) := by
  unfold State.armBinder
  extract_lets +onlyGivenNames x1
  have h2 : Keep q x1 := State.setFld_keep (State.setFld_keep (State.setFld_keep hk))
  clear_value x1
  extract_lets +onlyGivenNames x3
  have h4 : Keep q x3 := State.setFld_keep (State.setFld_keep (State.setFld_keep h2))
  clear_value x3
  extract_lets +onlyGivenNames x5
  have h6 : Keep q x5 := State.setFld_keep (State.setFld_keep (State.setFld_keep h4))
  clear_value x5
  exact State.setBinder_keep (State.setFld_keep h6)

theorem hBinderAlloc_keep {c : Cmd} {s : State} (hk : Keep q s) : KeepR q (hBinderAlloc c s) := by
  unfold hBinderAlloc
  extract_lets +onlyGivenNames x1 x2 x3 x4 x5 x6
  clear_value x1 x2 x3 x4 x5 x6
  split
  · exact rej_keep hk
  · split
    · split
      · exact rej_keep hk
      · split
        · exact rej_keep hk
        · refine keepR_mk ?_ (fun s7 h8 => h8)
          split
          · exact State.freeBinder_keep hk
          · exact hk
    · split
      · exact rej_keep hk
      · split
        · exact rej_keep hk
        · extract_lets +onlyGivenNames x9
          clear_value x9
          split
          · exact rej_keep hk
          · exact keepR_mk (State.armBinder_keep (State.drew_keep hk)) (fun s10 h11 => h11)

theorem hWindowOpen_keep {c : Cmd} {s : State} (hk : Keep q s) : KeepR q (hWindowOpen c s) := by
  unfold hWindowOpen
  extract_lets +onlyGivenNames x1 x2 x3 x4 x5 x6 x7
  clear_value x1 x2 x3 x4 x5 x6 x7
  split
  · exact rej_keep hk
  · split
    · exact rej_keep hk
    · split
      · exact rej_keep hk
      · split
        · exact rej_keep hk
        · extract_lets +onlyGivenNames x8
          have h9 : Keep q x8 := State.setFld_keep (State.setFld_keep (State.setFld_keep hk))
          clear_value x8
          extract_lets +onlyGivenNames x10
          have h11 : Keep q x10 := State.setFld_keep (State.setFld_keep (State.setFld_keep h9))
          clear_value x10
          extract_lets +onlyGivenNames x12
          have h13 : Keep q x12 := State.setFld_keep h11
          clear_value x12
          exact keepR_mk h13 (fun s14 h15 => h15)

theorem hWindowClose_keep {c : Cmd} {s : State} (hk : Keep q s) : KeepR q (hWindowClose c s) := by
  unfold hWindowClose
  extract_lets +onlyGivenNames x1
  clear_value x1
  split
  · exact rej_keep hk
  · split
    · exact rej_keep hk
    · split
      · exact rej_keep hk
      · split
        · exact keepR_mk (State.setFld_keep hk) (fun s2 h3 => h3)
        · exact State.startLong_keep hk (fun s4 h5 h6 => State.setFld_keep h6)

theorem execWindowCloseDone_keep {w : WinNo} {s : State} (hk : Keep q s) : KeepOut q (execWindowCloseDone w s) := by
  unfold execWindowCloseDone
  refine keepOut_next ?_
  split
  · exact hk
  · split
    · exact State.finishOp_keep (State.setFld_keep hk)
    · exact hk

theorem hRoleAssign_keep {c : Cmd} {s : State} (hk : Keep q s) : KeepR q (hRoleAssign c s) := by
  unfold hRoleAssign
  extract_lets +onlyGivenNames x1 x2
  clear_value x1 x2
  split
  · exact rej_keep hk
  · split
    · exact rej_keep hk
    · extract_lets +onlyGivenNames x3
      have h4 : Keep q x3 := State.setFld_keep (State.setFld_keep hk)
      clear_value x3
      extract_lets +onlyGivenNames x5
      have h6 : Keep q x5 := State.setFld_keep (State.setFld_keep h4)
      clear_value x5
      extract_lets +onlyGivenNames x7
      have h8 : Keep q x7 := State.setFld_keep (State.setFld_keep h6)
      clear_value x7
      exact keepR_mk h8 (fun s9 h10 => h10)

end Sys2Proof.Machine
end

