-- ==== Sys2Proof/Laws/KeepHostSec.lean ====
section
/-! SUPPORT. Every operation of HostSec keeps the invariant and the queue. -/

namespace Sys2Proof.Machine

variable {q : List Instr}

theorem hGetCertificate_keep {x0 : Cmd} {s : State} (hk : Keep q s) : KeepR q (hGetCertificate x0 s) := by
  unfold hGetCertificate
  extract_lets +onlyGivenNames x1
  clear_value x1
  exact keepR_mk hk (fun s2 h3 => h3)

theorem hGetMeasurements_keep {x0 : Cmd} {s : State} (hk : Keep q s) : KeepR q (hGetMeasurements x0 s) :=
  keepR_mk hk (fun _ h2 => h2)

theorem hAttest_keep {c : Cmd} {s : State} (hk : Keep q s) : KeepR q (hAttest c s) := by
  unfold hAttest
  split
  · exact rej_keep hk
  · refine State.startLong_keep hk ?_
    intro s1 x2 h3
    extract_lets +onlyGivenNames x4
    have h5 : Keep q x4 := State.setFld_keep h3
    clear_value x4
    exact keep_of h5 rfl rfl rfl rfl rfl rfl

theorem execAttestDone_keep {s : State} (hk : Keep q s) : KeepOut q (execAttestDone s) := by
  unfold execAttestDone
  refine keepOut_next ?_
  split
  · exact hk
  · extract_lets +onlyGivenNames x1 x2
    clear_value x1 x2
    extract_lets +onlyGivenNames x3
    have h4 : Keep q x3 := State.addFld_keep (State.setFld_keep (keep_of hk rfl rfl rfl rfl rfl rfl))
    clear_value x3
    exact State.finishOp_keep h4

theorem hCalReadFactory_keep {c : Cmd} {s : State} (hk : Keep q s) : KeepR q (hCalReadFactory c s) := by
  unfold hCalReadFactory
  extract_lets +onlyGivenNames x1
  clear_value x1
  split
  · exact rej_keep hk
  · extract_lets +onlyGivenNames x2
    clear_value x2
    split
    · exact rej_keep hk
    · exact keepR_mk hk (fun s3 h4 => h4)

theorem State.applyCal_keep {s : State} (hk : Keep q s) : Keep q (State.applyCal s) := by
  unfold State.applyCal
  extract_lets +onlyGivenNames x1 x2 x3 x4
  clear_value x1 x2 x3 x4
  extract_lets +onlyGivenNames x5
  have h6 : Keep q x5 := State.addFld_keep (keep_of hk rfl rfl rfl rfl rfl rfl)
  clear_value x5
  extract_lets +onlyGivenNames x7
  have h8 : Keep q x7 := keep_foldl (fun s9 x10 h11 => State.setFld_keep h11) h6
  clear_value x7
  extract_lets +onlyGivenNames x12
  have h13 : Keep q x12 := keep_foldl (fun s14 x15 h16 => State.setFld_keep h16) h8
  clear_value x12
  split
  · exact State.addFld_keep (State.setMeas_keep h13)
  · exact h13

theorem State.calStored_keep {s : State} (hk : Keep q s) : Keep q (State.calStored s) := by
  unfold State.calStored
  split
  · exact State.applyCal_keep hk
  · exact hk

theorem State.calReject_keep {s : State} {reason status : Nat} (hk : Keep q s) :
    KeepR q (State.calReject s reason status) :=
  rej_keep (State.addFld_keep (State.setFld_keep hk))

theorem hCalWriteUser_keep {c : Cmd} {s : State} (hk : Keep q s) : KeepR q (hCalWriteUser c s) := by
  unfold hCalWriteUser
  extract_lets +onlyGivenNames x1 x2
  clear_value x1 x2
  split
  · exact rej_keep hk
  · extract_lets +onlyGivenNames x3 x4
    clear_value x3 x4
    split
    · exact State.calReject_keep hk
    · split
      · exact State.calReject_keep hk
      · exact keepR_mk (State.calStored_keep (keep_of hk rfl rfl rfl rfl rfl rfl)) (fun s5 h6 => h6)

theorem hCalClearUser_keep {x0 : Cmd} {s : State} (hk : Keep q s) : KeepR q (hCalClearUser x0 s) :=
  keepR_mk (State.calStored_keep (keep_of hk rfl rfl rfl rfl rfl rfl)) (fun _ h2 => h2)

theorem hTestModeEnter_keep {c : Cmd} {s : State} (hk : Keep q s) : KeepR q (hTestModeEnter c s) := by
  unfold hTestModeEnter
  split
  · exact rej_keep hk
  · split
    · exact rej_keep hk
    · exact keepR_mk (State.setFld_keep hk) (fun s1 h2 => h2)

theorem hRunBist_keep {c : Cmd} {s : State} (hk : Keep q s) : KeepR q (hRunBist c s) := by
  unfold hRunBist
  extract_lets +onlyGivenNames x1 x2 x3
  clear_value x1 x2 x3
  split
  · exact rej_keep hk
  · split
    · exact rej_keep hk
    · split
      · exact rej_keep hk
      · split
        · exact rej_keep hk
        · refine State.startLong_keep hk ?_
          intro s4 x5 h6
          extract_lets +onlyGivenNames x7
          have h8 : Keep q x7 := State.setFld_keep (State.setFld_keep (State.setFld_keep h6))
          clear_value x7
          exact keep_of h8 rfl rfl rfl rfl rfl rfl

theorem State.bistCleared_keep {s : State} {target : Nat} {units : List Nat} (hk : Keep q s) :
    Keep q (State.bistCleared s target units) := by
  unfold State.bistCleared
  split
  · extract_lets gone lost t
    have h : Keep q t := setMem_keep (Mem.drop_wf hk.2.mem fun p => !units.contains p) hk
    clear_value t
    split
    · exact keep_foldl (fun _ _ h => State.setCore_keep h) h
    · exact h
  · split
    · exact keep_of hk rfl rfl rfl rfl rfl rfl
    · exact keep_of hk rfl rfl rfl rfl rfl rfl

theorem State.bistFail_keep {s : State} {target u : Nat} (hk : Keep q s) : Keep q (State.bistFail s target u) := by
  unfold State.bistFail
  extract_lets +onlyGivenNames x1
  clear_value x1
  extract_lets +onlyGivenNames x2
  have h3 : Keep q x2 := State.logEvent_keep (State.addFld_keep hk)
  clear_value x2
  split
  · split
    · exact State.linkDown_keep h3
    · exact h3
  · split
    · exact h3
    · split
      · exact State.fenceCore_keep h3
      · exact State.fenceClump_keep (State.setMaskBit_keep h3)

theorem execBistDone_keep {failures : List Defect} {s : State} (hk : Keep q s) : KeepOut q (execBistDone failures s) := by
  unfold execBistDone
  refine keepOut_next ?_
  split
  · exact hk
  · extract_lets +onlyGivenNames x1 x2 x3 x4
    clear_value x1 x2 x3 x4
    extract_lets +onlyGivenNames x5
    have h6 : Keep q x5 := keep_foldl (fun s7 x8 h9 => State.addDieback_keep h9) hk
    clear_value x5
    extract_lets +onlyGivenNames x10
    have h11 : Keep q x10 := State.bistCleared_keep (keep_of h6 rfl rfl rfl rfl rfl rfl)
    clear_value x10
    extract_lets +onlyGivenNames x12
    have h13 : Keep q x12 := keep_foldl (fun s14 x15 h16 => State.bistFail_keep h16) h11
    clear_value x12
    extract_lets +onlyGivenNames x17
    have h18 : Keep q x17 := State.setFld_keep (State.setFld_keep h13)
    clear_value x17
    extract_lets +onlyGivenNames x19
    have h20 : Keep q x19 := State.addFld_keep h18
    clear_value x19
    extract_lets +onlyGivenNames x21
    have h22 : Keep q x21 := by
      unfold x21
      split
      · exact keep_foldl (fun s23 x24 h25 => State.setFld_keep h25) h20
      · exact State.setFld_keep h20
      · exact State.setFld_keep h20
    clear_value x21
    extract_lets +onlyGivenNames x26
    clear_value x26
    exact State.unitWork_keep (State.finishOp_keep h22)

theorem State.memEnd_keep {s : State} {passed : Bool} {rows reason : Nat} (hk : Keep q s) :
    Keep q (State.memEnd s passed rows reason) := by
  unfold State.memEnd
  extract_lets +onlyGivenNames x1 x2
  clear_value x1 x2
  extract_lets +onlyGivenNames x3
  have h4 : Keep q x3 := keep_of hk rfl rfl rfl rfl rfl rfl
  clear_value x3
  extract_lets +onlyGivenNames x5
  have h6 : Keep q x5 := State.setFld_keep h4
  clear_value x5
  extract_lets +onlyGivenNames x7
  have h8 : Keep q x7 := by
    unfold x7
    split
    · exact State.setFld_keep h6
    · exact h6
  clear_value x7
  split
  · exact State.finishOp_keep h8
  · split
    · split
      · exact State.passStage_keep h8
      · exact State.failStage_keep h8
    · exact h8

theorem execSb1MemtestAnswer_keep {a : Sb1Answer} {s : State} (hk : Keep q s) : KeepOut q (execSb1MemtestAnswer a s) := by
  unfold execSb1MemtestAnswer
  refine keepOut_next ?_
  split
  · exact hk
  · split
    · extract_lets +onlyGivenNames x1 x2
      clear_value x1 x2
      extract_lets +onlyGivenNames x3
      have h4 : Keep q x3 := State.setFld_keep (keep_of hk rfl rfl rfl rfl rfl rfl)
      clear_value x3
      split
      · extract_lets +onlyGivenNames x5
        have h6 : Keep q x5 := State.setFld_keep h4
        clear_value x5
        split
        · exact State.lose_keep h6
        · exact h6
      · exact h4
    · exact State.setFld_keep hk
    · exact State.memEnd_keep hk
    · exact State.memEnd_keep hk

theorem execSb1AnswerTimeout_keep {s : State} (hk : Keep q s) : KeepOut q (execSb1AnswerTimeout s) := by
  unfold execSb1AnswerTimeout
  refine keepOut_next ?_
  split
  · exact State.memEnd_keep hk
  · exact hk

theorem execMemtestDone_keep {passed : Bool} {failingRows : Nat} {s : State} (hk : Keep q s) :
    KeepOut q (execMemtestDone passed failingRows s) := by
  unfold execMemtestDone
  refine keepOut_next ?_
  split
  · exact State.memEnd_keep hk
  · exact hk

theorem hMemtestStart_keep {c : Cmd} {s : State} (hk : Keep q s) : KeepR q (hMemtestStart c s) := by
  unfold hMemtestStart
  extract_lets +onlyGivenNames x1
  clear_value x1
  split
  · exact rej_keep hk
  · split
    · exact rej_keep hk
    · exact State.startLong_keep hk (fun s2 x3 h4 => State.beginMemtest_keep h4)

theorem hMemtestStatus_keep {x0 : Cmd} {s : State} (hk : Keep q s) : KeepR q (hMemtestStatus x0 s) := by
  unfold hMemtestStatus
  extract_lets +onlyGivenNames x1 x2
  clear_value x1 x2
  exact keepR_mk hk (fun s3 h4 => h4)

end Sys2Proof.Machine
end

