-- ==== Sys2Proof/Laws/KeepCommands.lean ====
section
/-! SUPPORT. Every operation of Commands keeps the invariant and the queue. -/

namespace Sys2Proof.Machine

variable {q : List Instr}

theorem tfind_mem {α : Type} {m : List (Nat × α)} {i : Nat} {v : α} (h : tfind m i = some v) : (i, v) ∈ m := by
  induction m with
  | nil => cases h
  | cons x m ih =>
    obtain ⟨k, w⟩ := x
    unfold tfind at h
    split at h
    · rename_i hk
      cases h
      subst hk
      exact List.mem_cons_self
    · exact List.mem_cons_of_mem _ (ih h)

theorem handlers_keep : ∀ e ∈ handlers, ∀ c s, Keep q s → KeepR q (e.2 c s) := by
  simp only [handlers, List.forall_mem_append, List.forall_mem_cons]
  exact
    ⟨⟨⟨⟨⟨fun _ _ => hGetInfo_keep, fun _ _ => hBootStage_keep, fun _ _ => hLoadBegin_keep,
      fun _ _ => hLoadChunk_keep, fun _ _ => hLoadCommit_keep, fun _ _ => hGetMissing_keep,
      fun _ _ => hRenumber_keep, fun _ _ => hGetDieback_keep,
      fun _ h => nomatch h⟩,
    ⟨fun _ _ => hSaveSettings_keep, fun _ _ => hRestoreSettings_keep, fun _ _ => hSetPowerState_keep,
      fun _ _ => hSetOperatingPoint_keep, fun _ _ => hSetLimit_keep, fun _ _ => hSetPacePolicy_keep,
      fun _ _ => hGetPowerAccounting_keep, fun _ _ => hReadTelemetry_keep,
      fun _ h => nomatch h⟩⟩,
    ⟨fun _ _ => hReadEnergy_keep, fun _ _ => hReadEvents_keep, fun _ _ => hLinkStatus_keep,
      fun _ _ => hLinkRetrain_keep, fun _ _ => hLinkLoopback_keep, fun _ _ => hLinkBerTest_keep,
      fun _ _ => hQueueCreate_keep, fun _ _ => hQueueDestroy_keep,
      fun _ h => nomatch h⟩⟩,
    ⟨fun _ _ => hBinderAlloc_keep, fun _ _ => hWindowOpen_keep, fun _ _ => hWindowClose_keep,
      fun _ _ => hRoleAssign_keep, fun _ _ => hGetCertificate_keep, fun _ _ => hAttest_keep,
      fun _ _ => hGetMeasurements_keep, fun _ _ => hCalReadFactory_keep,
      fun _ h => nomatch h⟩⟩,
    ⟨fun _ _ => hCalWriteUser_keep, fun _ _ => hCalClearUser_keep, fun _ _ => hTestModeEnter_keep,
      fun _ _ => hRunBist_keep, fun _ _ => hMemtestStart_keep, fun _ _ => hMemtestStatus_keep,
      fun _ h => nomatch h⟩⟩

theorem handle_keep {c : Cmd} {s : State} (hk : Keep q s) : KeepR q (handle c s) := by
  unfold handle
  split
  · rename_i h hf
    exact handlers_keep _ (tfind_mem hf) c s hk
  · exact rej_keep hk

theorem execHello_keep {p : Packet} {s : State} (hk : Keep q s) : KeepOut q (execHello p s) :=
  keepOut_next (State.command_keep hk (fun _ _ h3 => handle_keep h3))

theorem execSync_keep {p : Packet} {s : State} (hk : Keep q s) : KeepOut q (execSync p s) :=
  keepOut_next (State.command_keep hk (fun _ _ h3 => handle_keep h3))

theorem execGetInfo_keep {p : Packet} {s : State} (hk : Keep q s) : KeepOut q (execGetInfo p s) :=
  keepOut_next (State.command_keep hk (fun _ _ h3 => handle_keep h3))

theorem execBootStage_keep {p : Packet} {s : State} (hk : Keep q s) : KeepOut q (execBootStage p s) :=
  keepOut_next (State.command_keep hk (fun _ _ h3 => handle_keep h3))

theorem execLoadImageBegin_keep {p : Packet} {s : State} (hk : Keep q s) : KeepOut q (execLoadImageBegin p s) :=
  keepOut_next (State.command_keep hk (fun _ _ h3 => handle_keep h3))

theorem execLoadImageChunk_keep {p : Packet} {badCores : List CoreNo} {s : State} (hk : Keep q s) :
    KeepOut q (execLoadImageChunk p badCores s) :=
  keepOut_next (State.command_keep hk (fun _ _ h3 => handle_keep h3))

theorem execLoadImageCommit_keep {p : Packet} {s : State} (hk : Keep q s) : KeepOut q (execLoadImageCommit p s) :=
  keepOut_next (State.command_keep hk (fun _ _ h3 => handle_keep h3))

theorem execGetMissing_keep {p : Packet} {s : State} (hk : Keep q s) : KeepOut q (execGetMissing p s) :=
  keepOut_next (State.command_keep hk (fun _ _ h3 => handle_keep h3))

theorem execRenumber_keep {p : Packet} {s : State} (hk : Keep q s) : KeepOut q (execRenumber p s) :=
  keepOut_next (State.command_keep hk (fun _ _ h3 => handle_keep h3))

theorem execGetDieback_keep {p : Packet} {s : State} (hk : Keep q s) : KeepOut q (execGetDieback p s) :=
  keepOut_next (State.command_keep hk (fun _ _ h3 => handle_keep h3))

theorem execSaveSettings_keep {p : Packet} {s : State} (hk : Keep q s) : KeepOut q (execSaveSettings p s) :=
  keepOut_next (State.command_keep hk (fun _ _ h3 => handle_keep h3))

theorem execRestoreSettings_keep {p : Packet} {fast : Bool} {s : State} (hk : Keep q s) :
    KeepOut q (execRestoreSettings p fast s) :=
  keepOut_next (State.command_keep hk (fun _ _ h3 => handle_keep h3))

theorem execSetPowerState_keep {p : Packet} {fast : Bool} {s : State} (hk : Keep q s) :
    KeepOut q (execSetPowerState p fast s) :=
  keepOut_next (State.command_keep hk (fun _ _ h3 => handle_keep h3))

theorem execSetOperatingPoint_keep {p : Packet} {s : State} (hk : Keep q s) : KeepOut q (execSetOperatingPoint p s) :=
  keepOut_next (State.command_keep hk (fun _ _ h3 => handle_keep h3))

theorem execSetLimit_keep {p : Packet} {s : State} (hk : Keep q s) : KeepOut q (execSetLimit p s) :=
  keepOut_next (State.command_keep hk (fun _ _ h3 => handle_keep h3))

theorem execSetPacePolicy_keep {p : Packet} {s : State} (hk : Keep q s) : KeepOut q (execSetPacePolicy p s) :=
  keepOut_next (State.command_keep hk (fun _ _ h3 => handle_keep h3))

theorem execGetPowerAccounting_keep {p : Packet} {s : State} (hk : Keep q s) :
    KeepOut q (execGetPowerAccounting p s) :=
  keepOut_next (State.command_keep hk (fun _ _ h3 => handle_keep h3))

theorem execReadTelemetry_keep {p : Packet} {s : State} (hk : Keep q s) : KeepOut q (execReadTelemetry p s) :=
  keepOut_next (State.command_keep hk (fun _ _ h3 => handle_keep h3))

theorem execReadEnergy_keep {p : Packet} {s : State} (hk : Keep q s) : KeepOut q (execReadEnergy p s) :=
  keepOut_next (State.command_keep hk (fun _ _ h3 => handle_keep h3))

theorem execReadEvents_keep {p : Packet} {s : State} (hk : Keep q s) : KeepOut q (execReadEvents p s) :=
  keepOut_next (State.command_keep hk (fun _ _ h3 => handle_keep h3))

theorem execLinkStatus_keep {p : Packet} {s : State} (hk : Keep q s) : KeepOut q (execLinkStatus p s) :=
  keepOut_next (State.command_keep hk (fun _ _ h3 => handle_keep h3))

theorem execLinkRetrain_keep {p : Packet} {fast : Bool} {s : State} (hk : Keep q s) :
    KeepOut q (execLinkRetrain p fast s) :=
  keepOut_next (State.command_keep hk (fun _ _ h3 => handle_keep h3))

theorem execLinkLoopback_keep {p : Packet} {s : State} (hk : Keep q s) : KeepOut q (execLinkLoopback p s) :=
  keepOut_next (State.command_keep hk (fun _ _ h3 => handle_keep h3))

theorem execLinkBerTest_keep {p : Packet} {s : State} (hk : Keep q s) : KeepOut q (execLinkBerTest p s) :=
  keepOut_next (State.command_keep hk (fun _ _ h3 => handle_keep h3))

theorem execQueueCreate_keep {p : Packet} {s : State} (hk : Keep q s) : KeepOut q (execQueueCreate p s) :=
  keepOut_next (State.command_keep hk (fun _ _ h3 => handle_keep h3))

theorem execQueueDestroy_keep {p : Packet} {fast : Bool} {s : State} (hk : Keep q s) :
    KeepOut q (execQueueDestroy p fast s) :=
  keepOut_next (State.command_keep hk (fun _ _ h3 => handle_keep h3))

theorem execBinderAlloc_keep {p : Packet} {s : State} (hk : Keep q s) : KeepOut q (execBinderAlloc p s) :=
  keepOut_next (State.command_keep hk (fun _ _ h3 => handle_keep h3))

theorem execWindowOpen_keep {p : Packet} {s : State} (hk : Keep q s) : KeepOut q (execWindowOpen p s) :=
  keepOut_next (State.command_keep hk (fun _ _ h3 => handle_keep h3))

theorem execWindowClose_keep {p : Packet} {fast : Bool} {s : State} (hk : Keep q s) :
    KeepOut q (execWindowClose p fast s) :=
  keepOut_next (State.command_keep hk (fun _ _ h3 => handle_keep h3))

theorem execRoleAssign_keep {p : Packet} {s : State} (hk : Keep q s) : KeepOut q (execRoleAssign p s) :=
  keepOut_next (State.command_keep hk (fun _ _ h3 => handle_keep h3))

theorem execGetCertificate_keep {p : Packet} {s : State} (hk : Keep q s) : KeepOut q (execGetCertificate p s) :=
  keepOut_next (State.command_keep hk (fun _ _ h3 => handle_keep h3))

theorem execAttest_keep {p : Packet} {s : State} (hk : Keep q s) : KeepOut q (execAttest p s) :=
  keepOut_next (State.command_keep hk (fun _ _ h3 => handle_keep h3))

theorem execGetMeasurements_keep {p : Packet} {s : State} (hk : Keep q s) : KeepOut q (execGetMeasurements p s) :=
  keepOut_next (State.command_keep hk (fun _ _ h3 => handle_keep h3))

theorem execCalReadFactory_keep {p : Packet} {s : State} (hk : Keep q s) : KeepOut q (execCalReadFactory p s) :=
  keepOut_next (State.command_keep hk (fun _ _ h3 => handle_keep h3))

theorem execCalWriteUser_keep {p : Packet} {s : State} (hk : Keep q s) : KeepOut q (execCalWriteUser p s) :=
  keepOut_next (State.command_keep hk (fun _ _ h3 => handle_keep h3))

theorem execCalClearUser_keep {p : Packet} {s : State} (hk : Keep q s) : KeepOut q (execCalClearUser p s) :=
  keepOut_next (State.command_keep hk (fun _ _ h3 => handle_keep h3))

theorem execTestModeEnter_keep {p : Packet} {s : State} (hk : Keep q s) : KeepOut q (execTestModeEnter p s) :=
  keepOut_next (State.command_keep hk (fun _ _ h3 => handle_keep h3))

theorem execRunBist_keep {p : Packet} {s : State} (hk : Keep q s) : KeepOut q (execRunBist p s) :=
  keepOut_next (State.command_keep hk (fun _ _ h3 => handle_keep h3))

theorem execMemtestStart_keep {p : Packet} {s : State} (hk : Keep q s) : KeepOut q (execMemtestStart p s) :=
  keepOut_next (State.command_keep hk (fun _ _ h3 => handle_keep h3))

theorem execMemtestStatus_keep {p : Packet} {s : State} (hk : Keep q s) : KeepOut q (execMemtestStatus p s) :=
  keepOut_next (State.command_keep hk (fun _ _ h3 => handle_keep h3))

theorem execLongOpPoll_keep {opcode : BitVec 16} {p : Packet} {s : State} (hk : Keep q s) :
    KeepOut q (execLongOpPoll opcode p s) :=
  keepOut_next (State.command_keep hk (fun _ _ h3 => handle_keep h3))

theorem execUnknownOpcode_keep {link : LinkNo} {linkTag opcode : BitVec 16} {p : Packet} {s : State} (hk : Keep q s) :
    KeepOut q (execUnknownOpcode link linkTag opcode p s) := by
  unfold execUnknownOpcode
  refine keepOut_next ?_
  split
  · split
    · exact State.statusOn_keep hk
    · exact hk
  · exact State.command_keep hk (fun x1 s2 h3 => handle_keep h3)

theorem execSeqHoldTimeout_keep {s : State} (hk : Keep q s) : KeepOut q (execSeqHoldTimeout s) := by
  unfold execSeqHoldTimeout
  refine keepOut_next ?_
  split
  · split
    · exact hk
    · exact State.badSeq_keep (keep_of hk rfl rfl rfl rfl rfl rfl)
  · exact hk

theorem State.afterDie_keep {s : State} (hk : Keep q s) : Keep q (State.afterDie s) :=
  State.unitWork_keep (State.takeAsleep_keep (State.startDiePending_keep hk) (fun _ _ h3 => handle_keep h3))

theorem execPowerTransitionDone_keep {core : Option CoreNo} {s : State} (hk : Keep q s) :
    KeepOut q (execPowerTransitionDone core s) := by
  unfold execPowerTransitionDone
  refine keepOut_next ?_
  split
  · split
    · exact State.afterDie_keep (State.coreDone_keep hk)
    · exact hk
  · split
    · exact State.checkAsleep_keep hk
    · split
      · exact State.afterDie_keep (State.finishDieWake_keep hk)
      · exact hk

theorem execDieWake_keep {s : State} (hk : Keep q s) : KeepOut q (execDieWake s) := by
  unfold execDieWake
  refine keepOut_next ?_
  split
  · exact State.afterDie_keep (State.finishDieWake_keep hk)
  · exact hk

end Sys2Proof.Machine
end

