-- ==== Sys2Proof/Laws/KeepFlits.lean ====
section
/-! SUPPORT. Every operation of Flits keeps the invariant and the queue. -/

namespace Sys2Proof.Machine

variable {q : List Instr}

theorem State.useCredit_keep {s : State} {i vc n : Nat} (hk : Keep q s) : Keep q (State.useCredit s i vc n) := by
  unfold State.useCredit
  split
  · exact hk
  · exact State.setFld_keep hk

theorem State.owe_keep {s : State} {i vc n : Nat} (hk : Keep q s) : Keep q (State.owe s i vc n) := by
  unfold State.owe
  extract_lets +onlyGivenNames x1
  clear_value x1
  exact State.setLink_keep hk

theorem State.header_keep {s : State} {i kind : Nat} (hk : Keep q s) : Keep q (State.header s i kind).2 := by
  unfold State.header
  extract_lets +onlyGivenNames x1 x2 x3 x4 x5
  clear_value x1 x2 x3 x4 x5
  exact State.setLink_keep (State.drew_keep hk)

theorem State.pack_keep {s : State} {i vc x3 x4 : Nat} (hk : Keep q s) : Keep q (State.pack s i vc x3 x4).1 := by
  induction x3 generalizing s i vc x4 with
  | zero =>
    unfold State.pack
    exact hk
  | succ n ih =>
    unfold State.pack
    split
    · exact hk
    · extract_lets +onlyGivenNames x1
      clear_value x1
      split
      · extract_lets +onlyGivenNames x2
        have h3 : Keep q x2 := State.setLink_keep hk
        clear_value x2
        extract_lets +onlyGivenNames x4
        have h5 : Keep q x4.1 := ih h3
        clear_value x4
        exact h5
      · split
        · exact hk
        · extract_lets +onlyGivenNames x6 x7
          clear_value x6 x7
          split
          · extract_lets +onlyGivenNames x8
            have h9 : Keep q x8 := State.setLink_keep (State.useCredit_keep (State.drew_keep hk))
            clear_value x8
            exact ih h9
          · exact hk

theorem State.sendData_keep {s : State} {i vc used cont : Nat} {b : List Byte} (hk : Keep q s) :
    Keep q (State.sendData s i vc used cont b) := by
  unfold State.sendData
  extract_lets +onlyGivenNames x1
  have h2 : Keep q x1.2 := State.header_keep hk
  clear_value x1
  extract_lets +onlyGivenNames x3
  have h4 : Keep q x3 := h2
  clear_value x3
  extract_lets +onlyGivenNames x5 x6 x7 x8 x9 x10
  clear_value x5 x6 x7 x8 x9 x10
  extract_lets +onlyGivenNames x11
  have h12 : Keep q x11 := State.addFld_keep (State.setLink_keep h4)
  clear_value x11
  split
  · split
    · exact State.switchMap_keep h12
    · exact h12
  · exact h12

theorem State.noteTags_keep {s : State} {i : Nat} {before : LinkSt} (hk : Keep q s) :
    Keep q (State.noteTags s i before) := by
  unfold State.noteTags
  extract_lets +onlyGivenNames x1 x2 x3
  clear_value x1 x2 x3
  exact State.setLink_keep hk

theorem State.sendVc_keep {s : State} {i vc : Nat} (hk : Keep q s) : Keep q (State.sendVc s i vc) := by
  unfold State.sendVc
  extract_lets +onlyGivenNames x1 x2
  clear_value x1 x2
  extract_lets +onlyGivenNames x3
  have h4 : Keep q x3.1 := State.pack_keep hk
  clear_value x3
  extract_lets +onlyGivenNames x5
  have h6 : Keep q x5 := by
    unfold x5
    split
    · exact State.noteTags_keep h4
    · exact h4
  clear_value x5
  exact State.sendData_keep h6

theorem State.sendReserved_keep {s : State} {i : Nat} (hk : Keep q s) : Keep q (State.sendReserved s i) := by
  unfold State.sendReserved
  extract_lets +onlyGivenNames x1 x2 x3 x4 x5 x6 x7
  clear_value x1 x2 x3 x4 x5 x6 x7
  extract_lets +onlyGivenNames x8
  have h9 : Keep q x8 := State.useCredit_keep (State.useCredit_keep (State.setLink_keep hk))
  clear_value x8
  exact State.sendData_keep h9

theorem State.dealOut_keep {s : State} {i w : Nat} {f : Flit} (hk : Keep q s) : Keep q (State.dealOut s i w f) := by
  unfold State.dealOut
  extract_lets +onlyGivenNames x1 x2
  clear_value x1 x2
  exact State.setLink_keep hk

theorem State.controlOut_keep {s : State} {i w : Nat} {check : Bool} (hk : Keep q s) :
    Keep q (State.controlOut s i w check) := by
  unfold State.controlOut
  extract_lets +onlyGivenNames x1
  have h2 : Keep q x1.2 := State.header_keep hk
  clear_value x1
  extract_lets +onlyGivenNames x3
  have h4 : Keep q x3 := h2
  clear_value x3
  extract_lets +onlyGivenNames x5 x6 x7 x8 x9
  clear_value x5 x6 x7 x8 x9
  exact State.dealOut_keep (State.setLink_keep (State.drew_keep h4))

theorem State.sendCtl_keep {s : State} {i : Nat} {c : Ctl} (hk : Keep q s) : Keep q (State.sendCtl s i c) := by
  unfold State.sendCtl
  extract_lets +onlyGivenNames x1 x2 x3
  clear_value x1 x2 x3
  split
  · exact State.controlOut_keep (State.setLink_keep hk)
  · exact State.controlOut_keep (State.setLink_keep hk)
  · exact State.controlOut_keep (State.setLink_keep hk)
  · exact State.controlOut_keep (State.setLink_keep hk)
  · split
    · exact State.setLink_keep hk
    · exact State.checkAsleep_keep (State.setFld_keep (State.controlOut_keep (State.setLink_keep hk)))
  · extract_lets +onlyGivenNames x4
    clear_value x4
    exact State.setLink_keep hk

theorem State.sendAgain_keep {s : State} {i : Nat} {f : Flit} {rest : List Flit} (hk : Keep q s) :
    Keep q (State.sendAgain s i f rest) := by
  unfold State.sendAgain
  extract_lets +onlyGivenNames x1 x2
  clear_value x1 x2
  split
  · exact hk
  · extract_lets +onlyGivenNames x3
    clear_value x3
    exact State.addFld_keep (State.setLink_keep hk)

theorem State.sendBare_keep {s : State} {i kind : Nat} (hk : Keep q s) : Keep q (State.sendBare s i kind) := by
  unfold State.sendBare
  extract_lets +onlyGivenNames x1
  have h2 : Keep q x1.2 := State.header_keep hk
  clear_value x1
  extract_lets +onlyGivenNames x3
  clear_value x3
  extract_lets +onlyGivenNames x4
  have h5 : Keep q x4 := State.setLink_keep h2
  clear_value x4
  split
  · exact State.addFld_keep h5
  · exact h5

theorem State.sendFlit_keep {s : State} {i : Nat} (hk : Keep q s) : Keep q (State.sendFlit s i) := by
  unfold State.sendFlit
  extract_lets +onlyGivenNames x1
  have h2 : Keep q x1 := by
    unfold x1
    split
    · exact State.addFld_keep hk
    · exact hk
  clear_value x1
  extract_lets +onlyGivenNames x3 x4
  clear_value x3 x4
  split
  · exact State.sendCtl_keep (State.setLink_keep h2)
  · split
    · exact State.sendAgain_keep h2
    · split
      · exact State.sendReserved_keep h2
      · split
        · exact State.sendBare_keep h2
        · split
          · exact State.sendCtl_keep h2
          · split
            · exact State.sendVc_keep h2
            · split
              · extract_lets +onlyGivenNames x5
                have h6 : Keep q x5 := State.sendVc_keep h2
                clear_value x5
                exact State.setLink_keep h6
              · exact State.sendBare_keep h2

theorem State.dealFlit_keep {s : State} {i : Nat} (hk : Keep q s) : Keep q (State.dealFlit s i) := by
  unfold State.dealFlit
  split
  · exact State.dealOut_keep hk
  · exact hk

theorem execFlitSend_keep {link : LinkNo} {s : State} (hk : Keep q s) : KeepOut q (execFlitSend link s) := by
  unfold execFlitSend
  extract_lets +onlyGivenNames x1
  clear_value x1
  refine keepOut_next ?_
  split
  · exact State.dealFlit_keep (State.sendFlit_keep hk)
  · split
    · extract_lets +onlyGivenNames x2
      have h3 : Keep q x2 := State.wakeLink_keep hk
      clear_value x2
      exact State.sendCtl_keep h3
    · split
      · exact State.sendCtl_keep hk
      · exact hk

theorem State.deliverPacket_keep {s : State} {i vc : Nat} {b : List Byte} (hk : Keep q s) :
    Keep q (State.deliverPacket s i vc b) := by
  unfold State.deliverPacket
  extract_lets +onlyGivenNames x1 x2 x3
  clear_value x1 x2 x3
  split
  · exact State.serveWrite_keep (State.owe_keep hk)
  · split
    · exact State.serveReadback_keep (State.owe_keep hk)
    · split
      · exact State.serveRead_keep (State.owe_keep hk)
      · split
        · exact State.answerTag_keep hk
        · split
          · exact State.answerTag_keep hk
          · split
            · extract_lets +onlyGivenNames x4
              have h5 : Keep q x4 := State.owe_keep hk
              clear_value x4
              split
              · split
                · exact State.serveMgmt_keep h5
                · exact State.statusOn_keep h5
              · split
                · extract_lets +onlyGivenNames x6
                  clear_value x6
                  exact State.command_keep h5 (fun x7 s8 h9 => handle_keep h9)
                · exact h5
            · exact hk

theorem State.unpack_keep {s : State} {i vc x3 : Nat} {x4 : List Byte} (hk : Keep q s) :
    Keep q (State.unpack s i vc x3 x4) := by
  induction x3 generalizing s i vc x4 with
  | zero =>
    unfold State.unpack
    extract_lets +onlyGivenNames x1
    clear_value x1
    exact State.setLink_keep hk
  | succ n ih =>
    unfold State.unpack
    extract_lets +onlyGivenNames x1
    clear_value x1
    split
    · extract_lets +onlyGivenNames x2
      clear_value x2
      exact State.setLink_keep hk
    · exact ih (State.deliverPacket_keep hk)

theorem State.arrive_keep {s : State} {i : Nat} {m : BinderMsg} (hk : Keep q s) : Keep q (State.arrive s i m) := by
  unfold State.arrive
  extract_lets +onlyGivenNames x1
  have h2 : Keep q x1 := State.owe_keep hk
  clear_value x1
  split
  · exact State.answerMessage_keep h2
  · exact State.enterInq_keep h2

theorem State.content_keep {s : State} {i : Nat} {f : Flit} (hk : Keep q s) : Keep q (State.content s i f) := by
  unfold State.content
  extract_lets +onlyGivenNames x1 x2
  clear_value x1 x2
  split
  · extract_lets +onlyGivenNames x3
    have h4 : Keep q x3 := State.serveInq_keep (keep_foldl (fun s5 x6 h7 => State.arrive_keep h7) hk)
    clear_value x3
    exact keep_foldl (fun s8 x9 h10 => State.vc5In_keep (State.owe_keep h10)) h4
  · split
    · exact State.unpack_keep hk
    · exact hk

theorem State.askRetry_keep {s : State} {i : Nat} (hk : Keep q s) : Keep q (State.askRetry s i) := by
  unfold State.askRetry
  extract_lets +onlyGivenNames x1
  clear_value x1
  split
  · exact hk
  · exact State.setLink_keep hk

theorem State.headerIn_keep {s : State} {i : Nat} {f : Flit} (hk : Keep q s) : Keep q (State.headerIn s i f) := by
  unfold State.headerIn
  extract_lets +onlyGivenNames x1 x2
  clear_value x1 x2
  extract_lets +onlyGivenNames x3
  have h4 : Keep q x3 := by
    unfold x3
    split
    · exact State.setFld_keep hk
    · exact hk
  clear_value x3
  extract_lets +onlyGivenNames x5 x6
  clear_value x5 x6
  split
  · extract_lets +onlyGivenNames x7
    clear_value x7
    exact State.setLink_keep h4
  · exact h4

theorem State.flitIn_keep {s : State} {i : Nat} {f : Flit} {kind : Nat} (hk : Keep q s) :
    Keep q (State.flitIn s i f kind).1 := by
  unfold State.flitIn
  split
  · exact State.askRetry_keep (State.addFld_keep hk)
  · split
    · exact hk
    · split
      · exact hk
      · exact State.headerIn_keep hk

theorem State.seqShows_keep {s : State} {i seq : Nat} (hk : Keep q s) : Keep q (State.seqShows s i seq) := by
  unfold State.seqShows
  extract_lets +onlyGivenNames x1
  clear_value x1
  split
  · exact hk
  · exact State.askRetry_keep hk

theorem State.rustled_keep {s : State} {i : Nat} (hk : Keep q s) : Keep q (State.rustled s i) :=
  State.linkTraffic_keep (State.wakeLink_keep hk)

theorem execDataFlit_keep {link : LinkNo} {f : Flit} {s : State} (hk : Keep q s) : KeepOut q (execDataFlit link f s) := by
  unfold execDataFlit
  extract_lets +onlyGivenNames x1
  clear_value x1
  split
  · exact keepOut_fault
  · refine keepOut_next ?_
    split
    · exact State.rustled_keep hk
    · split
      · exact hk
      · extract_lets +onlyGivenNames x2
        have h3 : Keep q x2.1 := State.flitIn_keep hk
        clear_value x2
        extract_lets +onlyGivenNames x4
        have h5 : Keep q x4 := h3
        clear_value x4
        split
        · exact h5
        · extract_lets +onlyGivenNames x6
          clear_value x6
          extract_lets +onlyGivenNames x7
          have h8 : Keep q x7 := State.setLink_keep h5
          clear_value x7
          split
          · exact State.seqShows_keep h8
          · extract_lets +onlyGivenNames x9
            clear_value x9
            extract_lets +onlyGivenNames x10
            have h11 : Keep q x10 := State.addFld_keep (State.setLink_keep h8)
            clear_value x10
            extract_lets +onlyGivenNames x12
            have h13 : Keep q x12 := by
              unfold x12
              split
              · split
                · exact State.switchMap_keep h11
                · exact h11
              · exact h11
            clear_value x12
            exact State.unitWork_keep (State.content_keep (State.stir_keep h13))

theorem execIdleFlit_keep {link : LinkNo} {f : Flit} {s : State} (hk : Keep q s) : KeepOut q (execIdleFlit link f s) := by
  unfold execIdleFlit
  extract_lets +onlyGivenNames x1
  clear_value x1
  split
  · exact keepOut_fault
  · refine keepOut_next ?_
    split
    · exact State.rustled_keep hk
    · split
      · exact hk
      · extract_lets +onlyGivenNames x2
        have h3 : Keep q x2.1 := State.flitIn_keep hk
        clear_value x2
        split
        · exact State.seqShows_keep h3
        · exact h3

theorem execRetry_keep {link : LinkNo} {f : Flit} {s : State} (hk : Keep q s) : KeepOut q (execRetry link f s) := by
  unfold execRetry
  extract_lets +onlyGivenNames x1
  clear_value x1
  split
  · exact keepOut_fault
  · refine keepOut_next ?_
    split
    · exact State.rustled_keep hk
    · split
      · exact hk
      · extract_lets +onlyGivenNames x2
        have h3 : Keep q x2.1 := State.flitIn_keep hk
        clear_value x2
        split
        · exact h3
        · extract_lets +onlyGivenNames x4
          have h5 : Keep q x4 := State.addFld_keep (State.seqShows_keep h3)
          clear_value x4
          extract_lets +onlyGivenNames x6 x7
          clear_value x6 x7
          extract_lets +onlyGivenNames x8
          have h9 : Keep q x8 := State.setLink_keep h5
          clear_value x8
          split
          · exact State.escalate_keep h9
          · split
            · exact h9
            · split
              · exact State.escalate_keep h9
              · exact State.setLink_keep h9

theorem execRetryTimeout_keep {link : LinkNo} {s : State} (hk : Keep q s) : KeepOut q (execRetryTimeout link s) := by
  unfold execRetryTimeout
  extract_lets +onlyGivenNames x1
  clear_value x1
  refine keepOut_next ?_
  split
  · exact State.setLink_keep hk
  · exact hk

theorem execLaneCheck_keep {link : LinkNo} {errors : List Nat} {s : State} (hk : Keep q s) :
    KeepOut q (execLaneCheck link errors s) := by
  unfold execLaneCheck
  extract_lets +onlyGivenNames x1
  clear_value x1
  refine keepOut_next ?_
  split
  · exact State.rustled_keep hk
  · split
    · exact hk
    · extract_lets +onlyGivenNames x2 x3 x4
      clear_value x2 x3 x4
      extract_lets +onlyGivenNames x5
      have h6 : Keep q x5 := keep_foldl (fun s7 x8 h9 => State.satFld_keep h9) hk
      clear_value x5
      extract_lets +onlyGivenNames x10 x11 x12 x13
      clear_value x10 x11 x12 x13
      extract_lets +onlyGivenNames x14
      have h15 : Keep q x14 := State.setLink_keep h6
      clear_value x14
      split
      · exact State.dropLanes_keep h15
      · exact h15

theorem State.ctlOnce_keep {s : State} {i : Nat} {c : Ctl} (hk : Keep q s) : Keep q (State.ctlOnce s i c) := by
  unfold State.ctlOnce
  split
  · exact hk
  · exact State.ctlOn_keep hk

theorem execLaneCheckSend_keep {link : LinkNo} {s : State} (hk : Keep q s) : KeepOut q (execLaneCheckSend link s) := by
  unfold execLaneCheckSend
  refine keepOut_next ?_
  split
  · exact State.ctlOnce_keep hk
  · exact hk

theorem State.echoFails_keep {s : State} {i : Nat} (hk : Keep q s) : Keep q (State.echoFails s i) := by
  unfold State.echoFails
  extract_lets +onlyGivenNames x1
  clear_value x1
  extract_lets +onlyGivenNames x2
  have h3 : Keep q x2 := State.leaveUp_keep (State.addFld_keep hk)
  clear_value x2
  exact State.failAttempt_keep (State.lose_keep (State.setLink_keep h3))

theorem execConfigEcho_keep {link : LinkNo} {e : Echo} {s : State} (hk : Keep q s) :
    KeepOut q (execConfigEcho link e s) := by
  unfold execConfigEcho
  extract_lets +onlyGivenNames x1
  clear_value x1
  refine keepOut_next ?_
  split
  · exact State.rustled_keep hk
  · split
    · exact hk
    · split
      · exact State.setLink_keep hk
      · exact State.unitWork_keep (State.echoFails_keep hk)

theorem execConfigEchoSend_keep {link : LinkNo} {s : State} (hk : Keep q s) : KeepOut q (execConfigEchoSend link s) := by
  unfold execConfigEchoSend
  refine keepOut_next ?_
  split
  · exact State.ctlOnce_keep hk
  · exact hk

theorem execEchoTimeout_keep {link : LinkNo} {s : State} (hk : Keep q s) : KeepOut q (execEchoTimeout link s) := by
  unfold execEchoTimeout
  refine keepOut_next ?_
  split
  · exact State.unitWork_keep (State.echoFails_keep hk)
  · exact hk

theorem execReconfigReq_keep {link : LinkNo} {used : DWord} {switchSeq : BitVec 12} {s : State} (hk : Keep q s) :
    KeepOut q (execReconfigReq link used switchSeq s) := by
  unfold execReconfigReq
  extract_lets +onlyGivenNames x1 x2
  clear_value x1 x2
  refine keepOut_next ?_
  split
  · exact State.rustled_keep hk
  · split
    · exact hk
    · split
      · exact State.escalateQuiet_keep hk
      · exact State.setLink_keep (State.setFld_keep hk)

theorem execReconfigTimeout_keep {link : LinkNo} {s : State} (hk : Keep q s) :
    KeepOut q (execReconfigTimeout link s) := by
  unfold execReconfigTimeout
  refine keepOut_next ?_
  split
  · exact State.unitWork_keep (State.escalate_keep hk)
  · exact hk

theorem execTrickleReq_keep {link : LinkNo} {s : State} (hk : Keep q s) : KeepOut q (execTrickleReq link s) := by
  unfold execTrickleReq
  extract_lets +onlyGivenNames x1
  clear_value x1
  refine keepOut_next ?_
  split
  · exact State.rustled_keep hk
  · split
    · exact State.ctlOnce_keep hk
    · exact hk

theorem execTrickleAck_keep {link : LinkNo} {s : State} (hk : Keep q s) : KeepOut q (execTrickleAck link s) := by
  unfold execTrickleAck
  extract_lets +onlyGivenNames x1
  clear_value x1
  refine keepOut_next ?_
  split
  · exact State.rustled_keep hk
  · split
    · exact State.checkAsleep_keep (State.setFld_keep (State.setLink_keep hk))
    · exact hk

theorem execKeepalive_keep {_link : LinkNo} {s : State} (hk : Keep q s) : KeepOut q (execKeepalive _link s) :=
  keepOut_next hk

theorem execKeepaliveSend_keep {link : LinkNo} {s : State} (hk : Keep q s) : KeepOut q (execKeepaliveSend link s) := by
  unfold execKeepaliveSend
  extract_lets +onlyGivenNames x1
  clear_value x1
  refine keepOut_next ?_
  split
  · exact State.controlOut_keep (State.setLink_keep hk)
  · exact hk

theorem execWakeLock_keep {link : LinkNo} {s : State} (hk : Keep q s) : KeepOut q (execWakeLock link s) := by
  unfold execWakeLock
  extract_lets +onlyGivenNames x1 x2
  clear_value x1 x2
  refine keepOut_next ?_
  split
  · exact State.setFld_keep (State.setLink_keep hk)
  · exact hk

theorem State.streamWrite_keep {s : State} {key : Nat} {t : AdpStream} {k : Nat} {row : List Byte} (hk : Keep q s) :
    Keep q (State.streamWrite s key t k row) := by
  unfold State.streamWrite
  extract_lets +onlyGivenNames x1
  clear_value x1
  exact State.sendOn_keep hk

theorem execOutboundStreamSend_keep {a : LinkNo} {stream : Fin 2} {s : State} (hk : Keep q s) :
    KeepOut q (execOutboundStreamSend a stream s) := by
  unfold execOutboundStreamSend
  extract_lets +onlyGivenNames x1
  clear_value x1
  refine keepOut_next ?_
  split
  · split
    · split
      · exact keep_of hk rfl rfl rfl rfl rfl rfl
      · extract_lets +onlyGivenNames x2 x3
        clear_value x2 x3
        exact State.streamWrite_keep (keep_of hk rfl rfl rfl rfl rfl rfl)
    · split
      · exact hk
      · split
        · exact hk
        · exact State.streamWrite_keep (keep_of hk rfl rfl rfl rfl rfl rfl)
  · exact hk

end Sys2Proof.Machine
end

