-- ==== Sys2Proof/Laws/KeepBoot.lean ====
section
/-! SUPPORT. Every operation of Boot keeps the invariant and the queue. -/

namespace Sys2Proof.Machine

variable {q : List Instr}

theorem State.cold_keep {s : State} (hk : Keep q s) : Keep q (State.cold s) :=
  ⟨hk.1, ⟨allLost_wf s, reset_inv.regs, reset_inv.log, reset_inv.cache, reset_inv.inq⟩⟩

theorem State.warm_keep {s : State} (hk : Keep q s) : Keep q (State.warm s) := by
  unfold State.warm
  extract_lets src run base s1 s2 s3
  have h1 : Keep q s1 :=
    ⟨hk.1, ⟨allLost_wf s, filter_regsCanonical hk.2.regs _, hk.2.log, reset_inv.cache, reset_inv.inq⟩⟩
  clear_value s1
  have h2 : Keep q s2 := State.setFld_keep (State.setFld_keep h1)
  clear_value s2
  have h3 : Keep q s3 := by
    unfold s3
    split
    · exact State.setFld_keep h2
    · exact h2
  clear_value s3
  refine State.setReady_keep ?_
  split
  · exact State.applyFused_keep h3
  · exact h3

theorem State.quietLink_keep {s : State} {i : Nat} (hk : Keep q s) : Keep q (State.quietLink s i) := by
  unfold State.quietLink
  extract_lets +onlyGivenNames x1
  clear_value x1
  extract_lets +onlyGivenNames x2
  have h3 : Keep q x2 := State.clearLink_keep (State.discardLink_keep hk)
  clear_value x2
  exact State.setLink_keep h3

theorem State.stopAll_keep {s : State} {links : List Nat} (hk : Keep q s) : Keep q (State.stopAll s links) := by
  unfold State.stopAll
  extract_lets +onlyGivenNames x1
  have h2 : Keep q x1 := keep_foldl (fun s3 x4 h5 => State.quietLink_keep h5) hk
  clear_value x1
  exact keep_of h2 rfl rfl rfl rfl rfl rfl

theorem State.refStop_keep {s : State} (hk : Keep q s) : Keep q (State.refStop s) :=
  State.stopAll_keep (State.enterFaulted_keep (State.logEvent_keep hk))

theorem State.abortAll_keep {s : State} (hk : Keep q s) : Keep q (State.abortAll s) := by
  unfold State.abortAll
  refine keep_foldl ?_ hk
  intro s1 x2 h3
  split
  · extract_lets +onlyGivenNames x4
    have h5 : Keep q x4 := by
      unfold x4
      refine keep_foldl ?_ h3
      intro s6 x7 h8
      extract_lets +onlyGivenNames x9
      clear_value x9
      extract_lets +onlyGivenNames x10
      have h11 : Keep q x10 := State.setCore_keep h8
      clear_value x10
      exact State.setFld_keep (State.setFld_keep h11)
    clear_value x4
    exact State.abortKernel_keep h5
  · exact State.completeKernel_keep h3

theorem State.haltAll_keep {s : State} (hk : Keep q s) : Keep q (State.haltAll s) := by
  unfold State.haltAll
  refine keep_foldl ?_ hk
  intro s1 x2 h3
  refine keep_foldl ?_ h3
  intro s4 x5 h6
  extract_lets +onlyGivenNames x7
  clear_value x7
  split
  · exact State.dmaKill_keep h6
  · split
    · exact h6
    · exact State.haltChan_keep h6

theorem State.hedgerStop_keep {s : State} {cause pc : Nat} (hk : Keep q s) : Keep q (State.hedgerStop s cause pc) := by
  unfold State.hedgerStop
  extract_lets +onlyGivenNames x1
  clear_value x1
  extract_lets +onlyGivenNames x2
  have h3 : Keep q x2 := State.enterFaulted_keep (State.logEvent_keep hk)
  clear_value x2
  split
  · exact h3
  · exact State.unitWork_keep (State.stopAll_keep (State.haltAll_keep (State.abortAll_keep h3)))

theorem State.beginS0_keep {s : State} (hk : Keep q s) : Keep q (State.beginS0 s) := by
  unfold State.beginS0
  extract_lets +onlyGivenNames x1
  have h2 : Keep q x1 := keep_of hk rfl rfl rfl rfl rfl rfl
  clear_value x1
  split
  · exact h2
  · exact State.refStop_keep h2

theorem State.tryS1_keep {s : State} (hk : Keep q s) : Keep q (State.tryS1 s) := by
  unfold State.tryS1
  split
  · split
    · exact State.beginS1_keep (State.setFld_keep hk)
    · split
      · exact hk
      · exact State.startStage_keep hk
  · exact hk

theorem execPwrgdEvgRise_keep {testMode : Bool} {s : State} (hk : Keep q s) :
    KeepOut q (execPwrgdEvgRise testMode s) := by
  unfold execPwrgdEvgRise
  refine keepOut_next ?_
  split
  · exact hk
  · extract_lets +onlyGivenNames x1
    have h2 : Keep q x1 := State.setFld_keep (keep_of hk rfl rfl rfl rfl rfl rfl)
    clear_value x1
    split
    · exact State.beginS0_keep h2
    · exact h2

theorem execColdReset_keep {lowNs : Nat} {s : State} (hk : Keep q s) : KeepOut q (execColdReset lowNs s) := by
  unfold execColdReset
  refine keepOut_next ?_
  split
  · exact hk
  · exact State.cold_keep hk

theorem execWarmReset_keep {lowNs : Nat} {s : State} (hk : Keep q s) : KeepOut q (execWarmReset lowNs s) := by
  unfold execWarmReset
  refine keepOut_next ?_
  split
  · exact hk
  · split
    · exact keep_of hk rfl rfl rfl rfl rfl rfl
    · split
      · exact State.warm_keep hk
      · exact State.refStop_keep (State.warm_keep hk)

theorem execResetHoldEnd_keep {s : State} (hk : Keep q s) : KeepOut q (execResetHoldEnd s) := by
  unfold execResetHoldEnd
  refine keepOut_next ?_
  split
  · exact hk
  · extract_lets +onlyGivenNames x1
    have h2 : Keep q x1 := keep_of hk rfl rfl rfl rfl rfl rfl
    clear_value x1
    split
    · exact State.beginS0_keep h2
    · exact h2
  · exact State.tryS1_keep (keep_of hk rfl rfl rfl rfl rfl rfl)

theorem execPerstNRise_keep {s : State} (hk : Keep q s) : KeepOut q (execPerstNRise s) := by
  unfold execPerstNRise
  refine keepOut_next ?_
  split
  · exact hk
  · exact State.tryS1_keep (keep_of hk rfl rfl rfl rfl rfl rfl)

theorem execS0End_keep {fuseError selfCheckOk : Bool} {s : State} (hk : Keep q s) :
    KeepOut q (execS0End fuseError selfCheckOk s) := by
  unfold execS0End
  refine keepOut_next ?_
  split
  · exact hk
  · extract_lets +onlyGivenNames x1
    have h2 : Keep q x1 := keep_of hk rfl rfl rfl rfl rfl rfl
    clear_value x1
    extract_lets +onlyGivenNames x3
    have h4 : Keep q x3 := State.applyFused_keep h2
    clear_value x3
    extract_lets +onlyGivenNames x5
    have h6 : Keep q x5 := by
      unfold x5
      split
      · exact State.enterFaulted_keep (State.failStage_keep h4)
      · refine State.reportPass_keep ?_
        split
        · exact h4
        · exact State.lose_keep h4
    clear_value x5
    exact State.tryS1_keep h6

theorem execThermalTrip_keep {sensor : Fin 64} {reading : BitVec 16} {s : State} (hk : Keep q s) :
    KeepOut q (execThermalTrip sensor reading s) := by
  unfold execThermalTrip
  refine keepOut_next ?_
  split
  · exact hk
  · extract_lets +onlyGivenNames x1
    have h2 : Keep q x1 := State.logEvent_keep (keep_of hk rfl rfl rfl rfl rfl rfl)
    clear_value x1
    exact State.stopAll_keep (State.enterFaulted_keep h2)

theorem execRefclkLost_keep {s : State} (hk : Keep q s) : KeepOut q (execRefclkLost s) := by
  unfold execRefclkLost
  refine keepOut_next ?_
  split
  · exact hk
  · extract_lets +onlyGivenNames x1
    have h2 : Keep q x1 := keep_of hk rfl rfl rfl rfl rfl rfl
    split
    · exact h2
    · exact State.refStop_keep h2

theorem execRefclkRestored_keep {s : State} (hk : Keep q s) : KeepOut q (execRefclkRestored s) :=
  keepOut_next (keep_of hk rfl rfl rfl rfl rfl rfl)

theorem execHedgerWatchdog_keep {hedgerPc : Word} {s : State} (hk : Keep q s) :
    KeepOut q (execHedgerWatchdog hedgerPc s) := by
  unfold execHedgerWatchdog
  refine keepOut_next ?_
  split
  · exact hk
  · exact State.hedgerStop_keep (keep_of hk rfl rfl rfl rfl rfl rfl)

theorem execHedgerFault_keep {cause : Fin 9} {hedgerPc : Word} {s : State} (hk : Keep q s) :
    KeepOut q (execHedgerFault cause hedgerPc s) := by
  unfold execHedgerFault
  refine keepOut_next ?_
  split
  · exact hk
  · split
    · exact State.hedgerStop_keep hk
    · exact hk

theorem execWdogKick_keep {s : State} (hk : Keep q s) : KeepOut q (execWdogKick s) :=
  keepOut_next (keep_of hk rfl rfl rfl rfl rfl rfl)

theorem State.s1Limit_keep {s : State} (hk : Keep q s) : Keep q (State.s1Limit s) := by
  unfold State.s1Limit
  split
  · exact State.passStage_keep hk
  · exact State.failStage_keep hk

theorem State.runTo_keep {s : State} {us : Nat} (hk : Keep q s) : Keep q (State.runTo s us) :=
  keep_of hk rfl rfl rfl rfl rfl rfl

theorem execS1PlacementTimeout_keep {s : State} (hk : Keep q s) : KeepOut q (execS1PlacementTimeout s) := by
  unfold execS1PlacementTimeout
  refine keepOut_next ?_
  split
  · exact State.s1Limit_keep (State.runTo_keep hk)
  · exact hk

theorem State.s4Done_keep {s : State} (hk : Keep q s) : Keep q (State.s4Done s) := by
  unfold State.s4Done
  split
  · exact State.failStage_keep hk
  · exact State.passStage_keep hk

theorem execStageTimeLimit_keep {s : State} (hk : Keep q s) : KeepOut q (execStageTimeLimit s) := by
  unfold execStageTimeLimit
  refine keepOut_next ?_
  split
  · exact State.s1Limit_keep (State.runTo_keep hk)
  · split
    · exact State.failStage_keep (State.runTo_keep hk)
    · split
      · exact State.s4Done_keep (State.runTo_keep hk)
      · split
        · exact State.failStage_keep (State.runTo_keep hk)
        · split
          · exact State.memEnd_keep (State.runTo_keep hk)
          · split
            · exact State.failStage_keep (State.runTo_keep hk)
            · exact hk

theorem State.markFused_keep {s : State} (hk : Keep q s) : Keep q (State.markFused s) :=
  keep_of hk rfl rfl rfl rfl rfl rfl

theorem State.mergeDieback_keep {s : State} (hk : Keep q s) : Keep q (State.mergeDieback s) := by
  unfold State.mergeDieback
  extract_lets +onlyGivenNames x1
  have h2 : Keep q x1 := keep_foldl (fun s3 x4 h5 => State.addDieback_keep h5) hk
  clear_value x1
  extract_lets +onlyGivenNames x6
  have h7 : Keep q x6 := keep_foldl (fun s8 x9 h10 => State.addDieback_keep h10) h2
  clear_value x6
  extract_lets +onlyGivenNames x11
  have h12 : Keep q x11 := by
    unfold x11
    split
    · exact keep_foldl (fun s13 x14 h15 => State.addEntry_keep h15) h7
    · exact h7
  clear_value x11
  exact State.markFused_keep h12

theorem State.queueCommits_keep {s : State} {l : List (Nat × Nat × Nat)} (hk : Keep q s) :
    Keep q (State.queueCommits s l) := by
  unfold State.queueCommits
  extract_lets +onlyGivenNames x1
  clear_value x1
  split
  · exact hk
  · exact State.setFld_keep (keep_of hk rfl rfl rfl rfl rfl rfl)

theorem State.zeroFill_keep {s : State} (hk : Keep q s) : Keep q (State.zeroFill s) := by
  refine setMem_keep ((Mem.wf_iff _).mpr ⟨rfl, filter_sorted ((Mem.wf_iff _).mp hk.2.mem).2.1 _, ?_⟩) hk
  intro c hc
  cases hc

theorem execS3SelfTestDone_keep {found : List Defect} {s : State} (hk : Keep q s) :
    KeepOut q (execS3SelfTestDone found s) := by
  unfold execS3SelfTestDone
  refine keepOut_next ?_
  split
  · exact hk
  · extract_lets +onlyGivenNames x1
    have h2 : Keep q x1 := State.mergeDieback_keep hk
    clear_value x1
    extract_lets +onlyGivenNames x3
    clear_value x3
    extract_lets +onlyGivenNames x4
    have h5 : Keep q x4 := keep_foldl (fun s6 x7 h8 => State.addDieback_keep h8) h2
    clear_value x4
    extract_lets +onlyGivenNames x9
    have h10 : Keep q x9 := keep_foldl (fun s11 x12 h13 => State.addDieback_keep h13) h5
    clear_value x9
    extract_lets +onlyGivenNames x14
    have h15 : Keep q x14 := by
      unfold x14
      split
      · exact h10
      · exact State.lose_keep h10
    clear_value x14
    extract_lets +onlyGivenNames x16
    have h17 : Keep q x16 := State.queueCommits_keep h15
    clear_value x16
    split
    · exact State.failStage_keep h17
    · extract_lets +onlyGivenNames x18
      have h19 : Keep q x18 := State.zeroFill_keep (State.failRouters_keep (State.number_keep h17))
      clear_value x18
      extract_lets +onlyGivenNames x20
      have h21 : Keep q x20 := keep_of h19 rfl rfl rfl rfl rfl rfl
      clear_value x20
      split
      · exact State.passStage_keep h21
      · exact h21

theorem State.refuseCommit_keep {s : State} {kind unit detail : Nat} (hk : Keep q s) :
    Keep q (State.refuseCommit s kind unit detail) :=
  keep_of hk rfl rfl rfl rfl rfl rfl

theorem execFuseCommit_keep {vppMv : Nat} {s : State} (hk : Keep q s) : KeepOut q (execFuseCommit vppMv s) := by
  unfold execFuseCommit
  refine keepOut_next ?_
  split
  · exact hk
  · extract_lets +onlyGivenNames x1 x2 x3
    clear_value x1 x2 x3
    extract_lets +onlyGivenNames x4
    have h5 : Keep q x4 := State.setFld_keep (keep_of hk rfl rfl rfl rfl rfl rfl)
    clear_value x4
    extract_lets +onlyGivenNames x6 x7
    clear_value x6 x7
    extract_lets +onlyGivenNames x8
    have h9 : Keep q x8 := by
      unfold x8
      split
      · exact State.lose_keep (State.logEvent_keep (State.refuseCommit_keep h5))
      · exact State.logEvent_keep (State.markFused_keep (keep_of h5 rfl rfl rfl rfl rfl rfl))
    clear_value x8
    split
    · extract_lets +onlyGivenNames x10
      have h11 : Keep q x10 := State.setFld_keep h9
      clear_value x10
      split
      · exact State.passStage_keep h11
      · exact h11
    · exact h9

theorem execFenceRetest_keep {p : CoreNo} {passed : Bool} {s : State} (hk : Keep q s) :
    KeepOut q (execFenceRetest p passed s) := by
  unfold execFenceRetest
  refine keepOut_next ?_
  split
  · exact hk
  · split
    · exact State.queueCommits_keep hk
    · exact hk

theorem execS4End_keep {timeUp : Bool} {s : State} (hk : Keep q s) : KeepOut q (execS4End timeUp s) := by
  unfold execS4End
  refine keepOut_next ?_
  extract_lets +onlyGivenNames x1
  clear_value x1
  split
  · exact hk
  · refine State.s4Done_keep ?_
    split
    · exact State.runTo_keep hk
    · exact hk

theorem execS5End_keep {s : State} (hk : Keep q s) : KeepOut q (execS5End s) := by
  unfold execS5End
  refine keepOut_next ?_
  split
  · exact State.passStage_keep hk
  · exact hk

theorem execS7Init_keep {s : State} (hk : Keep q s) : KeepOut q (execS7Init s) := by
  unfold execS7Init
  refine keepOut_next ?_
  split
  · exact hk
  · extract_lets +onlyGivenNames x1
    clear_value x1
    extract_lets +onlyGivenNames x2
    have h3 : Keep q x2 := State.resetFlds_keep (keep_of hk rfl rfl rfl rfl rfl rfl)
    clear_value x2
    extract_lets +onlyGivenNames x4
    clear_value x4
    extract_lets +onlyGivenNames x5
    have h6 : Keep q x5 := State.setFld_keep (State.setFld_keep h3)
    clear_value x5
    exact State.passStage_keep (State.applyCal_keep (State.setFld_keep h6))

theorem execS8Finalise_keep {s : State} (hk : Keep q s) : KeepOut q (execS8Finalise s) := by
  unfold execS8Finalise
  refine keepOut_next ?_
  split
  · exact State.passStage_keep (State.setFld_keep hk)
  · exact hk

theorem execSecurityAdvance_keep {vppMv fuses : Nat} {s : State} (hk : Keep q s) :
    KeepOut q (execSecurityAdvance vppMv fuses s) := by
  unfold execSecurityAdvance
  refine keepOut_next ?_
  split
  · exact hk
  · split
    · exact hk
    · split
      · extract_lets +onlyGivenNames x1
        have h2 : Keep q x1 := State.setFld_keep (keep_of hk rfl rfl rfl rfl rfl rfl)
        clear_value x1
        exact State.logEvent_keep h2
      · extract_lets +onlyGivenNames x3 x4 x5 x6 x7 x8 x9
        clear_value x3 x4 x5 x6 x7 x8 x9
        extract_lets +onlyGivenNames x10
        have h11 : Keep q x10 := State.senseSec_keep (State.setFld_keep (keep_of hk rfl rfl rfl rfl rfl rfl))
        clear_value x10
        split
        · exact State.setFld_keep h11
        · exact h11

theorem State.ijtag_keep {s : State} {fuse : Option FuseAccess} (hk : Keep q s) : Keep q (State.ijtag s fuse) := by
  unfold State.ijtag
  split
  · extract_lets +onlyGivenNames x1
    have h2 : Keep q x1 := State.drew_keep hk
    clear_value x1
    exact keep_of h2 rfl rfl rfl rfl rfl rfl
  · split
    · exact keep_of hk rfl rfl rfl rfl rfl rfl
    · split
      · exact hk
      · exact keep_of hk rfl rfl rfl rfl rfl rfl

theorem execTestAccessPortInstruction_keep {ir : Byte} {shift : DWord} {fuse : Option FuseAccess} {s : State} (hk : Keep q s) :
    KeepOut q (execTestAccessPortInstruction ir shift fuse s) := by
  unfold execTestAccessPortInstruction
  extract_lets +onlyGivenNames x1
  clear_value x1
  refine keepOut_next ?_
  split
  · exact hk
  · split
    · exact keep_of hk rfl rfl rfl rfl rfl rfl
    · split
      · exact keep_of hk rfl rfl rfl rfl rfl rfl
      · split
        · exact keep_of hk rfl rfl rfl rfl rfl rfl
        · split
          · exact keep_of hk rfl rfl rfl rfl rfl rfl
          · split
            · exact keep_of hk rfl rfl rfl rfl rfl rfl
            · split
              · exact keep_of hk rfl rfl rfl rfl rfl rfl
              · split
                · exact State.ijtag_keep (keep_of hk rfl rfl rfl rfl rfl rfl)
                · exact keep_of hk rfl rfl rfl rfl rfl rfl

end Sys2Proof.Machine
end

