-- ==== Sys2Proof/Laws/KeepDispatcher.lean ====
section
/-! SUPPORT. Every operation of Dispatcher keeps the invariant and the queue. -/

namespace Sys2Proof.Machine

variable {q : List Instr}

theorem State.wakeRing_keep {s : State} {q0 : Nat} (hk : Keep q s) : Keep q (State.wakeRing s q0) := by
  unfold State.wakeRing
  split
  · split
    · split
      · exact hk
      · split
        · have h1 := State.meetCore_keepO hk (by assumption)
          exact h1
        · exact hk
    · exact hk
  · exact hk

theorem State.meetRead_keep {s : State} {a n : Nat} (hk : Keep q s) : Keep q (State.meetRead s a n) := by
  unfold State.meetRead
  split
  · extract_lets +onlyGivenNames x1
    clear_value x1
    refine keep_foldl ?_ hk
    intro s2 x3 h4
    split
    · split
      · have h5 := State.meetCore_keepO h4 (by assumption)
        exact h5
      · exact State.notePd_keep h4
    · exact h4
  · exact hk

theorem State.takeEntry_keep {s : State} {q0 op tag address value : Nat} (hk : Keep q s) :
    Keep q (State.takeEntry s q0 op tag address value).1 := by
  unfold State.takeEntry
  extract_lets +onlyGivenNames x1 x2 x3
  clear_value x1 x2 x3
  extract_lets +onlyGivenNames x4
  have h5 : Keep q x4 := State.addFld_keep (State.setFld_keep hk)
  clear_value x4
  extract_lets +onlyGivenNames x6 x7
  clear_value x6 x7
  exact State.setQueue_keep h5

theorem execFailedWorkEntry_keep {q0 : CtxNo} {entry : Fetched} {port : PortEvent} {s : State} (hk : Keep q s) :
    KeepOut q (execFailedWorkEntry q0 entry port s) := by
  unfold execFailedWorkEntry
  refine keepOut_next ?_
  split
  · split
    · exact State.setQueue_keep hk
    · extract_lets +onlyGivenNames x1
      have h2 : Keep q x1.1 := by
        unfold x1
        split
        · exact State.port_keep hk
        · exact hk
      clear_value x1
      extract_lets +onlyGivenNames x3
      have h4 : Keep q x3 := h2
      clear_value x3
      split
      · extract_lets +onlyGivenNames x5
        have h6 : Keep q x5.1 := by
          unfold x5
          refine State.takeEntry_keep ?_
          split
          · exact State.notePd_keep h4
          · exact h4
        clear_value x5
        exact State.unitWork_keep (State.completeWork_keep h6)
      · extract_lets +onlyGivenNames x7
        clear_value x7
        split
        · exact h4
        · extract_lets +onlyGivenNames x8
          have h9 : Keep q x8.1 := State.takeEntry_keep h4
          clear_value x8
          exact State.unitWork_keep (State.completeWork_keep h9)
  · exact State.wakeRing_keep hk

theorem State.binderEntry_keep {s : State} {q0 : Nat} {b : List Byte} {op : Nat} (hk : Keep q s) :
    Keep q (State.binderEntry s q0 b op) := by
  unfold State.binderEntry
  extract_lets +onlyGivenNames x1
  clear_value x1
  extract_lets +onlyGivenNames x2
  have h3 : Keep q x2.1 := State.takeEntry_keep hk
  clear_value x2
  split
  · exact State.unitWork_keep (State.completeWork_keep h3)
  · exact State.unitWork_keep (State.issueBinder_keep h3)

theorem execBinderOpArrive_keep {q0 : CtxNo} {entry : Fetched} {s : State} (hk : Keep q s) :
    KeepOut q (execBinderOpArrive q0 entry s) := by
  unfold execBinderOpArrive
  refine keepOut_next ?_
  split
  · exact State.binderEntry_keep hk
  · exact State.wakeRing_keep hk

theorem execBinderOpAdd_keep {q0 : CtxNo} {entry : Fetched} {s : State} (hk : Keep q s) :
    KeepOut q (execBinderOpAdd q0 entry s) := by
  unfold execBinderOpAdd
  refine keepOut_next ?_
  split
  · exact State.binderEntry_keep hk
  · exact State.wakeRing_keep hk

theorem execBinderOpReset_keep {q0 : CtxNo} {entry : Fetched} {s : State} (hk : Keep q s) :
    KeepOut q (execBinderOpReset q0 entry s) := by
  unfold execBinderOpReset
  refine keepOut_next ?_
  split
  · exact State.binderEntry_keep hk
  · exact State.wakeRing_keep hk

theorem execBinderOpAwait_keep {q0 : CtxNo} {entry : Fetched} {s : State} (hk : Keep q s) :
    KeepOut q (execBinderOpAwait q0 entry s) := by
  unfold execBinderOpAwait
  refine keepOut_next ?_
  split
  · extract_lets +onlyGivenNames x1 x2
    clear_value x1 x2
    extract_lets +onlyGivenNames x3
    have h4 : Keep q x3.1 := State.takeEntry_keep hk
    clear_value x3
    extract_lets +onlyGivenNames x5
    have h6 : ∀ y0, Keep q (x5 y0) := fun y7 => State.unitWork_keep (State.completeWork_keep h4)
    clear_value x5
    split
    · exact h6 _
    · split
      · exact h6 _
      · exact h4
  · exact State.wakeRing_keep hk

theorem execFenceEntry_keep {q0 : CtxNo} {entry : Fetched} {s : State} (hk : Keep q s) :
    KeepOut q (execFenceEntry q0 entry s) := by
  unfold execFenceEntry
  refine keepOut_next ?_
  split
  · exact State.unitWork_keep (State.settleFence_keep (State.takeEntry_keep hk))
  · exact State.wakeRing_keep hk

theorem State.acceptLaunch_keep {s : State} {k : Kernel} (hk : Keep q s) : Keep q (State.acceptLaunch s k) := by
  unfold State.acceptLaunch
  split
  · exact keep_of hk rfl rfl rfl rfl rfl rfl
  · extract_lets +onlyGivenNames x1
    clear_value x1
    split
    · exact State.unitWork_keep (State.completeWork_keep (State.setFld_keep (State.setFld_keep hk)))
    · split
      · exact State.unitWork_keep (State.completeWork_keep hk)
      · exact keep_of hk rfl rfl rfl rfl rfl rfl

theorem execLaunchKernel_keep {q0 : CtxNo} {entry image param : Fetched} {s : State} (hk : Keep q s) :
    KeepOut q (execLaunchKernel q0 entry image param s) := by
  unfold execLaunchKernel
  refine keepOut_next ?_
  split
  · exact State.wakeRing_keep hk
  · extract_lets +onlyGivenNames x1 x2 x3
    clear_value x1 x2 x3
    extract_lets +onlyGivenNames x4
    have h5 : ∀ y0, Keep q y0 → Keep q (x4 y0).1 := fun y6 h7 => State.takeEntry_keep h7
    clear_value x4
    extract_lets +onlyGivenNames x8
    have h9 : ∀ y0 y1, Keep q y0 → Keep q (x8 y0 y1) := by
      intro y10 y11 h12
      unfold x8
      extract_lets +onlyGivenNames x13
      have h14 : Keep q x13.1 := h5 _ h12
      clear_value x13
      exact State.unitWork_keep (State.completeWork_keep h14)
    clear_value x8
    extract_lets +onlyGivenNames x15
    have h16 : ∀ y0 y1, Keep q y0 → Keep q (x15 y0 y1) := by
      intro y17 y18 h19
      unfold x15
      split
      · exact State.addFld_keep h19
      · exact h19
    clear_value x15
    split
    · exact h9 _ _ hk
    · extract_lets +onlyGivenNames x20
      clear_value x20
      extract_lets +onlyGivenNames x21
      have h22 : Keep q x21 := State.meetRead_keep hk
      clear_value x21
      split
      · exact h22
      · split
        · exact State.setQueue_keep h22
        · split
          · exact h9 _ _ (h16 _ _ h22)
          · extract_lets +onlyGivenNames x23
            clear_value x23
            split
            · exact h9 _ _ h22
            · extract_lets +onlyGivenNames x24
              clear_value x24
              extract_lets +onlyGivenNames x25
              have h26 : Keep q x25 := by
                unfold x25
                split
                · exact h22
                · exact State.meetRead_keep h22
              clear_value x25
              split
              · exact h26
              · split
                · exact State.setQueue_keep h26
                · split
                  · exact h9 _ _ (h16 _ _ h26)
                  · extract_lets +onlyGivenNames x27
                    have h28 : Keep q x27.1 := h5 _ h26
                    clear_value x27
                    exact State.acceptLaunch_keep h28

theorem State.prepare_keep {s : State} {k : Kernel} {rank p l : Nat} (hk : Keep q s) :
    Keep q (State.prepare s k rank p l) := by
  unfold State.prepare
  extract_lets +onlyGivenNames x1 x2 x3 x4 x5 x6 x7 x8 x9 x10
  clear_value x1 x2 x3 x4 x5 x6 x7 x8 x9 x10
  extract_lets +onlyGivenNames x11
  have h12 : Keep q x11 := State.writeCore_keep (State.setCore_keep hk)
  clear_value x11
  extract_lets +onlyGivenNames x13
  have h14 : Keep q x13 := State.sbClear_keep (State.clearEvents_keep h12)
  clear_value x13
  extract_lets +onlyGivenNames x15
  have h16 : Keep q x15 := State.setFld_keep (State.setFld_keep (State.setFld_keep h14))
  clear_value x15
  extract_lets +onlyGivenNames x17
  have h18 : Keep q x17 := State.setFld_keep (State.setFld_keep h16)
  clear_value x17
  extract_lets +onlyGivenNames x19
  have h20 : Keep q x19 := State.setFld_keep (State.setFld_keep h18)
  clear_value x19
  exact State.setFld_keep (State.setFld_keep h20)

theorem State.sbStart_keep {s : State} {p : Nat} (hk : Keep q s) : Keep q (State.sbStart s p) := by
  unfold State.sbStart
  extract_lets +onlyGivenNames x1
  clear_value x1
  extract_lets +onlyGivenNames x2
  have h3 : Keep q x2 := by
    unfold x2
    refine keep_foldl ?_ hk
    intro s4 x5 h6
    split
    · exact State.setChan_keep h6
    · exact h6
  clear_value x2
  exact State.dmaEnterAll_keep h3

theorem State.prepareAll_keep {s : State} {k : Kernel} {who : Nat → Bool} (hk : Keep q s) :
    Keep q (State.prepareAll s k who) :=
  keep_foldl (fun _ _ h3 => State.prepare_keep h3) hk

theorem State.beginAwake_keep {s : State} {k : Kernel} {waiting : List Nat} (hk : Keep q s) :
    Keep q (State.beginAwake s k waiting) := by
  unfold State.beginAwake
  extract_lets +onlyGivenNames x1
  clear_value x1
  extract_lets +onlyGivenNames x2
  have h3 : Keep q x2 := State.drew_keep (State.prepareAll_keep hk)
  clear_value x2
  extract_lets +onlyGivenNames x4
  have h5 : Keep q x4 := keep_foldl (fun s6 x7 h8 => State.sbStart_keep (State.setCoreState_keep h8)) h3
  clear_value x4
  extract_lets +onlyGivenNames x9
  clear_value x9
  exact keep_of h5 rfl rfl rfl rfl rfl rfl

theorem State.startKernel_keep {s : State} {k : Kernel} (hk : Keep q s) : Keep q (State.startKernel s k) := by
  unfold State.startKernel
  extract_lets +onlyGivenNames x1
  have h2 : Keep q x1 := by
    unfold x1
    split
    · exact State.loadBlock_keep hk
    · exact hk
  clear_value x1
  extract_lets +onlyGivenNames x3 x4 x5 x6 x7
  clear_value x3 x4 x5 x6 x7
  extract_lets +onlyGivenNames x8
  have h9 : Keep q x8 := keep_of h2 rfl rfl rfl rfl rfl rfl
  clear_value x8
  extract_lets +onlyGivenNames x10
  have h11 : Keep q x10 := by
    unfold x10
    split
    · exact State.beginAwake_keep h9
    · refine keep_foldl ?_ (State.drew_keep (State.prepareAll_keep h9))
      intro s12 x13 h14
      split
      · exact State.setCoreState_keep h14
      · exact State.setCoreState_keep (State.setCore_keep h14)
  clear_value x10
  exact State.retarget_keep (State.retarget_keep h11)

theorem execKernelStart_keep {q0 : CtxNo} {s : State} (hk : Keep q s) : KeepOut q (execKernelStart q0 s) := by
  unfold execKernelStart
  refine keepOut_next ?_
  split
  · exact hk
  · split
    · exact hk
    · split
      · exact State.beginAwake_keep hk
      · split
        · exact hk
        · split
          · exact State.unitWork_keep (State.completeWork_keep (keep_of hk rfl rfl rfl rfl rfl rfl))
          · extract_lets +onlyGivenNames x1 x2
            clear_value x1 x2
            split
            · exact hk
            · extract_lets +onlyGivenNames x3
              have h4 : Keep q x3 := keep_foldl (fun s5 x6 h7 => State.dropRequest_keep h7) hk
              clear_value x3
              extract_lets +onlyGivenNames x8
              clear_value x8
              extract_lets +onlyGivenNames x9
              have h10 : Keep q x9 := keep_foldl (fun s11 x12 h13 => State.beginWake_keep h13) h4
              clear_value x9
              split
              · exact State.startKernel_keep h10
              · exact h10

end Sys2Proof.Machine
end

