-- ==== Sys2Proof/Laws/KeepRegAccess.lean ====
section
/-! SUPPORT. Every operation of RegAccess keeps the invariant and the queue. -/

namespace Sys2Proof.Machine

variable {q : List Instr}

theorem State.countOff_keep {s : State} {status : Nat} {f : Fld} (hk : Keep q s) :
    Keep q (State.countOff s status f) := by
  unfold State.countOff
  split
  · exact State.addFld_keep hk
  · exact hk

theorem State.readEffect_keep {s : State} {who a : Nat} (hk : Keep q s) : Keep q (State.readEffect s who a).1 := by
  unfold State.readEffect
  extract_lets +onlyGivenNames x1
  clear_value x1
  split
  · exact hk
  · split
    · split
      · split
        · exact keep_of hk rfl rfl rfl rfl rfl rfl
        · exact hk
      · exact hk
    · extract_lets +onlyGivenNames x2
      have h3 : Keep q x2 := by
        unfold x2
        split
        · exact keep_of hk rfl rfl rfl rfl rfl rfl
        · exact hk
      clear_value x2
      exact keep_foldl (fun s4 x5 h6 => State.setFld_keep h6) h3

theorem State.returned_keep {x : State × Nat} {who : Nat} (hkx : Keep q x.1) : Keep q (State.returned x who) := by
  unfold State.returned
  extract_lets +onlyGivenNames x1
  have h2 : Keep q x1 := hkx
  clear_value x1
  exact keep_of h2 rfl rfl rfl rfl rfl rfl

theorem State.regRead_keep {s : State} {src : Agent} {a : Nat} (hk : Keep q s) : Keep q (State.regRead s src a).1 := by
  unfold State.regRead
  split
  · exact State.addFld_keep hk
  · split
    · exact State.countOff_keep hk
    · split
      · exact State.drew_keep hk
      · extract_lets +onlyGivenNames x1
        clear_value x1
        split
        · exact hk
        · exact State.readEffect_keep hk

theorem State.writeField_keep {s : State} {b v : Nat} {pair hi : Bool} {f : FDesc} (hk : Keep q s) :
    Keep q (State.writeField s b v pair hi f) := by
  unfold State.writeField
  extract_lets +onlyGivenNames x1 x2 x3
  clear_value x1 x2 x3
  split
  · split
    · exact State.setFld_keep hk
    · split
      · exact hk
      · exact State.setFld_keep hk
  · split
    · exact hk
    · exact State.setFld_keep hk
  · exact hk

theorem State.reseedMx_keep {s : State} {p noise : Nat} (hk : Keep q s) : Keep q (State.reseedMx s p noise) :=
  State.setCore_keep hk

theorem State.reseedVx_keep {s : State} {p noise : Nat} (hk : Keep q s) : Keep q (State.reseedVx s p noise) :=
  State.setCore_keep hk

theorem State.popGuard_keep {s : State} {p : Nat} (hk : Keep q s) : Keep q (State.popGuard s p) :=
  State.setCore_keep hk

theorem State.writeAction_keep {s : State} {b v noise : Nat} (hk : Keep q s) :
    Keep q (State.writeAction s b v noise) := by
  unfold State.writeAction
  extract_lets +onlyGivenNames x1 x2
  clear_value x1 x2
  split
  · split
    · exact State.signal_keep hk
    · split
      · exact State.reseedMx_keep hk
      · split
        · exact State.reseedVx_keep hk
        · split
          · exact State.popGuard_keep hk
          · exact hk
  · split
    · exact State.setFld_keep (State.setFld_keep hk)
    · split
      · split
        · exact keep_of hk rfl rfl rfl rfl rfl rfl
        · exact hk
      · split
        · exact State.unitWork_keep (State.retrain_keep hk)
        · exact hk

theorem State.writeReg_keep {s : State} {b v noise : Nat} (hk : Keep q s) : Keep q (State.writeReg s b v noise) := by
  unfold State.writeReg
  split
  · exact hk
  · extract_lets +onlyGivenNames x1
    clear_value x1
    extract_lets +onlyGivenNames x2
    have h3 : Keep q x2 := keep_foldl (fun s4 x5 h6 => State.writeField_keep h6) hk
    clear_value x2
    extract_lets +onlyGivenNames x7
    have h8 : Keep q x7 := by
      unfold x7
      split
      · exact keep_of h3 rfl rfl rfl rfl rfl rfl
      · exact h3
    clear_value x7
    split
    · exact h8
    · exact State.writeAction_keep h8

theorem State.regWrite_keep {s : State} {src : Agent} {a v noise : Nat} (hk : Keep q s) :
    Keep q (State.regWrite s src a v noise) := by
  unfold State.regWrite
  split
  · exact State.addFld_keep hk
  · split
    · exact State.recordError_keep hk
    · split
      · exact State.countOff_keep hk
      · exact State.writeReg_keep hk
    · exact hk
  · split
    · exact State.countOff_keep hk
    · exact State.writeReg_keep hk

theorem State.ctlFreeze_keep {s : State} {p : Nat} {c : CoreNo} {a : Nat} (hk : Keep q s) :
    Keep q (State.ctlFreeze s p c a) := by
  unfold State.ctlFreeze
  split
  · exact hk
  · exact State.drew_keep (State.freezeCycles_keep hk)

theorem execCtlRead_keep {c : CoreNo} {sd sa : SReg} {imm : BitVec 15} {s : State} (hk : Keep q s) :
    KeepOut q (execCtlRead c sd sa imm s) := by
  unfold execCtlRead
  refine keepOut_next ?_
  split
  · extract_lets +onlyGivenNames x1
    clear_value x1
    extract_lets +onlyGivenNames x2
    have h3 : Keep q x2.1 := State.regRead_keep hk
    clear_value x2
    exact State.nextPc_keep (State.ctlFreeze_keep (State.setSreg_keep h3))
  · exact hk

theorem execCtlWrite_keep {c : CoreNo} {sd sa : SReg} {imm : BitVec 15} {s : State} (hk : Keep q s) :
    KeepOut q (execCtlWrite c sd sa imm s) := by
  unfold execCtlWrite
  refine keepOut_next ?_
  split
  · extract_lets +onlyGivenNames x1
    clear_value x1
    exact State.nextPc_keep (State.ctlFreeze_keep (State.regWrite_keep (State.drew_keep hk)))
  · exact hk

theorem execCorEventSet_keep {src : Agent} {c : CoreNo} {value : Word} {s : State} (hk : Keep q s) :
    KeepOut q (execCorEventSet src c value s) :=
  keepOut_next (State.regWrite_keep hk)

theorem execMxeReseed_keep {src : Agent} {c : CoreNo} {noise : DWord} {s : State} (hk : Keep q s) :
    KeepOut q (execMxeReseed src c noise s) :=
  keepOut_next (State.regWrite_keep hk)

theorem execVxeReseed_keep {src : Agent} {c : CoreNo} {noise : DWord} {s : State} (hk : Keep q s) :
    KeepOut q (execVxeReseed src c noise s) :=
  keepOut_next (State.regWrite_keep hk)

theorem execMxeGuardPop_keep {src : Agent} {c : CoreNo} {value : Word} {s : State} (hk : Keep q s) :
    KeepOut q (execMxeGuardPop src c value s) :=
  keepOut_next (State.regWrite_keep hk)

theorem execRcCounterRead_keep {src : Agent} {offset : BitVec 24} {s : State} (hk : Keep q s) :
    KeepOut q (execRcCounterRead src offset s) :=
  keepOut_next (State.returned_keep (State.regRead_keep hk))

theorem execCounterLoRead_keep {src : Agent} {offset : BitVec 24} {s : State} (hk : Keep q s) :
    KeepOut q (execCounterLoRead src offset s) :=
  keepOut_next (State.returned_keep (State.regRead_keep hk))

theorem execRegisterWrite_keep {src : Agent} {offset : BitVec 24} {bytes : Nat} {value : Word} {s : State} (hk : Keep q s) :
    KeepOut q (execRegisterWrite src offset bytes value s) := by
  unfold execRegisterWrite
  refine keepOut_next ?_
  split
  · exact State.addFld_keep hk
  · split
    · exact hk
    · exact State.regWrite_keep (State.drew_keep hk)

end Sys2Proof.Machine
end

