-- ==== Sys2Proof/Laws/KeepScalar.lean ====
section
/-! SUPPORT. Every operation of Scalar keeps the invariant and the queue. -/

namespace Sys2Proof.Machine

variable {q : List Instr}

theorem State.sqWrite_keep {s : State} {l : CoreNo} {w : Word} {sd : SReg} {f : Nat → Word} (hk : Keep q s) :
    Keep q (State.sqWrite s l w sd f) := by
  unfold State.sqWrite
  split
  · exact State.nextPc_keep (State.setSreg_keep hk)
  · exact hk

theorem State.sqAlu_keep {s : State} {l : CoreNo} {opc : Nat} {sd sa sb : SReg} {f : Word → Word → Word} (hk : Keep q s) :
    Keep q (State.sqAlu s l opc sd sa sb f) :=
  State.sqWrite_keep hk

theorem State.sqBranch_keep {s : State} {l : CoreNo} {opc : Nat} {sa sb : SReg} {off : BitVec 16} {f : Word → Word → Bool} (hk : Keep q s) :
    Keep q (State.sqBranch s l opc sa sb off f) := by
  unfold State.sqBranch
  split
  · split
    · exact State.jumpTo_keep hk
    · exact State.nextPc_keep hk
  · exact hk

theorem execAdd_keep {c : CoreNo} {sd sa sb : SReg} {s : State} (hk : Keep q s) : KeepOut q (execAdd c sd sa sb s) :=
  keepOut_next (State.sqAlu_keep hk)

theorem execSub_keep {c : CoreNo} {sd sa sb : SReg} {s : State} (hk : Keep q s) : KeepOut q (execSub c sd sa sb s) :=
  keepOut_next (State.sqAlu_keep hk)

theorem execAnd_keep {c : CoreNo} {sd sa sb : SReg} {s : State} (hk : Keep q s) : KeepOut q (execAnd c sd sa sb s) :=
  keepOut_next (State.sqAlu_keep hk)

theorem execOr_keep {c : CoreNo} {sd sa sb : SReg} {s : State} (hk : Keep q s) : KeepOut q (execOr c sd sa sb s) :=
  keepOut_next (State.sqAlu_keep hk)

theorem execXor_keep {c : CoreNo} {sd sa sb : SReg} {s : State} (hk : Keep q s) : KeepOut q (execXor c sd sa sb s) :=
  keepOut_next (State.sqAlu_keep hk)

theorem execShl_keep {c : CoreNo} {sd sa sb : SReg} {s : State} (hk : Keep q s) : KeepOut q (execShl c sd sa sb s) :=
  keepOut_next (State.sqAlu_keep hk)

theorem execShr_keep {c : CoreNo} {sd sa sb : SReg} {s : State} (hk : Keep q s) : KeepOut q (execShr c sd sa sb s) :=
  keepOut_next (State.sqAlu_keep hk)

theorem execSra_keep {c : CoreNo} {sd sa sb : SReg} {s : State} (hk : Keep q s) : KeepOut q (execSra c sd sa sb s) :=
  keepOut_next (State.sqAlu_keep hk)

theorem execSlt_keep {c : CoreNo} {sd sa sb : SReg} {s : State} (hk : Keep q s) : KeepOut q (execSlt c sd sa sb s) :=
  keepOut_next (State.sqAlu_keep hk)

theorem execSltu_keep {c : CoreNo} {sd sa sb : SReg} {s : State} (hk : Keep q s) : KeepOut q (execSltu c sd sa sb s) :=
  keepOut_next (State.sqAlu_keep hk)

theorem execMul_keep {c : CoreNo} {sd sa sb : SReg} {s : State} (hk : Keep q s) : KeepOut q (execMul c sd sa sb s) :=
  keepOut_next (State.sqAlu_keep hk)

theorem execMulhu_keep {c : CoreNo} {sd sa sb : SReg} {s : State} (hk : Keep q s) :
    KeepOut q (execMulhu c sd sa sb s) :=
  keepOut_next (State.sqAlu_keep hk)

theorem execAddi_keep {c : CoreNo} {sd sa : SReg} {imm : BitVec 16} {s : State} (hk : Keep q s) :
    KeepOut q (execAddi c sd sa imm s) :=
  keepOut_next (State.sqWrite_keep hk)

theorem execAndi_keep {c : CoreNo} {sd sa : SReg} {imm : BitVec 16} {s : State} (hk : Keep q s) :
    KeepOut q (execAndi c sd sa imm s) :=
  keepOut_next (State.sqWrite_keep hk)

theorem execOri_keep {c : CoreNo} {sd sa : SReg} {imm : BitVec 16} {s : State} (hk : Keep q s) :
    KeepOut q (execOri c sd sa imm s) :=
  keepOut_next (State.sqWrite_keep hk)

theorem execLui_keep {c : CoreNo} {sd : SReg} {imm : BitVec 16} {s : State} (hk : Keep q s) :
    KeepOut q (execLui c sd imm s) :=
  keepOut_next (State.sqWrite_keep hk)

theorem execBeq_keep {c : CoreNo} {sa sb : SReg} {off : BitVec 16} {s : State} (hk : Keep q s) :
    KeepOut q (execBeq c sa sb off s) :=
  keepOut_next (State.sqBranch_keep hk)

theorem execBne_keep {c : CoreNo} {sa sb : SReg} {off : BitVec 16} {s : State} (hk : Keep q s) :
    KeepOut q (execBne c sa sb off s) :=
  keepOut_next (State.sqBranch_keep hk)

theorem execBlt_keep {c : CoreNo} {sa sb : SReg} {off : BitVec 16} {s : State} (hk : Keep q s) :
    KeepOut q (execBlt c sa sb off s) :=
  keepOut_next (State.sqBranch_keep hk)

theorem execBge_keep {c : CoreNo} {sa sb : SReg} {off : BitVec 16} {s : State} (hk : Keep q s) :
    KeepOut q (execBge c sa sb off s) :=
  keepOut_next (State.sqBranch_keep hk)

theorem execJal_keep {c : CoreNo} {sd sa : SReg} {imm : BitVec 16} {s : State} (hk : Keep q s) :
    KeepOut q (execJal c sd sa imm s) := by
  unfold execJal
  refine keepOut_next ?_
  split
  · extract_lets +onlyGivenNames x1
    clear_value x1
    split
    · exact State.setFld_keep (State.setSreg_keep hk)
    · exact State.fatal_keep hk
  · exact hk

theorem execIllegalInsn_keep {c : CoreNo} {s : State} (hk : Keep q s) : KeepOut q (execIllegalInsn c s) := by
  unfold execIllegalInsn
  refine keepOut_next ?_
  split
  · split
    · exact State.fatal_keep hk
    · exact hk
  · exact hk

end Sys2Proof.Machine
end

