-- ==== Sys2Proof/Laws/KeepTick.lean ====
section
/-! SUPPORT. Every operation of Tick keeps the invariant and the queue. -/

namespace Sys2Proof.Machine

variable {q : List Instr}

theorem State.tickTimer_keep {s : State} {p : Nat} (hk : Keep q s) : Keep q (State.tickTimer s p) := by
  unfold State.tickTimer
  split
  · extract_lets +onlyGivenNames x1
    have h2 : Keep q x1 := State.addFld_keep hk
    clear_value x1
    split
    · exact State.signal_keep h2
    · exact h2
  · exact hk

theorem State.tickCycles_keep {s : State} {p : Nat} (hk : Keep q s) : Keep q (State.tickCycles s p) := by
  unfold State.tickCycles
  extract_lets +onlyGivenNames x1
  have h2 : Keep q x1 := by
    unfold x1
    split
    · exact State.addFld_keep hk
    · exact hk
  clear_value x1
  extract_lets +onlyGivenNames x3
  have h4 : Keep q x3 := by
    unfold x3
    split
    · exact State.addFld_keep h2
    · exact h2
  clear_value x3
  split
  · exact State.addFld_keep h4
  · exact h4

theorem State.tickStream_keep {s : State} {p : Nat} (hk : Keep q s) : Keep q (State.tickStream s p) := by
  unfold State.tickStream
  split
  · exact hk
  · split
    · exact hk
    · extract_lets +onlyGivenNames x1 x2
      clear_value x1 x2
      extract_lets +onlyGivenNames x3
      have h4 : Keep q x3 := State.setCore_keep hk
      clear_value x3
      exact State.setFld_keep (State.setFld_keep h4)

theorem State.tickBusy_keep {s : State} {p : Nat} (hk : Keep q s) : Keep q (State.tickBusy s p) := by
  unfold State.tickBusy
  extract_lets +onlyGivenNames x1
  have h2 : Keep q x1 := by
    unfold x1
    split
    · exact State.addFld_keep hk
    · exact hk
  clear_value x1
  split
  · exact State.addFld_keep h2
  · exact h2

theorem State.tickFull_keep {s : State} (hk : Keep q s) : Keep q (State.tickFull s) := by
  unfold State.tickFull
  extract_lets +onlyGivenNames x1
  clear_value x1
  refine keep_foldl ?_ hk
  intro s2 x3 h4
  split
  · exact State.addFld_keep h4
  · exact h4

theorem State.tickBinder_keep {s : State} (hk : Keep q s) : Keep q (State.tickBinder s) := by
  unfold State.tickBinder
  extract_lets +onlyGivenNames x1
  have h2 : Keep q x1 := by
    unfold x1
    split
    · exact State.addFld_keep hk
    · exact hk
  clear_value x1
  split
  · exact State.addFld_keep h2
  · exact h2

theorem State.tick_keep {s : State} (hk : Keep q s) : Keep q (State.tick s) := by
  unfold State.tick
  split
  · exact hk
  · extract_lets +onlyGivenNames x1
    have h2 : Keep q x1 := keep_foldl (fun s3 x4 h5 => State.tickBusy_keep (State.tickStream_keep (State.tickCycles_keep (State.tickTimer_keep h5)))) hk
    clear_value x1
    exact State.tickBinder_keep (State.tickFull_keep h2)

end Sys2Proof.Machine
end

