-- ==== Sys2Proof/Laws/KeepSafety.lean ====
section
/-! SUPPORT. Every operation of Safety keeps the invariant and the queue. -/

namespace Sys2Proof.Machine

variable {q : List Instr}

theorem State.offered_keep {s : State} {p : Packet} (hk : Keep q s) : Keep q (State.offered s p) :=
  State.see_keep (keep_of hk rfl rfl rfl rfl rfl rfl)

end Sys2Proof.Machine
end

