-- ==== Sys2Proof/Laws/State.lean ====
section
/-! SUPPORT. What each update of the state leaves as it was, one law per field and update, and what it reads as after. -/

namespace Sys2Proof.Machine

variable (s : State)

/-! ### setFld -/

@[simp] theorem State.setFld_pending (f : Fld) (v : Nat) : (s.setFld f v).pending = s.pending := rfl
@[simp] theorem State.setFld_mem (f : Fld) (v : Nat) : (s.setFld f v).mem = s.mem := rfl
@[simp] theorem State.setFld_cores (f : Fld) (v : Nat) : (s.setFld f v).cores = s.cores := rfl
@[simp] theorem State.setFld_spares (f : Fld) (v : Nat) : (s.setFld f v).spares = s.spares := rfl
@[simp] theorem State.setFld_kernels (f : Fld) (v : Nat) : (s.setFld f v).kernels = s.kernels := rfl
@[simp] theorem State.setFld_blocks (f : Fld) (v : Nat) : (s.setFld f v).blocks = s.blocks := rfl
@[simp] theorem State.setFld_routers (f : Fld) (v : Nat) : (s.setFld f v).routers = s.routers := rfl
@[simp] theorem State.setFld_streams (f : Fld) (v : Nat) : (s.setFld f v).streams = s.streams := rfl
@[simp] theorem State.setFld_draining (f : Fld) (v : Nat) : (s.setFld f v).draining = s.draining := rfl
@[simp] theorem State.setFld_slotServed (f : Fld) (v : Nat) : (s.setFld f v).slotServed = s.slotServed := rfl
@[simp] theorem State.setFld_pcc (f : Fld) (v : Nat) : (s.setFld f v).pcc = s.pcc := rfl
@[simp] theorem State.setFld_stalledBy (f : Fld) (v : Nat) : (s.setFld f v).stalledBy = s.stalledBy := rfl
@[simp] theorem State.setFld_inSeq (f : Fld) (v : Nat) : (s.setFld f v).inSeq = s.inSeq := rfl
@[simp] theorem State.setFld_queues (f : Fld) (v : Nat) : (s.setFld f v).queues = s.queues := rfl
@[simp] theorem State.setFld_chans (f : Fld) (v : Nat) : (s.setFld f v).chans = s.chans := rfl
@[simp] theorem State.setFld_lastGrant (f : Fld) (v : Nat) : (s.setFld f v).lastGrant = s.lastGrant := rfl
@[simp] theorem State.setFld_binders (f : Fld) (v : Nat) : (s.setFld f v).binders = s.binders := rfl
@[simp] theorem State.setFld_bops (f : Fld) (v : Nat) : (s.setFld f v).bops = s.bops := rfl
@[simp] theorem State.setFld_inq (f : Fld) (v : Nat) : (s.setFld f v).inq = s.inq := rfl
@[simp] theorem State.setFld_links (f : Fld) (v : Nat) : (s.setFld f v).links = s.links := rfl
@[simp] theorem State.setFld_tags (f : Fld) (v : Nat) : (s.setFld f v).tags = s.tags := rfl
@[simp] theorem State.setFld_lastTag (f : Fld) (v : Nat) : (s.setFld f v).lastTag = s.lastTag := rfl
@[simp] theorem State.setFld_bells (f : Fld) (v : Nat) : (s.setFld f v).bells = s.bells := rfl
@[simp] theorem State.setFld_log (f : Fld) (v : Nat) : (s.setFld f v).log = s.log := rfl
@[simp] theorem State.setFld_session (f : Fld) (v : Nat) : (s.setFld f v).session = s.session := rfl
@[simp] theorem State.setFld_dieback (f : Fld) (v : Nat) : (s.setFld f v).dieback = s.dieback := rfl
@[simp] theorem State.setFld_rails (f : Fld) (v : Nat) : (s.setFld f v).rails = s.rails := rfl
@[simp] theorem State.setFld_clocksOff (f : Fld) (v : Nat) : (s.setFld f v).clocksOff = s.clocksOff := rfl
@[simp] theorem State.setFld_txIdle (f : Fld) (v : Nat) : (s.setFld f v).txIdle = s.txIdle := rfl
@[simp] theorem State.setFld_hostClock (f : Fld) (v : Nat) : (s.setFld f v).hostClock = s.hostClock := rfl
@[simp] theorem State.setFld_hostClockAt (f : Fld) (v : Nat) : (s.setFld f v).hostClockAt = s.hostClockAt := rfl
@[simp] theorem State.setFld_fuses (f : Fld) (v : Nat) : (s.setFld f v).fuses = s.fuses := rfl
@[simp] theorem State.setFld_pwrgd (f : Fld) (v : Nat) : (s.setFld f v).pwrgd = s.pwrgd := rfl
@[simp] theorem State.setFld_perst (f : Fld) (v : Nat) : (s.setFld f v).perst = s.perst := rfl
@[simp] theorem State.setFld_tripped (f : Fld) (v : Nat) : (s.setFld f v).tripped = s.tripped := rfl
@[simp] theorem State.setFld_refclk (f : Fld) (v : Nat) : (s.setFld f v).refclk = s.refclk := rfl
@[simp] theorem State.setFld_hold22 (f : Fld) (v : Nat) : (s.setFld f v).hold22 = s.hold22 := rfl
@[simp] theorem State.setFld_s0Over (f : Fld) (v : Nat) : (s.setFld f v).s0Over = s.s0Over := rfl
@[simp] theorem State.setFld_stageStart (f : Fld) (v : Nat) : (s.setFld f v).stageStart = s.stageStart := rfl
@[simp] theorem State.setFld_losses (f : Fld) (v : Nat) : (s.setFld f v).losses = s.losses := rfl
@[simp] theorem State.setFld_fuseBad (f : Fld) (v : Nat) : (s.setFld f v).fuseBad = s.fuseBad := rfl
@[simp] theorem State.setFld_selfCheckOk (f : Fld) (v : Nat) : (s.setFld f v).selfCheckOk = s.selfCheckOk := rfl
@[simp] theorem State.setFld_latchedFrom (f : Fld) (v : Nat) : (s.setFld f v).latchedFrom = s.latchedFrom := rfl
@[simp] theorem State.setFld_lastCode (f : Fld) (v : Nat) : (s.setFld f v).lastCode = s.lastCode := rfl
@[simp] theorem State.setFld_abandoned (f : Fld) (v : Nat) : (s.setFld f v).abandoned = s.abandoned := rfl
@[simp] theorem State.setFld_wordSeen (f : Fld) (v : Nat) : (s.setFld f v).wordSeen = s.wordSeen := rfl
@[simp] theorem State.setFld_qualifying (f : Fld) (v : Nat) : (s.setFld f v).qualifying = s.qualifying := rfl
@[simp] theorem State.setFld_upAtReady (f : Fld) (v : Nat) : (s.setFld f v).upAtReady = s.upAtReady := rfl
@[simp] theorem State.setFld_keys (f : Fld) (v : Nat) : (s.setFld f v).keys = s.keys := rfl
@[simp] theorem State.setFld_transfers (f : Fld) (v : Nat) : (s.setFld f v).transfers = s.transfers := rfl
@[simp] theorem State.setFld_firmware (f : Fld) (v : Nat) : (s.setFld f v).firmware = s.firmware := rfl
@[simp] theorem State.setFld_microcode (f : Fld) (v : Nat) : (s.setFld f v).microcode = s.microcode := rfl
@[simp] theorem State.setFld_blobIn (f : Fld) (v : Nat) : (s.setFld f v).blobIn = s.blobIn := rfl
@[simp] theorem State.setFld_blobOp (f : Fld) (v : Nat) : (s.setFld f v).blobOp = s.blobOp := rfl
@[simp] theorem State.setFld_restored (f : Fld) (v : Nat) : (s.setFld f v).restored = s.restored := rfl
@[simp] theorem State.setFld_snapshot (f : Fld) (v : Nat) : (s.setFld f v).snapshot = s.snapshot := rfl
@[simp] theorem State.setFld_savedAt (f : Fld) (v : Nat) : (s.setFld f v).savedAt = s.savedAt := rfl
@[simp] theorem State.setFld_memRecord (f : Fld) (v : Nat) : (s.setFld f v).memRecord = s.memRecord := rfl
@[simp] theorem State.setFld_memRun (f : Fld) (v : Nat) : (s.setFld f v).memRun = s.memRun := rfl
@[simp] theorem State.setFld_packageBytes (f : Fld) (v : Nat) : (s.setFld f v).packageBytes = s.packageBytes := rfl
@[simp] theorem State.setFld_pctl (f : Fld) (v : Nat) : (s.setFld f v).pctl = s.pctl := rfl
@[simp] theorem State.setFld_calItems (f : Fld) (v : Nat) : (s.setFld f v).calItems = s.calItems := rfl
@[simp] theorem State.setFld_calActive (f : Fld) (v : Nat) : (s.setFld f v).calActive = s.calActive := rfl
@[simp] theorem State.setFld_attest (f : Fld) (v : Nat) : (s.setFld f v).attest = s.attest := rfl
@[simp] theorem State.setFld_bist (f : Fld) (v : Nat) : (s.setFld f v).bist = s.bist := rfl
@[simp] theorem State.setFld_sleepPoint (f : Fld) (v : Nat) : (s.setFld f v).sleepPoint = s.sleepPoint := rfl
@[simp] theorem State.setFld_sleepAt (f : Fld) (v : Nat) : (s.setFld f v).sleepAt = s.sleepAt := rfl
@[simp] theorem State.setFld_dieOp (f : Fld) (v : Nat) : (s.setFld f v).dieOp = s.dieOp := rfl
@[simp] theorem State.setFld_dieWakeAfter (f : Fld) (v : Nat) : (s.setFld f v).dieWakeAfter = s.dieWakeAfter := rfl
@[simp] theorem State.setFld_tapOut (f : Fld) (v : Nat) : (s.setFld f v).tapOut = s.tapOut := rfl
@[simp] theorem State.setFld_tapCells (f : Fld) (v : Nat) : (s.setFld f v).tapCells = s.tapCells := rfl
@[simp] theorem State.setFld_tapDrive (f : Fld) (v : Nat) : (s.setFld f v).tapDrive = s.tapDrive := rfl
@[simp] theorem State.setFld_commits (f : Fld) (v : Nat) : (s.setFld f v).commits = s.commits := rfl
@[simp] theorem State.setFld_advanceRefused (f : Fld) (v : Nat) : (s.setFld f v).advanceRefused = s.advanceRefused := rfl
@[simp] theorem State.setFld_wdogAt (f : Fld) (v : Nat) : (s.setFld f v).wdogAt = s.wdogAt := rfl
@[simp] theorem State.setFld_hold (f : Fld) (v : Nat) : (s.setFld f v).hold = s.hold := rfl
@[simp] theorem State.setFld_readData (f : Fld) (v : Nat) : (s.setFld f v).readData = s.readData := rfl
@[simp] theorem State.setFld_time (f : Fld) (v : Nat) : (s.setFld f v).time = s.time := rfl
@[simp] theorem State.setFld_fresh (f : Fld) (v : Nat) : (s.setFld f v).fresh = s.fresh := rfl

/-! ### resetFlds -/

@[simp] theorem State.resetFlds_pending (f : Nat → Bool) : (s.resetFlds f).pending = s.pending := rfl
@[simp] theorem State.resetFlds_mem (f : Nat → Bool) : (s.resetFlds f).mem = s.mem := rfl
@[simp] theorem State.resetFlds_cores (f : Nat → Bool) : (s.resetFlds f).cores = s.cores := rfl
@[simp] theorem State.resetFlds_spares (f : Nat → Bool) : (s.resetFlds f).spares = s.spares := rfl
@[simp] theorem State.resetFlds_kernels (f : Nat → Bool) : (s.resetFlds f).kernels = s.kernels := rfl
@[simp] theorem State.resetFlds_blocks (f : Nat → Bool) : (s.resetFlds f).blocks = s.blocks := rfl
@[simp] theorem State.resetFlds_routers (f : Nat → Bool) : (s.resetFlds f).routers = s.routers := rfl
@[simp] theorem State.resetFlds_streams (f : Nat → Bool) : (s.resetFlds f).streams = s.streams := rfl
@[simp] theorem State.resetFlds_draining (f : Nat → Bool) : (s.resetFlds f).draining = s.draining := rfl
@[simp] theorem State.resetFlds_slotServed (f : Nat → Bool) : (s.resetFlds f).slotServed = s.slotServed := rfl
@[simp] theorem State.resetFlds_pcc (f : Nat → Bool) : (s.resetFlds f).pcc = s.pcc := rfl
@[simp] theorem State.resetFlds_stalledBy (f : Nat → Bool) : (s.resetFlds f).stalledBy = s.stalledBy := rfl
@[simp] theorem State.resetFlds_inSeq (f : Nat → Bool) : (s.resetFlds f).inSeq = s.inSeq := rfl
@[simp] theorem State.resetFlds_queues (f : Nat → Bool) : (s.resetFlds f).queues = s.queues := rfl
@[simp] theorem State.resetFlds_chans (f : Nat → Bool) : (s.resetFlds f).chans = s.chans := rfl
@[simp] theorem State.resetFlds_lastGrant (f : Nat → Bool) : (s.resetFlds f).lastGrant = s.lastGrant := rfl
@[simp] theorem State.resetFlds_binders (f : Nat → Bool) : (s.resetFlds f).binders = s.binders := rfl
@[simp] theorem State.resetFlds_bops (f : Nat → Bool) : (s.resetFlds f).bops = s.bops := rfl
@[simp] theorem State.resetFlds_inq (f : Nat → Bool) : (s.resetFlds f).inq = s.inq := rfl
@[simp] theorem State.resetFlds_links (f : Nat → Bool) : (s.resetFlds f).links = s.links := rfl
@[simp] theorem State.resetFlds_tags (f : Nat → Bool) : (s.resetFlds f).tags = s.tags := rfl
@[simp] theorem State.resetFlds_lastTag (f : Nat → Bool) : (s.resetFlds f).lastTag = s.lastTag := rfl
@[simp] theorem State.resetFlds_bells (f : Nat → Bool) : (s.resetFlds f).bells = s.bells := rfl
@[simp] theorem State.resetFlds_log (f : Nat → Bool) : (s.resetFlds f).log = s.log := rfl
@[simp] theorem State.resetFlds_session (f : Nat → Bool) : (s.resetFlds f).session = s.session := rfl
@[simp] theorem State.resetFlds_dieback (f : Nat → Bool) : (s.resetFlds f).dieback = s.dieback := rfl
@[simp] theorem State.resetFlds_rails (f : Nat → Bool) : (s.resetFlds f).rails = s.rails := rfl
@[simp] theorem State.resetFlds_clocksOff (f : Nat → Bool) : (s.resetFlds f).clocksOff = s.clocksOff := rfl
@[simp] theorem State.resetFlds_txIdle (f : Nat → Bool) : (s.resetFlds f).txIdle = s.txIdle := rfl
@[simp] theorem State.resetFlds_hostClock (f : Nat → Bool) : (s.resetFlds f).hostClock = s.hostClock := rfl
@[simp] theorem State.resetFlds_hostClockAt (f : Nat → Bool) : (s.resetFlds f).hostClockAt = s.hostClockAt := rfl
@[simp] theorem State.resetFlds_fuses (f : Nat → Bool) : (s.resetFlds f).fuses = s.fuses := rfl
@[simp] theorem State.resetFlds_pwrgd (f : Nat → Bool) : (s.resetFlds f).pwrgd = s.pwrgd := rfl
@[simp] theorem State.resetFlds_perst (f : Nat → Bool) : (s.resetFlds f).perst = s.perst := rfl
@[simp] theorem State.resetFlds_tripped (f : Nat → Bool) : (s.resetFlds f).tripped = s.tripped := rfl
@[simp] theorem State.resetFlds_refclk (f : Nat → Bool) : (s.resetFlds f).refclk = s.refclk := rfl
@[simp] theorem State.resetFlds_hold22 (f : Nat → Bool) : (s.resetFlds f).hold22 = s.hold22 := rfl
@[simp] theorem State.resetFlds_s0Over (f : Nat → Bool) : (s.resetFlds f).s0Over = s.s0Over := rfl
@[simp] theorem State.resetFlds_stageStart (f : Nat → Bool) : (s.resetFlds f).stageStart = s.stageStart := rfl
@[simp] theorem State.resetFlds_losses (f : Nat → Bool) : (s.resetFlds f).losses = s.losses := rfl
@[simp] theorem State.resetFlds_fuseBad (f : Nat → Bool) : (s.resetFlds f).fuseBad = s.fuseBad := rfl
@[simp] theorem State.resetFlds_selfCheckOk (f : Nat → Bool) : (s.resetFlds f).selfCheckOk = s.selfCheckOk := rfl
@[simp] theorem State.resetFlds_latchedFrom (f : Nat → Bool) : (s.resetFlds f).latchedFrom = s.latchedFrom := rfl
@[simp] theorem State.resetFlds_lastCode (f : Nat → Bool) : (s.resetFlds f).lastCode = s.lastCode := rfl
@[simp] theorem State.resetFlds_abandoned (f : Nat → Bool) : (s.resetFlds f).abandoned = s.abandoned := rfl
@[simp] theorem State.resetFlds_wordSeen (f : Nat → Bool) : (s.resetFlds f).wordSeen = s.wordSeen := rfl
@[simp] theorem State.resetFlds_qualifying (f : Nat → Bool) : (s.resetFlds f).qualifying = s.qualifying := rfl
@[simp] theorem State.resetFlds_upAtReady (f : Nat → Bool) : (s.resetFlds f).upAtReady = s.upAtReady := rfl
@[simp] theorem State.resetFlds_keys (f : Nat → Bool) : (s.resetFlds f).keys = s.keys := rfl
@[simp] theorem State.resetFlds_transfers (f : Nat → Bool) : (s.resetFlds f).transfers = s.transfers := rfl
@[simp] theorem State.resetFlds_firmware (f : Nat → Bool) : (s.resetFlds f).firmware = s.firmware := rfl
@[simp] theorem State.resetFlds_microcode (f : Nat → Bool) : (s.resetFlds f).microcode = s.microcode := rfl
@[simp] theorem State.resetFlds_blobIn (f : Nat → Bool) : (s.resetFlds f).blobIn = s.blobIn := rfl
@[simp] theorem State.resetFlds_blobOp (f : Nat → Bool) : (s.resetFlds f).blobOp = s.blobOp := rfl
@[simp] theorem State.resetFlds_restored (f : Nat → Bool) : (s.resetFlds f).restored = s.restored := rfl
@[simp] theorem State.resetFlds_snapshot (f : Nat → Bool) : (s.resetFlds f).snapshot = s.snapshot := rfl
@[simp] theorem State.resetFlds_savedAt (f : Nat → Bool) : (s.resetFlds f).savedAt = s.savedAt := rfl
@[simp] theorem State.resetFlds_memRecord (f : Nat → Bool) : (s.resetFlds f).memRecord = s.memRecord := rfl
@[simp] theorem State.resetFlds_memRun (f : Nat → Bool) : (s.resetFlds f).memRun = s.memRun := rfl
@[simp] theorem State.resetFlds_packageBytes (f : Nat → Bool) : (s.resetFlds f).packageBytes = s.packageBytes := rfl
@[simp] theorem State.resetFlds_pctl (f : Nat → Bool) : (s.resetFlds f).pctl = s.pctl := rfl
@[simp] theorem State.resetFlds_calItems (f : Nat → Bool) : (s.resetFlds f).calItems = s.calItems := rfl
@[simp] theorem State.resetFlds_calActive (f : Nat → Bool) : (s.resetFlds f).calActive = s.calActive := rfl
@[simp] theorem State.resetFlds_attest (f : Nat → Bool) : (s.resetFlds f).attest = s.attest := rfl
@[simp] theorem State.resetFlds_bist (f : Nat → Bool) : (s.resetFlds f).bist = s.bist := rfl
@[simp] theorem State.resetFlds_sleepPoint (f : Nat → Bool) : (s.resetFlds f).sleepPoint = s.sleepPoint := rfl
@[simp] theorem State.resetFlds_sleepAt (f : Nat → Bool) : (s.resetFlds f).sleepAt = s.sleepAt := rfl
@[simp] theorem State.resetFlds_dieOp (f : Nat → Bool) : (s.resetFlds f).dieOp = s.dieOp := rfl
@[simp] theorem State.resetFlds_dieWakeAfter (f : Nat → Bool) : (s.resetFlds f).dieWakeAfter = s.dieWakeAfter := rfl
@[simp] theorem State.resetFlds_tapOut (f : Nat → Bool) : (s.resetFlds f).tapOut = s.tapOut := rfl
@[simp] theorem State.resetFlds_tapCells (f : Nat → Bool) : (s.resetFlds f).tapCells = s.tapCells := rfl
@[simp] theorem State.resetFlds_tapDrive (f : Nat → Bool) : (s.resetFlds f).tapDrive = s.tapDrive := rfl
@[simp] theorem State.resetFlds_commits (f : Nat → Bool) : (s.resetFlds f).commits = s.commits := rfl
@[simp] theorem State.resetFlds_advanceRefused (f : Nat → Bool) : (s.resetFlds f).advanceRefused = s.advanceRefused := rfl
@[simp] theorem State.resetFlds_wdogAt (f : Nat → Bool) : (s.resetFlds f).wdogAt = s.wdogAt := rfl
@[simp] theorem State.resetFlds_hold (f : Nat → Bool) : (s.resetFlds f).hold = s.hold := rfl
@[simp] theorem State.resetFlds_readData (f : Nat → Bool) : (s.resetFlds f).readData = s.readData := rfl
@[simp] theorem State.resetFlds_time (f : Nat → Bool) : (s.resetFlds f).time = s.time := rfl
@[simp] theorem State.resetFlds_fresh (f : Nat → Bool) : (s.resetFlds f).fresh = s.fresh := rfl

/-! ### addFld -/

@[simp] theorem State.addFld_pending (f : Fld) (v : Nat) : (s.addFld f v).pending = s.pending := rfl
@[simp] theorem State.addFld_mem (f : Fld) (v : Nat) : (s.addFld f v).mem = s.mem := rfl
@[simp] theorem State.addFld_cores (f : Fld) (v : Nat) : (s.addFld f v).cores = s.cores := rfl
@[simp] theorem State.addFld_spares (f : Fld) (v : Nat) : (s.addFld f v).spares = s.spares := rfl
@[simp] theorem State.addFld_kernels (f : Fld) (v : Nat) : (s.addFld f v).kernels = s.kernels := rfl
@[simp] theorem State.addFld_blocks (f : Fld) (v : Nat) : (s.addFld f v).blocks = s.blocks := rfl
@[simp] theorem State.addFld_routers (f : Fld) (v : Nat) : (s.addFld f v).routers = s.routers := rfl
@[simp] theorem State.addFld_streams (f : Fld) (v : Nat) : (s.addFld f v).streams = s.streams := rfl
@[simp] theorem State.addFld_draining (f : Fld) (v : Nat) : (s.addFld f v).draining = s.draining := rfl
@[simp] theorem State.addFld_slotServed (f : Fld) (v : Nat) : (s.addFld f v).slotServed = s.slotServed := rfl
@[simp] theorem State.addFld_pcc (f : Fld) (v : Nat) : (s.addFld f v).pcc = s.pcc := rfl
@[simp] theorem State.addFld_stalledBy (f : Fld) (v : Nat) : (s.addFld f v).stalledBy = s.stalledBy := rfl
@[simp] theorem State.addFld_inSeq (f : Fld) (v : Nat) : (s.addFld f v).inSeq = s.inSeq := rfl
@[simp] theorem State.addFld_queues (f : Fld) (v : Nat) : (s.addFld f v).queues = s.queues := rfl
@[simp] theorem State.addFld_chans (f : Fld) (v : Nat) : (s.addFld f v).chans = s.chans := rfl
@[simp] theorem State.addFld_lastGrant (f : Fld) (v : Nat) : (s.addFld f v).lastGrant = s.lastGrant := rfl
@[simp] theorem State.addFld_binders (f : Fld) (v : Nat) : (s.addFld f v).binders = s.binders := rfl
@[simp] theorem State.addFld_bops (f : Fld) (v : Nat) : (s.addFld f v).bops = s.bops := rfl
@[simp] theorem State.addFld_inq (f : Fld) (v : Nat) : (s.addFld f v).inq = s.inq := rfl
@[simp] theorem State.addFld_links (f : Fld) (v : Nat) : (s.addFld f v).links = s.links := rfl
@[simp] theorem State.addFld_tags (f : Fld) (v : Nat) : (s.addFld f v).tags = s.tags := rfl
@[simp] theorem State.addFld_lastTag (f : Fld) (v : Nat) : (s.addFld f v).lastTag = s.lastTag := rfl
@[simp] theorem State.addFld_bells (f : Fld) (v : Nat) : (s.addFld f v).bells = s.bells := rfl
@[simp] theorem State.addFld_log (f : Fld) (v : Nat) : (s.addFld f v).log = s.log := rfl
@[simp] theorem State.addFld_session (f : Fld) (v : Nat) : (s.addFld f v).session = s.session := rfl
@[simp] theorem State.addFld_dieback (f : Fld) (v : Nat) : (s.addFld f v).dieback = s.dieback := rfl
@[simp] theorem State.addFld_rails (f : Fld) (v : Nat) : (s.addFld f v).rails = s.rails := rfl
@[simp] theorem State.addFld_clocksOff (f : Fld) (v : Nat) : (s.addFld f v).clocksOff = s.clocksOff := rfl
@[simp] theorem State.addFld_txIdle (f : Fld) (v : Nat) : (s.addFld f v).txIdle = s.txIdle := rfl
@[simp] theorem State.addFld_hostClock (f : Fld) (v : Nat) : (s.addFld f v).hostClock = s.hostClock := rfl
@[simp] theorem State.addFld_hostClockAt (f : Fld) (v : Nat) : (s.addFld f v).hostClockAt = s.hostClockAt := rfl
@[simp] theorem State.addFld_fuses (f : Fld) (v : Nat) : (s.addFld f v).fuses = s.fuses := rfl
@[simp] theorem State.addFld_pwrgd (f : Fld) (v : Nat) : (s.addFld f v).pwrgd = s.pwrgd := rfl
@[simp] theorem State.addFld_perst (f : Fld) (v : Nat) : (s.addFld f v).perst = s.perst := rfl
@[simp] theorem State.addFld_tripped (f : Fld) (v : Nat) : (s.addFld f v).tripped = s.tripped := rfl
@[simp] theorem State.addFld_refclk (f : Fld) (v : Nat) : (s.addFld f v).refclk = s.refclk := rfl
@[simp] theorem State.addFld_hold22 (f : Fld) (v : Nat) : (s.addFld f v).hold22 = s.hold22 := rfl
@[simp] theorem State.addFld_s0Over (f : Fld) (v : Nat) : (s.addFld f v).s0Over = s.s0Over := rfl
@[simp] theorem State.addFld_stageStart (f : Fld) (v : Nat) : (s.addFld f v).stageStart = s.stageStart := rfl
@[simp] theorem State.addFld_losses (f : Fld) (v : Nat) : (s.addFld f v).losses = s.losses := rfl
@[simp] theorem State.addFld_fuseBad (f : Fld) (v : Nat) : (s.addFld f v).fuseBad = s.fuseBad := rfl
@[simp] theorem State.addFld_selfCheckOk (f : Fld) (v : Nat) : (s.addFld f v).selfCheckOk = s.selfCheckOk := rfl
@[simp] theorem State.addFld_latchedFrom (f : Fld) (v : Nat) : (s.addFld f v).latchedFrom = s.latchedFrom := rfl
@[simp] theorem State.addFld_lastCode (f : Fld) (v : Nat) : (s.addFld f v).lastCode = s.lastCode := rfl
@[simp] theorem State.addFld_abandoned (f : Fld) (v : Nat) : (s.addFld f v).abandoned = s.abandoned := rfl
@[simp] theorem State.addFld_wordSeen (f : Fld) (v : Nat) : (s.addFld f v).wordSeen = s.wordSeen := rfl
@[simp] theorem State.addFld_qualifying (f : Fld) (v : Nat) : (s.addFld f v).qualifying = s.qualifying := rfl
@[simp] theorem State.addFld_upAtReady (f : Fld) (v : Nat) : (s.addFld f v).upAtReady = s.upAtReady := rfl
@[simp] theorem State.addFld_keys (f : Fld) (v : Nat) : (s.addFld f v).keys = s.keys := rfl
@[simp] theorem State.addFld_transfers (f : Fld) (v : Nat) : (s.addFld f v).transfers = s.transfers := rfl
@[simp] theorem State.addFld_firmware (f : Fld) (v : Nat) : (s.addFld f v).firmware = s.firmware := rfl
@[simp] theorem State.addFld_microcode (f : Fld) (v : Nat) : (s.addFld f v).microcode = s.microcode := rfl
@[simp] theorem State.addFld_blobIn (f : Fld) (v : Nat) : (s.addFld f v).blobIn = s.blobIn := rfl
@[simp] theorem State.addFld_blobOp (f : Fld) (v : Nat) : (s.addFld f v).blobOp = s.blobOp := rfl
@[simp] theorem State.addFld_restored (f : Fld) (v : Nat) : (s.addFld f v).restored = s.restored := rfl
@[simp] theorem State.addFld_snapshot (f : Fld) (v : Nat) : (s.addFld f v).snapshot = s.snapshot := rfl
@[simp] theorem State.addFld_savedAt (f : Fld) (v : Nat) : (s.addFld f v).savedAt = s.savedAt := rfl
@[simp] theorem State.addFld_memRecord (f : Fld) (v : Nat) : (s.addFld f v).memRecord = s.memRecord := rfl
@[simp] theorem State.addFld_memRun (f : Fld) (v : Nat) : (s.addFld f v).memRun = s.memRun := rfl
@[simp] theorem State.addFld_packageBytes (f : Fld) (v : Nat) : (s.addFld f v).packageBytes = s.packageBytes := rfl
@[simp] theorem State.addFld_pctl (f : Fld) (v : Nat) : (s.addFld f v).pctl = s.pctl := rfl
@[simp] theorem State.addFld_calItems (f : Fld) (v : Nat) : (s.addFld f v).calItems = s.calItems := rfl
@[simp] theorem State.addFld_calActive (f : Fld) (v : Nat) : (s.addFld f v).calActive = s.calActive := rfl
@[simp] theorem State.addFld_attest (f : Fld) (v : Nat) : (s.addFld f v).attest = s.attest := rfl
@[simp] theorem State.addFld_bist (f : Fld) (v : Nat) : (s.addFld f v).bist = s.bist := rfl
@[simp] theorem State.addFld_sleepPoint (f : Fld) (v : Nat) : (s.addFld f v).sleepPoint = s.sleepPoint := rfl
@[simp] theorem State.addFld_sleepAt (f : Fld) (v : Nat) : (s.addFld f v).sleepAt = s.sleepAt := rfl
@[simp] theorem State.addFld_dieOp (f : Fld) (v : Nat) : (s.addFld f v).dieOp = s.dieOp := rfl
@[simp] theorem State.addFld_dieWakeAfter (f : Fld) (v : Nat) : (s.addFld f v).dieWakeAfter = s.dieWakeAfter := rfl
@[simp] theorem State.addFld_tapOut (f : Fld) (v : Nat) : (s.addFld f v).tapOut = s.tapOut := rfl
@[simp] theorem State.addFld_tapCells (f : Fld) (v : Nat) : (s.addFld f v).tapCells = s.tapCells := rfl
@[simp] theorem State.addFld_tapDrive (f : Fld) (v : Nat) : (s.addFld f v).tapDrive = s.tapDrive := rfl
@[simp] theorem State.addFld_commits (f : Fld) (v : Nat) : (s.addFld f v).commits = s.commits := rfl
@[simp] theorem State.addFld_advanceRefused (f : Fld) (v : Nat) : (s.addFld f v).advanceRefused = s.advanceRefused := rfl
@[simp] theorem State.addFld_wdogAt (f : Fld) (v : Nat) : (s.addFld f v).wdogAt = s.wdogAt := rfl
@[simp] theorem State.addFld_hold (f : Fld) (v : Nat) : (s.addFld f v).hold = s.hold := rfl
@[simp] theorem State.addFld_readData (f : Fld) (v : Nat) : (s.addFld f v).readData = s.readData := rfl
@[simp] theorem State.addFld_time (f : Fld) (v : Nat) : (s.addFld f v).time = s.time := rfl
@[simp] theorem State.addFld_fresh (f : Fld) (v : Nat) : (s.addFld f v).fresh = s.fresh := rfl

/-! ### writeCore -/

@[simp] theorem State.writeCore_pending (p off : Nat) (b : List Byte) : (s.writeCore p off b).pending = s.pending := rfl
@[simp] theorem State.writeCore_regs (p off : Nat) (b : List Byte) : (s.writeCore p off b).regs = s.regs := rfl
@[simp] theorem State.writeCore_cores (p off : Nat) (b : List Byte) : (s.writeCore p off b).cores = s.cores := rfl
@[simp] theorem State.writeCore_spares (p off : Nat) (b : List Byte) : (s.writeCore p off b).spares = s.spares := rfl
@[simp] theorem State.writeCore_kernels (p off : Nat) (b : List Byte) : (s.writeCore p off b).kernels = s.kernels := rfl
@[simp] theorem State.writeCore_blocks (p off : Nat) (b : List Byte) : (s.writeCore p off b).blocks = s.blocks := rfl
@[simp] theorem State.writeCore_routers (p off : Nat) (b : List Byte) : (s.writeCore p off b).routers = s.routers := rfl
@[simp] theorem State.writeCore_streams (p off : Nat) (b : List Byte) : (s.writeCore p off b).streams = s.streams := rfl
@[simp] theorem State.writeCore_draining (p off : Nat) (b : List Byte) : (s.writeCore p off b).draining = s.draining := rfl
@[simp] theorem State.writeCore_slotServed (p off : Nat) (b : List Byte) : (s.writeCore p off b).slotServed = s.slotServed := rfl
@[simp] theorem State.writeCore_pcc (p off : Nat) (b : List Byte) : (s.writeCore p off b).pcc = s.pcc := rfl
@[simp] theorem State.writeCore_stalledBy (p off : Nat) (b : List Byte) : (s.writeCore p off b).stalledBy = s.stalledBy := rfl
@[simp] theorem State.writeCore_inSeq (p off : Nat) (b : List Byte) : (s.writeCore p off b).inSeq = s.inSeq := rfl
@[simp] theorem State.writeCore_queues (p off : Nat) (b : List Byte) : (s.writeCore p off b).queues = s.queues := rfl
@[simp] theorem State.writeCore_chans (p off : Nat) (b : List Byte) : (s.writeCore p off b).chans = s.chans := rfl
@[simp] theorem State.writeCore_lastGrant (p off : Nat) (b : List Byte) : (s.writeCore p off b).lastGrant = s.lastGrant := rfl
@[simp] theorem State.writeCore_binders (p off : Nat) (b : List Byte) : (s.writeCore p off b).binders = s.binders := rfl
@[simp] theorem State.writeCore_bops (p off : Nat) (b : List Byte) : (s.writeCore p off b).bops = s.bops := rfl
@[simp] theorem State.writeCore_inq (p off : Nat) (b : List Byte) : (s.writeCore p off b).inq = s.inq := rfl
@[simp] theorem State.writeCore_links (p off : Nat) (b : List Byte) : (s.writeCore p off b).links = s.links := rfl
@[simp] theorem State.writeCore_tags (p off : Nat) (b : List Byte) : (s.writeCore p off b).tags = s.tags := rfl
@[simp] theorem State.writeCore_lastTag (p off : Nat) (b : List Byte) : (s.writeCore p off b).lastTag = s.lastTag := rfl
@[simp] theorem State.writeCore_bells (p off : Nat) (b : List Byte) : (s.writeCore p off b).bells = s.bells := rfl
@[simp] theorem State.writeCore_log (p off : Nat) (b : List Byte) : (s.writeCore p off b).log = s.log := rfl
@[simp] theorem State.writeCore_session (p off : Nat) (b : List Byte) : (s.writeCore p off b).session = s.session := rfl
@[simp] theorem State.writeCore_dieback (p off : Nat) (b : List Byte) : (s.writeCore p off b).dieback = s.dieback := rfl
@[simp] theorem State.writeCore_rails (p off : Nat) (b : List Byte) : (s.writeCore p off b).rails = s.rails := rfl
@[simp] theorem State.writeCore_clocksOff (p off : Nat) (b : List Byte) : (s.writeCore p off b).clocksOff = s.clocksOff := rfl
@[simp] theorem State.writeCore_txIdle (p off : Nat) (b : List Byte) : (s.writeCore p off b).txIdle = s.txIdle := rfl
@[simp] theorem State.writeCore_hostClock (p off : Nat) (b : List Byte) : (s.writeCore p off b).hostClock = s.hostClock := rfl
@[simp] theorem State.writeCore_hostClockAt (p off : Nat) (b : List Byte) : (s.writeCore p off b).hostClockAt = s.hostClockAt := rfl
@[simp] theorem State.writeCore_fuses (p off : Nat) (b : List Byte) : (s.writeCore p off b).fuses = s.fuses := rfl
@[simp] theorem State.writeCore_pwrgd (p off : Nat) (b : List Byte) : (s.writeCore p off b).pwrgd = s.pwrgd := rfl
@[simp] theorem State.writeCore_perst (p off : Nat) (b : List Byte) : (s.writeCore p off b).perst = s.perst := rfl
@[simp] theorem State.writeCore_tripped (p off : Nat) (b : List Byte) : (s.writeCore p off b).tripped = s.tripped := rfl
@[simp] theorem State.writeCore_refclk (p off : Nat) (b : List Byte) : (s.writeCore p off b).refclk = s.refclk := rfl
@[simp] theorem State.writeCore_hold22 (p off : Nat) (b : List Byte) : (s.writeCore p off b).hold22 = s.hold22 := rfl
@[simp] theorem State.writeCore_s0Over (p off : Nat) (b : List Byte) : (s.writeCore p off b).s0Over = s.s0Over := rfl
@[simp] theorem State.writeCore_stageStart (p off : Nat) (b : List Byte) : (s.writeCore p off b).stageStart = s.stageStart := rfl
@[simp] theorem State.writeCore_losses (p off : Nat) (b : List Byte) : (s.writeCore p off b).losses = s.losses := rfl
@[simp] theorem State.writeCore_fuseBad (p off : Nat) (b : List Byte) : (s.writeCore p off b).fuseBad = s.fuseBad := rfl
@[simp] theorem State.writeCore_selfCheckOk (p off : Nat) (b : List Byte) : (s.writeCore p off b).selfCheckOk = s.selfCheckOk := rfl
@[simp] theorem State.writeCore_latchedFrom (p off : Nat) (b : List Byte) : (s.writeCore p off b).latchedFrom = s.latchedFrom := rfl
@[simp] theorem State.writeCore_lastCode (p off : Nat) (b : List Byte) : (s.writeCore p off b).lastCode = s.lastCode := rfl
@[simp] theorem State.writeCore_abandoned (p off : Nat) (b : List Byte) : (s.writeCore p off b).abandoned = s.abandoned := rfl
@[simp] theorem State.writeCore_wordSeen (p off : Nat) (b : List Byte) : (s.writeCore p off b).wordSeen = s.wordSeen := rfl
@[simp] theorem State.writeCore_qualifying (p off : Nat) (b : List Byte) : (s.writeCore p off b).qualifying = s.qualifying := rfl
@[simp] theorem State.writeCore_upAtReady (p off : Nat) (b : List Byte) : (s.writeCore p off b).upAtReady = s.upAtReady := rfl
@[simp] theorem State.writeCore_keys (p off : Nat) (b : List Byte) : (s.writeCore p off b).keys = s.keys := rfl
@[simp] theorem State.writeCore_transfers (p off : Nat) (b : List Byte) : (s.writeCore p off b).transfers = s.transfers := rfl
@[simp] theorem State.writeCore_firmware (p off : Nat) (b : List Byte) : (s.writeCore p off b).firmware = s.firmware := rfl
@[simp] theorem State.writeCore_microcode (p off : Nat) (b : List Byte) : (s.writeCore p off b).microcode = s.microcode := rfl
@[simp] theorem State.writeCore_blobIn (p off : Nat) (b : List Byte) : (s.writeCore p off b).blobIn = s.blobIn := rfl
@[simp] theorem State.writeCore_blobOp (p off : Nat) (b : List Byte) : (s.writeCore p off b).blobOp = s.blobOp := rfl
@[simp] theorem State.writeCore_restored (p off : Nat) (b : List Byte) : (s.writeCore p off b).restored = s.restored := rfl
@[simp] theorem State.writeCore_snapshot (p off : Nat) (b : List Byte) : (s.writeCore p off b).snapshot = s.snapshot := rfl
@[simp] theorem State.writeCore_savedAt (p off : Nat) (b : List Byte) : (s.writeCore p off b).savedAt = s.savedAt := rfl
@[simp] theorem State.writeCore_memRecord (p off : Nat) (b : List Byte) : (s.writeCore p off b).memRecord = s.memRecord := rfl
@[simp] theorem State.writeCore_memRun (p off : Nat) (b : List Byte) : (s.writeCore p off b).memRun = s.memRun := rfl
@[simp] theorem State.writeCore_packageBytes (p off : Nat) (b : List Byte) : (s.writeCore p off b).packageBytes = s.packageBytes := rfl
@[simp] theorem State.writeCore_pctl (p off : Nat) (b : List Byte) : (s.writeCore p off b).pctl = s.pctl := rfl
@[simp] theorem State.writeCore_calItems (p off : Nat) (b : List Byte) : (s.writeCore p off b).calItems = s.calItems := rfl
@[simp] theorem State.writeCore_calActive (p off : Nat) (b : List Byte) : (s.writeCore p off b).calActive = s.calActive := rfl
@[simp] theorem State.writeCore_attest (p off : Nat) (b : List Byte) : (s.writeCore p off b).attest = s.attest := rfl
@[simp] theorem State.writeCore_bist (p off : Nat) (b : List Byte) : (s.writeCore p off b).bist = s.bist := rfl
@[simp] theorem State.writeCore_sleepPoint (p off : Nat) (b : List Byte) : (s.writeCore p off b).sleepPoint = s.sleepPoint := rfl
@[simp] theorem State.writeCore_sleepAt (p off : Nat) (b : List Byte) : (s.writeCore p off b).sleepAt = s.sleepAt := rfl
@[simp] theorem State.writeCore_dieOp (p off : Nat) (b : List Byte) : (s.writeCore p off b).dieOp = s.dieOp := rfl
@[simp] theorem State.writeCore_dieWakeAfter (p off : Nat) (b : List Byte) : (s.writeCore p off b).dieWakeAfter = s.dieWakeAfter := rfl
@[simp] theorem State.writeCore_tapOut (p off : Nat) (b : List Byte) : (s.writeCore p off b).tapOut = s.tapOut := rfl
@[simp] theorem State.writeCore_tapCells (p off : Nat) (b : List Byte) : (s.writeCore p off b).tapCells = s.tapCells := rfl
@[simp] theorem State.writeCore_tapDrive (p off : Nat) (b : List Byte) : (s.writeCore p off b).tapDrive = s.tapDrive := rfl
@[simp] theorem State.writeCore_commits (p off : Nat) (b : List Byte) : (s.writeCore p off b).commits = s.commits := rfl
@[simp] theorem State.writeCore_advanceRefused (p off : Nat) (b : List Byte) : (s.writeCore p off b).advanceRefused = s.advanceRefused := rfl
@[simp] theorem State.writeCore_wdogAt (p off : Nat) (b : List Byte) : (s.writeCore p off b).wdogAt = s.wdogAt := rfl
@[simp] theorem State.writeCore_hold (p off : Nat) (b : List Byte) : (s.writeCore p off b).hold = s.hold := rfl
@[simp] theorem State.writeCore_readData (p off : Nat) (b : List Byte) : (s.writeCore p off b).readData = s.readData := rfl
@[simp] theorem State.writeCore_time (p off : Nat) (b : List Byte) : (s.writeCore p off b).time = s.time := rfl
@[simp] theorem State.writeCore_fresh (p off : Nat) (b : List Byte) : (s.writeCore p off b).fresh = s.fresh := rfl

/-! ### setCore -/

@[simp] theorem State.setCore_pending (p : Nat) (x : CoreSt) : (s.setCore p x).pending = s.pending := rfl
@[simp] theorem State.setCore_regs (p : Nat) (x : CoreSt) : (s.setCore p x).regs = s.regs := rfl
@[simp] theorem State.setCore_mem (p : Nat) (x : CoreSt) : (s.setCore p x).mem = s.mem := rfl
@[simp] theorem State.setCore_spares (p : Nat) (x : CoreSt) : (s.setCore p x).spares = s.spares := rfl
@[simp] theorem State.setCore_kernels (p : Nat) (x : CoreSt) : (s.setCore p x).kernels = s.kernels := rfl
@[simp] theorem State.setCore_blocks (p : Nat) (x : CoreSt) : (s.setCore p x).blocks = s.blocks := rfl
@[simp] theorem State.setCore_routers (p : Nat) (x : CoreSt) : (s.setCore p x).routers = s.routers := rfl
@[simp] theorem State.setCore_streams (p : Nat) (x : CoreSt) : (s.setCore p x).streams = s.streams := rfl
@[simp] theorem State.setCore_draining (p : Nat) (x : CoreSt) : (s.setCore p x).draining = s.draining := rfl
@[simp] theorem State.setCore_slotServed (p : Nat) (x : CoreSt) : (s.setCore p x).slotServed = s.slotServed := rfl
@[simp] theorem State.setCore_pcc (p : Nat) (x : CoreSt) : (s.setCore p x).pcc = s.pcc := rfl
@[simp] theorem State.setCore_stalledBy (p : Nat) (x : CoreSt) : (s.setCore p x).stalledBy = s.stalledBy := rfl
@[simp] theorem State.setCore_inSeq (p : Nat) (x : CoreSt) : (s.setCore p x).inSeq = s.inSeq := rfl
@[simp] theorem State.setCore_queues (p : Nat) (x : CoreSt) : (s.setCore p x).queues = s.queues := rfl
@[simp] theorem State.setCore_chans (p : Nat) (x : CoreSt) : (s.setCore p x).chans = s.chans := rfl
@[simp] theorem State.setCore_lastGrant (p : Nat) (x : CoreSt) : (s.setCore p x).lastGrant = s.lastGrant := rfl
@[simp] theorem State.setCore_binders (p : Nat) (x : CoreSt) : (s.setCore p x).binders = s.binders := rfl
@[simp] theorem State.setCore_bops (p : Nat) (x : CoreSt) : (s.setCore p x).bops = s.bops := rfl
@[simp] theorem State.setCore_inq (p : Nat) (x : CoreSt) : (s.setCore p x).inq = s.inq := rfl
@[simp] theorem State.setCore_links (p : Nat) (x : CoreSt) : (s.setCore p x).links = s.links := rfl
@[simp] theorem State.setCore_tags (p : Nat) (x : CoreSt) : (s.setCore p x).tags = s.tags := rfl
@[simp] theorem State.setCore_lastTag (p : Nat) (x : CoreSt) : (s.setCore p x).lastTag = s.lastTag := rfl
@[simp] theorem State.setCore_bells (p : Nat) (x : CoreSt) : (s.setCore p x).bells = s.bells := rfl
@[simp] theorem State.setCore_log (p : Nat) (x : CoreSt) : (s.setCore p x).log = s.log := rfl
@[simp] theorem State.setCore_session (p : Nat) (x : CoreSt) : (s.setCore p x).session = s.session := rfl
@[simp] theorem State.setCore_dieback (p : Nat) (x : CoreSt) : (s.setCore p x).dieback = s.dieback := rfl
@[simp] theorem State.setCore_rails (p : Nat) (x : CoreSt) : (s.setCore p x).rails = s.rails := rfl
@[simp] theorem State.setCore_clocksOff (p : Nat) (x : CoreSt) : (s.setCore p x).clocksOff = s.clocksOff := rfl
@[simp] theorem State.setCore_txIdle (p : Nat) (x : CoreSt) : (s.setCore p x).txIdle = s.txIdle := rfl
@[simp] theorem State.setCore_hostClock (p : Nat) (x : CoreSt) : (s.setCore p x).hostClock = s.hostClock := rfl
@[simp] theorem State.setCore_hostClockAt (p : Nat) (x : CoreSt) : (s.setCore p x).hostClockAt = s.hostClockAt := rfl
@[simp] theorem State.setCore_fuses (p : Nat) (x : CoreSt) : (s.setCore p x).fuses = s.fuses := rfl
@[simp] theorem State.setCore_pwrgd (p : Nat) (x : CoreSt) : (s.setCore p x).pwrgd = s.pwrgd := rfl
@[simp] theorem State.setCore_perst (p : Nat) (x : CoreSt) : (s.setCore p x).perst = s.perst := rfl
@[simp] theorem State.setCore_tripped (p : Nat) (x : CoreSt) : (s.setCore p x).tripped = s.tripped := rfl
@[simp] theorem State.setCore_refclk (p : Nat) (x : CoreSt) : (s.setCore p x).refclk = s.refclk := rfl
@[simp] theorem State.setCore_hold22 (p : Nat) (x : CoreSt) : (s.setCore p x).hold22 = s.hold22 := rfl
@[simp] theorem State.setCore_s0Over (p : Nat) (x : CoreSt) : (s.setCore p x).s0Over = s.s0Over := rfl
@[simp] theorem State.setCore_stageStart (p : Nat) (x : CoreSt) : (s.setCore p x).stageStart = s.stageStart := rfl
@[simp] theorem State.setCore_losses (p : Nat) (x : CoreSt) : (s.setCore p x).losses = s.losses := rfl
@[simp] theorem State.setCore_fuseBad (p : Nat) (x : CoreSt) : (s.setCore p x).fuseBad = s.fuseBad := rfl
@[simp] theorem State.setCore_selfCheckOk (p : Nat) (x : CoreSt) : (s.setCore p x).selfCheckOk = s.selfCheckOk := rfl
@[simp] theorem State.setCore_latchedFrom (p : Nat) (x : CoreSt) : (s.setCore p x).latchedFrom = s.latchedFrom := rfl
@[simp] theorem State.setCore_lastCode (p : Nat) (x : CoreSt) : (s.setCore p x).lastCode = s.lastCode := rfl
@[simp] theorem State.setCore_abandoned (p : Nat) (x : CoreSt) : (s.setCore p x).abandoned = s.abandoned := rfl
@[simp] theorem State.setCore_wordSeen (p : Nat) (x : CoreSt) : (s.setCore p x).wordSeen = s.wordSeen := rfl
@[simp] theorem State.setCore_qualifying (p : Nat) (x : CoreSt) : (s.setCore p x).qualifying = s.qualifying := rfl
@[simp] theorem State.setCore_upAtReady (p : Nat) (x : CoreSt) : (s.setCore p x).upAtReady = s.upAtReady := rfl
@[simp] theorem State.setCore_keys (p : Nat) (x : CoreSt) : (s.setCore p x).keys = s.keys := rfl
@[simp] theorem State.setCore_transfers (p : Nat) (x : CoreSt) : (s.setCore p x).transfers = s.transfers := rfl
@[simp] theorem State.setCore_firmware (p : Nat) (x : CoreSt) : (s.setCore p x).firmware = s.firmware := rfl
@[simp] theorem State.setCore_microcode (p : Nat) (x : CoreSt) : (s.setCore p x).microcode = s.microcode := rfl
@[simp] theorem State.setCore_blobIn (p : Nat) (x : CoreSt) : (s.setCore p x).blobIn = s.blobIn := rfl
@[simp] theorem State.setCore_blobOp (p : Nat) (x : CoreSt) : (s.setCore p x).blobOp = s.blobOp := rfl
@[simp] theorem State.setCore_restored (p : Nat) (x : CoreSt) : (s.setCore p x).restored = s.restored := rfl
@[simp] theorem State.setCore_snapshot (p : Nat) (x : CoreSt) : (s.setCore p x).snapshot = s.snapshot := rfl
@[simp] theorem State.setCore_savedAt (p : Nat) (x : CoreSt) : (s.setCore p x).savedAt = s.savedAt := rfl
@[simp] theorem State.setCore_memRecord (p : Nat) (x : CoreSt) : (s.setCore p x).memRecord = s.memRecord := rfl
@[simp] theorem State.setCore_memRun (p : Nat) (x : CoreSt) : (s.setCore p x).memRun = s.memRun := rfl
@[simp] theorem State.setCore_packageBytes (p : Nat) (x : CoreSt) : (s.setCore p x).packageBytes = s.packageBytes := rfl
@[simp] theorem State.setCore_pctl (p : Nat) (x : CoreSt) : (s.setCore p x).pctl = s.pctl := rfl
@[simp] theorem State.setCore_calItems (p : Nat) (x : CoreSt) : (s.setCore p x).calItems = s.calItems := rfl
@[simp] theorem State.setCore_calActive (p : Nat) (x : CoreSt) : (s.setCore p x).calActive = s.calActive := rfl
@[simp] theorem State.setCore_attest (p : Nat) (x : CoreSt) : (s.setCore p x).attest = s.attest := rfl
@[simp] theorem State.setCore_bist (p : Nat) (x : CoreSt) : (s.setCore p x).bist = s.bist := rfl
@[simp] theorem State.setCore_sleepPoint (p : Nat) (x : CoreSt) : (s.setCore p x).sleepPoint = s.sleepPoint := rfl
@[simp] theorem State.setCore_sleepAt (p : Nat) (x : CoreSt) : (s.setCore p x).sleepAt = s.sleepAt := rfl
@[simp] theorem State.setCore_dieOp (p : Nat) (x : CoreSt) : (s.setCore p x).dieOp = s.dieOp := rfl
@[simp] theorem State.setCore_dieWakeAfter (p : Nat) (x : CoreSt) : (s.setCore p x).dieWakeAfter = s.dieWakeAfter := rfl
@[simp] theorem State.setCore_tapOut (p : Nat) (x : CoreSt) : (s.setCore p x).tapOut = s.tapOut := rfl
@[simp] theorem State.setCore_tapCells (p : Nat) (x : CoreSt) : (s.setCore p x).tapCells = s.tapCells := rfl
@[simp] theorem State.setCore_tapDrive (p : Nat) (x : CoreSt) : (s.setCore p x).tapDrive = s.tapDrive := rfl
@[simp] theorem State.setCore_commits (p : Nat) (x : CoreSt) : (s.setCore p x).commits = s.commits := rfl
@[simp] theorem State.setCore_advanceRefused (p : Nat) (x : CoreSt) : (s.setCore p x).advanceRefused = s.advanceRefused := rfl
@[simp] theorem State.setCore_wdogAt (p : Nat) (x : CoreSt) : (s.setCore p x).wdogAt = s.wdogAt := rfl
@[simp] theorem State.setCore_hold (p : Nat) (x : CoreSt) : (s.setCore p x).hold = s.hold := rfl
@[simp] theorem State.setCore_readData (p : Nat) (x : CoreSt) : (s.setCore p x).readData = s.readData := rfl
@[simp] theorem State.setCore_time (p : Nat) (x : CoreSt) : (s.setCore p x).time = s.time := rfl
@[simp] theorem State.setCore_fresh (p : Nat) (x : CoreSt) : (s.setCore p x).fresh = s.fresh := rfl

/-! ### setQueue -/

@[simp] theorem State.setQueue_pending (i : Nat) (x : QueueSt) : (s.setQueue i x).pending = s.pending := rfl
@[simp] theorem State.setQueue_regs (i : Nat) (x : QueueSt) : (s.setQueue i x).regs = s.regs := rfl
@[simp] theorem State.setQueue_mem (i : Nat) (x : QueueSt) : (s.setQueue i x).mem = s.mem := rfl
@[simp] theorem State.setQueue_cores (i : Nat) (x : QueueSt) : (s.setQueue i x).cores = s.cores := rfl
@[simp] theorem State.setQueue_spares (i : Nat) (x : QueueSt) : (s.setQueue i x).spares = s.spares := rfl
@[simp] theorem State.setQueue_kernels (i : Nat) (x : QueueSt) : (s.setQueue i x).kernels = s.kernels := rfl
@[simp] theorem State.setQueue_blocks (i : Nat) (x : QueueSt) : (s.setQueue i x).blocks = s.blocks := rfl
@[simp] theorem State.setQueue_routers (i : Nat) (x : QueueSt) : (s.setQueue i x).routers = s.routers := rfl
@[simp] theorem State.setQueue_streams (i : Nat) (x : QueueSt) : (s.setQueue i x).streams = s.streams := rfl
@[simp] theorem State.setQueue_draining (i : Nat) (x : QueueSt) : (s.setQueue i x).draining = s.draining := rfl
@[simp] theorem State.setQueue_slotServed (i : Nat) (x : QueueSt) : (s.setQueue i x).slotServed = s.slotServed := rfl
@[simp] theorem State.setQueue_pcc (i : Nat) (x : QueueSt) : (s.setQueue i x).pcc = s.pcc := rfl
@[simp] theorem State.setQueue_stalledBy (i : Nat) (x : QueueSt) : (s.setQueue i x).stalledBy = s.stalledBy := rfl
@[simp] theorem State.setQueue_inSeq (i : Nat) (x : QueueSt) : (s.setQueue i x).inSeq = s.inSeq := rfl
@[simp] theorem State.setQueue_chans (i : Nat) (x : QueueSt) : (s.setQueue i x).chans = s.chans := rfl
@[simp] theorem State.setQueue_lastGrant (i : Nat) (x : QueueSt) : (s.setQueue i x).lastGrant = s.lastGrant := rfl
@[simp] theorem State.setQueue_binders (i : Nat) (x : QueueSt) : (s.setQueue i x).binders = s.binders := rfl
@[simp] theorem State.setQueue_bops (i : Nat) (x : QueueSt) : (s.setQueue i x).bops = s.bops := rfl
@[simp] theorem State.setQueue_inq (i : Nat) (x : QueueSt) : (s.setQueue i x).inq = s.inq := rfl
@[simp] theorem State.setQueue_links (i : Nat) (x : QueueSt) : (s.setQueue i x).links = s.links := rfl
@[simp] theorem State.setQueue_tags (i : Nat) (x : QueueSt) : (s.setQueue i x).tags = s.tags := rfl
@[simp] theorem State.setQueue_lastTag (i : Nat) (x : QueueSt) : (s.setQueue i x).lastTag = s.lastTag := rfl
@[simp] theorem State.setQueue_bells (i : Nat) (x : QueueSt) : (s.setQueue i x).bells = s.bells := rfl
@[simp] theorem State.setQueue_log (i : Nat) (x : QueueSt) : (s.setQueue i x).log = s.log := rfl
@[simp] theorem State.setQueue_session (i : Nat) (x : QueueSt) : (s.setQueue i x).session = s.session := rfl
@[simp] theorem State.setQueue_dieback (i : Nat) (x : QueueSt) : (s.setQueue i x).dieback = s.dieback := rfl
@[simp] theorem State.setQueue_rails (i : Nat) (x : QueueSt) : (s.setQueue i x).rails = s.rails := rfl
@[simp] theorem State.setQueue_clocksOff (i : Nat) (x : QueueSt) : (s.setQueue i x).clocksOff = s.clocksOff := rfl
@[simp] theorem State.setQueue_txIdle (i : Nat) (x : QueueSt) : (s.setQueue i x).txIdle = s.txIdle := rfl
@[simp] theorem State.setQueue_hostClock (i : Nat) (x : QueueSt) : (s.setQueue i x).hostClock = s.hostClock := rfl
@[simp] theorem State.setQueue_hostClockAt (i : Nat) (x : QueueSt) : (s.setQueue i x).hostClockAt = s.hostClockAt := rfl
@[simp] theorem State.setQueue_fuses (i : Nat) (x : QueueSt) : (s.setQueue i x).fuses = s.fuses := rfl
@[simp] theorem State.setQueue_pwrgd (i : Nat) (x : QueueSt) : (s.setQueue i x).pwrgd = s.pwrgd := rfl
@[simp] theorem State.setQueue_perst (i : Nat) (x : QueueSt) : (s.setQueue i x).perst = s.perst := rfl
@[simp] theorem State.setQueue_tripped (i : Nat) (x : QueueSt) : (s.setQueue i x).tripped = s.tripped := rfl
@[simp] theorem State.setQueue_refclk (i : Nat) (x : QueueSt) : (s.setQueue i x).refclk = s.refclk := rfl
@[simp] theorem State.setQueue_hold22 (i : Nat) (x : QueueSt) : (s.setQueue i x).hold22 = s.hold22 := rfl
@[simp] theorem State.setQueue_s0Over (i : Nat) (x : QueueSt) : (s.setQueue i x).s0Over = s.s0Over := rfl
@[simp] theorem State.setQueue_stageStart (i : Nat) (x : QueueSt) : (s.setQueue i x).stageStart = s.stageStart := rfl
@[simp] theorem State.setQueue_losses (i : Nat) (x : QueueSt) : (s.setQueue i x).losses = s.losses := rfl
@[simp] theorem State.setQueue_fuseBad (i : Nat) (x : QueueSt) : (s.setQueue i x).fuseBad = s.fuseBad := rfl
@[simp] theorem State.setQueue_selfCheckOk (i : Nat) (x : QueueSt) : (s.setQueue i x).selfCheckOk = s.selfCheckOk := rfl
@[simp] theorem State.setQueue_latchedFrom (i : Nat) (x : QueueSt) : (s.setQueue i x).latchedFrom = s.latchedFrom := rfl
@[simp] theorem State.setQueue_lastCode (i : Nat) (x : QueueSt) : (s.setQueue i x).lastCode = s.lastCode := rfl
@[simp] theorem State.setQueue_abandoned (i : Nat) (x : QueueSt) : (s.setQueue i x).abandoned = s.abandoned := rfl
@[simp] theorem State.setQueue_wordSeen (i : Nat) (x : QueueSt) : (s.setQueue i x).wordSeen = s.wordSeen := rfl
@[simp] theorem State.setQueue_qualifying (i : Nat) (x : QueueSt) : (s.setQueue i x).qualifying = s.qualifying := rfl
@[simp] theorem State.setQueue_upAtReady (i : Nat) (x : QueueSt) : (s.setQueue i x).upAtReady = s.upAtReady := rfl
@[simp] theorem State.setQueue_keys (i : Nat) (x : QueueSt) : (s.setQueue i x).keys = s.keys := rfl
@[simp] theorem State.setQueue_transfers (i : Nat) (x : QueueSt) : (s.setQueue i x).transfers = s.transfers := rfl
@[simp] theorem State.setQueue_firmware (i : Nat) (x : QueueSt) : (s.setQueue i x).firmware = s.firmware := rfl
@[simp] theorem State.setQueue_microcode (i : Nat) (x : QueueSt) : (s.setQueue i x).microcode = s.microcode := rfl
@[simp] theorem State.setQueue_blobIn (i : Nat) (x : QueueSt) : (s.setQueue i x).blobIn = s.blobIn := rfl
@[simp] theorem State.setQueue_blobOp (i : Nat) (x : QueueSt) : (s.setQueue i x).blobOp = s.blobOp := rfl
@[simp] theorem State.setQueue_restored (i : Nat) (x : QueueSt) : (s.setQueue i x).restored = s.restored := rfl
@[simp] theorem State.setQueue_snapshot (i : Nat) (x : QueueSt) : (s.setQueue i x).snapshot = s.snapshot := rfl
@[simp] theorem State.setQueue_savedAt (i : Nat) (x : QueueSt) : (s.setQueue i x).savedAt = s.savedAt := rfl
@[simp] theorem State.setQueue_memRecord (i : Nat) (x : QueueSt) : (s.setQueue i x).memRecord = s.memRecord := rfl
@[simp] theorem State.setQueue_memRun (i : Nat) (x : QueueSt) : (s.setQueue i x).memRun = s.memRun := rfl
@[simp] theorem State.setQueue_packageBytes (i : Nat) (x : QueueSt) : (s.setQueue i x).packageBytes = s.packageBytes := rfl
@[simp] theorem State.setQueue_pctl (i : Nat) (x : QueueSt) : (s.setQueue i x).pctl = s.pctl := rfl
@[simp] theorem State.setQueue_calItems (i : Nat) (x : QueueSt) : (s.setQueue i x).calItems = s.calItems := rfl
@[simp] theorem State.setQueue_calActive (i : Nat) (x : QueueSt) : (s.setQueue i x).calActive = s.calActive := rfl
@[simp] theorem State.setQueue_attest (i : Nat) (x : QueueSt) : (s.setQueue i x).attest = s.attest := rfl
@[simp] theorem State.setQueue_bist (i : Nat) (x : QueueSt) : (s.setQueue i x).bist = s.bist := rfl
@[simp] theorem State.setQueue_sleepPoint (i : Nat) (x : QueueSt) : (s.setQueue i x).sleepPoint = s.sleepPoint := rfl
@[simp] theorem State.setQueue_sleepAt (i : Nat) (x : QueueSt) : (s.setQueue i x).sleepAt = s.sleepAt := rfl
@[simp] theorem State.setQueue_dieOp (i : Nat) (x : QueueSt) : (s.setQueue i x).dieOp = s.dieOp := rfl
@[simp] theorem State.setQueue_dieWakeAfter (i : Nat) (x : QueueSt) : (s.setQueue i x).dieWakeAfter = s.dieWakeAfter := rfl
@[simp] theorem State.setQueue_tapOut (i : Nat) (x : QueueSt) : (s.setQueue i x).tapOut = s.tapOut := rfl
@[simp] theorem State.setQueue_tapCells (i : Nat) (x : QueueSt) : (s.setQueue i x).tapCells = s.tapCells := rfl
@[simp] theorem State.setQueue_tapDrive (i : Nat) (x : QueueSt) : (s.setQueue i x).tapDrive = s.tapDrive := rfl
@[simp] theorem State.setQueue_commits (i : Nat) (x : QueueSt) : (s.setQueue i x).commits = s.commits := rfl
@[simp] theorem State.setQueue_advanceRefused (i : Nat) (x : QueueSt) : (s.setQueue i x).advanceRefused = s.advanceRefused := rfl
@[simp] theorem State.setQueue_wdogAt (i : Nat) (x : QueueSt) : (s.setQueue i x).wdogAt = s.wdogAt := rfl
@[simp] theorem State.setQueue_hold (i : Nat) (x : QueueSt) : (s.setQueue i x).hold = s.hold := rfl
@[simp] theorem State.setQueue_readData (i : Nat) (x : QueueSt) : (s.setQueue i x).readData = s.readData := rfl
@[simp] theorem State.setQueue_time (i : Nat) (x : QueueSt) : (s.setQueue i x).time = s.time := rfl
@[simp] theorem State.setQueue_fresh (i : Nat) (x : QueueSt) : (s.setQueue i x).fresh = s.fresh := rfl

/-! ### setChan -/

@[simp] theorem State.setChan_pending (i : Nat) (x : ChanSt) : (s.setChan i x).pending = s.pending := rfl
@[simp] theorem State.setChan_regs (i : Nat) (x : ChanSt) : (s.setChan i x).regs = s.regs := rfl
@[simp] theorem State.setChan_mem (i : Nat) (x : ChanSt) : (s.setChan i x).mem = s.mem := rfl
@[simp] theorem State.setChan_cores (i : Nat) (x : ChanSt) : (s.setChan i x).cores = s.cores := rfl
@[simp] theorem State.setChan_spares (i : Nat) (x : ChanSt) : (s.setChan i x).spares = s.spares := rfl
@[simp] theorem State.setChan_kernels (i : Nat) (x : ChanSt) : (s.setChan i x).kernels = s.kernels := rfl
@[simp] theorem State.setChan_blocks (i : Nat) (x : ChanSt) : (s.setChan i x).blocks = s.blocks := rfl
@[simp] theorem State.setChan_routers (i : Nat) (x : ChanSt) : (s.setChan i x).routers = s.routers := rfl
@[simp] theorem State.setChan_streams (i : Nat) (x : ChanSt) : (s.setChan i x).streams = s.streams := rfl
@[simp] theorem State.setChan_draining (i : Nat) (x : ChanSt) : (s.setChan i x).draining = s.draining := rfl
@[simp] theorem State.setChan_slotServed (i : Nat) (x : ChanSt) : (s.setChan i x).slotServed = s.slotServed := rfl
@[simp] theorem State.setChan_pcc (i : Nat) (x : ChanSt) : (s.setChan i x).pcc = s.pcc := rfl
@[simp] theorem State.setChan_stalledBy (i : Nat) (x : ChanSt) : (s.setChan i x).stalledBy = s.stalledBy := rfl
@[simp] theorem State.setChan_inSeq (i : Nat) (x : ChanSt) : (s.setChan i x).inSeq = s.inSeq := rfl
@[simp] theorem State.setChan_queues (i : Nat) (x : ChanSt) : (s.setChan i x).queues = s.queues := rfl
@[simp] theorem State.setChan_lastGrant (i : Nat) (x : ChanSt) : (s.setChan i x).lastGrant = s.lastGrant := rfl
@[simp] theorem State.setChan_binders (i : Nat) (x : ChanSt) : (s.setChan i x).binders = s.binders := rfl
@[simp] theorem State.setChan_bops (i : Nat) (x : ChanSt) : (s.setChan i x).bops = s.bops := rfl
@[simp] theorem State.setChan_inq (i : Nat) (x : ChanSt) : (s.setChan i x).inq = s.inq := rfl
@[simp] theorem State.setChan_links (i : Nat) (x : ChanSt) : (s.setChan i x).links = s.links := rfl
@[simp] theorem State.setChan_tags (i : Nat) (x : ChanSt) : (s.setChan i x).tags = s.tags := rfl
@[simp] theorem State.setChan_lastTag (i : Nat) (x : ChanSt) : (s.setChan i x).lastTag = s.lastTag := rfl
@[simp] theorem State.setChan_bells (i : Nat) (x : ChanSt) : (s.setChan i x).bells = s.bells := rfl
@[simp] theorem State.setChan_log (i : Nat) (x : ChanSt) : (s.setChan i x).log = s.log := rfl
@[simp] theorem State.setChan_session (i : Nat) (x : ChanSt) : (s.setChan i x).session = s.session := rfl
@[simp] theorem State.setChan_dieback (i : Nat) (x : ChanSt) : (s.setChan i x).dieback = s.dieback := rfl
@[simp] theorem State.setChan_rails (i : Nat) (x : ChanSt) : (s.setChan i x).rails = s.rails := rfl
@[simp] theorem State.setChan_clocksOff (i : Nat) (x : ChanSt) : (s.setChan i x).clocksOff = s.clocksOff := rfl
@[simp] theorem State.setChan_txIdle (i : Nat) (x : ChanSt) : (s.setChan i x).txIdle = s.txIdle := rfl
@[simp] theorem State.setChan_hostClock (i : Nat) (x : ChanSt) : (s.setChan i x).hostClock = s.hostClock := rfl
@[simp] theorem State.setChan_hostClockAt (i : Nat) (x : ChanSt) : (s.setChan i x).hostClockAt = s.hostClockAt := rfl
@[simp] theorem State.setChan_fuses (i : Nat) (x : ChanSt) : (s.setChan i x).fuses = s.fuses := rfl
@[simp] theorem State.setChan_pwrgd (i : Nat) (x : ChanSt) : (s.setChan i x).pwrgd = s.pwrgd := rfl
@[simp] theorem State.setChan_perst (i : Nat) (x : ChanSt) : (s.setChan i x).perst = s.perst := rfl
@[simp] theorem State.setChan_tripped (i : Nat) (x : ChanSt) : (s.setChan i x).tripped = s.tripped := rfl
@[simp] theorem State.setChan_refclk (i : Nat) (x : ChanSt) : (s.setChan i x).refclk = s.refclk := rfl
@[simp] theorem State.setChan_hold22 (i : Nat) (x : ChanSt) : (s.setChan i x).hold22 = s.hold22 := rfl
@[simp] theorem State.setChan_s0Over (i : Nat) (x : ChanSt) : (s.setChan i x).s0Over = s.s0Over := rfl
@[simp] theorem State.setChan_stageStart (i : Nat) (x : ChanSt) : (s.setChan i x).stageStart = s.stageStart := rfl
@[simp] theorem State.setChan_losses (i : Nat) (x : ChanSt) : (s.setChan i x).losses = s.losses := rfl
@[simp] theorem State.setChan_fuseBad (i : Nat) (x : ChanSt) : (s.setChan i x).fuseBad = s.fuseBad := rfl
@[simp] theorem State.setChan_selfCheckOk (i : Nat) (x : ChanSt) : (s.setChan i x).selfCheckOk = s.selfCheckOk := rfl
@[simp] theorem State.setChan_latchedFrom (i : Nat) (x : ChanSt) : (s.setChan i x).latchedFrom = s.latchedFrom := rfl
@[simp] theorem State.setChan_lastCode (i : Nat) (x : ChanSt) : (s.setChan i x).lastCode = s.lastCode := rfl
@[simp] theorem State.setChan_abandoned (i : Nat) (x : ChanSt) : (s.setChan i x).abandoned = s.abandoned := rfl
@[simp] theorem State.setChan_wordSeen (i : Nat) (x : ChanSt) : (s.setChan i x).wordSeen = s.wordSeen := rfl
@[simp] theorem State.setChan_qualifying (i : Nat) (x : ChanSt) : (s.setChan i x).qualifying = s.qualifying := rfl
@[simp] theorem State.setChan_upAtReady (i : Nat) (x : ChanSt) : (s.setChan i x).upAtReady = s.upAtReady := rfl
@[simp] theorem State.setChan_keys (i : Nat) (x : ChanSt) : (s.setChan i x).keys = s.keys := rfl
@[simp] theorem State.setChan_transfers (i : Nat) (x : ChanSt) : (s.setChan i x).transfers = s.transfers := rfl
@[simp] theorem State.setChan_firmware (i : Nat) (x : ChanSt) : (s.setChan i x).firmware = s.firmware := rfl
@[simp] theorem State.setChan_microcode (i : Nat) (x : ChanSt) : (s.setChan i x).microcode = s.microcode := rfl
@[simp] theorem State.setChan_blobIn (i : Nat) (x : ChanSt) : (s.setChan i x).blobIn = s.blobIn := rfl
@[simp] theorem State.setChan_blobOp (i : Nat) (x : ChanSt) : (s.setChan i x).blobOp = s.blobOp := rfl
@[simp] theorem State.setChan_restored (i : Nat) (x : ChanSt) : (s.setChan i x).restored = s.restored := rfl
@[simp] theorem State.setChan_snapshot (i : Nat) (x : ChanSt) : (s.setChan i x).snapshot = s.snapshot := rfl
@[simp] theorem State.setChan_savedAt (i : Nat) (x : ChanSt) : (s.setChan i x).savedAt = s.savedAt := rfl
@[simp] theorem State.setChan_memRecord (i : Nat) (x : ChanSt) : (s.setChan i x).memRecord = s.memRecord := rfl
@[simp] theorem State.setChan_memRun (i : Nat) (x : ChanSt) : (s.setChan i x).memRun = s.memRun := rfl
@[simp] theorem State.setChan_packageBytes (i : Nat) (x : ChanSt) : (s.setChan i x).packageBytes = s.packageBytes := rfl
@[simp] theorem State.setChan_pctl (i : Nat) (x : ChanSt) : (s.setChan i x).pctl = s.pctl := rfl
@[simp] theorem State.setChan_calItems (i : Nat) (x : ChanSt) : (s.setChan i x).calItems = s.calItems := rfl
@[simp] theorem State.setChan_calActive (i : Nat) (x : ChanSt) : (s.setChan i x).calActive = s.calActive := rfl
@[simp] theorem State.setChan_attest (i : Nat) (x : ChanSt) : (s.setChan i x).attest = s.attest := rfl
@[simp] theorem State.setChan_bist (i : Nat) (x : ChanSt) : (s.setChan i x).bist = s.bist := rfl
@[simp] theorem State.setChan_sleepPoint (i : Nat) (x : ChanSt) : (s.setChan i x).sleepPoint = s.sleepPoint := rfl
@[simp] theorem State.setChan_sleepAt (i : Nat) (x : ChanSt) : (s.setChan i x).sleepAt = s.sleepAt := rfl
@[simp] theorem State.setChan_dieOp (i : Nat) (x : ChanSt) : (s.setChan i x).dieOp = s.dieOp := rfl
@[simp] theorem State.setChan_dieWakeAfter (i : Nat) (x : ChanSt) : (s.setChan i x).dieWakeAfter = s.dieWakeAfter := rfl
@[simp] theorem State.setChan_tapOut (i : Nat) (x : ChanSt) : (s.setChan i x).tapOut = s.tapOut := rfl
@[simp] theorem State.setChan_tapCells (i : Nat) (x : ChanSt) : (s.setChan i x).tapCells = s.tapCells := rfl
@[simp] theorem State.setChan_tapDrive (i : Nat) (x : ChanSt) : (s.setChan i x).tapDrive = s.tapDrive := rfl
@[simp] theorem State.setChan_commits (i : Nat) (x : ChanSt) : (s.setChan i x).commits = s.commits := rfl
@[simp] theorem State.setChan_advanceRefused (i : Nat) (x : ChanSt) : (s.setChan i x).advanceRefused = s.advanceRefused := rfl
@[simp] theorem State.setChan_wdogAt (i : Nat) (x : ChanSt) : (s.setChan i x).wdogAt = s.wdogAt := rfl
@[simp] theorem State.setChan_hold (i : Nat) (x : ChanSt) : (s.setChan i x).hold = s.hold := rfl
@[simp] theorem State.setChan_readData (i : Nat) (x : ChanSt) : (s.setChan i x).readData = s.readData := rfl
@[simp] theorem State.setChan_time (i : Nat) (x : ChanSt) : (s.setChan i x).time = s.time := rfl
@[simp] theorem State.setChan_fresh (i : Nat) (x : ChanSt) : (s.setChan i x).fresh = s.fresh := rfl

/-! ### setBinder -/

@[simp] theorem State.setBinder_pending (i : Nat) (x : BinderSt) : (s.setBinder i x).pending = s.pending := rfl
@[simp] theorem State.setBinder_regs (i : Nat) (x : BinderSt) : (s.setBinder i x).regs = s.regs := rfl
@[simp] theorem State.setBinder_mem (i : Nat) (x : BinderSt) : (s.setBinder i x).mem = s.mem := rfl
@[simp] theorem State.setBinder_cores (i : Nat) (x : BinderSt) : (s.setBinder i x).cores = s.cores := rfl
@[simp] theorem State.setBinder_spares (i : Nat) (x : BinderSt) : (s.setBinder i x).spares = s.spares := rfl
@[simp] theorem State.setBinder_kernels (i : Nat) (x : BinderSt) : (s.setBinder i x).kernels = s.kernels := rfl
@[simp] theorem State.setBinder_blocks (i : Nat) (x : BinderSt) : (s.setBinder i x).blocks = s.blocks := rfl
@[simp] theorem State.setBinder_routers (i : Nat) (x : BinderSt) : (s.setBinder i x).routers = s.routers := rfl
@[simp] theorem State.setBinder_streams (i : Nat) (x : BinderSt) : (s.setBinder i x).streams = s.streams := rfl
@[simp] theorem State.setBinder_draining (i : Nat) (x : BinderSt) : (s.setBinder i x).draining = s.draining := rfl
@[simp] theorem State.setBinder_slotServed (i : Nat) (x : BinderSt) : (s.setBinder i x).slotServed = s.slotServed := rfl
@[simp] theorem State.setBinder_pcc (i : Nat) (x : BinderSt) : (s.setBinder i x).pcc = s.pcc := rfl
@[simp] theorem State.setBinder_stalledBy (i : Nat) (x : BinderSt) : (s.setBinder i x).stalledBy = s.stalledBy := rfl
@[simp] theorem State.setBinder_inSeq (i : Nat) (x : BinderSt) : (s.setBinder i x).inSeq = s.inSeq := rfl
@[simp] theorem State.setBinder_queues (i : Nat) (x : BinderSt) : (s.setBinder i x).queues = s.queues := rfl
@[simp] theorem State.setBinder_chans (i : Nat) (x : BinderSt) : (s.setBinder i x).chans = s.chans := rfl
@[simp] theorem State.setBinder_lastGrant (i : Nat) (x : BinderSt) : (s.setBinder i x).lastGrant = s.lastGrant := rfl
@[simp] theorem State.setBinder_bops (i : Nat) (x : BinderSt) : (s.setBinder i x).bops = s.bops := rfl
@[simp] theorem State.setBinder_inq (i : Nat) (x : BinderSt) : (s.setBinder i x).inq = s.inq := rfl
@[simp] theorem State.setBinder_links (i : Nat) (x : BinderSt) : (s.setBinder i x).links = s.links := rfl
@[simp] theorem State.setBinder_tags (i : Nat) (x : BinderSt) : (s.setBinder i x).tags = s.tags := rfl
@[simp] theorem State.setBinder_lastTag (i : Nat) (x : BinderSt) : (s.setBinder i x).lastTag = s.lastTag := rfl
@[simp] theorem State.setBinder_bells (i : Nat) (x : BinderSt) : (s.setBinder i x).bells = s.bells := rfl
@[simp] theorem State.setBinder_log (i : Nat) (x : BinderSt) : (s.setBinder i x).log = s.log := rfl
@[simp] theorem State.setBinder_session (i : Nat) (x : BinderSt) : (s.setBinder i x).session = s.session := rfl
@[simp] theorem State.setBinder_dieback (i : Nat) (x : BinderSt) : (s.setBinder i x).dieback = s.dieback := rfl
@[simp] theorem State.setBinder_rails (i : Nat) (x : BinderSt) : (s.setBinder i x).rails = s.rails := rfl
@[simp] theorem State.setBinder_clocksOff (i : Nat) (x : BinderSt) : (s.setBinder i x).clocksOff = s.clocksOff := rfl
@[simp] theorem State.setBinder_txIdle (i : Nat) (x : BinderSt) : (s.setBinder i x).txIdle = s.txIdle := rfl
@[simp] theorem State.setBinder_hostClock (i : Nat) (x : BinderSt) : (s.setBinder i x).hostClock = s.hostClock := rfl
@[simp] theorem State.setBinder_hostClockAt (i : Nat) (x : BinderSt) : (s.setBinder i x).hostClockAt = s.hostClockAt := rfl
@[simp] theorem State.setBinder_fuses (i : Nat) (x : BinderSt) : (s.setBinder i x).fuses = s.fuses := rfl
@[simp] theorem State.setBinder_pwrgd (i : Nat) (x : BinderSt) : (s.setBinder i x).pwrgd = s.pwrgd := rfl
@[simp] theorem State.setBinder_perst (i : Nat) (x : BinderSt) : (s.setBinder i x).perst = s.perst := rfl
@[simp] theorem State.setBinder_tripped (i : Nat) (x : BinderSt) : (s.setBinder i x).tripped = s.tripped := rfl
@[simp] theorem State.setBinder_refclk (i : Nat) (x : BinderSt) : (s.setBinder i x).refclk = s.refclk := rfl
@[simp] theorem State.setBinder_hold22 (i : Nat) (x : BinderSt) : (s.setBinder i x).hold22 = s.hold22 := rfl
@[simp] theorem State.setBinder_s0Over (i : Nat) (x : BinderSt) : (s.setBinder i x).s0Over = s.s0Over := rfl
@[simp] theorem State.setBinder_stageStart (i : Nat) (x : BinderSt) : (s.setBinder i x).stageStart = s.stageStart := rfl
@[simp] theorem State.setBinder_losses (i : Nat) (x : BinderSt) : (s.setBinder i x).losses = s.losses := rfl
@[simp] theorem State.setBinder_fuseBad (i : Nat) (x : BinderSt) : (s.setBinder i x).fuseBad = s.fuseBad := rfl
@[simp] theorem State.setBinder_selfCheckOk (i : Nat) (x : BinderSt) : (s.setBinder i x).selfCheckOk = s.selfCheckOk := rfl
@[simp] theorem State.setBinder_latchedFrom (i : Nat) (x : BinderSt) : (s.setBinder i x).latchedFrom = s.latchedFrom := rfl
@[simp] theorem State.setBinder_lastCode (i : Nat) (x : BinderSt) : (s.setBinder i x).lastCode = s.lastCode := rfl
@[simp] theorem State.setBinder_abandoned (i : Nat) (x : BinderSt) : (s.setBinder i x).abandoned = s.abandoned := rfl
@[simp] theorem State.setBinder_wordSeen (i : Nat) (x : BinderSt) : (s.setBinder i x).wordSeen = s.wordSeen := rfl
@[simp] theorem State.setBinder_qualifying (i : Nat) (x : BinderSt) : (s.setBinder i x).qualifying = s.qualifying := rfl
@[simp] theorem State.setBinder_upAtReady (i : Nat) (x : BinderSt) : (s.setBinder i x).upAtReady = s.upAtReady := rfl
@[simp] theorem State.setBinder_keys (i : Nat) (x : BinderSt) : (s.setBinder i x).keys = s.keys := rfl
@[simp] theorem State.setBinder_transfers (i : Nat) (x : BinderSt) : (s.setBinder i x).transfers = s.transfers := rfl
@[simp] theorem State.setBinder_firmware (i : Nat) (x : BinderSt) : (s.setBinder i x).firmware = s.firmware := rfl
@[simp] theorem State.setBinder_microcode (i : Nat) (x : BinderSt) : (s.setBinder i x).microcode = s.microcode := rfl
@[simp] theorem State.setBinder_blobIn (i : Nat) (x : BinderSt) : (s.setBinder i x).blobIn = s.blobIn := rfl
@[simp] theorem State.setBinder_blobOp (i : Nat) (x : BinderSt) : (s.setBinder i x).blobOp = s.blobOp := rfl
@[simp] theorem State.setBinder_restored (i : Nat) (x : BinderSt) : (s.setBinder i x).restored = s.restored := rfl
@[simp] theorem State.setBinder_snapshot (i : Nat) (x : BinderSt) : (s.setBinder i x).snapshot = s.snapshot := rfl
@[simp] theorem State.setBinder_savedAt (i : Nat) (x : BinderSt) : (s.setBinder i x).savedAt = s.savedAt := rfl
@[simp] theorem State.setBinder_memRecord (i : Nat) (x : BinderSt) : (s.setBinder i x).memRecord = s.memRecord := rfl
@[simp] theorem State.setBinder_memRun (i : Nat) (x : BinderSt) : (s.setBinder i x).memRun = s.memRun := rfl
@[simp] theorem State.setBinder_packageBytes (i : Nat) (x : BinderSt) : (s.setBinder i x).packageBytes = s.packageBytes := rfl
@[simp] theorem State.setBinder_pctl (i : Nat) (x : BinderSt) : (s.setBinder i x).pctl = s.pctl := rfl
@[simp] theorem State.setBinder_calItems (i : Nat) (x : BinderSt) : (s.setBinder i x).calItems = s.calItems := rfl
@[simp] theorem State.setBinder_calActive (i : Nat) (x : BinderSt) : (s.setBinder i x).calActive = s.calActive := rfl
@[simp] theorem State.setBinder_attest (i : Nat) (x : BinderSt) : (s.setBinder i x).attest = s.attest := rfl
@[simp] theorem State.setBinder_bist (i : Nat) (x : BinderSt) : (s.setBinder i x).bist = s.bist := rfl
@[simp] theorem State.setBinder_sleepPoint (i : Nat) (x : BinderSt) : (s.setBinder i x).sleepPoint = s.sleepPoint := rfl
@[simp] theorem State.setBinder_sleepAt (i : Nat) (x : BinderSt) : (s.setBinder i x).sleepAt = s.sleepAt := rfl
@[simp] theorem State.setBinder_dieOp (i : Nat) (x : BinderSt) : (s.setBinder i x).dieOp = s.dieOp := rfl
@[simp] theorem State.setBinder_dieWakeAfter (i : Nat) (x : BinderSt) : (s.setBinder i x).dieWakeAfter = s.dieWakeAfter := rfl
@[simp] theorem State.setBinder_tapOut (i : Nat) (x : BinderSt) : (s.setBinder i x).tapOut = s.tapOut := rfl
@[simp] theorem State.setBinder_tapCells (i : Nat) (x : BinderSt) : (s.setBinder i x).tapCells = s.tapCells := rfl
@[simp] theorem State.setBinder_tapDrive (i : Nat) (x : BinderSt) : (s.setBinder i x).tapDrive = s.tapDrive := rfl
@[simp] theorem State.setBinder_commits (i : Nat) (x : BinderSt) : (s.setBinder i x).commits = s.commits := rfl
@[simp] theorem State.setBinder_advanceRefused (i : Nat) (x : BinderSt) : (s.setBinder i x).advanceRefused = s.advanceRefused := rfl
@[simp] theorem State.setBinder_wdogAt (i : Nat) (x : BinderSt) : (s.setBinder i x).wdogAt = s.wdogAt := rfl
@[simp] theorem State.setBinder_hold (i : Nat) (x : BinderSt) : (s.setBinder i x).hold = s.hold := rfl
@[simp] theorem State.setBinder_readData (i : Nat) (x : BinderSt) : (s.setBinder i x).readData = s.readData := rfl
@[simp] theorem State.setBinder_time (i : Nat) (x : BinderSt) : (s.setBinder i x).time = s.time := rfl
@[simp] theorem State.setBinder_fresh (i : Nat) (x : BinderSt) : (s.setBinder i x).fresh = s.fresh := rfl

/-! ### setLink -/

@[simp] theorem State.setLink_pending (i : Nat) (x : LinkSt) : (s.setLink i x).pending = s.pending := rfl
@[simp] theorem State.setLink_regs (i : Nat) (x : LinkSt) : (s.setLink i x).regs = s.regs := rfl
@[simp] theorem State.setLink_mem (i : Nat) (x : LinkSt) : (s.setLink i x).mem = s.mem := rfl
@[simp] theorem State.setLink_cores (i : Nat) (x : LinkSt) : (s.setLink i x).cores = s.cores := rfl
@[simp] theorem State.setLink_spares (i : Nat) (x : LinkSt) : (s.setLink i x).spares = s.spares := rfl
@[simp] theorem State.setLink_kernels (i : Nat) (x : LinkSt) : (s.setLink i x).kernels = s.kernels := rfl
@[simp] theorem State.setLink_blocks (i : Nat) (x : LinkSt) : (s.setLink i x).blocks = s.blocks := rfl
@[simp] theorem State.setLink_routers (i : Nat) (x : LinkSt) : (s.setLink i x).routers = s.routers := rfl
@[simp] theorem State.setLink_streams (i : Nat) (x : LinkSt) : (s.setLink i x).streams = s.streams := rfl
@[simp] theorem State.setLink_draining (i : Nat) (x : LinkSt) : (s.setLink i x).draining = s.draining := rfl
@[simp] theorem State.setLink_slotServed (i : Nat) (x : LinkSt) : (s.setLink i x).slotServed = s.slotServed := rfl
@[simp] theorem State.setLink_pcc (i : Nat) (x : LinkSt) : (s.setLink i x).pcc = s.pcc := rfl
@[simp] theorem State.setLink_stalledBy (i : Nat) (x : LinkSt) : (s.setLink i x).stalledBy = s.stalledBy := rfl
@[simp] theorem State.setLink_inSeq (i : Nat) (x : LinkSt) : (s.setLink i x).inSeq = s.inSeq := rfl
@[simp] theorem State.setLink_queues (i : Nat) (x : LinkSt) : (s.setLink i x).queues = s.queues := rfl
@[simp] theorem State.setLink_chans (i : Nat) (x : LinkSt) : (s.setLink i x).chans = s.chans := rfl
@[simp] theorem State.setLink_lastGrant (i : Nat) (x : LinkSt) : (s.setLink i x).lastGrant = s.lastGrant := rfl
@[simp] theorem State.setLink_binders (i : Nat) (x : LinkSt) : (s.setLink i x).binders = s.binders := rfl
@[simp] theorem State.setLink_bops (i : Nat) (x : LinkSt) : (s.setLink i x).bops = s.bops := rfl
@[simp] theorem State.setLink_inq (i : Nat) (x : LinkSt) : (s.setLink i x).inq = s.inq := rfl
@[simp] theorem State.setLink_tags (i : Nat) (x : LinkSt) : (s.setLink i x).tags = s.tags := rfl
@[simp] theorem State.setLink_lastTag (i : Nat) (x : LinkSt) : (s.setLink i x).lastTag = s.lastTag := rfl
@[simp] theorem State.setLink_bells (i : Nat) (x : LinkSt) : (s.setLink i x).bells = s.bells := rfl
@[simp] theorem State.setLink_log (i : Nat) (x : LinkSt) : (s.setLink i x).log = s.log := rfl
@[simp] theorem State.setLink_session (i : Nat) (x : LinkSt) : (s.setLink i x).session = s.session := rfl
@[simp] theorem State.setLink_dieback (i : Nat) (x : LinkSt) : (s.setLink i x).dieback = s.dieback := rfl
@[simp] theorem State.setLink_rails (i : Nat) (x : LinkSt) : (s.setLink i x).rails = s.rails := rfl
@[simp] theorem State.setLink_clocksOff (i : Nat) (x : LinkSt) : (s.setLink i x).clocksOff = s.clocksOff := rfl
@[simp] theorem State.setLink_txIdle (i : Nat) (x : LinkSt) : (s.setLink i x).txIdle = s.txIdle := rfl
@[simp] theorem State.setLink_hostClock (i : Nat) (x : LinkSt) : (s.setLink i x).hostClock = s.hostClock := rfl
@[simp] theorem State.setLink_hostClockAt (i : Nat) (x : LinkSt) : (s.setLink i x).hostClockAt = s.hostClockAt := rfl
@[simp] theorem State.setLink_fuses (i : Nat) (x : LinkSt) : (s.setLink i x).fuses = s.fuses := rfl
@[simp] theorem State.setLink_pwrgd (i : Nat) (x : LinkSt) : (s.setLink i x).pwrgd = s.pwrgd := rfl
@[simp] theorem State.setLink_perst (i : Nat) (x : LinkSt) : (s.setLink i x).perst = s.perst := rfl
@[simp] theorem State.setLink_tripped (i : Nat) (x : LinkSt) : (s.setLink i x).tripped = s.tripped := rfl
@[simp] theorem State.setLink_refclk (i : Nat) (x : LinkSt) : (s.setLink i x).refclk = s.refclk := rfl
@[simp] theorem State.setLink_hold22 (i : Nat) (x : LinkSt) : (s.setLink i x).hold22 = s.hold22 := rfl
@[simp] theorem State.setLink_s0Over (i : Nat) (x : LinkSt) : (s.setLink i x).s0Over = s.s0Over := rfl
@[simp] theorem State.setLink_stageStart (i : Nat) (x : LinkSt) : (s.setLink i x).stageStart = s.stageStart := rfl
@[simp] theorem State.setLink_losses (i : Nat) (x : LinkSt) : (s.setLink i x).losses = s.losses := rfl
@[simp] theorem State.setLink_fuseBad (i : Nat) (x : LinkSt) : (s.setLink i x).fuseBad = s.fuseBad := rfl
@[simp] theorem State.setLink_selfCheckOk (i : Nat) (x : LinkSt) : (s.setLink i x).selfCheckOk = s.selfCheckOk := rfl
@[simp] theorem State.setLink_latchedFrom (i : Nat) (x : LinkSt) : (s.setLink i x).latchedFrom = s.latchedFrom := rfl
@[simp] theorem State.setLink_lastCode (i : Nat) (x : LinkSt) : (s.setLink i x).lastCode = s.lastCode := rfl
@[simp] theorem State.setLink_abandoned (i : Nat) (x : LinkSt) : (s.setLink i x).abandoned = s.abandoned := rfl
@[simp] theorem State.setLink_wordSeen (i : Nat) (x : LinkSt) : (s.setLink i x).wordSeen = s.wordSeen := rfl
@[simp] theorem State.setLink_qualifying (i : Nat) (x : LinkSt) : (s.setLink i x).qualifying = s.qualifying := rfl
@[simp] theorem State.setLink_upAtReady (i : Nat) (x : LinkSt) : (s.setLink i x).upAtReady = s.upAtReady := rfl
@[simp] theorem State.setLink_keys (i : Nat) (x : LinkSt) : (s.setLink i x).keys = s.keys := rfl
@[simp] theorem State.setLink_transfers (i : Nat) (x : LinkSt) : (s.setLink i x).transfers = s.transfers := rfl
@[simp] theorem State.setLink_firmware (i : Nat) (x : LinkSt) : (s.setLink i x).firmware = s.firmware := rfl
@[simp] theorem State.setLink_microcode (i : Nat) (x : LinkSt) : (s.setLink i x).microcode = s.microcode := rfl
@[simp] theorem State.setLink_blobIn (i : Nat) (x : LinkSt) : (s.setLink i x).blobIn = s.blobIn := rfl
@[simp] theorem State.setLink_blobOp (i : Nat) (x : LinkSt) : (s.setLink i x).blobOp = s.blobOp := rfl
@[simp] theorem State.setLink_restored (i : Nat) (x : LinkSt) : (s.setLink i x).restored = s.restored := rfl
@[simp] theorem State.setLink_snapshot (i : Nat) (x : LinkSt) : (s.setLink i x).snapshot = s.snapshot := rfl
@[simp] theorem State.setLink_savedAt (i : Nat) (x : LinkSt) : (s.setLink i x).savedAt = s.savedAt := rfl
@[simp] theorem State.setLink_memRecord (i : Nat) (x : LinkSt) : (s.setLink i x).memRecord = s.memRecord := rfl
@[simp] theorem State.setLink_memRun (i : Nat) (x : LinkSt) : (s.setLink i x).memRun = s.memRun := rfl
@[simp] theorem State.setLink_packageBytes (i : Nat) (x : LinkSt) : (s.setLink i x).packageBytes = s.packageBytes := rfl
@[simp] theorem State.setLink_pctl (i : Nat) (x : LinkSt) : (s.setLink i x).pctl = s.pctl := rfl
@[simp] theorem State.setLink_calItems (i : Nat) (x : LinkSt) : (s.setLink i x).calItems = s.calItems := rfl
@[simp] theorem State.setLink_calActive (i : Nat) (x : LinkSt) : (s.setLink i x).calActive = s.calActive := rfl
@[simp] theorem State.setLink_attest (i : Nat) (x : LinkSt) : (s.setLink i x).attest = s.attest := rfl
@[simp] theorem State.setLink_bist (i : Nat) (x : LinkSt) : (s.setLink i x).bist = s.bist := rfl
@[simp] theorem State.setLink_sleepPoint (i : Nat) (x : LinkSt) : (s.setLink i x).sleepPoint = s.sleepPoint := rfl
@[simp] theorem State.setLink_sleepAt (i : Nat) (x : LinkSt) : (s.setLink i x).sleepAt = s.sleepAt := rfl
@[simp] theorem State.setLink_dieOp (i : Nat) (x : LinkSt) : (s.setLink i x).dieOp = s.dieOp := rfl
@[simp] theorem State.setLink_dieWakeAfter (i : Nat) (x : LinkSt) : (s.setLink i x).dieWakeAfter = s.dieWakeAfter := rfl
@[simp] theorem State.setLink_tapOut (i : Nat) (x : LinkSt) : (s.setLink i x).tapOut = s.tapOut := rfl
@[simp] theorem State.setLink_tapCells (i : Nat) (x : LinkSt) : (s.setLink i x).tapCells = s.tapCells := rfl
@[simp] theorem State.setLink_tapDrive (i : Nat) (x : LinkSt) : (s.setLink i x).tapDrive = s.tapDrive := rfl
@[simp] theorem State.setLink_commits (i : Nat) (x : LinkSt) : (s.setLink i x).commits = s.commits := rfl
@[simp] theorem State.setLink_advanceRefused (i : Nat) (x : LinkSt) : (s.setLink i x).advanceRefused = s.advanceRefused := rfl
@[simp] theorem State.setLink_wdogAt (i : Nat) (x : LinkSt) : (s.setLink i x).wdogAt = s.wdogAt := rfl
@[simp] theorem State.setLink_hold (i : Nat) (x : LinkSt) : (s.setLink i x).hold = s.hold := rfl
@[simp] theorem State.setLink_readData (i : Nat) (x : LinkSt) : (s.setLink i x).readData = s.readData := rfl
@[simp] theorem State.setLink_time (i : Nat) (x : LinkSt) : (s.setLink i x).time = s.time := rfl
@[simp] theorem State.setLink_fresh (i : Nat) (x : LinkSt) : (s.setLink i x).fresh = s.fresh := rfl

/-! ### setRouter -/

@[simp] theorem State.setRouter_pending (i : Nat) (x : RouterSt) : (s.setRouter i x).pending = s.pending := rfl
@[simp] theorem State.setRouter_regs (i : Nat) (x : RouterSt) : (s.setRouter i x).regs = s.regs := rfl
@[simp] theorem State.setRouter_mem (i : Nat) (x : RouterSt) : (s.setRouter i x).mem = s.mem := rfl
@[simp] theorem State.setRouter_cores (i : Nat) (x : RouterSt) : (s.setRouter i x).cores = s.cores := rfl
@[simp] theorem State.setRouter_spares (i : Nat) (x : RouterSt) : (s.setRouter i x).spares = s.spares := rfl
@[simp] theorem State.setRouter_kernels (i : Nat) (x : RouterSt) : (s.setRouter i x).kernels = s.kernels := rfl
@[simp] theorem State.setRouter_blocks (i : Nat) (x : RouterSt) : (s.setRouter i x).blocks = s.blocks := rfl
@[simp] theorem State.setRouter_streams (i : Nat) (x : RouterSt) : (s.setRouter i x).streams = s.streams := rfl
@[simp] theorem State.setRouter_draining (i : Nat) (x : RouterSt) : (s.setRouter i x).draining = s.draining := rfl
@[simp] theorem State.setRouter_slotServed (i : Nat) (x : RouterSt) : (s.setRouter i x).slotServed = s.slotServed := rfl
@[simp] theorem State.setRouter_pcc (i : Nat) (x : RouterSt) : (s.setRouter i x).pcc = s.pcc := rfl
@[simp] theorem State.setRouter_stalledBy (i : Nat) (x : RouterSt) : (s.setRouter i x).stalledBy = s.stalledBy := rfl
@[simp] theorem State.setRouter_inSeq (i : Nat) (x : RouterSt) : (s.setRouter i x).inSeq = s.inSeq := rfl
@[simp] theorem State.setRouter_queues (i : Nat) (x : RouterSt) : (s.setRouter i x).queues = s.queues := rfl
@[simp] theorem State.setRouter_chans (i : Nat) (x : RouterSt) : (s.setRouter i x).chans = s.chans := rfl
@[simp] theorem State.setRouter_lastGrant (i : Nat) (x : RouterSt) : (s.setRouter i x).lastGrant = s.lastGrant := rfl
@[simp] theorem State.setRouter_binders (i : Nat) (x : RouterSt) : (s.setRouter i x).binders = s.binders := rfl
@[simp] theorem State.setRouter_bops (i : Nat) (x : RouterSt) : (s.setRouter i x).bops = s.bops := rfl
@[simp] theorem State.setRouter_inq (i : Nat) (x : RouterSt) : (s.setRouter i x).inq = s.inq := rfl
@[simp] theorem State.setRouter_links (i : Nat) (x : RouterSt) : (s.setRouter i x).links = s.links := rfl
@[simp] theorem State.setRouter_tags (i : Nat) (x : RouterSt) : (s.setRouter i x).tags = s.tags := rfl
@[simp] theorem State.setRouter_lastTag (i : Nat) (x : RouterSt) : (s.setRouter i x).lastTag = s.lastTag := rfl
@[simp] theorem State.setRouter_bells (i : Nat) (x : RouterSt) : (s.setRouter i x).bells = s.bells := rfl
@[simp] theorem State.setRouter_log (i : Nat) (x : RouterSt) : (s.setRouter i x).log = s.log := rfl
@[simp] theorem State.setRouter_session (i : Nat) (x : RouterSt) : (s.setRouter i x).session = s.session := rfl
@[simp] theorem State.setRouter_dieback (i : Nat) (x : RouterSt) : (s.setRouter i x).dieback = s.dieback := rfl
@[simp] theorem State.setRouter_rails (i : Nat) (x : RouterSt) : (s.setRouter i x).rails = s.rails := rfl
@[simp] theorem State.setRouter_clocksOff (i : Nat) (x : RouterSt) : (s.setRouter i x).clocksOff = s.clocksOff := rfl
@[simp] theorem State.setRouter_txIdle (i : Nat) (x : RouterSt) : (s.setRouter i x).txIdle = s.txIdle := rfl
@[simp] theorem State.setRouter_hostClock (i : Nat) (x : RouterSt) : (s.setRouter i x).hostClock = s.hostClock := rfl
@[simp] theorem State.setRouter_hostClockAt (i : Nat) (x : RouterSt) : (s.setRouter i x).hostClockAt = s.hostClockAt := rfl
@[simp] theorem State.setRouter_fuses (i : Nat) (x : RouterSt) : (s.setRouter i x).fuses = s.fuses := rfl
@[simp] theorem State.setRouter_pwrgd (i : Nat) (x : RouterSt) : (s.setRouter i x).pwrgd = s.pwrgd := rfl
@[simp] theorem State.setRouter_perst (i : Nat) (x : RouterSt) : (s.setRouter i x).perst = s.perst := rfl
@[simp] theorem State.setRouter_tripped (i : Nat) (x : RouterSt) : (s.setRouter i x).tripped = s.tripped := rfl
@[simp] theorem State.setRouter_refclk (i : Nat) (x : RouterSt) : (s.setRouter i x).refclk = s.refclk := rfl
@[simp] theorem State.setRouter_hold22 (i : Nat) (x : RouterSt) : (s.setRouter i x).hold22 = s.hold22 := rfl
@[simp] theorem State.setRouter_s0Over (i : Nat) (x : RouterSt) : (s.setRouter i x).s0Over = s.s0Over := rfl
@[simp] theorem State.setRouter_stageStart (i : Nat) (x : RouterSt) : (s.setRouter i x).stageStart = s.stageStart := rfl
@[simp] theorem State.setRouter_losses (i : Nat) (x : RouterSt) : (s.setRouter i x).losses = s.losses := rfl
@[simp] theorem State.setRouter_fuseBad (i : Nat) (x : RouterSt) : (s.setRouter i x).fuseBad = s.fuseBad := rfl
@[simp] theorem State.setRouter_selfCheckOk (i : Nat) (x : RouterSt) : (s.setRouter i x).selfCheckOk = s.selfCheckOk := rfl
@[simp] theorem State.setRouter_latchedFrom (i : Nat) (x : RouterSt) : (s.setRouter i x).latchedFrom = s.latchedFrom := rfl
@[simp] theorem State.setRouter_lastCode (i : Nat) (x : RouterSt) : (s.setRouter i x).lastCode = s.lastCode := rfl
@[simp] theorem State.setRouter_abandoned (i : Nat) (x : RouterSt) : (s.setRouter i x).abandoned = s.abandoned := rfl
@[simp] theorem State.setRouter_wordSeen (i : Nat) (x : RouterSt) : (s.setRouter i x).wordSeen = s.wordSeen := rfl
@[simp] theorem State.setRouter_qualifying (i : Nat) (x : RouterSt) : (s.setRouter i x).qualifying = s.qualifying := rfl
@[simp] theorem State.setRouter_upAtReady (i : Nat) (x : RouterSt) : (s.setRouter i x).upAtReady = s.upAtReady := rfl
@[simp] theorem State.setRouter_keys (i : Nat) (x : RouterSt) : (s.setRouter i x).keys = s.keys := rfl
@[simp] theorem State.setRouter_transfers (i : Nat) (x : RouterSt) : (s.setRouter i x).transfers = s.transfers := rfl
@[simp] theorem State.setRouter_firmware (i : Nat) (x : RouterSt) : (s.setRouter i x).firmware = s.firmware := rfl
@[simp] theorem State.setRouter_microcode (i : Nat) (x : RouterSt) : (s.setRouter i x).microcode = s.microcode := rfl
@[simp] theorem State.setRouter_blobIn (i : Nat) (x : RouterSt) : (s.setRouter i x).blobIn = s.blobIn := rfl
@[simp] theorem State.setRouter_blobOp (i : Nat) (x : RouterSt) : (s.setRouter i x).blobOp = s.blobOp := rfl
@[simp] theorem State.setRouter_restored (i : Nat) (x : RouterSt) : (s.setRouter i x).restored = s.restored := rfl
@[simp] theorem State.setRouter_snapshot (i : Nat) (x : RouterSt) : (s.setRouter i x).snapshot = s.snapshot := rfl
@[simp] theorem State.setRouter_savedAt (i : Nat) (x : RouterSt) : (s.setRouter i x).savedAt = s.savedAt := rfl
@[simp] theorem State.setRouter_memRecord (i : Nat) (x : RouterSt) : (s.setRouter i x).memRecord = s.memRecord := rfl
@[simp] theorem State.setRouter_memRun (i : Nat) (x : RouterSt) : (s.setRouter i x).memRun = s.memRun := rfl
@[simp] theorem State.setRouter_packageBytes (i : Nat) (x : RouterSt) : (s.setRouter i x).packageBytes = s.packageBytes := rfl
@[simp] theorem State.setRouter_pctl (i : Nat) (x : RouterSt) : (s.setRouter i x).pctl = s.pctl := rfl
@[simp] theorem State.setRouter_calItems (i : Nat) (x : RouterSt) : (s.setRouter i x).calItems = s.calItems := rfl
@[simp] theorem State.setRouter_calActive (i : Nat) (x : RouterSt) : (s.setRouter i x).calActive = s.calActive := rfl
@[simp] theorem State.setRouter_attest (i : Nat) (x : RouterSt) : (s.setRouter i x).attest = s.attest := rfl
@[simp] theorem State.setRouter_bist (i : Nat) (x : RouterSt) : (s.setRouter i x).bist = s.bist := rfl
@[simp] theorem State.setRouter_sleepPoint (i : Nat) (x : RouterSt) : (s.setRouter i x).sleepPoint = s.sleepPoint := rfl
@[simp] theorem State.setRouter_sleepAt (i : Nat) (x : RouterSt) : (s.setRouter i x).sleepAt = s.sleepAt := rfl
@[simp] theorem State.setRouter_dieOp (i : Nat) (x : RouterSt) : (s.setRouter i x).dieOp = s.dieOp := rfl
@[simp] theorem State.setRouter_dieWakeAfter (i : Nat) (x : RouterSt) : (s.setRouter i x).dieWakeAfter = s.dieWakeAfter := rfl
@[simp] theorem State.setRouter_tapOut (i : Nat) (x : RouterSt) : (s.setRouter i x).tapOut = s.tapOut := rfl
@[simp] theorem State.setRouter_tapCells (i : Nat) (x : RouterSt) : (s.setRouter i x).tapCells = s.tapCells := rfl
@[simp] theorem State.setRouter_tapDrive (i : Nat) (x : RouterSt) : (s.setRouter i x).tapDrive = s.tapDrive := rfl
@[simp] theorem State.setRouter_commits (i : Nat) (x : RouterSt) : (s.setRouter i x).commits = s.commits := rfl
@[simp] theorem State.setRouter_advanceRefused (i : Nat) (x : RouterSt) : (s.setRouter i x).advanceRefused = s.advanceRefused := rfl
@[simp] theorem State.setRouter_wdogAt (i : Nat) (x : RouterSt) : (s.setRouter i x).wdogAt = s.wdogAt := rfl
@[simp] theorem State.setRouter_hold (i : Nat) (x : RouterSt) : (s.setRouter i x).hold = s.hold := rfl
@[simp] theorem State.setRouter_readData (i : Nat) (x : RouterSt) : (s.setRouter i x).readData = s.readData := rfl
@[simp] theorem State.setRouter_time (i : Nat) (x : RouterSt) : (s.setRouter i x).time = s.time := rfl
@[simp] theorem State.setRouter_fresh (i : Nat) (x : RouterSt) : (s.setRouter i x).fresh = s.fresh := rfl

/-! ### drew -/

@[simp] theorem State.drew_pending : (s.drew).pending = s.pending := rfl
@[simp] theorem State.drew_regs : (s.drew).regs = s.regs := rfl
@[simp] theorem State.drew_mem : (s.drew).mem = s.mem := rfl
@[simp] theorem State.drew_cores : (s.drew).cores = s.cores := rfl
@[simp] theorem State.drew_spares : (s.drew).spares = s.spares := rfl
@[simp] theorem State.drew_kernels : (s.drew).kernels = s.kernels := rfl
@[simp] theorem State.drew_blocks : (s.drew).blocks = s.blocks := rfl
@[simp] theorem State.drew_routers : (s.drew).routers = s.routers := rfl
@[simp] theorem State.drew_streams : (s.drew).streams = s.streams := rfl
@[simp] theorem State.drew_draining : (s.drew).draining = s.draining := rfl
@[simp] theorem State.drew_slotServed : (s.drew).slotServed = s.slotServed := rfl
@[simp] theorem State.drew_pcc : (s.drew).pcc = s.pcc := rfl
@[simp] theorem State.drew_stalledBy : (s.drew).stalledBy = s.stalledBy := rfl
@[simp] theorem State.drew_inSeq : (s.drew).inSeq = s.inSeq := rfl
@[simp] theorem State.drew_queues : (s.drew).queues = s.queues := rfl
@[simp] theorem State.drew_chans : (s.drew).chans = s.chans := rfl
@[simp] theorem State.drew_lastGrant : (s.drew).lastGrant = s.lastGrant := rfl
@[simp] theorem State.drew_binders : (s.drew).binders = s.binders := rfl
@[simp] theorem State.drew_bops : (s.drew).bops = s.bops := rfl
@[simp] theorem State.drew_inq : (s.drew).inq = s.inq := rfl
@[simp] theorem State.drew_links : (s.drew).links = s.links := rfl
@[simp] theorem State.drew_tags : (s.drew).tags = s.tags := rfl
@[simp] theorem State.drew_lastTag : (s.drew).lastTag = s.lastTag := rfl
@[simp] theorem State.drew_bells : (s.drew).bells = s.bells := rfl
@[simp] theorem State.drew_log : (s.drew).log = s.log := rfl
@[simp] theorem State.drew_session : (s.drew).session = s.session := rfl
@[simp] theorem State.drew_dieback : (s.drew).dieback = s.dieback := rfl
@[simp] theorem State.drew_rails : (s.drew).rails = s.rails := rfl
@[simp] theorem State.drew_clocksOff : (s.drew).clocksOff = s.clocksOff := rfl
@[simp] theorem State.drew_txIdle : (s.drew).txIdle = s.txIdle := rfl
@[simp] theorem State.drew_hostClock : (s.drew).hostClock = s.hostClock := rfl
@[simp] theorem State.drew_hostClockAt : (s.drew).hostClockAt = s.hostClockAt := rfl
@[simp] theorem State.drew_fuses : (s.drew).fuses = s.fuses := rfl
@[simp] theorem State.drew_pwrgd : (s.drew).pwrgd = s.pwrgd := rfl
@[simp] theorem State.drew_perst : (s.drew).perst = s.perst := rfl
@[simp] theorem State.drew_tripped : (s.drew).tripped = s.tripped := rfl
@[simp] theorem State.drew_refclk : (s.drew).refclk = s.refclk := rfl
@[simp] theorem State.drew_hold22 : (s.drew).hold22 = s.hold22 := rfl
@[simp] theorem State.drew_s0Over : (s.drew).s0Over = s.s0Over := rfl
@[simp] theorem State.drew_stageStart : (s.drew).stageStart = s.stageStart := rfl
@[simp] theorem State.drew_losses : (s.drew).losses = s.losses := rfl
@[simp] theorem State.drew_fuseBad : (s.drew).fuseBad = s.fuseBad := rfl
@[simp] theorem State.drew_selfCheckOk : (s.drew).selfCheckOk = s.selfCheckOk := rfl
@[simp] theorem State.drew_latchedFrom : (s.drew).latchedFrom = s.latchedFrom := rfl
@[simp] theorem State.drew_lastCode : (s.drew).lastCode = s.lastCode := rfl
@[simp] theorem State.drew_abandoned : (s.drew).abandoned = s.abandoned := rfl
@[simp] theorem State.drew_wordSeen : (s.drew).wordSeen = s.wordSeen := rfl
@[simp] theorem State.drew_qualifying : (s.drew).qualifying = s.qualifying := rfl
@[simp] theorem State.drew_upAtReady : (s.drew).upAtReady = s.upAtReady := rfl
@[simp] theorem State.drew_keys : (s.drew).keys = s.keys := rfl
@[simp] theorem State.drew_transfers : (s.drew).transfers = s.transfers := rfl
@[simp] theorem State.drew_firmware : (s.drew).firmware = s.firmware := rfl
@[simp] theorem State.drew_microcode : (s.drew).microcode = s.microcode := rfl
@[simp] theorem State.drew_blobIn : (s.drew).blobIn = s.blobIn := rfl
@[simp] theorem State.drew_blobOp : (s.drew).blobOp = s.blobOp := rfl
@[simp] theorem State.drew_restored : (s.drew).restored = s.restored := rfl
@[simp] theorem State.drew_snapshot : (s.drew).snapshot = s.snapshot := rfl
@[simp] theorem State.drew_savedAt : (s.drew).savedAt = s.savedAt := rfl
@[simp] theorem State.drew_memRecord : (s.drew).memRecord = s.memRecord := rfl
@[simp] theorem State.drew_memRun : (s.drew).memRun = s.memRun := rfl
@[simp] theorem State.drew_packageBytes : (s.drew).packageBytes = s.packageBytes := rfl
@[simp] theorem State.drew_pctl : (s.drew).pctl = s.pctl := rfl
@[simp] theorem State.drew_calItems : (s.drew).calItems = s.calItems := rfl
@[simp] theorem State.drew_calActive : (s.drew).calActive = s.calActive := rfl
@[simp] theorem State.drew_attest : (s.drew).attest = s.attest := rfl
@[simp] theorem State.drew_bist : (s.drew).bist = s.bist := rfl
@[simp] theorem State.drew_sleepPoint : (s.drew).sleepPoint = s.sleepPoint := rfl
@[simp] theorem State.drew_sleepAt : (s.drew).sleepAt = s.sleepAt := rfl
@[simp] theorem State.drew_dieOp : (s.drew).dieOp = s.dieOp := rfl
@[simp] theorem State.drew_dieWakeAfter : (s.drew).dieWakeAfter = s.dieWakeAfter := rfl
@[simp] theorem State.drew_tapOut : (s.drew).tapOut = s.tapOut := rfl
@[simp] theorem State.drew_tapCells : (s.drew).tapCells = s.tapCells := rfl
@[simp] theorem State.drew_tapDrive : (s.drew).tapDrive = s.tapDrive := rfl
@[simp] theorem State.drew_commits : (s.drew).commits = s.commits := rfl
@[simp] theorem State.drew_advanceRefused : (s.drew).advanceRefused = s.advanceRefused := rfl
@[simp] theorem State.drew_wdogAt : (s.drew).wdogAt = s.wdogAt := rfl
@[simp] theorem State.drew_hold : (s.drew).hold = s.hold := rfl
@[simp] theorem State.drew_readData : (s.drew).readData = s.readData := rfl
@[simp] theorem State.drew_time : (s.drew).time = s.time := rfl

/-! ### setCoreState -/

@[simp] theorem State.setCoreState_pending (p v : Nat) : (s.setCoreState p v).pending = s.pending := rfl
@[simp] theorem State.setCoreState_mem (p v : Nat) : (s.setCoreState p v).mem = s.mem := rfl
@[simp] theorem State.setCoreState_cores (p v : Nat) : (s.setCoreState p v).cores = s.cores := rfl
@[simp] theorem State.setCoreState_spares (p v : Nat) : (s.setCoreState p v).spares = s.spares := rfl
@[simp] theorem State.setCoreState_kernels (p v : Nat) : (s.setCoreState p v).kernels = s.kernels := rfl
@[simp] theorem State.setCoreState_blocks (p v : Nat) : (s.setCoreState p v).blocks = s.blocks := rfl
@[simp] theorem State.setCoreState_routers (p v : Nat) : (s.setCoreState p v).routers = s.routers := rfl
@[simp] theorem State.setCoreState_streams (p v : Nat) : (s.setCoreState p v).streams = s.streams := rfl
@[simp] theorem State.setCoreState_draining (p v : Nat) : (s.setCoreState p v).draining = s.draining := rfl
@[simp] theorem State.setCoreState_slotServed (p v : Nat) : (s.setCoreState p v).slotServed = s.slotServed := rfl
@[simp] theorem State.setCoreState_pcc (p v : Nat) : (s.setCoreState p v).pcc = s.pcc := rfl
@[simp] theorem State.setCoreState_stalledBy (p v : Nat) : (s.setCoreState p v).stalledBy = s.stalledBy := rfl
@[simp] theorem State.setCoreState_inSeq (p v : Nat) : (s.setCoreState p v).inSeq = s.inSeq := rfl
@[simp] theorem State.setCoreState_queues (p v : Nat) : (s.setCoreState p v).queues = s.queues := rfl
@[simp] theorem State.setCoreState_chans (p v : Nat) : (s.setCoreState p v).chans = s.chans := rfl
@[simp] theorem State.setCoreState_lastGrant (p v : Nat) : (s.setCoreState p v).lastGrant = s.lastGrant := rfl
@[simp] theorem State.setCoreState_binders (p v : Nat) : (s.setCoreState p v).binders = s.binders := rfl
@[simp] theorem State.setCoreState_bops (p v : Nat) : (s.setCoreState p v).bops = s.bops := rfl
@[simp] theorem State.setCoreState_inq (p v : Nat) : (s.setCoreState p v).inq = s.inq := rfl
@[simp] theorem State.setCoreState_links (p v : Nat) : (s.setCoreState p v).links = s.links := rfl
@[simp] theorem State.setCoreState_tags (p v : Nat) : (s.setCoreState p v).tags = s.tags := rfl
@[simp] theorem State.setCoreState_lastTag (p v : Nat) : (s.setCoreState p v).lastTag = s.lastTag := rfl
@[simp] theorem State.setCoreState_bells (p v : Nat) : (s.setCoreState p v).bells = s.bells := rfl
@[simp] theorem State.setCoreState_log (p v : Nat) : (s.setCoreState p v).log = s.log := rfl
@[simp] theorem State.setCoreState_session (p v : Nat) : (s.setCoreState p v).session = s.session := rfl
@[simp] theorem State.setCoreState_dieback (p v : Nat) : (s.setCoreState p v).dieback = s.dieback := rfl
@[simp] theorem State.setCoreState_rails (p v : Nat) : (s.setCoreState p v).rails = s.rails := rfl
@[simp] theorem State.setCoreState_clocksOff (p v : Nat) : (s.setCoreState p v).clocksOff = s.clocksOff := rfl
@[simp] theorem State.setCoreState_txIdle (p v : Nat) : (s.setCoreState p v).txIdle = s.txIdle := rfl
@[simp] theorem State.setCoreState_hostClock (p v : Nat) : (s.setCoreState p v).hostClock = s.hostClock := rfl
@[simp] theorem State.setCoreState_hostClockAt (p v : Nat) : (s.setCoreState p v).hostClockAt = s.hostClockAt := rfl
@[simp] theorem State.setCoreState_fuses (p v : Nat) : (s.setCoreState p v).fuses = s.fuses := rfl
@[simp] theorem State.setCoreState_pwrgd (p v : Nat) : (s.setCoreState p v).pwrgd = s.pwrgd := rfl
@[simp] theorem State.setCoreState_perst (p v : Nat) : (s.setCoreState p v).perst = s.perst := rfl
@[simp] theorem State.setCoreState_tripped (p v : Nat) : (s.setCoreState p v).tripped = s.tripped := rfl
@[simp] theorem State.setCoreState_refclk (p v : Nat) : (s.setCoreState p v).refclk = s.refclk := rfl
@[simp] theorem State.setCoreState_hold22 (p v : Nat) : (s.setCoreState p v).hold22 = s.hold22 := rfl
@[simp] theorem State.setCoreState_s0Over (p v : Nat) : (s.setCoreState p v).s0Over = s.s0Over := rfl
@[simp] theorem State.setCoreState_stageStart (p v : Nat) : (s.setCoreState p v).stageStart = s.stageStart := rfl
@[simp] theorem State.setCoreState_losses (p v : Nat) : (s.setCoreState p v).losses = s.losses := rfl
@[simp] theorem State.setCoreState_fuseBad (p v : Nat) : (s.setCoreState p v).fuseBad = s.fuseBad := rfl
@[simp] theorem State.setCoreState_selfCheckOk (p v : Nat) : (s.setCoreState p v).selfCheckOk = s.selfCheckOk := rfl
@[simp] theorem State.setCoreState_latchedFrom (p v : Nat) : (s.setCoreState p v).latchedFrom = s.latchedFrom := rfl
@[simp] theorem State.setCoreState_lastCode (p v : Nat) : (s.setCoreState p v).lastCode = s.lastCode := rfl
@[simp] theorem State.setCoreState_abandoned (p v : Nat) : (s.setCoreState p v).abandoned = s.abandoned := rfl
@[simp] theorem State.setCoreState_wordSeen (p v : Nat) : (s.setCoreState p v).wordSeen = s.wordSeen := rfl
@[simp] theorem State.setCoreState_qualifying (p v : Nat) : (s.setCoreState p v).qualifying = s.qualifying := rfl
@[simp] theorem State.setCoreState_upAtReady (p v : Nat) : (s.setCoreState p v).upAtReady = s.upAtReady := rfl
@[simp] theorem State.setCoreState_keys (p v : Nat) : (s.setCoreState p v).keys = s.keys := rfl
@[simp] theorem State.setCoreState_transfers (p v : Nat) : (s.setCoreState p v).transfers = s.transfers := rfl
@[simp] theorem State.setCoreState_firmware (p v : Nat) : (s.setCoreState p v).firmware = s.firmware := rfl
@[simp] theorem State.setCoreState_microcode (p v : Nat) : (s.setCoreState p v).microcode = s.microcode := rfl
@[simp] theorem State.setCoreState_blobIn (p v : Nat) : (s.setCoreState p v).blobIn = s.blobIn := rfl
@[simp] theorem State.setCoreState_blobOp (p v : Nat) : (s.setCoreState p v).blobOp = s.blobOp := rfl
@[simp] theorem State.setCoreState_restored (p v : Nat) : (s.setCoreState p v).restored = s.restored := rfl
@[simp] theorem State.setCoreState_snapshot (p v : Nat) : (s.setCoreState p v).snapshot = s.snapshot := rfl
@[simp] theorem State.setCoreState_savedAt (p v : Nat) : (s.setCoreState p v).savedAt = s.savedAt := rfl
@[simp] theorem State.setCoreState_memRecord (p v : Nat) : (s.setCoreState p v).memRecord = s.memRecord := rfl
@[simp] theorem State.setCoreState_memRun (p v : Nat) : (s.setCoreState p v).memRun = s.memRun := rfl
@[simp] theorem State.setCoreState_packageBytes (p v : Nat) : (s.setCoreState p v).packageBytes = s.packageBytes := rfl
@[simp] theorem State.setCoreState_pctl (p v : Nat) : (s.setCoreState p v).pctl = s.pctl := rfl
@[simp] theorem State.setCoreState_calItems (p v : Nat) : (s.setCoreState p v).calItems = s.calItems := rfl
@[simp] theorem State.setCoreState_calActive (p v : Nat) : (s.setCoreState p v).calActive = s.calActive := rfl
@[simp] theorem State.setCoreState_attest (p v : Nat) : (s.setCoreState p v).attest = s.attest := rfl
@[simp] theorem State.setCoreState_bist (p v : Nat) : (s.setCoreState p v).bist = s.bist := rfl
@[simp] theorem State.setCoreState_sleepPoint (p v : Nat) : (s.setCoreState p v).sleepPoint = s.sleepPoint := rfl
@[simp] theorem State.setCoreState_sleepAt (p v : Nat) : (s.setCoreState p v).sleepAt = s.sleepAt := rfl
@[simp] theorem State.setCoreState_dieOp (p v : Nat) : (s.setCoreState p v).dieOp = s.dieOp := rfl
@[simp] theorem State.setCoreState_dieWakeAfter (p v : Nat) : (s.setCoreState p v).dieWakeAfter = s.dieWakeAfter := rfl
@[simp] theorem State.setCoreState_tapOut (p v : Nat) : (s.setCoreState p v).tapOut = s.tapOut := rfl
@[simp] theorem State.setCoreState_tapCells (p v : Nat) : (s.setCoreState p v).tapCells = s.tapCells := rfl
@[simp] theorem State.setCoreState_tapDrive (p v : Nat) : (s.setCoreState p v).tapDrive = s.tapDrive := rfl
@[simp] theorem State.setCoreState_commits (p v : Nat) : (s.setCoreState p v).commits = s.commits := rfl
@[simp] theorem State.setCoreState_advanceRefused (p v : Nat) : (s.setCoreState p v).advanceRefused = s.advanceRefused := rfl
@[simp] theorem State.setCoreState_wdogAt (p v : Nat) : (s.setCoreState p v).wdogAt = s.wdogAt := rfl
@[simp] theorem State.setCoreState_hold (p v : Nat) : (s.setCoreState p v).hold = s.hold := rfl
@[simp] theorem State.setCoreState_readData (p v : Nat) : (s.setCoreState p v).readData = s.readData := rfl
@[simp] theorem State.setCoreState_time (p v : Nat) : (s.setCoreState p v).time = s.time := rfl
@[simp] theorem State.setCoreState_fresh (p v : Nat) : (s.setCoreState p v).fresh = s.fresh := rfl

/-! ### Reading after a write -/

@[simp] theorem State.fld_setFld (f : Fld) (v : Nat) : (s.setFld f v).fld f = v % 2 ^ f.w :=
  tget_tset_self _ _ _ _

theorem State.fld_setFld_ne {f g : Fld} (h : g.key ≠ f.key) (v : Nat) : (s.setFld f v).fld g = s.fld g :=
  tget_tset_ne _ _ _ h _

@[simp] theorem State.fld_addFld (f : Fld) (n : Nat) : (s.addFld f n).fld f = (s.fld f + n) % 2 ^ f.w :=
  s.fld_setFld f _

theorem State.fld_addFld_ne {f g : Fld} (h : g.key ≠ f.key) (n : Nat) : (s.addFld f n).fld g = s.fld g :=
  s.fld_setFld_ne h _

@[simp] theorem State.core_setCore (p : Nat) (c : CoreSt) : (s.setCore p c).core p = c := tget_tset_self _ _ _ _

theorem State.core_setCore_ne {p r : Nat} (h : r ≠ p) (c : CoreSt) : (s.setCore p c).core r = s.core r :=
  tget_tset_ne _ _ _ h _

@[simp] theorem State.queue_setQueue (i : Nat) (x : QueueSt) : (s.setQueue i x).queue i = x := tget_tset_self _ _ _ _

theorem State.queue_setQueue_ne {i j : Nat} (h : j ≠ i) (x : QueueSt) : (s.setQueue i x).queue j = s.queue j :=
  tget_tset_ne _ _ _ h _

@[simp] theorem State.chan_setChan (i : Nat) (x : ChanSt) : (s.setChan i x).chan i = x := tget_tset_self _ _ _ _

theorem State.chan_setChan_ne {i j : Nat} (h : j ≠ i) (x : ChanSt) : (s.setChan i x).chan j = s.chan j :=
  tget_tset_ne _ _ _ h _

@[simp] theorem State.binder_setBinder (i : Nat) (x : BinderSt) : (s.setBinder i x).binder i = x := tget_tset_self _ _ _ _

theorem State.binder_setBinder_ne {i j : Nat} (h : j ≠ i) (x : BinderSt) : (s.setBinder i x).binder j = s.binder j :=
  tget_tset_ne _ _ _ h _

@[simp] theorem State.link_setLink (i : Nat) (x : LinkSt) : (s.setLink i x).link i = x := tget_tset_self _ _ _ _

theorem State.link_setLink_ne {i j : Nat} (h : j ≠ i) (x : LinkSt) : (s.setLink i x).link j = s.link j :=
  tget_tset_ne _ _ _ h _

@[simp] theorem State.router_setRouter (i : Nat) (x : RouterSt) : (s.setRouter i x).router i = x := tget_tset_self _ _ _ _

theorem State.router_setRouter_ne {i j : Nat} (h : j ≠ i) (x : RouterSt) : (s.setRouter i x).router j = s.router j :=
  tget_tset_ne _ _ _ h _

/-! ### Parts of the state that another update leaves alone -/

@[simp] theorem State.core_setFld (f : Fld) (v : Nat) (j : Nat) : (s.setFld f v).core j = s.core j := rfl
@[simp] theorem State.queue_setFld (f : Fld) (v : Nat) (j : Nat) : (s.setFld f v).queue j = s.queue j := rfl
@[simp] theorem State.chan_setFld (f : Fld) (v : Nat) (j : Nat) : (s.setFld f v).chan j = s.chan j := rfl
@[simp] theorem State.binder_setFld (f : Fld) (v : Nat) (j : Nat) : (s.setFld f v).binder j = s.binder j := rfl
@[simp] theorem State.link_setFld (f : Fld) (v : Nat) (j : Nat) : (s.setFld f v).link j = s.link j := rfl
@[simp] theorem State.router_setFld (f : Fld) (v : Nat) (j : Nat) : (s.setFld f v).router j = s.router j := rfl
@[simp] theorem State.core_resetFlds (f : Nat → Bool) (j : Nat) : (s.resetFlds f).core j = s.core j := rfl
@[simp] theorem State.queue_resetFlds (f : Nat → Bool) (j : Nat) : (s.resetFlds f).queue j = s.queue j := rfl
@[simp] theorem State.chan_resetFlds (f : Nat → Bool) (j : Nat) : (s.resetFlds f).chan j = s.chan j := rfl
@[simp] theorem State.binder_resetFlds (f : Nat → Bool) (j : Nat) : (s.resetFlds f).binder j = s.binder j := rfl
@[simp] theorem State.link_resetFlds (f : Nat → Bool) (j : Nat) : (s.resetFlds f).link j = s.link j := rfl
@[simp] theorem State.router_resetFlds (f : Nat → Bool) (j : Nat) : (s.resetFlds f).router j = s.router j := rfl
@[simp] theorem State.core_addFld (f : Fld) (v : Nat) (j : Nat) : (s.addFld f v).core j = s.core j := rfl
@[simp] theorem State.queue_addFld (f : Fld) (v : Nat) (j : Nat) : (s.addFld f v).queue j = s.queue j := rfl
@[simp] theorem State.chan_addFld (f : Fld) (v : Nat) (j : Nat) : (s.addFld f v).chan j = s.chan j := rfl
@[simp] theorem State.binder_addFld (f : Fld) (v : Nat) (j : Nat) : (s.addFld f v).binder j = s.binder j := rfl
@[simp] theorem State.link_addFld (f : Fld) (v : Nat) (j : Nat) : (s.addFld f v).link j = s.link j := rfl
@[simp] theorem State.router_addFld (f : Fld) (v : Nat) (j : Nat) : (s.addFld f v).router j = s.router j := rfl
@[simp] theorem State.fld_writeCore (p off : Nat) (b : List Byte) (g : Fld) : (s.writeCore p off b).fld g = s.fld g := rfl
@[simp] theorem State.core_writeCore (p off : Nat) (b : List Byte) (j : Nat) : (s.writeCore p off b).core j = s.core j := rfl
@[simp] theorem State.queue_writeCore (p off : Nat) (b : List Byte) (j : Nat) : (s.writeCore p off b).queue j = s.queue j := rfl
@[simp] theorem State.chan_writeCore (p off : Nat) (b : List Byte) (j : Nat) : (s.writeCore p off b).chan j = s.chan j := rfl
@[simp] theorem State.binder_writeCore (p off : Nat) (b : List Byte) (j : Nat) : (s.writeCore p off b).binder j = s.binder j := rfl
@[simp] theorem State.link_writeCore (p off : Nat) (b : List Byte) (j : Nat) : (s.writeCore p off b).link j = s.link j := rfl
@[simp] theorem State.router_writeCore (p off : Nat) (b : List Byte) (j : Nat) : (s.writeCore p off b).router j = s.router j := rfl
@[simp] theorem State.fld_setCore (p : Nat) (x : CoreSt) (g : Fld) : (s.setCore p x).fld g = s.fld g := rfl
@[simp] theorem State.queue_setCore (p : Nat) (x : CoreSt) (j : Nat) : (s.setCore p x).queue j = s.queue j := rfl
@[simp] theorem State.chan_setCore (p : Nat) (x : CoreSt) (j : Nat) : (s.setCore p x).chan j = s.chan j := rfl
@[simp] theorem State.binder_setCore (p : Nat) (x : CoreSt) (j : Nat) : (s.setCore p x).binder j = s.binder j := rfl
@[simp] theorem State.link_setCore (p : Nat) (x : CoreSt) (j : Nat) : (s.setCore p x).link j = s.link j := rfl
@[simp] theorem State.router_setCore (p : Nat) (x : CoreSt) (j : Nat) : (s.setCore p x).router j = s.router j := rfl
@[simp] theorem State.fld_setQueue (i : Nat) (x : QueueSt) (g : Fld) : (s.setQueue i x).fld g = s.fld g := rfl
@[simp] theorem State.core_setQueue (i : Nat) (x : QueueSt) (j : Nat) : (s.setQueue i x).core j = s.core j := rfl
@[simp] theorem State.chan_setQueue (i : Nat) (x : QueueSt) (j : Nat) : (s.setQueue i x).chan j = s.chan j := rfl
@[simp] theorem State.binder_setQueue (i : Nat) (x : QueueSt) (j : Nat) : (s.setQueue i x).binder j = s.binder j := rfl
@[simp] theorem State.link_setQueue (i : Nat) (x : QueueSt) (j : Nat) : (s.setQueue i x).link j = s.link j := rfl
@[simp] theorem State.router_setQueue (i : Nat) (x : QueueSt) (j : Nat) : (s.setQueue i x).router j = s.router j := rfl
@[simp] theorem State.fld_setChan (i : Nat) (x : ChanSt) (g : Fld) : (s.setChan i x).fld g = s.fld g := rfl
@[simp] theorem State.core_setChan (i : Nat) (x : ChanSt) (j : Nat) : (s.setChan i x).core j = s.core j := rfl
@[simp] theorem State.queue_setChan (i : Nat) (x : ChanSt) (j : Nat) : (s.setChan i x).queue j = s.queue j := rfl
@[simp] theorem State.binder_setChan (i : Nat) (x : ChanSt) (j : Nat) : (s.setChan i x).binder j = s.binder j := rfl
@[simp] theorem State.link_setChan (i : Nat) (x : ChanSt) (j : Nat) : (s.setChan i x).link j = s.link j := rfl
@[simp] theorem State.router_setChan (i : Nat) (x : ChanSt) (j : Nat) : (s.setChan i x).router j = s.router j := rfl
@[simp] theorem State.fld_setBinder (i : Nat) (x : BinderSt) (g : Fld) : (s.setBinder i x).fld g = s.fld g := rfl
@[simp] theorem State.core_setBinder (i : Nat) (x : BinderSt) (j : Nat) : (s.setBinder i x).core j = s.core j := rfl
@[simp] theorem State.queue_setBinder (i : Nat) (x : BinderSt) (j : Nat) : (s.setBinder i x).queue j = s.queue j := rfl
@[simp] theorem State.chan_setBinder (i : Nat) (x : BinderSt) (j : Nat) : (s.setBinder i x).chan j = s.chan j := rfl
@[simp] theorem State.link_setBinder (i : Nat) (x : BinderSt) (j : Nat) : (s.setBinder i x).link j = s.link j := rfl
@[simp] theorem State.router_setBinder (i : Nat) (x : BinderSt) (j : Nat) : (s.setBinder i x).router j = s.router j := rfl
@[simp] theorem State.fld_setLink (i : Nat) (x : LinkSt) (g : Fld) : (s.setLink i x).fld g = s.fld g := rfl
@[simp] theorem State.core_setLink (i : Nat) (x : LinkSt) (j : Nat) : (s.setLink i x).core j = s.core j := rfl
@[simp] theorem State.queue_setLink (i : Nat) (x : LinkSt) (j : Nat) : (s.setLink i x).queue j = s.queue j := rfl
@[simp] theorem State.chan_setLink (i : Nat) (x : LinkSt) (j : Nat) : (s.setLink i x).chan j = s.chan j := rfl
@[simp] theorem State.binder_setLink (i : Nat) (x : LinkSt) (j : Nat) : (s.setLink i x).binder j = s.binder j := rfl
@[simp] theorem State.router_setLink (i : Nat) (x : LinkSt) (j : Nat) : (s.setLink i x).router j = s.router j := rfl
@[simp] theorem State.fld_setRouter (i : Nat) (x : RouterSt) (g : Fld) : (s.setRouter i x).fld g = s.fld g := rfl
@[simp] theorem State.core_setRouter (i : Nat) (x : RouterSt) (j : Nat) : (s.setRouter i x).core j = s.core j := rfl
@[simp] theorem State.queue_setRouter (i : Nat) (x : RouterSt) (j : Nat) : (s.setRouter i x).queue j = s.queue j := rfl
@[simp] theorem State.chan_setRouter (i : Nat) (x : RouterSt) (j : Nat) : (s.setRouter i x).chan j = s.chan j := rfl
@[simp] theorem State.binder_setRouter (i : Nat) (x : RouterSt) (j : Nat) : (s.setRouter i x).binder j = s.binder j := rfl
@[simp] theorem State.link_setRouter (i : Nat) (x : RouterSt) (j : Nat) : (s.setRouter i x).link j = s.link j := rfl
@[simp] theorem State.fld_drew (g : Fld) : (s.drew).fld g = s.fld g := rfl
@[simp] theorem State.core_drew (j : Nat) : (s.drew).core j = s.core j := rfl
@[simp] theorem State.queue_drew (j : Nat) : (s.drew).queue j = s.queue j := rfl
@[simp] theorem State.chan_drew (j : Nat) : (s.drew).chan j = s.chan j := rfl
@[simp] theorem State.binder_drew (j : Nat) : (s.drew).binder j = s.binder j := rfl
@[simp] theorem State.link_drew (j : Nat) : (s.drew).link j = s.link j := rfl
@[simp] theorem State.router_drew (j : Nat) : (s.drew).router j = s.router j := rfl
@[simp] theorem State.core_setCoreState (p v : Nat) (j : Nat) : (s.setCoreState p v).core j = s.core j := rfl
@[simp] theorem State.queue_setCoreState (p v : Nat) (j : Nat) : (s.setCoreState p v).queue j = s.queue j := rfl
@[simp] theorem State.chan_setCoreState (p v : Nat) (j : Nat) : (s.setCoreState p v).chan j = s.chan j := rfl
@[simp] theorem State.binder_setCoreState (p v : Nat) (j : Nat) : (s.setCoreState p v).binder j = s.binder j := rfl
@[simp] theorem State.link_setCoreState (p v : Nat) (j : Nat) : (s.setCoreState p v).link j = s.link j := rfl
@[simp] theorem State.router_setCoreState (p v : Nat) (j : Nat) : (s.setCoreState p v).router j = s.router j := rfl

end Sys2Proof.Machine
end

