-- ==== Sys2Proof/Laws/Sequencer.lean ====
section
/-! SUPPORT. Laws of the sequencer's operands: when a core executes a word, and what writing a scalar register and
moving the program counter leave. -/

namespace Sys2Proof.Machine

variable {s : State} {c : CoreNo} {p : Nat} {w : Word}

/-- A core that runs a word executes it. -/
theorem State.SqRuns.sqAt (h : s.SqRuns c p w) (or : Nat) : s.sqAt c w or = some p := by
  obtain ⟨hp, hc, hr, hf⟩ := h
  unfold State.sqAt
  rw [hp]
  exact if_pos ⟨by simp [hc], .inl hr, hf⟩

theorem State.sreg_setSreg (s : State) (p r q : Nat) (v : Word) :
    (s.setSreg p r v).sreg p q = if q = r ∧ r ≠ 0 then v else s.sreg p q := by
  unfold State.setSreg
  by_cases h0 : r = 0
  · simp [h0]
  · rw [if_neg h0]
    unfold State.sreg
    by_cases hq : q = 0
    · subst hq
      simp [Ne.symm h0]
    · rw [if_neg hq, if_neg hq, State.core_setCore]
      by_cases hr : q = r
      · subst hr
        simp [h0, tget_tset_self]
      · simp [hr, tget_tset_ne _ _ _ hr]

theorem State.core_setSreg_ne (s : State) (p r : Nat) (v : Word) {j : Nat} (h : j ≠ p) :
    (s.setSreg p r v).core j = s.core j := by
  unfold State.setSreg
  split
  · rfl
  · exact s.core_setCore_ne h _

@[simp] theorem State.fld_setSreg (s : State) (p r : Nat) (v : Word) (g : Fld) : (s.setSreg p r v).fld g = s.fld g := by
  unfold State.setSreg
  split <;> rfl

@[simp] theorem State.sreg_nextPc (s : State) (p r q : Nat) : (s.nextPc p).sreg q r = s.sreg q r := rfl

@[simp] theorem State.core_nextPc (s : State) (p j : Nat) : (s.nextPc p).core j = s.core j := rfl

@[simp] theorem State.pc_nextPc (s : State) (p : Nat) : (s.nextPc p).pc p = (s.pc p + 1) % 2 ^ 13 :=
  s.fld_setFld _ _

@[simp] theorem State.pc_setSreg (s : State) (p r j : Nat) (v : Word) : (s.setSreg p r v).pc j = s.pc j :=
  s.fld_setSreg _ _ _ _

theorem State.nextPc_kept (s : State) (p : Nat) : fieldsKept s (s.nextPc p) [(F.corPc p).key] :=
  fun _ h => s.fld_setFld_ne (fun e => h (by simp [e])) _

theorem State.setSreg_rest (s : State) (p r : Nat) (v : Word) : { s.setSreg p r v with cores := s.cores } = s := by
  unfold State.setSreg
  split <;> rfl

/-- Writing a scalar register and moving on. -/
theorem State.sqWrites_intro (s : State) (p : Nat) (sd : SReg) (v : Word) :
    sqWrites s ((s.setSreg p sd.val v).nextPc p) p sd v := by
  refine ⟨fun r => s.sreg_setSreg p sd.val r v, ?_, ?_, ?_, ?_, ?_⟩
  · rw [State.pc_nextPc, State.pc_setSreg]
  · intro g hg
    rw [State.nextPc_kept _ p g hg, State.fld_setSreg]
  · unfold State.setSreg
    split <;> rfl
  · intro j hj
    rw [State.core_nextPc, State.core_setSreg_ne _ _ _ _ hj]
  · rw [State.core_nextPc]
    unfold State.setSreg
    split
    · rfl
    · rw [State.core_setCore]

end Sys2Proof.Machine
end

