-- ==== Sys2Proof/Tests/Slice0.lean ====
section
/-! SUPPORT. Tests: words and packets written out from the spec, and states that meet the statements' hypotheses. -/

open Sys2Proof Sys2Proof.Machine

namespace Sys2Proof.Tests

set_option maxRecDepth 100000
set_option linter.unusedVariables false
set_option Elab.async false

/-! ### Builders -/

/-- Register fields set one after another. -/
def flds (l : List (Fld × Nat)) (s : State) : State := l.foldl (fun s x => s.setFld x.1 x.2) s

/-- A die in READY with every core numbered and in Leaf, its placement word latched, both PLLs locked at code 8, and U0
ACTIVE at full width. -/
def die : State :=
  flds [(F.evgBootReady, rdReady), (F.evgBootStage, 9), (F.evgCoreMap 0, 0xFFFFFFFF), (F.evgCoreMap 1, 0xFFFFFFFF),
    (F.evgCoreMap 2, 0xFFFFFFFF), (F.evgNumberingNLogical, 96), (F.evgNumberingEpoch, 1), (F.evgPlacementValid, 1),
    (F.lnkStatusState 30, lkActive), (F.lnkStatusWidth 30, 16), (F.lnkUsed 30, 0xFFFF), (F.lnkVersionAgreed 30, 0x32),
    (F.pwrHalfLocked 0, 1), (F.pwrHalfLocked 1, 1), (F.pwrHalfFcode 0, 8), (F.pwrHalfFcode 1, 8)]
    { pwrgd := true, perst := true, s0Over := true }

/-- Link i in a state, at protocol 3.2. -/
def link (i st : Nat) (s : State) : State := flds [(F.lnkStatusState i, st), (F.lnkVersionAgreed i, 0x32)] s

/-- What a core, a link, a queue context or a channel holds beside its registers changed. -/
def core (p : Nat) (f : CoreSt → CoreSt) (s : State) : State := s.setCore p (f (s.core p))
def lnk (i : Nat) (f : LinkSt → LinkSt) (s : State) : State := s.setLink i (f (s.link i))
def que (q : Nat) (f : QueueSt → QueueSt) (s : State) : State := s.setQueue q (f (s.queue q))
def chn (c : Nat) (f : ChanSt → ChanSt) (s : State) : State := s.setChan c (f (s.chan c))

/-- Core p RUNNING with a word at program counter pc, and scalar registers. -/
def sq (p pc : Nat) (w : Word) (regs : List (Nat × Word)) (s : State) : State :=
  flds [(F.corStatusState p, csRunning), (F.corPc p, pc)] (core p (fun c => { c with imem := [(pc, w)], sregs := regs }) s)

/-- Bytes in the scratchpad of core p. -/
def bytes (p off : Nat) (d : List Byte) (s : State) : State := s.writeCore p off d

/-- A kernel of one running core in scoreboard mode. -/
def kernel (q : Nat) (ps : List Nat) : Kernel :=
  { queue := q, idx := 0, tag := 7, account := 0, cores := ps, phys := ps, imageId := 1, scoreboard := true, phaseClass := 0,
    slack := 0, code := ps.map fun _ => (0, [], 0), sched := none, param := [], paramDest := 0, reload := false, order := 0,
    started := true }

/-- A matrix descriptor of core position 1: one block of 1 × 64 BF16 times BF16 to FP32 (R180). -/
def mxBytes : List Byte :=
  [1, 1, 1, 0, 0, 0, 1, 0] ++ leBytes 2 64 ++ leBytes 2 1 ++ leBytes 4 0 ++ leBytes 4 0x401000 ++ leBytes 4 0 ++
    leBytes 4 0x402000 ++ List.replicate 20 0 ++ leBytes 4 0x405000 ++ List.replicate 76 0

/-- A chain of core position 1 that loads a row of 64 FP32 values and stores it (R224, R227). -/
def vxBytes : List Byte :=
  [2, 2, 0, 0] ++ leBytes 4 64 ++ List.replicate 56 0 ++
    [1, 0, 0, 0xFF, 0xFF, 0xFF, 0xFF, 0xFF] ++ leBytes 4 0x401000 ++ leBytes 4 0x100 ++
    [12, 0, 0, 0xFF, 0, 0xFF, 0xFF, 0xFF] ++ leBytes 4 0x405000 ++ leBytes 4 0x100 ++ List.replicate 160 0

/-- A descriptor in an engine's queue. -/
def qd (b : List Byte) : QDesc :=
  { seq := 3, tag := 9, notify := true, barrier := true, pc := 0, bytes := b, entered := true }

/-- The register at an address. -/
def rd (b : Nat) : RDesc := ((regAt b).map (·.2.1)).getD ⟨0, [], false, []⟩


/-- A work entry of version 4.0 and season 7, with its CRC (R416). -/
def entryOf (op : Nat) (params : List Byte) : List Byte :=
  let h := leBytes 2 op ++ [0, 4] ++ List.replicate 10 0 ++ leBytes 2 (32 + params.length) ++ leBytes 8 77 ++ leBytes 4 7
  let b := h ++ leBytes 4 (crc32c (h ++ [0, 0, 0, 0] ++ params)) ++ params
  b ++ List.replicate (128 - b.length) 0

/-- WORK queue 9, of season 7, on core 90 with an entry at HEAD, its COMPLETION ring 12 on core 95. -/
def work (e : List Byte) (s : State) : State :=
  bytes 90 0 e (que 9 (fun x => { x with ringCore := some 90 }) (que 12 (fun x => { x with ringCore := some 95 })
    (flds [(F.queCfgType 9, qtWork), (F.queCfgLog2Entries 9, 4), (F.queTail 9, 1), (F.queSeason 9, 7),
      (F.queBase 9, 2 ^ 44 + 90 * 2 ^ 22), (F.queCqValid 9, 1), (F.queCqContext 9, 12), (F.queCfgType 12, qtCompletion),
      (F.queCfgLog2Entries 12, 4), (F.queHead 12, 3), (F.queTail 12, 18), (F.queBase 12, 2 ^ 44 + 95 * 2 ^ 22)] s)))

/-- Binder 5 armed with step 3, and its address at an offset. -/
def binder (l : List (Fld × Nat)) (s : State) : State :=
  flds ([(F.bndCfgArmed 5, 1), (F.bndStep 5, 3), (F.bndTarget 5, 3)] ++ l) s
def bndAddr : Nat := 2 * 2 ^ 44 + 5 * 64

/-- A kernel image of logical core 3 with four words of code, of numbering epoch 1 (R105). -/
def imageOf (mode : Nat) : List Byte :=
  let h := leBytes 4 0x4B4E4C31 ++ leBytes 2 1 ++ leBytes 2 1 ++ leBytes 8 5 ++ leBytes 1 mode ++ [0, 0, 0] ++ leBytes 4 1 ++
    leBytes 12 8 ++ leBytes 4 128 ++ List.replicate 20 0 ++ leBytes 4 160
  let t := List.replicate 60 0 ++ leBytes 4 3 ++ leBytes 4 144 ++ leBytes 4 16 ++ leBytes 4 1 ++ List.replicate 16 1
  h ++ leBytes 4 (crc32c (h ++ [0, 0, 0, 0] ++ t)) ++ t

/-- A session at version 4.1, and a packet that is next in its order, with its LENGTH and CRC (R416, R417). -/
def sess (s : State) : State :=
  { s with session := { s.session with next := 5, dev := 9, seen := 9, season := 7, agreed := 0x0401, nextOp := 3 } }
def stamped (op : Nat) (p : Packet) : Packet :=
  let p := { p with length := BitVec.ofNat 16 (32 + p.params.length) }
  { p with crc := BitVec.ofNat 32 (crc32c (packetBytes op p)) }
def pk (op : Nat) (params : List Byte) : Packet :=
  stamped op { link := 0, major := 4, minor := 1, hostSeq := 5, devSeen := 9, length := 0, flags := 0, account := 0, tag := 77,
               season := 7, crc := 0, params }

/-- A flit with its CRC (R377, R378). -/
def fl (kind vc used : Nat) (data : List Byte) : Flit :=
  let f : Flit := { seq := 0, ack := 0, kind := BitVec.ofNat 3 kind, vc := BitVec.ofNat 3 vc, used := BitVec.ofNat 4 used, cont := 0,
                    crVc := 1, crCount := 2, epoch := 0,
                    slots := (List.range 15).map fun k => (List.range 16).map fun j => data.getD (16 * k + j) 0, crc := 0 }
  { f with crc := BitVec.ofNat 64 (flitCrc f) }

/-! ### The parts of a premise in one -/

theorem sqRuns_of {s : State} {c : CoreNo} {p : Nat} {w : Word}
    (h : s.phys c.val = some p ∧ s.clocksOff = false ∧ s.coreState p = csRunning ∧ s.fetchSq p = w) : s.SqRuns c p w :=
  ⟨h.1, h.2.1, h.2.2.1, h.2.2.2⟩

theorem ringRoom_of {s : State} {q p : Nat}
    (h : (s.queue (s.fld (F.queCqContext q))).ringCore = some p ∧ s.fencedCore p = false ∧ s.power p = pwLeaf ∧
      s.ringUsed (s.fld (F.queCqContext q)) < s.ringSize (s.fld (F.queCqContext q)) ∧
      s.ringSize (s.fld (F.queCqContext q)) ≤ 2 ^ 15 ∧ s.fld (F.queTail (s.fld (F.queCqContext q))) < 2 ^ 16 ∧
      s.fld (F.queHead (s.fld (F.queCqContext q))) < 2 ^ 16 ∧ s.underWay = [] ∧
      s.bit (F.queNotifyEn (s.fld (F.queCqContext q))) = false ∧ s.fld (F.queCqContext q) ≠ q ∧
      s.fld (F.queCqContext q) < 8192) : s.RingRoom q p :=
  have ⟨a, b, c, d, e, f, g, i, j, k, l⟩ := h
  ⟨a, b, c, d, e, f, g, i, j, k, l⟩

theorem recordRoom_of {s : State} {q p : Nat}
    (h : (s.queue q).held = [] ∧ (s.queue (s.fld (F.queCqContext q))).ringCore = some p ∧ s.fencedCore p = false ∧
      s.power p = pwLeaf ∧ s.ringUsed (s.fld (F.queCqContext q)) < s.ringSize (s.fld (F.queCqContext q)) ∧
      s.ringSize (s.fld (F.queCqContext q)) ≤ 2 ^ 15 ∧ s.fld (F.queTail (s.fld (F.queCqContext q))) < 2 ^ 16 ∧
      s.fld (F.queHead (s.fld (F.queCqContext q))) < 2 ^ 16 ∧ s.underWay = [] ∧
      s.bit (F.queNotifyEn (s.fld (F.queCqContext q))) = false ∧ s.fld (F.queCqContext q) ≠ q ∧
      s.fld (F.queCqContext q) < 8192) : s.RecordRoom q p :=
  ⟨h.1, ringRoom_of h.2⟩

theorem hears_of {s : State} {p : Packet}
    (h : s.alive = true ∧ s.linkOpen (30 + p.link.val) = true ∧ s.dieAwake = true ∧ s.bops = []) : s.Hears p :=
  ⟨h.1, h.2.1, h.2.2.1, h.2.2.2⟩

/-- What a packet in turn asks, in one. -/
def heard (s : State) (op : Nat) (p : Packet) : Bool :=
  decide (s.alive = true ∧ s.linkOpen (30 + p.link.val) = true ∧ s.dieAwake = true ∧ s.bops = []) &&
    decide (({ opcode := op, p } : Cmd).crcOk = true ∧ ({ opcode := op, p } : Cmd).broadcast = false ∧
      s.versionOk { opcode := op, p } = true ∧ s.seasonOk { opcode := op, p } = true)
def inOrder (s : State) (op : Nat) (p : Packet) : Bool :=
  decide (s.session.agreed ≠ 0 ∧ (op ≠ 1 ∧ op ≠ 2) ∧ p.hostSeq.toNat = s.session.next ∧
    diff32 p.devSeen.toNat s.session.dev ≤ 0 ∧ s.session.held = [])
def takenUp (s : State) (op : Nat) (p : Packet) : Bool :=
  decide (s.knownOpcode op = true ∧ s.available op = true ∧ ({ opcode := op, p } : Cmd).poll = false)

theorem well_of {s : State} {op : Nat} {p : Packet} (h : heard s op p = true) : s.Well op p := by
  simp only [heard, Bool.and_eq_true, decide_eq_true_eq] at h
  exact ⟨hears_of h.1, h.2.1, h.2.2.1, h.2.2.2.1, h.2.2.2.2⟩

theorem inTurn_of {s : State} {op : Nat} {p : Packet} (h : (heard s op p && inOrder s op p) = true) : s.InTurn op p := by
  simp only [inOrder, Bool.and_eq_true, decide_eq_true_eq] at h
  exact ⟨well_of h.1, h.2.1, h.2.2.1, h.2.2.2.1, h.2.2.2.2.1, h.2.2.2.2.2⟩

theorem takes_of {s : State} {op : Nat} {p : Packet}
    (h : ((heard s op p && inOrder s op p) && takenUp s op p) = true) : s.Takes op p := by
  simp only [Bool.and_eq_true (_ && _), takenUp, decide_eq_true_eq] at h
  exact ⟨inTurn_of h.1, h.2.1, h.2.2.1, h.2.2.2⟩

/-- A next state of which p holds. -/
def after (o : Host.Outcome State Fault Refusal) (p : State → Bool) : Bool :=
  match o with
  | .next t => p t
  | _ => false

/-! ### Operands and commands that are refused or spelled -/

/-- A flit of 14 slots is ill formed and stops by name. -/
theorem test_ill_formed_flit_refused :
    let f : Flit := { fl 0 1 1 [] with slots := List.replicate 14 (List.replicate 16 0) }
    (Instr.dataFlit 23 f).wf = false ∧
      Sys2Proof.Machine.exec (.dataFlit 23 f) (link 23 lkActive die) = .fault .illFormed := ⟨by decide +kernel, rfl⟩

/-- A flit with a slot of 15 bytes is ill formed and stops by name. -/
theorem test_short_slot_refused :
    let f : Flit := { fl 0 1 1 [] with slots := List.replicate 15 (List.replicate 15 0) }
    (Instr.retry 23 f).wf = false ∧
      Sys2Proof.Machine.exec (.retry 23 f) (link 23 lkActive die) = .fault .illFormed := ⟨by decide +kernel, rfl⟩

/-- A flit of 15 slots of 16 bytes is well formed. -/
theorem test_flit_accepted : (Instr.idleFlit 23 (fl 1 0 0 [])).wf = true := by decide +kernel

/-- No row of the table gives bits, so no word spells a command. -/
theorem test_no_word_spells_a_command : decodeTableWord 32 0 = none := rfl

/-! ### Worked examples of the spec -/

/-- ISSUE with ENG = 0, TAG = 5, NOTIFY = 1, BARRIER = 0, SA = s4, IMM10 = 3 (03_cores_and_clumps.md). -/
theorem test_issue_word : encIssue 0 5 1 0 4 3 = 0x80161003 := by decide +kernel

/-- WAIT for BINDER_WAKE alone, with CLEAR set (03_cores_and_clumps.md). -/
theorem test_wait_word : encWait 0 0 1 0 4 = 0x88080004 := by decide +kernel

/-- Byte 0x1234 of logical core 60 on the die at position 7 of package 5 (02_addresses_and_numbering.md). -/
theorem test_address_example :
    let a := 0x002B90000F001234
    addrDie a = 5 * 16 + 7 ∧ addrSpace a = 1 ∧ addrOff a / 2 ^ 22 = 60 ∧ addrOff a % 2 ^ 22 = 0x1234 ∧
      bankOf (addrOff a % 2 ^ 22) = 0 := by decide

/-- An SB4 block of amax 2.4 takes the scale 0.40625, code 0x2D; 2.4 and −0.7 become codes 0x7 and 0xB (05_matrix_engine.md). -/
theorem test_sb4_example :
    let q := fun (neg : Bool) (m : Nat) => (fmtE2M1.toElem .nearest ((FV.fin neg m 10 0).div (fmtE4M3.decode 0x2D)) 0).1
    sb4Scale (.fin false 24 10 0) = 0x2D ∧ q false 24 = 0x7 ∧ q true 7 = 0xB := by decide +kernel

/-- U0 and clump 23 lie 7 hops apart over the stile, 24 cc: entry 0x1887 (08_pleach_network.md, R298). -/
theorem test_distance_example : die.distEntry 23 30 = 0x1887 := by decide +kernel

/-- Sensor 33 with a factory offset of −20 and a user offset of 40 (17_calibration_and_test.md): raw 103.50 °C, which is
1656 sixteenths, reads 104.75 °C, which is 1676. -/
theorem test_sensor_offset_example :
    let s := flds [(F.calTempOffEffective 33, 20)] die
    after (Sys2Proof.Machine.exec (.sensorSample (List.replicate 34 1656) []) s) (fun t => decide (t.fld (F.telTempTemp 33) = 1676)) = true := by decide +kernel

/-- SHA-256 of the three bytes "abc" begins BA7816BF (FIPS 180-4, which the spec names). -/
theorem test_sha256 : (sha256 [0x61, 0x62, 0x63]).take 4 = [0xBA, 0x78, 0x16, 0xBF] := by decide +kernel

/-! ### One step of each family -/

/-- The program counter of core 3 wraps at 8,192 words and a sum at 32 bits (R75, R82). -/
theorem test_add_wraps :
    let s := sq 3 8191 (encA 0 5 6 7) [(6, 0x80000003), (7, 0xFFFFFFFF)] die
    after (Sys2Proof.Machine.step { s with pending := [.add 3 5 6 7] }) (fun t =>
      decide (t.sreg 3 5 = 0x80000002 ∧ t.fld (F.corPc 3) = 0 ∧ t.pending = [])) = true := by decide +kernel

/-- s0 reads as 0 and discards what is written (R75). -/
theorem test_s0_discards :
    after (Sys2Proof.Machine.exec (.addi 3 0 6 5) (sq 3 0 (encB 0x0C 0 6 5) [(6, 1)] die)) (fun t => decide (t.sreg 3 0 = 0 ∧ t.fld (F.corPc 3) = 1)) = true := by decide +kernel

/-- COUNT reaching TARGET releases once and moves TARGET by STEP (R350). -/
theorem test_arrive_fires :
    after (Sys2Proof.Machine.exec (.arrive .hedger (BitVec.ofNat 64 bndAddr) 0) (binder [(F.bndCount 5, 2)] die)) (fun t => decide (t.fld (F.bndCount 5) = 3 ∧ t.fld (F.bndTarget 5) = 6 ∧ t.fld (F.bndReleases 5) = 1)) = true := by decide +kernel

/-- An idle link sends an IDLE flit with ACK one before the next expected SEQ, and no SEQ of its own (R377, R387). -/
theorem test_idle_flit_acks :
    let s := lnk 23 (fun l => { l with txSeq := 4095 }) (link 23 lkActive die)
    after (Sys2Proof.Machine.exec (.flitSend 23) s) (fun t =>
      (t.link 23).txSeq == 4095 && (match (t.link 23).wire with
        | some (.flit g) => g.ack == 0xFFF && g.kind == 1
        | _ => false)) = true := by decide +kernel

/-- On an empty queue of a die without clocks a step idles (log 18). -/
theorem test_empty_queue_idles : Sys2Proof.Machine.step { clocksOff := true } = .next { clocksOff := true } := rfl

/-! ### States that meet the hypotheses of every clause of every statement -/

theorem witness_StepRunsFrontCommand :
    (let s : State := die; (s.pending = [])) ∧
    (let s : State := { clocksOff := true }; (s.pending = []) ∧ (s.clocksOff = true)) :=
  ⟨by decide +kernel, by decide +kernel⟩

theorem witness_StepKeepsInvariant :
    (let s : State := ({} : State); let t : State := ({} : State); (s.Inv) ∧ (Sys2Proof.Machine.step s = .next t)) :=
  ⟨⟨by decide +kernel, by decide +kernel, by decide +kernel, by decide +kernel, by decide +kernel⟩, rfl⟩

theorem witness_ResetMeetsInvariant :
    (let i := 31; (i < 32)) :=
  by decide +kernel

theorem witness_SqResults :
    (let s : State := sq 3 8191 (encA 0 5 6 7) [(6, 0x80000003), (7, 0xFFFFFFE1)] die; let c : CoreNo := 3;
     let p : Nat := 3; let sd : SReg := 5; let sa : SReg := 6; let sb : SReg := 7;
     (s.SqRuns c p (encA 0x00 sd.val sa.val sb.val))) ∧
    (let s : State := sq 3 8191 (encA 1 5 6 7) [(6, 0x80000003), (7, 0xFFFFFFE1)] die; let c : CoreNo := 3;
     let p : Nat := 3; let sd : SReg := 5; let sa : SReg := 6; let sb : SReg := 7;
     (s.SqRuns c p (encA 0x01 sd.val sa.val sb.val))) ∧
    (let s : State := sq 3 8191 (encA 2 5 6 7) [(6, 0x80000003), (7, 0xFFFFFFE1)] die; let c : CoreNo := 3;
     let p : Nat := 3; let sd : SReg := 5; let sa : SReg := 6; let sb : SReg := 7;
     (s.SqRuns c p (encA 0x02 sd.val sa.val sb.val))) ∧
    (let s : State := sq 3 8191 (encA 3 5 6 7) [(6, 0x80000003), (7, 0xFFFFFFE1)] die; let c : CoreNo := 3;
     let p : Nat := 3; let sd : SReg := 5; let sa : SReg := 6; let sb : SReg := 7;
     (s.SqRuns c p (encA 0x03 sd.val sa.val sb.val))) ∧
    (let s : State := sq 3 8191 (encA 4 5 6 7) [(6, 0x80000003), (7, 0xFFFFFFE1)] die; let c : CoreNo := 3;
     let p : Nat := 3; let sd : SReg := 5; let sa : SReg := 6; let sb : SReg := 7;
     (s.SqRuns c p (encA 0x04 sd.val sa.val sb.val))) ∧
    (let s : State := sq 3 8191 (encA 5 5 6 7) [(6, 0x80000003), (7, 0xFFFFFFE1)] die; let c : CoreNo := 3;
     let p : Nat := 3; let sd : SReg := 5; let sa : SReg := 6; let sb : SReg := 7;
     (s.SqRuns c p (encA 0x05 sd.val sa.val sb.val))) ∧
    (let s : State := sq 3 8191 (encA 6 5 6 7) [(6, 0x80000003), (7, 0xFFFFFFE1)] die; let c : CoreNo := 3;
     let p : Nat := 3; let sd : SReg := 5; let sa : SReg := 6; let sb : SReg := 7;
     (s.SqRuns c p (encA 0x06 sd.val sa.val sb.val))) ∧
    (let s : State := sq 3 8191 (encA 7 5 6 7) [(6, 0x80000003), (7, 0xFFFFFFE1)] die; let c : CoreNo := 3;
     let p : Nat := 3; let sd : SReg := 5; let sa : SReg := 6; let sb : SReg := 7;
     (s.SqRuns c p (encA 0x07 sd.val sa.val sb.val))) ∧
    (let s : State := sq 3 8191 (encA 8 5 6 7) [(6, 0x80000003), (7, 0xFFFFFFE1)] die; let c : CoreNo := 3;
     let p : Nat := 3; let sd : SReg := 5; let sa : SReg := 6; let sb : SReg := 7;
     (s.SqRuns c p (encA 0x08 sd.val sa.val sb.val))) ∧
    (let s : State := sq 3 8191 (encA 9 5 6 7) [(6, 0x80000003), (7, 0xFFFFFFE1)] die; let c : CoreNo := 3;
     let p : Nat := 3; let sd : SReg := 5; let sa : SReg := 6; let sb : SReg := 7;
     (s.SqRuns c p (encA 0x09 sd.val sa.val sb.val))) ∧
    (let s : State := sq 3 8191 (encA 10 5 6 7) [(6, 0x80000003), (7, 0xFFFFFFE1)] die; let c : CoreNo := 3;
     let p : Nat := 3; let sd : SReg := 5; let sa : SReg := 6; let sb : SReg := 7;
     (s.SqRuns c p (encA 0x0A sd.val sa.val sb.val))) ∧
    (let s : State := sq 3 8191 (encA 11 5 6 7) [(6, 0x80000003), (7, 0xFFFFFFE1)] die; let c : CoreNo := 3;
     let p : Nat := 3; let sd : SReg := 5; let sa : SReg := 6; let sb : SReg := 7;
     (s.SqRuns c p (encA 0x0B sd.val sa.val sb.val))) ∧
    (let s : State := sq 3 8191 (encB 12 5 6 0x8001) [(6, 0x80000003), (7, 0xFFFFFFE1)] die; let c : CoreNo := 3;
     let p : Nat := 3; let sd : SReg := 5; let sa : SReg := 6; let imm : BitVec 16 := 0x8001;
     (s.SqRuns c p (encB 0x0C sd.val sa.val imm.toNat))) ∧
    (let s : State := sq 3 8191 (encB 13 5 6 0x8001) [(6, 0x80000003), (7, 0xFFFFFFE1)] die; let c : CoreNo := 3;
     let p : Nat := 3; let sd : SReg := 5; let sa : SReg := 6; let imm : BitVec 16 := 0x8001;
     (s.SqRuns c p (encB 0x0D sd.val sa.val imm.toNat))) ∧
    (let s : State := sq 3 8191 (encB 14 5 6 0x8001) [(6, 0x80000003), (7, 0xFFFFFFE1)] die; let c : CoreNo := 3;
     let p : Nat := 3; let sd : SReg := 5; let sa : SReg := 6; let imm : BitVec 16 := 0x8001;
     (s.SqRuns c p (encB 0x0E sd.val sa.val imm.toNat))) ∧
    (let s : State := sq 3 8191 (encB 0xF 5 0 0x8001) [(6, 0x80000003), (7, 0xFFFFFFE1)] die; let c : CoreNo := 3;
     let p : Nat := 3; let sd : SReg := 5; let imm : BitVec 16 := 0x8001;
     (s.SqRuns c p (encB 0x0F sd.val 0 imm.toNat))) :=
  ⟨sqRuns_of (by decide +kernel),
    sqRuns_of (by decide +kernel),
    sqRuns_of (by decide +kernel),
    sqRuns_of (by decide +kernel),
    sqRuns_of (by decide +kernel),
    sqRuns_of (by decide +kernel),
    sqRuns_of (by decide +kernel),
    sqRuns_of (by decide +kernel),
    sqRuns_of (by decide +kernel),
    sqRuns_of (by decide +kernel),
    sqRuns_of (by decide +kernel),
    sqRuns_of (by decide +kernel),
    sqRuns_of (by decide +kernel),
    sqRuns_of (by decide +kernel),
    sqRuns_of (by decide +kernel),
    sqRuns_of (by decide +kernel)⟩

theorem witness_SqBranchesAndJumps :
    (let s : State := sq 3 100 (encC 0x18 6 7 0xFF9C) [(6, 5), (7, 5)] die; let c : CoreNo := 3; let p : Nat := 3;
     let sa : SReg := 6; let sb : SReg := 7; let off : BitVec 16 := 0xFF9C;
     (s.SqRuns c p (encC 0x18 sa.val sb.val off.toNat))) ∧
    (let s : State := sq 3 100 (encC 0x19 6 7 0xFF9C) [(6, 5), (7, 5)] die; let c : CoreNo := 3; let p : Nat := 3;
     let sa : SReg := 6; let sb : SReg := 7; let off : BitVec 16 := 0xFF9C;
     (s.SqRuns c p (encC 0x19 sa.val sb.val off.toNat))) ∧
    (let s : State := sq 3 100 (encC 0x1A 6 7 0xFF9C) [(6, 5), (7, 5)] die; let c : CoreNo := 3; let p : Nat := 3;
     let sa : SReg := 6; let sb : SReg := 7; let off : BitVec 16 := 0xFF9C;
     (s.SqRuns c p (encC 0x1A sa.val sb.val off.toNat))) ∧
    (let s : State := sq 3 100 (encC 0x1B 6 7 0x1F9B) [(6, 5), (7, 5)] die; let c : CoreNo := 3; let p : Nat := 3;
     let sa : SReg := 6; let sb : SReg := 7; let off : BitVec 16 := 0x1F9B;
     (s.SqRuns c p (encC 0x1B sa.val sb.val off.toNat))) ∧
    (let s : State := sq 3 100 (encB 0x1C 5 6 0x1FFA) [(6, 5), (7, 5)] die; let c : CoreNo := 3; let p : Nat := 3;
     let sd : SReg := 5; let sa : SReg := 6; let imm : BitVec 16 := 0x1FFA;
     let target := (s.sreg p sa.val + imm.signExtend 32).toNat; (s.SqRuns c p (encB 0x1C sd.val sa.val imm.toNat)) ∧
       (target ≤ 8191)) ∧
    (let s : State := sq 3 100 (encB 0x1C 5 6 0x1FFB) [(6, 5), (7, 5)] die; let c : CoreNo := 3; let p : Nat := 3;
     let sd : SReg := 5; let sa : SReg := 6; let imm : BitVec 16 := 0x1FFB;
     let target := (s.sreg p sa.val + imm.signExtend 32).toNat; (s.SqRuns c p (encB 0x1C sd.val sa.val imm.toNat)) ∧
       (8191 < target)) :=
  ⟨sqRuns_of (by decide +kernel),
    sqRuns_of (by decide +kernel),
    sqRuns_of (by decide +kernel),
    sqRuns_of (by decide +kernel),
    ⟨sqRuns_of (by decide +kernel), by decide +kernel⟩,
    ⟨sqRuns_of (by decide +kernel), by decide +kernel⟩⟩

theorem witness_SqLoadsAndStores :
    (let s : State := id (sq 5 8191 (encB 0x10 8 6 0x400) [(6, 0x7FFBF9), (8, 0x11223344), (9, 0x55667788)] (die));
     let c : CoreNo := 5; let p : Nat := 5; let sd : SReg := 8; let sa : SReg := 6; let imm : BitVec 16 := 0x400;
     let a := (s.sreg p sa.val + imm.signExtend 32).toNat; (s.SqRuns c p (encB 0x10 sd.val sa.val imm.toNat)) ∧
       (a % 4 ≠ 0)) ∧
    (let s : State := id (sq 5 8191 (encB 0x10 8 6 0x400) [(6, 0xBFFBF8), (8, 0x11223344), (9, 0x55667788)] (die));
     let c : CoreNo := 5; let p : Nat := 5; let sd : SReg := 8; let sa : SReg := 6; let imm : BitVec 16 := 0x400;
     let a := (s.sreg p sa.val + imm.signExtend 32).toNat; (s.SqRuns c p (encB 0x10 sd.val sa.val imm.toNat)) ∧
       (a % 4 = 0) ∧ (s.reach p (a / 2 ^ 22 % 4) = .denied)) ∧
    (let s : State := bytes 5 0x3FFFF8 [1, 2, 3, 4, 5, 6, 7, 8] (sq 5 8191 (encB 0x10 8 6 0x400) [(6, 0x7FFBF8), (8, 0x11223344), (9, 0x55667788)] (die));
     let c : CoreNo := 5; let p : Nat := 5; let sd : SReg := 8; let sa : SReg := 6; let imm : BitVec 16 := 0x400;
     let a := (s.sreg p sa.val + imm.signExtend 32).toNat; let q := 5;
     (s.SqRuns c p (encB 0x10 sd.val sa.val imm.toNat)) ∧ (a % 4 = 0) ∧ (s.reach p (a / 2 ^ 22 % 4) = .ok q)) ∧
    (let s : State := id (sq 5 8191 (encB 0x11 9 6 0x400) [(6, 0x7FFBF8), (8, 0x11223344), (9, 0x55667788)] (die));
     let c : CoreNo := 5; let p : Nat := 5; let sd : SReg := 9; let sa : SReg := 6; let imm : BitVec 16 := 0x400;
     (s.SqRuns c p (encB 0x11 sd.val sa.val imm.toNat)) ∧ (sd.val % 2 = 1)) ∧
    (let s : State := id (sq 5 8191 (encB 0x11 8 6 0x400) [(6, 0x7FFBFC), (8, 0x11223344), (9, 0x55667788)] (die));
     let c : CoreNo := 5; let p : Nat := 5; let sd : SReg := 8; let sa : SReg := 6; let imm : BitVec 16 := 0x400;
     let a := (s.sreg p sa.val + imm.signExtend 32).toNat; (s.SqRuns c p (encB 0x11 sd.val sa.val imm.toNat)) ∧
       (sd.val % 2 = 0) ∧ (a % 8 ≠ 0)) ∧
    (let s : State := id (sq 5 8191 (encB 0x11 8 6 0x400) [(6, 0xBFFBF8), (8, 0x11223344), (9, 0x55667788)] (die));
     let c : CoreNo := 5; let p : Nat := 5; let sd : SReg := 8; let sa : SReg := 6; let imm : BitVec 16 := 0x400;
     let a := (s.sreg p sa.val + imm.signExtend 32).toNat; (s.SqRuns c p (encB 0x11 sd.val sa.val imm.toNat)) ∧
       (sd.val % 2 = 0) ∧ (a % 8 = 0) ∧ (s.reach p (a / 2 ^ 22 % 4) = .denied)) ∧
    (let s : State := bytes 5 0x3FFFF8 [1, 2, 3, 4, 5, 6, 7, 8] (sq 5 8191 (encB 0x11 8 6 0x400) [(6, 0x7FFBF8), (8, 0x11223344), (9, 0x55667788)] (die));
     let c : CoreNo := 5; let p : Nat := 5; let sd : SReg := 8; let sa : SReg := 6; let imm : BitVec 16 := 0x400;
     let a := (s.sreg p sa.val + imm.signExtend 32).toNat; let q := 5;
     (s.SqRuns c p (encB 0x11 sd.val sa.val imm.toNat)) ∧ (sd.val % 2 = 0) ∧ (a % 8 = 0) ∧
       (s.reach p (a / 2 ^ 22 % 4) = .ok q)) ∧
    (let s : State := id (sq 5 8191 (encB 0x12 8 6 0x400) [(6, 0x7FFBFA), (8, 0x11223344), (9, 0x55667788)] (die));
     let c : CoreNo := 5; let p : Nat := 5; let sd : SReg := 8; let sa : SReg := 6; let imm : BitVec 16 := 0x400;
     let a := (s.sreg p sa.val + imm.signExtend 32).toNat; (s.SqRuns c p (encB 0x12 sd.val sa.val imm.toNat)) ∧
       (a % 4 ≠ 0)) ∧
    (let s : State := id (sq 5 8191 (encB 0x12 8 6 0x400) [(6, 0xBFFBF8), (8, 0x11223344), (9, 0x55667788)] (die));
     let c : CoreNo := 5; let p : Nat := 5; let sd : SReg := 8; let sa : SReg := 6; let imm : BitVec 16 := 0x400;
     let a := (s.sreg p sa.val + imm.signExtend 32).toNat; (s.SqRuns c p (encB 0x12 sd.val sa.val imm.toNat)) ∧
       (a % 4 = 0) ∧ (s.reach p (a / 2 ^ 22 % 4) = .denied)) ∧
    (let s : State := id (sq 5 8191 (encB 0x12 8 6 0x400) [(6, 0x7FFBFC), (8, 0x11223344), (9, 0x55667788)] (die));
     let c : CoreNo := 5; let p : Nat := 5; let sd : SReg := 8; let sa : SReg := 6; let imm : BitVec 16 := 0x400;
     let a := (s.sreg p sa.val + imm.signExtend 32).toNat; let q := 5;
     (s.SqRuns c p (encB 0x12 sd.val sa.val imm.toNat)) ∧ (a % 4 = 0) ∧ (s.reach p (a / 2 ^ 22 % 4) = .ok q)) ∧
    (let s : State := id (sq 5 8191 (encB 0x13 9 6 0x400) [(6, 0x7FFBF8), (8, 0x11223344), (9, 0x55667788)] (die));
     let c : CoreNo := 5; let p : Nat := 5; let sd : SReg := 9; let sa : SReg := 6; let imm : BitVec 16 := 0x400;
     (s.SqRuns c p (encB 0x13 sd.val sa.val imm.toNat)) ∧ (sd.val % 2 = 1)) ∧
    (let s : State := id (sq 5 8191 (encB 0x13 8 6 0x400) [(6, 0x7FFBFC), (8, 0x11223344), (9, 0x55667788)] (die));
     let c : CoreNo := 5; let p : Nat := 5; let sd : SReg := 8; let sa : SReg := 6; let imm : BitVec 16 := 0x400;
     let a := (s.sreg p sa.val + imm.signExtend 32).toNat; (s.SqRuns c p (encB 0x13 sd.val sa.val imm.toNat)) ∧
       (sd.val % 2 = 0) ∧ (a % 8 ≠ 0)) ∧
    (let s : State := id (sq 5 8191 (encB 0x13 8 6 0x400) [(6, 0xBFFBF8), (8, 0x11223344), (9, 0x55667788)] (die));
     let c : CoreNo := 5; let p : Nat := 5; let sd : SReg := 8; let sa : SReg := 6; let imm : BitVec 16 := 0x400;
     let a := (s.sreg p sa.val + imm.signExtend 32).toNat; (s.SqRuns c p (encB 0x13 sd.val sa.val imm.toNat)) ∧
       (sd.val % 2 = 0) ∧ (a % 8 = 0) ∧ (s.reach p (a / 2 ^ 22 % 4) = .denied)) ∧
    (let s : State := id (sq 5 8191 (encB 0x13 8 6 0x400) [(6, 0x7FFBF8), (8, 0x11223344), (9, 0x55667788)] (die));
     let c : CoreNo := 5; let p : Nat := 5; let sd : SReg := 8; let sa : SReg := 6; let imm : BitVec 16 := 0x400;
     let a := (s.sreg p sa.val + imm.signExtend 32).toNat; let q := 5;
     (s.SqRuns c p (encB 0x13 sd.val sa.val imm.toNat)) ∧ (sd.val % 2 = 0) ∧ (a % 8 = 0) ∧
       (s.reach p (a / 2 ^ 22 % 4) = .ok q)) :=
  ⟨⟨sqRuns_of (by decide +kernel), by decide +kernel⟩,
    ⟨sqRuns_of (by decide +kernel), by decide +kernel, by decide +kernel⟩,
    ⟨sqRuns_of (by decide +kernel), by decide +kernel, by decide +kernel⟩,
    ⟨sqRuns_of (by decide +kernel), by decide +kernel⟩,
    ⟨sqRuns_of (by decide +kernel), by decide +kernel, by decide +kernel⟩,
    ⟨sqRuns_of (by decide +kernel), by decide +kernel, by decide +kernel, by decide +kernel⟩,
    ⟨sqRuns_of (by decide +kernel), by decide +kernel, by decide +kernel, by decide +kernel⟩,
    ⟨sqRuns_of (by decide +kernel), by decide +kernel⟩,
    ⟨sqRuns_of (by decide +kernel), by decide +kernel, by decide +kernel⟩,
    ⟨sqRuns_of (by decide +kernel), by decide +kernel, by decide +kernel⟩,
    ⟨sqRuns_of (by decide +kernel), by decide +kernel⟩,
    ⟨sqRuns_of (by decide +kernel), by decide +kernel, by decide +kernel⟩,
    ⟨sqRuns_of (by decide +kernel), by decide +kernel, by decide +kernel, by decide +kernel⟩,
    ⟨sqRuns_of (by decide +kernel), by decide +kernel, by decide +kernel, by decide +kernel⟩⟩

theorem witness_ClumpReach :
    (let p : Nat := 5; let q : Nat := 1; (q = p % 4)) ∧
    (let s : State := flds [(F.evgFenced 0, 0x40)] die; let p : Nat := 5; let q : Nat := 2;
     let n := 4 * (p / 4) + q; (q ≠ p % 4) ∧ (q < 4) ∧ (s.fencedCore n = true)) ∧
    (let s : State := die; let p : Nat := 5; let q : Nat := 2; let n := 4 * (p / 4) + q; (q ≠ p % 4) ∧ (q < 4) ∧
       (s.fencedCore n = false) ∧ (s.kernelOn p = none)) ∧
    (let s : State := { die with kernels := [kernel 4 [5, 6]] }; let p : Nat := 5; let q : Nat := 2;
     let n := 4 * (p / 4) + q; let k := kernel 4 [5, 6]; (q ≠ p % 4) ∧ (q < 4) ∧ (s.fencedCore n = false) ∧
       (s.kernelOn p = some k)) ∧
    (let s : State := { die with kernels := [kernel 4 [5, 6]] }; let p : Nat := 5; let q : Nat := 3;
     let n := 4 * (p / 4) + q; let k := kernel 4 [5, 6]; (q ≠ p % 4) ∧ (q < 4) ∧ (s.fencedCore n = false) ∧
       (s.kernelOn p = some k) ∧ (s.reach p q ≠ .ok n)) ∧
    (let s : State := flds [(F.evgFenced 0, 0x40)] (id (sq 5 8191 (encB 0x10 8 6 0x400) [(6, 0xBFFBF8), (8, 0x11223344), (9, 0x55667788)] (die)));
     let p : Nat := 5; let c : CoreNo := 5; let sd : SReg := 8; let sa : SReg := 6; let imm : BitVec 16 := 0x400;
     let a := (s.sreg p sa.val + imm.signExtend 32).toNat; (a % 4 = 0) ∧ (s.reach p (a / 2 ^ 22 % 4) = .fenced) ∧
       (s.SqRuns c p (encB 0x10 sd.val sa.val imm.toNat))) ∧
    (let s : State := flds [(F.evgFenced 0, 0x40)] (id (sq 5 8191 (encB 0x12 8 6 0x400) [(6, 0xBFFBF8), (8, 0x11223344), (9, 0x55667788)] (die)));
     let p : Nat := 5; let c : CoreNo := 5; let sd : SReg := 8; let sa : SReg := 6; let imm : BitVec 16 := 0x400;
     let a := (s.sreg p sa.val + imm.signExtend 32).toNat; (a % 4 = 0) ∧ (s.reach p (a / 2 ^ 22 % 4) = .fenced) ∧
       (s.SqRuns c p (encB 0x12 sd.val sa.val imm.toNat))) :=
  ⟨by decide +kernel,
    by decide +kernel,
    by decide +kernel,
    by decide +kernel,
    by decide +kernel,
    ⟨by decide +kernel, by decide +kernel, sqRuns_of (by decide +kernel)⟩,
    ⟨by decide +kernel, by decide +kernel, sqRuns_of (by decide +kernel)⟩⟩

theorem witness_SqFenceAndEnd :
    (let s : State := sq 5 8191 (encFence 0 0 0 0) [] die; let c : CoreNo := 5; let p : Nat := 5;
     let mx : Bool := false; let vx : Bool := false; let post : Bool := false; let store : Bool := false;
     let all := !mx && !vx && !post && !store;
     let mxIdle := (s.core p).mxq = [] ∧ (s.core p).mxRun = none ∧ (s.core p).mxDrain = none;
     let vxIdle := (s.core p).vxq = [] ∧ (s.core p).vxRun = none;
     let holds := ((mx || all) = true → mxIdle) ∧ ((vx || all) = true → vxIdle) ∧ ((post || all) = true → (s.core p).postsOut = 0);
     (s.sqAt c (encFence mx.toNat vx.toNat post.toNat store.toNat) csFencing = some p) ∧ (holds)) ∧
    (let s : State := core 5 (fun c => { c with postsOut := 1 }) (sq 5 7 (encFence 0 0 1 0) [] die);
     let c : CoreNo := 5; let p : Nat := 5; let mx : Bool := false; let vx : Bool := false; let post : Bool := true;
     let store : Bool := false; let all := !mx && !vx && !post && !store;
     let mxIdle := (s.core p).mxq = [] ∧ (s.core p).mxRun = none ∧ (s.core p).mxDrain = none;
     let vxIdle := (s.core p).vxq = [] ∧ (s.core p).vxRun = none;
     let holds := ((mx || all) = true → mxIdle) ∧ ((vx || all) = true → vxIdle) ∧ ((post || all) = true → (s.core p).postsOut = 0);
     (s.sqAt c (encFence mx.toNat vx.toNat post.toNat store.toNat) csFencing = some p) ∧ (¬ holds)) ∧
    (let s : State := core 5 (fun c => { c with postsOut := 1 }) (sq 5 7 encEnd [] die); let c : CoreNo := 5;
     let p : Nat := 5; let mxIdle := (s.core p).mxq = [] ∧ (s.core p).mxRun = none ∧ (s.core p).mxDrain = none;
     let vxIdle := (s.core p).vxq = [] ∧ (s.core p).vxRun = none; (s.sqAt c encEnd csFencing = some p) ∧
       (¬ (mxIdle ∧ vxIdle ∧ (s.core p).postsOut = 0))) ∧
    (let s : State := sq 5 7 encEnd [] die; let c : CoreNo := 5; let p : Nat := 5;
     let mxIdle := (s.core p).mxq = [] ∧ (s.core p).mxRun = none ∧ (s.core p).mxDrain = none;
     let vxIdle := (s.core p).vxq = [] ∧ (s.core p).vxRun = none; (s.sqAt c encEnd csFencing = some p) ∧
       (mxIdle ∧ vxIdle ∧ (s.core p).postsOut = 0)) :=
  ⟨by decide +kernel, by decide +kernel, by decide +kernel, by decide +kernel⟩

theorem witness_SqWait :
    (let s : State := sq 5 7 (encWait 6 1 1 0 0) [] die; let c : CoreNo := 5; let p : Nat := 5; let sa : SReg := 6;
     let all : Bool := true; let clear : Bool := true; let imm : BitVec 16 := 0;
     let mask := ((s.sreg p sa.val) ||| imm.setWidth 32).toNat % 65536;
     (s.SqRuns c p (encWait sa.val all.toNat clear.toNat 0 imm.toNat)) ∧ (mask = 0)) ∧
    (let s : State := flds [(F.corEventTimer 5, 1)] (sq 5 8191 (encWait 6 1 1 0 0x20) [] die); let c : CoreNo := 5;
     let p : Nat := 5; let sa : SReg := 6; let all : Bool := true; let clear : Bool := true;
     let imm : BitVec 16 := 0x0020; let mask := ((s.sreg p sa.val) ||| imm.setWidth 32).toNat % 65536;
     let w : WaitReq := { mask, all, clear, power := false };
     let meets := fun (v : WaitReq) (bits : Nat) => if v.all then bits &&& v.mask = v.mask else bits &&& v.mask ≠ 0;
     (s.SqRuns c p (encWait sa.val all.toNat clear.toNat 0 imm.toNat)) ∧ (mask ≠ 0) ∧ (meets w (s.eventWord p))) ∧
    (let s : State := sq 5 7 (encWait 6 1 1 0 0x20) [] die; let c : CoreNo := 5; let p : Nat := 5;
     let sa : SReg := 6; let all : Bool := true; let clear : Bool := true; let imm : BitVec 16 := 0x0020;
     let mask := ((s.sreg p sa.val) ||| imm.setWidth 32).toNat % 65536;
     let w : WaitReq := { mask, all, clear, power := false };
     let meets := fun (v : WaitReq) (bits : Nat) => if v.all then bits &&& v.mask = v.mask else bits &&& v.mask ≠ 0;
     (s.SqRuns c p (encWait sa.val all.toNat clear.toNat 0 imm.toNat)) ∧ (mask ≠ 0) ∧ (¬ meets w (s.eventWord p))) ∧
    (let s : State := flds [(F.corEventTimer 5, 1), (F.corStatusState 5, csWaiting)] (core 5 (fun c => { c with wait := some { mask := 0x20, all := true, clear := true, power := false } }) die);
     let c : CoreNo := 5; let p : Nat := 5; let sa : SReg := 6; let all : Bool := true; let clear : Bool := true;
     let imm : BitVec 16 := 0x0020; let mask := ((s.sreg p sa.val) ||| imm.setWidth 32).toNat % 65536;
     let meets := fun (v : WaitReq) (bits : Nat) => if v.all then bits &&& v.mask = v.mask else bits &&& v.mask ≠ 0;
     let v := { mask := 0x20, all := true, clear := true, power := false }; (s.phys c.val = some p) ∧
       ((s.core p).wait = some v) ∧ (s.coreState p = csWaiting) ∧ (s.power p = pwLeaf) ∧
       (meets v (s.eventWord p ||| (s.core p).latch))) :=
  ⟨⟨sqRuns_of (by decide +kernel), by decide +kernel⟩,
    ⟨sqRuns_of (by decide +kernel), by decide +kernel, by decide +kernel⟩,
    ⟨sqRuns_of (by decide +kernel), by decide +kernel, by decide +kernel⟩,
    by decide +kernel⟩

theorem witness_SqScoreboard :
    (let s : State := sq 5 7 (encSb 0 1 6 7 8) [(7, 256)] die; let c : CoreNo := 5; let p : Nat := 5;
     let kind : Fin 4 := 1; let sa : SReg := 6; let sb : SReg := 7; let sd : SReg := 8;
     let a := (s.sreg p sa.val).toNat; let len := (s.sreg p sb.val).toNat;
     let static := s.fld (F.corStatusMode p) = 0; let bad := static ∨ len = 0 ∨ 2 ^ 24 < a + len; (kind.val < 2) ∧
       (s.SqRuns c p (encSb 0 kind.val sa.val sb.val sd.val)) ∧ (bad)) ∧
    (let s : State := flds ((List.range 32).map fun i => (F.spdSbAValid 5 i, 1)) (flds [(F.corStatusMode 5, 1)] (sq 5 7 (encSb 0 1 6 7 8) [(6, 0xFFFF00), (7, 256)] die));
     let c : CoreNo := 5; let p : Nat := 5; let kind : Fin 4 := 1; let sa : SReg := 6; let sb : SReg := 7;
     let sd : SReg := 8; let a := (s.sreg p sa.val).toNat; let len := (s.sreg p sb.val).toNat;
     let static := s.fld (F.corStatusMode p) = 0; let bad := static ∨ len = 0 ∨ 2 ^ 24 < a + len; (kind.val < 2) ∧
       (s.SqRuns c p (encSb 0 kind.val sa.val sb.val sd.val)) ∧ (¬ bad) ∧ ((∀ i, i < 32 → s.sbLive p i = true))) ∧
    (let s : State := flds [(F.spdSbAValid 5 31, 0)] (flds ((List.range 32).map fun i => (F.spdSbAValid 5 i, 1)) (flds [(F.corStatusMode 5, 1)] (sq 5 8191 (encSb 0 1 6 7 8) [(6, 0xFFFF00), (7, 256)] die)));
     let c : CoreNo := 5; let p : Nat := 5; let kind : Fin 4 := 1; let sa : SReg := 6; let sb : SReg := 7;
     let sd : SReg := 8; let a := (s.sreg p sa.val).toNat; let len := (s.sreg p sb.val).toNat;
     let static := s.fld (F.corStatusMode p) = 0; let bad := static ∨ len = 0 ∨ 2 ^ 24 < a + len; let i := 31;
     (kind.val < 2) ∧ (s.SqRuns c p (encSb 0 kind.val sa.val sb.val sd.val)) ∧ (¬ bad) ∧ (i < 32) ∧
       (s.sbLive p i = false) ∧ ((∀ j, j < i → s.sbLive p j = true))) ∧
    (let s : State := sq 5 7 (encSb 1 0 6 0 0) [(6, 31)] die; let c : CoreNo := 5; let p : Nat := 5;
     let sa : SReg := 6; let static := s.fld (F.corStatusMode p) = 0; (s.SqRuns c p (encSb 1 0 sa.val 0 0)) ∧
       (static)) ∧
    (let s : State := flds [(F.spdSbAValid 5 31, 1), (F.spdSbAValid 5 30, 1)] (flds [(F.corStatusMode 5, 1)] (sq 5 7 (encSb 1 0 6 0 0) [(6, 31), (7, 0)] die));
     let c : CoreNo := 5; let p : Nat := 5; let sa : SReg := 6; let static := s.fld (F.corStatusMode p) = 0;
     (s.SqRuns c p (encSb 1 0 sa.val 0 0)) ∧ (¬ static) ∧
       ((∀ d ∈ (s.core p).mxq ++ (s.core p).vxq, d.entered = true)) ∧
       ((∀ j r, (s.chan j).run = some r → r.sbPend = []))) ∧
    (let s : State := sq 5 7 (encSb 2 0 0 0 8) [] die; let c : CoreNo := 5; let p : Nat := 5; let sd : SReg := 8;
     let static := s.fld (F.corStatusMode p) = 0; (s.SqRuns c p (encSb 2 0 0 0 sd.val)) ∧ (static)) ∧
    (let s : State := flds [(F.spdSbAValid 5 31, 1), (F.spdSbAValid 5 30, 1)] (flds [(F.corStatusMode 5, 1)] (sq 5 7 (encSb 2 0 0 0 8) [(6, 31), (7, 0)] die));
     let c : CoreNo := 5; let p : Nat := 5; let sd : SReg := 8; let static := s.fld (F.corStatusMode p) = 0;
     (s.SqRuns c p (encSb 2 0 0 0 sd.val)) ∧ (¬ static)) :=
  ⟨⟨by decide +kernel, sqRuns_of (by decide +kernel), by decide +kernel⟩,
    ⟨by decide +kernel, sqRuns_of (by decide +kernel), by decide +kernel, by decide +kernel⟩,
    ⟨by decide +kernel, sqRuns_of (by decide +kernel), by decide +kernel, by decide +kernel, by decide +kernel,
      by decide +kernel⟩,
    ⟨sqRuns_of (by decide +kernel), by decide +kernel⟩,
    ⟨sqRuns_of (by decide +kernel), by decide +kernel, by decide +kernel,
      fun j r h => nomatch (show none = some r from h)⟩,
    ⟨sqRuns_of (by decide +kernel), by decide +kernel⟩,
    ⟨sqRuns_of (by decide +kernel), by decide +kernel⟩⟩

theorem witness_SqIssue :
    (let s : State := sq 5 8191 (encIssue 0 63 1 1 6 1) [(6, 0x400020)] die; let c : CoreNo := 5; let p : Nat := 5;
     let eng : Fin 2 := 0; let tag : Fin 64 := 63; let notify : Bool := true; let barrier : Bool := true;
     let sa : SReg := 6; let imm : BitVec 10 := 1;
     let a := (s.sreg p sa.val + BitVec.ofNat 32 (imm.toNat * 64)).toNat; let size := if eng = 0 then 128 else 256;
     let bad := a % 64 ≠ 0 ∨ a / 2 ^ 22 ≠ p % 4 ∨ 2 ^ 22 < a % 2 ^ 22 + size;
     (s.SqRuns c p (encIssue eng.val tag.val notify.toNat barrier.toNat sa.val imm.toNat)) ∧ (bad)) ∧
    (let s : State := core 5 (fun c => { c with mxq := List.replicate 8 (qd mxBytes) }) (sq 5 8191 (encIssue 0 63 1 1 6 1) [(6, 0x400000)] die);
     let c : CoreNo := 5; let p : Nat := 5; let eng : Fin 2 := 0; let tag : Fin 64 := 63; let notify : Bool := true;
     let barrier : Bool := true; let sa : SReg := 6; let imm : BitVec 10 := 1;
     let a := (s.sreg p sa.val + BitVec.ofNat 32 (imm.toNat * 64)).toNat; let size := if eng = 0 then 128 else 256;
     let queue := fun (u : State) (e : Nat) => (if e = 0 then (u.core p).mxq else (u.core p).vxq).map fun q => (q.seq, q.tag, q.notify, q.barrier, q.bytes);
     let bad := a % 64 ≠ 0 ∨ a / 2 ^ 22 ≠ p % 4 ∨ 2 ^ 22 < a % 2 ^ 22 + size;
     (s.SqRuns c p (encIssue eng.val tag.val notify.toNat barrier.toNat sa.val imm.toNat)) ∧ (¬ bad) ∧
       (8 ≤ (queue s eng.val).length)) ∧
    (let s : State := bytes 5 0x40 mxBytes (sq 5 8191 (encIssue 0 63 1 1 6 1) [(6, 0x400000)] die);
     let c : CoreNo := 5; let p : Nat := 5; let eng : Fin 2 := 0; let tag : Fin 64 := 63; let notify : Bool := true;
     let barrier : Bool := true; let sa : SReg := 6; let imm : BitVec 10 := 1;
     let port : PortEvent := .uncorrectable 5 1 2;
     let a := (s.sreg p sa.val + BitVec.ofNat 32 (imm.toNat * 64)).toNat; let size := if eng = 0 then 128 else 256;
     let queue := fun (u : State) (e : Nat) => (if e = 0 then (u.core p).mxq else (u.core p).vxq).map fun q => (q.seq, q.tag, q.notify, q.barrier, q.bytes);
     let bad := a % 64 ≠ 0 ∨ a / 2 ^ 22 ≠ p % 4 ∨ 2 ^ 22 < a % 2 ^ 22 + size;
     (s.SqRuns c p (encIssue eng.val tag.val notify.toNat barrier.toNat sa.val imm.toNat)) ∧ (¬ bad) ∧
       ((queue s eng.val).length < 8) ∧ ((∃ b r w, port = .uncorrectable b r w))) ∧
    (let s : State := sq 5 8191 (encIssue 0 63 1 1 6 1) [(6, 0x400000)] die; let c : CoreNo := 5; let p : Nat := 5;
     let eng : Fin 2 := 0; let tag : Fin 64 := 63; let notify : Bool := true; let barrier : Bool := true;
     let sa : SReg := 6; let imm : BitVec 10 := 1; let port : PortEvent := .clean;
     let a := (s.sreg p sa.val + BitVec.ofNat 32 (imm.toNat * 64)).toNat; let size := if eng = 0 then 128 else 256;
     let queue := fun (u : State) (e : Nat) => (if e = 0 then (u.core p).mxq else (u.core p).vxq).map fun q => (q.seq, q.tag, q.notify, q.barrier, q.bytes);
     let bytes := s.mem.gets (p * 2 ^ 22 + a % 2 ^ 22) size;
     let bad := a % 64 ≠ 0 ∨ a / 2 ^ 22 ≠ p % 4 ∨ 2 ^ 22 < a % 2 ^ 22 + size;
     let reason := if eng = 0 then (MxDesc.ofBytes bytes).reason bytes (s.heldFor p) else ((VxDesc.ofBytes bytes).reason bytes (p % 4) (s.fld (F.corStatusMode p) == 0)).1;
     (s.SqRuns c p (encIssue eng.val tag.val notify.toNat barrier.toNat sa.val imm.toNat)) ∧ (¬ bad) ∧
       ((queue s eng.val).length < 8) ∧ (port = .clean) ∧ (reason ≠ 0)) ∧
    (let s : State := bytes 5 0x40 mxBytes (sq 5 8191 (encIssue 0 63 1 1 6 1) [(6, 0x400000)] die);
     let c : CoreNo := 5; let p : Nat := 5; let eng : Fin 2 := 0; let tag : Fin 64 := 63; let notify : Bool := true;
     let barrier : Bool := true; let sa : SReg := 6; let imm : BitVec 10 := 1; let port : PortEvent := .clean;
     let a := (s.sreg p sa.val + BitVec.ofNat 32 (imm.toNat * 64)).toNat; let size := if eng = 0 then 128 else 256;
     let queue := fun (u : State) (e : Nat) => (if e = 0 then (u.core p).mxq else (u.core p).vxq).map fun q => (q.seq, q.tag, q.notify, q.barrier, q.bytes);
     let bytes := s.mem.gets (p * 2 ^ 22 + a % 2 ^ 22) size;
     let bad := a % 64 ≠ 0 ∨ a / 2 ^ 22 ≠ p % 4 ∨ 2 ^ 22 < a % 2 ^ 22 + size;
     let reason := if eng = 0 then (MxDesc.ofBytes bytes).reason bytes (s.heldFor p) else ((VxDesc.ofBytes bytes).reason bytes (p % 4) (s.fld (F.corStatusMode p) == 0)).1;
     (s.SqRuns c p (encIssue eng.val tag.val notify.toNat barrier.toNat sa.val imm.toNat)) ∧ (¬ bad) ∧
       ((queue s eng.val).length < 8) ∧ ((∀ b r w, port ≠ .uncorrectable b r w)) ∧ (reason = 0)) :=
  ⟨⟨sqRuns_of (by decide +kernel), by decide +kernel⟩,
    ⟨sqRuns_of (by decide +kernel), by decide +kernel, by decide +kernel⟩,
    ⟨sqRuns_of (by decide +kernel), by decide +kernel, by decide +kernel, ⟨5, 1, 2, rfl⟩⟩,
    ⟨sqRuns_of (by decide +kernel), by decide +kernel, by decide +kernel, by decide +kernel, by decide +kernel⟩,
    ⟨sqRuns_of (by decide +kernel), by decide +kernel, by decide +kernel, nofun, by decide +kernel⟩⟩

theorem witness_EnginesStart :
    (let s : State := core 5 (fun c => { c with mxq := [qd mxBytes] , vxRun := some { desc := { qd vxBytes with seq := 2 } } }) (flds [(F.corStatusState 5, csRunning)] die);
     let c : CoreNo := 5; let p : Nat := 5; let x : QDesc := qd mxBytes; let rest : List QDesc := [];
     let runs := ((s.core p).mxRun.toList ++ (s.core p).mxDrain.toList ++ (s.core p).vxRun.toList).map RunDesc.desc;
     let blocked := x.barrier = true ∧ ∃ o ∈ (s.core p).mxq ++ (s.core p).vxq ++ runs, o.seq < x.seq;
     (s.phys c.val = some p) ∧ ((s.core p).mxq = x :: rest) ∧ ((s.core p).mxDrain = none) ∧ (blocked)) ∧
    (let s : State := core 5 (fun c => { c with mxq := [qd mxBytes] }) (flds [(F.corStatusState 5, csRunning)] die);
     let c : CoreNo := 5; let p : Nat := 5; let met : List (Fin 4 × PortEvent) := []; let x : QDesc := qd mxBytes;
     let rest : List QDesc := []; let mx := MxDesc.ofBytes x.bytes; (s.phys c.val = some p) ∧
       ((s.core p).mxq = x :: rest) ∧ ((s.core p).mxDrain = none) ∧ (s.mayStart p x mx.ranges = true) ∧
       ((∀ i ∈ mx.positions, i = p % 4)) ∧ ((∀ e ∈ met, e.2 = .clean))) ∧
    (let s : State := core 5 (fun c => { c with vxq := [qd vxBytes] , mxq := [{ qd mxBytes with seq := 2 }] }) (flds [(F.corStatusState 5, csRunning)] die);
     let c : CoreNo := 5; let p : Nat := 5; let x : QDesc := qd vxBytes; let rest : List QDesc := [];
     let runs := ((s.core p).mxRun.toList ++ (s.core p).mxDrain.toList ++ (s.core p).vxRun.toList).map RunDesc.desc;
     let blocked := x.barrier = true ∧ ∃ o ∈ (s.core p).mxq ++ (s.core p).vxq ++ runs, o.seq < x.seq;
     (s.phys c.val = some p) ∧ ((s.core p).vxq = x :: rest) ∧ ((s.core p).vxRun = none) ∧ (blocked)) ∧
    (let s : State := core 5 (fun c => { c with vxq := [qd vxBytes] }) (flds [(F.corStatusState 5, csRunning)] die);
     let c : CoreNo := 5; let p : Nat := 5; let met : List (Fin 4 × PortEvent) := []; let x : QDesc := qd vxBytes;
     let rest : List QDesc := []; let vx := VxDesc.ofBytes x.bytes; (s.phys c.val = some p) ∧
       ((s.core p).vxq = x :: rest) ∧ ((s.core p).vxRun = none) ∧ (s.mayStart p x vx.ranges = true) ∧
       ((∀ i ∈ vx.positions (vx.elemCount s p).1, i = p % 4)) ∧ ((∀ e ∈ met, e.2 = .clean))) :=
  ⟨by decide +kernel, by decide +kernel, by decide +kernel, by decide +kernel⟩

theorem witness_EnginesComplete :
    (let s : State := core 5 (fun c => { c with mxRun := some { desc := qd mxBytes, stores := [(0x7FFF00, [1, 2, 3])] } }) (flds [(F.corStatusState 5, csRunning)] die);
     let c : CoreNo := 5; let p : Nat := 5; let a : Nat := 0x3FFF00;
     let r : RunDesc := { desc := qd mxBytes, stores := [(0x7FFF00, [1, 2, 3])] };
     let data : List Byte := [1, 2, 3]; (s.phys c.val = some p) ∧ (s.clocksOff = false) ∧
       (s.coreState p = csRunning) ∧ (s.fld (F.corStatusMode p) = 0) ∧ (s.bops = []) ∧ (s.power p = pwLeaf) ∧
       (r.stores = [(p % 4 * 2 ^ 22 + a, data)]) ∧ (data.length ≤ 256) ∧ (a % 256 = 0) ∧ (a < 2 ^ 22) ∧
       ((s.core p).mxRun = some r) ∧ ((s.core p).mxDrain = none)) ∧
    (let s : State := core 5 (fun c => { c with vxRun := some { desc := qd mxBytes, stores := [(0x7FFF00, [1, 2, 3])] } }) (flds [(F.corStatusState 5, csRunning)] die);
     let c : CoreNo := 5; let p : Nat := 5; let a : Nat := 0x3FFF00;
     let r : RunDesc := { desc := qd mxBytes, stores := [(0x7FFF00, [1, 2, 3])] };
     let data : List Byte := [1, 2, 3]; (s.phys c.val = some p) ∧ (s.clocksOff = false) ∧
       (s.coreState p = csRunning) ∧ (s.fld (F.corStatusMode p) = 0) ∧ (s.bops = []) ∧ (s.power p = pwLeaf) ∧
       (r.stores = [(p % 4 * 2 ^ 22 + a, data)]) ∧ (data.length ≤ 256) ∧ (a % 256 = 0) ∧ (a < 2 ^ 22) ∧
       ((s.core p).vxRun = some r)) :=
  ⟨by decide +kernel, by decide +kernel⟩

theorem witness_SqPost :
    (let s : State := sq 5 8191 (encA 0x24 0 7 8) [] die; let c : CoreNo := 5; let p : Nat := 5;
     let sa : SReg := 7; let sb : SReg := 8;
     let a := (s.sreg p sa.val).toNat + 2 ^ 32 * (s.sreg p (sa.val + 1)).toNat; let space := a / 2 ^ 44 % 8;
     let bad := sa.val % 2 = 1 ∨ space = 0 ∨ space = 1 ∨ space = 4; (s.SqRuns c p (encA 0x24 0 sa.val sb.val)) ∧
       (bad)) ∧
    (let s : State := flds [(F.corStatusMode 5, 1)] (core 5 (fun c => { c with postsOut := 16 }) (sq 5 8191 (encA 0x24 0 6 8) [(6, 0), (7, 0x3000), (8, 77)] (die)));
     let c : CoreNo := 5; let p : Nat := 5; let sa : SReg := 6; let sb : SReg := 8;
     let a := (s.sreg p sa.val).toNat + 2 ^ 32 * (s.sreg p (sa.val + 1)).toNat; let space := a / 2 ^ 44 % 8;
     let bad := sa.val % 2 = 1 ∨ space = 0 ∨ space = 1 ∨ space = 4; let n := (s.core p).postsOut;
     (s.SqRuns c p (encA 0x24 0 sa.val sb.val)) ∧ (¬ bad) ∧ (16 ≤ n) ∧ (s.fld (F.corStatusMode p) ≠ 0)) ∧
    (let s : State := core 5 (fun c => { c with postsOut := 16 }) (sq 5 8191 (encA 0x24 0 6 8) [(6, 0), (7, 0x3000), (8, 77)] (die));
     let c : CoreNo := 5; let p : Nat := 5; let sa : SReg := 6; let sb : SReg := 8;
     let a := (s.sreg p sa.val).toNat + 2 ^ 32 * (s.sreg p (sa.val + 1)).toNat; let space := a / 2 ^ 44 % 8;
     let bad := sa.val % 2 = 1 ∨ space = 0 ∨ space = 1 ∨ space = 4; let n := (s.core p).postsOut;
     (s.SqRuns c p (encA 0x24 0 sa.val sb.val)) ∧ (¬ bad) ∧ (16 ≤ n) ∧ (s.fld (F.corStatusMode p) = 0)) ∧
    (let s : State := core 5 (fun c => { c with postsOut := 15 }) (sq 5 8191 (encA 0x24 0 6 8) [(6, 0x41), (7, 0xB000), (8, 77)] (link 24 lkActive (flds [(F.lnkPartnerDie 24, 1)] die)));
     let c : CoreNo := 5; let p : Nat := 5; let sa : SReg := 6; let sb : SReg := 8;
     let a := (s.sreg p sa.val).toNat + 2 ^ 32 * (s.sreg p (sa.val + 1)).toNat; let space := a / 2 ^ 44 % 8;
     let bad := sa.val % 2 = 1 ∨ space = 0 ∨ space = 1 ∨ space = 4; let n := (s.core p).postsOut; let i := 24;
     (s.SqRuns c p (encA 0x24 0 sa.val sb.val)) ∧ (¬ bad) ∧ (n < 16) ∧ (s.bops = []) ∧ (space = 3 ∨ space = 5) ∧
       (a / 2 ^ 47 ≠ s.dieNo) ∧ (a / 2 ^ 47 % 16 ≤ 11) ∧ (s.remoteLayoutOk a = true) ∧
       (s.linkOfPost p (a / 2 ^ 47) = some i) ∧ (s.linkUp i = true)) ∧
    (let s : State := sq 5 8191 (encA 0x24 0 6 8) [(6, 0), (7, 0x6000), (8, 77)] (die); let c : CoreNo := 5;
     let p : Nat := 5; let sa : SReg := 6; let sb : SReg := 8;
     let a := (s.sreg p sa.val).toNat + 2 ^ 32 * (s.sreg p (sa.val + 1)).toNat; let space := a / 2 ^ 44 % 8;
     let bad := sa.val % 2 = 1 ∨ space = 0 ∨ space = 1 ∨ space = 4; let n := (s.core p).postsOut;
     (s.SqRuns c p (encA 0x24 0 sa.val sb.val)) ∧ (¬ bad) ∧ (n < 16) ∧ (s.bops = []) ∧ (6 ≤ space) ∧
       ((s.core p).frozenOwn = false)) :=
  ⟨⟨sqRuns_of (by decide +kernel), by decide +kernel⟩,
    ⟨sqRuns_of (by decide +kernel), by decide +kernel, by decide +kernel, by decide +kernel⟩,
    ⟨sqRuns_of (by decide +kernel), by decide +kernel, by decide +kernel, by decide +kernel⟩,
    ⟨sqRuns_of (by decide +kernel), by decide +kernel, by decide +kernel, by decide +kernel, by decide +kernel,
      by decide +kernel, by decide +kernel, by decide +kernel, by decide +kernel, by decide +kernel⟩,
    ⟨sqRuns_of (by decide +kernel), by decide +kernel, by decide +kernel, by decide +kernel, by decide +kernel,
      by decide +kernel⟩⟩

theorem witness_SqRegisterAccess :
    (let s : State := flds [(F.corTimer 5, 99)] (sq 5 8191 (encB 0x25 8 6 0x18) [(6, 0x450000)] die);
     let c : CoreNo := 5; let p : Nat := 5; let sd : SReg := 8; let sa : SReg := 6; let imm : BitVec 15 := 0x18;
     let a := ((s.sreg p sa.val).toNat + imm.toNat) % 2 ^ 32; let b := 0x450018; let r := (rd 0x450018);
     (s.SqRuns c p (encB 0x25 sd.val sa.val imm.toNat)) ∧ (s.reachReg (.core c) a = .ok b) ∧
       (regAt b = some (b, r, false)) ∧ (r.pair = false) ∧ (r.fields.all (·.ty != .rc) = true) ∧
       (pwrCoreOf b = none) ∧ (¬ (0x20100 ≤ b ∧ b < 0x20130)) ∧ (¬ (0x10000 ≤ b ∧ b < 0x20000))) ∧
    (let s : State := sq 5 8191 (encB 0x25 8 6 0x18) [(6, 0xFFFFFF00)] die; let c : CoreNo := 5; let p : Nat := 5;
     let sd : SReg := 8; let sa : SReg := 6; let imm : BitVec 15 := 0x18;
     let a := ((s.sreg p sa.val).toNat + imm.toNat) % 2 ^ 32; let e := (stBadParam : Nat);
     (s.SqRuns c p (encB 0x25 sd.val sa.val imm.toNat)) ∧ (s.reachReg (.core c) a = .error e) ∧ (e ≠ stPoweredDown)) ∧
    (let s : State := sq 5 8191 (encB 0x25 8 6 0x8018) [(6, 0x460000)] die; let c : CoreNo := 5; let p : Nat := 5;
     let sd : SReg := 8; let sa : SReg := 6; let imm : BitVec 15 := 0x18;
     let a := ((s.sreg p sa.val).toNat + imm.toNat) % 2 ^ 32;
     (s.SqRuns c p (encB 0x25 sd.val sa.val (0x8000 + imm.toNat))) ∧
       (¬ (0x400000 + c.val * 0x10000 ≤ a ∧ a < 0x410000 + c.val * 0x10000)) ∧ (a ≠ 0x20100 + c.val / 8 * 4)) :=
  ⟨⟨sqRuns_of (by decide +kernel), by decide +kernel, by decide +kernel, by decide +kernel, by decide +kernel,
      by decide +kernel, by decide +kernel, by decide +kernel⟩,
    ⟨sqRuns_of (by decide +kernel), by decide +kernel, by decide +kernel⟩,
    ⟨sqRuns_of (by decide +kernel), by decide +kernel, by decide +kernel⟩⟩

theorem witness_IllegalWordsStop :
    (let s : State := sq 5 8191 0xFFFFFFFF [] die; let c : CoreNo := 5; let p : Nat := 5;
     let w : Word := 0xFFFFFFFF; (s.phys c.val = some p) ∧ (s.coreState p = csRunning) ∧ (s.fetchSq p = w) ∧
       (((w.toNat / 2 ^ 26 ∈ [0x14, 0x15, 0x16, 0x17, 0x1D, 0x1E, 0x1F] ∨ 0x27 ≤ w.toNat / 2 ^ 26) ∨ (w.toNat / 2 ^ 26 ≤ 0x0B ∧ w.toNat % 2 ^ 11 ≠ 0) ∨ (w.toNat / 2 ^ 26 = 0x21 ∧ w.toNat % 2 ^ 22 ≠ 0) ∨ (w.toNat / 2 ^ 26 = 0x26 ∧ w.toNat % 2 ^ 26 ≠ 0)))) ∧
    (let s : State := flds [(F.corTimerCmp 5, 1000)] die; let c : CoreNo := 5; let p : Nat := 5;
     (s.phys c.val = some p) ∧ (s.fencedCore p = false) ∧ (s.power p = pwLeaf)) :=
  ⟨by decide +kernel, by decide +kernel⟩

theorem witness_FatalErrorAborts :
    (let s : State := core 6 (fun c => { c with postsOut := 1 }) (sq 5 8191 0xFFFFFFFF [] { die with kernels := [kernel 8191 [5, 6]] });
     let c : CoreNo := 5; let p : Nat := 5; let q : Nat := 6; let k : Kernel := kernel 8191 [5, 6];
     (s.phys c.val = some p) ∧ (s.logical p = some c.val) ∧ (s.coreState p = csRunning) ∧
       (legalWord (s.fetchSq p) = false) ∧ (s.kernels = [k]) ∧ (k.started = true) ∧ (k.aborted = none) ∧
       (k.phys = [p, q]) ∧ (p < 96) ∧ (q < 96) ∧ (p ≠ q) ∧ (s.blocks = []) ∧ (s.streams = []) ∧
       (s.fencedCore p = false) ∧ (s.fencedCore q = false) ∧ (s.bit (F.queEqValid k.queue) = false) ∧
       (k.queue < 8192) ∧ ((s.core p).mxRun = none) ∧ ((s.core p).vxRun = none) ∧ ((s.core p).postsOut = 0) ∧
       ((s.core q).postsOut ≠ 0)) :=
  by decide +kernel

theorem witness_UnscheduledWritesLand :
    (let s : State := core 95 (fun c => { c with inbox := [({ seq := 0, off := 0x3FFFFC, data := [1, 2, 3, 4], from_ := .link 30, tag := 9, ack := true } : InWrite), ({ seq := 1, off := 0x3FFFFC, data := [1, 2, 3, 4], from_ := .link 30, tag := 9, ack := true } : InWrite)] }) (die);
     let p : CoreNo := 95; let i : Nat := 1; let port : PortEvent := .clean;
     let w : InWrite := ({ seq := 1, off := 0x3FFFFC, data := [1, 2, 3, 4], from_ := .link 30, tag := 9, ack := true } : InWrite);
     let rest : List InWrite := [({ seq := 0, off := 0x3FFFFC, data := [1, 2, 3, 4], from_ := .link 30, tag := 9, ack := true } : InWrite)];
     let j : Nat := 30; let first := ∀ x ∈ (s.core p.val).inbox.take i, bankOf x.off ≠ bankOf w.off;
     (takeAt (s.core p.val).inbox i = some (w, rest)) ∧ (s.power p.val = pwLeaf) ∧ (w.from_ = .link j) ∧
       (w.window = none) ∧ ((s.link j).backs = []) ∧ ((s.router (clumpOf p.val)).opens = []) ∧ (s.bops = []) ∧
       (s.linkUp j = true) ∧ ((∀ b r x, port ≠ .uncorrectable b r x)) ∧ ((∀ b r x, port ≠ .corrected b r x)) ∧
       (¬ first)) ∧
    (let s : State := flds [(F.evgFenced 2, 0x80000000)] (core 95 (fun c => { c with inbox := [({ seq := 0, off := 0x100, data := [1, 2, 3, 4], from_ := .link 30, tag := 9, ack := false } : InWrite), ({ seq := 1, off := 0x3FFFFC, data := [1, 2, 3, 4], from_ := .link 30, tag := 9, ack := true } : InWrite)] }) (die));
     let p : CoreNo := 95; let i : Nat := 1; let port : PortEvent := .clean;
     let w : InWrite := ({ seq := 1, off := 0x3FFFFC, data := [1, 2, 3, 4], from_ := .link 30, tag := 9, ack := true } : InWrite);
     let rest : List InWrite := [({ seq := 0, off := 0x100, data := [1, 2, 3, 4], from_ := .link 30, tag := 9, ack := false } : InWrite)];
     let j : Nat := 30; let first := ∀ x ∈ (s.core p.val).inbox.take i, bankOf x.off ≠ bankOf w.off;
     (takeAt (s.core p.val).inbox i = some (w, rest)) ∧ (s.power p.val = pwLeaf) ∧ (w.from_ = .link j) ∧
       (w.window = none) ∧ ((s.link j).backs = []) ∧ ((s.router (clumpOf p.val)).opens = []) ∧ (s.bops = []) ∧
       (s.linkUp j = true) ∧ ((∀ b r x, port ≠ .uncorrectable b r x)) ∧ ((∀ b r x, port ≠ .corrected b r x)) ∧
       (first) ∧ (s.fencedCore p.val = true)) ∧
    (let s : State := core 95 (fun c => { c with inbox := [({ seq := 0, off := 0x100, data := [1, 2, 3, 4], from_ := .link 30, tag := 9, ack := false } : InWrite), ({ seq := 1, off := 0x3FFFFC, data := [1, 2, 3, 4], from_ := .link 30, tag := 9, ack := true } : InWrite)] }) (die);
     let p : CoreNo := 95; let i : Nat := 1; let port : PortEvent := .clean;
     let w : InWrite := ({ seq := 1, off := 0x3FFFFC, data := [1, 2, 3, 4], from_ := .link 30, tag := 9, ack := true } : InWrite);
     let rest : List InWrite := [({ seq := 0, off := 0x100, data := [1, 2, 3, 4], from_ := .link 30, tag := 9, ack := false } : InWrite)];
     let j : Nat := 30; let first := ∀ x ∈ (s.core p.val).inbox.take i, bankOf x.off ≠ bankOf w.off;
     (takeAt (s.core p.val).inbox i = some (w, rest)) ∧ (s.power p.val = pwLeaf) ∧ (w.from_ = .link j) ∧
       (w.window = none) ∧ ((s.link j).backs = []) ∧ ((s.router (clumpOf p.val)).opens = []) ∧ (s.bops = []) ∧
       (s.linkUp j = true) ∧ ((∀ b r x, port ≠ .uncorrectable b r x)) ∧ ((∀ b r x, port ≠ .corrected b r x)) ∧
       (first) ∧ (s.fencedCore p.val = false)) :=
  ⟨⟨by decide +kernel, by decide +kernel, by decide +kernel, by decide +kernel, by decide +kernel,
      by decide +kernel, by decide +kernel, by decide +kernel, nofun, nofun, by decide +kernel⟩,
    ⟨by decide +kernel, by decide +kernel, by decide +kernel, by decide +kernel, by decide +kernel,
      by decide +kernel, by decide +kernel, by decide +kernel, nofun, nofun, by decide +kernel, by decide +kernel⟩,
    ⟨by decide +kernel, by decide +kernel, by decide +kernel, by decide +kernel, by decide +kernel,
      by decide +kernel, by decide +kernel, by decide +kernel, nofun, nofun, by decide +kernel, by decide +kernel⟩⟩

theorem witness_UnscheduledReadsServed :
    (let s : State := core 95 (fun c => { c with readq := [({ seq := 5, off := 0x3FFF00, len := 256, dest := .link 30 7 false } : InRead)], inbox := [({ seq := 4, off := 0x3FFFFC, data := [1, 2, 3, 4], from_ := .link 30, tag := 9, ack := true } : InWrite)] }) (die);
     let p : CoreNo := 95;
     let r : InRead := ({ seq := 5, off := 0x3FFF00, len := 256, dest := .link 30 7 false } : InRead);
     let rest : List InRead := []; let i : Nat := 30; let tag : Nat := 7; let back : Bool := false;
     ((s.core p.val).readq = r :: rest) ∧ (s.power p.val = pwLeaf) ∧ (r.dest = .link i tag back) ∧
       (s.linkUp i = true) ∧ ((s.router (clumpOf p.val)).opens = []) ∧ (s.bops = []) ∧ (rest = []) ∧
       ((∃ w ∈ (s.core p.val).inbox, w.seq < r.seq ∧ w.off / 256 = r.off / 256))) ∧
    (let s : State := flds [(F.evgFenced 2, 0x80000000)] (bytes 95 0x3FFFFF [0xAB] (core 95 (fun c => { c with readq := [({ seq := 5, off := 0x3FFF00, len := 256, dest := .link 30 7 false } : InRead)] }) (die)));
     let p : CoreNo := 95;
     let r : InRead := ({ seq := 5, off := 0x3FFF00, len := 256, dest := .link 30 7 false } : InRead);
     let rest : List InRead := []; let i : Nat := 30; let tag : Nat := 7; let back : Bool := false;
     ((s.core p.val).readq = r :: rest) ∧ (s.power p.val = pwLeaf) ∧ (r.dest = .link i tag back) ∧
       (s.linkUp i = true) ∧ ((s.router (clumpOf p.val)).opens = []) ∧ (s.bops = []) ∧
       (s.readReady p.val r = true) ∧ (s.fencedCore p.val = true)) ∧
    (let s : State := bytes 95 0x3FFFFF [0xAB] (core 95 (fun c => { c with readq := [({ seq := 5, off := 0x3FFF00, len := 256, dest := .link 30 7 false } : InRead)] }) (die));
     let p : CoreNo := 95; let port : PortEvent := .uncorrectable 15 1023 63;
     let r : InRead := ({ seq := 5, off := 0x3FFF00, len := 256, dest := .link 30 7 false } : InRead);
     let rest : List InRead := []; let i : Nat := 30; let tag : Nat := 7; let back : Bool := false;
     ((s.core p.val).readq = r :: rest) ∧ (s.power p.val = pwLeaf) ∧ (r.dest = .link i tag back) ∧
       (s.linkUp i = true) ∧ ((s.router (clumpOf p.val)).opens = []) ∧ (s.bops = []) ∧
       (s.readReady p.val r = true) ∧ (s.fencedCore p.val = false) ∧ ((∃ b x w, port = .uncorrectable b x w)) ∧
       (s.kernels = [])) ∧
    (let s : State := bytes 95 0x3FFFFF [0xAB] (core 95 (fun c => { c with readq := [({ seq := 5, off := 0x3FFF00, len := 256, dest := .link 30 7 false } : InRead)] }) (die));
     let p : CoreNo := 95; let port : PortEvent := .clean;
     let r : InRead := ({ seq := 5, off := 0x3FFF00, len := 256, dest := .link 30 7 false } : InRead);
     let rest : List InRead := []; let i : Nat := 30; let tag : Nat := 7; let back : Bool := false;
     ((s.core p.val).readq = r :: rest) ∧ (s.power p.val = pwLeaf) ∧ (r.dest = .link i tag back) ∧
       (s.linkUp i = true) ∧ ((s.router (clumpOf p.val)).opens = []) ∧ (s.bops = []) ∧
       (s.readReady p.val r = true) ∧ (s.fencedCore p.val = false) ∧ ((∀ b x w, port ≠ .uncorrectable b x w))) :=
  ⟨by decide +kernel,
    by decide +kernel,
    ⟨by decide +kernel, by decide +kernel, by decide +kernel, by decide +kernel, by decide +kernel,
      by decide +kernel, by decide +kernel, by decide +kernel, ⟨15, 1023, 63, rfl⟩, by decide +kernel⟩,
    ⟨by decide +kernel, by decide +kernel, by decide +kernel, by decide +kernel, by decide +kernel,
      by decide +kernel, by decide +kernel, by decide +kernel, nofun⟩⟩

theorem witness_BankUpkeep :
    (let s : State := flds [(F.pwrCoreStatusState 95, pwDormant)] (core 95 (fun c => { c with inbox := [({ seq := 0, off := 0x3FFFFC, data := [1, 2, 3, 4], from_ := .link 30, tag := 9, ack := true } : InWrite)], readq := [({ seq := 5, off := 0x3FFF00, len := 256, dest := .link 30 7 false } : InRead)] }) (die));
     let p : CoreNo := 95; let bank : Fin 16 := 15; (s.power p.val ≠ pwLeaf) ∧
       ((s.router (clumpOf p.val)).opens = []) ∧ (s.bops = []) ∧
       ((∃ w ∈ (s.core p.val).inbox, bankOf w.off = bank.val)) ∧
       ((∀ w ∈ (s.core p.val).inbox, bankOf w.off = bank.val → ∃ j, w.from_ = .link j)) ∧
       ((∀ r ∈ (s.core p.val).readq, bankOf r.off = bank.val → ∃ j tag b, r.dest = .link j tag b))) ∧
    (let s : State := core 95 (fun c => { c with returnTo := some 2 }) (die); let p : CoreNo := 95;
     let x : Nat := 2; let l := 95; (s.logical p.val = some l) ∧ (s.power p.val = pwLeaf) ∧
       ((s.core p.val).returnTo = some x) ∧ (x ≠ pwLeaf) ∧ ((s.core p.val).inbox = []) ∧
       ((s.core p.val).readq = [])) ∧
    (let s : State := sess (die); let p : Packet := (pk 2050 ([0, 0, 3, 0])); let n := p.params.length;
     let i := packetPar p 0 1; let allowed := s.bit F.tstStatusMissionTest = true ∨ s.testMode = true;
     (s.Takes 0x0802 p) ∧ (4 ≤ n) ∧ (i ≤ 2) ∧ (¬ allowed)) ∧
    (let s : State := sess (flds [(F.tstStatusMissionTest, 1)] die); let p : Packet := (pk 2050 ([0, 0, 96, 0]));
     let n := p.params.length; let i := packetPar p 0 1; let unit := packetPar p 2 2;
     let units := if i = 0 then 96 else if i = 1 then 24 else 32;
     let allowed := s.bit F.tstStatusMissionTest = true ∨ s.testMode = true; (s.Takes 0x0802 p) ∧ (4 ≤ n) ∧
       (i ≤ 2) ∧ (allowed) ∧ (units ≤ unit) ∧ (unit ≠ 0xFFFF)) ∧
    (let s : State := sess ({ (flds [(F.tstStatusMissionTest, 1)] die) with dieback := [{ kind := 1, source := 3, unit := 3 }] });
     let p : Packet := (pk 2050 ([0, 0, 3, 0])); let n := p.params.length; let i := packetPar p 0 1;
     let unit := packetPar p 2 2; let units := if i = 0 then 96 else if i = 1 then 24 else 32;
     let allowed := s.bit F.tstStatusMissionTest = true ∨ s.testMode = true; (s.Takes 0x0802 p) ∧ (4 ≤ n) ∧
       (i ≤ 2) ∧ (allowed) ∧ (unit < units) ∧ (s.bistExcluded i unit = true)) ∧
    (let s : State := sess (flds [(F.tstStatusMissionTest, 1)] die); let p : Packet := (pk 2050 ([0, 0, 3, 0]));
     let n := p.params.length; let i := packetPar p 0 1; let unit := packetPar p 2 2;
     let units := if i = 0 then 96 else if i = 1 then 24 else 32;
     let allowed := s.bit F.tstStatusMissionTest = true ∨ s.testMode = true; (s.Takes 0x0802 p) ∧ (4 ≤ n) ∧
       (i ≤ 2) ∧ (allowed) ∧ ((unit = 0xFFFF ∨ (unit < units ∧ s.bistExcluded i unit = false))) ∧
       (s.memRun.op = none) ∧ (s.canStart 0x0802 p 0)) ∧
    (let s : State := sess (die); let p : Packet := (pk 2051 ([0])); let n := p.params.length; (s.Takes 0x0803 p) ∧
       (1 ≤ n) ∧ (s.bit F.tstStatusMissionTest = false)) ∧
    (let s : State := sess (flds [(F.tstStatusMissionTest, 1)] die); let p : Packet := (pk 2051 ([2]));
     let n := p.params.length; let i := packetPar p 0 1; (s.Takes 0x0803 p) ∧ (1 ≤ n) ∧
       (s.bit F.tstStatusMissionTest = true) ∧ ((1 < i ∨ (i = 1 ∧ s.memValid = false)))) ∧
    (let s : State := sess (flds [(F.tstStatusMissionTest, 1)] die); let p : Packet := (pk 2051 ([0]));
     let n := p.params.length; let i := packetPar p 0 1; (s.Takes 0x0803 p) ∧ (1 ≤ n) ∧
       (s.bit F.tstStatusMissionTest = true) ∧ ((i = 0 ∨ (i = 1 ∧ s.memValid = true))) ∧ (s.canStart 0x0803 p 0)) ∧
    (let s : State := { (sess (flds [(F.tstStatusBistState, 1)] (bytes 3 5 [7] { (flds [(F.tstStatusMissionTest, 1)] die) with bist := some (2, 0, 3) }))) with session := { (sess (flds [(F.tstStatusBistState, 1)] (bytes 3 5 [7] { (flds [(F.tstStatusMissionTest, 1)] die) with bist := some (2, 0, 3) }))).session with ops := [({ id := 2, opcode := 2050, hostSeq := 1, tag := 5, object := 0, state := 0, status := 0, season := 7, started := 0 } : LongOp)] } };
     let id : Nat := 2; let target : Nat := 0; let unit : Nat := 3; (s.opLive id) ∧
       (s.bist = some (id, target, unit)) ∧ (target ≤ 2) ∧ (s.bops = [])) ∧
    (let s : State := { (sess (flds [(F.evgMemtestState, 1)] { (flds [(F.tstStatusMissionTest, 1)] die) with memRun := { op := some 2 } })) with session := { (sess (flds [(F.evgMemtestState, 1)] { (flds [(F.tstStatusMissionTest, 1)] die) with memRun := { op := some 2 } })).session with ops := [({ id := 2, opcode := 2051, hostSeq := 1, tag := 5, object := 0, state := 0, status := 0, season := 7, started := 0 } : LongOp)] } };
     let id : Nat := 2; (s.opLive id) ∧ (s.fld F.evgMemtestState = 1) ∧ (s.alive = true) ∧ (s.memRun.op = some id)) :=
  ⟨⟨by decide +kernel, by decide +kernel, by decide +kernel, by decide +kernel,
      List.forall_mem_singleton.2 fun _ => ⟨30, rfl⟩, List.forall_mem_singleton.2 fun _ => ⟨30, 7, false, rfl⟩⟩,
    by decide +kernel,
    ⟨takes_of (by decide +kernel), by decide +kernel, by decide +kernel, by decide +kernel⟩,
    ⟨takes_of (by decide +kernel), by decide +kernel, by decide +kernel, by decide +kernel, by decide +kernel,
      by decide +kernel⟩,
    ⟨takes_of (by decide +kernel), by decide +kernel, by decide +kernel, by decide +kernel, by decide +kernel,
      by decide +kernel⟩,
    ⟨takes_of (by decide +kernel), by decide +kernel, by decide +kernel, by decide +kernel, by decide +kernel,
      by decide +kernel, (by unfold State.canStart; decide +kernel)⟩,
    ⟨takes_of (by decide +kernel), by decide +kernel, by decide +kernel⟩,
    ⟨takes_of (by decide +kernel), by decide +kernel, by decide +kernel, by decide +kernel⟩,
    ⟨takes_of (by decide +kernel), by decide +kernel, by decide +kernel, by decide +kernel,
      (by unfold State.canStart; decide +kernel)⟩,
    ⟨(by unfold State.opLive; decide +kernel), by decide +kernel, by decide +kernel, by decide +kernel⟩,
    ⟨(by unfold State.opLive; decide +kernel), by decide +kernel, by decide +kernel, by decide +kernel⟩⟩

theorem witness_CoresAreFenced :
    (let s : State := die; let p : CoreNo := 95; let l : Nat := 95; (s.logical p.val = some l) ∧ (s.kernels = []) ∧
       (s.bops = []) ∧ (s.ready = rdReady) ∧ (s.dieback.length < 1024) ∧
       ((∀ j, j < 96 → s.bit (F.pwrCoreStatusPending j) = false)) ∧ ((∀ q, q < 96 → s.fencedCore q = false))) ∧
    (let s : State := die; let p : CoreNo := 95; let l : Nat := 95; (s.logical p.val = some l) ∧ (s.kernels = []) ∧
       (s.bops = []) ∧ (s.ready = rdReady) ∧ (s.dieback.length < 1024) ∧
       ((∀ j, j < 96 → s.bit (F.pwrCoreStatusPending j) = false)) ∧ ((∀ q, q < 96 → s.fencedCore q = false))) ∧
    (let s : State := die; let p : CoreNo := 95; let l : Nat := 95; let cause : Fin 4 := 2;
     (s.logical p.val = some l) ∧ (s.kernels = []) ∧ (s.bops = []) ∧ (s.ready = rdReady) ∧
       (s.dieback.length < 1024) ∧ ((∀ j, j < 96 → s.bit (F.pwrCoreStatusPending j) = false)) ∧
       ((∀ q, q < 96 → s.fencedCore q = false)) ∧ (cause.val = 1 ∨ cause.val = 2)) ∧
    (let s : State := die; let p : CoreNo := 95; let l : Nat := 95; let cause : Fin 4 := 3;
     (s.logical p.val = some l) ∧ (s.kernels = []) ∧ (s.bops = []) ∧ (s.ready = rdReady) ∧
       (s.dieback.length < 1024) ∧ ((∀ j, j < 96 → s.bit (F.pwrCoreStatusPending j) = false)) ∧
       ((∀ q, q < 96 → s.fencedCore q = false)) ∧ (cause.val = 3)) :=
  ⟨by decide +kernel, by decide +kernel, by decide +kernel, by decide +kernel⟩

theorem witness_FuseCommits :
    (let s : State := flds [(F.evgFenced 2, 0x80000000)] { die with dieback := [({ kind := 1, source := 3, unit := 95, cause := 2 } : Dieback)] };
     let p : CoreNo := 95; let kind : Nat := 1; let unit : Nat := 95;
     let d := ({ kind := 1, source := 3, unit := 95, cause := 2 } : Dieback); (s.nLogical ≠ 0) ∧
       (s.fencedCore p.val = true) ∧
       ((s.dieback.find? fun d => !d.fused && ((d.kind == 1 && d.unit == p.val) || ((d.kind == 2 || d.kind == 3) && d.unit == p.val / 4))) = some d)) ∧
    (let s : State := { die with commits := [(1, 95, 2097151), (1, 4, 0)], dieback := [{ kind := 1, source := 3, unit := 95, detail := 2097151 }] };
     let mv : Nat := 1600; let kind : Nat := 1; let unit : Nat := 95; let detail : Nat := 2097151;
     let rest : List (Nat × Nat × Nat) := [(1, 4, 0)]; (s.commits = (kind, unit, detail) :: rest) ∧ (rest ≠ []) ∧
       (s.fuses.journal.length < 192) ∧ (detail < 2 ^ 21) ∧ (1600 ≤ mv)) ∧
    (let s : State := { die with commits := [(1, 95, 2097151), (1, 4, 0)], dieback := [{ kind := 1, source := 3, unit := 95, detail := 2097151 }] };
     let mv : Nat := 1599; let kind : Nat := 1; let unit : Nat := 95; let detail : Nat := 2097151;
     let rest : List (Nat × Nat × Nat) := [(1, 4, 0)]; (s.commits = (kind, unit, detail) :: rest) ∧ (rest ≠ []) ∧
       (s.fuses.journal.length < 192) ∧ (detail < 2 ^ 21) ∧ (mv < 1600)) ∧
    (let s : State := sess (die); let p : Packet := (pk 1538 ([])); let n := p.params.length; (s.Takes 0x0602 p) ∧
       (n < 32)) ∧
    (let s : State := sess (die); let p : Packet := (pk 1538 (List.replicate 32 7)); let n := p.params.length;
     (s.Takes 0x0602 p) ∧ (32 ≤ n) ∧ (s.canStart 0x0602 p 0)) ∧
    (let s : State := { (sess (flds [(F.secStatusAttestBusy, 1)] { die with attest := some (2, [1, 2]) })) with session := { (sess (flds [(F.secStatusAttestBusy, 1)] { die with attest := some (2, [1, 2]) })).session with ops := [({ id := 2, opcode := 1538, hostSeq := 1, tag := 5, object := 0, state := 0, status := 0, season := 7, started := 0 } : LongOp)] } };
     let id : Nat := 2; let body := [1, 2]; (s.opLive id) ∧ (s.attest = some (id, body))) :=
  ⟨by decide +kernel,
    by decide +kernel,
    by decide +kernel,
    ⟨takes_of (by decide +kernel), by decide +kernel⟩,
    ⟨takes_of (by decide +kernel), by decide +kernel, (by unfold State.canStart; decide +kernel)⟩,
    ⟨(by unfold State.opLive; decide +kernel), by decide +kernel⟩⟩

theorem witness_EventLogDiscards :
    (let l : List EvRec := List.replicate 1023 ({ severity := svAlert, kind := 4, status := 0, code := 0, index := 0, time := 0, unit := 0, context := 0, detail := 0 } : EvRec) ++ [({ severity := svInfo, kind := 4, status := 0, code := 1, index := 0, time := 0, unit := 0, context := 0, detail := 0 } : EvRec)];
     (l.length ≤ 1024)) ∧
    (let l : List EvRec := [({ severity := svInfo, kind := 4, status := 0, code := 0, index := 0, time := 0, unit := 0, context := 0, detail := 0 } : EvRec)];
     (l.length ≤ 1024) ∧ (l.length < 1024)) ∧
    (let l : List EvRec := ({ severity := svAlert, kind := 4, status := 0, code := 0, index := 0, time := 0, unit := 0, context := 0, detail := 0 } : EvRec) :: List.replicate 1022 ({ severity := svInfo, kind := 4, status := 0, code := 3, index := 0, time := 0, unit := 0, context := 0, detail := 0 } : EvRec) ++ [({ severity := svWarning, kind := 4, status := 0, code := 0, index := 0, time := 0, unit := 0, context := 0, detail := 0 } : EvRec)];
     (l.length ≤ 1024) ∧ (l.length = 1024) ∧ ((∃ x ∈ l, x.severity = svInfo))) ∧
    (let l : List EvRec := ({ severity := svAlert, kind := 4, status := 0, code := 0, index := 0, time := 0, unit := 0, context := 0, detail := 0 } : EvRec) :: List.replicate 1022 ({ severity := svFault, kind := 4, status := 0, code := 3, index := 0, time := 0, unit := 0, context := 0, detail := 0 } : EvRec) ++ [({ severity := svWarning, kind := 4, status := 0, code := 0, index := 0, time := 0, unit := 0, context := 0, detail := 0 } : EvRec)];
     (l.length ≤ 1024) ∧ (l.length = 1024) ∧ ((∀ x ∈ l, x.severity ≠ svInfo)) ∧ ((∃ x ∈ l, x.severity = svWarning))) ∧
    (let l : List EvRec := List.replicate 1024 ({ severity := svAlert, kind := 4, status := 0, code := 0, index := 0, time := 0, unit := 0, context := 0, detail := 0 } : EvRec);
     let e : EvRec := ({ severity := svWarning, kind := 4, status := 0, code := 0, index := 0, time := 0, unit := 0, context := 0, detail := 0 } : EvRec);
     (l.length ≤ 1024) ∧ (l.length = 1024) ∧ ((∀ x ∈ l, svAlert ≤ x.severity)) ∧ (e.severity ≤ svWarning)) ∧
    (let l : List EvRec := List.replicate 1023 ({ severity := svFault, kind := 4, status := 0, code := 0, index := 0, time := 0, unit := 0, context := 0, detail := 0 } : EvRec) ++ [({ severity := svAlert, kind := 4, status := 0, code := 1, index := 0, time := 0, unit := 0, context := 0, detail := 0 } : EvRec)];
     let e : EvRec := ({ severity := svAlert, kind := 4, status := 0, code := 9, index := 0, time := 0, unit := 0, context := 0, detail := 0 } : EvRec);
     (l.length ≤ 1024) ∧ (l.length = 1024) ∧ ((∀ x ∈ l, svAlert ≤ x.severity)) ∧ (svAlert ≤ e.severity) ∧
       ((∃ x ∈ l, x.severity = svAlert))) ∧
    (let l : List EvRec := List.replicate 1024 ({ severity := svFault, kind := 4, status := 0, code := 0, index := 0, time := 0, unit := 0, context := 0, detail := 0 } : EvRec);
     (l.length ≤ 1024) ∧ (l.length = 1024) ∧ ((∀ x ∈ l, x.severity = svFault))) ∧
    (let l : List EvRec := List.replicate 1023 ({ severity := svAlert, kind := 4, status := 0, code := 0, index := 0, time := 0, unit := 0, context := 0, detail := 0 } : EvRec) ++ [({ severity := svFault, kind := 4, status := 0, code := 2, index := 0, time := 0, unit := 0, context := 0, detail := 0 } : EvRec)];
     let f := ({ severity := svFault, kind := 4, status := 0, code := 2, index := 0, time := 0, unit := 0, context := 0, detail := 0 } : EvRec);
     (l.length ≤ 1024) ∧ (f ∈ l) ∧ (f.severity = svFault)) :=
  ⟨by decide +kernel, by decide +kernel, by decide +kernel, by decide +kernel, by decide +kernel,
    by decide +kernel, by decide +kernel, by decide +kernel⟩

theorem witness_PleachCycle :
    (let s : State := flds [(F.plnHalfIndex 0, 5), (F.plnPeriod, 7), (F.plnStallCc 0, 0xFFFFFFFF)] { die with blocks := [{ queue := 0, idx := 0, sections := [{ clump := 0, streamMask := 0, own := 0, first := 5, periods := 0, streams := [], bindings := [], entries := [13], ran := 1 }] }] };
     let half : Half := .west; let h := halfNo half;
     let u := (({ s with pcc := s.pcc + 1 } : State).plnPass h).adapterCycle h; let r := 0; let x := 2;
     (s.clocksOff = false) ∧ (s.kernels = []) ∧ (s.bops = []) ∧ ((∀ r, (s.router r).opens = [])) ∧
       (u.plnCause h = some (r, x))) ∧
    (let s : State := flds [(F.plnHalfIndex 0, 5), (F.plnPeriod, 7)] { die with blocks := [{ queue := 0, idx := 0, sections := [{ clump := 0, streamMask := 1, own := 0, first := 5, periods := 0, streams := [5], bindings := [], entries := [1 * 2 ^ 32 + 1 * 2 ^ 36], ran := 1 }] }] };
     let half : Half := .west; let h := halfNo half;
     let u := (({ s with pcc := s.pcc + 1 } : State).plnPass h).adapterCycle h; let idx := s.fld (F.plnHalfIndex h);
     (s.clocksOff = false) ∧ (s.kernels = []) ∧ (s.bops = []) ∧ ((∀ r, (s.router r).opens = [])) ∧
       (u.plnCause h = none) ∧ (h ∉ s.slotServed) ∧ (u.selfConflicts h idx ≠ [])) ∧
    (let s : State := flds [(F.plnHalfIndex 0, 6), (F.plnPeriod, 7)] { die with blocks := [{ queue := 0, idx := 0, sections := [{ clump := 0, streamMask := 0, own := 0, first := 5, periods := 0, streams := [], bindings := [], entries := [13], ran := 1 }] }] };
     let half : Half := .west; let h := halfNo half;
     let u := (({ s with pcc := s.pcc + 1 } : State).plnPass h).adapterCycle h; let idx := s.fld (F.plnHalfIndex h);
     (s.clocksOff = false) ∧ (s.kernels = []) ∧ (s.bops = []) ∧ ((∀ r, (s.router r).opens = [])) ∧
       (u.plnCause h = none) ∧ (h ∈ s.slotServed ∨ u.selfConflicts h idx = []) ∧ (idx < 4096)) ∧
    (let s : State := (die).setRouter 0 { wbs := [({ left := 1, p := 3, row := 16383, data := [1, 2, 3], rel := false } : WbRow)] };
     let half : Half := .west; let c : Nat := 0;
     let w : WbRow := ({ left := 1, p := 3, row := 16383, data := [1, 2, 3], rel := false } : WbRow);
     let h := halfNo half; (s.clocksOff = false) ∧ (s.kernels = []) ∧ (s.bops = []) ∧
       ((∀ r, (s.router r).opens = [])) ∧ (c ∈ halfClumps h) ∧ ((s.router c).wbs = [w]) ∧ (w.rel = false) ∧
       ((∀ r ∈ halfClumps h, r ≠ c → (s.router r).wbs = [])) ∧ (w.left = 1)) ∧
    (let s : State := (die).setRouter 0 { wbs := [({ left := 2, p := 3, row := 16383, data := [1, 2, 3], rel := false } : WbRow)] };
     let half : Half := .west; let c : Nat := 0;
     let w : WbRow := ({ left := 2, p := 3, row := 16383, data := [1, 2, 3], rel := false } : WbRow);
     let h := halfNo half; (s.clocksOff = false) ∧ (s.kernels = []) ∧ (s.bops = []) ∧
       ((∀ r, (s.router r).opens = [])) ∧ (c ∈ halfClumps h) ∧ ((s.router c).wbs = [w]) ∧ (w.rel = false) ∧
       ((∀ r ∈ halfClumps h, r ≠ c → (s.router r).wbs = [])) ∧ (1 < w.left)) :=
  ⟨⟨by decide +kernel, by decide +kernel, by decide +kernel, fun r => rfl, by decide +kernel⟩,
    ⟨by decide +kernel, by decide +kernel, by decide +kernel, fun r => rfl, by decide +kernel, by decide +kernel,
      by decide +kernel⟩,
    ⟨by decide +kernel, by decide +kernel, by decide +kernel, fun r => rfl, by decide +kernel, by decide +kernel,
      by decide +kernel⟩,
    ⟨by decide +kernel, by decide +kernel, by decide +kernel, fun r => by cases r <;> rfl, by decide +kernel,
      by decide +kernel, by decide +kernel, by decide +kernel, by decide +kernel⟩,
    ⟨by decide +kernel, by decide +kernel, by decide +kernel, fun r => by cases r <;> rfl, by decide +kernel,
      by decide +kernel, by decide +kernel, by decide +kernel, by decide +kernel⟩⟩

theorem witness_PleachRoutersFail :
    (let s : State := flds [(F.plnRouterFailed, 0x800000)] die; let c : ClumpNo := 23;
     (s.routerFailed c.val = true)) ∧
    (let s : State := flds [(F.lnkStatusState 30, lkDetect)] die; let c : ClumpNo := 23;
     (s.fld F.plnRouterFailed < 2 ^ 24) ∧ (s.routerFailed c.val = false) ∧ (s.kernels = []) ∧ (s.bops = []) ∧
       (s.ready = rdReady) ∧ (s.dieback.length < 1024) ∧
       ((∀ j, j < 96 → s.bit (F.pwrCoreStatusPending j) = false)) ∧ ((∀ q, q < 96 → s.fencedCore q = false)) ∧
       ((∀ q, 4 * c.val ≤ q → q < 4 * c.val + 4 → (s.logical q).isSome = true)) ∧ ((s.router c.val).opens = []) ∧
       ((∀ i, i < 32 → adapterClump i = c.val → s.linkUp i = false ∧ (s.link i).keepTraffic = false))) ∧
    (let s : State := flds [(F.plnHalfStalled 0, 1)] (flds [(F.plnHalfIndex 0, 5), (F.plnPeriod, 7), (F.plnStallCc 0, 0xFFFFFFFF)] { die with blocks := [{ queue := 0, idx := 0, sections := [{ clump := 0, streamMask := 0, own := 0, first := 5, periods := 0, streams := [], bindings := [], entries := [13], ran := 1 }] }] });
     let half : Half := .west; let h := halfNo half; let r := 0; let x := 2; (s.fld (F.plnHalfStalled h) = 1) ∧
       (s.plnCause h = some (r, x))) :=
  ⟨by decide +kernel, by decide +kernel, by decide +kernel⟩

theorem witness_OpenRowsHop :
    (let s : State := (die).setRouter 0 { opens := [({ from_ := 0, home := none, dest := 23, load := .write 95 ({ seq := 0, off := 0x3FFFFC, data := [1, 2, 3, 4], from_ := .link 30, tag := 9, ack := true } : InWrite) } : OpenRow), ({ from_ := 0, home := none, dest := 23, load := .write 95 ({ seq := 0, off := 0x3FFFFC, data := [1, 2, 3, 4], from_ := .link 30, tag := 9, ack := true } : InWrite) } : OpenRow)] };
     let c : ClumpNo := 0;
     let o : OpenRow := ({ from_ := 0, home := none, dest := 23, load := .write 95 ({ seq := 0, off := 0x3FFFFC, data := [1, 2, 3, 4], from_ := .link 30, tag := 9, ack := true } : InWrite) } : OpenRow);
     let rest : List OpenRow := [({ from_ := 0, home := none, dest := 23, load := .write 95 ({ seq := 0, off := 0x3FFFFC, data := [1, 2, 3, 4], from_ := .link 30, tag := 9, ack := true } : InWrite) } : OpenRow)];
     let n : Nat := 1; let back : Nat := 4; let x := c.val % 6; let y := c.val / 6; (s.fld F.plnRouterFailed = 0) ∧
       ((s.router c.val).opens = o :: rest) ∧ (o.dest ≠ c.val) ∧ (o.dest < 24) ∧ (s.bops = []) ∧
       (((x < o.dest % 6 ∧ n = c.val + 1 ∧ back = 4) ∨ (o.dest % 6 < x ∧ n = c.val - 1 ∧ back = 3) ∨ (x = o.dest % 6 ∧ y < o.dest / 6 ∧ n = c.val + 6 ∧ back = 1) ∨ (x = o.dest % 6 ∧ o.dest / 6 < y ∧ n = c.val - 6 ∧ back = 2))) ∧
       (((s.router n).opens.filter fun r => r.from_ == back).length < 16) ∧
       ((∀ r ∈ (s.router n).opens, r.dest ≠ n)) ∧ ((∀ r ∈ rest, r.dest ≠ c.val)) ∧
       ((∀ d, d < 5 → s.laneFree c.val d = true))) ∧
    (let s : State := { link 29 lkActive (flds [(F.queSeason 3, 9), (F.lnkStatusWidth 29, 64), (F.lnkCreditHeld 29 0, 1)] die) with streams := [(29 * 4 + 3, { queue := 3, idx := 0, cap := 8, tag := 5, dest := 0x1000, rows := [(65535, List.replicate 256 7), (65536, [])] })] };
     let a : LinkNo := 29; let m : Fin 2 := 1;
     let t : AdpStream := ({ queue := 3, idx := 0, cap := 8, tag := 5, dest := 0x1000, rows := [(65535, List.replicate 256 7), (65536, [])] } : AdpStream);
     let k : Nat := 65535; let row : List Byte := List.replicate 256 7;
     let more : List (Nat × List Byte) := [(65536, [])]; (tfind s.streams (a.val * 4 + 2 + m.val) = some t) ∧
       (t.rows = (k, row) :: more) ∧ (s.takesWrite a.val = true) ∧ (s.draining = [])) :=
  ⟨by decide +kernel, by decide +kernel⟩

theorem witness_DoorbellsMoveRings :
    (let s : State := flds [(F.queCfgType 8191, qtWork), (F.queCfgLog2Entries 8191, 4), (F.queHead 8191, 65530), (F.queTail 8191, 65531), (F.queSeason 8191, 7)] (die);
     let q : CtxNo := 8191; let value : Word := 0x7000A; let ty := s.fld (F.queCfgType q.val);
     let v := value.toNat % 65536; let moved := (v + 65536 - s.fld (F.queHead q.val)) % 65536;
     ((s.queue q.val).destroying = false) ∧ (value.toNat / 65536 = s.fld (F.queSeason q.val)) ∧
       (s.ringFenced q.val = false) ∧ (s.bops = []) ∧ (ty = qtWork ∨ ty = qtDma) ∧ (s.ringUsed q.val ≤ moved) ∧
       (moved ≤ s.ringSize q.val)) ∧
    (let s : State := flds [(F.queCfgType 8191, qtWork), (F.queCfgLog2Entries 8191, 4), (F.queHead 8191, 65530), (F.queTail 8191, 65531), (F.queSeason 8191, 7)] (die);
     let q : CtxNo := 8191; let value : Word := 0x7000B; let ty := s.fld (F.queCfgType q.val);
     let v := value.toNat % 65536; let moved := (v + 65536 - s.fld (F.queHead q.val)) % 65536;
     ((s.queue q.val).destroying = false) ∧ (value.toNat / 65536 = s.fld (F.queSeason q.val)) ∧
       (s.ringFenced q.val = false) ∧ (s.bops = []) ∧ (ty = qtWork ∨ ty = qtDma) ∧
       (moved < s.ringUsed q.val ∨ s.ringSize q.val < moved)) ∧
    (let s : State := flds [(F.queCfgType 8191, qtCompletion), (F.queCfgLog2Entries 8191, 4), (F.queHead 8191, 65530), (F.queTail 8191, 5), (F.queSeason 8191, 7)] (die);
     let q : CtxNo := 8191; let value : Word := 0x70005; let ty := s.fld (F.queCfgType q.val);
     let v := value.toNat % 65536; let moved := (v + 65536 - s.fld (F.queHead q.val)) % 65536;
     ((s.queue q.val).destroying = false) ∧ (value.toNat / 65536 = s.fld (F.queSeason q.val)) ∧
       (s.ringFenced q.val = false) ∧ (s.bops = []) ∧ (ty = qtCompletion ∨ ty = qtEvent) ∧
       ((∀ x ∈ s.queues, (s.queue x.1).held = [])) ∧ (moved ≤ s.ringUsed q.val)) ∧
    (let s : State := flds [(F.queCfgType 8191, qtCompletion), (F.queCfgLog2Entries 8191, 4), (F.queHead 8191, 65530), (F.queTail 8191, 5), (F.queSeason 8191, 7)] (die);
     let q : CtxNo := 8191; let value : Word := 0x70006; let ty := s.fld (F.queCfgType q.val);
     let v := value.toNat % 65536; let moved := (v + 65536 - s.fld (F.queHead q.val)) % 65536;
     ((s.queue q.val).destroying = false) ∧ (value.toNat / 65536 = s.fld (F.queSeason q.val)) ∧
       (s.ringFenced q.val = false) ∧ (s.bops = []) ∧ (ty = qtCompletion ∨ ty = qtEvent) ∧
       ((∀ x ∈ s.queues, (s.queue x.1).held = [])) ∧ (s.ringUsed q.val < moved)) :=
  ⟨by decide +kernel, by decide +kernel, by decide +kernel, by decide +kernel⟩

theorem witness_ControlDoorbells :
    (let s : State := flds [(F.dmaChStatusState 7 63, chIdle), (F.dmaChStatusQueue 7 63, 9), (F.queCfgType 9, qtDma), (F.queCfgEngine 9, 7), (F.queCfgChannel 9, 63), (F.queSeason 9, 7), (F.queCfgLog2Entries 9, 4)] (die);
     let q : CtxNo := 9; let value : Word := 0x70001; let v := value.toNat % 65536;
     let good := s.fld (F.queCfgType q.val) = qtDma ∧ (s.queue q.val).destroying = false ∧ value.toNat / 65536 = s.fld (F.queSeason q.val) ∧ s.ringFenced q.val = false;
     (good) ∧ (v = 1)) ∧
    (let s : State := flds [(F.dmaChStatusState 7 63, chPausing), (F.dmaChStatusQueue 7 63, 9), (F.queCfgType 9, qtDma), (F.queCfgEngine 9, 7), (F.queCfgChannel 9, 63), (F.queSeason 9, 7), (F.queCfgLog2Entries 9, 4)] (die);
     let q : CtxNo := 9; let value : Word := 0x70002; let v := value.toNat % 65536;
     let good := s.fld (F.queCfgType q.val) = qtDma ∧ (s.queue q.val).destroying = false ∧ value.toNat / 65536 = s.fld (F.queSeason q.val) ∧ s.ringFenced q.val = false;
     (good) ∧ (v = 2)) ∧
    (let s : State := flds [(F.dmaChStatusState 7 63, chHalted), (F.dmaChStatusQueue 7 63, 9), (F.queCfgType 9, qtDma), (F.queCfgEngine 9, 7), (F.queCfgChannel 9, 63), (F.queSeason 9, 7), (F.queCfgLog2Entries 9, 4)] (die);
     let q : CtxNo := 9; let value : Word := 0x70004; let v := value.toNat % 65536;
     let good := s.fld (F.queCfgType q.val) = qtDma ∧ (s.queue q.val).destroying = false ∧ value.toNat / 65536 = s.fld (F.queSeason q.val) ∧ s.ringFenced q.val = false;
     (good) ∧ (v = 4)) ∧
    (let s : State := chn 511 (fun c => { c with run := some ({ ring := 9, idx := 2, bytes := [] } : DmaRun) }) (flds [(F.dmaChStatusState 7 63, chPausing), (F.dmaChStatusQueue 7 63, 9), (F.queCfgType 9, qtDma), (F.queCfgEngine 9, 7), (F.queCfgChannel 9, 63), (F.queSeason 9, 7), (F.queCfgLog2Entries 9, 4)] (die));
     let e : EngNo := 7; let j : ChanNo := 63; let d := e.val * 64 + j.val; (s.chState d = chPausing) ∧
       (s.bops = []) ∧
       ((∀ r, (s.chan d).run = some r → r.out = [] ∧ r.carry = [] ∧ (s.queue r.ring).destroying = false))) ∧
    (let s : State := flds [(F.dmaChStatusState 7 63, chIdle), (F.dmaChStatusQueue 7 63, 9), (F.queCfgType 9, qtDma), (F.queCfgEngine 9, 7), (F.queCfgChannel 9, 63), (F.queSeason 9, 7), (F.queCfgLog2Entries 9, 4)] (die);
     let q : CtxNo := 9; let value : Word := 0x60001; let i := Instr.doorbellTail .hedger 9 0x60001;
     (s.fld (F.queCfgType q.val) ≠ qtUnused) ∧ ((s.queue q.val).destroying = false) ∧ (s.bops = []) ∧
       (value.toNat / 65536 ≠ s.fld (F.queSeason q.val)) ∧
       (i ∈ [Instr.doorbellTail .hedger q value, .doorbellHead .hedger q value, .pause .hedger q value, .resume .hedger q value, .restart .hedger q value])) :=
  ⟨by decide +kernel,
    by decide +kernel,
    by decide +kernel,
    ⟨by decide +kernel, by decide +kernel,
      by intro r h; obtain rfl := Option.some.inj (show some _ = some r from h); decide +kernel⟩,
    by decide +kernel⟩

theorem witness_DmaStartsDescriptors :
    (let s : State := flds [(F.dmaChStatusState 7 63, chIdle), (F.dmaChStatusQueue 7 63, 9), (F.queCfgType 9, qtDma), (F.queCfgEngine 9, 7), (F.queCfgChannel 9, 63), (F.queSeason 9, 7), (F.queCfgLog2Entries 9, 4), (F.queTail 9, 1)] (die);
     let e : EngNo := 7; let j : ChanNo := 63;
     let data : List Byte := (leBytes 4 0 ++ leBytes 4 512 ++ leBytes 8 0x0 ++ leBytes 8 0x0 ++ leBytes 8 0 ++ leBytes 8 0x0 ++ leBytes 8 0x0 ++ leBytes 2 0 ++ List.replicate 14 0);
     let c := e.val * 64 + j.val; let q := s.fld (F.dmaChStatusQueue e.val j.val); let b := slice data 0 64;
     let own := (dmCtl b).testBit 0 = true; (s.chState c = chIdle) ∧ (s.clocksOff = false) ∧
       ((s.chan c).run = none) ∧ ((s.chan c).ownStop = false) ∧ (s.ringUsed q ≠ 0) ∧
       ((s.queue q).destroying = false) ∧ ((s.queue q).held = []) ∧ ((s.queue q).ringCore = none) ∧
       ((s.fld F.fltDmaEngFailed).testBit e.val = false) ∧ (s.bops = []) ∧ (s.underWay = []) ∧ (¬ own)) ∧
    (let s : State := flds [(F.dmaChStatusState 7 63, chIdle), (F.dmaChStatusQueue 7 63, 9), (F.queCfgType 9, qtDma), (F.queCfgEngine 9, 7), (F.queCfgChannel 9, 63), (F.queSeason 9, 7), (F.queCfgLog2Entries 9, 4), (F.queTail 9, 1)] (die);
     let e : EngNo := 7; let j : ChanNo := 63;
     let data : List Byte := (leBytes 4 1 ++ leBytes 4 512 ++ leBytes 8 0x100017c00100 ++ leBytes 8 0x100000c02100 ++ leBytes 8 0 ++ leBytes 8 0x0 ++ leBytes 8 0x0 ++ leBytes 2 0 ++ List.replicate 14 0);
     let c := e.val * 64 + j.val; let q := s.fld (F.dmaChStatusQueue e.val j.val); let b := slice data 0 64;
     let own := (dmCtl b).testBit 0 = true; let link := !s.isLocal (dmDst b) || !s.isLocal (dmSrc b);
     (s.chState c = chIdle) ∧ (s.clocksOff = false) ∧ ((s.chan c).run = none) ∧ ((s.chan c).ownStop = false) ∧
       (s.ringUsed q ≠ 0) ∧ ((s.queue q).destroying = false) ∧ ((s.queue q).held = []) ∧
       ((s.queue q).ringCore = none) ∧ ((s.fld F.fltDmaEngFailed).testBit e.val = false) ∧ (s.bops = []) ∧
       (s.underWay = []) ∧ (own) ∧ (s.dmaCheck c b = true) ∧ (link = false) ∧ (s.kernels = [])) ∧
    (let s : State := flds [(F.dmaChStatusState 7 63, chIdle), (F.dmaChStatusQueue 7 63, 9), (F.queCfgType 9, qtDma), (F.queCfgEngine 9, 7), (F.queCfgChannel 9, 63), (F.queSeason 9, 7), (F.queCfgLog2Entries 9, 4), (F.queTail 9, 1)] (die);
     let e : EngNo := 7; let j : ChanNo := 63;
     let data : List Byte := (leBytes 4 1 ++ leBytes 4 0 ++ leBytes 8 0x0 ++ leBytes 8 0x0 ++ leBytes 8 0 ++ leBytes 8 0x0 ++ leBytes 8 0x0 ++ leBytes 2 0 ++ List.replicate 14 0);
     let c := e.val * 64 + j.val; let q := s.fld (F.dmaChStatusQueue e.val j.val); let b := slice data 0 64;
     let own := (dmCtl b).testBit 0 = true; (s.chState c = chIdle) ∧ (s.clocksOff = false) ∧
       ((s.chan c).run = none) ∧ ((s.chan c).ownStop = false) ∧ (s.ringUsed q ≠ 0) ∧
       ((s.queue q).destroying = false) ∧ ((s.queue q).held = []) ∧ ((s.queue q).ringCore = none) ∧
       ((s.fld F.fltDmaEngFailed).testBit e.val = false) ∧ (s.bops = []) ∧ (s.underWay = []) ∧ (own) ∧
       (s.dmaCheck c b = false) ∧ (addrSpace (dmDst b) = 0) ∧ (addrSpace (dmSrc b) = 0) ∧
       (s.bit (F.queNotifyEn (s.fld (F.queCqContext q))) = false)) :=
  ⟨by decide +kernel, by decide +kernel, by decide +kernel⟩

theorem witness_DmaMovesBeats :
    (let s : State := { (flds [(F.dmaChStatusState 7 63, chActive), (F.dmaChStatusQueue 7 63, 9), (F.queCfgType 9, qtDma), (F.queCfgEngine 9, 7), (F.queCfgChannel 9, 63), (F.queSeason 9, 7), (F.queCfgLog2Entries 9, 4)] (flds [(F.lnkStatusState 30, lkDetect)] die)) with chans := [(511, ({ run := some ({ ring := 9, idx := 2, bytes := (leBytes 4 1 ++ leBytes 4 512 ++ leBytes 8 0x100017c00100 ++ leBytes 8 0x2100 ++ leBytes 8 0 ++ leBytes 8 0x0 ++ leBytes 8 0x0 ++ leBytes 2 0 ++ List.replicate 14 0), beat := 1, link := some 23 } : DmaRun) } : ChanSt))] };
     let e : EngNo := 7; let j : ChanNo := 63;
     let r : DmaRun := ({ ring := 9, idx := 2, bytes := (leBytes 4 1 ++ leBytes 4 512 ++ leBytes 8 0x100017c00100 ++ leBytes 8 0x2100 ++ leBytes 8 0 ++ leBytes 8 0x0 ++ leBytes 8 0x0 ++ leBytes 2 0 ++ List.replicate 14 0), beat := 1, link := some 23 } : DmaRun);
     let i : LinkNo := 23;
     let x : ChanSt := ({ run := some ({ ring := 9, idx := 2, bytes := (leBytes 4 1 ++ leBytes 4 512 ++ leBytes 8 0x100017c00100 ++ leBytes 8 0x2100 ++ leBytes 8 0 ++ leBytes 8 0x0 ++ leBytes 8 0x0 ++ leBytes 2 0 ++ List.replicate 14 0), beat := 1, link := some 23 } : DmaRun) } : ChanSt);
     let c := e.val * 64 + j.val; let b := r.bytes; let a := dmSrc b + 256 * r.beat; let l := addrOff a / 2 ^ 22;
     let p := 95; (s.clocksOff = false) ∧ (s.bops = []) ∧ (s.chans = [(c, x)]) ∧ (x.run = some r) ∧
       (r.failed = none) ∧ (r.step = 0) ∧ (r.gap = false) ∧ (r.sbPend = []) ∧ (r.sbLive = []) ∧ (r.carry = []) ∧
       (dmSrcFixed b = false) ∧ (dmDstFixed b = false) ∧ (dmFunnel b = false) ∧ (dmSrc b % 256 = 0) ∧
       (dmDst b % 256 = 0) ∧ (dmLen b % 256 = 0) ∧ (dmDst b + dmLen b < 2 ^ 64) ∧ (r.out = []) ∧ (r.rest = false) ∧
       (r.beat < dmBeats b) ∧ (s.chState c = chActive) ∧ ((∀ y ∈ s.links, y.2.bheld = [])) ∧
       (addrSpace (dmDst b) = 0) ∧ (r.link = some i.val) ∧ (i.val < 24) ∧ (s.isLocal a = true) ∧ (addrSpace a = 1) ∧
       (s.phys l = some p) ∧ (s.power p = pwLeaf) ∧ (s.fencedCore p = false) ∧ ((s.router i.val).opens = []) ∧
       ((s.core p).readq.length < 8) ∧ (s.fld (F.dmaChStatusPriority e.val j.val) < 4)) ∧
    (let s : State := { (flds [(F.dmaChStatusState 7 63, chActive), (F.dmaChStatusQueue 7 63, 9), (F.queCfgType 9, qtDma), (F.queCfgEngine 9, 7), (F.queCfgChannel 9, 63), (F.queSeason 9, 7), (F.queCfgLog2Entries 9, 4)] (link 23 lkActive (die))) with chans := [(511, ({ run := some ({ ring := 9, idx := 2, bytes := (leBytes 4 1 ++ leBytes 4 1024 ++ leBytes 8 0x100 ++ leBytes 8 0x2100 ++ leBytes 8 0 ++ leBytes 8 0x0 ++ leBytes 8 0x0 ++ leBytes 2 0 ++ List.replicate 14 0), beat := 3, written := 256, link := some 23, out := [({ beat := 1, link := some 23 } : DmaOut), ({ beat := 2, link := some 23 } : DmaOut)] } : DmaRun) } : ChanSt))] };
     let e : EngNo := 7; let j : ChanNo := 63;
     let r : DmaRun := ({ ring := 9, idx := 2, bytes := (leBytes 4 1 ++ leBytes 4 1024 ++ leBytes 8 0x100 ++ leBytes 8 0x2100 ++ leBytes 8 0 ++ leBytes 8 0x0 ++ leBytes 8 0x0 ++ leBytes 2 0 ++ List.replicate 14 0), beat := 3, written := 256, link := some 23, out := [({ beat := 1, link := some 23 } : DmaOut), ({ beat := 2, link := some 23 } : DmaOut)] } : DmaRun);
     let o : DmaOut := ({ beat := 1, link := some 23 } : DmaOut);
     let more : List DmaOut := [({ beat := 2, link := some 23 } : DmaOut)]; let i : LinkNo := 23;
     let x : ChanSt := ({ run := some ({ ring := 9, idx := 2, bytes := (leBytes 4 1 ++ leBytes 4 1024 ++ leBytes 8 0x100 ++ leBytes 8 0x2100 ++ leBytes 8 0 ++ leBytes 8 0x0 ++ leBytes 8 0x0 ++ leBytes 2 0 ++ List.replicate 14 0), beat := 3, written := 256, link := some 23, out := [({ beat := 1, link := some 23 } : DmaOut), ({ beat := 2, link := some 23 } : DmaOut)] } : DmaRun) } : ChanSt);
     let c := e.val * 64 + j.val; let b := r.bytes; (s.clocksOff = false) ∧ (s.bops = []) ∧ (s.chans = [(c, x)]) ∧
       (x.run = some r) ∧ (r.failed = none) ∧ (r.step = 0) ∧ (r.gap = false) ∧ (r.sbPend = []) ∧ (r.sbLive = []) ∧
       (r.carry = []) ∧ (dmSrcFixed b = false) ∧ (dmDstFixed b = false) ∧ (dmFunnel b = false) ∧
       (dmSrc b % 256 = 0) ∧ (dmDst b % 256 = 0) ∧ (dmLen b % 256 = 0) ∧ (dmDst b + dmLen b < 2 ^ 64) ∧
       (r.out = o :: more) ∧ (o.link = some i.val) ∧ (o.data = none) ∧ (o.lost = false) ∧
       ((∀ m ∈ more, m.beat ≠ o.beat)) ∧ ((∀ m, more.head? = some m → m.data = none ∧ m.lost = false)) ∧
       (o.beat * 256 = r.written) ∧ (r.written + 256 ≤ dmLen b) ∧ (r.beat < dmBeats b) ∧ (addrSpace (dmDst b) = 0) ∧
       (addrSpace (dmDst b + dmLen b) = 0) ∧ (r.link = some i.val) ∧ (s.linkUp i.val = true)) ∧
    (let s : State := { (flds [(F.dmaChStatusState 7 63, chActive), (F.dmaChStatusQueue 7 63, 9), (F.queCfgType 9, qtDma), (F.queCfgEngine 9, 7), (F.queCfgChannel 9, 63), (F.queSeason 9, 7), (F.queCfgLog2Entries 9, 4), (F.dmaChCtlRetryLimit 7 63, 1)] (link 23 lkActive (die))) with chans := [(511, ({ run := some ({ ring := 9, idx := 2, bytes := (leBytes 4 1 ++ leBytes 4 1024 ++ leBytes 8 0x100 ++ leBytes 8 0x2100 ++ leBytes 8 0 ++ leBytes 8 0x0 ++ leBytes 8 0x0 ++ leBytes 2 0 ++ List.replicate 14 0), beat := 3, written := 256, link := some 23, out := [({ beat := 1, link := some 23 } : DmaOut), ({ beat := 2, link := some 23 } : DmaOut)] } : DmaRun) } : ChanSt))] };
     let e : EngNo := 7; let j : ChanNo := 63;
     let r : DmaRun := ({ ring := 9, idx := 2, bytes := (leBytes 4 1 ++ leBytes 4 1024 ++ leBytes 8 0x100 ++ leBytes 8 0x2100 ++ leBytes 8 0 ++ leBytes 8 0x0 ++ leBytes 8 0x0 ++ leBytes 2 0 ++ List.replicate 14 0), beat := 3, written := 256, link := some 23, out := [({ beat := 1, link := some 23 } : DmaOut), ({ beat := 2, link := some 23 } : DmaOut)] } : DmaRun);
     let o : DmaOut := ({ beat := 1, link := some 23 } : DmaOut);
     let more : List DmaOut := [({ beat := 2, link := some 23 } : DmaOut)]; let i : LinkNo := 23;
     let x : ChanSt := ({ run := some ({ ring := 9, idx := 2, bytes := (leBytes 4 1 ++ leBytes 4 1024 ++ leBytes 8 0x100 ++ leBytes 8 0x2100 ++ leBytes 8 0 ++ leBytes 8 0x0 ++ leBytes 8 0x0 ++ leBytes 2 0 ++ List.replicate 14 0), beat := 3, written := 256, link := some 23, out := [({ beat := 1, link := some 23 } : DmaOut), ({ beat := 2, link := some 23 } : DmaOut)] } : DmaRun) } : ChanSt);
     let c := e.val * 64 + j.val; let b := r.bytes; (s.clocksOff = false) ∧ (s.bops = []) ∧ (s.chans = [(c, x)]) ∧
       (x.run = some r) ∧ (r.failed = none) ∧ (r.step = 0) ∧ (r.gap = false) ∧ (r.sbPend = []) ∧ (r.sbLive = []) ∧
       (r.carry = []) ∧ (dmSrcFixed b = false) ∧ (dmDstFixed b = false) ∧ (dmFunnel b = false) ∧
       (dmSrc b % 256 = 0) ∧ (dmDst b % 256 = 0) ∧ (dmLen b % 256 = 0) ∧ (dmDst b + dmLen b < 2 ^ 64) ∧
       (r.out = o :: more) ∧ (o.link = some i.val) ∧ (o.data = none) ∧ (o.lost = false) ∧
       ((∀ m ∈ more, m.beat ≠ o.beat)) ∧ ((∀ m, more.head? = some m → m.data = none ∧ m.lost = false)) ∧
       (o.tries < s.fld (F.dmaChCtlRetryLimit e.val j.val)) ∧ (s.linkUp i.val = true)) ∧
    (let s : State := { (flds [(F.dmaChStatusState 7 63, chActive), (F.dmaChStatusQueue 7 63, 9), (F.queCfgType 9, qtDma), (F.queCfgEngine 9, 7), (F.queCfgChannel 9, 63), (F.queSeason 9, 7), (F.queCfgLog2Entries 9, 4)] (link 23 lkActive (die))) with chans := [(511, ({ run := some ({ ring := 9, idx := 2, bytes := (leBytes 4 1 ++ leBytes 4 1024 ++ leBytes 8 0x100 ++ leBytes 8 0x2100 ++ leBytes 8 0 ++ leBytes 8 0x0 ++ leBytes 8 0x0 ++ leBytes 2 0 ++ List.replicate 14 0), beat := 3, written := 256, link := some 23, out := [({ beat := 1, link := some 23 } : DmaOut), ({ beat := 2, link := some 23 } : DmaOut)] } : DmaRun) } : ChanSt))] };
     let e : EngNo := 7; let j : ChanNo := 63;
     let r : DmaRun := ({ ring := 9, idx := 2, bytes := (leBytes 4 1 ++ leBytes 4 1024 ++ leBytes 8 0x100 ++ leBytes 8 0x2100 ++ leBytes 8 0 ++ leBytes 8 0x0 ++ leBytes 8 0x0 ++ leBytes 2 0 ++ List.replicate 14 0), beat := 3, written := 256, link := some 23, out := [({ beat := 1, link := some 23 } : DmaOut), ({ beat := 2, link := some 23 } : DmaOut)] } : DmaRun);
     let o : DmaOut := ({ beat := 1, link := some 23 } : DmaOut);
     let more : List DmaOut := [({ beat := 2, link := some 23 } : DmaOut)]; let i : LinkNo := 23;
     let status : Byte := 0x11;
     let x : ChanSt := ({ run := some ({ ring := 9, idx := 2, bytes := (leBytes 4 1 ++ leBytes 4 1024 ++ leBytes 8 0x100 ++ leBytes 8 0x2100 ++ leBytes 8 0 ++ leBytes 8 0x0 ++ leBytes 8 0x0 ++ leBytes 2 0 ++ List.replicate 14 0), beat := 3, written := 256, link := some 23, out := [({ beat := 1, link := some 23 } : DmaOut), ({ beat := 2, link := some 23 } : DmaOut)] } : DmaRun) } : ChanSt);
     let c := e.val * 64 + j.val; let b := r.bytes; (s.clocksOff = false) ∧ (s.bops = []) ∧ (s.chans = [(c, x)]) ∧
       (x.run = some r) ∧ (r.failed = none) ∧ (r.step = 0) ∧ (r.gap = false) ∧ (r.sbPend = []) ∧ (r.sbLive = []) ∧
       (r.carry = []) ∧ (dmSrcFixed b = false) ∧ (dmDstFixed b = false) ∧ (dmFunnel b = false) ∧
       (dmSrc b % 256 = 0) ∧ (dmDst b % 256 = 0) ∧ (dmLen b % 256 = 0) ∧ (dmDst b + dmLen b < 2 ^ 64) ∧
       (r.out = o :: more) ∧ (o.link = some i.val) ∧ (o.data = none) ∧ (o.lost = false) ∧
       ((∀ m ∈ more, m.beat ≠ o.beat)) ∧ ((∀ m, more.head? = some m → m.data = none ∧ m.lost = false)) ∧
       (more ≠ []) ∧ (addrSpace (dmDst b) = 0) ∧ (status ≠ 0x20) ∧ (status ≠ 0x40)) :=
  ⟨by decide +kernel, by decide +kernel, by decide +kernel, by decide +kernel⟩

theorem witness_DmaCompletes :
    (let s : State := chn 511 (fun c => { c with run := some ({ ring := 9, idx := 2, bytes := (leBytes 4 2049 ++ leBytes 4 512 ++ leBytes 8 0x100 ++ leBytes 8 0x2100 ++ leBytes 8 0 ++ leBytes 8 0x4000 ++ leBytes 8 0x0 ++ leBytes 2 0 ++ List.replicate 14 0), beat := 2, written := 512, link := some 23, step := 1, base0 := some 23 } : DmaRun) }) (flds [(F.dmaChStatusState 7 63, chReadback), (F.dmaChStatusQueue 7 63, 9), (F.queCfgType 9, qtDma), (F.queCfgEngine 9, 7), (F.queCfgChannel 9, 63), (F.queSeason 9, 7), (F.queCfgLog2Entries 9, 4), (F.dmaChCrc 7 63, 0x12345678)] (link 23 lkActive die));
     let e : EngNo := 7; let j : ChanNo := 63;
     let r : DmaRun := ({ ring := 9, idx := 2, bytes := (leBytes 4 2049 ++ leBytes 4 512 ++ leBytes 8 0x100 ++ leBytes 8 0x2100 ++ leBytes 8 0 ++ leBytes 8 0x4000 ++ leBytes 8 0x0 ++ leBytes 2 0 ++ List.replicate 14 0), beat := 2, written := 512, link := some 23, step := 1, base0 := some 23 } : DmaRun);
     let i : Nat := 23; let c := e.val * 64 + j.val; let b := r.bytes; ((s.chan c).run = some r) ∧
       (r.failed = none) ∧ (s.bops = []) ∧ (r.step = 1) ∧ (s.isLocal (dmDst b) = false) ∧ (r.base0 = some i) ∧
       (s.linkUp i = true) ∧ (dmCrcDest b ≠ 0) ∧ (s.isLocal (dmCrcDest b) = false)) ∧
    (let s : State := chn 511 (fun c => { c with run := some ({ ring := 9, idx := 2, bytes := (leBytes 4 2049 ++ leBytes 4 512 ++ leBytes 8 0x100 ++ leBytes 8 0x2100 ++ leBytes 8 0 ++ leBytes 8 0x4000 ++ leBytes 8 0x0 ++ leBytes 2 0 ++ List.replicate 14 0), beat := 2, written := 512, link := some 23, step := 1 } : DmaRun) }) (flds [(F.dmaChStatusState 7 63, chReadback), (F.dmaChStatusQueue 7 63, 9), (F.queCfgType 9, qtDma), (F.queCfgEngine 9, 7), (F.queCfgChannel 9, 63), (F.queSeason 9, 7), (F.queCfgLog2Entries 9, 4)] (link 23 lkActive die));
     let e : EngNo := 7; let j : ChanNo := 63;
     let r : DmaRun := ({ ring := 9, idx := 2, bytes := (leBytes 4 2049 ++ leBytes 4 512 ++ leBytes 8 0x100 ++ leBytes 8 0x2100 ++ leBytes 8 0 ++ leBytes 8 0x4000 ++ leBytes 8 0x0 ++ leBytes 2 0 ++ List.replicate 14 0), beat := 2, written := 512, link := some 23, step := 1 } : DmaRun);
     let status : Byte := 0x40; let c := e.val * 64 + j.val; let b := r.bytes; ((s.chan c).run = some r) ∧
       (r.failed = none) ∧ (s.bops = []) ∧ (r.step = 1) ∧ (s.isLocal (dmDst b) = false) ∧ (status ≠ 0) ∧
       (r.sbLive = []) ∧ (s.bit (F.queNotifyEn (s.fld (F.queCqContext r.ring))) = false)) ∧
    (let s : State := chn 511 (fun c => { c with run := some ({ ring := 9, idx := 2, bytes := (leBytes 4 2049 ++ leBytes 4 512 ++ leBytes 8 0x100 ++ leBytes 8 0x2100 ++ leBytes 8 0 ++ leBytes 8 0x4000 ++ leBytes 8 0x0 ++ leBytes 2 0 ++ List.replicate 14 0), beat := 2, written := 512, link := some 23, step := 3 } : DmaRun) }) (flds [(F.dmaChStatusState 7 63, chReadback), (F.dmaChStatusQueue 7 63, 9), (F.queCfgType 9, qtDma), (F.queCfgEngine 9, 7), (F.queCfgChannel 9, 63), (F.queSeason 9, 7), (F.queCfgLog2Entries 9, 4), (F.queBase 9, 0x10000)] (link 23 lkActive die));
     let e : EngNo := 7; let j : ChanNo := 63;
     let r : DmaRun := ({ ring := 9, idx := 2, bytes := (leBytes 4 2049 ++ leBytes 4 512 ++ leBytes 8 0x100 ++ leBytes 8 0x2100 ++ leBytes 8 0 ++ leBytes 8 0x4000 ++ leBytes 8 0x0 ++ leBytes 2 0 ++ List.replicate 14 0), beat := 2, written := 512, link := some 23, step := 3 } : DmaRun);
     let i : Nat := 23; let c := e.val * 64 + j.val; ((s.chan c).run = some r) ∧ (r.failed = none) ∧ (s.bops = []) ∧
       (r.step = 3) ∧ (r.out = []) ∧ (s.underWay = []) ∧ ((s.queue r.ring).held = []) ∧
       ((s.queue r.ring).ringCore = none) ∧ (r.ring < 8192) ∧ (s.isLocal (s.slotAddr r.ring r.idx 64) = false) ∧
       (s.linkForAddr (s.slotAddr r.ring r.idx 64) = some i) ∧ (s.linkUp i = true)) ∧
    (let s : State := chn 511 (fun c => { c with run := some ({ ring := 9, idx := 2, bytes := (leBytes 4 2049 ++ leBytes 4 512 ++ leBytes 8 0x100 ++ leBytes 8 0x2100 ++ leBytes 8 0 ++ leBytes 8 0x4000 ++ leBytes 8 0x0 ++ leBytes 2 0 ++ List.replicate 14 0), beat := 2, written := 512, link := some 23, step := 5 } : DmaRun) }) (flds [(F.dmaChStatusState 7 63, chReadback), (F.dmaChStatusQueue 7 63, 9), (F.queCfgType 9, qtDma), (F.queCfgEngine 9, 7), (F.queCfgChannel 9, 63), (F.queSeason 9, 7), (F.queCfgLog2Entries 9, 4)] (link 23 lkActive die));
     let e : EngNo := 7; let j : ChanNo := 63;
     let r : DmaRun := ({ ring := 9, idx := 2, bytes := (leBytes 4 2049 ++ leBytes 4 512 ++ leBytes 8 0x100 ++ leBytes 8 0x2100 ++ leBytes 8 0 ++ leBytes 8 0x4000 ++ leBytes 8 0x0 ++ leBytes 2 0 ++ List.replicate 14 0), beat := 2, written := 512, link := some 23, step := 5 } : DmaRun);
     let c := e.val * 64 + j.val; ((s.chan c).run = some r) ∧ (r.failed = none) ∧ (s.bops = []) ∧ (r.step = 5) ∧
       (r.out = []) ∧ (s.underWay = []) ∧ ((s.queue r.ring).destroying = false) ∧ (r.halts = false) ∧
       ((s.fld F.fltDmaEngFailed).testBit e.val = false) ∧ (s.chState c = chReadback)) :=
  ⟨by decide +kernel, by decide +kernel, by decide +kernel, by decide +kernel⟩

theorem witness_DmaEnginesFail :
    (let s : State := flds [(F.dmaChStatusState 7 63, chIdle), (F.dmaChStatusQueue 7 63, 9), (F.queCfgType 9, qtDma), (F.queCfgEngine 9, 7), (F.queCfgChannel 9, 63), (F.queSeason 9, 7), (F.queCfgLog2Entries 9, 4)] (die);
     let e : EngNo := 7; ((s.fld F.fltDmaEngFailed).testBit e.val = false) ∧ (s.fld F.fltDmaEngFailed < 256) ∧
       (s.ready = rdReady) ∧ (s.bops = []) ∧ ((∀ j, j < 64 → (s.chan (e.val * 64 + j)).run = none)) ∧
       ((∀ j, j < 64 → s.bit (F.queEqValid (s.fld (F.dmaChStatusQueue e.val j))) = false)) ∧
       ((∀ j, j < 64 → s.fld (F.dmaChStatusQueue e.val j) < 8192))) ∧
    (let s : State := que 9 (fun x => { x with held := [({ kind := 0, status := 0x11, ring := 9, origin := 2, tag := 77 } : CRec)] }) (que 12 (fun x => { x with ringCore := some 95 }) (flds [(F.queCqValid 9, 1), (F.queCqContext 9, 12), (F.queCfgType 12, qtCompletion), (F.queCfgLog2Entries 12, 4), (F.queHead 12, 3), (F.queTail 12, 18), (F.queBase 12, 17592588697088), (F.queStatusHeld 9, 1)] die));
     let q : CtxNo := 9; let r : CRec := ({ kind := 0, status := 0x11, ring := 9, origin := 2, tag := 77 } : CRec);
     let p : Nat := 95; ((s.queue q.val).held = [r]) ∧ (r.slot = none) ∧ (s.RingRoom q.val p) ∧ (s.bops = []) ∧
       ((s.queue q.val).active = [])) ∧
    (let s : State := que 9 (fun x => { x with held := [({ kind := 0, status := 0x11, ring := 9, origin := 2, tag := 77 } : CRec)] }) (que 12 (fun x => { x with ringCore := some 95 }) (flds [(F.queCqValid 9, 1), (F.queCqContext 9, 12), (F.queCfgType 12, qtCompletion), (F.queCfgLog2Entries 12, 4), (F.queHead 12, 3), (F.queTail 12, 18), (F.queBase 12, 17592588697088), (F.queStatusHeld 9, 1)] die));
     let q : CtxNo := 9; let r : CRec := ({ kind := 0, status := 0x11, ring := 9, origin := 2, tag := 77 } : CRec);
     let status : Byte := 0x40; ((s.queue q.val).held = [r]) ∧ (status ≠ 0)) ∧
    (let s : State := die; (s.bops = [])) ∧
    (let s : State := { (flds [(F.fltWdogEn, 1), (F.fltWdogTimeoutMs, 10)] die) with time := 20000 };
     (s.bops = []) ∧ (s.alive = true) ∧ (s.bit F.fltWdogEn = true) ∧ (s.dieAwake = true) ∧ (s.ready ≠ rdFaulted) ∧
       (s.kernels = []) ∧ ((∀ c, c < 512 → s.chState c = chUnbound)) ∧ (s.chans = [])) ∧
    (let s : State := die; (s.bops = []) ∧ (s.bit F.fltWdogEn = false)) ∧
    (let s : State := die; let cause : Fin 9 := 5; (s.bops = []) ∧ (s.alive = true) ∧ (s.ready ≠ rdFaulted) ∧
       (s.kernels = []) ∧ (s.chans = []) ∧ ((∀ c, c < 512 → s.chState c = chUnbound)) ∧
       ((cause.val = 5 ∨ cause.val = 6 ∨ (cause.val = 8 ∧ 3 ≤ s.stage)))) :=
  ⟨by decide +kernel,
    ⟨by decide +kernel, by decide +kernel, ringRoom_of (by decide +kernel), by decide +kernel, by decide +kernel⟩,
    by decide +kernel,
    by decide +kernel,
    by decide +kernel,
    by decide +kernel,
    by decide +kernel⟩

theorem witness_BindersCount :
    (let s : State := binder [(F.bndCount 5, 2)] die; let address : DWord := (BitVec.ofNat 64 bndAddr);
     let a := address.toNat; let b := a % 2 ^ 44 / 64;
     let local_ := a % 64 = 0 ∧ a / 2 ^ 44 % 8 = 2 ∧ a % 2 ^ 44 < 2 ^ 19 ∧ a / 2 ^ 47 = s.dieNo ∧ a / 2 ^ 47 % 16 ≤ 11;
     let step := s.fld (F.bndStep b); (local_) ∧ (s.bops = []) ∧ (s.armed b = true) ∧ (s.binder b = {}) ∧
       (s.queues = []) ∧ (step ≠ 0) ∧ (s.fld (F.bndUp b) = 0)) ∧
    (let s : State := binder [(F.bndCount 5, 2)] die; let address : DWord := (BitVec.ofNat 64 bndAddr);
     let a := address.toNat; let b := a % 2 ^ 44 / 64;
     let local_ := a % 64 = 0 ∧ a / 2 ^ 44 % 8 = 2 ∧ a % 2 ^ 44 < 2 ^ 19 ∧ a / 2 ^ 47 = s.dieNo ∧ a / 2 ^ 47 % 16 ≤ 11;
     let step := s.fld (F.bndStep b); (local_) ∧ (s.bops = []) ∧ (s.armed b = true) ∧ (s.binder b = {}) ∧
       (s.queues = []) ∧ (step ≠ 0) ∧ (s.fld (F.bndUp b) = 0)) ∧
    (let s : State := binder [(F.bndCount 5, 2), (F.bndTarget 5, 30)] die;
     let address : DWord := (BitVec.ofNat 64 bndAddr); let a := address.toNat; let b := a % 2 ^ 44 / 64;
     let local_ := a % 64 = 0 ∧ a / 2 ^ 44 % 8 = 2 ∧ a % 2 ^ 44 < 2 ^ 19 ∧ a / 2 ^ 47 = s.dieNo ∧ a / 2 ^ 47 % 16 ≤ 11;
     (local_) ∧ (s.bops = []) ∧ (s.armed b = true) ∧ (s.fld (F.bndPendingUp b) = 0)) ∧
    (let s : State := binder [(F.bndPendingUp 5, 1)] die; let address : DWord := (BitVec.ofNat 64 bndAddr);
     let a := address.toNat; let b := a % 2 ^ 44 / 64;
     let local_ := a % 64 = 0 ∧ a / 2 ^ 44 % 8 = 2 ∧ a % 2 ^ 44 < 2 ^ 19 ∧ a / 2 ^ 47 = s.dieNo ∧ a / 2 ^ 47 % 16 ≤ 11;
     (local_) ∧ (s.bops = []) ∧ (s.armed b = true) ∧ (s.fld (F.bndPendingUp b) ≠ 0)) ∧
    (let s : State := die; let address : DWord := (BitVec.ofNat 64 bndAddr); let v : Word := 7;
     let a := address.toNat; let b := a % 2 ^ 44 / 64;
     let local_ := a % 64 = 0 ∧ a / 2 ^ 44 % 8 = 2 ∧ a % 2 ^ 44 < 2 ^ 19 ∧ a / 2 ^ 47 = s.dieNo ∧ a / 2 ^ 47 % 16 ≤ 11;
     let i := Instr.arrive .hedger (BitVec.ofNat 64 bndAddr) 0; (local_) ∧ (s.bops = []) ∧ (s.armed b = false) ∧
       (i ∈ [Instr.arrive .hedger address 0, .binderAdd .hedger address v, .binderReset .hedger address 0])) ∧
    (let s : State := sess (binder [] die);
     let p : Packet := (pk 1283 (leBytes 2 5 ++ [0, 0] ++ leBytes 4 3 ++ leBytes 8 (0))); let b := packetPar p 0 2;
     let flags := packetPar p 2 1; let n := packetPar p 3 1; let step := packetPar p 4 4; let up := packetPar p 8 8;
     let list := (List.range n).map fun k => packetPar p (0x10 + 8 * k) 8; (s.Takes 0x0503 p) ∧
       (0x10 + 8 * n ≤ p.params.length) ∧ (b ≤ 8191) ∧ (flags ≤ 3) ∧ (flags % 2 = 0) ∧ (step ≠ 0) ∧
       ((up = 0 ∨ validBinderAddr up = true)) ∧ ((∀ a ∈ list, validBinderAddr a = true)) ∧ (s.armed b = true)) ∧
    (let s : State := sess (die);
     let p : Packet := (pk 1283 (leBytes 2 5 ++ [2, 2] ++ leBytes 4 0xFFFFFFFF ++ leBytes 8 (2^47 + bndAddr) ++ leBytes 8 (bndAddr + 64) ++ leBytes 8 (2^47 + bndAddr)));
     let b := packetPar p 0 2; let flags := packetPar p 2 1; let n := packetPar p 3 1; let step := packetPar p 4 4;
     let up := packetPar p 8 8; let list := (List.range n).map fun k => packetPar p (0x10 + 8 * k) 8;
     (s.Takes 0x0503 p) ∧ (0x10 + 8 * n ≤ p.params.length) ∧ (b ≤ 8191) ∧ (flags ≤ 3) ∧ (flags % 2 = 0) ∧
       (step ≠ 0) ∧ ((up = 0 ∨ validBinderAddr up = true)) ∧ ((∀ a ∈ list, validBinderAddr a = true)) ∧
       (s.armed b = false) ∧ ((s.offered p).listPlaces n ≠ [])) ∧
    (let s : State := sess (binder [] die);
     let p : Packet := (pk 1283 (leBytes 2 5 ++ [1, 0] ++ leBytes 4 0 ++ leBytes 8 (0))); let b := packetPar p 0 2;
     let flags := packetPar p 2 1; let n := packetPar p 3 1; let step := packetPar p 4 4; let up := packetPar p 8 8;
     (s.Takes 0x0503 p) ∧ (0x10 + 8 * n ≤ p.params.length) ∧ (b ≤ 8191) ∧ (flags ≤ 3) ∧ (flags = 1) ∧ (n = 0) ∧
       (step = 0) ∧ (up = 0) ∧ (s.armed b = true) ∧ ((s.binder b).owedRel = []) ∧ ((s.binder b).waiters = []) ∧
       ((s.offered p).awaited b = false) ∧ (s.fld (F.bndPendingUp b) = 0)) ∧
    (let s : State := sess ((binder [] die).setBinder 5 { waiters := [(3, 4)] });
     let p : Packet := (pk 1283 (leBytes 2 5 ++ [1, 0] ++ leBytes 4 0 ++ leBytes 8 (0))); let b := packetPar p 0 2;
     let flags := packetPar p 2 1; let n := packetPar p 3 1; let step := packetPar p 4 4; let up := packetPar p 8 8;
     (s.Takes 0x0503 p) ∧ (0x10 + 8 * n ≤ p.params.length) ∧ (b ≤ 8191) ∧ (flags ≤ 3) ∧ (flags = 1) ∧ (n = 0) ∧
       (step = 0) ∧ (up = 0) ∧ (s.armed b = true) ∧ ((s.binder b).owedRel = []) ∧ ((s.binder b).waiters ≠ [])) :=
  ⟨by decide +kernel,
    by decide +kernel,
    by decide +kernel,
    by decide +kernel,
    by decide +kernel,
    ⟨takes_of (by decide +kernel), by decide +kernel, by decide +kernel, by decide +kernel, by decide +kernel,
      by decide +kernel, by decide +kernel, by decide +kernel, by decide +kernel⟩,
    ⟨takes_of (by decide +kernel), by decide +kernel, by decide +kernel, by decide +kernel, by decide +kernel,
      by decide +kernel, by decide +kernel, by decide +kernel, by decide +kernel, by decide +kernel⟩,
    ⟨takes_of (by decide +kernel), by decide +kernel, by decide +kernel, by decide +kernel, by decide +kernel,
      by decide +kernel, by decide +kernel, by decide +kernel, by decide +kernel, by decide +kernel,
      by decide +kernel, by decide +kernel, by decide +kernel⟩,
    ⟨takes_of (by decide +kernel), by decide +kernel, by decide +kernel, by decide +kernel, by decide +kernel,
      by decide +kernel, by decide +kernel, by decide +kernel, by decide +kernel, by decide +kernel,
      by decide +kernel⟩⟩

theorem witness_BinderWaitsWake :
    (let s : State := binder [] die; let address : DWord := (BitVec.ofNat 64 bndAddr); let c : CoreNo := 95;
     let p : Nat := 95; let a := address.toNat; let b := a % 2 ^ 44 / 64;
     let local_ := a % 64 = 0 ∧ a / 2 ^ 44 % 8 = 2 ∧ a % 2 ^ 44 < 2 ^ 19 ∧ a / 2 ^ 47 = s.dieNo ∧ a / 2 ^ 47 % 16 ≤ 11;
     (local_) ∧ (s.bops = []) ∧ (s.kernels = []) ∧ (s.armed b = true) ∧ (s.phys c.val = some p) ∧
       (s.logical p = some c.val) ∧ (p < 96) ∧ (s.fencedCore p = false) ∧ (s.power p = pwLeaf) ∧
       ((s.core p).postsOut < 16) ∧ ((s.core p).frozenOwn = false) ∧ (s.coreState p ≠ csFaulted)) ∧
    (let s : State := binder [] die; let address : DWord := (BitVec.ofNat 64 bndAddr); let a := address.toNat;
     let local_ := a % 64 = 0 ∧ a / 2 ^ 44 % 8 = 2 ∧ a % 2 ^ 44 < 2 ^ 19 ∧ a / 2 ^ 47 = s.dieNo ∧ a / 2 ^ 47 % 16 ≤ 11;
     (local_) ∧ (s.bops = []) ∧ (s.kernels = [])) ∧
    (let s : State := flds [(F.winRoleCores 5 2, 0x80000001), (F.winRoleSeason 5, 9), (F.winRolePending 5, 1)] die;
     let address : DWord := (BitVec.ofNat 64 bndAddr); let v : Word := 0x90006; let a := address.toNat;
     let b := a % 2 ^ 44 / 64;
     let local_ := a % 64 = 0 ∧ a / 2 ^ 44 % 8 = 2 ∧ a % 2 ^ 44 < 2 ^ 19 ∧ a / 2 ^ 47 = s.dieNo ∧ a / 2 ^ 47 % 16 ≤ 11;
     let season := v.toNat / 65536; (local_) ∧ (s.bops = []) ∧ (s.kernels = []) ∧ (b < 256) ∧ (s.roleSet b ≠ 0) ∧
       (season = s.fld (F.winRoleSeason b)) ∧
       (((bitsOf 96 (s.roleSet b)).filterMap s.phys).any s.fencedCore = false) ∧
       ((∀ q, q < 96 → s.power q = pwLeaf))) ∧
    (let s : State := flds [(F.winRoleCores 5 2, 0x80000001), (F.winRoleSeason 5, 9), (F.winRolePending 5, 1)] die;
     let address : DWord := (BitVec.ofNat 64 bndAddr); let v : Word := 0x80006; let a := address.toNat;
     let b := a % 2 ^ 44 / 64;
     let local_ := a % 64 = 0 ∧ a / 2 ^ 44 % 8 = 2 ∧ a % 2 ^ 44 < 2 ^ 19 ∧ a / 2 ^ 47 = s.dieNo ∧ a / 2 ^ 47 % 16 ≤ 11;
     let season := v.toNat / 65536; (local_) ∧ (s.bops = []) ∧ (s.kernels = []) ∧ (b < 256) ∧
       (s.roleSet b = 0 ∨ season ≠ s.fld (F.winRoleSeason b))) ∧
    (let s : State := sess (flds [(F.evgFenced 0, 1)] (flds [(F.winRolePending 255, 5)] die));
     let p : Packet := (pk 1286 (leBytes 4 255 ++ leBytes 4 0x11223344 ++ leBytes 12 (2 ^ 95 + 2 ^ 3)));
     let set := packetPar p 8 12; (s.Takes 0x0506 p) ∧ (20 ≤ p.params.length) ∧ (set < 2 ^ s.nLogical) ∧
       (((bitsOf 96 set).filterMap s.phys).any s.fencedCore = false)) :=
  ⟨by decide +kernel,
    by decide +kernel,
    by decide +kernel,
    by decide +kernel,
    ⟨takes_of (by decide +kernel), by decide +kernel, by decide +kernel, by decide +kernel⟩⟩

theorem witness_BinderMessages :
    (let s : State := binder [(F.bndUp 5, 2 ^ 47 + bndAddr), (F.bndPendingUp 5, 2)] (link 24 lkActive die);
     let link : LinkNo := 24;
     let m : BinderMsg := ({ address := (BitVec.ofNat 64 bndAddr), value := 0, op := 1, status := 0, source := 1 } : BinderMsg);
     let i := link.val; let a := m.address.toNat; let b := a % 2 ^ 44 / 64; let l := s.link i;
     let up := s.fld (F.bndUp b); (s.linkOpen i = true) ∧ (s.fld F.pwrDieStatusState ≠ 1) ∧ (s.bops = []) ∧
       (s.inq = []) ∧ (s.kernels = []) ∧ (m.op = 1) ∧ (a % 64 = 0) ∧ (a / 2 ^ 44 % 8 = 2) ∧ (a % 2 ^ 44 < 2 ^ 19) ∧
       (a / 2 ^ 47 = s.dieNo) ∧ (l.bout = []) ∧ (s.armed b = true) ∧ (s.binder b = {}) ∧ (s.queues = []) ∧
       (up ≠ 0) ∧ (up / 2 ^ 47 = m.source.toNat) ∧ (s.fld (F.bndPendingUp b) ≠ 0)) ∧
    (let s : State := binder [(F.bndUp 5, 2 ^ 47 + bndAddr), (F.bndPendingUp 5, 2)] (link 24 lkActive die);
     let link : LinkNo := 24;
     let m : BinderMsg := ({ address := (BitVec.ofNat 64 bndAddr), value := 0, op := 1, status := 0, source := 2 } : BinderMsg);
     let i := link.val; let a := m.address.toNat; let b := a % 2 ^ 44 / 64; let l := s.link i;
     let up := s.fld (F.bndUp b); (s.linkOpen i = true) ∧ (s.fld F.pwrDieStatusState ≠ 1) ∧ (s.bops = []) ∧
       (s.inq = []) ∧ (s.kernels = []) ∧ (m.op = 1) ∧ (a % 64 = 0) ∧ (a / 2 ^ 44 % 8 = 2) ∧ (a % 2 ^ 44 < 2 ^ 19) ∧
       (a / 2 ^ 47 = s.dieNo) ∧ (l.bout = []) ∧ (s.armed b = true) ∧ (s.binder b = {}) ∧ (s.queues = []) ∧
       (up ≠ 0) ∧ (up / 2 ^ 47 ≠ m.source.toNat)) ∧
    (let s : State := lnk 24 (fun l => { l with bwait := [({ address := bndAddr, op := 0, value := 1, froms := [.core 95] } : BOut), ({ address := bndAddr, op := 0, value := 1, froms := [.core 3] } : BOut)] }) (core 95 (fun c => { c with postsOut := 2 }) (link 24 lkActive die));
     let link : LinkNo := 24;
     let m : BinderMsg := ({ address := (BitVec.ofNat 64 bndAddr), value := 0, op := 3, status := 0, source := 1 } : BinderMsg);
     let x : BOut := ({ address := bndAddr, op := 0, value := 1, froms := [.core 95] } : BOut);
     let rest : List BOut := [({ address := bndAddr, op := 0, value := 1, froms := [.core 3] } : BOut)];
     let p : Nat := 95; let i := link.val; let a := m.address.toNat; let l := s.link i; (s.linkOpen i = true) ∧
       (s.fld F.pwrDieStatusState ≠ 1) ∧ (s.bops = []) ∧ (s.inq = []) ∧ (s.kernels = []) ∧ (l.bwait = x :: rest) ∧
       (x.address = a) ∧ (x.froms = [.core p]) ∧ (p < 96) ∧ ((s.core p).postsOut ≠ 0) ∧
       ((s.core p).frozenOwn = false) ∧ (s.coreState p ≠ csFaulted) ∧ (m.op = 3)) ∧
    (let s : State := lnk 24 (fun l => { l with bwait := [({ address := bndAddr, op := 0, value := 1, froms := [.core 95] } : BOut), ({ address := bndAddr, op := 0, value := 1, froms := [.core 3] } : BOut)] }) (core 95 (fun c => { c with postsOut := 2 }) (link 24 lkActive die));
     let link : LinkNo := 24;
     let m : BinderMsg := ({ address := (BitVec.ofNat 64 bndAddr), value := 0, op := 4, status := 33, source := 1 } : BinderMsg);
     let x : BOut := ({ address := bndAddr, op := 0, value := 1, froms := [.core 95] } : BOut);
     let rest : List BOut := [({ address := bndAddr, op := 0, value := 1, froms := [.core 3] } : BOut)];
     let p : Nat := 95; let i := link.val; let a := m.address.toNat; let l := s.link i; (s.linkOpen i = true) ∧
       (s.fld F.pwrDieStatusState ≠ 1) ∧ (s.bops = []) ∧ (s.inq = []) ∧ (s.kernels = []) ∧ (l.bwait = x :: rest) ∧
       (x.address = a) ∧ (x.froms = [.core p]) ∧ (p < 96) ∧ ((s.core p).postsOut ≠ 0) ∧
       ((s.core p).frozenOwn = false) ∧ (s.coreState p ≠ csFaulted) ∧ (m.op = 4) ∧ (m.status ≠ 0)) ∧
    (let s : State := lnk 24 (fun l => { l with bout := List.replicate 63 ({ address := 0, op := 0, value := 1, froms := [.core 95] } : BOut), bheld := [({ address := bndAddr, op := 0, value := 1, froms := [.core 95] } : BOut), ({ address := bndAddr, op := 0, value := 1, froms := [.core 3] } : BOut)] }) (core 95 (fun c => { c with postsOut := 2 }) (link 24 lkActive die));
     let link : LinkNo := 24;
     let x : BOut := ({ address := bndAddr, op := 0, value := 1, froms := [.core 95] } : BOut);
     let rest : List BOut := [({ address := bndAddr, op := 0, value := 1, froms := [.core 3] } : BOut)];
     let i := link.val; let l := s.link i; (s.linkOpen i = true) ∧ (s.fld F.pwrDieStatusState ≠ 1) ∧ (s.bops = []) ∧
       (s.inq = []) ∧ (s.kernels = []) ∧ (l.bout.length < 64) ∧ (l.bheld = x :: rest) ∧
       ((∀ y ∈ l.bout, y.address ≠ x.address))) :=
  ⟨by decide +kernel, by decide +kernel, by decide +kernel, by decide +kernel, by decide +kernel⟩

theorem witness_WindowWrites :
    (let s : State := die;
     let p : LinkPacket := ({ ackReq := false, season := some 9, length := 4, tag := 7, address := (5 * 2 ^ 44 + 1023 * 2 ^ 32 + 4096), data := [1, 2, 3, 4] } : LinkPacket);
     let a := p.address.toNat; let w := a % 2 ^ 44 / 2 ^ 32; let n := p.length;
     let open_ := s.fld (F.winCfgState w) = 1; (a / 2 ^ 44 % 8 = 5) ∧ (a / 2 ^ 47 = s.dieNo) ∧ (w < 1024) ∧
       (0 < n) ∧ (n ≤ 256) ∧ (a % 256 + n ≤ 256) ∧ (s.bops = []) ∧ (s.streams = []) ∧ (¬ open_)) ∧
    (let s : State := flds [(F.winCfgState 1023, 1), (F.winBase 1023, 3 * 2 ^ 22), (F.winLength 1023, 8192), (F.winSeason 1023, 9)] die;
     let p : LinkPacket := ({ ackReq := false, season := none, length := 4, tag := 7, address := (5 * 2 ^ 44 + 1023 * 2 ^ 32 + 0), data := [] } : LinkPacket);
     let a := p.address.toNat; let w := a % 2 ^ 44 / 2 ^ 32; let n := p.length;
     let tag := (p.season.map BitVec.toNat).getD 0; let open_ := s.fld (F.winCfgState w) = 1;
     let stale := (tag ≠ 0 ∧ tag ≠ s.fld (F.winSeason w)) ∨ (tag = 0 ∧ s.fld (F.winCfgAcceptUntagged w) ≠ 1);
     (a / 2 ^ 44 % 8 = 5) ∧ (a / 2 ^ 47 = s.dieNo) ∧ (w < 1024) ∧ (0 < n) ∧ (n ≤ 256) ∧ (a % 256 + n ≤ 256) ∧
       (s.bops = []) ∧ (s.streams = []) ∧ (open_) ∧ (stale)) ∧
    (let s : State := flds [(F.winCfgState 1023, 1), (F.winBase 1023, 3 * 2 ^ 22), (F.winLength 1023, 8192), (F.winSeason 1023, 9)] die;
     let p : LinkPacket := ({ ackReq := false, season := some 9, length := 4, tag := 7, address := (5 * 2 ^ 44 + 1023 * 2 ^ 32 + 8192), data := [] } : LinkPacket);
     let a := p.address.toNat; let w := a % 2 ^ 44 / 2 ^ 32; let byte := a % 2 ^ 32; let n := p.length;
     let tag := (p.season.map BitVec.toNat).getD 0; let open_ := s.fld (F.winCfgState w) = 1;
     let stale := (tag ≠ 0 ∧ tag ≠ s.fld (F.winSeason w)) ∨ (tag = 0 ∧ s.fld (F.winCfgAcceptUntagged w) ≠ 1);
     (a / 2 ^ 44 % 8 = 5) ∧ (a / 2 ^ 47 = s.dieNo) ∧ (w < 1024) ∧ (0 < n) ∧ (n ≤ 256) ∧ (a % 256 + n ≤ 256) ∧
       (s.bops = []) ∧ (s.streams = []) ∧ (open_) ∧ (¬ stale) ∧ (s.fld (F.winLength w) < byte + n)) ∧
    (let s : State := flds [(F.winCfgState 1023, 1), (F.winBase 1023, 3 * 2 ^ 22), (F.winLength 1023, 8192), (F.winSeason 1023, 9)] die;
     let p : LinkPacket := ({ ackReq := false, season := some 9, length := 4, tag := 7, address := (5 * 2 ^ 44 + 1023 * 2 ^ 32 + 4096), data := [1, 2, 3, 4] } : LinkPacket);
     let q : Nat := 3; let a := p.address.toNat; let w := a % 2 ^ 44 / 2 ^ 32; let byte := a % 2 ^ 32;
     let n := p.length; let tag := (p.season.map BitVec.toNat).getD 0; let open_ := s.fld (F.winCfgState w) = 1;
     let stale := (tag ≠ 0 ∧ tag ≠ s.fld (F.winSeason w)) ∨ (tag = 0 ∧ s.fld (F.winCfgAcceptUntagged w) ≠ 1);
     let target := s.fld (F.winBase w) + byte; (a / 2 ^ 44 % 8 = 5) ∧ (a / 2 ^ 47 = s.dieNo) ∧ (w < 1024) ∧
       (0 < n) ∧ (n ≤ 256) ∧ (a % 256 + n ≤ 256) ∧ (s.bops = []) ∧ (s.streams = []) ∧ (open_) ∧ (¬ stale) ∧
       (byte + n ≤ s.fld (F.winLength w)) ∧ (s.phys (target / 2 ^ 22) = some q) ∧ (s.fencedCore q = false) ∧
       (s.power q = pwLeaf) ∧ (q < 4) ∧ ((s.router 0).opens = []) ∧ ((s.core q).inbox.length < 16)) ∧
    (let s : State := sess (flds [(F.evgFenced 0, 1)] (flds [(F.winSeason 1023, 65535)] (binder [] die)));
     let p : Packet := (pk 1284 (leBytes 2 1023 ++ [3, 0] ++ leBytes 4 5 ++ leBytes 8 (95 * 2 ^ 22) ++ leBytes 4 4194304));
     let w := packetPar p 0 2; let flags := packetPar p 2 1; let base := packetPar p 8 8;
     let len := packetPar p 0x10 4; (s.Takes 0x0504 p) ∧ (0x14 ≤ p.params.length) ∧ (w ≤ 1023) ∧ (flags ≤ 3) ∧
       (base % 256 = 0) ∧ (0 < len) ∧ (len % 256 = 0) ∧ (base + len ≤ s.nLogical * 2 ^ 22) ∧ (s.nLogical ≤ 96) ∧
       (packetPar p 4 2 ≤ 8191) ∧ (s.fld (F.winCfgState w) = 0) ∧
       ((flags / 2 = 1 → s.armed (packetPar p 4 2) = true)) ∧
       ((∀ l, l < 96 → base < (l + 1) * 2 ^ 22 → l * 2 ^ 22 < base + len → (s.phys l).any s.fencedCore = false))) ∧
    (let s : State := sess (die); let p : Packet := (pk 1285 (leBytes 2 7)); let w := packetPar p 0 2;
     (s.windowStream w = none) ∧ (w ≤ 1023) ∧ (s.Takes 0x0505 p) ∧ (2 ≤ p.params.length) ∧
       (s.fld (F.winCfgState w) ≠ 1)) ∧
    (let s : State := sess (flds [(F.winCfgState 7, 1)] die); let p : Packet := (pk 1285 (leBytes 2 7));
     let fast : Bool := true; let w := packetPar p 0 2; (s.windowStream w = none) ∧ (w ≤ 1023) ∧
       (s.Takes 0x0505 p) ∧ (2 ≤ p.params.length) ∧ (s.fld (F.winCfgState w) = 1) ∧ (fast = true) ∧
       (s.windowQuiet w = true)) ∧
    (let s : State := sess (flds [(F.winCfgState 7, 1)] die); let p : Packet := (pk 1285 (leBytes 2 7));
     let fast : Bool := false; let w := packetPar p 0 2; (s.windowStream w = none) ∧ (w ≤ 1023) ∧
       (s.Takes 0x0505 p) ∧ (2 ≤ p.params.length) ∧ (s.fld (F.winCfgState w) = 1) ∧ (fast = false) ∧
       (s.canStart 0x0505 p w)) ∧
    (let s : State := { (sess (flds [(F.winCfgState 7, 2)] die)) with session := { (sess (flds [(F.winCfgState 7, 2)] die)).session with ops := [({ id := 2, opcode := 1285, hostSeq := 1, tag := 5, object := 7, state := 0, status := 0, season := 7, started := 0 } : LongOp)] } };
     let p : Packet := (pk 1285 (leBytes 2 7)); let w := packetPar p 0 2; let x : WinNo := 7; let id : Nat := 2;
     (s.windowStream w = none) ∧ (w ≤ 1023) ∧ (x.val = w) ∧ (s.runningOp 0x0505 w = some id) ∧
       (s.windowQuiet w = true)) :=
  ⟨by decide +kernel,
    by decide +kernel,
    by decide +kernel,
    by decide +kernel,
    ⟨takes_of (by decide +kernel), by decide +kernel, by decide +kernel, by decide +kernel, by decide +kernel,
      by decide +kernel, by decide +kernel, by decide +kernel, by decide +kernel, by decide +kernel,
      by decide +kernel, by decide +kernel, by decide +kernel⟩,
    ⟨by decide +kernel, by decide +kernel, takes_of (by decide +kernel), by decide +kernel, by decide +kernel⟩,
    ⟨by decide +kernel, by decide +kernel, takes_of (by decide +kernel), by decide +kernel, by decide +kernel,
      by decide +kernel, by decide +kernel⟩,
    ⟨by decide +kernel, by decide +kernel, takes_of (by decide +kernel), by decide +kernel, by decide +kernel,
      by decide +kernel, (by unfold State.canStart; decide +kernel)⟩,
    by decide +kernel⟩

theorem witness_LinkPackets :
    (let s : State := link 23 lkActive die; let link : LinkNo := 23;
     let p : LinkPacket := ({ ackReq := false, season := none, length := 4, tag := 7, address := (4 * 2 ^ 44 + 0x20000), data := [] } : LinkPacket);
     let tag : BitVec 16 := 7; let i := link.val; let a := p.address.toNat; let space := a / 2 ^ 44 % 8;
     let c := Instr.write 23 ({ ackReq := false, season := none, length := 4, tag := 7, address := (4 * 2 ^ 44 + 0x20000), data := [] } : LinkPacket);
     (s.linkOpen i = true) ∧ (s.linkUp i = true) ∧ (s.fld F.pwrDieStatusState ≠ 1) ∧ (s.bops = []) ∧ (space = 4) ∧
       (c ∈ [Instr.write link p, .read link p, .readback link p]) ∧
       ((c = .readback link p → s.underWay = [] ∧ (s.link i).backs = []))) ∧
    (let s : State := link 23 lkActive die; let link : LinkNo := 23;
     let p : LinkPacket := ({ ackReq := true, season := none, length := 4, tag := 7, address := (1 * 2 ^ 44 + 95 * 2 ^ 22 + 0x100), data := [1, 2, 3, 4] } : LinkPacket);
     let q : Nat := 95; let i := link.val; let a := p.address.toNat; let n := p.length;
     let fits := 0 < n ∧ n ≤ 256 ∧ a % 256 + n ≤ 256; let space := a / 2 ^ 44 % 8;
     let core := s.phys (a % 2 ^ 44 / 2 ^ 22) = some q ∧ q < 96 ∧ s.fencedCore q = false ∧ s.power q = pwLeaf ∧ q / 4 = adapterClump i ∧ (s.router (q / 4)).opens = [];
     (s.linkOpen i = true) ∧ (s.linkUp i = true) ∧ (s.fld F.pwrDieStatusState ≠ 1) ∧ (s.bops = []) ∧ (fits) ∧
       (space = 1) ∧ (a / 2 ^ 47 = s.dieNo) ∧ (a % 2 ^ 44 / 2 ^ 22 < s.nLogical) ∧ (core) ∧
       ((s.core q).inbox.length < 16)) ∧
    (let s : State := link 23 lkActive die; let link : LinkNo := 23;
     let p : LinkPacket := ({ ackReq := false, season := none, length := 256, tag := 7, address := (1 * 2 ^ 44 + 95 * 2 ^ 22 + 0x100), data := [] } : LinkPacket);
     let q : Nat := 95; let i := link.val; let a := p.address.toNat; let n := p.length;
     let fits := 0 < n ∧ n ≤ 256 ∧ a % 256 + n ≤ 256; let space := a / 2 ^ 44 % 8;
     let core := s.phys (a % 2 ^ 44 / 2 ^ 22) = some q ∧ q < 96 ∧ s.fencedCore q = false ∧ s.power q = pwLeaf ∧ q / 4 = adapterClump i ∧ (s.router (q / 4)).opens = [];
     (s.linkOpen i = true) ∧ (s.linkUp i = true) ∧ (s.fld F.pwrDieStatusState ≠ 1) ∧ (s.bops = []) ∧ (fits) ∧
       (space = 1) ∧ (a / 2 ^ 47 = s.dieNo) ∧ (a % 2 ^ 44 / 2 ^ 22 < s.nLogical) ∧ (core) ∧
       ((s.core q).readq.length < 8)) ∧
    (let s : State := link 23 lkActive die; let link : LinkNo := 23;
     let p : LinkPacket := ({ ackReq := false, season := none, length := 4, tag := 7, address := (3 * 2 ^ 44 + 64), data := [] } : LinkPacket);
     let i := link.val; let a := p.address.toNat; let n := p.length;
     let fits := 0 < n ∧ n ≤ 256 ∧ a % 256 + n ≤ 256; let space := a / 2 ^ 44 % 8; (s.linkOpen i = true) ∧
       (s.linkUp i = true) ∧ (s.fld F.pwrDieStatusState ≠ 1) ∧ (s.bops = []) ∧ (fits) ∧ (space = 3) ∧
       (a / 2 ^ 47 = s.dieNo) ∧ (a % 2 ^ 44 < 2 ^ 19) ∧ (s.underWay = []) ∧ ((s.link i).backs = [])) ∧
    (let s : State := chn 511 (fun c => { c with run := some ({ ring := 9, idx := 66, bytes := [], out := [{ beat := 4, link := none }, { beat := 5, link := some 23 }, { beat := 6, link := none }] } : DmaRun) }) (link 23 lkActive die);
     let link : LinkNo := 23;
     let p : LinkPacket := ({ ackReq := false, season := none, length := 256, tag := 32706, address := 0x5500, data := List.replicate 256 1 } : LinkPacket);
     let tag : BitVec 16 := 7; let i := link.val; let a := p.address.toNat; let c : Nat := 511;
     let r : DmaRun := ({ ring := 9, idx := 66, bytes := [], out := [{ beat := 4, link := none }, { beat := 5, link := some 23 }, { beat := 6, link := none }] } : DmaRun);
     let o1 : DmaOut := ({ beat := 4, link := none } : DmaOut);
     let o2 : DmaOut := ({ beat := 5, link := some 23 } : DmaOut);
     let more : List DmaOut := [({ beat := 6, link := none } : DmaOut)]; (s.linkOpen i = true) ∧
       (s.linkUp i = true) ∧ (s.fld F.pwrDieStatusState ≠ 1) ∧ (s.bops = []) ∧
       (c = p.tag.toNat / 4096 * 64 + p.tag.toNat / 64 % 64) ∧ (p.tag.toNat < 0x8000) ∧ ((s.chan c).run = some r) ∧
       (r.idx % 64 = p.tag.toNat % 64) ∧ (r.step = 0) ∧ (r.failed = none) ∧ (r.sbLive = []) ∧
       (r.out = o1 :: o2 :: more) ∧ (o1.data = none) ∧ (o1.lost = false) ∧ (o1.link ≠ some i) ∧ (o2.link = some i) ∧
       (o2.data = none) ∧ (o2.lost = false) ∧ (o1.beat ≠ o2.beat) ∧ ((∀ m ∈ more, m.beat ≠ o2.beat)) ∧
       (a % 256 = stOk)) ∧
    (let s : State := core 95 (fun c => { c with postsOut := 1 }) (link 23 lkActive die); let link : LinkNo := 23;
     let p : LinkPacket := ({ ackReq := false, season := none, length := 0, tag := 65470, address := 0, data := [] } : LinkPacket);
     let q : Nat := 95; let tag : BitVec 16 := 7; let i := link.val; let a := p.address.toNat;
     let core := s.phys (a % 2 ^ 44 / 2 ^ 22) = some q ∧ q < 96 ∧ s.fencedCore q = false ∧ s.power q = pwLeaf ∧ q / 4 = adapterClump i ∧ (s.router (q / 4)).opens = [];
     (s.linkOpen i = true) ∧ (s.linkUp i = true) ∧ (s.fld F.pwrDieStatusState ≠ 1) ∧ (s.bops = []) ∧
       (p.tag.toNat / 256 = 0xFF) ∧ (s.phys (p.tag.toNat / 2 % 128) = some q) ∧ (q < 96) ∧
       ((s.core q).postsOut ≠ 0) ∧ ((s.core q).frozenOwn = false) ∧ (s.coreState q ≠ csFaulted)) ∧
    (let s : State := link 23 lkActive die; let link : LinkNo := 23; let i := link.val; (s.linkOpen i = true) ∧
       (s.linkUp i = true) ∧ (s.fld F.pwrDieStatusState ≠ 1) ∧ (s.bops = []) ∧ (i < 30)) ∧
    (let s : State := link 31 lkActive die; let link : LinkNo := 31; let i := link.val; (s.linkOpen i = true) ∧
       (s.linkUp i = true) ∧ (s.fld F.pwrDieStatusState ≠ 1) ∧ (s.bops = []) ∧ (30 ≤ i)) ∧
    (let s : State := flds [(F.lnkVersionAgreed 23, 0x20)] (link 23 lkActive die); let link : LinkNo := 23;
     let i := link.val; (s.linkOpen i = true) ∧ (s.linkUp i = true) ∧ (s.fld F.pwrDieStatusState ≠ 1) ∧
       (s.bops = []) ∧ (30 ≤ i ∨ s.below3 i = true)) ∧
    (let s : State := link 23 lkActive die; let link : LinkNo := 23; let i := link.val; (s.linkOpen i = true) ∧
       (s.linkUp i = true) ∧ (s.fld F.pwrDieStatusState ≠ 1) ∧ (s.bops = []) ∧ (i < 30) ∧ (s.below3 i = false)) :=
  ⟨by decide +kernel, by decide +kernel, by decide +kernel, by decide +kernel, by decide +kernel,
    by decide +kernel, by decide +kernel, by decide +kernel, by decide +kernel, by decide +kernel⟩

theorem witness_BinderWorkEntries :
    (let s : State := work (entryOf 0x1002 (leBytes 8 (bndAddr) ++ leBytes 4 0 ++ [0, 0, 0, 0])) (binder [(F.bndCount 5, 1), (F.bndTarget 5, 30)] die);
     let q : CtxNo := 9; let entry : Fetched := .ok [];
     let e : List Byte := (entryOf 0x1002 (leBytes 8 (bndAddr) ++ leBytes 4 0 ++ [0, 0, 0, 0])); let p : Nat := 95;
     let a := leAt e 32 8; let v := leAt e 40 4; let b := a % 2 ^ 44 / 64; let valid := validBinderAddr a = true;
     let here := valid ∧ a / 2 ^ 47 = s.dieNo ∧ s.armed b = true; let count := s.fld (F.bndCount b);
     (s.RecordRoom q.val p) ∧ ((s.queue q.val).active = []) ∧ (s.bops = []) ∧
       (s.goodEntry q.val entry 0x1002 0 = some e) ∧ (here) ∧ (v = 0) ∧ (count + 1 < s.fld (F.bndTarget b)) ∧
       (s.fld (F.bndTarget b) < 2 ^ 64)) ∧
    (let s : State := work (entryOf 0x1002 (leBytes 8 (bndAddr) ++ leBytes 4 7 ++ [1, 0, 0, 0])) (binder [(F.bndCount 5, 1), (F.bndTarget 5, 30)] die);
     let q : CtxNo := 9; let entry : Fetched := .ok [];
     let e : List Byte := (entryOf 0x1002 (leBytes 8 (bndAddr) ++ leBytes 4 7 ++ [1, 0, 0, 0])); let p : Nat := 95;
     let a := leAt e 32 8; let v := leAt e 40 4; let b := a % 2 ^ 44 / 64; let valid := validBinderAddr a = true;
     let here := valid ∧ a / 2 ^ 47 = s.dieNo ∧ s.armed b = true; let count := s.fld (F.bndCount b);
     (s.RecordRoom q.val p) ∧ ((s.queue q.val).active = []) ∧ (s.bops = []) ∧
       (s.goodEntry q.val entry 0x1002 1 = some e) ∧ (here) ∧ (count + v < s.fld (F.bndTarget b)) ∧
       (s.fld (F.bndTarget b) < 2 ^ 64)) ∧
    (let s : State := work (entryOf 0x1002 (leBytes 8 (bndAddr) ++ leBytes 4 0 ++ [2, 0, 0, 0])) (binder [(F.bndCount 5, 1), (F.bndTarget 5, 30)] die);
     let q : CtxNo := 9; let entry : Fetched := .ok [];
     let e : List Byte := (entryOf 0x1002 (leBytes 8 (bndAddr) ++ leBytes 4 0 ++ [2, 0, 0, 0])); let p : Nat := 95;
     let a := leAt e 32 8; let v := leAt e 40 4; let b := a % 2 ^ 44 / 64; let valid := validBinderAddr a = true;
     let here := valid ∧ a / 2 ^ 47 = s.dieNo ∧ s.armed b = true; (s.RecordRoom q.val p) ∧
       ((s.queue q.val).active = []) ∧ (s.bops = []) ∧ (s.goodEntry q.val entry 0x1002 2 = some e) ∧ (here) ∧
       (v = 0) ∧ (s.fld (F.bndPendingUp b) = 0)) ∧
    (let s : State := work (entryOf 0x1002 (leBytes 8 (bndAddr) ++ leBytes 4 0 ++ [3, 0, 0, 0])) (binder [(F.bndCount 5, 1), (F.bndTarget 5, 30)] die);
     let q : CtxNo := 9; let entry : Fetched := .ok [];
     let e : List Byte := (entryOf 0x1002 (leBytes 8 (bndAddr) ++ leBytes 4 0 ++ [3, 0, 0, 0])); let p : Nat := 95;
     let a := leAt e 32 8; let v := leAt e 40 4; let b := a % 2 ^ 44 / 64; let valid := validBinderAddr a = true;
     let here := valid ∧ a / 2 ^ 47 = s.dieNo ∧ s.armed b = true; (s.RecordRoom q.val p) ∧
       ((s.queue q.val).active = []) ∧ (s.bops = []) ∧ (s.goodEntry q.val entry 0x1002 3 = some e) ∧ (here) ∧
       (0 ≤ diff32 (s.fld (F.bndReleases b)) v)) ∧
    (let s : State := work (entryOf 0x1002 (leBytes 8 (bndAddr) ++ leBytes 4 1 ++ [3, 0, 0, 0])) (binder [(F.bndCount 5, 1), (F.bndTarget 5, 30)] die);
     let q : CtxNo := 9; let entry : Fetched := .ok [];
     let e : List Byte := (entryOf 0x1002 (leBytes 8 (bndAddr) ++ leBytes 4 1 ++ [3, 0, 0, 0])); let p : Nat := 95;
     let a := leAt e 32 8; let v := leAt e 40 4; let b := a % 2 ^ 44 / 64; let valid := validBinderAddr a = true;
     let here := valid ∧ a / 2 ^ 47 = s.dieNo ∧ s.armed b = true; (s.RecordRoom q.val p) ∧
       ((s.queue q.val).active = []) ∧ (s.bops = []) ∧ (s.goodEntry q.val entry 0x1002 3 = some e) ∧ (here) ∧
       (diff32 (s.fld (F.bndReleases b)) v < 0)) ∧
    (let s : State := work (entryOf 0x1002 (leBytes 8 (2 ^ 47 + bndAddr) ++ leBytes 4 1 ++ [3, 0, 0, 0])) (binder [(F.bndCount 5, 1), (F.bndTarget 5, 30)] die);
     let q : CtxNo := 9; let entry : Fetched := .ok [];
     let e : List Byte := (entryOf 0x1002 (leBytes 8 (2 ^ 47 + bndAddr) ++ leBytes 4 1 ++ [3, 0, 0, 0]));
     let p : Nat := 95; let a := leAt e 32 8; let valid := validBinderAddr a = true; (s.RecordRoom q.val p) ∧
       ((s.queue q.val).active = []) ∧ (s.bops = []) ∧ (s.goodEntry q.val entry 0x1002 3 = some e) ∧ (valid) ∧
       (a / 2 ^ 47 ≠ s.dieNo)) ∧
    (let s : State := work (entryOf 0x1002 (leBytes 8 (bndAddr + 1) ++ leBytes 4 0 ++ [0, 0, 0, 0])) (binder [(F.bndCount 5, 1), (F.bndTarget 5, 30)] die);
     let q : CtxNo := 9; let entry : Fetched := .ok [];
     let e : List Byte := (entryOf 0x1002 (leBytes 8 (bndAddr + 1) ++ leBytes 4 0 ++ [0, 0, 0, 0]));
     let p : Nat := 95; let a := leAt e 32 8; let valid := validBinderAddr a = true; (s.RecordRoom q.val p) ∧
       ((s.queue q.val).active = []) ∧ (s.bops = []) ∧ (¬ valid) ∧ (s.goodEntry q.val entry 0x1002 0 = some e)) ∧
    (let s : State := work (entryOf 0x1002 (leBytes 8 (bndAddr + 1) ++ leBytes 4 0 ++ [1, 0, 0, 0])) (binder [(F.bndCount 5, 1), (F.bndTarget 5, 30)] die);
     let q : CtxNo := 9; let entry : Fetched := .ok [];
     let e : List Byte := (entryOf 0x1002 (leBytes 8 (bndAddr + 1) ++ leBytes 4 0 ++ [1, 0, 0, 0]));
     let p : Nat := 95; let a := leAt e 32 8; let valid := validBinderAddr a = true; (s.RecordRoom q.val p) ∧
       ((s.queue q.val).active = []) ∧ (s.bops = []) ∧ (¬ valid) ∧ (s.goodEntry q.val entry 0x1002 1 = some e)) ∧
    (let s : State := work (entryOf 0x1002 (leBytes 8 (bndAddr + 1) ++ leBytes 4 0 ++ [2, 0, 0, 0])) (binder [(F.bndCount 5, 1), (F.bndTarget 5, 30)] die);
     let q : CtxNo := 9; let entry : Fetched := .ok [];
     let e : List Byte := (entryOf 0x1002 (leBytes 8 (bndAddr + 1) ++ leBytes 4 0 ++ [2, 0, 0, 0]));
     let p : Nat := 95; let a := leAt e 32 8; let valid := validBinderAddr a = true; (s.RecordRoom q.val p) ∧
       ((s.queue q.val).active = []) ∧ (s.bops = []) ∧ (¬ valid) ∧ (s.goodEntry q.val entry 0x1002 2 = some e)) ∧
    (let s : State := work (entryOf 0x1003 (leBytes 8 (bndAddr) ++ leBytes 4 0 ++ [0, 0, 0, 0])) (binder [(F.bndCount 5, 1), (F.bndTarget 5, 30)] die);
     let q : CtxNo := 9; let entry : Fetched := .ok [];
     let e : List Byte := (entryOf 0x1003 (leBytes 8 (bndAddr) ++ leBytes 4 0 ++ [0, 0, 0, 0])); let p : Nat := 95;
     (s.RecordRoom q.val p) ∧ ((s.queue q.val).active = []) ∧ (s.bops = []) ∧
       (s.goodEntry q.val entry 0x1003 0 = some e)) :=
  ⟨⟨recordRoom_of (by decide +kernel), by decide +kernel, by decide +kernel, by decide +kernel, by decide +kernel,
      by decide +kernel, by decide +kernel, by decide +kernel⟩,
    ⟨recordRoom_of (by decide +kernel), by decide +kernel, by decide +kernel, by decide +kernel, by decide +kernel,
      by decide +kernel, by decide +kernel⟩,
    ⟨recordRoom_of (by decide +kernel), by decide +kernel, by decide +kernel, by decide +kernel, by decide +kernel,
      by decide +kernel, by decide +kernel⟩,
    ⟨recordRoom_of (by decide +kernel), by decide +kernel, by decide +kernel, by decide +kernel, by decide +kernel,
      by decide +kernel⟩,
    ⟨recordRoom_of (by decide +kernel), by decide +kernel, by decide +kernel, by decide +kernel, by decide +kernel,
      by decide +kernel⟩,
    ⟨recordRoom_of (by decide +kernel), by decide +kernel, by decide +kernel, by decide +kernel, by decide +kernel,
      by decide +kernel⟩,
    ⟨recordRoom_of (by decide +kernel), by decide +kernel, by decide +kernel, by decide +kernel, by decide +kernel⟩,
    ⟨recordRoom_of (by decide +kernel), by decide +kernel, by decide +kernel, by decide +kernel, by decide +kernel⟩,
    ⟨recordRoom_of (by decide +kernel), by decide +kernel, by decide +kernel, by decide +kernel, by decide +kernel⟩,
    ⟨recordRoom_of (by decide +kernel), by decide +kernel, by decide +kernel, by decide +kernel⟩⟩

theorem witness_KernelsLaunch :
    (let s : State := work (entryOf 0x1001 (leBytes 8 0x1000 ++ leBytes 8 0 ++ leBytes 8 0)) ({ (link 23 lkActive die) with packageBytes := 2 ^ 40 });
     let q : CtxNo := 9; let entry : Fetched := .ok []; let image : Fetched := .ok (imageOf 2);
     let e : List Byte := (entryOf 0x1001 (leBytes 8 0x1000 ++ leBytes 8 0 ++ leBytes 8 0));
     let b : List Byte := imageOf 2; let p : Nat := 95;
     let good := s.imageOk b = true ∧ leAt b 6 2 = s.fld F.evgNumberingEpoch; (s.RecordRoom q.val p) ∧
       ((s.queue q.val).active = []) ∧ (s.bops = []) ∧ (s.goodEntry q.val entry 0x1001 0 = some e) ∧
       (s.fld F.tstStatusMissionTest = 0) ∧ (addrSpace (leAt e 32 8) = 0) ∧
       ((s.linkForAddr (leAt e 32 8)).isSome = true) ∧
       (leAt e 32 8 % 2 ^ 44 + b.length ≤ min s.packageBytes (2 ^ 44)) ∧ (image = .ok b) ∧
       (leAt b 0x3C 4 ≤ b.length) ∧ (128 ≤ b.length) ∧ (¬ good)) ∧
    (let s : State := work (entryOf 0x1001 (leBytes 8 0x1000 ++ leBytes 8 0 ++ leBytes 8 0)) ({ (flds [(F.evgFenced 0, 8)] <| link 23 lkActive die) with packageBytes := 2 ^ 40 });
     let q : CtxNo := 9; let entry : Fetched := .ok []; let image : Fetched := .ok (imageOf 1);
     let e : List Byte := (entryOf 0x1001 (leBytes 8 0x1000 ++ leBytes 8 0 ++ leBytes 8 0));
     let b : List Byte := imageOf 1; let p : Nat := 95;
     let good := s.imageOk b = true ∧ leAt b 6 2 = s.fld F.evgNumberingEpoch;
     let fenced := ∃ x ∈ imgCores b, (s.phys x).any s.fencedCore = true; (s.RecordRoom q.val p) ∧
       ((s.queue q.val).active = []) ∧ (s.bops = []) ∧ (s.goodEntry q.val entry 0x1001 0 = some e) ∧
       (s.fld F.tstStatusMissionTest = 0) ∧ (addrSpace (leAt e 32 8) = 0) ∧
       ((s.linkForAddr (leAt e 32 8)).isSome = true) ∧
       (leAt e 32 8 % 2 ^ 44 + b.length ≤ min s.packageBytes (2 ^ 44)) ∧ (image = .ok b) ∧
       (leAt b 0x3C 4 ≤ b.length) ∧ (128 ≤ b.length) ∧ (good) ∧ (fenced)) ∧
    (let s : State := work (entryOf 0x1001 (leBytes 8 0x1000 ++ leBytes 8 0 ++ leBytes 8 0)) ({ (link 23 lkActive die) with packageBytes := 2 ^ 40 });
     let q : CtxNo := 9; let entry : Fetched := .ok []; let image : Fetched := .ok (imageOf 1);
     let e : List Byte := (entryOf 0x1001 (leBytes 8 0x1000 ++ leBytes 8 0 ++ leBytes 8 0));
     let b : List Byte := imageOf 1; let p : Nat := 95;
     let good := s.imageOk b = true ∧ leAt b 6 2 = s.fld F.evgNumberingEpoch; (s.RecordRoom q.val p) ∧
       ((s.queue q.val).active = []) ∧ (s.bops = []) ∧ (s.goodEntry q.val entry 0x1001 0 = some e) ∧
       (s.fld F.tstStatusMissionTest = 0) ∧ (addrSpace (leAt e 32 8) = 0) ∧
       ((s.linkForAddr (leAt e 32 8)).isSome = true) ∧
       (leAt e 32 8 % 2 ^ 44 + b.length ≤ min s.packageBytes (2 ^ 44)) ∧ (image = .ok b) ∧
       (leAt b 0x3C 4 ≤ b.length) ∧ (128 ≤ b.length) ∧ (good) ∧
       ((∀ x ∈ imgCores b, (s.phys x).any (fun y => !s.fencedCore y) = true)) ∧ (leAt b 0x28 4 = 0) ∧
       (leAt e 48 8 = 0)) ∧
    (let s : State := work (entryOf 0x1001 []) die; let q : CtxNo := 9; let entry : Fetched := .ok [];
     let b : List Byte := (entryOf 0x1001 []); let p : Nat := 95; (s.RecordRoom q.val p) ∧
       ((s.queue q.val).active = []) ∧ (s.bops = []) ∧ (s.canTake q.val = true) ∧
       (s.entryAtHead q.val entry = .ok b) ∧ (s.weStatus q.val b ≠ stOk)) ∧
    (let s : State := flds [(F.pwrHalfLocked 0, 0), (F.pwrHalfLocked 1, 0)] { die with kernels := [({ kernel 9 [95] with started := false, paramDest := 64, param := List.replicate 64 3, code := [(0, [0x10000000], 8191)] } : Kernel)] };
     let q : CtxNo := 9; let param : Fetched := .ok []; let p : Nat := 95; let l : Nat := 95;
     let k : Kernel := ({ kernel 9 [95] with started := false, paramDest := 64, param := List.replicate 64 3, code := [(0, [0x10000000], 8191)] } : Kernel);
     let c : Nat × List Word × Nat := (0, [0x10000000], 8191); (s.kernels = [k]) ∧ (k.queue = q.val) ∧
       (k.started = false) ∧ (k.cores = [l]) ∧ (k.phys = [p]) ∧ (k.code = [c]) ∧ (c.2.2 < 2 ^ 13) ∧
       (k.scoreboard = true) ∧ (k.sched = none) ∧ (p < 96) ∧ (l < 96) ∧ (s.logical p = some l) ∧
       (s.clocksOff = false) ∧ (s.fld F.pwrDieStatusState = 0) ∧ ((s.queue q.val).held = []) ∧ (s.chans = []) ∧
       (s.fencedCore p = false) ∧ (s.coreState p = csIdle) ∧ (s.power p = pwLeaf) ∧
       (s.bit (F.pwrCoreStatusPending l) = false) ∧ (s.fld (F.pwrHalfLocked 0) = 0) ∧
       (s.fld (F.pwrHalfLocked 1) = 0)) :=
  ⟨⟨recordRoom_of (by decide +kernel), by decide +kernel, by decide +kernel, by decide +kernel, by decide +kernel,
      by decide +kernel, by decide +kernel, by decide +kernel, by decide +kernel, by decide +kernel,
      by decide +kernel, by decide +kernel⟩,
    ⟨recordRoom_of (by decide +kernel), by decide +kernel, by decide +kernel, by decide +kernel, by decide +kernel,
      by decide +kernel, by decide +kernel, by decide +kernel, by decide +kernel, by decide +kernel,
      by decide +kernel, by decide +kernel, by decide +kernel⟩,
    ⟨recordRoom_of (by decide +kernel), by decide +kernel, by decide +kernel, by decide +kernel, by decide +kernel,
      by decide +kernel, by decide +kernel, by decide +kernel, by decide +kernel, by decide +kernel,
      by decide +kernel, by decide +kernel, by decide +kernel, by decide +kernel, by decide +kernel⟩,
    ⟨recordRoom_of (by decide +kernel), by decide +kernel, by decide +kernel, by decide +kernel, by decide +kernel,
      by decide +kernel⟩,
    by decide +kernel⟩

theorem witness_CommandsAreChecked :
    (let s : State := sess (die); let i : Instr := Instr.getInfo { (pk 3 ([0, 0])) with crc := 0 };
     let op : Nat := 3; let p : Packet := { (pk 3 ([0, 0])) with crc := 0 }; let c : Cmd := { opcode := op, p };
     (hostPacket i = some (op, p)) ∧ (s.Hears p) ∧ (c.crcOk = false)) ∧
    (let s : State := sess (die); let i : Instr := Instr.setLimit (stamped 515 { pk 515 ([]) with flags := 8 });
     let op : Nat := 515; let p : Packet := (stamped 515 { pk 515 ([]) with flags := 8 });
     let c : Cmd := { opcode := op, p }; (hostPacket i = some (op, p)) ∧ (s.Hears p) ∧ (c.crcOk = true) ∧
       (c.broadcast = true) ∧ (op ≠ 0x0102) ∧ (op ≠ 0x0103)) ∧
    (let s : State := sess (die); let i : Instr := Instr.setLimit (stamped 515 { pk 515 ([]) with major := 5 });
     let op : Nat := 515; let p : Packet := (stamped 515 { pk 515 ([]) with major := 5 });
     let c : Cmd := { opcode := op, p }; (hostPacket i = some (op, p)) ∧ (s.Hears p) ∧ (c.crcOk = true) ∧
       (c.broadcast = false) ∧ (s.versionOk c = false)) ∧
    (let s : State := sess (die); let i : Instr := Instr.setLimit (stamped 515 { pk 515 ([]) with season := 8 });
     let op : Nat := 515; let p : Packet := (stamped 515 { pk 515 ([]) with season := 8 });
     let c : Cmd := { opcode := op, p }; (hostPacket i = some (op, p)) ∧ (s.Hears p) ∧ (c.crcOk = true) ∧
       (c.broadcast = false) ∧ (s.versionOk c = true) ∧ (s.seasonOk c = false)) ∧
    (let s : State := sess (die); let i : Instr := Instr.setLimit (stamped 515 { pk 515 ([]) with hostSeq := 21 });
     let op : Nat := 515; let p : Packet := (stamped 515 { pk 515 ([]) with hostSeq := 21 });
     let d := diff32 p.hostSeq.toNat s.session.next; (hostPacket i = some (op, p)) ∧ (s.Hears p) ∧ (s.Well op p) ∧
       (op ≠ 1) ∧ (op ≠ 2) ∧
       ((s.session.agreed = 0 ∨ 0 < diff32 p.devSeen.toNat s.session.dev ∨ 16 ≤ d ∨ d < -64 ∨ (-64 ≤ d ∧ d < 0 ∧ ∀ r ∈ s.session.cache, r.hostSeq ≠ p.hostSeq.toNat)))) ∧
    (let s : State := sess (die); let i : Instr := Instr.setLimit (stamped 515 { pk 515 ([]) with hostSeq := 20 });
     let op : Nat := 515; let p : Packet := (stamped 515 { pk 515 ([]) with hostSeq := 20 });
     let d := diff32 p.hostSeq.toNat s.session.next; (hostPacket i = some (op, p)) ∧ (s.Hears p) ∧ (s.Well op p) ∧
       (op ≠ 1) ∧ (op ≠ 2) ∧ (s.session.agreed ≠ 0) ∧ (diff32 p.devSeen.toNat s.session.dev ≤ 0) ∧ (1 ≤ d) ∧
       (d ≤ 15)) ∧
    (let s : State := { (sess (die)) with session := { (sess (die)).session with cache := [({ opcode := 515, version := 0x0401, devSeq := 6, hostSeq := 4, status := 0, tag := 77, season := 7 } : Reply)] } };
     let i : Instr := Instr.setLimit (stamped 515 { pk 515 ([]) with hostSeq := 4 }); let op : Nat := 515;
     let p : Packet := (stamped 515 { pk 515 ([]) with hostSeq := 4 }); let c : Cmd := { opcode := op, p };
     let d := diff32 p.hostSeq.toNat s.session.next;
     let r := ({ opcode := 515, version := 0x0401, devSeq := 6, hostSeq := 4, status := 0, tag := 77, season := 7 } : Reply);
     (hostPacket i = some (op, p)) ∧ (s.Hears p) ∧ (s.Well op p) ∧ (op ≠ 1) ∧ (op ≠ 2) ∧ (s.session.agreed ≠ 0) ∧
       (diff32 p.devSeen.toNat s.session.dev ≤ 0) ∧ (-64 ≤ d) ∧ (d < 0) ∧
       (s.session.cache.find? (fun x => x.hostSeq == p.hostSeq.toNat) = some r) ∧
       (¬ (r.opcode = op ∧ (c.poll = true ∨ rerun op = true)))) ∧
    (let s : State := { (sess (die)) with session := { (sess (die)).session with agreed := 0x0400 } };
     let i : Instr := Instr.setPacePolicy (stamped 516 { pk 516 ([]) with minor := 0 }); let op : Nat := 516;
     let p : Packet := (stamped 516 { pk 516 ([]) with minor := 0 }); (hostPacket i = some (op, p)) ∧ (s.Hears p) ∧
       (s.InTurn op p) ∧ (s.knownOpcode op = false)) ∧
    (let s : State := sess (die); let i : Instr := Instr.loadImageBegin (pk 258 ([])); let op : Nat := 258;
     let p : Packet := (pk 258 ([])); (hostPacket i = some (op, p)) ∧ (s.Hears p) ∧ (s.InTurn op p) ∧
       (s.knownOpcode op = true) ∧ (s.available op = false)) ∧
    (let s : State := link 29 lkActive die; let l : LinkNo := 29; (l.val < 30) ∧ (s.linkOpen l.val = true)) :=
  ⟨⟨by decide +kernel, hears_of (by decide +kernel), by decide +kernel⟩,
    ⟨by decide +kernel, hears_of (by decide +kernel), by decide +kernel, by decide +kernel, by decide +kernel,
      by decide +kernel⟩,
    ⟨by decide +kernel, hears_of (by decide +kernel), by decide +kernel, by decide +kernel, by decide +kernel⟩,
    ⟨by decide +kernel, hears_of (by decide +kernel), by decide +kernel, by decide +kernel, by decide +kernel,
      by decide +kernel⟩,
    ⟨by decide +kernel, hears_of (by decide +kernel), well_of (by decide +kernel), by decide +kernel,
      by decide +kernel, by decide +kernel⟩,
    ⟨by decide +kernel, hears_of (by decide +kernel), well_of (by decide +kernel), by decide +kernel,
      by decide +kernel, by decide +kernel, by decide +kernel, by decide +kernel, by decide +kernel⟩,
    ⟨by decide +kernel, hears_of (by decide +kernel), well_of (by decide +kernel), by decide +kernel,
      by decide +kernel, by decide +kernel, by decide +kernel, by decide +kernel, by decide +kernel,
      by decide +kernel, by decide +kernel⟩,
    ⟨by decide +kernel, hears_of (by decide +kernel), inTurn_of (by decide +kernel), by decide +kernel⟩,
    ⟨by decide +kernel, hears_of (by decide +kernel), inTurn_of (by decide +kernel), by decide +kernel,
      by decide +kernel⟩,
    by decide +kernel⟩

theorem witness_SessionsOpenAndResume :
    (let s : State := { (sess (die)) with session := { (sess (die)).session with season := 65535, ops := [({ id := 2, opcode := 0x0402, hostSeq := 1, tag := 5, object := 3, state := 0, status := 0, season := 7, started := 0, results := List.replicate 4057 1 } : LongOp), ({ id := 2, opcode := 0x0402, hostSeq := 1, tag := 5, object := 3, state := 2, status := 0, season := 7, started := 0, results := List.replicate 4057 1 } : LongOp)] } };
     let p : Packet := (pk 1 (leBytes 2 0x0300 ++ leBytes 2 0x0401 ++ leBytes 4 99 ++ leBytes 8 12345 ++ leBytes 4 1));
     let lo := max (packetPar p 0 2) 0x0300; let hi := min (packetPar p 2 2) 0x0401;
     let repeats := s.session.helloReply ≠ none ∧ s.session.agreed ≠ 0 ∧ s.session.helloSeq = p.hostSeq.toNat ∧ s.session.hostId = packetPar p 4 4 ∧ (s.session.helloReply.map Reply.tag) = some p.tag.toNat;
     (s.Well 1 p) ∧ (20 ≤ p.params.length) ∧ (packetPar p 16 4 ≤ 1) ∧ (¬ repeats) ∧ (lo ≤ hi)) ∧
    (let s : State := sess (die);
     let p : Packet := (pk 1 (leBytes 2 0x0300 ++ leBytes 2 0x02FF ++ leBytes 4 99 ++ leBytes 8 12345 ++ leBytes 4 0));
     let lo := max (packetPar p 0 2) 0x0300; let hi := min (packetPar p 2 2) 0x0401;
     let repeats := s.session.helloReply ≠ none ∧ s.session.agreed ≠ 0 ∧ s.session.helloSeq = p.hostSeq.toNat ∧ s.session.hostId = packetPar p 4 4 ∧ (s.session.helloReply.map Reply.tag) = some p.tag.toNat;
     (s.Well 1 p) ∧ (20 ≤ p.params.length) ∧ (packetPar p 16 4 ≤ 1) ∧ (¬ repeats) ∧ (hi < lo)) ∧
    (let s : State := { (sess (die)) with session := { (sess (die)).session with helloReply := some ({ opcode := 1, version := 0x0401, devSeq := 6, hostSeq := 5, status := 0, tag := 77, season := 7 } : Reply), helloSeq := 5, hostId := 99, helloTag := 77 } };
     let p : Packet := (pk 1 (leBytes 2 0x0300 ++ leBytes 2 0x0401 ++ leBytes 4 99 ++ leBytes 8 12345 ++ leBytes 4 1));
     let repeats := s.session.helloReply ≠ none ∧ s.session.agreed ≠ 0 ∧ s.session.helloSeq = p.hostSeq.toNat ∧ s.session.hostId = packetPar p 4 4 ∧ (s.session.helloReply.map Reply.tag) = some p.tag.toNat;
     let r := ({ opcode := 1, version := 0x0401, devSeq := 6, hostSeq := 5, status := 0, tag := 77, season := 7 } : Reply);
     (s.Well 1 p) ∧ (20 ≤ p.params.length) ∧ (packetPar p 16 4 ≤ 1) ∧ (repeats) ∧ (s.session.helloReply = some r)) ∧
    (let s : State := { (sess (die)) with session := { (sess (die)).session with ops := [({ id := 2, opcode := 0x0402, hostSeq := 1, tag := 5, object := 3, state := 1, status := 0, season := 7, started := 0, results := List.replicate 4057 1 } : LongOp)], cache := [({ opcode := 1281, version := 0x0401, devSeq := 6, hostSeq := 4, status := 0, tag := 77, season := 7 } : Reply), ({ opcode := 1281, version := 0x0401, devSeq := 6, hostSeq := 3, status := 0, tag := 77, season := 7 } : Reply)] } };
     let p : Packet := (pk 2 ([])); (s.Well 2 p)) ∧
    (let s : State := sess (die); let code : BitVec 16 := 0x0402;
     let p : Packet := (stamped 1026 { pk 1026 (leBytes 4 2) with flags := 4 }); let op := code.toNat;
     let ops := (s.offered p).session.ops; let id := packetPar p 0 2; (s.InTurn op p) ∧ (s.knownOpcode op = true) ∧
       (s.available op = true) ∧ (({ opcode := op, p } : Cmd).poll = true) ∧ (4 ≤ p.params.length) ∧
       ((∀ o ∈ ops, o.id = id → o.opcode ≠ op))) ∧
    (let s : State := { (sess (die)) with session := { (sess (die)).session with ops := [({ id := 2, opcode := 0x0402, hostSeq := 1, tag := 5, object := 3, state := 0, status := 0, season := 7, started := 0, results := List.replicate 4057 1 } : LongOp)] } };
     let code : BitVec 16 := 0x0402;
     let p : Packet := (stamped 1026 { pk 1026 (leBytes 2 2 ++ leBytes 2 0) with flags := 4 });
     let op := code.toNat; let ops := (s.offered p).session.ops; let id := packetPar p 0 2;
     let o := ({ id := 2, opcode := 0x0402, hostSeq := 1, tag := 5, object := 3, state := 0, status := 0, season := 7, started := 0, results := List.replicate 4057 1 } : LongOp);
     (s.InTurn op p) ∧ (s.knownOpcode op = true) ∧ (s.available op = true) ∧
       (({ opcode := op, p } : Cmd).poll = true) ∧ (4 ≤ p.params.length) ∧
       (ops.find? (fun o => o.id == id && o.opcode == op) = some o) ∧ (o.state ≠ 2)) ∧
    (let s : State := { (sess (die)) with session := { (sess (die)).session with ops := [({ id := 2, opcode := 0x0402, hostSeq := 1, tag := 5, object := 3, state := 2, status := 0, season := 7, started := 0, results := List.replicate 4057 1 } : LongOp)] } };
     let code : BitVec 16 := 0x0402;
     let p : Packet := (stamped 1026 { pk 1026 (leBytes 2 2 ++ leBytes 2 2) with flags := 4 });
     let op := code.toNat; let ops := (s.offered p).session.ops; let id := packetPar p 0 2;
     let part := if s.session.agreed < 0x0400 then 0 else packetPar p 2 2;
     let o := ({ id := 2, opcode := 0x0402, hostSeq := 1, tag := 5, object := 3, state := 2, status := 0, season := 7, started := 0, results := List.replicate 4057 1 } : LongOp);
     (s.InTurn op p) ∧ (s.knownOpcode op = true) ∧ (s.available op = true) ∧
       (({ opcode := op, p } : Cmd).poll = true) ∧ (4 ≤ p.params.length) ∧
       (ops.find? (fun o => o.id == id && o.opcode == op) = some o) ∧ (o.state = 2) ∧ (o.parts ≤ part)) ∧
    (let s : State := { (sess (die)) with session := { (sess (die)).session with ops := [({ id := 2, opcode := 0x0402, hostSeq := 1, tag := 5, object := 3, state := 2, status := 0, season := 7, started := 0, results := List.replicate 4057 1 } : LongOp)] } };
     let code : BitVec 16 := 0x0402;
     let p : Packet := (stamped 1026 { pk 1026 (leBytes 2 2 ++ leBytes 2 1) with flags := 4 });
     let op := code.toNat; let ops := (s.offered p).session.ops; let id := packetPar p 0 2;
     let part := if s.session.agreed < 0x0400 then 0 else packetPar p 2 2;
     let o := ({ id := 2, opcode := 0x0402, hostSeq := 1, tag := 5, object := 3, state := 2, status := 0, season := 7, started := 0, results := List.replicate 4057 1 } : LongOp);
     (s.InTurn op p) ∧ (s.knownOpcode op = true) ∧ (s.available op = true) ∧
       (({ opcode := op, p } : Cmd).poll = true) ∧ (4 ≤ p.params.length) ∧
       (ops.find? (fun o => o.id == id && o.opcode == op) = some o) ∧ (o.state = 2) ∧ (part < o.parts)) ∧
    (let s : State := { (sess (die)) with session := { (sess (die)).session with held := [(3, pk 3 []), (0x203, pk 0x203 [])] } };
     let op : Nat := 3; let p : Packet := pk 3 []; let rest : List (Nat × Packet) := [(0x203, pk 0x203 [])];
     (s.alive = true) ∧ (s.session.held = (op, p) :: rest) ∧ (s.linkOpen (30 + p.link.val) = true)) :=
  ⟨⟨well_of (by decide +kernel), by decide +kernel, by decide +kernel, by decide +kernel, by decide +kernel⟩,
    ⟨well_of (by decide +kernel), by decide +kernel, by decide +kernel, by decide +kernel, by decide +kernel⟩,
    ⟨well_of (by decide +kernel), by decide +kernel, by decide +kernel, by decide +kernel, by decide +kernel⟩,
    well_of (by decide +kernel),
    ⟨inTurn_of (by decide +kernel), by decide +kernel, by decide +kernel, by decide +kernel, by decide +kernel,
      by decide +kernel⟩,
    ⟨inTurn_of (by decide +kernel), by decide +kernel, by decide +kernel, by decide +kernel, by decide +kernel,
      by decide +kernel, by decide +kernel⟩,
    ⟨inTurn_of (by decide +kernel), by decide +kernel, by decide +kernel, by decide +kernel, by decide +kernel,
      by decide +kernel, by decide +kernel, by decide +kernel⟩,
    ⟨inTurn_of (by decide +kernel), by decide +kernel, by decide +kernel, by decide +kernel, by decide +kernel,
      by decide +kernel, by decide +kernel, by decide +kernel⟩,
    by decide +kernel⟩

theorem witness_ReadsAnswerData :
    (let s : State := sess (die); let p : Packet := (pk 3 (leBytes 2 0)); let n := p.params.length;
     let a := packetPar p 0 2; (s.Takes 0x0003 p) ∧ (2 ≤ n) ∧ (a = 0)) ∧
    (let s : State := sess (die); let p : Packet := (pk 3 (leBytes 2 1)); let n := p.params.length;
     let a := packetPar p 0 2; (s.Takes 0x0003 p) ∧ (2 ≤ n) ∧ (a = 1)) ∧
    (let s : State := sess (die); let p : Packet := (pk 3 (leBytes 2 2)); let n := p.params.length;
     let a := packetPar p 0 2; (s.Takes 0x0003 p) ∧ (2 ≤ n) ∧ (a = 2)) ∧
    (let s : State := sess (die); let p : Packet := (pk 3 (leBytes 2 3)); let n := p.params.length;
     let a := packetPar p 0 2; (s.Takes 0x0003 p) ∧ (n < 2 ∨ 2 < a)) ∧
    (let s : State := sess (die); let p : Packet := (pk 257 (leBytes 2 0)); let n := p.params.length;
     (s.Takes 0x0101 p) ∧ (2 ≤ n) ∧ (packetPar p 0 1 = 0)) ∧
    (let s : State := sess (die); let p : Packet := (pk 257 (leBytes 2 3)); let n := p.params.length;
     (s.Takes 0x0101 p) ∧ (n < 2 ∨ 2 < packetPar p 0 1)) ∧
    (let s : State := sess ({ die with dieback := [{ kind := 1, source := 3, unit := 4 }, { kind := 1, source := 3, unit := 5 }] });
     let p : Packet := (pk 272 (leBytes 2 1)); let n := p.params.length; (s.Takes 0x0110 p) ∧ (2 ≤ n)) ∧
    (let s : State := sess (die); let p : Packet := (pk 272 ([])); let n := p.params.length; (s.Takes 0x0110 p) ∧
       (n < 2)) ∧
    (let s : State := sess ({ die with transfers := [({ target := 1, id := 9, size := 8192, chunks := 2, digest := [], receivers := [{ core := 3 }] } : Transfer)] });
     let p : Packet := (pk 261 (leBytes 2 9)); let u := s.offered p; let n := p.params.length;
     let a := packetPar p 0 2;
     let x := ({ target := 1, id := 9, size := 8192, chunks := 2, digest := [], receivers := [{ core := 3 }] } : Transfer);
     (s.Takes 0x0105 p) ∧ (2 ≤ n) ∧ (u.transfer a = some x)) ∧
    (let s : State := sess (die); let p : Packet := (pk 261 (leBytes 2 9)); let u := s.offered p;
     let n := p.params.length; let a := packetPar p 0 2; (s.Takes 0x0105 p) ∧ (n < 2 ∨ u.transfer a = none)) ∧
    (let s : State := sess (die); let p : Packet := (pk 517 ([])); (s.Takes 0x0205 p)) ∧
    (let s : State := sess (die); let p : Packet := (pk 769 (leBytes 2 0)); let u := s.offered p;
     let n := p.params.length; let a := packetPar p 0 2; let res := ((sess (die)).telemetry 0).getD [];
     (s.Takes 0x0301 p) ∧ (2 ≤ n) ∧ (u.telemetry a = some res)) ∧
    (let s : State := sess (die); let p : Packet := (pk 769 (leBytes 2 6)); let n := p.params.length;
     let a := packetPar p 0 2; (s.Takes 0x0301 p) ∧ (n < 2 ∨ 5 < a)) ∧
    (let s : State := sess (die); let p : Packet := (pk 770 (leBytes 2 254 ++ leBytes 2 2));
     let n := p.params.length; let a := packetPar p 0 2; let c := packetPar p 2 2; (s.Takes 0x0302 p) ∧ (4 ≤ n) ∧
       (0 < c) ∧ (a + c ≤ 256)) ∧
    (let s : State := sess (die); let p : Packet := (pk 770 (leBytes 2 254 ++ leBytes 2 3));
     let n := p.params.length; let a := packetPar p 0 2; let c := packetPar p 2 2; (s.Takes 0x0302 p) ∧
       (n < 4 ∨ c = 0 ∨ 256 < a + c)) ∧
    (let s : State := sess (die); let p : Packet := (pk 1025 ([31])); let n := p.params.length;
     (s.Takes 0x0401 p) ∧ (1 ≤ n) ∧ (packetPar p 0 1 ≤ 31)) ∧
    (let s : State := sess (die); let p : Packet := (pk 1025 ([0xFF])); let n := p.params.length;
     (s.Takes 0x0401 p) ∧ (1 ≤ n) ∧ (packetPar p 0 1 = 0xFF)) ∧
    (let s : State := sess (die); let p : Packet := (pk 1025 ([32])); let n := p.params.length;
     (s.Takes 0x0401 p) ∧ (n < 1 ∨ (31 < packetPar p 0 1 ∧ packetPar p 0 1 ≠ 0xFF))) ∧
    (let s : State := sess (die); let p : Packet := (pk 1537 ([])); (s.Takes 0x0601 p)) ∧
    (let s : State := sess (die); let p : Packet := (pk 1539 ([])); (s.Takes 0x0603 p)) ∧
    (let s : State := sess (die); let p : Packet := (pk 1793 (leBytes 2 0 ++ leBytes 2 0)); let u := s.offered p;
     let n := p.params.length; let a := packetPar p 0 2; let c := packetPar p 2 2;
     let b := ((sess (die)).fuses.calSection 0).getD []; (s.Takes 0x0701 p) ∧ (4 ≤ n) ∧
       (u.fuses.calSection a = some b) ∧ (c * 4064 < b.length)) ∧
    (let s : State := sess (die); let p : Packet := (pk 1793 (leBytes 4 6)); let n := p.params.length;
     let a := packetPar p 0 2; (s.Takes 0x0701 p) ∧ (n < 4 ∨ 5 < a)) ∧
    (let s : State := sess (die); let p : Packet := (pk 2052 ([])); (s.Takes 0x0804 p)) ∧
    (let s : State := sess ({ die with log := [({ severity := svInfo, kind := 4, status := 0, code := 1, index := 4294967294, time := 0, unit := 0, context := 0, detail := 0 } : EvRec), ({ severity := svInfo, kind := 4, status := 0, code := 1, index := 4294967295, time := 0, unit := 0, context := 0, detail := 0 } : EvRec), ({ severity := svInfo, kind := 4, status := 0, code := 1, index := 0, time := 0, unit := 0, context := 0, detail := 0 } : EvRec)] });
     let p : Packet := (pk 771 (leBytes 4 0xFFFFFFFF ++ leBytes 2 2)); let n := p.params.length;
     let m := packetPar p 4 2; (s.Takes 0x0303 p) ∧ (6 ≤ n) ∧ (0 < m) ∧ (m ≤ 126)) ∧
    (let s : State := sess (die); let p : Packet := (pk 771 (leBytes 4 0 ++ leBytes 2 127));
     let n := p.params.length; let m := packetPar p 4 2; (s.Takes 0x0303 p) ∧ (n < 6 ∨ m = 0 ∨ 126 < m)) ∧
    (let s : State := sess ({ die with snapshot := List.replicate 5000 3 });
     let p : Packet := (pk 273 (leBytes 2 1)); let u := s.offered p; let n := p.params.length;
     let a := packetPar p 0 2; let b := if a = 0 then u.makeBlob else u.snapshot; (s.Takes 0x0111 p) ∧ (2 ≤ n) ∧
       (a * 4064 < b.length)) ∧
    (let s : State := sess (die); let p : Packet := (pk 273 ([0])); let n := p.params.length; (s.Takes 0x0111 p) ∧
       (n < 2)) :=
  ⟨⟨takes_of (by decide +kernel), by decide +kernel, by decide +kernel⟩,
    ⟨takes_of (by decide +kernel), by decide +kernel, by decide +kernel⟩,
    ⟨takes_of (by decide +kernel), by decide +kernel, by decide +kernel⟩,
    ⟨takes_of (by decide +kernel), by decide +kernel⟩,
    ⟨takes_of (by decide +kernel), by decide +kernel, by decide +kernel⟩,
    ⟨takes_of (by decide +kernel), by decide +kernel⟩,
    ⟨takes_of (by decide +kernel), by decide +kernel⟩,
    ⟨takes_of (by decide +kernel), by decide +kernel⟩,
    ⟨takes_of (by decide +kernel), by decide +kernel, by decide +kernel⟩,
    ⟨takes_of (by decide +kernel), by decide +kernel⟩,
    takes_of (by decide +kernel),
    ⟨takes_of (by decide +kernel), by decide +kernel, by decide +kernel⟩,
    ⟨takes_of (by decide +kernel), by decide +kernel⟩,
    ⟨takes_of (by decide +kernel), by decide +kernel, by decide +kernel, by decide +kernel⟩,
    ⟨takes_of (by decide +kernel), by decide +kernel⟩,
    ⟨takes_of (by decide +kernel), by decide +kernel, by decide +kernel⟩,
    ⟨takes_of (by decide +kernel), by decide +kernel, by decide +kernel⟩,
    ⟨takes_of (by decide +kernel), by decide +kernel⟩,
    takes_of (by decide +kernel),
    takes_of (by decide +kernel),
    ⟨takes_of (by decide +kernel), by decide +kernel, by decide +kernel, by decide +kernel⟩,
    ⟨takes_of (by decide +kernel), by decide +kernel⟩,
    takes_of (by decide +kernel),
    ⟨takes_of (by decide +kernel), by decide +kernel, by decide +kernel, by decide +kernel⟩,
    ⟨takes_of (by decide +kernel), by decide +kernel⟩,
    ⟨takes_of (by decide +kernel), by decide +kernel, by decide +kernel⟩,
    ⟨takes_of (by decide +kernel), by decide +kernel⟩⟩

theorem witness_ObjectsAreMade :
    (let s : State := sess (flds [(F.queCfgType 9, qtWork)] die);
     let p : Packet := (pk 1281 (leBytes 2 9 ++ [1, 4] ++ leBytes 8 (2^44) ++ leBytes 2 12 ++ leBytes 2 65535 ++ [0, 0, 0, 0] ++ leBytes 2 0));
     let n := p.params.length; let q := packetPar p 0 2; let ty := packetPar p 2 1; let log2 := packetPar p 3 1;
     let base := packetPar p 4 8; let cq := packetPar p 0xC 2; let eq := packetPar p 0xE 2;
     let ring := 2 ^ log2 * (if ty = qtWork then 128 else if ty = qtDma then 64 else 32);
     let produces := ty = qtWork ∨ ty = qtDma; (s.Takes 0x0501 p) ∧ (0x16 ≤ n) ∧ (q ≤ 8191) ∧ (1 ≤ ty) ∧ (ty ≤ 4) ∧
       (4 ≤ log2) ∧ (log2 ≤ 15) ∧ (base % max 4096 ring = 0) ∧ (s.layoutOk base = true) ∧
       ((addrSpace base = 0 ∨ (addrSpace base = 1 ∧ s.isLocal base = true))) ∧
       ((produces → cq ≤ 8191 ∧ (eq ≤ 8191 ∨ eq = 0xFFFF))) ∧
       ((ty = qtDma → packetPar p 0x10 1 ≤ 7 ∧ packetPar p 0x11 1 ≤ 63 ∧ packetPar p 0x12 1 ≤ 3)) ∧
       ((¬ produces → packetPar p 0x13 1 ≤ 1 ∧ packetPar p 0x14 2 ≤ 8191)) ∧ (s.fld (F.queCfgType q) ≠ 0)) ∧
    (let s : State := sess (flds [(F.queCfgType 12, qtCompletion), (F.queCfgType 13, qtEvent), (F.queSeason 9, 65535)] { die with packageBytes := 2 ^ 40 });
     let p : Packet := (pk 1281 (leBytes 2 9 ++ [1, 4] ++ leBytes 8 (0x4000) ++ leBytes 2 12 ++ leBytes 2 13 ++ [0, 0, 0, 0] ++ leBytes 2 0));
     let n := p.params.length; let q := packetPar p 0 2; let ty := packetPar p 2 1; let log2 := packetPar p 3 1;
     let base := packetPar p 4 8; let cq := packetPar p 0xC 2; let eq := packetPar p 0xE 2;
     let ring := 2 ^ log2 * (if ty = qtWork then 128 else if ty = qtDma then 64 else 32);
     let ch := packetPar p 0x10 1 * 64 + packetPar p 0x11 1; let produces := ty = qtWork ∨ ty = qtDma;
     (s.Takes 0x0501 p) ∧ (0x16 ≤ n) ∧ (q ≤ 8191) ∧ (1 ≤ ty) ∧ (ty ≤ 4) ∧ (4 ≤ log2) ∧ (log2 ≤ 15) ∧
       (base % max 4096 ring = 0) ∧ (s.layoutOk base = true) ∧
       ((addrSpace base = 0 ∨ (addrSpace base = 1 ∧ s.isLocal base = true))) ∧
       ((produces → cq ≤ 8191 ∧ (eq ≤ 8191 ∨ eq = 0xFFFF))) ∧
       ((ty = qtDma → packetPar p 0x10 1 ≤ 7 ∧ packetPar p 0x11 1 ≤ 63 ∧ packetPar p 0x12 1 ≤ 3)) ∧
       ((¬ produces → packetPar p 0x13 1 ≤ 1 ∧ packetPar p 0x14 2 ≤ 8191)) ∧ (s.fld (F.queCfgType q) = 0) ∧
       ((produces → s.fld (F.queCfgType cq) = qtCompletion ∧ (eq = 0xFFFF ∨ s.fld (F.queCfgType eq) = qtEvent))) ∧
       ((ty = qtDma → s.chState ch = chUnbound)) ∧ ((s.ringPhys base).any s.fencedCore = false)) ∧
    (let s : State := sess (die); let p : Packet := (pk 1282 (leBytes 2 9)); let q := packetPar p 0 2;
     let ty := s.fld (F.queCfgType q); (s.Takes 0x0502 p) ∧ (2 ≤ p.params.length) ∧ (q ≤ 8191) ∧ (ty = 0)) ∧
    (let s : State := sess (flds [(F.queCfgType 12, qtCompletion), (F.queCfgType 9, qtWork), (F.queCqContext 9, 12)] (que 9 (fun x => { x with ringCore := some 4 }) die));
     let p : Packet := (pk 1282 (leBytes 2 12)); let q := packetPar p 0 2; let ty := s.fld (F.queCfgType q);
     (s.Takes 0x0502 p) ∧ (2 ≤ p.params.length) ∧ (q ≤ 8191) ∧ (ty = qtCompletion ∨ ty = qtEvent) ∧
       ((s.offered p).named q = true)) ∧
    (let s : State := sess (flds [(F.queCfgType 12, qtCompletion), (F.queCfgEnabled 12, 1)] die);
     let p : Packet := (pk 1282 (leBytes 2 12)); let q := packetPar p 0 2; let ty := s.fld (F.queCfgType q);
     (s.Takes 0x0502 p) ∧ (2 ≤ p.params.length) ∧ (q ≤ 8191) ∧ (ty = qtCompletion ∨ ty = qtEvent) ∧
       ((s.offered p).named q = false)) ∧
    (let s : State := sess (flds [(F.queCfgType 9, qtWork), (F.queCfgEnabled 9, 1), (F.queTail 9, 3)] (que 9 (fun x => { x with ringCore := some 4 }) die));
     let p : Packet := (pk 1282 (leBytes 2 9)); let fast : Bool := true; let q := packetPar p 0 2;
     let ty := s.fld (F.queCfgType q); (s.Takes 0x0502 p) ∧ (2 ≤ p.params.length) ∧ (q ≤ 8191) ∧ (ty = qtWork) ∧
       ((∀ k ∈ s.kernels, k.queue ≠ q)) ∧ ((s.queue q).destroying = false) ∧ (fast = true)) ∧
    (let s : State := sess (flds [(F.queCfgType 9, qtWork), (F.queCfgEnabled 9, 1), (F.queTail 9, 3)] (que 9 (fun x => { x with ringCore := some 4 }) die));
     let p : Packet := (pk 1282 (leBytes 2 9)); let fast : Bool := false; let q := packetPar p 0 2;
     let ty := s.fld (F.queCfgType q); (s.Takes 0x0502 p) ∧ (2 ≤ p.params.length) ∧ (q ≤ 8191) ∧ (ty = qtWork) ∧
       ((∀ k ∈ s.kernels, k.queue ≠ q)) ∧ ((s.queue q).destroying = false) ∧ (fast = false) ∧
       (s.canStart 0x0502 p q)) ∧
    (let s : State := { (sess (flds [(F.queCfgType 9, qtWork), (F.queCfgEnabled 9, 1), (F.queTail 9, 3)] (que 9 (fun x => { x with destroying := true, ringCore := some 4 }) die))) with session := { (sess (flds [(F.queCfgType 9, qtWork), (F.queCfgEnabled 9, 1), (F.queTail 9, 3)] (que 9 (fun x => { x with destroying := true, ringCore := some 4 }) die))).session with ops := [({ id := 2, opcode := 1282, hostSeq := 1, tag := 5, object := 9, state := 0, status := 0, season := 7, started := 0 } : LongOp)] } };
     let p : Packet := (pk 1282 (leBytes 2 9)); let q := packetPar p 0 2; let ty := s.fld (F.queCfgType q);
     let x : CtxNo := 9; let id : Nat := 2; (x.val = q) ∧ (ty = qtWork) ∧ (s.bops = []) ∧
       ((∀ k ∈ s.kernels, k.queue ≠ q)) ∧ (s.runningOp 0x0502 q = some id)) ∧
    (let s : State := sess (flds [(F.winCfgState 7, 1)] die); let p : Packet := (pk 262 ([])); (s.Takes 0x0106 p) ∧
       ((s.offered p).quiesced = false)) ∧
    (let s : State := sess (die); let p : Packet := (pk 262 ([]));
     let n := ((List.range 96).filter fun c => !excludes s.dieback c).length; (s.Takes 0x0106 p) ∧
       ((s.offered p).quiesced = true) ∧ (92 ≤ n)) :=
  ⟨⟨takes_of (by decide +kernel), by decide +kernel, by decide +kernel, by decide +kernel, by decide +kernel,
      by decide +kernel, by decide +kernel, by decide +kernel, by decide +kernel, by decide +kernel,
      by decide +kernel, by decide +kernel, by decide +kernel, by decide +kernel⟩,
    ⟨takes_of (by decide +kernel), by decide +kernel, by decide +kernel, by decide +kernel, by decide +kernel,
      by decide +kernel, by decide +kernel, by decide +kernel, by decide +kernel, by decide +kernel,
      by decide +kernel, by decide +kernel, by decide +kernel, by decide +kernel, by decide +kernel,
      by decide +kernel, by decide +kernel⟩,
    ⟨takes_of (by decide +kernel), by decide +kernel, by decide +kernel, by decide +kernel⟩,
    ⟨takes_of (by decide +kernel), by decide +kernel, by decide +kernel, by decide +kernel, by decide +kernel⟩,
    ⟨takes_of (by decide +kernel), by decide +kernel, by decide +kernel, by decide +kernel, by decide +kernel⟩,
    ⟨takes_of (by decide +kernel), by decide +kernel, by decide +kernel, by decide +kernel, by decide +kernel,
      by decide +kernel, by decide +kernel⟩,
    ⟨takes_of (by decide +kernel), by decide +kernel, by decide +kernel, by decide +kernel, by decide +kernel,
      by decide +kernel, by decide +kernel, (by unfold State.canStart; decide +kernel)⟩,
    by decide +kernel,
    ⟨takes_of (by decide +kernel), by decide +kernel⟩,
    ⟨takes_of (by decide +kernel), by decide +kernel, by decide +kernel⟩⟩

theorem witness_SettingsTakeEffect :
    (let s : State := sess (flds [(F.pwrLimit 0, 850000), (F.pwrLimit 1, 1000000), (F.pwrLimitWin 0, 10000), (F.pwrLimitWin 1, 10)] die);
     let p : Packet := (pk 515 (leBytes 4 0 ++ leBytes 4 200000 ++ leBytes 4 1000)); let lim := packetPar p 0 1;
     let mw := packetPar p 4 4; let ms := packetPar p 8 4;
     let ok := if lim = 0 then 200000 ≤ mw ∧ mw ≤ s.fuses.designMw ∧ mw ≤ s.fld (F.pwrLimit 1) ∧ 1000 ≤ ms ∧ ms ≤ 60000 else s.fld (F.pwrLimit 0) ≤ mw ∧ mw * 10 ≤ s.fuses.designMw * 13 ∧ 1 ≤ ms ∧ ms ≤ 100;
     (s.Takes 0x0203 p) ∧ (12 ≤ p.params.length) ∧ (lim ≤ 1) ∧ (ok)) ∧
    (let s : State := sess (flds [(F.pwrLimit 0, 850000), (F.pwrLimit 1, 1000000), (F.pwrLimitWin 0, 10000), (F.pwrLimitWin 1, 10)] die);
     let p : Packet := (pk 515 (leBytes 4 0 ++ leBytes 4 199999 ++ leBytes 4 1000)); let lim := packetPar p 0 1;
     let mw := packetPar p 4 4; let ms := packetPar p 8 4;
     let ok := if lim = 0 then 200000 ≤ mw ∧ mw ≤ s.fuses.designMw ∧ mw ≤ s.fld (F.pwrLimit 1) ∧ 1000 ≤ ms ∧ ms ≤ 60000 else s.fld (F.pwrLimit 0) ≤ mw ∧ mw * 10 ≤ s.fuses.designMw * 13 ∧ 1 ≤ ms ∧ ms ≤ 100;
     (s.Takes 0x0203 p) ∧ (12 ≤ p.params.length) ∧ (lim ≤ 1) ∧ (¬ ok)) ∧
    (let s : State := sess (die); let p : Packet := (pk 516 ([0])); let h : Nat := 0; (h < 2) ∧
       (s.Takes 0x0204 p) ∧ (1 ≤ p.params.length) ∧ (packetPar p 0 1 ≤ 1)) ∧
    (let s : State := sess (die); let p : Packet := (pk 514 ([2, 15, 255])); let half := packetPar p 0 1;
     let cls := packetPar p 2 1; (s.Takes 0x0202 p) ∧ (3 ≤ p.params.length) ∧ (half ≤ 2) ∧ (packetPar p 1 1 ≤ 15) ∧
       ((cls ≤ 15 ∨ cls = 0xFF))) ∧
    (let s : State := sess (flds [(F.evgFenced 2, 0x80000000)] die);
     let p : Packet := (pk 513 ([1, 1] ++ leBytes 2 95)); let c : Nat := 95; let x := packetPar p 1 1;
     let l := packetPar p 2 2; (s.Takes 0x0201 p) ∧ (4 ≤ p.params.length) ∧ (packetPar p 0 1 = 1) ∧ (x ≤ 3) ∧
       (s.phys l = some c) ∧ (s.fencedCore c = true)) ∧
    (let s : State := sess ({ die with kernels := [kernel 4 [95]] });
     let p : Packet := (pk 513 ([1, 1] ++ leBytes 2 95)); let c : Nat := 95; let x := packetPar p 1 1;
     let l := packetPar p 2 2; (s.Takes 0x0201 p) ∧ (4 ≤ p.params.length) ∧ (packetPar p 0 1 = 1) ∧ (x ≤ 3) ∧
       (s.phys l = some c) ∧ (s.fencedCore c = false) ∧ (s.inKernel c = true)) ∧
    (let s : State := sess (die); let p : Packet := (pk 513 ([1, 0] ++ leBytes 2 95)); let fast : Bool := true;
     let c : Nat := 95; let x := packetPar p 1 1; let l := packetPar p 2 2; (s.Takes 0x0201 p) ∧
       (4 ≤ p.params.length) ∧ (packetPar p 0 1 = 1) ∧ (x ≤ 3) ∧ (s.phys l = some c) ∧ (s.fencedCore c = false) ∧
       (s.inKernel c = false) ∧ (s.dieOp = none) ∧ (s.bit F.pwrDieStatusPending = false) ∧ (s.vetoed x = false) ∧
       (s.power c ≤ 3) ∧ (fast = true) ∧ (¬ (x = pwLeaf ∧ s.power c = pwBare)) ∧
       (s.bit (F.pwrCoreStatusPending l) = false) ∧ ((s.core c).wakeAfter = none) ∧ ((s.core c).powerOp = none) ∧
       ((s.core c).wait = none) ∧ ((s.core c).latch = 0)) ∧
    (let s : State := sess (die); let p : Packet := (pk 513 ([0, 4] ++ leBytes 2 0)); let x := packetPar p 1 1;
     (s.Takes 0x0201 p) ∧ (4 ≤ p.params.length) ∧ (packetPar p 0 1 = 0) ∧ (x = 4) ∧ (s.dieOp = none) ∧
       ((s.offered p).sleepRefusal = 0)) ∧
    (let s : State := sess ({ die with kernels := [kernel 4 [95]] });
     let p : Packet := (pk 513 ([0, 4] ++ leBytes 2 0)); let x := packetPar p 1 1; (s.Takes 0x0201 p) ∧
       (4 ≤ p.params.length) ∧ (packetPar p 0 1 = 0) ∧ (x = 4) ∧ (s.dieOp = none) ∧
       ((s.offered p).sleepRefusal ≠ 0)) ∧
    (let s : State := sess (die); let p : Packet := (pk 2049 (leBytes 4 0)); (s.Takes 0x0801 p) ∧
       (4 ≤ p.params.length) ∧ (packetPar p 0 4 ≠ 0x54455354)) ∧
    (let s : State := sess (flds [(F.winCfgState 7, 1)] die); let p : Packet := (pk 2049 (leBytes 4 0x54455354));
     (s.Takes 0x0801 p) ∧ (4 ≤ p.params.length) ∧ (packetPar p 0 4 = 0x54455354) ∧ ((s.offered p).quiesced = false)) ∧
    (let s : State := sess (die); let p : Packet := (pk 2049 (leBytes 4 0x54455354)); (s.Takes 0x0801 p) ∧
       (4 ≤ p.params.length) ∧ (packetPar p 0 4 = 0x54455354) ∧ ((s.offered p).quiesced = true)) ∧
    (let s : State := sess (flds [(F.evgBootStage, 3), (F.evgBootReady, 0)] die);
     let p : Packet := (pk 257 ([1, 9])); let k := packetPar p 1 1; (s.Takes 0x0101 p) ∧ (2 ≤ p.params.length) ∧
       (s.fld F.evgBootState ≠ 3) ∧ (packetPar p 0 1 = 1) ∧ (s.stage < k) ∧ (3 ≤ k) ∧ (k ≤ 9)) ∧
    (let s : State := sess (die); let p : Packet := (pk 257 ([1, 9])); let k := packetPar p 1 1;
     (s.Takes 0x0101 p) ∧ (2 ≤ p.params.length) ∧ (s.fld F.evgBootState ≠ 3) ∧ (packetPar p 0 1 = 1) ∧
       ((k ≤ s.stage ∨ k < 3 ∨ 9 < k))) ∧
    (let s : State := sess (flds [(F.evgBootHoldEn, 1), (F.evgBootHoldStage, 5)] die);
     let p : Packet := (pk 257 ([2, 0])); (s.Takes 0x0101 p) ∧ (2 ≤ p.params.length) ∧ (s.fld F.evgBootState ≠ 3) ∧
       (packetPar p 0 1 = 2)) :=
  ⟨⟨takes_of (by decide +kernel), by decide +kernel, by decide +kernel, by decide +kernel⟩,
    ⟨takes_of (by decide +kernel), by decide +kernel, by decide +kernel, by decide +kernel⟩,
    ⟨by decide +kernel, takes_of (by decide +kernel), by decide +kernel, by decide +kernel⟩,
    ⟨takes_of (by decide +kernel), by decide +kernel, by decide +kernel, by decide +kernel, by decide +kernel⟩,
    ⟨takes_of (by decide +kernel), by decide +kernel, by decide +kernel, by decide +kernel, by decide +kernel,
      by decide +kernel⟩,
    ⟨takes_of (by decide +kernel), by decide +kernel, by decide +kernel, by decide +kernel, by decide +kernel,
      by decide +kernel, by decide +kernel⟩,
    ⟨takes_of (by decide +kernel), by decide +kernel, by decide +kernel, by decide +kernel, by decide +kernel,
      by decide +kernel, by decide +kernel, by decide +kernel, by decide +kernel, by decide +kernel,
      by decide +kernel, by decide +kernel, by decide +kernel, by decide +kernel, by decide +kernel,
      by decide +kernel, by decide +kernel, by decide +kernel⟩,
    ⟨takes_of (by decide +kernel), by decide +kernel, by decide +kernel, by decide +kernel, by decide +kernel,
      by decide +kernel⟩,
    ⟨takes_of (by decide +kernel), by decide +kernel, by decide +kernel, by decide +kernel, by decide +kernel,
      by decide +kernel⟩,
    ⟨takes_of (by decide +kernel), by decide +kernel, by decide +kernel⟩,
    ⟨takes_of (by decide +kernel), by decide +kernel, by decide +kernel, by decide +kernel⟩,
    ⟨takes_of (by decide +kernel), by decide +kernel, by decide +kernel, by decide +kernel⟩,
    ⟨takes_of (by decide +kernel), by decide +kernel, by decide +kernel, by decide +kernel, by decide +kernel,
      by decide +kernel, by decide +kernel⟩,
    ⟨takes_of (by decide +kernel), by decide +kernel, by decide +kernel, by decide +kernel, by decide +kernel⟩,
    ⟨takes_of (by decide +kernel), by decide +kernel, by decide +kernel, by decide +kernel⟩⟩

theorem witness_LongOperationsBegin :
    (let s : State := sess (flds [(F.evgBootStage, 2), (F.evgBootReady, 0)] die);
     let p : Packet := (pk 260 (leBytes 2 9)); let u := s.offered p; let n := p.params.length; (s.Takes 0x0104 p) ∧
       (2 ≤ n) ∧ (u.transfer (packetPar p 0 2) = none)) ∧
    (let s : State := sess ({ (flds [(F.evgBootStage, 2), (F.evgBootReady, 0)] die) with transfers := [({ target := 1, id := 9, size := 8192, chunks := 2, digest := [], receivers := [{ core := 3 }] } : Transfer)] });
     let p : Packet := (pk 260 (leBytes 2 9)); let u := s.offered p; let n := p.params.length;
     let id := s.session.nextOp;
     let x := ({ target := 1, id := 9, size := 8192, chunks := 2, digest := [], receivers := [{ core := 3 }] } : Transfer);
     (s.Takes 0x0104 p) ∧ (2 ≤ n) ∧ (u.transfer (packetPar p 0 2) = some x) ∧ (s.canStart 0x0104 p 0)) ∧
    (let s : State := sess (die); let p : Packet := (pk 1026 ([24, 0])); let n := p.params.length;
     let i := packetPar p 0 1; let act := packetPar p 1 1; (s.Takes 0x0402 p) ∧ (2 ≤ n) ∧ (i ≤ 31) ∧ (act ≤ 2) ∧
       (s.linkExists i = false)) ∧
    (let s : State := sess (flds [(F.lnkStatusState 3, lkLoopback)] die); let p : Packet := (pk 1026 ([3, 0]));
     let n := p.params.length; let i := packetPar p 0 1; let act := packetPar p 1 1; let st := s.linkState i;
     (s.Takes 0x0402 p) ∧ (2 ≤ n) ∧ (i ≤ 31) ∧ (act ≤ 2) ∧ (s.linkExists i = true) ∧ (s.txIdle.testBit i = false) ∧
       (st = lkLoopback)) ∧
    (let s : State := sess (die); let p : Packet := (pk 1026 ([30, 2])); let n := p.params.length;
     let i := packetPar p 0 1; let act := packetPar p 1 1; let st := s.linkState i; (s.Takes 0x0402 p) ∧ (2 ≤ n) ∧
       (i ≤ 31) ∧ (act ≤ 2) ∧ (s.linkExists i = true) ∧ (s.txIdle.testBit i = false) ∧ (act = 2) ∧
       (st ≠ lkDisabled) ∧ (st ≠ lkFailed) ∧ (st ≠ lkLoopback)) ∧
    (let s : State := sess (flds [(F.lnkStatusState 3, lkDisabled)] die); let p : Packet := (pk 1026 ([3, 2]));
     let n := p.params.length; let i := packetPar p 0 1; let act := packetPar p 1 1; let st := s.linkState i;
     (s.Takes 0x0402 p) ∧ (2 ≤ n) ∧ (i ≤ 31) ∧ (act ≤ 2) ∧ (s.linkExists i = true) ∧ (s.txIdle.testBit i = false) ∧
       (act = 2) ∧ (st = lkDisabled ∨ st = lkFailed) ∧ (s.canStart 0x0402 p i)) ∧
    (let s : State := sess (flds [(F.lnkStatusState 23, lkActive), (F.lnkStatusWidth 23, 64)] die);
     let p : Packet := (pk 1026 ([23, 0])); let n := p.params.length; let i := packetPar p 0 1;
     let act := packetPar p 1 1; let st := s.linkState i; (s.Takes 0x0402 p) ∧ (2 ≤ n) ∧ (i ≤ 31) ∧ (act ≤ 2) ∧
       (s.linkExists i = true) ∧ (s.txIdle.testBit i = false) ∧ (act = 0) ∧ (i < 30) ∧ (st = lkActive) ∧
       (s.canStart 0x0402 p i)) ∧
    (let s : State := sess (flds [(F.lnkStatusState 3, lkDetect)] die); let p : Packet := (pk 1026 ([3, 1]));
     let fast : Bool := true; let n := p.params.length; let i := packetPar p 0 1; let act := packetPar p 1 1;
     let st := s.linkState i; (s.Takes 0x0402 p) ∧ (2 ≤ n) ∧ (i ≤ 31) ∧ (act ≤ 2) ∧ (s.linkExists i = true) ∧
       (s.txIdle.testBit i = false) ∧ (act = 1) ∧ (fast = true) ∧ (st = lkDetect) ∧
       ((s.link i).keepTraffic = false) ∧ (i < 30)) ∧
    (let s : State := sess (flds [(F.lnkStatusState 3, lkActive)] die);
     let p : Packet := (pk 1027 ([3, 1, 0, 0] ++ leBytes 4 60000)); let n := p.params.length;
     let i := packetPar p 0 1; let act := packetPar p 1 1; let ms := packetPar p 4 4; let st := s.linkState i;
     let free := st = lkDisabled ∨ st = lkDetect ∨ st = lkFailed; (s.Takes 0x0403 p) ∧ (8 ≤ n) ∧ (i ≤ 31) ∧
       (act ≤ 1) ∧ (1 ≤ ms) ∧ (ms ≤ 60000) ∧ (s.linkExists i = true) ∧ (¬ free)) ∧
    (let s : State := sess (flds [(F.lnkStatusState 3, lkDisabled)] die);
     let p : Packet := (pk 1027 ([3, 0, 0, 0] ++ leBytes 4 1)); let n := p.params.length; let i := packetPar p 0 1;
     let act := packetPar p 1 1; let ms := packetPar p 4 4; let st := s.linkState i;
     let free := st = lkDisabled ∨ st = lkDetect ∨ st = lkFailed; (s.Takes 0x0403 p) ∧ (8 ≤ n) ∧ (i ≤ 31) ∧
       (act ≤ 1) ∧ (1 ≤ ms) ∧ (ms ≤ 60000) ∧ (s.linkExists i = true) ∧ (free) ∧ (s.canStart 0x0403 p i)) ∧
    (let s : State := sess (die); let p : Packet := (pk 1028 ([3, 1, 0, 0] ++ leBytes 4 60000));
     let n := p.params.length; let i := packetPar p 0 1; let ms := packetPar p 4 4; (s.Takes 0x0404 p) ∧ (8 ≤ n) ∧
       (i ≤ 31) ∧ (1 ≤ ms) ∧ (ms ≤ 60000) ∧ (s.linkState i ≠ lkActive)) ∧
    (let s : State := sess (flds [(F.lnkStatusState 3, lkActive)] die);
     let p : Packet := (pk 1028 ([3, 1, 0, 0] ++ leBytes 4 60000)); let n := p.params.length;
     let i := packetPar p 0 1; let ms := packetPar p 4 4; (s.Takes 0x0404 p) ∧ (8 ≤ n) ∧ (i ≤ 31) ∧ (1 ≤ ms) ∧
       (ms ≤ 60000) ∧ (s.linkState i = lkActive) ∧ ((s.link i).berOp = none) ∧
       ((i < 30 ∨ s.linkOpen (61 - i) = true)) ∧ (s.canStart 0x0404 p i)) ∧
    (let s : State := sess (flds [(F.lnkStatusState 3, lkActive), (F.lnkStatusState 29, lkActive)] die);
     let p : Packet := (pk 1028 ([255, 1, 0, 0] ++ leBytes 4 60000)); let n := p.params.length;
     let i := packetPar p 0 1; let ms := packetPar p 4 4; (s.Takes 0x0404 p) ∧ (8 ≤ n) ∧ (i = 0xFF) ∧ (1 ≤ ms) ∧
       (ms ≤ 60000) ∧ (s.canStart 0x0404 p i) ∧
       ((∃ k, k < 30 ∧ s.linkState k = lkActive ∧ (s.link k).berOp = none))) ∧
    (let s : State := sess (flds [(F.evgBootStage, 2), (F.evgBootReady, 0)] die);
     let p : Packet := (pk 274 (leBytes 2 0 ++ leBytes 2 2 ++ leBytes 4 0 ++ [1, 2])); let n := p.params.length;
     let part := packetPar p 0 2; let parts := packetPar p 2 2; let b := []; (s.Takes 0x0112 p) ∧ (8 ≤ n) ∧
       (s.stage < 3) ∧ (s.blobOp = none) ∧ ((part = 0 ∧ b = [] ∨ part ≠ 0 ∧ s.blobIn = some (parts, part, b))) ∧
       (part + 1 < parts)) ∧
    (let s : State := sess ({ (flds [(F.evgBootStage, 2), (F.evgBootReady, 0)] die) with blobIn := some (2, 1, [9]) });
     let p : Packet := (pk 274 (leBytes 2 1 ++ leBytes 2 2 ++ leBytes 4 0 ++ [1, 2])); let fast : Bool := false;
     let n := p.params.length; let part := packetPar p 0 2; let parts := packetPar p 2 2; let b := [9];
     (s.Takes 0x0112 p) ∧ (8 ≤ n) ∧ (s.stage < 3) ∧ (s.blobOp = none) ∧
       ((part = 0 ∧ b = [] ∨ part ≠ 0 ∧ s.blobIn = some (parts, part, b))) ∧ (part + 1 = parts) ∧ (fast = false) ∧
       (s.canStart 0x0112 p 0)) ∧
    (let s : State := lnk 23 (fun l => { l with txq := [(2, .status 7 0)] }) (Tests.link 23 lkActive die);
     let i : LinkNo := 23; (s.bops = []) ∧ (s.alive = true) ∧ (s.linkExists i.val = true) ∧
       (s.txIdle.testBit i.val = false) ∧ (s.linkState i.val = lkActive)) ∧
    (let s : State := Tests.link 23 lkLoopback die; let i : LinkNo := 23; (s.bops = []) ∧ (s.alive = true) ∧
       (s.linkExists i.val = true) ∧ (s.txIdle.testBit i.val = false) ∧ (s.linkState i.val = lkLoopback)) ∧
    (let s : State := Tests.link 23 lkFailed die; let i : LinkNo := 23; (s.bops = []) ∧ (s.alive = true) ∧
       (s.linkExists i.val = true) ∧ (s.txIdle.testBit i.val = false) ∧
       (s.linkState i.val = lkDisabled ∨ s.linkState i.val = lkFailed)) :=
  ⟨⟨takes_of (by decide +kernel), by decide +kernel, by decide +kernel⟩,
    ⟨takes_of (by decide +kernel), by decide +kernel, by decide +kernel,
      (by unfold State.canStart; decide +kernel)⟩,
    ⟨takes_of (by decide +kernel), by decide +kernel, by decide +kernel, by decide +kernel, by decide +kernel⟩,
    ⟨takes_of (by decide +kernel), by decide +kernel, by decide +kernel, by decide +kernel, by decide +kernel,
      by decide +kernel, by decide +kernel⟩,
    ⟨takes_of (by decide +kernel), by decide +kernel, by decide +kernel, by decide +kernel, by decide +kernel,
      by decide +kernel, by decide +kernel, by decide +kernel, by decide +kernel, by decide +kernel⟩,
    ⟨takes_of (by decide +kernel), by decide +kernel, by decide +kernel, by decide +kernel, by decide +kernel,
      by decide +kernel, by decide +kernel, by decide +kernel, (by unfold State.canStart; decide +kernel)⟩,
    ⟨takes_of (by decide +kernel), by decide +kernel, by decide +kernel, by decide +kernel, by decide +kernel,
      by decide +kernel, by decide +kernel, by decide +kernel, by decide +kernel,
      (by unfold State.canStart; decide +kernel)⟩,
    ⟨takes_of (by decide +kernel), by decide +kernel, by decide +kernel, by decide +kernel, by decide +kernel,
      by decide +kernel, by decide +kernel, by decide +kernel, by decide +kernel, by decide +kernel,
      by decide +kernel⟩,
    ⟨takes_of (by decide +kernel), by decide +kernel, by decide +kernel, by decide +kernel, by decide +kernel,
      by decide +kernel, by decide +kernel, by decide +kernel⟩,
    ⟨takes_of (by decide +kernel), by decide +kernel, by decide +kernel, by decide +kernel, by decide +kernel,
      by decide +kernel, by decide +kernel, by decide +kernel, (by unfold State.canStart; decide +kernel)⟩,
    ⟨takes_of (by decide +kernel), by decide +kernel, by decide +kernel, by decide +kernel, by decide +kernel,
      by decide +kernel⟩,
    ⟨takes_of (by decide +kernel), by decide +kernel, by decide +kernel, by decide +kernel, by decide +kernel,
      by decide +kernel, by decide +kernel, by decide +kernel, (by unfold State.canStart; decide +kernel)⟩,
    ⟨takes_of (by decide +kernel), by decide +kernel, by decide +kernel, by decide +kernel, by decide +kernel,
      (by unfold State.canStart; decide +kernel), by decide +kernel⟩,
    ⟨takes_of (by decide +kernel), by decide +kernel, by decide +kernel, by decide +kernel, by decide +kernel,
      by decide +kernel⟩,
    ⟨takes_of (by decide +kernel), by decide +kernel, by decide +kernel, by decide +kernel, by decide +kernel,
      by decide +kernel, by decide +kernel, (by unfold State.canStart; decide +kernel)⟩,
    by decide +kernel,
    by decide +kernel,
    by decide +kernel⟩

theorem witness_LongOperationsEnd :
    (let s : State := { (sess (lnk 3 (fun l => { l with op := some 2 }) (flds [(F.lnkStatusState 3, lkActive)] die))) with session := { (sess (lnk 3 (fun l => { l with op := some 2 }) (flds [(F.lnkStatusState 3, lkActive)] die))).session with ops := [({ id := 2, opcode := 1026, hostSeq := 1, tag := 5, object := 3, state := 0, status := 0, season := 7, started := 0 } : LongOp)] } };
     let id : Nat := 2; let l : LinkNo := 3; (s.opLive id) ∧ ((s.link l.val).op = some id) ∧
       (s.linkState l.val = lkActive ∨ s.linkState l.val = lkDisabled)) ∧
    (let s : State := { (sess (lnk 3 (fun l => { l with op := some 2 }) (flds [(F.lnkStatusState 3, lkFailed)] die))) with session := { (sess (lnk 3 (fun l => { l with op := some 2 }) (flds [(F.lnkStatusState 3, lkFailed)] die))).session with ops := [({ id := 2, opcode := 1026, hostSeq := 1, tag := 5, object := 3, state := 0, status := 0, season := 7, started := 0 } : LongOp)] } };
     let id : Nat := 2; let l : LinkNo := 3; (s.opLive id) ∧ ((s.link l.val).op = some id) ∧
       (s.linkState l.val = lkFailed)) ∧
    (let s : State := { (sess (lnk 3 (fun l => { l with loopOp := some 2, prior := lkFailed }) (flds [(F.lnkStatusState 3, lkLoopback)] die))) with session := { (sess (lnk 3 (fun l => { l with loopOp := some 2, prior := lkFailed }) (flds [(F.lnkStatusState 3, lkLoopback)] die))).session with ops := [({ id := 2, opcode := 1027, hostSeq := 1, tag := 5, object := 3, state := 0, status := 0, season := 7, started := 0 } : LongOp)] } };
     let id : Nat := 2; let l : LinkNo := 3; (s.opLive id) ∧ (s.linkState l.val = lkLoopback) ∧
       ((s.link l.val).loopOp = some id)) ∧
    (let s : State := { (sess (lnk 3 (fun l => { l with berOp := some 2 }) (flds [(F.lnkStatusState 3, lkBerTest), (F.lnkUsed 3, 1)] die))) with session := { (sess (lnk 3 (fun l => { l with berOp := some 2 }) (flds [(F.lnkStatusState 3, lkBerTest), (F.lnkUsed 3, 1)] die))).session with ops := [({ id := 2, opcode := 1028, hostSeq := 1, tag := 5, object := 3, state := 0, status := 0, season := 7, started := 0 } : LongOp)] } };
     let id : Nat := 2; let l : LinkNo := 3; let errors : List (Nat × Nat) := [(0, 0), (70000, 65536)];
     (s.opLive id) ∧ (s.linkState l.val = lkBerTest) ∧ ((s.link l.val).berOp = some id) ∧
       ((∀ k, k < 32 → k ≠ l.val → (s.link k).berOp ≠ some id)) ∧ (s.failedLanes l.val errors = 0) ∧ (s.bops = [])) ∧
    (let s : State := { (sess ({ die with blobOp := some 2, blobIn := some (2, 2, [9]) })) with session := { (sess ({ die with blobOp := some 2, blobIn := some (2, 2, [9]) })).session with ops := [({ id := 2, opcode := 274, hostSeq := 1, tag := 5, object := 0, state := 0, status := 0, season := 7, started := 0 } : LongOp)] } };
     let id : Nat := 2; let k : Nat := 2; let n : Nat := 2; let b : List Byte := [9]; (s.opLive id) ∧
       (s.blobOp = some id) ∧ (s.blobIn = some (n, k, b))) ∧
    (let s : State := { (sess (flds [(F.pwrCoreStatusState 3, pwEntering)] (core 3 (fun c => { c with powerOp := some 2, target := 1 }) die))) with session := { (sess (flds [(F.pwrCoreStatusState 3, pwEntering)] (core 3 (fun c => { c with powerOp := some 2, target := 1 }) die))).session with ops := [({ id := 2, opcode := 513, hostSeq := 1, tag := 5, object := 3, state := 0, status := 0, season := 7, started := 0 } : LongOp)] } };
     let id : Nat := 2; let l : CoreNo := 3; let c : Nat := 3; (s.opLive id) ∧ (s.phys l.val = some c) ∧
       (s.dieAwake = true) ∧ (s.bops = []) ∧ (s.session.asleep = []) ∧ (s.bit F.pwrDieStatusPending = false) ∧
       (s.bit (F.pwrCoreStatusPending l.val) = false) ∧ ((s.core c).powerOp = some id) ∧ (tsorted s.cores = true) ∧
       ((∀ x ∈ s.cores, x.1 ≠ c → x.2.powerOp ≠ some id)) ∧
       ((∀ k, k < 96 → ¬ (s.bit (F.pwrCoreStatusPending k) = true ∧ s.fld (F.pwrCoreStatusPendingOp k) = id))) ∧
       (s.power c = pwEntering) ∧ ((s.core c).wakeAfter = none) ∧ ((s.core c).target ≤ 3)) ∧
    (let s : State := { (sess (flds [(F.pwrCoreStatusState 3, pwWaking)] (core 3 (fun c => { c with powerOp := some 2 }) die))) with session := { (sess (flds [(F.pwrCoreStatusState 3, pwWaking)] (core 3 (fun c => { c with powerOp := some 2 }) die))).session with ops := [({ id := 2, opcode := 513, hostSeq := 1, tag := 5, object := 3, state := 0, status := 0, season := 7, started := 0 } : LongOp)] } };
     let id : Nat := 2; let l : CoreNo := 3; let c : Nat := 3; (s.opLive id) ∧ (s.phys l.val = some c) ∧
       (s.dieAwake = true) ∧ (s.bops = []) ∧ (s.session.asleep = []) ∧ (s.bit F.pwrDieStatusPending = false) ∧
       (s.bit (F.pwrCoreStatusPending l.val) = false) ∧ ((s.core c).powerOp = some id) ∧ (tsorted s.cores = true) ∧
       ((∀ x ∈ s.cores, x.1 ≠ c → x.2.powerOp ≠ some id)) ∧
       ((∀ k, k < 96 → ¬ (s.bit (F.pwrCoreStatusPending k) = true ∧ s.fld (F.pwrCoreStatusPendingOp k) = id))) ∧
       (s.power c = pwWaking) ∧ ((s.core c).latch = 0) ∧ ((s.core c).wait = none)) ∧
    (let s : State := { (sess (flds [(F.pwrDieStatusState, 1), (F.lnkStatusState 30, lkTrickle)] die)) with session := { (sess (flds [(F.pwrDieStatusState, 1), (F.lnkStatusState 30, lkTrickle)] die)).session with ops := [({ id := 2, opcode := 513, hostSeq := 1, tag := 5, object := 0, state := 0, status := 0, season := 7, started := 0 } : LongOp)] } };
     let id : Nat := 2; (s.opLive id) ∧ (s.fld F.pwrDieStatusState = 1) ∧
       ((∀ i, i < 32 → s.linkUp i = true → s.linkState i = lkTrickle)) ∧ (s.dieWakeAfter = none)) ∧
    (let s : State := { (sess (flds [(F.pwrCoreStatusState 3, pwWaking)] die)) with session := { (sess (flds [(F.pwrCoreStatusState 3, pwWaking)] die)).session with ops := [({ id := 2, opcode := 513, hostSeq := 1, tag := 5, object := 3, state := 0, status := 0, season := 7, started := 0 } : LongOp)] } };
     let id : Nat := 2; let l : CoreNo := 3; let c : Nat := 3; (s.opLive id) ∧ (s.phys l.val = some c) ∧
       (s.power c = pwWaking) ∧ (s.fencedCore c = false) ∧ (s.kernels = []) ∧ (s.bops = [])) ∧
    (let s : State := flds [(F.pwrSleepTimer, 5), (F.pwrDieStatusState, 2)] die; (s.fld F.pwrDieStatusState = 2) ∧
       (s.fld F.pwrSleepTimer ≠ 0)) ∧
    (let s : State := flds [(F.pwrDieStatusState, 2)] die; (s.fld F.pwrSleepTimer = 0)) ∧
    (let s : State := die; (s.fld F.pwrDieStatusState ≠ 3)) ∧
    (let s : State := flds [(F.pwrDieStatusState, 3)] { (Tests.link 30 lkActive die) with sleepPoint := [(8, 750), (8, 750)] };
     (s.fld F.pwrDieStatusState = 3) ∧ (s.linkState 30 = lkActive) ∧ (s.fld F.pwrDieStatusPending = 0) ∧
       (s.sleepPoint.length = 2) ∧ (s.session.asleep = []) ∧ (s.bops = []) ∧
       ((∀ y ∈ s.sleepPoint.zipIdx, (s.rail y.2).requests = [] ∧ (s.rail y.2).mv = y.1.2))) :=
  ⟨⟨(by unfold State.opLive; decide +kernel), by decide +kernel, by decide +kernel⟩,
    ⟨(by unfold State.opLive; decide +kernel), by decide +kernel, by decide +kernel⟩,
    ⟨(by unfold State.opLive; decide +kernel), by decide +kernel, by decide +kernel⟩,
    ⟨(by unfold State.opLive; decide +kernel), by decide +kernel, by decide +kernel, by decide +kernel,
      by decide +kernel, by decide +kernel⟩,
    ⟨(by unfold State.opLive; decide +kernel), by decide +kernel, by decide +kernel⟩,
    ⟨(by unfold State.opLive; decide +kernel), by decide +kernel, by decide +kernel, by decide +kernel,
      by decide +kernel, by decide +kernel, by decide +kernel, by decide +kernel, by decide +kernel,
      by decide +kernel, by decide +kernel, by decide +kernel, by decide +kernel, by decide +kernel⟩,
    ⟨(by unfold State.opLive; decide +kernel), by decide +kernel, by decide +kernel, by decide +kernel,
      by decide +kernel, by decide +kernel, by decide +kernel, by decide +kernel, by decide +kernel,
      by decide +kernel, by decide +kernel, by decide +kernel, by decide +kernel, by decide +kernel⟩,
    ⟨(by unfold State.opLive; decide +kernel), by decide +kernel, by decide +kernel, by decide +kernel⟩,
    ⟨(by unfold State.opLive; decide +kernel), by decide +kernel, by decide +kernel, by decide +kernel,
      by decide +kernel, by decide +kernel⟩,
    by decide +kernel,
    by decide +kernel,
    by decide +kernel,
    by decide +kernel⟩

theorem witness_ImagesAreLoaded :
    (let s : State := sess (flds [(F.evgBootStage, 2), (F.evgBootReady, 0)] die);
     let p : Packet := (pk 258 ([2, 0] ++ leBytes 2 9 ++ leBytes 4 16 ++ leBytes 4 1 ++ List.replicate 32 4));
     let n := p.params.length; let target := packetPar p 0 1; let size := packetPar p 4 4;
     let form := 44 ≤ n ∧ target ≤ 1 ∧ 0 < size ∧ size ≤ (if target = 0 then 196608 else 32768) ∧ size % 16 = 0 ∧ packetPar p 8 4 = (size + 4095) / 4096;
     (s.Takes 0x0102 p) ∧ (¬ form)) ∧
    (let s : State := sess ({ (flds [(F.evgBootStage, 2), (F.evgBootReady, 0)] die) with transfers := [({ target := 1, id := 8, size := 16, chunks := 1, digest := List.replicate 32 4, op := some 2 } : Transfer)] });
     let p : Packet := (pk 258 ([1, 0] ++ leBytes 2 9 ++ leBytes 4 16 ++ leBytes 4 1 ++ List.replicate 32 4));
     let n := p.params.length; let target := packetPar p 0 1; let size := packetPar p 4 4;
     let form := 44 ≤ n ∧ target ≤ 1 ∧ 0 < size ∧ size ≤ (if target = 0 then 196608 else 32768) ∧ size % 16 = 0 ∧ packetPar p 8 4 = (size + 4095) / 4096;
     (s.Takes 0x0102 p) ∧ (form) ∧ ((∃ x ∈ s.transfers, x.target = target ∧ x.op ≠ none))) ∧
    (let s : State := sess ({ (flds [(F.evgBootStage, 2), (F.evgBootReady, 0)] die) with transfers := [({ target := 1, id := 9, size := 16, chunks := 1, digest := List.replicate 32 4 } : Transfer)] });
     let p : Packet := (pk 258 ([1, 0] ++ leBytes 2 9 ++ leBytes 4 16 ++ leBytes 4 1 ++ List.replicate 32 4));
     let n := p.params.length; let target := packetPar p 0 1; let id := packetPar p 2 2;
     let size := packetPar p 4 4; let digest := slice p.params 12 32;
     let form := 44 ≤ n ∧ target ≤ 1 ∧ 0 < size ∧ size ≤ (if target = 0 then 196608 else 32768) ∧ size % 16 = 0 ∧ packetPar p 8 4 = (size + 4095) / 4096;
     (s.Takes 0x0102 p) ∧ (form) ∧ ((∀ x ∈ s.transfers, x.target = target → x.op = none)) ∧
       ((∃ x ∈ s.transfers, x.target = target ∧ x.committed = false ∧ x.id = id ∧ x.size = size ∧ x.digest = digest))) ∧
    (let s : State := sess ({ (flds [(F.evgBootStage, 2), (F.evgBootReady, 0)] die) with transfers := [({ target := 1, id := 8, size := 16, chunks := 1, digest := List.replicate 32 4 } : Transfer), ({ target := 1, id := 9, size := 16, chunks := 1, digest := List.replicate 32 4, committed := true } : Transfer)] });
     let p : Packet := (pk 258 ([1, 0] ++ leBytes 2 9 ++ leBytes 4 32768 ++ leBytes 4 8 ++ List.replicate 32 4));
     let n := p.params.length; let target := packetPar p 0 1; let id := packetPar p 2 2;
     let size := packetPar p 4 4; let digest := slice p.params 12 32;
     let form := 44 ≤ n ∧ target ≤ 1 ∧ 0 < size ∧ size ≤ (if target = 0 then 196608 else 32768) ∧ size % 16 = 0 ∧ packetPar p 8 4 = (size + 4095) / 4096;
     (s.Takes 0x0102 p) ∧ (form) ∧ ((∀ x ∈ s.transfers, x.target = target → x.op = none)) ∧
       (¬ (∃ x ∈ s.transfers, x.target = target ∧ x.committed = false ∧ x.id = id ∧ x.size = size ∧ x.digest = digest))) ∧
    (let s : State := sess ({ (flds [(F.evgBootStage, 2), (F.evgBootReady, 0)] die) with transfers := [({ target := 1, id := 8, size := 16, chunks := 1, digest := List.replicate 32 4 } : Transfer)] });
     let p : Packet := (stamped 259 { pk 259 ([1]) with tag := 589824 }); let id := p.tag.toNat / 65536 % 65536;
     (s.Takes 0x0103 p) ∧ (s.transfer id = none)) ∧
    (let s : State := sess ({ (flds [(F.evgBootStage, 2), (F.evgBootReady, 0)] die) with transfers := [({ target := 1, id := 9, size := 16, chunks := 1, digest := List.replicate 32 4 } : Transfer)] });
     let p : Packet := (stamped 259 { pk 259 (List.replicate 16 1) with tag := 589825 });
     let x : Transfer := ({ target := 1, id := 9, size := 16, chunks := 1, digest := List.replicate 32 4 } : Transfer);
     let chunk := p.tag.toNat % 65536; let id := p.tag.toNat / 65536 % 65536; (s.Takes 0x0103 p) ∧
       (s.transfer id = some x) ∧ (x.chunks ≤ chunk ∨ p.params.length ≠ min 4096 (x.size - chunk * 4096))) ∧
    (let s : State := sess ({ (flds [(F.evgBootStage, 2), (F.evgBootReady, 0)] die) with transfers := [({ target := 1, id := 9, size := 16, chunks := 1, digest := List.replicate 32 4, committed := true } : Transfer)] });
     let p : Packet := (stamped 259 { pk 259 (List.replicate 16 1) with tag := 589824 });
     let x : Transfer := ({ target := 1, id := 9, size := 16, chunks := 1, digest := List.replicate 32 4, committed := true } : Transfer);
     let chunk := p.tag.toNat % 65536; let id := p.tag.toNat / 65536 % 65536; (s.Takes 0x0103 p) ∧
       (s.transfer id = some x) ∧ (chunk < x.chunks) ∧ (p.params.length = min 4096 (x.size - chunk * 4096)) ∧
       (x.committed = true ∨ x.op ≠ none)) ∧
    (let s : State := sess ({ (flds [(F.evgBootStage, 2), (F.evgBootReady, 0)] die) with transfers := [({ target := 1, id := 9, size := 4112, chunks := 2, digest := List.replicate 32 4, receivers := [{ core := 3, got := [1] }, { core := 4, got := [0] }] } : Transfer)] });
     let p : Packet := (stamped 259 { pk 259 (List.replicate 16 1) with tag := 589825 });
     let bad : List CoreNo := [7];
     let x : Transfer := ({ target := 1, id := 9, size := 4112, chunks := 2, digest := List.replicate 32 4, receivers := [{ core := 3, got := [1] }, { core := 4, got := [0] }] } : Transfer);
     let chunk := p.tag.toNat % 65536; let id := p.tag.toNat / 65536 % 65536; (s.Takes 0x0103 p) ∧
       (s.transfer id = some x) ∧ (chunk < x.chunks) ∧ (p.params.length = min 4096 (x.size - chunk * 4096)) ∧
       (x.committed = false) ∧ (x.op = none) ∧ ((∀ c ∈ bad, ∀ r ∈ x.receivers, r.core ≠ c.val)) ∧
       ((∀ r ∈ x.receivers, tget 0 r.fails chunk < 4))) ∧
    (let s : State := { (sess ({ (flds [(F.evgBootStage, 2), (F.evgBootReady, 0)] die) with transfers := [({ target := 1, id := 9, size := 16, chunks := 1, digest := List.replicate 32 4, op := some 2 } : Transfer)] })) with session := { (sess ({ (flds [(F.evgBootStage, 2), (F.evgBootReady, 0)] die) with transfers := [({ target := 1, id := 9, size := 16, chunks := 1, digest := List.replicate 32 4, op := some 2 } : Transfer)] })).session with ops := [({ id := 2, opcode := 260, hostSeq := 1, tag := 5, object := 0, state := 0, status := 0, season := 7, started := 0 } : LongOp)] } };
     let x : Transfer := ({ target := 1, id := 9, size := 16, chunks := 1, digest := List.replicate 32 4, op := some 2 } : Transfer);
     let id : Nat := 2; let whole := ∀ k, k < x.chunks → x.lacks k = false;
     (s.transfers.find? (fun x => x.op.isSome) = some x) ∧ (x.op = some id) ∧ (x.target ≤ 1) ∧ (s.opLive id) ∧
       (¬ whole)) ∧
    (let s : State := { (sess ({ (flds [(F.evgBootStage, 2), (F.evgBootReady, 0)] die) with transfers := [({ target := 1, id := 9, size := 16, chunks := 1, digest := List.replicate 32 4, op := some 2, data := [(0, List.replicate 16 7)] } : Transfer)] })) with session := { (sess ({ (flds [(F.evgBootStage, 2), (F.evgBootReady, 0)] die) with transfers := [({ target := 1, id := 9, size := 16, chunks := 1, digest := List.replicate 32 4, op := some 2, data := [(0, List.replicate 16 7)] } : Transfer)] })).session with ops := [({ id := 2, opcode := 260, hostSeq := 1, tag := 5, object := 0, state := 0, status := 0, season := 7, started := 0 } : LongOp)] } };
     let x : Transfer := ({ target := 1, id := 9, size := 16, chunks := 1, digest := List.replicate 32 4, op := some 2, data := [(0, List.replicate 16 7)] } : Transfer);
     let id : Nat := 2; let b := (x.data.flatMap fun d => d.2).take x.size;
     let whole := ∀ k, k < x.chunks → x.lacks k = false; (s.transfers.find? (fun x => x.op.isSome) = some x) ∧
       (x.op = some id) ∧ (x.target ≤ 1) ∧ (s.opLive id) ∧ (whole) ∧ (sha256 b ≠ x.digest)) ∧
    (let s : State := { (sess ({ (flds [(F.evgBootStage, 2), (F.evgBootReady, 0)] die) with transfers := [({ target := 1, id := 9, size := 16, chunks := 1, digest := sha256 (List.replicate 16 7), op := some 2, data := [(0, List.replicate 16 7)] } : Transfer)] })) with session := { (sess ({ (flds [(F.evgBootStage, 2), (F.evgBootReady, 0)] die) with transfers := [({ target := 1, id := 9, size := 16, chunks := 1, digest := sha256 (List.replicate 16 7), op := some 2, data := [(0, List.replicate 16 7)] } : Transfer)] })).session with ops := [({ id := 2, opcode := 260, hostSeq := 1, tag := 5, object := 0, state := 0, status := 0, season := 7, started := 0 } : LongOp)] } };
     let x : Transfer := ({ target := 1, id := 9, size := 16, chunks := 1, digest := sha256 (List.replicate 16 7), op := some 2, data := [(0, List.replicate 16 7)] } : Transfer);
     let id : Nat := 2; let b := (x.data.flatMap fun d => d.2).take x.size;
     let whole := ∀ k, k < x.chunks → x.lacks k = false; let v := s.verify x.target b;
     (s.transfers.find? (fun x => x.op.isSome) = some x) ∧ (x.op = some id) ∧ (x.target ≤ 1) ∧ (s.opLive id) ∧
       (whole) ∧ (sha256 b = x.digest) ∧ (v.1 ≠ stOk)) :=
  ⟨⟨takes_of (by decide +kernel), by decide +kernel⟩,
    ⟨takes_of (by decide +kernel), by decide +kernel, by decide +kernel⟩,
    ⟨takes_of (by decide +kernel), by decide +kernel, by decide +kernel, by decide +kernel⟩,
    ⟨takes_of (by decide +kernel), by decide +kernel, by decide +kernel, by decide +kernel⟩,
    ⟨takes_of (by decide +kernel), by decide +kernel⟩,
    ⟨takes_of (by decide +kernel), by decide +kernel, by decide +kernel⟩,
    ⟨takes_of (by decide +kernel), by decide +kernel, by decide +kernel, by decide +kernel, by decide +kernel⟩,
    ⟨takes_of (by decide +kernel), by decide +kernel, by decide +kernel, by decide +kernel, by decide +kernel,
      by decide +kernel, by decide +kernel, by decide +kernel⟩,
    ⟨by decide +kernel, by decide +kernel, by decide +kernel, (by unfold State.opLive; decide +kernel),
      by decide +kernel⟩,
    ⟨by decide +kernel, by decide +kernel, by decide +kernel, (by unfold State.opLive; decide +kernel),
      by decide +kernel, by decide +kernel⟩,
    ⟨by decide +kernel, by decide +kernel, by decide +kernel, (by unfold State.opLive; decide +kernel),
      by decide +kernel, by decide +kernel, by decide +kernel⟩⟩

/-- A microcode image of 16 zero bytes with a signature of zeros (R533). -/
def signedImage : List Byte :=
  leBytes 4 0x53494D31 ++ [1, 1, 0, 0] ++ leBytes 4 0x100 ++ leBytes 4 16 ++ leBytes 4 0x110 ++ List.replicate 16476 0

/-- The chunks of an image of at most 20,480 bytes are the image. -/
theorem chunks_join (l : List Byte) (h : l.length ≤ 20480) :
    (((List.range 5).map fun k => (k, (l.drop (4096 * k)).take 4096)).flatMap fun d => d.2) = l := by
  have e : ∀ k, (l.drop k).take 4096 ++ l.drop (k + 4096) = l.drop k := fun k => by
    rw [← List.drop_drop]; exact List.take_append_drop ..
  have z : (l.drop 16384).take 4096 = l.drop 16384 := List.take_of_length_le (by simp; omega)
  simp [List.range, List.range.loop, z, e 12288, e 8192, e 4096]

/-- A transfer of that image being committed, in a die whose vendor key slot 0 holds its key. -/
def committing : Transfer :=
  { target := 1, id := 9, size := 16496, chunks := 5, digest := sha256 signedImage, op := some 2,
    data := (List.range 5).map fun k => (k, (signedImage.drop (4096 * k)).take 4096) }
def imageDie : State :=
  let op : LongOp :=
    { id := 2, opcode := 0x104, hostSeq := 1, tag := 5, object := 0, state := 0, status := 0, season := 7, started := 0 }
  { (flds [(F.evgBootStage, 2), (F.evgBootReady, 0)] die) with
    session := { (sess die).session with ops := [op] },
    transfers := [committing], fuses := { die.fuses with vendor := [sha256 (List.replicate 48 0)] } }

/-- Where the signature holds (log 4), the commit of that image meets what its statement asks. -/
theorem witness_imageTaken
    (signed : Config.slhVerify 1 (slice signedImage 0x20 48) (signedImage.take 272) (signedImage.drop 272) = true) :
    let s := imageDie
    let x := committing
    let b := (x.data.flatMap fun d => d.2).take x.size
    s.transfers.find? (fun x => x.op.isSome) = some x ∧ x.op = some 2 ∧ x.target ≤ 1 ∧ s.opLive 2 ∧ (∀ k, k < x.chunks → x.lacks k = false) ∧ sha256 b = x.digest ∧
      (s.verify x.target b).1 = stOk := by
  have hb : (committing.data.flatMap fun d => d.2).take committing.size = signedImage := by
    have hl : signedImage.length = 16496 := by decide +kernel
    have h : (committing.data.flatMap fun d => d.2) = signedImage := chunks_join signedImage (by omega)
    rw [h]; exact List.take_of_length_le (by rw [hl]; exact Nat.le_refl 16496)
  have hh : headerOk 1 signedImage = true := by decide +kernel
  have hk : imageDie.keySlot signedImage = some 0 := by decide +kernel
  have hn : leAt signedImage 0x10 4 = 272 := by decide +kernel
  have h0 : leAt signedImage 0x1C 1 = 0 := by decide +kernel
  have hf : imageDie.fuses.counter = 0 := by decide +kernel
  have hd : committing.digest = sha256 signedImage := by simp only [committing]
  refine ⟨List.find?_cons_of_pos rfl, rfl, by decide, ⟨_, List.mem_cons_self .., rfl, by decide⟩, by decide +kernel, (congrArg sha256 hb).trans hd.symm, ?_⟩
  show (imageDie.verify 1 ((committing.data.flatMap fun d => d.2).take committing.size)).1 = stOk
  rw [hb]
  simp [State.verify, hh, hk, hn, h0, hf, signed]
theorem witness_PinsAndResets :
    (let s : State := die; (s.pwrgd = true)) ∧
    (let s : State := {}; (s.pwrgd = false) ∧ (s.hold22 = none) ∧ (s.refclk = true)) ∧
    (let ns : Nat := 99; (ns < 100)) ∧
    (let s : State := { (bytes 3 5 [7] (sess (link 23 lkActive die))) with dieback := [{ kind := 1, source := 3, unit := 0 }], hostClock := some 5, time := 77, memRecord := [1], log := [({ severity := svInfo, kind := 4, status := 0, code := 1, index := 0, time := 0, unit := 0, context := 0, detail := 0 } : EvRec)], kernels := [kernel 4 [5]] };
     let ns : Nat := 100; (100 ≤ ns) ∧ (s.pwrgd = true)) ∧
    (let s : State := { die with pwrgd := false }; let ns : Nat := 100; (100 ≤ ns) ∧ (s.perst = true) ∧
       (s.pwrgd = false ∨ s.hold22 = some 1 ∨ s.tripped = true)) ∧
    (let s : State := { (bytes 3 5 [7] (sess (link 23 lkActive die))) with dieback := [{ kind := 1, source := 3, unit := 0 }], hostClock := some 5, time := 77, memRecord := [1], log := [({ severity := svInfo, kind := 4, status := 0, code := 1, index := 0, time := 0, unit := 0, context := 0, detail := 0 } : EvRec)], kernels := [kernel 4 [5]] };
     let ns : Nat := 100; (100 ≤ ns) ∧ (s.perst = true) ∧ (s.pwrgd = true) ∧ (s.hold22 ≠ some 1) ∧
       (s.tripped = false) ∧ (s.refclk = true)) ∧
    (let s : State := die; (s.hold22 = none)) ∧
    (let s : State := { die with hold22 := some 1 }; (s.hold22 = some 1) ∧ (s.pwrgd = true) ∧ (s.refclk = true)) ∧
    (let s : State := { die with hold22 := some 2, perst := false }; (s.hold22 = some 2) ∧ (s.perst = false)) ∧
    (let s : State := ({ pwrgd := true } : State); (s.pwrgd = true) ∧ (s.hold22 ≠ some 1) ∧ (s.s0Over = false) ∧
       (s.inStage 0 = true) ∧ (s.perst = false)) ∧
    (let s : State := die; (s.perst = true)) ∧
    (let s : State := ({ pwrgd := true, s0Over := true } : State); (s.perst = false) ∧ (s.alive = true) ∧
       (s.s0Over = true) ∧ (s.stage = 0) ∧ (s.clocksOff = false) ∧ (s.txIdle = 0) ∧ (s.fuseBad = false) ∧
       (s.ready ≠ rdFaulted) ∧ (s.selfCheckOk = true) ∧ (s.testMode = false)) ∧
    (let s : State := { (bytes 3 5 [7] (sess (link 23 lkActive die))) with dieback := [{ kind := 1, source := 3, unit := 0 }], hostClock := some 5, time := 77, memRecord := [1], log := [({ severity := svInfo, kind := 4, status := 0, code := 1, index := 0, time := 0, unit := 0, context := 0, detail := 0 } : EvRec)], kernels := [kernel 4 [5]] };
     let reading : BitVec 16 := 1840; (s.pwrgd = true) ∧ (s.hold22 ≠ some 1) ∧ (s.tripped = false) ∧
       (1840 ≤ reading.toInt)) ∧
    (let s : State := die; let reading : BitVec 16 := 1839; (s.pwrgd = true) ∧ (s.hold22 ≠ some 1) ∧
       (reading.toInt < 1840)) ∧
    (let s : State := { (bytes 3 5 [7] (sess (link 23 lkActive die))) with dieback := [{ kind := 1, source := 3, unit := 0 }], hostClock := some 5, time := 77, memRecord := [1], log := [({ severity := svInfo, kind := 4, status := 0, code := 1, index := 0, time := 0, unit := 0, context := 0, detail := 0 } : EvRec)], kernels := [kernel 4 [5]] };
     (s.pwrgd = true) ∧ (s.hold22 ≠ some 1) ∧ (s.refclk = true) ∧ (s.ready ≠ rdFaulted)) ∧
    (let s : State := {}; (s.pwrgd = false)) :=
  ⟨by decide +kernel, by decide +kernel, by decide +kernel, by decide +kernel, by decide +kernel,
    by decide +kernel, by decide +kernel, by decide +kernel, by decide +kernel, by decide +kernel, by decide +kernel,
    by decide +kernel, by decide +kernel, by decide +kernel, by decide +kernel, by decide +kernel⟩

theorem witness_StagesRun :
    (let s : State := flds [(F.evgBootStage, 1), (F.evgBootReady, 0)] (die);
     let ok := s.bit F.evgPlacementValid = true ∧ (s.linkUp 30 = true ∨ s.linkUp 31 = true);
     let i := Instr.s1PlacementTimeout; (s.fld F.evgBootHoldEn = 0) ∧ (s.bops = []) ∧ (s.inStage 1 = true) ∧
       (s.testMode = false) ∧ (ok) ∧ (s.bothImages = false) ∧
       (i ∈ [Instr.s1PlacementTimeout, Instr.stageTimeLimit])) ∧
    (let s : State := flds [(F.evgBootStage, 1), (F.evgBootReady, 0), (F.lnkStatusState 30, lkDetect)] (die);
     let ok := s.bit F.evgPlacementValid = true ∧ (s.linkUp 30 = true ∨ s.linkUp 31 = true);
     let i := Instr.s1PlacementTimeout; (s.fld F.evgBootHoldEn = 0) ∧ (s.bops = []) ∧ (s.inStage 1 = true) ∧
       (s.testMode = false) ∧ (¬ ok) ∧ (i ∈ [Instr.s1PlacementTimeout, Instr.stageTimeLimit])) ∧
    (let s : State := flds [(F.evgBootStage, 3), (F.evgBootReady, 0)] (die); (s.fld F.evgBootHoldEn = 0) ∧
       (s.bops = []) ∧ (s.inStage 3 = true)) ∧
    (let s : State := flds [(F.evgBootStage, 5), (F.evgBootReady, 0)] (die); (s.fld F.evgBootHoldEn = 0) ∧
       (s.bops = []) ∧ (s.inStage 5 = true)) ∧
    (let s : State := flds [(F.evgBootStage, 7), (F.evgBootReady, 0)] (die); (s.fld F.evgBootHoldEn = 0) ∧
       (s.bops = []) ∧ (s.inStage 7 = true)) ∧
    (let s : State := flds [(F.evgBootStage, 8), (F.evgBootReady, 0)] (die); (s.fld F.evgBootHoldEn = 0) ∧
       (s.bops = []) ∧ (s.inStage 8 = true)) ∧
    (let s : State := flds [(F.evgBootStage, 3), (F.evgBootReady, 0)] (die); (s.fld F.evgBootHoldEn = 0) ∧
       (s.bops = []) ∧ (s.inStage 3 = true) ∧ (s.commits = []) ∧ (s.mergeDieback = s) ∧
       (shortOfSpares s.dieback = []) ∧ ((∀ d ∈ s.dieback, d.source ≠ 2 ∧ d.retry = false)) ∧ (92 ≤ s.remaining)) ∧
    (let s : State := { (flds [(F.evgBootStage, 3), (F.evgBootReady, 0)] (die)) with dieback := (List.range 5).map fun u => { kind := 1, source := 1, unit := u } };
     (s.fld F.evgBootHoldEn = 0) ∧ (s.bops = []) ∧ (s.inStage 3 = true) ∧ (s.commits = []) ∧ (s.mergeDieback = s) ∧
       (shortOfSpares s.dieback = []) ∧ ((∀ d ∈ s.dieback, d.source ≠ 2 ∧ d.retry = false)) ∧ (s.remaining < 92)) ∧
    (let s : State := flds [(F.evgBootStage, 4), (F.evgBootReady, 0)] ((List.range 24).foldl (fun s i => link i lkActive s) (die));
     let up := ((List.range 24).filter s.linkUp).length; (s.fld F.evgBootHoldEn = 0) ∧ (s.bops = []) ∧
       (s.inStage 4 = true) ∧
       ((∀ i, i < 30 → s.linkExists i = true → s.linkState i = lkActive ∨ s.linkState i = lkFailed)) ∧ (12 ≤ up)) ∧
    (let s : State := flds [(F.evgBootStage, 4), (F.evgBootReady, 0)] ((List.range 24).foldl (fun s i => link i lkFailed s) (die));
     let up := ((List.range 24).filter s.linkUp).length; (s.fld F.evgBootHoldEn = 0) ∧ (s.bops = []) ∧
       (s.inStage 4 = true) ∧
       ((∀ i, i < 30 → s.linkExists i = true → s.linkState i = lkActive ∨ s.linkState i = lkFailed)) ∧ (up < 12)) ∧
    (let s : State := flds [(F.evgBootStage, 5), (F.evgBootReady, 0)] (die); (s.fld F.evgBootHoldEn = 0) ∧
       (s.bops = []) ∧ (s.inStage 5 = true) ∧ ((∀ i ∈ s.qualifying, s.linkState i ≠ lkBerTest))) ∧
    (let s : State := flds [(F.evgMemtestState, 1)] die; (s.fld F.evgBootHoldEn = 0) ∧ (s.bops = []) ∧
       (s.fld F.evgMemtestState = 1) ∧ (s.alive = true) ∧ (s.inStage 6 = false)) ∧
    (let s : State := flds [(F.evgMemtestState, 1)] die; (s.fld F.evgBootHoldEn = 0) ∧ (s.bops = []) ∧
       (s.fld F.evgMemtestState = 1) ∧ (s.alive = true)) ∧
    (let s : State := flds [(F.evgBootStage, 6), (F.evgBootReady, 0), (F.evgMemtestState, 1)] (die);
     (s.fld F.evgBootHoldEn = 0) ∧ (s.bops = []) ∧ (s.fld F.evgMemtestState = 1) ∧ (s.alive = true) ∧
       (s.inStage 6 = true) ∧ (s.memRun.op = none)) ∧
    (let s : State := flds [(F.evgBootStage, 6), (F.evgBootReady, 0), (F.evgMemtestState, 1)] (die);
     (s.fld F.evgBootHoldEn = 0) ∧ (s.bops = []) ∧ (s.fld F.evgMemtestState = 1) ∧ (s.alive = true) ∧
       (s.inStage 6 = true) ∧ (s.memRun.op = none)) ∧
    (let s : State := flds [(F.evgBootStage, 6), (F.evgBootReady, 0), (F.evgMemtestState, 1)] (die);
     (s.fld F.evgBootHoldEn = 0) ∧ (s.bops = []) ∧ (s.fld F.evgMemtestState = 1) ∧ (s.alive = true) ∧
       (s.inStage 6 = true) ∧ (s.memRun.op = none)) ∧
    (let s : State := que 9 (fun x => { x with ringCore := some 4 }) { (flds [(F.evgBootStage, 7), (F.evgBootReady, 0)] (die)) with calItems := [(0x01000003, 4)] };
     (s.fld F.evgBootHoldEn = 0) ∧ (s.bops = []) ∧ (s.inStage 7 = true)) ∧
    (let s : State := flds [(F.evgBootStage, 8), (F.evgBootReady, 0)] (die); (s.fld F.evgBootHoldEn = 0) ∧
       (s.bops = []) ∧ (s.inStage 8 = true) ∧ (s.degraded = 0)) ∧
    (let s : State := flds [(F.secStatusAdvancePending, 1)] { (die) with firmware := some ({ bytes := [], svn := 5, advanceTo := 5, revokeTo := 1, slot := 1 } : Image) };
     let im := ({ bytes := [], svn := 5, advanceTo := 5, revokeTo := 1, slot := 1 } : Image); let mv := 1599;
     (s.fld F.evgBootHoldEn = 0) ∧ (s.bops = []) ∧ (s.firmware = some im) ∧
       (s.bit F.secStatusAdvancePending = true) ∧ (s.advanceRefused = false) ∧ (s.ready ≠ rdFaulted) ∧
       (s.alive = true) ∧ (mv < 1600)) ∧
    (let s : State := flds [(F.secStatusAdvancePending, 1)] { (die) with firmware := some ({ bytes := [], svn := 5, advanceTo := 64, revokeTo := 3, slot := 1 } : Image) };
     let im := ({ bytes := [], svn := 5, advanceTo := 64, revokeTo := 3, slot := 1 } : Image); let mv := 1600;
     let n := 67; (s.fld F.evgBootHoldEn = 0) ∧ (s.bops = []) ∧ (s.firmware = some im) ∧
       (s.bit F.secStatusAdvancePending = true) ∧ (s.advanceRefused = false) ∧ (s.ready ≠ rdFaulted) ∧
       (s.alive = true) ∧ (1600 ≤ mv) ∧ (im.advanceTo ≤ 64) ∧ (im.revokeTo ≤ 3) ∧ (s.fuses.svn < 2 ^ 64) ∧
       (s.fuses.revoked < 2 ^ 3) ∧ (67 ≤ n)) :=
  ⟨by decide +kernel, by decide +kernel, by decide +kernel, by decide +kernel, by decide +kernel,
    by decide +kernel, by decide +kernel, by decide +kernel, by decide +kernel, by decide +kernel, by decide +kernel,
    by decide +kernel, by decide +kernel, by decide +kernel, by decide +kernel, by decide +kernel, by decide +kernel,
    by decide +kernel, by decide +kernel, by decide +kernel⟩

theorem witness_ClocksAndSensors :
    (let s : State := die; (s.alive = true)) ∧
    (let s : State := die; let h : Half := .east; let m : Fin 20 := 19; let mv : Nat := 50; (s.clocksOff = false) ∧
       (s.alive = true) ∧ (m.val / 10 = halfNo h) ∧ (20 ≤ mv) ∧ (mv ≤ 50)) ∧
    (let s : State := die; let h : Half := .east; let m : Fin 20 := 19; let mv : Nat := 51; (s.clocksOff = false) ∧
       (s.alive = true) ∧ (m.val / 10 = halfNo h) ∧ (50 < mv)) ∧
    (let s : State := die; let h : Half := .east; let m : Fin 20 := 0; let mv : Nat := 50; (s.clocksOff = false) ∧
       (s.alive = true) ∧ (m.val / 10 ≠ halfNo h ∨ mv < 20)) ∧
    (let s : State := die; (s.clocksOff = false) ∧ (s.alive = true)) ∧
    (let s : State := flds [(F.pwrHalfGliding 1, 1), (F.pwrHalfTarget 1, 3)] die; let h : Half := .east;
     let cur := s.fld (F.pwrHalfFcode (halfNo h)); let to_ := s.fld (F.pwrHalfTarget (halfNo h));
     (s.clocksOff = false) ∧ (s.bit (F.pwrHalfGliding (halfNo h)) = true) ∧
       (s.bit (F.pwrHalfLocked (halfNo h)) = true) ∧ (cur < 64) ∧ (to_ < 64)) ∧
    (let s : State := die; let h : Half := .east; (s.bit (F.pwrHalfGliding (halfNo h)) = false)) ∧
    (let s : State := die; let h : Half := .east; ((s.rail (halfNo h)).requests = [])) ∧
    (let s : State := die.setRail 1 { mv := 700, requests := [0, 710] }; let h : Half := .east; let k : Nat := 0;
     let later := [710]; ((s.rail (halfNo h)).requests = k :: later) ∧ ((k = 0 ∨ s.controls = false))) ∧
    (let s : State := die; (s.alive = true)) ∧
    (let s : State := sess (die);
     let p : Packet := (pk 1794 (leBytes 2 1 ++ leBytes 2 0 ++ leBytes 4 0x01000003 ++ leBytes 4 5));
     let n := packetPar p 0 2;
     let items := (List.range n).map fun k => (packetPar p (4 + 8 * k) 4, packetPar p (8 + 8 * k) 4);
     let next := items.foldl (fun m e => if e.2 = 0 then tdel m e.1 else tins m e.1 e.2) s.calItems;
     (s.Takes 0x0702 p) ∧ (1 ≤ n) ∧ (n ≤ 255) ∧ (4 + 8 * n ≤ p.params.length) ∧ (itemsReason items [] = 0) ∧
       (next.length ≤ 1024)) ∧
    (let s : State := sess (die);
     let p : Packet := (pk 1794 (leBytes 2 1 ++ leBytes 2 0 ++ leBytes 4 0xFF000000 ++ leBytes 4 5));
     let n := packetPar p 0 2;
     let items := (List.range n).map fun k => (packetPar p (4 + 8 * k) 4, packetPar p (8 + 8 * k) 4);
     (s.Takes 0x0702 p) ∧ (1 ≤ n) ∧ (n ≤ 255) ∧ (4 + 8 * n ≤ p.params.length) ∧ (itemsReason items [] ≠ 0)) ∧
    (let s : State := sess (flds [(F.calStatusApplied, 1)] { die with calItems := [(0x01000003, 4)], calActive := [(0x01000003, 4)] });
     let p : Packet := (pk 1795 ([])); (s.Takes 0x0703 p)) :=
  ⟨by decide +kernel,
    by decide +kernel,
    by decide +kernel,
    by decide +kernel,
    by decide +kernel,
    by decide +kernel,
    by decide +kernel,
    by decide +kernel,
    by decide +kernel,
    by decide +kernel,
    ⟨takes_of (by decide +kernel), by decide +kernel, by decide +kernel, by decide +kernel, by decide +kernel,
      by decide +kernel⟩,
    ⟨takes_of (by decide +kernel), by decide +kernel, by decide +kernel, by decide +kernel, by decide +kernel⟩,
    takes_of (by decide +kernel)⟩

theorem witness_PowerIsAccountedAndCapped :
    (let s : State := { die with pctl := { die.pctl with rest := List.replicate 7 0 } };
     let js : List Nat := [1, 2, 3, 4, 5, 6, 7]; (s.alive = true) ∧ (js.length = 7) ∧ (s.pctl.rest.length = 7) ∧
       ((∀ k, k < 7 → toSigned 16 (s.fld (F.calEnergyScale k)) = 0))) ∧
    (let s : State := flds [(F.telEnergy, 100)] { die with pctl := { die.pctl with charged := 58 } };
     let a : Fin 256 := 5; let q : CtxNo := 9; let uj : Nat := 30; let rest : Nat := 12;
     let due := s.fld F.telEnergy - s.pctl.charged; let ty := s.fld (F.queCfgType q.val);
     let fits := ty = qtUnused ∨ ((ty = qtWork ∨ ty = qtDma) ∧ s.fld (F.queCfgAccount q.val) = a.val);
     (s.alive = true) ∧ (fits) ∧ (uj + rest = due)) ∧
    (let s : State := flds [(F.telEnergy, 100), (F.queCfgType 9, qtWork), (F.queCfgAccount 9, 6)] { die with pctl := { die.pctl with charged := 58 } };
     let a : Fin 256 := 5; let q : CtxNo := 9; let uj : Nat := 30; let rest : Nat := 12;
     let due := s.fld F.telEnergy - s.pctl.charged; let ty := s.fld (F.queCfgType q.val);
     let fits := ty = qtUnused ∨ ((ty = qtWork ∨ ty = qtDma) ∧ s.fld (F.queCfgAccount q.val) = a.val);
     (s.alive = true) ∧ (¬ fits ∨ due + 1 < uj + rest)) ∧
    (let s : State := flds [(F.pwrHalfFusedMax 0, 60), (F.pwrLimit 0, 850000), (F.pwrLimit 1, 850000)] { die with time := 200000, pctl := { die.pctl with fastNw := 850001 * 1000000, slowNw := 0 * 1000000, capFast := 50, capSlow := 40 } };
     let top := s.fld (F.pwrHalfFusedMax 0); (s.controls = true) ∧ (top < 64) ∧ (s.fld (F.pwrLimit 1) < s.fastMw)) ∧
    (let s : State := flds [(F.pwrHalfFusedMax 0, 60), (F.pwrLimit 0, 850000), (F.pwrLimit 1, 850000)] { die with time := 200000, pctl := { die.pctl with fastNw := 807499 * 1000000, slowNw := 0 * 1000000, capFast := 50, capSlow := 40 } };
     let top := s.fld (F.pwrHalfFusedMax 0); let capF := min s.pctl.capFast top; (s.controls = true) ∧ (top < 64) ∧
       (s.fastMw * 100 < s.fld (F.pwrLimit 1) * 95) ∧ (capF < top) ∧ (s.lastRaise 0 + 100 ≤ s.time)) ∧
    (let s : State := flds [(F.pwrHalfFusedMax 0, 60), (F.pwrLimit 0, 850000), (F.pwrLimit 1, 850000)] { die with time := 200000, pctl := { die.pctl with fastNw := 0 * 1000000, slowNw := 850001 * 1000000, capFast := 50, capSlow := 40 } };
     let top := s.fld (F.pwrHalfFusedMax 0); (s.controls = true) ∧ (top < 64) ∧ (s.slowLimit < s.slowMw)) ∧
    (let s : State := flds [(F.pwrHalfFusedMax 0, 60), (F.pwrLimit 0, 850000), (F.pwrLimit 1, 850000)] { die with time := 200000, pctl := { die.pctl with fastNw := 0 * 1000000, slowNw := 807499 * 1000000, capFast := 50, capSlow := 40 } };
     let top := s.fld (F.pwrHalfFusedMax 0); let capS := min s.pctl.capSlow top; (s.controls = true) ∧ (top < 64) ∧
       (s.slowMw * 100 < s.slowLimit * 95) ∧ (capS < top) ∧ (s.lastRaise 1 + 10000 ≤ s.time)) ∧
    (let s : State := flds [(F.telTempValid 63, 1), (F.telTempTemp 63, 1681), (F.pwrCapThermal 1, 0)] die;
     let top := s.fld (F.pwrHalfFusedMax 0); let h := 1; let k := 63;
     let d := toSigned 16 (s.fld (F.telTempTemp k)); (s.controls = true) ∧ (top < 64) ∧ (h < 2) ∧
       (s.hottest (halfSensors h) = some k) ∧ (tsorted s.pctl.coolSince = true) ∧ (s.fld (F.pwrCapThermal h) < 64) ∧
       (1680 < d)) ∧
    (let s : State := flds [(F.telTempValid 63, 1), (F.telTempTemp 63, 1648)] die;
     let top := s.fld (F.pwrHalfFusedMax 0); let h := 1; let k := 63;
     let d := toSigned 16 (s.fld (F.telTempTemp k)); (s.controls = true) ∧ (top < 64) ∧ (h < 2) ∧
       (s.hottest (halfSensors h) = some k) ∧ (tsorted s.pctl.coolSince = true) ∧ (s.fld (F.pwrCapThermal h) < 64) ∧
       (1648 ≤ d) ∧ (d ≤ 1680)) ∧
    (let s : State := flds [(F.evgBootReady, 0)] die; let i := Instr.powerFastEval; (s.controls = false) ∧
       (i ∈ [Instr.powerFastEval, .powerSlowEval, .thermalEval])) :=
  ⟨by decide +kernel, by decide +kernel, by decide +kernel, by decide +kernel, by decide +kernel,
    by decide +kernel, by decide +kernel, by decide +kernel, by decide +kernel, by decide +kernel⟩

theorem witness_PaceAndBudgetMessages :
    (let s : State := Tests.link 0 lkActive die; let k := 11; let i := 0; let die := s.dieNo / 16 * 16 + k;
     (s.controls = true) ∧ (k ∈ s.mates) ∧ (s.sleepingMate die = false) ∧ (s.linkToDie (die % 2 ^ 17) = some i) ∧
       (s.below3 i = false)) ∧
    (let s : State := flds [(F.pwrBudgetLiveDemandW, 500), (F.pwrBudgetTotalW, 0xFFFF)] die;
     let live := s.liveDemands; let total := s.fld F.pwrBudgetTotalW; let d := 500; (s.controls = true) ∧
       ((live.find? fun x => x.1 == s.fld F.evgPlacementPosition) = some (s.fld F.evgPlacementPosition, d)) ∧
       (total = 0xFFFF)) ∧
    (let s : State := flds [(F.pwrBudgetLiveDemandW, 500), (F.pwrBudgetTotalW, 700)] { die with pctl := { die.pctl with demands := [{ pos := 3, watts := 200, total := 0xFFFF, sleeping := false, time := 0 }] } };
     let live := s.liveDemands; let sum := (live.map Prod.snd).sum; let total := s.fld F.pwrBudgetTotalW;
     let d := 500; (s.controls = true) ∧
       ((live.find? fun x => x.1 == s.fld F.evgPlacementPosition) = some (s.fld F.evgPlacementPosition, d)) ∧
       (total ≠ 0xFFFF) ∧ (sum ≤ total)) ∧
    (let s : State := flds [(F.pwrBudgetLiveDemandW, 500), (F.pwrBudgetTotalW, 699)] { die with pctl := { die.pctl with demands := [{ pos := 3, watts := 200, total := 0xFFFF, sleeping := false, time := 0 }] } };
     let live := s.liveDemands; let sum := (live.map Prod.snd).sum; let total := s.fld F.pwrBudgetTotalW;
     let d := 500; (s.controls = true) ∧
       ((live.find? fun x => x.1 == s.fld F.evgPlacementPosition) = some (s.fld F.evgPlacementPosition, d)) ∧
       (total ≠ 0xFFFF) ∧ (total < sum)) ∧
    (let s : State := { (flds [(F.bndCfgPace 5, 1), (F.bndUp 5, 3 * 2 ^ 47), (F.pwrPaceOrigin, 1)] (binder [] (Tests.link 0 lkActive die))) with time := 60000, pctl := { die.pctl with paceDue := some true } };
     let d := 3; let i := 0; (s.controls = true) ∧ (d ∈ s.pacePartners) ∧ (s.sleepingMate d = false) ∧
       (s.linkToDie (d % 2 ^ 17) = some i) ∧ (s.below3 i = false) ∧ (s.pctl.paceDue = some true)) ∧
    (let s : State := { (flds [(F.bndCfgPace 5, 1), (F.bndUp 5, 3 * 2 ^ 47), (F.pwrPaceOrigin, 1)] (binder [] (Tests.link 0 lkActive die))) with time := 60000, pctl := { die.pctl with paceDue := some false } };
     let d := 3; let i := 0; (s.controls = true) ∧ (d ∈ s.pacePartners) ∧ (s.sleepingMate d = false) ∧
       (s.linkToDie (d % 2 ^ 17) = some i) ∧ (s.below3 i = false) ∧ (s.pctl.paceDue = some false) ∧
       (s.bit F.pwrPaceOrigin = true) ∧ ((∀ x, s.pctl.lowerAt = some x → x + 100 ≤ s.time))) ∧
    (let s : State := { (Tests.link 0 lkActive die) with time := 60000, pctl := { die.pctl with paceDue := none } };
     (s.controls = true) ∧ (s.pctl.paceDue = none) ∧
       ((s.bit F.pwrPaceOrigin = false ∨ s.time < s.pctl.paceAt + 10000))) ∧
    (let s : State := { (Tests.link 0 lkActive die) with time := 60000, pctl := { die.pctl with pace := [{ origin := 3, code := 7, seq := 3, time := 5 }, { origin := 4, code := 3, seq := 1, time := 10000 }] } };
     (s.controls = true)) ∧
    (let s : State := flds [(F.evgBootReady, 0)] die; let i := Instr.demandSend; (s.controls = false) ∧
       (i ∈ [Instr.demandSend, .budgetCompute, .paceSend, .paceTableAge])) ∧
    (let s : State := Tests.link 23 lkActive die; let l : LinkNo := 23;
     let m : Vc5Msg := vcMsg (2 + 9 * 65536) 0 (11) (3 + 0xFFFF * 65536); let src := m.src.toNat % 2 ^ 17;
     (s.linkOpen l.val = true) ∧ (vcKind m = 2) ∧ (src / 16 = s.dieNo / 16) ∧ (src % 16 ≤ 11) ∧ (src ≠ s.dieNo)) ∧
    (let s : State := Tests.link 23 lkActive die; let l : LinkNo := 23;
     let m : Vc5Msg := vcMsg (2 + 9 * 65536) 0 (0) (0); let src := m.src.toNat % 2 ^ 17; (s.linkOpen l.val = true) ∧
       (vcKind m = 2) ∧ ((src / 16 ≠ s.dieNo / 16 ∨ 11 < src % 16 ∨ src = s.dieNo))) ∧
    (let s : State := Tests.link 23 lkActive die; let l : LinkNo := 23;
     let m : Vc5Msg := vcMsg (3 + 9 * 65536) 0 (0) (70); let seq := m.head.toNat / 2 ^ 16 % 2 ^ 16;
     (s.linkOpen l.val = true) ∧ (vcKind m = 3) ∧ ((∀ q, s.pctl.totalSeq = some q → notAfter16 seq q = false))) ∧
    (let s : State := { (Tests.link 23 lkActive die) with pctl := { die.pctl with totalSeq := some 9 } };
     let l : LinkNo := 23; let m : Vc5Msg := vcMsg (3 + 9 * 65536) 0 (0) (70);
     let seq := m.head.toNat / 2 ^ 16 % 2 ^ 16; let q := 9; (s.linkOpen l.val = true) ∧ (vcKind m = 3) ∧
       (s.pctl.totalSeq = some q) ∧ (notAfter16 seq q = true)) ∧
    (let s : State := { (Tests.link 23 lkActive die) with pctl := { die.pctl with pace := [{ origin := 3, code := 7, seq := 3, time := 5 }] } };
     let l : LinkNo := 23; let m : Vc5Msg := vcMsg (1 + 9 * 65536) 0 (3) (0x3F * 2 ^ 17);
     let src := m.src.toNat % 2 ^ 17; let seq := m.head.toNat / 2 ^ 16 % 2 ^ 16;
     let code := m.body.toNat / 2 ^ 17 % 2 ^ 6; let e : PaceEnt := { origin := src, code, seq, time := s.time };
     (s.linkOpen l.val = true) ∧ (vcKind m = 1) ∧ (src ≠ s.dieNo) ∧
       ((∀ e ∈ s.pctl.pace ++ s.pctl.released, e.origin = src → notAfter16 seq e.seq = false)) ∧ (code = 0x3F)) ∧
    (let s : State := Tests.link 23 lkActive die; let l : LinkNo := 23;
     let m : Vc5Msg := vcMsg (1 + 9 * 65536) 0 (2 ^ 17 - 1) (0x3E * 2 ^ 17); let src := m.src.toNat % 2 ^ 17;
     let seq := m.head.toNat / 2 ^ 16 % 2 ^ 16; let code := m.body.toNat / 2 ^ 17 % 2 ^ 6;
     let e : PaceEnt := { origin := src, code, seq, time := s.time }; (s.linkOpen l.val = true) ∧ (vcKind m = 1) ∧
       (src ≠ s.dieNo) ∧ ((∀ e ∈ s.pctl.pace ++ s.pctl.released, e.origin = src → notAfter16 seq e.seq = false)) ∧
       (code ≠ 0x3F) ∧ ((s.pctl.pace.length < 32 ∨ ∃ x ∈ s.pctl.pace, x.origin = src))) ∧
    (let s : State := Tests.link 23 lkActive die; let l : LinkNo := 23;
     let m : Vc5Msg := vcMsg (1 + 9 * 65536) 0 (0) (0); let src := m.src.toNat % 2 ^ 17;
     let seq := m.head.toNat / 2 ^ 16 % 2 ^ 16; (s.linkOpen l.val = true) ∧ (vcKind m = 1) ∧
       (src = s.dieNo ∨ (∃ e ∈ s.pctl.pace ++ s.pctl.released, e.origin = src ∧ notAfter16 seq e.seq = true))) ∧
    (let s : State := Tests.link 23 lkActive die; let l : LinkNo := 23;
     let m : Vc5Msg := vcMsg (0 + 9 * 65536) 0 (3) (0); (s.linkOpen l.val = true) ∧ (vcKind m = 0 ∨ 3 < vcKind m)) :=
  ⟨by decide +kernel, by decide +kernel, by decide +kernel, by decide +kernel, by decide +kernel,
    by decide +kernel, by decide +kernel, by decide +kernel, by decide +kernel, by decide +kernel, by decide +kernel,
    by decide +kernel, by decide +kernel, by decide +kernel, by decide +kernel, by decide +kernel, by decide +kernel⟩

theorem witness_RegistersAreAccessed :
    (let s : State := die; let l : CoreNo := 95; let c : Nat := 95; let v : Word := 1; (s.bops = []) ∧
       (s.phys l.val = some c) ∧ (c < 96) ∧ (s.fencedCore c = false) ∧ (s.fld F.pwrDieStatusState = 0) ∧
       (s.power c = pwLeaf) ∧ (s.fld (F.mxeSrCtlFixed c) < 2) ∧ (s.fld (F.vxeSrCtlFixed c) < 2) ∧
       (v.toNat % 2 = 1) ∧ (s.coreState c = csIdle)) ∧
    (let s : State := die; let l : CoreNo := 95; let c : Nat := 95; let v : Word := 2; (s.bops = []) ∧
       (s.phys l.val = some c) ∧ (c < 96) ∧ (s.fencedCore c = false) ∧ (s.fld F.pwrDieStatusState = 0) ∧
       (s.power c = pwLeaf) ∧ (s.fld (F.mxeSrCtlFixed c) < 2) ∧ (s.fld (F.vxeSrCtlFixed c) < 2) ∧ (v.toNat % 2 = 0)) ∧
    (let s : State := die; let l : CoreNo := 95; let c : Nat := 95; (s.bops = []) ∧ (s.phys l.val = some c) ∧
       (c < 96) ∧ (s.fencedCore c = false) ∧ (s.fld F.pwrDieStatusState = 0) ∧ (s.power c = pwLeaf) ∧
       (s.fld (F.mxeSrCtlFixed c) < 2) ∧ (s.fld (F.vxeSrCtlFixed c) < 2)) ∧
    (let s : State := die; let l : CoreNo := 95; let c : Nat := 95; (s.bops = []) ∧ (s.phys l.val = some c) ∧
       (c < 96) ∧ (s.fencedCore c = false) ∧ (s.fld F.pwrDieStatusState = 0) ∧ (s.power c = pwLeaf) ∧
       (s.fld (F.mxeSrCtlFixed c) < 2) ∧ (s.fld (F.vxeSrCtlFixed c) < 2)) ∧
    (let s : State := core 95 (fun c => { c with guardRecs := c.guardRecs }) die; let l : CoreNo := 95;
     let c : Nat := 95; let v : Word := 1; (s.bops = []) ∧ (s.phys l.val = some c) ∧ (c < 96) ∧
       (s.fencedCore c = false) ∧ (s.fld F.pwrDieStatusState = 0) ∧ (s.power c = pwLeaf) ∧
       (s.fld (F.mxeSrCtlFixed c) < 2) ∧ (s.fld (F.vxeSrCtlFixed c) < 2) ∧ (v.toNat % 2 = 1)) ∧
    (let s : State := die; let i : LinkNo := 23; let offset : BitVec 24 := 0x20000; let n : Nat := 4;
     let v : Word := 1; let x := Instr.rcCounterRead (.link 23) 0x20000; (s.bops = []) ∧
       (x ∈ [Instr.rcCounterRead (.link i) offset, .counterLoRead (.link i) offset, .registerWrite (.link i) offset n v])) ∧
    (let s : State := die; let n : Nat := 3; (s.bops = []) ∧ (n ≠ 4)) ∧
    (let s : State := flds [(F.telVmonMin 0, 700)] die; let h := 0; (s.bops = []) ∧ (h < 24) ∧
       (s.fld F.pwrDieStatusState < 2)) ∧
    (let s : State := flds [(F.telEnergy, 5 * 2 ^ 32 + 7)] die; (s.bops = [])) ∧
    (let s : State := die; (s.bops = [])) ∧
    (let s : State := die; let v : Word := 10; (s.bops = []) ∧ (10 ≤ v.toNat % 2 ^ 16) ∧
       (v.toNat % 2 ^ 16 ≤ 10000)) ∧
    (let s : State := die; let v : Word := 9; (s.bops = []) ∧ (v.toNat % 2 ^ 16 < 10)) ∧
    (let s : State := die; (s.bops = []) ∧ (s.pwrgd = true)) ∧
    (let s : State := die; let ir : Byte := 0xFF; (s.bops = []) ∧ (s.pwrgd = true) ∧ (ir ≠ 1) ∧ (ir ≠ 0x11) ∧
       ((s.testMode = false ∨ (ir.toNat < 2 ∨ 5 < ir.toNat ∧ ir ≠ 0x10)))) ∧
    (let s : State := flds [(F.evgBootTestMode, 1)] die; (s.bops = []) ∧ (s.pwrgd = true) ∧ (s.testMode = true)) :=
  ⟨by decide +kernel, by decide +kernel, by decide +kernel, by decide +kernel, by decide +kernel,
    by decide +kernel, by decide +kernel, by decide +kernel, by decide +kernel, by decide +kernel, by decide +kernel,
    by decide +kernel, by decide +kernel, by decide +kernel, by decide +kernel⟩

theorem witness_FlitsArrive :
    (let link : LinkNo := 23; let f : Flit := { fl 0 1 1 [] with slots := [] };
     let c := Instr.dataFlit 23 { fl 0 1 1 [] with slots := [] }; (f.wf = false) ∧
       (c ∈ [Instr.dataFlit link f, .idleFlit link f, .retry link f])) ∧
    (let s : State := Tests.link 23 lkActive die; let link : LinkNo := 23;
     let f : Flit := { fl 0 1 1 [] with crc := 5 }; let i := link.val; let ok := flitCrc f = f.crc.toNat;
     let c := (0, Instr.dataFlit 23 { fl 0 1 1 [] with crc := 5 }); (s.linkOpen i = true) ∧ (f.wf = true) ∧
       (c ∈ [(0, Instr.dataFlit link f), (1, .idleFlit link f), (2, .retry link f)]) ∧ (¬ ok)) ∧
    (let s : State := Tests.link 23 lkActive die; let link : LinkNo := 23; let f : Flit := (fl 3 1 1 []);
     let i := link.val; let ok := flitCrc f = f.crc.toNat; let same := f.epoch.toNat = s.fld (F.lnkEpoch i) % 16;
     let c := (0, Instr.dataFlit 23 (fl 3 1 1 [])); (s.linkOpen i = true) ∧ (f.wf = true) ∧
       (c ∈ [(0, Instr.dataFlit link f), (1, .idleFlit link f), (2, .retry link f)]) ∧ (ok) ∧
       (f.kind.toNat ≠ c.1 ∨ ¬ same)) ∧
    (let s : State := Tests.link 23 lkActive die; let link : LinkNo := 23; let f : Flit := (fl 0 1 1 [2, 0, 0, 1]);
     let i := link.val; let l := s.link i; let ok := flitCrc f = f.crc.toNat;
     let same := f.epoch.toNat = s.fld (F.lnkEpoch i) % 16; let vc := f.vc.toNat;
     let b := ((tfind l.rxPart vc).getD []) ++ (f.slots.flatMap fun x => x).take (16 * f.used.toNat);
     let n := 16 + (leAt b 2 2 + 15) / 16 * 16; (s.linkOpen i = true) ∧ (f.wf = true) ∧ (ok) ∧ (same) ∧
       (f.kind = 0) ∧ (s.linkState i = lkActive) ∧ (s.fld F.pwrDieStatusState ≠ 1) ∧ (s.bops = []) ∧
       (f.seq.toNat = l.rxSeq) ∧ (vc < 4) ∧ (b.length < 16 ∨ b.length < n)) ∧
    (let s : State := Tests.link 23 lkActive die; let link : LinkNo := 23;
     let f : Flit := (fl 0 1 1 (leBytes 1 3 ++ [0] ++ leBytes 2 0 ++ leBytes 4 77 ++ leBytes 8 (4 * 2 ^ 44 + 64)));
     let i := link.val; let l := s.link i; let ok := flitCrc f = f.crc.toNat;
     let same := f.epoch.toNat = s.fld (F.lnkEpoch i) % 16; let vc := f.vc.toNat;
     let b := ((tfind l.rxPart vc).getD []) ++ (f.slots.flatMap fun x => x).take (16 * f.used.toNat);
     let n := 16 + (leAt b 2 2 + 15) / 16 * 16; (s.linkOpen i = true) ∧ (f.wf = true) ∧ (ok) ∧ (same) ∧
       (f.kind = 0) ∧ (s.linkState i = lkActive) ∧ (s.fld F.pwrDieStatusState ≠ 1) ∧ (s.bops = []) ∧
       (f.seq.toNat = l.rxSeq) ∧ (vc = 1) ∧ (b.length = n) ∧ (leAt b 0 1 = 3) ∧ (s.linkUp i = true) ∧
       (addrSpace (linkPacketOf b).address.toNat = 4)) ∧
    (let s : State := Tests.link 23 lkActive die; let link : LinkNo := 23; let f : Flit := (fl 0 5 1 []);
     let i := link.val; let l := s.link i; let ok := flitCrc f = f.crc.toNat;
     let same := f.epoch.toNat = s.fld (F.lnkEpoch i) % 16; let vc := f.vc.toNat; (s.linkOpen i = true) ∧
       (f.wf = true) ∧ (ok) ∧ (same) ∧ (f.kind = 0) ∧ (s.linkState i = lkActive) ∧ (s.fld F.pwrDieStatusState ≠ 1) ∧
       (s.bops = []) ∧ (f.seq.toNat = l.rxSeq) ∧ (4 < vc)) ∧
    (let s : State := lnk 23 (fun l => { l with rxSeq := 4095 }) (Tests.link 23 lkActive die);
     let link : LinkNo := 23; let f : Flit := (fl 1 0 0 []); let i := link.val; let l := s.link i;
     let ok := flitCrc f = f.crc.toNat; let same := f.epoch.toNat = s.fld (F.lnkEpoch i) % 16;
     (s.linkOpen i = true) ∧ (f.wf = true) ∧ (ok) ∧ (same) ∧ ((f.kind = 0 ∧ f.seq.toNat ≠ l.rxSeq) ∨ f.kind = 1)) ∧
    (let s : State := lnk 23 (fun l => { l with replay := [fl 0 1 3 [], { fl 0 1 3 [] with seq := 1 }] }) (Tests.link 23 lkActive die);
     let link : LinkNo := 23; let f : Flit := (fl 2 0 0 []); let i := link.val; let l := s.link i;
     let ok := flitCrc f = f.crc.toNat; let same := f.epoch.toNat = s.fld (F.lnkEpoch i) % 16;
     let kept := afterSeq l.replay f.ack.toNat;
     let times := (l.retryTimes.filter fun x => decide (s.time < x + 1000)).length + 1;
     let tries := if kept.length < l.replay.length then 0 else l.resends; (s.linkOpen i = true) ∧ (f.wf = true) ∧
       (ok) ∧ (same) ∧ (f.kind = 2) ∧ (times < 256) ∧ (kept ≠ []) ∧ (tries < 8)) ∧
    (let s : State := lnk 23 (fun l => { l with retryTimes := List.replicate 255 0 }) (Tests.link 23 lkActive die);
     let link : LinkNo := 23; let f : Flit := (fl 2 0 0 []); let i := link.val; let l := s.link i;
     let ok := flitCrc f = f.crc.toNat; let same := f.epoch.toNat = s.fld (F.lnkEpoch i) % 16;
     let times := (l.retryTimes.filter fun x => decide (s.time < x + 1000)).length + 1; (s.linkOpen i = true) ∧
       (f.wf = true) ∧ (ok) ∧ (same) ∧ (f.kind = 2) ∧ (256 ≤ times)) ∧
    (let s : State := lnk 23 (fun l => { l with replay := [{ fl 0 1 3 [] with seq := 1 }], resends := 8 }) (Tests.link 23 lkActive die);
     let link : LinkNo := 23; let f : Flit := (fl 2 0 0 []); let i := link.val; let l := s.link i;
     let ok := flitCrc f = f.crc.toNat; let same := f.epoch.toNat = s.fld (F.lnkEpoch i) % 16;
     let kept := afterSeq l.replay f.ack.toNat;
     let times := (l.retryTimes.filter fun x => decide (s.time < x + 1000)).length + 1;
     let tries := if kept.length < l.replay.length then 0 else l.resends; (s.linkOpen i = true) ∧ (f.wf = true) ∧
       (ok) ∧ (same) ∧ (f.kind = 2) ∧ (times < 256) ∧ (kept ≠ []) ∧ (8 ≤ tries)) ∧
    (let s : State := Tests.link 23 lkActive die; let link : LinkNo := 23; let i := link.val;
     (s.linkOpen i = true)) ∧
    (let s : State := die; let link : LinkNo := 23; let i := link.val; (s.linkOpen i = false)) :=
  ⟨by decide +kernel, by decide +kernel, by decide +kernel, by decide +kernel, by decide +kernel,
    by decide +kernel, by decide +kernel, by decide +kernel, by decide +kernel, by decide +kernel, by decide +kernel,
    by decide +kernel⟩

theorem witness_FlitsAreSent :
    (let s : State := Tests.link 23 lkActive die; let link : LinkNo := 23; let i := link.val; let l := s.link i;
     let quiet := l.resend = [] ∧ l.bout = [] ∧ l.vc5out = []; (s.linkOpen i = true) ∧ (quiet) ∧
       (l.retryPending = false) ∧ (l.ctlDue = []) ∧ (l.txq = []) ∧ (l.txPart = [])) ∧
    (let s : State := lnk 23 (fun l => { l with retryPending := true }) (Tests.link 23 lkActive die);
     let link : LinkNo := 23; let i := link.val; let l := s.link i;
     let quiet := l.resend = [] ∧ l.bout = [] ∧ l.vc5out = [];
     let later := l.first = false ∨ .configEcho ∉ l.ctlDue; (s.linkOpen i = true) ∧ (quiet) ∧
       (l.retryPending = true) ∧ (later)) ∧
    (let s : State := lnk 23 (fun l => { l with replay := [{ fl 0 1 3 [] with seq := 1 }], resend := [{ fl 0 1 3 [] with seq := 1 }] }) (Tests.link 23 lkActive die);
     let link : LinkNo := 23; let i := link.val; let l := s.link i;
     let later := l.first = false ∨ .configEcho ∉ l.ctlDue; let g := { fl 0 1 3 [] with seq := 1 }; let rest := [];
     (s.linkOpen i = true) ∧ (later) ∧ (l.resend = g :: rest) ∧ ((∃ x ∈ l.replay, x.seq = g.seq))) ∧
    (let s : State := lnk 23 (fun l => { l with ctlDue := [.configEcho] }) (Tests.link 23 lkActive die);
     let link : LinkNo := 23; let i := link.val; let l := s.link i;
     let quiet := l.resend = [] ∧ l.bout = [] ∧ l.vc5out = []; let rest := []; (s.linkOpen i = true) ∧
       ((quiet ∧ l.retryPending = false) ∨ l.first = true) ∧ (l.ctlDue = .configEcho :: rest)) ∧
    (let s : State := flds [(F.lnkCreditHeld 23 2, 1), (F.lnkStatusWidth 23, 64)] (lnk 23 (fun l => { l with txq := [(2, .status 7 1)] }) (Tests.link 23 lkActive die));
     let link : LinkNo := 23; let i := link.val; let l := s.link i;
     let quiet := l.resend = [] ∧ l.bout = [] ∧ l.vc5out = []; let tag : Nat := 7; let code : Nat := 1;
     (s.linkOpen i = true) ∧ (quiet) ∧ (l.retryPending = false) ∧ (l.ctlDue = []) ∧ (l.txPart = []) ∧
       (l.txq = [(2, .status tag code)]) ∧ (s.linkState i = lkActive) ∧ (l.replay.length < s.window i) ∧
       (s.canSend i 2 1 = true)) ∧
    (let s : State := lnk 23 (fun l => { l with txq := [(2, .status 7 1)] }) (Tests.link 23 lkTrickle die);
     let link : LinkNo := 23; let i := link.val; let l := s.link i; (s.linkState i = lkTrickle) ∧
       (l.hasTraffic = true)) ∧
    (let s : State := die; let link : LinkNo := 23; let i := link.val;
     (s.linkState i < lkActive ∨ lkBerTest ≤ s.linkState i)) :=
  ⟨by decide +kernel, by decide +kernel, by decide +kernel, by decide +kernel, by decide +kernel,
    by decide +kernel, by decide +kernel⟩

theorem witness_ControlFlits :
    (let s : State := flds [(F.lnkStatusWidth 23, 64), (F.lnkUsed 23, 2 ^ 64 - 1), (F.lnkCtlCheckEn 23, 1), (F.lnkStatusMaster 23, 0)] (Tests.link 23 lkActive die);
     let link : LinkNo := 23; let errs : List Nat := [1, 0, 2]; let i := link.val; let l := s.link i;
     let lanes := bitsOf (laneCount i) (s.fld (F.lnkUsed i)); (s.linkOpen i = true) ∧
       ((∀ j, j < laneCount i → (l.laneErrTimes.filter fun x => decide (s.time < x.2 + 1000000) && x.1 == j).length + ((lanes.zip errs).filterMap fun x => if x.1 = j then some x.2 else none).sum < 4))) ∧
    (let s : State := flds [(F.lnkStatusWidth 23, 64), (F.lnkUsed 23, 2 ^ 64 - 1), (F.lnkCtlCheckEn 23, 1), (F.lnkStatusMaster 23, 0)] (Tests.link 23 lkActive die);
     let link : LinkNo := 23; let i := link.val; let l := s.link i; (s.linkOpen i = true) ∧
       (s.bit (F.lnkCtlCheckEn i) = true) ∧ (.laneCheck ∉ l.ctlDue)) ∧
    (let s : State := flds [(F.lnkStatusWidth 23, 64), (F.lnkUsed 23, 2 ^ 64 - 1), (F.lnkCtlCheckEn 23, 0), (F.lnkStatusMaster 23, 0)] (Tests.link 23 lkActive die);
     let link : LinkNo := 23; let i := link.val; (s.linkOpen i = true) ∧ (s.bit (F.lnkCtlCheckEn i) = false)) ∧
    (let s : State := Tests.link 23 lkActive die; let link : LinkNo := 23;
     let e : Echo := ((Tests.link 23 lkActive die).ownEcho 23); let i := link.val; (s.linkOpen i = true) ∧
       (e = s.ownEcho i)) ∧
    (let s : State := flds [(F.lnkStatusWidth 23, 64), (F.lnkUsed 23, 2 ^ 64 - 1), (F.lnkCtlCheckEn 23, 1), (F.lnkStatusMaster 23, 0)] (Tests.link 23 lkActive die);
     let link : LinkNo := 23; let e : Echo := (({} : State).ownEcho 23); let i := link.val; let l := s.link i;
     let early := s.time < l.activeSince + 1000000 ∧ s.fld (F.lnkStatusAttempts i) < 2 ∧ s.bops = [];
     (s.linkOpen i = true) ∧ (e ≠ s.ownEcho i) ∧ (early)) ∧
    (let s : State := flds [(F.lnkStatusWidth 23, 64), (F.lnkUsed 23, 2 ^ 64 - 1), (F.lnkCtlCheckEn 23, 1), (F.lnkStatusMaster 23, 0)] (Tests.link 23 lkActive die);
     let link : LinkNo := 23; let i := link.val; let l := s.link i; let v := s.fld (F.lnkVersionAgreed i);
     (s.linkOpen i = true) ∧ (0x32 ≤ v) ∧ (.configEcho ∉ l.ctlDue)) ∧
    (let s : State := flds [(F.lnkVersionAgreed 23, 0x31)] (Tests.link 23 lkActive die); let link : LinkNo := 23;
     let i := link.val; let v := s.fld (F.lnkVersionAgreed i); (s.linkOpen i = true) ∧ (v < 0x32)) ∧
    (let s : State := lnk 23 (fun l => { l with echoSeen := true }) (flds [(F.lnkStatusWidth 23, 64), (F.lnkUsed 23, 2 ^ 64 - 1), (F.lnkCtlCheckEn 23, 1), (F.lnkStatusMaster 23, 0)] (Tests.link 23 lkActive die));
     let link : LinkNo := 23; let i := link.val; let l := s.link i; (s.linkOpen i = true) ∧ (l.echoSeen = true)) ∧
    (let s : State := flds [(F.lnkStatusWidth 23, 64), (F.lnkUsed 23, 2 ^ 64 - 1), (F.lnkCtlCheckEn 23, 1), (F.lnkStatusMaster 23, 0)] (Tests.link 23 lkActive die);
     let link : LinkNo := 23; let i := link.val; let l := s.link i;
     let early := s.time < l.activeSince + 1000000 ∧ s.fld (F.lnkStatusAttempts i) < 2 ∧ s.bops = [];
     (s.linkOpen i = true) ∧ (l.echoSeen = false) ∧ (early)) ∧
    (let s : State := flds [(F.lnkStatusWidth 23, 64), (F.lnkUsed 23, 2 ^ 64 - 1), (F.lnkCtlCheckEn 23, 1), (F.lnkStatusMaster 23, 1)] (Tests.link 23 lkActive die);
     let link : LinkNo := 23; let i := link.val; let v := s.fld (F.lnkVersionAgreed i); (s.linkOpen i = true) ∧
       (s.bit (F.lnkStatusMaster i) = true ∨ v < 0x31)) ∧
    (let s : State := flds [(F.lnkStatusWidth 23, 64), (F.lnkUsed 23, 2 ^ 64 - 1), (F.lnkCtlCheckEn 23, 1), (F.lnkStatusMaster 23, 0)] (Tests.link 23 lkActive die);
     let link : LinkNo := 23; let used : DWord := 0x0FF0; let i := link.val; let v := s.fld (F.lnkVersionAgreed i);
     let m := used.toNat % 2 ^ laneCount i; (s.linkOpen i = true) ∧ (s.bit (F.lnkStatusMaster i) = false) ∧
       (0x31 ≤ v) ∧ (8 ≤ widthOf m (laneCount i))) ∧
    (let s : State := flds [(F.lnkStatusWidth 23, 64), (F.lnkUsed 23, 2 ^ 64 - 1), (F.lnkCtlCheckEn 23, 1), (F.lnkStatusMaster 23, 0)] (Tests.link 23 lkActive die);
     let link : LinkNo := 23; let used : DWord := 0xFE; let i := link.val; let v := s.fld (F.lnkVersionAgreed i);
     let m := used.toNat % 2 ^ laneCount i; (s.linkOpen i = true) ∧ (s.bit (F.lnkStatusMaster i) = false) ∧
       (0x31 ≤ v) ∧ (widthOf m (laneCount i) < 8)) ∧
    (let s : State := flds [(F.lnkStatusWidth 23, 64), (F.lnkUsed 23, 2 ^ 64 - 1), (F.lnkCtlCheckEn 23, 1), (F.lnkStatusMaster 23, 0)] (Tests.link 23 lkReconfig die);
     let link : LinkNo := 23; let i := link.val; (s.linkState i = lkReconfig) ∧ (s.bops = [])) ∧
    (let s : State := flds [(F.lnkStatusWidth 23, 64), (F.lnkUsed 23, 2 ^ 64 - 1), (F.lnkCtlCheckEn 23, 1), (F.lnkStatusMaster 23, 0)] (Tests.link 23 lkActive die);
     let link : LinkNo := 23; let i := link.val; (s.linkState i ≠ lkReconfig)) ∧
    (let s : State := flds [(F.lnkStatusWidth 23, 64), (F.lnkUsed 23, 2 ^ 64 - 1), (F.lnkCtlCheckEn 23, 1), (F.lnkStatusMaster 23, 0)] (Tests.link 23 lkActive die);
     let link : LinkNo := 23; let i := link.val; let l := s.link i; (s.linkState i = lkActive) ∧
       (l.hasTraffic = false) ∧ (.trickleAck ∉ l.ctlDue)) ∧
    (let s : State := lnk 23 (fun l => { l with txq := [(2, .status 7 1)] }) (Tests.link 23 lkActive die);
     let link : LinkNo := 23; let i := link.val; let l := s.link i; (s.linkState i = lkActive) ∧
       (l.hasTraffic = true)) ∧
    (let s : State := lnk 23 (fun l => { l with trickleSent := true }) (Tests.link 23 lkActive die);
     let link : LinkNo := 23; let i := link.val; let l := s.link i; (s.linkState i = lkActive) ∧
       (l.trickleSent = true) ∧ (s.fld F.pwrDieStatusState ≠ 1)) ∧
    (let s : State := flds [(F.lnkStatusWidth 23, 64), (F.lnkUsed 23, 2 ^ 64 - 1), (F.lnkCtlCheckEn 23, 1), (F.lnkStatusMaster 23, 0)] (Tests.link 23 lkActive die);
     let link : LinkNo := 23; let i := link.val; let l := s.link i; (s.linkState i = lkActive) ∧
       (l.trickleSent = false)) ∧
    (let s : State := Tests.link 23 lkTrickle die; let link : LinkNo := 23; let i := link.val;
     (s.linkState i = lkTrickle)) ∧
    (let s : State := flds [(F.lnkStatusWidth 23, 64), (F.lnkUsed 23, 2 ^ 64 - 1), (F.lnkCtlCheckEn 23, 1), (F.lnkStatusMaster 23, 0)] (Tests.link 23 lkActive die);
     let link : LinkNo := 23; let i := link.val; (s.linkState i ≠ lkTrickle)) :=
  ⟨by decide +kernel, by decide +kernel, by decide +kernel, by decide +kernel, by decide +kernel,
    by decide +kernel, by decide +kernel, by decide +kernel, by decide +kernel, by decide +kernel, by decide +kernel,
    by decide +kernel, by decide +kernel, by decide +kernel, by decide +kernel, by decide +kernel, by decide +kernel,
    by decide +kernel, by decide +kernel, by decide +kernel⟩

theorem witness_LinksTrain :
    (let s : State := lnk 23 (fun l => { l with listening := true }) (flds [(F.lnkGood 23, 2 ^ 64 - 1), (F.lnkStatusWidth 23, 64), (F.lnkUsed 23, 2 ^ 64 - 1)] (Tests.link 23 lkDetect die));
     let link : LinkNo := 23; let i := link.val; let l := s.link i; let x := s.linkState i; (x = lkDetect) ∧
       (l.listening = true) ∧ (s.linkExists i = true)) ∧
    (let s : State := lnk 23 (fun l => { l with txq := [(2, .status 7 1)] }) (flds [(F.lnkGood 23, 2 ^ 64 - 1), (F.lnkStatusWidth 23, 64), (F.lnkUsed 23, 2 ^ 64 - 1)] (Tests.link 23 lkActive die));
     let link : LinkNo := 23; let i := link.val; let x := s.linkState i;
     (x = lkActive ∨ x = lkReconfig ∨ x = lkWake)) ∧
    (let s : State := flds [(F.lnkGood 23, 2 ^ 64 - 1), (F.lnkStatusWidth 23, 64), (F.lnkUsed 23, 2 ^ 64 - 1)] (Tests.link 23 lkLaneTest die);
     let link : LinkNo := 23; let i := link.val; let x := s.linkState i; (x = lkLaneTest)) ∧
    (let s : State := flds [(F.lnkGood 23, 2 ^ 64 - 1), (F.lnkStatusWidth 23, 64), (F.lnkUsed 23, 2 ^ 64 - 1)] (Tests.link 23 lkEq die);
     let link : LinkNo := 23; let i := link.val; let x := s.linkState i; (x = lkEq)) ∧
    (let s : State := lnk 23 (fun l => { l with ownMask := 2 ^ 64 - 1 }) (flds [(F.lnkGood 23, 2 ^ 64 - 1), (F.lnkStatusWidth 23, 64), (F.lnkUsed 23, 2 ^ 64 - 1)] (Tests.link 23 lkWidth die));
     let link : LinkNo := 23; let mask : DWord := 2 ^ 64 - 1; let i := link.val; let l := s.link i;
     let n := laneCount i; let x := s.linkState i; let good := l.ownMask &&& (mask.toNat % 2 ^ n);
     let w := (bitsOf n good).length / 8 * 8; (x = lkWidth) ∧ (8 ≤ w)) ∧
    (let s : State := lnk 23 (fun l => { l with ownMask := 0x7F }) (flds [(F.lnkGood 23, 2 ^ 64 - 1), (F.lnkStatusWidth 23, 64), (F.lnkUsed 23, 2 ^ 64 - 1)] (Tests.link 23 lkWidth die));
     let link : LinkNo := 23; let mask : DWord := 2 ^ 64 - 1; let i := link.val; let l := s.link i;
     let n := laneCount i; let x := s.linkState i; let early := s.fld (F.lnkStatusAttempts i) < 2;
     let good := l.ownMask &&& (mask.toNat % 2 ^ n); let w := (bitsOf n good).length / 8 * 8; (x = lkWidth) ∧
       (w < 8) ∧ (early)) ∧
    (let s : State := flds [(F.lnkGood 23, 2 ^ 64 - 1), (F.lnkStatusWidth 23, 64), (F.lnkUsed 23, 2 ^ 64 - 1)] (Tests.link 23 lkLaneTest die);
     let link : LinkNo := 23; let i := link.val; let x := s.linkState i;
     let early := s.fld (F.lnkStatusAttempts i) < 2; (early) ∧ (x = lkLaneTest)) ∧
    (let s : State := flds [(F.lnkGood 23, 2 ^ 64 - 1), (F.lnkStatusWidth 23, 64), (F.lnkUsed 23, 2 ^ 64 - 1)] (Tests.link 23 lkEq die);
     let link : LinkNo := 23; let i := link.val; let x := s.linkState i;
     let early := s.fld (F.lnkStatusAttempts i) < 2; (early) ∧ (x = lkEq)) ∧
    (let s : State := flds [(F.lnkGood 23, 2 ^ 64 - 1), (F.lnkStatusWidth 23, 64), (F.lnkUsed 23, 2 ^ 64 - 1)] (Tests.link 23 lkWidth die);
     let link : LinkNo := 23; let i := link.val; let x := s.linkState i;
     let early := s.fld (F.lnkStatusAttempts i) < 2; (early) ∧ (x = lkWidth)) ∧
    (let s : State := flds [(F.lnkGood 23, 2 ^ 64 - 1), (F.lnkStatusWidth 23, 64), (F.lnkUsed 23, 2 ^ 64 - 1)] (Tests.link 23 lkConfig die);
     let link : LinkNo := 23; let i := link.val; let x := s.linkState i;
     let early := s.fld (F.lnkStatusAttempts i) < 2; (early) ∧ (x = lkConfig)) ∧
    (let s : State := flds [(F.lnkGood 23, 2 ^ 64 - 1), (F.lnkStatusWidth 23, 64), (F.lnkUsed 23, 2 ^ 64 - 1)] (Tests.link 23 lkConfig die);
     let link : LinkNo := 23;
     let c : LinkConfig := ({ minVersion := 0x20, maxVersion := 0x32, pclass := 1, die := 0, credits := [1, 2, 3, 4, 5, 6], lastSeq := none, mapCrc := 0, epoch := 0, placement := none } : LinkConfig);
     let i := link.val; let x := s.linkState i; let v := min 0x32 c.maxVersion.toNat; (x = lkConfig) ∧ (i < 24) ∧
       (s.stage ≠ 1) ∧ (max 0x20 c.minVersion.toNat ≤ v) ∧ (s.bops = [])) ∧
    (let s : State := flds [(F.lnkGood 23, 2 ^ 64 - 1), (F.lnkStatusWidth 23, 64), (F.lnkUsed 23, 2 ^ 64 - 1)] (Tests.link 23 lkConfig die);
     let link : LinkNo := 23;
     let c : LinkConfig := ({ minVersion := 0x33, maxVersion := 0x40, pclass := 1, die := 0, credits := [1, 2, 3, 4, 5, 6], lastSeq := none, mapCrc := 0, epoch := 0, placement := none } : LinkConfig);
     let i := link.val; let l := s.link i; let x := s.linkState i; let v := min 0x32 c.maxVersion.toNat;
     (x = lkConfig) ∧ (i < 24) ∧ (s.stage ≠ 1) ∧ (v < max 0x20 c.minVersion.toNat) ∧ (l.keepTraffic = false)) ∧
    (let s : State := flds [(F.lnkGood 23, 2 ^ 64 - 1), (F.lnkStatusWidth 23, 64), (F.lnkUsed 23, 2 ^ 64 - 1)] (Tests.link 23 lkTrickle die);
     let link : LinkNo := 23; let i := link.val; let x := s.linkState i; let a := Instr.rustlePattern 23;
     (x = lkTrickle) ∧ (a ∈ [Instr.rustlePattern link, .trainingSequence link])) ∧
    (let s : State := flds [(F.lnkGood 23, 2 ^ 64 - 1), (F.lnkStatusWidth 23, 64), (F.lnkUsed 23, 2 ^ 64 - 1)] (Tests.link 23 lkWake die);
     let link : LinkNo := 23; let i := link.val; let x := s.linkState i; (x = lkWake)) ∧
    (let s : State := flds [(F.lnkGood 23, 2 ^ 64 - 1), (F.lnkStatusWidth 23, 64), (F.lnkUsed 23, 2 ^ 64 - 1)] (Tests.link 23 lkActive die);
     let link : LinkNo := 23; let i := link.val; let x := s.linkState i; (x ≠ lkWake)) ∧
    (let s : State := lnk 23 (fun l => { l with txq := [(2, .status 7 1)] }) (flds [(F.lnkGood 23, 2 ^ 64 - 1), (F.lnkStatusWidth 23, 64), (F.lnkUsed 23, 2 ^ 64 - 1)] (Tests.link 23 lkWake die));
     let link : LinkNo := 23; let i := link.val; let l := s.link i; let x := s.linkState i;
     let early := s.fld (F.lnkStatusAttempts i) < 2; (x = lkWake) ∧ (early) ∧ (s.bops = []) ∧
       (s.time < l.activeSince + 1000000)) ∧
    (let s : State := flds [(F.lnkGood 23, 2 ^ 64 - 1), (F.lnkStatusWidth 23, 64), (F.lnkUsed 23, 2 ^ 64 - 1)] (Tests.link 23 lkActive die);
     let link : LinkNo := 23; let i := link.val; let l := s.link i; (s.linkUp i = true) ∧ (s.bops = []) ∧
       (s.dmaOnLink i = []) ∧ (l.bheld = []) ∧ (s.linkCounts i = false)) ∧
    (let s : State := flds [(F.lnkGood 23, 2 ^ 64 - 1), (F.lnkStatusWidth 23, 64), (F.lnkUsed 23, 2 ^ 64 - 1)] (Tests.link 23 lkFailed die);
     let link : LinkNo := 23; let i := link.val; (s.linkUp i = false)) :=
  ⟨by decide +kernel, by decide +kernel, by decide +kernel, by decide +kernel, by decide +kernel,
    by decide +kernel, by decide +kernel, by decide +kernel, by decide +kernel, by decide +kernel, by decide +kernel,
    by decide +kernel, by decide +kernel, by decide +kernel, by decide +kernel, by decide +kernel, by decide +kernel,
    by decide +kernel⟩

theorem witness_BinderReset :
    (let s : State := binder [(F.bndCount 5, 2)] die; let a : Nat := bndAddr; let o : Origin := .hedger;
     let b := a % 2 ^ 44 / 64 % 8192; (s.armed b = true) ∧ ((∀ i, o ≠ .link i)) ∧ (s.fld (F.bndStep b) < 2 ^ 32) ∧
       (s.fld (F.bndPendingUp b) = 0)) ∧
    (let s : State := binder [(F.bndPendingUp 5, 1)] die; let a : Nat := bndAddr; let o : Origin := .hedger;
     let b := a % 2 ^ 44 / 64 % 8192; (s.armed b = true) ∧ ((∀ i, o ≠ .link i)) ∧ (s.fld (F.bndStep b) < 2 ^ 32) ∧
       (s.fld (F.bndPendingUp b) ≠ 0)) ∧
    (let s : State := binder [(F.bndCount 5, 2)] die; let a : Nat := bndAddr; let o : Origin := .hedger;
     let b := a % 2 ^ 44 / 64 % 8192; let address : DWord := (BitVec.ofNat 64 bndAddr); (s.armed b = true) ∧
       ((∀ i, o ≠ .link i)) ∧ (s.fld (F.bndStep b) < 2 ^ 32) ∧ (address.toNat = a) ∧ (a % 64 = 0) ∧
       (a / 2 ^ 44 % 8 = 2) ∧ (a % 2 ^ 44 < 2 ^ 19) ∧ (a / 2 ^ 47 = s.dieNo) ∧ (a / 2 ^ 47 % 16 ≤ 11) ∧
       (s.bops = []) ∧ (o = .hedger)) :=
  ⟨⟨by decide +kernel, nofun, by decide +kernel, by decide +kernel⟩,
    ⟨by decide +kernel, nofun, by decide +kernel, by decide +kernel⟩,
    ⟨by decide +kernel, nofun, by decide +kernel, by decide +kernel, by decide +kernel, by decide +kernel,
      by decide +kernel, by decide +kernel, by decide +kernel, by decide +kernel, by decide +kernel⟩⟩

theorem witness_TrainingDuringReconfigOrWake :
    (let s : State := Tests.link 23 lkWake die; let link : LinkNo := 23; let i := link.val;
     (s.linkState i = lkReconfig ∨ s.linkState i = lkWake)) :=
  by decide +kernel

theorem witness_SyncIsOutOfSequence :
    (let s : State := sess (die); let p : Packet := (pk 2 ([])); (s.Hears p) ∧
       (({ opcode := 2, p } : Cmd).crcOk = true) ∧ (({ opcode := 2, p } : Cmd).broadcast = false) ∧
       (0x0300 ≤ p.major.toNat * 256 + p.minor.toNat)) :=
  ⟨hears_of (by decide +kernel), by decide +kernel, by decide +kernel, by decide +kernel⟩

end Sys2Proof.Tests
end

section
/-! What a warm reset makes of the dieback list (R36, R451, R453), and the refutation of O48 that rests on it: an entry
whose fuse commit the reset cuts short does not stay as it was, it is marked to be committed again. -/

namespace Sys2Proof.Machine

/-! ### Operations of a reset that leave the dieback list alone -/

theorem dieback_foldl {β : Type} {f : State → β → State} (hf : ∀ s x, (f s x).dieback = s.dieback) (l : List β)
    (s : State) : (l.foldl f s).dieback = s.dieback := by
  induction l generalizing s with
  | nil => rfl
  | cons x l ih => rw [List.foldl_cons, ih, hf]

@[simp] theorem State.logEvent_dieback (s : State) (severity kind status code unit context detail : Nat) :
    (s.logEvent severity kind status code unit context detail).dieback = s.dieback := by
  unfold State.logEvent
  extract_lets e r s'
  split <;> rfl

@[simp] theorem State.setReady_dieback (s : State) (r : Nat) : (s.setReady r).dieback = s.dieback := by
  unfold State.setReady
  split
  · rfl
  · simp

@[simp] theorem State.senseSec_dieback (s : State) : s.senseSec.dieback = s.dieback := by
  unfold State.senseSec
  refine (dieback_foldl ?_ _ _).trans ?_
  · intro s j; rfl
  · rfl

@[simp] theorem State.applyFused_dieback (s : State) : s.applyFused.dieback = s.dieback := by
  unfold State.applyFused
  extract_lets f halves limits qual offsets
  have hhalves : halves.dieback = s.dieback := by
    refine dieback_foldl ?_ _ _
    intro s h
    refine (dieback_foldl ?_ _ _).trans ?_
    · intro s k; rfl
    · rfl
  have hoffsets : offsets.dieback = qual.dieback := by
    refine dieback_foldl ?_ _ _
    intro s i; rfl
  rw [State.senseSec_dieback, hoffsets]
  simp only [qual, limits, State.setFld_dieback, hhalves]

/-! ### The warm reset -/

/-- A dieback entry after a warm reset: one whose commit was under way is to be committed again (R453). -/
def State.cutEntry (s : State) (d : Dieback) : Dieback :=
  if s.commits.contains (d.kind, d.unit, d.detail) then { d with retry := true } else d

theorem State.warm_dieback (s : State) : s.warm.dieback = s.dieback.map s.cutEntry := by
  unfold State.warm
  extract_lets was run cleared base marked tested
  have htested : tested.dieback = s.dieback.map s.cutEntry := by
    unfold tested
    split <;> rfl
  rw [State.setReady_dieback]
  split
  · rw [State.applyFused_dieback, htested]
  · exact htested

/-- R22, R36: the pulse that resets a die which is not in a cold reset, has not tripped and sees its reference. -/
theorem exec_warmReset {s : State} {ns : Nat} (hns : 100 ≤ ns) (hperst : s.perst = true) (hpwrgd : s.pwrgd = true)
    (hhold : s.hold22 ≠ some 1) (htrip : s.tripped = false) (href : s.refclk = true) :
    exec (.warmReset ns) s = .next s.warm := by
  show execWarmReset ns s = .next s.warm
  simp [execWarmReset, Nat.not_lt.mpr hns, hperst, hpwrgd, hhold, htrip, href]

/-! ### The counterexample -/

/-- A die out of reset that holds a dieback entry for core 5, found while running, and commits it to the fuse journal
(R61, R452). -/
def committingDie : State :=
  { pwrgd := true, perst := true, dieback := [{ kind := 1, source := 3, unit := 5 }], commits := [(1, 5, 0)] }

theorem committingDie_warm_dieback :
    committingDie.warm.dieback = [{ kind := 1, source := 3, unit := 5, retry := true }] := by
  rw [State.warm_dieback]
  rfl

/-- Refutes O48: its warm reset leaves the dieback list as it was, whatever commits are under way. A warm reset in the
middle of a fuse commit leaves the entry marked for another commit (R453; log 107): core 5's entry of `committingDie`
has `retry` false before a pulse of 100 ns and true after it. -/
theorem not_pinsAndResets : ¬ Obligations.PinsAndResets := by
  unfold Obligations.PinsAndResets
  intro h
  obtain ⟨-, -, -, -, -, hwarm, -⟩ := h committingDie 100 false false 0 0
  obtain ⟨t, hexec, hdieback, -⟩ := hwarm (Nat.le_refl _) rfl rfl nofun rfl rfl
  have hreset := exec_warmReset (s := committingDie) (Nat.le_refl 100) rfl rfl nofun rfl rfl
  obtain rfl : committingDie.warm = t := Host.Outcome.next.inj (hreset.symm.trans hexec)
  rw [committingDie_warm_dieback] at hdieback
  exact absurd hdieback (by decide)

end Sys2Proof.Machine
end

section
/-! The rules for a core that executes a word: what an answer is, what an update leaves of scalar registers, program
counter and everything else, and the arithmetic of R82 as numbers (R75, R81, R82). It settles O4. -/

namespace Sys2Proof.Machine

/-! ### Answers -/

theorem Answers.intro {i : Instr} {s t : State} {P : State → Prop} (h : exec i s = .next t) (hP : P t) :
    Answers i s P := ⟨t, h, hP⟩

/-! ### The words of R82 as numbers -/

theorem shiftLeft_eq_ofNat (a : Word) (n : Nat) : a <<< n = BitVec.ofNat 32 (a.toNat * 2 ^ n) := by
  apply BitVec.eq_of_toNat_eq
  rw [BitVec.toNat_shiftLeft, BitVec.toNat_ofNat, Nat.shiftLeft_eq]

theorem ushiftRight_eq_ofNat (a : Word) (n : Nat) : a >>> n = BitVec.ofNat 32 (a.toNat / 2 ^ n) := by
  rw [← Nat.shiftRight_eq_div_pow, ← BitVec.toNat_ushiftRight, BitVec.ofNat_toNat, BitVec.setWidth_eq]

theorem sshiftRight_eq_ofInt (a : Word) (n : Nat) : a.sshiftRight n = BitVec.ofInt 32 (a.toInt / 2 ^ n) := by
  rw [BitVec.sshiftRight, Int.shiftRight_eq_div_pow]
  norm_cast

theorem mul_eq_ofNat (a b : Word) : a * b = BitVec.ofNat 32 (a.toNat * b.toNat) := rfl

theorem add_signExtend_eq_ofInt (a : Word) (i : BitVec 16) :
    a + i.signExtend 32 = BitVec.ofInt 32 (a.toInt + i.toInt) := by
  rw [BitVec.ofInt_add, BitVec.ofInt_toInt, BitVec.signExtend]

theorem and_setWidth_eq_ofNat (a : Word) (i : BitVec 16) :
    a &&& i.setWidth 32 = BitVec.ofNat 32 (a.toNat &&& i.toNat) := by
  rw [BitVec.ofNat_and]
  simp

theorem or_setWidth_eq_ofNat (a : Word) (i : BitVec 16) :
    a ||| i.setWidth 32 = BitVec.ofNat 32 (a.toNat ||| i.toNat) := by
  rw [BitVec.ofNat_or]
  simp

theorem upper_half_eq_ofNat (i : BitVec 16) : i.setWidth 32 <<< 16 = BitVec.ofNat 32 (i.toNat * 65536) := by
  rw [shiftLeft_eq_ofNat, BitVec.toNat_setWidth_of_le (by decide)]
  norm_num

/-! ### Instructions that write SD (forms A and B) -/

/-- An instruction of form B writes SD and moves on. -/
theorem State.SqRuns.sqWrite {s : State} {c : CoreNo} {p : Nat} {sd : SReg} {v w : Word} (h : s.SqRuns c p w)
    {f : Nat → Word} (hv : f p = v) :
    sqWrites s (s.sqWrite c w sd f) p sd v := by
  subst hv
  unfold State.sqWrite
  rw [h.sqAt]
  exact s.sqWrites_intro p sd (f p)

/-- An instruction of form A writes SD and moves on. -/
theorem State.SqRuns.sqAlu {s : State} {c : CoreNo} {p opc : Nat} {sd sa sb : SReg} {v : Word}
    (h : s.SqRuns c p (encA opc sd.val sa.val sb.val)) {f : Word → Word → Word}
    (hv : f (s.sreg p sa.val) (s.sreg p sb.val) = v) :
    sqWrites s (s.sqAlu c opc sd sa sb f) p sd v :=
  h.sqWrite hv

/-- Settles O4: each instruction is form A or B's write of SD, and its word is R82's result as a number. -/
theorem sqResults : Obligations.SqResults := by
  unfold Obligations.SqResults
  refine ⟨?_, ?_⟩
  · intro s c p sd sa sb a b
    refine ⟨?_, ?_, ?_, ?_, ?_, ?_, ?_, ?_, ?_, ?_, ?_, ?_⟩ <;> intro h
    · exact .intro rfl (h.sqAlu rfl)
    · exact .intro rfl (h.sqAlu rfl)
    · exact .intro rfl (h.sqAlu rfl)
    · exact .intro rfl (h.sqAlu rfl)
    · exact .intro rfl (h.sqAlu rfl)
    · exact .intro rfl (h.sqAlu (shiftLeft_eq_ofNat _ _))
    · exact .intro rfl (h.sqAlu (ushiftRight_eq_ofNat _ _))
    · exact .intro rfl (h.sqAlu (sshiftRight_eq_ofInt _ _))
    · exact .intro rfl (h.sqAlu rfl)
    · exact .intro rfl (h.sqAlu rfl)
    · exact .intro rfl (h.sqAlu (mul_eq_ofNat _ _))
    · exact .intro rfl (h.sqAlu rfl)
  · intro s c p sd sa imm a
    refine ⟨?_, ?_, ?_, ?_⟩ <;> intro h
    · exact .intro rfl (h.sqWrite (add_signExtend_eq_ofInt _ _))
    · exact .intro rfl (h.sqWrite (and_setWidth_eq_ofNat _ _))
    · exact .intro rfl (h.sqWrite (or_setWidth_eq_ofNat _ _))
    · exact .intro rfl (h.sqWrite (upper_half_eq_ofNat _))

end Sys2Proof.Machine
end

section
/-! Branches and JAL (R75, R82). It settles O5. -/

namespace Sys2Proof.Machine

theorem condEq_iff (a b : Word) : condEq a b = true ↔ a = b := decide_eq_true_iff

theorem condNe_iff (a b : Word) : condNe a b = true ↔ a ≠ b := by simp [condNe, condEq]

theorem condLt_iff (a b : Word) : condLt a b = true ↔ a.toInt < b.toInt := decide_eq_true_iff

theorem condGe_iff (a b : Word) : condGe a b = true ↔ b.toInt ≤ a.toInt := by simp [condGe, condLt]

/-- A field holds a value modulo its width. -/
theorem State.setFld_mod (s : State) (f : Fld) (v : Nat) : s.setFld f (v % 2 ^ f.w) = s.setFld f v := by
  unfold State.setFld
  rw [Nat.mod_mod]

theorem State.nextPc_eq (s : State) (p : Nat) : s.nextPc p = s.setFld (F.corPc p) ((s.pc p + 1) % 2 ^ 13) :=
  (s.setFld_mod (F.corPc p) _).symm

/-- What a branch of a core that runs it does, where its condition says `holds`. -/
theorem State.SqRuns.sqBranch {s : State} {c : CoreNo} {p opc : Nat} {sa sb : SReg} {off : BitVec 16}
    {f : Word → Word → Bool} {holds : Prop} (h : s.SqRuns c p (encC opc sa.val sb.val off.toNat))
    (hf : f (s.sreg p sa.val) (s.sreg p sb.val) = true ↔ holds) :
    (holds ∧ 0 ≤ s.pc p + off.toInt ∧ s.pc p + off.toInt ≤ 8191 →
        s.sqBranch c opc sa sb off f = s.setFld (F.corPc p) (s.pc p + off.toInt).toNat) ∧
      (holds ∧ (s.pc p + off.toInt < 0 ∨ 8191 < s.pc p + off.toInt) →
        s.sqBranch c opc sa sb off f = s.fatal p erIllegal) ∧
      (¬ holds → s.sqBranch c opc sa sb off f = s.setFld (F.corPc p) ((s.pc p + 1) % 2 ^ 13)) := by
  have hrun : s.sqBranch c opc sa sb off f =
      if f (s.sreg p sa.val) (s.sreg p sb.val) then s.jumpTo p (s.pc p + off.toInt) else s.nextPc p := by
    unfold State.sqBranch
    rw [h.sqAt]
  rw [hrun]
  refine ⟨?_, ?_, ?_⟩
  · rintro ⟨hh, hlo, hhi⟩
    rw [if_pos (hf.mpr hh)]
    exact if_pos ⟨hlo, hhi⟩
  · rintro ⟨hh, hout⟩
    rw [if_pos (hf.mpr hh)]
    exact if_neg (by omega)
  · intro hh
    rw [if_neg (mt hf.mp hh)]
    exact s.nextPc_eq p

/-! ### What an update of scalar registers and register fields leaves -/

theorem sqFrame.refl (s : State) (p : Nat) : sqFrame s s p := ⟨rfl, fun _ _ => rfl, rfl⟩

theorem sqFrame.setFld {s t : State} {p : Nat} (h : sqFrame s t p) (f : Fld) (v : Nat) : sqFrame s (t.setFld f v) p := h

theorem sqFrame.setSreg {s t : State} {p : Nat} (h : sqFrame s t p) (r : Nat) (v : Word) :
    sqFrame s (t.setSreg p r v) p := by
  obtain ⟨hrest, hothers, hcore⟩ := h
  unfold State.setSreg
  split
  · exact ⟨hrest, hothers, hcore⟩
  · refine ⟨hrest, ?_, ?_⟩
    · intro j hj
      rw [State.core_setCore_ne _ hj, hothers j hj]
    · rw [State.core_setCore]
      exact hcore

theorem fieldsKept.refl (s : State) (keys : List Nat) : fieldsKept s s keys := fun _ _ => rfl

theorem fieldsKept.setFld {s t : State} {keys : List Nat} (h : fieldsKept s t keys) {f : Fld} (hf : f.key ∈ keys) (v : Nat) :
    fieldsKept s (t.setFld f v) keys := by
  intro g hg
  rw [State.fld_setFld_ne t (f := f) (fun e => hg (by rw [e]; exact hf)), h g hg]

theorem fieldsKept.setSreg {s t : State} {keys : List Nat} (h : fieldsKept s t keys) (p r : Nat) (v : Word) :
    fieldsKept s (t.setSreg p r v) keys := by
  intro g hg
  rw [State.fld_setSreg, h g hg]

/-- JAL with a target in the instruction memory. -/
theorem State.SqRuns.jal {s : State} {c : CoreNo} {p : Nat} {sd sa : SReg} {imm : BitVec 16}
    (h : s.SqRuns c p (encB 0x1C sd.val sa.val imm.toNat)) :
    exec (.jal c sd sa imm) s = .next
      (if (s.sreg p sa.val + imm.signExtend 32).toNat ≤ 8191 then
        (s.setSreg p sd.val (BitVec.ofNat 32 (s.pc p + 1))).setFld (F.corPc p) (s.sreg p sa.val + imm.signExtend 32).toNat
      else s.fatal p erIllegal) := by
  show execJal c sd sa imm s = _
  unfold execJal
  rw [h.sqAt]

/-- Settles O5: the four branches differ in their condition alone; JAL's link and jump are one write each. -/
theorem sqBranchesAndJumps : Obligations.SqBranchesAndJumps := by
  unfold Obligations.SqBranchesAndJumps
  refine ⟨?_, ?_⟩
  · intro s c p sa sb off a b target branches
    refine ⟨?_, ?_, ?_, ?_⟩ <;> intro h
    · exact .intro rfl (h.sqBranch (condEq_iff a b))
    · exact .intro rfl (h.sqBranch (condNe_iff a b))
    · exact .intro rfl (h.sqBranch (condLt_iff a b))
    · exact .intro rfl (h.sqBranch (condGe_iff a b))
  · intro s c p sd sa imm h target
    refine ⟨?_, ?_⟩
    · intro htarget
      refine .intro (h.jal.trans (by rw [if_pos htarget])) ⟨?_, ?_, ?_, ?_⟩
      · exact fun r => s.sreg_setSreg p sd.val r _
      · exact (State.fld_setFld _ _ _).trans (Nat.mod_eq_of_lt (Nat.lt_succ_of_le htarget))
      · exact ((fieldsKept.refl s _).setSreg p _ _).setFld (List.mem_singleton_self _) _
      · exact ((sqFrame.refl s p).setSreg _ _).setFld _ _
    · intro htarget
      exact h.jal.trans (by rw [if_neg (Nat.not_le.mpr htarget)])

end Sys2Proof.Machine
end

section
/-! What the sequencer keeps while a port is met, and the loads and stores (R77 to R83, R128 to R131, R142, R143). It
settles O6 and O7. -/

namespace Sys2Proof.Machine

/-! ### The scratchpads and the sequencer's registers are kept -/

/-- The scratchpads, and the program counter and scalar registers of core p, are as they were. -/
structure SeqKept (s t : State) (p : Nat) : Prop where
  mem : t.mem = s.mem
  pc : t.pc p = s.pc p
  sreg : ∀ r, t.sreg p r = s.sreg p r

theorem SeqKept.refl (s : State) (p : Nat) : SeqKept s s p := ⟨rfl, rfl, fun _ => rfl⟩

/-- The key of a program counter is 0x200 within its core's slot, so no field that stands elsewhere in a slot, or below
the slots, is one. -/
theorem ne_corPc_key {f : Fld} (hf : f.key % 2 ^ 21 ≠ 0x200 ∨ f.key < 2 ^ 27) (p : Nat) : (F.corPc p).key ≠ f.key := by
  intro e
  rw [← e] at hf
  simp only [Fld.key, F.corPc] at hf
  omega

theorem SeqKept.setFld {s t : State} {p : Nat} (h : SeqKept s t p) {f : Fld} (hf : f.key % 2 ^ 21 ≠ 0x200 ∨ f.key < 2 ^ 27)
    (v : Nat) : SeqKept s (t.setFld f v) p :=
  ⟨h.mem, (t.fld_setFld_ne (ne_corPc_key hf p) v).trans h.pc, h.sreg⟩

theorem State.sreg_setCore (s : State) (j : Nat) {x : CoreSt} (hx : x.sregs = (s.core j).sregs) (p r : Nat) :
    (s.setCore j x).sreg p r = s.sreg p r := by
  unfold State.sreg
  by_cases hj : p = j
  · subst hj
    rw [State.core_setCore, hx]
  · rw [State.core_setCore_ne _ hj]

theorem SeqKept.setCore {s t : State} {p : Nat} (h : SeqKept s t p) (j : Nat) {x : CoreSt}
    (hx : x.sregs = (t.core j).sregs) : SeqKept s (t.setCore j x) p :=
  ⟨h.mem, h.pc, fun r => (t.sreg_setCore j hx p r).trans (h.sreg r)⟩

theorem SeqKept.foldl {β : Type} {f : State → β → State} {p : Nat} {s : State} {l : List β}
    (hf : ∀ t, ∀ x ∈ l, SeqKept s t p → SeqKept s (f t x) p) {t : State} (h : SeqKept s t p) :
    SeqKept s (l.foldl f t) p := by
  induction l generalizing t with
  | nil => exact h
  | cons x l ih => exact ih (fun t y hy => hf t y (List.mem_cons_of_mem _ hy)) (hf t x List.mem_cons_self h)

/-- Only the two halves stall with a frozen core. -/
theorem State.lt_two_of_mem_frozenWith {s : State} {p h : Nat} (hh : h ∈ (s.frozenWith p).1) : h < 2 := by
  unfold State.frozenWith at hh
  dsimp only at hh
  split at hh
  · simp only [List.mem_cons, List.not_mem_nil, or_false] at hh
    omega
  · exact List.mem_range.mp (List.mem_filter.mp hh).1

section
variable {s t : State} {p : Nat}

theorem SeqKept.recordError (h : SeqKept s t p) (j code pc : Nat) : SeqKept s (t.recordError j code pc) p := by
  have hcount : SeqKept s (t.satFld (F.corErrorCount j) 1) p :=
    h.setFld (by simp only [Fld.key, F.corErrorCount]; omega) _
  unfold State.recordError
  dsimp only
  split
  · exact (hcount.setFld (by simp only [Fld.key, F.corErrorFirstCode]; omega) _).setFld
      (by simp only [Fld.key, F.corErrorFirstPc]; omega) _
  · exact hcount

theorem SeqKept.freezeCycles (h : SeqKept s t p) (j n : Nat) : SeqKept s (t.freezeCycles j n) p := by
  unfold State.freezeCycles
  split
  · refine SeqKept.foldl ?_ (SeqKept.foldl ?_ h)
    · intro u x _ hu
      exact hu.setFld (by simp only [Fld.key, F.corFreezeCc]; omega) _
    · intro u x hx hu
      have hx2 := State.lt_two_of_mem_frozenWith hx
      exact hu.setFld (by simp only [Fld.key, F.plnStallCc]; omega) _
  · exact h

theorem SeqKept.payConflict (h : SeqKept s t p) (j unit : Nat) : SeqKept s (t.payConflict j unit) p := by
  unfold State.payConflict
  split
  · exact h.freezeCycles j 1
  · split
    · exact h.setFld (by simp only [Fld.key, F.vxeStallCc]; omega) _
    · exact h

theorem SeqKept.recordConflict (h : SeqKept s t p) (j unit bank : Nat) (writes : Bool) (q : Nat) :
    SeqKept s (t.recordConflict j unit bank writes q) p := by
  unfold State.recordConflict
  refine SeqKept.setFld (SeqKept.setFld (SeqKept.setFld (SeqKept.setFld (SeqKept.setFld (SeqKept.setFld
    (h.recordError j _ _) ?_ _) ?_ _) ?_ _) ?_ _) ?_ _) ?_ _ <;>
  · simp only [Fld.key, F.spdConflicts, F.spdConflictLastBank, F.spdConflictLastKind, F.spdConflictLastUnit,
      F.spdConflictLastOtherQ, F.spdConflictLastPc]
    omega

theorem SeqKept.noteConflict (h : SeqKept s t p) (j unit bank : Nat) (writes : Bool) (q other : Nat) :
    SeqKept s (t.noteConflict j unit bank writes q other) p :=
  (h.recordConflict _ _ _ _ _).payConflict _ _

theorem SeqKept.corrected (h : SeqKept s t p) (j bank row word : Nat) : SeqKept s (t.corrected j bank row word) p := by
  unfold State.corrected
  refine SeqKept.setCore ?_ j rfl
  unfold State.noteEcc
  refine SeqKept.setFld (SeqKept.setFld (SeqKept.setFld (SeqKept.setFld (SeqKept.setFld (SeqKept.setFld
    h ?_ _) ?_ _) ?_ _) ?_ _) ?_ _) ?_ _ <;>
  · simp only [Fld.key, F.spdEccLastUe, F.spdEccLastValid, F.spdEccLastBank, F.spdEccLastRow, F.spdEccLastWord, F.spdEccCe]
    omega

/-- A port that reports no uncorrectable error loses no data and leaves what the sequencer works on. -/
theorem State.port_kept (s : State) (p j unit t : Nat) (isRead : Bool) {e : PortEvent}
    (he : isRead = true → ∀ b r w, e ≠ .uncorrectable b r w) :
    SeqKept s (s.port j unit t isRead e).1 p ∧ (s.port j unit t isRead e).2 = false := by
  cases e with
  | clean => exact ⟨.refl s p, rfl⟩
  | conflict bank writes q u => exact ⟨(SeqKept.refl s p).noteConflict _ _ _ _ _ _, rfl⟩
  | corrected bank row word =>
    cases isRead with
    | false => exact ⟨.refl s p, rfl⟩
    | true => exact ⟨(SeqKept.refl s p).corrected _ _ _ _, rfl⟩
  | uncorrectable bank row word =>
    cases isRead with
    | false => exact ⟨.refl s p, rfl⟩
    | true => exact absurd rfl (he rfl bank row word)

end

/-! ### Bytes -/

theorem leBytes_length (n x : Nat) : (leBytes n x).length = n := by
  induction n generalizing x with
  | zero => rfl
  | succ n ih => simp [leBytes, ih]

theorem leBytes_getElem (n x j : Nat) (h : j < (leBytes n x).length) : (leBytes n x)[j] = BitVec.ofNat 8 (x / 256 ^ j) := by
  induction n generalizing x j with
  | zero => cases h
  | succ n ih =>
    cases j with
    | zero => simp [leBytes]
    | succ j => simp [leBytes, ih, Nat.div_div_eq_div_mul, pow_succ']

theorem leAt_gets_low (m : Mem) (k : Nat) : leAt (m.gets k 8) 0 4 = leNat (m.gets k 4) := by
  simp [leAt, slice, Mem.gets]

theorem leAt_gets_high (m : Mem) (k : Nat) : leAt (m.gets k 8) 4 4 = leNat (m.gets (k + 4) 4) := by
  simp [leAt, slice, Mem.gets]

/-- A byte of a run that was written. -/
theorem Mem.get_sets_inside (m : Mem) (k : Nat) (bs : List Byte) {j : Nat} (h : j < bs.length) :
    (m.sets k bs).get (k + j) = bs[j] := by
  induction bs generalizing m k j with
  | nil => cases h
  | cons b bs ih =>
    cases j with
    | zero =>
      rw [Mem.sets, Mem.get_sets_outside _ _ _ _ (.inl (by omega))]
      exact m.get_set_self k b
    | succ j =>
      rw [Mem.sets, show k + (j + 1) = k + 1 + j by omega]
      exact ih _ _ (Nat.lt_of_succ_lt_succ h)

/-! ### A load and a store, case by case -/

section
variable {s : State} {p a n : Nat} {port : PortEvent} {put : State → List Byte → State} {data : List Byte}

theorem State.sqLoad_misaligned (h : a % n ≠ 0) : s.sqLoad p a n port put = s.fatal p erAlign := if_pos h

theorem State.sqLoad_denied (h : a % n = 0) (hr : s.reach p (a / 2 ^ 22 % 4) = .denied) :
    s.sqLoad p a n port put = s.fatal p erClump := by
  have hr : s.reach p (clumpPos a) = .denied := hr
  unfold State.sqLoad
  rw [if_neg (not_not.mpr h), hr]

theorem State.sqLoad_fenced (h : a % n = 0) (hr : s.reach p (a / 2 ^ 22 % 4) = .fenced) :
    s.sqLoad p a n port put = (put (s.recordError p erFencedTarget (s.pc p)) (List.replicate n 0)).nextPc p := by
  have hr : s.reach p (clumpPos a) = .fenced := hr
  unfold State.sqLoad
  rw [if_neg (not_not.mpr h), hr]

theorem State.sqLoad_ok {q : Nat} (h : a % n = 0) (hr : s.reach p (a / 2 ^ 22 % 4) = .ok q)
    (hport : ∀ b r w, port ≠ .uncorrectable b r w) :
    s.sqLoad p a n port put =
      (put (s.port p 0 q true port).1 (s.mem.gets (q * 2 ^ 22 + a % 2 ^ 22) n)).nextPc p := by
  have hr : s.reach p (clumpPos a) = .ok q := hr
  obtain ⟨hkept, hfound⟩ := s.port_kept p p 0 q true fun _ => hport
  unfold State.sqLoad
  rw [if_neg (not_not.mpr h), hr]
  dsimp only
  rw [if_neg (by rw [hfound]; decide), State.readCore, hkept.mem]
  rfl

theorem State.sqStore_misaligned (h : a % data.length ≠ 0) : s.sqStore p a data port = s.fatal p erAlign := if_pos h

theorem State.sqStore_denied (h : a % data.length = 0) (hr : s.reach p (a / 2 ^ 22 % 4) = .denied) :
    s.sqStore p a data port = s.fatal p erClump := by
  have hr : s.reach p (clumpPos a) = .denied := hr
  unfold State.sqStore
  rw [if_neg (not_not.mpr h), hr]

theorem State.sqStore_fenced (h : a % data.length = 0) (hr : s.reach p (a / 2 ^ 22 % 4) = .fenced) :
    s.sqStore p a data port = (s.recordError p erFencedTarget (s.pc p)).nextPc p := by
  have hr : s.reach p (clumpPos a) = .fenced := hr
  unfold State.sqStore
  rw [if_neg (not_not.mpr h), hr]

theorem State.sqStore_ok {q : Nat} (h : a % data.length = 0) (hr : s.reach p (a / 2 ^ 22 % 4) = .ok q) :
    s.sqStore p a data port = ((s.port p 0 q false port).1.writeCore q (a % 2 ^ 22) data).nextPc p := by
  have hr : s.reach p (clumpPos a) = .ok q := hr
  unfold State.sqStore
  rw [if_neg (not_not.mpr h), hr]
  rfl

end

/-- An update that writes scalar registers of core p, `writes r` where it is some, and nothing else. -/
structure WritesSregs (p : Nat) (put : State → State) (writes : Nat → Option Word) : Prop where
  mem : ∀ u, (put u).mem = u.mem
  fld : ∀ u g, (put u).fld g = u.fld g
  sreg : ∀ u r, (put u).sreg p r = (writes r).getD (u.sreg p r)
  frame : ∀ s u, sqFrame s u p → sqFrame s (put u) p

@[simp] theorem State.setSreg_mem (s : State) (p r : Nat) (v : Word) : (s.setSreg p r v).mem = s.mem := by
  unfold State.setSreg
  split <;> rfl

theorem writesSregs_setSreg (p sd : Nat) (v : Word) :
    WritesSregs p (fun u => u.setSreg p sd v) fun r => if r = sd ∧ r ≠ 0 then some v else none := by
  refine ⟨fun u => u.setSreg_mem _ _ _, fun u => u.fld_setSreg _ _ _, ?_, fun s u h => h.setSreg _ _⟩
  intro u r
  rw [State.sreg_setSreg]
  by_cases hr : r = sd
  · subst hr
    by_cases h0 : r = 0 <;> simp [h0]
  · simp [hr]

/-- A pair of registers: the low word to SD, the high word to the register above it. -/
theorem writesSregs_pair (p sd : Nat) (low high : Word) :
    WritesSregs p (fun u => (u.setSreg p sd low).setSreg p (sd + 1) high) fun r =>
      if r = sd ∧ r ≠ 0 then some low else if r = sd + 1 then some high else none := by
  have hlow := writesSregs_setSreg p sd low
  refine ⟨fun u => by simp, fun u g => by simp, ?_, fun s u h => (h.setSreg _ _).setSreg _ _⟩
  intro u r
  rw [State.sreg_setSreg, hlow.sreg]
  by_cases hr : r = sd + 1
  · simp [hr]
  · simp [hr]

/-- LD32 writes the word its bytes hold. -/
theorem writesSregs_word (m : Mem) (p sd k : Nat) :
    WritesSregs p (fun u => u.setSreg p sd (BitVec.ofNat 32 (leNat (m.gets k 4)))) fun r =>
      if r = sd ∧ r ≠ 0 then some (BitVec.ofNat 32 (leNat (m.gets (k + 0) 4))) else none :=
  writesSregs_setSreg p sd _

/-- LD64 writes the two words its bytes hold. -/
theorem writesSregs_words (m : Mem) (p sd k : Nat) :
    WritesSregs p (fun u => (u.setSreg p sd (BitVec.ofNat 32 (leAt (m.gets k 8) 0 4))).setSreg p (sd + 1)
      (BitVec.ofNat 32 (leAt (m.gets k 8) 4 4))) fun r =>
      if r = sd ∧ r ≠ 0 then some (BitVec.ofNat 32 (leNat (m.gets (k + 0) 4)))
      else if r = sd + 1 then some (BitVec.ofNat 32 (leNat (m.gets (k + 4) 4))) else none := by
  rw [leAt_gets_low, leAt_gets_high]
  exact writesSregs_pair p sd _ _

/-- A load that reaches the banks of core q (R83). -/
theorem State.load_answers {s : State} {p a n q : Nat} {i : Instr} {port : PortEvent} {put : List Byte → State → State}
    {writes : Nat → Option Word} (hexec : exec i s = .next (s.sqLoad p a n port fun u bs => put bs u))
    (ha : a % n = 0) (hr : s.reach p (a / 2 ^ 22 % 4) = .ok q) (hport : ∀ b r w, port ≠ .uncorrectable b r w)
    (hput : WritesSregs p (put (s.mem.gets (q * 2 ^ 22 + a % 2 ^ 22) n)) writes) :
    Answers i s fun t => t.mem = s.mem ∧ (∀ r, t.sreg p r = (writes r).getD (s.sreg p r)) ∧
      t.pc p = (s.pc p + 1) % 2 ^ 13 ∧ (port = .clean → fieldsKept s t [(F.corPc p).key] ∧ sqFrame s t p) := by
  obtain ⟨hkept, -⟩ := s.port_kept p p 0 q true fun _ => hport
  refine .intro (hexec.trans (by rw [State.sqLoad_ok ha hr hport])) ⟨?_, ?_, ?_, ?_⟩
  · exact (hput.mem _).trans hkept.mem
  · intro r
    rw [State.sreg_nextPc, hput.sreg, hkept.sreg]
  · rw [State.pc_nextPc, State.pc, hput.fld]
    exact congrArg (fun x => (x + 1) % 2 ^ 13) hkept.pc
  · rintro rfl
    refine ⟨?_, (hput.frame s s (.refl s p)).setFld _ _⟩
    intro g hg
    rw [State.nextPc_kept _ p g hg, hput.fld]
    rfl

/-- A store that reaches the banks of core q (R83). -/
theorem State.store_answers {s : State} {p a n q v : Nat} {i : Instr} {port : PortEvent}
    (hexec : exec i s = .next (s.sqStore p a (leBytes n v) port)) (ha : a % n = 0)
    (hr : s.reach p (a / 2 ^ 22 % 4) = .ok q) :
    Answers i s fun t =>
      (∀ j, j < n → t.mem.get (q * 2 ^ 22 + a % 2 ^ 22 + j) = BitVec.ofNat 8 (v / 256 ^ j)) ∧
      (∀ k, k < q * 2 ^ 22 + a % 2 ^ 22 ∨ q * 2 ^ 22 + a % 2 ^ 22 + n ≤ k → t.mem.get k = s.mem.get k) ∧
      (∀ r, t.sreg p r = s.sreg p r) ∧ t.pc p = (s.pc p + 1) % 2 ^ 13 ∧
      ((∀ b w o u, port ≠ .conflict b w o u) →
        fieldsKept s t [(F.corPc p).key] ∧ ({ t with regs := s.regs, mem := s.mem } : State) = s) := by
  obtain ⟨hkept, -⟩ := s.port_kept p p 0 q false (e := port) nofun
  have hlen := leBytes_length n v
  have hmem : (((s.port p 0 q false port).1.writeCore q (a % 2 ^ 22) (leBytes n v)).nextPc p).mem =
      s.mem.sets (q * 2 ^ 22 + a % 2 ^ 22) (leBytes n v) := by
    rw [← hkept.mem]
    rfl
  refine .intro (hexec.trans (by rw [State.sqStore_ok (by rw [hlen]; exact ha) hr])) ⟨?_, ?_, ?_, ?_, ?_⟩
  · intro j hj
    rw [hmem, Mem.get_sets_inside _ _ _ (hlen.symm ▸ hj), leBytes_getElem]
  · intro k hk
    rw [hmem, Mem.get_sets_outside _ _ _ _ (by rw [hlen]; exact hk)]
  · exact hkept.sreg
  · rw [State.pc_nextPc]
    exact congrArg (fun x => (x + 1) % 2 ^ 13) hkept.pc
  · intro hnone
    have hport : (s.port p 0 q false port).1 = s := by
      cases port with
      | conflict b w o u => exact absurd rfl (hnone b w o u)
      | clean => rfl
      | corrected => rfl
      | uncorrectable => rfl
    rw [hport]
    exact ⟨(s.writeCore q _ _).nextPc_kept p, rfl⟩

/-! ### The four instructions -/

section
variable {s : State} {c : CoreNo} {p : Nat} {sd sa : SReg} {imm : BitVec 16}

theorem State.SqRuns.ld32 (h : s.SqRuns c p (encB 0x10 sd.val sa.val imm.toNat)) (port : PortEvent) :
    exec (.ld32 c sd sa imm port) s = .next (s.sqLoad p (s.sreg p sa.val + imm.signExtend 32).toNat 4 port fun u bs =>
      u.setSreg p sd.val (BitVec.ofNat 32 (leNat bs))) := by
  show execLd32 c sd sa imm port s = _
  unfold execLd32
  rw [h.sqAt]
  rfl

theorem State.SqRuns.ld64 (h : s.SqRuns c p (encB 0x11 sd.val sa.val imm.toNat)) (port : PortEvent) :
    exec (.ld64 c sd sa imm port) s = .next (if sd.val % 2 = 1 then s.fatal p erIllegal
      else s.sqLoad p (s.sreg p sa.val + imm.signExtend 32).toNat 8 port fun u bs =>
        (u.setSreg p sd.val (BitVec.ofNat 32 (leAt bs 0 4))).setSreg p (sd.val + 1) (BitVec.ofNat 32 (leAt bs 4 4))) := by
  show execLd64 c sd sa imm port s = _
  unfold execLd64
  rw [h.sqAt]
  rfl

theorem State.SqRuns.st32 (h : s.SqRuns c p (encB 0x12 sd.val sa.val imm.toNat)) (port : PortEvent) :
    exec (.st32 c sd sa imm port) s = .next (s.sqStore p (s.sreg p sa.val + imm.signExtend 32).toNat
      (leBytes 4 (s.sreg p sd.val).toNat) port) := by
  show execSt32 c sd sa imm port s = _
  unfold execSt32
  rw [h.sqAt]
  rfl

theorem State.SqRuns.st64 (h : s.SqRuns c p (encB 0x13 sd.val sa.val imm.toNat)) (port : PortEvent) :
    exec (.st64 c sd sa imm port) s = .next (if sd.val % 2 = 1 then s.fatal p erIllegal
      else s.sqStore p (s.sreg p sa.val + imm.signExtend 32).toNat (leBytes 8 (s.sreg64 p sd.val)) port) := by
  show execSt64 c sd sa imm port s = _
  unfold execSt64
  rw [h.sqAt]
  rfl

end

theorem State.reach_own (s : State) (p : Nat) : s.reach p (p % 4) = .ok p := by
  have hown : 4 * clumpOf p + p % 4 = p := by
    unfold clumpOf
    omega
  unfold State.reach
  simp only [hown, if_true]

/-- Settles O6: an aligned access goes where `reach` says, and what its port meets leaves the sequencer's part. -/
theorem sqLoadsAndStores : Obligations.SqLoadsAndStores := by
  unfold Obligations.SqLoadsAndStores
  refine ⟨?_, ?_⟩
  · intro s c p sd sa imm port a word reads
    refine ⟨s.reach_own p, ?_, ?_⟩
    · intro h
      refine ⟨?_, ?_, ?_⟩
      · intro ha
        rw [h.ld32, State.sqLoad_misaligned ha]
      · intro ha hr
        rw [h.ld32, State.sqLoad_denied ha hr]
      · intro q ha hr hport
        exact State.load_answers (put := fun bs u => u.setSreg p sd.val (BitVec.ofNat 32 (leNat bs))) (h.ld32 port) ha hr
          hport (writesSregs_word s.mem p sd.val _)
    · intro h
      refine ⟨?_, ?_, ?_, ?_⟩
      · intro hodd
        rw [h.ld64, if_pos hodd]
      · intro heven ha
        rw [h.ld64, if_neg (by omega), State.sqLoad_misaligned ha]
      · intro heven ha hr
        rw [h.ld64, if_neg (by omega), State.sqLoad_denied ha hr]
      · intro q heven ha hr hport
        exact State.load_answers (put := fun bs u => (u.setSreg p sd.val (BitVec.ofNat 32 (leAt bs 0 4))).setSreg p
          (sd.val + 1) (BitVec.ofNat 32 (leAt bs 4 4))) ((h.ld64 port).trans (congrArg _ (if_neg (by omega)))) ha
          hr hport (writesSregs_words s.mem p sd.val _)
  · intro s c p sd sa imm port a stores
    refine ⟨?_, ?_⟩
    · intro h
      refine ⟨?_, ?_, ?_⟩
      · intro ha
        rw [h.st32, State.sqStore_misaligned (by rw [leBytes_length]; exact ha)]
      · intro ha hr
        rw [h.st32, State.sqStore_denied (by rw [leBytes_length]; exact ha) hr]
      · intro q ha hr
        exact State.store_answers (h.st32 port) ha hr
    · intro h
      refine ⟨?_, ?_, ?_, ?_⟩
      · intro hodd
        rw [h.st64, if_pos hodd]
      · intro heven ha
        rw [h.st64, if_neg (by omega), State.sqStore_misaligned (by rw [leBytes_length]; exact ha)]
      · intro heven ha hr
        rw [h.st64, if_neg (by omega), State.sqStore_denied (by rw [leBytes_length]; exact ha) hr]
      · intro q heven ha hr
        exact State.store_answers ((h.st64 port).trans (congrArg _ (if_neg (by omega)))) ha hr

/-! ### Which neighbours are reached -/

theorem State.reach_neighbour (s : State) {p q : Nat} (hq : q ≠ p % 4) :
    s.reach p q = if s.fencedCore (4 * (p / 4) + q) then .fenced
      else match s.kernelOn p with
        | some k => if k.phys.contains (4 * (p / 4) + q) ∧ s.power (4 * (p / 4) + q) = pwLeaf
            then .ok (4 * (p / 4) + q) else .denied
        | none => .denied := by
  have hne : 4 * clumpOf p + q ≠ p := by
    unfold clumpOf
    omega
  unfold State.reach
  exact if_neg hne

/-- Settles O7: `reach` case by case, and the fenced case of a load and of a store. -/
theorem clumpReach : Obligations.ClumpReach := by
  unfold Obligations.ClumpReach
  intro s p q
  refine ⟨?_, ?_, ?_⟩
  · rintro rfl
    exact s.reach_own p
  · intro hq _ n
    have hreach := s.reach_neighbour hq
    refine ⟨?_, ?_, ?_⟩
    · intro hf
      rw [hreach, if_pos hf]
    · intro hf hk
      rw [hreach, if_neg (by rw [hf]; decide), hk]
    · intro k hf hk
      rw [if_neg (by rw [hf]; decide), hk] at hreach
      by_cases hin : n ∈ k.phys ∧ s.power n = pwLeaf
      · have hok : s.reach p q = .ok n := hreach.trans (if_pos (by simpa using hin))
        exact ⟨⟨fun _ => hin, fun _ => hok⟩, fun hno => absurd hok hno⟩
      · have hdenied : s.reach p q = .denied := hreach.trans (if_neg (by simpa using hin))
        rw [hdenied]
        exact ⟨⟨nofun, fun h => absurd h hin⟩, fun _ => rfl⟩
  · intro c sd sa imm port a ha hr e
    refine ⟨?_, ?_⟩
    · intro h
      exact .intro ((h.ld32 port).trans (congrArg _ (State.sqLoad_fenced ha hr))) rfl
    · intro h
      exact .intro ((h.st32 port).trans (by rw [State.sqStore_fenced (by rw [leBytes_length]; exact ha) hr])) rfl

end Sys2Proof.Machine
end

section
/-! The scoreboard's releases, FENCE and END (R92, R97), WAIT and the event that ends one (R93, R94, R482). It settles O8
and O9. -/

namespace Sys2Proof.Machine

/-! ### Release of scoreboard entries -/

theorem State.fld_nextPc_ne (s : State) {p : Nat} {g : Fld} (h : g.key ≠ (F.corPc p).key) : (s.nextPc p).fld g = s.fld g :=
  s.fld_setFld_ne h _

theorem spdSbAValid_key_inj {p i j : Nat} (h : (F.spdSbAValid p i).key = (F.spdSbAValid p j).key) : i = j := by
  simp only [Fld.key, F.spdSbAValid] at h
  omega

theorem State.sbLive_sbRelease (s : State) (p i j : Nat) :
    (s.sbRelease p i).sbLive p j = if j = i then false else s.sbLive p j := by
  unfold State.sbLive State.bit State.sbRelease
  dsimp only
  by_cases hj : j = i
  · subst hj
    simp
  · rw [if_neg hj, State.fld_setFld_ne _ (fun e => hj (spdSbAValid_key_inj e)), State.fld_setCore]

theorem SeqKept.sbRelease {s t : State} {p : Nat} (h : SeqKept s t p) (i : Nat) : SeqKept s (t.sbRelease p i) p := by
  refine SeqKept.setFld (f := F.spdSbAValid p i) (SeqKept.setCore h p ?_) ?_ 0
  · rfl
  · simp only [Fld.key, F.spdSbAValid]
    omega

theorem State.core_sbRelease_ne (s : State) {p j : Nat} (h : j ≠ p) (i : Nat) : (s.sbRelease p i).core j = s.core j := by
  unfold State.sbRelease
  rw [State.core_setFld, State.core_setCore_ne _ h]

theorem State.sbRelease_kernels (s : State) (p i : Nat) : (s.sbRelease p i).kernels = s.kernels := by
  unfold State.sbRelease
  rw [State.setFld_kernels, State.setCore_kernels]

/-- Entries released one after another. -/
theorem State.sbLive_releases (s : State) (p : Nat) (l : List Nat) (j : Nat) :
    (l.foldl (fun s i => s.sbRelease p i) s).sbLive p j = if j ∈ l then false else s.sbLive p j := by
  induction l generalizing s with
  | nil => simp
  | cons i l ih =>
    rw [List.foldl_cons, ih, State.sbLive_sbRelease]
    by_cases hi : j = i <;> simp [hi]

theorem State.core_releases_ne (s : State) {p j : Nat} (h : j ≠ p) (l : List Nat) :
    (l.foldl (fun s i => s.sbRelease p i) s).core j = s.core j := by
  induction l generalizing s with
  | nil => rfl
  | cons i l ih => rw [List.foldl_cons, ih, State.core_sbRelease_ne s h]

theorem State.kernels_releases (s : State) (p : Nat) (l : List Nat) :
    (l.foldl (fun s i => s.sbRelease p i) s).kernels = s.kernels := by
  induction l generalizing s with
  | nil => rfl
  | cons i l ih => rw [List.foldl_cons, ih, State.sbRelease_kernels]

theorem fieldsKept.releases {s t : State} {keys : List Nat} (h : fieldsKept s t keys) {p : Nat} {l : List Nat}
    (hl : ∀ i ∈ l, (F.spdSbAValid p i).key ∈ keys) : fieldsKept s (l.foldl (fun s i => s.sbRelease p i) t) keys := by
  induction l generalizing t with
  | nil => exact h
  | cons i l ih =>
    refine ih ?_ fun j hj => hl j (List.mem_cons_of_mem _ hj)
    have hcore : fieldsKept s (t.setCore p { t.core p with sbOrder := (t.core p).sbOrder.filter fun o => o.entry ≠ i })
      keys := h
    exact hcore.setFld (hl i List.mem_cons_self) 0

/-! ### Release of every entry (R97) -/

theorem State.sbLive_sbClear (s : State) {p i : Nat} (hi : i < 32) : (s.sbClear p).sbLive p i = false := by
  unfold State.sbClear
  rw [State.sbLive_releases, if_pos (List.mem_range.mpr hi)]

theorem State.core_sbClear_ne (s : State) {p j : Nat} (h : j ≠ p) : (s.sbClear p).core j = s.core j := by
  unfold State.sbClear
  exact s.core_releases_ne h _

theorem State.sbClear_kernels (s : State) (p : Nat) : (s.sbClear p).kernels = s.kernels := by
  unfold State.sbClear
  exact s.kernels_releases p _

theorem SeqKept.sbClear (s : State) (p : Nat) : SeqKept s (s.sbClear p) p := by
  unfold State.sbClear
  exact SeqKept.foldl (fun t i _ ht => ht.sbRelease i) (.refl s p)

theorem fieldsKept.sbClear (s : State) {p : Nat} {keys : List Nat}
    (h : ∀ i, i < 32 → (F.spdSbAValid p i).key ∈ keys) : fieldsKept s (s.sbClear p) keys := by
  unfold State.sbClear
  exact fieldsKept.releases (.refl s keys) fun i hi => h i (List.mem_range.mp hi)

/-! ### FENCE and END -/

/-- A FENCE's conditions, one by one. -/
theorem State.fenceHolds_iff (s : State) (p : Nat) (mx vx post : Bool) : s.fenceHolds p mx vx post = true ↔
    (mx = true → (s.core p).mxq = [] ∧ (s.core p).mxRun = none ∧ (s.core p).mxDrain = none) ∧
      (vx = true → (s.core p).vxq = [] ∧ (s.core p).vxRun = none) ∧ (post = true → (s.core p).postsOut = 0) := by
  unfold State.fenceHolds
  simp only [Bool.and_eq_true, Bool.or_eq_true, Bool.not_eq_true', List.isEmpty_iff, Option.isNone_iff_eq_none, beq_iff_eq,
    Bool.eq_false_iff, ← imp_iff_not_or, and_assoc]

theorem State.pc_setCoreState (s : State) (p q v : Nat) : (s.setCoreState q v).pc p = s.pc p :=
  ((SeqKept.refl s p).setFld (by simp only [Fld.key, F.corStatusState]; omega) v).pc

theorem exec_fence {s : State} {c : CoreNo} {p : Nat} {mx vx post store : Bool}
    (h : s.sqAt c (encFence mx.toNat vx.toNat post.toNat store.toNat) csFencing = some p) :
    exec (.fence c mx vx post store) s = .next
      (if s.fenceHolds p (mx || (!mx && !vx && !post && !store)) (vx || (!mx && !vx && !post && !store))
          (post || (!mx && !vx && !post && !store))
        then (s.setCoreState p csRunning).nextPc p else s.setCoreState p csFencing) := by
  show execFence c mx vx post store s = _
  unfold execFence
  rw [h]

theorem exec_end {s : State} {c : CoreNo} {p : Nat} (h : s.sqAt c encEnd csFencing = some p) :
    exec (.end_ c) s = .next
      (if s.fenceHolds p true true true then (((s.sbClear p).setCoreState p csEnded).settleKernels).unitWork
        else s.setCoreState p csFencing) := by
  show execEnd c s = _
  unfold execEnd
  rw [h]

/-- Settles O8: `fenceHolds` is the conjunction of the selected conditions, and END's release clears 32 entries. -/
theorem sqFenceAndEnd : Obligations.SqFenceAndEnd := by
  unfold Obligations.SqFenceAndEnd
  intro s c p mx vx post store all mxIdle vxIdle holds
  refine ⟨?_, ?_⟩
  · intro h
    have hfence := s.fenceHolds_iff p (mx || all) (vx || all) (post || all)
    refine ⟨?_, ?_⟩
    · intro hholds
      refine (exec_fence h).trans (congrArg _ ((if_pos (hfence.mpr hholds)).trans ?_))
      rw [State.nextPc_eq, State.pc_setCoreState]
      rfl
    · intro hholds
      exact (exec_fence h).trans (congrArg _ (if_neg (mt hfence.mp hholds)))
  · intro h
    have hfence : s.fenceHolds p true true true = true ↔ mxIdle ∧ vxIdle ∧ (s.core p).postsOut = 0 := by
      rw [State.fenceHolds_iff]
      simp only [forall_const]
      rfl
    refine ⟨?_, ?_⟩
    · intro hholds
      exact (exec_end h).trans (congrArg _ (if_neg (mt hfence.mp hholds)))
    · intro hholds
      refine ⟨(s.sbClear p).setCoreState p csEnded, (exec_end h).trans (congrArg _ (if_pos (hfence.mpr hholds))), ?_⟩
      refine ⟨State.fld_setFld _ _ _, ?_, ?_, ?_, ?_, ?_⟩
      · intro i hi
        rw [← s.sbLive_sbClear hi]
        unfold State.sbLive State.bit State.setCoreState
        rw [State.fld_setFld_ne]
        simp only [Fld.key, F.spdSbAValid, F.corStatusState]
        omega
      · rw [State.setCoreState_mem, (SeqKept.sbClear s p).mem]
      · rw [State.setCoreState_kernels, State.sbClear_kernels]
      · intro j hj
        rw [State.core_setCoreState, State.core_sbClear_ne s hj]
      · refine fieldsKept.setFld (fieldsKept.sbClear s ?_) List.mem_cons_self _
        exact fun i hi => List.mem_cons_of_mem _ (List.mem_map.mpr ⟨i, List.mem_range.mpr hi, rfl⟩)

/-! ### WAIT -/

/-- COR_EVENT's W1C bit b is bit b of its register. -/
theorem eventFld_key {p b : Nat} {f : Fld} (h : eventFld p b = some f) :
    f.key = (0x400004 + p * 0x10000) * 32 + b ∧ b < 16 := by
  unfold eventFld at h
  split at h <;> cases h <;> exact ⟨rfl, by decide⟩

/-- One W1C bit of COR_EVENT cleared, if there is one at this place. -/
def State.clearEvent (s : State) (p b : Nat) : State :=
  match eventFld p b with
  | some f => s.setFld f 0
  | none => s

theorem State.clearEvents_eq (s : State) (p mask : Nat) :
    s.clearEvents p mask = (bitsOf 16 mask).foldl (fun s b => s.clearEvent p b) s := rfl

theorem State.fld_clearEvent (s : State) {p a b : Nat} {f : Fld} (h : eventFld p b = some f) :
    (s.clearEvent p a).fld f = if b = a then 0 else s.fld f := by
  unfold State.clearEvent
  by_cases hab : b = a
  · subst hab
    rw [h]
    simp
  · rw [if_neg hab]
    split
    · rename_i g hg
      refine s.fld_setFld_ne ?_ 0
      rw [(eventFld_key h).1, (eventFld_key hg).1]
      omega
    · rfl

theorem State.fld_clearEvent_ne (s : State) {p a : Nat} {g : Fld} (h : ∀ b f, eventFld p b = some f → g.key ≠ f.key) :
    (s.clearEvent p a).fld g = s.fld g := by
  unfold State.clearEvent
  split
  · rename_i f hf
    exact s.fld_setFld_ne (h a f hf) 0
  · rfl

theorem SeqKept.clearEvent {s t : State} {p : Nat} (h : SeqKept s t p) (b : Nat) : SeqKept s (t.clearEvent p b) p := by
  unfold State.clearEvent
  split
  · rename_i f hf
    exact h.setFld (by rw [(eventFld_key hf).1]; have := (eventFld_key hf).2; omega) 0
  · exact h

theorem mem_bitsOf {n m b : Nat} : b ∈ bitsOf n m ↔ b < n ∧ m.testBit b = true := by
  simp [bitsOf]

theorem State.fld_clearEvents (s : State) {p mask b : Nat} {f : Fld} (h : eventFld p b = some f) :
    (s.clearEvents p mask).fld f = if mask.testBit b then 0 else s.fld f := by
  have hfold : ∀ (l : List Nat) (u : State), (l.foldl (fun s b => s.clearEvent p b) u).fld f =
      if b ∈ l then 0 else u.fld f := by
    intro l
    induction l with
    | nil => simp
    | cons a l ih =>
      intro u
      rw [List.foldl_cons, ih, State.fld_clearEvent _ h]
      by_cases hab : b = a <;> simp [hab]
  rw [State.clearEvents_eq, hfold]
  simp only [mem_bitsOf, (eventFld_key h).2, true_and]

theorem State.fld_clearEvents_ne (s : State) {p mask : Nat} {g : Fld} (h : ∀ b f, eventFld p b = some f → g.key ≠ f.key) :
    (s.clearEvents p mask).fld g = s.fld g := by
  rw [State.clearEvents_eq]
  generalize bitsOf 16 mask = l
  induction l generalizing s with
  | nil => rfl
  | cons a l ih => rw [List.foldl_cons, ih, State.fld_clearEvent_ne _ h]

theorem SeqKept.clearEvents (s : State) (p mask : Nat) : SeqKept s (s.clearEvents p mask) p := by
  rw [State.clearEvents_eq]
  exact SeqKept.foldl (fun t b _ ht => ht.clearEvent b) (.refl s p)

theorem WaitReq.met_iff (w : WaitReq) (bits : Nat) :
    w.met bits = true ↔ if w.all then bits &&& w.mask = w.mask else bits &&& w.mask ≠ 0 := by
  unfold WaitReq.met
  split <;> simp

/-- The power state of a core rests on the core map and on its power register. -/
theorem State.power_congr {s t : State} (hmap : ∀ k, k < 3 → t.fld (F.evgCoreMap k) = s.fld (F.evgCoreMap k))
    (hstate : ∀ l, t.fld (F.pwrCoreStatusState l) = s.fld (F.pwrCoreStatusState l)) (p : Nat) : t.power p = s.power p := by
  have hcores : t.coreMap = s.coreMap := by
    unfold State.coreMap
    rw [hmap 0 (by decide), hmap 1 (by decide), hmap 2 (by decide)]
  unfold State.power State.logical
  rw [hcores]
  simp only [hstate]

/-! ### A wait that ends (R93) -/

/-- The state once CLEAR of a wait has been served. -/
def State.clearServed (s : State) (p : Nat) (w : WaitReq) : State := if w.clear then s.clearEvents p w.mask else s

theorem SeqKept.clearServed (s : State) (p : Nat) (w : WaitReq) : SeqKept s (s.clearServed p w) p := by
  unfold State.clearServed
  split
  · exact SeqKept.clearEvents s p w.mask
  · exact .refl s p

theorem State.fld_clearServed (s : State) {p b : Nat} {f : Fld} (w : WaitReq) (h : eventFld p b = some f) :
    (s.clearServed p w).fld f = if w.clear = true ∧ w.mask.testBit b = true then 0 else s.fld f := by
  unfold State.clearServed
  cases w.clear with
  | true => simpa using s.fld_clearEvents h
  | false => simp

theorem State.fld_clearServed_ne (s : State) {p : Nat} {g : Fld} (w : WaitReq)
    (h : ∀ b f, eventFld p b = some f → g.key ≠ f.key) : (s.clearServed p w).fld g = s.fld g := by
  unfold State.clearServed
  split
  · exact s.fld_clearEvents_ne h
  · rfl

theorem State.endWait_eq (s : State) (p : Nat) (w : WaitReq) :
    s.endWait p w = (((s.clearServed p w).setCore p
      { (s.clearServed p w).core p with wait := none, returnTo := none }).setCoreState p csRunning).nextPc p := rfl

/-- Beside the events it clears, a wait that ends writes the core's state and program counter alone. -/
theorem State.fld_endWait (s : State) {p : Nat} {g : Fld} (w : WaitReq) (hstate : g.key ≠ (F.corStatusState p).key)
    (hpc : g.key ≠ (F.corPc p).key) : (s.endWait p w).fld g = (s.clearServed p w).fld g := by
  rw [State.endWait_eq, State.fld_nextPc_ne _ hpc]
  exact State.fld_setFld_ne _ hstate _

theorem State.power_endWait (s : State) (p : Nat) (w : WaitReq) : (s.endWait p w).power p = s.power p := by
  have hrest : ∀ g : Fld, g.key % 32 = 29 ∨ g.key < 2 ^ 27 → (s.endWait p w).fld g = s.fld g := by
    intro g hg
    rw [s.fld_endWait w, s.fld_clearServed_ne w]
    · intro b f hf
      have := eventFld_key hf
      omega
    all_goals
      simp only [Fld.key, F.corStatusState, F.corPc] at hg ⊢
      omega
  refine State.power_congr ?_ ?_ p
  · intro k hk
    exact hrest _ (.inr (by simp only [Fld.key, F.evgCoreMap]; omega))
  · intro l
    exact hrest _ (.inl (by simp only [Fld.key, F.pwrCoreStatusState]; omega))

theorem SeqKept.endWait_before_pc (s : State) (p : Nat) (w : WaitReq) : SeqKept s (((s.clearServed p w).setCore p
    { (s.clearServed p w).core p with wait := none, returnTo := none }).setCoreState p csRunning) p := by
  refine SeqKept.setFld (f := F.corStatusState p) (SeqKept.setCore (SeqKept.clearServed s p w) p ?_) ?_ csRunning
  · rfl
  · simp only [Fld.key, F.corStatusState]
    omega

/-- What a wait that ends does, and what it leaves. -/
theorem State.endWait_ends (s : State) (p : Nat) (w : WaitReq) :
    (s.endWait p w).coreState p = csRunning ∧ (s.endWait p w).pc p = (s.pc p + 1) % 2 ^ 13 ∧
      ((s.endWait p w).core p).wait = none ∧ (s.endWait p w).mem = s.mem ∧
      (∀ r, (s.endWait p w).sreg p r = s.sreg p r) ∧ (s.endWait p w).power p = s.power p ∧
      (∀ b f, b < 16 → eventFld p b = some f →
        (s.endWait p w).fld f = if w.clear = true ∧ w.mask.testBit b = true then 0 else s.fld f) := by
  have hkept := SeqKept.endWait_before_pc s p w
  refine ⟨?_, ?_, ?_, hkept.mem, hkept.sreg, s.power_endWait p w, ?_⟩
  · unfold State.coreState
    rw [State.endWait_eq, State.fld_nextPc_ne]
    · exact State.fld_setFld _ _ _
    · simp only [Fld.key, F.corStatusState, F.corPc]
      omega
  · rw [State.endWait_eq, State.pc_nextPc, hkept.pc]
  · rw [State.endWait_eq, State.core_nextPc, State.core_setCoreState, State.core_setCore]
  · intro b f _ hf
    rw [s.fld_endWait w, s.fld_clearServed w hf] <;>
    · rw [(eventFld_key hf).1]
      simp only [Fld.key, F.corStatusState, F.corPc]
      omega

/-- WAIT with POWER 0. -/
theorem State.SqRuns.wait {s : State} {c : CoreNo} {p : Nat} {sa : SReg} {all clear : Bool} {imm : BitVec 16}
    (h : s.SqRuns c p (encWait sa.val all.toNat clear.toNat 0 imm.toNat)) (early gap : BitVec 16) {w : WaitReq}
    (hw : w = { mask := ((s.sreg p sa.val) ||| imm.setWidth 32).toNat % 65536, all, clear, power := false }) :
    exec (.wait c sa all clear false imm early gap) s = .next
      (if w.mask = 0 then s.fatal p erIllegal
        else if w.met (s.eventWord p) then s.endWait p w
        else (s.setCore p { s.core p with wait := some w }).setCoreState p csWaiting) := by
  subst hw
  show execWait c sa all clear false imm early gap s = _
  unfold execWait
  rw [show s.sqAt c (encWait sa.val all.toNat clear.toNat false.toNat imm.toNat) csRunning = some p from h.sqAt _]
  rfl

/-- CORE_WAKE_EVENT of a core that waits in Leaf for events that have come. -/
theorem exec_coreWakeEvent {s : State} {c : CoreNo} {p : Nat} {w : WaitReq} (hphys : s.phys c.val = some p)
    (hwait : (s.core p).wait = some w) (hstate : s.coreState p = csWaiting) (hleaf : s.power p = pwLeaf)
    (hmet : w.met (s.eventWord p ||| (s.core p).latch) = true) : exec (.coreWakeEvent c) s = .next (s.endWait p w) := by
  show execCoreWakeEvent c s = _
  unfold execCoreWakeEvent
  rw [hphys]
  dsimp only
  rw [hwait]
  dsimp only
  rw [if_pos ⟨hstate, hmet⟩, if_pos hleaf]

/-- Settles O9: a WAIT is refused, ends or holds as its mask and COR_EVENT say; whatever ends a wait ends it alike. -/
theorem sqWait : Obligations.SqWait := by
  unfold Obligations.SqWait
  intro s c p sa all clear imm early gap mask w meets ends
  refine ⟨?_, ?_⟩
  · intro h
    have hexec := h.wait early gap (w := w) rfl
    refine ⟨?_, ?_, ?_⟩
    · intro hmask
      exact hexec.trans (congrArg _ (if_pos hmask))
    · intro hmask hmeets
      exact .intro (hexec.trans (congrArg _ ((if_neg hmask).trans (if_pos ((w.met_iff _).mpr hmeets))))) (s.endWait_ends p w)
    · intro hmask hmeets
      exact .intro (hexec.trans (congrArg _ ((if_neg hmask).trans (if_neg (mt (w.met_iff _).mp hmeets))))) rfl
  · intro v hphys hwait hstate hleaf hmeets
    exact .intro (exec_coreWakeEvent hphys hwait hstate hleaf ((v.met_iff _).mpr hmeets)) (s.endWait_ends p v)

end Sys2Proof.Machine
end

section
/-! SB.CLAIM, SB.RELEASE and SB.TEST (R95, R96, R138, R140). It settles O10. -/

namespace Sys2Proof.Machine

/-! ### Masks -/

theorem maskOf_succ (n : Nat) (f : Nat → Bool) : maskOf (n + 1) f = if f n then 2 ^ n + maskOf n f else maskOf n f := by
  unfold maskOf
  rw [List.range_succ, List.foldl_append, List.foldl_cons, List.foldl_nil, Nat.add_comm]

theorem maskOf_lt (n : Nat) (f : Nat → Bool) : maskOf n f < 2 ^ n := by
  induction n with
  | zero => exact Nat.one_pos
  | succ n ih =>
    rw [maskOf_succ, pow_succ]
    split <;> omega

theorem testBit_maskOf {n : Nat} (f : Nat → Bool) {i : Nat} (h : i < n) : (maskOf n f).testBit i = f i := by
  induction n with
  | zero => cases h
  | succ n ih =>
    rw [maskOf_succ]
    rcases Nat.lt_succ_iff_lt_or_eq.mp h with hlt | rfl
    · split
      · rw [Nat.testBit_two_pow_add_gt hlt, ih hlt]
      · exact ih hlt
    · have hlow : (maskOf i f).testBit i = false := Nat.testBit_lt_two_pow (maskOf_lt i f)
      cases hf : f i with
      | true => simp [Nat.testBit_two_pow_add_eq, hlow]
      | false => simp [hlow]

/-! ### A claim -/

theorem State.sbFree_eq_none {s : State} {p : Nat} (h : ∀ i, i < 32 → s.sbLive p i = true) : s.sbFree p = none := by
  unfold State.sbFree
  rw [List.find?_eq_none]
  intro i hi
  simp [h i (List.mem_range.mp hi)]

theorem State.sbFree_eq_some {s : State} {p i : Nat} (hi : i < 32) (hfree : s.sbLive p i = false)
    (hlow : ∀ j, j < i → s.sbLive p j = true) : s.sbFree p = some i := by
  unfold State.sbFree
  rw [List.find?_range_eq_some]
  refine ⟨by simp [hfree], List.mem_range.mpr hi, ?_⟩
  intro j hj
  simp [hlow j hj]

/-! ### Fields written one after another -/

/-- Register fields set one after another. -/
def State.setFlds (s : State) (l : List (Fld × Nat)) : State := l.foldl (fun s x => s.setFld x.1 x.2) s

theorem State.fld_setFlds_ne (s : State) {l : List (Fld × Nat)} {g : Fld} (h : ∀ x ∈ l, g.key ≠ x.1.key) :
    (s.setFlds l).fld g = s.fld g := by
  unfold State.setFlds
  induction l generalizing s with
  | nil => rfl
  | cons x l ih =>
    rw [List.foldl_cons, ih _ fun y hy => h y (List.mem_cons_of_mem _ hy), s.fld_setFld_ne (h x List.mem_cons_self)]

/-- Of fields that stand in different places each holds its own value. -/
theorem State.fld_setFlds_of_mem (s : State) {l : List (Fld × Nat)} (hl : (l.map fun x => x.1.key).Nodup) {f : Fld} {v : Nat}
    (h : (f, v) ∈ l) : (s.setFlds l).fld f = v % 2 ^ f.w := by
  induction l generalizing s with
  | nil => cases h
  | cons x l ih =>
    obtain ⟨hx, hrest⟩ := List.nodup_cons.mp hl
    rcases List.mem_cons.mp h with rfl | h
    · refine (State.fld_setFlds_ne (s.setFld f v) ?_).trans (s.fld_setFld f v)
      intro y hy e
      exact hx (List.mem_map.mpr ⟨y, hy, e.symm⟩)
    · exact ih (s.setFld x.1 x.2) hrest h

theorem SeqKept.setFlds {s t : State} {p : Nat} (h : SeqKept s t p) {l : List (Fld × Nat)}
    (hl : ∀ x ∈ l, x.1.key % 2 ^ 21 ≠ 0x200 ∨ x.1.key < 2 ^ 27) : SeqKept s (t.setFlds l) p :=
  SeqKept.foldl (fun _ x hx hu => hu.setFld (hl x hx) x.2) h

/-! ### An entry that comes into being (R138, R140) -/

/-- The fields of scoreboard entry i of core p, with the values of an entered range. -/
def entryFields (p i kind source engine origin first last : Nat) : List (Fld × Nat) :=
  [(F.spdSbAValid p i, 1), (F.spdSbAKind p i, kind), (F.spdSbASource p i, source), (F.spdSbAFirstRow p i, first),
    (F.spdSbBEngine p i, engine), (F.spdSbBOrigin p i, origin), (F.spdSbBLastRow p i, last)]

section
variable {p i kind source engine origin first last : Nat}

theorem entryFields_nodup : ((entryFields p i kind source engine origin first last).map fun x => x.1.key).Nodup := by
  simp only [entryFields, Fld.key, F.spdSbAValid, F.spdSbAKind, F.spdSbASource, F.spdSbAFirstRow, F.spdSbBEngine,
    F.spdSbBOrigin, F.spdSbBLastRow, List.map_cons, List.map_nil, List.nodup_cons, List.mem_cons, List.not_mem_nil,
    List.nodup_nil, or_false, not_or, not_false_eq_true, and_true]
  omega

/-- Where the fields of an entry stand. -/
theorem entryFields_key {x : Fld × Nat} (h : x ∈ entryFields p i kind source engine origin first last) :
    (0x404100 + p * 0x10000 + i * 8) * 32 ≤ x.1.key ∧ x.1.key < (0x404108 + p * 0x10000 + i * 8) * 32 := by
  simp only [entryFields, List.mem_cons, List.not_mem_nil, or_false] at h
  rcases h with rfl | rfl | rfl | rfl | rfl | rfl | rfl <;>
  · simp only [Fld.key, F.spdSbAValid, F.spdSbAKind, F.spdSbASource, F.spdSbAFirstRow, F.spdSbBEngine,
      F.spdSbBOrigin, F.spdSbBLastRow]
    omega

theorem State.sbEnter_eq (s : State) (owner : Option (Sum Nat Nat)) :
    s.sbEnter p i kind source engine origin first last owner =
      (s.setFlds (entryFields p i kind source engine origin first last)).setCore p
        { s.core p with sbOrder := (s.core p).sbOrder ++ [{ entry := i, owner }] } := by
  unfold State.sbEnter State.setFlds entryFields
  simp only [List.foldl_cons, List.foldl_nil, State.core_setFld]

theorem State.fld_sbEnter (s : State) (owner : Option (Sum Nat Nat)) (g : Fld) :
    (s.sbEnter p i kind source engine origin first last owner).fld g =
      (s.setFlds (entryFields p i kind source engine origin first last)).fld g := by
  rw [State.sbEnter_eq, State.fld_setCore]

theorem SeqKept.sbEnter (s : State) (hi : i < 32) (owner : Option (Sum Nat Nat)) :
    SeqKept s (s.sbEnter p i kind source engine origin first last owner) p := by
  rw [State.sbEnter_eq]
  refine SeqKept.setCore ((SeqKept.refl s p).setFlds fun x hx => ?_) p rfl
  have := entryFields_key hx
  omega

end

theorem State.sbLive_setSreg (s : State) (p q r i : Nat) (v : Word) : (s.setSreg p r v).sbLive q i = s.sbLive q i := by
  unfold State.sbLive State.bit
  rw [State.fld_setSreg]

theorem State.sbLive_nextPc (s : State) (p q i : Nat) : (s.nextPc p).sbLive q i = s.sbLive q i := by
  unfold State.sbLive State.bit
  rw [State.fld_nextPc_ne]
  simp only [Fld.key, F.spdSbAValid, F.corPc]
  omega

/-! ### A release that lets nothing in -/

theorem State.dmaEnterOne_eq_self (s : State) {c p : Nat} (h : ∀ r, (s.chan c).run = some r → r.sbPend = []) :
    s.dmaEnterOne c p = s := by
  unfold State.dmaEnterOne
  split
  · rfl
  · rename_i r hr
    split
    · exact if_neg (by simp [h r hr])
    · rfl

theorem State.dmaEnterAll_eq_self (s : State) {p : Nat} (h : ∀ j r, (s.chan j).run = some r → r.sbPend = []) :
    s.dmaEnterAll p = s :=
  List.foldl_fixed' (fun c => s.dmaEnterOne_eq_self (h c)) _

theorem State.enterDescs_eq_self (s : State) {p : Nat} (h : ∀ d ∈ (s.core p).mxq ++ (s.core p).vxq, d.entered = true)
    (n : Nat) : s.enterDescs p n = s := by
  have hnone : s.nextToEnter p = none := by
    unfold State.nextToEnter
    dsimp only
    rw [List.filter_eq_nil_iff.mpr fun d hd => by simp [h d hd]]
    rfl
  cases n with
  | zero => rfl
  | succ n =>
    unfold State.enterDescs
    rw [hnone]

/-- Freed entries that no DMA write and no fetched descriptor waits for. -/
theorem State.sbFreed_eq_self (s : State) {p : Nat} (hdma : ∀ j r, (s.chan j).run = some r → r.sbPend = [])
    (hdesc : ∀ d ∈ (s.core p).mxq ++ (s.core p).vxq, d.entered = true) : s.sbFreed p = s := by
  unfold State.sbFreed
  rw [s.dmaEnterAll_eq_self hdma]
  dsimp only
  split
  · rfl
  · exact s.enterDescs_eq_self hdesc 17

/-! ### The three instructions -/

section
variable {s : State} {c : CoreNo} {p : Nat}

theorem State.SqRuns.sbClaim {kind : Fin 4} {sa sb sd : SReg} (hkind : kind.val < 2)
    (h : s.SqRuns c p (encSb 0 kind.val sa.val sb.val sd.val)) :
    exec (.sbClaim c kind sa sb sd) s = .next
      (if s.fld (F.corStatusMode p) = 0 ∨ (s.sreg p sb.val).toNat = 0 ∨
          2 ^ 24 < (s.sreg p sa.val).toNat + (s.sreg p sb.val).toNat then s.fatal p erSbRange
        else match s.sbFree p with
          | none => s.addFld (F.corSbStall p) 1
          | some i => ((s.sbEnter p i kind.val 0 0 0 ((s.sreg p sa.val).toNat / 256)
              (((s.sreg p sa.val).toNat + (s.sreg p sb.val).toNat - 1) / 256) none).setSreg p sd.val
                (BitVec.ofNat 32 i)).nextPc p) := by
  show execSbClaim c kind sa sb sd s = _
  unfold execSbClaim
  rw [h.sqAt]
  exact congrArg Host.Outcome.next (if_neg (Nat.not_le.mpr hkind))

theorem State.SqRuns.sbRelease {sa : SReg} (h : s.SqRuns c p (encSb 1 0 sa.val 0 0)) :
    exec (.sbRelease c sa) s = .next (if s.fld (F.corStatusMode p) = 0 then s.fatal p erSbRange
      else ((s.sbRelease p ((s.sreg p sa.val).toNat % 32)).nextPc p).sbFreed p) := by
  show execSbRelease c sa s = _
  unfold execSbRelease
  rw [h.sqAt]

theorem State.SqRuns.sbTest {sd : SReg} (h : s.SqRuns c p (encSb 2 0 0 0 sd.val)) :
    exec (.sbTest c sd) s = .next (if s.fld (F.corStatusMode p) = 0 then s.fatal p erSbRange
      else (s.setSreg p sd.val (BitVec.ofNat 32 (s.sbMask p))).nextPc p) := by
  show execSbTest c sd s = _
  unfold execSbTest
  rw [h.sqAt]

end

/-- A claim that found entry i free. -/
theorem State.sbEnter_claim (s : State) {p i kind a len : Nat} (sd : SReg) (hi : i < 32) (hkind : kind < 2)
    (hlen : len ≠ 0) (hrange : a + len ≤ 2 ^ 24) {t : State}
    (ht : t = ((s.sbEnter p i kind 0 0 0 (a / 256) ((a + len - 1) / 256) none).setSreg p sd.val
      (BitVec.ofNat 32 i)).nextPc p) :
    t.sbLive p i = true ∧ (∀ j, j < 32 → j ≠ i → t.sbLive p j = s.sbLive p j) ∧ t.fld (F.spdSbAKind p i) = kind ∧
      t.fld (F.spdSbASource p i) = 0 ∧ t.fld (F.spdSbAFirstRow p i) = a / 256 ∧
      t.fld (F.spdSbBLastRow p i) = (a + len - 1) / 256 ∧
      (∀ r, t.sreg p r = if r = sd.val ∧ r ≠ 0 then BitVec.ofNat 32 i else s.sreg p r) ∧
      t.pc p = (s.pc p + 1) % 2 ^ 13 ∧ t.mem = s.mem := by
  subst ht
  have hkept : SeqKept s (s.sbEnter p i kind 0 0 0 (a / 256) ((a + len - 1) / 256) none) p := SeqKept.sbEnter s hi none
  have hfld : ∀ {f : Fld} {v : Nat}, (f, v) ∈ entryFields p i kind 0 0 0 (a / 256) ((a + len - 1) / 256) → v < 2 ^ f.w →
      (((s.sbEnter p i kind 0 0 0 (a / 256) ((a + len - 1) / 256) none).setSreg p sd.val (BitVec.ofNat 32 i)).nextPc p).fld f =
        v := by
    intro f v hf hv
    have hkey := entryFields_key hf
    rw [State.fld_nextPc_ne, State.fld_setSreg, State.fld_sbEnter, State.fld_setFlds_of_mem _ entryFields_nodup hf,
      Nat.mod_eq_of_lt hv]
    simp only [Fld.key, F.corPc] at hkey ⊢
    omega
  refine ⟨?_, ?_, ?_, ?_, ?_, ?_, ?_, ?_, ?_⟩
  · exact beq_iff_eq.mpr (hfld (f := F.spdSbAValid p i) (by simp [entryFields]) Nat.one_lt_two)
  · intro j _ hj
    rw [State.sbLive_nextPc, State.sbLive_setSreg]
    unfold State.sbLive State.bit
    rw [State.fld_sbEnter, State.fld_setFlds_ne]
    intro x hx
    have hkey := entryFields_key hx
    simp only [Fld.key, F.spdSbAValid] at hkey ⊢
    omega
  · exact hfld (by simp [entryFields]) hkind
  · exact hfld (by simp [entryFields]) (Nat.two_pow_pos _)
  · exact hfld (by simp [entryFields]) (show a / 256 < 65536 by omega)
  · exact hfld (by simp [entryFields]) (show (a + len - 1) / 256 < 65536 by omega)
  · intro r
    rw [State.sreg_nextPc, (writesSregs_setSreg p sd.val _).sreg, hkept.sreg]
    split <;> rfl
  · rw [State.pc_nextPc, State.pc_setSreg, hkept.pc]
  · exact (State.setSreg_mem _ _ _ _).trans hkept.mem

/-- Settles O10: the lowest free entry is `sbFree`, a claim writes that entry's fields, and a release frees one. -/
theorem sqScoreboard : Obligations.SqScoreboard := by
  unfold Obligations.SqScoreboard
  intro s c p kind sa sb sd a len static bad
  refine ⟨?_, ?_, ?_⟩
  · intro hkind h
    have hexec := h.sbClaim hkind
    refine ⟨?_, ?_, ?_⟩
    · intro hbad
      exact hexec.trans (congrArg _ (if_pos hbad))
    · intro hgood hfull
      exact hexec.trans (congrArg _ ((if_neg hgood).trans (by rw [State.sbFree_eq_none hfull]; rfl)))
    · intro i hgood hi hfree hlow
      have hlen : len ≠ 0 := fun e => hgood (.inr (.inl e))
      have hrange : a + len ≤ 2 ^ 24 := Nat.not_lt.mp fun e => hgood (.inr (.inr e))
      exact .intro (hexec.trans (congrArg _ ((if_neg hgood).trans (by rw [State.sbFree_eq_some hi hfree hlow]))))
        (s.sbEnter_claim sd hi hkind hlen hrange rfl)
  · intro h
    refine ⟨?_, ?_⟩
    · intro hstatic
      exact h.sbRelease.trans (congrArg _ (if_pos hstatic))
    · intro hdynamic hdesc hdma
      have hkept := (SeqKept.refl s p).sbRelease (a % 32)
      have hfreed : ((s.sbRelease p (a % 32)).nextPc p).sbFreed p = (s.sbRelease p (a % 32)).nextPc p := by
        refine State.sbFreed_eq_self _ hdma ?_
        rw [State.core_nextPc]
        unfold State.sbRelease
        rw [State.core_setFld, State.core_setCore]
        exact hdesc
      refine .intro (h.sbRelease.trans (congrArg _ ((if_neg hdynamic).trans hfreed))) ⟨?_, ?_, ?_, ?_, ?_⟩
      · rw [State.sbLive_nextPc, State.sbLive_sbRelease, if_pos rfl]
      · intro j _ hj
        rw [State.sbLive_nextPc, State.sbLive_sbRelease, if_neg hj]
      · exact hkept.sreg
      · rw [State.pc_nextPc, hkept.pc]
      · exact hkept.mem
  · intro h
    refine ⟨?_, ?_⟩
    · intro hstatic
      exact h.sbTest.trans (congrArg _ (if_pos hstatic))
    · intro hdynamic
      exact .intro (h.sbTest.trans (congrArg _ (if_neg hdynamic)))
        ⟨s.sbMask p, maskOf_lt 32 _, fun i hi => testBit_maskOf _ hi, s.sqWrites_intro p sd _⟩

end Sys2Proof.Machine
end

section
/-! POST (R50, R85, R99, R382, R577). It settles O14. -/

namespace Sys2Proof.Machine

/-! ### Work of the binder unit -/

theorem State.drain_eq_self {s : State} (h : s.bops = []) (n : Nat) : s.drain n = s := by
  cases n with
  | zero => rfl
  | succ n =>
    unfold State.drain
    rw [h]

theorem State.unitWork_eq_self {s : State} (h : s.bops = []) : s.unitWork = s := s.drain_eq_self h 4096

/-! ### The way of a POST -/

/-- The link of a POST rests on the links' states and partners. -/
theorem State.linkOfPost_congr {s t : State} (hstate : ∀ i, t.fld (F.lnkStatusState i) = s.fld (F.lnkStatusState i))
    (hclass : ∀ i, t.fld (F.lnkPartnerPclass i) = s.fld (F.lnkPartnerPclass i))
    (hdie : ∀ i, t.fld (F.lnkPartnerDie i) = s.fld (F.lnkPartnerDie i)) (p die : Nat) :
    t.linkOfPost p die = s.linkOfPost p die := by
  have hup : t.linkUp = s.linkUp := by
    funext i
    unfold State.linkUp State.linkState
    rw [hstate]
  have hleads : t.peerLeadsTo die = s.peerLeadsTo die := by
    funext i
    unfold State.peerLeadsTo
    rw [hup, hclass, hdie]
  unfold State.linkOfPost State.peerTo State.baseFrom
  rw [hup, hleads]

theorem State.dieNo_congr {s t : State} (hpackage : t.fld F.evgPlacementPackage = s.fld F.evgPlacementPackage)
    (hposition : t.fld F.evgPlacementPosition = s.fld F.evgPlacementPosition) : t.dieNo = s.dieNo := by
  unfold State.dieNo
  rw [hpackage, hposition]

/-- A core whose POST has been counted and whose program counter has moved on. -/
def State.posted (s : State) (p : Nat) : State := (s.postOut p).nextPc p

section
variable (s : State) (p : Nat)

theorem State.core_posted : (s.posted p).core p = { s.core p with postsOut := (s.core p).postsOut + 1 } := by
  unfold State.posted State.postOut
  rw [State.core_nextPc, State.core_setCore]

theorem State.fld_posted_ne {g : Fld} (h : g.key ≠ (F.corPc p).key) : (s.posted p).fld g = s.fld g :=
  State.fld_nextPc_ne _ h

theorem State.pc_posted : (s.posted p).pc p = (s.pc p + 1) % 2 ^ 13 := State.pc_nextPc _ p

theorem State.fieldsKept_posted : fieldsKept s (s.posted p) [(F.corPc p).key] :=
  fun _ h => s.fld_posted_ne p fun e => h (by simp [e])

theorem State.linkOfPost_posted (q die : Nat) : (s.posted p).linkOfPost q die = s.linkOfPost q die := by
  refine State.linkOfPost_congr ?_ ?_ ?_ q die <;>
  · intro i
    refine s.fld_posted_ne p ?_
    simp only [Fld.key, F.lnkStatusState, F.lnkPartnerPclass, F.lnkPartnerDie, F.corPc]
    omega

theorem State.dieNo_posted : (s.posted p).dieNo = s.dieNo := by
  refine State.dieNo_congr (s.fld_posted_ne p ?_) (s.fld_posted_ne p ?_) <;>
  · simp only [Fld.key, F.evgPlacementPackage, F.evgPlacementPosition, F.corPc]
    omega

theorem State.coreState_posted : (s.posted p).coreState p = s.coreState p := by
  refine s.fld_posted_ne p ?_
  simp only [Fld.key, F.corStatusState, F.corPc]
  omega

theorem State.linkUp_posted (i : Nat) : (s.posted p).linkUp i = s.linkUp i := by
  unfold State.linkUp State.linkState
  rw [State.fld_posted_ne]
  simp only [Fld.key, F.lnkStatusState, F.corPc]
  omega

end

/-! ### What becomes of a POST -/

section
variable {s : State} {c : CoreNo} {p : Nat} {sa sb : SReg}

/-- POST of a core that runs it. -/
theorem State.SqRuns.post (h : s.SqRuns c p (encA 0x24 0 sa.val sb.val)) : exec (.post c sa sb) s = .next
    (if sa.val % 2 = 1 ∨ addrSpace (s.sreg64 p sa.val) = 0 ∨ addrSpace (s.sreg64 p sa.val) = 1 ∨
        addrSpace (s.sreg64 p sa.val) = 4 then s.fatal p erIllegal
      else if 16 ≤ (s.core p).postsOut then
        if s.fld (F.corStatusMode p) = 0 then
          (s.setCore p { s.core p with frozenOwn := true, frozenFrom := some csRunning }).setCoreState p csFrozen
        else s
      else ((s.posted p).sendPost p c.val (s.sreg64 p sa.val) (s.sreg p sb.val)).unitWork) := by
  have hrunning : s.coreState p ≠ csFrozen := by
    rw [h.running]
    decide
  show execPost c sa sb s = _
  unfold execPost
  rw [h.sqAt]
  simp only [if_neg hrunning]
  rfl

end

section
variable {s : State} {p l a i : Nat} {v : Word}

/-- A POST to a place in another die's space 3 or 5 is a WRITE on its link. -/
theorem State.sendPost_remote (hspace : addrSpace a = 3 ∨ addrSpace a = 5) (hdie : addrDie a ≠ s.dieNo)
    (hpos : addrPos a ≤ 11) (hlayout : s.remoteLayoutOk a = true) (hlink : s.linkOfPost p (addrDie a) = some i) :
    s.sendPost p l a v = s.sendOn i 0 (.write (0xFF00 + l * 2) none true a (leBytes 4 v.toNat)) := by
  have hlocal : s.isLocal a = false := by simp [State.isLocal, hdie]
  unfold State.sendPost
  dsimp only
  rw [if_neg (by omega), if_neg (by omega), if_neg (by simp [hlayout, Nat.not_lt.mpr hpos]), hlocal, hlink]
  rfl

/-- A POST to a reserved space is counted and answered at once (R50). -/
theorem State.sendPost_reserved (hspace : 6 ≤ addrSpace a) :
    s.sendPost p l a v = (s.addFld F.fltBadSpace 1).postAnswered p stBadParam := if_pos hspace

/-- A packet on a link that is up goes out last. -/
theorem State.sendOn_up (hup : s.linkUp i = true) (vc : Nat) (x : OutPkt) :
    s.sendOn i vc x = s.setLink i { s.link i with txq := (s.link i).txq ++ [(vc, x)] } := by
  unfold State.sendOn
  dsimp only
  rw [hup]
  rfl

/-- An outstanding POST of a running core rejected: one less is outstanding, and COR_POST_STATUS says why. -/
theorem State.postAnswered_rejected {status : Nat} (hout : (s.core p).postsOut ≠ 0) (hown : (s.core p).frozenOwn = false)
    (hrunning : s.coreState p = csRunning) (hstatus : status ≠ stOk) :
    s.postAnswered p status = ((s.setCore p { s.core p with postsOut := (s.core p).postsOut - 1 }).setFld
      (F.corPostStatusStatus p) status).satFld (F.corPostStatusRejects p) 1 := by
  unfold State.postAnswered
  dsimp only
  rw [if_neg hout, if_neg hstatus]
  have hthaw : (s.setCore p { s.core p with postsOut := (s.core p).postsOut - 1 }).thawOwn p =
      s.setCore p { s.core p with postsOut := (s.core p).postsOut - 1 } := by
    unfold State.thawOwn
    dsimp only
    rw [State.core_setCore, if_neg (by simp [hown])]
  rw [hthaw]
  refine if_neg fun hfaulted => ?_
  have hstate : ∀ u : State, ((u.setFld (F.corPostStatusStatus p) status).satFld (F.corPostStatusRejects p) 1).coreState p =
      u.coreState p := by
    intro u
    refine (State.fld_setFld_ne _ ?_ _).trans (State.fld_setFld_ne _ ?_ _) <;>
    · simp only [Fld.key, F.corStatusState, F.corPostStatusRejects, F.corPostStatusStatus]
      omega
  rw [hstate] at hfaulted
  exact absurd (hrunning.symm.trans hfaulted.1) (by decide)

/-- What such a rejection leaves. -/
theorem State.postAnswered_rejected_facts {status : Nat} (hout : (s.core p).postsOut ≠ 0)
    (hown : (s.core p).frozenOwn = false) (hrunning : s.coreState p = csRunning) (hstatus : status ≠ stOk) :
    ((s.postAnswered p status).core p).postsOut = (s.core p).postsOut - 1 ∧
      (s.postAnswered p status).fld (F.corPostStatusStatus p) = status % 256 ∧
      (∀ g : Fld, g.key ≠ (F.corPostStatusStatus p).key → g.key ≠ (F.corPostStatusRejects p).key →
        (s.postAnswered p status).fld g = s.fld g) ∧
      (s.postAnswered p status).mem = s.mem ∧ (s.postAnswered p status).bops = s.bops := by
  rw [State.postAnswered_rejected hout hown hrunning hstatus]
  unfold State.satFld
  refine ⟨?_, ?_, ?_, rfl, rfl⟩
  · rw [State.core_setFld, State.core_setFld, State.core_setCore]
  · refine (State.fld_setFld_ne _ ?_ _).trans (State.fld_setFld _ _ _)
    simp only [Fld.key, F.corPostStatusStatus, F.corPostStatusRejects]
    omega
  · intro g hstat hrejects
    rw [State.fld_setFld_ne _ hrejects, State.fld_setFld_ne _ hstat, State.fld_setCore]

end

/-- Settles O14: which branch of POST is taken, and for the two that send it what `sendPost` does. -/
theorem sqPost : Obligations.SqPost := by
  unfold Obligations.SqPost
  intro s c p sa sb h a space bad n
  have hgone : ∀ {t : State}, ¬ bad → n < 16 →
      (s.posted p).sendPost p c.val (s.sreg64 p sa.val) (s.sreg p sb.val) = t → t.bops = [] →
      exec (.post c sa sb) s = .next t := by
    intro t hgood hn ht hbops
    refine h.post.trans (congrArg _ ((if_neg hgood).trans ((if_neg (Nat.not_le.mpr hn)).trans ?_)))
    rw [ht, State.unitWork_eq_self hbops]
  refine ⟨?_, ?_, ?_, ?_, ?_⟩
  · intro hbad
    exact h.post.trans (congrArg _ (if_pos hbad))
  · intro hgood hn hmode
    exact h.post.trans (congrArg _ ((if_neg hgood).trans ((if_pos hn).trans (if_neg hmode))))
  · intro hgood hn hmode
    refine .intro (h.post.trans (congrArg _ ((if_neg hgood).trans ((if_pos hn).trans (if_pos hmode))))) ⟨?_, ?_, ?_, ?_⟩
    · exact State.fld_setFld _ _ _
    · exact State.pc_setCoreState _ p p _
    · rw [State.core_setCoreState, State.core_setCore]
    · rfl
  · intro i hgood hn hbops hspace hdie hpos hlayout hlink hup
    have hsend : (s.posted p).sendPost p c.val (s.sreg64 p sa.val) (s.sreg p sb.val) =
        (s.posted p).setLink i { s.link i with
          txq := (s.link i).txq ++ [(0, .write (0xFF00 + c.val * 2) none true a (leBytes 4 (s.sreg p sb.val).toNat))] } := by
      have hremote := State.sendPost_remote (s := s.posted p) (l := c.val) (v := s.sreg p sb.val) hspace
        (by rw [State.dieNo_posted]; exact hdie) hpos hlayout ((s.linkOfPost_posted p p _).trans hlink)
      exact hremote.trans (State.sendOn_up ((s.linkUp_posted p i).trans hup) 0 _)
    refine .intro (hgone hgood hn hsend hbops) ⟨?_, ?_, ?_, ?_, ?_, ?_⟩
    · rw [State.link_setLink]
    · rw [State.core_setLink, State.core_posted]
    · exact s.pc_posted p
    · rfl
    · intro j hj
      rw [State.link_setLink_ne _ hj]
      rfl
    · exact s.fieldsKept_posted p
  · intro hgood hn hbops hspace hown
    have hcore : ((s.posted p).addFld F.fltBadSpace 1).core p = { s.core p with postsOut := n + 1 } := s.core_posted p
    have hrunning : ((s.posted p).addFld F.fltBadSpace 1).coreState p = csRunning := by
      refine (State.fld_addFld_ne _ ?_ 1).trans ((s.coreState_posted p).trans h.running)
      simp only [Fld.key, F.corStatusState, F.fltBadSpace]
      omega
    obtain ⟨hout, hstatus, hother, hmem, hwork⟩ := State.postAnswered_rejected_facts (status := stBadParam)
      (by rw [hcore]; exact Nat.succ_ne_zero n) (by rw [hcore]; exact hown) hrunning (by decide)
    refine .intro (hgone hgood hn (State.sendPost_reserved hspace) (hwork.trans hbops)) ⟨?_, hstatus, ?_, ?_, hmem⟩
    · rw [hother, State.fld_addFld, State.fld_posted_ne]
      · rfl
      all_goals
        simp only [Fld.key, F.fltBadSpace, F.corPostStatusStatus, F.corPostStatusRejects, F.corPc]
        omega
    · rw [hout, hcore]
      rfl
    · unfold State.pc
      rw [hother, State.fld_addFld_ne]
      · exact s.pc_posted p
      all_goals
        simp only [Fld.key, F.fltBadSpace, F.corPostStatusStatus, F.corPostStatusRejects, F.corPc]
        omega

end Sys2Proof.Machine
end

section
/-! The records that a fatal error makes (R113, R114, R117, R340, R564), and the refutation of O11 that rests on them: a
fetch that meets an uncorrectable error makes a SCRATCH_UE record of its own (R143, R565), and the ring of the queue's
EVENT context lies in the die's own banks. -/

namespace Sys2Proof.Machine

/-! ### Operations that leave every core as it was -/

section
variable (s : State)

theorem cores_foldl {β : Type} {f : State → β → State} (hf : ∀ s x, (f s x).cores = s.cores) (l : List β) (s : State) :
    (l.foldl f s).cores = s.cores := by
  induction l generalizing s with
  | nil => rfl
  | cons x l ih => rw [List.foldl_cons, ih, hf]

@[simp] theorem State.logEvent_cores (severity kind status code unit context detail : Nat) :
    (s.logEvent severity kind status code unit context detail).cores = s.cores := by
  unfold State.logEvent
  extract_lets e r s'
  split <;> rfl

@[simp] theorem State.recordError_cores (p code pc : Nat) : (s.recordError p code pc).cores = s.cores := by
  unfold State.recordError
  extract_lets s'
  split <;> rfl

@[simp] theorem State.sendOn_cores (i vc : Nat) (x : OutPkt) : (s.sendOn i vc x).cores = s.cores := by
  unfold State.sendOn
  extract_lets l
  split <;> rfl

@[simp] theorem State.recordLanded_cores (cq idx : Nat) (again : Bool) : (s.recordLanded cq idx again).cores = s.cores := by
  unfold State.recordLanded
  extract_lets s'
  have hs' : s'.cores = s.cores := by
    unfold s'
    split <;> rfl
  clear_value s'
  split
  · exact hs'
  · split <;> exact hs'

@[simp] theorem State.noteFailed_cores (ring q status : Nat) (event : Bool) :
    (s.noteFailed ring q status event).cores = s.cores := by
  unfold State.noteFailed
  split
  · rfl
  · simp

@[simp] theorem State.unloadSection_cores (x : PlnSection) : (s.unloadSection x).cores = s.cores := by
  unfold State.unloadSection
  extract_lets s'
  have hs' : s'.cores = s.cores := by
    refine cores_foldl ?_ _ s
    intro u n
    split <;> rfl
  clear_value s'
  split
  · exact hs'
  · exact hs'

@[simp] theorem State.releaseStream_cores (key : Nat) (t : AdpStream) : (s.releaseStream key t).cores = s.cores := by
  unfold State.releaseStream
  split
  · rfl
  · extract_lets s'
    split <;> rfl

@[simp] theorem State.unloadBlock_cores (queue idx : Nat) : (s.unloadBlock queue idx).cores = s.cores := by
  unfold State.unloadBlock
  extract_lets mine cleared unloaded
  have hunloaded : unloaded.cores = s.cores := cores_foldl State.unloadSection_cores _ cleared
  exact (cores_foldl (fun u (x : Nat × AdpStream) => u.releaseStream_cores x.1 x.2) _ unloaded).trans hunloaded

@[simp] theorem State.railRequest_cores (h mv : Nat) : (s.railRequest h mv).cores = s.cores := by
  unfold State.railRequest
  split
  · rfl
  · exact s.sendOn_cores _ _ _

@[simp] theorem State.glideTo_cores (h want : Nat) (cap : Bool) : (s.glideTo h want cap).cores = s.cores := by
  unfold State.glideTo
  split <;> rfl

@[simp] theorem State.retarget_cores (h : Nat) (cap : Bool) : (s.retarget h cap).cores = s.cores := by
  unfold State.retarget
  extract_lets s' want cur
  have hs' : s'.cores = s.cores := rfl
  clear_value s'
  split
  · exact hs'
  · split
    · exact hs'
    · split
      · rw [State.glideTo_cores, hs']
      · split
        · exact hs'
        · rw [State.railRequest_cores]
          exact hs'

end

/-! ### Records that wait in an inbound buffer (R132, R564) -/

/-- Whether a write is the copy of a SCRATCH_UE event on its way to an EVENT ring. -/
def Origin.isScratchUe : Origin → Bool
  | .event _ _ e _ => e.code == 0x0202
  | _ => false

/-- No SCRATCH_UE record waits in the inbound buffer of a core. -/
def State.NoUeWaits (s : State) : Prop := ∀ j, ∀ w ∈ (s.core j).inbox, w.from_.isScratchUe = false

section
variable {s t : State}

theorem State.NoUeWaits.of_cores (h : s.NoUeWaits) (ht : t.cores = s.cores) : t.NoUeWaits := by
  intro j
  unfold State.core
  rw [ht]
  exact h j

theorem State.NoUeWaits.setFld (h : s.NoUeWaits) (f : Fld) (v : Nat) : (s.setFld f v).NoUeWaits := h.of_cores rfl

theorem State.NoUeWaits.setQueue (h : s.NoUeWaits) (q : Nat) (x : QueueSt) : (s.setQueue q x).NoUeWaits := h.of_cores rfl

theorem State.NoUeWaits.setCore (h : s.NoUeWaits) (p : Nat) {x : CoreSt}
    (hx : ∀ w ∈ x.inbox, w.from_.isScratchUe = false) : (s.setCore p x).NoUeWaits := by
  intro j
  by_cases hj : j = p
  · subst hj
    rw [State.core_setCore]
    exact hx
  · rw [State.core_setCore_ne _ hj]
    exact h j

theorem State.NoUeWaits.foldl {β : Type} {f : State → β → State} (hf : ∀ s x, s.NoUeWaits → (f s x).NoUeWaits)
    (l : List β) (h : s.NoUeWaits) : (l.foldl f s).NoUeWaits := by
  induction l generalizing s with
  | nil => exact h
  | cons x l ih => exact ih (hf s x h)

theorem State.NoUeWaits.beginWake (h : s.NoUeWaits) (p cause : Nat) : (s.beginWake p cause).NoUeWaits := by
  unfold State.beginWake
  split
  · exact h
  · extract_lets x c s'
    split
    · split
      · exact h
      · exact h.setCore p (h p)
    · split
      · exact h.setCore p (h p)
      · have hs' : s'.NoUeWaits := h.setCore p (h p)
        exact (hs'.setFld _ _).setFld _ _

theorem State.NoUeWaits.meetCore (h : s.NoUeWaits) {p : Nat} (ht : s.meetCore p = .ok t) : t.NoUeWaits := by
  unfold State.meetCore at ht
  split at ht
  · cases ht
  · split at ht
    · cases ht
    · split at ht <;> cases ht
      · exact h
      · exact h.beginWake p 2

theorem State.NoUeWaits.ownWrite (h : s.NoUeWaits) (p off : Nat) (data : List Byte) {o : Origin} (ho : o.isScratchUe = false)
    (awake : Bool) : (s.ownWrite p off data o awake).1.NoUeWaits := by
  unfold State.ownWrite
  extract_lets c routed w s' r row
  split
  · exact h.of_cores rfl
  · split
    · refine State.NoUeWaits.setCore (h.of_cores rfl) p ?_
      intro x hx
      rcases List.mem_append.mp hx with hx | hx
      · exact h p x hx
      · rw [List.mem_singleton.mp hx]
        exact ho
    · exact h.of_cores rfl

theorem State.NoUeWaits.ringWrite (h : s.NoUeWaits) (cq : Nat) (slot : Option Nat) (again : Bool) (data : Nat → List Byte)
    {u : Nat → TagUse} (hu : ∀ i, (u i).origin.isScratchUe = false) : (s.ringWrite cq slot again data u).1.NoUeWaits := by
  unfold State.ringWrite
  extract_lets ahead i bytes
  split
  · exact h
  · split
    · split
      · exact h
      · split
        · exact h.of_cores rfl
        · rename_i s' hs'
          extract_lets w
          have hw : w.1.NoUeWaits := (h.meetCore hs').ownWrite _ _ _ (hu i) _
          dsimp only
          split
          · exact hw.of_cores (State.recordLanded_cores _ _ _ _)
          · exact hw
    · split
      · exact h
      · split
        · rename_i s' tag htag
          refine h.of_cores ?_
          rw [State.recordLanded_cores, State.sendOn_cores]
          exact congrArg (fun x => x.1.cores) htag.symm

theorem State.NoUeWaits.copyEvent (h : s.NoUeWaits) (eq q : Nat) {e : EvRec} (he : e.code ≠ 0x0202) :
    (s.copyEvent eq q e).NoUeWaits := by
  have hwrite := h.ringWrite eq none false (e.bytes32 ·) (u := (.event eq · e 0)) fun _ => beq_eq_false_iff_ne.mpr he
  unfold State.copyEvent
  split <;> rename_i s' hs' <;> rw [hs'] at hwrite
  · exact hwrite
  · exact hwrite.of_cores rfl
  · exact hwrite.of_cores rfl
  · exact hwrite.of_cores (State.noteFailed_cores _ _ _ _ _)

theorem State.NoUeWaits.emitQ (h : s.NoUeWaits) (q severity kind status : Nat) {code : Nat} (hcode : code ≠ 0x0202)
    (unit context detail : Nat) : (s.emitQ q severity kind status code unit context detail).NoUeWaits := by
  have hlog : (s.logEvent severity kind status code unit context detail).NoUeWaits := h.of_cores (by simp)
  unfold State.emitQ
  extract_lets e s'
  split
  · exact hlog.copyEvent _ _ hcode
  · exact hlog

theorem State.NoUeWaits.postRecord (h : s.NoUeWaits) (q : Nat) (r : CRec) : (s.postRecord q r).NoUeWaits := by
  have htry : (s.tryRecord q r).1.NoUeWaits := h.ringWrite _ _ _ _ fun _ => rfl
  unfold State.postRecord
  extract_lets hold
  have hheld : ∀ u : State, u.NoUeWaits → (hold u).NoUeWaits := fun u hu => hu.of_cores rfl
  split
  · exact hheld s h
  · split <;> rename_i s' _ hs' <;> rw [hs'] at htry
    · exact htry.of_cores rfl
    · exact (hheld _ htry).of_cores (State.noteFailed_cores _ _ _ _ _)
    · exact hheld _ htry

theorem State.NoUeWaits.settleFence (h : s.NoUeWaits) (q : Nat) : (s.settleFence q).NoUeWaits := by
  unfold State.settleFence
  extract_lets x
  split
  · split
    · exact (h.setQueue q _).postRecord q _
    · exact h
  · exact h

theorem State.NoUeWaits.completeWork (h : s.NoUeWaits) (q idx tag status value : Nat) :
    (s.completeWork q idx tag status value).NoUeWaits :=
  ((h.setQueue q _).postRecord q _).settleFence q

theorem State.NoUeWaits.beginEntry (h : s.NoUeWaits) (p target : Nat) : (s.beginEntry p target).NoUeWaits := by
  unfold State.beginEntry
  split
  · exact h
  · split
    · exact h
    · refine State.NoUeWaits.setFld (h.setCore p ?_) _ _
      exact h p

theorem State.NoUeWaits.enterIdle (h : s.NoUeWaits) (p : Nat) : (s.enterIdle p).NoUeWaits := by
  unfold State.enterIdle
  split
  · exact h
  · split
    · exact h
    · split
      · exact h.of_cores rfl
      · exact h.beginEntry p _

theorem State.NoUeWaits.sbRelease (h : s.NoUeWaits) (p i : Nat) : (s.sbRelease p i).NoUeWaits := by
  unfold State.sbRelease
  refine State.NoUeWaits.setFld (h.setCore p ?_) _ _
  exact h p

theorem State.NoUeWaits.sbClear (h : s.NoUeWaits) (p : Nat) : (s.sbClear p).NoUeWaits := by
  unfold State.sbClear
  exact State.NoUeWaits.foldl (fun _ i hu => hu.sbRelease p i) _ h

theorem State.NoUeWaits.stopCore (h : s.NoUeWaits) (p : Nat) : (s.stopCore p).NoUeWaits := by
  unfold State.stopCore
  split
  · exact h
  · refine State.NoUeWaits.setFld (State.NoUeWaits.sbClear (h.setCore p ?_) p) _ _
    exact h p

theorem State.NoUeWaits.completeKernel (h : s.NoUeWaits) (k : Kernel) : (s.completeKernel k).NoUeWaits := by
  unfold State.completeKernel
  extract_lets removed unloaded completed idle
  have hunloaded : unloaded.NoUeWaits := h.of_cores (State.unloadBlock_cores removed _ _)
  have hcompleted : completed.NoUeWaits := hunloaded.completeWork _ _ _ _ _
  have hidle : idle.NoUeWaits := by
    unfold idle
    split
    · refine State.NoUeWaits.foldl ?_ _ hcompleted
      intro u p hu
      split
      · exact hu
      · exact (hu.setFld _ _).enterIdle p
    · exact hcompleted
  exact hidle.of_cores (by simp)

theorem State.NoUeWaits.settleKernels (h : s.NoUeWaits) : s.settleKernels.NoUeWaits :=
  State.NoUeWaits.foldl (fun _ k hu => hu.completeKernel k) _ h

theorem State.NoUeWaits.abortKernel (h : s.NoUeWaits) (k : Kernel) (l code status : Nat) :
    (s.abortKernel k l code status).NoUeWaits := by
  unfold State.abortKernel
  split
  · exact h
  · extract_lets ks unloaded stopped
    have hunloaded : unloaded.NoUeWaits := h.of_cores (State.unloadBlock_cores _ _ _)
    exact State.NoUeWaits.settleKernels (State.NoUeWaits.foldl (fun _ p hu => hu.stopCore p) _ hunloaded)

/-- A fatal error records KERNEL_ABORT and the kernel's completion, never SCRATCH_UE. -/
theorem State.NoUeWaits.fatal (h : s.NoUeWaits) (p code : Nat) : (s.fatal p code).NoUeWaits := by
  unfold State.fatal State.fatalIn
  extract_lets recorded
  have hrecorded : recorded.NoUeWaits := h.of_cores (State.recordError_cores _ _ _ _)
  split
  · exact hrecorded
  · exact (hrecorded.emitQ _ _ _ _ (by decide) _ _ _).abortKernel _ _ _ _

end

/-! ### The counterexample -/

/-- A kernel of core 0, launched from queue 1. -/
def lostFetchKernel : Kernel :=
  { queue := 1, idx := 0, tag := 7, account := 0, cores := [0], phys := [0], imageId := 1, scoreboard := true,
    phaseClass := 0, slack := 0, code := [(0, [], 0)], sched := none, param := [], paramDest := 0, reload := false,
    order := 0, started := true }

/-- A die whose core 0 runs an ISSUE of the kernel, while core 1, which holds the ring of the queue's EVENT context 2, is in
Dormant. -/
def lostFetchDie : State :=
  let s : State :=
    { cores := [(0, { imem := [(0, encIssue 0 0 0 0 0 0)] })], queues := [(2, { ringCore := some 1 })]
      kernels := [lostFetchKernel] }
  let s := (s.setFld (F.evgCoreMap 0) 3).setFld (F.corStatusState 0) csRunning
  let s := (s.setFld (F.pwrCoreStatusState 1) pwDormant).setFld (F.queCfgLog2Entries 2) 4
  (s.setFld (F.queEqValid 1) 1).setFld (F.queEqContext 1) 2

/-- The ISSUE of `lostFetchDie`, whose fetch meets an uncorrectable error. -/
def lostFetch : Instr := .issue 0 0 0 false false 0 0 (.uncorrectable 0 0 0)

/-- Whether a SCRATCH_UE record waits in core 1's inbound buffer after a command. -/
def ueWaitsAfter (o : Host.Outcome State Fault Refusal) : Bool :=
  match o with
  | .next t => (t.core 1).inbox.any fun w => w.from_.isScratchUe
  | _ => false

theorem lostFetch_ueWaits : ueWaitsAfter (exec lostFetch lostFetchDie) = true := by decide +kernel

theorem ueWaitsAfter_of_noUeWaits {t : State} (h : t.NoUeWaits) : ueWaitsAfter (.next t) = false :=
  List.any_eq_false.mpr fun w hw => by simp [h 1 w hw]

theorem lostFetchDie_runs : lostFetchDie.SqRuns 0 0 (encIssue 0 0 0 0 0 0) :=
  ⟨by decide +kernel, rfl, by decide +kernel, by decide +kernel⟩

theorem lostFetchDie_noUeWaits : lostFetchDie.NoUeWaits := by
  intro j w hw
  have hempty : (lostFetchDie.core j).inbox = [] := by
    by_cases hj : j = 0
    · subst hj
      rfl
    · show (tget {} [(0, _)] j : CoreSt).inbox = []
      simp [tget, hj]
  rw [hempty] at hw
  cases hw

/-- Refutes O11: where the fetch meets an uncorrectable error, the state that `fatal` starts from would have cores and
scratchpad as before. SCRATCH_UE's record has been made by then (R143, R564): in `lostFetchDie` it waits in the inbound
buffer of core 1, on its way to the EVENT ring, and a fatal error puts no such record there. -/
theorem not_sqIssue : ¬ Obligations.SqIssue := by
  unfold Obligations.SqIssue
  intro h
  obtain ⟨-, -, hlost, -⟩ := h lostFetchDie 0 0 0 0 false false 0 0 (.uncorrectable 0 0 0) lostFetchDie_runs
  obtain ⟨u, hexec, -, hcores, -⟩ := hlost (by decide +kernel) (by decide +kernel) ⟨0, 0, 0, rfl⟩
  have hquiet : (u.fatal 0 erHw).NoUeWaits := (lostFetchDie_noUeWaits.of_cores hcores).fatal 0 erHw
  have hwaits : ueWaitsAfter (.next (u.fatal 0 erHw)) = true := hexec ▸ lostFetch_ueWaits
  rw [ueWaitsAfter_of_noUeWaits hquiet] at hwaits
  exact absurd hwaits (by decide)

end Sys2Proof.Machine
end

section
/-! The refutation of O12: the statement speaks of every state, and nothing in it bounds the entries that the scoreboard's
order lists (R138). -/

namespace Sys2Proof.Machine

/-- A descriptor of no blocks, with sequence number 0. -/
def strayDesc : QDesc :=
  { seq := 0, tag := 0, notify := false, barrier := false, pc := 0, bytes := [], entered := true }

/-- A die whose core 0 has `strayDesc` at the head of its matrix queue and lists for it a read range in scoreboard entry
0x7E0. The scoreboard has 32 entries. Counted on to 0x7E0, VALID of SPD_SB_A falls on BUSY of the core's MXE_STATUS, and
KIND on ACC_HELD, which is set. -/
def strayDie : State :=
  let s : State :=
    { cores := [(0, { mxq := [strayDesc], sbOrder := [{ entry := 0x7E0, owner := some (.inl 0) }] })] }
  (s.setFld (F.evgCoreMap 0) 1).setFld (F.mxeStatusAccHeld 0) 1

/-- BUSY of core 0's matrix engine after a command. -/
def busyAfter (o : Host.Outcome State Fault Refusal) : Option Nat :=
  match o with
  | .next t => some (t.fld (F.mxeStatusBusy 0))
  | _ => none

theorem strayDie_mayStart : strayDie.mayStart 0 strayDesc (MxDesc.ofBytes strayDesc.bytes).ranges = true := by
  decide +kernel

theorem strayDesc_positions : (MxDesc.ofBytes strayDesc.bytes).positions = [] := by decide +kernel

/-- The start sets BUSY, and the release of the descriptor's read ranges (R104) clears it with the stray entry's VALID. -/
theorem strayDie_busyAfter : busyAfter (exec (.mxeDescStart 0 []) strayDie) = some 0 := by decide +kernel

/-- Refutes O12: a matrix descriptor that starts is to leave BUSY set. In `strayDie`, a state no run reaches, for its
scoreboard order lists an entry that no scoreboard has, the start of `strayDesc` leaves BUSY 0. The statement has no premise
that shuts such a state out (`State.Inv` does not either). -/
theorem not_enginesStart : ¬ Obligations.EnginesStart := by
  unfold Obligations.EnginesStart
  intro h
  obtain ⟨hmatrix, -⟩ := h strayDie 0 0 [] strayDesc [] (by decide +kernel)
  obtain ⟨-, hstarts⟩ := hmatrix rfl rfl
  have hown : ∀ i ∈ (MxDesc.ofBytes strayDesc.bytes).positions, i = 0 % 4 := by
    rw [strayDesc_positions]
    exact nofun
  obtain ⟨t, hexec, -, -, -, -, -, hbusy, -⟩ := hstarts strayDie_mayStart hown nofun
  have hafter : busyAfter (.next t) = some 0 := hexec ▸ strayDie_busyAfter
  exact absurd (hbusy.symm.trans (Option.some.inj hafter)) (by decide)

end Sys2Proof.Machine
end

section
/-! What an inbound path sends: packets on links and open rows over the mesh, and nothing else of the state (R132, R285,
R328, R382). -/

namespace Sys2Proof.Machine

/-! ### Fields that stand elsewhere -/

section
variable {s t : State} {keys : List Nat}

theorem fieldsKept.linkUp (h : fieldsKept s t keys) {i : Nat} (hi : (F.lnkStatusState i).key ∉ keys) :
    t.linkUp i = s.linkUp i := by
  unfold State.linkUp State.linkState
  rw [h _ hi]

theorem fieldsKept.fencedCore (h : fieldsKept s t keys) {p : Nat} (hp : (F.evgFenced (p / 32)).key ∉ keys) :
    t.fencedCore p = s.fencedCore p := by
  unfold State.fencedCore
  rw [h _ hp]

end

/-! ### Traffic -/

/-- From s to t only packets on links and rows in routers have moved. -/
def movesTraffic (s t : State) : Prop := ∃ links routers, t = { s with links, routers }

section
variable {s t : State}

theorem movesTraffic.refl (s : State) : movesTraffic s s := ⟨_, _, rfl⟩

theorem movesTraffic.setRouter (h : movesTraffic s t) (c : Nat) (r : RouterSt) : movesTraffic s (t.setRouter c r) := by
  obtain ⟨_, _, rfl⟩ := h
  exact ⟨_, _, rfl⟩

theorem movesTraffic.setLink (h : movesTraffic s t) (i : Nat) (x : LinkSt) : movesTraffic s (t.setLink i x) := by
  obtain ⟨_, _, rfl⟩ := h
  exact ⟨_, _, rfl⟩

/-- A packet put on a link changes the links only. -/
theorem State.sendOn_eq (s : State) (i vc : Nat) (x : OutPkt) : ∃ links, s.sendOn i vc x = { s with links } := by
  unfold State.sendOn
  dsimp only
  split
  · exact ⟨_, rfl⟩
  · exact ⟨_, rfl⟩

theorem movesTraffic.sendOn (h : movesTraffic s t) (i vc : Nat) (x : OutPkt) : movesTraffic s (t.sendOn i vc x) := by
  obtain ⟨_, _, rfl⟩ := h
  obtain ⟨_, hsent⟩ := State.sendOn_eq _ i vc x
  exact ⟨_, _, hsent⟩

theorem movesTraffic.mem (h : movesTraffic s t) : t.mem = s.mem := by
  obtain ⟨_, _, rfl⟩ := h
  rfl

theorem movesTraffic.core (h : movesTraffic s t) (p : Nat) : t.core p = s.core p := by
  obtain ⟨_, _, rfl⟩ := h
  rfl

theorem movesTraffic.kernels (h : movesTraffic s t) : t.kernels = s.kernels := by
  obtain ⟨_, _, rfl⟩ := h
  rfl

theorem movesTraffic.session (h : movesTraffic s t) : t.session = s.session := by
  obtain ⟨_, _, rfl⟩ := h
  rfl

theorem movesTraffic.log (h : movesTraffic s t) : t.log = s.log := by
  obtain ⟨_, _, rfl⟩ := h
  rfl

theorem movesTraffic.bops (h : movesTraffic s t) : t.bops = s.bops := by
  obtain ⟨_, _, rfl⟩ := h
  rfl

theorem movesTraffic.fld (h : movesTraffic s t) (g : Fld) : t.fld g = s.fld g := by
  obtain ⟨_, _, rfl⟩ := h
  rfl

end

/-! ### Packets that go out -/

section
variable {s : State} {i : Nat}

@[simp] theorem State.sendOn_routers (s : State) (i vc : Nat) (x : OutPkt) : (s.sendOn i vc x).routers = s.routers := by
  obtain ⟨_, hsent⟩ := s.sendOn_eq i vc x
  rw [hsent]

theorem State.link_sendOn_ne (s : State) {i j : Nat} (h : j ≠ i) (vc : Nat) (x : OutPkt) :
    (s.sendOn i vc x).link j = s.link j := by
  unfold State.sendOn
  dsimp only
  split
  · exact s.link_setLink_ne h _
  · rfl

theorem State.txq_sendOn_up (hup : s.linkUp i = true) (vc : Nat) (x : OutPkt) :
    ((s.sendOn i vc x).link i).txq = (s.link i).txq ++ [(vc, x)] := by
  rw [State.sendOn_up hup, State.link_setLink]

theorem State.backs_sendOn (s : State) (i vc : Nat) (x : OutPkt) : ((s.sendOn i vc x).link i).backs = (s.link i).backs := by
  unfold State.sendOn
  dsimp only
  split
  · rw [State.link_setLink]
  · rfl

end

/-! ### Rows on their way out of the die -/

/-- An open row that carries a packet to the adapter of its link. -/
def OpenRow.outbound (o : OpenRow) : Prop := ∃ i vc x, o.load = .out i vc x

/-- From s to t only packets and open rows have moved, and every open row of router c is on its way out. -/
structure SendsOut (s t : State) (c : Nat) : Prop where
  moves : movesTraffic s t
  rows : ∀ o ∈ (t.router c).opens, o.outbound

theorem State.router_sendOn (s : State) (i vc : Nat) (x : OutPkt) (c : Nat) : (s.sendOn i vc x).router c = s.router c := by
  unfold State.router
  rw [State.sendOn_routers]

/-- Rows on their way out do not enter an adapter's open region. -/
theorem State.admitRows_outbound (s : State) (c : Nat) (used : List (Nat × Nat)) {rows : List OpenRow}
    (h : ∀ o ∈ rows, o.outbound) : s.admitRows c used rows = rows := by
  induction rows with
  | nil => rfl
  | cons o rest ih =>
    obtain ⟨⟨i, vc, x, hload⟩, hrest⟩ := List.forall_mem_cons.mp h
    unfold State.admitRows
    rw [hload]
    exact congrArg (o :: ·) (ih hrest)

/-- A pass over rows on their way out sends packets and keeps such rows. -/
theorem movesTraffic.deliverPass {s t : State} (h : movesTraffic s t) (c : Nat) {kept rows : List OpenRow}
    (hkept : ∀ o ∈ kept, o.outbound) (hrows : ∀ o ∈ rows, o.outbound) :
    movesTraffic s (t.deliverPass c kept rows).1 ∧ ∀ o ∈ (t.deliverPass c kept rows).2, o.outbound := by
  induction rows generalizing t kept with
  | nil => exact ⟨h, hkept⟩
  | cons o rest ih =>
    obtain ⟨ho, hrest⟩ := List.forall_mem_cons.mp hrows
    have hmore : ∀ x ∈ kept ++ [o], x.outbound := by
      intro x hx
      rcases List.mem_append.mp hx with hx | hx
      · exact hkept x hx
      · exact List.mem_singleton.mp hx ▸ ho
    unfold State.deliverPass
    split
    · exact ih h hmore hrest
    · obtain ⟨i, vc, x, hload⟩ := ho
      rw [hload]
      exact ih (h.sendOn i vc x) hkept hrest

section
variable {s t : State} {c : Nat}

theorem SendsOut.of_empty (h : (s.router c).opens = []) : SendsOut s s c :=
  ⟨.refl s, by simp [h]⟩

theorem SendsOut.sendOn (h : SendsOut s t c) (i vc : Nat) (x : OutPkt) : SendsOut s (t.sendOn i vc x) c :=
  ⟨h.moves.sendOn i vc x, by rw [State.router_sendOn]; exact h.rows⟩

theorem SendsOut.foldl {β : Type} {f : State → β → State} {l : List β} (h : SendsOut s t c)
    (hf : ∀ u, ∀ x ∈ l, SendsOut s u c → SendsOut s (f u x) c) : SendsOut s (l.foldl f t) c := by
  induction l generalizing t with
  | nil => exact h
  | cons x l ih => exact ih (hf t x List.mem_cons_self h) fun u y hy => hf u y (List.mem_cons_of_mem _ hy)

theorem SendsOut.settleBacks (h : SendsOut s t c) (i : Nat) : SendsOut s (t.settleBacks i) c := by
  unfold State.settleBacks
  extract_lets l w due
  split
  · exact h
  · refine SendsOut.foldl ⟨h.moves.setLink _ _, h.rows⟩ ?_
    exact fun _ _ _ hu => hu.sendOn _ _ _

theorem SendsOut.settleRouter (h : SendsOut s t c) : SendsOut s (t.settleRouter c) c := by
  unfold State.settleRouter
  extract_lets r x
  split
  · obtain ⟨hmoves, hrows⟩ := h.moves.deliverPass c (kept := []) nofun
      (rows := t.admitRows c [] r.opens) (by rw [State.admitRows_outbound _ _ _ h.rows]; exact h.rows)
    exact ⟨hmoves.setRouter _ _, by rw [State.router_setRouter]; exact hrows⟩
  · exact h

theorem SendsOut.sendRow (h : SendsOut s t c) {o : OpenRow} (ho : o.outbound) : SendsOut s (t.sendRow c o) c := by
  unfold State.sendRow
  refine SendsOut.settleRouter ⟨h.moves.setRouter _ _, ?_⟩
  rw [State.router_setRouter]
  intro x hx
  rcases List.mem_append.mp hx with hx | hx
  · exact h.rows x hx
  · exact List.mem_singleton.mp hx ▸ ho

/-- The answer to a write that came over a link. -/
theorem SendsOut.answerWrite (h : SendsOut s t c) {w : InWrite} {j : Nat} (hw : w.from_ = .link j) (status : Nat) :
    SendsOut s (t.answerWrite w status) c := by
  unfold State.answerWrite
  rw [hw]
  dsimp only
  split
  · exact h
  · exact h.sendOn _ _ _

theorem SendsOut.afterWrite {p : Nat} (h : SendsOut s t (clumpOf p)) {w : InWrite} {j : Nat} (hw : w.from_ = .link j) :
    SendsOut s (t.afterWrite p w) (clumpOf p) := by
  unfold State.afterWrite
  rw [hw]
  exact h.settleRouter.settleBacks j

theorem SendsOut.replyRow {p : Nat} (h : SendsOut s t (clumpOf p)) (i : Nat) (x : OutPkt) :
    SendsOut s (t.replyRow p i x) (clumpOf p) :=
  h.sendRow ⟨i, 2, x, rfl⟩

/-- The rejection of a read that came over a link. -/
theorem SendsOut.rejectRead {p : Nat} (h : SendsOut s t (clumpOf p)) {r : InRead} {i tag : Nat} {back : Bool}
    (hr : r.dest = .link i tag back) (status : Nat) : SendsOut s (t.rejectRead p r status) (clumpOf p) := by
  unfold State.rejectRead
  rw [hr]
  exact h.replyRow i _

end

/-! ### A router with no open row -/

section
variable {s : State} {c : Nat}

theorem State.settleRouter_eq_self (h : (s.router c).opens = []) : s.settleRouter c = s := by
  unfold State.settleRouter
  simp [h]

theorem State.settleBacks_eq_self {i : Nat} (h : (s.link i).backs = []) : s.settleBacks i = s := by
  unfold State.settleBacks
  simp [h]

/-- A row for another clump stays as the router's only open row. -/
theorem State.sendRow_away {o : OpenRow} (hopens : (s.router c).opens = []) (hdest : o.dest ≠ c) :
    s.sendRow c o = s.setRouter c { s.router c with opens := [o] } := by
  unfold State.sendRow State.settleRouter
  simp [hopens, hdest]

theorem State.sendOn_setRouter (s : State) (c : Nat) (r : RouterSt) (i vc : Nat) (x : OutPkt) :
    (s.setRouter c r).sendOn i vc x = (s.sendOn i vc x).setRouter c r := by
  unfold State.sendOn
  dsimp only
  by_cases h : (s.linkUp i || (s.link i).keepTraffic) = true
  · rw [if_pos h]
    exact if_pos h
  · rw [if_neg h]
    exact if_neg h

/-- A row whose link's adapter stands here goes out at once. -/
theorem State.links_sendRow_here {o : OpenRow} {i vc : Nat} {x : OutPkt} (hopens : (s.router c).opens = [])
    (hdest : o.dest = c) (hload : o.load = .out i vc x) : (s.sendRow c o).links = (s.sendOn i vc x).links := by
  have hrows : ∀ o' ∈ [o], o'.outbound := by simp [OpenRow.outbound, hload]
  have hpass : ∀ u : State, u.deliverPass c [] [o] = (u.sendOn i vc x, []) := by
    intro u
    unfold State.deliverPass
    rw [if_neg (by simp [hdest]), hload]
    rfl
  unfold State.sendRow State.settleRouter
  dsimp only
  rw [State.router_setRouter, hopens, List.nil_append, if_pos (by simp [hdest]),
    State.admitRows_outbound _ _ _ hrows, hpass, State.sendOn_setRouter]
  rfl

end

end Sys2Proof.Machine
end

section
/-! An entry of the inbound write buffer lands (R132 to R134, R138, R382). It settles O18. -/

namespace Sys2Proof.Machine

/-! ### The answer of a write that came over a link -/

section
variable {s : State} {w : InWrite} {j : Nat}

theorem State.answerWrite_link (hw : w.from_ = .link j) (status : Nat) : s.answerWrite w status =
    if status = stOk ∧ w.ack = false then s else s.sendOn j 2 (.status w.tag status) := by
  unfold State.answerWrite
  rw [hw]

theorem State.txq_answerWrite (hw : w.from_ = .link j) (hup : s.linkUp j = true) (status : Nat) :
    ((s.answerWrite w status).link j).txq =
      (s.link j).txq ++ if status = stOk ∧ w.ack = false then [] else [(2, .status w.tag status)] := by
  rw [State.answerWrite_link hw]
  split
  · simp
  · exact State.txq_sendOn_up hup 2 _

/-- With no open row and no READBACK behind it, what follows the answer changes nothing. -/
theorem State.landed_eq {p : Nat} (hw : w.from_ = .link j) (hbacks : (s.link j).backs = [])
    (hopens : (s.router (clumpOf p)).opens = []) (hbops : s.bops = []) (status : Nat) :
    ((s.answerWrite w status).afterWrite p w).unitWork = s.answerWrite w status := by
  have hsent := (SendsOut.of_empty hopens).answerWrite hw status
  have hrouter : ((s.answerWrite w status).router (clumpOf p)).opens = [] := by
    rw [State.answerWrite_link hw]
    split
    · exact hopens
    · rw [State.router_sendOn, hopens]
  have hlink : ((s.answerWrite w status).link j).backs = [] := by
    rw [State.answerWrite_link hw]
    split
    · exact hbacks
    · rw [State.backs_sendOn, hbacks]
  have hafter : (s.answerWrite w status).afterWrite p w = s.answerWrite w status := by
    unfold State.afterWrite
    rw [State.settleRouter_eq_self hrouter, hw]
    exact State.settleBacks_eq_self hlink
  rw [hafter, State.unitWork_eq_self (hsent.moves.bops.trans hbops)]

end

/-! ### Bytes -/

theorem memHolds_sets {s t : State} {k : Nat} {data : List Byte} (h : t.mem = s.mem.sets k data) : memHolds s t k data := by
  intro i
  rw [h]
  split
  · next hi =>
    obtain ⟨hlow, hhigh⟩ := hi
    have hlt : i - k < data.length := by omega
    rw [List.getD_eq_getElem _ _ hlt, ← Mem.get_sets_inside s.mem k data hlt, Nat.add_sub_cancel' hlow]
  · next hi => exact Mem.get_sets_outside _ _ _ _ (by omega)

/-! ### Landing -/

/-- An entry of the inbound write buffer of core p taken out, `rest` being the others, and the cycles that it waited
counted. -/
def State.inboxTaken (s : State) (p waited : Nat) (rest : List InWrite) : State :=
  (s.addFld (F.spdInboundWait p) waited).setCore p { s.core p with inbox := rest }

/-- Such an entry taken out, its bytes in their bank. -/
def State.inboxLanded (s : State) (p waited : Nat) (rest : List InWrite) (w : InWrite) : State :=
  (s.inboxTaken p waited rest).writeCore p w.off w.data

theorem State.fieldsKept_inboxTaken (s : State) (p waited : Nat) (rest : List InWrite) :
    fieldsKept s (s.inboxTaken p waited rest) [(F.spdInboundWait p).key] :=
  fun _ h => s.fld_addFld_ne (fun e => h (by simp [e])) waited

section
variable {s : State} {p : CoreNo} {i waited : Nat} {port : PortEvent} {w : InWrite} {rest : List InWrite} {j : Nat}

theorem State.linkUp_inboxTaken (s : State) (p waited : Nat) (rest : List InWrite) (j : Nat) :
    (s.inboxTaken p waited rest).linkUp j = s.linkUp j := by
  refine (s.fieldsKept_inboxTaken p waited rest).linkUp ?_
  simp only [Fld.key, F.lnkStatusState, F.spdInboundWait, List.mem_singleton]
  omega

theorem State.fencedCore_inboxTaken (s : State) (p : CoreNo) (waited : Nat) (rest : List InWrite) :
    (s.inboxTaken p.val waited rest).fencedCore p.val = s.fencedCore p.val := by
  refine (s.fieldsKept_inboxTaken p.val waited rest).fencedCore ?_
  simp only [Fld.key, F.evgFenced, F.spdInboundWait, List.mem_singleton]
  omega

/-- An access that meets neither kind of error leaves the state as it was. -/
theorem State.unscheduledPort_quiet {s : State} (hue : ∀ b r x, port ≠ .uncorrectable b r x)
    (hce : ∀ b r x, port ≠ .corrected b r x) (p unit t : Nat) (isRead : Bool) :
    s.port p unit t isRead (unscheduledPort port) = (s, false) := by
  cases port with
  | clean => rfl
  | conflict => rfl
  | corrected b r x => exact absurd rfl (hce b r x)
  | uncorrectable b r x => exact absurd rfl (hue b r x)

theorem State.dmaWriteWaits_link (s : State) (p : Nat) (hw : w.from_ = .link j) : s.dmaWriteWaits p w = false := by
  unfold State.dmaWriteWaits
  rw [hw]

/-- An entry behind an earlier one for its bank stays. -/
theorem exec_unscheduledWriteLand_behind (htake : takeAt (s.core p.val).inbox i = some (w, rest))
    (hleaf : s.power p.val = pwLeaf) (hbehind : ∃ x ∈ (s.core p.val).inbox.take i, bankOf x.off = bankOf w.off) :
    exec (.unscheduledWriteLand p i waited port) s = .next s := by
  obtain ⟨x, hx, hbank⟩ := hbehind
  have hany : ((s.core p.val).inbox.take i).any (fun x => bankOf x.off == bankOf w.off) = true :=
    List.any_eq_true.mpr ⟨x, hx, by simp [hbank]⟩
  show execUnscheduledWriteLand p i waited port s = _
  unfold execUnscheduledWriteLand
  simp only [htake, hleaf, hany]
  rfl

/-- The first entry for its bank is taken out and lands, or is dropped where the core is fenced. -/
theorem exec_unscheduledWriteLand (htake : takeAt (s.core p.val).inbox i = some (w, rest))
    (hleaf : s.power p.val = pwLeaf) (hw : w.from_ = .link j) (hwindow : w.window = none)
    (hue : ∀ b r x, port ≠ .uncorrectable b r x) (hce : ∀ b r x, port ≠ .corrected b r x)
    (hfirst : ∀ x ∈ (s.core p.val).inbox.take i, bankOf x.off ≠ bankOf w.off) :
    exec (.unscheduledWriteLand p i waited port) s = .next
      (if s.fencedCore p.val then
        (((s.inboxTaken p.val waited rest).answerWrite w stUnitFailed).afterWrite p.val w).unitWork
      else (((s.inboxLanded p.val waited rest w).answerWrite w stOk).afterWrite p.val w).unitWork) := by
  have hany : ((s.core p.val).inbox.take i).any (fun x => bankOf x.off == bankOf w.off) = false :=
    List.any_eq_false.mpr fun x hx => by simp [hfirst x hx]
  have hmet : (if w.merges then (s.inboxTaken p.val waited rest).port p.val 3 p.val true (unscheduledPort port)
      else (s.inboxTaken p.val waited rest, false)) = (s.inboxTaken p.val waited rest, false) := by
    rw [State.unscheduledPort_quiet hue hce, ite_self]
  show execUnscheduledWriteLand p i waited port s = _
  unfold execUnscheduledWriteLand
  simp only [htake, hleaf, hany, State.dmaWriteWaits_link _ _ hw, ← State.fencedCore_inboxTaken s p waited rest]
  unfold State.inboxTaken at hmet ⊢
  simp only [hmet, hwindow]
  rfl

end

/-- Settles O18: an entry that is taken out has its wait counted; what then stands in the bank is the write's bytes, and the
only packet that goes out is its answer. -/
theorem unscheduledWritesLand : Obligations.UnscheduledWritesLand := by
  unfold Obligations.UnscheduledWritesLand
  intro s p i waited port w rest j htake hleaf hw hwindow hbacks hopens hbops hup hue hce first answer wait
  have hupTaken := (s.linkUp_inboxTaken p.val waited rest j).trans hup
  refine ⟨?_, ?_, ?_⟩
  · intro hbehind
    refine exec_unscheduledWriteLand_behind htake hleaf ?_
    simpa [first] using hbehind
  · intro hfirst hfenced
    have hsent := (SendsOut.of_empty (s := s.inboxTaken p.val waited rest) hopens).answerWrite hw stUnitFailed
    refine .intro ((exec_unscheduledWriteLand htake hleaf hw hwindow hue hce hfirst).trans
      (by rw [if_pos hfenced, State.landed_eq (s := s.inboxTaken p.val waited rest) hw hbacks hopens hbops])) ⟨?_, ?_, ?_⟩
    · exact hsent.moves.mem
    · rw [hsent.moves.core]
      exact congrArg CoreSt.inbox (State.core_setCore _ _ _)
    · exact State.txq_answerWrite hw hupTaken stUnitFailed
  · intro hfirst hfree
    have hsent := (SendsOut.of_empty (s := s.inboxLanded p.val waited rest w) hopens).answerWrite hw stOk
    refine .intro ((exec_unscheduledWriteLand htake hleaf hw hwindow hue hce hfirst).trans
      (by rw [if_neg (by simp [hfree]),
        State.landed_eq (s := s.inboxLanded p.val waited rest w) hw hbacks hopens hbops])) ⟨?_, ?_, ?_, ?_, ?_, ?_, ?_⟩
    · exact memHolds_sets hsent.moves.mem
    · rw [hsent.moves.core]
      exact congrArg CoreSt.inbox (State.core_setCore _ _ _)
    · refine (State.txq_answerWrite (s := s.inboxLanded p.val waited rest w) hw hupTaken stOk).trans (congrArg _ ?_)
      cases w.ack <;> rfl
    · exact (hsent.moves.fld _).trans (State.fld_addFld s _ _)
    · intro g hg
      exact (hsent.moves.fld g).trans (s.fieldsKept_inboxTaken p.val waited rest g hg)
    · intro x hx
      exact (hsent.moves.core x).trans (State.core_setCore_ne _ hx _)
    · exact hsent.moves.kernels

end Sys2Proof.Machine
end

section
/-! What an event of the log leaves as it was (R561, R562), and a read of the inbound queue served (R132, R134, R142, R143).
It settles O19. -/

namespace Sys2Proof.Machine

/-! ### Events -/

section
variable (s : State) (severity kind status code unit context detail : Nat)

/-- An event changes the log and register fields only. -/
theorem State.logEvent_eq : ∃ log regs, s.logEvent severity kind status code unit context detail = { s with log, regs } := by
  unfold State.logEvent
  extract_lets e r logged
  split
  · exact ⟨_, _, rfl⟩
  · exact ⟨_, _, rfl⟩

theorem State.fld_logEvent_ne {g : Fld} (hnext : g.key ≠ F.fltEvtNext.key) (hlost : g.key ≠ F.fltEvtLost.key) :
    (s.logEvent severity kind status code unit context detail).fld g = s.fld g := by
  unfold State.logEvent
  extract_lets e r logged
  have hlogged : logged.fld g = s.fld g := State.fld_addFld_ne _ hnext 1
  split
  · exact (State.fld_addFld_ne _ hlost 1).trans hlogged
  · exact hlogged

theorem State.log_logEvent : logs s (s.logEvent severity kind status code unit context detail) severity kind status code unit
    context detail := by
  unfold logs State.logEvent
  extract_lets e r logged
  split
  · rfl
  · rfl

end

/-! ### A read taken from its queue -/

/-- State u follows s: the reads of core p are now `rest`, scratchpads, kernels and links are as they were, and nothing keeps
a packet from going out on link i. -/
structure ReadTaken (s u : State) (p i : Nat) (rest : List InRead) : Prop where
  readq : (u.core p).readq = rest
  mem : u.mem = s.mem
  kernels : u.kernels = s.kernels
  links : u.links = s.links
  opens : (u.router (clumpOf p)).opens = []
  up : u.linkUp i = true
  bops : u.bops = []

section
variable {s u : State} {p i : Nat} {rest : List InRead}

theorem ReadTaken.setFld (h : ReadTaken s u p i rest) {f : Fld} (hf : (F.lnkStatusState i).key ≠ f.key) (v : Nat) :
    ReadTaken s (u.setFld f v) p i rest := by
  obtain ⟨hreadq, hmem, hkernels, hlinks, hopens, hup, hbops⟩ := h
  have hkept : fieldsKept u (u.setFld f v) [f.key] := (fieldsKept.refl u _).setFld (List.mem_singleton_self _) v
  exact ⟨hreadq, hmem, hkernels, hlinks, hopens, (hkept.linkUp (by simpa using hf)).trans hup, hbops⟩

theorem ReadTaken.setCore (h : ReadTaken s u p i rest) {x : CoreSt} (hx : x.readq = rest) :
    ReadTaken s (u.setCore p x) p i rest := by
  obtain ⟨-, hmem, hkernels, hlinks, hopens, hup, hbops⟩ := h
  exact ⟨by rw [State.core_setCore, hx], hmem, hkernels, hlinks, hopens, hup, hbops⟩

theorem ReadTaken.logEvent (h : ReadTaken s u p i rest) (severity kind status code unit context detail : Nat) :
    ReadTaken s (u.logEvent severity kind status code unit context detail) p i rest := by
  obtain ⟨hreadq, hmem, hkernels, hlinks, hopens, hup, hbops⟩ := h
  have hstate := u.fld_logEvent_ne severity kind status code unit context detail (g := F.lnkStatusState i)
    (by simp only [Fld.key, F.lnkStatusState, F.fltEvtNext]; omega)
    (by simp only [Fld.key, F.lnkStatusState, F.fltEvtLost]; omega)
  have hlink : (u.logEvent severity kind status code unit context detail).linkUp i = u.linkUp i := by
    unfold State.linkUp State.linkState
    rw [hstate]
  rw [← hlink] at hup
  obtain ⟨_, _, he⟩ := u.logEvent_eq severity kind status code unit context detail
  rw [he] at hup ⊢
  exact ⟨hreadq, hmem, hkernels, hlinks, hopens, hup, hbops⟩

theorem ReadTaken.addDieback (h : ReadTaken s u p i rest) (kind source unit detail cause : Nat) :
    ReadTaken s (u.addDieback kind source unit detail cause) p i rest := by
  have hlist : ∀ d, ReadTaken s { u with dieback := d } p i rest := by
    obtain ⟨hreadq, hmem, hkernels, hlinks, hopens, hup, hbops⟩ := h
    exact fun d => ⟨hreadq, hmem, hkernels, hlinks, hopens, hup, hbops⟩
  have hf : (F.lnkStatusState i).key ≠ F.evgDiebackUnsaved.key := by
    simp only [Fld.key, F.lnkStatusState, F.evgDiebackUnsaved]
    omega
  unfold State.addDieback State.addEntry
  extract_lets more victim rows others core last
  split
  · exact h
  · split
    · exact (hlist _).setFld hf _
    · exact (hlist _).setFld hf _

theorem ReadTaken.noteEcc (h : ReadTaken s u p i rest) (t : Nat) (ue : Bool) (bank row word : Nat) :
    ReadTaken s (u.noteEcc t ue bank row word) p i rest := by
  unfold State.noteEcc
  refine ReadTaken.setFld (ReadTaken.setFld (ReadTaken.setFld (ReadTaken.setFld (ReadTaken.setFld h ?_ _) ?_ _) ?_ _) ?_ _)
    ?_ _ <;>
  · simp only [Fld.key, F.lnkStatusState, F.spdEccLastUe, F.spdEccLastValid, F.spdEccLastBank, F.spdEccLastRow,
      F.spdEccLastWord]
    omega

/-- A corrected error of core p is noted and its row comes due (R142). -/
theorem ReadTaken.corrected (h : ReadTaken s u p i rest) (bank row word : Nat) :
    ReadTaken s (u.corrected p bank row word) p i rest := by
  have hcount : ReadTaken s ((u.noteEcc p false bank row word).addFld (F.spdEccCe p) 1) p i rest :=
    (h.noteEcc p false bank row word).setFld (by simp only [Fld.key, F.lnkStatusState, F.spdEccCe]; omega) _
  exact hcount.setCore hcount.readq

/-- An uncorrectable error that concerns no queue is located, listed and logged (R143). -/
theorem ReadTaken.scratchUe (h : ReadTaken s u p i rest) (t bank row word : Nat) :
    ReadTaken s (u.scratchUe t bank row word none) p i rest :=
  ((h.noteEcc t true bank row word).addDieback _ _ _ _ _).logEvent _ _ _ _ _ _ _

theorem State.link_congr {s t : State} (h : t.links = s.links) (j : Nat) : t.link j = s.link j := by
  unfold State.link
  rw [h]

/-- A packet goes out for the read: on its link if the adapter stands in the core's clump, else as an open row. -/
theorem ReadTaken.answers (h : ReadTaken s u p i rest) {instr : Instr} {x : OutPkt}
    (hexec : exec instr s = .next (u.replyRow p i x).unitWork) :
    Answers instr s fun t => (t.core p).readq = rest ∧ t.mem = s.mem ∧ t.kernels = s.kernels ∧
      (if adapterClump i = clumpOf p then (t.link i).txq = (s.link i).txq ++ [(2, x)] ∧ ∀ j, j ≠ i → t.link j = s.link j
       else t.links = s.links ∧
        (t.router (clumpOf p)).opens = [{ from_ := 0, home := none, dest := adapterClump i, load := .out i 2 x }]) := by
  obtain ⟨hreadq, hmem, hkernels, hlinks, hopens, hup, hbops⟩ := h
  have hmoves := ((SendsOut.of_empty hopens).replyRow i x).moves
  have hlink := State.link_congr hlinks
  refine .intro (hexec.trans (by rw [State.unitWork_eq_self (hmoves.bops.trans hbops)])) ⟨?_, ?_, ?_, ?_⟩
  · rw [hmoves.core, hreadq]
  · rw [hmoves.mem, hmem]
  · rw [hmoves.kernels, hkernels]
  · split
    · next hhere =>
      have hlinks : (u.replyRow p i x).links = (u.sendOn i 2 x).links :=
        State.links_sendRow_here (i := i) (vc := 2) (x := x) hopens hhere rfl
      have hsent := State.link_congr hlinks
      refine ⟨?_, ?_⟩
      · rw [hsent, State.txq_sendOn_up hup, hlink]
      · intro j hj
        rw [hsent, State.link_sendOn_ne _ hj, hlink]
    · next haway =>
      unfold State.replyRow
      rw [State.sendRow_away hopens haway]
      exact ⟨hlinks, congrArg RouterSt.opens (State.router_setRouter _ _ _)⟩

end

/-! ### Serving a read -/

/-- A read of core p taken out of its queue, `rest` being the others. -/
def State.readTaken (s : State) (p : Nat) (rest : List InRead) : State := s.setCore p { s.core p with readq := rest }

section
variable {s : State} {p : CoreNo} {port : PortEvent} {r : InRead} {rest : List InRead} {i tag : Nat} {back : Bool}

theorem State.readTaken_facts (hup : s.linkUp i = true) (hopens : (s.router (clumpOf p.val)).opens = [])
    (hbops : s.bops = []) : ReadTaken s (s.readTaken p.val rest) p.val i rest :=
  ⟨congrArg CoreSt.readq (State.core_setCore _ _ _), rfl, rfl, rfl, hopens, hup, hbops⟩

/-- A read whose row an earlier write still waits to reach is not ready (R134). -/
theorem State.readReady_false {s : State} {p : Nat}
    (h : ∃ w ∈ (s.core p).inbox, w.seq < r.seq ∧ w.off / 256 = r.off / 256) : s.readReady p r = false := by
  obtain ⟨w, hw, hseq, hrow⟩ := h
  have hmine : ((s.core p).inbox.any fun w => decide (w.seq < r.seq) && w.off / 256 == r.off / 256) = true :=
    List.any_eq_true.mpr ⟨w, hw, by simp [hseq, hrow]⟩
  unfold State.readReady
  simp [hmine]

/-- An only read that is not ready stays. -/
theorem exec_unscheduledRead_waits (hreadq : (s.core p.val).readq = [r]) (hleaf : s.power p.val = pwLeaf)
    (hready : s.readReady p.val r = false) : exec (.unscheduledRead p port) s = .next s := by
  have hfind : (s.core p.val).readq.findIdx? (s.readReady p.val) = none := by simp [hreadq, hready]
  show execUnscheduledRead p port s = _
  unfold execUnscheduledRead
  simp only [hleaf, hfind]
  rfl

/-- The first read, if it is ready, is taken out and answered on its link; u is the state once its row has been read, and
`lost` whether its data is. -/
theorem exec_unscheduledRead {u : State} {lost : Bool} (hreadq : (s.core p.val).readq = r :: rest)
    (hleaf : s.power p.val = pwLeaf) (hdest : r.dest = .link i tag back)
    (hopens : (s.router (clumpOf p.val)).opens = []) (hready : s.readReady p.val r = true)
    (hmet : (s.readTaken p.val rest).port p.val 3 p.val true (unscheduledPort port) = (u, lost)) :
    exec (.unscheduledRead p port) s = .next
      (if s.fencedCore p.val then ((s.readTaken p.val rest).replyRow p.val i (.status tag stUnitFailed)).unitWork
      else if lost then (u.replyRow p.val i (.status tag stHwFault)).unitWork
      else (u.replyRow p.val i (.data tag stOk (u.readCore p.val r.off r.len))).unitWork) := by
  have hfind : (s.core p.val).readq.findIdx? (s.readReady p.val) = some 0 := by simp [hreadq, List.findIdx?_cons, hready]
  have htake : takeAt (s.core p.val).readq 0 = some (r, rest) := by rw [hreadq]; rfl
  have hsettle : (s.readTaken p.val rest).settleRouter (clumpOf p.val) = s.readTaken p.val rest :=
    State.settleRouter_eq_self hopens
  have hreject : ∀ (u : State) st, u.rejectRead p.val r st = u.replyRow p.val i (.status tag st) := by
    intro u st
    unfold State.rejectRead
    rw [hdest]
  have hanswer : ∀ (u : State) bs, u.answerRead p.val r bs = u.replyRow p.val i (.data tag stOk bs) := by
    intro u bs
    unfold State.answerRead
    rw [hdest]
  show execUnscheduledRead p port s = _
  unfold execUnscheduledRead
  unfold State.readTaken at hsettle hmet ⊢
  simp only [hleaf, hfind, htake, hsettle, hmet, hreject, hanswer]
  rfl

/-- A read that meets no uncorrectable error keeps its data. -/
theorem ReadTaken.met {u : State} (h : ReadTaken s u p.val i rest) (hport : ∀ b x w, port ≠ .uncorrectable b x w) :
    ∃ v, u.port p.val 3 p.val true (unscheduledPort port) = (v, false) ∧ ReadTaken s v p.val i rest := by
  cases port with
  | clean => exact ⟨u, rfl, h⟩
  | conflict => exact ⟨u, rfl, h⟩
  | corrected bank row word => exact ⟨_, rfl, h.corrected bank.val row.val word.val⟩
  | uncorrectable bank row word => exact absurd rfl (hport bank row word)

/-- A read that meets one loses it; with no kernel on the die it concerns no queue. -/
theorem ReadTaken.met_uncorrectable {u : State} (h : ReadTaken s u p.val i rest) (hkernels : s.kernels = []) (b : Fin 16)
    (x : Fin 1024) (w : Fin 64) : ∃ v, u.port p.val 3 p.val true (unscheduledPort (.uncorrectable b x w)) = (v, true) ∧
      ReadTaken s v p.val i rest := by
  have hnone : u.kernelOn p.val = none := by
    unfold State.kernelOn
    rw [h.kernels, hkernels]
    rfl
  refine ⟨_, ?_, h.scratchUe p.val b.val x.val w.val⟩
  show (u.scratchUe p.val b.val x.val w.val ((u.kernelOn p.val).map Kernel.queue), true) = _
  rw [hnone]
  rfl

end

/-- Settles O19: a read that is ready is taken out, and one packet goes out for it, by the core's fence and by what its port
met. -/
theorem unscheduledReadsServed : Obligations.UnscheduledReadsServed := by
  unfold Obligations.UnscheduledReadsServed
  intro s p port r rest i tag back hreadq hleaf hdest hup hopens hbops i' sends
  have htaken := State.readTaken_facts (p := p) (rest := rest) hup hopens hbops
  refine ⟨?_, ?_, ?_, ?_⟩
  · rintro rfl hwrite
    exact exec_unscheduledRead_waits hreadq hleaf (State.readReady_false hwrite)
  · intro hready hfenced
    exact htaken.answers ((exec_unscheduledRead hreadq hleaf hdest hopens hready rfl).trans (by rw [if_pos hfenced]))
  · rintro hready hfree ⟨b, x, w, rfl⟩ hkernels
    obtain ⟨u, hmet, hu⟩ := htaken.met_uncorrectable hkernels b x w
    exact hu.answers ((exec_unscheduledRead hreadq hleaf hdest hopens hready hmet).trans
      (by rw [if_neg (by simp [hfree]), if_pos rfl]))
  · intro hready hfree hport
    obtain ⟨u, hmet, hu⟩ := htaken.met hport
    have hdata : u.readCore p.val r.off r.len = s.mem.gets (p.val * 2 ^ 22 + r.off) r.len := by
      unfold State.readCore
      rw [hu.mem]
      rfl
    exact hu.answers ((exec_unscheduledRead hreadq hleaf hdest hopens hready hmet).trans
      (by rw [if_neg (by simp [hfree]), if_neg (by decide), hdata]))

end Sys2Proof.Machine
end

section
/-! The banks' upkeep beside the schedule: ECC_WRITEBACK, WAKE_TIMEOUT and MEM_WAKE_RETURN (R142, R149, R150). -/

namespace Sys2Proof.Machine

/-! ### WAKE_TIMEOUT -/

theorem SendsOut.rejectWrites {s t : State} {p : Nat} (h : SendsOut s t (clumpOf p)) {l : List InWrite}
    (hl : ∀ w ∈ l, ∃ j, w.from_ = .link j) (status : Nat) :
    SendsOut s (l.foldl (fun u w => (u.answerWrite w status).afterWrite p w) t) (clumpOf p) := by
  refine h.foldl ?_
  intro u w hw hu
  obtain ⟨j, hlink⟩ := hl w hw
  exact (hu.answerWrite hlink status).afterWrite hlink

theorem SendsOut.rejectReads {s t : State} {p : Nat} (h : SendsOut s t (clumpOf p)) {l : List InRead}
    (hl : ∀ r ∈ l, ∃ j tag b, r.dest = .link j tag b) (status : Nat) :
    SendsOut s (l.foldl (fun u r => u.rejectRead p r status) t) (clumpOf p) := by
  refine h.foldl ?_
  intro u r hr hu
  obtain ⟨j, tag, b, hlink⟩ := hl r hr
  exact hu.rejectRead hlink status

section
variable {s : State} {p : CoreNo} {bank : Fin 16}

/-- The held accesses of a bank of core p dropped, and the event recorded (R149). -/
def State.bankDropped (s : State) (p bank : Nat) : State :=
  let dropped := s.setCore p { s.core p with
    inbox := (s.core p).inbox.filter (fun w => bankOf w.off != bank),
    readq := (s.core p).readq.filter (fun r => bankOf r.off != bank) }
  dropped.logEvent svWarning (s.coreUnit p).1 stHwFault 0x0203 (s.coreUnit p).2 0 bank

theorem State.core_bankDropped (s : State) (p bank : Nat) : (s.bankDropped p bank).core p = { s.core p with
    inbox := (s.core p).inbox.filter (fun w => bankOf w.off != bank),
    readq := (s.core p).readq.filter (fun r => bankOf r.off != bank) } := by
  unfold State.bankDropped
  obtain ⟨_, _, hlogged⟩ := State.logEvent_eq _ _ _ _ _ _ _ _
  rw [hlogged]
  exact State.core_setCore _ _ _

/-- A core below Leaf that holds a write for the bank drops what it holds for it and rejects it. -/
theorem exec_wakeTimeout (hpower : s.power p.val ≠ pwLeaf)
    (hheld : ∃ w ∈ (s.core p.val).inbox, bankOf w.off = bank.val) :
    exec (.wakeTimeout p bank) s = .next
      (((s.core p.val).readq.filter fun r => bankOf r.off == bank.val).foldl (fun s r => s.rejectRead p.val r stHwFault)
        (((s.core p.val).inbox.filter fun w => bankOf w.off == bank.val).foldl
          (fun s w => (s.answerWrite w stHwFault).afterWrite p.val w) (s.bankDropped p.val bank.val))).unitWork := by
  obtain ⟨w, hw, hbank⟩ := hheld
  have hsome : ((s.core p.val).inbox.filter fun w => bankOf w.off == bank.val).isEmpty = false :=
    List.isEmpty_eq_false_iff_exists_mem.mpr ⟨w, List.mem_filter.mpr ⟨hw, by simp [hbank]⟩⟩
  show execWakeTimeout p bank s = _
  unfold execWakeTimeout
  dsimp only
  rw [if_neg (by simp [hpower, hsome])]
  rfl

theorem wakeTimeout_answers (hpower : s.power p.val ≠ pwLeaf) (hopens : (s.router (clumpOf p.val)).opens = [])
    (hbops : s.bops = []) (hheld : ∃ w ∈ (s.core p.val).inbox, bankOf w.off = bank.val)
    (hwrites : ∀ w ∈ (s.core p.val).inbox, bankOf w.off = bank.val → ∃ j, w.from_ = .link j)
    (hreads : ∀ r ∈ (s.core p.val).readq, bankOf r.off = bank.val → ∃ j tag b, r.dest = .link j tag b) :
    Answers (.wakeTimeout p bank) s fun t =>
      (t.core p.val).inbox = (s.core p.val).inbox.filter (fun w => bankOf w.off != bank.val) ∧
      (t.core p.val).readq = (s.core p.val).readq.filter (fun r => bankOf r.off != bank.val) ∧ t.mem = s.mem ∧
      logs s t svWarning ((s.coreUnit p.val).1) stHwFault 0x0203 ((s.coreUnit p.val).2) 0 (bank.val) := by
  have hdropped : (s.bankDropped p.val bank.val).mem = s.mem ∧ (s.bankDropped p.val bank.val).bops = s.bops ∧
      (s.bankDropped p.val bank.val).routers = s.routers := by
    unfold State.bankDropped
    obtain ⟨_, _, hlogged⟩ := State.logEvent_eq _ _ _ _ _ _ _ _
    rw [hlogged]
    exact ⟨rfl, rfl, rfl⟩
  obtain ⟨hmem, hwork, hrouters⟩ := hdropped
  have hquiet : SendsOut (s.bankDropped p.val bank.val) (s.bankDropped p.val bank.val) (clumpOf p.val) := by
    refine .of_empty ?_
    unfold State.router
    rw [hrouters]
    exact hopens
  have hwriters : ∀ w ∈ (s.core p.val).inbox.filter (fun w => bankOf w.off == bank.val), ∃ j, w.from_ = .link j := by
    intro w hw
    obtain ⟨hw, hbank⟩ := List.mem_filter.mp hw
    exact hwrites w hw (by simpa using hbank)
  have hreaders : ∀ r ∈ (s.core p.val).readq.filter (fun r => bankOf r.off == bank.val),
      ∃ j tag b, r.dest = .link j tag b := by
    intro r hr
    obtain ⟨hr, hbank⟩ := List.mem_filter.mp hr
    exact hreads r hr (by simpa using hbank)
  have hrejected := (hquiet.rejectWrites hwriters stHwFault).rejectReads hreaders stHwFault
  refine .intro ((exec_wakeTimeout hpower hheld).trans
    (by rw [State.unitWork_eq_self (hrejected.moves.bops.trans (hwork.trans hbops))])) ⟨?_, ?_, ?_, ?_⟩
  · rw [hrejected.moves.core, State.core_bankDropped]
  · rw [hrejected.moves.core, State.core_bankDropped]
  · exact hrejected.moves.mem.trans hmem
  · exact hrejected.moves.log.trans (State.log_logEvent _ _ _ _ _ _ _ _)

/-! ### MEM_WAKE_RETURN -/

/-- The return goes the way of every entry into a lower state (R150, R486). -/
theorem exec_memWakeReturn {x l : Nat} (hlogical : s.logical p.val = some l) (hleaf : s.power p.val = pwLeaf)
    (hreturn : (s.core p.val).returnTo = some x) (hx : x ≠ pwLeaf) (hinbox : (s.core p.val).inbox = [])
    (hreadq : (s.core p.val).readq = []) :
    exec (.memWakeReturn p) s = .next (((s.setCore p.val { s.core p.val with returnTo := none }).setCore p.val
      { s.core p.val with returnTo := none, target := x }).setFld (F.pwrCoreStatusState l) pwEntering) := by
  have hlogical : (s.setCore p.val { s.core p.val with returnTo := none }).logical p.val = some l := hlogical
  show execMemWakeReturn p s = _
  unfold execMemWakeReturn
  simp only [hreturn]
  rw [if_pos (by simp [hleaf, hinbox, hreadq])]
  unfold State.beginEntry
  simp only [hlogical, if_neg hx, State.core_setCore]

theorem memWakeReturn_answers {x l : Nat} (hlogical : s.logical p.val = some l) (hleaf : s.power p.val = pwLeaf)
    (hreturn : (s.core p.val).returnTo = some x) (hx : x ≠ pwLeaf) (hinbox : (s.core p.val).inbox = [])
    (hreadq : (s.core p.val).readq = []) : Answers (.memWakeReturn p) s fun t =>
      t.fld (F.pwrCoreStatusState l) = pwEntering ∧ (t.core p.val).target = x ∧ (t.core p.val).returnTo = none ∧
        t.mem = s.mem ∧ fieldsKept s t [(F.pwrCoreStatusState l).key] ∧ (∀ j, j ≠ p.val → t.core j = s.core j) := by
  refine .intro (exec_memWakeReturn hlogical hleaf hreturn hx hinbox hreadq) ⟨?_, ?_, ?_, rfl, ?_, ?_⟩
  · exact State.fld_setFld _ _ _
  · rw [State.core_setFld, State.core_setCore]
  · rw [State.core_setFld, State.core_setCore]
  · exact (fieldsKept.refl s _).setFld (List.mem_singleton_self _) _
  · intro j hj
    rw [State.core_setFld, State.core_setCore_ne _ hj, State.core_setCore_ne _ hj]

/-! ### ECC_WRITEBACK -/

theorem eccWriteback_answers (row : Fin 1024) : Answers (.eccWriteback p bank row) s fun t =>
    (t.core p.val).writeback = (s.core p.val).writeback.erase (bank.val, row.val) ∧ t.mem = s.mem ∧ t.regs = s.regs ∧
      (∀ j, j ≠ p.val → t.core j = s.core j) := by
  refine .intro rfl ⟨?_, rfl, rfl, fun j hj => State.core_setCore_ne _ hj _⟩
  rw [State.core_setCore]

end

end Sys2Proof.Machine
end

section
/-! A command packet that reaches its opcode's own checks: how it is answered, and what a long operation's start leaves in
the session (R419 to R429). -/

namespace Sys2Proof.Machine

/-! ### A packet taken -/

theorem diff32_self (a : Nat) : diff32 a a = 0 := by
  unfold diff32
  omega

/-- What a DEV_SEEN may change: SEEN, the operations that it frees, and EVG_DIEBACK's UNSAVED (R422, R429, R458). -/
theorem State.see_eq (s : State) (devSeen : Nat) : ∃ regs seen ops savedAt,
    s.see devSeen = { s with regs, session := { s.session with seen, ops }, savedAt } ∧
      (regs = s.regs ∨ regs = (s.setFld F.evgDiebackUnsaved 0).regs) := by
  unfold State.see
  extract_lets x raised cleared saved
  have hraised : ∃ seen, raised = { s with session := { s.session with seen } } := by
    unfold raised
    split
    · exact ⟨_, rfl⟩
    · exact ⟨_, rfl⟩
  obtain ⟨seen, hraised⟩ := hraised
  have hsaved : ∃ regs savedAt, saved = { s with regs, session := { s.session with seen }, savedAt } ∧
      (regs = s.regs ∨ regs = (s.setFld F.evgDiebackUnsaved 0).regs) := by
    unfold saved cleared
    rw [hraised]
    split
    · split
      · exact ⟨_, _, rfl, .inr rfl⟩
      · exact ⟨_, _, rfl, .inl rfl⟩
    · exact ⟨_, _, rfl, .inl rfl⟩
  obtain ⟨regs, savedAt, hsaved, hregs⟩ := hsaved
  rw [hsaved]
  exact ⟨regs, seen, _, savedAt, rfl, hregs⟩

section
variable (s : State) (p : Packet)

theorem State.offered_eq : ∃ regs seen ops savedAt,
    s.offered p = { s with regs, session := { s.session with next := (s.session.next + 1) % 2 ^ 32, seen, ops }, savedAt } ∧
      (regs = s.regs ∨ regs = (s.setFld F.evgDiebackUnsaved 0).regs) :=
  State.see_eq _ _

theorem State.fld_offered_ne {g : Fld} (hg : g.key ≠ F.evgDiebackUnsaved.key) : (s.offered p).fld g = s.fld g := by
  obtain ⟨regs, seen, ops, savedAt, he, rfl | rfl⟩ := s.offered_eq p
  · rw [he]
    rfl
  · rw [he]
    exact s.fld_setFld_ne hg 0

theorem State.bit_offered_ne {g : Fld} (hg : g.key ≠ F.evgDiebackUnsaved.key) : (s.offered p).bit g = s.bit g := by
  unfold State.bit
  rw [s.fld_offered_ne p hg]

theorem State.testMode_offered : (s.offered p).testMode = s.testMode := s.bit_offered_ne p (by decide)

theorem State.linkUp_offered (i : Nat) : (s.offered p).linkUp i = s.linkUp i := by
  unfold State.linkUp State.linkState
  rw [s.fld_offered_ne p (by simp only [Fld.key, F.lnkStatusState, F.evgDiebackUnsaved]; omega)]

theorem State.offered_links : (s.offered p).links = s.links := by
  obtain ⟨_, _, _, _, he, -⟩ := s.offered_eq p
  rw [he]

theorem State.offered_mem : (s.offered p).mem = s.mem := by
  obtain ⟨_, _, _, _, he, -⟩ := s.offered_eq p
  rw [he]

theorem State.offered_dieback : (s.offered p).dieback = s.dieback := by
  obtain ⟨_, _, _, _, he, -⟩ := s.offered_eq p
  rw [he]

theorem State.offered_memRun : (s.offered p).memRun = s.memRun := by
  obtain ⟨_, _, _, _, he, -⟩ := s.offered_eq p
  rw [he]

theorem State.offered_memRecord : (s.offered p).memRecord = s.memRecord := by
  obtain ⟨_, _, _, _, he, -⟩ := s.offered_eq p
  rw [he]

theorem State.offered_nextOp : (s.offered p).session.nextOp = s.session.nextOp := by
  obtain ⟨_, _, _, _, he, -⟩ := s.offered_eq p
  rw [he]

/-- Checks 5 and 6 rest on the session's version, the ready state and the stage. -/
theorem State.available_offered (op : Nat) : (s.offered p).available op = s.available op := by
  unfold State.available State.ready State.stage
  rw [s.testMode_offered p, s.fld_offered_ne p (g := F.evgBootReady) (by decide),
    s.fld_offered_ne p (g := F.evgBootStage) (by decide)]

theorem State.knownOpcode_offered (op : Nat) : (s.offered p).knownOpcode op = s.knownOpcode op := by
  obtain ⟨_, _, _, _, he, -⟩ := s.offered_eq p
  unfold State.knownOpcode
  rw [he]

end

/-! ### The reply -/

/-- In state u the packet p that s takes can be answered: the session is as the packet's acceptance leaves it, no packet is
held behind it, and its link takes a reply. -/
structure Replying (s u : State) (p : Packet) : Prop where
  agreed : u.session.agreed = s.session.agreed
  season : u.session.season = s.session.season
  next : u.session.next = (s.session.next + 1) % 2 ^ 32
  cache : u.session.cache = s.session.cache
  held : u.session.held = []
  up : u.linkUp (30 + p.link.val) = true
  bops : u.bops = []

/-- State u with the reply to a packet that s takes counted and cached. -/
def State.cached (u s : State) (op : Nat) (p : Packet) (status : Nat) (results : List Byte) : State :=
  { u with session := { u.session with
      dev := (s.session.dev + 1) % 2 ^ 32, cache := (s.replyTo op p status results :: s.session.cache).take 64 } }

/-- State u once that reply is on its link. -/
def State.replied (u s : State) (op : Nat) (p : Packet) (status : Nat) (results : List Byte) : State :=
  (u.cached s op p status results).sendOn (30 + p.link.val) 3 (.reply (s.replyTo op p status results))

section
variable {s u : State} {op : Nat} {p : Packet}

theorem State.linkUp_of_linkOpen {i : Nat} (h : s.linkOpen i = true) : s.linkUp i = true := by
  unfold State.linkOpen at h
  unfold State.linkUp
  simp only [Bool.or_eq_true, beq_iff_eq] at h
  rcases h with h | h <;> rw [h] <;> decide

theorem State.Takes.replying (h : s.Takes op p) : Replying s (s.offered p) p := by
  have hup : (s.offered p).linkUp (30 + p.link.val) = true :=
    (s.linkUp_offered p _).trans (State.linkUp_of_linkOpen h.turn.well.hears.link)
  have hheld := h.turn.held
  have hbops := h.turn.well.hears.bops
  obtain ⟨_, _, _, _, he, -⟩ := s.offered_eq p
  rw [he] at hup ⊢
  exact ⟨rfl, rfl, rfl, rfl, hheld, hup, hbops⟩

theorem Replying.of_session {v : State} (h : Replying s u p) (hsession : v.session = u.session) (hbops : v.bops = u.bops)
    (hup : v.linkUp (30 + p.link.val) = u.linkUp (30 + p.link.val)) : Replying s v p := by
  obtain ⟨hagreed, hseason, hnext, hcache, hheld, hlink, hwork⟩ := h
  rw [← hsession] at hagreed hseason hnext hcache hheld
  exact ⟨hagreed, hseason, hnext, hcache, hheld, hup.trans hlink, hbops.trans hwork⟩

/-- The handler's answer made a reply (R417, R423). -/
theorem Replying.take (h : Replying s u p) (status : Nat) (results : List Byte) :
    (let v : State := { u with session := { u.session with dev := (s.session.dev + 1) % 2 ^ 32 } }
     let rep := v.makeReply { opcode := op, p } ((s.session.dev + 1) % 2 ^ 32) status results false
     ({ v with session := { v.session with cache := (rep :: v.session.cache).take 64 } } : State).sendReply p.link.val rep) =
      u.replied s op p status results := by
  obtain ⟨hagreed, hseason, -, hcache, -, hup, -⟩ := h
  have hrep : ({ u with session := { u.session with dev := (s.session.dev + 1) % 2 ^ 32 } } : State).makeReply
      { opcode := op, p } ((s.session.dev + 1) % 2 ^ 32) status results false = s.replyTo op p status results := by
    unfold State.makeReply State.replyTo
    simp only [hagreed, hseason]
    rfl
  dsimp only
  rw [hrep]
  simp only [hcache]
  exact congrArg (State.sendOn (u.cached s op p status results) · 3 (.reply (s.replyTo op p status results)))
    (if_pos hup)

theorem State.replied_moves (u s : State) (op : Nat) (p : Packet) (status : Nat) (results : List Byte) :
    movesTraffic (u.cached s op p status results) (u.replied s op p status results) :=
  (movesTraffic.refl _).sendOn _ _ _

theorem State.take_eq {handle : Cmd → State → Resp} {status : Nat} {results : List Byte} (h : s.Takes op p)
    (hr : handle { opcode := op, p, dev := (s.session.dev + 1) % 2 ^ 32 } (s.offered p) = { s := u, status, results })
    (hu : Replying s u p) : s.take handle { opcode := op, p } = u.replied s op p status results := by
  have hdev : (s.offered p).session.dev = s.session.dev := by
    obtain ⟨_, _, _, _, he, -⟩ := s.offered_eq p
    rw [he]
  have hperform : (s.offered p).perform handle { opcode := op, p, dev := (s.session.dev + 1) % 2 ^ 32 } =
      ({ s := u, status, results }, none) := by
    have hpoll : ({ opcode := op, p, dev := (s.session.dev + 1) % 2 ^ 32 } : Cmd).poll = false := h.first
    unfold State.perform
    rw [if_neg (by simp [s.knownOpcode_offered p, h.known]),
      if_neg (by simp [s.available_offered p, h.ready]), if_neg (ne_true_of_eq_false hpoll), hr]
  unfold State.take
  extract_lets before taken offered dev r
  have hcount : dev = (s.session.dev + 1) % 2 ^ 32 := congrArg (fun d => (d + 1) % 2 ^ 32) hdev
  have hresp : r = ({ s := u, status, results }, none) :=
    (congrArg (fun d => (s.offered p).perform handle { opcode := op, p, dev := d }) hcount).trans hperform
  clear_value r dev
  subst hcount hresp
  exact hu.take status results

/-- R419 to R423: a packet that passes checks 1 to 6 is answered with its handler's status and results. -/
theorem State.Takes.command {handle : Cmd → State → Resp} {status : Nat} {results : List Byte} (h : s.Takes op p)
    (hr : handle { opcode := op, p, dev := (s.session.dev + 1) % 2 ^ 32 } (s.offered p) = { s := u, status, results })
    (hu : Replying s u p) : s.command handle { opcode := op, p } = u.replied s op p status results := by
  have htake := State.take_eq h hr hu
  obtain ⟨⟨hwell, hagreed, ⟨hhello, hsync⟩, hnext, hseen, -⟩, -, -, -⟩ := h
  obtain ⟨⟨halive, hlink, hawake, -⟩, hcrc, hsingle, hversion, hseason⟩ := hwell
  have hmoves := u.replied_moves s op p status results
  have hsequence : s.sequence handle { opcode := op, p } = u.replied s op p status results := by
    unfold State.sequence
    dsimp only
    rw [if_neg (Int.not_lt.mpr hseen), hnext, diff32_self, if_pos rfl, htake]
    have hheld : (u.replied s op p status results).session.held = [] := by
      rw [hmoves.session]
      exact hu.held
    unfold State.takeHeld
    rw [hheld]
    rfl
  unfold State.command
  rw [if_neg (by simp [halive, hlink]), if_pos hawake]
  unfold State.receive
  rw [if_neg (by simp [hcrc]), if_neg (by simp [hsingle]), if_neg (by simp [hversion]), if_neg (by simp [hseason]),
    if_neg hhello, if_neg hsync, if_neg hagreed, hsequence, State.unitWork_eq_self (hmoves.bops.trans hu.bops)]

/-! ### Rejections -/

/-- The reply itself changes nothing but the session and the packet's link. -/
theorem State.replied_rest (u s : State) (op : Nat) (p : Packet) (status : Nat) (results : List Byte) (session : Session)
    (links : List (Nat × LinkSt)) :
    ({ u.replied s op p status results with session, links } : State) = { u with session, links } := by
  obtain ⟨_, hsent⟩ := (u.cached s op p status results).sendOn_eq (30 + p.link.val) 3
    (.reply (s.replyTo op p status results))
  unfold State.replied
  rw [hsent]
  rfl

theorem Replying.replies (h : Replying s u p) (hlinks : u.links = s.links) (status : Nat) (results : List Byte) :
    replies s (u.replied s op p status results) op p status results := by
  have hsession := (u.replied_moves s op p status results).session
  have hup : (u.cached s op p status results).linkUp (30 + p.link.val) = true := h.up
  refine ⟨⟨?_, ?_⟩, ?_, ?_⟩
  · rw [hsession]
    rfl
  · rw [← State.link_congr hlinks]
    exact State.txq_sendOn_up hup 3 _
  · rw [hsession]
    exact h.next
  · rw [hsession]
    rfl

/-- A rejection changes nothing but the session and the packet's link. -/
theorem State.Takes.onlyReplies (h : s.Takes op p) (status : Nat) :
    onlyReplies s ((s.offered p).replied s op p status []) op p status [] := by
  refine ⟨h.replying.replies (s.offered_links p) status [], State.replied_rest _ _ _ _ _ _ _ _, ?_⟩
  intro i hi
  rw [← State.link_congr (s.offered_links p) i]
  exact State.link_sendOn_ne _ hi _ _

/-- A packet whose handler rejects it. -/
theorem State.Takes.rejected {i : Instr} {status : Nat} (h : s.Takes op p)
    (hexec : exec i s = .next (s.command handle { opcode := op, p }))
    (hr : handle { opcode := op, p, dev := (s.session.dev + 1) % 2 ^ 32 } (s.offered p) = rej (s.offered p) status) :
    Answers i s fun t => Machine.onlyReplies s t op p status [] :=
  .intro (hexec.trans (congrArg _ (h.command hr h.replying))) (h.onlyReplies status)

/-! ### Long operations that start -/

/-- State u answers the packet, and a long operation has been started for it (R426, R427). -/
structure Starting (s u : State) (op : Nat) (p : Packet) (object : Nat) : Prop where
  replying : Replying s u p
  ops : ∃ o, u.session.ops = (s.offered p).session.ops ++ [o] ∧ o.id = s.session.nextOp ∧ o.opcode = op ∧
    o.hostSeq = p.hostSeq.toNat ∧ o.tag = p.tag.toNat ∧ o.object = object ∧ o.state = 0
  nextOp : u.session.nextOp = if s.session.nextOp = 65535 then 1 else s.session.nextOp + 1

theorem Starting.of_session {v : State} {object : Nat} (h : Starting s u op p object) (hsession : v.session = u.session)
    (hbops : v.bops = u.bops) (hup : v.linkUp (30 + p.link.val) = u.linkUp (30 + p.link.val)) :
    Starting s v op p object := by
  obtain ⟨hreplying, hops, hnext⟩ := h
  rw [← hsession] at hops hnext
  exact ⟨hreplying.of_session hsession hbops hup, hops, hnext⟩

theorem Replying.startOp (h : Replying s u p) (op hostSeq tag object : Nat) (pending : Bool) :
    Replying s (u.startOp op hostSeq tag object pending).1.drew p := by
  obtain ⟨hagreed, hseason, hnext, hcache, hheld, hup, hbops⟩ := h
  exact ⟨hagreed, hseason, hnext, hcache, hheld, hup, hbops⟩

/-- The state in which a long operation of a taken packet begins, and its slot. -/
def State.opStarted (s : State) (op : Nat) (p : Packet) (object : Nat) : State :=
  ((s.offered p).startOp op p.hostSeq.toNat p.tag.toNat object false).1.drew

theorem State.Takes.starting (h : s.Takes op p) (object : Nat) : Starting s (s.opStarted op p object) op p object := by
  have hid := s.offered_nextOp p
  unfold State.opStarted
  refine ⟨h.replying.startOp _ _ _ _ _, ?_, ?_⟩
  · exact ⟨_, rfl, hid, rfl, rfl, rfl, rfl, rfl⟩
  · rw [← hid]
    rfl

/-- R426: with a slot free the operation begins, and the answer is ACCEPTED with its OP_ID and an estimate. -/
theorem State.startLong_canStart {object dev : Nat} (h : s.canStart op p object) (begin_ : State → Nat → State) :
    ∃ est, (s.offered p).startLong { opcode := op, p, dev } object begin_ =
      { s := begin_ (s.opStarted op p object) s.session.nextOp, status := stAccepted,
        results := leBytes 2 s.session.nextOp ++ [0, 0] ++ leBytes 4 est } := by
  obtain ⟨hroom, hnone⟩ := h
  have hruns : (s.offered p).opRuns op object = false :=
    List.any_eq_false.mpr fun o ho => by simpa [and_assoc] using hnone o ho
  refine ⟨((s.offered p).startOp op p.hostSeq.toNat p.tag.toNat object false).1.draw 0x426, ?_⟩
  unfold State.startLong
  rw [if_neg (by simp [State.opRoom, hroom, hruns])]
  rw [← s.offered_nextOp p]
  rfl

/-- A packet whose handler starts a long operation. -/
theorem Starting.starts {object est : Nat} (h : Starting s u op p object) :
    starts s (u.replied s op p stAccepted (leBytes 2 s.session.nextOp ++ [0, 0] ++ leBytes 4 est)) op p object := by
  obtain ⟨hreplying, hops, hnext⟩ := h
  have hsession := (u.replied_moves s op p stAccepted (leBytes 2 s.session.nextOp ++ [0, 0] ++ leBytes 4 est)).session
  refine ⟨⟨est, ?_, ?_, ?_, ?_⟩, ?_, ?_⟩
  · rw [hsession]
    rfl
  · rw [hsession]
    exact hreplying.next
  · rw [hsession]
    rfl
  · have hup : (u.cached s op p stAccepted (leBytes 2 s.session.nextOp ++ [0, 0] ++ leBytes 4 est)).linkUp
        (30 + p.link.val) = true := hreplying.up
    unfold State.replied
    rw [State.txq_sendOn_up hup]
    exact List.mem_append_right _ (List.mem_singleton_self _)
  · rw [hsession]
    exact hops
  · rw [hsession]
    exact hnext

end

end Sys2Proof.Machine
end

section
/-! The self-test and the package memory test begin: RUN_BIST and MEMTEST_START (R430, R432, R461, R554). -/

namespace Sys2Proof.Machine

/-! ### RUN_BIST -/

section
variable {s : State} {p : Packet} {dev : Nat}

/-- Units of a BIST target. -/
def bistCount (target : Nat) : Nat := if target = 0 then 96 else if target = 1 then 24 else 32

theorem handle_runBist (s : State) (p : Packet) (dev : Nat) :
    handle { opcode := 0x0802, p, dev } s = hRunBist { opcode := 0x0802, p, dev } s := by
  simp [handle, handlers, tfind]

/-- A BIST runs in a mission test or in stand-alone mode (R432, R554). -/
theorem hRunBist_notReady (h : ¬ (s.bit F.tstStatusMissionTest = true ∨ s.testMode = true)) :
    hRunBist { opcode := 0x0802, p, dev } s = rej s stNotReady :=
  if_pos (not_or.mp h)

/-- A unit that does not exist. -/
theorem hRunBist_noUnit (h : s.bit F.tstStatusMissionTest = true ∨ s.testMode = true)
    (hunit : bistCount (packetPar p 0 1) ≤ packetPar p 2 2) (hall : packetPar p 2 2 ≠ 0xFFFF) :
    hRunBist { opcode := 0x0802, p, dev } s = rej s stBadParam :=
  (if_neg (not_and_or.mpr (h.imp not_not.mpr not_not.mpr))).trans (if_pos (.inr (.inr ⟨hunit, hall⟩)))

theorem bistCount_lt (target : Nat) : bistCount target < 0xFFFF := by
  unfold bistCount
  split
  · decide
  · split <;> decide

/-- A packet with a target and unit that exist, or with all units. -/
theorem hRunBist_wellFormed (hlen : 4 ≤ p.params.length) (htarget : packetPar p 0 1 ≤ 2)
    (hunit : packetPar p 2 2 = 0xFFFF ∨ packetPar p 2 2 < bistCount (packetPar p 0 1)) :
    ¬ (¬ ({ opcode := 0x0802, p, dev } : Cmd).has 4 = true ∨ 2 < packetPar p 0 1 ∨
      (bistCount (packetPar p 0 1) ≤ packetPar p 2 2 ∧ packetPar p 2 2 ≠ 0xFFFF)) := by
  rintro (hshort | hbad | ⟨hno, hone⟩)
  · exact hshort (decide_eq_true hlen)
  · omega
  · omega

/-- A unit that the dieback list excludes. -/
theorem hRunBist_excluded (h : s.bit F.tstStatusMissionTest = true ∨ s.testMode = true) (hlen : 4 ≤ p.params.length)
    (htarget : packetPar p 0 1 ≤ 2) (hunit : packetPar p 2 2 < bistCount (packetPar p 0 1))
    (hex : s.bistExcluded (packetPar p 0 1) (packetPar p 2 2) = true) :
    hRunBist { opcode := 0x0802, p, dev } s = rej s stBadParam := by
  have hcount := bistCount_lt (packetPar p 0 1)
  have hone : packetPar p 2 2 ≠ 0xFFFF := by omega
  exact (if_neg (not_and_or.mpr (h.imp not_not.mpr not_not.mpr))).trans
    ((if_neg (hRunBist_wellFormed hlen htarget (.inr hunit))).trans (if_pos ⟨hone, hex⟩))

/-- The state in which a BIST of a target and unit runs (R554). -/
def State.bistBegun (s : State) (id target unit : Nat) : State :=
  let shown := ((s.setFld F.tstStatusBistState 1).setFld F.tstStatusBistTarget target).setFld F.tstStatusProgress
    (s.draw 0x556 % 1001)
  { shown with bist := some (id, target, unit) }

/-- A BIST that may run is a long operation. -/
theorem hRunBist_begins (h : s.bit F.tstStatusMissionTest = true ∨ s.testMode = true) (hlen : 4 ≤ p.params.length)
    (htarget : packetPar p 0 1 ≤ 2)
    (hunit : packetPar p 2 2 = 0xFFFF ∨
      (packetPar p 2 2 < bistCount (packetPar p 0 1) ∧ s.bistExcluded (packetPar p 0 1) (packetPar p 2 2) = false))
    (hidle : s.memRun.op = none) :
    hRunBist { opcode := 0x0802, p, dev } s = s.startLong { opcode := 0x0802, p, dev } 0 fun u id =>
      u.bistBegun id (packetPar p 0 1) (packetPar p 2 2) := by
  refine (if_neg (not_and_or.mpr (h.imp not_not.mpr not_not.mpr))).trans
    ((if_neg (hRunBist_wellFormed hlen htarget (hunit.imp_right And.left))).trans ((if_neg ?_).trans (if_neg ?_)))
  · rintro ⟨hone, hex⟩
    rcases hunit with hall | ⟨-, hfree⟩
    · exact hone hall
    · exact absurd (hfree.symm.trans hex) (by decide)
  · simp [hidle]

theorem State.fieldsKept_bistBegun (s : State) (id target unit : Nat) : fieldsKept s (s.bistBegun id target unit)
    [F.tstStatusBistState.key, F.tstStatusBistTarget.key, F.tstStatusProgress.key] :=
  (((fieldsKept.refl s _).setFld (by simp) 1).setFld (by simp) target).setFld (by simp) _

theorem State.fld_bistBegun (s : State) (id unit : Nat) {target : Nat} (htarget : target ≤ 2) :
    (s.bistBegun id target unit).fld F.tstStatusBistState = 1 ∧
      (s.bistBegun id target unit).fld F.tstStatusBistTarget = target ∧
      (s.bistBegun id target unit).fld F.tstStatusProgress ≤ 1000 := by
  refine ⟨?_, ?_, ?_⟩
  · exact (State.fld_setFld_ne _ (by decide) _).trans ((State.fld_setFld_ne _ (by decide) _).trans (State.fld_setFld _ _ _))
  · refine (State.fld_setFld_ne _ (by decide) _).trans ((State.fld_setFld _ _ _).trans (Nat.mod_eq_of_lt ?_))
    exact Nat.lt_of_le_of_lt htarget (by decide)
  · refine (State.fld_setFld _ _ _).trans_le ((Nat.mod_le _ _).trans ?_)
    exact Nat.le_of_lt_succ (Nat.mod_lt _ (by decide))

/-- A setting of fields that are no link's leaves which links are up. -/
theorem State.linkUp_bistBegun (s : State) (id target unit i : Nat) : (s.bistBegun id target unit).linkUp i = s.linkUp i := by
  refine (s.fieldsKept_bistBegun id target unit).linkUp ?_
  simp only [Fld.key, F.lnkStatusState, F.tstStatusBistState, F.tstStatusBistTarget, F.tstStatusProgress, List.mem_cons,
    List.not_mem_nil, or_false]
  omega

theorem Starting.bistBegun {u : State} {op object : Nat} (h : Starting s u op p object) (id target unit : Nat) :
    Starting s (u.bistBegun id target unit) op p object :=
  h.of_session rfl rfl (u.linkUp_bistBegun id target unit _)

theorem State.startOp_mem (s : State) (op hostSeq tag object : Nat) (pending : Bool) :
    (s.startOp op hostSeq tag object pending).1.drew.mem = s.mem := rfl

theorem State.opStarted_mem (s : State) (op : Nat) (p : Packet) (object : Nat) : (s.opStarted op p object).mem = s.mem :=
  (State.startOp_mem _ _ _ _ _ _).trans (s.offered_mem p)

theorem State.bistBegun_replied (u s : State) (op : Nat) (p : Packet) (id unit : Nat) {target : Nat} (htarget : target ≤ 2)
    (status : Nat) (results : List Byte) :
    let t := (u.bistBegun id target unit).replied s op p status results
    t.bist = some (id, target, unit) ∧ t.fld F.tstStatusBistState = 1 ∧ t.fld F.tstStatusBistTarget = target ∧
      t.fld F.tstStatusProgress ≤ 1000 ∧ t.mem = u.mem := by
  obtain ⟨hstate, hwhich, hprogress⟩ := u.fld_bistBegun id unit htarget
  obtain ⟨_, _, hsent⟩ := (u.bistBegun id target unit).replied_moves s op p status results
  rw [hsent]
  exact ⟨rfl, hstate, hwhich, hprogress, rfl⟩

/-- RUN_BIST's checks read what acceptance of its packet leaves alone. -/
theorem State.bistAllowed_offered (s : State) (p : Packet) :
    ((s.offered p).bit F.tstStatusMissionTest = true ∨ (s.offered p).testMode = true) ↔
      (s.bit F.tstStatusMissionTest = true ∨ s.testMode = true) := by
  rw [s.bit_offered_ne p (by decide), s.testMode_offered p]

theorem State.bistExcluded_offered (s : State) (p : Packet) (target unit : Nat) :
    (s.offered p).bistExcluded target unit = s.bistExcluded target unit := by
  unfold State.bistExcluded
  rw [s.offered_dieback p]

/-- RUN_BIST is taken by its handler. -/
theorem exec_runBist (s : State) (p : Packet) : exec (.runBist p) s = .next (s.command handle { opcode := 0x0802, p }) := rfl

theorem runBist_answers (h : s.Takes 0x0802 p) (hlen : 4 ≤ p.params.length) (htarget : packetPar p 0 1 ≤ 2)
    (hallowed : s.bit F.tstStatusMissionTest = true ∨ s.testMode = true)
    (hunit : packetPar p 2 2 = 0xFFFF ∨
      (packetPar p 2 2 < bistCount (packetPar p 0 1) ∧ s.bistExcluded (packetPar p 0 1) (packetPar p 2 2) = false))
    (hidle : s.memRun.op = none) (hstart : s.canStart 0x0802 p 0) :
    Answers (.runBist p) s fun t => starts s t 0x0802 p 0 ∧
      t.bist = some (s.session.nextOp, packetPar p 0 1, packetPar p 2 2) ∧ t.fld F.tstStatusBistState = 1 ∧
      t.fld F.tstStatusBistTarget = packetPar p 0 1 ∧ t.fld F.tstStatusProgress ≤ 1000 ∧ t.mem = s.mem := by
  rw [← s.bistAllowed_offered p] at hallowed
  rw [← s.bistExcluded_offered p] at hunit
  rw [← s.offered_memRun p] at hidle
  obtain ⟨est, hlong⟩ := s.startLong_canStart (dev := (s.session.dev + 1) % 2 ^ 32) hstart
    fun u id => u.bistBegun id (packetPar p 0 1) (packetPar p 2 2)
  have hstarting := (h.starting 0).bistBegun s.session.nextOp (packetPar p 0 1) (packetPar p 2 2)
  have hcommand := h.command ((handle_runBist _ _ _).trans
    ((hRunBist_begins hallowed hlen htarget hunit hidle).trans hlong)) hstarting.replying
  refine .intro ((exec_runBist s p).trans (congrArg _ hcommand)) ⟨hstarting.starts, ?_⟩
  rw [← s.opStarted_mem 0x0802 p 0]
  exact State.bistBegun_replied _ _ _ _ _ _ htarget _ _

/-- RUN_BIST rejected. -/
theorem runBist_rejected {status : Nat} (h : s.Takes 0x0802 p)
    (hr : hRunBist { opcode := 0x0802, p, dev := (s.session.dev + 1) % 2 ^ 32 } (s.offered p) = rej (s.offered p) status) :
    Answers (.runBist p) s fun t => onlyReplies s t 0x0802 p status [] :=
  h.rejected (exec_runBist s p) ((handle_runBist _ _ _).trans hr)

end

/-! ### MEMTEST_START -/

/-- State t follows u: a memory test runs for an operation, and no full test's record is valid (R461, R462). -/
structure MemtestBegun (u t : State) (fast : Bool) (op : Option Nat) : Prop where
  run : t.memRun.op = op
  invalid : t.memValid = false
  mem : t.mem = u.mem
  state : t.fld F.evgMemtestState = 1
  progress : t.fld F.evgMemtestProgress = 0
  fast : t.fld F.evgMemtestFast = if fast then 1 else 0

/-- A record whose last byte is cleared is not valid. -/
theorem clearedRecord_invalid (record : List Byte) :
    (((if record.isEmpty then [] else record.take 0x3F ++ [0])[0x3F]?).getD 0 == 1) = false := by
  split
  · rfl
  · rcases Nat.lt_or_ge record.length 0x3F with hshort | hlong
    · rw [List.getElem?_eq_none]
      · rfl
      · simp only [List.length_append, List.length_take, List.length_singleton]
        omega
    · rw [List.getElem?_append_right (by simp), List.length_take, Nat.min_eq_left hlong]
      rfl

section
variable {s u : State} {p : Packet} {dev : Nat}

theorem State.beginMemtest_begun (u : State) (fast : Bool) (grant : List Byte) (op : Option Nat) :
    MemtestBegun u (u.beginMemtest fast grant op) fast op := by
  unfold State.beginMemtest
  extract_lets run record drawn kept shown
  have hshown : MemtestBegun u shown fast op := by
    refine ⟨rfl, clearedRecord_invalid u.memRecord, rfl, ?_, ?_, ?_⟩
    · exact (State.fld_setFld_ne _ (by decide) _).trans ((State.fld_setFld_ne _ (by decide) _).trans (State.fld_setFld _ _ _))
    · exact (State.fld_setFld_ne _ (by decide) _).trans (State.fld_setFld _ _ _)
    · refine (State.fld_setFld _ _ _).trans ?_
      cases fast <;> rfl
  split
  · obtain ⟨_, hsent⟩ := shown.sendOn_eq _ 3 (.memtest (!fast))
    rw [hsent]
    obtain ⟨hrun, hinvalid, hmem, hstate, hprogress, hfast⟩ := hshown
    exact ⟨hrun, hinvalid, hmem, hstate, hprogress, hfast⟩
  · exact hshown

theorem MemtestBegun.replied {t : State} {fast : Bool} {op : Option Nat} (h : MemtestBegun u t fast op) (s : State)
    (opcode : Nat) (p : Packet) (status : Nat) (results : List Byte) :
    MemtestBegun u (t.replied s opcode p status results) fast op := by
  obtain ⟨hrun, hinvalid, hmem, hstate, hprogress, hfast⟩ := h
  obtain ⟨_, _, hsent⟩ := t.replied_moves s opcode p status results
  rw [hsent]
  exact ⟨hrun, hinvalid, hmem, hstate, hprogress, hfast⟩

theorem Starting.beginMemtest {op object : Nat} (h : Starting s u op p object) (fast : Bool) (grant : List Byte)
    (run : Option Nat) : Starting s (u.beginMemtest fast grant run) op p object := by
  unfold State.beginMemtest
  extract_lets run record drawn kept shown
  have hkept : Starting s kept op p object := h.of_session rfl rfl rfl
  have hshown : Starting s shown op p object := by
    refine hkept.of_session rfl rfl (fieldsKept.linkUp (((((fieldsKept.refl kept
      [F.evgMemtestState.key, F.evgMemtestProgress.key, F.evgMemtestFast.key])).setFld (by simp) 1).setFld (by simp) 0).setFld
      (by simp) _) ?_)
    simp only [Fld.key, F.lnkStatusState, F.evgMemtestState, F.evgMemtestProgress, F.evgMemtestFast, List.mem_cons,
      List.not_mem_nil, or_false]
    omega
  split
  · obtain ⟨_, hsent⟩ := shown.sendOn_eq _ 3 (.memtest (!fast))
    rw [hsent]
    exact hshown.of_session rfl rfl rfl
  · exact hshown

theorem handle_memtestStart (s : State) (p : Packet) (dev : Nat) :
    handle { opcode := 0x0803, p, dev } s = hMemtestStart { opcode := 0x0803, p, dev } s := by
  simp [handle, handlers, tfind]

theorem exec_memtestStart (s : State) (p : Packet) :
    exec (.memtestStart p) s = .next (s.command handle { opcode := 0x0803, p }) := rfl

/-- MEMTEST_START rejected. -/
theorem memtestStart_rejected {status : Nat} (h : s.Takes 0x0803 p)
    (hr : hMemtestStart { opcode := 0x0803, p, dev := (s.session.dev + 1) % 2 ^ 32 } (s.offered p) =
      rej (s.offered p) status) : Answers (.memtestStart p) s fun t => onlyReplies s t 0x0803 p status [] :=
  h.rejected (exec_memtestStart s p) ((handle_memtestStart _ _ _).trans hr)

/-- A memory test outside bring-up runs in a mission test (R432). -/
theorem hMemtestStart_notReady (h : s.bit F.tstStatusMissionTest = false) :
    hMemtestStart { opcode := 0x0803, p, dev } s = rej s stNotReady :=
  if_pos (by simp [h])

/-- A mode that does not exist, or a fast test without a valid record. -/
theorem hMemtestStart_badMode (h : s.bit F.tstStatusMissionTest = true)
    (hmode : 1 < packetPar p 0 1 ∨ (packetPar p 0 1 = 1 ∧ s.memValid = false)) :
    hMemtestStart { opcode := 0x0803, p, dev } s = rej s stBadParam :=
  (if_neg (not_not.mpr h)).trans (if_pos (.inr (hmode.imp_right (And.imp_right ne_true_of_eq_false))))

theorem hMemtestStart_begins (h : s.bit F.tstStatusMissionTest = true) (hlen : 1 ≤ p.params.length)
    (hmode : packetPar p 0 1 = 0 ∨ (packetPar p 0 1 = 1 ∧ s.memValid = true)) :
    hMemtestStart { opcode := 0x0803, p, dev } s = s.startLong { opcode := 0x0803, p, dev } 0 fun u id =>
      u.beginMemtest (packetPar p 0 1 == 1) (if packetPar p 0 1 = 1 then s.memRecord else []) (some id) := by
  have hgood : ¬ (¬ ({ opcode := 0x0803, p, dev } : Cmd).has 1 = true ∨ 1 < packetPar p 0 1 ∨
      (packetPar p 0 1 = 1 ∧ ¬ s.memValid = true)) := by
    rintro (hshort | hbad | ⟨hone, hinvalid⟩)
    · exact hshort (decide_eq_true hlen)
    · omega
    · rcases hmode with hzero | ⟨-, hvalid⟩
      · omega
      · exact hinvalid hvalid
  exact (if_neg (not_not.mpr h)).trans (if_neg hgood)

theorem State.memValid_offered (s : State) (p : Packet) : (s.offered p).memValid = s.memValid := by
  unfold State.memValid
  rw [s.offered_memRecord p]

theorem memtestStart_answers (h : s.Takes 0x0803 p) (hlen : 1 ≤ p.params.length)
    (hmission : s.bit F.tstStatusMissionTest = true)
    (hmode : packetPar p 0 1 = 0 ∨ (packetPar p 0 1 = 1 ∧ s.memValid = true)) (hstart : s.canStart 0x0803 p 0) :
    Answers (.memtestStart p) s fun t => starts s t 0x0803 p 0 ∧ t.fld F.evgMemtestState = 1 ∧
      t.fld F.evgMemtestProgress = 0 ∧ t.fld F.evgMemtestFast = packetPar p 0 1 ∧ t.memRun.op = some s.session.nextOp ∧
      t.memValid = false ∧ t.mem = s.mem := by
  have hfast : (if (packetPar p 0 1 == 1) = true then 1 else 0) = packetPar p 0 1 := by
    rcases hmode with h0 | ⟨h1, -⟩
    · rw [h0]
      rfl
    · rw [h1]
      rfl
  rw [← s.bit_offered_ne p (by decide)] at hmission
  rw [← s.memValid_offered p] at hmode
  obtain ⟨est, hlong⟩ := s.startLong_canStart (dev := (s.session.dev + 1) % 2 ^ 32) hstart fun u id =>
    u.beginMemtest (packetPar p 0 1 == 1) (if packetPar p 0 1 = 1 then (s.offered p).memRecord else []) (some id)
  have hstarting := (h.starting 0).beginMemtest (packetPar p 0 1 == 1)
    (if packetPar p 0 1 = 1 then (s.offered p).memRecord else []) (some s.session.nextOp)
  have hcommand := h.command ((handle_memtestStart _ _ _).trans
    ((hMemtestStart_begins hmission hlen hmode).trans hlong)) hstarting.replying
  obtain ⟨hrun, hinvalid, hmem, hstate, hprogress, hshown⟩ := ((s.opStarted 0x0803 p 0).beginMemtest_begun
    (packetPar p 0 1 == 1) (if packetPar p 0 1 = 1 then (s.offered p).memRecord else []) (some s.session.nextOp)).replied
    s 0x0803 p stAccepted (leBytes 2 s.session.nextOp ++ [0, 0] ++ leBytes 4 est)
  exact .intro ((exec_memtestStart s p).trans (congrArg _ hcommand)) ⟨hstarting.starts, hstate, hprogress,
    hshown.trans hfast, hrun, hinvalid, hmem.trans (s.opStarted_mem 0x0803 p 0)⟩

end

end Sys2Proof.Machine
end

section
/-! The self-test and the package memory test end: BIST_DONE and MEMTEST_DONE (R429, R462, R554). It settles O20. -/

namespace Sys2Proof.Machine

/-! ### A long operation that ends -/

section
variable {s u : State} {id status : Nat} {results : List Byte}

theorem State.finishOp_eq (u : State) (id status : Nat) (results : List Byte) :
    ∃ session log regs, u.finishOp id status results = { u with session, log, regs } := by
  unfold State.finishOp
  split
  · exact ⟨_, _, _, rfl⟩
  · obtain ⟨_, _, hlogged⟩ := State.logEvent_eq _ _ _ _ _ _ _ _
    rw [hlogged]
    exact ⟨_, _, _, rfl⟩

theorem State.fld_finishOp_ne (u : State) (id status : Nat) (results : List Byte) {g : Fld}
    (hnext : g.key ≠ F.fltEvtNext.key) (hlost : g.key ≠ F.fltEvtLost.key) :
    (u.finishOp id status results).fld g = u.fld g := by
  unfold State.finishOp
  split
  · rfl
  · exact State.fld_logEvent_ne _ _ _ _ _ _ _ _ hnext hlost

/-- R429: an operation that runs or is pending finishes. -/
theorem State.finishOp_finishes (hlive : s.opLive id) (hsession : u.session = s.session) :
    finishes s (u.finishOp id status results) id status results := by
  obtain ⟨o, ho, hid, hstate⟩ := hlive
  have hfound : (u.findOp id).isSome = true := by
    unfold State.findOp
    rw [hsession, List.find?_isSome]
    exact ⟨o, ho, by simp [hid, hstate]⟩
  obtain ⟨live, hlive⟩ := Option.isSome_iff_exists.mp hfound
  intro x hx hxid
  unfold State.finishOp
  rw [hlive]
  dsimp only
  obtain ⟨_, _, hlogged⟩ := State.logEvent_eq _ _ _ _ _ _ _ _
  rw [hlogged]
  refine List.mem_map.mpr ⟨x, hsession ▸ hx, ?_⟩
  exact if_pos hxid

end

/-! ### BIST_DONE -/

theorem bistFailed_nil (target : Nat) (units : List Nat) : bistFailed target units [] = [] := by
  simp [bistFailed]

/-- The failure masks of a BIST that found none. -/
def State.noFailures (s : State) : Nat → State
  | 0 => (List.range 3).foldl (fun (s : State) k => s.setFld (F.tstFailCore k) 0) s
  | 1 => s.setFld F.tstFailRouter 0
  | _ => s.setFld F.tstFailAdapter 0

/-- The registers of a BIST that has passed (R554). -/
def State.passShown (s : State) (target : Nat) : State :=
  (((s.setFld F.tstStatusBistState 2).setFld F.tstStatusProgress 1000).addFld F.tstBistRuns 1).noFailures target

/-- The state in which a BIST of a target and unit has passed. -/
def State.bistPassed (s : State) (target unit : Nat) : State :=
  (({ s with bist := none } : State).bistCleared target (s.bistUnits target unit)).passShown target

theorem exec_bistDone_passed {s : State} {id target unit : Nat} (hbist : s.bist = some (id, target, unit)) :
    exec (.bistDone []) s = .next ((s.bistPassed target unit).finishOp id stOk (List.replicate 20 0)).unitWork := by
  have hmask : maskOf 96 (fun u => ([] : List Nat).contains u) = 0 := by decide
  have hzero : leBytes 12 0 ++ leBytes 4 0 ++ leBytes 4 0 = List.replicate 20 0 := by decide
  show execBistDone [] s = _
  unfold execBistDone
  simp only [hbist, bistFailed_nil, hmask, ite_self, hzero, Nat.zero_div, Nat.zero_mod, List.filter_nil, List.foldl_nil]
  unfold State.bistPassed State.passShown State.noFailures
  rfl

section
variable {s : State} {id target unit : Nat}

/-- Microcode loaded anew changes cores only. -/
theorem State.loadUcode_eq (units : List Nat) (bytes : List Byte) (s : State) : ∃ cores,
    units.foldl (fun s p => s.setCore p { s.core p with ucode := bytes }) s = { s with cores } := by
  induction units generalizing s with
  | nil => exact ⟨_, rfl⟩
  | cons p units ih =>
    obtain ⟨cores, hrest⟩ := ih (s.setCore p { s.core p with ucode := bytes })
    exact ⟨cores, hrest⟩

/-- Clearing the tested units touches scratchpads, cores and routers only. -/
theorem State.bistCleared_eq (s : State) (target : Nat) (units : List Nat) :
    ∃ mem cores routers, s.bistCleared target units = { s with mem, cores, routers } := by
  unfold State.bistCleared
  split
  · extract_lets gone lost cleared
    split
    · next im _ =>
      obtain ⟨cores, hloaded⟩ := State.loadUcode_eq units im.bytes cleared
      exact ⟨_, cores, _, hloaded⟩
    · exact ⟨_, _, _, rfl⟩
  · split
    · exact ⟨_, _, _, rfl⟩
    · exact ⟨_, _, _, rfl⟩

theorem tfind_filter_none {α : Type} {f : Nat → Bool} (m : List (Nat × α)) {i : Nat} (h : f i = false) :
    tfind (m.filter fun e => f e.1) i = none := by
  induction m with
  | nil => rfl
  | cons e m ih =>
    by_cases he : f e.1 = true
    · have hne : i ≠ e.1 := by
        rintro rfl
        exact absurd (h.symm.trans he) (by decide)
      rw [List.filter_cons_of_pos (p := fun e : Nat × α => f e.1) he]
      exact (if_neg hne).trans ih
    · rw [List.filter_cons_of_neg (p := fun e : Nat × α => f e.1) he]
      exact ih

/-- Every byte of a tested core reads 0 (R554). -/
theorem State.get_bistCleared (s : State) {units : List Nat} {c k : Nat} (hc : c ∈ units) (hk : k < 2 ^ 22) :
    (s.bistCleared 0 units).mem.get (c * 2 ^ 22 + k) = 0 := by
  have hcore : (c * 2 ^ 22 + k) / coreBytes = c := by
    show (c * 2 ^ 22 + k) / 0x400000 = c
    omega
  have hbank : (c * 2 ^ 22 + k) / bankBytes / 16 = c := by
    show (c * 2 ^ 22 + k) / 0x40000 / 16 = c
    omega
  have hmem : (s.bistCleared 0 units).mem =
      { cells := s.mem.cells.filter fun x => !units.contains (x.1 / coreBytes)
        lost := s.mem.lost.filter fun b => !units.contains (b.1 / 16) } := by
    unfold State.bistCleared
    rw [if_pos rfl]
    extract_lets gone lost cleared
    split
    · next im _ =>
      obtain ⟨cores, hloaded⟩ := State.loadUcode_eq units im.bytes cleared
      exact congrArg State.mem hloaded
    · rfl
  have hcell : tfind (s.mem.cells.filter fun x => !units.contains (x.1 / coreBytes)) (c * 2 ^ 22 + k) = none :=
    tfind_filter_none (f := fun a => !units.contains (a / coreBytes)) _ (by rw [hcore]; simp [hc])
  have hlost : tfind (s.mem.lost.filter fun b => !units.contains (b.1 / 16)) ((c * 2 ^ 22 + k) / bankBytes) = none :=
    tfind_filter_none (f := fun a => !units.contains (a / 16)) _ (by rw [hbank]; simp [hc])
  rw [hmem]
  unfold Mem.get Mem.unlisted
  dsimp only
  rw [hcell, hlost]
  rfl

/-- The keys of the failure masks. -/
def failMaskKeys : List Nat :=
  [(F.tstFailCore 0).key, (F.tstFailCore 1).key, (F.tstFailCore 2).key, F.tstFailRouter.key, F.tstFailAdapter.key]

/-- From s to t only register fields have changed. -/
def setsFields (s t : State) : Prop := ∃ regs, t = { s with regs }

theorem setsFields.setFld {s t : State} (h : setsFields s t) (f : Fld) (v : Nat) : setsFields s (t.setFld f v) := by
  obtain ⟨_, rfl⟩ := h
  exact ⟨_, rfl⟩

theorem setsFields.noFailures {s t : State} (h : setsFields s t) (target : Nat) : setsFields s (t.noFailures target) := by
  unfold State.noFailures
  split
  · exact ((h.setFld _ _).setFld _ _).setFld _ _
  · exact h.setFld _ _
  · exact h.setFld _ _

theorem State.fieldsKept_noFailures (s : State) (target : Nat) : fieldsKept s (s.noFailures target) failMaskKeys := by
  unfold State.noFailures
  split
  · exact (((fieldsKept.refl s _).setFld (by decide) 0).setFld (by decide) 0).setFld (by decide) 0
  · exact (fieldsKept.refl s _).setFld (by decide) 0
  · exact (fieldsKept.refl s _).setFld (by decide) 0

theorem State.setsFields_passShown (s : State) (target : Nat) : setsFields s (s.passShown target) :=
  (setsFields.setFld (setsFields.setFld (setsFields.setFld ⟨_, rfl⟩ _ _) _ _) _ _).noFailures target

theorem State.fld_passShown (s : State) (target : Nat) : (s.passShown target).fld F.tstStatusBistState = 2 ∧
    (s.passShown target).fld F.tstStatusProgress = 1000 ∧
    (s.passShown target).fld F.tstBistRuns = (s.fld F.tstBistRuns + 1) % 2 ^ 32 := by
  unfold State.passShown
  refine ⟨?_, ?_, ?_⟩
  · refine (State.fieldsKept_noFailures _ target _ (by decide)).trans ((State.fld_addFld_ne _ (by decide) 1).trans
      ((State.fld_setFld_ne _ (by decide) _).trans (State.fld_setFld _ _ _)))
  · exact (State.fieldsKept_noFailures _ target _ (by decide)).trans ((State.fld_addFld_ne _ (by decide) 1).trans
      (State.fld_setFld _ _ _))
  · refine (State.fieldsKept_noFailures _ target _ (by decide)).trans ((State.fld_addFld _ _ _).trans ?_)
    rw [State.fld_setFld_ne _ (by decide), State.fld_setFld_ne _ (by decide)]
    rfl

theorem State.fld_bistPassed (s : State) (target unit : Nat) :
    (s.bistPassed target unit).fld F.tstStatusBistState = 2 ∧ (s.bistPassed target unit).fld F.tstStatusProgress = 1000 ∧
      (s.bistPassed target unit).fld F.tstBistRuns = (s.fld F.tstBistRuns + 1) % 2 ^ 32 := by
  unfold State.bistPassed
  obtain ⟨_, _, _, hcleared⟩ := ({ s with bist := none } : State).bistCleared_eq target (s.bistUnits target unit)
  rw [hcleared]
  exact State.fld_passShown _ target

/-- What a BIST that has passed leaves, but for fields, scratchpads, cores and routers. -/
theorem State.bistPassed_eq (s : State) (target unit : Nat) : ∃ regs mem cores routers,
    s.bistPassed target unit = { s with regs, mem, cores, routers, bist := none } := by
  unfold State.bistPassed
  obtain ⟨mem, cores, routers, hcleared⟩ :=
    ({ s with bist := none } : State).bistCleared_eq target (s.bistUnits target unit)
  obtain ⟨regs, hshown⟩ := State.setsFields_passShown
    (({ s with bist := none } : State).bistCleared target (s.bistUnits target unit)) target
  rw [hshown, hcleared]
  exact ⟨regs, mem, cores, routers, rfl⟩

theorem State.get_bistPassed (s : State) {c k : Nat} (hc : c ∈ s.bistUnits 0 unit) (hk : k < 2 ^ 22) :
    (s.bistPassed 0 unit).mem.get (c * 2 ^ 22 + k) = 0 := by
  obtain ⟨_, hshown⟩ := State.setsFields_passShown
    (({ s with bist := none } : State).bistCleared 0 (s.bistUnits 0 unit)) 0
  unfold State.bistPassed
  rw [hshown]
  exact State.get_bistCleared { s with bist := none } hc hk

theorem bistDone_answers (hlive : s.opLive id) (hbist : s.bist = some (id, target, unit)) (hbops : s.bops = []) :
    Answers (.bistDone []) s fun t => finishes s t id stOk (List.replicate 20 0) ∧ t.bist = none ∧
      t.fld F.tstStatusBistState = 2 ∧ t.fld F.tstStatusProgress = 1000 ∧
      t.fld F.tstBistRuns = (s.fld F.tstBistRuns + 1) % 2 ^ 32 ∧ t.dieback = s.dieback ∧
      (target = 0 → ∀ c ∈ s.bistUnits 0 unit, ∀ k, k < 2 ^ 22 → t.mem.get (c * 2 ^ 22 + k) = 0) := by
  obtain ⟨hstate, hprogress, hruns⟩ := s.fld_bistPassed target unit
  have hbytes : target = 0 → ∀ c ∈ s.bistUnits 0 unit, ∀ k, k < 2 ^ 22 →
      (s.bistPassed target unit).mem.get (c * 2 ^ 22 + k) = 0 := by
    rintro rfl c hc k hk
    exact s.get_bistPassed hc hk
  obtain ⟨_, _, _, _, hpassed⟩ := s.bistPassed_eq target unit
  have hsession : (s.bistPassed target unit).session = s.session := by rw [hpassed]
  have hdieback : (s.bistPassed target unit).dieback = s.dieback := by rw [hpassed]
  have hnone : (s.bistPassed target unit).bist = none := by rw [hpassed]
  have hwork : (s.bistPassed target unit).bops = [] := by rw [hpassed]; exact hbops
  obtain ⟨_, _, _, hfinished⟩ := (s.bistPassed target unit).finishOp_eq id stOk (List.replicate 20 0)
  have hquiet : ((s.bistPassed target unit).finishOp id stOk (List.replicate 20 0)).bops = [] := by
    rw [hfinished]
    exact hwork
  refine .intro ((exec_bistDone_passed hbist).trans (by rw [State.unitWork_eq_self hquiet]))
    ⟨State.finishOp_finishes hlive hsession, ?_, ?_, ?_, ?_, ?_, ?_⟩
  · rw [hfinished]
    exact hnone
  · exact (State.fld_finishOp_ne _ _ _ _ (by decide) (by decide)).trans hstate
  · exact (State.fld_finishOp_ne _ _ _ _ (by decide) (by decide)).trans hprogress
  · exact (State.fld_finishOp_ne _ _ _ _ (by decide) (by decide)).trans hruns
  · rw [hfinished]
    exact hdieback
  · rw [hfinished]
    exact hbytes

end

/-! ### MEMTEST_DONE -/

section
variable {s : State} {id : Nat}

theorem slice_length (bs : List Byte) (o n : Nat) : (slice bs o n).length = n := by
  simp only [slice, List.length_append, List.length_take, List.length_drop, List.length_replicate]
  omega

/-- The state in which a package memory test has ended, its record made (R462). -/
def State.memEnded (s : State) (passed : Bool) (rows : Nat) : State :=
  let record := if ¬ passed then s.memRecord else if s.memRun.fast then slice s.memRun.grant 0 0x3F ++ [1] else s.memNew rows
  let ended : State := { s with memRecord := record, memRun := { s.memRun with finished := some s.time, op := none } }
  let shown := ended.setFld F.evgMemtestState (if passed then 2 else 3)
  if passed then shown.setFld F.evgMemtestProgress 1000 else shown

theorem exec_memtestDone (hstate : s.fld F.evgMemtestState = 1) (halive : s.alive = true) (hop : s.memRun.op = some id)
    (passed : Bool) (rows : Nat) : exec (.memtestDone passed rows) s = .next
      ((s.memEnded passed rows).finishOp id (if passed then stOk else stHwFault)
        (leBytes 8 (memSlice s.packageBytes) ++ leBytes 4 rows)) := by
  have hruns : s.memRuns = true := by simp [State.memRuns, hstate]
  show execMemtestDone passed rows s = _
  unfold execMemtestDone State.memEnd
  simp only [if_pos (And.intro hruns halive), hop]
  cases passed <;> rfl

/-- The record of a passed test is valid: its last byte is 1. -/
theorem State.memEnded_valid (s : State) (rows : Nat) : (s.memEnded true rows).memValid = true := by
  have hrecord : (s.memEnded true rows).memRecord =
      if s.memRun.fast then slice s.memRun.grant 0 0x3F ++ [1] else s.memNew rows := rfl
  unfold State.memValid
  rw [hrecord]
  split
  · rw [List.getElem?_append_right (by rw [slice_length]), slice_length]
    rfl
  · unfold State.memNew
    rw [List.getElem?_append_right (by simp [leBytes_length])]
    simp only [List.length_append, leBytes_length]
    rfl

theorem memtestDone_answers (hlive : s.opLive id) (hstate : s.fld F.evgMemtestState = 1) (halive : s.alive = true)
    (hop : s.memRun.op = some id) (passed : Bool) (rows : Nat) : Answers (.memtestDone passed rows) s fun t =>
      finishes s t id (if passed then stOk else stHwFault) (leBytes 8 (s.packageBytes / 12 / 4096 * 4096) ++ leBytes 4 rows) ∧
      t.fld F.evgMemtestState = (if passed then 2 else 3) ∧ t.memRun.op = none ∧
      (passed = false → t.memRecord = s.memRecord) ∧
      (passed = true → t.memValid = true ∧ t.fld F.evgMemtestProgress = 1000) ∧ t.mem = s.mem := by
  have hsession : (s.memEnded passed rows).session = s.session := by cases passed <;> rfl
  obtain ⟨_, _, _, hfinished⟩ := (s.memEnded passed rows).finishOp_eq id (if passed then stOk else stHwFault)
    (leBytes 8 (memSlice s.packageBytes) ++ leBytes 4 rows)
  refine .intro (exec_memtestDone hstate halive hop passed rows)
    ⟨State.finishOp_finishes hlive hsession, ?_, ?_, ?_, ?_, ?_⟩
  · rw [State.fld_finishOp_ne _ _ _ _ (by decide) (by decide)]
    cases passed with
    | false => exact State.fld_setFld _ _ _
    | true => exact (State.fld_setFld_ne _ (by decide) _).trans (State.fld_setFld _ _ _)
  · rw [hfinished]
    cases passed <;> rfl
  · rintro rfl
    rw [hfinished]
    rfl
  · rintro rfl
    refine ⟨?_, ?_⟩
    · rw [hfinished]
      exact s.memEnded_valid rows
    · exact (State.fld_finishOp_ne _ _ _ _ (by decide) (by decide)).trans (State.fld_setFld _ _ _)
  · rw [hfinished]
    cases passed <;> rfl

end

/-- Settles O20, command by command. -/
theorem bankUpkeep : Obligations.BankUpkeep := by
  unfold Obligations.BankUpkeep
  refine ⟨?_, ?_, ?_⟩
  · intro s p bank row x
    exact ⟨eccWriteback_answers row, wakeTimeout_answers, fun _ => memWakeReturn_answers⟩
  · intro s p n i id
    refine ⟨?_, ?_⟩
    · intro h hlen htarget unit units allowed
      refine ⟨?_, ?_, ?_, ?_⟩
      · intro hdenied
        exact runBist_rejected h (hRunBist_notReady (mt (s.bistAllowed_offered p).mp hdenied))
      · intro hallowed hunit hone
        exact runBist_rejected h (hRunBist_noUnit ((s.bistAllowed_offered p).mpr hallowed) hunit hone)
      · intro hallowed hunit hex
        exact runBist_rejected h (hRunBist_excluded ((s.bistAllowed_offered p).mpr hallowed) hlen htarget hunit
          ((s.bistExcluded_offered p _ _).trans hex))
      · exact runBist_answers h hlen htarget
    · intro h hlen
      refine ⟨?_, ?_, ?_⟩
      · intro hmission
        exact memtestStart_rejected h (hMemtestStart_notReady ((s.bit_offered_ne p (by decide)).trans hmission))
      · intro hmission hmode
        refine memtestStart_rejected h (hMemtestStart_badMode ((s.bit_offered_ne p (by decide)).trans hmission) ?_)
        rw [s.memValid_offered p]
        exact hmode
      · exact memtestStart_answers h hlen
  · intro s id hlive
    refine ⟨?_, ?_⟩
    · intro target unit hbist _ hbops
      exact bistDone_answers hlive hbist hbops
    · exact fun passed rows hstate halive hop => memtestDone_answers hlive hstate halive hop passed rows

end Sys2Proof.Machine
end

section
/-! The pleach network between kernels: what a cycle of a half leaves while no kernel runs and no open row is held, the rows
that WB wrote, a stalled and an executed cycle (R270, R276 to R278, R290). It settles O24. -/

namespace Sys2Proof.Machine

/-! ### A network that no kernel uses -/

/-- Below this key stand the fields of PLN's halves and of every block before PLN; from it on those of routers, adapters,
queues and cores. -/
abbrev routerKeys : Nat := 0x81000 * 32

/-- t follows s in a network without kernels, open rows and binder operations: scratchpads and the fields of the halves are
those of s, and so are the halves that have paid for an entry's conflicts. -/
structure NetKept (s t : State) : Prop where
  kernels : t.kernels = []
  bops : t.bops = []
  opens : ∀ r, (t.router r).opens = []
  mem : t.mem = s.mem
  slotServed : t.slotServed = s.slotServed
  fields : ∀ g : Fld, g.key < routerKeys → t.fld g = s.fld g

section
variable {s t : State}

theorem NetKept.setFld (h : NetKept s t) {f : Fld} (hf : routerKeys ≤ f.key) (v : Nat) : NetKept s (t.setFld f v) :=
  ⟨h.kernels, h.bops, h.opens, h.mem, h.slotServed,
    fun g hg => (t.fld_setFld_ne (Nat.ne_of_lt (Nat.lt_of_lt_of_le hg hf)) v).trans (h.fields g hg)⟩

theorem NetKept.setCore (h : NetKept s t) (p : Nat) (x : CoreSt) : NetKept s (t.setCore p x) :=
  ⟨h.kernels, h.bops, h.opens, h.mem, h.slotServed, h.fields⟩

theorem NetKept.setChan (h : NetKept s t) (c : Nat) (x : ChanSt) : NetKept s (t.setChan c x) :=
  ⟨h.kernels, h.bops, h.opens, h.mem, h.slotServed, h.fields⟩

theorem NetKept.setRouter (h : NetKept s t) (c : Nat) {x : RouterSt} (hx : x.opens = []) : NetKept s (t.setRouter c x) := by
  refine ⟨h.kernels, h.bops, fun r => ?_, h.mem, h.slotServed, h.fields⟩
  by_cases hr : r = c
  · subst hr
    rwa [State.router_setRouter]
  · rw [State.router_setRouter_ne _ hr]
    exact h.opens r

theorem NetKept.setStreams (h : NetKept s t) (streams : List (Nat × AdpStream)) : NetKept s { t with streams } :=
  ⟨h.kernels, h.bops, h.opens, h.mem, h.slotServed, h.fields⟩

theorem NetKept.setBlocks (h : NetKept s t) (blocks : List PlnBlock) : NetKept s { t with blocks } :=
  ⟨h.kernels, h.bops, h.opens, h.mem, h.slotServed, h.fields⟩

theorem NetKept.setStalledBy (h : NetKept s t) (stalledBy : List (Nat × Nat)) : NetKept s { t with stalledBy } :=
  ⟨h.kernels, h.bops, h.opens, h.mem, h.slotServed, h.fields⟩

theorem NetKept.setSlotServed (h : NetKept s t) (slotServed : List Nat) :
    NetKept { s with slotServed } { t with slotServed } :=
  ⟨h.kernels, h.bops, h.opens, h.mem, rfl, h.fields⟩

theorem NetKept.self (h : NetKept s t) : NetKept t t := ⟨h.kernels, h.bops, h.opens, rfl, rfl, fun _ _ => rfl⟩

/-- A field of a half set before and after. -/
theorem NetKept.setFld_both (h : NetKept s t) (f : Fld) (v : Nat) : NetKept (s.setFld f v) (t.setFld f v) := by
  refine ⟨h.kernels, h.bops, h.opens, h.mem, h.slotServed, fun g hg => ?_⟩
  by_cases hf : g.key = f.key
  · unfold State.fld State.setFld
    rw [hf, tget_tset_self, tget_tset_self]
  · rw [State.fld_setFld_ne _ hf, State.fld_setFld_ne _ hf, h.fields g hg]

theorem NetKept.writeCore (h : NetKept s t) (p off : Nat) (data : List Byte) :
    NetKept (s.writeCore p off data) (t.writeCore p off data) :=
  ⟨h.kernels, h.bops, h.opens, congrArg (Mem.sets · _ data) h.mem, h.slotServed, h.fields⟩

theorem NetKept.coupled (h : NetKept s t) (half : Nat) : t.coupled half = [] := by
  unfold State.coupled
  rw [h.kernels]
  rfl

/-! ### The scoreboard that a landed row releases (R137 to R141, R280) -/

theorem NetKept.sbEnter (h : NetKept s t) (p i kind source engine origin first last : Nat) (owner : Option (Sum Nat Nat)) :
    NetKept s (t.sbEnter p i kind source engine origin first last owner) := by
  rw [State.sbEnter_eq]
  refine NetKept.setCore (List.foldlRecOn (motive := NetKept s) _ _ h fun u hu x hx => hu.setFld ?_ x.2) _ _
  have := (entryFields_key hx).1
  unfold routerKeys
  omega

theorem NetKept.sbRelease (h : NetKept s t) (p i : Nat) : NetKept s (t.sbRelease p i) := by
  unfold State.sbRelease
  refine (h.setCore p _).setFld ?_ 0
  simp only [routerKeys, Fld.key, F.spdSbAValid]
  omega

theorem NetKept.dmaEnterOne (h : NetKept s t) (c p : Nat) : NetKept s (t.dmaEnterOne c p) := by
  unfold State.dmaEnterOne
  split
  · exact h
  · split
    · split
      · exact (h.sbEnter _ _ _ _ _ _ _ _ _).setChan c _
      · exact h
    · exact h

theorem NetKept.enterOne (h : NetKept s t) (p seq source tag : Nat) (ranges : List (Nat × Nat × Nat)) :
    NetKept s (t.enterOne p seq source tag ranges) := by
  refine List.foldlRecOn (motive := NetKept s) _ _ h fun u hu r _ => ?_
  split
  · exact hu.sbEnter _ _ _ _ _ _ _ _ _
  · exact hu

theorem NetKept.enterDescs (h : NetKept s t) (p n : Nat) : NetKept s (t.enterDescs p n) := by
  induction n generalizing t with
  | zero => exact h
  | succ n ih =>
    unfold State.enterDescs
    split
    · exact h
    · extract_lets r entered c
      split
      · exact h
      · exact ih ((h.enterOne _ _ _ _ _).setCore p _)

theorem NetKept.sbFreed (h : NetKept s t) (p : Nat) : NetKept s (t.sbFreed p) := by
  have hdma : NetKept s (t.dmaEnterAll p) :=
    List.foldlRecOn (motive := NetKept s) _ _ h fun u hu c _ => hu.dmaEnterOne c p
  unfold State.sbFreed
  extract_lets u
  split
  · exact hdma
  · exact hdma.enterDescs p 17

end

/-! ### Rows under way (R276, R280, R290) -/

/-- The rows in the stile FIFOs of router c move on by a cycle of half h. -/
def State.stileCross (h : Nat) (s : State) (c : Nat) : State :=
  let r := s.router c
  let step := fun (x : StileRow) =>
    if halfOfClump c = h then
      (if x.send = 0 ∧ 0 < x.recv then { x with recv := x.recv - 1, at_ := s.pcc } else x)
    else { x with send := x.send - 1 }
  if r.stile.isEmpty then s else s.setRouter c { r with stile := r.stile.map fun q => (q.1, q.2.map step) }

/-- A row of router c lands in its bank. -/
def State.landRow (c : Nat) (s : State) (w : WbRow) : State :=
  let s := s.writeCore w.p (w.row * 256) w.data
  if w.rel then
    let row := posOf w.p * 16384 + w.row
    match (s.core w.p).sbOrder.find? fun o => o.owner.isNone && s.fld (F.spdSbAKind w.p o.entry) == 0 &&
        s.sbOverlaps w.p o.entry row row with
    | some o => (s.sbRelease w.p o.entry).sbFreed w.p
    | none => s.addFld (F.plnRtrRelMiss c) 1
  else s

/-- The rows that WB wrote at router c move on by a cycle, and those whose cycles are over land. -/
def State.landRows (s : State) (c : Nat) : State :=
  let r := s.router c
  if r.wbs.isEmpty then s
  else
    let ws := r.wbs.map fun w => { w with left := w.left - 1 }
    (ws.filter fun w => w.left == 0).foldl (State.landRow c)
      (s.setRouter c { r with wbs := ws.filter fun w => w.left != 0 })

theorem State.plnPass_eq (s : State) (h : Nat) :
    s.plnPass h = (halfClumps h).foldl State.landRows ((List.range 24).foldl (State.stileCross h) s) := rfl

/-- t follows s as `NetKept` says, but for what has landed in the scratchpads. -/
def NetKeptBut (s t : State) : Prop := ∃ mem, NetKept { s with mem } t

section
variable {s t : State}

theorem NetKept.stileCross (hk : NetKept s t) (h c : Nat) : NetKept s (t.stileCross h c) := by
  unfold State.stileCross
  extract_lets r step
  split
  · exact hk
  · exact hk.setRouter c (hk.opens c)

theorem NetKept.landRow (hk : NetKept s t) (c : Nat) (w : WbRow) : NetKeptBut s (t.landRow c w) := by
  have hland := hk.writeCore w.p (w.row * 256) w.data
  suffices h : NetKept (s.writeCore w.p (w.row * 256) w.data) (t.landRow c w) from ⟨_, h⟩
  unfold State.landRow
  extract_lets u row
  split
  · split
    · exact (hland.sbRelease _ _).sbFreed _
    · refine hland.setFld ?_ _
      simp only [routerKeys, Fld.key, F.plnRtrRelMiss]
      omega
  · exact hland

theorem NetKeptBut.landRow (hk : NetKeptBut s t) (c : Nat) (w : WbRow) : NetKeptBut s (t.landRow c w) := by
  obtain ⟨_, hk⟩ := hk
  exact hk.landRow c w

theorem NetKeptBut.landRows (hk : NetKeptBut s t) (c : Nat) : NetKeptBut s (t.landRows c) := by
  unfold State.landRows
  extract_lets r ws
  split
  · exact hk
  · obtain ⟨m, hk⟩ := hk
    exact List.foldlRecOn (motive := NetKeptBut s) _ _ ⟨m, hk.setRouter c (hk.opens c)⟩ fun u hu w _ => hu.landRow c w

theorem NetKept.plnPass (hk : NetKept s t) (h : Nat) : NetKeptBut s (t.plnPass h) := by
  rw [State.plnPass_eq]
  have hcross : NetKept s ((List.range 24).foldl (State.stileCross h) t) :=
    List.foldlRecOn (motive := NetKept s) _ _ hk fun u hu c _ => hu.stileCross h c
  exact List.foldlRecOn (motive := NetKeptBut s) _ _ ⟨_, hcross⟩ fun u hu c _ => hu.landRows c

theorem NetKept.adapterCycle (hk : NetKept s t) (h : Nat) : NetKept s (t.adapterCycle h) := by
  refine List.foldlRecOn (motive := NetKept s) _ _ hk fun u hu a _ => ?_
  extract_lets held ahead
  have hheld : NetKept s held := by
    unfold held
    split
    · refine hu.setFld ?_ _
      simp only [routerKeys, Fld.key, F.plnAdpCreditHold]
      omega
    · exact hu
  clear_value held
  split
  · refine hheld.setFld ?_ _
    simp only [routerKeys, Fld.key, F.plnAdpAhead]
    omega
  · exact hheld

end

/-! ### A row that lands (R276) -/

theorem State.stileCross_mem (h : Nat) (s : State) (c : Nat) : (s.stileCross h c).mem = s.mem := by
  unfold State.stileCross
  extract_lets r step
  split <;> rfl

theorem State.stileCross_wbs (h : Nat) (s : State) (c d : Nat) : ((s.stileCross h c).router d).wbs = (s.router d).wbs := by
  unfold State.stileCross
  extract_lets r step
  split
  · rfl
  · by_cases hd : d = c
    · subst hd
      rw [State.router_setRouter]
    · rw [State.router_setRouter_ne _ hd]

/-- A network without rows of WB lets none land. -/
theorem State.landRows_idle {l : List Nat} {s : State} (h : ∀ c ∈ l, (s.router c).wbs = []) :
    l.foldl State.landRows s = s := by
  induction l with
  | nil => rfl
  | cons c l ih =>
    have hidle : s.landRows c = s := by
      unfold State.landRows
      simp [h c List.mem_cons_self]
    rw [List.foldl_cons, hidle, ih fun d hd => h d (List.mem_cons_of_mem _ hd)]

/-- One row of WB, without the release bit, lands when one cycle is left and else comes a cycle closer. -/
theorem State.landRows_single {s : State} {c : Nat} {w : WbRow} (hwbs : (s.router c).wbs = [w]) (hrel : w.rel = false)
    (hleft : w.left ≠ 0) : s.landRows c =
      if w.left = 1 then (s.setRouter c { s.router c with wbs := [] }).writeCore w.p (w.row * 256) w.data
      else s.setRouter c { s.router c with wbs := [{ w with left := w.left - 1 }] } := by
  unfold State.landRows
  by_cases hone : w.left = 1
  · simp [hwbs, hone, State.landRow, hrel]
  · have hmore : w.left - 1 ≠ 0 := by omega
    simp [hwbs, hone, hmore]

theorem State.landRows_single_ne {s : State} {c d : Nat} {w : WbRow} (hwbs : (s.router c).wbs = [w]) (hrel : w.rel = false)
    (hleft : w.left ≠ 0) (hd : d ≠ c) : (s.landRows c).router d = s.router d := by
  rw [State.landRows_single hwbs hrel hleft]
  split
  · exact (State.router_writeCore _ _ _ _ d).trans (s.router_setRouter_ne hd _)
  · exact s.router_setRouter_ne hd _

/-- One row of WB in a half: a pass is the landing of that row, once the stile's rows have moved. -/
theorem State.plnPass_single {s : State} {h c : Nat} {w : WbRow} (hc : c ∈ halfClumps h)
    (hw : (s.router c).wbs = [w]) (hrel : w.rel = false) (hleft : w.left ≠ 0)
    (hidle : ∀ r ∈ halfClumps h, r ≠ c → (s.router r).wbs = []) : ∃ t : State, t.mem = s.mem ∧
      (∀ d, (t.router d).wbs = (s.router d).wbs) ∧ s.plnPass h = t.landRows c := by
  obtain ⟨before, after, hsplit⟩ := List.append_of_mem hc
  have hnodup : (before ++ c :: after).Nodup := hsplit ▸ List.nodup_range.filter _
  obtain ⟨hne, hne'⟩ : (∀ r ∈ before, r ≠ c) ∧ ∀ r ∈ after, r ≠ c := by
    rw [List.nodup_append, List.nodup_cons] at hnodup
    obtain ⟨-, ⟨hafter, -⟩, hbefore⟩ := hnodup
    exact ⟨fun r hr => hbefore r hr c List.mem_cons_self, fun r hr e => hafter (e ▸ hr)⟩
  let t := (List.range 24).foldl (State.stileCross h) s
  have hwbs : ∀ d, (t.router d).wbs = (s.router d).wbs := fun d =>
    List.foldlRecOn (motive := fun t : State => (t.router d).wbs = (s.router d).wbs) _ _ rfl
      fun u hu a _ => (u.stileCross_wbs h a d).trans hu
  have hmem : t.mem = s.mem :=
    List.foldlRecOn (motive := fun t : State => t.mem = s.mem) _ _ rfl fun u hu a _ => (u.stileCross_mem h a).trans hu
  refine ⟨t, hmem, hwbs, ?_⟩
  rw [State.plnPass_eq, hsplit, List.foldl_append, List.foldl_cons]
  have hbefore : before.foldl State.landRows t = t := State.landRows_idle fun r hr => by
    rw [hwbs, hidle r (by simp [hsplit, hr]) (hne r hr)]
  show after.foldl State.landRows ((before.foldl State.landRows t).landRows c) = _
  rw [hbefore]
  refine State.landRows_idle fun r hr => ?_
  rw [State.landRows_single_ne ((hwbs c).trans hw) hrel hleft (hne' r hr), hwbs, hidle r (by simp [hsplit, hr]) (hne' r hr)]

theorem State.adapterCycle_routers (s : State) (h : Nat) : (s.adapterCycle h).routers = s.routers := by
  refine List.foldlRecOn (motive := fun t : State => t.routers = s.routers) _ _ rfl fun u hu a _ => ?_
  extract_lets held ahead
  have hheld : held.routers = s.routers := by
    unfold held
    split <;> exact hu
  clear_value held
  split <;> exact hheld

/-! ### A stalled cycle (R277 to R279) -/

section
variable {s t : State}

theorem NetKept.noteStall (hk : NetKept s t) (c e : Nat) : NetKept s (t.noteStall c e) := by
  unfold State.noteStall
  extract_lets late r new v u
  have hv : NetKept s v := hk.setRouter c (hk.opens c)
  have hu : NetKept s u := by
    unfold u
    split
    · exact hk
    · refine (hv.setFld ?_ _).setFld ?_ _ <;>
      · simp only [routerKeys, Fld.key, F.plnRtrStileLate, F.plnRtrStileLateCc]
        omega
  clear_value u
  split
  · refine hu.setFld ?_ _
    simp only [routerKeys, Fld.key, F.plnRtrSbWait]
    omega
  · exact hu

theorem NetKept.plnStallCycle (hk : NetKept s t) (h cause : Nat) :
    NetKept ((t.setFld (F.plnHalfStalled h) 1).addFld (F.plnStallCc h) 1) (t.plnStallCycle h cause) := by
  unfold State.plnStallCycle
  extract_lets i u v w
  have hu : NetKept u u := (hk.self.setFld_both _ _).setFld_both _ _
  have hv : NetKept u v := hu.setStalledBy _
  have hw : NetKept u w := List.foldlRecOn (motive := NetKept u) _ _ hv fun x hx c _ => hx.noteStall c _
  rw [hw.coupled]
  exact hw

/-- Half h has stalled since s: it is STALLED at the index where it was, and the cycle is counted. -/
structure StallsFrom (s t : State) (h : Nat) : Prop where
  index : t.fld (F.plnHalfIndex h) = s.fld (F.plnHalfIndex h)
  stalled : t.fld (F.plnHalfStalled h) = 1
  counted : t.fld (F.plnStallCc h) = (s.fld (F.plnStallCc h) + 1) % 2 ^ 32
  mem : t.mem = s.mem

theorem NetKept.stallsFrom {u : State} {h : Nat} (hk : NetKept s t) (hh : h < 2)
    (hstall : NetKept ((t.setFld (F.plnHalfStalled h) 1).addFld (F.plnStallCc h) 1) u) : StallsFrom s u h := by
  have hkeys : (F.plnHalfIndex h).key < routerKeys ∧ (F.plnHalfStalled h).key < routerKeys ∧
      (F.plnStallCc h).key < routerKeys := by
    simp only [routerKeys, Fld.key, F.plnHalfIndex, F.plnHalfStalled, F.plnStallCc]
    omega
  have hapart : (F.plnHalfIndex h).key ≠ (F.plnStallCc h).key ∧ (F.plnHalfIndex h).key ≠ (F.plnHalfStalled h).key ∧
      (F.plnHalfStalled h).key ≠ (F.plnStallCc h).key := by
    simp only [Fld.key, F.plnHalfIndex, F.plnHalfStalled, F.plnStallCc]
    omega
  obtain ⟨hindex, hstalled, hcc⟩ := hkeys
  obtain ⟨hne, hne', hne''⟩ := hapart
  constructor
  · rw [hstall.fields _ hindex, State.fld_addFld_ne _ hne, State.fld_setFld_ne _ hne', hk.fields _ hindex]
  · rw [hstall.fields _ hstalled, State.fld_addFld_ne _ hne'', State.fld_setFld]
    rfl
  · rw [hstall.fields _ hcc, State.fld_addFld, State.fld_setFld_ne _ hne''.symm, hk.fields _ hcc]
    rfl
  · exact hstall.mem.trans hk.mem

theorem NetKept.recordError (hk : NetKept s t) (p code pc : Nat) : NetKept s (t.recordError p code pc) := by
  have hcount : NetKept s (t.satFld (F.corErrorCount p) 1) := by
    refine hk.setFld ?_ _
    simp only [routerKeys, Fld.key, F.corErrorCount]
    omega
  unfold State.recordError
  dsimp only
  split
  · refine (hcount.setFld ?_ _).setFld ?_ _ <;>
    · simp only [routerKeys, Fld.key, F.corErrorFirstCode, F.corErrorFirstPc]
      omega
  · exact hcount

theorem NetKept.recordConflict (hk : NetKept s t) (p unit bank : Nat) (writes : Bool) (q : Nat) :
    NetKept s (t.recordConflict p unit bank writes q) := by
  unfold State.recordConflict
  refine NetKept.setFld (NetKept.setFld (NetKept.setFld (NetKept.setFld (NetKept.setFld (NetKept.setFld
    (hk.recordError p _ _) ?_ _) ?_ _) ?_ _) ?_ _) ?_ _) ?_ _ <;>
  · simp only [routerKeys, Fld.key, F.spdConflicts, F.spdConflictLastBank, F.spdConflictLastKind, F.spdConflictLastUnit,
      F.spdConflictLastOtherQ, F.spdConflictLastPc]
    omega

theorem NetKept.freezeCycles (hk : NetKept s t) (p n : Nat) : NetKept s (t.freezeCycles p n) := by
  unfold State.freezeCycles
  split
  · have hnone : (t.frozenWith p).1 = [] := by simp [State.frozenWith, hk.coupled]
    extract_lets w u
    have hu : NetKept s u := by
      unfold u w
      rwa [hnone]
    refine List.foldlRecOn (motive := NetKept s) _ _ hu fun v hv x _ => hv.setFld ?_ _
    simp only [routerKeys, Fld.key, F.corFreezeCc]
    omega
  · exact hk

/-- A half that serialises conflicts stalls for the cycle. -/
theorem NetKept.slotStall (hk : NetKept s t) {h : Nat} (hh : h < 2) (lost : List (Nat × Nat × Bool × Nat)) :
    StallsFrom s (t.slotStall h lost) h := by
  unfold State.slotStall
  extract_lets u v
  have hu : NetKept s u := List.foldlRecOn (motive := NetKept s) _ _ hk fun x hx c _ => hx.recordConflict _ _ _ _ _
  have hserved := hu.setSlotServed (h :: u.slotServed.filter (· ≠ h))
  obtain ⟨hindex, hstalled, hcounted, hmem⟩ := hserved.stallsFrom hh
    (List.foldlRecOn (motive := NetKept _) _ _ (hserved.plnStallCycle h 7) fun x hx p _ => hx.freezeCycles p 1)
  exact ⟨hindex, hstalled, hcounted, hmem⟩

/-! ### An executed cycle (R270, R274 to R276) -/

theorem NetKept.sendLane (hk : NetKept s t) (c k : Nat) (row : List Byte) : NetKept s (t.sendLane c k row) := by
  unfold State.sendLane
  split
  · exact hk
  · next d _ =>
    split
    · exact hk
    · extract_lets code r
      split <;> exact hk.setRouter d (hk.opens d)

theorem NetKept.settleRouter (hk : NetKept s t) (c : Nat) : NetKept s (t.settleRouter c) := by
  rwa [State.settleRouter_eq_self (hk.opens c)]

theorem NetKept.consume (hk : NetKept s t) (c e code : Nat) : NetKept s (t.consume c e code) := by
  unfold State.consume
  split
  · exact hk.setRouter c (hk.opens c)
  · split
    · exact hk.setRouter c (hk.opens c)
    · split
      · split
        · exact hk
        · split
          · exact hk
          · extract_lets x
            exact (hk.setStreams _).settleRouter c
      · exact hk

theorem NetKept.slotBanks (hk : NetKept s t) (old : Mem) (c : Nat) (x : Nat × Nat × PlnSection) (e : Nat)
    (rows : Nat → List Byte) : NetKept s (t.slotBanks old c x e rows).1 := by
  unfold State.slotBanks
  extract_lets rd
  have hrd : NetKept s rd.1 := by
    refine List.foldlRecOn (motive := fun a : State × List (Nat × Nat × Nat) => NetKept s a.1) _ _ hk fun a ha n _ => ?_
    split
    · extract_lets row p r
      split
      · exact ha.setRouter c (ha.opens c)
      · exact ha
    · exact ha
  refine List.foldlRecOn (motive := fun a : State × List (Nat × Nat × Nat) => NetKept s a.1) _ _ hrd fun a ha n _ => ?_
  split
  · extract_lets row p r w
    split
    · exact ha.setRouter c (ha.opens c)
    · exact ha
  · exact ha

theorem NetKept.useStream (hk : NetKept s t) (c r : Nat) : NetKept s (t.useStream c r) := hk.setBlocks _

theorem NetKept.execRouter (hk : NetKept s t) (old : Mem) (c i : Nat) : NetKept s (t.execRouter old c i).1 := by
  unfold State.execRouter
  extract_lets e who codes rows dead op s1 s2 outs s3 s4 s5 r sum s6 s7
  split
  · exact hk
  · have hs1 : NetKept s s1 := List.foldlRecOn (motive := NetKept s) _ _ hk fun u hu x _ => hu.consume c e x
    have hs3 : NetKept s s3 := by
      refine (hs1.setFld ?_ _).setFld ?_ _ <;>
      · simp only [routerKeys, Fld.key, F.plnRtrDeadRx, F.plnRtrSched]
        omega
    have hs4 : NetKept s s4 := List.foldlRecOn (motive := NetKept s) _ _ hs3 fun u hu k _ => hu.sendLane c k _
    have hs5 : NetKept s s5 := by
      refine List.foldlRecOn (motive := NetKept s) _ _ hs4 fun u hu k _ => ?_
      split
      · exact hu
      · split
        · exact hu
        · exact hu.setStreams _
    have hreduce : routerKeys ≤ (F.plnRtrReduce c).key := by
      simp only [routerKeys, Fld.key, F.plnRtrReduce]
      omega
    have hs6 : NetKept s s6 := by
      unfold s6
      split
      · refine NetKept.setFld (hs5.setRouter c ?_) hreduce _
        exact hs5.opens c
      · split
        · refine NetKept.setFld (hs5.setRouter c ?_) hreduce _
          exact hs5.opens c
        · exact hs5
    have hs7 : NetKept s s7.1 :=
      List.foldlRecOn (motive := fun a : State × List (Nat × Nat × Nat) => NetKept s a.1) _ _ hs6
        fun a ha x _ => ha.slotBanks old c x _ rows
    exact List.foldlRecOn (motive := NetKept s) _ _ hs7 fun u hu r _ => hu.useStream c r

theorem NetKept.periodBegins (hk : NetKept s t) (h : Nat) : NetKept s (t.periodBegins h) := by
  unfold State.periodBegins
  extract_lets go u
  refine List.foldlRecOn (motive := NetKept s) _ _ (hk.setBlocks _) fun v hv p _ => (hv.setCore p _).setFld ?_ _
  simp only [routerKeys, Fld.key, F.corStatusState]
  omega

theorem NetKept.denySlot (hk : NetKept s t) (x : Nat × Nat × Nat) : t.denySlot x = t := by
  unfold State.denySlot State.kernelAt
  rw [hk.kernels]
  rfl

/-- Half h has carried out an entry since s: it is not STALLED, and its index goes on round the period. -/
structure GoesOnFrom (s t : State) (h : Nat) : Prop where
  index : t.fld (F.plnHalfIndex h) =
    if s.plnPeriod ≤ s.fld (F.plnHalfIndex h) + 1 then 0 else s.fld (F.plnHalfIndex h) + 1
  stalled : t.fld (F.plnHalfStalled h) = 0
  mem : t.mem = s.mem

/-- A half that carries out its entries: those write routers, streams and blocks only, and then the index moves on. -/
theorem NetKept.execHalf (hk : NetKept s t) {h : Nat} (hh : h < 2) (hindex : s.fld (F.plnHalfIndex h) < 4096) (old : Mem) :
    GoesOnFrom s (t.execHalf old h []) h := by
  unfold State.execHalf
  extract_lets i u v x w wrap y z d
  have hu : NetKept u u := ⟨hk.kernels, hk.bops, hk.opens, rfl, rfl, fun _ _ => rfl⟩
  have hv : NetKept u v :=
    List.foldlRecOn (motive := NetKept u) _ _ hu fun a ha c _ => ha.setRouter c (ha.opens c)
  have hx : NetKept u x.1 :=
    List.foldlRecOn (motive := fun a : State × List (Nat × Nat × Nat) => NetKept u a.1) _ _ hv
      fun a ha c _ => ha.execRouter old c i
  have hw : NetKept u w := by
    unfold w
    rwa [hx.coupled]
  have hy : NetKept y y := hw.self.setFld_both _ _
  have hz : NetKept y z := by
    unfold z
    split
    · exact hy.periodBegins h
    · exact hy
  have hd : NetKept y d := List.foldlRecOn (motive := NetKept y) _ _ hz fun a ha q _ => by rwa [ha.denySlot q]
  show GoesOnFrom s d.unitWork h
  rw [State.unitWork_eq_self hd.bops]
  have hkeys : (F.plnHalfIndex h).key < routerKeys ∧ (F.plnHalfStalled h).key < routerKeys ∧
      F.plnPeriod.key < routerKeys := by
    simp only [routerKeys, Fld.key, F.plnHalfIndex, F.plnHalfStalled, F.plnPeriod]
    omega
  have hapart : F.plnPeriod.key ≠ (F.plnHalfStalled h).key ∧ (F.plnHalfStalled h).key ≠ (F.plnHalfIndex h).key := by
    simp only [Fld.key, F.plnHalfIndex, F.plnHalfStalled, F.plnPeriod]
    omega
  obtain ⟨hindexKey, hstalledKey, hperiodKey⟩ := hkeys
  obtain ⟨hperiod, hstalled⟩ := hapart
  have hi : i = s.fld (F.plnHalfIndex h) := hk.fields _ hindexKey
  have hwrap : w.plnPeriod = s.plnPeriod :=
    (hw.fields _ hperiodKey).trans ((State.fld_setFld_ne _ hperiod _).trans (hk.fields _ hperiodKey))
  constructor
  · rw [hd.fields _ hindexKey, State.fld_setFld]
    unfold wrap
    rw [hwrap, hi]
    by_cases hlast : s.plnPeriod ≤ s.fld (F.plnHalfIndex h) + 1
    · simp [hlast]
    · simp only [hlast, decide_false, Bool.false_eq_true, if_false]
      exact Nat.mod_eq_of_lt (Nat.lt_of_le_of_lt hindex (by norm_num [F.plnHalfIndex]))
  · rw [hd.fields _ hstalledKey, State.fld_setFld_ne _ hstalled, hw.fields _ hstalledKey, State.fld_setFld]
    rfl
  · exact hd.mem.trans (hw.mem.trans hk.mem)

end

/-! ### PLN_SLOT_EXECUTE -/

/-- A half before it tries its entries: the rows under way have moved by a cycle. -/
def State.slotBegun (s : State) (h : Nat) : State := (({ s with pcc := s.pcc + 1 } : State).plnPass h).adapterCycle h

/-- The accesses that the entries of a half lose to each other at its index, unless it has paid for them (R121, R278). -/
def State.slotLost (s : State) (h : Nat) : List (Nat × Nat × Bool × Nat) :=
  (if s.slotServed.contains h then [] else s.selfConflicts h (s.fld (F.plnHalfIndex h))).map
    fun x => (x.1, x.2.1, x.2.2, posOf x.1)

theorem State.slotLost_eq_nil (s : State) (h : Nat) :
    s.slotLost h = [] ↔ h ∈ s.slotServed ∨ s.selfConflicts h (s.fld (F.plnHalfIndex h)) = [] := by
  unfold State.slotLost
  split
  · next hserved => simp [List.contains_iff_mem.mp hserved]
  · next hserved =>
    have hfree : h ∉ s.slotServed := fun hmem => hserved (List.contains_iff_mem.mpr hmem)
    simp [hfree]

section
variable {s : State} {half : Half}

theorem exec_plnSlotExecute_stalls (hclocks : s.clocksOff = false) {r x : Nat}
    (hcause : (s.slotBegun (halfNo half)).plnCause (halfNo half) = some (r, x)) :
    exec (.plnSlotExecute half [] []) s = .next ((s.slotBegun (halfNo half)).plnStallCycle (halfNo half) x) := by
  show execPlnSlotExecute half [] [] s = _
  unfold execPlnSlotExecute
  extract_lets h old ecc u i cores met own lost
  have hu : u = s.slotBegun (halfNo half) := rfl
  rw [if_neg (by simp [hclocks]), hu, hcause]

theorem exec_plnSlotExecute (hclocks : s.clocksOff = false)
    (hcause : (s.slotBegun (halfNo half)).plnCause (halfNo half) = none) :
    exec (.plnSlotExecute half [] []) s = .next
      (if (s.slotBegun (halfNo half)).slotLost (halfNo half) = [] then
        (s.slotBegun (halfNo half)).execHalf s.mem (halfNo half) []
      else (s.slotBegun (halfNo half)).slotStall (halfNo half) ((s.slotBegun (halfNo half)).slotLost (halfNo half))) := by
  show execPlnSlotExecute half [] [] s = _
  unfold execPlnSlotExecute
  extract_lets h old ecc u i cores met own lost
  have hu : u = s.slotBegun (halfNo half) := rfl
  have hlost : lost = (s.slotBegun (halfNo half)).slotLost (halfNo half) := List.append_nil _
  rw [if_neg (by simp [hclocks]), hlost, hu, hcause]
  rfl

/-- A cycle begins in a network without kernels, open rows and binder operations, and leaves it so. -/
theorem State.slotBegun_kept (hkernels : s.kernels = []) (hbops : s.bops = []) (hopens : ∀ r, (s.router r).opens = [])
    (h : Nat) : NetKeptBut s (s.slotBegun h) := by
  have hquiet : NetKept s { s with pcc := s.pcc + 1 } := ⟨hkernels, hbops, hopens, rfl, rfl, fun _ _ => rfl⟩
  obtain ⟨m, hpass⟩ := hquiet.plnPass h
  exact ⟨m, hpass.adapterCycle h⟩

/-- One row of WB in a half that has more cycles left, or lands in its bank. -/
theorem State.slotBegun_row (hkernels : s.kernels = []) (hbops : s.bops = []) (hopens : ∀ r, (s.router r).opens = [])
    {h c : Nat} {w : WbRow} (hc : c ∈ halfClumps h) (hw : (s.router c).wbs = [w]) (hrel : w.rel = false)
    (hidle : ∀ r ∈ halfClumps h, r ≠ c → (s.router r).wbs = []) :
    (w.left = 1 → memHolds s (s.slotBegun h) (w.p * 2 ^ 22 + w.row * 256) w.data) ∧
    (1 < w.left → (s.slotBegun h).mem = s.mem ∧
      ((s.slotBegun h).router c).wbs = [{ w with left := w.left - 1 }]) := by
  let begun : State := { s with pcc := s.pcc + 1 }
  have hquiet : NetKept s begun := ⟨hkernels, hbops, hopens, rfl, rfl, fun _ _ => rfl⟩
  obtain ⟨m, hpass⟩ := hquiet.plnPass h
  have hmem : (s.slotBegun h).mem = (begun.plnPass h).mem := (hpass.self.adapterCycle h).mem
  have hrouter : (s.slotBegun h).router c = (begun.plnPass h).router c :=
    congrArg (fun routers => (tget {} routers c : RouterSt)) ((begun.plnPass h).adapterCycle_routers h)
  refine ⟨fun hone => ?_, fun hmore => ?_⟩
  · obtain ⟨t, htmem, htwbs, heq⟩ := State.plnPass_single (s := begun) hc hw hrel (by omega) hidle
    rw [State.landRows_single ((htwbs c).trans hw) hrel (by omega), if_pos hone] at heq
    refine memHolds_sets (hmem.trans ?_)
    rw [heq]
    exact congrArg (Mem.sets · _ w.data) htmem
  · obtain ⟨t, htmem, htwbs, heq⟩ := State.plnPass_single (s := begun) hc hw hrel (by omega) hidle
    rw [State.landRows_single ((htwbs c).trans hw) hrel (by omega), if_neg (by omega)] at heq
    rw [hmem, hrouter, heq, State.router_setRouter]
    exact ⟨htmem, rfl⟩

end

theorem halfNo_lt (half : Half) : halfNo half < 2 := by
  cases half <;> decide

/-- Settles O24: the cycle begins with the rows under way moved, which leaves the network as `NetKept` says; then the half
stalls for a cause, stalls for its conflicts, or carries out its entries. -/
theorem pleachCycle : Obligations.PleachCycle := by
  unfold Obligations.PleachCycle
  intro s half c w hclocks hkernels hbops hopens h i u idx stalls
  have hh : h < 2 := halfNo_lt half
  obtain ⟨m, hu⟩ : NetKeptBut s u := s.slotBegun_kept hkernels hbops hopens h
  have hindex : u.fld (F.plnHalfIndex h) = idx := hu.fields _ (by
    simp only [routerKeys, Fld.key, F.plnHalfIndex]
    omega)
  have hlost := u.slotLost_eq_nil h
  rw [hindex, hu.slotServed] at hlost
  refine ⟨?_, ?_, ?_, fun hc hw hrel hidle => s.slotBegun_row hkernels hbops hopens hc hw hrel hidle⟩
  · intro r x hcause
    obtain ⟨hi, hstalled, hcounted, hmem⟩ := hu.stallsFrom hh (hu.plnStallCycle h x)
    exact .intro (exec_plnSlotExecute_stalls hclocks hcause) ⟨hi, hstalled, hcounted, hmem.trans hu.mem.symm⟩
  · intro hcause hserved hconflicts
    have hexec : exec i s = .next (u.slotStall h (u.slotLost h)) :=
      (exec_plnSlotExecute hclocks hcause).trans
        (congrArg _ (if_neg fun e => (hlost.mp e).elim hserved hconflicts))
    obtain ⟨hi, hstalled, hcounted, hmem⟩ := hu.slotStall hh (u.slotLost h)
    exact .intro hexec ⟨hi, hstalled, hcounted, hmem.trans hu.mem.symm⟩
  · intro hcause hfree hbound
    have hexec : exec i s = .next (u.execHalf s.mem h []) :=
      (exec_plnSlotExecute hclocks hcause).trans (congrArg _ (if_pos (hlost.mpr hfree)))
    obtain ⟨hi, hstalled, hmem⟩ := hu.execHalf hh hbound s.mem
    exact .intro hexec ⟨hi, hstalled, hmem.trans hu.mem.symm⟩

end Sys2Proof.Machine
end

section
/-! A clump router that fails, and the clump it fences (R61, R300, R567 to R570), and the event of a half that stays stalled
(R281). It settles O25. -/

namespace Sys2Proof.Machine

/-! ### Bits of a mask -/

theorem testBit_add_two_pow {i m : Nat} (h : m.testBit i = false) (j : Nat) :
    (m + 2 ^ i).testBit j = (m.testBit j || j == i) := by
  induction i generalizing m j with
  | zero =>
    have heven : m % 2 = 0 := by simpa using h
    cases j with
    | zero => simp; omega
    | succ j =>
      have hhalf : (m + 1) / 2 = m / 2 := by omega
      simp [Nat.testBit_succ, hhalf]
  | succ i ih =>
    have hhalf : (m + 2 ^ (i + 1)) / 2 = m / 2 + 2 ^ i := by omega
    cases j with
    | zero => simp [Nat.pow_succ]
    | succ j => simpa [Nat.testBit_succ, hhalf] using ih (m := m / 2) (by simpa [Nat.testBit_succ] using h) j

theorem testBit_setBit (m i j : Nat) : (setBit m i).testBit j = (m.testBit j || j == i) := by
  unfold setBit
  split
  · next h =>
    by_cases hj : j = i
    · subst hj
      simp [h]
    · simp [hj]
  · next h => exact testBit_add_two_pow (Bool.not_eq_true _ ▸ h) j

/-- A bit of a mask field set is the only one that changes. -/
theorem State.testBit_setMaskBit (s : State) (f : Fld) (i : Nat) {j : Nat} (hj : j < f.w) :
    ((s.setMaskBit f i).fld f).testBit j = ((s.fld f).testBit j || j == i) := by
  unfold State.setMaskBit
  rw [State.fld_setFld, Nat.testBit_mod_two_pow, testBit_setBit]
  simp [hj]

/-! ### A clump that is being fenced -/

/-- Keys of the fields in which a fence is counted and recorded, beside EVG_FENCED: those that hold the dieback
counts, the FLT registers and the cores. -/
abbrev fenceRecords (k : Nat) : Prop :=
  (0x64 * 32 ≤ k ∧ k < 0x20000 * 32) ∨ (0x70000 * 32 ≤ k ∧ k < 0x80000 * 32) ∨ 2 ^ 27 ≤ k

/-- t follows s in a die without kernels and binder operations: of clump c the first n cores, and no others, are fenced, and
no more has changed than fencing them counts and records. -/
structure ClumpFencing (s t : State) (c n : Nat) : Prop where
  kernels : t.kernels = []
  bops : t.bops = []
  dieback : t.dieback = s.dieback
  mem : t.mem = s.mem
  links : t.links = s.links
  routers : t.routers = s.routers
  fenced : ∀ q, q < 96 → t.fencedCore q = decide (4 * c ≤ q ∧ q < 4 * c + n)
  fields : ∀ g : Fld, ¬ fenceRecords g.key → g.key < 0x54 * 32 ∨ 0x60 * 32 ≤ g.key → t.fld g = s.fld g

section
variable {s t : State} {c n : Nat}

theorem ClumpFencing.setFld (h : ClumpFencing s t c n) {f : Fld} (hf : fenceRecords f.key) (v : Nat) :
    ClumpFencing s (t.setFld f v) c n := by
  refine ⟨h.kernels, h.bops, h.dieback, h.mem, h.links, h.routers, fun q hq => ?_, fun g hg hg' => ?_⟩
  · rw [← h.fenced q hq]
    unfold State.fencedCore
    rw [State.fld_setFld_ne]
    simp only [fenceRecords, Fld.key, F.evgFenced] at hf ⊢
    omega
  · have hne : g.key ≠ f.key := fun e => hg (e ▸ hf)
    rw [State.fld_setFld_ne _ hne, h.fields g hg hg']

theorem ClumpFencing.setCore (h : ClumpFencing s t c n) (p : Nat) (x : CoreSt) : ClumpFencing s (t.setCore p x) c n :=
  ⟨h.kernels, h.bops, h.dieback, h.mem, h.links, h.routers, h.fenced, h.fields⟩

theorem ClumpFencing.logEvent (h : ClumpFencing s t c n) (severity kind status code unit context detail : Nat) :
    ClumpFencing s (t.logEvent severity kind status code unit context detail) c n := by
  have hlog : ∀ log, ClumpFencing s { t with log } c n := fun log =>
    ⟨h.kernels, h.bops, h.dieback, h.mem, h.links, h.routers, h.fenced, h.fields⟩
  unfold State.logEvent
  extract_lets e r logged
  have hlogged : ClumpFencing s logged c n := (hlog _).setFld (f := F.fltEvtNext) (by decide) _
  split
  · exact hlogged.setFld (f := F.fltEvtLost) (by decide) _
  · exact hlogged

theorem State.logical_congr (hmap : ∀ k, k < 3 → t.fld (F.evgCoreMap k) = s.fld (F.evgCoreMap k)) (p : Nat) :
    t.logical p = s.logical p := by
  unfold State.logical State.coreMap
  rw [hmap 0 (by decide), hmap 1 (by decide), hmap 2 (by decide)]

theorem ClumpFencing.logical (h : ClumpFencing s t c n) (p : Nat) : t.logical p = s.logical p := by
  refine State.logical_congr (fun k hk => h.fields _ ?_ ?_) p <;>
  · simp only [fenceRecords, Fld.key, F.evgCoreMap]
    omega

/-- The logical number of a core of the die is one of at most 96 (R57). -/
theorem State.lt_of_logical {p l : Nat} (hp : p < 96) (h : s.logical p = some l) : l < 96 := by
  unfold State.logical at h
  split at h
  · next hbit =>
    obtain rfl := Option.some.inj h
    have hmem : p ∈ bitsOf 96 s.coreMap := mem_bitsOf.mpr ⟨hp, hbit⟩
    refine Nat.lt_of_lt_of_le (List.idxOf_lt_length_of_mem hmem) ?_
    exact (List.length_filter_le _ _).trans (List.length_range).le
  · cases h

/-- The next core of the clump is fenced: its own bit of EVG_FENCED is set (R61). -/
theorem ClumpFencing.setMaskBit (h : ClumpFencing s t c n) (hcore : 4 * c + n < 96) :
    ClumpFencing s (t.setMaskBit (F.evgFenced ((4 * c + n) / 32)) ((4 * c + n) % 32)) c (n + 1) := by
  refine ⟨h.kernels, h.bops, h.dieback, h.mem, h.links, h.routers, fun q hq => ?_, fun g hg hg' => ?_⟩
  · have hbefore := h.fenced q hq
    unfold State.fencedCore at hbefore ⊢
    by_cases hword : q / 32 = (4 * c + n) / 32
    · rw [hword] at hbefore ⊢
      have hbit : q % 32 < (F.evgFenced ((4 * c + n) / 32)).w := Nat.mod_lt _ (by norm_num)
      rw [State.testBit_setMaskBit _ _ _ hbit, hbefore, Bool.eq_iff_iff]
      simp only [Bool.or_eq_true, decide_eq_true_eq, beq_iff_eq]
      omega
    · unfold State.setMaskBit
      rw [State.fld_setFld_ne, hbefore]
      · rw [Bool.eq_iff_iff]
        simp only [decide_eq_true_eq]
        omega
      · simp only [Fld.key, F.evgFenced]
        omega
  · unfold State.setMaskBit
    rw [State.fld_setFld_ne, h.fields g hg hg']
    simp only [Fld.key, F.evgFenced] at hg' ⊢
    omega

/-- Core p, with logical number l, as its fence leaves it, before that is logged (R61, R351, R568). -/
def State.coreFenced (s : State) (p l : Nat) : State :=
  ((((s.setMaskBit (F.evgFenced (p / 32)) (p % 32)).addFld F.fltFences 1).haltUnits p).setCoreState p csFenced).dropWaiter l

theorem State.fenceOne_eq {p l cause : Nat} (hl : t.logical p = some l) (hfree : t.fencedCore p = false)
    (hkernels : t.kernels = []) (hpending : (t.coreFenced p l).bit (F.pwrCoreStatusPending l) = false) :
    t.fenceOne p cause = (t.coreFenced p l).logEvent svAlert 1 stUnitFailed 0x0201 l 0
      (p + cause * 2 ^ 8 + t.fld F.evgNumberingEpoch * 2 ^ 16) := by
  have hdrop : (t.coreFenced p l).dropRequest l stUnitFailed = t.coreFenced p l := by
    unfold State.dropRequest
    rw [hpending]
    rfl
  have hkernel : ((t.coreFenced p l).dropRequest l stUnitFailed).kernelOn p = none := by
    rw [hdrop]
    unfold State.kernelOn
    have hnone : (t.coreFenced p l).kernels = [] := hkernels
    rw [hnone]
    rfl
  unfold State.fenceOne
  rw [hl]
  dsimp only
  rw [if_neg (by simp [hfree])]
  split
  · next k hsome => cases hkernel.symm.trans hsome
  · exact congrArg (fun u : State => u.logEvent svAlert 1 stUnitFailed 0x0201 l 0
      (p + cause * 2 ^ 8 + t.fld F.evgNumberingEpoch * 2 ^ 16)) hdrop

theorem ClumpFencing.coreFenced (h : ClumpFencing s t c n) (hcore : 4 * c + n < 96) (l : Nat) :
    ClumpFencing s (t.coreFenced (4 * c + n) l) c (n + 1) := by
  have hdropped : ∀ {u : State} (binders : List (Nat × BinderSt)), ClumpFencing s u c (n + 1) →
      ClumpFencing s { u with binders } c (n + 1) := fun _ hu =>
    ⟨hu.kernels, hu.bops, hu.dieback, hu.mem, hu.links, hu.routers, hu.fenced, hu.fields⟩
  have hcounted := (h.setMaskBit hcore).setFld (f := F.fltFences) (by decide)
  refine hdropped _ (ClumpFencing.setFld (ClumpFencing.setFld (ClumpFencing.setFld
    ((hcounted _).setCore _ _) ?_ _) ?_ _) ?_ _) <;>
  · simp only [fenceRecords, Fld.key, F.mxeStatusBusy, F.vxeStatusBusy, F.corStatusState]
    omega

/-- Fencing the next core of the clump, which has a logical number and no power request pending. -/
theorem ClumpFencing.fenceOne (h : ClumpFencing s t c n) (hcore : 4 * c + n < 96) (cause : Nat)
    (hlogical : (s.logical (4 * c + n)).isSome = true)
    (hpending : ∀ j, j < 96 → s.bit (F.pwrCoreStatusPending j) = false) :
    ClumpFencing s (t.fenceOne (4 * c + n) cause) c (n + 1) := by
  obtain ⟨l, hl⟩ := Option.isSome_iff_exists.mp hlogical
  have hl96 : l < 96 := State.lt_of_logical hcore hl
  have hfree : t.fencedCore (4 * c + n) = false := by
    rw [h.fenced _ hcore]
    simp
  have hfenced : ClumpFencing s (t.coreFenced (4 * c + n) l) c (n + 1) := h.coreFenced hcore l
  rw [State.fenceOne_eq ((h.logical _).trans hl) hfree h.kernels]
  · exact hfenced.logEvent _ _ _ _ _ _ _
  · unfold State.bit
    rw [hfenced.fields _]
    · exact hpending l hl96
    · simp only [fenceRecords, Fld.key, F.pwrCoreStatusPending]
      omega
    · simp only [Fld.key, F.pwrCoreStatusPending]
      omega

/-- The four cores of the clump fenced in turn (R567). -/
theorem ClumpFencing.fenceFour (h : ClumpFencing s t c 0) (hc : c < 24) (cause : Nat)
    (hlogical : ∀ q, 4 * c ≤ q → q < 4 * c + 4 → (s.logical q).isSome = true)
    (hpending : ∀ j, j < 96 → s.bit (F.pwrCoreStatusPending j) = false) :
    ClumpFencing s ((List.range 4).foldl (fun s q => s.fenceOne (4 * c + q) cause) t) c 4 := by
  have hnext : ∀ {u : State} (n : Nat), n < 4 → ClumpFencing s u c n →
      ClumpFencing s (u.fenceOne (4 * c + n) cause) c (n + 1) :=
    fun n hn hu => hu.fenceOne (by omega) cause (hlogical _ (by omega) (by omega)) hpending
  exact hnext 3 (by decide) (hnext 2 (by decide) (hnext 1 (by decide) (hnext 0 (by decide) h)))

/-! ### The clump's entry and the ready state -/

/-- A list that has room holds an entry that is added to it (R450, R451). -/
theorem ClumpFencing.addDieback (h : ClumpFencing s t c n) (hroom : s.dieback.length < 1024)
    (kind source unit detail cause : Nat) : ∃ dieback,
      ClumpFencing { s with dieback } (t.addDieback kind source unit detail cause) c n ∧
        ∃ e ∈ dieback, e.kind = kind ∧ e.unit = unit := by
  have hlist : ∀ dieback, ClumpFencing { s with dieback } { t with dieback } c n := fun _ =>
    ⟨h.kernels, h.bops, rfl, h.mem, h.links, h.routers, h.fenced, h.fields⟩
  unfold State.addDieback State.addEntry
  extract_lets more victim rows others core last
  split
  · next hlisted =>
    obtain ⟨d, hd, heq⟩ := List.any_eq_true.mp hlisted
    simp only [Bool.and_eq_true, beq_iff_eq] at heq
    exact ⟨t.dieback, hlist t.dieback, d, hd, heq.1.1, heq.1.2⟩
  · rw [if_pos (h.dieback ▸ hroom)]
    exact ⟨_, (hlist _).setFld (f := F.evgDiebackUnsaved) (by decide) _, _,
      List.mem_append_right _ (List.mem_singleton_self _), rfl, rfl⟩

/-- A READY die with a fenced unit becomes DEGRADED (R569, R570). -/
theorem State.unitFenced_eq {u : State} (h : u.ready = rdReady) : ∃ detail, u.unitFenced =
    ((u.setFld F.fltStatusUnitFenced 1).setFld F.evgBootReady rdDegraded).logEvent svAlert 0 0 0x0900 0 0 detail := by
  have hready : (u.setFld F.fltStatusUnitFenced 1).ready = rdReady := (u.fld_setFld_ne (by decide) _).trans h
  have hdegraded : (u.setFld F.fltStatusUnitFenced 1).degraded ≠ 0 := by
    unfold State.degraded
    rw [State.fld_setFld]
    norm_num [F.fltStatusUnitFenced]
  unfold State.unitFenced State.settleReady
  rw [if_pos ⟨hready, hdegraded⟩]
  unfold State.setReady
  rw [hready, if_neg (by decide)]
  exact ⟨_, rfl⟩

theorem ClumpFencing.unitFenced (h : ClumpFencing s t c n) (hready : s.ready = rdReady) :
    ClumpFencing (s.setFld F.evgBootReady rdDegraded) t.unitFenced c n := by
  have ht : t.ready = rdReady := (h.fields F.evgBootReady (by decide) (by decide)).trans hready
  obtain ⟨detail, heq⟩ := State.unitFenced_eq ht
  have hset := h.setFld (f := F.fltStatusUnitFenced) (by decide) 1
  rw [heq]
  refine ClumpFencing.logEvent ?_ _ _ _ _ _ _ _
  refine ⟨hset.kernels, hset.bops, hset.dieback, hset.mem, hset.links, hset.routers, fun q hq => ?_, fun g hg hg' => ?_⟩
  · rw [← hset.fenced q hq]
    unfold State.fencedCore
    rw [State.fld_setFld_ne]
    simp only [Fld.key, F.evgFenced, F.evgBootReady]
    omega
  · by_cases hboot : g.key = F.evgBootReady.key
    · unfold State.fld State.setFld
      rw [hboot, tget_tset_self, tget_tset_self]
    · rw [State.fld_setFld_ne _ hboot, State.fld_setFld_ne _ hboot, hset.fields g hg hg']

theorem State.settleKernels_eq_self {u : State} (h : u.kernels = []) : u.settleKernels = u := by
  unfold State.settleKernels
  rw [h]
  rfl

/-- A clump of a READY die fenced, and its entry in the dieback list (R567, R568). -/
theorem ClumpFencing.fenceClump (h : ClumpFencing s t c 0) (hc : c < 24) (cause kind evCode : Nat)
    (hready : s.ready = rdReady) (hroom : s.dieback.length < 1024)
    (hlogical : ∀ q, 4 * c ≤ q → q < 4 * c + 4 → (s.logical q).isSome = true)
    (hpending : ∀ j, j < 96 → s.bit (F.pwrCoreStatusPending j) = false) : ∃ dieback,
      ClumpFencing (({ s with dieback } : State).setFld F.evgBootReady rdDegraded) (t.fenceClump c cause kind evCode) c 4 ∧
        ∃ e ∈ dieback, e.kind = kind ∧ e.unit = c := by
  obtain ⟨dieback, hlisted, hentry⟩ :=
    (h.fenceFour hc cause hlogical hpending).addDieback hroom kind 3 c 0 evCode
  have hfenced := hlisted.unitFenced hready
  refine ⟨dieback, ?_, hentry⟩
  unfold State.fenceClump
  extract_lets u v
  rwa [State.settleKernels_eq_self hfenced.kernels]

end

/-! ### ROUTER_FAILED and PLN_STALL -/

/-- A die whose router c has failed, and logs it. -/
def State.routerNoted (s : State) (c cause : Nat) : State :=
  (s.setMaskBit F.plnRouterFailed c).logEvent svAlert 3 stHwFault 0x0300 c 0 cause

theorem State.mapKernels_eq_self {u : State} (h : u.kernels = []) (f : Kernel → Kernel) :
    { u with kernels := u.kernels.map f } = u := by
  have hsame : u.kernels.map f = u.kernels := by rw [h, List.map_nil]
  exact congrArg (fun kernels => ({ u with kernels } : State)) hsame

/-- A die without the open rows of router c. -/
def State.rowsGone (s : State) (c : Nat) : State := s.setRouter c { s.router c with opens := [] }

theorem exec_routerFailed {s : State} {c : ClumpNo} {cause : Fin 3} (hfailed : s.routerFailed c.val = false)
    {u : State} (hu : (s.routerNoted c.val cause.val).fenceClump c.val 4 3 0x0300 = u) (hkernels : u.kernels = [])
    (hbops : u.bops = []) (hopens : (u.router c.val).opens = [])
    (hlinks : ∀ i, i < 32 → adapterClump i = c.val → u.linkUp i = false ∧ (u.link i).keepTraffic = false) :
    exec (.routerFailed c cause) s = .next (u.rowsGone c.val) := by
  have hdown : ((List.range 32).filter fun i => adapterClump i == c.val).foldl (fun s i =>
      if s.linkUp i ∨ (s.link i).keepTraffic then s.linkDown i lkDetect else s) u = u := by
    refine List.foldlRecOn (motive := fun t => t = u) _ _ rfl fun t ht i hi => ?_
    obtain ⟨hrange, hclump⟩ := List.mem_filter.mp hi
    obtain ⟨hup, hkeep⟩ := hlinks i (List.mem_range.mp hrange) (beq_iff_eq.mp hclump)
    rw [ht, hup, hkeep]
    rfl
  show execRouterFailed c cause s = _
  unfold execRouterFailed
  extract_lets k noted logged fenced down hit mark marked aborted gone emptied cleared killed
  have hdown' : down = u := by
    have hfenced : fenced = u := hu
    unfold down
    rw [hfenced]
    exact hdown
  have hhit : hit = [] := by
    unfold hit
    rw [hdown', hkernels]
    rfl
  have hmarked : marked = u := by
    unfold marked
    rw [hdown']
    exact State.mapKernels_eq_self hkernels mark
  have haborted : aborted = u := by
    unfold aborted
    rw [hhit, hmarked]
    rfl
  have hkilled : killed = u.rowsGone c.val := by
    unfold killed gone cleared emptied
    rw [haborted, hopens]
    rfl
  have hidle : (u.rowsGone c.val).kernels = [] := hkernels
  have hquiet : (u.rowsGone c.val).bops = [] := hbops
  rw [if_neg (by rw [hfailed]; exact Bool.false_ne_true), hkilled, State.settleKernels_eq_self hidle,
    State.unitWork_eq_self hquiet]

/-- R281: the event of a half that stays stalled. -/
theorem exec_plnStall {s : State} {half : Half} {r x : Nat} (hstalled : s.fld (F.plnHalfStalled (halfNo half)) = 1)
    (hcause : s.plnCause (halfNo half) = some (r, x)) : exec (.plnStall half) s = .next
      (s.logEvent svWarning 8 0 0x0301 (halfNo half) 0
        (r + x * 2 ^ 8 + s.fld (F.plnHalfIndex (halfNo half)) * 2 ^ 16)) := by
  show execPlnStall half s = _
  unfold execPlnStall State.bit
  simp [hstalled, hcause]

section
variable {s : State} {c : Nat}

theorem State.fld_setRouterFailed_ne {g : Fld} (hg : g.key ≠ F.plnRouterFailed.key) :
    (s.setMaskBit F.plnRouterFailed c).fld g = s.fld g := s.fld_setFld_ne hg _

/-- A failure noted in PLN_ROUTER_FAILED and in the log of a die with no kernel and no fenced core. -/
theorem State.routerNoted_fencing (hkernels : s.kernels = []) (hbops : s.bops = [])
    (hunfenced : ∀ q, q < 96 → s.fencedCore q = false) (cause : Nat) :
    ClumpFencing (s.setMaskBit F.plnRouterFailed c) (s.routerNoted c cause) c 0 := by
  have hset : ClumpFencing (s.setMaskBit F.plnRouterFailed c) (s.setMaskBit F.plnRouterFailed c) c 0 := by
    refine ⟨hkernels, hbops, rfl, rfl, rfl, rfl, fun q hq => ?_, fun _ _ _ => rfl⟩
    have hnone : ¬ (4 * c ≤ q ∧ q < 4 * c + 0) := by omega
    rw [decide_eq_false hnone, ← hunfenced q hq]
    unfold State.fencedCore
    rw [State.fld_setRouterFailed_ne]
    simp only [Fld.key, F.evgFenced, F.plnRouterFailed]
    omega
  exact hset.logEvent _ _ _ _ _ _ _

/-- The clump of a router that failed, fenced in a READY die (R567). -/
theorem State.routerNoted_fenceClump (hc : c < 24) (hkernels : s.kernels = []) (hbops : s.bops = [])
    (hready : s.ready = rdReady) (hroom : s.dieback.length < 1024)
    (hpending : ∀ j, j < 96 → s.bit (F.pwrCoreStatusPending j) = false)
    (hunfenced : ∀ q, q < 96 → s.fencedCore q = false)
    (hlogical : ∀ q, 4 * c ≤ q → q < 4 * c + 4 → (s.logical q).isSome = true) (cause : Nat) : ∃ dieback,
      ClumpFencing (({ s.setMaskBit F.plnRouterFailed c with dieback } : State).setFld F.evgBootReady rdDegraded)
          ((s.routerNoted c cause).fenceClump c 4 3 0x0300) c 4 ∧
        ∃ e ∈ dieback, e.kind = 3 ∧ e.unit = c := by
  refine (State.routerNoted_fencing hkernels hbops hunfenced cause).fenceClump hc 4 3 0x0300
    ((State.fld_setRouterFailed_ne (by decide)).trans hready) hroom (fun q hlow hhigh => ?_) (fun j hj => ?_)
  · rw [State.logical_congr fun k hk => State.fld_setRouterFailed_ne ?_, hlogical q hlow hhigh]
    simp only [Fld.key, F.evgCoreMap, F.plnRouterFailed]
    omega
  · unfold State.bit
    rw [State.fld_setRouterFailed_ne]
    · exact hpending j hj
    · simp only [Fld.key, F.pwrCoreStatusPending, F.plnRouterFailed]
      omega

end

/-- Settles O25: the failure fences the clump, core by core, and the stall is one event. -/
theorem pleachRoutersFail : Obligations.PleachRoutersFail := by
  unfold Obligations.PleachRoutersFail
  intro s c cause half
  refine ⟨fun hfailed => ?_, ?_, ?_⟩
  · show execRouterFailed c cause s = _
    unfold execRouterFailed
    exact congrArg _ (if_pos hfailed)
  · intro _ hfailed hkernels hbops hready hroom hpending hunfenced hlogical hopens hlinks
    obtain ⟨dieback, hfenced, e, he, hkind, hunit⟩ :=
      State.routerNoted_fenceClump c.isLt hkernels hbops hready hroom hpending hunfenced hlogical cause.val
    generalize hu : (s.routerNoted c.val cause.val).fenceClump c.val 4 3 0x0300 = u at hfenced
    have hkept : ∀ g : Fld, ¬ fenceRecords g.key → g.key < 0x54 * 32 ∨ 0x60 * 32 ≤ g.key →
        g.key ≠ F.evgBootReady.key →
        u.fld g = (s.setMaskBit F.plnRouterFailed c.val).fld g := fun g hg hg' hboot =>
      (hfenced.fields g hg hg').trans (State.fld_setFld_ne _ hboot _)
    have hrouter : u.router c.val = s.router c.val :=
      congrArg (fun routers => (tget {} routers c.val : RouterSt)) hfenced.routers
    have hdieback : u.dieback = dieback := hfenced.dieback
    have hdown : ∀ i, i < 32 → adapterClump i = c.val → u.linkUp i = false ∧ (u.link i).keepTraffic = false := by
      intro i hi hclump
      have hstate : u.fld (F.lnkStatusState i) = s.fld (F.lnkStatusState i) := by
        refine (hkept _ ?_ ?_ ?_).trans (State.fld_setRouterFailed_ne ?_) <;>
        · simp only [fenceRecords, Fld.key, F.lnkStatusState, F.evgBootReady, F.plnRouterFailed]
          omega
      have hlink : u.link i = s.link i := State.link_congr hfenced.links i
      unfold State.linkUp State.linkState
      rw [hstate, hlink]
      exact hlinks i hi hclump
    refine .intro (exec_routerFailed hfailed hu hfenced.kernels hfenced.bops (hrouter ▸ hopens) hdown)
      ⟨fun r hr => ?_, fun q hq => ?_, ⟨e, hdieback ▸ he, hkind, hunit⟩, ?_, hfenced.mem, hfenced.links⟩
    · have hmask := hkept F.plnRouterFailed (by decide) (by decide) (by decide)
      show (u.fld F.plnRouterFailed).testBit r = _
      rw [hmask]
      exact s.testBit_setMaskBit F.plnRouterFailed c.val hr
    · show u.fencedCore q = _
      rw [hfenced.fenced q hq, Bool.eq_iff_iff]
      simp only [decide_eq_true_eq, beq_iff_eq]
      omega
    · exact (hfenced.fields F.evgBootReady (by decide) (by decide)).trans (State.fld_setFld _ _ _)
  · intro h r x hstalled hcause
    obtain ⟨log, regs, heq⟩ := s.logEvent_eq svWarning 8 0 0x0301 h 0
      (r + x * 2 ^ 8 + s.fld (F.plnHalfIndex h) * 2 ^ 16)
    have hmem := congrArg State.mem heq
    have hrouters := congrArg State.routers heq
    refine .intro (exec_plnStall hstalled hcause) ⟨State.log_logEvent .., ?_, hmem, hrouters⟩
    rw [State.fld_logEvent_ne, hstalled]
    · simp only [Fld.key, F.plnHalfStalled, F.fltEvtNext]
      omega
    · simp only [Fld.key, F.plnHalfStalled, F.fltEvtLost]
      omega

end Sys2Proof.Machine
end

section
/-! The refutation of O26: a row for an adapter stream that reaches its adapter is counted by its window (R286, R363), and
what the count's binder then releases may write the scratchpads (R106, R340, R350). -/

namespace Sys2Proof.Machine

/-- An AWAIT of queue 1 on the first release of binder 0. -/
def countedAwait : WorkEntry := { idx := 0, tag := 7, op := 3, address := binderAddr 0 0, value := 1 }

/-- Row 0 of a stream of adapter 0, which came on link 1 for window 0. -/
def countedRow : OpenRow :=
  { from_ := 0, home := none, dest := 0,
    load := .stream 0 0 0 { seq := 0, off := 0, data := List.replicate 256 1, from_ := .link 1, window := some 0 } }

/-- A die whose router 1 holds `countedRow`, one hop from its destination. Window 0 counts the bytes it accepts at binder 0,
which a row of 256 bytes releases; queue 1 awaits that release, and its completion ring 2 lies in core 0. -/
def countingDie : State :=
  let s : State :=
    { routers := [(1, { opens := [countedRow] })], streams := [(0, { queue := 3, idx := 0, cap := 8, tag := 0, dest := 0 })]
      queues := [(1, { active := [countedAwait] }), (2, { ringCore := some 0 })] }
  let s := ((s.setFld (F.evgCoreMap 0) 1).setFld (F.winCfgState 0) 1).setFld (F.winCfgCountEn 0) 1
  let s := ((s.setFld (F.bndCfgArmed 0) 1).setFld (F.bndStep 0) 256).setFld (F.bndTarget 0) 256
  (s.setFld (F.queCqContext 1) 2).setFld (F.queCfgLog2Entries 2) 4

/-- The top byte of the first word of core 0's scratchpad after a command. -/
def topByteAfter (o : Host.Outcome State Fault Refusal) : Option Byte :=
  match o with
  | .next t => some (t.mem.get 3)
  | _ => none

/-- Once the row has hopped, the record of the AWAIT stands in the ring: PHASE 1, KIND 1 (R338). -/
theorem countingDie_topByteAfter : topByteAfter (exec (.openRowHop 1) countingDie) = some 0x90 := by decide +kernel

theorem countingDie_topByte : countingDie.mem.get 3 = 0 := rfl

/-- Refutes O26: the scratchpads are to stay as they were when a row hops. The last hop of `countedRow` brings it into its
stream; its window counts 256 bytes at binder 0, whose release completes the AWAIT of queue 1, and the completion record is
written into core 0's scratchpad. -/
theorem not_openRowsHop : ¬ Obligations.OpenRowsHop := by
  unfold Obligations.OpenRowsHop
  intro h
  obtain ⟨hhop, -⟩ := h countingDie 1 countedRow [] 0 3
  obtain ⟨t, hexec, -, hmem, -⟩ := hhop (by decide +kernel) rfl (by decide) (by decide) rfl (by decide) (by decide +kernel)
    (by decide +kernel) nofun (by decide +kernel)
  have hafter : topByteAfter (.next t) = some 0x90 := hexec ▸ countingDie_topByteAfter
  have hbefore : t.mem.get 3 = 0 := by rw [hmem, countingDie_topByte]
  exact absurd (hbefore.symm.trans (Option.some.inj hafter)) (by decide)

end Sys2Proof.Machine
end

section
/-! Doorbells and what their rings keep (R305, R311, R312, R341). It settles O27 and O28. -/

namespace Sys2Proof.Machine

/-! ### Release of held records -/

theorem foldl_eq_self {β : Type} {f : State → β → State} {s : State} {l : List β} (h : ∀ x ∈ l, f s x = s) :
    l.foldl f s = s := by
  induction l with
  | nil => rfl
  | cons x l ih =>
    rw [List.foldl_cons, h x List.mem_cons_self]
    exact ih fun y hy => h y (List.mem_cons_of_mem _ hy)

theorem State.releaseHeld_eq_self {s : State} (h : ∀ x ∈ s.queues, (s.queue x.1).held = []) (cq : Nat) :
    s.releaseHeld cq = s := by
  refine foldl_eq_self fun q hq => ?_
  obtain ⟨x, hx, rfl⟩ := List.mem_map.mp hq
  exact if_neg fun hheld => hheld.1 (h x hx)

/-! ### The answer to the agent that rang -/

theorem State.deliver_ok (s : State) (src : Agent) : s.deliver src stOk = s := by
  cases src with
  | core l =>
    unfold State.deliver
    dsimp only
    split <;> rfl
  | hedger => rfl
  | dma e j => rfl
  | link i => rfl

/-- From s to t no field outside the blocks of the cores has changed, and the binder unit owes nothing new. -/
structure CoresOnly (s t : State) : Prop where
  fld : ∀ g : Fld, g.key < 0x400000 * 32 → t.fld g = s.fld g
  bops : t.bops = s.bops

section
variable {s t : State}

theorem CoresOnly.refl (s : State) : CoresOnly s s := ⟨fun _ _ => rfl, rfl⟩

theorem CoresOnly.setFld (h : CoresOnly s t) {f : Fld} (hf : 0x400000 * 32 ≤ f.key) (v : Nat) : CoresOnly s (t.setFld f v) :=
  ⟨fun g hg => (t.fld_setFld_ne (by omega) v).trans (h.fld g hg), h.bops⟩

theorem CoresOnly.setCore (h : CoresOnly s t) (p : Nat) (x : CoreSt) : CoresOnly s (t.setCore p x) := ⟨h.fld, h.bops⟩

theorem CoresOnly.setChan (h : CoresOnly s t) (c : Nat) (x : ChanSt) : CoresOnly s (t.setChan c x) := ⟨h.fld, h.bops⟩

theorem CoresOnly.foldl {β : Type} {f : State → β → State} (hf : ∀ u x, CoresOnly s u → CoresOnly s (f u x)) (l : List β)
    (h : CoresOnly s t) : CoresOnly s (l.foldl f t) := by
  induction l generalizing t with
  | nil => exact h
  | cons x l ih => exact ih (hf t x h)

theorem CoresOnly.sbReleaseOwner (h : CoresOnly s t) (p : Nat) (owner : Sum Nat Nat) :
    CoresOnly s (t.sbReleaseOwner p owner) := by
  refine CoresOnly.foldl (fun u o hu => ?_) _ h
  refine CoresOnly.setFld (hu.setCore p _) ?_ 0
  simp only [Fld.key, F.spdSbAValid]
  omega

theorem CoresOnly.dmaFail (h : CoresOnly s t) (c status fault : Nat) (lead : Option Nat) (exhausted : Bool) :
    CoresOnly s (t.dmaFail c status fault lead exhausted) := by
  unfold State.dmaFail
  split
  · exact h
  · split
    · exact h.setChan _ _
    · exact CoresOnly.foldl (fun u p hu => hu.sbReleaseOwner p _) _ (h.setChan _ _)

/-- A rejection reaches the POST status of a core (R85) or fails a channel's descriptor (R333). -/
theorem CoresOnly.deliver (s : State) (src : Agent) {status : Nat} (hstatus : status ≠ stOk) :
    CoresOnly s (s.deliver src status) := by
  cases src with
  | core l =>
    unfold State.deliver
    dsimp only
    split
    · rw [if_neg hstatus]
      refine CoresOnly.setFld ((CoresOnly.refl s).setFld ?_ _) ?_ _ <;>
      · simp only [Fld.key, F.corPostStatusStatus, F.corPostStatusRejects]
        omega
    · exact .refl s
  | dma e j =>
    unfold State.deliver State.answer
    dsimp only
    rw [if_neg hstatus]
    exact (CoresOnly.refl s).dmaFail _ _ _ _ _
  | hedger => exact .refl s
  | link i => exact .refl s

end

/-! ### What a doorbell does -/

/-- A doorbell with its context's season, of a context that is neither being destroyed nor on a fenced core's ring (R305,
R312). -/
structure State.Rings (s : State) (q : Nat) (value : Word) : Prop where
  live : ¬ (s.queue q).destroying = true
  season : ¬ value.toNat / 65536 % 65536 ≠ s.fld (F.queSeason q)
  reached : ¬ s.ringFenced q = true

theorem season_of_word (value : Word) : value.toNat / 65536 % 65536 = value.toNat / 65536 :=
  Nat.mod_eq_of_lt (by have := value.isLt; omega)

theorem State.Rings.intro {s : State} {q : Nat} {value : Word} (hlive : (s.queue q).destroying = false)
    (hseason : value.toNat / 65536 = s.fld (F.queSeason q)) (hreached : s.ringFenced q = false) : s.Rings q value :=
  ⟨by simp [hlive], by rw [season_of_word]; exact not_not.mpr hseason, by simp [hreached]⟩

/-- A ring whose TAIL doorbell was taken: the place of its bell is kept (R108), and a channel that stopped at a missing OWN
goes on (R321). -/
def State.tailMoved (s : State) (q v : Nat) : State :=
  let bells := if v = s.fld (F.queTail q) then (s.queue q).bells else (s.queue q).bells ++ [(v, s.bells)]
  let t := (({ s with bells := s.bells + 1 } : State).setQueue q { s.queue q with bells }).setFld (F.queTail q) v
  if s.fld (F.queCfgType q) = qtDma then t.setChan (t.chanOf q) { s.chan (t.chanOf q) with ownStop := false } else t

section
variable {s : State} {q : Nat} {value : Word}

theorem State.Rings.tail (h : s.Rings q value)
    (hty : s.fld (F.queCfgType q) = qtWork ∨ s.fld (F.queCfgType q) = qtDma) : s.doorbell q 0 value.toNat =
      if (value.toNat % 65536 + 65536 - s.fld (F.queHead q)) % 65536 < s.ringUsed q ∨
          s.ringSize q < (value.toNat % 65536 + 65536 - s.fld (F.queHead q)) % 65536 then
        (s.addFld (F.queDbReject q) 1, stBadParam)
      else (s.tailMoved q (value.toNat % 65536), stOk) := by
  have hused : s.fld (F.queCfgType q) ≠ qtUnused := by rcases hty with h | h <;> rw [h] <;> decide
  unfold State.doorbell
  dsimp only
  rw [if_neg hused, if_neg h.live, if_neg h.season, if_neg h.reached, if_pos ⟨rfl, hty⟩]
  rfl

theorem State.Rings.head (h : s.Rings q value)
    (hty : s.fld (F.queCfgType q) = qtCompletion ∨ s.fld (F.queCfgType q) = qtEvent) : s.doorbell q 4 value.toNat =
      if s.ringUsed q < (value.toNat % 65536 + 65536 - s.fld (F.queHead q)) % 65536 then
        (s.addFld (F.queDbReject q) 1, stBadParam)
      else ((s.setFld (F.queHead q) (value.toNat % 65536)).releaseHeld q, stOk) := by
  have hused : s.fld (F.queCfgType q) ≠ qtUnused := by rcases hty with h | h <;> rw [h] <;> decide
  unfold State.doorbell
  dsimp only
  rw [if_neg hused, if_neg h.live, if_neg h.season, if_neg h.reached, if_neg (by omega), if_pos ⟨rfl, hty⟩]

/-- The unit has nothing to do after a doorbell that is taken. -/
theorem exec_doorbellTail {t : State} {q : CtxNo} (h : s.doorbell q.val 0 value.toNat = (t, stOk)) (src : Agent)
    (hbops : t.bops = []) : exec (.doorbellTail src q value) s = .next t := by
  show execDoorbellTail src q value s = _
  unfold execDoorbellTail
  dsimp only
  rw [h, State.deliver_ok, State.unitWork_eq_self hbops]

theorem exec_doorbellHead {t : State} {q : CtxNo} (h : s.doorbell q.val 4 value.toNat = (t, stOk)) (src : Agent)
    (hbops : t.bops = []) : exec (.doorbellHead src q value) s = .next t := by
  show execDoorbellHead src q value s = _
  unfold execDoorbellHead
  dsimp only
  rw [h, State.deliver_ok, State.unitWork_eq_self hbops]

/-- A doorbell that is rejected is counted, and moves neither index. -/
theorem doorbell_rejected {reg v status : Nat} (h : s.doorbell q reg v = (s.addFld (F.queDbReject q) 1, status))
    (hstatus : status ≠ stOk) (hq : q < 8192) (src : Agent) (hbops : s.bops = []) {t : State}
    (ht : ((s.doorbell q reg v).1.deliver src (s.doorbell q reg v).2).unitWork = t) :
    t.fld (F.queDbReject q) = (s.fld (F.queDbReject q) + 1) % 2 ^ 32 ∧ t.fld (F.queTail q) = s.fld (F.queTail q) ∧
      t.fld (F.queHead q) = s.fld (F.queHead q) := by
  obtain ⟨hfld, hkept⟩ := CoresOnly.deliver (s.addFld (F.queDbReject q) 1) src hstatus
  rw [h, State.unitWork_eq_self (hkept.trans hbops)] at ht
  subst ht
  refine ⟨?_, ?_, ?_⟩
  · rw [hfld, State.fld_addFld]
    · rfl
    · simp only [Fld.key, F.queDbReject]
      omega
  · rw [hfld, State.fld_addFld_ne]
    all_goals
      simp only [Fld.key, F.queDbReject, F.queTail]
      omega
  · rw [hfld, State.fld_addFld_ne]
    all_goals
      simp only [Fld.key, F.queDbReject, F.queHead]
      omega

end

/-! ### A TAIL that moves -/

section
variable (s : State) (q v : Nat)

theorem State.tailMoved_kept : (s.tailMoved q v).mem = s.mem ∧ (s.tailMoved q v).cores = s.cores ∧
    (s.tailMoved q v).kernels = s.kernels ∧ (s.tailMoved q v).bops = s.bops := by
  unfold State.tailMoved
  dsimp only
  split <;> exact ⟨rfl, rfl, rfl, rfl⟩

theorem State.fld_tailMoved (g : Fld) : (s.tailMoved q v).fld g = (s.setFld (F.queTail q) v).fld g := by
  unfold State.tailMoved
  dsimp only
  split <;> rfl

theorem State.chanOf_tailMoved : (s.tailMoved q v).chanOf q = s.chanOf q := by
  unfold State.chanOf
  rw [State.fld_tailMoved, State.fld_tailMoved, State.fld_setFld_ne, State.fld_setFld_ne]
  all_goals
    simp only [Fld.key, F.queCfgEngine, F.queCfgChannel, F.queTail]
    omega

/-- A TAIL doorbell lets the ring's channel go on (R321). -/
theorem State.ownStop_tailMoved (hty : s.fld (F.queCfgType q) = qtDma) :
    ((s.tailMoved q v).chan (s.chanOf q)).ownStop = false := by
  rw [← s.chanOf_tailMoved q v]
  unfold State.tailMoved
  dsimp only
  rw [if_pos hty]
  exact congrArg ChanSt.ownStop (State.chan_setChan _ _ _)

end

/-- Settles O27: a doorbell that is taken sets its index and releases nothing; one that is rejected is counted, and what its
agent hears of it stands in the blocks of the cores. -/
theorem doorbellsMoveRings : Obligations.DoorbellsMoveRings := by
  unfold Obligations.DoorbellsMoveRings
  intro s src q value ty v moved counted hlive hseason hreached hbops
  have hv : v < 2 ^ 16 := Nat.mod_lt _ (by decide)
  have hrings : s.Rings q.val value := .intro hlive hseason hreached
  refine ⟨fun hty => ⟨?_, ?_⟩, fun hty hheld => ⟨?_, ?_⟩⟩
  · intro hforward hroom
    obtain ⟨hmem, hcores, hkernels, hmoved⟩ := s.tailMoved_kept q.val v
    have hbell : s.doorbell q.val 0 value.toNat = (s.tailMoved q.val v, stOk) := by
      rw [hrings.tail hty, if_neg (by omega)]
    refine .intro (exec_doorbellTail hbell src (hmoved.trans hbops)) ⟨?_, ?_, hmem, hcores, hkernels, ?_⟩
    · rw [State.fld_tailMoved, State.fld_setFld]
      exact Nat.mod_eq_of_lt hv
    · intro g hg
      rw [State.fld_tailMoved]
      exact (fieldsKept.refl s _).setFld (List.mem_singleton_self _) v g hg
    · exact s.ownStop_tailMoved q.val v
  · intro hbad
    exact .intro rfl (doorbell_rejected (by rw [hrings.tail hty, if_pos hbad]) (by decide) q.isLt src hbops rfl)
  · intro hroom
    have hbell : s.doorbell q.val 4 value.toNat = (s.setFld (F.queHead q.val) v, stOk) := by
      rw [hrings.head hty, if_neg (by omega), State.releaseHeld_eq_self (s := s.setFld (F.queHead q.val) _) hheld]
    refine .intro (exec_doorbellHead hbell src hbops) ⟨?_, ?_, rfl, rfl⟩
    · rw [State.fld_setFld]
      exact Nat.mod_eq_of_lt hv
    · exact (fieldsKept.refl s _).setFld (List.mem_singleton_self _) v
  · intro hbad
    exact .intro rfl (doorbell_rejected (by rw [hrings.head hty, if_pos hbad]) (by decide) q.isLt src hbops rfl)

/-! ### A channel table that no run reaches -/

/-- A die whose channel 0 is PAUSING with a descriptor that has nothing outstanding. Its table of channels does not stand in
the canonical form of log 19: channel 1 is listed before channel 0. -/
def shuffledDie : State :=
  let s : State := { chans := [(1, { pauseAfter := true }), (0, { run := some { ring := 0, idx := 0, bytes := [] } })] }
  s.setFld (F.dmaChStatusState 0 0) chPausing

/-- The channels listed after a command. -/
def channelsAfter (o : Host.Outcome State Fault Refusal) : List Nat :=
  match o with
  | .next t => t.chans.map (·.1)
  | _ => []

/-- The drained channel's own state is written back, in front of the entry it was read from. -/
theorem shuffledDie_channelsAfter : channelsAfter (exec (.dmaPauseDrained 0 0) shuffledDie) = [0, 1, 0] := by
  decide +kernel

/-- Refutes O28: a drained channel in PAUSING is to become PAUSED with no other change of the state. In `shuffledDie`, a
state no run reaches, for its channel table is not canonical, the drain also lists channel 0 a second time. The statement
has no premise that shuts the state out. -/
theorem not_controlDoorbells : ¬ Obligations.ControlDoorbells := by
  unfold Obligations.ControlDoorbells
  intro h
  obtain ⟨-, -, -, hdrained, -⟩ := h shuffledDie .hedger 0 0 0 0
  obtain ⟨t, hexec, ht⟩ := hdrained (by decide +kernel) rfl (by
    intro r hr
    obtain rfl : { ring := 0, idx := 0, bytes := [] } = r := Option.some.inj hr
    exact ⟨rfl, rfl, rfl⟩)
  have hafter : channelsAfter (.next t) = [0, 1, 0] := hexec ▸ shuffledDie_channelsAfter
  rw [ht] at hafter
  exact absurd hafter (by decide)

end Sys2Proof.Machine
end

section
/-! A DMA channel's descriptor as the completion steps move it (R328, R329, R334, R335, R337). It settles O31. -/

namespace Sys2Proof.Machine

/-! ### A completion record and the channels (R338 to R343, R580) -/

/-- From s to t, a record's way to ring cq, the channels and the operations that the binder unit owes are as they were, and the
ring notifies a binder if it did. -/
structure RecordSent (cq : Nat) (s t : State) : Prop where
  chans : t.chans = s.chans
  bops : t.bops = s.bops
  notify : t.bit (F.queNotifyEn cq) = s.bit (F.queNotifyEn cq)

section
variable {cq : Nat} {s t : State}

theorem RecordSent.refl (cq : Nat) (s : State) : RecordSent cq s s := ⟨rfl, rfl, rfl⟩

theorem RecordSent.trans {u : State} (h : RecordSent cq s t) (hu : RecordSent cq t u) : RecordSent cq s u :=
  ⟨hu.chans.trans h.chans, hu.bops.trans h.bops, hu.notify.trans h.notify⟩

/-- QUE_NOTIFY.EN is bit 31 of its register: a field that begins below bit 31 is not it. -/
theorem RecordSent.setFld (h : RecordSent cq s t) {f : Fld} (hf : f.lo < 31) (v : Nat) : RecordSent cq s (t.setFld f v) := by
  refine h.trans ⟨rfl, rfl, ?_⟩
  unfold State.bit
  rw [State.fld_setFld_ne]
  simp only [Fld.key, F.queNotifyEn]
  omega

theorem RecordSent.setCore (h : RecordSent cq s t) (p : Nat) (x : CoreSt) : RecordSent cq s (t.setCore p x) :=
  ⟨h.chans, h.bops, h.notify⟩

theorem RecordSent.setQueue (h : RecordSent cq s t) (q : Nat) (x : QueueSt) : RecordSent cq s (t.setQueue q x) :=
  ⟨h.chans, h.bops, h.notify⟩

theorem RecordSent.sendOn (h : RecordSent cq s t) (i vc : Nat) (x : OutPkt) : RecordSent cq s (t.sendOn i vc x) := by
  obtain ⟨_, hsent⟩ := State.sendOn_eq t i vc x
  rw [hsent]
  exact ⟨h.chans, h.bops, h.notify⟩

theorem RecordSent.logEvent (h : RecordSent cq s t) (severity kind status code unit context detail : Nat) :
    RecordSent cq s (t.logEvent severity kind status code unit context detail) := by
  unfold State.logEvent
  extract_lets e r logged
  have hlogged : RecordSent cq s logged :=
    RecordSent.setFld (t := { t with log := r.1 }) ⟨h.chans, h.bops, h.notify⟩ (by decide) _
  split
  · exact hlogged.setFld (by decide) _
  · exact hlogged

theorem RecordSent.noteFailed (h : RecordSent cq s t) (ring q status : Nat) (event : Bool) :
    RecordSent cq s (t.noteFailed ring q status event) := by
  unfold State.noteFailed
  split
  · exact h
  · exact (h.setQueue _ _).logEvent _ _ _ _ _ _ _

theorem RecordSent.meetCore {u : State} (h : RecordSent cq s t) {p : Nat} (hu : t.meetCore p = .ok u) :
    RecordSent cq s u := by
  have hwake : RecordSent cq s (t.beginWake p 2) := by
    unfold State.beginWake
    split
    · exact h
    · extract_lets x c t'
      split
      · exact h
      · split
        · exact h.setCore _ _
        · have ht' : RecordSent cq s t' := h.setCore _ _
          exact RecordSent.setFld (ht'.setFld (by decide : 29 < 31) _) (by decide : 25 < 31) _
  unfold State.meetCore at hu
  split at hu
  · cases hu
  · split at hu
    · cases hu
    · split at hu <;> cases hu
      · exact h
      · exact hwake

theorem RecordSent.ownWrite (h : RecordSent cq s t) (p off : Nat) (data : List Byte) (o : Origin) (awake : Bool) :
    RecordSent cq s (t.ownWrite p off data o awake).1 := by
  unfold State.ownWrite
  extract_lets c routed w t' r row
  split
  · exact ⟨h.chans, h.bops, h.notify⟩
  · split <;> exact ⟨h.chans, h.bops, h.notify⟩

/-- A record of a ring that notifies no binder lands. -/
theorem RecordSent.recordLanded (h : RecordSent cq s t) (hoff : s.bit (F.queNotifyEn cq) = false) (idx : Nat) (again : Bool) :
    RecordSent cq s (t.recordLanded cq idx again) := by
  unfold State.recordLanded
  extract_lets covered queue counted
  have hcovered : RecordSent cq s covered := by
    unfold covered
    split
    · exact h.setFld (by decide : 0 < 31) _
    · exact h
  have hcounted : RecordSent cq s counted := RecordSent.setQueue (hcovered.setFld (by decide : 0 < 31) _) _ _
  split
  · exact hcovered
  · rw [if_neg (by rw [hcounted.notify, hoff]; decide)]
    exact hcounted

theorem RecordSent.ringWrite (s : State) (hoff : s.bit (F.queNotifyEn cq) = false) (slot : Option Nat) (again : Bool)
    (data : Nat → List Byte) (u : Nat → TagUse) : RecordSent cq s (s.ringWrite cq slot again data u).1 := by
  have hs : RecordSent cq s s := .refl cq s
  unfold State.ringWrite
  extract_lets ahead i bytes
  split
  · exact hs
  · split
    · split
      · exact hs
      · split
        · exact hs.setFld (by decide : 0 < 31) _
        · rename_i s' hs'
          extract_lets w
          have hw : RecordSent cq s w.1 := (hs.meetCore hs').ownWrite _ _ _ _ _
          dsimp only
          split
          · exact hw.recordLanded hoff _ _
          · exact hw
    · split
      · exact hs
      · split
        rename_i s' tag htag
        have hs' : RecordSent cq s s' := by
          obtain rfl : _ = s' := congrArg Prod.fst htag
          exact ⟨rfl, rfl, rfl⟩
        exact (hs'.sendOn _ _ _).recordLanded hoff _ _

/-- A completion record leaves the channels as they were and, if its ring notifies no binder, the binder unit without work. -/
theorem RecordSent.postRecord (s : State) (q : Nat) (r : CRec)
    (hoff : s.bit (F.queNotifyEn (s.fld (F.queCqContext q))) = false) :
    RecordSent (s.fld (F.queCqContext q)) s (s.postRecord q r) := by
  have htry : RecordSent (s.fld (F.queCqContext q)) s (s.tryRecord q r).1 := .ringWrite s hoff _ _ _ _
  unfold State.postRecord
  extract_lets hold
  have hheld : ∀ u : State, RecordSent (s.fld (F.queCqContext q)) s u → RecordSent (s.fld (F.queCqContext q)) s (hold u) := by
    intro u hu
    exact (hu.setQueue q _).setFld (f := F.queStatusHeld q) (by decide : 29 < 31) 1
  split
  · exact hheld s (.refl _ s)
  · split <;> rename_i s' _ hs' <;> rw [hs'] at htry
    · exact htry.setFld (f := F.queStatusLastStatus q) (by decide : 0 < 31) _
    · exact (hheld _ htry).noteFailed _ _ _ _
    · exact hheld _ htry

end

/-! ### A channel's descriptor replaced -/

theorem tins_tins {α : Type} (m : List (Nat × α)) (i : Nat) (x y : α) : tins (tins m i x) i y = tins m i y := by
  induction m with
  | nil => simp [tins]
  | cons e m ih =>
    obtain ⟨k, v⟩ := e
    by_cases hlt : i < k
    · simp [tins, hlt]
    · by_cases heq : i = k
      · simp [tins, heq]
      · simp [tins, hlt, heq, ih]

/-- A channel with another descriptor in progress. -/
def State.setRun (s : State) (c : Nat) (r : DmaRun) : State := s.setChan c { s.chan c with run := some r }

section
variable (s : State) (c : Nat) (r : DmaRun)

@[simp] theorem State.chan_setRun : (s.setRun c r).chan c = { s.chan c with run := some r } := State.chan_setChan s c _
theorem State.run_setRun : ((s.setRun c r).chan c).run = some r := by rw [State.chan_setRun]
@[simp] theorem State.setRun_mem : (s.setRun c r).mem = s.mem := rfl
@[simp] theorem State.setRun_regs : (s.setRun c r).regs = s.regs := rfl
@[simp] theorem State.setRun_bops : (s.setRun c r).bops = s.bops := rfl
@[simp] theorem State.setRun_links : (s.setRun c r).links = s.links := rfl
@[simp] theorem State.setRun_routers : (s.setRun c r).routers = s.routers := rfl
@[simp] theorem State.fld_setRun (g : Fld) : (s.setRun c r).fld g = s.fld g := rfl
@[simp] theorem State.bit_setRun (g : Fld) : (s.setRun c r).bit g = s.bit g := rfl
@[simp] theorem State.underWay_setRun : (s.setRun c r).underWay = s.underWay := rfl
@[simp] theorem State.link_setRun (i : Nat) : (s.setRun c r).link i = s.link i := rfl
@[simp] theorem State.queue_setRun (q : Nat) : (s.setRun c r).queue q = s.queue q := rfl
@[simp] theorem State.linkUp_setRun (i : Nat) : (s.setRun c r).linkUp i = s.linkUp i := rfl
@[simp] theorem State.isLocal_setRun (a : Nat) : (s.setRun c r).isLocal a = s.isLocal a := rfl
@[simp] theorem State.chState_setRun (d : Nat) : (s.setRun c r).chState d = s.chState d := rfl

@[simp] theorem State.setRun_setRun (r' : DmaRun) : (s.setRun c r).setRun c r' = s.setRun c r' := by
  have hrun : ∀ x : DmaRun, ({ s.chan c with run := some x } : ChanSt) ≠ {} := fun x h => by
    cases congrArg ChanSt.run h
  have hset : ∀ u : State, ∀ x : DmaRun, u.setChan c { s.chan c with run := some x } =
      { u with chans := tins u.chans c { s.chan c with run := some x } } := by
    intro u x
    unfold State.setChan tset
    rw [if_neg (hrun x)]
  show (s.setRun c r).setChan c { (s.setRun c r).chan c with run := some r' } = _
  rw [State.chan_setRun]
  show (s.setChan c _).setChan c { s.chan c with run := some r' } = s.setChan c { s.chan c with run := some r' }
  rw [hset, hset, hset]
  exact congrArg (fun chans => { s with chans }) (tins_tins _ _ _ _)

end

/-- Engine and channel of a channel's number. -/
theorem chan_div (e : EngNo) (j : ChanNo) : (e.val * 64 + j.val) / 64 = e.val := by omega

theorem chan_mod (e : EngNo) (j : ChanNo) : (e.val * 64 + j.val) % 64 = j.val := by omega

theorem dmTagOf_chan (e : EngNo) (j : ChanNo) (idx : Nat) :
    dmTagOf (e.val * 64 + j.val) idx = e.val * 2 ^ 12 + j.val * 2 ^ 6 + idx % 64 := by
  unfold dmTagOf
  rw [chan_div, chan_mod]

/-! ### Packets that a channel sends -/

section
variable (s : State) (i vc : Nat) (x : OutPkt)

@[simp] theorem State.sendOn_chans : (s.sendOn i vc x).chans = s.chans := by
  obtain ⟨_, h⟩ := s.sendOn_eq i vc x
  rw [h]

@[simp] theorem State.chan_sendOn (c : Nat) : (s.sendOn i vc x).chan c = s.chan c := by
  unfold State.chan
  rw [State.sendOn_chans]

@[simp] theorem State.sendOn_mem : (s.sendOn i vc x).mem = s.mem := by
  obtain ⟨_, h⟩ := s.sendOn_eq i vc x
  rw [h]

@[simp] theorem State.sendOn_regs : (s.sendOn i vc x).regs = s.regs := by
  obtain ⟨_, h⟩ := s.sendOn_eq i vc x
  rw [h]

@[simp] theorem State.sendOn_bops : (s.sendOn i vc x).bops = s.bops := by
  obtain ⟨_, h⟩ := s.sendOn_eq i vc x
  rw [h]

@[simp] theorem State.fld_sendOn (g : Fld) : (s.sendOn i vc x).fld g = s.fld g := by
  unfold State.fld
  rw [State.sendOn_regs]

end

/-- A write of the channel's own to an address beyond the die. -/
theorem State.dmaOwnWrite_remote {s : State} {c a i idx : Nat} {link : Option Nat} (hlocal : s.isLocal a = false)
    (hlink : (link.orElse fun _ => s.linkForAddr a) = some i) (data : List Byte) :
    s.dmaOwnWrite c a data none link idx = (s.sendOn i 0 (.write (dmTagOf c idx) none false a data), stOk) := by
  unfold State.dmaOwnWrite
  dsimp only
  rw [if_neg (by simp [hlocal]), hlink]

/-! ### HEAD past a descriptor -/

/-- The link of an access to an address rests on the links' states and partners. -/
theorem State.linkForAddr_congr {s t : State} (hstate : ∀ i, t.fld (F.lnkStatusState i) = s.fld (F.lnkStatusState i))
    (hclass : ∀ i, t.fld (F.lnkPartnerPclass i) = s.fld (F.lnkPartnerPclass i))
    (hdie : ∀ i, t.fld (F.lnkPartnerDie i) = s.fld (F.lnkPartnerDie i)) (a : Nat) : t.linkForAddr a = s.linkForAddr a := by
  have hup : t.linkUp = s.linkUp := by
    funext i
    unfold State.linkUp State.linkState
    rw [hstate]
  have hleads : t.peerLeadsTo (addrDie a) = s.peerLeadsTo (addrDie a) := by
    funext i
    unfold State.peerLeadsTo
    rw [hup, hclass, hdie]
  unfold State.linkForAddr State.linkToDie State.peerTo State.baseFrom
  rw [hup, hleads]

/-- A ring whose HEAD stands past an entry, which is counted. -/
def State.headPast (s : State) (q idx : Nat) : State := (s.setFld (F.queHead q) (idx + 1)).addFld (F.queEntries q) 1

section
variable (s : State) {q : Nat} (idx : Nat)

theorem State.fld_headPast_ne {g : Fld} (hhead : g.key ≠ (F.queHead q).key) (hentries : g.key ≠ (F.queEntries q).key) :
    (s.headPast q idx).fld g = s.fld g := by
  unfold State.headPast
  rw [State.fld_addFld_ne _ hentries, State.fld_setFld_ne _ hhead]

theorem State.fld_headPast_head : (s.headPast q idx).fld (F.queHead q) = (idx + 1) % 2 ^ 16 := by
  unfold State.headPast
  rw [State.fld_addFld_ne, State.fld_setFld]
  · rfl
  · simp only [Fld.key, F.queHead, F.queEntries]
    omega

theorem State.fld_headPast_entries : (s.headPast q idx).fld (F.queEntries q) = (s.fld (F.queEntries q) + 1) % 2 ^ 32 := by
  unfold State.headPast
  rw [State.fld_addFld, State.fld_setFld_ne]
  · rfl
  · simp only [Fld.key, F.queHead, F.queEntries]
    omega

theorem State.isLocal_headPast (a : Nat) : (s.headPast q idx).isLocal a = s.isLocal a := by
  unfold State.isLocal
  rw [State.dieNo_congr]
  all_goals
    refine s.fld_headPast_ne idx ?_ ?_ <;>
    · simp only [Fld.key, F.queHead, F.queEntries, F.evgPlacementPackage, F.evgPlacementPosition]
      omega

theorem State.linkUp_headPast (i : Nat) : (s.headPast q idx).linkUp i = s.linkUp i := by
  unfold State.linkUp State.linkState
  rw [State.fld_headPast_ne]
  all_goals
    simp only [Fld.key, F.queHead, F.queEntries, F.lnkStatusState]
    omega

theorem State.linkForAddr_headPast (a : Nat) : (s.headPast q idx).linkForAddr a = s.linkForAddr a := by
  refine State.linkForAddr_congr ?_ ?_ ?_ a <;>
  · intro i
    refine s.fld_headPast_ne idx ?_ ?_ <;>
    · simp only [Fld.key, F.queHead, F.queEntries, F.lnkStatusState, F.lnkPartnerPclass, F.lnkPartnerDie]
      omega

theorem State.slotAddr_headPast (t size : Nat) : (s.headPast q idx).slotAddr q t size = s.slotAddr q t size := by
  unfold State.slotAddr State.ringSize
  rw [State.fld_headPast_ne, State.fld_headPast_ne]
  all_goals
    simp only [Fld.key, F.queHead, F.queEntries, F.queBase, F.queCfgLog2Entries]
    omega

end

/-! ### The steps of a completion (R329) -/

/-- A descriptor that has failed: its first failure, whether it halts its channel, and the leading bytes that stand
(R333 to R335). -/
def DmaRun.failing (r : DmaRun) (status fault : Nat) (lead : Option Nat) (exhausted : Bool) : DmaRun :=
  { r with failed := some (status, fault), halts := exhausted || !(leAt r.bytes 0 4).testBit 1, sbPend := [], sbLive := [],
           lead := match r.lead with
             | some x => some x
             | none => some (lead.getD r.written) }

section
variable {s : State} {c : Nat} {r : DmaRun}

theorem State.dmaFail_eq (hrun : (s.chan c).run = some r) (hok : r.failed = none) (hlive : r.sbLive = []) (status fault : Nat)
    (lead : Option Nat) (exhausted : Bool) :
    s.dmaFail c status fault lead exhausted = s.setRun c (r.failing status fault lead exhausted) := by
  unfold State.dmaFail
  rw [hrun]
  dsimp only
  rw [hok, hlive]
  rfl

theorem State.dmaStep_crc {t : State} (hrun : (s.chan c).run = some r) (hok : r.failed = none) (hdest : dmCrcDest r.bytes ≠ 0)
    (hsent : (s.setRun c { r with step := 2 }).dmaOwnWrite c (dmCrcDest r.bytes) (leBytes 8
      (if dmCrc r.bytes = 0 then 0 else crcValue (dmCrc r.bytes) (s.fld (F.dmaChCrc (c / 64) (c % 64))))) none r.base0 r.idx =
        (t, stOk)) (n : Nat) : s.dmaStep c 2 (n + 1) = t := by
  unfold State.setRun at hsent
  unfold State.dmaStep
  rw [hrun]
  dsimp only
  rw [if_pos rfl, if_pos ⟨by rw [hok]; rfl, hdest⟩, State.fld_setChan, hsent]
  rfl

/-- A failed descriptor always makes a record. -/
theorem State.dmaStep_record (hrun : (s.chan c).run = some r) (hfailed : r.failed.isSome = true) (n : Nat) :
    ∃ x, s.dmaStep c 3 (n + 1) = (s.setRun c { r with step := 3 }).postRecord r.ring x := by
  unfold State.dmaStep
  rw [hrun]
  dsimp only
  rw [if_neg (by decide), if_pos rfl, if_neg (by simp [Option.isSome_iff_ne_none.mp hfailed])]
  exact ⟨_, rfl⟩

/-- A descriptor that fails with nothing live in the scoreboards goes to its record. -/
theorem State.dmaStep_failed (hrun : (s.chan c).run = some r) (hok : r.failed = none) (hlive : r.sbLive = [])
    (status fault : Nat) (lead : Option Nat) (exhausted : Bool) (n : Nat) :
    ∃ x, (s.dmaFail c status fault lead exhausted).dmaStep c 3 (n + 1) =
      (s.setRun c { r.failing status fault lead exhausted with step := 3 }).postRecord r.ring x := by
  obtain ⟨x, hx⟩ := State.dmaStep_record (s.run_setRun c (r.failing status fault lead exhausted)) rfl n
  rw [State.setRun_setRun] at hx
  rw [State.dmaFail_eq hrun hok hlive]
  exact ⟨x, hx⟩

/-- The descriptor's word with OWN cleared is written to its slot, HEAD advances past it and it is counted. -/
theorem State.dmaStep_own {i : Nat} (hrun : (s.chan c).run = some r) (hcore : (s.queue r.ring).ringCore = none)
    (hlocal : s.isLocal (s.slotAddr r.ring r.idx 64) = false) (hlink : s.linkForAddr (s.slotAddr r.ring r.idx 64) = some i)
    (n : Nat) : s.dmaStep c 4 (n + 1) = ((s.setRun c { r with step := 4 }).headPast r.ring r.idx).sendOn i 0
      (.write (dmTagOf c r.idx) none false (s.slotAddr r.ring r.idx 64) (leBytes 4 (dmCtl r.bytes / 2 * 2))) := by
  have hslot := State.slotAddr_headPast (s.setRun c { r with step := 4 }) (q := r.ring) r.idx r.idx 64
  have hsent := State.dmaOwnWrite_remote (c := c) (i := i) (idx := r.idx) (link := none)
    ((State.isLocal_headPast (s.setRun c { r with step := 4 }) (q := r.ring) r.idx _).trans hlocal)
    ((State.linkForAddr_headPast _ r.idx _).trans hlink) (leBytes 4 (dmCtl r.bytes / 2 * 2))
  have hword : dmCtl r.bytes - dmCtl r.bytes % 2 = dmCtl r.bytes / 2 * 2 := by omega
  have hstep : s.dmaStep c 4 (n + 1) = (((s.setRun c { r with step := 4 }).headPast r.ring r.idx).dmaOwnWrite c
      (((s.setRun c { r with step := 4 }).headPast r.ring r.idx).slotAddr r.ring r.idx 64)
      (leBytes 4 (dmCtl r.bytes - dmCtl r.bytes % 2)) (s.queue r.ring).ringCore none r.idx).1 := by
    unfold State.dmaStep
    rw [hrun]
    rfl
  rw [hstep, hslot, hcore, hword]
  exact congrArg Prod.fst hsent

theorem State.dmaStep_end (hrun : (s.chan c).run = some r) (n : Nat) :
    s.dmaStep c 6 (n + 1) = (s.setRun c { r with step := 6 }).dmaAfter c r := by
  unfold State.dmaStep
  rw [hrun]
  rfl

/-! ### The read-back and the acknowledgements -/

theorem State.dmaQuiet_of_drained (hout : r.out = []) (hunderWay : s.underWay = []) : s.dmaQuiet c r = true := by
  simp [State.dmaQuiet, hout, hunderWay]

theorem exec_dmaReadbackAnswer_remote {e : EngNo} {j : ChanNo} (hrun : (s.chan (e.val * 64 + j.val)).run = some r)
    (hstep : r.step = 1) (hlocal : s.isLocal (dmDst r.bytes) = false) (status : Byte) (port : PortEvent) :
    exec (.dmaReadbackAnswer e j status port) s = .next
      (if status.toNat = stOk then s.dmaStep (e.val * 64 + j.val) 2 8
        else (s.dmaFail (e.val * 64 + j.val) status.toNat (faultWord r.link (dmTagOf (e.val * 64 + j.val) r.idx)) none
          false).dmaStep (e.val * 64 + j.val) 3 8).unitWork := by
  show execDmaReadbackAnswer e j status port s = _
  unfold execDmaReadbackAnswer State.dmaReadback
  dsimp only
  rw [hrun]
  simp [hstep, hlocal]

/-- The step that waits was acknowledged; the next is issued. -/
theorem exec_dmaCompletionAck {e : EngNo} {j : ChanNo} (hrun : (s.chan (e.val * 64 + j.val)).run = some r)
    (hstep : 2 < r.step) (hout : r.out = []) (hunderWay : s.underWay = []) (hheld : (s.queue r.ring).held = [] ∨ r.step ≠ 3)
    (status : Byte) : exec (.dmaCompletionAck e j status) s = .next
      (s.dmaStep (e.val * 64 + j.val) (min (r.step + 1) 6) 8).unitWork := by
  have hmoves : s.recordMoves r.ring = false := by simp [State.recordMoves, hunderWay]
  show execDmaCompletionAck e j status s = _
  unfold execDmaCompletionAck
  dsimp only
  rw [hrun]
  dsimp only
  rw [if_neg (by omega), if_neg (not_not.mpr (State.dmaQuiet_of_drained hout hunderWay)), if_neg (by omega)]
  by_cases h3 : r.step = 3
  · rw [if_pos h3, if_neg (by simp [hmoves, hheld.resolve_right (not_not.mpr h3)]), h3]
    rfl
  · rw [if_neg h3]
    by_cases h4 : r.step = 4
    · rw [if_pos h4, h4]
      rfl
    · rw [if_neg h4, Nat.min_eq_right (by omega)]

/-! ### The end of a descriptor -/

/-- A channel whose descriptor has completed with OK, before its state is set. -/
def State.dmaEnded (s : State) (e : EngNo) (j : ChanNo) (r : DmaRun) : State :=
  ((s.setFld (F.dmaChStatusLastStatus e.val j.val) stOk).setFld (F.dmaChStatusRetries e.val j.val) 0).setChan
    (e.val * 64 + j.val)
    { s.chan (e.val * 64 + j.val) with run := none, pauseAfter := false, crcKind := dmCrc r.bytes }

section
variable {e : EngNo} {j : ChanNo}

theorem State.fld_dmaEnded_ne (s : State) (r : DmaRun) {g : Fld} (hlast : g.key ≠ (F.dmaChStatusLastStatus e.val j.val).key)
    (hretries : g.key ≠ (F.dmaChStatusRetries e.val j.val).key) : (s.dmaEnded e j r).fld g = s.fld g := by
  unfold State.dmaEnded
  rw [State.fld_setChan, State.fld_setFld_ne _ hretries, State.fld_setFld_ne _ hlast]

theorem State.fld_dmaEnded (s : State) (r : DmaRun) :
    (s.dmaEnded e j r).fld (F.dmaChStatusLastStatus e.val j.val) = stOk := by
  unfold State.dmaEnded
  rw [State.fld_setChan, State.fld_setFld_ne, State.fld_setFld]
  · rfl
  · simp only [Fld.key, F.dmaChStatusLastStatus, F.dmaChStatusRetries]
    omega

theorem State.chState_eq (s : State) (e : EngNo) (j : ChanNo) :
    s.chState (e.val * 64 + j.val) = s.fld (F.dmaChStatusState e.val j.val) := by
  unfold State.chState
  rw [chan_div, chan_mod]

theorem State.setChState_eq (s : State) (e : EngNo) (j : ChanNo) (v : Nat) :
    s.setChState (e.val * 64 + j.val) v = s.setFld (F.dmaChStatusState e.val j.val) v := by
  unfold State.setChState
  rw [chan_div, chan_mod]

theorem State.dmaAfter_ok (hok : r.failed = none) (hhalts : r.halts = false) (hlive : (s.queue r.ring).destroying = false)
    (heng : (s.fld F.fltDmaEngFailed).testBit e.val = false) (hstate : s.chState (e.val * 64 + j.val) = chReadback) :
    s.dmaAfter (e.val * 64 + j.val) r = (s.dmaEnded e j r).setFld (F.dmaChStatusState e.val j.val)
      (if (s.chan (e.val * 64 + j.val)).pauseAfter = true then chPaused else chIdle) := by
  have hstate' : (s.dmaEnded e j r).chState (e.val * 64 + j.val) = chReadback := by
    rw [State.chState_eq, State.fld_dmaEnded_ne, ← State.chState_eq, hstate]
    all_goals
      simp only [Fld.key, F.dmaChStatusState, F.dmaChStatusLastStatus, F.dmaChStatusRetries]
      omega
  have heng' : ((s.dmaEnded e j r).fld F.fltDmaEngFailed).testBit e.val = false := by
    rw [State.fld_dmaEnded_ne, heng]
    all_goals
      simp only [Fld.key, F.fltDmaEngFailed, F.dmaChStatusLastStatus, F.dmaChStatusRetries]
      omega
  have hended : s.dmaAfter (e.val * 64 + j.val) r =
      (if ((s.dmaEnded e j r).queue r.ring).destroying then (s.dmaEnded e j r).setChState (e.val * 64 + j.val) chPaused
      else if r.halts ∨ ((s.dmaEnded e j r).fld F.fltDmaEngFailed).testBit e.val then
        (s.dmaEnded e j r).haltChan (e.val * 64 + j.val) stOk r.idx
      else if (s.dmaEnded e j r).chState (e.val * 64 + j.val) = chPausing ∨
          (s.dmaEnded e j r).chState (e.val * 64 + j.val) = chPaused ∨ (s.chan (e.val * 64 + j.val)).pauseAfter then
        (s.dmaEnded e j r).setChState (e.val * 64 + j.val) chPaused
      else (s.dmaEnded e j r).setChState (e.val * 64 + j.val) chIdle) := by
    unfold State.dmaAfter
    rw [hok, chan_div, chan_mod]
    rfl
  have hlive' : ((s.dmaEnded e j r).queue r.ring).destroying = false := hlive
  rw [hended, hlive', hhalts, heng', hstate', if_neg Bool.false_ne_true, if_neg (by simp)]
  by_cases hpause : (s.chan (e.val * 64 + j.val)).pauseAfter = true
  · rw [if_pos (.inr (.inr hpause)), if_pos hpause, State.setChState_eq]
  · rw [if_neg (by simp [hpause]), if_neg hpause, State.setChState_eq]

end

end

/-! ### DMA_READBACK_ANSWER and DMA_COMPLETION_ACK -/

/-- A command that leaves the binder unit without work. -/
theorem Answers.of_unitWork {i : Instr} {s t u : State} {P : State → Prop} (h : exec i s = .next u.unitWork) (hu : u = t)
    (hbops : t.bops = []) (hP : P t) : Answers i s P :=
  .intro (h.trans (by rw [hu, State.unitWork_eq_self hbops])) hP

section
variable {s : State} {e : EngNo} {j : ChanNo} {r : DmaRun} {i : Nat}

theorem readbackAnswer_sendsCrc (hrun : (s.chan (e.val * 64 + j.val)).run = some r) (hok : r.failed = none)
    (hbops : s.bops = []) (hstep : r.step = 1) (hlocal : s.isLocal (dmDst r.bytes) = false) (hbase : r.base0 = some i)
    (hup : s.linkUp i = true) (hdest : dmCrcDest r.bytes ≠ 0) (hdestLocal : s.isLocal (dmCrcDest r.bytes) = false) :
    Answers (.dmaReadbackAnswer e j 0 .clean) s fun t =>
      (t.link i).txq = (s.link i).txq ++ [(0, .write (dmTagOf (e.val * 64 + j.val) r.idx) none false (dmCrcDest r.bytes)
        (leBytes 8 (if dmCrc r.bytes = 0 then 0 else crcValue (dmCrc r.bytes) (s.fld (F.dmaChCrc e.val j.val)))))] ∧
      (t.chan (e.val * 64 + j.val)).run = some { r with step := 2 } ∧ t.mem = s.mem ∧ t.regs = s.regs := by
  have hsent := State.dmaOwnWrite_remote (s := s.setRun (e.val * 64 + j.val) { r with step := 2 })
    (c := e.val * 64 + j.val) (idx := r.idx) (link := r.base0) (i := i) hdestLocal (by rw [hbase]; rfl)
    (leBytes 8 (if dmCrc r.bytes = 0 then 0 else crcValue (dmCrc r.bytes) (s.fld (F.dmaChCrc e.val j.val))))
  refine .of_unitWork (exec_dmaReadbackAnswer_remote hrun hstep hlocal 0 .clean)
    ((if_pos rfl).trans (State.dmaStep_crc hrun hok hdest (by rw [chan_div, chan_mod]; exact hsent) 7)) ?_ ⟨?_, ?_, ?_, ?_⟩
  · exact (State.sendOn_bops _ _ _ _).trans hbops
  · exact State.txq_sendOn_up (s := s.setRun _ _) hup 0 _
  · rw [State.chan_sendOn, State.chan_setRun]
  · exact State.sendOn_mem _ _ _ _
  · exact State.sendOn_regs _ _ _ _

theorem readbackAnswer_rejected (hrun : (s.chan (e.val * 64 + j.val)).run = some r) (hok : r.failed = none)
    (hbops : s.bops = []) (hstep : r.step = 1) (hlocal : s.isLocal (dmDst r.bytes) = false) {status : Byte} (hstatus : status ≠ 0)
    (hlive : r.sbLive = []) (hnotify : s.bit (F.queNotifyEn (s.fld (F.queCqContext r.ring))) = false) :
    Answers (.dmaReadbackAnswer e j status .clean) s fun t => ∃ r', (t.chan (e.val * 64 + j.val)).run = some r' ∧
      r'.step = 3 ∧ r'.failed = some (status.toNat, faultWord r.link (dmTagOf (e.val * 64 + j.val) r.idx)) := by
  have hstatus' : status.toNat ≠ stOk := fun h => hstatus (BitVec.eq_of_toNat_eq h)
  obtain ⟨x, hposted⟩ := State.dmaStep_failed hrun hok hlive status.toNat
    (faultWord r.link (dmTagOf (e.val * 64 + j.val) r.idx)) none false 7
  obtain ⟨hchans, hunit, -⟩ := RecordSent.postRecord (s.setRun (e.val * 64 + j.val) { r.failing status.toNat
    (faultWord r.link (dmTagOf (e.val * 64 + j.val) r.idx)) none false with step := 3 }) r.ring x hnotify
  refine .of_unitWork (exec_dmaReadbackAnswer_remote hrun hstep hlocal status .clean) ((if_neg hstatus').trans hposted)
    (hunit.trans hbops) ⟨{ r.failing status.toNat (faultWord r.link (dmTagOf (e.val * 64 + j.val) r.idx)) none false
      with step := 3 }, ?_, rfl, rfl⟩
  unfold State.chan
  rw [hchans]
  exact State.run_setRun _ _ _

theorem completionAck_advancesHead (hrun : (s.chan (e.val * 64 + j.val)).run = some r) (hbops : s.bops = [])
    (hstep : r.step = 3) (hout : r.out = []) (hunderWay : s.underWay = []) (hheld : (s.queue r.ring).held = [])
    (hcore : (s.queue r.ring).ringCore = none) (hlocal : s.isLocal (s.slotAddr r.ring r.idx 64) = false)
    (hlink : s.linkForAddr (s.slotAddr r.ring r.idx 64) = some i) (hup : s.linkUp i = true) (status : Byte) :
    Answers (.dmaCompletionAck e j status) s fun t =>
      (t.link i).txq = (s.link i).txq ++ [(0, .write (dmTagOf (e.val * 64 + j.val) r.idx) none false
        (s.slotAddr r.ring r.idx 64) (leBytes 4 (dmCtl r.bytes / 2 * 2)))] ∧
      t.fld (F.queHead r.ring) = (r.idx + 1) % 2 ^ 16 ∧
      t.fld (F.queEntries r.ring) = (s.fld (F.queEntries r.ring) + 1) % 2 ^ 32 ∧
      (t.chan (e.val * 64 + j.val)).run = some { r with step := 4 } ∧ t.mem = s.mem := by
  refine .of_unitWork (exec_dmaCompletionAck hrun (by omega) hout hunderWay (.inl hheld) status)
    ((congrArg (fun k => s.dmaStep _ (min (k + 1) 6) 8) hstep).trans (State.dmaStep_own hrun hcore hlocal hlink 7)) ?_
    ⟨?_, ?_, ?_, ?_, ?_⟩
  · exact (State.sendOn_bops _ _ _ _).trans hbops
  · exact State.txq_sendOn_up ((State.linkUp_headPast (s.setRun _ _) _ _).trans hup) 0 _
  · exact (State.fld_sendOn _ _ _ _ _).trans (State.fld_headPast_head _ _)
  · exact (State.fld_sendOn _ _ _ _ _).trans (State.fld_headPast_entries _ _)
  · rw [State.chan_sendOn]
    exact State.run_setRun _ _ _
  · exact State.sendOn_mem _ _ _ _

theorem completionAck_ends (hrun : (s.chan (e.val * 64 + j.val)).run = some r) (hok : r.failed = none) (hbops : s.bops = [])
    (hstep : r.step = 5) (hout : r.out = []) (hunderWay : s.underWay = []) (hlive : (s.queue r.ring).destroying = false)
    (hhalts : r.halts = false) (heng : (s.fld F.fltDmaEngFailed).testBit e.val = false)
    (hstate : s.chState (e.val * 64 + j.val) = chReadback) (status : Byte) :
    Answers (.dmaCompletionAck e j status) s fun t => (t.chan (e.val * 64 + j.val)).run = none ∧
      t.fld (F.dmaChStatusLastStatus e.val j.val) = stOk ∧
      t.chState (e.val * 64 + j.val) = (if (s.chan (e.val * 64 + j.val)).pauseAfter = true then chPaused else chIdle) ∧
      t.mem = s.mem := by
  have hend := State.dmaAfter_ok (s := s.setRun (e.val * 64 + j.val) { r with step := 6 }) hok hhalts hlive heng hstate
  rw [State.chan_setRun, ← State.dmaStep_end hrun 7] at hend
  refine .of_unitWork (exec_dmaCompletionAck hrun (by omega) hout hunderWay (.inr (by omega)) status)
    ((congrArg (fun k => s.dmaStep _ (min (k + 1) 6) 8) hstep).trans hend) ?_ ⟨?_, ?_, ?_, ?_⟩
  · exact hbops
  · rw [State.chan_setFld]
    unfold State.dmaEnded
    rw [State.chan_setChan]
  · rw [State.fld_setFld_ne, State.fld_dmaEnded]
    simp only [Fld.key, F.dmaChStatusLastStatus, F.dmaChStatusState]
    omega
  · rw [State.chState_eq, State.fld_setFld]
    split <;> rfl
  · rfl

end

/-- Settles O31: each acknowledged step issues the next one, and a read-back that is rejected fails the descriptor. -/
theorem dmaCompletes : Obligations.DmaCompletes := by
  unfold Obligations.DmaCompletes
  intro s e j r status i c b tag raw crc hrun hok hbops
  have htag : dmTagOf c r.idx = tag := dmTagOf_chan e j r.idx
  refine ⟨?_, ?_, ?_, ?_⟩
  · intro hstep hlocal hbase hup hdest hdestLocal
    rw [← htag]
    exact readbackAnswer_sendsCrc hrun hok hbops hstep hlocal hbase hup hdest hdestLocal
  · intro hstep hlocal hstatus hlive hnotify
    rw [← htag]
    exact readbackAnswer_rejected hrun hok hbops hstep hlocal hstatus hlive hnotify
  · intro hstep hout hunderWay hheld hcore _ hlocal hlink hup
    rw [← htag]
    exact completionAck_advancesHead hrun hbops hstep hout hunderWay hheld hcore hlocal hlink hup status
  · intro hstep hout hunderWay hlive hhalts heng hstate
    exact completionAck_ends hrun hok hbops hstep hout hunderWay hlive hhalts heng hstate status

end Sys2Proof.Machine
end

section
/-! A DMA channel takes a descriptor (R316, R321, R322, R326). It settles O29. -/

namespace Sys2Proof.Machine

/-! ### Numbers of a descriptor -/

theorem leNat_lt (bs : List Byte) : leNat bs < 256 ^ bs.length := by
  induction bs with
  | nil => exact Nat.one_pos
  | cons b bs ih =>
    have hb := b.isLt
    rw [leNat, List.length_cons, pow_succ]
    omega

theorem leAt_lt (bs : List Byte) (o n : Nat) : leAt bs o n < 256 ^ n := by
  have h := leNat_lt (slice bs o n)
  rwa [slice_length] at h

theorem dmSrc_lt (b : List Byte) : dmSrc b < 2 ^ 64 := (leAt_lt b 8 8).trans_eq (by norm_num)

theorem dmDst_lt (b : List Byte) : dmDst b < 2 ^ 64 := (leAt_lt b 16 8).trans_eq (by norm_num)

theorem dmLen_lt (b : List Byte) : dmLen b < 2 ^ 32 := (leAt_lt b 4 4).trans_eq (by norm_num)

theorem State.isLocal_of_package (s : State) {a : Nat} (h : addrSpace a = 0) : s.isLocal a = false := by
  simp [State.isLocal, h]

/-! ### A channel that may take the descriptor at HEAD -/

/-- An IDLE channel with an entry in its ring, which stands outside this die's scratchpads: nothing keeps it from the
descriptor at HEAD (R321). -/
structure State.TakesDesc (s : State) (e : EngNo) (j : ChanNo) : Prop where
  idle : s.chState (e.val * 64 + j.val) = chIdle
  clocks : s.clocksOff = false
  free : (s.chan (e.val * 64 + j.val)).run = none
  goes : (s.chan (e.val * 64 + j.val)).ownStop = false
  entry : s.ringUsed (s.fld (F.dmaChStatusQueue e.val j.val)) ≠ 0
  live : (s.queue (s.fld (F.dmaChStatusQueue e.val j.val))).destroying = false
  held : (s.queue (s.fld (F.dmaChStatusQueue e.val j.val))).held = []
  outside : (s.queue (s.fld (F.dmaChStatusQueue e.val j.val))).ringCore = none
  engine : (s.fld F.fltDmaEngFailed).testBit e.val = false

/-- The registers that a channel sets when it takes a descriptor (R321, R332); `kind` is the CRC that the last descriptor
took. -/
def takenFields (e j kind : Nat) (b : List Byte) : List (Fld × Nat) :=
  (if ¬ ((dmCtl b).testBit 13 ∧ kind = dmCrc b ∧ dmCrc b ≠ 0) then
    [(F.dmaChCrc e j, if dmCrc b = 1 then 0xFFFFFFFF else 0)] else []) ++
  [(F.dmaChSrc e j, dmSrc b), (F.dmaChDst e j, dmDst b), (F.dmaChRemain e j, dmLen b), (F.dmaChStatusState e j, chActive),
    (F.dmaChStatusRetries e j, 0)]

/-- A channel that has taken a descriptor, before its checks. -/
def State.descTaken (s : State) (e : EngNo) (j : ChanNo) (b : List Byte) : State :=
  let x := s.chan (e.val * 64 + j.val)
  let s := if ¬ ((dmCtl b).testBit 13 ∧ x.crcKind = dmCrc b ∧ dmCrc b ≠ 0) then
    s.setFld (F.dmaChCrc e.val j.val) (if dmCrc b = 1 then 0xFFFFFFFF else 0) else s
  let s := ((s.setFld (F.dmaChSrc e.val j.val) (dmSrc b)).setFld (F.dmaChDst e.val j.val) (dmDst b)).setFld
    (F.dmaChRemain e.val j.val) (dmLen b)
  (s.setChState (e.val * 64 + j.val) chActive).setFld (F.dmaChStatusRetries e.val j.val) 0

theorem State.descTaken_eq (s : State) (e : EngNo) (j : ChanNo) (b : List Byte) :
    s.descTaken e j b = s.setFlds (takenFields e.val j.val (s.chan (e.val * 64 + j.val)).crcKind b) := by
  unfold State.descTaken takenFields
  dsimp only
  rw [State.setChState_eq]
  split <;> rfl

section
variable {s : State} {e : EngNo} {j : ChanNo} {data : List Byte}

/-- The descriptor that a channel reads at HEAD. -/
def State.descAt (s : State) (e : EngNo) (j : ChanNo) (b : List Byte) : DmaRun :=
  { ring := s.fld (F.dmaChStatusQueue e.val j.val), idx := s.fld (F.queHead (s.fld (F.dmaChStatusQueue e.val j.val))), bytes := b }

theorem State.TakesDesc.ready (h : s.TakesDesc e j) :
    ¬ (s.chState (e.val * 64 + j.val) ≠ chIdle ∨ s.clocksOff ∨ (s.chan (e.val * 64 + j.val)).run.isSome ∨
      (s.chan (e.val * 64 + j.val)).ownStop ∨ s.ringUsed (s.fld (F.dmaChStatusQueue e.val j.val)) = 0 ∨
      (s.queue (s.fld (F.dmaChStatusQueue e.val j.val))).destroying ∨
      (s.queue (s.fld (F.dmaChStatusQueue e.val j.val))).held ≠ [] ∨
      s.ringFenced (s.fld (F.dmaChStatusQueue e.val j.val)) ∨ (s.fld F.fltDmaEngFailed).testBit e.val) := by
  have hfenced : s.ringFenced (s.fld (F.dmaChStatusQueue e.val j.val)) = false := by
    unfold State.ringFenced
    rw [h.outside]
  simp [h.idle, h.clocks, h.free, h.goes, h.entry, h.live, h.held, hfenced, h.engine]

/-- A descriptor without OWN (R321). -/
theorem State.TakesDesc.exec_ownMiss (h : s.TakesDesc e j) (hown : ¬ (dmCtl (slice data 0 64)).testBit 0 = true) :
    exec (.dmaDescriptorStart e j (.ok data) .clean) s = .next
      ((s.setChan (e.val * 64 + j.val) { s.chan (e.val * 64 + j.val) with ownStop := true }).setFld
        (F.queStatusOwnMiss (s.fld (F.dmaChStatusQueue e.val j.val))) 1) := by
  show execDmaDescriptorStart e j (.ok data) .clean s = _
  unfold execDmaDescriptorStart
  simp only [if_neg h.ready, h.outside, Bool.false_eq_true, if_false, if_pos hown]

/-- A descriptor that breaks R322. -/
theorem State.TakesDesc.exec_bad (h : s.TakesDesc e j) (hown : (dmCtl (slice data 0 64)).testBit 0 = true)
    (hbad : (s.descTaken e j (slice data 0 64)).dmaCheck (e.val * 64 + j.val) (slice data 0 64) = false) :
    ∃ n, exec (.dmaDescriptorStart e j (.ok data) .clean) s = .next
      (((((s.descTaken e j (slice data 0 64)).addFld F.fltBadSpace n).setRun (e.val * 64 + j.val)
        (s.descAt e j (slice data 0 64))).dmaFail (e.val * 64 + j.val) stBadParam 0 (some 0) false).dmaAdvance
        (e.val * 64 + j.val)).unitWork := by
  show ∃ n, execDmaDescriptorStart e j (.ok data) .clean s = _
  unfold execDmaDescriptorStart
  simp only [if_neg h.ready, h.outside, Bool.false_eq_true, if_false, if_neg (not_not.mpr hown)]
  refine ⟨_, congrArg Host.Outcome.next (if_pos ?_)⟩
  show (!(s.descTaken e j _).dmaCheck _ _) = true
  rw [hbad]
  rfl

/-- A descriptor between two places of this die runs, with its links and no scoreboard entry while no kernel does. -/
theorem State.TakesDesc.exec_local (h : s.TakesDesc e j) (hown : (dmCtl (slice data 0 64)).testBit 0 = true)
    (hgood : (s.descTaken e j (slice data 0 64)).dmaCheck (e.val * 64 + j.val) (slice data 0 64) = true)
    (hdst : (s.descTaken e j (slice data 0 64)).isLocal (dmDst (slice data 0 64)) = true)
    (hsrc : (s.descTaken e j (slice data 0 64)).isLocal (dmSrc (slice data 0 64)) = true)
    (hkernels : (s.descTaken e j (slice data 0 64)).kernels = []) :
    exec (.dmaDescriptorStart e j (.ok data) .clean) s = .next
      (((s.descTaken e j (slice data 0 64)).setRun (e.val * 64 + j.val) { s.descAt e j (slice data 0 64) with
        paths := (s.descTaken e j (slice data 0 64)).basePaths
        base0 := (s.descTaken e j (slice data 0 64)).dmaBaseLink (e.val * 64 + j.val) (slice data 0 64) }).dmaEnter
        (e.val * 64 + j.val)) := by
  have hpend : ((List.range 96).filter fun p => ((s.descTaken e j (slice data 0 64)).dmaPartIn (slice data 0 64) p).isSome &&
      (match (s.descTaken e j (slice data 0 64)).kernelOn p with | some k => k.scoreboard | none => false)) = [] := by
    simp [State.kernelOn, hkernels]
  have hlink : (if (!(s.descTaken e j (slice data 0 64)).isLocal (dmDst (slice data 0 64)) ||
      !(s.descTaken e j (slice data 0 64)).isLocal (dmSrc (slice data 0 64))) = true then
        (s.descTaken e j (slice data 0 64)).dmaLink (e.val * 64 + j.val) (slice data 0 64) else none) = none := by
    simp [hdst, hsrc]
  show execDmaDescriptorStart e j (.ok data) .clean s = _
  unfold execDmaDescriptorStart
  simp only [if_neg h.ready, h.outside, Bool.false_eq_true, if_false, if_neg (not_not.mpr hown)]
  refine congrArg Host.Outcome.next ((if_neg ?_).trans ((if_neg ?_).trans ?_))
  · show ¬ (!(s.descTaken e j _).dmaCheck _ _) = true
    rw [hgood]
    decide
  · show ¬ ((!(s.descTaken e j _).isLocal _ || !(s.descTaken e j _).isLocal _) = true ∧ _)
    rw [hdst, hsrc]
    simp
  · exact congrArg₂ (fun link sbPend => ((s.descTaken e j (slice data 0 64)).setRun (e.val * 64 + j.val)
      { s.descAt e j (slice data 0 64) with
        link, sbPend
        paths := (s.descTaken e j (slice data 0 64)).basePaths
        base0 := (s.descTaken e j (slice data 0 64)).dmaBaseLink (e.val * 64 + j.val) (slice data 0 64) }).dmaEnter
        (e.val * 64 + j.val)) hlink hpend

end

/-! ### What taking a descriptor leaves -/

section
variable (s : State) (e : EngNo) (j : ChanNo) (b : List Byte)

theorem takenFields_nodup (e : EngNo) (j : ChanNo) (kind : Nat) (b : List Byte) :
    ((takenFields e.val j.val kind b).map fun x => x.1.key).Nodup := by
  unfold takenFields
  split <;>
  · simp only [Fld.key, F.dmaChCrc, F.dmaChSrc, F.dmaChDst, F.dmaChRemain, F.dmaChStatusState, F.dmaChStatusRetries,
      List.map_cons, List.map_nil, List.nil_append, List.singleton_append, List.nodup_cons, List.mem_cons,
      List.not_mem_nil, List.nodup_nil, or_false, not_or, not_false_eq_true, and_true]
    omega

/-- The fields a channel sets stand in its own registers, and DMA_CH_CTL is not among them. -/
theorem takenFields_key {e : EngNo} {j : ChanNo} {kind : Nat} {b : List Byte} {x : Fld × Nat}
    (h : x ∈ takenFields e.val j.val kind b) :
    0xA4000 * 32 ≤ x.1.key ∧ x.1.key < 0xE0000 * 32 ∧
      x.1.key / 32 ≠ 0xA4004 + e.val * 0x8000 + j.val * 0x100 := by
  unfold takenFields at h
  rw [List.mem_append] at h
  rcases h with h | h
  · split at h
    · obtain rfl := List.mem_singleton.mp h
      simp only [Fld.key, F.dmaChCrc]
      omega
    · cases h
  · simp only [List.mem_cons, List.not_mem_nil, or_false] at h
    rcases h with rfl | rfl | rfl | rfl | rfl <;>
    · simp only [Fld.key, F.dmaChSrc, F.dmaChDst, F.dmaChRemain, F.dmaChStatusState, F.dmaChStatusRetries]
      omega

theorem State.fld_descTaken_outside {g : Fld} (hg : g.key < 0xA4000 * 32 ∨ 0xE0000 * 32 ≤ g.key) :
    (s.descTaken e j b).fld g = s.fld g := by
  rw [State.descTaken_eq]
  refine s.fld_setFlds_ne fun x hx => ?_
  have := takenFields_key hx
  omega

theorem State.fld_descTaken_of_mem {f : Fld} {v : Nat}
    (h : (f, v) ∈ takenFields e.val j.val (s.chan (e.val * 64 + j.val)).crcKind b) :
    (s.descTaken e j b).fld f = v % 2 ^ f.w := by
  rw [State.descTaken_eq]
  exact s.fld_setFlds_of_mem (takenFields_nodup e j _ b) h

theorem State.descTaken_setsFields : setsFields s (s.descTaken e j b) := by
  have hset : ∀ (l : List (Fld × Nat)) (u : State), setsFields s u → setsFields s (u.setFlds l) := by
    intro l
    induction l with
    | nil => exact fun u hu => hu
    | cons x l ih => exact fun u hu => ih _ (hu.setFld x.1 x.2)
  rw [State.descTaken_eq]
  exact hset _ s ⟨_, rfl⟩

theorem State.isLocal_descTaken (a : Nat) : (s.descTaken e j b).isLocal a = s.isLocal a := by
  unfold State.isLocal
  rw [State.dieNo_congr] <;> exact s.fld_descTaken_outside e j b (.inl (by decide))

/-- The checks of R322 rest on the die's number, its cores, the package's memory and FUNNEL_EN. -/
theorem State.dmaCheck_congr {t : State} {c : Nat} (hdie : t.dieNo = s.dieNo) (hcores : t.nLogical = s.nLogical)
    (hbytes : t.packageBytes = s.packageBytes)
    (hfunnel : t.fld (F.dmaChCtlFunnelEn (c / 64) (c % 64)) = s.fld (F.dmaChCtlFunnelEn (c / 64) (c % 64))) :
    t.dmaCheck c b = s.dmaCheck c b := by
  have haddr : t.dmaAddrOk = s.dmaAddrOk := by
    funext a
    unfold State.dmaAddrOk State.isLocal State.layoutOk State.remoteLayoutOk
    rw [hdie, hcores, hbytes]
  have hrange : t.dmaRangeOk = s.dmaRangeOk := by
    funext a n
    unfold State.dmaRangeOk
    rw [haddr]
  have hlocal : t.isLocal = s.isLocal := by
    funext a
    unfold State.isLocal
    rw [hdie]
  unfold State.dmaCheck State.bit
  rw [haddr, hrange, hlocal, hfunnel]

theorem State.dmaCheck_descTaken :
    (s.descTaken e j b).dmaCheck (e.val * 64 + j.val) b = s.dmaCheck (e.val * 64 + j.val) b := by
  obtain ⟨regs, hregs⟩ := s.descTaken_setsFields e j b
  have hlow : ∀ {g : Fld}, g.key < 0xA4000 * 32 → (s.descTaken e j b).fld g = s.fld g :=
    fun hg => s.fld_descTaken_outside e j b (.inl hg)
  refine s.dmaCheck_congr b (State.dieNo_congr (hlow (by decide)) (hlow (by decide))) (hlow (by decide)) ?_ ?_
  · rw [hregs]
  · rw [chan_div, chan_mod, State.descTaken_eq]
    refine s.fld_setFlds_ne fun x hx => ?_
    have := takenFields_key hx
    simp only [Fld.key, F.dmaChCtlFunnelEn] at this ⊢
    omega

end

/-! ### A descriptor that fails at its start -/

section
variable {s : State} {c : Nat} {r : DmaRun}

theorem State.dmaEnter_eq_self (h : ∀ r, (s.chan c).run = some r → r.sbPend = []) : s.dmaEnter c = s := by
  unfold State.dmaEnter
  split
  · rfl
  · rename_i r hrun
    simp [h r hrun, hrun]

theorem State.dmaRelease_eq (hrun : (s.chan c).run = some r) (hlive : r.sbLive = []) : s.dmaRelease c = s.setRun c r := by
  have hself : { r with sbLive := [] } = r := by rw [← hlive]
  unfold State.dmaRelease
  rw [hrun]
  simp only [hlive, List.filter_nil, List.foldl_nil]
  rw [hself]
  rfl

theorem State.dmaPartIn_of_package (s : State) {b : List Byte} (h : addrSpace (dmDst b) = 0) (p : Nat) :
    s.dmaPartIn b p = none := by
  simp [State.dmaPartIn, State.dmaBase, s.isLocal_of_package h]

/-- A descriptor to package memory that has failed waits for its reads, and then goes to its record (R334). -/
theorem State.dmaAdvance_failed (hrun : (s.chan c).run = some r) (hstep : r.step < 2) (hfailed : r.failed.isSome = true)
    (hlive : r.sbLive = []) (hdst : addrSpace (dmDst r.bytes) = 0) :
    s.dmaAdvance c = if s.dmaQuiet c r then (s.setRun c r).dmaStep c 3 8 else s.setRun c r := by
  unfold State.dmaAdvance
  rw [State.dmaRelease_eq hrun hlive]
  dsimp only
  rw [State.run_setRun]
  dsimp only
  rw [if_neg (Nat.not_le.mpr hstep), if_pos hfailed]
  simp only [State.dmaPartIn_of_package _ hdst]
  rfl

theorem State.dmaAdvance_record (hrun : (s.chan c).run = some r) (hstep : r.step < 2) (hfailed : r.failed.isSome = true)
    (hlive : r.sbLive = []) (hdst : addrSpace (dmDst r.bytes) = 0) (hout : r.out = []) (hunderWay : s.underWay = [])
    (hnotify : s.bit (F.queNotifyEn (s.fld (F.queCqContext r.ring))) = false) :
    ((s.dmaAdvance c).chan c).run = some { r with step := 3 } ∧ (s.dmaAdvance c).bops = s.bops := by
  obtain ⟨x, hposted⟩ := State.dmaStep_record (s.run_setRun c r) hfailed 7
  obtain ⟨hchans, hunit, -⟩ := RecordSent.postRecord (s.setRun c { r with step := 3 }) r.ring x hnotify
  rw [State.dmaAdvance_failed hrun hstep hfailed hlive hdst, if_pos (State.dmaQuiet_of_drained hout hunderWay), hposted,
    State.setRun_setRun]
  refine ⟨?_, hunit⟩
  unfold State.chan
  rw [hchans]
  exact State.run_setRun _ _ _

end

/-! ### DMA_DESCRIPTOR_START -/

section
variable {s : State} {e : EngNo} {j : ChanNo} {data : List Byte}

theorem descriptorStart_runs (h : s.TakesDesc e j) (hown : (dmCtl (slice data 0 64)).testBit 0 = true)
    (hgood : s.dmaCheck (e.val * 64 + j.val) (slice data 0 64) = true)
    (hdst : s.isLocal (dmDst (slice data 0 64)) = true) (hsrc : s.isLocal (dmSrc (slice data 0 64)) = true)
    (hkernels : s.kernels = []) :
    Answers (.dmaDescriptorStart e j (.ok data) .clean) s fun t =>
      (∃ r, (t.chan (e.val * 64 + j.val)).run = some r ∧ r.bytes = slice data 0 64 ∧
        r.idx = s.fld (F.queHead (s.fld (F.dmaChStatusQueue e.val j.val))) ∧ r.beat = 0 ∧ r.out = [] ∧ r.failed = none) ∧
      t.chState (e.val * 64 + j.val) = chActive ∧ t.fld (F.dmaChSrc e.val j.val) = dmSrc (slice data 0 64) ∧
      t.fld (F.dmaChDst e.val j.val) = dmDst (slice data 0 64) ∧
      t.fld (F.dmaChRemain e.val j.val) = dmLen (slice data 0 64) ∧
      t.fld (F.queHead (s.fld (F.dmaChStatusQueue e.val j.val))) =
        s.fld (F.queHead (s.fld (F.dmaChStatusQueue e.val j.val))) ∧ t.mem = s.mem := by
  obtain ⟨regs, hregs⟩ := s.descTaken_setsFields e j (slice data 0 64)
  have hexec := h.exec_local hown ((s.dmaCheck_descTaken e j _).trans hgood) ((s.isLocal_descTaken e j _ _).trans hdst)
    ((s.isLocal_descTaken e j _ _).trans hsrc) (by rw [hregs]; exact hkernels)
  rw [State.dmaEnter_eq_self fun r hr => by
    rw [State.run_setRun] at hr
    rw [← Option.some.inj hr]
    rfl] at hexec
  refine .intro hexec ⟨⟨_, State.run_setRun _ _ _, rfl, rfl, rfl, rfl, rfl⟩, ?_, ?_, ?_, ?_, ?_, ?_⟩
  · rw [State.chState_eq, State.fld_setRun,
      s.fld_descTaken_of_mem e j _ (f := F.dmaChStatusState e.val j.val) (v := chActive) (by simp [takenFields])]
    rfl
  · rw [State.fld_setRun,
      s.fld_descTaken_of_mem e j _ (f := F.dmaChSrc e.val j.val) (v := dmSrc (slice data 0 64)) (by simp [takenFields])]
    exact Nat.mod_eq_of_lt (dmSrc_lt _)
  · rw [State.fld_setRun,
      s.fld_descTaken_of_mem e j _ (f := F.dmaChDst e.val j.val) (v := dmDst (slice data 0 64)) (by simp [takenFields])]
    exact Nat.mod_eq_of_lt (dmDst_lt _)
  · rw [State.fld_setRun,
      s.fld_descTaken_of_mem e j _ (f := F.dmaChRemain e.val j.val) (v := dmLen (slice data 0 64)) (by simp [takenFields])]
    exact Nat.mod_eq_of_lt (dmLen_lt _)
  · rw [State.fld_setRun, State.fld_descTaken_outside]
    simp only [Fld.key, F.queHead]
    omega
  · rw [State.setRun_mem, hregs]

/-- A descriptor that fails at its start has moved nothing, and goes to its record at once (R322, R334). -/
theorem descriptorStart_fails (h : s.TakesDesc e j) (hbops : s.bops = []) (hunderWay : s.underWay = [])
    (hown : (dmCtl (slice data 0 64)).testBit 0 = true) (hbad : s.dmaCheck (e.val * 64 + j.val) (slice data 0 64) = false)
    (hdst : addrSpace (dmDst (slice data 0 64)) = 0)
    (hnotify : s.bit (F.queNotifyEn (s.fld (F.queCqContext (s.fld (F.dmaChStatusQueue e.val j.val))))) = false) :
    Answers (.dmaDescriptorStart e j (.ok data) .clean) s fun t => ∃ r, (t.chan (e.val * 64 + j.val)).run = some r ∧
      r.bytes = slice data 0 64 ∧ r.beat = 0 ∧ r.out = [] ∧ r.failed = some (stBadParam, 0) ∧ r.lead = some 0 := by
  obtain ⟨n, hexec⟩ := h.exec_bad hown ((s.dmaCheck_descTaken e j _).trans hbad)
  obtain ⟨regs, hregs⟩ := (s.descTaken_setsFields e j (slice data 0 64)).setFld F.fltBadSpace
    ((s.descTaken e j (slice data 0 64)).fld F.fltBadSpace + n)
  have hque : ∀ {g : Fld}, 0x100000 * 32 ≤ g.key →
      ((s.descTaken e j (slice data 0 64)).addFld F.fltBadSpace n).fld g = s.fld g := by
    intro g hg
    rw [State.fld_addFld_ne, s.fld_descTaken_outside e j _ (.inr (by omega))]
    simp only [Fld.key, F.fltBadSpace] at hg ⊢
    omega
  have hunder : ((s.descTaken e j (slice data 0 64)).addFld F.fltBadSpace n).underWay = [] := by
    unfold State.addFld
    rw [hregs]
    exact hunderWay
  have hoff : ((s.descTaken e j (slice data 0 64)).addFld F.fltBadSpace n).bit
      (F.queNotifyEn (((s.descTaken e j (slice data 0 64)).addFld F.fltBadSpace n).fld
        (F.queCqContext (s.fld (F.dmaChStatusQueue e.val j.val))))) = false := by
    unfold State.bit at hnotify ⊢
    rw [hque, hque, hnotify]
    all_goals
      simp only [Fld.key, F.queCqContext, F.queNotifyEn]
      omega
  obtain ⟨hrecord, hunit⟩ := State.dmaAdvance_record (State.run_setRun _ (e.val * 64 + j.val)
    ((s.descAt e j (slice data 0 64)).failing stBadParam 0 (some 0) false)) Nat.two_pos rfl rfl hdst rfl
    ((State.underWay_setRun _ _ _).trans hunder) (by rw [State.fld_setRun, State.bit_setRun]; exact hoff)
  rw [State.dmaFail_eq (State.run_setRun _ _ _) rfl rfl, State.setRun_setRun] at hexec
  refine .of_unitWork hexec rfl (hunit.trans ?_) ⟨_, hrecord, rfl, rfl, rfl, rfl, rfl⟩
  unfold State.addFld
  rw [State.setRun_bops, hregs]
  exact hbops

end

/-- Settles O29: a descriptor without OWN is left, one that breaks R322 fails before its first beat, and any other begins. -/
theorem dmaStartsDescriptors : Obligations.DmaStartsDescriptors := by
  unfold Obligations.DmaStartsDescriptors
  intro s e j data c q b i own link hidle hclocks hrun hgoes hentry hlive hheld houtside hengine hbops hunderWay
  have htakes : s.TakesDesc e j := ⟨hidle, hclocks, hrun, hgoes, hentry, hlive, hheld, houtside, hengine⟩
  refine ⟨?_, ?_, ?_⟩
  · intro hown
    exact .intro (htakes.exec_ownMiss hown) rfl
  · intro hown hgood hlink hkernels
    obtain ⟨hdst, hsrc⟩ : s.isLocal (dmDst b) = true ∧ s.isLocal (dmSrc b) = true := by simpa [link] using hlink
    exact descriptorStart_runs htakes hown hgood hdst hsrc hkernels
  · intro hown hbad hdst _ hnotify
    exact descriptorStart_fails htakes hbops hunderWay hown hbad hdst hnotify

end Sys2Proof.Machine
end

section
/-! The beats of a DMA transfer: a beat's return, its row's way out, its retry and its loss (R319, R327, R332 to R334).
It is for O30, which the next part settles. -/

namespace Sys2Proof.Machine

/-! ### Transfers of whole rows (R317, R323) -/

/-- Descriptors of whole rows that increment at both ends, with no funnel. -/
structure WholeRows (b : List Byte) : Prop where
  srcMoves : dmSrcFixed b = false
  dstMoves : dmDstFixed b = false
  funnel : dmFunnel b = false
  src : dmSrc b % 256 = 0
  dst : dmDst b % 256 = 0
  len : dmLen b % 256 = 0

section
variable {b : List Byte} {k : Nat}

theorem WholeRows.read (h : WholeRows b) (k : Nat) : dmRead b k = (dmSrc b + 256 * k, 256) := by
  have hsrc := h.src
  unfold dmRead
  rw [h.srcMoves, h.dstMoves, if_neg Bool.false_ne_true, if_neg Bool.false_ne_true, Prod.mk.injEq]
  exact ⟨by omega, rfl⟩

theorem WholeRows.part (h : WholeRows b) (hk : k * 256 + 256 ≤ dmLen b) : dmPart b k = (256 * k, 256) := by
  have hsrc := h.src
  unfold dmPart
  rw [h.srcMoves, h.dstMoves, if_neg (by decide), Prod.mk.injEq]
  omega

theorem WholeRows.take (h : WholeRows b) (hk : k * 256 + 256 ≤ dmLen b) (row : List Byte) :
    dmTake b k row = slice row 0 256 := by
  unfold dmTake dmUseful
  rw [h.srcMoves, h.dstMoves, if_neg (by decide), h.read, h.part hk, Nat.sub_self]

/-- A transfer that begins and ends in package memory lies there whole. -/
theorem addrSpace_within {a n k : Nat} (hn : n < 2 ^ 32) (hk : k ≤ n) (ha : addrSpace a = 0) (hend : addrSpace (a + n) = 0) :
    addrSpace (a + k) = 0 := by
  unfold addrSpace at *
  omega

end

/-! ### Registers of the links -/

theorem State.linkUp_setFld (s : State) {f : Fld} (hf : f.key < 0xE0000 * 32) (v i : Nat) :
    (s.setFld f v).linkUp i = s.linkUp i := by
  unfold State.linkUp State.linkState
  rw [State.fld_setFld_ne]
  simp only [Fld.key, F.lnkStatusState] at hf ⊢
  omega

/-! ### Beats at the head of the outstanding reads (R319) -/

section
variable {s : State} {c : Nat} {r : DmaRun} {o : DmaOut} {more : List DmaOut}

theorem map_other_beats {x : DmaOut} (h : ∀ m ∈ more, m.beat ≠ o.beat) :
    more.map (fun m => if m.beat = o.beat then x else m) = more := by
  refine (List.map_congr_left fun m hm => if_neg (h m hm)).trans (List.map_id' _)

theorem map_lost_beats (h : ∀ m ∈ more, m.beat ≠ o.beat) :
    more.map (fun m => if m.beat = o.beat then { m with lost := true } else m) = more := by
  refine (List.map_congr_left fun m hm => if_neg (h m hm)).trans (List.map_id' _)

theorem State.dmaLose_eq (hrun : (s.chan c).run = some r) (k : Nat) : s.dmaLose c k =
    s.setRun c { r with out := r.out.map fun o => if o.beat = k then { o with lost := true } else o } := by
  unfold State.dmaLose
  rw [hrun]
  rfl

theorem State.dmaPump_waits (hrun : (s.chan c).run = some r)
    (hhead : ∀ m, r.out.head? = some m → m.data = none ∧ m.lost = false) (n : Nat) : s.dmaPump c n = s := by
  cases n with
  | zero => rfl
  | succ n =>
    unfold State.dmaPump
    rw [hrun]
    dsimp only
    split
    · rfl
    · rename_i m rest hout
      obtain ⟨hdata, hlost⟩ := hhead m (by rw [hout]; rfl)
      rw [hlost, hdata]
      rfl

/-- A beat that was lost leaves a gap (R334). -/
theorem State.dmaPump_lost (hrun : (s.chan c).run = some r) (hout : r.out = o :: more) (hlost : o.lost = true)
    (hcarry : r.carry = []) (n : Nat) :
    s.dmaPump c (n + 1) = (s.setRun c { r with out := more, gap := true, carry := [] }).dmaPump c n := by
  rw [State.dmaPump.eq_def]
  dsimp only
  rw [hrun]
  dsimp only
  rw [hout]
  dsimp only
  rw [hlost, if_pos rfl, hcarry]
  rfl

/-- The data of the oldest beat enters the CRC and the bytes at hand. -/
theorem State.dmaPump_data {data : List Byte} {i : Nat} (hrun : (s.chan c).run = some r) (hout : r.out = o :: more)
    (hlost : o.lost = false) (hdata : o.data = some data) (hgap : r.gap = false) (hlink : o.link = some i) (n : Nat) :
    s.dmaPump c (n + 1) = ((((s.setFld (F.dmaChCrc (c / 64) (c % 64))
      (crcMore (dmCrc r.bytes) (s.fld (F.dmaChCrc (c / 64) (c % 64))) data)).setRun c
        { r with out := more, carry := r.carry ++ data }).dmaFlush c (adapterClump i) 66).dmaPump c n) := by
  rw [State.dmaPump.eq_def]
  dsimp only
  rw [hrun]
  dsimp only
  rw [hout]
  dsimp only
  rw [hlost, if_neg Bool.false_ne_true, hdata]
  dsimp only
  rw [hgap, if_neg Bool.false_ne_true, hlink]
  rfl

theorem State.dmaFlush_waits (hrun : (s.chan c).run = some r) (hcarry : r.carry = []) (cl n : Nat) :
    s.dmaFlush c cl n = s := by
  cases n with
  | zero => rfl
  | succ n =>
    unfold State.dmaFlush
    rw [hrun]
    dsimp only
    rw [if_pos]
    rw [hcarry, List.length_nil]
    omega

/-- A row at hand is written. -/
theorem State.dmaFlush_row (hrun : (s.chan c).run = some r) (hrows : WholeRows r.bytes) (hrow : r.carry.length = 256)
    (haligned : r.written % 256 = 0) (hroom : r.written + 256 ≤ dmLen r.bytes) (cl n : Nat) :
    s.dmaFlush c cl (n + 1) =
      ((s.setRun c { r with carry := [] }).dmaWrite c cl (dmDst r.bytes + r.written) r.carry).dmaFlush c cl n := by
  have hdst := hrows.dst
  have hm : min (256 - (dmDst r.bytes + r.written) % 256) (dmLen r.bytes - r.written) = 256 := by omega
  rw [State.dmaFlush.eq_def]
  dsimp only
  rw [hrun]
  simp only [hrows.dstMoves, hrows.srcMoves, Bool.false_eq_true, or_self, if_false, hm, hrow, lt_irrefl, OfNat.ofNat_ne_zero]
  rw [← hrow, List.drop_length, List.take_length]
  rfl

/-- One WRITE of a channel to package memory goes out on the descriptor's link (R326, R327). -/
theorem State.dmaWrite_package {a i : Nat} (hrun : (s.chan c).run = some r) (hdst : dmDstFixed r.bytes = false)
    (ha : addrSpace a = 0) (hlink : r.link = some i) (hup : s.linkUp i = true) (hc : c < 512) (cl : Nat) (data : List Byte) :
    s.dmaWrite c cl a data = (((s.setRun c { r with written := r.written + data.length }).setFld
      (F.dmaChDst (c / 64) (c % 64)) (a + data.length)).addFld (F.dmaChBytes (c / 64) (c % 64)) data.length).sendOn i 0
        (.write (dmTagOf c r.idx) none false a data) := by
  have hup' : ((s.setRun c { r with written := r.written + data.length }).setFld
      (F.dmaChDst (c / 64) (c % 64)) (a + data.length)).linkUp i = true := by
    rw [State.linkUp_setFld, State.linkUp_setRun, hup]
    simp only [Fld.key, F.dmaChDst]
    omega
  unfold State.dmaWrite
  rw [hrun]
  dsimp only
  rw [hdst, if_neg Bool.false_ne_true, if_neg (by omega), State.isLocal_of_package _ ha, if_neg Bool.false_ne_true, hlink]
  dsimp only
  rw [← hlink, ← State.setRun, hup', if_pos rfl, if_neg (by omega : ¬ addrSpace a = 5), ite_self]

/-- A channel whose data is under way goes on. -/
theorem State.dmaAdvance_moving (hrun : (s.chan c).run = some r) (hok : r.failed = none) (hlive : r.sbLive = [])
    (hmoving : r.beat < dmBeats r.bytes ∨ r.out ≠ []) : s.dmaAdvance c = s.setRun c r := by
  unfold State.dmaAdvance
  rw [State.dmaRelease_eq hrun hlive]
  dsimp only
  rw [State.run_setRun]
  dsimp only
  split
  · rfl
  · rw [if_neg (by simp [hok]), if_neg]
    rintro ⟨-, -, hall, hnone, -⟩
    rcases hmoving with h | h
    · omega
    · exact h (List.isEmpty_iff.mp hnone)

/-- A transfer's state once a row of it has gone to package memory: the row is on the descriptor's link, and the channel's
registers and CRC have it. -/
def State.rowSent (s : State) (c i : Nat) (r : DmaRun) (data : List Byte) : State :=
  ((((s.setFld (F.dmaChCrc (c / 64) (c % 64)) (crcMore (dmCrc r.bytes) (s.fld (F.dmaChCrc (c / 64) (c % 64))) data)).setRun c
    { r with written := r.written + 256, carry := [] }).setFld
      (F.dmaChDst (c / 64) (c % 64)) (dmDst r.bytes + r.written + 256)).addFld (F.dmaChBytes (c / 64) (c % 64)) 256).sendOn i 0
    (.write (dmTagOf c r.idx) none false (dmDst r.bytes + r.written) data)

theorem State.run_rowSent (i : Nat) (data : List Byte) :
    ((s.rowSent c i r data).chan c).run = some { r with written := r.written + 256, carry := [] } := by
  unfold State.rowSent
  rw [State.chan_sendOn, State.chan_addFld, State.chan_setFld, State.run_setRun]

theorem State.rowSent_mem (i : Nat) (data : List Byte) : (s.rowSent c i r data).mem = s.mem := by
  unfold State.rowSent
  rw [State.sendOn_mem, State.addFld_mem, State.setFld_mem, State.setRun_mem, State.setFld_mem]

theorem State.rowSent_bops (i : Nat) (data : List Byte) : (s.rowSent c i r data).bops = s.bops := by
  unfold State.rowSent
  rw [State.sendOn_bops, State.addFld_bops, State.setFld_bops, State.setRun_bops, State.setFld_bops]

theorem State.txq_rowSent {i : Nat} (hc : c < 512) (hup : s.linkUp i = true) (data : List Byte) :
    ((s.rowSent c i r data).link i).txq = (s.link i).txq ++
      [(0, .write (dmTagOf c r.idx) none false (dmDst r.bytes + r.written) data)] := by
  unfold State.rowSent
  rw [State.txq_sendOn_up, State.link_addFld, State.link_setFld, State.link_setRun, State.link_setFld]
  rw [State.addFld, State.linkUp_setFld, State.linkUp_setFld, State.linkUp_setRun, State.linkUp_setFld, hup]
  all_goals
    simp only [Fld.key, F.dmaChCrc, F.dmaChDst, F.dmaChBytes]
    omega

theorem State.crc_rowSent (i : Nat) (data : List Byte) :
    (s.rowSent c i r data).fld (F.dmaChCrc (c / 64) (c % 64)) =
      crcMore (dmCrc r.bytes) (s.fld (F.dmaChCrc (c / 64) (c % 64))) data % 2 ^ 64 := by
  unfold State.rowSent
  rw [State.fld_sendOn, State.fld_addFld_ne, State.fld_setFld_ne, State.fld_setRun, State.fld_setFld]
  · rfl
  all_goals
    simp only [Fld.key, F.dmaChCrc, F.dmaChDst, F.dmaChBytes]
    omega

/-- The oldest beat's row goes out at DST plus the bytes written (R319, R323, R327). -/
theorem State.dmaPump_row {data : List Byte} {i : Nat} (hc : c < 512) (hrun : (s.chan c).run = some r)
    (hout : r.out = o :: more) (hlost : o.lost = false) (hdata : o.data = some data) (hgap : r.gap = false)
    (holink : o.link = some i) (hcarry : r.carry = []) (hrows : WholeRows r.bytes) (hlen : data.length = 256)
    (haligned : r.written % 256 = 0) (hroom : r.written + 256 ≤ dmLen r.bytes)
    (hpackage : addrSpace (dmDst r.bytes + r.written) = 0) (hlink : r.link = some i) (hup : s.linkUp i = true) (n : Nat) :
    s.dmaPump c (n + 1) = (s.rowSent c i { r with out := more } data).dmaPump c n := by
  have hup' : ((s.setFld (F.dmaChCrc (c / 64) (c % 64)) (crcMore (dmCrc r.bytes)
      (s.fld (F.dmaChCrc (c / 64) (c % 64))) data)).setRun c { r with out := more, carry := [] }).linkUp i = true := by
    rw [State.linkUp_setRun, State.linkUp_setFld, hup]
    simp only [Fld.key, F.dmaChCrc]
    omega
  rw [State.dmaPump_data hrun hout hlost hdata hgap holink, hcarry, List.nil_append,
    State.dmaFlush_row (r := { r with out := more, carry := data }) (State.run_setRun _ _ _) hrows hlen haligned hroom,
    State.setRun_setRun]
  dsimp only
  rw [State.dmaWrite_package (r := { r with out := more, carry := [] }) (State.run_setRun _ _ _) hrows.dstMoves hpackage
    hlink hup' hc, State.setRun_setRun, hlen, State.dmaFlush_waits]
  · rfl
  · exact State.run_rowSent (r := { r with out := more }) i data
  · rfl

/-! ### DMA_READ_RETURN (R319, R327) -/

theorem State.dmaReturned_oldest (hrun : (s.chan c).run = some r) (hout : r.out = o :: more) {i : Nat}
    (hlink : o.link = some i) (hdata : o.data = none) (hlost : o.lost = false) (hothers : ∀ m ∈ more, m.beat ≠ o.beat)
    (row : List Byte) :
    s.dmaReturned c none none row = (((s.setRun c { r with
      out := { o with data := some (dmTake r.bytes o.beat row) } :: more }).dmaPump c 257).dmaAdvance c).unitWork := by
  unfold State.dmaReturned
  rw [hrun]
  dsimp only
  rw [hout, List.find?_cons_of_pos (by simp [hlink, hdata, hlost])]
  dsimp only
  rw [List.map_cons, if_pos rfl, map_other_beats hothers]
  rfl

/-- The row of the oldest read goes to package memory, and the reads behind it wait. -/
theorem State.dmaReturned_row {i : Nat} (hc : c < 512) (hrun : (s.chan c).run = some r) (hok : r.failed = none)
    (hgap : r.gap = false) (hlive : r.sbLive = []) (hcarry : r.carry = []) (hrows : WholeRows r.bytes)
    (hout : r.out = o :: more) (holink : o.link = some i) (hdata : o.data = none) (hlost : o.lost = false)
    (hothers : ∀ m ∈ more, m.beat ≠ o.beat) (hwait : ∀ m, more.head? = some m → m.data = none ∧ m.lost = false)
    (hbeat : o.beat * 256 = r.written) (hroom : r.written + 256 ≤ dmLen r.bytes) (hmoving : r.beat < dmBeats r.bytes)
    (hfrom : addrSpace (dmDst r.bytes) = 0) (hto : addrSpace (dmDst r.bytes + dmLen r.bytes) = 0) (hlink : r.link = some i)
    (hup : s.linkUp i = true) (row : List Byte) :
    s.dmaReturned c none none row = (((s.setRun c { r with
      out := { o with data := some (slice row 0 256) } :: more }).rowSent c i { r with out := more } (slice row 0 256)).setRun c
        { r with out := more, written := r.written + 256, carry := [] }).unitWork := by
  have hpackage : addrSpace (dmDst r.bytes + r.written) = 0 :=
    addrSpace_within (dmLen_lt _) (by omega) hfrom hto
  rw [State.dmaReturned_oldest hrun hout holink hdata hlost hothers, hrows.take (by omega),
    State.dmaPump_row (r := { r with out := { o with data := some (slice row 0 256) } :: more }) hc
      (State.run_setRun _ _ _) rfl hlost rfl hgap holink hcarry hrows (slice_length _ _ _) (by dsimp only; omega) hroom hpackage
      hlink hup]
  dsimp only
  rw [State.dmaPump_waits (State.run_rowSent (r := { r with out := more }) i _) hwait,
    State.dmaAdvance_moving (State.run_rowSent (r := { r with out := more }) i _) hok hlive (.inl hmoving)]

end

section
variable {s : State} {e : EngNo} {j : ChanNo} {r : DmaRun} {o : DmaOut} {more : List DmaOut} {i : LinkNo}

theorem readReturn_writesRow (hbops : s.bops = []) (hrun : (s.chan (e.val * 64 + j.val)).run = some r)
    (hok : r.failed = none) (hgap : r.gap = false) (hlive : r.sbLive = []) (hcarry : r.carry = []) (hrows : WholeRows r.bytes)
    (hout : r.out = o :: more) (holink : o.link = some i.val) (hdata : o.data = none) (hlost : o.lost = false)
    (hothers : ∀ m ∈ more, m.beat ≠ o.beat) (hwait : ∀ m, more.head? = some m → m.data = none ∧ m.lost = false)
    (hbeat : o.beat * 256 = r.written) (hroom : r.written + 256 ≤ dmLen r.bytes) (hmoving : r.beat < dmBeats r.bytes)
    (hfrom : addrSpace (dmDst r.bytes) = 0) (hto : addrSpace (dmDst r.bytes + dmLen r.bytes) = 0)
    (hlink : r.link = some i.val) (hup : s.linkUp i.val = true) (row : List Byte) :
    Answers (.dmaReadReturn e j row) s fun t =>
      (t.link i.val).txq = (s.link i.val).txq ++
        [(0, .write (dmTagOf (e.val * 64 + j.val) r.idx) none false (dmDst r.bytes + r.written) (slice row 0 256))] ∧
      (t.chan (e.val * 64 + j.val)).run = some { r with out := more, written := r.written + 256, carry := [] } ∧
      t.fld (F.dmaChCrc e.val j.val) =
        crcMore (dmCrc r.bytes) (s.fld (F.dmaChCrc e.val j.val)) (slice row 0 256) % 2 ^ 64 ∧ t.mem = s.mem := by
  have hc : e.val * 64 + j.val < 512 := by omega
  refine .of_unitWork (congrArg Host.Outcome.next (State.dmaReturned_row hc hrun hok hgap hlive hcarry hrows hout holink hdata
    hlost hothers hwait hbeat hroom hmoving hfrom hto hlink hup row)) rfl ?_ ⟨?_, ?_, ?_, ?_⟩
  · rw [State.setRun_bops, State.rowSent_bops, State.setRun_bops, hbops]
  · rw [State.link_setRun, State.txq_rowSent hc ((s.linkUp_setRun _ _ _).trans hup), State.link_setRun]
  · exact State.run_setRun _ _ _
  · have hcrc : F.dmaChCrc e.val j.val =
      F.dmaChCrc ((e.val * 64 + j.val) / 64) ((e.val * 64 + j.val) % 64) := by rw [chan_div, chan_mod]
    rw [State.fld_setRun, hcrc, State.crc_rowSent, State.fld_setRun]
  · rw [State.setRun_mem, State.rowSent_mem, State.setRun_mem]

end

/-! ### DMA_BEAT_REJECT (R332 to R334) -/

/-- A transfer's state once a rejected beat of it is read again. -/
def State.beatAgain (s : State) (c i : Nat) (r : DmaRun) (o : DmaOut) (more : List DmaOut) : State :=
  (((s.setRun c { r with out := { o with tries := o.tries + 1 } :: more, retries := r.retries + 1 }).addFld
    (F.dmaChRetryCnt (c / 64) (c % 64)) 1).setFld (F.dmaChStatusRetries (c / 64) (c % 64)) (min (r.retries + 1) 7)).sendOn i 1
      (.read (dmTagOf c r.idx) (dmRead r.bytes o.beat).1 (dmRead r.bytes o.beat).2)

/-- A failed descriptor whose oldest beat was lost. -/
def DmaRun.beatLost (r : DmaRun) (more : List DmaOut) (status fault : Nat) : DmaRun :=
  { r.failing status fault none false with out := more, gap := true, carry := [] }

section
variable {s : State} {c : Nat} {r : DmaRun} {o : DmaOut} {more : List DmaOut} {i : Nat}

theorem State.run_beatAgain (s : State) : ((s.beatAgain c i r o more).chan c).run =
    some { r with out := { o with tries := o.tries + 1 } :: more, retries := r.retries + 1 } := by
  unfold State.beatAgain
  rw [State.chan_sendOn, State.chan_setFld, State.chan_addFld, State.run_setRun]

theorem State.beatAgain_mem : (s.beatAgain c i r o more).mem = s.mem := by
  unfold State.beatAgain
  rw [State.sendOn_mem, State.setFld_mem, State.addFld_mem, State.setRun_mem]

theorem State.txq_beatAgain (hc : c < 512) (hrows : WholeRows r.bytes) (hup : s.linkUp i = true) :
    ((s.beatAgain c i r o more).link i).txq =
      (s.link i).txq ++ [(1, .read (dmTagOf c r.idx) (dmSrc r.bytes + 256 * o.beat) 256)] := by
  unfold State.beatAgain
  rw [State.txq_sendOn_up, State.link_setFld, State.link_addFld, State.link_setRun, hrows.read]
  rw [State.linkUp_setFld, State.addFld, State.linkUp_setFld, State.linkUp_setRun, hup]
  all_goals
    simp only [Fld.key, F.dmaChRetryCnt, F.dmaChStatusRetries]
    omega

theorem State.retryCnt_beatAgain : (s.beatAgain c i r o more).fld (F.dmaChRetryCnt (c / 64) (c % 64)) =
    (s.fld (F.dmaChRetryCnt (c / 64) (c % 64)) + 1) % 2 ^ 32 := by
  unfold State.beatAgain
  rw [State.fld_sendOn, State.fld_setFld_ne, State.fld_addFld, State.fld_setRun]
  · rfl
  · simp only [Fld.key, F.dmaChRetryCnt, F.dmaChStatusRetries]
    omega

theorem State.dmaRejected_retried (hrun : (s.chan c).run = some r) (hok : r.failed = none) (hout : r.out = o :: more)
    (hlink : o.link = some i) (hdata : o.data = none) (hlost : o.lost = false) (hothers : ∀ m ∈ more, m.beat ≠ o.beat)
    (htries : o.tries < s.fld (F.dmaChCtlRetryLimit (c / 64) (c % 64))) (fault : Nat) (up : Bool) :
    s.dmaRejected c stBusy (some i) none fault up = s.beatAgain c i r o more := by
  unfold State.dmaRejected
  rw [hrun]
  dsimp only
  rw [hout, List.find?_cons_of_pos (by simp [hlink, hdata, hlost])]
  dsimp only
  rw [hlink]
  dsimp only
  rw [if_pos ⟨by simp [hok], htries⟩, List.map_cons, if_pos rfl, map_other_beats hothers, ← hlink]
  rfl

/-- A rejection that is not retried loses the beat and is the descriptor's failure; the reads behind it stay on their way. -/
theorem State.dmaRejected_fails {status fault : Nat} (hrun : (s.chan c).run = some r) (hok : r.failed = none)
    (hstep : r.step < 2) (hlive : r.sbLive = []) (hcarry : r.carry = []) (hdst : addrSpace (dmDst r.bytes) = 0)
    (hout : r.out = o :: more) (hlink : o.link = some i) (hdata : o.data = none) (hlost : o.lost = false)
    (hothers : ∀ m ∈ more, m.beat ≠ o.beat) (hwait : ∀ m, more.head? = some m → m.data = none ∧ m.lost = false)
    (hmore : more ≠ []) (hbusy : status ≠ stBusy) (hfault : status ≠ stHwFault) (up : Bool) :
    s.dmaRejected c status (some i) none fault up = (s.setRun c (r.beatLost more status fault)).unitWork := by
  have hquiet : ¬ (s.setRun c (r.beatLost more status fault)).dmaQuiet c (r.beatLost more status fault) = true := by
    simp [State.dmaQuiet, DmaRun.beatLost, hmore]
  have hretry : (decide (status = stBusy ∨ (status = stHwFault ∧ up = true)) && r.failed.isNone) = false := by
    simp [hbusy, hfault]
  unfold State.dmaRejected
  rw [hrun]
  dsimp only
  rw [hout, List.find?_cons_of_pos (by simp [hlink, hdata, hlost])]
  dsimp only
  rw [hlink]
  dsimp only
  rw [hretry, if_neg (by simp), State.dmaLose_eq hrun, hout, List.map_cons, if_pos rfl, map_lost_beats hothers,
    State.dmaFail_eq (r := { r with out := { o with lost := true } :: more }) (State.run_setRun _ _ _) hok hlive,
    State.setRun_setRun, State.dmaPump_lost (r := DmaRun.failing { r with out := { o with lost := true } :: more } status
      fault none false) (State.run_setRun _ _ _) rfl rfl hcarry, State.setRun_setRun]
  show (((s.setRun c (r.beatLost more status fault)).dmaPump c 256).dmaAdvance c).unitWork = _
  rw [State.dmaPump_waits (State.run_setRun _ _ _) hwait,
    State.dmaAdvance_failed (r := r.beatLost more status fault) (State.run_setRun _ _ _) hstep rfl rfl hdst,
    if_neg hquiet, State.setRun_setRun]

end

section
variable {s : State} {e : EngNo} {j : ChanNo} {r : DmaRun} {o : DmaOut} {more : List DmaOut} {i : LinkNo}

theorem beatReject_readsAgain (hrun : (s.chan (e.val * 64 + j.val)).run = some r)
    (hok : r.failed = none) (hrows : WholeRows r.bytes) (hout : r.out = o :: more) (hlink : o.link = some i.val)
    (hdata : o.data = none) (hlost : o.lost = false) (hothers : ∀ m ∈ more, m.beat ≠ o.beat)
    (htries : o.tries < s.fld (F.dmaChCtlRetryLimit e.val j.val)) (hup : s.linkUp i.val = true) (tag : BitVec 16) :
    Answers (.dmaBeatReject e j 0x20 (some i) tag true) s fun t =>
      (t.link i.val).txq = (s.link i.val).txq ++
        [(1, .read (dmTagOf (e.val * 64 + j.val) r.idx) (dmSrc r.bytes + 256 * o.beat) 256)] ∧
      (t.chan (e.val * 64 + j.val)).run =
        some { r with out := { o with tries := o.tries + 1 } :: more, retries := r.retries + 1 } ∧
      t.fld (F.dmaChRetryCnt e.val j.val) = (s.fld (F.dmaChRetryCnt e.val j.val) + 1) % 2 ^ 32 ∧ t.mem = s.mem := by
  have hchan : F.dmaChRetryCnt e.val j.val =
    F.dmaChRetryCnt ((e.val * 64 + j.val) / 64) ((e.val * 64 + j.val) % 64) := by rw [chan_div, chan_mod]
  refine .intro (congrArg Host.Outcome.next (State.dmaRejected_retried hrun hok hout hlink hdata hlost hothers
    (by rw [chan_div, chan_mod]; exact htries) _ true)) ⟨?_, ?_, ?_, ?_⟩
  · exact State.txq_beatAgain (by omega) hrows hup
  · exact State.run_beatAgain s
  · rw [hchan, State.retryCnt_beatAgain]
  · exact State.beatAgain_mem

theorem beatReject_failsDescriptor (hbops : s.bops = []) (hrun : (s.chan (e.val * 64 + j.val)).run = some r)
    (hok : r.failed = none) (hstep : r.step < 2) (hlive : r.sbLive = []) (hcarry : r.carry = [])
    (hdst : addrSpace (dmDst r.bytes) = 0) (hout : r.out = o :: more) (hlink : o.link = some i.val)
    (hdata : o.data = none) (hlost : o.lost = false) (hothers : ∀ m ∈ more, m.beat ≠ o.beat)
    (hwait : ∀ m, more.head? = some m → m.data = none ∧ m.lost = false) (hmore : more ≠ []) {status : Byte}
    (hbusy : status ≠ 0x20) (hfault : status ≠ 0x40) (tag : BitVec 16) :
    Answers (.dmaBeatReject e j status (some i) tag true) s fun t => t.mem = s.mem ∧ t.links = s.links ∧
      (t.chan (e.val * 64 + j.val)).run = some (r.beatLost more status.toNat (i.val * 2 ^ 24 + tag.toNat)) := by
  have hbusy' : status.toNat ≠ stBusy := fun h => hbusy (BitVec.eq_of_toNat_eq h)
  have hfault' : status.toNat ≠ stHwFault := fun h => hfault (BitVec.eq_of_toNat_eq h)
  refine .of_unitWork (congrArg Host.Outcome.next (State.dmaRejected_fails hrun hok hstep hlive hcarry hdst hout hlink hdata
    hlost hothers hwait hmore hbusy' hfault' true)) rfl ?_ ⟨?_, ?_, ?_⟩
  · rw [State.setRun_bops, hbops]
  · rw [State.setRun_mem]
  · rw [State.setRun_links]
  · exact State.run_setRun _ _ _

end

end Sys2Proof.Machine
end

section
/-! The next beat of a DMA transfer: its grant, its request and the mesh it enters (R285, R317 to R319). It settles O30. -/

namespace Sys2Proof.Machine

/-! ### A read that enters the mesh (R285) -/

/-- From s to t a read rd of physical core p has entered the mesh at clump i, whose router had no open row: it stands in the
core's read queue if the core is of that clump, and else is the router's open row. -/
structure ReadEnters (s t : State) (i p : Nat) (rd : InRead) : Prop where
  chans : t.chans = s.chans
  regs : t.regs = s.regs
  mem : t.mem = s.mem
  bops : t.bops = s.bops
  place : if p / 4 = i then (t.core p).readq = (s.core p).readq ++ [rd] ∧ (t.router i).opens = []
    else (t.core p).readq = (s.core p).readq ∧
      (t.router i).opens = [{ from_ := 0, home := none, dest := p / 4, load := .read p rd }]

section
variable {s : State} {i p : Nat} {rd : InRead}

theorem State.deliverLoad_read (hroom : (s.core p).readq.length < 8) : s.deliverLoad (.read p rd) =
    some (.inl (s.setCore p { s.core p with readq := (s.core p).readq ++ [rd] })) := by
  unfold State.deliverLoad
  exact if_pos hroom

/-- A read of a core here enters the core's queue at once. -/
theorem State.sendRow_readHere {o : OpenRow} (hopens : (s.router i).opens = []) (hdest : o.dest = i) (hload : o.load = .read p rd)
    (hroom : (s.core p).readq.length < 8) :
    ∃ r, r.opens = [] ∧ s.sendRow i o = ((s.setRouter i { s.router i with opens := [o] }).setCore p
      { s.core p with readq := (s.core p).readq ++ [rd] }).setRouter i r := by
  have hpass : ∀ u : State, u.core p = s.core p →
      u.deliverPass i [] [o] = (u.setCore p { s.core p with readq := (s.core p).readq ++ [rd] }, []) := by
    intro u hcore
    unfold State.deliverPass
    rw [if_neg (by simp [hdest]), hload, State.deliverLoad_read (by rw [hcore]; exact hroom), hcore]
    rfl
  have hadmit : ∀ u : State, u.admitRows i [] [o] = [o] := by
    intro u
    unfold State.admitRows
    rw [hload]
    rfl
  unfold State.sendRow State.settleRouter
  dsimp only
  rw [State.router_setRouter, hopens, List.nil_append, if_pos (by simp [hdest]), hadmit, hpass _ (State.core_setRouter s i _ p)]
  exact ⟨_, rfl, rfl⟩

theorem ReadEnters.sendRow (hopens : (s.router i).opens = []) (hroom : (s.core p).readq.length < 8) (rd : InRead) :
    ReadEnters s (s.sendRow i { from_ := 0, home := none, dest := p / 4, load := .read p rd }) i p rd := by
  by_cases hhere : p / 4 = i
  · obtain ⟨r, hempty, hsent⟩ := State.sendRow_readHere (o := ⟨0, none, p / 4, .read p rd⟩) hopens hhere rfl hroom
    rw [hsent]
    refine ⟨rfl, rfl, rfl, rfl, ?_⟩
    rw [if_pos hhere, State.core_setRouter, State.core_setCore, State.router_setRouter]
    exact ⟨rfl, hempty⟩
  · rw [State.sendRow_away hopens hhere]
    refine ⟨rfl, rfl, rfl, rfl, ?_⟩
    rw [if_neg hhere, State.core_setRouter, State.router_setRouter]
    exact ⟨rfl, rfl⟩

end

/-! ### The request of a beat (R317, R326) -/

/-- A channel whose registers count the bytes that a descriptor has read, and its engine's a beat more. -/
def State.beatCounted (s : State) (c : Nat) (b : List Byte) (done : Nat) : State :=
  ((s.setFld (F.dmaChSrc (c / 64) (c % 64)) (dmSrc b + done)).setFld (F.dmaChRemain (c / 64) (c % 64)) (dmLen b - done)).addFld
    (F.dmaEngBeats (c / 64)) 1

/-- A descriptor whose next beat is read in this die. -/
def DmaRun.issued (r : DmaRun) : DmaRun :=
  { r with beat := r.beat + 1, out := r.out ++ [{ beat := r.beat, link := none }], rest := false }

/-- The row read of a descriptor's next beat. -/
def DmaRun.rowRead (r : DmaRun) (c seq : Nat) : InRead :=
  { seq, off := addrOff (dmSrc r.bytes + 256 * r.beat) % coreBytes, len := 256, dest := .dma c r.beat }

/-- A state whose channel c has issued its next beat, before the read enters the mesh. -/
def State.beatIssued (s : State) (c : Nat) (r : DmaRun) : State :=
  { (s.beatCounted c r.bytes ((dmPart r.bytes r.beat).1 + (dmPart r.bytes r.beat).2)).setRun c r.issued with
    inSeq := s.inSeq + 1 }

section
variable {s : State} {c : Nat} {b : List Byte} {done : Nat}

/-- The registers of a channel and its engine stand apart from the die's records and the power states. -/
theorem State.fld_beatCounted_of_key {g : Fld} (hg : g.key < 0xA0000 * 32 ∨ g.key % 32 ≠ 0) :
    (s.beatCounted c b done).fld g = s.fld g := by
  unfold State.beatCounted
  rw [State.fld_addFld_ne, State.fld_setFld_ne, State.fld_setFld_ne]
  all_goals
    simp only [Fld.key, F.dmaChSrc, F.dmaChRemain, F.dmaEngBeats] at hg ⊢
    omega

theorem State.engBeats_beatCounted :
    (s.beatCounted c b done).fld (F.dmaEngBeats (c / 64)) = (s.fld (F.dmaEngBeats (c / 64)) + 1) % 2 ^ 64 := by
  unfold State.beatCounted
  rw [State.fld_addFld, State.fld_setFld_ne, State.fld_setFld_ne]
  · rfl
  all_goals
    simp only [Fld.key, F.dmaChSrc, F.dmaChRemain, F.dmaEngBeats]
    omega

theorem State.isLocal_beatCounted (a : Nat) : (s.beatCounted c b done).isLocal a = s.isLocal a := by
  unfold State.isLocal
  rw [State.dieNo_congr] <;> exact State.fld_beatCounted_of_key (.inl (by decide))

theorem State.coreMap_beatCounted : (s.beatCounted c b done).coreMap = s.coreMap := by
  unfold State.coreMap
  rw [State.fld_beatCounted_of_key (.inl (by decide)), State.fld_beatCounted_of_key (.inl (by decide)),
    State.fld_beatCounted_of_key (.inl (by decide))]

theorem State.phys_beatCounted (l : Nat) : (s.beatCounted c b done).phys l = s.phys l := by
  unfold State.phys
  rw [State.coreMap_beatCounted]

theorem State.power_beatCounted (p : Nat) : (s.beatCounted c b done).power p = s.power p := by
  refine State.power_congr (fun k hk => State.fld_beatCounted_of_key (.inl ?_))
    (fun l => State.fld_beatCounted_of_key (.inr ?_)) p
  all_goals
    simp only [Fld.key, F.evgCoreMap, F.pwrCoreStatusState]
    omega

theorem State.fencedCore_beatCounted {p : Nat} (hp : p < 96) : (s.beatCounted c b done).fencedCore p = s.fencedCore p := by
  unfold State.fencedCore
  rw [State.fld_beatCounted_of_key (.inl _)]
  simp only [Fld.key, F.evgFenced]
  omega

end

section
variable {s : State} {c : Nat} {r : DmaRun}

theorem State.core_beatIssued (p : Nat) : (s.beatIssued c r).core p = s.core p := by
  unfold State.beatIssued State.core
  rfl

theorem State.router_beatIssued (i : Nat) : (s.beatIssued c r).router i = s.router i := by
  unfold State.beatIssued State.router
  rfl

theorem State.beatIssued_chans : (s.beatIssued c r).chans = (s.setRun c r.issued).chans := by
  unfold State.beatIssued
  rfl

theorem State.beatIssued_mem : (s.beatIssued c r).mem = s.mem := by
  unfold State.beatIssued
  rfl

theorem State.beatIssued_bops : (s.beatIssued c r).bops = s.bops := by
  unfold State.beatIssued
  rfl

theorem State.beatIssued_regs : (s.beatIssued c r).regs =
    (s.beatCounted c r.bytes ((dmPart r.bytes r.beat).1 + (dmPart r.bytes r.beat).2)).regs := by
  unfold State.beatIssued
  rfl

theorem State.engBeats_beatIssued :
    (s.beatIssued c r).fld (F.dmaEngBeats (c / 64)) = (s.fld (F.dmaEngBeats (c / 64)) + 1) % 2 ^ 64 := by
  rw [← State.engBeats_beatCounted]
  unfold State.fld
  rw [State.beatIssued_regs]

end

theorem State.phys_lt {s : State} {l p : Nat} (h : s.phys l = some p) : p < 96 :=
  (mem_bitsOf.mp (List.mem_of_getElem? h)).1

section
variable {s : State} {c : Nat} {r : DmaRun}

theorem State.dmaIssue_local {i p : Nat} (hrun : (s.chan c).run = some r) (hrows : WholeRows r.bytes)
    (hlink : r.link = some i) (hi : i < 24) (hdst : addrSpace (dmDst r.bytes) = 0)
    (hlocal : s.isLocal (dmSrc r.bytes + 256 * r.beat) = true)
    (hphys : s.phys (addrOff (dmSrc r.bytes + 256 * r.beat) / coreBytes) = some p) (hpower : s.power p = pwLeaf)
    (hfenced : s.fencedCore p = false) :
    s.dmaIssue c = (s.beatIssued c r).sendRow i
      { from_ := 0, home := none, dest := p / 4, load := .read p (r.rowRead c s.inSeq) } := by
  have hmeet : ∀ u : State, u.power p = s.power p → u.fencedCore p = s.fencedCore p → u.meetCore p = .ok u := by
    intro u hup huf
    have hleaf : ¬ (pwLeaf = pwBare ∧ ¬ u.bit (F.spdRetainAutoWake p) = true) := fun h => absurd h.1 (by decide)
    unfold State.meetCore
    rw [hup, huf, hpower, hfenced, if_neg Bool.false_ne_true, if_neg hleaf, if_pos (.inl rfl)]
  have hclump : adapterClump i = i := if_pos hi
  unfold State.dmaIssue
  rw [hrun]
  dsimp only
  rw [hrows.srcMoves, if_neg Bool.false_ne_true, hrows.read, ← State.beatCounted]
  dsimp only
  rw [State.isLocal_beatCounted, hlocal, if_pos rfl, State.phys_beatCounted, hphys]
  dsimp only
  rw [hmeet _ (State.power_beatCounted p) (State.fencedCore_beatCounted (State.phys_lt hphys)), hlink]
  dsimp only
  rw [State.isLocal_of_package _ hdst, if_neg Bool.false_ne_true, Option.getD_some, hclump, hrows.funnel, ← hlink]
  rfl

end

/-! ### The beats that an engine grants (R317, R318) -/

/-- The one channel that can be granted heads the round-robin order from any start. -/
theorem roundRobin_head {P : Nat → Bool} {j : Nat} (hj : j < 64) (hP : ∀ m < 64, P m = true ↔ m = j) (last : Nat) :
    ∃ more, (((List.range 64).map fun k => (last + 1 + k) % 64).filter P) = j :: more := by
  have hmem : j ∈ ((List.range 64).map fun k => (last + 1 + k) % 64).filter P :=
    List.mem_filter.mpr ⟨List.mem_map.mpr ⟨(j + 64 - (last + 1) % 64) % 64, List.mem_range.mpr (by omega), by omega⟩,
      (hP j hj).mpr rfl⟩
  cases hl : ((List.range 64).map fun k => (last + 1 + k) % 64).filter P with
  | nil => rw [hl] at hmem; cases hmem
  | cons m more =>
    have hm : m ∈ ((List.range 64).map fun k => (last + 1 + k) % 64).filter P := by rw [hl]; exact List.mem_cons_self
    obtain ⟨hrange, hPm⟩ := List.mem_filter.mp hm
    obtain ⟨k, -, rfl⟩ := List.mem_map.mp hrange
    rw [(hP _ (Nat.mod_lt _ (by decide))).mp hPm]
    exact ⟨more, rfl⟩

theorem roundRobin_nil {P : Nat → Bool} (hP : ∀ m < 64, P m = false) (last : Nat) :
    (((List.range 64).map fun k => (last + 1 + k) % 64).filter P) = [] := by
  refine List.filter_eq_nil_iff.mpr fun m hm => ?_
  obtain ⟨k, -, rfl⟩ := List.mem_map.mp hm
  rw [hP _ (Nat.mod_lt _ (by decide))]
  exact Bool.false_ne_true

section
variable {s : State} {e j : Nat}

/-- An engine grants no more beats if every channel that could issue one has been granted. -/
theorem State.dmaGrant_eq_self {used : List Nat}
    (hidle : ∀ m < 64, used.contains m = true ∨ s.dmaReady (e * 64 + m) (s.dmaBuffered e) = false) (fuel pr n : Nat) :
    s.dmaGrant e fuel pr n used = (s, used) := by
  induction fuel generalizing pr n with
  | zero => cases n <;> rfl
  | succ fuel ih =>
    cases n with
    | zero => rfl
    | succ n =>
      unfold State.dmaGrant
      dsimp only
      rw [roundRobin_nil]
      · dsimp only
        rw [ih, ite_self]
      · intro m hm
        rcases hidle m hm with h | h
        · rw [h, Bool.not_true, Bool.and_false, Bool.false_and]
        · rw [h, Bool.and_false]

/-- An engine whose one channel with work can issue a beat grants it. -/
theorem State.dmaGrant_one {t : State} {r : DmaRun} (hj : j < 64)
    (hready : s.dmaReady (e * 64 + j) (s.dmaBuffered e) = true)
    (hothers : ∀ m < 64, m ≠ j → s.dmaReady (e * 64 + m) (s.dmaBuffered e) = false)
    (hissue : ({ s with lastGrant := tins s.lastGrant (e * 4 + s.fld (F.dmaChStatusPriority e j)) j }).dmaIssue (e * 64 + j) = t)
    (hrun : (t.chan (e * 64 + j)).run = some r) (hok : r.failed = none)
    (hidle : ∀ m < 64, m ≠ j → t.dmaReady (e * 64 + m) (t.dmaBuffered e) = false) (fuel pr n : Nat)
    (hpr : s.fld (F.dmaChStatusPriority e j) ≤ pr) (hfuel : pr < fuel + s.fld (F.dmaChStatusPriority e j)) :
    s.dmaGrant e fuel pr (n + 1) [] = (t, [j]) := by
  induction fuel generalizing pr with
  | zero => omega
  | succ fuel ih =>
    unfold State.dmaGrant
    dsimp only
    by_cases hturn : s.fld (F.dmaChStatusPriority e j) = pr
    · have hP : ∀ m < 64, (s.fld (F.dmaChStatusPriority e m) == pr && !([] : List Nat).contains m &&
          s.dmaReady (e * 64 + m) (s.dmaBuffered e)) = true ↔ m = j := by
        intro m hm
        by_cases h : m = j
        · simp [h, hturn, hready]
        · simp [h, hothers m hm h]
      obtain ⟨more, hhead⟩ := roundRobin_head hj hP ((tfind s.lastGrant (e * 4 + pr)).getD 63)
      subst hturn
      rw [hhead]
      dsimp only
      rw [hissue, hrun]
      dsimp only
      rw [hok, if_neg (by simp), List.nil_append]
      refine State.dmaGrant_eq_self (fun m hm => ?_) _ _ _
      by_cases h : m = j
      · exact .inl (by simp [h])
      · exact .inr (hidle m hm h)
    · rw [roundRobin_nil]
      · dsimp only
        rw [if_neg (by omega)]
        exact ih (pr - 1) (by omega) (by omega)
      · intro m hm
        by_cases h : m = j
        · simp [h, hturn]
        · rw [hothers m hm h, Bool.and_false]

end

/-! ### The only channel with work -/

section
variable {s : State} {c d : Nat} {x : ChanSt} {r : DmaRun}

theorem State.chan_only (hchans : s.chans = [(c, x)]) : s.chan c = x := by
  unfold State.chan
  rw [hchans]
  exact if_pos rfl

theorem State.chan_other (hchans : s.chans = [(c, x)]) (hd : d ≠ c) : s.chan d = {} := by
  unfold State.chan
  rw [hchans]
  exact if_neg hd

theorem State.dmaReady_other (hchans : s.chans = [(c, x)]) (hd : d ≠ c) (n : Nat) : s.dmaReady d n = false := by
  unfold State.dmaReady
  rw [State.chan_other hchans hd]

theorem State.setRun_only (hchans : s.chans = [(c, x)]) (r : DmaRun) :
    (s.setRun c r).chans = [(c, { x with run := some r })] := by
  unfold State.setRun State.setChan
  rw [State.chan_only hchans, hchans]
  simp [tset, tins]

/-- A channel that waits for no read of its own and no binder can issue its next beat (R317, R319). -/
theorem State.dmaReady_only {e : Nat} (hchans : s.chans = [(c, x)]) (hrun : x.run = some r) (hout : r.out = [])
    (hactive : s.chState c = chActive) (hok : r.failed = none) (hbeat : r.beat < dmBeats r.bytes) (hpend : r.sbPend = [])
    (hrest : r.rest = false) (hheld : ∀ y ∈ s.links, y.2.bheld = []) (he : c / 64 = e) :
    s.dmaReady c (s.dmaBuffered e) = true := by
  have hbuffered : s.dmaBuffered e = 0 := by
    unfold State.dmaBuffered
    simp [hchans, he, hrun, hout]
  have hbinders : (s.links.any fun l => l.2.bheld.any fun m => m.froms.any fun o => o == .dma c) = false := by
    refine List.any_eq_false.mpr fun y hy => ?_
    rw [hheld y hy]
    exact Bool.false_ne_true
  unfold State.dmaReady
  rw [State.chan_only hchans, hrun, hbinders, hbuffered, hactive]
  simp [hok, hbeat, hout, hpend, hrest]

end

/-! ### DMA_BEAT_ISSUE -/

section
variable {s : State} {e : EngNo} {j : ChanNo} {x : ChanSt} {r : DmaRun}

/-- The channels of an engine move on after its grants: one that waits for its reads stays. -/
theorem State.dmaAdvanceAll_only (hchans : s.chans = [(e.val * 64 + j.val, x)]) (hrun : x.run = some r)
    (hok : r.failed = none) (hlive : r.sbLive = []) (hout : r.out ≠ [])
    (hwait : ∀ m, r.out.head? = some m → m.data = none ∧ m.lost = false) :
    s.dmaAdvanceAll e.val = s.setRun (e.val * 64 + j.val) r := by
  have hrun' : (s.chan (e.val * 64 + j.val)).run = some r := by rw [State.chan_only hchans, hrun]
  have hmine : ((s.chans.map (·.1)).filter fun c => c / 64 == e.val) = [e.val * 64 + j.val] := by
    rw [hchans]
    simp [chan_div]
  unfold State.dmaAdvanceAll
  rw [hmine, List.foldl_cons, List.foldl_nil, State.dmaPump_waits hrun' hwait,
    State.dmaAdvance_moving hrun' hok hlive (.inr hout)]

/-- The command's steps around the grants leave a state whose only channel with work was granted. -/
theorem exec_dmaBeatIssue_only {t : State} {y : ChanSt} {r' : DmaRun} (hclocks : s.clocksOff = false)
    (hchans : s.chans = [(e.val * 64 + j.val, x)]) (hrun : x.run = some r) (hpend : r.sbPend = []) (hrest : r.rest = false)
    (hgrant : s.dmaGrant e.val 8 3 4 [] = (t, [j.val])) (htchans : t.chans = [(e.val * 64 + j.val, y)])
    (htrun : y.run = some r') (hok : r'.failed = none) (hlive : r'.sbLive = []) (hout : r'.out ≠ [])
    (hwait : ∀ m, r'.out.head? = some m → m.data = none ∧ m.lost = false) :
    exec (.dmaBeatIssue e) s = .next (t.setRun (e.val * 64 + j.val) r').unitWork := by
  have hrun' : (s.chan (e.val * 64 + j.val)).run = some r := by rw [State.chan_only hchans, hrun]
  have hmine : ((s.chans.map (·.1)).filter fun c => c / 64 == e.val) = [e.val * 64 + j.val] := by
    rw [hchans]
    simp [chan_div]
  have henter : s.dmaEnter (e.val * 64 + j.val) = s := State.dmaEnter_eq_self fun q hq => by
    rw [hrun', Option.some.injEq] at hq
    rw [← hq, hpend]
  have hleft : (((List.range 64).filter fun m => s.dmaReady (e.val * 64 + m) (s.dmaBuffered e.val)).filter fun m =>
      !([j.val] : List Nat).contains m) = [] := by
    refine List.filter_eq_nil_iff.mpr fun m hm => ?_
    obtain ⟨-, hready⟩ := List.mem_filter.mp hm
    by_cases h : m = j.val
    · simp [h]
    · rw [State.dmaReady_other hchans (by omega)] at hready
      cases hready
  show execDmaBeatIssue e s = _
  unfold execDmaBeatIssue
  rw [hclocks, if_neg Bool.false_ne_true]
  dsimp only
  rw [hmine, List.foldl_cons, List.foldl_nil, henter, hgrant]
  dsimp only
  rw [hleft, List.foldl_nil, List.filter_cons_of_neg (by rw [hrun']; simp [hrest]), List.filter_nil, List.foldl_nil,
    State.dmaAdvanceAll_only htchans htrun hok hlive hout hwait]

theorem beatIssue_readsRow {i : LinkNo} {p : Nat} (hclocks : s.clocksOff = false) (hbops : s.bops = [])
    (hchans : s.chans = [(e.val * 64 + j.val, x)]) (hrun : x.run = some r) (hok : r.failed = none) (hpend : r.sbPend = [])
    (hlive : r.sbLive = []) (hrows : WholeRows r.bytes) (hout : r.out = []) (hrest : r.rest = false)
    (hbeat : r.beat < dmBeats r.bytes) (hactive : s.chState (e.val * 64 + j.val) = chActive)
    (hheld : ∀ y ∈ s.links, y.2.bheld = []) (hdst : addrSpace (dmDst r.bytes) = 0) (hlink : r.link = some i.val)
    (hi : i.val < 24) (hlocal : s.isLocal (dmSrc r.bytes + 256 * r.beat) = true)
    (hphys : s.phys (addrOff (dmSrc r.bytes + 256 * r.beat) / coreBytes) = some p) (hpower : s.power p = pwLeaf)
    (hfenced : s.fencedCore p = false) (hopens : (s.router i.val).opens = []) (hroom : (s.core p).readq.length < 8)
    (hpriority : s.fld (F.dmaChStatusPriority e.val j.val) < 4) :
    Answers (.dmaBeatIssue e) s fun t => (t.chan (e.val * 64 + j.val)).run = some r.issued ∧
      (if p / 4 = i.val then (t.core p).readq = (s.core p).readq ++ [r.rowRead (e.val * 64 + j.val) s.inSeq] ∧
        (t.router i.val).opens = []
      else (t.core p).readq = (s.core p).readq ∧ (t.router i.val).opens =
        [{ from_ := 0, home := none, dest := p / 4, load := .read p (r.rowRead (e.val * 64 + j.val) s.inSeq) }]) ∧
      t.fld (F.dmaEngBeats e.val) = (s.fld (F.dmaEngBeats e.val) + 1) % 2 ^ 64 ∧ t.mem = s.mem := by
  obtain ⟨g, hg⟩ : ∃ g : State, g = { s with
    lastGrant := tins s.lastGrant (e.val * 4 + s.fld (F.dmaChStatusPriority e.val j.val)) j.val } := ⟨_, rfl⟩
  have hgchans : g.chans = [(e.val * 64 + j.val, x)] := by rw [hg]; exact hchans
  have hgrun : (g.chan (e.val * 64 + j.val)).run = some r := by rw [State.chan_only hgchans, hrun]
  have hissue := State.dmaIssue_local hgrun hrows hlink hi hdst (by rw [hg]; exact hlocal) (by rw [hg]; exact hphys)
    (by rw [hg]; exact hpower) (by rw [hg]; exact hfenced)
  have henters := ReadEnters.sendRow (s := g.beatIssued (e.val * 64 + j.val) r) (i := i.val) (p := p)
    (by rw [State.router_beatIssued, hg]; exact hopens) (by rw [State.core_beatIssued, hg]; exact hroom)
    (r.rowRead (e.val * 64 + j.val) g.inSeq)
  generalize (g.beatIssued (e.val * 64 + j.val) r).sendRow i.val _ = t at hissue henters
  have htchans : t.chans = [(e.val * 64 + j.val, { x with run := some r.issued })] := by
    rw [henters.chans, State.beatIssued_chans, State.setRun_only hgchans]
  have htrun : (t.chan (e.val * 64 + j.val)).run = some r.issued := by rw [State.chan_only htchans]
  have hone : r.issued.out = [{ beat := r.beat, link := none }] := by rw [DmaRun.issued, hout]; rfl
  have hgrant : s.dmaGrant e.val 8 3 4 [] = (t, [j.val]) :=
    State.dmaGrant_one j.isLt (State.dmaReady_only hchans hrun hout hactive hok hbeat hpend hrest hheld (chan_div e j))
      (fun m _ hm => State.dmaReady_other hchans (by omega) _) (by rw [← hg]; exact hissue) htrun hok
      (fun m _ hm => State.dmaReady_other htchans (by omega) _) 8 3 3 (by omega) (by omega)
  refine .of_unitWork (exec_dmaBeatIssue_only hclocks hchans hrun hpend hrest hgrant htchans rfl hok hlive
    (by rw [hone]; simp) (by rw [hone]; simp)) rfl ?_ ⟨State.run_setRun _ _ _, ?_, ?_, ?_⟩
  · rw [State.setRun_bops, henters.bops, State.beatIssued_bops, hg]
    exact hbops
  · have hplace := henters.place
    rw [State.core_beatIssued, hg] at hplace
    exact hplace
  · have hregs : t.fld (F.dmaEngBeats e.val) = (g.beatIssued (e.val * 64 + j.val) r).fld (F.dmaEngBeats e.val) := by
      unfold State.fld
      rw [henters.regs]
    have hbeats := State.engBeats_beatIssued (s := g) (c := e.val * 64 + j.val) (r := r)
    rw [chan_div, hg] at hbeats
    rw [State.fld_setRun, hregs, hg]
    exact hbeats
  · rw [State.setRun_mem, henters.mem, State.beatIssued_mem, hg]

end

/-- A command that answers with P answers with all that P implies. -/
theorem Answers.imp {c : Instr} {s : State} {P Q : State → Prop} (h : Answers c s P) (hPQ : ∀ t, P t → Q t) :
    Answers c s Q :=
  Exists.imp (fun t ht => ⟨ht.1, hPQ t ht.2⟩) h

/-- Settles O30: the beat that the engine grants is read in this die and enters the mesh where its data leaves (R317); the
oldest row goes out at DST plus the bytes written (R319); a rejected beat is read again, or is the descriptor's failure
(R332, R333). -/
theorem dmaMovesBeats : Obligations.DmaMovesBeats := by
  unfold Obligations.DmaMovesBeats
  intro s e j r o more i row status tag x c b tagOf hclocks hbops hchans hrunx hok hstep hgap hpend hlive hcarry hsrcMoves
    hdstMoves hfunnel hsrc hdst hlen _ a l
  have hrows : WholeRows r.bytes := ⟨hsrcMoves, hdstMoves, hfunnel, hsrc, hdst, hlen⟩
  have hrun : (s.chan c).run = some r := by rw [State.chan_only hchans, hrunx]
  have htag : dmTagOf c r.idx = tagOf := dmTagOf_chan e j r.idx
  refine ⟨?_, ?_⟩
  · intro p hout hrest hbeat hactive hheld hpackage hlink hi hlocal hspace1 hphys hpower hfenced hopens hroom hpriority
    refine (beatIssue_readsRow hclocks hbops hchans hrunx hok hpend hlive hrows hout hrest hbeat hactive hheld hpackage hlink hi
      hlocal hphys hpower hfenced hopens hroom hpriority).imp fun t ⟨hissued, hplace, hbeats, hmem⟩ => ?_
    exact ⟨⟨r.issued, hissued, rfl, by rw [DmaRun.issued, hout]; rfl, rfl⟩, hplace, hbeats, hmem⟩
  · intro hout holink hdata hlost hothers hwait
    refine ⟨?_, ?_, ?_⟩
    · intro hbeat hroom hmoving hfrom hto hlink hup
      rw [← htag]
      refine (readReturn_writesRow hbops hrun hok hgap hlive hcarry hrows hout holink hdata hlost hothers hwait hbeat hroom
        hmoving hfrom hto hlink hup row).imp fun t ⟨hsent, hafter, hcrc, hmem⟩ => ?_
      exact ⟨hsent, ⟨_, hafter, rfl, rfl, rfl⟩, hcrc, hmem⟩
    · intro htries hup
      rw [← htag]
      refine (beatReject_readsAgain hrun hok hrows hout holink hdata hlost hothers htries hup tag).imp
        fun t ⟨hsent, hafter, hcount, hmem⟩ => ?_
      exact ⟨hsent, ⟨_, hafter, rfl, hok⟩, hcount, hmem⟩
    · intro hmore hpackage hbusy hfault
      refine (beatReject_failsDescriptor hbops hrun hok (by omega) hlive hcarry hpackage hout holink hdata hlost hothers hwait
        hmore hbusy hfault tag).imp fun t ⟨hmem, hlinks, hafter⟩ => ?_
      exact ⟨hmem, hlinks, _, hafter, rfl, rfl⟩

end Sys2Proof.Machine
end

section
/-! The registers of the binder, window and role unit, and one rule for each operation on a binder of this die (R349 to
R352, R355, R367). It settles O58. -/

namespace Sys2Proof.Machine

/-! ### Registers of the unit -/

/-- A key of the register file outside the unit's blocks (R69). -/
def outsideUnit (key : Nat) : Prop := key < 0x200000 * 32 ∨ 0x300000 * 32 ≤ key

/-- Every register field outside the unit's blocks is as it was. -/
def unitOnly (s t : State) : Prop := ∀ g : Fld, outsideUnit g.key → t.fld g = s.fld g

section
variable {s t : State}

theorem unitOnly.refl (s : State) : unitOnly s s := fun _ _ => rfl

theorem unitOnly.setFld (h : unitOnly s t) {f : Fld} (hf : ¬ outsideUnit f.key) (v : Nat) : unitOnly s (t.setFld f v) := by
  intro g hg
  rw [State.fld_setFld_ne t fun e => hf (e ▸ hg), h g hg]

theorem unitOnly.setFlds (h : unitOnly s t) {l : List (Fld × Nat)} (hl : ∀ x ∈ l, ¬ outsideUnit x.1.key) :
    unitOnly s (t.setFlds l) := by
  intro g hg
  rw [State.fld_setFlds_ne t fun x hx e => hl x hx (e ▸ hg), h g hg]

theorem unitOnly.linkUp (h : unitOnly s t) {i : Nat} (hi : i < 32) : t.linkUp i = s.linkUp i := by
  unfold State.linkUp State.linkState
  rw [h _ (.inl _)]
  simp only [Fld.key, F.lnkStatusState]
  omega

theorem unitOnly.coreMap (h : unitOnly s t) {k : Nat} (hk : k < 3) : t.fld (F.evgCoreMap k) = s.fld (F.evgCoreMap k) := by
  refine h _ (.inl ?_)
  simp only [Fld.key, F.evgCoreMap]
  omega

theorem unitOnly.phys (h : unitOnly s t) (l : Nat) : t.phys l = s.phys l := by
  unfold State.phys State.coreMap
  rw [h.coreMap (by decide), h.coreMap (by decide), h.coreMap (by decide)]

theorem unitOnly.logical (h : unitOnly s t) (p : Nat) : t.logical p = s.logical p :=
  State.logical_congr (fun _ => h.coreMap) p

theorem unitOnly.fencedCore (h : unitOnly s t) {p : Nat} (hp : p < 96) : t.fencedCore p = s.fencedCore p := by
  unfold State.fencedCore
  rw [h _ (.inl _)]
  simp only [Fld.key, F.evgFenced]
  omega

theorem unitOnly.power (h : unitOnly s t) {p : Nat} (hp : p < 96) : t.power p = s.power p := by
  unfold State.power
  rw [h.logical p]
  cases hl : s.logical p with
  | none => rfl
  | some l =>
    have hbound := State.lt_of_logical hp hl
    refine h _ (.inl ?_)
    simp only [Fld.key, F.pwrCoreStatusState]
    omega

end

/-! ### Addresses of the unit's objects (R48, R50, R349) -/

/-- The address of a binder's or a role's registers in this die. -/
structure State.UnitAddress (s : State) (a : Nat) : Prop where
  aligned : a % 64 = 0
  space : a / 2 ^ 44 % 8 = 2
  offset : a % 2 ^ 44 < 2 ^ 19
  die : a / 2 ^ 47 = s.dieNo
  pos : a / 2 ^ 47 % 16 ≤ 11

section
variable {s : State} {a op value : Nat} {o : Origin}

theorem State.UnitAddress.binderNo (h : s.UnitAddress a) : binderNo a = a % 2 ^ 44 / 64 := by
  have hoff := h.offset
  unfold Machine.binderNo addrOff
  omega

theorem State.UnitAddress.isLocal (h : s.UnitAddress a) (hop : op < 64) : s.isLocal (a + op) = true := by
  obtain ⟨haligned, hspace, hoff, hdie, -⟩ := h
  have hs : addrSpace (a + op) = 2 := by unfold addrSpace; omega
  have hd : addrDie (a + op) = s.dieNo := by unfold addrDie; omega
  simp [State.isLocal, hs, hd]

theorem State.UnitAddress.layoutOk (h : s.UnitAddress a) (hop : op < 64) : s.remoteLayoutOk (a + op) = true := by
  obtain ⟨haligned, hspace, hoff, -, -⟩ := h
  have hs : addrSpace (a + op) = 2 := by unfold addrSpace; omega
  unfold State.remoteLayoutOk
  rw [hs]
  exact decide_eq_true (by unfold addrOff; omega)

/-- An operation's effect rests on the binder of its address alone. -/
theorem State.binderOp_congr {x y : Nat} (h : Machine.binderNo x = Machine.binderNo y) (s : State) (op value : Nat)
    (o : Origin) : s.binderOp { address := x, op, value, from_ := o } = s.binderOp { address := y, op, value, from_ := o } := by
  unfold State.binderOp
  simp only [h]

/-- An operation of one of the die's own agents on an object of this die is performed at once (R349). -/
theorem State.issueBinder_local (h : s.UnitAddress a) (hop : op < 64) :
    s.issueBinder (a + op) value o =
      (((s.binderOp { address := a, op, value, from_ := o }).1.answer o
        (s.binderOp { address := a, op, value, from_ := o }).2)).unitWork := by
  have hpos : ¬ (11 < addrPos (a + op) ∨ ¬ s.remoteLayoutOk (a + op) = true) := by
    rw [h.layoutOk hop]
    have := h.pos
    have := h.aligned
    unfold addrPos
    simp only [not_true_eq_false, or_false]
    omega
  have hno : Machine.binderNo (a + op) = Machine.binderNo a := by
    have := h.aligned
    unfold Machine.binderNo addrOff
    omega
  have hmod : (a + op) % 64 = op := by
    have := h.aligned
    omega
  unfold State.issueBinder
  dsimp only
  rw [if_neg hpos, if_pos (h.isLocal hop), hmod, State.binderOp_congr hno]

/-- An operation by Hedger that leaves the unit without work. -/
theorem State.spaceTwo_hedger {address : DWord} {t : State} {status : Nat} (h : s.UnitAddress address.toNat) (hop : op < 64)
    (hperformed : s.binderOp { address := address.toNat, op, value, from_ := .hedger } = (t, status)) (hbops : t.bops = []) :
    (s.spaceTwo .hedger address op value).unitWork = t := by
  have hbase : address.toNat / 64 * 64 = address.toNat := by
    have := h.aligned
    omega
  have hissued : s.spaceTwo .hedger address op value = t := by
    unfold State.spaceTwo
    dsimp only
    rw [hbase, State.issueBinder_local h hop, hperformed]
    exact State.unitWork_eq_self hbops
  rw [hissued, State.unitWork_eq_self hbops]

theorem exec_spaceTwo_hedger {i : Instr} {address : DWord} {t : State} {status : Nat} (h : s.UnitAddress address.toNat)
    (hexec : exec i s = .next ((s.spaceTwo .hedger address op value).unitWork)) (hop : op < 64)
    (hperformed : s.binderOp { address := address.toNat, op, value, from_ := .hedger } = (t, status)) (hbops : t.bops = []) :
    exec i s = .next t := hexec.trans (congrArg _ (State.spaceTwo_hedger h hop hperformed hbops))

end

/-! ### ARRIVE, ADD and RESET (R349, R350, R352) -/

section
variable {s : State} {a v : Nat} {o : Origin}

/-- R349: a rejected operation is counted. -/
def State.opRejected (s : State) : State := s.addFld F.bndReject 1

theorem State.binderOp_arrive (harmed : s.armed (binderNo a) = true) (o : Origin) :
    s.binderOp { address := a, op := 0, value := 0, from_ := o } = (s.binderAdd (binderNo a) 1, stOk) := by
  simp [State.binderOp, harmed]

theorem State.binderOp_add (harmed : s.armed (binderNo a) = true) (o : Origin) :
    s.binderOp { address := a, op := 4, value := v, from_ := o } = (s.binderAdd (binderNo a) v, stOk) := by
  simp [State.binderOp, harmed]

/-- R349: an ARRIVE, ADD or RESET on a FREE binder. -/
theorem State.binderOp_free (hfree : s.armed (binderNo a) = false) {op : Nat} (hop : op = 0 ∨ op = 4 ∨ op = 8) :
    s.binderOp { address := a, op, value := v, from_ := .hedger } = (s.opRejected, stBadParam) := by
  rcases hop with rfl | rfl | rfl <;> simp [State.binderOp, State.opRejected, hfree]

theorem State.binderOp_reset (harmed : s.armed (binderNo a) = true) (ho : ∀ i, o ≠ .link i)
    (hpending : s.fld (F.bndPendingUp (binderNo a)) = 0) :
    s.binderOp { address := a, op := 8, value := 0, from_ := o } =
      ((s.setFld (F.bndCount (binderNo a)) 0).setFld (F.bndTarget (binderNo a)) (s.fld (F.bndStep (binderNo a))), stOk) := by
  cases o with
  | link i => exact absurd rfl (ho i)
  | _ => simp [State.binderOp, harmed, hpending]

/-- R352: a RESET while fires sent upward are not yet released. -/
theorem State.binderOp_reset_pending (harmed : s.armed (binderNo a) = true) (ho : ∀ i, o ≠ .link i)
    (hpending : s.fld (F.bndPendingUp (binderNo a)) ≠ 0) :
    s.binderOp { address := a, op := 8, value := 0, from_ := o } = (s.opRejected, stBusy) := by
  cases o with
  | link i => exact absurd rfl (ho i)
  | _ => simp [State.binderOp, State.opRejected, harmed, hpending]

end

/-- Settles O58: a RESET sets two fields of its binder, or is counted as rejected. -/
theorem binderReset : Obligations.BinderReset := by
  unfold Obligations.BinderReset
  intro s a o b r harmed ho hstep
  have hcount : (F.bndCount b).key ≠ (F.bndTarget b).key := by
    simp only [Fld.key, F.bndCount, F.bndTarget]
    omega
  refine ⟨?_, ?_, ?_⟩
  · intro hpending
    have hr : r = ((s.setFld (F.bndCount b) 0).setFld (F.bndTarget b) (s.fld (F.bndStep b)), stOk) :=
      State.binderOp_reset harmed ho hpending
    have hkept : fieldsKept s ((s.setFld (F.bndCount b) 0).setFld (F.bndTarget b) (s.fld (F.bndStep b)))
        [(F.bndCount b).key, (F.bndTarget b).key] :=
      ((fieldsKept.refl s _).setFld (by simp) 0).setFld (by simp) _
    rw [hr]
    refine ⟨rfl, ?_, ?_, hkept _ ?_, rfl, hkept, rfl⟩
    · exact (State.fld_setFld_ne _ hcount _).trans (State.fld_setFld _ _ _)
    · exact (State.fld_setFld _ _ _).trans (Nat.mod_eq_of_lt (Nat.lt_trans hstep (show 2 ^ 32 < 2 ^ 64 by decide)))
    · simp only [Fld.key, F.bndCount, F.bndTarget, F.bndReleases, List.mem_cons, List.not_mem_nil, or_false]
      omega
  · intro hpending
    have hr : r = (s.opRejected, stBusy) := State.binderOp_reset_pending harmed ho hpending
    rw [hr]
    exact ⟨rfl, (fieldsKept.refl s _).setFld (by simp) _, rfl⟩
  · rintro address rfl haligned hspace hoff hdie hpos hbops rfl
    refine exec_spaceTwo_hedger ⟨haligned, hspace, hoff, hdie, hpos⟩ rfl (by decide) (status := r.2) rfl ?_
    by_cases hpending : s.fld (F.bndPendingUp b) = 0
    · exact (congrArg (fun x => x.1.bops) (State.binderOp_reset harmed ho hpending)).trans hbops
    · exact (congrArg (fun x => x.1.bops) (State.binderOp_reset_pending harmed ho hpending)).trans hbops

end Sys2Proof.Machine
end

section
/-! Host commands that set registers of the binder, window and role unit, and BINDER_ALLOC; fires and releases at a root
without a list (R348, R350, R359, R419 to R423). It settles O33. -/

namespace Sys2Proof.Machine

/-! ### A taken packet that sets fields of the unit -/

section
variable {s u : State} {op : Nat} {p : Packet}

/-- The packet of a command that may complete at once is answered as any other (R419 to R423, R426). -/
theorem State.Takes.command_fast {handle : Cmd → State → Resp} {status : Nat} {results : List Byte} {fast : Bool}
    (h : s.Takes op p)
    (hr : handle { opcode := op, p, fast, dev := (s.session.dev + 1) % 2 ^ 32 } (s.offered p) = { s := u, status, results })
    (hu : Replying s u p) : s.command handle { opcode := op, p, fast } = u.replied s op p status results := by
  have htake : s.take handle { opcode := op, p, fast } = u.replied s op p status results :=
    State.take_eq (handle := fun c => handle { c with fast }) h hr hu
  obtain ⟨⟨hwell, hagreed, ⟨hhello, hsync⟩, hnext, hseen, -⟩, -, -, -⟩ := h
  obtain ⟨⟨halive, hlink, hawake, -⟩, hcrc, hsingle, hversion, hseason⟩ := hwell
  have hmoves := u.replied_moves s op p status results
  have hsequence : s.sequence handle { opcode := op, p, fast } = u.replied s op p status results := by
    unfold State.sequence
    dsimp only
    rw [if_neg (Int.not_lt.mpr hseen), hnext, diff32_self, if_pos rfl, htake]
    unfold State.takeHeld
    rw [hmoves.session.trans rfl, show (u.cached s op p status results).session.held = [] from hu.held]
    rfl
  have hreceive : s.receive handle { opcode := op, p, fast } = u.replied s op p status results :=
    (if_neg (not_not.mpr hcrc)).trans ((if_neg (ne_true_of_eq_false hsingle)).trans ((if_neg (not_not.mpr hversion)).trans
      ((if_neg (not_not.mpr hseason)).trans ((if_neg hhello).trans ((if_neg hsync).trans ((if_neg hagreed).trans hsequence))))))
  unfold State.command
  rw [if_neg (by simp [halive, hlink]), if_pos hawake, hreceive, State.unitWork_eq_self (hmoves.bops.trans hu.bops)]

/-- State u is what a taken packet finds, with fields set and the binders' tables changed. -/
structure UnitSet (s u : State) (p : Packet) (l : List (Fld × Nat)) : Prop where
  regs : u.regs = ((s.offered p).setFlds l).regs
  session : u.session = (s.offered p).session
  links : u.links = (s.offered p).links
  mem : u.mem = (s.offered p).mem
  bops : u.bops = (s.offered p).bops

theorem State.setFlds_rest (s : State) (l : List (Fld × Nat)) : ∃ regs, s.setFlds l = { s with regs } := by
  induction l generalizing s with
  | nil => exact ⟨_, rfl⟩
  | cons x l ih =>
    obtain ⟨_, hset⟩ := ih (s.setFld x.1 x.2)
    exact ⟨_, hset⟩

theorem State.setFlds_regs_congr {s t : State} (h : t.regs = s.regs) (l : List (Fld × Nat)) :
    (t.setFlds l).regs = (s.setFlds l).regs := by
  induction l generalizing s t with
  | nil => exact h
  | cons x l ih =>
    exact ih (congrArg (fun m => tset (resetOf x.1.key) m x.1.key (x.2 % 2 ^ x.1.w)) h)

theorem UnitSet.setFlds {v : State} (hv : UnitSet s v p []) (l : List (Fld × Nat)) : UnitSet s (v.setFlds l) p l := by
  have hregs := State.setFlds_regs_congr hv.regs l
  obtain ⟨_, hset⟩ := v.setFlds_rest l
  rw [hset] at hregs ⊢
  exact ⟨hregs, hv.session, hv.links, hv.mem, hv.bops⟩

theorem UnitSet.setBinder {l : List (Fld × Nat)} (h : UnitSet s u p l) (b : Nat) (x : BinderSt) :
    UnitSet s (u.setBinder b x) p l := ⟨h.regs, h.session, h.links, h.mem, h.bops⟩

theorem UnitSet.fld {l : List (Fld × Nat)} (h : UnitSet s u p l) (g : Fld) : u.fld g = ((s.offered p).setFlds l).fld g := by
  unfold State.fld
  rw [h.regs]

/-- Fields that stand in one block of the unit, each in a place of its own. -/
structure UnitBlock (l : List (Fld × Nat)) (lo hi : Nat) : Prop where
  keys : ∀ x ∈ l, lo * 32 ≤ x.1.key ∧ x.1.key < hi * 32
  nodup : (l.map fun x => x.1.key).Nodup
  bounds : 0x200000 ≤ lo ∧ hi ≤ 0x300000

theorem UnitBlock.unitOnly {l : List (Fld × Nat)} {lo hi : Nat} (h : UnitBlock l lo hi) (s : State) :
    unitOnly s (s.setFlds l) := by
  refine (unitOnly.refl s).setFlds fun x hx => ?_
  have hkey := h.keys x hx
  have hbounds := h.bounds
  unfold outsideUnit
  omega

/-- A command that sets fields of one block is answered OK, its fields hold their values, and every field outside the
block is kept. -/
theorem State.Takes.setsUnit {i : Instr} {l : List (Fld × Nat)} {lo hi : Nat} {results : List Byte} {fast : Bool}
    (h : s.Takes op p) (hexec : exec i s = .next (s.command handle { opcode := op, p, fast }))
    (hr : handle { opcode := op, p, fast, dev := (s.session.dev + 1) % 2 ^ 32 } (s.offered p) = { s := u, results })
    (hu : UnitSet s u p l) (hl : UnitBlock l lo hi) :
    Answers i s fun t => replies s t op p stOk results ∧ (∀ x ∈ l, t.fld x.1 = x.2 % 2 ^ x.1.w) ∧ blockKept s t lo hi ∧
      t.mem = s.mem ∧ t.binders = u.binders := by
  have honly : Machine.unitOnly (s.offered p) u := fun g hg => (hu.fld g).trans (hl.unitOnly _ g hg)
  have hreplying : Replying s u p :=
    h.replying.of_session hu.session hu.bops (honly.linkUp (by have := p.link.isLt; omega))
  have hmoves := u.replied_moves s op p stOk results
  refine .intro (hexec.trans (congrArg _ (h.command_fast hr hreplying)))
    ⟨hreplying.replies (hu.links.trans (s.offered_links p)) stOk results, ?_, ?_, ?_, ?_⟩
  · intro x hx
    refine (hmoves.fld _).trans ((hu.fld _).trans ?_)
    exact State.fld_setFlds_of_mem _ hl.nodup hx
  · intro g hout hunsaved
    refine (hmoves.fld _).trans ((hu.fld _).trans ((State.fld_setFlds_ne _ fun x hx e => ?_).trans
      (s.fld_offered_ne p hunsaved)))
    exact hout (e ▸ hl.keys x hx)
  · exact hmoves.mem.trans (hu.mem.trans (s.offered_mem p))
  · obtain ⟨_, _, hsent⟩ := hmoves
    rw [hsent]
    rfl

end

/-! ### BINDER_ALLOC (R348, R359) -/

section
variable {s : State} {p : Packet} {dev b : Nat}

theorem exec_binderAlloc (s : State) (p : Packet) :
    exec (.binderAlloc p) s = .next (s.command handle { opcode := 0x0503, p }) := rfl

theorem handle_binderAlloc (s : State) (p : Packet) (dev : Nat) :
    handle { opcode := 0x0503, p, dev } s = hBinderAlloc { opcode := 0x0503, p, dev } s := by
  simp [handle, handlers, tfind]

/-- BINDER_ALLOC rejected. -/
theorem binderAlloc_rejected {status : Nat} (h : s.Takes 0x0503 p)
    (hr : hBinderAlloc { opcode := 0x0503, p, dev := (s.session.dev + 1) % 2 ^ 32 } (s.offered p) =
      rej (s.offered p) status) : Answers (.binderAlloc p) s fun t => onlyReplies s t 0x0503 p status [] :=
  h.rejected (exec_binderAlloc s p) ((handle_binderAlloc _ _ _).trans hr)

/-- The release list that a packet gives. -/
def allocList (p : Packet) : List Nat := (List.range (packetPar p 3 1)).map fun k => packetPar p (0x10 + 8 * k) 8

/-- A BINDER_ALLOC that asks for a binder to be armed and passes the checks of BAD_PARAM (R348). -/
structure Arming (p : Packet) : Prop where
  length : 0x10 + 8 * packetPar p 3 1 ≤ p.params.length
  binder : packetPar p 0 2 ≤ 8191
  flags : packetPar p 2 1 ≤ 3
  arms : packetPar p 2 1 % 2 = 0
  step : packetPar p 4 4 ≠ 0
  up : packetPar p 8 8 = 0 ∨ validBinderAddr (packetPar p 8 8) = true
  list : ∀ a ∈ allocList p, validBinderAddr a = true

/-- The binder of a packet armed as it says, with its list at an entry of the table. -/
def State.armedFor (s : State) (p : Packet) (first : Nat) : State :=
  s.drew.armBinder (packetPar p 0 2) (packetPar p 4 4) (packetPar p 8 8) (packetPar p 2 1 / 2) first (allocList p)

theorem Arming.hBinderAlloc (h : Arming p) (s : State) (dev : Nat) : hBinderAlloc { opcode := 0x0503, p, dev } s =
    if s.armed (packetPar p 0 2) = true then rej s stBusy
    else
      match (s.listPlaces (packetPar p 3 1))[s.draw 0x359 % max 1 (s.listPlaces (packetPar p 3 1)).length]? with
      | none => rej s stBusy
      | some first => { s := s.armedFor p first } := by
  obtain ⟨hlength, hbinder, hflags, harms, hstep, hup, hlist⟩ := h
  have hshape : ¬ (¬ ({ opcode := 0x0503, p, dev } : Cmd).has (0x10 + 8 * packetPar p 3 1) = true ∨
      8191 < packetPar p 0 2 ∨ 3 < packetPar p 2 1) := by
    simp only [Cmd.has, decide_eq_true_eq]
    omega
  have hvalid : ¬ (packetPar p 4 4 = 0 ∨ (packetPar p 8 8 ≠ 0 ∧ ¬ validBinderAddr (packetPar p 8 8) = true) ∨
      ¬ (allocList p).all validBinderAddr = true) := by
    rintro (hzero | ⟨hne, hbad⟩ | hbad)
    · exact hstep hzero
    · exact hup.elim hne hbad
    · exact hbad (List.all_eq_true.mpr hlist)
  have hnotFree : ¬ ({ opcode := 0x0503, p, dev } : Cmd).par 2 1 % 2 = 1 := by
    rw [show ({ opcode := 0x0503, p, dev } : Cmd).par 2 1 = packetPar p 2 1 from rfl]
    omega
  exact (if_neg hshape).trans ((if_neg hnotFree).trans (if_neg hvalid))

/-- A BINDER_ALLOC that asks for a binder to be freed and passes the checks of BAD_PARAM (R348). -/
structure Freeing (p : Packet) : Prop where
  length : 0x10 + 8 * packetPar p 3 1 ≤ p.params.length
  binder : packetPar p 0 2 ≤ 8191
  flags : packetPar p 2 1 = 1
  list : packetPar p 3 1 = 0
  step : packetPar p 4 4 = 0
  up : packetPar p 8 8 = 0

/-- Whether something waits on a binder or its parent's release is due (R348). -/
def State.inUse (s : State) (b : Nat) : Prop :=
  ¬ (s.binder b).waiters.isEmpty ∨ s.awaited b ∨ s.fld (F.bndPendingUp b) ≠ 0

theorem Freeing.hBinderAlloc (h : Freeing p) (harmed : s.armed (packetPar p 0 2) = true) (dev : Nat) :
    (s.inUse (packetPar p 0 2) → hBinderAlloc { opcode := 0x0503, p, dev } s = rej s stBusy) ∧
      (¬ s.inUse (packetPar p 0 2) →
        hBinderAlloc { opcode := 0x0503, p, dev } s = { s := s.freeBinder (packetPar p 0 2) }) := by
  obtain ⟨hlength, hbinder, hflags, hlist, hstep, hup⟩ := h
  have hshape : ¬ (¬ ({ opcode := 0x0503, p, dev } : Cmd).has (0x10 + 8 * packetPar p 3 1) = true ∨
      8191 < packetPar p 0 2 ∨ 3 < packetPar p 2 1) := by
    simp only [Cmd.has, decide_eq_true_eq]
    omega
  have hfree : packetPar p 2 1 % 2 = 1 := by omega
  have hzero : ¬ (packetPar p 2 1 ≠ 1 ∨ packetPar p 3 1 ≠ 0 ∨ packetPar p 4 4 ≠ 0 ∨ packetPar p 8 8 ≠ 0) := by omega
  refine ⟨fun huse => ?_, fun hidle => ?_⟩
  · exact (if_neg hshape).trans ((if_pos hfree).trans ((if_neg hzero).trans (if_pos ⟨harmed, huse⟩)))
  · refine (if_neg hshape).trans ((if_pos hfree).trans ((if_neg hzero).trans ((if_neg fun hbusy => hidle hbusy.2).trans ?_)))
    exact congrArg (fun u => ({ s := u } : Resp)) (if_pos harmed)

/-- The fields of a binder that arming sets, with their values (R348). -/
def armFields (b step up pace first n : Nat) : List (Fld × Nat) :=
  [(F.bndCfgArmed b, 1), (F.bndCfgPace b, pace), (F.bndCfgListCount b, n), (F.bndCfgListFirst b, first), (F.bndStep b, step),
    (F.bndTarget b, step), (F.bndCount b, 0), (F.bndReleases b, 0), (F.bndPendingUp b, 0), (F.bndUp b, up)]

/-- The fields of a binder that freeing clears. -/
def freeFields (b : Nat) : List (Fld × Nat) :=
  [(F.bndCfgArmed b, 0), (F.bndCfgPace b, 0), (F.bndCfgListCount b, 0), (F.bndCfgListFirst b, 0)]

theorem unitBlock_armFields (hb : b ≤ 8191) (step up pace first n : Nat) :
    UnitBlock (armFields b step up pace first n) (0x200000 + b * 0x40) (0x200040 + b * 0x40) := by
  refine ⟨?_, ?_, by omega⟩
  · intro x hx
    simp only [armFields, List.mem_cons, List.not_mem_nil, or_false] at hx
    rcases hx with rfl | rfl | rfl | rfl | rfl | rfl | rfl | rfl | rfl | rfl <;>
    · simp only [Fld.key, F.bndCfgArmed, F.bndCfgPace, F.bndCfgListCount, F.bndCfgListFirst, F.bndStep, F.bndTarget,
        F.bndCount, F.bndReleases, F.bndPendingUp, F.bndUp]
      omega
  · simp only [armFields, Fld.key, F.bndCfgArmed, F.bndCfgPace, F.bndCfgListCount, F.bndCfgListFirst, F.bndStep, F.bndTarget,
      F.bndCount, F.bndReleases, F.bndPendingUp, F.bndUp, List.map_cons, List.map_nil, List.nodup_cons, List.mem_cons,
      List.not_mem_nil, List.nodup_nil, or_false, not_or, not_false_eq_true, and_true]
    omega

theorem unitBlock_freeFields (hb : b ≤ 8191) : UnitBlock (freeFields b) (0x200000 + b * 0x40) (0x200040 + b * 0x40) := by
  obtain ⟨hkeys, hnodup, hbounds⟩ := unitBlock_armFields hb 0 0 0 0 0
  have hsub : ((freeFields b).map fun x => x.1.key).Sublist ((armFields b 0 0 0 0 0).map fun x => x.1.key) :=
    List.sublist_append_left ((freeFields b).map fun x => x.1.key) _
  refine ⟨fun x hx => ?_, hnodup.sublist hsub, hbounds⟩
  obtain ⟨y, hy, hkey⟩ := List.mem_map.mp (hsub.subset (List.mem_map.mpr ⟨x, hx, rfl⟩))
  exact hkey ▸ hkeys y hy

/-- A place for no list at all may stand at the table's end, where LIST_FIRST shows the table's start (R359). -/
theorem State.mod_mem_listPlaces {n k : Nat} (h : k ∈ s.listPlaces n) : k % 2 ^ 14 ∈ s.listPlaces n := by
  obtain ⟨hk, hfree⟩ := List.mem_filter.mp h
  have hbound := List.mem_range.mp hk
  rcases Nat.lt_or_ge k (2 ^ 14) with hlt | hge
  · rwa [Nat.mod_eq_of_lt hlt]
  · have hn : n = 0 := by omega
    refine List.mem_filter.mpr ⟨List.mem_range.mpr (by omega), List.all_eq_true.mpr fun u _ => ?_⟩
    simp only [Bool.or_eq_true, decide_eq_true_eq]
    omega

theorem packetPar_lt (p : Packet) (o n : Nat) : packetPar p o n < 256 ^ n := leAt_lt p.params o n

theorem State.armed_offered (s : State) (p : Packet) (b : Nat) : (s.offered p).armed b = s.armed b := by
  refine s.bit_offered_ne p ?_
  simp only [Fld.key, F.bndCfgArmed, F.evgDiebackUnsaved]
  omega

theorem State.offered_binders (s : State) (p : Packet) : (s.offered p).binders = s.binders := by
  obtain ⟨_, _, _, _, he, -⟩ := s.offered_eq p
  rw [he]

theorem State.binder_congr {s t : State} (h : t.binders = s.binders) (b : Nat) : t.binder b = s.binder b := by
  unfold State.binder
  rw [h]

/-- R348: an ARMED binder is not armed again. -/
theorem Arming.rejected (h : Arming p) (htakes : s.Takes 0x0503 p) (harmed : s.armed (packetPar p 0 2) = true) :
    Answers (.binderAlloc p) s fun t => onlyReplies s t 0x0503 p stBusy [] :=
  binderAlloc_rejected htakes ((h.hBinderAlloc _ _).trans (if_pos ((s.armed_offered p _).trans harmed)))

theorem State.armedFor_unitSet (s : State) (p : Packet) (first : Nat) :
    UnitSet s ((s.offered p).armedFor p first) p (armFields (packetPar p 0 2) (packetPar p 4 4) (packetPar p 8 8)
      (packetPar p 2 1 / 2) first (packetPar p 3 1)) := by
  have hlen : (allocList p).length = packetPar p 3 1 := by simp [allocList]
  have hdrew : UnitSet s (s.offered p).drew p [] := ⟨rfl, rfl, rfl, rfl, rfl⟩
  have harmed := (hdrew.setFlds (armFields (packetPar p 0 2) (packetPar p 4 4) (packetPar p 8 8) (packetPar p 2 1 / 2) first
    (allocList p).length)).setBinder (packetPar p 0 2) { list := allocList p }
  rw [← hlen]
  exact harmed

/-- R348, R359: a FREE binder is armed, its list at a place of the table that has room. -/
theorem Arming.arms_binder (h : Arming p) (htakes : s.Takes 0x0503 p) (hfree : s.armed (packetPar p 0 2) = false)
    (hroom : (s.offered p).listPlaces (packetPar p 3 1) ≠ []) :
    ∃ first ∈ (s.offered p).listPlaces (packetPar p 3 1), Answers (.binderAlloc p) s fun t =>
      replies s t 0x0503 p stOk [] ∧
      (∀ x ∈ armFields (packetPar p 0 2) (packetPar p 4 4) (packetPar p 8 8) (packetPar p 2 1 / 2) first (packetPar p 3 1),
        t.fld x.1 = x.2 % 2 ^ x.1.w) ∧
      blockKept s t (0x200000 + packetPar p 0 2 * 0x40) (0x200040 + packetPar p 0 2 * 0x40) ∧ t.mem = s.mem ∧
      t.binders = ((s.offered p).armedFor p first).binders := by
  have hindex : (s.offered p).draw 0x359 % max 1 ((s.offered p).listPlaces (packetPar p 3 1)).length <
      ((s.offered p).listPlaces (packetPar p 3 1)).length := by
    have hpos := List.length_pos_iff.mpr hroom
    exact (Nat.mod_lt _ (by omega)).trans_eq (by omega)
  refine ⟨_, List.getElem_mem hindex, htakes.setsUnit (fast := false) (exec_binderAlloc s p)
    ((handle_binderAlloc _ _ _).trans ((h.hBinderAlloc _ _).trans ((if_neg ?_).trans ?_)))
    (State.armedFor_unitSet s p _) (unitBlock_armFields h.binder _ _ _ _ _)⟩
  · rw [s.armed_offered p, hfree]
    decide
  · rw [List.getElem?_eq_getElem hindex]

/-- R348: a binder that nothing waits on is freed. -/
theorem Freeing.frees_binder (h : Freeing p) (htakes : s.Takes 0x0503 p) (harmed : s.armed (packetPar p 0 2) = true)
    (howed : (s.binder (packetPar p 0 2)).owedRel = []) (hidle : ¬ (s.offered p).inUse (packetPar p 0 2)) :
    Answers (.binderAlloc p) s fun t => replies s t 0x0503 p stOk [] ∧
      (∀ x ∈ freeFields (packetPar p 0 2), t.fld x.1 = x.2 % 2 ^ x.1.w) ∧
      blockKept s t (0x200000 + packetPar p 0 2 * 0x40) (0x200040 + packetPar p 0 2 * 0x40) ∧ t.mem = s.mem ∧
      t.binders = ((s.offered p).setBinder (packetPar p 0 2) {}).binders := by
  have hflush : (s.offered p).flushOwed (packetPar p 0 2) = s.offered p := by
    unfold State.flushOwed
    dsimp only
    rw [State.binder_congr (s.offered_binders p), howed]
    rfl
  have hfreed : (s.offered p).freeBinder (packetPar p 0 2) =
      ((s.offered p).setBinder (packetPar p 0 2) {}).setFlds (freeFields (packetPar p 0 2)) := by
    unfold State.freeBinder
    rw [hflush]
    rfl
  have hset : UnitSet s (((s.offered p).setBinder (packetPar p 0 2) {}).setFlds (freeFields (packetPar p 0 2))) p
      (freeFields (packetPar p 0 2)) :=
    UnitSet.setFlds (v := (s.offered p).setBinder (packetPar p 0 2) {}) ⟨rfl, rfl, rfl, rfl, rfl⟩ _
  have hanswers := htakes.setsUnit (fast := false) (exec_binderAlloc s p) ((handle_binderAlloc _ _ _).trans
    ((h.hBinderAlloc ((s.armed_offered p _).trans harmed) _).2 hidle)) (hfreed ▸ hset) (unitBlock_freeFields h.binder)
  rwa [hfreed] at hanswers

end

/-! ### Fires and releases at a root without a list (R350) -/

section
variable {s t : State} {b n v : Nat}

/-- A binder without a parent, a release list, a waiter or a notified queue. -/
structure State.LoneBinder (s : State) (b : Nat) : Prop where
  tables : s.binder b = {}
  queues : s.queues = []
  root : s.fld (F.bndUp b) = 0

theorem State.completeAwaits_eq_self (h : s.queues = []) (b : Nat) : s.completeAwaits b = s := by
  unfold State.completeAwaits
  rw [h]
  rfl

/-- R350: a release where nothing waits and no binder is on the list. -/
theorem State.release_lone (htables : s.binder b = {}) (hqueues : s.queues = []) :
    s.release b = (s.addFld (F.bndReleases b) 1).setBinder b {} := by
  unfold State.release
  dsimp only
  rw [State.binder_addFld, htables]
  exact State.completeAwaits_eq_self (s := (s.addFld (F.bndReleases b) 1).setBinder b {}) hqueues b

theorem State.LoneBinder.fire (h : s.LoneBinder b) :
    s.fire b = ((s.addFld (F.bndTarget b) (s.fld (F.bndStep b))).addFld (F.bndReleases b) 1).setBinder b {} := by
  obtain ⟨htables, hqueues, hroot⟩ := h
  have hup : (s.addFld (F.bndTarget b) (s.fld (F.bndStep b))).fld (F.bndUp b) = 0 := by
    rw [State.fld_addFld_ne, hroot]
    simp only [Fld.key, F.bndTarget, F.bndUp]
    omega
  unfold State.fire
  dsimp only
  rw [if_pos hup]
  exact State.release_lone (s := s.addFld (F.bndTarget b) (s.fld (F.bndStep b))) htables hqueues

/-- From s to t a lone binder b has fired n times. -/
structure Fired (s t : State) (b n : Nat) : Prop where
  lone : t.LoneBinder b
  none : n = 0 → t = s
  target : n ≠ 0 → t.fld (F.bndTarget b) = (s.fld (F.bndTarget b) + n * s.fld (F.bndStep b)) % 2 ^ 64
  releases : n ≠ 0 → t.fld (F.bndReleases b) = (s.fld (F.bndReleases b) + n) % 2 ^ 32
  kept : fieldsKept s t [(F.bndTarget b).key, (F.bndReleases b).key]
  rest : ∃ regs binders, t = { s with regs, binders }

theorem Fired.refl (h : s.LoneBinder b) : Fired s s b 0 :=
  ⟨h, fun _ => rfl, fun h => absurd rfl h, fun h => absurd rfl h, fieldsKept.refl s _, ⟨_, _, rfl⟩⟩

theorem Fired.fire (h : Fired s t b n) : Fired s (t.fire b) b (n + 1) := by
  obtain ⟨hlone, hnone, htarget, hreleases, hkept, hrest⟩ := h
  have hne : (F.bndTarget b).key ≠ (F.bndReleases b).key := by
    simp only [Fld.key, F.bndTarget, F.bndReleases]
    omega
  have hstep : t.fld (F.bndStep b) = s.fld (F.bndStep b) := by
    refine hkept _ ?_
    simp only [Fld.key, F.bndStep, F.bndTarget, F.bndReleases, List.mem_cons, List.not_mem_nil, or_false]
    omega
  have hfired : fieldsKept s (t.fire b) [(F.bndTarget b).key, (F.bndReleases b).key] := by
    rw [hlone.fire]
    exact (hkept.setFld (by simp) _).setFld (f := F.bndReleases b) (by simp) _
  have htargets : (t.fire b).fld (F.bndTarget b) = (t.fld (F.bndTarget b) + s.fld (F.bndStep b)) % 2 ^ 64 := by
    rw [hlone.fire, State.fld_setBinder, State.fld_addFld_ne _ hne, State.fld_addFld, hstep]
    rfl
  have hreleased : (t.fire b).fld (F.bndReleases b) = (t.fld (F.bndReleases b) + 1) % 2 ^ 32 := by
    rw [hlone.fire, State.fld_setBinder, State.fld_addFld, State.fld_addFld_ne _ hne.symm]
    rfl
  refine ⟨⟨?_, ?_, ?_⟩, fun h => absurd h (Nat.succ_ne_zero n), fun _ => ?_, fun _ => ?_, hfired, ?_⟩
  · rw [hlone.fire, State.binder_setBinder]
  · rw [hlone.fire]
    exact hlone.queues
  · rw [hlone.fire, State.fld_setBinder, State.fld_addFld_ne, State.fld_addFld_ne, hlone.root]
    all_goals
      simp only [Fld.key, F.bndTarget, F.bndReleases, F.bndUp]
      omega
  · rcases Nat.eq_zero_or_pos n with rfl | hpos
    · rw [htargets, hnone rfl, Nat.zero_add, Nat.one_mul]
    · rw [htargets, htarget hpos.ne', Nat.mod_add_mod, Nat.succ_mul, Nat.add_assoc]
  · rcases Nat.eq_zero_or_pos n with rfl | hpos
    · rw [hreleased, hnone rfl]
    · rw [hreleased, hreleases hpos.ne', Nat.mod_add_mod, Nat.add_assoc]
  · obtain ⟨_, _, rfl⟩ := hrest
    rw [hlone.fire]
    exact ⟨_, _, rfl⟩

theorem Fired.fires (h : s.LoneBinder b) (n : Nat) : Fired s ((List.range n).foldl (fun s _ => s.fire b) s) b n := by
  induction n with
  | zero => exact Fired.refl h
  | succ n ih =>
    rw [List.range_succ, List.foldl_append]
    exact ih.fire

/-- How often a binder fires whose COUNT has come to c (R350). -/
def State.firesAt (s : State) (b c : Nat) : Nat :=
  if c < s.fld (F.bndTarget b) then 0 else (c - s.fld (F.bndTarget b)) / s.fld (F.bndStep b) + 1

/-- R350: COUNT moves on, then a lone binder fires while COUNT reaches TARGET. -/
theorem State.LoneBinder.binderAdd (h : s.LoneBinder b) (hstep : s.fld (F.bndStep b) ≠ 0) (v : Nat) :
    Fired (s.addFld (F.bndCount b) v) (s.binderAdd b v) b (s.firesAt b ((s.fld (F.bndCount b) + v) % 2 ^ 64)) := by
  obtain ⟨htables, hqueues, hroot⟩ := h
  have hother : ∀ g : Fld, g.key ≠ (F.bndCount b).key → (s.addFld (F.bndCount b) v).fld g = s.fld g :=
    fun g hg => s.fld_addFld_ne hg v
  have hcounted : (s.addFld (F.bndCount b) v).LoneBinder b := by
    refine ⟨htables, hqueues, (hother _ ?_).trans hroot⟩
    simp only [Fld.key, F.bndCount, F.bndUp]
    omega
  have htarget : (s.addFld (F.bndCount b) v).fld (F.bndTarget b) = s.fld (F.bndTarget b) := by
    refine hother _ ?_
    simp only [Fld.key, F.bndCount, F.bndTarget]
    omega
  have hsteps : (s.addFld (F.bndCount b) v).fld (F.bndStep b) = s.fld (F.bndStep b) := by
    refine hother _ ?_
    simp only [Fld.key, F.bndCount, F.bndStep]
    omega
  unfold State.binderAdd State.firesAt
  dsimp only
  rw [htarget, hsteps, State.fld_addFld]
  simp only [hstep, or_false]
  exact Fired.fires hcounted _

end

/-- An ARRIVE or ADD by Hedger at a lone binder: what it leaves of the state. -/
theorem adds_answers {s : State} {b v : Nat} {i : Instr} (hlone : s.LoneBinder b) (hstep : s.fld (F.bndStep b) ≠ 0)
    (hexec : exec i s = .next (s.binderAdd b v)) :
    Answers i s fun t =>
      t.fld (F.bndCount b) = (s.fld (F.bndCount b) + v) % 2 ^ 64 ∧
      (s.firesAt b ((s.fld (F.bndCount b) + v) % 2 ^ 64) ≠ 0 →
        t.fld (F.bndTarget b) = (s.fld (F.bndTarget b) +
          s.firesAt b ((s.fld (F.bndCount b) + v) % 2 ^ 64) * s.fld (F.bndStep b)) % 2 ^ 64 ∧
        t.fld (F.bndReleases b) = (s.fld (F.bndReleases b) + s.firesAt b ((s.fld (F.bndCount b) + v) % 2 ^ 64)) % 2 ^ 32) ∧
      fieldsKept s t ((F.bndCount b).key :: if s.firesAt b ((s.fld (F.bndCount b) + v) % 2 ^ 64) = 0 then []
        else [(F.bndTarget b).key, (F.bndReleases b).key]) ∧
      t.mem = s.mem ∧ t.cores = s.cores ∧ t.links = s.links := by
  have hfired := hlone.binderAdd hstep v
  generalize s.firesAt b ((s.fld (F.bndCount b) + v) % 2 ^ 64) = n at hfired ⊢
  obtain ⟨-, hnone, htarget, hreleases, hkept, _, _, hrest⟩ := hfired
  have hcount : (F.bndCount b).key ∉ [(F.bndTarget b).key, (F.bndReleases b).key] := by
    simp only [Fld.key, F.bndCount, F.bndTarget, F.bndReleases, List.mem_cons, List.not_mem_nil, or_false]
    omega
  have hne : (F.bndTarget b).key ≠ (F.bndCount b).key ∧ (F.bndReleases b).key ≠ (F.bndCount b).key ∧
      (F.bndStep b).key ≠ (F.bndCount b).key := by
    simp only [Fld.key, F.bndCount, F.bndTarget, F.bndReleases, F.bndStep]
    omega
  obtain ⟨htargets, hreleased, hsteps⟩ := hne
  rw [State.fld_addFld_ne _ htargets, State.fld_addFld_ne _ hsteps] at htarget
  rw [State.fld_addFld_ne _ hreleased] at hreleases
  refine .intro hexec ⟨(hkept _ hcount).trans (State.fld_addFld _ _ _), fun hn => ⟨htarget hn, hreleases hn⟩, ?_, ?_⟩
  · intro g hg
    have hgcount : g.key ≠ (F.bndCount b).key := fun e => hg (e ▸ List.mem_cons_self)
    rw [← State.fld_addFld_ne s hgcount v]
    by_cases hn : n = 0
    · rw [hnone hn]
    · rw [if_neg hn] at hg
      exact hkept g fun hmem => hg (List.mem_cons_of_mem _ hmem)
  · rw [hrest]
    exact ⟨rfl, rfl, rfl⟩

/-- Settles O33: an ARRIVE or ADD fires as often as COUNT reaches TARGET, a RESET sets two fields, what is rejected is
counted, and BINDER_ALLOC sets the fields of its binder. -/
theorem bindersCount : Obligations.BindersCount := by
  unfold Obligations.BindersCount
  refine ⟨?_, ?_⟩
  · rintro s address v a b local_ step target adds rejected ⟨haligned, hspace, hoff, hdie, hpos⟩ hbops
    have haddr : s.UnitAddress a := ⟨haligned, hspace, hoff, hdie, hpos⟩
    have hno : binderNo a = b := haddr.binderNo
    refine ⟨?_, ?_, ?_, ?_⟩
    · intro harmed htables hqueues hstep hroot
      have hlone : s.LoneBinder b := ⟨htables, hqueues, hroot⟩
      have hperforms : ∀ n, (s.binderAdd b n).bops = [] := by
        intro n
        obtain ⟨_, _, hrest⟩ := (hlone.binderAdd hstep n).rest
        rw [hrest]
        exact hbops
      refine ⟨adds_answers hlone hstep ?_, adds_answers hlone hstep ?_⟩
      · exact exec_spaceTwo_hedger haddr rfl (by decide) (hno ▸ State.binderOp_arrive (hno.symm ▸ harmed) _) (hperforms 1)
      · exact exec_spaceTwo_hedger haddr rfl (by decide) (hno ▸ State.binderOp_add (hno.symm ▸ harmed) _) (hperforms v.toNat)
    · intro harmed hpending
      exact .intro (exec_spaceTwo_hedger haddr rfl (by decide) (State.binderOp_reset (hno.symm ▸ harmed)
        (fun _ => Origin.noConfusion) (hno.symm ▸ hpending)) hbops) (by rw [hno])
    · intro harmed hpending
      exact exec_spaceTwo_hedger haddr rfl (by decide) (State.binderOp_reset_pending (hno.symm ▸ harmed)
        (fun _ => Origin.noConfusion) (hno.symm ▸ hpending)) hbops
    · intro hfree i hi
      have hrejects : ∀ {i : Instr} {op value}, op = 0 ∨ op = 4 ∨ op = 8 →
          exec i s = .next ((s.spaceTwo .hedger address op value).unitWork) → exec i s = .next rejected := fun hop hexec =>
        exec_spaceTwo_hedger haddr hexec (by omega) (State.binderOp_free (hno.symm ▸ hfree) hop) hbops
      simp only [List.mem_cons, List.not_mem_nil, or_false] at hi
      rcases hi with rfl | rfl | rfl
      · exact hrejects (.inl rfl) rfl
      · exact hrejects (.inr (.inl rfl)) rfl
      · exact hrejects (.inr (.inr rfl)) rfl
  · intro s p b flags n step up list htakes hlength hb hflags
    refine ⟨?_, ?_⟩
    · intro harms hstep hup hlist
      have harming : Arming p := ⟨hlength, hb, hflags, harms, hstep, hup, hlist⟩
      refine ⟨harming.rejected htakes, fun hfree hroom => ?_⟩
      obtain ⟨first, hfirst, hanswers⟩ := harming.arms_binder htakes hfree hroom
      refine hanswers.imp fun t ⟨hreplies, hset, hkept, hmem, hbinders⟩ => ?_
      have hn : n < 2 ^ 8 := packetPar_lt p 3 1
      have hstep32 : step < 2 ^ 32 := packetPar_lt p 4 4
      have hup64 : up < 2 ^ 64 := packetPar_lt p 8 8
      simp only [armFields, List.forall_mem_cons] at hset
      obtain ⟨harmed, hpace, hcount, hplace, hsteps, htarget, hzero, hreleases, hpending, hups, -⟩ := hset
      refine ⟨hreplies, ?_, ?_, ?_, ?_, ?_, ?_, ?_, ?_, ?_, ?_, ?_, hkept, hmem⟩
      · exact beq_iff_eq.mpr harmed
      · exact hpace.trans (Nat.mod_eq_of_lt (show flags / 2 < 2 ^ 1 by omega))
      · exact hzero
      · exact hsteps.trans (Nat.mod_eq_of_lt hstep32)
      · exact htarget.trans (Nat.mod_eq_of_lt (Nat.lt_trans hstep32 (show 2 ^ 32 < 2 ^ 64 by decide)))
      · exact hups.trans (Nat.mod_eq_of_lt hup64)
      · exact hreleases
      · exact hpending
      · exact hcount.trans (Nat.mod_eq_of_lt hn)
      · exact (State.binder_congr hbinders b).trans (State.binder_setBinder _ _ _)
      · exact hplace ▸ State.mod_mem_listPlaces hfirst
    · intro hone hzero hstep hup harmed howed
      have hfreeing : Freeing p := ⟨hlength, hb, hone, hzero, hstep, hup⟩
      have hwaits : (s.offered p).binder b = s.binder b := State.binder_congr (s.offered_binders p) b
      have hup : (s.offered p).fld (F.bndPendingUp b) = s.fld (F.bndPendingUp b) := by
        refine s.fld_offered_ne p ?_
        simp only [Fld.key, F.bndPendingUp, F.evgDiebackUnsaved]
        omega
      refine ⟨?_, ?_⟩
      · intro hwaiters hawaited hpending
        have hidle : ¬ (s.offered p).inUse b := by
          simp [State.inUse, hwaits, hwaiters, hawaited, hup, hpending]
        refine (hfreeing.frees_binder htakes harmed howed hidle).imp fun t ⟨hreplies, hset, _, _, hbinders⟩ => ⟨hreplies, ?_, ?_⟩
        · have hfreed : t.fld (F.bndCfgArmed b) = 0 := hset (F.bndCfgArmed b, 0) List.mem_cons_self
          unfold State.armed State.bit
          rw [hfreed]
          rfl
        · exact (State.binder_congr hbinders b).trans (State.binder_setBinder _ _ _)
      · intro hwaiters
        have huse : (s.offered p).inUse b := .inl (by simpa [hwaits] using hwaiters)
        exact binderAlloc_rejected htakes ((hfreeing.hBinderAlloc ((s.armed_offered p b).trans harmed) _).1 huse)

end Sys2Proof.Machine
end

section
/-! WAIT of a core on a binder, role pulses and ROLE_ASSIGN (R85, R349, R351, R366, R367). It settles O34. -/

namespace Sys2Proof.Machine

/-! ### Answers to a core's POST (R85) -/

section
variable {s : State} {p : Nat}

/-- A core with one outstanding POST less. -/
def State.postDone (s : State) (p : Nat) : State := s.setCore p { s.core p with postsOut := (s.core p).postsOut - 1 }

theorem State.core_postDone (s : State) (p : Nat) :
    (s.postDone p).core p = { s.core p with postsOut := (s.core p).postsOut - 1 } := State.core_setCore _ _ _

theorem State.core_postOut (s : State) (p : Nat) :
    (s.postOut p).core p = { s.core p with postsOut := (s.core p).postsOut + 1 } := State.core_setCore _ _ _

/-- A POST of a core that has no freeze of its own and is not stopped: answered, and a rejection stands in
COR_POST_STATUS. -/
theorem State.postAnswered_live (hout : (s.core p).postsOut ≠ 0) (hown : (s.core p).frozenOwn = false)
    (hlive : s.coreState p ≠ csFaulted) (status : Nat) : s.postAnswered p status =
      if status = stOk then s.postDone p
      else ((s.postDone p).setFld (F.corPostStatusStatus p) status).satFld (F.corPostStatusRejects p) 1 := by
  have hthaw : (s.postDone p).thawOwn p = s.postDone p := by
    unfold State.thawOwn
    dsimp only
    rw [State.core_postDone, if_neg (ne_true_of_eq_false hown)]
  have hdrain : ∀ u : State, u.coreState p = s.coreState p → u.drainCheck p = u :=
    fun u hu => if_neg fun hstopped => hlive (hu.symm.trans hstopped.1)
  unfold State.postAnswered
  dsimp only
  rw [if_neg hout]
  unfold State.postDone at hthaw ⊢
  rw [hthaw]
  refine hdrain _ ?_
  split
  · rfl
  · refine (State.fld_setFld_ne _ ?_ _).trans (State.fld_setFld_ne _ ?_ _) <;>
    · simp only [Fld.key, F.corStatusState, F.corPostStatusRejects, F.corPostStatusStatus]
      omega

end

/-! ### Events of cores (R116, R482) -/

section
variable {s : State}

/-- An event of a core in Leaf stands in COR_EVENT. -/
theorem State.signal_leaf {p bit : Nat} {f : Fld} (hbit : eventFld p bit = some f) (hleaf : s.power p = pwLeaf) :
    s.signal p bit = s.setFld f 1 := by
  unfold State.signal
  rw [hbit, hleaf]
  rfl

theorem State.power_setFld_msg (s : State) (p q : Nat) : (s.setFld (F.corEventMsg p) 1).power q = s.power q := by
  refine State.power_congr (fun k hk => State.fld_setFld_ne _ ?_ _) (fun l => State.fld_setFld_ne _ ?_ _) q <;>
  · simp only [Fld.key, F.corEventMsg, F.evgCoreMap, F.pwrCoreStatusState]
    omega

/-- MSG of each core of a list. -/
def msgFields (l : List Nat) : List (Fld × Nat) := l.map fun q => (F.corEventMsg q, 1)

theorem State.signal_msgs {l : List Nat} (hleaf : ∀ q ∈ l, s.power q = pwLeaf) :
    l.foldl (fun s p => s.signal p 7) s = s.setFlds (msgFields l) := by
  induction l generalizing s with
  | nil => rfl
  | cons p l ih =>
    rw [List.foldl_cons, State.signal_leaf rfl (hleaf p List.mem_cons_self)]
    exact ih fun q hq => (s.power_setFld_msg p q).trans (hleaf q (List.mem_cons_of_mem _ hq))

theorem State.fld_msgFields {l : List Nat} {q : Nat} (hq : q ∈ l) (s : State) :
    (s.setFlds (msgFields l)).fld (F.corEventMsg q) = 1 := by
  induction l generalizing s with
  | nil => cases hq
  | cons p l ih =>
    by_cases hmem : q ∈ l
    · exact ih hmem _
    · obtain rfl : q = p := (List.mem_cons.mp hq).resolve_right hmem
      refine (State.fld_setFlds_ne (s.setFld (F.corEventMsg q) 1) fun x hx => ?_).trans (State.fld_setFld _ _ _)
      obtain ⟨r, hr, rfl⟩ := List.mem_map.mp hx
      have hne : r ≠ q := fun e => hmem (e ▸ hr)
      simp only [Fld.key, F.corEventMsg]
      omega

theorem State.fld_msgFields_ne {g : Fld} (hg : g.key < 0x400000 * 32) (s : State) (l : List Nat) :
    (s.setFlds (msgFields l)).fld g = s.fld g := by
  refine State.fld_setFlds_ne _ fun x hx => ?_
  obtain ⟨r, -, rfl⟩ := List.mem_map.mp hx
  simp only [Fld.key, F.corEventMsg] at hg ⊢
  omega

end

/-! ### WAIT (R349, R351) -/

section
variable {s : State} {a v p b l : Nat}

theorem reached_iff (releases r : Nat) : reached releases r = true ↔ 0 ≤ diff32 releases r := by
  simp [reached, before32]

/-- R351: the release awaited has come. -/
theorem State.binderOp_wait_late (harmed : s.armed (binderNo a) = true)
    (hlate : 0 ≤ diff32 (s.fld (F.bndReleases (binderNo a))) v) :
    s.binderOp { address := a, op := 12, value := v, from_ := .core p } = (s.signal p 2, stOk) := by
  have hreached := (reached_iff _ _).mpr hlate
  simp [State.binderOp, harmed, hreached]

/-- A core registered at a binder for a release. -/
def State.waitsFor (s : State) (b l v : Nat) : State :=
  s.setBinder b { s.binder b with waiters := tins (s.binder b).waiters l v }

/-- R351: the release awaited has not come. -/
theorem State.binderOp_wait_registers (harmed : s.armed (binderNo a) = true)
    (hearly : ¬ 0 ≤ diff32 (s.fld (F.bndReleases (binderNo a))) v) (hlogical : s.logical p = some l) :
    s.binderOp { address := a, op := 12, value := v, from_ := .core p } = (s.waitsFor (binderNo a) l v, stOk) := by
  have hreached : reached (s.fld (F.bndReleases (binderNo a))) v = false :=
    Bool.eq_false_iff.mpr fun h => hearly ((reached_iff _ _).mp h)
  simp [State.binderOp, State.waitsFor, harmed, hreached, hlogical]

/-- R349: a WAIT of an agent that is no core. -/
theorem State.binderOp_wait_hedger (s : State) (a v : Nat) :
    s.binderOp { address := a, op := 12, value := v, from_ := .hedger } = (s.opRejected, stBadParam) := by
  simp [State.binderOp, State.opRejected]

/-- A WAIT of a core that the unit takes is answered as its POST. -/
theorem exec_binderWait_core {address : DWord} {v : Word} {c : CoreNo} {t u : State} (h : s.UnitAddress address.toNat)
    (hphys : s.phys c.val = some p) (hfenced : s.fencedCore p = false) (hposts : (s.core p).postsOut < 16)
    (hperformed : (s.postOut p).binderOp { address := address.toNat, op := 12, value := v.toNat, from_ := .core p } = (t, stOk))
    (hanswered : t.postAnswered p stOk = u) (hbops : u.bops = []) :
    exec (.binderWait (.core c) address v) s = .next u := by
  have haddr : (s.postOut p).UnitAddress address.toNat := ⟨h.aligned, h.space, h.offset, h.die, h.pos⟩
  have hbase : address.toNat / 64 * 64 = address.toNat := by
    have := h.aligned
    omega
  have hissued : s.spaceTwo (.core c) address 12 v.toNat = u := by
    unfold State.spaceTwo
    dsimp only
    rw [hphys]
    dsimp only
    rw [if_neg (by simp [hfenced, Nat.not_le.mpr hposts]), hbase, State.issueBinder_local haddr (by decide), hperformed]
    exact (congrArg State.unitWork hanswered).trans (State.unitWork_eq_self hbops)
  exact congrArg _ ((congrArg State.unitWork hissued).trans (State.unitWork_eq_self hbops))

/-- A core in Leaf whose WAIT the unit takes. -/
structure State.MayWait (s : State) (c : CoreNo) (p : Nat) : Prop where
  phys : s.phys c.val = some p
  logical : s.logical p = some c.val
  fenced : s.fencedCore p = false
  leaf : s.power p = pwLeaf
  posts : (s.core p).postsOut < 16
  own : (s.core p).frozenOwn = false
  live : s.coreState p ≠ csFaulted

theorem State.MayWait.answered {c : CoreNo} (h : s.MayWait c p) {t : State} (hcore : t.core p = (s.postOut p).core p)
    (hstate : t.coreState p = s.coreState p) : t.postAnswered p stOk = t.postDone p := by
  rw [State.core_postOut] at hcore
  refine (State.postAnswered_live ?_ ?_ (hstate ▸ h.live) stOk).trans (if_pos rfl)
  · rw [hcore]
    exact Nat.succ_ne_zero _
  · rw [hcore]
    exact h.own

/-- R351: a WAIT for a release that has come sets BINDER_WAKE and registers nothing. -/
theorem binderWait_late {address : DWord} {v : Word} {c : CoreNo} (h : s.UnitAddress address.toNat) (hwait : s.MayWait c p)
    (hbops : s.bops = []) (harmed : s.armed (binderNo address.toNat) = true)
    (hlate : 0 ≤ diff32 (s.fld (F.bndReleases (binderNo address.toNat))) v.toNat) :
    exec (.binderWait (.core c) address v) s =
      .next (((s.postOut p).setFld (F.corEventBinderWake p) 1).postDone p) := by
  have hsignal : (s.postOut p).signal p 2 = (s.postOut p).setFld (F.corEventBinderWake p) 1 :=
    State.signal_leaf rfl hwait.leaf
  refine exec_binderWait_core h hwait.phys hwait.fenced hwait.posts
    ((State.binderOp_wait_late (s := s.postOut p) harmed hlate).trans (by rw [hsignal])) (hwait.answered rfl ?_) hbops
  refine State.fld_setFld_ne (s.postOut p) ?_ _
  simp only [Fld.key, F.corStatusState, F.corEventBinderWake]
  omega

/-- R351: a WAIT for a later release registers the core. -/
theorem binderWait_registers {address : DWord} {v : Word} {c : CoreNo} (h : s.UnitAddress address.toNat)
    (hwait : s.MayWait c p) (hbops : s.bops = []) (harmed : s.armed (binderNo address.toNat) = true)
    (hearly : ¬ 0 ≤ diff32 (s.fld (F.bndReleases (binderNo address.toNat))) v.toNat) :
    exec (.binderWait (.core c) address v) s =
      .next (((s.postOut p).waitsFor (binderNo address.toNat) c.val v.toNat).postDone p) :=
  exec_binderWait_core h hwait.phys hwait.fenced hwait.posts
    (State.binderOp_wait_registers (s := s.postOut p) harmed hearly hwait.logical) (hwait.answered rfl rfl) hbops

theorem State.posts_postDone {u : State} (hcore : u.core p = (s.postOut p).core p) :
    ((u.postDone p).core p).postsOut = (s.core p).postsOut := by
  rw [State.core_postDone, hcore, State.core_postOut]
  rfl

end

/-! ### Role pulses (R367) -/

section
variable {s : State} {b v a : Nat}

/-- R367: a pulse that is accepted. -/
theorem State.binderOp_pulse {t : State} (hpulse : s.rolePulse (binderNo a) v = (t, stOk)) (o : Origin) :
    s.binderOp { address := a, op := 32, value := v, from_ := o } = (t, stOk) := by
  unfold State.binderOp
  dsimp only
  rw [if_pos rfl, hpulse]
  rfl

/-- A pulse that is rejected counts among the unit's rejections. -/
theorem State.binderOp_pulse_rejected {t : State} {status : Nat} (hpulse : s.rolePulse (binderNo a) v = (t, status))
    (hstatus : status ≠ stOk) (o : Origin) :
    s.binderOp { address := a, op := 32, value := v, from_ := o } = (t.opRejected, status) := by
  unfold State.binderOp
  dsimp only
  rw [if_pos rfl, hpulse]
  exact if_neg hstatus

theorem State.rolePulse_stale (hb : b < 256) (hstale : s.roleSet b = 0 ∨ v / 65536 % 65536 ≠ s.fld (F.winRoleSeason b)) :
    s.rolePulse b v = (s.addFld (F.winRoleStale b) 1, stSeasonStale) :=
  (if_neg (by omega)).trans (if_pos hstale)

/-- The physical cores of a role. -/
def State.roleCores (s : State) (b : Nat) : List Nat := (bitsOf 96 (s.roleSet b)).filterMap s.phys

/-- A role whose pulse has been counted and whose pending bits have been ORed. -/
def State.pulsed (s : State) (b v : Nat) : State :=
  (s.setFld (F.winRolePending b) (s.fld (F.winRolePending b) ||| v % 65536)).addFld (F.winRolePulses b) 1

theorem State.lt_of_mem_roleCores {q : Nat} (hq : q ∈ s.roleCores b) : q < 96 := by
  obtain ⟨l, -, hl⟩ := List.mem_filterMap.mp hq
  exact State.phys_lt hl

theorem State.unitOnly_pulsed (s : State) (hb : b < 256) (v : Nat) : unitOnly s (s.pulsed b v) := by
  refine ((unitOnly.refl s).setFld ?_ _).setFld (f := F.winRolePulses b) ?_ _ <;>
  · simp only [outsideUnit, Fld.key, F.winRolePending, F.winRolePulses]
    omega

/-- R367: a pulse with the role's season, at a role without a fenced core and with its cores in Leaf. -/
theorem State.rolePulse_accepted (hb : b < 256) (hset : s.roleSet b ≠ 0)
    (hseason : v / 65536 % 65536 = s.fld (F.winRoleSeason b)) (hfenced : (s.roleCores b).any s.fencedCore = false)
    (hleaf : ∀ q, q < 96 → s.power q = pwLeaf) :
    s.rolePulse b v = ((s.pulsed b v).setFlds (msgFields (s.roleCores b)), stOk) := by
  have hmsgs : (s.roleCores b).foldl (fun s p => s.signal p 7) (s.pulsed b v) =
      (s.pulsed b v).setFlds (msgFields (s.roleCores b)) :=
    State.signal_msgs fun q hq => ((s.unitOnly_pulsed hb v).power (State.lt_of_mem_roleCores hq)).trans
      (hleaf q (State.lt_of_mem_roleCores hq))
  refine (if_neg (by omega)).trans ((if_neg (not_or.mpr ⟨hset, not_not.mpr hseason⟩)).trans
    ((if_neg (ne_true_of_eq_false hfenced)).trans ?_))
  exact congrArg (fun u => (u, stOk)) hmsgs

/-- What an accepted pulse leaves. -/
theorem State.pulsed_facts (s : State) (hb : b < 256) (v : Nat) :
    ((s.pulsed b v).setFlds (msgFields (s.roleCores b))).fld (F.winRolePending b) =
        (s.fld (F.winRolePending b) ||| v % 65536) % 2 ^ 16 ∧
      ((s.pulsed b v).setFlds (msgFields (s.roleCores b))).fld (F.winRolePulses b) =
        (s.fld (F.winRolePulses b) + 1) % 2 ^ 32 ∧
      ((s.pulsed b v).setFlds (msgFields (s.roleCores b))).mem = s.mem ∧
      ((s.pulsed b v).setFlds (msgFields (s.roleCores b))).bops = s.bops ∧
      (∀ l q, l < 96 → (s.roleSet b).testBit l = true → s.phys l = some q →
        ((s.pulsed b v).setFlds (msgFields (s.roleCores b))).fld (F.corEventMsg q) = 1) := by
  have hne : (F.winRolePending b).key ≠ (F.winRolePulses b).key := by
    simp only [Fld.key, F.winRolePending, F.winRolePulses]
    omega
  obtain ⟨_, hset⟩ := (s.pulsed b v).setFlds_rest (msgFields (s.roleCores b))
  refine ⟨?_, ?_, by rw [hset]; rfl, by rw [hset]; rfl, ?_⟩
  · rw [State.fld_msgFields_ne]
    · exact (State.fld_addFld_ne _ hne 1).trans (State.fld_setFld _ _ _)
    · simp only [Fld.key, F.winRolePending]
      omega
  · rw [State.fld_msgFields_ne]
    · refine (State.fld_addFld _ _ _).trans ?_
      rw [State.fld_setFld_ne _ hne.symm]
      rfl
    · simp only [Fld.key, F.winRolePulses]
      omega
  · intro l q hl hbit hphys
    exact State.fld_msgFields (List.mem_filterMap.mpr ⟨l, mem_bitsOf.mpr ⟨hl, hbit⟩, hphys⟩) _

end

/-! ### ROLE_ASSIGN (R366) -/

section
variable {s : State} {p : Packet} {r : Nat}

/-- Fields of a role that ROLE_ASSIGN sets before its season, with their values. -/
def roleSettings (r name set : Nat) : List (Fld × Nat) :=
  [(F.winRoleName r, name), (F.winRolePending r, 0), (F.winRoleCores r 0, set % 2 ^ 32),
    (F.winRoleCores r 1, set / 2 ^ 32 % 2 ^ 32), (F.winRoleCores r 2, set / 2 ^ 64)]

/-- All fields of a role that ROLE_ASSIGN sets. -/
def roleFields (r name set season : Nat) : List (Fld × Nat) := roleSettings r name set ++ [(F.winRoleSeason r, season)]

theorem unitBlock_roleFields (hr : r < 256) (name set season : Nat) :
    UnitBlock (roleFields r name set season) (0x290000 + r * 0x40) (0x290040 + r * 0x40) := by
  refine ⟨?_, ?_, by omega⟩
  · intro x hx
    simp only [roleFields, roleSettings, List.cons_append, List.nil_append, List.mem_cons, List.not_mem_nil, or_false] at hx
    rcases hx with rfl | rfl | rfl | rfl | rfl | rfl <;>
    · simp only [Fld.key, F.winRoleName, F.winRolePending, F.winRoleCores, F.winRoleSeason]
      omega
  · simp only [roleFields, roleSettings, List.cons_append, List.nil_append, Fld.key, F.winRoleName, F.winRolePending,
      F.winRoleCores, F.winRoleSeason, List.map_cons, List.map_nil, List.nodup_cons, List.mem_cons, List.not_mem_nil,
      List.nodup_nil, or_false, not_or, not_false_eq_true, and_true]
    omega

/-- The low bytes of a number are those of its low part. -/
theorem leBytes_mod (x n : Nat) : leBytes n (x % 256 ^ n) = leBytes n x := by
  induction n generalizing x with
  | zero => rfl
  | succ n ih =>
    have hlow : x % 256 ^ (n + 1) % 256 = x % 256 := Nat.mod_mod_of_dvd x (Dvd.intro_left _ rfl)
    have hhigh : x % 256 ^ (n + 1) / 256 = x / 256 % 256 ^ n := by rw [pow_succ', Nat.mod_mul_right_div_self]
    unfold leBytes
    rw [hhigh, ih]
    congr 1
    exact BitVec.eq_of_toNat_eq (by simp [hlow])

/-- A season that advances with other fields set (R360, R366), and the reply that carries it. -/
theorem seasonReply (s : State) {l : List (Fld × Nat)} {f : Fld} {x : Nat} (hx : x = s.fld f)
    (hw : f.w = 16) :
    ({ s := (s.setFlds l).setFld f (nextSeason x),
       results := leBytes 2 (((s.setFlds l).setFld f (nextSeason x)).fld f) } : Resp) =
      { s := s.setFlds (l ++ [(f, nextSeason (s.fld f))]), results := leBytes 2 (nextSeason (s.fld f)) } := by
  subst hx
  have happend : s.setFlds (l ++ [(f, nextSeason (s.fld f))]) = (s.setFlds l).setFld f (nextSeason (s.fld f)) := by
    unfold State.setFlds
    rw [List.foldl_append]
    rfl
  rw [happend, State.fld_setFld, hw]
  exact congrArg (fun b => ({ s := (s.setFlds l).setFld f (nextSeason (s.fld f)), results := b } : Resp)) (leBytes_mod _ 2)

theorem exec_roleAssign (s : State) (p : Packet) :
    exec (.roleAssign p) s = .next (s.command handle { opcode := 0x0506, p }) := rfl

theorem handle_roleAssign (s : State) (p : Packet) (dev : Nat) :
    handle { opcode := 0x0506, p, dev } s = hRoleAssign { opcode := 0x0506, p, dev } s := by
  simp [handle, handlers, tfind]

theorem hRoleAssign_accepted {dev : Nat} (hlength : 20 ≤ p.params.length) (hset : packetPar p 8 12 < 2 ^ s.nLogical)
    (hfenced : ((bitsOf 96 (packetPar p 8 12)).filterMap s.phys).any s.fencedCore = false) :
    hRoleAssign { opcode := 0x0506, p, dev } s =
      { s := s.setFlds (roleFields (packetPar p 0 1) (packetPar p 4 4) (packetPar p 8 12)
          (nextSeason (s.fld (F.winRoleSeason (packetPar p 0 1))))),
        results := leBytes 2 (nextSeason (s.fld (F.winRoleSeason (packetPar p 0 1)))) } := by
  have hshape : ¬ (¬ ({ opcode := 0x0506, p, dev } : Cmd).has 20 = true ∨ 2 ^ s.nLogical ≤ packetPar p 8 12) := by
    simp only [Cmd.has, decide_eq_true_eq]
    omega
  have hother : ∀ y ∈ roleSettings (packetPar p 0 1) (packetPar p 4 4) (packetPar p 8 12),
      (F.winRoleSeason (packetPar p 0 1)).key ≠ y.1.key := by
    simp only [roleSettings, List.mem_cons, List.not_mem_nil, or_false, forall_eq_or_imp, forall_eq, Fld.key, F.winRoleName,
      F.winRolePending, F.winRoleCores, F.winRoleSeason]
    omega
  have hread : (s.setFlds ((roleSettings (packetPar p 0 1) (packetPar p 4 4) (packetPar p 8 12)).take 4)).fld
      (F.winRoleSeason (packetPar p 0 1)) = s.fld (F.winRoleSeason (packetPar p 0 1)) :=
    State.fld_setFlds_ne s fun y hy => hother y (List.mem_of_mem_take hy)
  exact (if_neg hshape).trans ((if_neg (ne_true_of_eq_false hfenced)).trans 
    (seasonReply s (l := roleSettings (packetPar p 0 1) (packetPar p 4 4) (packetPar p 8 12)) hread rfl))

theorem State.phys_offered (s : State) (p : Packet) (l : Nat) : (s.offered p).phys l = s.phys l := by
  unfold State.phys State.coreMap
  rw [s.fld_offered_ne p (by decide), s.fld_offered_ne p (by decide), s.fld_offered_ne p (by decide)]

theorem State.fencedCore_offered (s : State) (p : Packet) {q : Nat} (hq : q < 96) :
    (s.offered p).fencedCore q = s.fencedCore q := by
  unfold State.fencedCore
  rw [s.fld_offered_ne p]
  simp only [Fld.key, F.evgFenced, F.evgDiebackUnsaved]
  omega

theorem State.nLogical_offered (s : State) (p : Packet) : (s.offered p).nLogical = s.nLogical :=
  s.fld_offered_ne p (by decide)

/-- A list of cores is free of fenced ones before and after the packet is taken. -/
theorem State.anyFenced_offered (s : State) (p : Packet) (l : List Nat) :
    (l.filterMap (s.offered p).phys).any (s.offered p).fencedCore = (l.filterMap s.phys).any s.fencedCore := by
  rw [show (s.offered p).phys = s.phys from funext (s.phys_offered p)]
  rw [Bool.eq_iff_iff, List.any_eq_true, List.any_eq_true]
  refine exists_congr fun q => and_congr_right fun hq => ?_
  obtain ⟨l, -, hl⟩ := List.mem_filterMap.mp hq
  rw [s.fencedCore_offered p (State.phys_lt hl)]

end

/-- R366: an assigned role holds the name and the cores of the command, has no pulse pending, and has its next season. -/
theorem roleAssign_assigns {s : State} {p : Packet} (h : s.Takes 0x0506 p) (hlength : 20 ≤ p.params.length)
    (hset : packetPar p 8 12 < 2 ^ s.nLogical)
    (hfenced : ((bitsOf 96 (packetPar p 8 12)).filterMap s.phys).any s.fencedCore = false) :
    Answers (.roleAssign p) s fun t =>
      replies s t 0x0506 p stOk (leBytes 2 (nextSeason (s.fld (F.winRoleSeason (packetPar p 0 1))))) ∧
      (∀ x ∈ roleFields (packetPar p 0 1) (packetPar p 4 4) (packetPar p 8 12)
        (nextSeason (s.fld (F.winRoleSeason (packetPar p 0 1)))), t.fld x.1 = x.2 % 2 ^ x.1.w) ∧
      blockKept s t (0x290000 + packetPar p 0 1 * 0x40) (0x290040 + packetPar p 0 1 * 0x40) ∧ t.mem = s.mem := by
  have hr : packetPar p 0 1 < 256 := packetPar_lt p 0 1
  have hseason : (s.offered p).fld (F.winRoleSeason (packetPar p 0 1)) = s.fld (F.winRoleSeason (packetPar p 0 1)) := by
    refine s.fld_offered_ne p ?_
    simp only [Fld.key, F.winRoleSeason, F.evgDiebackUnsaved]
    omega
  have hoffered : UnitSet s (s.offered p) p [] := ⟨rfl, rfl, rfl, rfl, rfl⟩
  have hresp := hRoleAssign_accepted (s := s.offered p) (dev := (s.session.dev + 1) % 2 ^ 32) hlength
    ((s.nLogical_offered p).symm ▸ hset) ((s.anyFenced_offered p _).trans hfenced)
  rw [hseason] at hresp
  refine (h.setsUnit (fast := false) (exec_roleAssign s p) ((handle_roleAssign _ _ _).trans hresp) (hoffered.setFlds _)
    (unitBlock_roleFields hr _ _ _)).imp fun t ⟨hreplies, hfields, hkept, hmem, _⟩ => ⟨hreplies, hfields, hkept, hmem⟩

/-- Settles O34: a WAIT is answered at once or registers its core, a pulse is accepted by the season of its role, and
ROLE_ASSIGN sets the fields of a role. -/
theorem binderWaitsWake : Obligations.BinderWaitsWake := by
  unfold Obligations.BinderWaitsWake
  refine ⟨?_, ?_⟩
  · rintro s address v c p a b local_ rejected season ⟨haligned, hspace, hoff, hdie, hpos⟩ hbops _
    have haddr : s.UnitAddress a := ⟨haligned, hspace, hoff, hdie, hpos⟩
    have hno : binderNo a = b := haddr.binderNo
    have hseason : v.toNat / 65536 % 65536 = season := Nat.mod_eq_of_lt (show v.toNat / 65536 < 65536 by omega)
    refine ⟨?_, ?_, ?_, ?_⟩
    · intro harmed hphys hlogical _ hfenced hleaf hposts hown hlive late
      have hwait : s.MayWait c p := ⟨hphys, hlogical, hfenced, hleaf, hposts, hown, hlive⟩
      have hcount : (F.bndCount b).key ≠ (F.corEventBinderWake p).key := by
        simp only [Fld.key, F.bndCount, F.corEventBinderWake]
        omega
      by_cases hlate : late
      · refine .intro (binderWait_late haddr hwait hbops (hno.symm ▸ harmed) (hno.symm ▸ hlate)) ⟨fun _ => ⟨?_, rfl⟩,
          fun hearly => absurd hlate hearly, State.posts_postDone rfl, ?_, rfl⟩
        · exact State.fld_setFld (s.postOut p) _ _
        · exact State.fld_setFld_ne (s.postOut p) hcount _
      · refine .intro (binderWait_registers haddr hwait hbops (hno.symm ▸ harmed) (hno.symm ▸ hlate))
          ⟨fun h => absurd h hlate, fun _ => ?_, State.posts_postDone rfl, rfl, rfl⟩
        have hwaiters : ((((s.postOut p).waitsFor (binderNo a) c.val v.toNat).postDone p).binder b).waiters =
            tins (s.binder b).waiters c.val v.toNat := by
          rw [hno]
          exact congrArg BinderSt.waiters (State.binder_setBinder (s.postOut p) b _)
        rw [hwaiters]
        exact ⟨tfind_tins_self _ _ _, fun x hx => tfind_tins_ne _ hx _, rfl⟩
    · exact exec_spaceTwo_hedger haddr rfl (by decide) (State.binderOp_wait_hedger s a v.toNat) hbops
    · intro hb hset hcurrent hfenced hleaf
      obtain ⟨hpending, hpulses, hmem, hqueued, hmsgs⟩ := s.pulsed_facts hb v.toNat
      have hpulse := State.rolePulse_accepted hb hset (hseason.trans hcurrent) hfenced hleaf
      exact .intro (exec_spaceTwo_hedger haddr rfl (by decide) (State.binderOp_pulse (hno.symm ▸ hpulse) _)
        (hqueued.trans hbops)) ⟨hpending, hpulses, hmem, hmsgs⟩
    · intro hb hstale
      have hpulse : s.rolePulse b v.toNat = (s.addFld (F.winRoleStale b) 1, stSeasonStale) :=
        State.rolePulse_stale hb (hseason.symm ▸ hstale)
      have hkey : F.bndReject.key ≠ (F.winRoleStale b).key := by
        simp only [Fld.key, F.bndReject, F.winRoleStale]
        omega
      rw [← hno] at hpulse
      refine (exec_spaceTwo_hedger haddr rfl (by decide) (State.binderOp_pulse_rejected hpulse (by decide) _)
        hbops).trans ?_
      rw [hno]
      unfold State.opRejected
      rw [show (s.addFld (F.winRoleStale b) 1).addFld F.bndReject 1 = (s.addFld (F.winRoleStale b) 1).setFld F.bndReject
        ((s.addFld (F.winRoleStale b) 1).fld F.bndReject + 1) from rfl, State.fld_addFld_ne s hkey]
      rfl
  · intro s p r set season htakes hlength hset hfenced
    refine (roleAssign_assigns htakes hlength hset hfenced).imp fun t ⟨hreplies, hfields, hkept, hmem⟩ => ?_
    have hset96 : set < 2 ^ 96 := packetPar_lt p 8 12
    have hname : packetPar p 4 4 < 2 ^ 32 := packetPar_lt p 4 4
    simp only [roleFields, roleSettings, List.cons_append, List.nil_append, List.forall_mem_cons] at hfields
    obtain ⟨hnamed, hpending, hlow, hmiddle, hhigh, hadvanced, -⟩ := hfields
    refine ⟨hreplies, ?_, ?_, hpending, hadvanced, hkept, hmem⟩
    · have hlow32 : t.fld (F.winRoleCores r 0) = set % 2 ^ 32 % 2 ^ 32 := hlow
      have hmiddle32 : t.fld (F.winRoleCores r 1) = set / 2 ^ 32 % 2 ^ 32 % 2 ^ 32 := hmiddle
      have hhigh32 : t.fld (F.winRoleCores r 2) = set / 2 ^ 64 % 2 ^ 32 := hhigh
      unfold State.roleSet
      rw [hlow32, hmiddle32, hhigh32]
      omega
    · exact hnamed.trans (Nat.mod_eq_of_lt hname)

end Sys2Proof.Machine
end

section
/-! Messages between the binder units of dies (R355 to R357, R582). It settles O35. -/

namespace Sys2Proof.Machine

/-! ### Messages to send (R356, R582) -/

section
variable {s : State} {i : Nat} {x : BOut}

theorem mergeLast_eq_none {l : List BOut} (h : ∀ y ∈ l, y.address ≠ x.address) : mergeLast x l = none := by
  induction l with
  | nil => rfl
  | cons y l ih =>
    unfold mergeLast
    rw [ih fun z hz => h z (List.mem_cons_of_mem _ hz)]
    exact if_neg fun hmerges => h y List.mem_cons_self hmerges.1

/-- R356: a message with no other for its address among those that wait takes a place. -/
theorem State.queueOut_place (h : ∀ y ∈ (s.link i).bout, y.address ≠ x.address) (hroom : (s.link i).bout.length < 64) :
    s.queueOut i x = s.setLink i { s.link i with bout := (s.link i).bout ++ [x] } := by
  unfold State.queueOut
  dsimp only
  rw [mergeLast_eq_none h]
  exact if_pos hroom

theorem State.queueOut_first (h : (s.link i).bout = []) :
    s.queueOut i x = s.setLink i { s.link i with bout := [x] } := by
  refine (State.queueOut_place ?_ ?_).trans (by rw [h]; rfl) <;> simp [h]

/-- The answer to a message stands alone among those that wait for a flit of its link. -/
theorem State.bout_ackMessage (h : (s.link i).bout = []) (m : BinderMsg) (status : Nat) :
    ((s.ackMessage i m status).link i).bout =
      [{ address := m.address.toNat, op := if status = stOk then 3 else 4,
         value := if status = stOk then 0 else m.value.toNat, status, froms := [.unit] }] := by
  unfold State.ackMessage
  dsimp only
  rw [State.queueOut_first h, State.link_setLink]

/-- The answer to a message changes its link alone. -/
theorem State.ackMessage_kept (h : (s.link i).bout = []) (m : BinderMsg) (status : Nat) :
    (∀ g, (s.ackMessage i m status).fld g = s.fld g) ∧ (s.ackMessage i m status).mem = s.mem ∧
      (s.ackMessage i m status).inq = s.inq ∧ (s.ackMessage i m status).bops = s.bops := by
  unfold State.ackMessage
  dsimp only
  rw [State.queueOut_first h]
  exact ⟨fun _ => rfl, rfl, rfl, rfl⟩

end

/-! ### A message that arrives (R355, R357) -/

section
variable {s t : State} {i : Nat}

/-- R489: no sleep entry meets the traffic. -/
theorem State.stir_eq_self (h : s.fld F.pwrDieStatusState ≠ 1) : s.stir = s := if_neg h

/-- The unit with an operation taken from its inbound queue, which was empty. -/
def State.received (s : State) : State := s.setFld F.bndIncastPeak (max (s.fld F.bndIncastPeak) 1)

theorem State.fld_received_ne {g : Fld} (hg : g.key ≠ F.bndIncastPeak.key) (s : State) : s.received.fld g = s.fld g :=
  State.fld_setFld_ne _ hg _

/-- R357: an operation that arrives while the unit has no work is served at once. -/
theorem State.messageIn_alone {m : InMsg} (hinq : s.inq = []) (hserved : s.received.performIn i m = t) (htinq : t.inq = [])
    (htbops : t.bops = []) : s.messageIn i m = t := by
  have hempty : ∀ u : State, u.inq = [] → ({ u with inq := [] } : State) = u := fun u hu => by rw [← hu]
  have henter : s.enterInq i m = { s.received with inq := [(i, m)] } := by
    unfold State.enterInq
    dsimp only
    rw [hinq, if_neg (by decide)]
    rfl
  have hserve : ({ s.received with inq := [(i, m)] } : State).serveInq 257 =
      (({ s.received with inq := [] } : State).performIn i m |>.drain 1).serveInq 256 := rfl
  unfold State.messageIn
  rw [henter, hserve, hempty s.received hinq, hserved, State.drain_eq_self htbops]
  unfold State.serveInq
  rw [htinq]
  exact State.unitWork_eq_self htbops

end

/-! ### RELEASE (R350, R355) -/

section
variable {s : State} {i : Nat} {m : BinderMsg}

/-- A RELEASE for a binder of this die. -/
structure State.ReleaseFor (s : State) (m : BinderMsg) : Prop where
  op : m.op = 1
  aligned : m.address.toNat % 64 = 0
  space : m.address.toNat / 2 ^ 44 % 8 = 2
  offset : m.address.toNat % 2 ^ 44 < 2 ^ 19
  die : m.address.toNat / 2 ^ 47 = s.dieNo
  parent : s.fld (F.bndUp (binderNo m.address.toNat)) ≠ 0

/-- R355: a RELEASE is performed if it comes from the die of the binder's parent, and else rejected. -/
theorem State.ReleaseFor.performMessage (h : s.ReleaseFor m) (i : Nat) : s.performMessage i m =
    if s.fld (F.bndUp (binderNo m.address.toNat)) / 2 ^ 47 = m.source.toNat then
      (s.binderOp { address := m.address.toNat, op := 64, value := m.value.toNat, from_ := .link i }).1.ackMessage i m
        (s.binderOp { address := m.address.toNat, op := 64, value := m.value.toNat, from_ := .link i }).2
    else s.opRejected.ackMessage i m stBadParam := by
  obtain ⟨hop, haligned, hspace, hoff, hdie, hparent⟩ := h
  have hspaceTwo : addrSpace m.address.toNat = 2 := hspace
  have hthisDie : addrDie m.address.toNat = s.dieNo := hdie
  have hlocal : s.isLocal m.address.toNat = true := by simp [State.isLocal, hspaceTwo, hthisDie]
  have hlayout : s.layoutOk m.address.toNat = true := by
    unfold State.layoutOk
    rw [hspaceTwo]
    exact decide_eq_true hoff
  have hbase : m.address.toNat / 64 * 64 = m.address.toNat := by omega
  have hshape : ¬ (addrSpace m.address.toNat ≠ 2 ∨ ¬ s.layoutOk m.address.toNat = true ∨
      m.address.toNat % 64 ≠ (if m.op = 2 then 32 else 0)) := by
    simp [hspaceTwo, hlayout, hop, haligned]
  unfold State.performMessage
  dsimp only
  rw [if_neg (by rw [hop]; decide), if_neg (not_not.mpr hlocal), if_neg hshape, if_neg (by rw [hop]; decide),
    if_neg (by rw [hop]; decide), hbase]
  by_cases hsource : s.fld (F.bndUp (binderNo m.address.toNat)) / 2 ^ 47 = m.source.toNat
  · rw [if_pos hsource]
    exact if_neg (not_or.mpr ⟨hparent, not_not.mpr hsource⟩)
  · rw [if_neg hsource]
    exact if_pos (.inr hsource)

/-- R350, R355: a RELEASE that a binder waits for. -/
theorem State.binderOp_release {a v : Nat} (harmed : s.armed (binderNo a) = true)
    (hpending : s.fld (F.bndPendingUp (binderNo a)) ≠ 0) : s.binderOp { address := a, op := 64, value := v, from_ := .link i } =
      ((s.setFld (F.bndPendingUp (binderNo a)) (s.fld (F.bndPendingUp (binderNo a)) - 1)).release (binderNo a), stOk) := by
  simp [State.binderOp, harmed, hpending]

/-- A RELEASE taken by a binder that nothing waits on. -/
def State.releasedOnce (s : State) (b : Nat) : State :=
  ((s.setFld (F.bndPendingUp b) (s.fld (F.bndPendingUp b) - 1)).addFld (F.bndReleases b) 1).setBinder b {}

theorem State.release_pending {b : Nat} (htables : s.binder b = {}) (hqueues : s.queues = []) :
    (s.setFld (F.bndPendingUp b) (s.fld (F.bndPendingUp b) - 1)).release b = s.releasedOnce b :=
  State.release_lone (s := s.setFld (F.bndPendingUp b) (s.fld (F.bndPendingUp b) - 1)) htables hqueues

theorem State.releasedOnce_facts (s : State) (b : Nat) :
    (s.releasedOnce b).fld (F.bndPendingUp b) = (s.fld (F.bndPendingUp b) - 1) % 2 ^ 32 ∧
      (s.releasedOnce b).fld (F.bndReleases b) = (s.fld (F.bndReleases b) + 1) % 2 ^ 32 ∧
      (s.releasedOnce b).mem = s.mem ∧ (s.releasedOnce b).inq = s.inq ∧ (s.releasedOnce b).bops = s.bops ∧
      (s.releasedOnce b).links = s.links := by
  have hne : (F.bndPendingUp b).key ≠ (F.bndReleases b).key := by
    simp only [Fld.key, F.bndPendingUp, F.bndReleases]
    omega
  unfold State.releasedOnce
  rw [State.fld_setBinder, State.fld_setBinder, State.fld_addFld_ne _ hne, State.fld_setFld, State.fld_addFld,
    State.fld_setFld_ne _ hne.symm]
  exact ⟨rfl, rfl, rfl, rfl, rfl, rfl⟩

end

/-! ### Answers that arrive (R355, R369) -/

section
variable {s t : State} {i p : Nat} {m : BinderMsg} {x : BOut} {rest : List BOut}

/-- A link whose oldest message sent has been answered. -/
def State.answered (s : State) (i : Nat) (rest : List BOut) : State := s.setLink i { s.link i with bwait := rest }

/-- R355: an ACK or NAK for the oldest message sent, which carried one POST of a core. -/
theorem State.answerMessage_oldest (hwait : (s.link i).bwait = x :: rest) (haddress : x.address = m.address.toNat)
    (hfrom : x.froms = [.core p])
    (hanswered : (s.answered i rest).postAnswered p (if m.op = 3 then stOk else m.status.toNat) = t) (hbops : t.bops = []) :
    s.answerMessage i m = t := by
  unfold State.answerMessage takeFor
  dsimp only
  rw [hwait]
  dsimp only
  rw [if_pos haddress]
  dsimp only
  rw [hfrom]
  exact (congrArg State.unitWork hanswered).trans (State.unitWork_eq_self hbops)

end

/-! ### The operation that has waited longest (R582) -/

/-- R582: a place that is free is taken by the oldest operation that waited for one. -/
theorem owedMessageSend_takes {s : State} {link : LinkNo} {x : BOut} {rest : List BOut} (hbops : s.bops = [])
    (hroom : (s.link link.val).bout.length < 64) (hheld : (s.link link.val).bheld = x :: rest)
    (hother : ∀ y ∈ (s.link link.val).bout, y.address ≠ x.address) :
    exec (.owedMessageSend link) s = .next ((s.setLink link.val { s.link link.val with bheld := rest }).setLink link.val
      { s.link link.val with bheld := rest, bout := (s.link link.val).bout ++ [x] }) := by
  have hlink := State.link_setLink (s := s) link.val { s.link link.val with bheld := rest }
  have hplace := State.queueOut_place (s := s.setLink link.val { s.link link.val with bheld := rest }) (i := link.val)
    (x := x) (by rw [hlink]; exact hother) (by rw [hlink]; exact hroom)
  rw [hlink] at hplace
  change execOwedMessageSend link s = _
  unfold execOwedMessageSend
  dsimp only
  rw [if_neg (Nat.not_le.mpr hroom), hheld]
  exact congrArg Host.Outcome.next ((congrArg State.unitWork hplace).trans (State.unitWork_eq_self hbops))

/-! ### The instructions of an open link -/

section
variable {s : State} {link : LinkNo} {m : BinderMsg}

theorem exec_releaseMessage (hopen : s.linkOpen link.val = true) (hawake : s.fld F.pwrDieStatusState ≠ 1) (hop : m.op = 1) :
    exec (.releaseMessage link m) s = .next (s.messageIn link.val (.msg m)) :=
  congrArg Host.Outcome.next ((if_pos ⟨hopen, hop⟩).trans (by rw [State.stir_eq_self hawake]))

theorem exec_binderAck (hopen : s.linkOpen link.val = true) (hawake : s.fld F.pwrDieStatusState ≠ 1) (hop : m.op = 3) :
    exec (.binderAck link m) s = .next (s.answerMessage link.val m) :=
  congrArg Host.Outcome.next ((if_pos ⟨hopen, hop⟩).trans (by rw [State.stir_eq_self hawake]))

theorem exec_binderNak (hopen : s.linkOpen link.val = true) (hawake : s.fld F.pwrDieStatusState ≠ 1) (hop : m.op = 4) :
    exec (.binderNak link m) s = .next (s.answerMessage link.val m) :=
  congrArg Host.Outcome.next ((if_pos ⟨hopen, hop⟩).trans (by rw [State.stir_eq_self hawake]))

end

/-- Settles O35: a message is performed as it arrives, an answer reaches the core whose POST it answers, and a free place
is taken. -/
theorem binderMessages : Obligations.BinderMessages := by
  unfold Obligations.BinderMessages
  intro s link m x rest p i a b l up hopen hawake hbops hinq _
  refine ⟨?_, ?_, ?_⟩
  · intro hop haligned hspace hoff hdie hbout harmed htables hqueues hup
    have hno : binderNo m.address.toNat = b := by
      unfold binderNo addrOff
      omega
    have hkept : ∀ g : Fld, g.key < 0x298000 * 32 → s.received.fld g = s.fld g := by
      intro g hg
      refine State.fld_received_ne ?_ s
      simp only [Fld.key, F.bndIncastPeak] at hg ⊢
      omega
    have hfields : (F.bndUp b).key < 0x298000 * 32 ∧ (F.bndPendingUp b).key < 0x298000 * 32 ∧
        (F.bndReleases b).key < 0x298000 * 32 ∧ (F.bndCfgArmed b).key < 0x298000 * 32 := by
      simp only [Fld.key, F.bndUp, F.bndPendingUp, F.bndReleases, F.bndCfgArmed]
      omega
    obtain ⟨hupkey, hpendingkey, hreleaseskey, harmedkey⟩ := hfields
    have hdie' : s.received.dieNo = s.dieNo := State.dieNo_congr (hkept _ (by decide)) (hkept _ (by decide))
    have hrelease : s.received.ReleaseFor m :=
      ⟨hop, haligned, hspace, hoff, hdie.trans hdie'.symm, by rw [hno, hkept _ hupkey]; exact hup⟩
    have hperforms := hrelease.performMessage i
    rw [hno, hkept _ hupkey] at hperforms
    have hexec : ∀ {t}, s.received.performMessage i m = t → t.inq = [] → t.bops = [] →
        exec (.releaseMessage link m) s = .next t :=
      fun hserved htinq htbops => (exec_releaseMessage hopen hawake hop).trans
        (congrArg Host.Outcome.next (State.messageIn_alone hinq hserved htinq htbops))
    refine ⟨fun hsource hpending => ?_, fun hsource => ?_⟩
    · have harmed' : s.received.armed (binderNo m.address.toNat) = true := by
        unfold State.armed State.bit
        rw [hno, hkept _ harmedkey]
        exact harmed
      have hpending' : s.received.fld (F.bndPendingUp (binderNo m.address.toNat)) ≠ 0 := by
        rw [hno, hkept _ hpendingkey]
        exact hpending
      rw [if_pos hsource, State.binderOp_release harmed' hpending', hno,
        State.release_pending (s := s.received) htables hqueues] at hperforms
      obtain ⟨hset, hadvanced, hmem, hreleasedInq, hreleasedBops, hlinks⟩ := s.received.releasedOnce_facts b
      have hfree : ((s.received.releasedOnce b).link i).bout = [] :=
        (congrArg LinkSt.bout (State.link_congr hlinks i)).trans hbout
      obtain ⟨hack, hackMem, hackInq, hackBops⟩ := State.ackMessage_kept hfree m stOk
      rw [hkept _ hpendingkey] at hset
      rw [hkept _ hreleaseskey] at hadvanced
      exact .intro (hexec hperforms (hackInq.trans (hreleasedInq.trans hinq)) (hackBops.trans (hreleasedBops.trans hbops)))
        ⟨(hack _).trans hset, (hack _).trans hadvanced, hackMem.trans hmem, State.bout_ackMessage hfree m stOk⟩
    · rw [if_neg hsource] at hperforms
      have hcounted : ∀ g : Fld, g.key < 0x298000 * 32 → s.received.opRejected.fld g = s.fld g := by
        intro g hg
        refine (State.fld_addFld_ne _ ?_ 1).trans (hkept g hg)
        simp only [Fld.key, F.bndReject] at hg ⊢
        omega
      have hfree : (s.received.opRejected.link i).bout = [] := hbout
      obtain ⟨hack, _, hackInq, hackBops⟩ := State.ackMessage_kept hfree m stBadParam
      exact .intro (hexec hperforms (hackInq.trans hinq) (hackBops.trans hbops)) ⟨(hack _).trans (hcounted _ hreleaseskey),
        (hack _).trans (hcounted _ hpendingkey), State.bout_ackMessage hfree m stBadParam⟩
  · intro hwait haddress hfrom hp hposts hown hlive
    have hanswered : ∀ status, (s.answered i rest).postAnswered p status = _ :=
      fun status => State.postAnswered_live (s := s.answered i rest) hposts hown hlive status
    have hwaits : ((s.answered i rest).link i).bwait = rest := congrArg LinkSt.bwait (State.link_setLink s i _)
    have hdone : (((s.answered i rest).postDone p).core p).postsOut = (s.core p).postsOut - 1 :=
      congrArg CoreSt.postsOut ((s.answered i rest).core_postDone p)
    refine ⟨fun hop => ?_, fun hop hstatus => ?_⟩
    · have hack : s.answerMessage i m = (s.answered i rest).postDone p := by
        refine State.answerMessage_oldest hwait haddress hfrom ?_ hbops
        rw [if_pos hop, hanswered]
        exact if_pos rfl
      refine .intro ((exec_binderAck hopen hawake hop).trans (congrArg Host.Outcome.next hack)) ⟨hwaits, hdone, rfl, rfl⟩
    · have hbad : ¬ m.status.toNat = stOk := fun h => hstatus (BitVec.eq_of_toNat_eq h)
      have hnak : s.answerMessage i m = (((s.answered i rest).postDone p).setFld (F.corPostStatusStatus p)
          m.status.toNat).satFld (F.corPostStatusRejects p) 1 := by
        refine State.answerMessage_oldest hwait haddress hfrom ?_ hbops
        rw [if_neg (by rw [hop]; decide), hanswered]
        exact if_neg hbad
      refine .intro ((exec_binderNak hopen hawake hop).trans (congrArg Host.Outcome.next hnak)) ⟨hwaits, hdone, ?_, rfl⟩
      refine (State.fld_setFld_ne _ ?_ _).trans ((State.fld_setFld _ _ _).trans (Nat.mod_eq_of_lt m.status.isLt))
      simp only [Fld.key, F.corPostStatusStatus, F.corPostStatusRejects]
      omega
  · intro hroom hheld hother
    refine .intro (owedMessageSend_takes hbops hroom hheld hother) ⟨?_, ?_, fun j hj => ?_, rfl, rfl⟩
    · rw [State.link_setLink]
    · rw [State.link_setLink]
    · rw [State.link_setLink_ne _ hj, State.link_setLink_ne _ hj]

end Sys2Proof.Machine
end

section
/-! Writes to windows, WINDOW_OPEN and WINDOW_CLOSE (R132, R360, R361, R364). It settles O36. -/

namespace Sys2Proof.Machine

/-! ### A write that enters the mesh (R132, R285) -/

section
variable {s : State} {i p : Nat} {w : InWrite}

theorem State.deliverLoad_write (hroom : (s.core p).inbox.length < 16) : s.deliverLoad (.write p w) =
    some (.inl (s.setCore p { s.core p with inbox := (s.core p).inbox ++ [w] })) := by
  unfold State.deliverLoad
  exact if_pos hroom

/-- A write for a core here enters the core's buffer at once. -/
theorem State.sendRow_writeHere {o : OpenRow} (hopens : (s.router i).opens = []) (hdest : o.dest = i)
    (hload : o.load = .write p w) (hroom : (s.core p).inbox.length < 16) :
    ∃ r, s.sendRow i o = ((s.setRouter i { s.router i with opens := [o] }).setCore p
      { s.core p with inbox := (s.core p).inbox ++ [w] }).setRouter i r := by
  have hpass : ∀ u : State, u.core p = s.core p →
      u.deliverPass i [] [o] = (u.setCore p { s.core p with inbox := (s.core p).inbox ++ [w] }, []) := by
    intro u hcore
    unfold State.deliverPass
    rw [if_neg (by simp [hdest]), hload, State.deliverLoad_write (by rw [hcore]; exact hroom), hcore]
    rfl
  have hadmit : ∀ u : State, u.admitRows i [] [o] = [o] := by
    intro u
    unfold State.admitRows
    rw [hload]
    rfl
  unfold State.sendRow State.settleRouter
  dsimp only
  rw [State.router_setRouter, hopens, List.nil_append, if_pos (by simp [hdest]), hadmit, hpass _ (State.core_setRouter s i _ p)]
  exact ⟨_, rfl⟩

/-- R132: an accepted write to a core of the clump where it enters stands last in the core's inbound write buffer. -/
theorem State.acceptWrite_here (hopens : (s.router (p / 4)).opens = []) (hroom : (s.core p).inbox.length < 16)
    (home : Option Nat) (off : Nat) (data : List Byte) (o : Origin) (tag : Nat) (window : Option Nat) (ack : Bool) :
    ((s.acceptWrite home (p / 4) p off data o tag window ack).core p).inbox =
        (s.core p).inbox ++ [{ seq := s.inSeq, off, data, from_ := o, tag, window, ack }] ∧
      (s.acceptWrite home (p / 4) p off data o tag window ack).regs = s.regs ∧
      (s.acceptWrite home (p / 4) p off data o tag window ack).mem = s.mem ∧
      (s.acceptWrite home (p / 4) p off data o tag window ack).bops = s.bops := by
  obtain ⟨r, hsent⟩ := State.sendRow_writeHere (s := { s with inSeq := s.inSeq + 1 })
    (o := { from_ := 0, home, dest := p / 4,
            load := .write p { seq := s.inSeq, off, data, from_ := o, tag, window, ack } }) hopens rfl rfl hroom
  unfold State.acceptWrite
  dsimp only
  rw [show clumpOf p = p / 4 from rfl, hsent]
  exact ⟨congrArg CoreSt.inbox (State.core_setCore _ _ _), rfl, rfl, rfl⟩

end

/-! ### The checks of a window write (R361) -/

section
variable {s : State} {w byte n : Nat} {season : Option Nat}

/-- R361: the season that a write carries is not the window's, or it carries none where it must. -/
def State.staleAt (s : State) (w tag : Nat) : Prop :=
  (tag ≠ 0 ∧ tag ≠ s.fld (F.winSeason w)) ∨ (tag = 0 ∧ s.fld (F.winCfgAcceptUntagged w) ≠ 1)

theorem staleAt_iff (s : State) (w : Nat) (season : Option Nat) : s.staleAt w (season.getD 0) ↔
    (season.getD 0 ≠ 0 ∧ season.getD 0 ≠ s.fld (F.winSeason w)) ∨
      (season.getD 0 = 0 ∧ ¬ s.bit (F.winCfgAcceptUntagged w) = true) := by
  unfold State.staleAt State.bit
  rw [beq_iff_eq]

theorem State.windowStatus_closed (h : s.fld (F.winCfgState w) ≠ 1) : s.windowStatus w byte n season = stWindowClosed :=
  if_pos h

theorem State.windowStatus_stale (hopen : s.fld (F.winCfgState w) = 1) (hstale : s.staleAt w (season.getD 0)) :
    s.windowStatus w byte n season = stSeasonStale :=
  (if_neg (not_not.mpr hopen)).trans (if_pos ((staleAt_iff s w season).mp hstale))

theorem State.windowStatus_length (hopen : s.fld (F.winCfgState w) = 1) (hfresh : ¬ s.staleAt w (season.getD 0))
    (hlength : s.fld (F.winLength w) < byte + n) : s.windowStatus w byte n season = stBadParam :=
  (if_neg (not_not.mpr hopen)).trans ((if_neg fun h => hfresh ((staleAt_iff s w season).mpr h)).trans (if_pos hlength))

theorem State.windowStatus_ok {q : Nat} (hopen : s.fld (F.winCfgState w) = 1) (hfresh : ¬ s.staleAt w (season.getD 0))
    (hlength : byte + n ≤ s.fld (F.winLength w)) (hcore : s.windowCore w byte = some q) (hfenced : s.fencedCore q = false)
    (hleaf : s.power q = pwLeaf) : s.windowStatus w byte n season = stOk := by
  unfold State.windowStatus
  rw [if_neg (not_not.mpr hopen), if_neg fun h => hfresh ((staleAt_iff s w season).mpr h), if_neg (Nat.not_lt.mpr hlength),
    hcore]
  dsimp only
  rw [if_neg (ne_true_of_eq_false hfenced), if_neg (by rw [hleaf]; exact fun h => absurd h.1 (by decide))]

end

/-! ### A window write by Hedger (R361, R364) -/

section
variable {s : State} {p : LinkPacket} {q : Nat}

/-- A write of Hedger's to a window of this die, in one row, with no stream bound to a window. -/
structure State.ToWindow (s : State) (p : LinkPacket) : Prop where
  space : p.address.toNat / 2 ^ 44 % 8 = 5
  die : p.address.toNat / 2 ^ 47 = s.dieNo
  window : windowNo p.address.toNat < 1024
  pos : 0 < p.length
  most : p.length ≤ 256
  row : p.address.toNat % 256 + p.length ≤ 256
  streams : s.streams = []

/-- The season that a write carries. -/
def writeSeason (p : LinkPacket) : Option Nat := p.season.map BitVec.toNat

theorem State.ToWindow.exec (h : s.ToWindow p) : Machine.exec (.windowWrite .hedger p) s = .next
    (s.windowWrite none 0 p.address.toNat (slice p.data 0 p.length) (writeSeason p) .hedger 0).1.unitWork := by
  obtain ⟨hspace, hdie, -, hpos, hmost, hrow, -⟩ := h
  have hspaceFive : addrSpace p.address.toNat = 5 := hspace
  have hthisDie : addrDie p.address.toNat = s.dieNo := hdie
  have hlocal : s.isLocal p.address.toNat = true := by simp [State.isLocal, hspaceFive, hthisDie]
  have hinRow : inRow p.address.toNat p.length = true := by simp [inRow, hpos, hmost, hrow]
  exact congrArg Host.Outcome.next ((if_neg (not_not.mpr hspaceFive)).trans (if_pos ⟨hlocal, hinRow⟩))

theorem State.windowStream_none (h : s.streams = []) (w : Nat) : s.windowStream w = none := by
  unfold State.windowStream
  rw [h]
  rfl

/-- A write that fails a check is counted, and nothing else changes. -/
theorem State.ToWindow.rejected (h : s.ToWindow p) {st : Nat} (hstatus : s.windowStatus (windowNo p.address.toNat)
    (windowByte p.address.toNat) p.length (writeSeason p) = st) (hbad : st ≠ stOk) (hpd : st ≠ stPoweredDown) (hbops : s.bops = []) :
    Machine.exec (.windowWrite .hedger p) s = .next (s.windowNak (windowNo p.address.toNat) st) := by
  have hnote : ∀ (u : State) (c : Option Nat), (match c with | some q => u.notePd q st | none => u) = u := by
    intro u c
    cases c with
    | none => rfl
    | some q => exact if_neg hpd
  have hnak : (s.windowNak (windowNo p.address.toNat) st).bops = [] := by
    unfold State.windowNak
    split
    · exact hbops
    · split <;> exact hbops
  have hwrite : (s.windowWrite none 0 p.address.toNat (slice p.data 0 p.length) (writeSeason p) .hedger 0).1 =
      s.windowNak (windowNo p.address.toNat) st := by
    unfold State.windowWrite
    dsimp only
    rw [if_neg (Nat.not_le.mpr h.window), slice_length, hstatus, State.windowStream_none h.streams, if_neg Bool.false_ne_true,
      if_pos hbad]
    exact hnote _ _
  rw [h.exec, hwrite, State.unitWork_eq_self hnak]

/-- A window whose counters have counted a write of n bytes. -/
def State.windowCounted (s : State) (w n : Nat) (season : Option Nat) : State :=
  let u := (s.addFld (F.winAccepted w) 1).addFld (F.winBytes w) n
  if season.getD 0 = 0 then u.addFld (F.winUntagged w) 1 else u

theorem State.windowCounted_rest (s : State) (w n : Nat) (season : Option Nat) :
    ∃ regs, s.windowCounted w n season = { s with regs } := by
  unfold State.windowCounted
  dsimp only
  split <;> exact ⟨_, rfl⟩

theorem State.fld_windowCounted_ne {w : Nat} {g : Fld} (hg : g.key ∉ [(F.winAccepted w).key, (F.winBytes w).key,
    (F.winUntagged w).key]) (n : Nat) (season : Option Nat) : (s.windowCounted w n season).fld g = s.fld g := by
  simp only [List.mem_cons, List.not_mem_nil, or_false, not_or] at hg
  obtain ⟨haccepted, hbytes, huntagged⟩ := hg
  have hcounted : ((s.addFld (F.winAccepted w) 1).addFld (F.winBytes w) n).fld g = s.fld g :=
    (State.fld_addFld_ne _ hbytes _).trans (State.fld_addFld_ne _ haccepted _)
  unfold State.windowCounted
  dsimp only
  split
  · exact (State.fld_addFld_ne _ huntagged _).trans hcounted
  · exact hcounted

theorem State.windowCounted_counts (s : State) (w n : Nat) (season : Option Nat) :
    (s.windowCounted w n season).fld (F.winAccepted w) = (s.fld (F.winAccepted w) + 1) % 2 ^ 32 ∧
      (s.windowCounted w n season).fld (F.winBytes w) = (s.fld (F.winBytes w) + n) % 2 ^ 64 := by
  have hkeys : (F.winAccepted w).key ≠ (F.winBytes w).key ∧ (F.winAccepted w).key ≠ (F.winUntagged w).key ∧
      (F.winBytes w).key ≠ (F.winUntagged w).key := by
    simp only [Fld.key, F.winAccepted, F.winBytes, F.winUntagged]
    omega
  obtain ⟨hbytes, hacceptedUntagged, hbytesUntagged⟩ := hkeys
  have haccepted : ((s.addFld (F.winAccepted w) 1).addFld (F.winBytes w) n).fld (F.winAccepted w) =
      (s.fld (F.winAccepted w) + 1) % 2 ^ 32 := (State.fld_addFld_ne _ hbytes _).trans (State.fld_addFld _ _ _)
  have hcounted : ((s.addFld (F.winAccepted w) 1).addFld (F.winBytes w) n).fld (F.winBytes w) =
      (s.fld (F.winBytes w) + n) % 2 ^ 64 := by
    rw [State.fld_addFld, State.fld_addFld_ne _ hbytes.symm]
    rfl
  unfold State.windowCounted
  dsimp only
  split
  · exact ⟨(State.fld_addFld_ne _ hacceptedUntagged _).trans haccepted, (State.fld_addFld_ne _ hbytesUntagged _).trans hcounted⟩
  · exact ⟨haccepted, hcounted⟩

theorem State.unitOnly_windowCounted {w : Nat} (hw : w < 1024) (n : Nat) (season : Option Nat) :
    unitOnly s (s.windowCounted w n season) := by
  intro g hg
  refine State.fld_windowCounted_ne ?_ n season
  simp only [outsideUnit] at hg
  simp only [Fld.key, F.winAccepted, F.winBytes, F.winUntagged, List.mem_cons, List.not_mem_nil, or_false] at hg ⊢
  omega

/-- The core that a window write goes to is the one its window names, whatever the window has counted. -/
theorem State.windowCore_windowCounted {w : Nat} (hw : w < 1024) (byte n : Nat) (season : Option Nat) :
    (s.windowCounted w n season).windowCore w byte = s.windowCore w byte ∧
      (s.windowCounted w n season).windowOff w byte = s.windowOff w byte := by
  have hbase : (s.windowCounted w n season).fld (F.winBase w) = s.fld (F.winBase w) := by
    refine State.fld_windowCounted_ne ?_ n season
    simp only [Fld.key, F.winBase, F.winAccepted, F.winBytes, F.winUntagged, List.mem_cons, List.not_mem_nil, or_false]
    omega
  unfold State.windowCore State.windowOff
  rw [hbase]
  exact ⟨(State.unitOnly_windowCounted hw n season).phys _, rfl⟩

/-- R361, R364: a write that passes the checks is counted and accepted for its core. -/
theorem State.ToWindow.accepted (h : s.ToWindow p) (hstatus : s.windowStatus (windowNo p.address.toNat)
    (windowByte p.address.toNat) p.length (writeSeason p) = stOk)
    (hcore : s.windowCore (windowNo p.address.toNat) (windowByte p.address.toNat) = some q) (hq : q < 96)
    (hfenced : s.fencedCore q = false) (hleaf : s.power q = pwLeaf) :
    (s.windowWrite none 0 p.address.toNat (slice p.data 0 p.length) (writeSeason p) .hedger 0).1 =
      (s.windowCounted (windowNo p.address.toNat) p.length (writeSeason p)).acceptWrite none 0 q
        (s.windowOff (windowNo p.address.toNat) (windowByte p.address.toNat)) (slice p.data 0 p.length) .hedger 0
        (some (windowNo p.address.toNat)) false := by
  obtain ⟨hcounted, hoff⟩ := s.windowCore_windowCounted h.window (windowByte p.address.toNat) p.length (writeSeason p)
  have honly := State.unitOnly_windowCounted (s := s) h.window p.length (writeSeason p)
  have hmeets : (s.windowCounted (windowNo p.address.toNat) p.length (writeSeason p)).meetCore q =
      .ok (s.windowCounted (windowNo p.address.toNat) p.length (writeSeason p)) := by
    unfold State.meetCore
    rw [honly.fencedCore hq, honly.power hq, hfenced, hleaf]
    rfl
  unfold State.windowWrite
  dsimp only
  rw [if_neg (Nat.not_le.mpr h.window), slice_length, hstatus, State.windowStream_none h.streams, if_neg Bool.false_ne_true,
    if_neg (not_not.mpr rfl)]
  unfold State.windowCounted at hcounted hoff hmeets ⊢
  dsimp only at hcounted hoff hmeets ⊢
  rw [hcounted, hcore]
  dsimp only
  rw [hmeets]
  dsimp only
  rw [hoff]

/-- R132, R364: Hedger's write that passes the checks stands last in the buffer of its core, in the clump where it enters. -/
theorem State.ToWindow.enters (h : s.ToWindow p) (hstatus : s.windowStatus (windowNo p.address.toNat)
    (windowByte p.address.toNat) p.length (writeSeason p) = stOk)
    (hcore : s.windowCore (windowNo p.address.toNat) (windowByte p.address.toNat) = some q) (hq : q < 4)
    (hfenced : s.fencedCore q = false) (hleaf : s.power q = pwLeaf) (hbops : s.bops = []) (hopens : (s.router 0).opens = [])
    (hroom : (s.core q).inbox.length < 16) :
    Answers (.windowWrite .hedger p) s fun t =>
      t.regs = (s.windowCounted (windowNo p.address.toNat) p.length (writeSeason p)).regs ∧ t.mem = s.mem ∧
      ∃ e, (t.core q).inbox = (s.core q).inbox ++ [e] ∧
        e.off = s.windowOff (windowNo p.address.toNat) (windowByte p.address.toNat) ∧ e.data = slice p.data 0 p.length ∧
        e.window = some (windowNo p.address.toNat) := by
  have haccepted := h.accepted hstatus hcore (by omega) hfenced hleaf
  have hclump : q / 4 = 0 := by omega
  have hexec := h.exec
  rw [haccepted] at hexec
  obtain ⟨_, hrest⟩ := s.windowCounted_rest (windowNo p.address.toNat) p.length (writeSeason p)
  have hinboxes := State.acceptWrite_here (s := s.windowCounted (windowNo p.address.toNat) p.length (writeSeason p)) (p := q)
    (by rw [hrest, hclump]; exact hopens) (by rw [hrest]; exact hroom) none
    (s.windowOff (windowNo p.address.toNat) (windowByte p.address.toNat)) (slice p.data 0 p.length) .hedger 0
    (some (windowNo p.address.toNat)) false
  rw [hclump] at hinboxes
  obtain ⟨hinbox, hregs, hmem, hwork⟩ := hinboxes
  rw [State.unitWork_eq_self (hwork.trans (by rw [hrest]; exact hbops))] at hexec
  have hsame : (s.windowCounted (windowNo p.address.toNat) p.length (writeSeason p)).core q = s.core q := by
    rw [hrest]
    rfl
  rw [hsame] at hinbox
  exact .intro hexec ⟨hregs, hmem.trans (by rw [hrest]), _, hinbox, rfl, rfl, rfl⟩

end

/-! ### WINDOW_OPEN (R360) -/

theorem State.fld_congr {s t : State} (h : t.regs = s.regs) (g : Fld) : t.fld g = s.fld g := by
  unfold State.fld
  rw [h]

section
variable {s : State} {p : Packet} {w : Nat}

/-- Fields of a window that WINDOW_OPEN sets before its season, with their values. -/
def windowSettings (w flags cb base len : Nat) : List (Fld × Nat) :=
  [(F.winCfgState w, 1), (F.winCfgAcceptUntagged w, flags % 2), (F.winCfgCountEn w, flags / 2), (F.winCfgCountBinder w, cb),
    (F.winBase w, base), (F.winLength w, len)]

/-- All fields of a window that WINDOW_OPEN sets. -/
def windowFields (w flags cb base len season : Nat) : List (Fld × Nat) :=
  windowSettings w flags cb base len ++ [(F.winSeason w, season)]

theorem unitBlock_windowFields (hw : w ≤ 1023) (flags cb base len season : Nat) :
    UnitBlock (windowFields w flags cb base len season) (0x280000 + w * 0x40) (0x280040 + w * 0x40) := by
  refine ⟨?_, ?_, by omega⟩
  · intro x hx
    simp only [windowFields, windowSettings, List.cons_append, List.nil_append, List.mem_cons, List.not_mem_nil,
      or_false] at hx
    rcases hx with rfl | rfl | rfl | rfl | rfl | rfl | rfl <;>
    · simp only [Fld.key, F.winCfgState, F.winCfgAcceptUntagged, F.winCfgCountEn, F.winCfgCountBinder, F.winBase, F.winLength,
        F.winSeason]
      omega
  · simp only [windowFields, windowSettings, List.cons_append, List.nil_append, Fld.key, F.winCfgState,
      F.winCfgAcceptUntagged, F.winCfgCountEn, F.winCfgCountBinder, F.winBase, F.winLength, F.winSeason, List.map_cons,
      List.map_nil, List.nodup_cons, List.mem_cons, List.not_mem_nil, List.nodup_nil, or_false, not_or, not_false_eq_true,
      and_true]
    omega

/-- A WINDOW_OPEN whose values are in bounds, for a range of cores of the die (R360). -/
structure State.Opening (s : State) (p : Packet) : Prop where
  length : 0x14 ≤ p.params.length
  window : packetPar p 0 2 ≤ 1023
  flags : packetPar p 2 1 ≤ 3
  base : packetPar p 8 8 % 256 = 0
  pos : 0 < packetPar p 0x10 4
  rows : packetPar p 0x10 4 % 256 = 0
  within : packetPar p 8 8 + packetPar p 0x10 4 ≤ s.nLogical * 2 ^ 22
  binder : packetPar p 4 2 ≤ 8191
  closed : s.fld (F.winCfgState (packetPar p 0 2)) = 0
  counts : packetPar p 2 1 / 2 = 1 → s.armed (packetPar p 4 2) = true
  healthy : ∀ l, l < 96 → packetPar p 8 8 < (l + 1) * 2 ^ 22 → l * 2 ^ 22 < packetPar p 8 8 + packetPar p 0x10 4 →
    (s.phys l).any s.fencedCore = false

/-- The logical cores of a range of bytes. -/
def rangeCores (base last : Nat) : List Nat :=
  (List.range 96).filter fun l => decide (base < (l + 1) * coreBytes) && decide (l * coreBytes < last)

theorem State.Opening.unfenced (h : s.Opening p) :
    ((rangeCores (packetPar p 8 8) (packetPar p 8 8 + packetPar p 0x10 4)).filterMap s.phys).any s.fencedCore = false := by
  refine List.any_eq_false.mpr fun q hq => ?_
  obtain ⟨l, hl, hphys⟩ := List.mem_filterMap.mp hq
  obtain ⟨hrange, hover⟩ := List.mem_filter.mp hl
  obtain ⟨hbase, hlast⟩ := Bool.and_eq_true_iff.mp hover
  have hhealthy := h.healthy l (List.mem_range.mp hrange) (of_decide_eq_true hbase) (of_decide_eq_true hlast)
  rw [hphys] at hhealthy
  exact Bool.eq_false_iff.mp hhealthy

theorem State.winState_offered (s : State) (p : Packet) (w : Nat) :
    (s.offered p).fld (F.winCfgState w) = s.fld (F.winCfgState w) := by
  refine s.fld_offered_ne p ?_
  simp only [Fld.key, F.winCfgState, F.evgDiebackUnsaved]
  omega

theorem State.Opening.offered (h : s.Opening p) : (s.offered p).Opening p := by
  obtain ⟨hlength, hwindow, hflags, hbase, hpos, hrows, hwithin, hbinder, hclosed, hcounts, hhealthy⟩ := h
  refine ⟨hlength, hwindow, hflags, hbase, hpos, hrows, ?_, hbinder, ?_, ?_, ?_⟩
  · rw [s.nLogical_offered]
    exact hwithin
  · exact (s.winState_offered p _).trans hclosed
  · rw [s.armed_offered]
    exact hcounts
  · intro l hl hlow hhigh
    have hcore := hhealthy l hl hlow hhigh
    rw [s.phys_offered]
    cases hphys : s.phys l with
    | none => rfl
    | some q =>
      rw [hphys] at hcore
      exact (s.fencedCore_offered p (State.phys_lt hphys)).trans hcore

theorem exec_windowOpen (s : State) (p : Packet) :
    exec (.windowOpen p) s = .next (s.command handle { opcode := 0x0504, p }) := rfl

theorem handle_windowOpen (s : State) (p : Packet) (dev : Nat) :
    handle { opcode := 0x0504, p, dev } s = hWindowOpen { opcode := 0x0504, p, dev } s := by
  simp [handle, handlers, tfind]

theorem State.Opening.hWindowOpen (h : s.Opening p) (dev : Nat) :
    hWindowOpen { opcode := 0x0504, p, dev } s =
      { s := s.setFlds (windowFields (packetPar p 0 2) (packetPar p 2 1) (packetPar p 4 2) (packetPar p 8 8)
          (packetPar p 0x10 4) (nextSeason (s.fld (F.winSeason (packetPar p 0 2))))),
        results := leBytes 2 (nextSeason (s.fld (F.winSeason (packetPar p 0 2)))) } := by
  have hunfenced := h.unfenced
  obtain ⟨hlength, hwindow, hflags, hbase, hpos, hrows, hwithin, hbinder, hclosed, hcounts, -⟩ := h
  have hshape : ¬ (¬ ({ opcode := 0x0504, p, dev } : Cmd).has 0x14 = true ∨ 1023 < packetPar p 0 2 ∨ 3 < packetPar p 2 1 ∨
      packetPar p 8 8 % 256 ≠ 0 ∨ packetPar p 0x10 4 = 0 ∨ packetPar p 0x10 4 % 256 ≠ 0 ∨
      s.nLogical * coreBytes < packetPar p 8 8 + packetPar p 0x10 4 ∨ 8191 < packetPar p 4 2) := by
    have hcores : packetPar p 8 8 + packetPar p 0x10 4 ≤ s.nLogical * coreBytes := hwithin
    simp only [Cmd.has, decide_eq_true_eq]
    omega
  have hunarmed : ¬ (packetPar p 2 1 / 2 = 1 ∧ ¬ s.armed (packetPar p 4 2) = true) := fun hbad => hbad.2 (hcounts hbad.1)
  have hread : (s.setFlds (windowSettings (packetPar p 0 2) (packetPar p 2 1) (packetPar p 4 2) (packetPar p 8 8)
      (packetPar p 0x10 4))).fld (F.winSeason (packetPar p 0 2)) = s.fld (F.winSeason (packetPar p 0 2)) := by
    refine State.fld_setFlds_ne s ?_
    simp only [windowSettings, List.mem_cons, List.not_mem_nil, or_false, forall_eq_or_imp, forall_eq, Fld.key,
      F.winCfgState, F.winCfgAcceptUntagged, F.winCfgCountEn, F.winCfgCountBinder, F.winBase, F.winLength, F.winSeason]
    omega
  exact (if_neg hshape).trans ((if_neg (not_not.mpr hclosed)).trans ((if_neg hunarmed).trans
    ((if_neg (ne_true_of_eq_false hunfenced)).trans (seasonReply s (l := windowSettings _ _ _ _ _) hread rfl))))

/-- R360: an opened window holds the values of the command and has its next season. -/
theorem windowOpen_opens (h : s.Takes 0x0504 p) (hopening : s.Opening p) :
    Answers (.windowOpen p) s fun t =>
      replies s t 0x0504 p stOk (leBytes 2 (nextSeason (s.fld (F.winSeason (packetPar p 0 2))))) ∧
      (∀ x ∈ windowFields (packetPar p 0 2) (packetPar p 2 1) (packetPar p 4 2) (packetPar p 8 8) (packetPar p 0x10 4)
        (nextSeason (s.fld (F.winSeason (packetPar p 0 2)))), t.fld x.1 = x.2 % 2 ^ x.1.w) ∧
      blockKept s t (0x280000 + packetPar p 0 2 * 0x40) (0x280040 + packetPar p 0 2 * 0x40) ∧ t.mem = s.mem := by
  have hseason : (s.offered p).fld (F.winSeason (packetPar p 0 2)) = s.fld (F.winSeason (packetPar p 0 2)) := by
    refine s.fld_offered_ne p ?_
    simp only [Fld.key, F.winSeason, F.evgDiebackUnsaved]
    omega
  have hoffered : UnitSet s (s.offered p) p [] := ⟨rfl, rfl, rfl, rfl, rfl⟩
  have hresp := hopening.offered.hWindowOpen ((s.session.dev + 1) % 2 ^ 32)
  rw [hseason] at hresp
  refine (h.setsUnit (fast := false) (exec_windowOpen s p) ((handle_windowOpen _ _ _).trans hresp) (hoffered.setFlds _)
    (unitBlock_windowFields hopening.window _ _ _ _ _)).imp
      fun t ⟨hreplies, hfields, hkept, hmem, _⟩ => ⟨hreplies, hfields, hkept, hmem⟩

end

/-! ### WINDOW_CLOSE and its completion (R360) -/

section
variable {s : State} {p : Packet} {fast : Bool}

theorem exec_windowClose (s : State) (p : Packet) (fast : Bool) :
    exec (.windowClose p fast) s = .next (s.command handle { opcode := 0x0505, p, fast }) := rfl

theorem handle_windowClose (s : State) (p : Packet) (fast : Bool) (dev : Nat) :
    handle { opcode := 0x0505, p, fast, dev } s = hWindowClose { opcode := 0x0505, p, fast, dev } s := by
  simp [handle, handlers, tfind]

/-- R360: a window that is not open, or a window number out of range, is rejected; a window without a stream is closed at
once if it is quiet, and else by a long operation. -/
theorem hWindowClose_eq (hlength : 2 ≤ p.params.length) (hw : packetPar p 0 2 ≤ 1023)
    (hstream : s.windowStream (packetPar p 0 2) = none) (dev : Nat) :
    hWindowClose { opcode := 0x0505, p, fast, dev } s =
      if s.fld (F.winCfgState (packetPar p 0 2)) ≠ 1 then rej s stBadParam
      else if fast = true ∧ s.windowQuiet (packetPar p 0 2) = true then { s := s.setFld (F.winCfgState (packetPar p 0 2)) 0 }
      else s.startLong { opcode := 0x0505, p, fast, dev } (packetPar p 0 2)
        fun s _ => s.setFld (F.winCfgState (packetPar p 0 2)) 2 := by
  have hshape : ¬ (¬ ({ opcode := 0x0505, p, fast, dev } : Cmd).has 2 = true ∨ 1023 < packetPar p 0 2) := by
    simp only [Cmd.has, decide_eq_true_eq]
    omega
  have hunbound : ¬ (s.windowStream (packetPar p 0 2)).isSome = true := by simp [hstream]
  refine (if_neg hshape).trans ?_
  by_cases hstate : s.fld (F.winCfgState (packetPar p 0 2)) ≠ 1
  · exact (if_pos hstate).trans (if_pos hstate).symm
  · exact (if_neg hstate).trans ((if_neg hunbound).trans (if_neg hstate).symm)

theorem State.windowStream_offered (s : State) (p : Packet) (w : Nat) : (s.offered p).windowStream w = s.windowStream w := by
  obtain ⟨_, _, _, _, he, -⟩ := s.offered_eq p
  rw [he]
  rfl

theorem State.windowQuiet_offered (s : State) (p : Packet) (w : Nat) : (s.offered p).windowQuiet w = s.windowQuiet w := by
  obtain ⟨_, _, _, _, he, -⟩ := s.offered_eq p
  rw [he]
  rfl

/-- What the handler of a taken WINDOW_CLOSE finds. -/
theorem handle_windowClose_offered (hlength : 2 ≤ p.params.length) (hw : packetPar p 0 2 ≤ 1023)
    (hstream : s.windowStream (packetPar p 0 2) = none) (dev : Nat) :
    handle { opcode := 0x0505, p, fast, dev } (s.offered p) =
      if s.fld (F.winCfgState (packetPar p 0 2)) ≠ 1 then rej (s.offered p) stBadParam
      else if fast = true ∧ s.windowQuiet (packetPar p 0 2) = true then
        { s := (s.offered p).setFld (F.winCfgState (packetPar p 0 2)) 0 }
      else (s.offered p).startLong { opcode := 0x0505, p, fast, dev } (packetPar p 0 2)
        fun s _ => s.setFld (F.winCfgState (packetPar p 0 2)) 2 := by
  rw [handle_windowClose, hWindowClose_eq hlength hw ((s.windowStream_offered p _).trans hstream), s.winState_offered,
    s.windowQuiet_offered]

theorem windowClose_rejected (h : s.Takes 0x0505 p) (hlength : 2 ≤ p.params.length) (hw : packetPar p 0 2 ≤ 1023)
    (hstream : s.windowStream (packetPar p 0 2) = none) (hstate : s.fld (F.winCfgState (packetPar p 0 2)) ≠ 1) :
    Answers (.windowClose p fast) s fun t => onlyReplies s t 0x0505 p stBadParam [] :=
  .intro ((exec_windowClose s p fast).trans (congrArg Host.Outcome.next
    (h.command_fast ((handle_windowClose_offered hlength hw hstream _).trans (if_pos hstate)) h.replying)))
    (h.onlyReplies stBadParam)

theorem windowClose_quiet (h : s.Takes 0x0505 p) (hlength : 2 ≤ p.params.length) (hw : packetPar p 0 2 ≤ 1023)
    (hstream : s.windowStream (packetPar p 0 2) = none) (hstate : s.fld (F.winCfgState (packetPar p 0 2)) = 1)
    (hfast : fast = true) (hquiet : s.windowQuiet (packetPar p 0 2) = true) :
    Answers (.windowClose p fast) s fun t =>
      replies s t 0x0505 p stOk [] ∧ t.fld (F.winCfgState (packetPar p 0 2)) = 0 ∧ t.mem = s.mem := by
  have hoffered : UnitSet s (s.offered p) p [] := ⟨rfl, rfl, rfl, rfl, rfl⟩
  have hblock : UnitBlock [(F.winCfgState (packetPar p 0 2), 0)] (0x280000 + packetPar p 0 2 * 0x40)
      (0x280040 + packetPar p 0 2 * 0x40) := by
    refine ⟨?_, List.nodup_singleton (F.winCfgState (packetPar p 0 2)).key, by omega⟩
    intro x hx
    obtain rfl := List.mem_singleton.mp hx
    simp only [Fld.key, F.winCfgState]
    omega
  have hresp : handle { opcode := 0x0505, p, fast, dev := (s.session.dev + 1) % 2 ^ 32 } (s.offered p) =
      { s := (s.offered p).setFld (F.winCfgState (packetPar p 0 2)) 0, results := [] } :=
    (handle_windowClose_offered hlength hw hstream _).trans ((if_neg (not_not.mpr hstate)).trans (if_pos ⟨hfast, hquiet⟩))
  have hclosed : UnitSet s ((s.offered p).setFld (F.winCfgState (packetPar p 0 2)) 0) p
      [(F.winCfgState (packetPar p 0 2), 0)] := hoffered.setFlds [(F.winCfgState (packetPar p 0 2), 0)]
  have hset := h.setsUnit (fast := fast) (exec_windowClose s p fast) hresp hclosed hblock
  refine hset.imp ?_
  rintro t ⟨hreplies, hfields, -, hmem, -⟩
  have hstate : t.fld (F.winCfgState (packetPar p 0 2)) = 0 % 2 ^ 2 :=
    hfields (F.winCfgState (packetPar p 0 2), 0) List.mem_cons_self
  exact ⟨hreplies, hstate, hmem⟩

theorem windowClose_begins (h : s.Takes 0x0505 p) (hlength : 2 ≤ p.params.length) (hw : packetPar p 0 2 ≤ 1023)
    (hstream : s.windowStream (packetPar p 0 2) = none) (hstate : s.fld (F.winCfgState (packetPar p 0 2)) = 1)
    (hstart : s.canStart 0x0505 p (packetPar p 0 2)) :
    Answers (.windowClose p false) s fun t =>
      starts s t 0x0505 p (packetPar p 0 2) ∧ t.fld (F.winCfgState (packetPar p 0 2)) = 2 := by
  obtain ⟨est, hlong⟩ := s.startLong_canStart (dev := (s.session.dev + 1) % 2 ^ 32) hstart
    fun u _ => u.setFld (F.winCfgState (packetPar p 0 2)) 2
  have hunit : unitOnly (s.opStarted 0x0505 p (packetPar p 0 2))
      ((s.opStarted 0x0505 p (packetPar p 0 2)).setFld (F.winCfgState (packetPar p 0 2)) 2) := by
    refine (unitOnly.refl _).setFld ?_ 2
    simp only [outsideUnit, Fld.key, F.winCfgState]
    omega
  have hstarting := (h.starting (packetPar p 0 2)).of_session
    (v := (s.opStarted 0x0505 p (packetPar p 0 2)).setFld (F.winCfgState (packetPar p 0 2)) 2) rfl rfl
    (hunit.linkUp (by have := p.link.isLt; omega))
  have hcommand := h.command_fast (fast := false) ((handle_windowClose_offered hlength hw hstream _).trans
    ((if_neg (not_not.mpr hstate)).trans ((if_neg fun hfast => absurd hfast.1 Bool.false_ne_true).trans hlong)))
    hstarting.replying
  refine .intro ((exec_windowClose s p false).trans (congrArg Host.Outcome.next hcommand)) ⟨hstarting.starts, ?_⟩
  exact ((State.replied_moves _ s 0x0505 p stAccepted _).fld _).trans
    (State.fld_setFld (s.opStarted 0x0505 p (packetPar p 0 2)) _ _)

theorem State.opLive_of_runningOp {opcode object id : Nat} (h : s.runningOp opcode object = some id) : s.opLive id := by
  obtain ⟨o, hfound, hid⟩ := Option.map_eq_some_iff.mp h
  have hprop := List.find?_some hfound
  refine ⟨o, List.mem_of_find?_eq_some hfound, hid, fun hdone => ?_⟩
  simp [hdone] at hprop

/-- R360: the close of a window ends once the window is quiet. -/
theorem windowCloseDone_closes {x : WinNo} {id : Nat} (hop : s.runningOp 0x0505 x.val = some id)
    (hquiet : s.windowQuiet x.val = true) :
    Answers (.windowCloseDone x) s fun t =>
      t.fld (F.winCfgState x.val) = 0 ∧ finishes s t id stOk [] ∧ t.mem = s.mem := by
  have hexec : exec (.windowCloseDone x) s = .next ((s.setFld (F.winCfgState x.val) 0).finishOp id stOk []) := by
    change execWindowCloseDone x s = _
    unfold execWindowCloseDone
    rw [hop]
    exact congrArg Host.Outcome.next (if_pos hquiet)
  refine .intro hexec ⟨?_, State.finishOp_finishes (State.opLive_of_runningOp hop) rfl, ?_⟩
  · refine (State.fld_finishOp_ne _ _ _ _ ?_ ?_).trans (State.fld_setFld _ _ _) <;>
    · simp only [Fld.key, F.winCfgState, F.fltEvtNext, F.fltEvtLost]
      omega
  · obtain ⟨_, _, _, hfinished⟩ := (s.setFld (F.winCfgState x.val) 0).finishOp_eq id stOk []
    rw [hfinished]
    rfl

end

/-- Settles O36: each check of a window write counts by itself, an accepted write reaches its core's buffer, and the host's
commands open and close a window. -/
theorem windowWrites : Obligations.WindowWrites := by
  unfold Obligations.WindowWrites
  refine ⟨?_, ?_, ?_⟩
  · intro s p q a w byte n tag counts open_ stale target hspace hdie hw hpos hmost hrow hbops hstreams
    have hto : s.ToWindow p := ⟨hspace, hdie, hw, hpos, hmost, hrow, hstreams⟩
    have hbyte : windowByte a = byte := Nat.mod_mod_of_dvd _ (by decide)
    refine ⟨fun hclosed => ?_, fun hopen hstale => ?_, fun hopen hfresh hlength => ?_, ?_⟩
    · exact hto.rejected (State.windowStatus_closed hclosed) (by decide) (by decide) hbops
    · exact hto.rejected (State.windowStatus_stale hopen hstale) (by decide) (by decide) hbops
    · exact hto.rejected (State.windowStatus_length hopen hfresh (hbyte.symm ▸ hlength)) (by decide) (by decide) hbops
    · intro hopen hfresh hlength hphys hfenced hleaf hq hopens hroom
      have hcore : s.windowCore w (windowByte a) = some q := hbyte.symm ▸ hphys
      have hstatus := State.windowStatus_ok (season := writeSeason p) hopen hfresh (hbyte.symm ▸ hlength) hcore hfenced hleaf
      obtain ⟨hwrites, hbytes⟩ := s.windowCounted_counts w n (writeSeason p)
      refine (hto.enters hstatus hcore hq hfenced hleaf hbops hopens hroom).imp ?_
      rintro t ⟨hregs, hmem, e, hinbox, hoff, hdata, hwindow⟩
      exact ⟨(State.fld_congr hregs _).trans hwrites, (State.fld_congr hregs _).trans hbytes, hmem, e, hinbox,
        hoff.trans (congrArg (fun x => (s.fld (F.winBase w) + x) % coreBytes) hbyte), hdata, hwindow⟩
  · intro s p w flags base len season htakes hlength hw hflags hbase hpos hrows hwithin _ hbinder hclosed hcounts hhealthy
    refine (windowOpen_opens htakes ⟨hlength, hw, hflags, hbase, hpos, hrows, hwithin, hbinder, hclosed, hcounts,
      hhealthy⟩).imp fun t ⟨hreplies, hfields, hkept, hmem⟩ => ?_
    simp only [windowFields, windowSettings, List.cons_append, List.nil_append, List.forall_mem_cons] at hfields
    obtain ⟨hstate, huntagged, hcount, hcountBinder, hbased, hlong, hseason, -⟩ := hfields
    refine ⟨hreplies, hstate, ?_, ?_, ?_, ?_, ?_, hseason, hmem, hkept⟩
    · exact huntagged.trans (Nat.mod_eq_of_lt (show flags % 2 < 2 ^ 1 by omega))
    · exact hcount.trans (Nat.mod_eq_of_lt (show flags / 2 < 2 ^ 1 by omega))
    · exact hcountBinder.trans (Nat.mod_eq_of_lt (show packetPar p 4 2 < 2 ^ 13 by omega))
    · exact hbased.trans (Nat.mod_eq_of_lt (show base < 2 ^ 29 by omega))
    · exact hlong.trans (Nat.mod_eq_of_lt (show len < 2 ^ 29 by omega))
  · intro s p fast w hstream hw
    refine ⟨?_, ?_, ?_, ?_⟩
    · exact fun htakes hlength hstate => windowClose_rejected htakes hlength hw hstream hstate
    · exact fun htakes hlength hstate hfast hquiet => windowClose_quiet htakes hlength hw hstream hstate hfast hquiet
    · rintro htakes hlength hstate rfl hstart
      exact windowClose_begins htakes hlength hw hstream hstate hstart
    · rintro x id hx hop hquiet
      rw [← hx] at hop hquiet ⊢
      exact windowCloseDone_closes hop hquiet

end Sys2Proof.Machine
end

section
/-! How a link leaves a state: its training state cleared, its traffic held or its attempt failed (R395 to R398, R404,
R415). -/

namespace Sys2Proof.Machine

/-! ### What only links, registers and a stage's reasons change -/

/-- From s to t only register fields, links and the reasons of the stage that runs have changed. -/
def linkWork (s t : State) : Prop := ∃ regs links losses, t = { s with regs, links, losses }

section
variable {s t : State}

theorem linkWork.refl (s : State) : linkWork s s := ⟨_, _, _, rfl⟩

theorem linkWork.trans {u : State} (h : linkWork s t) (h' : linkWork t u) : linkWork s u := by
  obtain ⟨_, _, _, rfl⟩ := h
  obtain ⟨_, _, _, rfl⟩ := h'
  exact ⟨_, _, _, rfl⟩

theorem linkWork.setFld (h : linkWork s t) (f : Fld) (v : Nat) : linkWork s (t.setFld f v) := by
  obtain ⟨_, _, _, rfl⟩ := h
  exact ⟨_, _, _, rfl⟩

theorem linkWork.addFld (h : linkWork s t) (f : Fld) (n : Nat) : linkWork s (t.addFld f n) := h.setFld f _

theorem linkWork.setLink (h : linkWork s t) (i : Nat) (x : LinkSt) : linkWork s (t.setLink i x) := by
  obtain ⟨_, _, _, rfl⟩ := h
  exact ⟨_, _, _, rfl⟩

theorem linkWork.setFlds (h : linkWork s t) (l : List (Fld × Nat)) : linkWork s (t.setFlds l) := by
  obtain ⟨_, _, _, rfl⟩ := h
  obtain ⟨_, hset⟩ := State.setFlds_rest _ l
  exact ⟨_, _, _, hset⟩

theorem linkWork.mem (h : linkWork s t) : t.mem = s.mem := by obtain ⟨_, _, _, rfl⟩ := h; rfl
theorem linkWork.cores (h : linkWork s t) : t.cores = s.cores := by obtain ⟨_, _, _, rfl⟩ := h; rfl
theorem linkWork.kernels (h : linkWork s t) : t.kernels = s.kernels := by obtain ⟨_, _, _, rfl⟩ := h; rfl
theorem linkWork.bops (h : linkWork s t) : t.bops = s.bops := by obtain ⟨_, _, _, rfl⟩ := h; rfl
theorem linkWork.log (h : linkWork s t) : t.log = s.log := by obtain ⟨_, _, _, rfl⟩ := h; rfl
theorem linkWork.chans (h : linkWork s t) : t.chans = s.chans := by obtain ⟨_, _, _, rfl⟩ := h; rfl
theorem linkWork.session (h : linkWork s t) : t.session = s.session := by obtain ⟨_, _, _, rfl⟩ := h; rfl
theorem linkWork.time (h : linkWork s t) : t.time = s.time := by obtain ⟨_, _, _, rfl⟩ := h; rfl

end

section
variable (s : State) (k reason : Nat)

/-- A reason noted with a stage changes nothing but the list of reasons. -/
theorem State.lose_eq : ∃ losses, s.lose k reason = { s with losses } := by
  unfold State.lose
  split
  · exact ⟨_, rfl⟩
  · exact ⟨_, rfl⟩

theorem State.lose_regs : (s.lose k reason).regs = s.regs := by obtain ⟨_, h⟩ := s.lose_eq k reason; rw [h]
theorem State.lose_links : (s.lose k reason).links = s.links := by obtain ⟨_, h⟩ := s.lose_eq k reason; rw [h]

@[simp] theorem State.fld_lose (f : Fld) : (s.lose k reason).fld f = s.fld f := State.fld_congr (s.lose_regs k reason) f
@[simp] theorem State.linkState_lose (i : Nat) : (s.lose k reason).linkState i = s.linkState i := s.fld_lose k reason _
@[simp] theorem State.link_lose (i : Nat) : (s.lose k reason).link i = s.link i := State.link_congr (s.lose_links k reason) i

end

@[simp] theorem State.linkState_setLink (s : State) (j : Nat) (x : LinkSt) (i : Nat) : (s.setLink j x).linkState i = s.linkState i :=
  s.fld_setLink j x _

theorem linkWork.lose {s t : State} (h : linkWork s t) (k reason : Nat) : linkWork s (t.lose k reason) := by
  obtain ⟨_, hlose⟩ := t.lose_eq k reason
  obtain ⟨_, _, _, rfl⟩ := h
  exact ⟨_, _, _, hlose⟩

theorem fieldsKept.lose {s t : State} {keys : List Nat} (h : fieldsKept s t keys) (k reason : Nat) :
    fieldsKept s (t.lose k reason) keys := fun g hg => (t.fld_lose k reason g).trans (h g hg)

theorem fieldsKept.trans {s t u : State} {keys : List Nat} (h : fieldsKept s t keys) (h' : fieldsKept t u keys) :
    fieldsKept s u keys := fun g hg => (h' g hg).trans (h g hg)

theorem fieldsKept.mono {s t : State} {keys keys' : List Nat} (h : fieldsKept s t keys) (hkeys : keys ⊆ keys') :
    fieldsKept s t keys' := fun g hg => h g fun hm => hg (hkeys hm)

theorem fieldsKept.addFld {s t : State} {keys : List Nat} (h : fieldsKept s t keys) {f : Fld} (hf : f.key ∈ keys) (n : Nat) :
    fieldsKept s (t.addFld f n) keys := h.setFld hf _

theorem fieldsKept.setLink {s t : State} {keys : List Nat} (h : fieldsKept s t keys) (i : Nat) (x : LinkSt) :
    fieldsKept s (t.setLink i x) keys := h

theorem fieldsKept_setFlds (s : State) (l : List (Fld × Nat)) : fieldsKept s (s.setFlds l) (l.map fun x => x.1.key) :=
  fun _ hg => s.fld_setFlds_ne fun _ hx e => hg (List.mem_map.mpr ⟨_, hx, e.symm⟩)

/-- A field that one entry names holds that entry's value. -/
theorem State.fld_setFlds_unique (s : State) {l : List (Fld × Nat)} {f : Fld} {v : Nat} (hmem : (f, v) ∈ l)
    (hall : ∀ x ∈ l, x.1.key = f.key → x = (f, v)) : (s.setFlds l).fld f = v % 2 ^ f.w := by
  induction l generalizing s with
  | nil => cases hmem
  | cons x l ih =>
    by_cases hin : (f, v) ∈ l
    · exact ih (s.setFld x.1 x.2) hin fun y hy => hall y (List.mem_cons_of_mem _ hy)
    · obtain rfl : (f, v) = x := (List.mem_cons.mp hmem).resolve_right hin
      refine (State.fld_setFlds_ne (s.setFld f v) fun y hy e => hin ?_).trans (s.fld_setFld f v)
      rw [← hall y (List.mem_cons_of_mem _ hy) e.symm]
      exact hy

theorem State.link_setFlds (s : State) (l : List (Fld × Nat)) (i : Nat) : (s.setFlds l).link i = s.link i := by
  obtain ⟨_, hset⟩ := s.setFlds_rest l
  rw [hset]
  rfl

/-! ### Training state cleared (R415) -/

/-- What stands in the registers of a link left in state `st`. -/
def clearFlds (i st : Nat) : List (Fld × Nat) :=
  [(F.lnkStatusState i, st), (F.lnkStatusWidth i, 0), (F.lnkGood i, 0), (F.lnkUsed i, 0)] ++
    (List.range 6).flatMap fun v => [(F.lnkCreditGranted i v, 0), (F.lnkCreditHeld i v, 0)]

/-- The keys of those registers. -/
def clearKeys (i : Nat) : List Nat := (clearFlds i 0).map fun x => x.1.key

section
variable (s : State) (i st : Nat)

theorem State.clearLink_eq : s.clearLink i st = s.setFlds (clearFlds i st) := rfl

theorem clearFlds_keys : ((clearFlds i st).map fun x => x.1.key) = clearKeys i := rfl

theorem State.fieldsKept_clearLink : fieldsKept s (s.clearLink i st) (clearKeys i) := by
  rw [State.clearLink_eq, ← clearFlds_keys i st]
  exact fieldsKept_setFlds s _

@[simp] theorem State.link_clearLink (j : Nat) : (s.clearLink i st).link j = s.link j := by
  rw [State.clearLink_eq, State.link_setFlds]

/-- STATE, WIDTH and the masks stand below the credits, every other field of a link above or beside them. -/
theorem not_mem_clearKeys {k : Nat} (hhead : k ∉ [(F.lnkStatusState i).key, (F.lnkStatusWidth i).key, (F.lnkGood i).key,
    (F.lnkUsed i).key]) (hcredit : k < (0xe1040 + i * 0x800) * 32 ∨ (0xe1058 + i * 0x800) * 32 ≤ k) : k ∉ clearKeys i := by
  unfold clearKeys clearFlds
  rw [List.map_append, List.mem_append, not_or]
  refine ⟨hhead, fun hmem => ?_⟩
  simp only [List.map_flatMap, List.mem_flatMap, List.mem_range, List.map_cons, List.map_nil, List.mem_cons, List.not_mem_nil,
    or_false, Fld.key, F.lnkCreditGranted, F.lnkCreditHeld] at hmem
  obtain ⟨v, hv, hk⟩ := hmem
  omega

theorem State.linkState_clearLink {st : Nat} (h : st < 16) : (s.clearLink i st).linkState i = st := by
  rw [State.clearLink_eq]
  have hmem : (F.lnkStatusState i, st) ∈ clearFlds i st := List.mem_cons_self
  refine (State.fld_setFlds_unique s hmem fun x hx hkey => ?_).trans
    (Nat.mod_eq_of_lt h)
  simp only [clearFlds, List.cons_append, List.nil_append, List.mem_cons, List.mem_flatMap, List.mem_range, List.not_mem_nil,
    or_false] at hx
  simp only [Fld.key, F.lnkStatusState] at hkey
  obtain rfl | rfl | rfl | rfl | ⟨v, hv, rfl | rfl⟩ := hx
  · rfl
  all_goals
    simp only [F.lnkStatusWidth, F.lnkGood, F.lnkUsed, F.lnkCreditGranted, F.lnkCreditHeld] at hkey
    omega

end

theorem linkWork.clearLink {s t : State} (h : linkWork s t) (i st : Nat) : linkWork s (t.clearLink i st) := by
  rw [State.clearLink_eq]
  exact h.setFlds _

/-! ### A link leaves an up state for DETECT (R395, R398) -/

/-- A link that begins full training with its traffic held. -/
def LinkSt.leaving (l : LinkSt) (oldWidth : Nat) : LinkSt :=
  { l with keepTraffic := true, tries := 0, oldWidth, ctlDue := [], reconfig := none, trickleSent := false, echoSeen := false,
           wire := none, flitOut := none, lanes := [], listening := true, resends := 0, retryTimes := [], retryPending := false,
           gap := false }

section
variable (s : State) (i : Nat)

/-- Leaving an up state clears the attempts after an ACTIVE period of 1 s, and the training state. -/
theorem State.leaveUp_eq : ∃ s', s' = (if (s.link i).activeSince + 1000000 ≤ s.time then s.setFld (F.lnkStatusAttempts i) 0 else s) ∧
    s.leaveUp i = (s'.setLink i ((s.link i).leaving (s.fld (F.lnkStatusWidth i)))).clearLink i lkDetect := by
  refine ⟨_, rfl, ?_⟩
  unfold State.leaveUp LinkSt.leaving
  split
  · have hwidth : (s.setFld (F.lnkStatusAttempts i) 0).fld (F.lnkStatusWidth i) = s.fld (F.lnkStatusWidth i) :=
      State.fld_setFld_ne s (by simp only [Fld.key, F.lnkStatusWidth, F.lnkStatusAttempts]; omega) 0
    exact congrArg (fun w => ((s.setFld (F.lnkStatusAttempts i) 0).setLink i ((s.link i).leaving w)).clearLink i lkDetect) hwidth
  · rfl

theorem State.linkWork_leaveUp : linkWork s (s.leaveUp i) := by
  obtain ⟨s', hs', h⟩ := s.leaveUp_eq i
  rw [h]
  refine ((?_ : linkWork s s').setLink i _).clearLink i _
  rw [hs']
  split
  · exact (linkWork.refl s).setFld _ _
  · exact linkWork.refl s

@[simp] theorem State.linkState_leaveUp : (s.leaveUp i).linkState i = lkDetect := by
  obtain ⟨s', -, h⟩ := s.leaveUp_eq i
  rw [h, State.linkState_clearLink _ i (by decide)]

@[simp] theorem State.link_leaveUp : (s.leaveUp i).link i = (s.link i).leaving (s.fld (F.lnkStatusWidth i)) := by
  obtain ⟨s', -, h⟩ := s.leaveUp_eq i
  rw [h, State.link_clearLink, State.link_setLink]

theorem State.fieldsKept_leaveUp : fieldsKept s (s.leaveUp i) ((F.lnkStatusAttempts i).key :: clearKeys i) := by
  obtain ⟨s', hs', h⟩ := s.leaveUp_eq i
  have hcleared := (s'.setLink i ((s.link i).leaving (s.fld (F.lnkStatusWidth i)))).fieldsKept_clearLink i lkDetect
  rw [h]
  refine fieldsKept.trans ?_ (hcleared.mono (List.subset_cons_self _ _))
  refine fieldsKept.setLink (t := s') ?_ i _
  rw [hs']
  split
  · exact (fieldsKept.refl s _).setFld List.mem_cons_self _
  · exact fieldsKept.refl s _

/-- Within 1 s of its training a link that leaves an up state keeps its failed attempts. -/
theorem State.fieldsKept_leaveUp_early (h : s.time < (s.link i).activeSince + 1000000) :
    fieldsKept s (s.leaveUp i) (clearKeys i) := by
  obtain ⟨s', hs', hleave⟩ := s.leaveUp_eq i
  rw [if_neg (by omega)] at hs'
  rw [hleave, hs']
  exact State.fieldsKept_clearLink _ i lkDetect

end

/-! ### A failed attempt before the third (R397, R398) -/

/-- The registers that say how an attempt failed. -/
def failKeys (i : Nat) : List Nat := [(F.lnkLastFailReason i).key, (F.lnkLastFailState i).key, (F.lnkStatusAttempts i).key]

/-- From s to t an attempt of link i has failed in state `st`, and the link stands in DETECT for the next. -/
structure AttemptFailed (s t : State) (i reason st : Nat) : Prop where
  work : linkWork s t
  state : t.linkState i = lkDetect
  reason : t.fld (F.lnkLastFailReason i) = reason % 2 ^ 8
  in_ : t.fld (F.lnkLastFailState i) = st % 2 ^ 4
  attempts : t.fld (F.lnkStatusAttempts i) = s.fld (F.lnkStatusAttempts i) + 1
  link : t.link i = s.link i
  kept : fieldsKept s t (failKeys i ++ clearKeys i)

theorem failKeys_kept {i : Nat} : (F.lnkLastFailReason i).key ∉ clearKeys i ∧ (F.lnkLastFailState i).key ∉ clearKeys i ∧
    (F.lnkStatusAttempts i).key ∉ clearKeys i := by
  refine ⟨not_mem_clearKeys i ?_ ?_, not_mem_clearKeys i ?_ ?_, not_mem_clearKeys i ?_ ?_⟩ <;>
  · simp only [List.mem_cons, List.not_mem_nil, or_false, not_or, Fld.key, F.lnkStatusState, F.lnkStatusWidth, F.lnkGood, F.lnkUsed,
      F.lnkLastFailReason, F.lnkLastFailState, F.lnkStatusAttempts]
    omega

/-- The failure noted and the attempt counted. -/
def State.failCounted (s : State) (i reason st : Nat) : State :=
  (s.noteFail i reason st).setFld (F.lnkStatusAttempts i) (s.fld (F.lnkStatusAttempts i) + 1)

theorem failKeys_apart (i : Nat) : (F.lnkLastFailReason i).key ≠ (F.lnkLastFailState i).key ∧
    (F.lnkLastFailReason i).key ≠ (F.lnkStatusAttempts i).key ∧ (F.lnkLastFailState i).key ≠ (F.lnkStatusAttempts i).key := by
  simp only [ne_eq, Fld.key, F.lnkLastFailReason, F.lnkLastFailState, F.lnkStatusAttempts]
  omega

section
variable (s : State) (i reason st : Nat)

theorem State.fld_noteFail_attempts : (s.noteFail i reason st).fld (F.lnkStatusAttempts i) = s.fld (F.lnkStatusAttempts i) := by
  obtain ⟨-, hra, hsa⟩ := failKeys_apart i
  unfold State.noteFail
  rw [State.fld_setFld_ne _ hsa.symm, State.fld_setFld_ne _ hra.symm]

theorem State.linkWork_failCounted : linkWork s (s.failCounted i reason st) :=
  (((linkWork.refl s).setFld _ _).setFld _ _).setFld _ _

theorem State.links_failCounted : (s.failCounted i reason st).links = s.links := rfl

theorem State.fieldsKept_failCounted : fieldsKept s (s.failCounted i reason st) (failKeys i) := by
  unfold State.failCounted State.noteFail
  exact (((fieldsKept.refl s (failKeys i)).setFld (f := F.lnkLastFailReason i) (by simp [failKeys]) reason).setFld
    (f := F.lnkLastFailState i) (by simp [failKeys]) st).setFld (f := F.lnkStatusAttempts i) (by simp [failKeys]) _

theorem State.fld_failCounted_reason : (s.failCounted i reason st).fld (F.lnkLastFailReason i) = reason % 2 ^ 8 := by
  obtain ⟨hrs, hra, -⟩ := failKeys_apart i
  unfold State.failCounted State.noteFail
  rw [State.fld_setFld_ne _ hra, State.fld_setFld_ne _ hrs, State.fld_setFld]
  rfl

theorem State.fld_failCounted_state : (s.failCounted i reason st).fld (F.lnkLastFailState i) = st % 2 ^ 4 := by
  obtain ⟨-, -, hsa⟩ := failKeys_apart i
  unfold State.failCounted State.noteFail
  rw [State.fld_setFld_ne _ hsa, State.fld_setFld]
  rfl

theorem State.fld_failCounted_attempts : (s.failCounted i reason st).fld (F.lnkStatusAttempts i) =
    (s.fld (F.lnkStatusAttempts i) + 1) % 2 ^ 2 := by
  unfold State.failCounted
  rw [State.fld_setFld]
  rfl

end

/-- The failure is noted, the attempt is counted and the training state is cleared. -/
theorem State.failAttempt_early {s : State} {i : Nat} (reason st : Nat) (h : s.fld (F.lnkStatusAttempts i) < 2) :
    AttemptFailed s (s.failAttempt i reason st) i reason st := by
  obtain ⟨hkr, hks, hka⟩ := failKeys_kept (i := i)
  obtain ⟨u, hu⟩ : ∃ u, u = if i < 30 ∧ ((s.failCounted i reason st).link i).savedBlob = true then
      (s.failCounted i reason st).lose 4 2 else s.failCounted i reason st := ⟨_, rfl⟩
  have hfail : s.failAttempt i reason st = u.clearLink i lkDetect := by
    unfold State.failAttempt
    dsimp only
    rw [s.fld_noteFail_attempts, Nat.min_eq_right (show s.fld (F.lnkStatusAttempts i) + 1 ≤ 3 by omega), if_pos (by omega), hu]
    rfl
  obtain ⟨hregs, hlinks, hwork⟩ : (∀ g, u.fld g = (s.failCounted i reason st).fld g) ∧ u.links = s.links ∧ linkWork s u := by
    have hcounted := s.linkWork_failCounted i reason st
    rw [hu]
    split
    · exact ⟨State.fld_lose _ 4 2, State.lose_links _ 4 2, hcounted.lose 4 2⟩
    · exact ⟨fun _ => rfl, s.links_failCounted i reason st, hcounted⟩
  have hkept : fieldsKept u (u.clearLink i lkDetect) (clearKeys i) := u.fieldsKept_clearLink i lkDetect
  have hnoted : fieldsKept s u (failKeys i) := fun g hg => (hregs g).trans (s.fieldsKept_failCounted i reason st g hg)
  rw [hfail]
  refine ⟨hwork.clearLink i _, u.linkState_clearLink i (by decide), ?_, ?_, ?_, ?_, ?_⟩
  · rw [hkept _ hkr, hregs, s.fld_failCounted_reason]
  · rw [hkept _ hks, hregs, s.fld_failCounted_state]
  · rw [hkept _ hka, hregs, s.fld_failCounted_attempts, Nat.mod_eq_of_lt (by omega)]
  · rw [State.link_clearLink, State.link_congr hlinks]
  · exact (hnoted.mono (List.subset_append_left _ _)).trans (hkept.mono (List.subset_append_right _ _))

end Sys2Proof.Machine
end

section
/-! The lanes' equalisation, and a partner's training sequence (R395, R397, R405, R414, R545). It settles O59. -/

namespace Sys2Proof.Machine

/-! ### The equalisation of a link's lanes (R414) -/

/-- The registers of lane j, with an equalisation word. -/
def laneEqFlds (i j e : Nat) : List (Fld × Nat) :=
  [(F.lnkLaneEqPre i j, bitsAt e 28 4), (F.lnkLaneEqMain i j, bitsAt e 24 4), (F.lnkLaneEqPost i j, bitsAt e 20 4),
    (F.lnkLaneEqCtle i j, bitsAt e 16 4), (F.lnkLaneEqDfe i j, if 30 ≤ i then bitsAt e 12 4 else 0)]

/-- The keys of lane j's equalisation. -/
def laneEqKeys (i j : Nat) : List Nat := (laneEqFlds i j 0).map fun x => x.1.key

/-- The registers of every lane that has a word. -/
def eqFlds (i : Nat) (eq : List Nat) : List (Fld × Nat) :=
  (eq.take (laneCount i)).zipIdx.flatMap fun e => laneEqFlds i e.2 e.1

theorem laneCount_le (i : Nat) : laneCount i ≤ 64 := by
  unfold laneCount
  split <;> omega

theorem State.setEq_eq (s : State) (i : Nat) (eq : List Nat) : s.setEq i eq = s.setFlds (eqFlds i eq) := by
  unfold State.setEq State.setFlds eqFlds
  rw [List.foldl_flatMap]
  rfl

theorem mem_eqFlds {i : Nat} {eq : List Nat} {x : Fld × Nat} :
    x ∈ eqFlds i eq ↔ ∃ j e, j < laneCount i ∧ eq[j]? = some e ∧ x ∈ laneEqFlds i j e := by
  unfold eqFlds
  simp only [List.mem_flatMap, Prod.exists, List.mem_zipIdx_iff_getElem?, List.getElem?_take]
  constructor
  · rintro ⟨e, j, hget, hx⟩
    split at hget
    · next hj => exact ⟨j, e, hj, hget, hx⟩
    · cases hget
  · rintro ⟨j, e, hj, hget, hx⟩
    exact ⟨e, j, by rw [if_pos hj, hget], hx⟩

/-- The keys of the equalisation of every lane. -/
def eqKeys (i : Nat) : List Nat := (List.range 64).flatMap (laneEqKeys i)

theorem mem_eqKeys {i : Nat} {eq : List Nat} {x : Fld × Nat} (hx : x ∈ eqFlds i eq) : x.1.key ∈ eqKeys i := by
  obtain ⟨j, e, hj, -, hx⟩ := mem_eqFlds.mp hx
  exact List.mem_flatMap.mpr ⟨j, List.mem_range.mpr (Nat.lt_of_lt_of_le hj (laneCount_le i)),
    (List.mem_map_of_mem (f := fun x : Fld × Nat => x.1.key) hx :)⟩

section
variable (s : State) (i : Nat) (eq : List Nat)

theorem State.fieldsKept_setEq : fieldsKept s (s.setEq i eq) (eqKeys i) := by
  rw [State.setEq_eq]
  refine (fieldsKept_setFlds s _).mono fun k hk => ?_
  obtain ⟨x, hx, rfl⟩ := List.mem_map.mp hk
  exact mem_eqKeys hx

@[simp] theorem State.link_setEq (j : Nat) : (s.setEq i eq).link j = s.link j := by
  rw [State.setEq_eq, State.link_setFlds]

theorem State.linkWork_setEq : linkWork s (s.setEq i eq) := by
  rw [State.setEq_eq]
  exact (linkWork.refl s).setFlds _

end

section
variable {s : State} {i j w : Nat} {eq : List Nat}

/-- A lane with an equalisation word holds what the word says of the cursor. -/
theorem State.fld_setEq_main (hj : j < laneCount i) (hw : eq[j]? = some w) :
    (s.setEq i eq).fld (F.lnkLaneEqMain i j) = w / 2 ^ 24 % 16 := by
  rw [State.setEq_eq]
  refine (State.fld_setFlds_unique s (v := bitsAt w 24 4) (mem_eqFlds.mpr ⟨j, w, hj, hw, by simp [laneEqFlds]⟩) ?_).trans
    (Nat.mod_mod _ 16)
  intro x hx hkey
  obtain ⟨k, e, hk, hget, hx⟩ := mem_eqFlds.mp hx
  simp only [laneEqFlds, List.mem_cons, List.not_mem_nil, or_false] at hx
  obtain rfl | rfl | rfl | rfl | rfl := hx <;>
    simp only [Fld.key, F.lnkLaneEqPre, F.lnkLaneEqMain, F.lnkLaneEqPost, F.lnkLaneEqCtle, F.lnkLaneEqDfe] at hkey
  case inr.inl =>
    obtain rfl : k = j := by omega
    rw [Option.some.inj (hget.symm.trans hw)]
  all_goals omega

/-- … and of what goes before the cursor. -/
theorem State.fld_setEq_pre (hj : j < laneCount i) (hw : eq[j]? = some w) :
    (s.setEq i eq).fld (F.lnkLaneEqPre i j) = w / 2 ^ 28 % 16 := by
  rw [State.setEq_eq]
  refine (State.fld_setFlds_unique s (v := bitsAt w 28 4) (mem_eqFlds.mpr ⟨j, w, hj, hw, by simp [laneEqFlds]⟩) ?_).trans
    (Nat.mod_mod _ 16)
  intro x hx hkey
  obtain ⟨k, e, hk, hget, hx⟩ := mem_eqFlds.mp hx
  simp only [laneEqFlds, List.mem_cons, List.not_mem_nil, or_false] at hx
  obtain rfl | rfl | rfl | rfl | rfl := hx <;>
    simp only [Fld.key, F.lnkLaneEqPre, F.lnkLaneEqMain, F.lnkLaneEqPost, F.lnkLaneEqCtle, F.lnkLaneEqDfe] at hkey
  case inl =>
    obtain rfl : k = j := by omega
    rw [Option.some.inj (hget.symm.trans hw)]
  all_goals omega

end

/-! ### The seeds of an attempt (R397, R545) -/

theorem State.eqTap_le (s : State) (item : Nat) : s.eqTap item ≤ 15 := by
  unfold State.eqTap
  dsimp only
  omega

/-- The cursor of a start word is its second tap. -/
theorem State.eqStart_main (s : State) (i j : Nat) :
    s.eqStart i j / 2 ^ 24 % 16 = s.eqTap (0x03000001 + i * 2 ^ 16 + j * 2 ^ 8) := by
  have h0 := s.eqTap_le (0x03000000 + i * 2 ^ 16 + j * 2 ^ 8 + 0)
  have h1 := s.eqTap_le (0x03000000 + i * 2 ^ 16 + j * 2 ^ 8 + 1)
  have h2 := s.eqTap_le (0x03000000 + i * 2 ^ 16 + j * 2 ^ 8 + 2)
  have h3 := s.eqTap_le (0x03000000 + i * 2 ^ 16 + j * 2 ^ 8 + 3)
  have h4 := s.eqTap_le (0x03000000 + i * 2 ^ 16 + j * 2 ^ 8 + 4)
  rw [show 0x03000001 + i * 2 ^ 16 + j * 2 ^ 8 = 0x03000000 + i * 2 ^ 16 + j * 2 ^ 8 + 1 by omega]
  unfold State.eqStart
  dsimp only
  omega

/-- An attempt sets the equalisation of its lanes and nothing else. -/
theorem State.seedEq_eq (s : State) (i : Nat) (fast : Bool) : ∃ eq, s.seedEq i fast = s.setEq i eq := by
  unfold State.seedEq
  split
  · exact ⟨_, rfl⟩
  · exact ⟨_, rfl⟩

/-- Without saved settings the lanes start from the seeds. -/
theorem State.seedEq_seeds {s : State} {i : Nat} (h : (s.link i).saved = none) (fast : Bool) :
    s.seedEq i fast = s.setEq i ((List.range (laneCount i)).map (s.eqStart i)) := by
  unfold State.seedEq
  rw [h]
  cases fast <;> rfl

/-! ### A partner's training sequence (R395, R405) -/

section
variable {s : State} {link : LinkNo}

/-- An ACTIVE link and one in RECONFIG or WAKE joins its partner's training, its traffic held. -/
theorem trainingSequence_up (h : s.linkState link.val = lkActive ∨ s.linkState link.val = lkReconfig ∨
    s.linkState link.val = lkWake) : exec (.trainingSequence link) s = .next ((s.leaveUp link.val).lose 5 2) := by
  have hdetect : ¬ (s.linkState link.val = lkDetect ∧ (s.link link.val).listening = true ∧ s.linkExists link.val = true) := by
    rintro ⟨he, -, -⟩
    rw [he] at h
    exact absurd h (by decide)
  show execTrainingSequence link s = _
  unfold execTrainingSequence
  dsimp only
  rw [if_neg hdetect, if_pos h]

/-- A listening link in DETECT begins an attempt. -/
theorem trainingSequence_detect (hstate : s.linkState link.val = lkDetect) (hlisten : (s.link link.val).listening = true)
    (hexists : s.linkExists link.val = true) : ∃ u eq, exec (.trainingSequence link) s =
      .next ((u.setEq link.val eq).setFld (F.lnkStatusState link.val) lkLaneTest) ∧
      u = s.setLink link.val (u.link link.val) ∧ (u.link link.val).tries = (s.link link.val).tries + 1 ∧
      ((s.link link.val).saved = none → eq = (List.range (laneCount link.val)).map (s.eqStart link.val)) := by
  let i := link.val
  let l := s.link i
  let fast := l.tries == 0 && l.saved.isSome && !l.distrust
  let x : LinkSt := { l with tries := l.tries + 1, fastAttempt := fast, ownMask := 0, partnerMask := 0 }
  have hlink : (s.setLink i x).link i = x := s.link_setLink i x
  obtain ⟨eq, heq⟩ : ∃ eq, (s.setLink i x).seedEq i fast = (s.setLink i x).setEq i eq ∧
      (l.saved = none → eq = (List.range (laneCount i)).map (s.eqStart i)) := by
    by_cases hsaved : l.saved = none
    · exact ⟨_, State.seedEq_seeds (by rw [hlink]; exact hsaved) fast, fun _ => rfl⟩
    · obtain ⟨eq, heq⟩ := (s.setLink i x).seedEq_eq i fast
      exact ⟨eq, heq, fun h => absurd h hsaved⟩
  refine ⟨s.setLink i x, eq, ?_, by rw [hlink], by rw [hlink], heq.2⟩
  show execTrainingSequence link s = _
  unfold execTrainingSequence
  dsimp only
  rw [if_pos ⟨hstate, hlisten, hexists⟩]
  exact congrArg (fun t => Host.Outcome.next (State.setFld t (F.lnkStatusState i) lkLaneTest)) heq.1

theorem linkExists_kept {s t : State} {keys : List Nat} (h : fieldsKept s t keys)
    (hpeer : F.evgPlacementPeerPresent.key ∉ keys) (i : Nat) : t.linkExists i = s.linkExists i := by
  unfold State.linkExists
  rw [h _ hpeer]

end

/-- Settles O59: the link leaves RECONFIG or WAKE for DETECT with its traffic held, and listens (R405). -/
theorem trainingDuringReconfigOrWake : Obligations.TrainingDuringReconfigOrWake := by
  unfold Obligations.TrainingDuringReconfigOrWake
  intro s link i hstate
  have hleft : ((s.leaveUp i).lose 5 2).link i = (s.link i).leaving (s.fld (F.lnkStatusWidth i)) := by simp
  have hdetect : ((s.leaveUp i).lose 5 2).linkState i = lkDetect := by simp
  refine ⟨_, trainingSequence_up (Or.inr hstate), hdetect, ?_, ?_, ?_, fun hexists => ?_⟩
  · rw [hleft]; rfl
  · rw [hleft]; rfl
  · rw [hleft]; rfl
  · have hkept := (s.fieldsKept_leaveUp i).lose 5 2
    have hpeer : F.evgPlacementPeerPresent.key ∉ (F.lnkStatusAttempts i).key :: clearKeys i := by
      rw [List.mem_cons, not_or]
      refine ⟨?_, not_mem_clearKeys i ?_ (Or.inl ?_)⟩ <;>
      · simp only [List.mem_cons, List.not_mem_nil, or_false, not_or, Fld.key, F.evgPlacementPeerPresent, F.lnkStatusAttempts,
          F.lnkStatusState, F.lnkStatusWidth, F.lnkGood, F.lnkUsed]
        omega
    obtain ⟨u, eq, hexec, -⟩ := trainingSequence_detect (s := (s.leaveUp i).lose 5 2) (link := link) hdetect
      (by rw [hleft]; rfl) ((linkExists_kept hkept hpeer i).trans hexists)
    exact ⟨_, hexec, State.fld_setFld _ _ _⟩

end Sys2Proof.Machine
end

section
/-! What goes with a link's training: its lanes and map, its wake on traffic, and its CONFIG (R399, R400, R404, R410). -/

namespace Sys2Proof.Machine

/-! ### The map of the lanes (R399) -/

/-- A sum of different powers of two, none of them in the mask it is added to, holds exactly their bits. -/
theorem testBit_foldl_two_pow {l : List Nat} (hl : l.Nodup) {m : Nat} (hm : ∀ j ∈ l, m.testBit j = false) (k : Nat) :
    (l.foldl (fun m j => m + 2 ^ j) m).testBit k = (m.testBit k || decide (k ∈ l)) := by
  induction l generalizing m with
  | nil => simp
  | cons j l ih =>
    obtain ⟨hj, hrest⟩ := List.nodup_cons.mp hl
    have hadd := testBit_add_two_pow (hm j List.mem_cons_self)
    rw [List.foldl_cons, ih hrest, hadd]
    · simp only [List.mem_cons, Bool.decide_or, Bool.or_assoc, beq_eq_decide]
    · intro x hx
      have hne : x ≠ j := fun e => hj (e ▸ hx)
      rw [hadd, hm x (List.mem_cons_of_mem _ hx)]
      simpa using hne

/-- Of the lanes of a mask in rising order, the first are again those of a mask. -/
theorem bitsOf_take {n : Nat} (hn : n ≤ 64) (good w : Nat) :
    bitsOf 64 (((bitsOf n good).take w).foldl (fun m j => m + 2 ^ j) 0 % 2 ^ 64) = (bitsOf n good).take w := by
  have hsub : ((bitsOf n good).take w).Sublist (List.range n) := (List.take_sublist _ _).trans List.filter_sublist
  have hsorted := List.pairwise_lt_range.sublist hsub
  have hnodup : ((bitsOf n good).take w).Nodup := hsorted.imp Nat.ne_of_lt
  refine List.Perm.eq_of_pairwise' (List.pairwise_lt_range.sublist List.filter_sublist) hsorted ?_
  refine (List.perm_ext_iff_of_nodup (List.nodup_range.sublist List.filter_sublist) hnodup).mpr fun k => ?_
  rw [show (k ∈ List.filter _ _) = (k ∈ bitsOf 64 _) from rfl, mem_bitsOf, Nat.testBit_mod_two_pow,
    testBit_foldl_two_pow hnodup (by simp)]
  constructor
  · rintro ⟨-, hk⟩
    simpa using (Bool.and_eq_true_iff.mp hk).2
  · intro hk
    have hlt : k < n := List.mem_range.mp (hsub.subset hk)
    have hk64 : k < 64 := by omega
    simp [hk, hk64]

/-! ### Traffic wakes a link, and a sleeping die with it (R410, R489) -/

section
variable (s : State)

theorem State.link_ctlOn (i : Nat) (x : Ctl) :
    (s.ctlOn i x).link i = { s.link i with ctlDue := (s.link i).ctlDue ++ [x] } := by
  unfold State.ctlOn
  rw [State.link_setLink]

@[simp] theorem State.fld_ctlOn (i : Nat) (x : Ctl) (g : Fld) : (s.ctlOn i x).fld g = s.fld g := rfl

/-- A link that wakes has no registers outside its own changed. -/
theorem State.fld_wakeLink_ne (j : Nat) {g : Fld} (hstate : g.key ≠ (F.lnkStatusState j).key) (hwakes : g.key ≠ (F.lnkWakes j).key) :
    (s.wakeLink j).fld g = s.fld g := by
  unfold State.wakeLink
  split
  · rw [State.fld_ctlOn, State.fld_addFld_ne _ hwakes, s.fld_setFld_ne hstate]
  · rfl

/-- A set-point request is a packet for the substrate; no register changes. -/
theorem State.fld_railRequest (h mv : Nat) (g : Fld) : (s.railRequest h mv).fld g = s.fld g := by
  unfold State.railRequest
  split
  · rfl
  · next j _ =>
    obtain ⟨_, hsent⟩ := s.sendOn_eq j 3 (.railRequest (h == 1) mv)
    rw [hsent]
    rfl

theorem State.ctlDue_sendOn (j vc : Nat) (x : OutPkt) (i : Nat) : ((s.sendOn j vc x).link i).ctlDue = (s.link i).ctlDue := by
  by_cases hi : i = j
  · subst hi
    unfold State.sendOn
    dsimp only
    split
    · rw [State.link_setLink]
    · rfl
  · rw [State.link_sendOn_ne s hi]

theorem State.ctlDue_railRequest (h mv i : Nat) : ((s.railRequest h mv).link i).ctlDue = (s.link i).ctlDue := by
  unfold State.railRequest
  split
  · rfl
  · next j _ => exact s.ctlDue_sendOn j 3 (.railRequest (h == 1) mv) i

end

/-- Link i has woken in t, its pattern is due as answer, and no scratchpad and no core has changed since s. -/
structure Woken (s t : State) (i wakes : Nat) : Prop where
  mem : t.mem = s.mem
  cores : t.cores = s.cores
  state : t.linkState i = lkWake
  due : .rustle ∈ (t.link i).ctlDue
  wakes : t.fld (F.lnkWakes i) = wakes

section
variable {s t : State} {i wakes : Nat}

theorem Woken.of_trickle (h : s.linkState i = lkTrickle) :
    Woken s (s.wakeLink i) i ((s.fld (F.lnkWakes i) + 1) % 2 ^ 32) := by
  have hkeys : (F.lnkWakes i).key ≠ (F.lnkStatusState i).key := by
    simp only [ne_eq, Fld.key, F.lnkWakes, F.lnkStatusState]
    omega
  unfold State.wakeLink
  rw [if_pos h]
  refine ⟨rfl, rfl, ?_, ?_, ?_⟩
  · show State.fld _ _ = _
    rw [State.fld_ctlOn, State.fld_addFld_ne _ hkeys.symm, State.fld_setFld]
    rfl
  · rw [State.link_ctlOn]
    exact List.mem_append_right _ (List.mem_singleton_self _)
  · rw [State.fld_ctlOn, State.fld_addFld, s.fld_setFld_ne hkeys]
    rfl

theorem Woken.setFld (h : Woken s t i wakes) {f : Fld} (hstate : (F.lnkStatusState i).key ≠ f.key)
    (hwakes : (F.lnkWakes i).key ≠ f.key) (v : Nat) : Woken s (t.setFld f v) i wakes := by
  obtain ⟨hmem, hcores, hs, hdue, hw⟩ := h
  exact ⟨hmem, hcores, (t.fld_setFld_ne hstate v).trans hs, hdue, (t.fld_setFld_ne hwakes v).trans hw⟩

theorem Woken.wakeLink (h : Woken s t i wakes) (j : Nat) : Woken s (t.wakeLink j) i wakes := by
  by_cases hj : j = i
  · subst hj
    unfold State.wakeLink
    rw [if_neg (by rw [h.state]; decide)]
    exact h
  · have hstate := t.fld_wakeLink_ne j (g := F.lnkStatusState i)
      (by simp only [ne_eq, Fld.key, F.lnkStatusState]; omega) (by simp only [ne_eq, Fld.key, F.lnkStatusState, F.lnkWakes]; omega)
    have hwakes := t.fld_wakeLink_ne j (g := F.lnkWakes i)
      (by simp only [ne_eq, Fld.key, F.lnkStatusState, F.lnkWakes]; omega) (by simp only [ne_eq, Fld.key, F.lnkWakes]; omega)
    have hrest : (t.wakeLink j).mem = t.mem ∧ (t.wakeLink j).cores = t.cores ∧ (t.wakeLink j).link i = t.link i := by
      unfold State.wakeLink
      split
      · exact ⟨rfl, rfl, State.link_setLink_ne _ (fun e => hj e.symm) _⟩
      · exact ⟨rfl, rfl, rfl⟩
    obtain ⟨hmem, hcores, hlink⟩ := hrest
    exact ⟨hmem.trans h.mem, hcores.trans h.cores, hstate.trans h.state, by rw [hlink]; exact h.due, hwakes.trans h.wakes⟩

theorem Woken.railRequest (h : Woken s t i wakes) (half mv : Nat) : Woken s (t.railRequest half mv) i wakes := by
  have hrest : (t.railRequest half mv).mem = t.mem ∧ (t.railRequest half mv).cores = t.cores := by
    unfold State.railRequest
    split
    · exact ⟨rfl, rfl⟩
    · next j _ =>
      obtain ⟨_, hsent⟩ := t.sendOn_eq j 3 (.railRequest (half == 1) mv)
      rw [hsent]
      exact ⟨rfl, rfl⟩
  exact ⟨hrest.1.trans h.mem, hrest.2.trans h.cores, (t.fld_railRequest half mv _).trans h.state,
    by rw [t.ctlDue_railRequest]; exact h.due, (t.fld_railRequest half mv _).trans h.wakes⟩

end

/-- The set points of sleep's end requested, one rail after another. -/
theorem foldl_railRequest {P : State → Prop} (hP : ∀ t half mv, P t → P (t.railRequest half mv))
    (l : List ((Nat × Nat) × Nat)) {s : State} (h : P s) : P (l.foldl (fun s x => s.railRequest x.2 x.1.2) s) := by
  induction l generalizing s with
  | nil => exact h
  | cons x l ih => exact ih (hP _ _ _ h)

section
variable {s t : State} {i wakes : Nat} (cause : Nat)

/-- The registers of the die's wake. -/
def dieWakeKeys : List Nat := [F.pwrDieStatusState.key, F.pwrDieStatusWakeCause.key, F.pwrSleepMs.key]

theorem Woken.beginDieWake (h : Woken s t i wakes) : Woken s (t.beginDieWake cause) i wakes := by
  have hapart : ∀ k ∈ dieWakeKeys, (F.lnkStatusState i).key ≠ k ∧ (F.lnkWakes i).key ≠ k := by
    simp only [dieWakeKeys, List.mem_cons, List.not_mem_nil, or_false, forall_eq_or_imp, forall_eq, Fld.key,
      F.lnkStatusState, F.lnkWakes, F.pwrDieStatusState, F.pwrDieStatusWakeCause, F.pwrSleepMs]
    omega
  have hset : ∀ {u : State} (f : Fld), Woken s u i wakes → f.key ∈ dieWakeKeys → ∀ v, Woken s (u.setFld f v) i wakes :=
    fun f hu hf v => hu.setFld (hapart _ hf).1 (hapart _ hf).2 v
  unfold State.beginDieWake
  split
  · exact h
  · extract_lets slept counted woken
    have hcounted : Woken s counted i wakes :=
      hset F.pwrSleepMs (hset F.pwrDieStatusWakeCause (hset F.pwrDieStatusState h (by simp [dieWakeKeys]) 3)
        (by simp [dieWakeKeys]) cause) (by simp [dieWakeKeys]) _
    obtain ⟨hmem, hcores, hstate, hdue, hwakes⟩ := hcounted
    have hslept : Woken s { counted with sleepAt := none } i wakes := ⟨hmem, hcores, hstate, hdue, hwakes⟩
    exact foldl_railRequest (P := fun u => Woken s u i wakes) (fun _ _ _ hu => hu.railRequest _ _) _
      ((hslept.wakeLink 30).wakeLink 31)

theorem Woken.linkTraffic (h : Woken s t i wakes) : Woken s t.linkTraffic i wakes := by
  unfold State.linkTraffic
  dsimp only
  split
  · obtain ⟨hmem, hcores, hstate, hdue, hwakes⟩ := h
    exact ⟨hmem, hcores, hstate, hdue, hwakes⟩
  · split
    · exact h.beginDieWake 5
    · exact h

/-- A sleeping die begins to wake, and notes the cause. -/
theorem State.beginDieWake_begins (h : s.fld F.pwrDieStatusState = 2) :
    (s.beginDieWake cause).fld F.pwrDieStatusState = 3 ∧ (s.beginDieWake cause).fld F.pwrDieStatusWakeCause = cause % 2 ^ 4 := by
  have hlink : ∀ j, F.pwrDieStatusState.key ≠ (F.lnkStatusState j).key ∧ F.pwrDieStatusState.key ≠ (F.lnkWakes j).key ∧
      F.pwrDieStatusWakeCause.key ≠ (F.lnkStatusState j).key ∧ F.pwrDieStatusWakeCause.key ≠ (F.lnkWakes j).key := by
    intro j
    simp only [ne_eq, Fld.key, F.pwrDieStatusState, F.pwrDieStatusWakeCause, F.lnkStatusState, F.lnkWakes]
    omega
  unfold State.beginDieWake
  rw [if_neg (not_not.mpr h)]
  extract_lets slept counted woken
  have hstate : counted.fld F.pwrDieStatusState = 3 :=
    ((State.fld_addFld_ne _ (g := F.pwrDieStatusState) (f := F.pwrSleepMs) (by decide) slept).trans
      (State.fld_setFld_ne _ (f := F.pwrDieStatusWakeCause) (by decide) cause)).trans (s.fld_setFld _ 3)
  have hcause : counted.fld F.pwrDieStatusWakeCause = cause % 2 ^ 4 :=
    (State.fld_addFld_ne _ (g := F.pwrDieStatusWakeCause) (f := F.pwrSleepMs) (by decide) slept).trans (State.fld_setFld _ _ cause)
  refine foldl_railRequest (P := fun t => t.fld F.pwrDieStatusState = 3 ∧ t.fld F.pwrDieStatusWakeCause = cause % 2 ^ 4)
    (fun t half mv ht => ⟨(t.fld_railRequest half mv _).trans ht.1, (t.fld_railRequest half mv _).trans ht.2⟩) _ ⟨?_, ?_⟩
  · rw [State.fld_wakeLink_ne _ 31 (hlink 31).1 (hlink 31).2.1, State.fld_wakeLink_ne _ 30 (hlink 30).1 (hlink 30).2.1]
    exact hstate
  · rw [State.fld_wakeLink_ne _ 31 (hlink 31).2.2.1 (hlink 31).2.2.2, State.fld_wakeLink_ne _ 30 (hlink 30).2.2.1 (hlink 30).2.2.2]
    exact hcause

end

/-! ### What stands beside a link's CONFIG -/

/-- The registers that events, the dieback list, lost links and the ready state change. -/
def asideKeys : List Nat :=
  [F.fltEvtNext.key, F.fltEvtLost.key, F.evgDiebackUnsaved.key, F.fltLinksLost.key, F.fltStatusLinkLost.key, F.evgBootReady.key,
    F.lnkDowngraded.key]

/-- From s to t the registers of these keys, the scratchpads, the cores and the binder unit's operations are as they were. -/
structure Beside (keys : List Nat) (s t : State) : Prop where
  fields : ∀ g : Fld, g.key ∈ keys → t.fld g = s.fld g
  mem : t.mem = s.mem
  cores : t.cores = s.cores
  bops : t.bops = s.bops

section
variable {keys : List Nat} {s t u : State}

theorem Beside.refl (keys : List Nat) (s : State) : Beside keys s s := ⟨fun _ _ => rfl, rfl, rfl, rfl⟩

theorem Beside.trans (h : Beside keys s t) (h' : Beside keys t u) : Beside keys s u :=
  ⟨fun g hg => (h'.fields g hg).trans (h.fields g hg), h'.mem.trans h.mem, h'.cores.trans h.cores, h'.bops.trans h.bops⟩

theorem Beside.setFld (h : Beside keys s t) {f : Fld} (hf : f.key ∉ keys) (v : Nat) : Beside keys s (t.setFld f v) :=
  ⟨fun g hg => (t.fld_setFld_ne (fun e => hf (e ▸ hg)) v).trans (h.fields g hg), h.mem, h.cores, h.bops⟩

theorem Beside.setLink (h : Beside keys s t) (i : Nat) (x : LinkSt) : Beside keys s (t.setLink i x) :=
  ⟨h.fields, h.mem, h.cores, h.bops⟩

theorem Beside.lose (h : Beside keys s t) (k reason : Nat) : Beside keys s (t.lose k reason) := by
  obtain ⟨losses, hlose⟩ := t.lose_eq k reason
  rw [hlose]
  exact ⟨h.fields, h.mem, h.cores, h.bops⟩

section
variable (hkeys : ∀ k ∈ asideKeys, k ∉ keys)
include hkeys

theorem Beside.logEvent (h : Beside keys s t) (severity kind status code unit context detail : Nat) :
    Beside keys s (t.logEvent severity kind status code unit context detail) := by
  have hfields : ∀ g : Fld, g.key ∈ keys → (t.logEvent severity kind status code unit context detail).fld g = t.fld g :=
    fun g hg => t.fld_logEvent_ne _ _ _ _ _ _ _ (fun e => hkeys _ (by simp [asideKeys]) (e ▸ hg))
      (fun e => hkeys _ (by simp [asideKeys]) (e ▸ hg))
  obtain ⟨_, _, hlog⟩ := t.logEvent_eq severity kind status code unit context detail
  refine ⟨fun g hg => (hfields g hg).trans (h.fields g hg), ?_, ?_, ?_⟩
  · rw [hlog]; exact h.mem
  · rw [hlog]; exact h.cores
  · rw [hlog]; exact h.bops

theorem Beside.addDieback (h : Beside keys s t) (kind source unit detail cause : Nat) :
    Beside keys s (t.addDieback kind source unit detail cause) := by
  have hlist : ∀ d, Beside keys s { t with dieback := d } := fun d => ⟨h.fields, h.mem, h.cores, h.bops⟩
  have hunsaved : F.evgDiebackUnsaved.key ∉ keys := hkeys _ (by simp [asideKeys])
  unfold State.addDieback State.addEntry
  extract_lets more victim rows others core last
  split
  · exact h
  · split
    · exact (hlist _).setFld hunsaved _
    · exact (hlist _).setFld hunsaved _

theorem Beside.setReady (h : Beside keys s t) (r : Nat) : Beside keys s (t.setReady r) := by
  unfold State.setReady
  split
  · exact h
  · exact (h.setFld (hkeys _ (by simp [asideKeys])) r).logEvent hkeys _ _ _ _ _ _ _

theorem Beside.settleReady (h : Beside keys s t) : Beside keys s t.settleReady := by
  unfold State.settleReady
  split
  · exact h.setReady hkeys _
  · split
    · exact h.setReady hkeys _
    · exact h

theorem Beside.linkBack (h : Beside keys s t) (i : Nat) : Beside keys s (t.linkBack i) := by
  have hcleared := h.setFld (f := F.fltLinksLost) (hkeys _ (by simp [asideKeys])) (clearBit (t.fld F.fltLinksLost) i)
  unfold State.linkBack
  dsimp only
  split
  · exact (hcleared.setFld (f := F.fltStatusLinkLost) (hkeys _ (by simp [asideKeys])) 0).settleReady hkeys
  · exact hcleared

theorem Beside.noteLanes (h : Beside keys s t) (i good oldWidth width : Nat) : Beside keys s (t.noteLanes i good oldWidth width) := by
  have hruns : ∀ (l : List (Nat × Nat)) {u : State}, Beside keys s u →
      Beside keys s (l.foldl (fun s r => s.addDieback 5 4 i (r.2 * 2 ^ 8 + r.1) 0x0402) u) := by
    intro l
    induction l with
    | nil => exact fun hu => hu
    | cons r l ih => exact fun hu => ih (hu.addDieback hkeys _ _ _ _ _)
  unfold State.noteLanes
  extract_lets n had lost listed x noted
  have hnoted : Beside keys s noted := (hruns _ h).setLink i _
  split
  · exact hnoted.logEvent hkeys _ _ _ _ _ _ _
  · exact hnoted

end

end

end Sys2Proof.Machine
end

section
/-! Attempts from the lane test to ACTIVE (R375, R394 to R402). -/

namespace Sys2Proof.Machine

/-! ### The steps of an attempt -/

section
variable {s : State} {link : LinkNo}

theorem laneTestEnd_ends (mask : DWord) (clocks : Byte) (h : s.linkState link.val = lkLaneTest) :
    let m := maskOf (laneCount link.val) fun j => mask.toNat.testBit j && !clocks.toNat.testBit (j / 8)
    exec (.laneTestEnd link mask clocks) s = .next (((s.setLink link.val { s.link link.val with ownMask := m }).setFld
      (F.lnkGood link.val) m).setFld (F.lnkStatusState link.val) lkEq) := by
  show execLaneTestEnd link mask clocks s = _
  unfold execLaneTestEnd
  dsimp only
  rw [if_pos h]

/-- A lane is good if it was received without error and its group's clock lane was good. -/
theorem testBit_goodLanes (i : Nat) (mask : DWord) (clocks : Byte) (j : Nat) :
    (maskOf (laneCount i) fun j => mask.toNat.testBit j && !clocks.toNat.testBit (j / 8)).testBit j = true ↔
      j < laneCount i ∧ mask.toNat.testBit j = true ∧ clocks.toNat.testBit (j / 8) = false := by
  by_cases hj : j < laneCount i
  · rw [testBit_maskOf _ hj]
    simp [hj]
  · have hlt := maskOf_lt (laneCount i) fun j => mask.toNat.testBit j && !clocks.toNat.testBit (j / 8)
    rw [Nat.testBit_lt_two_pow (Nat.lt_of_lt_of_le hlt (Nat.pow_le_pow_right (by decide) (by omega)))]
    simp [hj]

theorem eqComplete_ends (mask : DWord) (eq : List Word) (h : s.linkState link.val = lkEq) :
    let m := (s.link link.val).ownMask &&& mask.toNat
    exec (.eqComplete link mask eq) s = .next ((((s.setEq link.val (eq.map BitVec.toNat)).setLink link.val
      { (s.setEq link.val (eq.map BitVec.toNat)).link link.val with ownMask := m }).setFld (F.lnkGood link.val) m).setFld
      (F.lnkStatusState link.val) lkWidth) := by
  show execEqComplete link mask eq s = _
  unfold execEqComplete
  dsimp only
  rw [if_pos h]

/-- Masks with at least 8 lanes good on both sides give the width and the map. -/
theorem widthMap_enough (mask : DWord) (h : s.linkState link.val = lkWidth)
    (hw : 8 ≤ widthOf ((s.link link.val).ownMask &&& (mask.toNat % 2 ^ laneCount link.val)) (laneCount link.val)) :
    let good := (s.link link.val).ownMask &&& (mask.toNat % 2 ^ laneCount link.val)
    ∃ x : LinkSt, x.txq = (s.link link.val).txq ∧ x.replay = (s.link link.val).replay ∧ exec (.widthMap link mask) s =
      .next ((((s.setLink link.val x).setFld (F.lnkStatusWidth link.val) (widthOf good (laneCount link.val))).setFld
        (F.lnkUsed link.val) (usedOf good (laneCount link.val))).setFld (F.lnkStatusState link.val) lkConfig) := by
  let good := (s.link link.val).ownMask &&& (mask.toNat % 2 ^ laneCount link.val)
  refine ⟨{ s.link link.val with
    partnerMask := mask.toNat % 2 ^ laneCount link.val,
    config := some (s.ownConfig link.val (usedOf good (laneCount link.val)) (widthOf good (laneCount link.val))) }, rfl, rfl, ?_⟩
  show execWidthMap link mask s = _
  unfold execWidthMap
  dsimp only
  rw [if_neg (not_not.mpr h), if_neg (by omega)]

theorem widthMap_few (mask : DWord) (h : s.linkState link.val = lkWidth)
    (hw : widthOf ((s.link link.val).ownMask &&& (mask.toNat % 2 ^ laneCount link.val)) (laneCount link.val) < 8) :
    exec (.widthMap link mask) s = .next (s.failAttempt link.val 0x03 lkWidth) := by
  show execWidthMap link mask s = _
  unfold execWidthMap
  dsimp only
  rw [if_neg (not_not.mpr h), if_pos hw]

theorem widthOf_le (good n : Nat) : widthOf good n ≤ n := by
  have hlen : (bitsOf n good).length ≤ (List.range n).length := List.length_filter_le _ _
  rw [List.length_range] at hlen
  unfold widthOf
  omega

end

/-! ### CONFIG (R394, R400, R402) -/

/-- The registers that the rest of a link's CONFIG leaves alone. -/
def configKeys (i : Nat) : List Nat :=
  [(F.lnkVersionAgreed i).key, (F.lnkEpoch i).key, (F.lnkStatusWidth i).key, F.evgBootStage.key]

theorem asideKeys_config {i k : Nat} (hk : k ∈ asideKeys) : k ∉ (F.lnkStatusState i).key :: configKeys i := by
  simp only [asideKeys, List.mem_cons, List.not_mem_nil, or_false] at hk
  simp only [configKeys, List.mem_cons, List.not_mem_nil, or_false, not_or, Fld.key, F.lnkStatusState, F.lnkVersionAgreed,
    F.lnkEpoch, F.lnkStatusWidth, F.evgBootStage]
  obtain rfl | rfl | rfl | rfl | rfl | rfl | rfl := hk <;>
  · simp only [Fld.key, F.fltEvtNext, F.fltEvtLost, F.evgDiebackUnsaved, F.fltLinksLost, F.fltStatusLinkLost, F.evgBootReady,
      F.lnkDowngraded]
    omega

/-- Fields of a link that stand beside those of its CONFIG. -/
theorem partnerKeys_config {i : Nat} {f : Fld} (hf : f ∈ [F.lnkVersionPartnerMin i, F.lnkVersionPartnerMax i, F.lnkPartnerPclass i,
    F.lnkPartnerDie i, F.lnkStatusMaster i, F.lnkVersionDowngraded i, F.lnkLastFailReason i, F.lnkLastFailState i]) :
    f.key ∉ (F.lnkStatusState i).key :: configKeys i := by
  simp only [List.mem_cons, List.not_mem_nil, or_false] at hf
  simp only [configKeys, List.mem_cons, List.not_mem_nil, or_false, not_or, Fld.key, F.lnkStatusState, F.lnkVersionAgreed,
    F.lnkEpoch, F.lnkStatusWidth, F.evgBootStage]
  obtain rfl | rfl | rfl | rfl | rfl | rfl | rfl | rfl := hf <;>
  · simp only [F.lnkVersionPartnerMin, F.lnkVersionPartnerMax, F.lnkPartnerPclass, F.lnkPartnerDie, F.lnkStatusMaster,
      F.lnkVersionDowngraded, F.lnkLastFailReason, F.lnkLastFailState]
    omega

theorem Beside.mono {keys keys' : List Nat} {s t : State} (h : Beside keys s t) (hsub : keys' ⊆ keys) : Beside keys' s t :=
  ⟨fun g hg => h.fields g (hsub hg), h.mem, h.cores, h.bops⟩

theorem Beside.setCredits {i : Nat} {s t : State} (h : Beside (configKeys i) s t) (v : Nat) (held : List Nat) :
    Beside (configKeys i) s (t.setCredits i v held) := by
  have hfold : ∀ (l : List Nat) {u : State}, Beside (configKeys i) s u → Beside (configKeys i) s (l.foldl (fun s vc =>
      let h := (held[vc]?).getD 0
      (s.setFld (F.lnkCreditGranted i vc) (s.grant i v vc)).setFld (F.lnkCreditHeld i vc) (if h = 0xFF then 0xFFFF else h)) u) := by
    intro l
    induction l with
    | nil => exact fun hu => hu
    | cons vc l ih =>
      intro u hu
      refine ih ((hu.setFld ?_ _).setFld ?_ _) <;>
      · simp only [configKeys, List.mem_cons, List.not_mem_nil, or_false, not_or, Fld.key, F.lnkVersionAgreed, F.lnkEpoch,
          F.lnkStatusWidth, F.evgBootStage, F.lnkCreditGranted, F.lnkCreditHeld]
        omega
  exact hfold _ h

section
variable (s : State)

theorem State.checkS1_eq_self (h : s.stage ≠ 1) : s.checkS1 = s := by
  unfold State.checkS1
  dsimp only
  rw [if_pos (Or.inl h)]

theorem State.links_logEvent (severity kind status code unit context detail : Nat) :
    (s.logEvent severity kind status code unit context detail).links = s.links := by
  obtain ⟨_, _, hlog⟩ := s.logEvent_eq severity kind status code unit context detail
  rw [hlog]

theorem State.links_setReady (r : Nat) : (s.setReady r).links = s.links := by
  unfold State.setReady
  split
  · rfl
  · exact State.links_logEvent _ _ _ _ _ _ _ _

theorem State.links_settleReady : s.settleReady.links = s.links := by
  unfold State.settleReady
  split
  · exact s.links_setReady _
  · split
    · exact s.links_setReady _
    · rfl

theorem State.links_linkBack (i : Nat) : (s.linkBack i).links = s.links := by
  unfold State.linkBack
  dsimp only
  split
  · exact State.links_settleReady _
  · rfl

theorem State.links_addDieback (kind source unit detail cause : Nat) :
    (s.addDieback kind source unit detail cause).links = s.links := by
  unfold State.addDieback State.addEntry
  extract_lets more victim rows others core last
  split
  · rfl
  · split
    · rfl
    · rfl

/-- Lanes noted change nothing of a link but what it keeps of its map. -/
theorem State.link_noteLanes (i good oldWidth width : Nat) :
    ∃ b, (s.noteLanes i good oldWidth width).link i = { s.link i with bothGood := b } := by
  have hruns : ∀ (l : List (Nat × Nat)) (u : State), (l.foldl (fun s r => s.addDieback 5 4 i (r.2 * 2 ^ 8 + r.1) 0x0402) u).links =
      u.links := by
    intro l
    induction l with
    | nil => exact fun _ => rfl
    | cons r l ih => exact fun u => (ih _).trans (u.links_addDieback _ _ _ _ _)
  unfold State.noteLanes
  extract_lets n had lost listed x noted
  have hlisted : listed.link i = s.link i := State.link_congr (hruns _ s) i
  have hnoted : noted.link i = { s.link i with bothGood := good } := by
    rw [show noted = listed.setLink i { listed.link i with bothGood := good } from rfl, State.link_setLink, hlisted]
  split
  · exact ⟨good, (State.link_congr (State.links_logEvent _ _ _ _ _ _ _ _) i).trans hnoted⟩
  · exact ⟨good, hnoted⟩

end

/-- A link that has trained: ACTIVE with the agreed version and the new epoch, its sequence numbers from 0 and its echo due. -/
structure Trained (s t : State) (i v epoch : Nat) : Prop where
  mem : t.mem = s.mem
  cores : t.cores = s.cores
  bops : t.bops = s.bops
  state : t.linkState i = lkActive
  version : t.fld (F.lnkVersionAgreed i) = v
  epoch : t.fld (F.lnkEpoch i) = epoch
  width : t.fld (F.lnkStatusWidth i) = s.fld (F.lnkStatusWidth i)
  rxSeq : (t.link i).rxSeq = 0
  replay : (t.link i).replay = []
  echo : .configEcho ∈ (t.link i).ctlDue

theorem State.linkActive_trained {s : State} {i v : Nat} (c : LinkConfig) (hstage : s.stage ≠ 1) (hv : v < 256) :
    Trained s (s.linkActive i v c) i v ((max (s.fld (F.lnkEpoch i)) c.epoch.toNat + 1) % 2 ^ 16) := by
  have haside : ∀ k ∈ asideKeys, k ∉ (F.lnkStatusState i).key :: configKeys i := fun k hk => asideKeys_config hk
  have haside' : ∀ k ∈ asideKeys, k ∉ configKeys i := fun k hk hmem => haside k hk (List.mem_cons_of_mem _ hmem)
  have hmask : F.lnkDowngraded.key ∉ configKeys i := haside' _ (by simp [asideKeys])
  unfold State.linkActive
  extract_lets old width epoch numbered flagged noted credited l keep last left resend carried l1 l2 l3 l4 used l5 linked
    active logged laned lost1 lost2 lost3
  have hflagged : Beside (configKeys i) numbered flagged :=
    (Beside.refl _ _).setFld (fun hmem => partnerKeys_config (f := F.lnkVersionDowngraded i) (by simp) (List.mem_cons_of_mem _ hmem)) _
  have hnoted : Beside (configKeys i) numbered noted := by
    show Beside _ _ (if _ then _ else _)
    split
    · exact (hflagged.setFld hmask _).logEvent haside' _ _ _ _ _ _ _
    · exact hflagged.setFld hmask _
  have hlinked : Beside (configKeys i) numbered linked := (hnoted.setCredits v c.credits).setLink i l5
  have hactive : Beside (configKeys i) numbered active := hlinked.setFld (f := F.lnkStatusState i)
    (by simp only [configKeys, List.mem_cons, List.not_mem_nil, or_false, not_or, Fld.key, F.lnkStatusState,
          F.lnkVersionAgreed, F.lnkEpoch, F.lnkStatusWidth, F.evgBootStage]; omega) lkActive
  have hlaned : Beside ((F.lnkStatusState i).key :: configKeys i) active laned :=
    ((Beside.refl _ _).logEvent haside _ _ _ _ _ _ _).noteLanes haside _ _ _ _
  have hlost3 : Beside ((F.lnkStatusState i).key :: configKeys i) active lost3 ∧ lost3.links = laned.links := by
    have hlost1 : Beside ((F.lnkStatusState i).key :: configKeys i) active lost1 ∧ lost1.links = laned.links := by
      show Beside _ _ (if _ then _ else _) ∧ State.links (if _ then _ else _) = _
      split
      · exact ⟨hlaned.lose _ _, State.lose_links _ _ _⟩
      · exact ⟨hlaned, rfl⟩
    have hlost2 : Beside ((F.lnkStatusState i).key :: configKeys i) active lost2 ∧ lost2.links = laned.links := by
      show Beside _ _ (if _ then _ else _) ∧ State.links (if _ then _ else _) = _
      split
      · exact ⟨hlost1.1.lose _ _, (State.lose_links _ _ _).trans hlost1.2⟩
      · exact hlost1
    show Beside _ _ (if _ then _ else _) ∧ State.links (if _ then _ else _) = _
    split
    · exact hlost2
    · exact ⟨hlost2.1.lose _ _, (State.lose_links _ _ _).trans hlost2.2⟩
  have hback : Beside ((F.lnkStatusState i).key :: configKeys i) active (lost3.linkBack i) := hlost3.1.linkBack haside i
  have hwhole : Beside (configKeys i) numbered (lost3.linkBack i) := hactive.trans (hback.mono (List.subset_cons_self _ _))
  have hlink : ∃ b, (lost3.linkBack i).link i = { l5 with bothGood := b } := by
    obtain ⟨b, hb⟩ := logged.link_noteLanes i (l.ownMask &&& l.partnerMask) old width
    refine ⟨b, ?_⟩
    have hsame : (lost3.linkBack i).links = laned.links := (lost3.links_linkBack i).trans hlost3.2
    have hlinked : linked.link i = l5 := credited.link_setLink i l5
    have hactive : active.links = linked.links := linked.setFld_links _ _
    have hlogged : logged.links = active.links := active.links_logEvent _ _ _ _ _ _ _
    rw [State.link_congr (hlogged.trans hactive), hlinked] at hb
    rw [State.link_congr hsame]
    exact hb
  obtain ⟨b, hlink⟩ := hlink
  have hev : (F.lnkEpoch i).key ≠ (F.lnkVersionAgreed i).key ∧ (F.lnkStatusWidth i).key ≠ (F.lnkVersionAgreed i).key ∧
      (F.lnkStatusWidth i).key ≠ (F.lnkEpoch i).key ∧ F.evgBootStage.key ≠ (F.lnkVersionAgreed i).key ∧
      F.evgBootStage.key ≠ (F.lnkEpoch i).key := by
    simp only [ne_eq, Fld.key, F.lnkEpoch, F.lnkVersionAgreed, F.lnkStatusWidth, F.evgBootStage]
    omega
  obtain ⟨hev, hwv, hwe, hsv, hse⟩ := hev
  let u := s.setFld (F.lnkEpoch i) epoch
  have hnumbered : ∀ g : Fld, g.key ≠ (F.lnkVersionAgreed i).key → numbered.fld g = u.fld g := fun g hg => u.fld_setFld_ne hg v
  have hepoch : ∀ g : Fld, g.key ≠ (F.lnkEpoch i).key → u.fld g = s.fld g := fun g hg => s.fld_setFld_ne hg epoch
  have hstage' : (lost3.linkBack i).stage ≠ 1 := by
    have hkept : (lost3.linkBack i).stage = s.stage :=
      (hwhole.fields F.evgBootStage (by simp [configKeys])).trans ((hnumbered _ hsv).trans (hepoch _ hse))
    rw [hkept]
    exact hstage
  rw [State.checkS1_eq_self _ hstage']
  refine ⟨hwhole.mem, hwhole.cores, hwhole.bops, ?_, ?_, ?_, ?_, ?_, ?_, ?_⟩
  · exact (hback.fields (F.lnkStatusState i) List.mem_cons_self).trans (linked.fld_setFld _ _)
  · exact (hwhole.fields (F.lnkVersionAgreed i) (by simp [configKeys])).trans ((u.fld_setFld _ v).trans (Nat.mod_eq_of_lt hv))
  · refine (hwhole.fields (F.lnkEpoch i) (by simp [configKeys])).trans ((hnumbered _ hev).trans ((s.fld_setFld _ epoch).trans ?_))
    exact Nat.mod_mod _ 65536
  · exact (hwhole.fields (F.lnkStatusWidth i) (by simp [configKeys])).trans ((hnumbered _ hwv).trans (hepoch _ hwe))
  · rw [hlink]
  · rw [hlink]
  · rw [hlink]
    exact List.mem_singleton_self _

end Sys2Proof.Machine
end

section
/-! A link agrees with its partner, or loses it (R40, R41, R394, R398). -/

namespace Sys2Proof.Machine

/-! ### FAILED (R398) -/

/-- A link with no traffic held that enters FAILED listens no longer. -/
theorem State.toFailed_idle {s : State} {i : Nat} (hi : i < 30) (hup : s.linkUp i = false) (hkeep : (s.link i).keepTraffic = false) :
    linkWork s (s.toFailed i) ∧ (s.toFailed i).linkState i = lkFailed ∧ ((s.toFailed i).link i).listening = false ∧
      fieldsKept s (s.toFailed i) (clearKeys i) := by
  have hdown : s.downIfUp i lkFailed = s.clearLink i lkFailed := by
    unfold State.downIfUp
    rw [if_neg (by simp [hup, hkeep])]
  unfold State.toFailed
  dsimp only
  rw [hdown, if_pos hi]
  refine ⟨(((linkWork.refl s).clearLink i _).setLink i _).lose 4 3, ?_, ?_, ((s.fieldsKept_clearLink i _).setLink i _).lose 4 3⟩
  · rw [State.linkState_lose, State.linkState_setLink, State.linkState_clearLink s i (by decide)]
  · rw [State.link_lose, State.link_setLink]

/-! ### The partner's CONFIG (R400) -/

/-- What a link notes of its partner's CONFIG. -/
def State.partnerNoted (s : State) (i : Nat) (c : LinkConfig) : State :=
  let s := (s.setFld (F.lnkVersionPartnerMin i) c.minVersion.toNat).setFld (F.lnkVersionPartnerMax i) c.maxVersion.toNat
  let s := (s.setFld (F.lnkPartnerPclass i) c.pclass.val).setFld (F.lnkPartnerDie i) (if c.pclass = 0 then c.die.toNat else 0)
  s.setFld (F.lnkStatusMaster i) (if 24 ≤ i ∧ i < 30 ∧ s.dieNo < c.die.toNat then 1 else 0)

theorem Beside.partnerNoted (s : State) (i : Nat) (c : LinkConfig) :
    Beside ((F.lnkStatusState i).key :: configKeys i) s (s.partnerNoted i c) := by
  unfold State.partnerNoted
  refine Beside.setFld (Beside.setFld (Beside.setFld (Beside.setFld (Beside.setFld (Beside.refl _ s) ?_ _) ?_ _) ?_ _) ?_ _) ?_ _ <;>
  · exact partnerKeys_config (by simp)

section
variable {s : State} {link : LinkNo} {c : LinkConfig}

/-- On a base link a CONFIG of a common version trains the link, and one without a common version fails it. -/
theorem configMessage_base (h : s.linkState link.val = lkConfig) (hi : link.val < 24) :
    exec (.configMessage link c) s = .next (if min ownMax c.maxVersion.toNat < max ownMin c.minVersion.toNat then
        (((s.partnerNoted link.val c).noteFail link.val 0x04 lkConfig).toFailed link.val).checkS1
      else ((s.partnerNoted link.val c).linkActive link.val (min ownMax c.maxVersion.toNat) c).unitWork) := by
  have hbase : ¬ (24 ≤ link.val ∧ link.val < 30 ∧ c.pclass = 0 ∧ c.die.toNat = s.dieNo) := fun hpeer => by omega
  show execConfigMessage link c s = _
  unfold execConfigMessage
  dsimp only
  rw [if_neg (not_not.mpr h), if_neg hbase]
  refine congrArg Host.Outcome.next ?_
  split
  · rfl
  · cases c.placement with
    | none => rfl
    | some w =>
      simp only [if_neg (show ¬ 30 ≤ link.val by omega), if_true]
      rfl

theorem configMessage_common (h : s.linkState link.val = lkConfig) (hi : link.val < 24) (hstage : s.stage ≠ 1)
    (hv : max ownMin c.minVersion.toNat ≤ min ownMax c.maxVersion.toNat) (hbops : s.bops = []) :
    Answers (.configMessage link c) s fun t => Trained s t link.val (min ownMax c.maxVersion.toNat)
      ((max (s.fld (F.lnkEpoch link.val)) c.epoch.toNat + 1) % 2 ^ 16) := by
  let i := link.val
  have hnoted := Beside.partnerNoted s i c
  have hstage' : (s.partnerNoted i c).stage ≠ 1 := by
    rw [State.stage, hnoted.fields F.evgBootStage (by simp [configKeys])]
    exact hstage
  have htrained := State.linkActive_trained (s := s.partnerNoted i c) (i := i) c hstage'
    (Nat.lt_of_le_of_lt (Nat.min_le_left ownMax c.maxVersion.toNat) (by decide))
  rw [hnoted.fields (F.lnkEpoch i) (by simp [configKeys])] at htrained
  obtain ⟨hmem, hcores, hbops', hstate, hversion, hepoch, hwidth, hrx, hreplay, hecho⟩ := htrained
  refine ⟨_, (configMessage_base h hi).trans (congrArg _ (if_neg (by omega))), ?_⟩
  rw [State.unitWork_eq_self (hbops'.trans (hnoted.bops.trans hbops))]
  exact ⟨hmem.trans hnoted.mem, hcores.trans hnoted.cores, hbops'.trans hnoted.bops, hstate, hversion, hepoch,
    hwidth.trans (hnoted.fields (F.lnkStatusWidth i) (by simp [configKeys])), hrx, hreplay, hecho⟩

theorem configMessage_apart (h : s.linkState link.val = lkConfig) (hi : link.val < 24) (hstage : s.stage ≠ 1)
    (hv : min ownMax c.maxVersion.toNat < max ownMin c.minVersion.toNat) (hkeep : (s.link link.val).keepTraffic = false) :
    Answers (.configMessage link c) s fun t => t.mem = s.mem ∧ t.linkState link.val = lkFailed ∧
      t.fld (F.lnkLastFailReason link.val) = 4 ∧ (t.link link.val).listening = false := by
  let i := link.val
  let u := (s.partnerNoted i c).noteFail i 0x04 lkConfig
  have hnoted : Beside ((F.lnkStatusState i).key :: configKeys i) s u :=
    ((Beside.partnerNoted s i c).setFld (partnerKeys_config (by simp)) _).setFld (partnerKeys_config (by simp)) _
  have hup : u.linkUp i = false := by
    rw [State.linkUp, show u.linkState i = lkConfig from (hnoted.fields _ List.mem_cons_self).trans h]
    rfl
  have hreason : u.fld (F.lnkLastFailReason i) = 4 :=
    ((State.fld_setFld_ne _ (by simp only [ne_eq, Fld.key, F.lnkLastFailReason, F.lnkLastFailState]; omega) _).trans
      (State.fld_setFld _ _ _))
  obtain ⟨hwork, hstate, hlisten, hkept⟩ := State.toFailed_idle (s := u) (i := i) (by omega) hup hkeep
  have hstageKey : F.evgBootStage.key ∉ clearKeys i := by
    refine not_mem_clearKeys i ?_ (Or.inl ?_) <;>
    · simp only [List.mem_cons, List.not_mem_nil, or_false, not_or, Fld.key, F.evgBootStage, F.lnkStatusState, F.lnkStatusWidth,
        F.lnkGood, F.lnkUsed]
      omega
  have hstage' : (u.toFailed i).stage ≠ 1 := by
    rw [State.stage, hkept _ hstageKey, hnoted.fields F.evgBootStage (by simp [configKeys])]
    exact hstage
  refine ⟨_, (configMessage_base h hi).trans (congrArg _ (if_pos hv)), ?_⟩
  rw [State.checkS1_eq_self _ hstage']
  exact ⟨hwork.mem.trans hnoted.mem, hstate, (hkept _ failKeys_kept.1).trans hreason, hlisten⟩

end

/-! ### Declared down (R40, R41) -/

/-- A link with everything held for it discarded. -/
def LinkSt.discarded (l : LinkSt) : LinkSt :=
  { l with txq := [], txPart := [], bout := [], bheld := [], bwait := [], vc5out := [], ctlDue := [], replay := [], resend := [],
           rxPart := [], backs := [], wire := none, keepTraffic := false, flitOut := none, lanes := [], carried := [],
           partTag := none, creditDue := [], retryPending := false, gap := false, resends := 0, retryTimes := [],
           reconfig := none }

theorem State.discardLink_eq {s : State} {i : Nat} (h : (s.link i).bheld = []) :
    ∃ n, s.discardLink i = (s.setLink i (s.link i).discarded).addFld F.bndDropped n := by
  refine ⟨(s.link i).bout.length + (s.link i).vc5out.length + paceIn (s.link i).txq + ((s.link i).replay.map messagesIn).sum, ?_⟩
  unfold State.discardLink
  dsimp only
  rw [h]
  rfl

/-- The channels that a link's loss meets rest on the channels, on what the link holds and on the die's number. -/
theorem State.dmaOnLink_congr {s t : State} {i : Nat} (hchans : t.chans = s.chans) (hdie : t.dieNo = s.dieNo)
    (hholds : ∀ tag, (t.link i).holds tag = (s.link i).holds tag) : t.dmaOnLink i = s.dmaOnLink i := by
  unfold State.dmaOnLink State.isLocal
  simp only [hchans, hdie, hholds]

theorem State.chans_logEvent (s : State) (severity kind status code unit context detail : Nat) :
    (s.logEvent severity kind status code unit context detail).chans = s.chans := by
  obtain ⟨_, _, hlog⟩ := s.logEvent_eq severity kind status code unit context detail
  rw [hlog]

theorem logs.congr {s u t : State} {severity kind status code unit context detail : Nat} (hlog : u.log = s.log)
    (hnext : u.fld F.fltEvtNext = s.fld F.fltEvtNext) (htime : u.time = s.time)
    (h : logs u t severity kind status code unit context detail) : logs s t severity kind status code unit context detail := by
  unfold logs State.nextEvent at h ⊢
  rw [h, hlog, hnext, htime]

/-- Link i has been declared down, no component failed by it. -/
structure LinkLost (s t : State) (i next : Nat) : Prop where
  mem : t.mem = s.mem
  state : t.linkState i = next
  epoch : t.fld (F.lnkEpoch i) = (s.fld (F.lnkEpoch i) + 1) % 2 ^ 16
  downs : t.fld (F.lnkDowns i) = (s.fld (F.lnkDowns i) + 1) % 2 ^ 32
  txq : (t.link i).txq = []
  bout : (t.link i).bout = []
  replay : (t.link i).replay = []
  log : logs s t svWarning 4 0 0x0400 i 0 ((s.fld (F.lnkEpoch i) + 1) % 2 ^ 16)

/-- The registers of a link that its loss counts. -/
def downKeys (i : Nat) : List Nat := [(F.lnkStatusState i).key, (F.lnkEpoch i).key, (F.lnkDowns i).key]

theorem asideKeys_down {i k : Nat} (hk : k ∈ F.bndDropped.key :: asideKeys) : k ∉ downKeys i := by
  simp only [asideKeys, List.mem_cons, List.not_mem_nil, or_false] at hk
  simp only [downKeys, List.mem_cons, List.not_mem_nil, or_false, not_or, Fld.key, F.lnkStatusState, F.lnkEpoch, F.lnkDowns]
  obtain rfl | rfl | rfl | rfl | rfl | rfl | rfl | rfl := hk <;>
  · simp only [Fld.key, F.bndDropped, F.fltEvtNext, F.fltEvtLost, F.evgDiebackUnsaved, F.fltLinksLost, F.fltStatusLinkLost,
      F.evgBootReady, F.lnkDowngraded]
    omega

/-- The registers below the links' stand beside those that a link's loss changes. -/
theorem low_not_mem_clearKeys {i k : Nat} (h : k < 0xe0000 * 32) : k ∉ clearKeys i := by
  refine not_mem_clearKeys i ?_ (Or.inl (by omega))
  simp only [List.mem_cons, List.not_mem_nil, or_false, not_or, Fld.key, F.lnkStatusState, F.lnkStatusWidth, F.lnkGood, F.lnkUsed]
  omega

/-- The link left in state `next`, its loss counted. -/
def State.downCounted (s : State) (i next : Nat) : State :=
  (((s.clearLink i next).setLink i { s.link i with oldWidth := 0 }).addFld (F.lnkEpoch i) 1).addFld (F.lnkDowns i) 1

/-- … and logged, for a link that does not count under R43. -/
def State.downLogged (s : State) (i next : Nat) : State :=
  (s.downCounted i next).logEvent svWarning 4 0 0x0400 i 0 ((s.downCounted i next).fld (F.lnkEpoch i))

theorem State.linkDown_uncounted {s : State} {i : Nat} (next : Nat) (h : s.linkCounts i = false) :
    s.linkDown i next = ((((s.downLogged i next).dmaOnLink i).foldl (fun s c => s.dmaKill c (fun o => o.link == some i) false)
      ((s.downLogged i next).discardLink i)).lose 5 2).unitWork := by
  unfold State.linkDown
  rw [h]
  rfl

section
variable (s : State) (i next : Nat)

theorem State.linkWork_downCounted : linkWork s (s.downCounted i next) :=
  ((((linkWork.refl s).clearLink i next).setLink i _).addFld _ 1).addFld _ 1

theorem State.link_downCounted : (s.downCounted i next).link i = { s.link i with oldWidth := 0 } := by
  unfold State.downCounted
  rw [State.link_congr (State.addFld_links _ _ _), State.link_congr (State.addFld_links _ _ _), State.link_setLink]

theorem State.fieldsKept_downCounted :
    fieldsKept s (s.downCounted i next) ((F.lnkDowns i).key :: (F.lnkEpoch i).key :: clearKeys i) :=
  ((((s.fieldsKept_clearLink i next).mono (List.subset_cons_of_subset _ (List.subset_cons_self _ _))).setLink i _).addFld
    (f := F.lnkEpoch i) (by simp) 1).addFld (f := F.lnkDowns i) (by simp) 1

theorem State.downCounted_counts : (s.downCounted i next).fld (F.lnkEpoch i) = (s.fld (F.lnkEpoch i) + 1) % 2 ^ 16 ∧
    (s.downCounted i next).fld (F.lnkDowns i) = (s.fld (F.lnkDowns i) + 1) % 2 ^ 32 ∧
    (next < 16 → (s.downCounted i next).linkState i = next) := by
  have hkeys : (F.lnkStatusState i).key ≠ (F.lnkDowns i).key ∧ (F.lnkStatusState i).key ≠ (F.lnkEpoch i).key ∧
      (F.lnkEpoch i).key ≠ (F.lnkDowns i).key ∧ (F.lnkDowns i).key ≠ (F.lnkEpoch i).key := by
    simp only [ne_eq, Fld.key, F.lnkStatusState, F.lnkDowns, F.lnkEpoch]
    omega
  obtain ⟨hsd, hse, hed, hde⟩ := hkeys
  have hapart : (F.lnkEpoch i).key ∉ clearKeys i ∧ (F.lnkDowns i).key ∉ clearKeys i := by
    refine ⟨not_mem_clearKeys i ?_ ?_, not_mem_clearKeys i ?_ ?_⟩ <;>
    · simp only [List.mem_cons, List.not_mem_nil, or_false, not_or, Fld.key, F.lnkEpoch, F.lnkDowns, F.lnkStatusState,
        F.lnkStatusWidth, F.lnkGood, F.lnkUsed]
      omega
  have hcleared := s.fieldsKept_clearLink i next
  unfold State.downCounted State.linkState
  refine ⟨?_, ?_, fun hnext => ?_⟩
  · rw [State.fld_addFld_ne _ hed, State.fld_addFld, State.fld_setLink, hcleared _ hapart.1]
    rfl
  · rw [State.fld_addFld, State.fld_addFld_ne _ hde, State.fld_setLink, hcleared _ hapart.2]
    rfl
  · rw [State.fld_addFld_ne _ hsd, State.fld_addFld_ne _ hse, State.fld_setLink]
    exact s.linkState_clearLink i hnext

/-- What a link's loss meets of the channels is what the link had before. -/
theorem State.dmaOnLink_downLogged : (s.downLogged i next).dmaOnLink i = s.dmaOnLink i := by
  have hlow : ∀ g : Fld, g.key < 0xe0000 * 32 → (s.downCounted i next).fld g = s.fld g := by
    intro g hg
    refine s.fieldsKept_downCounted i next g fun hmem => ?_
    simp only [List.mem_cons, Fld.key, F.lnkDowns, F.lnkEpoch] at hmem hg
    obtain h | h | h := hmem
    · omega
    · omega
    · exact low_not_mem_clearKeys hg h
  have hdie : ∀ g : Fld, g.key < 0xe0000 * 32 → g.key ≠ F.fltEvtNext.key → g.key ≠ F.fltEvtLost.key →
      (s.downLogged i next).fld g = s.fld g :=
    fun g hg hn hl => ((s.downCounted i next).fld_logEvent_ne _ _ _ _ _ _ _ hn hl).trans (hlow g hg)
  have hlink : (s.downLogged i next).link i = { s.link i with oldWidth := 0 } :=
    (State.link_congr ((s.downCounted i next).links_logEvent _ _ _ _ _ _ _) i).trans (s.link_downCounted i next)
  refine State.dmaOnLink_congr ?_ ?_ fun tag => by rw [hlink]; rfl
  · exact ((s.downCounted i next).chans_logEvent _ _ _ _ _ _ _).trans (s.linkWork_downCounted i next).chans
  · unfold State.dieNo
    rw [hdie _ (by decide) (by decide) (by decide), hdie _ (by decide) (by decide) (by decide)]

end

theorem State.linkDown_lost {s : State} {i next : Nat} (hnext : next < 16) (hbops : s.bops = []) (hdma : s.dmaOnLink i = [])
    (hheld : (s.link i).bheld = []) (hcounts : s.linkCounts i = false) : LinkLost s (s.linkDown i next) i next := by
  let counted := s.downCounted i next
  let logged := s.downLogged i next
  have hwork : linkWork s counted := s.linkWork_downCounted i next
  obtain ⟨hepoch, hdowns, hstate⟩ := s.downCounted_counts i next
  have hlogged : Beside (downKeys i) counted logged :=
    (Beside.refl _ _).logEvent (fun k hk => asideKeys_down (List.mem_cons_of_mem _ hk)) _ _ _ _ _ _ _
  have hlink : logged.link i = { s.link i with oldWidth := 0 } :=
    (State.link_congr (counted.links_logEvent _ _ _ _ _ _ _) i).trans (s.link_downCounted i next)
  obtain ⟨n, hdiscard⟩ := State.discardLink_eq (s := logged) (i := i) (by rw [hlink]; exact hheld)
  let emptied := (logged.setLink i (logged.link i).discarded).addFld F.bndDropped n
  have hemptied : Beside (downKeys i) counted (emptied.lose 5 2) :=
    ((hlogged.setLink i _).setFld (asideKeys_down List.mem_cons_self) _).lose 5 2
  have hdown : s.linkDown i next = emptied.lose 5 2 := by
    rw [State.linkDown_uncounted next hcounts, State.dmaOnLink_downLogged, hdma, hdiscard, List.foldl_nil]
    exact State.unitWork_eq_self (hemptied.bops.trans (hwork.bops.trans hbops))
  have hlinkEnd : (emptied.lose 5 2).link i = (logged.link i).discarded := by
    rw [State.link_lose, State.link_congr (State.addFld_links _ _ _), State.link_setLink]
  rw [hdown]
  refine ⟨hemptied.mem.trans hwork.mem, ?_, ?_, ?_, ?_, ?_, ?_, ?_⟩
  · exact (hemptied.fields (F.lnkStatusState i) (by simp [downKeys])).trans (hstate hnext)
  · exact (hemptied.fields (F.lnkEpoch i) (by simp [downKeys])).trans hepoch
  · exact (hemptied.fields (F.lnkDowns i) (by simp [downKeys])).trans hdowns
  · rw [hlinkEnd]; rfl
  · rw [hlinkEnd]; rfl
  · rw [hlinkEnd]; rfl
  · have hnextKey : F.fltEvtNext.key ∉ (F.lnkDowns i).key :: (F.lnkEpoch i).key :: clearKeys i := by
      simp only [List.mem_cons, not_or, Fld.key, F.fltEvtNext, F.lnkDowns, F.lnkEpoch]
      exact ⟨by omega, by omega, low_not_mem_clearKeys (by decide)⟩
    have hlog : logs counted logged svWarning 4 0 0x0400 i 0 (counted.fld (F.lnkEpoch i)) := counted.log_logEvent _ _ _ _ _ _ _
    have hend : (emptied.lose 5 2).log = logged.log := by
      obtain ⟨_, hlose⟩ := emptied.lose_eq 5 2
      rw [hlose]
      rfl
    have hlogs := logs.congr hwork.log (s.fieldsKept_downCounted i next _ hnextKey) hwork.time hlog
    rw [hepoch] at hlogs
    exact hend.trans hlogs

end Sys2Proof.Machine
end

section
/-! Training, waking and losing a link, from state to state (R395 to R411). It settles O57. -/

namespace Sys2Proof.Machine

/-! ### Silence (R40) -/

/-- 10 µs of silence declare a link down that is up, whatever it holds of its own. -/
theorem linkTimeout_lost {s : State} {link : LinkNo} (hup : s.linkUp link.val = true) (hbops : s.bops = [])
    (hdma : s.dmaOnLink link.val = []) (hheld : (s.link link.val).bheld = []) (hcounts : s.linkCounts link.val = false) :
    Answers (.linkTimeout link) s fun t => LinkLost s t link.val lkDetect := by
  let i := link.val
  obtain ⟨v, hv⟩ : ∃ v, v = if (s.link i).activeSince + 1000000 ≤ s.time then s.setFld (F.lnkStatusAttempts i) 0 else s := ⟨_, rfl⟩
  have hwork : linkWork s v := by
    rw [hv]
    split
    · exact (linkWork.refl s).setFld _ _
    · exact linkWork.refl s
  have hkept : fieldsKept s v [(F.lnkStatusAttempts i).key] := by
    rw [hv]
    split
    · exact (fieldsKept.refl s _).setFld List.mem_cons_self _
    · exact fieldsKept.refl s _
  have hlinks : v.links = s.links := by
    rw [hv]
    split
    · rfl
    · rfl
  let l : LinkSt := { v.link i with tries := 0, listening := true, trickleSent := false, echoSeen := false }
  have hexec : exec (.linkTimeout link) s = .next ((v.setLink i l).linkDown i lkDetect) := by
    show execLinkTimeout link s = _
    unfold execLinkTimeout
    dsimp only
    rw [if_pos hup, ← hv]
  have hapart : ∀ g : Fld, g.key < 0xe1000 * 32 → (v.setLink i l).fld g = s.fld g := fun g hg => hkept g (by
    simp only [List.mem_singleton, Fld.key, F.lnkStatusAttempts] at hg ⊢
    omega)
  have hcounts' : (v.setLink i l).linkCounts i = false := by
    rw [← hcounts]
    unfold State.linkCounts State.ready
    rw [hapart F.evgBootReady (by decide)]
    obtain ⟨_, _, _, rfl⟩ := hwork
    rfl
  have hlink : (v.setLink i l).link i = { s.link i with tries := 0, listening := true, trickleSent := false, echoSeen := false } := by
    rw [State.link_setLink, ← State.link_congr hlinks i]
  have hdma' : (v.setLink i l).dmaOnLink i = [] := by
    rw [← hdma]
    refine State.dmaOnLink_congr hwork.chans ?_ fun tag => by rw [hlink]; rfl
    unfold State.dieNo
    rw [hapart _ (by decide), hapart _ (by decide)]
  have hkeys : (F.lnkEpoch i).key ∉ [(F.lnkStatusAttempts i).key] ∧ (F.lnkDowns i).key ∉ [(F.lnkStatusAttempts i).key] := by
    simp only [List.mem_singleton, Fld.key, F.lnkEpoch, F.lnkDowns, F.lnkStatusAttempts]
    omega
  obtain ⟨hmem, hstate, hepoch, hdowns, htxq, hbout, hreplay, hlog⟩ := State.linkDown_lost (s := v.setLink i l) (i := i)
    (next := lkDetect) (by decide) (hwork.bops.trans hbops) hdma' (by rw [hlink]; exact hheld) hcounts'
  have hepochKept : (v.setLink i l).fld (F.lnkEpoch i) = s.fld (F.lnkEpoch i) := hkept _ hkeys.1
  have hdownsKept : (v.setLink i l).fld (F.lnkDowns i) = s.fld (F.lnkDowns i) := hkept _ hkeys.2
  rw [hepochKept] at hepoch hlog
  rw [hdownsKept] at hdowns
  exact ⟨_, hexec, hmem.trans hwork.mem, hstate, hepoch, hdowns, htxq, hbout, hreplay,
    logs.congr (u := v.setLink i l) hwork.log (hapart _ (by decide)) hwork.time hlog⟩

/-! ### A wake that does not lock (R395) -/

theorem linkWakeTimeout_fails {s : State} {link : LinkNo} (h : s.linkState link.val = lkWake)
    (hearly : s.fld (F.lnkStatusAttempts link.val) < 2) (hbops : s.bops = [])
    (htime : s.time < (s.link link.val).activeSince + 1000000) :
    Answers (.linkWakeTimeout link) s fun t => linkWork s t ∧ AttemptFailed (s.leaveUp link.val) t link.val 7 lkWake ∧
      (s.leaveUp link.val).fld (F.lnkStatusAttempts link.val) = s.fld (F.lnkStatusAttempts link.val) := by
  let i := link.val
  have hkept := s.fieldsKept_leaveUp_early i htime (F.lnkStatusAttempts i) failKeys_kept.2.2
  have hfailed := State.failAttempt_early (s := s.leaveUp i) (i := i) 7 lkWake (by rw [hkept]; exact hearly)
  have hwork := (s.linkWork_leaveUp i).trans hfailed.work
  refine ⟨_, ?_, hwork, hfailed, hkept⟩
  show execLinkWakeTimeout link s = _
  unfold execLinkWakeTimeout
  dsimp only
  rw [if_pos h, State.unitWork_eq_self (hwork.bops.trans hbops)]

/-! ### Traffic on a link in TRICKLE (R410) -/

/-- The rustle pattern and a training sequence wake a link in TRICKLE alike. -/
theorem trickle_wakes {s : State} {link : LinkNo} (h : s.linkState link.val = lkTrickle) {a : Instr}
    (ha : a ∈ [Instr.rustlePattern link, .trainingSequence link]) :
    exec a s = .next (s.wakeLink link.val).linkTraffic := by
  simp only [List.mem_cons, List.not_mem_nil, or_false] at ha
  obtain rfl | rfl := ha
  · show execRustlePattern link s = _
    unfold execRustlePattern
    rw [if_pos h]
  · show execTrainingSequence link s = _
    unfold execTrainingSequence
    dsimp only
    rw [if_neg (by rw [h]; simp), if_neg (by rw [h]; decide), if_pos h]

/-- The traffic that wakes a link wakes a sleeping die too. -/
theorem State.linkTraffic_wakes {s : State} (h : s.fld F.pwrDieStatusState = 2) :
    s.linkTraffic.fld F.pwrDieStatusState = 3 ∧ s.linkTraffic.fld F.pwrDieStatusWakeCause = 5 := by
  unfold State.linkTraffic
  dsimp only
  rw [h, if_neg (by decide), if_pos rfl]
  exact State.beginDieWake_begins 5 h

theorem State.fld_wakeLink_low (s : State) (i : Nat) {g : Fld} (h : g.key < 0xe0000 * 32) : (s.wakeLink i).fld g = s.fld g :=
  s.fld_wakeLink_ne i (by simp only [Fld.key, F.lnkStatusState] at h ⊢; omega) (by simp only [Fld.key, F.lnkWakes] at h ⊢; omega)

/-! ### A link that keeps its traffic -/

/-- A link that leaves an up state holds its packets and its replay buffer. -/
theorem State.leaveUp_holds (s : State) (i : Nat) : ((s.leaveUp i).link i).txq = (s.link i).txq ∧
    ((s.leaveUp i).link i).replay = (s.link i).replay ∧ ((s.leaveUp i).link i).keepTraffic = true := by
  rw [s.link_leaveUp i]
  exact ⟨rfl, rfl, rfl⟩

theorem attemptTimeout_fails {s : State} {link : LinkNo} {reason : Nat}
    (h : (s.linkState link.val, reason) ∈ [(lkLaneTest, 1), (lkEq, 2), (lkWidth, 0x0C), (lkConfig, 8)]) :
    exec (.attemptTimeout link) s = .next (s.failAttempt link.val reason (s.linkState link.val)) := by
  show execAttemptTimeout link s = _
  unfold execAttemptTimeout
  dsimp only
  simp only [List.mem_cons, List.not_mem_nil, or_false, Prod.mk.injEq] at h
  obtain ⟨hst, rfl⟩ | ⟨hst, rfl⟩ | ⟨hst, rfl⟩ | ⟨hst, rfl⟩ := h <;> rw [hst] <;> rfl

/-! ### The states of an attempt, one by one -/

/-- From s to t scratchpads, cores and kernels are as they were, and so is what link i holds to be sent. -/
structure TrafficKept (s t : State) (i : Nat) : Prop where
  mem : t.mem = s.mem
  cores : t.cores = s.cores
  kernels : t.kernels = s.kernels
  txq : (t.link i).txq = (s.link i).txq
  replay : (t.link i).replay = (s.link i).replay

theorem linkWork.trafficKept {s t : State} {i : Nat} (h : linkWork s t) (htxq : (t.link i).txq = (s.link i).txq)
    (hreplay : (t.link i).replay = (s.link i).replay) : TrafficKept s t i :=
  ⟨h.mem, h.cores, h.kernels, htxq, hreplay⟩

theorem TrafficKept.setFld {s t : State} {i : Nat} (h : TrafficKept s t i) (f : Fld) (v : Nat) : TrafficKept s (t.setFld f v) i :=
  ⟨h.mem, h.cores, h.kernels, h.txq, h.replay⟩

theorem TrafficKept.setLink {s t : State} {i : Nat} (h : TrafficKept s t i) {x : LinkSt} (htxq : x.txq = (s.link i).txq)
    (hreplay : x.replay = (s.link i).replay) : TrafficKept s (t.setLink i x) i :=
  ⟨h.mem, h.cores, h.kernels, by rw [State.link_setLink, htxq], by rw [State.link_setLink, hreplay]⟩

theorem TrafficKept.refl (s : State) (i : Nat) : TrafficKept s s i := ⟨rfl, rfl, rfl, rfl, rfl⟩

section
variable {s : State} {link : LinkNo}

/-- The registers of a link that an attempt sets, each apart from the others. -/
theorem attemptKeys_apart (i : Nat) : (F.lnkGood i).key ≠ (F.lnkStatusState i).key ∧
    (F.lnkStatusWidth i).key ≠ (F.lnkStatusState i).key ∧ (F.lnkStatusWidth i).key ≠ (F.lnkUsed i).key ∧
    (F.lnkUsed i).key ≠ (F.lnkStatusState i).key ∧ ∀ j, (F.lnkLaneEqMain i j).key ≠ (F.lnkStatusState i).key ∧
      (F.lnkLaneEqMain i j).key ≠ (F.lnkGood i).key ∧ (F.lnkLaneEqPre i j).key ≠ (F.lnkStatusState i).key ∧
      (F.lnkLaneEqPre i j).key ≠ (F.lnkGood i).key := by
  simp only [ne_eq, Fld.key, F.lnkGood, F.lnkStatusState, F.lnkStatusWidth, F.lnkUsed, F.lnkLaneEqMain, F.lnkLaneEqPre]
  exact ⟨by omega, by omega, by omega, by omega, fun j => by omega⟩

/-- A mask in LNK_GOOD, bit by bit. -/
theorem State.fld_setGood (s : State) (i m : Nat) : ((s.setFld (F.lnkGood i) m).fld (F.lnkGood i) < 2 ^ 64) ∧
    ∀ j, j < 64 → ((s.setFld (F.lnkGood i) m).fld (F.lnkGood i)).testBit j = m.testBit j := by
  rw [State.fld_setFld, show (F.lnkGood i).w = 64 from rfl]
  exact ⟨Nat.mod_lt _ (by decide), fun j hj => by rw [Nat.testBit_mod_two_pow]; simp [hj]⟩

/-- The attempt counts, and without saved settings its lanes start from the seeds (R397, R545). -/
theorem trainingSequence_begins (hstate : s.linkState link.val = lkDetect) (hlisten : (s.link link.val).listening = true)
    (hexists : s.linkExists link.val = true) : Answers (.trainingSequence link) s fun t => linkWork s t ∧
      t.linkState link.val = lkLaneTest ∧ (t.link link.val).tries = (s.link link.val).tries + 1 ∧
      ((s.link link.val).saved = none → ∀ j, j < laneCount link.val →
        t.fld (F.lnkLaneEqMain link.val j) = s.eqTap (0x03000001 + link.val * 2 ^ 16 + j * 2 ^ 8)) ∧
      fieldsKept s t ((F.lnkStatusState link.val).key :: eqKeys link.val) := by
  obtain ⟨u, eq, hexec, hu, htries, hseeds⟩ := trainingSequence_detect hstate hlisten hexists
  have hwork : linkWork s u := hu ▸ (linkWork.refl s).setLink link.val _
  have hkept : fieldsKept s u ((F.lnkStatusState link.val).key :: eqKeys link.val) :=
    hu ▸ (fieldsKept.refl s _).setLink link.val _
  have hset := (u.fieldsKept_setEq link.val eq).mono (List.subset_cons_self (F.lnkStatusState link.val).key _)
  refine ⟨_, hexec, (hwork.trans (u.linkWork_setEq _ eq)).setFld _ _, State.fld_setFld _ _ _, ?_, fun hsaved j hj => ?_,
    (hkept.trans hset).setFld List.mem_cons_self _⟩
  · rw [State.link_congr (State.setFld_links _ _ _), State.link_setEq]
    exact htries
  · have hstart : eq[j]? = some (s.eqStart link.val j) := by
      rw [hseeds hsaved, List.getElem?_map, List.getElem?_range hj]
      rfl
    rw [State.fld_setFld_ne _ ((attemptKeys_apart link.val).2.2.2.2 j).1, State.fld_setEq_main hj hstart]
    exact s.eqStart_main _ j

theorem trainingSequence_leaves (h : s.linkState link.val = lkActive ∨ s.linkState link.val = lkReconfig ∨
    s.linkState link.val = lkWake) : Answers (.trainingSequence link) s fun t => TrafficKept s t link.val ∧
      t.linkState link.val = lkDetect ∧ (t.link link.val).keepTraffic = true ∧
      t.fld (F.lnkEpoch link.val) = s.fld (F.lnkEpoch link.val) := by
  obtain ⟨htxq, hreplay, hkeep⟩ := s.leaveUp_holds link.val
  rw [← State.link_lose _ 5 2] at htxq hreplay hkeep
  have hepoch : (F.lnkEpoch link.val).key ∉ (F.lnkStatusAttempts link.val).key :: clearKeys link.val := by
    rw [List.mem_cons, not_or]
    refine ⟨?_, not_mem_clearKeys _ ?_ (Or.inl ?_)⟩ <;>
    · simp only [List.mem_cons, List.not_mem_nil, or_false, not_or, Fld.key, F.lnkEpoch, F.lnkStatusAttempts, F.lnkStatusState,
        F.lnkStatusWidth, F.lnkGood, F.lnkUsed]
      omega
  exact ⟨_, trainingSequence_up h, ((s.linkWork_leaveUp link.val).lose 5 2).trafficKept htxq hreplay, by simp, hkeep,
    ((s.fieldsKept_leaveUp link.val).lose 5 2) _ hepoch⟩

theorem laneTestEnd_answers (mask : DWord) (clocks : Byte) (h : s.linkState link.val = lkLaneTest) :
    Answers (.laneTestEnd link mask clocks) s fun t => TrafficKept s t link.val ∧ t.linkState link.val = lkEq ∧
      t.fld (F.lnkGood link.val) < 2 ^ 64 ∧ (∀ j, j < 64 → ((t.fld (F.lnkGood link.val)).testBit j = true ↔
        j < laneCount link.val ∧ mask.toNat.testBit j = true ∧ clocks.toNat.testBit (j / 8) = false)) ∧
      fieldsKept s t [(F.lnkGood link.val).key, (F.lnkStatusState link.val).key] := by
  obtain ⟨hgs, -⟩ := attemptKeys_apart link.val
  refine ⟨_, laneTestEnd_ends mask clocks h, (((TrafficKept.refl s _).setLink ?_ ?_).setFld _ _).setFld _ _,
    State.fld_setFld _ _ _, ?_⟩
  · rfl
  · rfl
  · rw [State.fld_setFld_ne _ hgs]
    refine ⟨(State.fld_setGood _ _ _).1, fun j hj => ?_, ?_⟩
    · rw [(State.fld_setGood _ _ _).2 j hj]
      exact testBit_goodLanes link.val mask clocks j
    · exact (((fieldsKept.refl s _).setLink link.val _).setFld (f := F.lnkGood link.val) (by simp) _).setFld
        (f := F.lnkStatusState link.val) (by simp) _

theorem eqComplete_answers (mask : DWord) (eq : List Word) (h : s.linkState link.val = lkEq) :
    Answers (.eqComplete link mask eq) s fun t => TrafficKept s t link.val ∧ t.linkState link.val = lkWidth ∧
      (∀ j, t.fld (F.lnkGood link.val) < 2 ^ 64 ∧ (j < 64 → ((t.fld (F.lnkGood link.val)).testBit j = true ↔
        (s.link link.val).ownMask.testBit j = true ∧ mask.toNat.testBit j = true))) ∧
      (∀ j w, j < laneCount link.val → eq[j]? = some w → t.fld (F.lnkLaneEqMain link.val j) = w.toNat / 2 ^ 24 % 16 ∧
        t.fld (F.lnkLaneEqPre link.val j) = w.toNat / 2 ^ 28 % 16) := by
  obtain ⟨hgs, -, -, -, hlanes⟩ := attemptKeys_apart link.val
  have hlink := s.link_setEq link.val (eq.map BitVec.toNat) link.val
  have hset := (s.linkWork_setEq link.val (eq.map BitVec.toNat)).trafficKept (i := link.val) (by rw [hlink]) (by rw [hlink])
  refine ⟨_, eqComplete_ends mask eq h, ((hset.setLink ?_ ?_).setFld _ _).setFld _ _, State.fld_setFld _ _ _, fun j => ?_,
    fun j w hj hw => ?_⟩
  · exact (congrArg LinkSt.txq hlink :)
  · exact (congrArg LinkSt.replay hlink :)
  · rw [State.fld_setFld_ne _ hgs]
    refine ⟨(State.fld_setGood _ _ _).1, fun hj => ?_⟩
    rw [(State.fld_setGood _ _ _).2 j hj, Nat.testBit_and, Bool.and_eq_true]
  · obtain ⟨hms, hmg, hps, hpg⟩ := hlanes j
    have hget : (eq.map BitVec.toNat)[j]? = some w.toNat := by rw [List.getElem?_map, hw]; rfl
    rw [State.fld_setFld_ne _ hms, State.fld_setFld_ne _ hmg, State.fld_setLink, State.fld_setFld_ne _ hps,
      State.fld_setFld_ne _ hpg, State.fld_setLink]
    exact ⟨State.fld_setEq_main hj hget, State.fld_setEq_pre hj hget⟩

theorem widthMap_answers (mask : DWord) (h : s.linkState link.val = lkWidth)
    (hw : 8 ≤ widthOf ((s.link link.val).ownMask &&& (mask.toNat % 2 ^ laneCount link.val)) (laneCount link.val)) :
    let good := (s.link link.val).ownMask &&& (mask.toNat % 2 ^ laneCount link.val)
    Answers (.widthMap link mask) s fun t => TrafficKept s t link.val ∧ t.linkState link.val = lkConfig ∧
      t.fld (F.lnkStatusWidth link.val) = widthOf good (laneCount link.val) ∧
      bitsOf 64 (t.fld (F.lnkUsed link.val)) = (bitsOf (laneCount link.val) good).take (widthOf good (laneCount link.val)) ∧
      fieldsKept s t [(F.lnkStatusWidth link.val).key, (F.lnkUsed link.val).key, (F.lnkStatusState link.val).key] := by
  obtain ⟨-, hws, hwu, hus, -⟩ := attemptKeys_apart link.val
  obtain ⟨x, htxq, hreplay, hexec⟩ := widthMap_enough mask h hw
  refine ⟨_, hexec, ((((TrafficKept.refl s _).setLink htxq hreplay).setFld _ _).setFld _ _).setFld _ _, State.fld_setFld _ _ _,
    ?_, ?_, ?_⟩
  · rw [State.fld_setFld_ne _ hws, State.fld_setFld_ne _ hwu, State.fld_setFld]
    exact Nat.mod_eq_of_lt (show widthOf _ _ < 2 ^ 7 from
      Nat.lt_of_le_of_lt ((widthOf_le _ _).trans (laneCount_le link.val)) (by decide))
  · rw [State.fld_setFld_ne _ hus, State.fld_setFld]
    exact bitsOf_take (laneCount_le link.val) _ _
  · exact ((((fieldsKept.refl s _).setLink link.val x).setFld (f := F.lnkStatusWidth link.val) (by simp) _).setFld
      (f := F.lnkUsed link.val) (by simp) _).setFld (f := F.lnkStatusState link.val) (by simp) _

theorem wakeLock_answers (h : s.linkState link.val = lkWake) : Answers (.wakeLock link) s fun t =>
    TrafficKept s t link.val ∧ t.linkState link.val = lkActive ∧ fieldsKept s t [(F.lnkStatusState link.val).key] := by
  refine ⟨_, congrArg Host.Outcome.next (if_pos h), ((TrafficKept.refl s _).setLink ?_ ?_).setFld _ _, State.fld_setFld _ _ _,
    ((fieldsKept.refl s _).setLink link.val _).setFld (f := F.lnkStatusState link.val) (by simp) _⟩
  · rfl
  · rfl

end

/-- Settles O57: each state of an attempt ends as R397 to R402 say, and a link that leaves an up state keeps its traffic
unless silence declares it down (R40, R395, R410). -/
theorem linksTrain : Obligations.LinksTrain := by
  unfold Obligations.LinksTrain
  intro s link mask clocks eq c i l n x still traffic fails early
  have hearlyFails : ∀ {reason : Nat}, early → reason < 2 ^ 8 → fails (s.failAttempt i reason x) reason := by
    intro reason hearly hreason
    obtain ⟨hwork, hstate, hr, hin, hattempts, -, -⟩ := State.failAttempt_early (s := s) (i := i) reason x hearly
    exact ⟨⟨hwork.mem, hwork.cores, hwork.kernels⟩, hstate, hr.trans (Nat.mod_eq_of_lt hreason), hin, hattempts⟩
  have htimeout : ∀ {reason : Nat}, early → reason < 2 ^ 8 →
      (x, reason) ∈ [(lkLaneTest, 1), (lkEq, 2), (lkWidth, 0x0C), (lkConfig, 8)] → Answers (.attemptTimeout link) s (fails · reason) :=
    fun hearly hreason hx => ⟨_, attemptTimeout_fails hx, hearlyFails hearly hreason⟩
  have htraffic : ∀ {t : State}, TrafficKept s t i → traffic t :=
    fun ⟨hmem, hcores, hkernels, htxq, hreplay⟩ => ⟨⟨hmem, hcores, hkernels⟩, htxq, hreplay⟩
  refine ⟨fun hx hlisten hexists => ?_, fun hx => ?_, fun hx => ?_, fun hx => ?_, fun hx => ⟨fun hw => ?_, fun hw hearly => ?_⟩,
    fun hearly => ⟨fun hx => ?_, fun hx => ?_, fun hx => ?_, fun hx => ?_⟩, fun hx hi hstage => ⟨fun hv hbops => ?_, fun hv hkeep => ?_⟩,
    fun hx a ha => ?_, fun hx => ?_, fun hx => ?_, fun hx hearly hbops htime => ?_, fun hup hbops hdma hheld hcounts => ?_, fun hup => ?_⟩
  · exact (trainingSequence_begins hx hlisten hexists).imp fun t ⟨hwork, hrest⟩ => ⟨⟨hwork.mem, hwork.cores, hwork.kernels⟩, hrest⟩
  · exact (trainingSequence_leaves hx).imp fun t ⟨ht, hrest⟩ => ⟨htraffic ht, hrest⟩
  · exact (laneTestEnd_answers mask clocks hx).imp fun t ⟨ht, hrest⟩ => ⟨htraffic ht, hrest⟩
  · exact (eqComplete_answers mask eq hx).imp fun t ⟨ht, hrest⟩ => ⟨htraffic ht, hrest⟩
  · exact (widthMap_answers mask hx hw).imp fun t ⟨ht, hrest⟩ => ⟨htraffic ht, hrest⟩
  · have hfails := hearlyFails hearly (show 3 < 2 ^ 8 by decide)
    rw [hx] at hfails
    exact ⟨_, widthMap_few mask hx hw, hfails⟩
  · exact htimeout hearly (by decide) (by rw [hx]; simp)
  · exact htimeout hearly (by decide) (by rw [hx]; simp)
  · exact htimeout hearly (by decide) (by rw [hx]; simp)
  · exact htimeout hearly (by decide) (by rw [hx]; simp)
  · refine (configMessage_common hx hi hstage hv hbops).imp ?_
    rintro t ⟨hmem, hcores, -, hstate, hversion, hepoch, hwidth, hrx, hreplay, hecho⟩
    exact ⟨hmem, hcores, hstate, hversion, hepoch, hwidth, hrx, hreplay, hecho⟩
  · exact configMessage_apart hx hi hstage hv hkeep
  · obtain ⟨hmem, hcores, hstate, hdue, hwakes⟩ := (Woken.of_trickle (s := s) (i := i) hx).linkTraffic
    refine ⟨_, trickle_wakes hx ha, hmem, hcores, hstate, hdue, hwakes, fun hsleeps => State.linkTraffic_wakes ?_⟩
    rw [State.fld_wakeLink_low s _ (by decide)]
    exact hsleeps
  · exact (wakeLock_answers hx).imp fun t ⟨ht, hrest⟩ => ⟨htraffic ht, hrest⟩
  · exact congrArg Host.Outcome.next (if_neg hx)
  · refine (linkWakeTimeout_fails hx hearly hbops htime).imp ?_
    rintro t ⟨hwork, ⟨-, hstate, hreason, hin, hattempts, hlink, -⟩, hkept⟩
    obtain ⟨htxq, -, hkeep⟩ := s.leaveUp_holds i
    refine ⟨⟨⟨hwork.mem, hwork.cores, hwork.kernels⟩, hstate, hreason, ?_, hattempts.trans (congrArg (· + 1) hkept)⟩, ?_, ?_⟩
    · rw [hx]; exact hin
    · rw [hlink]; exact hkeep
    · rw [hlink]; exact htxq
  · refine (linkTimeout_lost hup hbops hdma hheld hcounts).imp ?_
    rintro t ⟨hmem, hstate, hepoch, hdowns, htxq, hbout, hreplay, hlog⟩
    exact ⟨hmem, hstate, hepoch, hdowns, htxq, hbout, hreplay, hlog⟩
  · exact congrArg Host.Outcome.next (if_neg (Bool.not_eq_true _ ▸ hup))

end Sys2Proof.Machine
end

section
/-! A flit on the wire: its header, its slots and the lanes that carry it (R376 to R378, R385). -/

namespace Sys2Proof.Machine

/-! ### What a send leaves alone -/

/-- From s to t nothing but register fields, link i and the free values has changed. -/
structure SendsOn (s t : State) (i : Nat) : Prop where
  mem : t.mem = s.mem
  cores : t.cores = s.cores
  log : t.log = s.log
  links : ∀ j, j ≠ i → t.link j = s.link j

section
variable {s t : State} {i : Nat}

theorem SendsOn.refl (s : State) (i : Nat) : SendsOn s s i := ⟨rfl, rfl, rfl, fun _ _ => rfl⟩

theorem SendsOn.setFld (h : SendsOn s t i) (f : Fld) (v : Nat) : SendsOn s (t.setFld f v) i := ⟨h.mem, h.cores, h.log, h.links⟩

theorem SendsOn.addFld (h : SendsOn s t i) (f : Fld) (n : Nat) : SendsOn s (t.addFld f n) i := h.setFld f _

theorem SendsOn.drew (h : SendsOn s t i) : SendsOn s t.drew i := ⟨h.mem, h.cores, h.log, h.links⟩

theorem SendsOn.setLink (h : SendsOn s t i) (x : LinkSt) : SendsOn s (t.setLink i x) i :=
  ⟨h.mem, h.cores, h.log, fun j hj => (t.link_setLink_ne hj x).trans (h.links j hj)⟩

theorem SendsOn.trans {u : State} (h : SendsOn s t i) (h' : SendsOn t u i) : SendsOn s u i :=
  ⟨h'.mem.trans h.mem, h'.cores.trans h.cores, h'.log.trans h.log, fun j hj => (h'.links j hj).trans (h.links j hj)⟩

end

/-! ### A header (R377, R385) -/

/-- The header of the next flit of a link: what every flit of this KIND carries, its CRC not yet set. -/
structure HeadedFor (s : State) (i kind vc used : Nat) (g : Flit) : Prop where
  seq : g.seq = BitVec.ofNat 12 (s.link i).txSeq
  ack : g.ack = BitVec.ofNat 12 ((s.link i).rxSeq + 4095)
  kind : g.kind = BitVec.ofNat 3 kind
  vc : g.vc = BitVec.ofNat 3 vc
  used : g.used = BitVec.ofNat 4 used
  cont : g.cont = 0
  epoch : g.epoch = BitVec.ofNat 4 (s.fld (F.lnkEpoch i))

section
variable (s : State) (i kind : Nat)

theorem State.header_headed : HeadedFor s i kind 0 0 (s.header i kind).1 := ⟨rfl, rfl, rfl, rfl, rfl, rfl, rfl⟩

/-- A header returns credits, and changes nothing else but the free values. -/
theorem State.header_eq : ∃ due, (s.header i kind).2 = s.drew.setLink i { s.link i with creditDue := due } := ⟨_, rfl⟩

theorem State.header_wf : (s.header i kind).1.wf = true := rfl

theorem slotsOf_length (b : List Byte) : (slotsOf b).length = 15 := by simp [slotsOf]

/-- A flit whose slots are cut from a run of bytes is well formed. -/
theorem wf_of_slotsOf {f : Flit} {b : List Byte} (h : f.slots = slotsOf b) : f.wf = true := by
  unfold Flit.wf
  rw [h, slotsOf_length]
  simp [slotsOf, slice_length]

theorem crc_sealFlit (f : Flit) : (sealFlit f).crc = BitVec.ofNat 64 (flitCrc (sealFlit f)) := rfl

end

/-! ### Bytes on lanes (R376) -/

theorem flatMap_length_const {α β : Type} {f : α → List β} {n : Nat} {l : List α} (h : ∀ x ∈ l, (f x).length = n) :
    (l.flatMap f).length = n * l.length := by
  rw [List.length_flatMap, List.map_congr_left h, List.map_const', List.sum_replicate, smul_eq_mul, Nat.mul_comm]

/-- Blocks of one size joined: element e of block q stands at q blocks and e. -/
theorem getElem?_flatMap_const {α β : Type} {f : α → List β} {n : Nat} (hf : ∀ x, (f x).length = n) {l : List α} {q e : Nat} {x : α}
    (hx : l[q]? = some x) (he : e < n) : (l.flatMap f)[q * n + e]? = (f x)[e]? := by
  induction l generalizing q with
  | nil => cases hx
  | cons y l ih =>
    rw [List.flatMap_cons]
    cases q with
    | zero =>
      obtain rfl : y = x := by simpa using hx
      rw [Nat.zero_mul, Nat.zero_add, List.getElem?_append_left (by rw [hf]; exact he)]
    | succ q =>
      have hq : (q + 1) * n + e = n + (q * n + e) := by rw [Nat.succ_mul]; omega
      rw [List.getElem?_append_right (by rw [hf]; omega), hf, hq, Nat.add_sub_cancel_left]
      exact ih (by simpa using hx)

/-- Of the indices below k, k / w have the remainder of k by w. -/
theorem length_filter_mod {α : Type} (b : List α) {w k : Nat} (hw : 0 < w) (hk : k ≤ b.length) :
    ((b.take k).zipIdx.filter fun x => x.2 % w == k % w).length = k / w := by
  have hlen : (b.take k).length = k := by rw [List.length_take]; omega
  have hidx : (b.take k).zipIdx.map Prod.snd = List.range k := by
    rw [List.zipIdx_map_snd, hlen, List.range'_eq_map_range]
    simp
  have hcount := Nat.count_modEq_card k hw k
  rw [if_neg (Nat.lt_irrefl _), Nat.add_zero, Nat.count_eq_card_filter_range] at hcount
  rw [← hcount, ← List.countP_eq_length_filter]
  calc ((b.take k).zipIdx.countP fun x => x.2 % w == k % w)
      = ((b.take k).zipIdx.map Prod.snd).countP (fun j => j % w == k % w) := by rw [List.countP_map]; rfl
    _ = (List.range k).countP (fun j => j % w == k % w) := by rw [hidx]
    _ = _ := by
      rw [List.countP_eq_length_filter]
      rfl

/-- The (k / w)-th byte of logical lane k % w is byte k. -/
theorem getElem?_lane {b : List Byte} {w k : Nat} (hw : 0 < w) (hk : k < b.length) :
    (b.zipIdx.filter fun x => x.2 % w == k % w)[k / w]? = some (b[k], k) := by
  have hsplit : b.zipIdx = (b.take k).zipIdx ++ (b[k], k) :: (b.drop (k + 1)).zipIdx (k + 1) := by
    have hlen : (b.take k).length = k := by rw [List.length_take]; omega
    conv_lhs => rw [← List.take_append_drop k b]
    rw [List.zipIdx_append, hlen, Nat.zero_add, List.drop_eq_getElem_cons hk, List.zipIdx_cons]
  rw [hsplit, List.filter_append, List.getElem?_append_right (by rw [length_filter_mod b hw hk.le]),
    length_filter_mod b hw hk.le, Nat.sub_self, List.filter_cons_of_pos (by simp)]
  rfl

theorem getElem?_laneBits {b : List Byte} {w k e : Nat} (hw : 0 < w) (hk : k < b.length) (he : e < 8) :
    (laneBits w (k % w) b)[k / w * 8 + e]? = some (b[k].getLsbD e) := by
  unfold laneBits
  rw [getElem?_flatMap_const (n := 8) (fun x => by simp) (getElem?_lane hw hk) he]
  simp [he]

theorem flitBytes_length {f : Flit} (h : f.wf = true) : (flitBytes f).length = 256 := by
  unfold Flit.wf at h
  rw [Bool.and_eq_true, beq_iff_eq, List.all_eq_true] at h
  obtain ⟨hlen, hslots⟩ := h
  have hbody : (f.slots.flatMap fun x => x).length = 16 * f.slots.length :=
    flatMap_length_const fun x hx => by simpa using hslots x hx
  unfold flitBytes
  rw [List.length_append, List.length_append, leBytes_length, leBytes_length, hbody, hlen]

/-- Flit g is dealt to the lanes of link i in t: byte k goes out on logical lane k mod w, least significant bit first. -/
def dealtTo (s t : State) (i w : Nat) (g : Flit) : Prop :=
  (t.link i).flitOut = some g ∧ (g.wf = true → 0 < w → ∀ k e p, k < 256 → e < 8 →
    (bitsOf (laneCount i) (s.fld (F.lnkUsed i)))[k % w]? = some p →
      ∃ x ∈ (t.link i).lanes, x.1 = p ∧ x.2[k / w * 8 + e]? = some (((flitBytes g).getD k 0).getLsbD e))

section
variable (s : State) (i w : Nat) (g : Flit)

theorem State.dealOut_eq : ∃ lanes, s.dealOut i w g = s.setLink i { s.link i with flitOut := some g, lanes } := ⟨_, rfl⟩

theorem State.dealOut_dealt : dealtTo s (s.dealOut i w g) i w g := by
  unfold dealtTo State.dealOut
  rw [State.link_setLink]
  refine ⟨rfl, fun hwf hw k e p hk he hp => ?_⟩
  have hlen := flitBytes_length hwf
  have hlane : k % w < w := Nat.mod_lt k hw
  refine ⟨(p, laneBits w (k % w) (flitBytes g)), List.mem_map.mpr ⟨(p, k % w), ?_, rfl⟩, rfl, ?_⟩
  · rw [List.mem_zipIdx_iff_getElem?, List.getElem?_take, if_pos hlane]
    exact hp
  · rw [getElem?_laneBits hw (by omega) he, List.getD_eq_getElem _ _ (by omega)]

theorem dealtTo.congr {s u t : State} {i w : Nat} {g : Flit} (h : dealtTo u t i w g) (hused : u.fld (F.lnkUsed i) = s.fld (F.lnkUsed i)) :
    dealtTo s t i w g := by
  unfold dealtTo at h ⊢
  rw [← hused]
  exact h

end

/-! ### CONTROL flits (R389, R401, R409) -/

/-- A CONTROL flit has gone out on link i: its header, its CRC and its lanes. -/
structure ControlSent (s t : State) (i w : Nat) : Prop where
  frame : SendsOn s t i
  regs : t.regs = s.regs
  link : ∃ due prbs out lanes, t.link i = { s.link i with creditDue := due, prbs, flitOut := out, lanes }
  flit : ∃ g, HeadedFor s i 3 0 0 g ∧ g.crc = BitVec.ofNat 64 (flitCrc g) ∧ g.wf = true ∧ dealtTo s t i w g

theorem HeadedFor.sealed {s : State} {i kind vc used : Nat} {g : Flit} (h : HeadedFor s i kind vc used g) (slots : List (List Byte)) :
    HeadedFor s i kind vc used (sealFlit { g with slots }) :=
  ⟨h.seq, h.ack, h.kind, h.vc, h.used, h.cont, h.epoch⟩

theorem State.controlOut_sent (s : State) (i w : Nat) (check : Bool) : ControlSent s (s.controlOut i w check) i w := by
  obtain ⟨due, hdue⟩ := s.header_eq i 3
  unfold State.controlOut
  extract_lets h u l p free x f
  have hheaded : HeadedFor s i 3 0 0 h.1 := s.header_headed i 3
  obtain ⟨v, hv⟩ : ∃ v, v = u.drew.setLink i { l with prbs := if check then some p.2 else l.prbs } := ⟨_, rfl⟩
  have hu : u = s.drew.setLink i { s.link i with creditDue := due } := hdue
  have hl : l = { s.link i with creditDue := due } := by
    rw [show l = u.link i from rfl, hu, State.link_setLink]
  have hf : f = sealFlit { h.1 with slots := slotsOf (if check then p.1 else free) } := rfl
  have hvlink : v.link i = { s.link i with creditDue := due, prbs := if check then some p.2 else l.prbs } := by
    rw [hv, State.link_setLink, hl]
  have hvregs : v.regs = s.regs := by rw [hv, State.setLink_regs, State.drew_regs, hu, State.setLink_regs, State.drew_regs]
  have hvsends : SendsOn s v i := by
    rw [hv, hu]
    exact ((SendsOn.refl s i).drew.setLink _).drew.setLink _
  rw [← hv]
  obtain ⟨lanes, hout⟩ := v.dealOut_eq i w f
  have hdealt := v.dealOut_dealt i w f
  clear_value h
  refine ⟨?_, ?_, ⟨due, if check then some p.2 else l.prbs, some f, lanes, ?_⟩, f, ?_, ?_, ?_, hdealt.congr (State.fld_congr hvregs _)⟩
  · rw [hout]
    exact hvsends.setLink _
  · rw [hout, State.setLink_regs, hvregs]
  · rw [hout, State.link_setLink, hvlink]
  · rw [hf]
    exact hheaded.sealed _
  · rw [hf]
    exact crc_sealFlit _
  · exact wf_of_slotsOf (by rw [hf]; rfl)

end Sys2Proof.Machine
end

section
/-! CONTROL flits that arrive on a link, and those that come due (R389, R390, R401 to R409). It settles O56. -/

namespace Sys2Proof.Machine

/-! ### Full training that counts no attempt (R389, R404) -/

section
variable (s : State) (i : Nat)

/-- Registers of a link that leaving an up state does not touch. -/
theorem keptByLeaving {g : Fld} (hg : g ∈ [F.lnkEscalate i, F.lnkLastFailReason i, F.lnkLastFailState i, F.lnkEpoch i]) :
    g.key ∉ (F.lnkStatusAttempts i).key :: clearKeys i := by
  simp only [List.mem_cons, List.not_mem_nil, or_false] at hg
  rw [List.mem_cons, not_or]
  obtain rfl | rfl | rfl | rfl := hg <;>
  · refine ⟨?_, not_mem_clearKeys i ?_ ?_⟩ <;>
    · simp only [List.mem_cons, List.not_mem_nil, or_false, not_or, Fld.key, F.lnkEscalate, F.lnkLastFailReason,
        F.lnkLastFailState, F.lnkEpoch, F.lnkStatusAttempts, F.lnkStatusState, F.lnkStatusWidth, F.lnkGood, F.lnkUsed]
      omega

/-- From s to t link i has left an up state for full training, which counts as an escalation; its traffic is held. -/
structure Escalated (s t : State) (i : Nat) : Prop where
  work : linkWork s t
  state : t.linkState i = lkDetect
  link : t.link i = (s.link i).leaving (s.fld (F.lnkStatusWidth i))
  count : t.fld (F.lnkEscalate i) = (s.fld (F.lnkEscalate i) + 1) % 2 ^ 32

theorem State.escalateQuiet_escalated : Escalated s (s.escalateQuiet i) i := by
  have hwidth : (F.lnkStatusWidth i).key ≠ (F.lnkEscalate i).key := by
    simp only [ne_eq, Fld.key, F.lnkStatusWidth, F.lnkEscalate]
    omega
  let u := s.addFld (F.lnkEscalate i) 1
  have hleft := (u.fieldsKept_leaveUp i).lose 5 2
  unfold State.escalateQuiet
  refine ⟨(((linkWork.refl s).addFld _ _).trans (u.linkWork_leaveUp i)).lose 5 2, by simp, ?_, ?_⟩
  · rw [State.link_lose, State.link_leaveUp, s.fld_addFld_ne hwidth, State.link_congr (s.addFld_links _ _)]
  · exact (hleft _ (keptByLeaving i (by simp))).trans (s.fld_addFld _ 1)

theorem State.escalate_escalated (reason : Nat) : Escalated s (s.escalate i reason) i ∧
    (s.escalate i reason).fld (F.lnkLastFailReason i) = reason % 2 ^ 8 ∧
    (s.escalate i reason).fld (F.lnkLastFailState i) = s.linkState i % 2 ^ 4 := by
  have hkeys : (F.lnkStatusWidth i).key ≠ (F.lnkEscalate i).key ∧ (F.lnkStatusWidth i).key ≠ (F.lnkLastFailReason i).key ∧
      (F.lnkStatusWidth i).key ≠ (F.lnkLastFailState i).key ∧ (F.lnkEscalate i).key ≠ (F.lnkLastFailReason i).key ∧
      (F.lnkEscalate i).key ≠ (F.lnkLastFailState i).key ∧ (F.lnkLastFailReason i).key ≠ (F.lnkLastFailState i).key := by
    simp only [ne_eq, Fld.key, F.lnkStatusWidth, F.lnkEscalate, F.lnkLastFailReason, F.lnkLastFailState]
    omega
  obtain ⟨hwe, hwr, hws, her, hes, hrs⟩ := hkeys
  obtain ⟨u, hu⟩ : ∃ u, u = (s.addFld (F.lnkEscalate i) 1).noteFail i reason (s.linkState i) := ⟨_, rfl⟩
  have hwork : linkWork s u := hu ▸ (((linkWork.refl s).addFld _ _).setFld _ _).setFld _ _
  have hlinks : u.links = s.links := by rw [hu]; rfl
  have hleft := (u.fieldsKept_leaveUp i).lose 5 2
  have hescalate : s.escalate i reason = (u.leaveUp i).lose 5 2 := by rw [hu]; rfl
  rw [hescalate]
  refine ⟨⟨(hwork.trans (u.linkWork_leaveUp i)).lose 5 2, by simp, ?_, ?_⟩, ?_, ?_⟩
  · rw [State.link_lose, State.link_leaveUp, State.link_congr hlinks, hu, State.noteFail, State.fld_setFld_ne _ hws,
      State.fld_setFld_ne _ hwr, State.fld_addFld_ne _ hwe]
  · rw [hleft _ (keptByLeaving i (by simp)), hu, State.noteFail, State.fld_setFld_ne _ hes, State.fld_setFld_ne _ her,
      State.fld_addFld]
    rfl
  · rw [hleft _ (keptByLeaving i (by simp)), hu, State.noteFail, State.fld_setFld_ne _ hrs, State.fld_setFld]
    rfl
  · rw [hleft _ (keptByLeaving i (by simp)), hu, State.noteFail, State.fld_setFld]
    rfl

end

/-! ### Errors of a LANE_CHECK (R389, R390) -/

theorem maskOf_eq_zero {n : Nat} {f : Nat → Bool} (h : ∀ j, j < n → f j = false) : maskOf n f = 0 := by
  induction n with
  | zero => rfl
  | succ n ih =>
    rw [maskOf_succ, h n (Nat.lt_succ_self n), ih fun j hj => h j (by omega)]
    rfl

/-- Errors of a lane that are new to the list are no more than the lane had. -/
theorem length_newErrors_le (l : List (Nat × Nat)) (j now : Nat) :
    (((l.filter fun e => e.2 != 0).flatMap fun e => List.replicate (min 4 e.2) (e.1, now)).filter fun e => e.1 == j).length ≤
      (l.filterMap fun x => if x.1 = j then some x.2 else none).sum := by
  induction l with
  | nil => exact Nat.le_refl _
  | cons x l ih =>
    have hone : ((List.replicate (min 4 x.2) (x.1, now)).filter fun e => e.1 == j).length ≤ if x.1 = j then x.2 else 0 := by
      rw [List.filter_replicate]
      by_cases hj : x.1 = j
      · simp [hj]
      · simp [hj]
    by_cases hzero : x.2 = 0
    · rw [List.filter_cons_of_neg (by simp [hzero])]
      refine ih.trans ?_
      rw [List.filterMap_cons]
      split <;> simp
    · rw [List.filter_cons_of_pos (by simpa using hzero), List.flatMap_cons, List.filter_append, List.length_append,
        List.filterMap_cons]
      by_cases hj : x.1 = j
      · rw [if_pos hj] at hone ⊢
        rw [List.sum_cons]
        exact Nat.add_le_add hone ih
      · rw [if_neg hj] at hone ⊢
        rw [Nat.le_zero.mp hone, Nat.zero_add]
        exact ih

theorem map_fst_zip_sublist {α β : Type} (l : List α) (l' : List β) : ((l.zip l').map Prod.fst).Sublist l := by
  induction l generalizing l' with
  | nil => exact List.Sublist.refl _
  | cons x l ih =>
    cases l' with
    | nil => exact List.nil_sublist _
    | cons y l' => exact (ih l').cons_cons x

theorem laneErr_key {i j k : Nat} : (F.lnkLaneErrNominal i j).key = (F.lnkLaneErrNominal i k).key ↔ j = k := by
  simp only [Fld.key, F.lnkLaneErrNominal]
  omega

section
variable (s : State) (i : Nat)

/-- Errors counted lane by lane. -/
def State.countErrors (l : List (Nat × Nat)) : State := l.foldl (fun s e => s.satFld (F.lnkLaneErrNominal i e.1) e.2) s

theorem State.linkWork_countErrors (l : List (Nat × Nat)) : linkWork s (s.countErrors i l) := by
  unfold State.countErrors
  induction l generalizing s with
  | nil => exact linkWork.refl s
  | cons x l ih => exact ((linkWork.refl s).setFld _ _).trans (ih (s.satFld _ _))

theorem State.fieldsKept_countErrors (l : List (Nat × Nat)) :
    fieldsKept s (s.countErrors i l) (l.map fun e => (F.lnkLaneErrNominal i e.1).key) := by
  unfold State.countErrors
  induction l generalizing s with
  | nil => exact fieldsKept.refl s _
  | cons x l ih =>
    rw [List.map_cons]
    exact ((fieldsKept.refl s _).setFld (f := F.lnkLaneErrNominal i x.1) List.mem_cons_self _).trans
      ((ih (s.satFld _ _)).mono (List.subset_cons_self _ _))

theorem State.fld_countErrors {l : List (Nat × Nat)} (hl : (l.map Prod.fst).Nodup) {j n : Nat} (h : (j, n) ∈ l) :
    (s.countErrors i l).fld (F.lnkLaneErrNominal i j) = min (s.fld (F.lnkLaneErrNominal i j) + n) 0xFFFF := by
  unfold State.countErrors
  induction l generalizing s with
  | nil => cases h
  | cons x l ih =>
    obtain ⟨hx, hrest⟩ := List.nodup_cons.mp hl
    rw [List.foldl_cons]
    rcases List.mem_cons.mp h with rfl | hmem
    · have hkept := (s.satFld (F.lnkLaneErrNominal i j) n).fieldsKept_countErrors i l (F.lnkLaneErrNominal i j) fun hmem => by
        obtain ⟨e, he, hkey⟩ := List.mem_map.mp hmem
        exact hx (List.mem_map.mpr ⟨e, he, laneErr_key.mp hkey⟩)
      refine hkept.trans ((s.fld_setFld _ _).trans (Nat.mod_eq_of_lt ?_))
      exact Nat.lt_of_le_of_lt (Nat.min_le_right _ _) (show 2 ^ 16 - 1 < 2 ^ 16 by decide)
    · rw [ih (s.satFld _ _) hrest hmem]
      have hne : j ≠ x.1 := fun e => hx (List.mem_map.mpr ⟨(j, n), hmem, e⟩)
      rw [State.satFld, s.fld_setFld_ne fun hkey => hne (laneErr_key.mp hkey)]

end

theorem State.linkState_of_open {s : State} {i : Nat} (h : s.linkOpen i = true) :
    s.linkState i = lkActive ∨ s.linkState i = lkReconfig := by
  unfold State.linkOpen at h
  simpa using h

theorem State.not_trickle_of_open {s : State} {i : Nat} (h : s.linkOpen i = true) : s.linkState i ≠ lkTrickle := by
  rcases State.linkState_of_open h with h | h <;> rw [h] <;> decide

section
variable {s : State} {link : LinkNo}

/-- A LANE_CHECK with few errors counts them on their lanes. -/
theorem laneCheck_counts {errs : List Nat} (hopen : s.linkOpen link.val = true)
    (hfew : ∀ j, j < laneCount link.val →
      ((s.link link.val).laneErrTimes.filter fun x => decide (s.time < x.2 + 1000000) && x.1 == j).length +
        (((bitsOf (laneCount link.val) (s.fld (F.lnkUsed link.val))).zip errs).filterMap fun x =>
          if x.1 = j then some x.2 else none).sum < 4) :
    ∃ x : LinkSt, x.txq = (s.link link.val).txq ∧ x.replay = (s.link link.val).replay ∧
      exec (.laneCheck link errs) s = .next ((s.countErrors link.val
        (((bitsOf (laneCount link.val) (s.fld (F.lnkUsed link.val))).zip errs).filter fun e => e.2 != 0)).setLink link.val x) := by
  let found := ((bitsOf (laneCount link.val) (s.fld (F.lnkUsed link.val))).zip errs).filter fun e => e.2 != 0
  let now := (s.countErrors link.val found).time
  let times := ((s.link link.val).laneErrTimes.filter fun e => decide (now < e.2 + 1000000)) ++
    found.flatMap fun e => List.replicate (min 4 e.2) (e.1, now)
  have hnow : now = s.time := (s.linkWork_countErrors link.val found).time
  have hbad : (maskOf (laneCount link.val) fun j => decide (4 ≤ (times.filter fun e => e.1 == j).length)) = 0 := by
    refine maskOf_eq_zero fun j hj => ?_
    have hnew := length_newErrors_le ((bitsOf (laneCount link.val) (s.fld (F.lnkUsed link.val))).zip errs) j now
    have hold : (((s.link link.val).laneErrTimes.filter fun e => decide (now < e.2 + 1000000)).filter fun e => e.1 == j) =
        (s.link link.val).laneErrTimes.filter fun x => decide (s.time < x.2 + 1000000) && x.1 == j := by
      rw [List.filter_filter, hnow]
      exact List.filter_congr fun x _ => Bool.and_comm _ _
    have hj := hfew j hj
    rw [decide_eq_false_iff_not, List.filter_append, List.length_append, hold]
    exact Nat.not_le.mpr (Nat.lt_of_le_of_lt (Nat.add_le_add_left hnew _) hj)
  let rest := times.filter fun e =>
    !(maskOf (laneCount link.val) fun j => decide (4 ≤ (times.filter fun e => e.1 == j).length)).testBit e.1
  refine ⟨{ s.link link.val with
    laneErrTimes := rest, prbsRx := ((s.link link.val).prbsRx + 240) % (2 ^ 31 - 1) }, rfl, rfl, ?_⟩
  show execLaneCheck link errs s = _
  unfold execLaneCheck
  dsimp only
  rw [if_neg (State.not_trickle_of_open hopen), if_neg (not_not.mpr hopen)]
  refine congrArg Host.Outcome.next (if_neg fun h => h.1 hbad)

theorem laneCheck_answers {errs : List Nat} (hopen : s.linkOpen link.val = true)
    (hfew : ∀ j, j < laneCount link.val →
      ((s.link link.val).laneErrTimes.filter fun x => decide (s.time < x.2 + 1000000) && x.1 == j).length +
        (((bitsOf (laneCount link.val) (s.fld (F.lnkUsed link.val))).zip errs).filterMap fun x =>
          if x.1 = j then some x.2 else none).sum < 4) :
    let lanes := bitsOf (laneCount link.val) (s.fld (F.lnkUsed link.val))
    Answers (.laneCheck link errs) s fun t => TrafficKept s t link.val ∧ t.log = s.log ∧
      (∀ k, k < lanes.length → errs.getD k 0 ≠ 0 → t.fld (F.lnkLaneErrNominal link.val (lanes.getD k 0)) =
        min (s.fld (F.lnkLaneErrNominal link.val (lanes.getD k 0)) + errs.getD k 0) 0xFFFF) ∧
      fieldsKept s t ((List.range 64).map fun j => (F.lnkLaneErrNominal link.val j).key) := by
  intro lanes
  obtain ⟨x, htxq, hreplay, hexec⟩ := laneCheck_counts hopen hfew
  let found := (lanes.zip errs).filter fun e => e.2 != 0
  have hnodup : lanes.Nodup := List.nodup_range.sublist List.filter_sublist
  have hfst : (found.map Prod.fst).Nodup := by
    exact hnodup.sublist ((List.filter_sublist.map Prod.fst).trans (map_fst_zip_sublist lanes errs))
  have hwork := (s.linkWork_countErrors link.val found).setLink link.val x
  refine ⟨_, hexec, hwork.trafficKept (by rw [State.link_setLink, htxq]) (by rw [State.link_setLink, hreplay]), hwork.log,
    fun k hk herr => ?_, ?_⟩
  · have herrs : k < errs.length := by
      by_contra hlong
      exact herr (List.getD_eq_default _ _ (by omega))
    rw [List.getD_eq_getElem _ _ hk, List.getD_eq_getElem _ _ herrs] at *
    refine s.fld_countErrors link.val hfst (List.mem_filter.mpr ⟨?_, by simpa using herr⟩)
    exact List.mem_iff_getElem.mpr ⟨k, by rw [List.length_zip]; omega, List.getElem_zip⟩
  · refine (s.fieldsKept_countErrors link.val found).mono fun key hkey => ?_
    obtain ⟨e, he, rfl⟩ := List.mem_map.mp hkey
    have hlane : e.1 ∈ lanes := (List.of_mem_zip (List.mem_filter.mp he).1).1
    have hlt := (mem_bitsOf.mp hlane).1
    exact List.mem_map.mpr ⟨e.1, List.mem_range.mpr (Nat.lt_of_lt_of_le hlt (laneCount_le _)), rfl⟩

/-! ### A CONFIG_ECHO that differs or does not come (R401) -/

/-- From s to t the echo has failed: full training under the next epoch, an attempt counted, the traffic held. -/
structure EchoFailed (s t : State) (i : Nat) : Prop where
  work : linkWork s t
  txq : (t.link i).txq = (s.link i).txq
  replay : (t.link i).replay = (s.link i).replay
  state : t.linkState i = lkDetect
  keep : (t.link i).keepTraffic = true
  distrust : (t.link i).distrust = true
  epoch : t.fld (F.lnkEpoch i) = (s.fld (F.lnkEpoch i) + 1) % 2 ^ 16
  attempts : t.fld (F.lnkStatusAttempts i) = s.fld (F.lnkStatusAttempts i) + 1
  reason : t.fld (F.lnkLastFailReason i) = 5

theorem State.echoFails_failed {i : Nat} (htime : s.time < (s.link i).activeSince + 1000000)
    (hearly : s.fld (F.lnkStatusAttempts i) < 2) : EchoFailed s (s.echoFails i) i := by
  have hattempts : (F.lnkStatusAttempts i).key ≠ (F.lnkEpoch i).key := by
    simp only [ne_eq, Fld.key, F.lnkStatusAttempts, F.lnkEpoch]
    omega
  have hepoch : (F.lnkEpoch i).key ∉ failKeys i ++ clearKeys i := by
    rw [List.mem_append, not_or]
    refine ⟨?_, fun hmem => keptByLeaving i (g := F.lnkEpoch i) (by simp) (List.mem_cons_of_mem _ hmem)⟩
    simp only [failKeys, List.mem_cons, List.not_mem_nil, or_false, not_or, Fld.key, F.lnkEpoch, F.lnkLastFailReason,
      F.lnkLastFailState, F.lnkStatusAttempts]
    omega
  obtain ⟨u, hu⟩ : ∃ u, u = s.addFld (F.lnkEpoch i) 1 := ⟨_, rfl⟩
  obtain ⟨v, hv⟩ : ∃ v, v = ((u.leaveUp i).setLink i { (u.leaveUp i).link i with distrust := true }).lose 5 2 := ⟨_, rfl⟩
  have hulinks : u.links = s.links := hu ▸ s.addFld_links _ _
  have huwork : linkWork s u := hu ▸ (linkWork.refl s).addFld _ _
  have hleft : fieldsKept u v (clearKeys i) := by
    rw [hv]
    exact ((u.fieldsKept_leaveUp_early i (by rw [huwork.time, State.link_congr hulinks]; exact htime)).setLink i _).lose 5 2
  have hvwork : linkWork s v := hv ▸ ((huwork.trans (u.linkWork_leaveUp i)).setLink i _).lose 5 2
  have hvlink : v.link i = { (s.link i).leaving (u.fld (F.lnkStatusWidth i)) with distrust := true } := by
    rw [hv, State.link_lose, State.link_setLink, State.link_leaveUp, State.link_congr hulinks]
  have hvattempts : v.fld (F.lnkStatusAttempts i) = s.fld (F.lnkStatusAttempts i) := by
    rw [hleft _ failKeys_kept.2.2, hu, s.fld_addFld_ne hattempts]
  have hvepoch : v.fld (F.lnkEpoch i) = (s.fld (F.lnkEpoch i) + 1) % 2 ^ 16 := by
    rw [hleft _ fun hmem => hepoch (List.mem_append_right _ hmem), hu, State.fld_addFld]
    rfl
  obtain ⟨hwork, hstate, hreason, -, hcount, hlink, hkept⟩ :=
    State.failAttempt_early (s := v) (i := i) 0x05 (s.linkState i) (by rw [hvattempts]; exact hearly)
  have hfails : s.echoFails i = v.failAttempt i 0x05 (s.linkState i) := by rw [hv, hu]; rfl
  rw [hfails]
  refine ⟨hvwork.trans hwork, ?_, ?_, hstate, ?_, ?_, (hkept _ hepoch).trans hvepoch, hcount.trans (congrArg (· + 1) hvattempts), hreason⟩
  · rw [hlink, hvlink]; rfl
  · rw [hlink, hvlink]; rfl
  · rw [hlink, hvlink]; rfl
  · rw [hlink, hvlink]

/-! ### Control flits that come due -/

theorem State.ctlOnce_new {i : Nat} {c : Ctl} (h : c ∉ (s.link i).ctlDue) :
    s.ctlOnce i c = s.setLink i { s.link i with ctlDue := (s.link i).ctlDue ++ [c] } := by
  unfold State.ctlOnce
  rw [if_neg (by simpa using h)]
  rfl

/-! ### RECONFIG (R403, R404) -/

theorem reconfigReq_begins {used : DWord} {at_ : BitVec 12} (hopen : s.linkOpen link.val = true)
    (hslave : s.bit (F.lnkStatusMaster link.val) = false) (hversion : 0x31 ≤ s.fld (F.lnkVersionAgreed link.val)) :
    exec (.reconfigReq link used at_) s = .next (if widthOf (used.toNat % 2 ^ laneCount link.val) (laneCount link.val) < 8 then
        s.escalateQuiet link.val
      else (s.setFld (F.lnkStatusState link.val) lkReconfig).setLink link.val { s.link link.val with
        reconfig := some (usedOf (used.toNat % 2 ^ laneCount link.val) (laneCount link.val), at_.toNat) }) := by
  show execReconfigReq link used at_ s = _
  unfold execReconfigReq
  dsimp only
  rw [if_neg (State.not_trickle_of_open hopen), if_neg]
  rw [hopen, hslave]
  simp only [not_true_eq_false, Bool.false_eq_true, false_or]
  omega

end

/-- Settles O56: each control flit by what it asks of an open link (R389, R390, R401 to R409). -/
theorem controlFlits : Obligations.ControlFlits := by
  unfold Obligations.ControlFlits
  intro s link errs e used at_ i l v lanes traffic mismatch early
  have htraffic : ∀ {t : State}, linkWork s t → (t.link i).txq = l.txq → (t.link i).replay = l.replay → traffic t :=
    fun hwork htxq hreplay => ⟨hwork.mem, hwork.cores, htxq, hreplay⟩
  have hmismatch : ∀ {c : Instr}, exec c s = .next (s.echoFails i).unitWork → early → Answers c s mismatch := by
    rintro c hexec ⟨htime, hattempts, hbops⟩
    obtain ⟨hwork, htxq, hreplay, hstate, hkeep, hdistrust, hepoch, hcount, hreason⟩ := State.echoFails_failed htime hattempts
    rw [State.unitWork_eq_self (hwork.bops.trans hbops)] at hexec
    exact ⟨_, hexec, htraffic hwork htxq hreplay, hstate, hkeep, hdistrust, hepoch, hcount, hreason, hwork.log⟩
  refine ⟨fun hopen => ?_, fun hstate hbops => ?_, fun hstate => congrArg Host.Outcome.next (if_neg hstate), fun hstate => ⟨?_, ?_, ?_, ?_⟩,
    rfl, fun hstate => ?_, fun hstate => congrArg Host.Outcome.next (if_neg hstate)⟩
  · have hidle : s.linkState i ≠ lkTrickle := State.not_trickle_of_open hopen
    refine ⟨fun hfew => ?_, fun hon hdue => ?_, fun hoff => ?_, fun he => ?_, fun he hearly => ?_, fun hv hdue => ?_, fun hv => ?_,
      fun hseen => ?_, fun hseen hearly => ?_, fun hmaster => ?_, fun hslave hv hwide => ?_, fun hslave hv hnarrow => ?_⟩
    · refine (laneCheck_answers hopen hfew).imp fun t ⟨ht, hlog, hcounts, hkept⟩ => ?_
      refine ⟨⟨ht.mem, ht.cores, ht.txq, ht.replay⟩, hkept (F.lnkStatusState i) fun hmem => ?_, hlog, hcounts, hkept⟩
      obtain ⟨j, -, hkey⟩ := List.mem_map.mp hmem
      simp only [Fld.key, F.lnkLaneErrNominal, F.lnkStatusState] at hkey
      omega
    · refine (congrArg Host.Outcome.next (if_pos ⟨hopen, hon⟩)).trans ?_
      rw [State.ctlOnce_new hdue]
    · exact congrArg Host.Outcome.next (if_neg fun h => by rw [hoff] at h; exact absurd h.2 (by decide))
    · show execConfigEcho link e s = _
      unfold execConfigEcho
      dsimp only
      rw [if_neg hidle, if_neg (not_not.mpr hopen), if_pos he]
    · refine hmismatch ?_ hearly
      show execConfigEcho link e s = _
      unfold execConfigEcho
      dsimp only
      rw [if_neg hidle, if_neg (not_not.mpr hopen), if_neg he]
    · refine (congrArg Host.Outcome.next (if_pos ⟨hopen, hv⟩)).trans ?_
      rw [State.ctlOnce_new hdue]
    · exact congrArg Host.Outcome.next (if_neg fun h => absurd h.2 (Nat.not_le.mpr hv))
    · exact congrArg Host.Outcome.next (if_neg fun h => h.2 hseen)
    · refine hmismatch (congrArg Host.Outcome.next (if_pos ⟨hopen, ?_⟩)) hearly
      rw [hseen]
      decide
    · show execReconfigReq link used at_ s = _
      unfold execReconfigReq
      dsimp only
      rw [if_neg hidle, if_pos (Or.inr hmaster)]
    · refine ⟨_, (reconfigReq_begins hopen hslave hv).trans (congrArg _ (if_neg (Nat.not_lt.mpr hwide))), ⟨rfl, rfl, ?_, ?_⟩, ?_, ?_, ?_⟩
      · rw [State.link_setLink]
      · rw [State.link_setLink]
      · rw [State.linkState_setLink]
        exact s.fld_setFld _ _
      · rw [State.link_setLink]
      · exact ((fieldsKept.refl s _).setFld List.mem_cons_self _).setLink i _
    · obtain ⟨hwork, hstate, hlink, hcount⟩ := s.escalateQuiet_escalated i
      refine ⟨_, (reconfigReq_begins hopen hslave hv).trans (congrArg _ (if_pos hnarrow)), htraffic hwork ?_ ?_, hstate, ?_, hcount⟩
      · rw [hlink]; rfl
      · rw [hlink]; rfl
      · rw [hlink]; rfl
  · obtain ⟨⟨hwork, hleft, hlink, hcount⟩, hreason, -⟩ := s.escalate_escalated i 0x0B
    have hexec : exec (.reconfigTimeout link) s = .next (s.escalate i 0x0B) := by
      refine (congrArg Host.Outcome.next (if_pos hstate)).trans ?_
      rw [State.unitWork_eq_self (hwork.bops.trans hbops)]
    refine ⟨_, hexec, htraffic hwork ?_ ?_, hleft, ?_, hreason, hcount⟩
    · rw [hlink]; rfl
    · rw [hlink]; rfl
    · rw [hlink]; rfl
  · intro hidle hdue
    show execTrickleReq link s = _
    unfold execTrickleReq
    dsimp only
    rw [if_neg (by rw [hstate]; decide), if_pos ⟨hstate, by rw [hidle]; decide⟩, State.ctlOnce_new hdue]
  · intro hbusy
    show execTrickleReq link s = _
    unfold execTrickleReq
    dsimp only
    rw [if_neg (by rw [hstate]; decide), if_neg fun h => h.2 hbusy]
  · intro hsent hawake
    let u := (s.setLink i { l with trickleSent := false }).setFld (F.lnkStatusState i) lkTrickle
    have hdie : u.fld F.pwrDieStatusState = s.fld F.pwrDieStatusState :=
      State.fld_setFld_ne _ (by simp only [ne_eq, Fld.key, F.pwrDieStatusState, F.lnkStatusState]; omega) _
    have hexec : exec (.trickleAck link) s = .next u := by
      show execTrickleAck link s = _
      unfold execTrickleAck State.checkAsleep
      dsimp only
      rw [if_neg (by rw [hstate]; decide), if_pos ⟨hstate, hsent⟩, if_neg fun h => hawake (hdie ▸ h.1)]
    have hlink : u.link i = { l with trickleSent := false } := by
      rw [State.link_congr (State.setFld_links _ _ _), State.link_setLink]
    refine ⟨_, hexec, ⟨rfl, rfl, ?_, ?_⟩, State.fld_setFld _ _ _, ?_,
      ((fieldsKept.refl s _).setLink i _).setFld (f := F.lnkStatusState i) List.mem_cons_self _⟩
    · rw [hlink]
    · rw [hlink]
    · rw [hlink]
  · intro hsent
    show execTrickleAck link s = _
    unfold execTrickleAck
    dsimp only
    rw [if_neg (by rw [hstate]; decide), if_neg fun h => by rw [hsent] at h; exact absurd h.2 (by decide)]
  · let u := s.setLink i { l with wire := some .keepalive }
    obtain ⟨hframe, hregs, ⟨due, prbs, out, lanes', hlink⟩, g, hheaded, hcrc, hwf, hdealt⟩ := u.controlOut_sent i 2 false
    rw [State.link_setLink] at hlink
    refine ⟨_, congrArg Host.Outcome.next (if_pos hstate), ⟨hframe.mem, hframe.cores, ?_, ?_⟩, ?_, ?_, ⟨g, hdealt.1, ?_, hwf, hcrc⟩, ?_⟩
    · exact (congrArg LinkSt.txq hlink :)
    · exact (congrArg LinkSt.replay hlink :)
    · exact (congrArg LinkSt.wire hlink :)
    · exact (State.fld_congr hregs _).trans hstate
    · rw [hheaded.kind]; rfl
    · exact fun f _ => State.fld_congr hregs f

end Sys2Proof.Machine
end

section
/-! What a link sends at a flit boundary (R376, R385 to R387, R391, R392, R401, R410). It settles O55. -/

namespace Sys2Proof.Machine

/-! ### A flit that goes out -/

theorem HeadedFor.congr {s u : State} {i kind vc used : Nat} {g : Flit} (h : HeadedFor u i kind vc used g)
    (htx : (u.link i).txSeq = (s.link i).txSeq) (hrx : (u.link i).rxSeq = (s.link i).rxSeq)
    (hepoch : u.fld (F.lnkEpoch i) = s.fld (F.lnkEpoch i)) : HeadedFor s i kind vc used g :=
  ⟨h.seq.trans (congrArg _ htx), h.ack.trans (congrArg (fun n => BitVec.ofNat 12 (n + 4095)) hrx), h.kind, h.vc, h.used, h.cont,
    h.epoch.trans (congrArg _ hepoch)⟩

/-- Flit g as link i sends it from state s, which ends in t: header, CRC, slots and lanes. -/
structure FlitSent (s t : State) (i kind vc used : Nat) (g : Flit) : Prop where
  headed : HeadedFor s i kind vc used g
  crc : g.crc = BitVec.ofNat 64 (flitCrc g)
  wf : g.wf = true
  dealt : dealtTo s t i (s.fld (F.lnkStatusWidth i)) g

section
variable (s : State) (i : Nat)

theorem State.dealFlit_flit {f : Flit} (h : (s.link i).wire = some (.flit f)) :
    s.dealFlit i = s.dealOut i (s.fld (F.lnkStatusWidth i)) f := by
  unfold State.dealFlit
  rw [h]

theorem State.dealFlit_echo {e : Echo} (h : (s.link i).wire = some (.configEcho e)) : s.dealFlit i = s := by
  unfold State.dealFlit
  rw [h]

theorem SendsOn.dealOut {s t : State} {i : Nat} (h : SendsOn s t i) (w : Nat) (g : Flit) : SendsOn s (t.dealOut i w g) i :=
  h.setLink _

/-! ### Traffic that waits for credits (R391) -/

/-- The state in which a link chooses what to send: a wait for credits is counted. -/
def State.waited : State := if s.vcWaits i then s.addFld (F.lnkVcWait i) 1 else s

theorem State.waited_eq_self (h : s.vcWaits i = false) : s.waited i = s := by
  unfold State.waited
  rw [h]
  rfl

theorem State.sends_waited : SendsOn s (s.waited i) i := by
  unfold State.waited
  split
  · exact (SendsOn.refl s i).addFld _ 1
  · exact SendsOn.refl s i

theorem State.links_waited : (s.waited i).links = s.links := by
  unfold State.waited
  split
  · exact s.addFld_links _ _
  · rfl

theorem State.fieldsKept_waited : fieldsKept s (s.waited i) [(F.lnkVcWait i).key] := by
  unfold State.waited
  split
  · exact (fieldsKept.refl s _).addFld (List.mem_singleton_self _) 1
  · exact fieldsKept.refl s _

@[simp] theorem State.link_waited : (s.waited i).link i = s.link i := State.link_congr (s.links_waited i) i

/-- Fields of a link's own that stand apart from its count of waits. -/
theorem State.fld_waited {g : Fld} (hg : g ∈ [F.lnkStatusWidth i, F.lnkUsed i, F.lnkEpoch i, F.lnkVersionAgreed i, F.lnkRetry i,
    F.lnkTxFlits i]) : (s.waited i).fld g = s.fld g := by
  refine s.fieldsKept_waited i g ?_
  simp only [List.mem_cons, List.not_mem_nil, or_false] at hg
  obtain rfl | rfl | rfl | rfl | rfl | rfl := hg <;>
  · simp only [List.mem_singleton, Fld.key, F.lnkStatusWidth, F.lnkUsed, F.lnkEpoch, F.lnkVersionAgreed, F.lnkRetry, F.lnkTxFlits,
      F.lnkVcWait]
    omega

/-- The choice of R392, on the state that has counted the wait. -/
def State.chosen : State :=
  let l := s.link i
  let room := decide (l.replay.length < s.window i)
  if l.first ∧ l.ctlDue.contains .configEcho then (s.setLink i { l with first := false }).sendCtl i .configEcho
  else match l.resend with
  | f :: rest => s.sendAgain i f rest
  | [] =>
    if room ∧ ((¬ l.bout.isEmpty ∧ 0 < s.heldCredit i 4) ∨ (¬ l.vc5out.isEmpty ∧ 0 < s.heldCredit i 5)) then s.sendReserved i
    else if l.retryPending then s.sendBare i 2
    else
      match l.ctlDue.find? l.ctlReady with
      | some c => s.sendCtl i c
      | none =>
        if room ∧ s.vcReady i 3 then s.sendVc i 3
        else
          match ((List.range 3).map fun k => (l.turn + k) % 3).find? fun vc => room && s.vcReady i vc with
          | some vc =>
            let s := s.sendVc i vc
            s.setLink i { s.link i with turn := (vc + 1) % 3 }
          | none => s.sendBare i 1

theorem State.sendFlit_eq : s.sendFlit i = (s.waited i).chosen i := rfl

end

theorem flitSend_open {s : State} {link : LinkNo} (h : s.linkOpen link.val = true) :
    exec (.flitSend link) s = .next (((s.waited link.val).chosen link.val).dealFlit link.val) := by
  refine (congrArg Host.Outcome.next (if_pos h)).trans ?_
  rw [State.sendFlit_eq]

/-! ### The choice, case by case (R392, R401) -/

section
variable {s : State} {i : Nat}

theorem State.chosen_first (hfirst : (s.link i).first = true) (hecho : .configEcho ∈ (s.link i).ctlDue) :
    s.chosen i = (s.setLink i { s.link i with first := false }).sendCtl i .configEcho := by
  unfold State.chosen
  dsimp only
  rw [if_pos ⟨hfirst, by simpa using hecho⟩]

section
variable (hlater : (s.link i).first = false ∨ .configEcho ∉ (s.link i).ctlDue)
include hlater

theorem State.not_first : ¬ ((s.link i).first = true ∧ (s.link i).ctlDue.contains .configEcho = true) := by
  rintro ⟨hfirst, hecho⟩
  rcases hlater with h | h
  · rw [hfirst] at h
    cases h
  · exact h (by simpa using hecho)

theorem State.chosen_again {f : Flit} {rest : List Flit} (h : (s.link i).resend = f :: rest) :
    s.chosen i = s.sendAgain i f rest := by
  unfold State.chosen
  dsimp only
  rw [if_neg (State.not_first hlater), h]

section
variable (hresend : (s.link i).resend = []) (hbout : (s.link i).bout = []) (hvc5 : (s.link i).vc5out = [])
include hresend hbout hvc5

theorem State.chosen_retry (hretry : (s.link i).retryPending = true) : s.chosen i = s.sendBare i 2 := by
  unfold State.chosen
  dsimp only
  rw [if_neg (State.not_first hlater), hresend]
  dsimp only
  rw [if_neg (by simp [hbout, hvc5]), if_pos hretry]

theorem State.chosen_ctl (hretry : (s.link i).retryPending = false) {c : Ctl}
    (hc : (s.link i).ctlDue.find? (s.link i).ctlReady = some c) : s.chosen i = s.sendCtl i c := by
  unfold State.chosen
  dsimp only
  rw [if_neg (State.not_first hlater), hresend]
  dsimp only
  rw [if_neg (by simp [hbout, hvc5]), if_neg (by simp [hretry]), hc]

theorem State.chosen_idle (hretry : (s.link i).retryPending = false) (hctl : (s.link i).ctlDue = [])
    (hready : ∀ vc, s.vcReady i vc = false) : s.chosen i = s.sendBare i 1 := by
  unfold State.chosen
  dsimp only
  rw [if_neg (State.not_first hlater), hresend]
  dsimp only
  have hnone : (((List.range 3).map fun k => ((s.link i).turn + k) % 3).find? fun v =>
      decide ((s.link i).replay.length < s.window i) && s.vcReady i v) = none := by
    rw [List.find?_eq_none]
    intro v _
    simp [hready v]
  rw [if_neg (by simp [hbout, hvc5]), if_neg (by simp [hretry]), hctl]
  simp only [List.find?_nil]
  rw [if_neg (by simp [hready]), hnone]

/-- A VC that alone has something to send, below 3, is served whatever the turn. -/
theorem State.chosen_vc (hretry : (s.link i).retryPending = false) (hctl : (s.link i).ctlDue = []) {vc : Nat} (hvc : vc < 3)
    (hroom : (s.link i).replay.length < s.window i) (hready : ∀ v, s.vcReady i v = (v == vc)) :
    s.chosen i = (s.sendVc i vc).setLink i { (s.sendVc i vc).link i with turn := (vc + 1) % 3 } := by
  have hfind : (((List.range 3).map fun k => ((s.link i).turn + k) % 3).find? fun v =>
      decide ((s.link i).replay.length < s.window i) && s.vcReady i v) = some vc := by
    have hpick : (((List.range 3).map fun k => ((s.link i).turn + k) % 3).find? fun v => v == vc) = some vc := by
      have hmem : vc ∈ (List.range 3).map fun k => ((s.link i).turn + k) % 3 :=
        List.mem_map.mpr ⟨(vc + 3 - (s.link i).turn % 3) % 3, List.mem_range.mpr (Nat.mod_lt _ (by decide)), by omega⟩
      obtain ⟨v, hv⟩ := Option.isSome_iff_exists.mp (List.find?_isSome (p := fun v => v == vc).mpr ⟨vc, hmem, by simp⟩)
      have hvc : (v == vc) = true := List.find?_some (p := fun v => v == vc) hv
      rw [hv, beq_iff_eq.mp hvc]
    simpa [hready, hroom] using hpick
  have hthree : s.vcReady i 3 = false := by
    rw [hready]
    simp
    omega
  unfold State.chosen
  dsimp only
  rw [if_neg (State.not_first hlater), hresend]
  dsimp only
  rw [if_neg (by simp [hbout, hvc5]), if_neg (by simp [hretry]), hctl]
  simp only [List.find?_nil]
  rw [if_neg (by simp [hthree]), hfind]

end

end

end

/-! ### IDLE and RETRY flits (R386, R392) -/

section
variable (s : State) (i : Nat)

/-- An IDLE flit or a RETRY on the wire: what it changes of its link and of the registers. -/
theorem State.sendBare_sent (kind : Nat) : ∃ g due lanes, FlitSent s ((s.sendBare i kind).dealFlit i) i kind 0 0 g ∧
    SendsOn s ((s.sendBare i kind).dealFlit i) i ∧
    ((s.sendBare i kind).dealFlit i).regs = (if kind = 2 then s.addFld (F.lnkRetry i) 1 else s).regs ∧
    ((s.sendBare i kind).dealFlit i).link i = { s.link i with
      creditDue := due, wire := some (.flit g), flitOut := some g, lanes,
      retryPending := if kind = 2 then false else (s.link i).retryPending } := by
  obtain ⟨due, hdue⟩ := s.header_eq i kind
  have hheaded := s.header_headed i kind
  have hwf := s.header_wf i kind
  obtain ⟨h, hh⟩ : ∃ h, h = s.header i kind := ⟨_, rfl⟩
  rw [← hh] at hdue hheaded hwf
  let g := sealFlit h.1
  let x : LinkSt := { s.link i with
    creditDue := due, wire := some (.flit g), retryPending := if kind = 2 then false else (s.link i).retryPending }
  obtain ⟨v, hv⟩ : ∃ v, v = s.sendBare i kind := ⟨_, rfl⟩
  have hlink : h.2.link i = { s.link i with creditDue := due } := by rw [hdue, State.link_setLink]
  have hbare : v = if kind = 2 then (h.2.setLink i x).addFld (F.lnkRetry i) 1 else h.2.setLink i x := by
    rw [hv]
    unfold State.sendBare
    rw [← hh]
    dsimp only
    rw [hlink]
  have hregs : v.regs = (if kind = 2 then s.addFld (F.lnkRetry i) 1 else s).regs := by
    rw [hbare, hdue]
    split
    · rfl
    · rfl
  have hvlink : v.link i = x := by
    rw [hbare]
    split
    · rw [State.link_congr (State.addFld_links _ _ _), State.link_setLink]
    · rw [State.link_setLink]
  have hsends : SendsOn s v i := by
    have hx : SendsOn s (h.2.setLink i x) i := hdue ▸ ((SendsOn.refl s i).drew.setLink _).setLink _
    rw [hbare]
    split
    · exact hx.addFld _ 1
    · exact hx
  have hkept : ∀ f : Fld, f.key ≠ (F.lnkRetry i).key → v.fld f = s.fld f := by
    intro f hf
    rw [State.fld_congr hregs]
    split
    · exact s.fld_addFld_ne hf 1
    · rfl
  have hwidth : v.fld (F.lnkStatusWidth i) = s.fld (F.lnkStatusWidth i) :=
    hkept _ (by simp only [ne_eq, Fld.key, F.lnkStatusWidth, F.lnkRetry]; omega)
  have hused : v.fld (F.lnkUsed i) = s.fld (F.lnkUsed i) := hkept _ (by simp only [ne_eq, Fld.key, F.lnkUsed, F.lnkRetry]; omega)
  rw [← hv, v.dealFlit_flit i (f := g) (by rw [hvlink]), hwidth]
  obtain ⟨lanes, hout⟩ := v.dealOut_eq i (s.fld (F.lnkStatusWidth i)) g
  refine ⟨g, due, lanes, ⟨hheaded.sealed _, crc_sealFlit _, hwf, ((v.dealOut_dealt i _ g).congr hused)⟩, hsends.dealOut _ _, ?_, ?_⟩
  · rw [hout]
    exact hregs
  · rw [hout, State.link_setLink, hvlink]

end

end Sys2Proof.Machine
end

section
/-! Flits sent again, echoes, single packets and the rustle pattern (R377, R379, R387, R391, R401, R410). It settles O55. -/

namespace Sys2Proof.Machine

/-! ### A flit of the resend list (R387, R402) -/

section
variable (s : State) (i : Nat)

theorem State.sendAgain_sent {f : Flit} {rest : List Flit} (hold : ∃ x ∈ (s.link i).replay, x.seq = f.seq) :
    ∃ lanes, SendsOn s ((s.sendAgain i f rest).dealFlit i) i ∧
      ((s.sendAgain i f rest).dealFlit i).regs = (s.addFld (F.lnkTxFlits i) 1).regs ∧
      ((s.sendAgain i f rest).dealFlit i).link i = { s.link i with
        wire := some (.flit f), resend := rest, flitOut := some f, lanes } ∧
      dealtTo s ((s.sendAgain i f rest).dealFlit i) i (s.fld (F.lnkStatusWidth i)) f := by
  have hany : ((s.link i).replay.any fun x => x.seq == f.seq) = true := by
    obtain ⟨x, hx, hseq⟩ := hold
    exact List.any_eq_true.mpr ⟨x, hx, by simp [hseq]⟩
  obtain ⟨v, hv⟩ : ∃ v, v = (s.setLink i { s.link i with wire := some (.flit f), resend := rest }).addFld (F.lnkTxFlits i) 1 := ⟨_, rfl⟩
  have hagain : s.sendAgain i f rest = v := by
    rw [hv]
    unfold State.sendAgain
    dsimp only
    rw [hany]
    rfl
  have hvlink : v.link i = { s.link i with wire := some (.flit f), resend := rest } := by
    rw [hv, State.link_congr (State.addFld_links _ _ _), State.link_setLink]
  have hregs : v.regs = (s.addFld (F.lnkTxFlits i) 1).regs := by rw [hv]; rfl
  have hkept : ∀ g : Fld, g.key ≠ (F.lnkTxFlits i).key → v.fld g = s.fld g :=
    fun g hg => (State.fld_congr hregs g).trans (s.fld_addFld_ne hg 1)
  have hwidth : v.fld (F.lnkStatusWidth i) = s.fld (F.lnkStatusWidth i) :=
    hkept _ (by simp only [ne_eq, Fld.key, F.lnkStatusWidth, F.lnkTxFlits]; omega)
  have hused : v.fld (F.lnkUsed i) = s.fld (F.lnkUsed i) := hkept _ (by simp only [ne_eq, Fld.key, F.lnkUsed, F.lnkTxFlits]; omega)
  have hsends : SendsOn s v i := hv ▸ ((SendsOn.refl s i).setLink _).addFld _ 1
  obtain ⟨lanes, hout⟩ := v.dealOut_eq i (s.fld (F.lnkStatusWidth i)) f
  rw [hagain, v.dealFlit_flit i (f := f) (by rw [hvlink]), hwidth]
  refine ⟨lanes, hsends.dealOut _ _, ?_, ?_, (v.dealOut_dealt i _ f).congr hused⟩
  · rw [hout]
    exact hregs
  · rw [hout, State.link_setLink, hvlink]

/-! ### CONFIG_ECHO (R401) -/

theorem State.sendCtl_echo : ∃ g due prbs out lanes, FlitSent s (s.sendCtl i .configEcho) i 3 0 0 g ∧
    SendsOn s (s.sendCtl i .configEcho) i ∧ (s.sendCtl i .configEcho).regs = s.regs ∧
    (s.sendCtl i .configEcho).link i = { s.link i with
      ctlDue := (s.link i).ctlDue.erase .configEcho, wire := some (.configEcho (s.ownEcho i)), creditDue := due, prbs,
      flitOut := out, lanes } := by
  let u := s.setLink i { s.link i with
    ctlDue := (s.link i).ctlDue.erase .configEcho, wire := some (.configEcho (s.ownEcho i)) }
  have hctl : s.sendCtl i .configEcho = u.controlOut i (s.fld (F.lnkStatusWidth i)) false := rfl
  obtain ⟨hframe, hregs, ⟨due, prbs, out, lanes, hlink⟩, g, hheaded, hcrc, hwf, hdealt⟩ :=
    u.controlOut_sent i (s.fld (F.lnkStatusWidth i)) false
  have hu : u.link i = { s.link i with
      ctlDue := (s.link i).ctlDue.erase .configEcho, wire := some (.configEcho (s.ownEcho i)) } := s.link_setLink i _
  rw [hctl]
  refine ⟨g, due, prbs, out, lanes, ⟨hheaded.congr ?_ ?_ rfl, hcrc, hwf, hdealt⟩, ((SendsOn.refl s i).setLink _).trans hframe, hregs, ?_⟩
  · rw [hu]
  · rw [hu]
  · rw [hlink, hu]

/-! ### A DATA flit (R385) -/

theorem State.sendData_sent (hstate : s.linkState i ≠ lkReconfig) (vc used : Nat) (b : List Byte) :
    ∃ g due check ctl, HeadedFor s i 0 vc used g ∧ g.crc = BitVec.ofNat 64 (flitCrc g) ∧ g.slots = slotsOf b ∧
      SendsOn s (s.sendData i vc used 0 b) i ∧ (s.sendData i vc used 0 b).regs = (s.addFld (F.lnkTxFlits i) 1).regs ∧
      (s.sendData i vc used 0 b).link i = { s.link i with
        creditDue := due, wire := some (.flit g), replay := (s.link i).replay ++ [g], txSeq := ((s.link i).txSeq + 1) % 4096,
        sinceCheck := check, ctlDue := ctl } := by
  obtain ⟨due, hdue⟩ := s.header_eq i 0
  have hheaded := s.header_headed i 0
  obtain ⟨h, hh⟩ : ∃ h, h = s.header i 0 := ⟨_, rfl⟩
  rw [← hh] at hdue hheaded
  obtain ⟨u, hu⟩ : ∃ u, u = h.2 := ⟨_, rfl⟩
  have hulink : u.link i = { s.link i with creditDue := due } := by rw [hu, hdue, State.link_setLink]
  have huregs : u.regs = s.regs := by rw [hu, hdue]; rfl
  have husends : SendsOn s u i := by rw [hu, hdue]; exact (SendsOn.refl s i).drew.setLink _
  let g := sealFlit { h.1 with vc := BitVec.ofNat 3 vc, used := BitVec.ofNat 4 used, cont := BitVec.ofNat 4 0, slots := slotsOf b }
  have hg : HeadedFor s i 0 vc used g := ⟨hheaded.seq, hheaded.ack, hheaded.kind, rfl, rfl, rfl, hheaded.epoch⟩
  let n := (u.link i).sinceCheck + 1
  let ctl := if n = 65536 ∧ u.bit (F.lnkCtlCheckEn i) ∧ ¬ (u.link i).ctlDue.contains .laneCheck then
    (u.link i).ctlDue ++ [.laneCheck] else (u.link i).ctlDue
  obtain ⟨v, hv⟩ : ∃ v, v = (u.setLink i { u.link i with
    wire := some (.flit g), replay := (u.link i).replay ++ [g], txSeq := ((u.link i).txSeq + 1) % 4096,
    sinceCheck := n % 65536, ctlDue := ctl }).addFld (F.lnkTxFlits i) 1 := ⟨_, rfl⟩
  have hvregs : v.regs = (s.addFld (F.lnkTxFlits i) 1).regs := by
    rw [hv]
    unfold State.addFld State.setFld State.fld
    simp only [State.setLink_regs, huregs]
  have hvstate : v.linkState i = s.linkState i :=
    (State.fld_congr hvregs _).trans (s.fld_addFld_ne (by simp only [ne_eq, Fld.key, F.lnkStatusState, F.lnkTxFlits]; omega) 1)
  have hdata : s.sendData i vc used 0 b = v := by
    unfold State.sendData
    rw [← hh]
    dsimp only
    rw [← hu]
    have hmatch : (v.linkState i == lkReconfig) = false := by rw [hvstate]; simpa using hstate
    rw [← hv, hmatch]
  rw [hdata]
  refine ⟨g, due, n % 65536, ctl, hg, crc_sealFlit _, rfl, ?_, hvregs, ?_⟩
  · rw [hv]
    exact (husends.setLink _).addFld _ 1
  · rw [hv, State.link_congr (State.addFld_links _ _ _), State.link_setLink, hulink]

/-! ### A single packet packed (R379, R391) -/

theorem State.useCredit_kept (vc n : Nat) : fieldsKept s (s.useCredit i vc n) [(F.lnkCreditHeld i vc).key] ∧
    (s.useCredit i vc n).links = s.links ∧ SendsOn s (s.useCredit i vc n) i := by
  unfold State.useCredit
  split
  · exact ⟨fieldsKept.refl s _, rfl, SendsOn.refl s i⟩
  · exact ⟨(fieldsKept.refl s _).setFld (List.mem_singleton_self _) _, rfl, (SendsOn.refl s i).setFld _ _⟩

theorem State.regs_useCredit_drew (vc n : Nat) : (s.drew.useCredit i vc n).regs = (s.useCredit i vc n).regs := by
  unfold State.useCredit State.heldCredit
  rw [State.fld_drew]
  split
  · rfl
  · rfl

theorem State.heldCredit_useCredit (vc n : Nat) (h : s.heldCredit i vc ≤ 0xFFFF) : (s.useCredit i vc n).heldCredit i vc =
    if s.heldCredit i vc = 0xFFFF then 0xFFFF else s.heldCredit i vc - n := by
  unfold State.useCredit
  split
  · next hall => rw [hall]
  · refine (s.fld_setFld _ _).trans (Nat.mod_eq_of_lt ?_)
    exact show s.heldCredit i vc - n < 2 ^ 16 by omega

section
variable {s i}

/-- The rest of a packet that fits goes out, and leaves its VC. -/
theorem State.pack_rest {vc fuel room : Nat} {b : List Byte} (hroom : room ≠ 0) (hb : tfind (s.link i).txPart vc = some b)
    (hfit : b.length ≤ room) : s.pack i vc (fuel + 1) room =
      (((s.setLink i { s.link i with txPart := tdel (s.link i).txPart vc }).pack i vc fuel (room - b.length)).1,
        b ++ ((s.setLink i { s.link i with txPart := tdel (s.link i).txPart vc }).pack i vc fuel (room - b.length)).2) := by
  rw [State.pack, if_neg hroom]
  simp only [hb, if_pos hfit, List.take_of_length_le hfit]

theorem State.pack_nothing {vc fuel room : Nat} (hpart : tfind (s.link i).txPart vc = none)
    (hq : (s.link i).txq.find? (fun x => x.1 == vc) = none) : s.pack i vc (fuel + 1) room = (s, []) := by
  rw [State.pack]
  split
  · rfl
  · simp only [hpart, hq]

/-- A whole packet enters its VC, for its credits. -/
theorem State.pack_next {vc fuel room : Nat} {x : Nat × OutPkt} (hroom : room ≠ 0) (hpart : tfind (s.link i).txPart vc = none)
    (hq : (s.link i).txq.find? (fun x => x.1 == vc) = some x)
    (hcredit : s.canSend i vc (creditsFor vc (s.encode i x.2).length) = true) :
    s.pack i vc (fuel + 1) room = ((s.drew.useCredit i vc (creditsFor vc (s.encode i x.2).length)).setLink i { s.link i with
      txq := (s.link i).txq.erase x, txPart := tins (s.link i).txPart vc (s.encode i x.2) }).pack i vc fuel room := by
  rw [State.pack, if_neg hroom]
  simp only [hpart, hq, hcredit, if_true]

end

/-- One STATUS packet alone fills the first slot of a flit. -/
theorem State.pack_status {tag code : Nat} (hpart : (s.link i).txPart = []) (hq : (s.link i).txq = [(2, .status tag code)])
    (hcredit : s.canSend i 2 1 = true) : (s.pack i 2 32 240).2 = packetOf 5 0 0 tag 0 code [] ∧
      (s.pack i 2 32 240).1.link i = { s.link i with txq := [], txPart := [] } ∧
      (s.pack i 2 32 240).1.regs = (s.useCredit i 2 1).regs ∧ SendsOn s (s.pack i 2 32 240).1 i := by
  have hlen : (packetOf 5 0 0 tag 0 code []).length = 16 := by
    simp [packetOf, pad16, leBytes_length]
  have hencode : s.encode i (.status tag code) = packetOf 5 0 0 tag 0 code [] := rfl
  have hcredits : creditsFor 2 (s.encode i (.status tag code)).length = 1 := rfl
  obtain ⟨u, hu⟩ : ∃ u, u = (s.drew.useCredit i 2 1).setLink i { s.link i with
    txq := [], txPart := [(2, packetOf 5 0 0 tag 0 code [])] } := ⟨_, rfl⟩
  have hnext : s.pack i 2 32 240 = u.pack i 2 31 240 := by
    rw [State.pack_next (by decide) (by rw [hpart]; rfl) (x := (2, .status tag code)) (by rw [hq]; rfl) hcredit, hcredits, hencode, hq, hpart, hu]
    simp [tins]
  have hulink : u.link i = { s.link i with txq := [], txPart := [(2, packetOf 5 0 0 tag 0 code [])] } := by
    rw [hu, State.link_setLink]
  obtain ⟨v, hv⟩ : ∃ v, v = u.setLink i { u.link i with txPart := tdel (u.link i).txPart 2 } := ⟨_, rfl⟩
  have hvlink : v.link i = { s.link i with txq := [], txPart := [] } := by
    rw [hv, State.link_setLink, hulink]
    rfl
  have hrest : u.pack i 2 31 240 = (v, packetOf 5 0 0 tag 0 code []) := by
    rw [State.pack_rest (b := packetOf 5 0 0 tag 0 code []) (by decide) (by rw [hulink]; rfl) (by omega), ← hv,
      State.pack_nothing (by rw [hvlink]; rfl) (by rw [hvlink]; rfl), List.append_nil]
  rw [hnext, hrest]
  refine ⟨rfl, hvlink, ?_, ?_⟩
  · rw [hv, hu, State.setLink_regs, State.setLink_regs, State.regs_useCredit_drew]
  · rw [hv, hu]
    exact (((SendsOn.refl s i).drew.trans (s.drew.useCredit_kept i 2 1).2.2).setLink _).setLink _

end

end Sys2Proof.Machine
end

section
/-! What a link sends, case by case (R376, R385, R387, R391, R392, R401, R410). It settles O55. -/

namespace Sys2Proof.Machine

section
variable {s : State} {i : Nat}

/-- A wait for credits that is counted changes nothing of the flit that goes out. -/
theorem FlitSent.of_waited {t : State} {kind vc used : Nat} {g : Flit} (h : FlitSent (s.waited i) t i kind vc used g) :
    FlitSent s t i kind vc used g := by
  have hdealt := h.dealt.congr (s.fld_waited i (g := F.lnkUsed i) (by simp))
  rw [s.fld_waited i (g := F.lnkStatusWidth i) (by simp)] at hdealt
  exact ⟨h.headed.congr (by rw [s.link_waited]) (by rw [s.link_waited]) (s.fld_waited i (by simp)), h.crc, h.wf, hdealt⟩

theorem State.ownEcho_congr {t : State} (h : t.regs = s.regs) : t.ownEcho i = s.ownEcho i := by
  unfold State.ownEcho
  rw [State.fld_congr h, State.fld_congr h, State.fld_congr h, State.fld_congr h]

theorem State.ownEcho_waited : (s.waited i).ownEcho i = s.ownEcho i := by
  unfold State.ownEcho
  rw [s.fld_waited i (g := F.lnkStatusWidth i) (by simp), s.fld_waited i (g := F.lnkUsed i) (by simp),
    s.fld_waited i (g := F.lnkEpoch i) (by simp), s.fld_waited i (g := F.lnkVersionAgreed i) (by simp)]

/-! ### What is ready, and what waits (R391) -/

theorem State.vcReady_empty (hq : (s.link i).txq = []) (hpart : (s.link i).txPart = []) (vc : Nat) : s.vcReady i vc = false := by
  unfold State.vcReady
  dsimp only
  rw [hq, hpart]
  rfl

theorem State.vcWaits_empty (hq : (s.link i).txq = []) (hbout : (s.link i).bout = []) (hvc5 : (s.link i).vc5out = []) :
    s.vcWaits i = false := by
  unfold State.vcWaits
  simp [hq, hbout, hvc5]

/-- One packet with its credits is ready on its own VC alone, and nothing waits. -/
theorem State.vcReady_single {vc : Nat} {x : OutPkt} (hq : (s.link i).txq = [(vc, x)]) (hpart : (s.link i).txPart = [])
    (hcredit : s.canSend i vc (creditsFor vc (s.encode i x).length) = true) (v : Nat) : s.vcReady i v = (v == vc) := by
  unfold State.vcReady
  dsimp only
  rw [hq, hpart]
  by_cases hv : v = vc
  · subst hv
    simp [tfind, hcredit]
  · have hne : (vc == v) = false := by simpa using fun e => hv e.symm
    simp [tfind, hne, hv]

theorem State.vcWaits_single {vc : Nat} {x : OutPkt} (hq : (s.link i).txq = [(vc, x)]) (hpart : (s.link i).txPart = [])
    (hcredit : s.canSend i vc (creditsFor vc (s.encode i x).length) = true) (hbout : (s.link i).bout = [])
    (hvc5 : (s.link i).vc5out = []) : s.vcWaits i = false := by
  unfold State.vcWaits
  have hall : ((List.range 4).any fun v => (tfind (s.link i).txPart v).isNone && ((s.link i).txq.any fun x => x.1 == v) &&
      !s.vcReady i v) = false := by
    rw [List.any_eq_false]
    intro v _
    rw [State.vcReady_single hq hpart hcredit, hq]
    by_cases hv : v = vc
    · simp [hv]
    · have hne : ¬ vc = v := fun e => hv e.symm
      simp [hne]
  dsimp only
  rw [hall, hbout, hvc5]
  rfl

/-! ### A STATUS packet alone (R379, R385) -/

/-- A STATUS packet that waits alone goes out in a DATA flit of its own. -/
theorem State.sendVc_status {tag code : Nat} (hpart : (s.link i).txPart = []) (hq : (s.link i).txq = [(2, .status tag code)])
    (hcredit : s.canSend i 2 1 = true) (hstate : s.linkState i ≠ lkReconfig) :
    ∃ g due check ctl, HeadedFor s i 0 2 1 g ∧ g.crc = BitVec.ofNat 64 (flitCrc g) ∧
      g.slots = slotsOf (packetOf 5 0 0 tag 0 code []) ∧ SendsOn s (s.sendVc i 2) i ∧
      (s.sendVc i 2).regs = ((s.useCredit i 2 1).addFld (F.lnkTxFlits i) 1).regs ∧
      (s.sendVc i 2).link i = { s.link i with
        txq := [], txPart := [], creditDue := due, wire := some (.flit g), replay := (s.link i).replay ++ [g],
        txSeq := ((s.link i).txSeq + 1) % 4096, sinceCheck := check, ctlDue := ctl } := by
  obtain ⟨hbytes, hlink, hregs, hsends⟩ := s.pack_status i hpart hq hcredit
  obtain ⟨r, hr⟩ : ∃ r, r = s.pack i 2 32 240 := ⟨_, rfl⟩
  rw [← hr] at hbytes hlink hregs hsends
  have hvc : s.sendVc i 2 = r.1.sendData i 2 1 0 (packetOf 5 0 0 tag 0 code []) := by
    have hlen : (packetOf 5 0 0 tag 0 code []).length / 16 = 1 := by
      simp [packetOf, pad16, leBytes_length]
    unfold State.sendVc
    dsimp only
    rw [← hr, if_neg (by decide), hbytes, hlen, hpart]
    rfl
  have hkept : ∀ f : Fld, f.key ≠ (F.lnkCreditHeld i 2).key → r.1.fld f = s.fld f := fun f hf =>
    (State.fld_congr hregs f).trans ((s.useCredit_kept i 2 1).1 f (by simpa using hf))
  have hepoch : r.1.fld (F.lnkEpoch i) = s.fld (F.lnkEpoch i) :=
    hkept _ (by simp only [ne_eq, Fld.key, F.lnkEpoch, F.lnkCreditHeld]; omega)
  have hstate' : r.1.linkState i ≠ lkReconfig := by
    rw [State.linkState, hkept _ (by simp only [ne_eq, Fld.key, F.lnkStatusState, F.lnkCreditHeld]; omega)]
    exact hstate
  obtain ⟨g, due, check, ctl, hheaded, hcrc, hslots, hsent, hsentRegs, hsentLink⟩ :=
    r.1.sendData_sent i hstate' 2 1 (packetOf 5 0 0 tag 0 code [])
  rw [hvc]
  refine ⟨g, due, check, ctl, hheaded.congr (by rw [hlink]) (by rw [hlink]) hepoch, hcrc, hslots, hsends.trans hsent, ?_, ?_⟩
  · rw [hsentRegs]
    unfold State.addFld State.setFld State.fld
    rw [hregs]
  · rw [hsentLink, hlink]

end

/-! ### The rustle pattern (R410) -/

theorem flitSend_trickle {s : State} {link : LinkNo} (h : s.linkState link.val = lkTrickle)
    (htraffic : (s.link link.val).hasTraffic = true) :
    exec (.flitSend link) s = .next ((s.wakeLink link.val).sendCtl link.val .rustle) := by
  have hclosed : ¬ s.linkOpen link.val = true := fun hopen => State.not_trickle_of_open hopen h
  show execFlitSend link s = _
  unfold execFlitSend
  dsimp only
  rw [if_neg hclosed, if_pos ⟨h, htraffic⟩]

theorem flitSend_silent {s : State} {link : LinkNo} (h : s.linkState link.val < lkActive ∨ lkBerTest ≤ s.linkState link.val) :
    exec (.flitSend link) s = .next s := by
  have hopen : ¬ s.linkOpen link.val = true := by
    intro hopen
    rcases State.linkState_of_open hopen with hs | hs <;> rw [hs] at h <;> exact absurd h (by decide)
  have htrickle : s.linkState link.val ≠ lkTrickle := fun hs => by rw [hs] at h; exact absurd h (by decide)
  have hwake : s.linkState link.val ≠ lkWake := fun hs => by rw [hs] at h; exact absurd h (by decide)
  show execFlitSend link s = _
  unfold execFlitSend
  dsimp only
  rw [if_neg hopen, if_neg fun hs => htrickle hs.1, if_neg fun hs => hwake hs.1]

/-- Settles O55: R392's choice at a flit boundary, and what each kind of flit changes of its link. -/
theorem flitsAreSent : Obligations.FlitsAreSent := by
  unfold Obligations.FlitsAreSent
  intro s link i l others headed quiet later w dealt go
  have hothers : ∀ {t : State}, SendsOn s t i → others t := fun h => ⟨h.mem, h.links, h.cores, h.log⟩
  have hheaded : ∀ {t : State} {kind vc used : Nat} {g : Flit}, FlitSent s t i kind vc used g → headed g kind vc used ∧ dealt t g :=
    fun ⟨⟨hseq, hack, hkind, hvc, hused, hcont, hepoch⟩, hcrc, hwf, hdealt⟩ =>
      ⟨⟨hseq, hack, hkind, hvc, hused, hcont, hepoch, hcrc, hwf⟩, hdealt⟩
  have hwaited : (s.waited i).link i = l := s.link_waited i
  refine ⟨fun hopen => ⟨?_, ?_, ?_, ?_, ?_⟩, fun hstate htraffic => ?_, flitSend_silent⟩
  · rintro ⟨hresend, hbout, hvc5⟩ hretry hctl hq hpart
    have hself := s.waited_eq_self i (State.vcWaits_empty hq hbout hvc5)
    have hidle := State.chosen_idle (Or.inr (by rw [hctl]; simp)) hresend hbout hvc5 hretry hctl (State.vcReady_empty hq hpart)
    obtain ⟨g, due, lanes, hsent, hsends, hregs, hlink⟩ := s.sendBare_sent i 1
    refine ⟨_, flitSend_open hopen, ?_⟩
    rw [hself, hidle]
    obtain ⟨hhead, hdealt⟩ := hheaded hsent
    exact ⟨hothers hsends, ⟨g, by rw [hlink], hhead, hdealt⟩, by rw [hlink], by rw [hlink], fun f _ => State.fld_congr hregs f⟩
  · rintro ⟨hresend, hbout, hvc5⟩ hretry hlater
    have hchosen := State.chosen_retry (s := s.waited i) (i := i) (by rw [hwaited]; exact hlater) (by rw [hwaited]; exact hresend)
      (by rw [hwaited]; exact hbout) (by rw [hwaited]; exact hvc5) (by rw [hwaited]; exact hretry)
    obtain ⟨g, due, lanes, hsent, hsends, hregs, hlink⟩ := (s.waited i).sendBare_sent i 2
    rw [hwaited] at hlink
    rw [if_pos rfl] at hregs
    obtain ⟨hhead, hdealt⟩ := hheaded hsent.of_waited
    refine ⟨_, flitSend_open hopen, ?_⟩
    rw [hchosen]
    refine ⟨hothers ((s.sends_waited i).trans hsends), by rw [hlink]; rfl, ⟨g, by rw [hlink], hhead, hdealt⟩, by rw [hlink], by rw [hlink], ?_,
      fun f hf => ?_⟩
    · rw [State.fld_congr hregs, State.fld_addFld, s.fld_waited i (by simp)]
      rfl
    · simp only [List.mem_cons, List.not_mem_nil, or_false, not_or] at hf
      rw [State.fld_congr hregs, State.fld_addFld_ne _ hf.1, s.fieldsKept_waited i f (by simpa using hf.2)]
  · intro g rest hlater hresend hold
    have hchosen := State.chosen_again (s := s.waited i) (i := i) (by rw [hwaited]; exact hlater) (by rw [hwaited]; exact hresend)
    obtain ⟨lanes, hsends, hregs, hlink, hdealt⟩ := (s.waited i).sendAgain_sent i (f := g) (rest := rest) (by rw [hwaited]; exact hold)
    rw [hwaited] at hlink
    have hdealt := hdealt.congr (s.fld_waited i (g := F.lnkUsed i) (by simp))
    rw [s.fld_waited i (g := F.lnkStatusWidth i) (by simp)] at hdealt
    refine ⟨_, flitSend_open hopen, ?_⟩
    rw [hchosen]
    refine ⟨hothers ((s.sends_waited i).trans hsends), by rw [hlink], hdealt, by rw [hlink], by rw [hlink], by rw [hlink],
      by rw [hlink], ?_, fun f hf => ?_⟩
    · rw [State.fld_congr hregs, State.fld_addFld, s.fld_waited i (by simp)]
      rfl
    · simp only [List.mem_cons, List.not_mem_nil, or_false, not_or] at hf
      rw [State.fld_congr hregs, State.fld_addFld_ne _ hf.1, s.fieldsKept_waited i f (by simpa using hf.2)]
  · intro rest hway hctl
    obtain ⟨u, hchosen, hulink, huregs, husends⟩ : ∃ u : State, (s.waited i).chosen i = u.sendCtl i .configEcho ∧
        u.link i = { l with first := false } ∧ u.regs = (s.waited i).regs ∧ SendsOn s u i := by
      by_cases hfirst : l.first = true
      · refine ⟨_, State.chosen_first (by rw [hwaited]; exact hfirst) (by rw [hwaited, hctl]; simp), ?_, rfl,
          (s.sends_waited i).setLink _⟩
        rw [State.link_setLink, hwaited]
      · have hfirst' : l.first = false := Bool.not_eq_true _ ▸ hfirst
        obtain ⟨⟨hresend, hbout, hvc5⟩, hretry⟩ := hway.resolve_right hfirst
        refine ⟨_, State.chosen_ctl (by rw [hwaited]; exact Or.inl hfirst') (by rw [hwaited]; exact hresend) (by rw [hwaited]; exact hbout)
          (by rw [hwaited]; exact hvc5) (by rw [hwaited]; exact hretry) (by rw [hwaited, hctl]; rfl), ?_, rfl, s.sends_waited i⟩
        rw [hwaited, ← hfirst']
    obtain ⟨g, due, prbs, out, lanes, hsent, hsends, hregs, hlink⟩ := u.sendCtl_echo i
    have hwire : ((u.sendCtl i .configEcho).link i).wire = some (.configEcho (u.ownEcho i)) := by rw [hlink]
    have hsent' : FlitSent (s.waited i) (u.sendCtl i .configEcho) i 3 0 0 g := by
      have hdealt := hsent.dealt.congr (State.fld_congr huregs _)
      rw [State.fld_congr huregs] at hdealt
      exact ⟨hsent.headed.congr (by rw [hulink, hwaited]) (by rw [hulink, hwaited]) (State.fld_congr huregs _), hsent.crc, hsent.wf, hdealt⟩
    obtain ⟨hhead, hdealt⟩ := hheaded hsent'.of_waited
    rw [hulink] at hlink
    refine ⟨_, flitSend_open hopen, ?_⟩
    rw [hchosen, State.dealFlit_echo _ _ hwire]
    refine ⟨hothers (husends.trans hsends), ?_, by rw [hlink, hctl, List.erase_cons_head], by rw [hlink], by rw [hlink], by rw [hlink],
      by rw [hlink], ⟨g, hhead, hdealt⟩, fun f hf => ?_⟩
    · rw [hwire, State.ownEcho_congr huregs, State.ownEcho_waited]
    · rw [State.fld_congr hregs, State.fld_congr huregs, s.fieldsKept_waited i f hf]
  · rintro tag code ⟨hresend, hbout, hvc5⟩ hretry hctl hpart hq hstate hroom hcredit
    have hcredit' : s.canSend i 2 (creditsFor 2 (s.encode i (.status tag code)).length) = true := hcredit
    have hself := s.waited_eq_self i (State.vcWaits_single hq hpart hcredit' hbout hvc5)
    have hchosen := State.chosen_vc (Or.inr (by rw [hctl]; simp)) hresend hbout hvc5 hretry hctl (by decide) hroom
      (State.vcReady_single hq hpart hcredit')
    obtain ⟨g, due, check, ctl, hhead, hcrc, hslots, hsends, hregs, hlink⟩ :=
      State.sendVc_status hpart hq hcredit (by rw [hstate]; decide)
    obtain ⟨v, hv⟩ : ∃ v, v = (s.sendVc i 2).setLink i { (s.sendVc i 2).link i with turn := (2 + 1) % 3 } := ⟨_, rfl⟩
    have hvlink : v.link i = { (s.sendVc i 2).link i with turn := (2 + 1) % 3 } := by rw [hv, State.link_setLink]
    rw [hlink] at hvlink
    have hvregs : v.regs = ((s.useCredit i 2 1).addFld (F.lnkTxFlits i) 1).regs := by rw [hv, State.setLink_regs, hregs]
    have hkept : fieldsKept s v [(F.lnkTxFlits i).key, (F.lnkCreditHeld i 2).key] := by
      intro f hf
      simp only [List.mem_cons, List.not_mem_nil, or_false, not_or] at hf
      rw [State.fld_congr hvregs, State.fld_addFld_ne _ hf.1, (s.useCredit_kept i 2 1).1 f (by simpa using hf.2)]
    have hwidth : v.fld (F.lnkStatusWidth i) = s.fld (F.lnkStatusWidth i) := hkept _ (by
      simp only [List.mem_cons, List.not_mem_nil, or_false, not_or, Fld.key, F.lnkStatusWidth, F.lnkTxFlits, F.lnkCreditHeld]; omega)
    have hused : v.fld (F.lnkUsed i) = s.fld (F.lnkUsed i) := hkept _ (by
      simp only [List.mem_cons, List.not_mem_nil, or_false, not_or, Fld.key, F.lnkUsed, F.lnkTxFlits, F.lnkCreditHeld]; omega)
    have hheld : (F.lnkCreditHeld i 2).key ≠ (F.lnkTxFlits i).key ∧ (F.lnkTxFlits i).key ≠ (F.lnkCreditHeld i 2).key := by
      simp only [ne_eq, Fld.key, F.lnkTxFlits, F.lnkCreditHeld]
      omega
    obtain ⟨lanes, hout⟩ := v.dealOut_eq i (s.fld (F.lnkStatusWidth i)) g
    have hdealt := (v.dealOut_dealt i (s.fld (F.lnkStatusWidth i)) g).congr hused
    have hend : (v.dealOut i (s.fld (F.lnkStatusWidth i)) g).link i = { v.link i with flitOut := some g, lanes } := by
      rw [hout, State.link_setLink]
    rw [hvlink] at hend
    obtain ⟨hheadG, -⟩ := hheaded ⟨hhead, hcrc, wf_of_slotsOf hslots, hdealt⟩
    refine ⟨_, flitSend_open hopen, ?_⟩
    rw [hself, hchosen, ← hv, v.dealFlit_flit i (f := g) (by rw [hvlink]), hwidth]
    refine ⟨hothers ((hv ▸ hsends.setLink _ : SendsOn s v i).dealOut _ _), ⟨g, by rw [hend], hheadG, hdealt, hslots, by rw [hend]⟩, by rw [hend], by rw [hend],
      by rw [hend], ?_, fun hle => ?_, ?_⟩
    · rw [hout, State.fld_setLink, State.fld_congr hvregs, State.fld_addFld,
        (s.useCredit_kept i 2 1).1 _ (by simpa using hheld.2)]
      rfl
    · rw [← s.heldCredit_useCredit i 2 1 hle]
      unfold State.heldCredit
      rw [hout, State.fld_setLink, State.fld_congr hvregs, State.fld_addFld_ne _ hheld.1]
    · rw [hout]
      exact hkept.setLink i _
  · obtain ⟨-, -, hwoken, -, hwakes⟩ := Woken.of_trickle (s := s) (i := i) hstate
    have hused : (s.wakeLink i).fld (F.lnkUsed i) = s.fld (F.lnkUsed i) :=
      s.fld_wakeLink_ne i (by simp only [ne_eq, Fld.key, F.lnkUsed, F.lnkStatusState]; omega)
        (by simp only [ne_eq, Fld.key, F.lnkUsed, F.lnkWakes]; omega)
    obtain ⟨hsends, hlink⟩ : SendsOn s (s.wakeLink i) i ∧ (s.wakeLink i).link i = { l with ctlDue := l.ctlDue ++ [.rustle] } := by
      unfold State.wakeLink
      rw [if_pos hstate]
      refine ⟨(((SendsOn.refl s i).setFld _ _).addFld _ 1).setLink _, ?_⟩
      rw [State.link_ctlOn, State.link_congr (State.addFld_links _ _ _), State.link_congr (State.setFld_links _ _ _)]
    obtain ⟨v, hv⟩ : ∃ v, v = s.wakeLink i := ⟨_, rfl⟩
    rw [← hv] at hwoken hwakes hused hsends hlink
    have hsent : v.sendCtl i .rustle = v.setLink i { v.link i with
        ctlDue := (v.link i).ctlDue.erase .rustle, wire := some .rustle, flitOut := none,
        lanes := ((bitsOf (laneCount i) (v.fld (F.lnkUsed i))).take 2).map fun j => (j, rustleBits) } := rfl
    refine ⟨_, flitSend_trickle hstate htraffic, ?_⟩
    rw [← hv, hsent, hlink, hused]
    refine ⟨hothers (hsends.setLink _), ?_, ?_, ?_, ?_, ?_, ?_, ?_⟩
    · exact hwoken
    · rw [State.link_setLink]
    · rw [State.link_setLink]
    · rw [State.link_setLink]
    · rw [State.link_setLink]
    · exact hwakes
    · intro f hf
      simp only [List.mem_cons, List.not_mem_nil, or_false, not_or] at hf
      rw [State.fld_setLink, hv, s.fld_wakeLink_ne i hf.1 hf.2]

end Sys2Proof.Machine
end

section
/-! Flits that arrive: their checks, what a header brings and what a gap asks for (R378, R382 to R391). It settles O54. -/

namespace Sys2Proof.Machine

/-! ### What a flit changes -/

/-- From s to t only register fields and link i have changed. -/
structure OnlyLink (s t : State) (i : Nat) : Prop where
  rest : ∃ regs links, t = { s with regs, links }
  links : ∀ j, j ≠ i → t.link j = s.link j

section
variable {s t : State} {i : Nat}

theorem OnlyLink.refl (s : State) (i : Nat) : OnlyLink s s i := ⟨⟨_, _, rfl⟩, fun _ _ => rfl⟩

theorem OnlyLink.setFld (h : OnlyLink s t i) (f : Fld) (v : Nat) : OnlyLink s (t.setFld f v) i := by
  obtain ⟨⟨_, _, rfl⟩, hlinks⟩ := h
  exact ⟨⟨_, _, rfl⟩, hlinks⟩

theorem OnlyLink.addFld (h : OnlyLink s t i) (f : Fld) (n : Nat) : OnlyLink s (t.addFld f n) i := h.setFld f _

theorem OnlyLink.setLink (h : OnlyLink s t i) (x : LinkSt) : OnlyLink s (t.setLink i x) i := by
  refine ⟨?_, fun j hj => (t.link_setLink_ne hj x).trans (h.links j hj)⟩
  obtain ⟨⟨_, _, rfl⟩, -⟩ := h
  exact ⟨_, _, rfl⟩

theorem OnlyLink.trans {u : State} (h : OnlyLink s t i) (h' : OnlyLink t u i) : OnlyLink s u i := by
  refine ⟨?_, fun j hj => (h'.links j hj).trans (h.links j hj)⟩
  obtain ⟨⟨_, _, rfl⟩, -⟩ := h
  obtain ⟨⟨_, _, rfl⟩, -⟩ := h'
  exact ⟨_, _, rfl⟩

theorem OnlyLink.mem (h : OnlyLink s t i) : t.mem = s.mem := by obtain ⟨⟨_, _, rfl⟩, -⟩ := h; rfl
theorem OnlyLink.cores (h : OnlyLink s t i) : t.cores = s.cores := by obtain ⟨⟨_, _, rfl⟩, -⟩ := h; rfl
theorem OnlyLink.bops (h : OnlyLink s t i) : t.bops = s.bops := by obtain ⟨⟨_, _, rfl⟩, -⟩ := h; rfl
theorem OnlyLink.log (h : OnlyLink s t i) : t.log = s.log := by obtain ⟨⟨_, _, rfl⟩, -⟩ := h; rfl
theorem OnlyLink.time (h : OnlyLink s t i) : t.time = s.time := by obtain ⟨⟨_, _, rfl⟩, -⟩ := h; rfl

theorem OnlyLink.same (h : OnlyLink s t i) : ({ t with regs := s.regs, links := s.links } : State) = s := by
  obtain ⟨⟨_, _, rfl⟩, -⟩ := h
  rfl

end

/-! ### The acknowledgement and the credits of a header (R385, R391) -/

theorem afterSeq_sublist (q : List Flit) (last : Nat) : (afterSeq q last).Sublist q := by
  unfold afterSeq
  split
  · exact (List.drop_sublist _ _).trans (List.dropWhile_sublist _)
  · exact List.Sublist.refl q

/-- Flits of the replay buffer that a header leaves unacknowledged. -/
def LinkSt.kept (l : LinkSt) (f : Flit) : List Flit := afterSeq l.replay f.ack.toNat

/-- Flits that a header leaves to be sent again. -/
def LinkSt.left (l : LinkSt) (f : Flit) : List Flit :=
  if (l.kept f).length < l.replay.length then
    l.resend.filter fun x => !(l.replay.any fun y => y.seq == x.seq) || (l.kept f).any fun y => y.seq == x.seq
  else l.resend

/-- Resends of the oldest flit, counted afresh when a header frees one. -/
def LinkSt.tried (l : LinkSt) (f : Flit) : Nat := if (l.kept f).length < l.replay.length then 0 else l.resends

/-- The link once a header has been taken. -/
def LinkSt.headed (l : LinkSt) (f : Flit) : LinkSt := { l with replay := l.kept f, resend := l.left f, resends := l.tried f }

/-- Credits held on the VCs, as a header returns them. -/
def credited (s t : State) (i : Nat) (f : Flit) : Prop := ∀ v, v < 6 → t.fld (F.lnkCreditHeld i v) =
  if v = f.crVc.toNat ∧ s.fld (F.lnkCreditHeld i v) ≠ 0xFFFF then min 0xFFFE (s.fld (F.lnkCreditHeld i v) + f.crCount.toNat)
  else s.fld (F.lnkCreditHeld i v)

/-- The keys of the credits held. -/
def creditKeys (i : Nat) : List Nat := (List.range 6).map fun v => (F.lnkCreditHeld i v).key

theorem creditKeys_bounds {i k : Nat} (h : k ∈ creditKeys i) : (0xe1040 + i * 0x800) * 32 ≤ k ∧ k < (0xe1058 + i * 0x800) * 32 := by
  obtain ⟨v, hv, rfl⟩ := List.mem_map.mp h
  have := List.mem_range.mp hv
  simp only [Fld.key, F.lnkCreditHeld]
  omega

theorem LinkSt.kept_sublist (l : LinkSt) (f : Flit) : (l.kept f).Sublist l.replay := afterSeq_sublist _ _

/-- A header that frees nothing leaves the link as it was. -/
theorem LinkSt.headed_eq_self {l : LinkSt} {f : Flit} (h : ¬ (l.kept f).length < l.replay.length) : l.headed f = l := by
  have hkept : l.kept f = l.replay := (l.kept_sublist f).eq_of_length_le (by omega)
  unfold LinkSt.headed LinkSt.left LinkSt.tried
  rw [if_neg h, if_neg h, hkept]

/-- From s to t the header of a flit has been taken on link i. -/
structure HeaderTaken (s t : State) (i : Nat) (f : Flit) : Prop where
  only : OnlyLink s t i
  link : t.link i = (s.link i).headed f
  credits : credited s t i f
  kept : fieldsKept s t (creditKeys i)

section
variable (s : State) (i : Nat) (f : Flit)

theorem lnkCreditHeld_key {i v w : Nat} : (F.lnkCreditHeld i v).key = (F.lnkCreditHeld i w).key ↔ v = w := by
  simp only [Fld.key, F.lnkCreditHeld]
  omega

/-- The credits of a header added to those held. -/
def State.creditIn : State :=
  if f.crVc.toNat < 6 ∧ s.heldCredit i f.crVc.toNat ≠ 0xFFFF then
    s.setFld (F.lnkCreditHeld i f.crVc.toNat) (min 0xFFFE (s.heldCredit i f.crVc.toNat + f.crCount.toNat))
  else s

theorem State.creditIn_spec : OnlyLink s (s.creditIn i f) i ∧ (s.creditIn i f).links = s.links ∧ credited s (s.creditIn i f) i f ∧
    fieldsKept s (s.creditIn i f) (creditKeys i) := by
  unfold State.creditIn
  split
  · next h =>
    refine ⟨(OnlyLink.refl s i).setFld _ _, rfl, fun v hv => ?_, (fieldsKept.refl s _).setFld ?_ _⟩
    · by_cases hvc : v = f.crVc.toNat
      · subst hvc
        rw [if_pos ⟨rfl, h.2⟩]
        refine (s.fld_setFld _ _).trans (Nat.mod_eq_of_lt ?_)
        exact Nat.lt_of_le_of_lt (Nat.min_le_left _ _) (show 0xFFFE < 2 ^ 16 by decide)
      · rw [if_neg fun hc => hvc hc.1]
        exact s.fld_setFld_ne (fun hkey => hvc (lnkCreditHeld_key.mp hkey)) _
    · exact List.mem_map.mpr ⟨_, List.mem_range.mpr h.1, rfl⟩
  · next h =>
    refine ⟨OnlyLink.refl s i, rfl, fun v hv => ?_, fieldsKept.refl s _⟩
    rw [if_neg]
    rintro ⟨rfl, hall⟩
    exact h ⟨hv, hall⟩

/-- The acknowledgement of a header frees the replay buffer. -/
def State.ackIn : State :=
  let l := s.link i
  if (l.kept f).length < l.replay.length then
    s.setLink i { l with
      replay := l.kept f, resends := 0,
      resend := l.resend.filter fun x => !(l.replay.any fun y => y.seq == x.seq) || (l.kept f).any fun y => y.seq == x.seq }
  else s

theorem State.headerIn_eq : s.headerIn i f = (s.creditIn i f).ackIn i f := rfl

theorem State.ackIn_spec : OnlyLink s (s.ackIn i f) i ∧ (s.ackIn i f).regs = s.regs ∧ (s.ackIn i f).link i = (s.link i).headed f := by
  unfold State.ackIn
  dsimp only
  split
  · next h =>
    refine ⟨(OnlyLink.refl s i).setLink _, rfl, ?_⟩
    rw [State.link_setLink]
    unfold LinkSt.headed LinkSt.left LinkSt.tried
    rw [if_pos h, if_pos h]
  · next h => exact ⟨OnlyLink.refl s i, rfl, (LinkSt.headed_eq_self h).symm⟩

theorem State.headerIn_taken : HeaderTaken s (s.headerIn i f) i f := by
  obtain ⟨honly, hlinks, hcredits, hkept⟩ := s.creditIn_spec i f
  obtain ⟨hack, hregs, hlink⟩ := (s.creditIn i f).ackIn_spec i f
  rw [State.link_congr hlinks] at hlink
  rw [State.headerIn_eq]
  exact ⟨honly.trans hack, hlink, fun v hv => (State.fld_congr hregs _).trans (hcredits v hv),
    fun g hg => (State.fld_congr hregs g).trans (hkept g hg)⟩

/-! ### Gaps (R386) -/

theorem State.askRetry_eq : s.askRetry i = s.setLink i { s.link i with
      gap := true, retryPending := (s.link i).retryPending || !(s.link i).gap } ∨
    (s.askRetry i = s ∧ (s.link i).gap = true) := by
  unfold State.askRetry
  dsimp only
  split
  · next h => exact .inr ⟨rfl, h⟩
  · next h =>
    refine .inl ?_
    rw [Bool.not_eq_true] at h
    simp [h]

/-- A RETRY becomes due once while a DATA flit is missing. -/
theorem State.askRetry_spec : OnlyLink s (s.askRetry i) i ∧ (s.askRetry i).regs = s.regs ∧
    (s.askRetry i).link i = { s.link i with gap := true, retryPending := (s.link i).retryPending || !(s.link i).gap } := by
  rcases s.askRetry_eq i with h | ⟨h, hgap⟩
  · rw [h]
    exact ⟨(OnlyLink.refl s i).setLink _, rfl, State.link_setLink _ _ _⟩
  · rw [h]
    refine ⟨OnlyLink.refl s i, rfl, ?_⟩
    rw [hgap, Bool.not_true, Bool.or_false, ← hgap]

/-- Whether a SEQ shows that a DATA flit before it is missing. -/
def LinkSt.misses (l : LinkSt) (seq : Nat) : Bool :=
  decide (0 < (seq + 4096 - l.rxSeq) % 4096 ∧ (seq + 4096 - l.rxSeq) % 4096 < 2048)

theorem State.seqShows_spec (seq : Nat) : OnlyLink s (s.seqShows i seq) i ∧ (s.seqShows i seq).regs = s.regs ∧
    (s.seqShows i seq).link i = { s.link i with
      gap := (s.link i).gap || (s.link i).misses seq,
      retryPending := (s.link i).retryPending || ((s.link i).misses seq && !(s.link i).gap) } := by
  unfold State.seqShows
  dsimp only
  split
  · next h =>
    have hmiss : (s.link i).misses seq = false := decide_eq_false (by omega)
    refine ⟨OnlyLink.refl s i, rfl, ?_⟩
    rw [hmiss, Bool.or_false, Bool.false_and, Bool.or_false]
  · next h =>
    have hmiss : (s.link i).misses seq = true := decide_eq_true (by omega)
    obtain ⟨honly, hregs, hlink⟩ := s.askRetry_spec i
    refine ⟨honly, hregs, ?_⟩
    rw [hlink, hmiss, Bool.or_true, Bool.true_and]

/-! ### The checks of a flit (R378, R386) -/

section
variable {s i f} {kind : Nat}

theorem State.flitIn_stands (hcrc : flitCrc f = f.crc.toNat) (hkind : f.kind.toNat = kind)
    (hepoch : f.epoch.toNat = s.fld (F.lnkEpoch i) % 16) : s.flitIn i f kind = (s.headerIn i f, true) := by
  unfold State.flitIn
  rw [if_neg (not_not.mpr hcrc), if_neg (not_not.mpr hkind), if_neg (not_not.mpr hepoch)]

theorem State.flitIn_broken (hcrc : flitCrc f ≠ f.crc.toNat) :
    s.flitIn i f kind = ((s.addFld (F.lnkCrcErr i) 1).askRetry i, false) := by
  unfold State.flitIn
  rw [if_pos hcrc]

theorem State.flitIn_other (hcrc : flitCrc f = f.crc.toNat)
    (h : f.kind.toNat ≠ kind ∨ ¬ f.epoch.toNat = s.fld (F.lnkEpoch i) % 16) : s.flitIn i f kind = (s, false) := by
  unfold State.flitIn
  rw [if_neg (not_not.mpr hcrc)]
  split
  · rfl
  · next hkind => rw [if_pos (h.resolve_left (not_not.mpr (not_not.mp hkind)))]

end

end

/-! ### The commands of a flit -/

section
variable {s : State} {link : LinkNo} {f : Flit}

/-- The commands that bring a flit, with the KIND each names. -/
def flitCommands (link : LinkNo) (f : Flit) : List (Nat × Instr) := [(0, .dataFlit link f), (1, .idleFlit link f), (2, .retry link f)]

theorem flit_illFormed (h : f.wf = false) {c : Instr} (hc : c ∈ [Instr.dataFlit link f, .idleFlit link f, .retry link f]) :
    exec c s = .fault .illFormed := by
  have hnot : ¬ f.wf = true := by rw [h]; decide
  simp only [List.mem_cons, List.not_mem_nil, or_false] at hc
  obtain rfl | rfl | rfl := hc
  · exact if_pos hnot
  · exact if_pos hnot
  · exact if_pos hnot

section
variable (hopen : s.linkOpen link.val = true) (hwf : f.wf = true)
include hopen hwf

/-- A flit that does not stand brings nothing further. -/
theorem flit_refused {c : Nat × Instr} (hc : c ∈ flitCommands link f) {u : State} (h : s.flitIn link.val f c.1 = (u, false)) :
    exec c.2 s = .next u := by
  have hidle := State.not_trickle_of_open hopen
  simp only [flitCommands, List.mem_cons, List.not_mem_nil, or_false] at hc
  obtain rfl | rfl | rfl := hc
  · show execDataFlit link f s = _
    unfold execDataFlit
    dsimp only at h ⊢
    rw [if_neg (not_not.mpr hwf), if_neg hidle, if_neg (not_not.mpr hopen), h]
    rfl
  · show execIdleFlit link f s = _
    unfold execIdleFlit
    dsimp only at h ⊢
    rw [if_neg (not_not.mpr hwf), if_neg hidle, if_neg (not_not.mpr hopen), h]
    rfl
  · show execRetry link f s = _
    unfold execRetry
    dsimp only at h ⊢
    rw [if_neg (not_not.mpr hwf), if_neg hidle, if_neg (not_not.mpr hopen), h]
    rfl

theorem idleFlit_stands (h : s.flitIn link.val f 1 = (s.headerIn link.val f, true)) :
    exec (.idleFlit link f) s = .next ((s.headerIn link.val f).seqShows link.val f.seq.toNat) := by
  show execIdleFlit link f s = _
  unfold execIdleFlit
  dsimp only
  rw [if_neg (not_not.mpr hwf), if_neg (State.not_trickle_of_open hopen), if_neg (not_not.mpr hopen), h]
  rfl

/-- A DATA flit out of its turn only shows what is missing. -/
theorem dataFlit_gap (h : s.flitIn link.val f 0 = (s.headerIn link.val f, true))
    (hseq : f.seq.toNat ≠ ((s.headerIn link.val f).link link.val).rxSeq) :
    exec (.dataFlit link f) s = .next (((s.headerIn link.val f).setLink link.val
      { (s.headerIn link.val f).link link.val with trickleSent := false }).seqShows link.val f.seq.toNat) := by
  show execDataFlit link f s = _
  unfold execDataFlit
  dsimp only
  rw [if_neg (not_not.mpr hwf), if_neg (State.not_trickle_of_open hopen), if_neg (not_not.mpr hopen), h, if_neg (by simp),
    if_pos hseq]

/-- The link once a DATA flit in its turn has been accepted. -/
def LinkSt.accepted (l : LinkSt) (f : Flit) : LinkSt :=
  { l.headed f with rxSeq := (l.rxSeq + 1) % 4096, gap := false, retryPending := false, trickleSent := false }

theorem dataFlit_next (h : s.flitIn link.val f 0 = (s.headerIn link.val f, true)) (hactive : s.linkState link.val = lkActive)
    (hseq : f.seq.toNat = (s.link link.val).rxSeq) : ∃ u, exec (.dataFlit link f) s =
      .next ((u.stir.content link.val f).unitWork) ∧ OnlyLink s u link.val ∧ u.link link.val = (s.link link.val).accepted f ∧
      u.regs = ((s.headerIn link.val f).addFld (F.lnkRxFlits link.val) 1).regs := by
  obtain ⟨honly, hlink, -, hkept⟩ := s.headerIn_taken link.val f
  obtain ⟨v, hv⟩ : ∃ v, v = s.headerIn link.val f := ⟨_, rfl⟩
  rw [← hv] at honly hlink hkept h ⊢
  let l := v.link link.val
  let x : LinkSt := { { l with trickleSent := false } with
    rxSeq := (l.rxSeq + 1) % 4096, gap := false, retryPending := false, trickleSent := false }
  obtain ⟨u, hu⟩ : ∃ u, u = ((v.setLink link.val { l with trickleSent := false }).setLink link.val x).addFld (F.lnkRxFlits link.val) 1 :=
    ⟨_, rfl⟩
  have hrx : l.rxSeq = (s.link link.val).rxSeq := by rw [show l = v.link link.val from rfl, hlink]; rfl
  have huregs : u.regs = (v.addFld (F.lnkRxFlits link.val) 1).regs := by rw [hu]; rfl
  have hustate : (u.linkState link.val == lkReconfig) = false := by
    have hkeep : u.linkState link.val = s.linkState link.val := by
      refine (State.fld_congr huregs _).trans ((v.fld_addFld_ne ?_ 1).trans (hkept _ fun hmem => ?_))
      · simp only [ne_eq, Fld.key, F.lnkStatusState, F.lnkRxFlits]
        omega
      · have := creditKeys_bounds hmem
        simp only [Fld.key, F.lnkStatusState] at this
        omega
    rw [hkeep, hactive]
    rfl
  refine ⟨u, ?_, ?_, ?_, huregs⟩
  · show execDataFlit link f s = _
    unfold execDataFlit
    dsimp only
    rw [if_neg (not_not.mpr hwf), if_neg (State.not_trickle_of_open hopen), if_neg (not_not.mpr hopen), h]
    dsimp only
    rw [if_neg (by simp), if_neg (not_not.mpr (hseq.trans hrx.symm)), ← hu, hustate]
  · rw [hu]
    exact ((honly.setLink _).setLink _).addFld _ 1
  · rw [hu, State.link_congr (State.addFld_links _ _ _), State.link_setLink]
    exact congrArg (fun l : LinkSt => { l with
      rxSeq := (l.rxSeq + 1) % 4096, gap := false, retryPending := false, trickleSent := false }) hlink

end

end

end Sys2Proof.Machine
end

section
/-! Flits that arrive, command by command (R378, R382 to R389). It settles O54. -/

namespace Sys2Proof.Machine

/-! ### The content of a DATA flit (R379, R381, R391) -/

section
variable {s : State} {i : Nat}

/-- Bytes that are no whole packet wait for the rest of it. -/
theorem State.unpack_waits {vc fuel : Nat} {b : List Byte}
    (h : b.length < 16 ∨ b.length < 16 + (leAt b 2 2 + 15) / 16 * 16) : s.unpack i vc (fuel + 1) b = s.setLink i { s.link i with
      rxPart := if b.isEmpty then tdel (s.link i).rxPart vc else tins (s.link i).rxPart vc b } := by
  rw [State.unpack]
  dsimp only
  rw [if_pos h]

theorem State.unpack_whole {vc fuel : Nat} {b : List Byte} (h16 : 16 ≤ b.length)
    (h : b.length = 16 + (leAt b 2 2 + 15) / 16 * 16) :
    s.unpack i vc (fuel + 1) b = (s.deliverPacket i vc b).unpack i vc fuel [] := by
  rw [State.unpack]
  dsimp only
  rw [if_neg (by omega), ← h, List.take_length, List.drop_length]

theorem tfind_rest {m : List (Nat × List Byte)} {vc : Nat} {b : List Byte} :
    (tfind (if b.isEmpty then tdel m vc else tins m vc b) vc).getD [] = b := by
  split
  · next h => rw [tfind_tdel_self, List.isEmpty_iff.mp h]; rfl
  · rw [tfind_tins_self]; rfl

/-- A whole READ of a register space is counted and answered AUTH_FAIL, its credit due. -/
theorem State.deliverPacket_register {b : List Byte} (hty : leAt b 0 1 = 3)
    (hspace : addrSpace (linkPacketOf b).address.toNat = 4) : s.deliverPacket i 1 b =
      ((s.owe i 1 1).addFld F.fltRemoteRegReject 1).statusOn i (linkPacketOf b).tag.toNat stAuthFail := by
  have hreject : (s.owe i 1 1).linkReject (linkPacketOf b).address.toNat (linkPacketOf b).length =
      some ((s.owe i 1 1).addFld F.fltRemoteRegReject 1, stAuthFail) := by
    unfold State.linkReject
    rw [if_pos hspace]
  have hnote : ((s.owe i 1 1).addFld F.fltRemoteRegReject 1).noteReject (linkPacketOf b).address.toNat =
      (s.owe i 1 1).addFld F.fltRemoteRegReject 1 := by
    unfold State.noteReject
    rw [if_neg (by rw [hspace]; simp)]
  unfold State.deliverPacket
  dsimp only
  rw [if_neg (by simp), if_neg (by simp), if_pos ⟨rfl, hty⟩]
  unfold State.serveRead
  dsimp only
  rw [hreject]
  dsimp only
  rw [hnote]

/-- A READ of a register space that is all a VC holds leaves nothing of it. -/
theorem State.unpack_register {fuel : Nat} {b : List Byte} (hup : s.linkUp i = true) (h16 : 16 ≤ b.length)
    (hwhole : b.length = 16 + (leAt b 2 2 + 15) / 16 * 16) (hty : leAt b 0 1 = 3)
    (hspace : addrSpace (linkPacketOf b).address.toNat = 4) :
    OnlyLink s (s.unpack i 1 (fuel + 2) b) i ∧ (s.unpack i 1 (fuel + 2) b).regs = (s.addFld F.fltRemoteRegReject 1).regs ∧
      (s.unpack i 1 (fuel + 2) b).link i = { s.link i with
        txq := (s.link i).txq ++ [(2, .status (linkPacketOf b).tag.toNat stAuthFail)],
        creditDue := tmod 0 (s.link i).creditDue 1 (· + 1), rxPart := tdel (s.link i).rxPart 1 } := by
  obtain ⟨u, hu⟩ : ∃ u, u = (s.owe i 1 1).addFld F.fltRemoteRegReject 1 := ⟨_, rfl⟩
  have huregs : u.regs = (s.addFld F.fltRemoteRegReject 1).regs := by rw [hu]; rfl
  have hulink : u.link i = { s.link i with creditDue := tmod 0 (s.link i).creditDue 1 (· + 1) } := by
    rw [hu, State.link_congr (State.addFld_links _ _ _), State.owe, State.link_setLink]
  have hstate : u.linkState i = s.linkState i := (State.fld_congr huregs _).trans
    (s.fld_addFld_ne (by simp only [ne_eq, Fld.key, F.lnkStatusState, F.fltRemoteRegReject]; omega) 1)
  have huup : u.linkUp i = true := by
    rw [← hup, State.linkUp, State.linkUp, hstate]
  have honly : OnlyLink s u i := hu ▸ ((OnlyLink.refl s i).setLink _).addFld _ 1
  rw [State.unpack_whole h16 hwhole, State.deliverPacket_register hty hspace, ← hu, State.statusOn, State.sendOn_up huup,
    State.unpack_waits (Or.inl (by simp))]
  refine ⟨(honly.setLink _).setLink _, huregs, ?_⟩
  rw [State.link_setLink, State.link_setLink, hulink]
  rfl

theorem tget_eq_tfind {α : Type} (d : α) (m : List (Nat × α)) (k : Nat) : tget d m k = (tfind m k).getD d := by
  induction m with
  | nil => rfl
  | cons x m ih =>
    unfold tget tfind
    split
    · rfl
    · exact ih

/-- One credit more is due. -/
theorem due_owed (m : List (Nat × Nat)) (vc : Nat) :
    (tfind (tmod 0 m vc (· + 1)) vc).getD 0 = (tfind m vc).getD 0 + 1 := by
  rw [← tget_eq_tfind, ← tget_eq_tfind]
  exact tget_tset_self 0 m vc _

end

/-! ### A DATA flit in its turn (R385, R386) -/

section
variable {s : State} {link : LinkNo} {f : Flit}

/-- What an accepted DATA flit does whatever it carries. -/
structure DataTaken (s t : State) (i : Nat) (f : Flit) : Prop where
  rxSeq : (t.link i).rxSeq = ((s.link i).rxSeq + 1) % 4096
  gap : (t.link i).gap = false
  retryPending : (t.link i).retryPending = false
  replay : (t.link i).replay = (s.link i).kept f
  resend : (t.link i).resend = (s.link i).left f
  credits : credited s t i f
  count : t.fld (F.lnkRxFlits i) = (s.fld (F.lnkRxFlits i) + 1) % 2 ^ 64
  mem : t.mem = s.mem
  cores : t.cores = s.cores

theorem rxFlits_apart (i v : Nat) : (F.lnkCreditHeld i v).key ≠ (F.lnkRxFlits i).key ∨ 6 ≤ v := by
  simp only [ne_eq, Fld.key, F.lnkCreditHeld, F.lnkRxFlits]
  omega

/-- An accepted flit taken, its content still to come. -/
theorem dataFlit_taken (hopen : s.linkOpen link.val = true) (hwf : f.wf = true) (hcrc : flitCrc f = f.crc.toNat)
    (hepoch : f.epoch.toNat = s.fld (F.lnkEpoch link.val) % 16) (hkind : f.kind = 0) (hactive : s.linkState link.val = lkActive)
    (hdie : s.fld F.pwrDieStatusState ≠ 1) (hseq : f.seq.toNat = (s.link link.val).rxSeq) :
    ∃ u, exec (.dataFlit link f) s = .next ((u.content link.val f).unitWork) ∧ OnlyLink s u link.val ∧
      u.link link.val = (s.link link.val).accepted f ∧ DataTaken s u link.val f ∧
      fieldsKept s u ((F.lnkRxFlits link.val).key :: creditKeys link.val) := by
  have hflit := State.flitIn_stands (s := s) (i := link.val) (kind := 0) hcrc (by rw [hkind]; rfl) hepoch
  obtain ⟨u, hexec, honly, hlink, hregs⟩ := dataFlit_next hopen hwf hflit hactive hseq
  obtain ⟨-, -, hcredits, hkept⟩ := s.headerIn_taken link.val f
  have hfields : fieldsKept s u ((F.lnkRxFlits link.val).key :: creditKeys link.val) := by
    intro g hg
    rw [List.mem_cons, not_or] at hg
    rw [State.fld_congr hregs, State.fld_addFld_ne _ hg.1, hkept g hg.2]
  have hstir : u.stir = u := by
    refine State.stir_eq_self ?_
    rw [hfields _ ?_]
    · exact hdie
    · rw [List.mem_cons, not_or]
      refine ⟨?_, fun hmem => ?_⟩
      · simp only [Fld.key, F.pwrDieStatusState, F.lnkRxFlits]
        omega
      · have := creditKeys_bounds hmem
        simp only [Fld.key, F.pwrDieStatusState] at this
        omega
  rw [hstir] at hexec
  refine ⟨u, hexec, honly, hlink, ⟨?_, ?_, ?_, ?_, ?_, fun v hv => ?_, ?_, honly.mem, honly.cores⟩, hfields⟩
  · rw [hlink]; rfl
  · rw [hlink]; rfl
  · rw [hlink]; rfl
  · rw [hlink]; rfl
  · rw [hlink]; rfl
  · rw [State.fld_congr hregs, State.fld_addFld_ne _ ((rxFlits_apart link.val v).resolve_right (by omega))]
    exact hcredits v hv
  · have hrx : (F.lnkRxFlits link.val).key ∉ creditKeys link.val := fun hmem => by
      have := creditKeys_bounds hmem
      simp only [Fld.key, F.lnkRxFlits] at this
      omega
    rw [State.fld_congr hregs, State.fld_addFld, hkept _ hrx]
    rfl

theorem DataTaken.of_fields {u t : State} {i : Nat} (h : DataTaken s u i f) (hmem : t.mem = u.mem) (hcores : t.cores = u.cores)
    (hlink : ∃ txq due part, t.link i = { u.link i with txq, creditDue := due, rxPart := part })
    (hfields : ∀ g : Fld, g.key ≠ F.fltRemoteRegReject.key → t.fld g = u.fld g) : DataTaken s t i f := by
  obtain ⟨txq, due, part, hlink⟩ := hlink
  obtain ⟨hrx, hgap, hretry, hreplay, hresend, hcredits, hcount, hm, hc⟩ := h
  refine ⟨?_, ?_, ?_, ?_, ?_, fun v hv => (hfields _ ?_).trans (hcredits v hv), (hfields _ ?_).trans hcount, hmem.trans hm, hcores.trans hc⟩
  · rw [hlink]; exact hrx
  · rw [hlink]; exact hgap
  · rw [hlink]; exact hretry
  · rw [hlink]; exact hreplay
  · rw [hlink]; exact hresend
  · simp only [ne_eq, Fld.key, F.lnkCreditHeld, F.fltRemoteRegReject]
    omega
  · simp only [ne_eq, Fld.key, F.lnkRxFlits, F.fltRemoteRegReject]
    omega

/-! ### Content -/

theorem State.content_packet {i : Nat} {u : State} (hvc : f.vc.toNat < 4) : u.content i f =
    u.unpack i f.vc.toNat 17 ((tfind (u.link i).rxPart f.vc.toNat).getD [] ++ (f.slots.flatMap fun x => x).take (16 * f.used.toNat)) := by
  unfold State.content
  dsimp only
  rw [if_neg (by omega), if_pos hvc]

theorem State.content_illegal {i : Nat} {u : State} (hvc : 4 < f.vc.toNat) : u.content i f = u := by
  unfold State.content
  dsimp only
  rw [if_neg (by omega), if_neg (by omega)]

end

/-! ### A flit that shows a gap, and IDLE (R386) -/

section
variable {s : State} {link : LinkNo} {f : Flit}

/-- A flit that only shows what is missing. -/
structure GapShown (s t : State) (i : Nat) (f : Flit) : Prop where
  only : OnlyLink s t i
  credits : credited s t i f
  kept : fieldsKept s t (creditKeys i)
  link : ∃ trickle, t.link i = { (s.link i).headed f with
    trickleSent := trickle, gap := (s.link i).gap || (s.link i).misses f.seq.toNat,
    retryPending := (s.link i).retryPending || ((s.link i).misses f.seq.toNat && !(s.link i).gap) }

theorem HeaderTaken.seqShows {u : State} {i : Nat} (h : HeaderTaken s u i f) : GapShown s (u.seqShows i f.seq.toNat) i f := by
  obtain ⟨honly, hregs, hlink⟩ := u.seqShows_spec i f.seq.toNat
  rw [h.link] at hlink
  exact ⟨h.only.trans honly, fun v hv => (State.fld_congr hregs _).trans (h.credits v hv),
    fun g hg => (State.fld_congr hregs g).trans (h.kept g hg), _, hlink⟩

/-- A flit out of its turn, or an IDLE flit. -/
theorem flit_shows (hopen : s.linkOpen link.val = true) (hwf : f.wf = true) (hcrc : flitCrc f = f.crc.toNat)
    (hepoch : f.epoch.toNat = s.fld (F.lnkEpoch link.val) % 16)
    (h : (f.kind = 0 ∧ f.seq.toNat ≠ (s.link link.val).rxSeq) ∨ f.kind = 1) :
    Answers (if f.kind = 0 then .dataFlit link f else .idleFlit link f) s fun t => GapShown s t link.val f := by
  have htaken := s.headerIn_taken link.val f
  rcases h with ⟨hkind, hseq⟩ | hkind
  · have hflit := State.flitIn_stands (s := s) (i := link.val) (kind := 0) hcrc (by rw [hkind]; rfl) hepoch
    rw [if_pos hkind]
    refine ⟨_, dataFlit_gap hopen hwf hflit (by rw [htaken.link]; exact hseq), ?_⟩
    obtain ⟨u, hu⟩ : ∃ u, u = (s.headerIn link.val f).setLink link.val
      { (s.headerIn link.val f).link link.val with trickleSent := false } := ⟨_, rfl⟩
    obtain ⟨honly, hregs, hlink⟩ := u.seqShows_spec link.val f.seq.toNat
    have huregs : u.regs = (s.headerIn link.val f).regs := by rw [hu]; rfl
    have hulink : u.link link.val = { (s.link link.val).headed f with trickleSent := false } := by
      rw [hu, State.link_setLink, htaken.link]
    rw [hulink] at hlink
    rw [← hu]
    refine ⟨OnlyLink.trans ?_ honly, fun v hv => ?_, fun g hg => ?_, false, hlink⟩
    · rw [hu]
      exact htaken.only.setLink _
    · rw [State.fld_congr hregs, State.fld_congr huregs]
      exact htaken.credits v hv
    · rw [State.fld_congr hregs, State.fld_congr huregs, htaken.kept g hg]
  · have hflit := State.flitIn_stands (s := s) (i := link.val) (kind := 1) hcrc (by rw [hkind]; rfl) hepoch
    rw [if_neg (by rw [hkind]; decide)]
    exact ⟨_, idleFlit_stands hopen hwf hflit, htaken.seqShows⟩

/-! ### RETRY (R387, R389) -/

/-- The flits that have not gone out since the last training are those that were not before the header. -/
theorem LinkSt.unsent_headed (l : LinkSt) (f : Flit) :
    ((l.left f).filter fun x => !(l.kept f).any fun y => y.seq == x.seq) = l.resend.filter fun x => !l.replay.any fun y => y.seq == x.seq := by
  unfold LinkSt.left
  split
  · rw [List.filter_filter]
    refine List.filter_congr fun x _ => ?_
    have hsub : ((l.kept f).any fun y => y.seq == x.seq) = true → (l.replay.any fun y => y.seq == x.seq) = true := by
      rw [List.any_eq_true, List.any_eq_true]
      rintro ⟨y, hy, hseq⟩
      exact ⟨y, (l.kept_sublist f).subset hy, hseq⟩
    cases hk : (l.kept f).any fun y => y.seq == x.seq
    · simp
    · simp [hsub hk]
  · next h => rw [(l.kept_sublist f).eq_of_length_le (by omega)]

/-- A RETRY that arrived: its time noted, what it shows noted, its count made. -/
structure RetryTaken (s t : State) (i : Nat) (f : Flit) : Prop where
  only : OnlyLink s t i
  credits : credited s t i f
  kept : fieldsKept s t ((F.lnkRetry i).key :: creditKeys i)
  count : t.fld (F.lnkRetry i) = (s.fld (F.lnkRetry i) + 1) % 2 ^ 32
  link : ∃ trickleSent gap pending, t.link i = { (s.link i).headed f with
    trickleSent, gap, retryPending := pending,
    retryTimes := ((s.link i).retryTimes.filter fun t => decide (s.time < t + 1000)) ++ [s.time] }

theorem retry_taken (hopen : s.linkOpen link.val = true) (hwf : f.wf = true) (hcrc : flitCrc f = f.crc.toNat)
    (hepoch : f.epoch.toNat = s.fld (F.lnkEpoch link.val) % 16) (hkind : f.kind = 2) :
    ∃ u, RetryTaken s u link.val f ∧ exec (.retry link f) s = .next (
      if 256 ≤ (u.link link.val).retryTimes.length then u.escalate link.val 0x0A
      else if (u.link link.val).replay.isEmpty then u
      else if 8 ≤ (u.link link.val).resends then u.escalate link.val 0x09
      else u.setLink link.val { u.link link.val with
        resend := (u.link link.val).replay ++ (u.link link.val).unsent, resends := (u.link link.val).resends + 1 }) := by
  have hflit := State.flitIn_stands (s := s) (i := link.val) (kind := 2) hcrc (by rw [hkind]; rfl) hepoch
  obtain ⟨honly, hcredits, hkept, trickle, hlink⟩ := (s.headerIn_taken link.val f).seqShows
  obtain ⟨v, hv⟩ : ∃ v, v = ((s.headerIn link.val f).seqShows link.val f.seq.toNat).addFld (F.lnkRetry link.val) 1 := ⟨_, rfl⟩
  have hvonly : OnlyLink s v link.val := hv ▸ honly.addFld _ 1
  have hvlink := (State.link_congr (State.addFld_links _ (F.lnkRetry link.val) 1) link.val).trans hlink
  rw [← hv] at hvlink
  have hretry : (F.lnkRetry link.val).key ∉ creditKeys link.val := fun hmem => by
    have := creditKeys_bounds hmem
    simp only [Fld.key, F.lnkRetry] at this
    omega
  let times := ((v.link link.val).retryTimes.filter fun t => decide (v.time < t + 1000)) ++ [v.time]
  have htimes : times = ((s.link link.val).retryTimes.filter fun t => decide (s.time < t + 1000)) ++ [s.time] := by
    show ((v.link link.val).retryTimes.filter fun t => decide (v.time < t + 1000)) ++ [v.time] = _
    rw [hvonly.time, hvlink]
    rfl
  obtain ⟨u, hu⟩ : ∃ u, u = v.setLink link.val { v.link link.val with retryTimes := times } := ⟨_, rfl⟩
  have hulink : u.link link.val = { v.link link.val with retryTimes := times } := by rw [hu, State.link_setLink]
  let gap := (s.link link.val).gap || (s.link link.val).misses f.seq.toNat
  let pending := (s.link link.val).retryPending || ((s.link link.val).misses f.seq.toNat && !(s.link link.val).gap)
  refine ⟨u, ⟨hu ▸ hvonly.setLink _, fun x hx => ?_, fun g hg => ?_, ?_, trickle, gap, pending, ?_⟩, ?_⟩
  · have hapart : (F.lnkCreditHeld link.val x).key ≠ (F.lnkRetry link.val).key := by
      simp only [ne_eq, Fld.key, F.lnkCreditHeld, F.lnkRetry]
      omega
    rw [hu, State.fld_setLink, hv, State.fld_addFld_ne _ hapart]
    exact hcredits x hx
  · rw [List.mem_cons, not_or] at hg
    rw [hu, State.fld_setLink, hv, State.fld_addFld_ne _ hg.1, hkept g hg.2]
  · rw [hu, State.fld_setLink, hv, State.fld_addFld, hkept _ hretry]
    rfl
  · rw [hulink, htimes, hvlink]
  · show execRetry link f s = _
    unfold execRetry
    dsimp only
    rw [if_neg (not_not.mpr hwf), if_neg (State.not_trickle_of_open hopen), if_neg (not_not.mpr hopen), hflit]
    dsimp only
    rw [if_neg (by simp), ← hv, hulink, hu]
    rfl

end

/-- Settles O54: what does not stand brings nothing, a DATA flit in its turn brings its content, a gap asks for a RETRY, and a
RETRY sends the unacknowledged flits again (R378, R382, R385 to R389). -/
theorem flitsArrive : Obligations.FlitsArrive := by
  unfold Obligations.FlitsArrive
  intro s link f i l ok same credits others isCredited ahead asked kept left
  have hothers : ∀ {t : State}, OnlyLink s t i → others t := fun h => ⟨h.mem, h.links, h.same⟩
  refine ⟨fun hwf c hc => flit_illFormed hwf hc, fun hopen hwf => ⟨fun c hc => ⟨fun hcrc => ?_, fun hcrc hwrong => ?_⟩, ?_, ?_, ?_⟩,
    fun hopen => ?_, fun hopen => ?_⟩
  · obtain ⟨honly, hregs, hlink⟩ := (s.addFld (F.lnkCrcErr i) 1).askRetry_spec i
    refine ⟨_, flit_refused hopen hwf hc (State.flitIn_broken hcrc), hothers (((OnlyLink.refl s i).addFld _ 1).trans honly), fun g hg => ?_, ?_, ?_⟩
    · rw [State.fld_congr hregs, State.fld_addFld_ne _ (by simpa using hg)]
    · rw [State.fld_congr hregs, State.fld_addFld]
      rfl
    · rw [hlink, State.link_congr (State.addFld_links _ _ _)]
  · exact flit_refused hopen hwf hc (State.flitIn_other hcrc hwrong)
  · intro hcrc hepoch hkind hactive hdie hbops hseq vc b n taken
    obtain ⟨u, hexec, honly, hlink, htaken, hfields⟩ := dataFlit_taken hopen hwf hcrc hepoch hkind hactive hdie hseq
    have htakes : ∀ {t : State}, DataTaken s t i f → taken t :=
      fun ⟨hrx, hgap, hretry, hreplay, hresend, hcredits, hcount, hmem, hcores⟩ =>
        ⟨hrx, hgap, hretry, hreplay, hresend, hcredits, hcount, hmem, hcores⟩
    have hpart : (u.link i).rxPart = l.rxPart := by rw [hlink]; rfl
    have hubops : u.bops = [] := honly.bops.trans hbops
    refine ⟨fun hvc hshort => ?_, fun hvc hwhole hty hup hspace => ?_, fun hvc => ?_⟩
    · obtain ⟨t, ht⟩ : ∃ t, t = u.setLink i { u.link i with
        rxPart := if b.isEmpty then tdel l.rxPart vc else tins l.rxPart vc b } := ⟨_, rfl⟩
      have hcontent : u.content i f = t := by
        rw [State.content_packet hvc, hpart, State.unpack_waits hshort, ht, hpart]
      rw [hcontent, State.unitWork_eq_self (by rw [ht]; exact hubops)] at hexec
      have htlink : t.link i = { u.link i with rxPart := if b.isEmpty then tdel l.rxPart vc else tins l.rxPart vc b } := by
        rw [ht, State.link_setLink]
      refine ⟨t, hexec, htakes (htaken.of_fields (by rw [ht]; rfl) (by rw [ht]; rfl) ⟨_, _, _, htlink⟩ fun g _ => by rw [ht]; rfl),
        hothers (ht ▸ honly.setLink _), ?_, ht ▸ hfields.setLink i _⟩
      rw [htlink]
      exact tfind_rest
    · have hvc' : f.vc.toNat = 1 := hvc
      have huup : u.linkUp i = true := by
        have hstate : u.linkState i = s.linkState i := hfields _ fun hmem => by
          rcases List.mem_cons.mp hmem with hmem | hmem
          · simp only [Fld.key, F.lnkStatusState, F.lnkRxFlits] at hmem
            omega
          · have := creditKeys_bounds hmem
            simp only [Fld.key, F.lnkStatusState] at this
            omega
        rw [← hup, State.linkUp, State.linkUp, hstate]
      obtain ⟨t, ht⟩ : ∃ t, t = u.content i f := ⟨_, rfl⟩
      have hcontent : t = u.unpack i 1 17 b := by
        rw [ht, State.content_packet (by omega), hpart]
        exact congrArg (u.unpack i · 17 b) hvc'
      obtain ⟨htonly, htregs, htlink⟩ := State.unpack_register (fuel := 15) huup (by omega) hwhole hty hspace
      rw [← hcontent] at htonly htregs htlink
      rw [← ht, State.unitWork_eq_self (htonly.bops.trans hubops)] at hexec
      refine ⟨t, hexec, htakes (htaken.of_fields htonly.mem htonly.cores ⟨_, _, _, htlink⟩ fun g hg => ?_), ?_, ?_, ?_, ?_⟩
      · rw [State.fld_congr htregs, State.fld_addFld_ne _ hg]
      · rw [htlink, hvc]
        exact tfind_tdel_self _ 1
      · rw [htlink, hlink]
        rfl
      · rw [htlink, hlink]
        exact due_owed _ 1
      · rw [State.fld_congr htregs, State.fld_addFld, hfields _ fun hmem => ?_]
        · rfl
        · rcases List.mem_cons.mp hmem with hmem | hmem
          · simp only [Fld.key, F.fltRemoteRegReject, F.lnkRxFlits] at hmem
            omega
          · have := creditKeys_bounds hmem
            simp only [Fld.key, F.fltRemoteRegReject] at this
            omega
    · rw [State.content_illegal hvc, State.unitWork_eq_self hubops] at hexec
      exact ⟨u, hexec, htakes htaken, hothers honly, hpart, hfields⟩
  · intro hcrc hepoch hwhich
    refine (flit_shows hopen hwf hcrc hepoch hwhich).imp fun t ⟨honly, hcredits, hkept, trickle, hlink⟩ => ?_
    refine ⟨hothers honly, hcredits, ?_, ?_, ?_, ?_, ?_, ?_, ?_, hkept⟩
    · rw [hlink]; rfl
    · rw [hlink]; rfl
    · rw [hlink]; rfl
    · rw [hlink]; rfl
    · rw [hlink]; rfl
    · rw [hlink]; rfl
    · rw [hlink]; rfl
  · intro hcrc hepoch hkind times tries trains
    obtain ⟨u, ⟨honly, hcredits, hkept, hcount, trickle, gap, pending, hlink⟩, hexec⟩ := retry_taken hopen hwf hcrc hepoch hkind
    have htimes : (u.link i).retryTimes.length = times := by
      rw [hlink, List.length_append]
      rfl
    have hreplay : (u.link i).replay = kept := by rw [hlink]; rfl
    have hresends : (u.link i).resends = tries := by rw [hlink]; rfl
    have htrains : ∀ reason : Nat, reason < 2 ^ 8 → trains (u.escalate i reason) reason := by
      intro reason hreason
      obtain ⟨⟨hwork, hstate, hleaving, hescalate⟩, hr, hin⟩ := u.escalate_escalated i reason
      have hapart : ∀ g ∈ [F.lnkStatusState i, F.lnkEscalate i], u.fld g = s.fld g := by
        intro g hg
        refine hkept g fun hmem => ?_
        simp only [List.mem_cons, List.not_mem_nil, or_false] at hg
        rw [List.mem_cons] at hmem
        obtain hmem | hmem := hmem
        · obtain rfl | rfl := hg <;>
          · simp only [Fld.key, F.lnkStatusState, F.lnkEscalate, F.lnkRetry] at hmem
            omega
        · have := creditKeys_bounds hmem
          obtain rfl | rfl := hg <;>
          · simp only [Fld.key, F.lnkStatusState, F.lnkEscalate] at this
            omega
      refine ⟨hstate, by rw [hleaving]; rfl, ?_, hr.trans (Nat.mod_eq_of_lt hreason), ?_, ?_, hwork.mem.trans honly.mem,
        hwork.cores.trans honly.cores, hwork.log.trans honly.log⟩
      · rw [hleaving]
        exact hreplay
      · rw [hin, State.linkState, hapart _ (by simp)]
        rfl
      · rw [hescalate, hapart _ (by simp)]
    rw [htimes, hreplay, hresends] at hexec
    refine ⟨fun hfew hsome hlow => ?_, fun hmany => ?_, fun hfew hsome hhigh => ?_⟩
    · rw [if_neg (by omega), if_neg (by simpa using hsome), if_neg (by omega)] at hexec
      have hunsent : (u.link i).unsent = l.resend.filter fun x => !l.replay.any fun y => y.seq == x.seq := by
        rw [← l.unsent_headed f, hlink]
        rfl
      refine ⟨_, hexec, hothers (honly.setLink _), hcredits, ?_, ?_, ?_, hcount, hkept.setLink i _⟩
      · rw [State.link_setLink]
        exact hreplay
      · rw [State.link_setLink]
      · rw [State.link_setLink, hunsent]
    · rw [if_pos hmany] at hexec
      exact ⟨_, hexec, htrains 0x0A (by decide)⟩
    · rw [if_neg (by omega), if_neg (by simpa using hsome), if_pos hhigh] at hexec
      exact ⟨_, hexec, htrains 0x09 (by decide)⟩
  · refine ⟨_, rfl, ?_⟩
    by_cases hgap : l.gap = true
    · rw [if_pos hgap, if_pos ⟨hopen, hgap⟩]
    · rw [if_neg hgap, if_neg fun h => hgap h.2]
  · refine congrArg Host.Outcome.next (if_neg ?_)
    rw [hopen]
    simp

end Sys2Proof.Machine
end

section
/-! A core's power transition ends (R475 to R486, R494). The last section has what fences a core that did not wake (R568).
The first step of O46. -/

namespace Sys2Proof.Machine

/-! ### The logical number of a physical core (R57) -/

theorem State.logical_of_phys {s : State} {l c : Nat} (h : s.phys l = some c) : s.logical c = some l := by
  have hmem := mem_bitsOf.mp (List.mem_of_getElem? h)
  obtain ⟨hlt, hget⟩ := List.getElem?_eq_some_iff.mp h
  have hnodup : (bitsOf 96 s.coreMap).Nodup := List.nodup_range.filter _
  unfold State.logical
  rw [if_pos hmem.2, ← hget, hnodup.idxOf_getElem l hlt]

/-- A sorted table lists a key once. -/
theorem tget_of_mem {α : Type} (d : α) {m : List (Nat × α)} (h : tsorted m = true) {x : Nat × α} (hx : x ∈ m) : tget d m x.1 = x.2 := by
  induction m with
  | nil => cases hx
  | cons e m ih =>
    obtain ⟨k, v⟩ := e
    obtain ⟨hrest, hsorted⟩ := (tsorted_cons k v m).mp h
    rcases List.mem_cons.mp hx with rfl | hx
    · exact if_pos rfl
    · have hlt := hrest x hx
      rw [tget, if_neg (by omega)]
      exact ih hsorted hx

/-! ### What a transition touches -/

section
variable {s t : State} {c l : Nat} {keys : List Nat}

/-- t follows s by work on core c that leaves its request and its wakes alone: register fields of the cores' blocks and of the listed
keys have changed, and no other core has. -/
structure CoreMoved (s t : State) (c : Nat) (keys : List Nat) : Prop where
  session : t.session = s.session
  bops : t.bops = s.bops
  sorted : tsorted s.cores = true → tsorted t.cores = true
  others : ∀ x ∈ t.cores, x.1 ≠ c → x ∈ s.cores
  request : (t.core c).powerOp = (s.core c).powerOp
  wake : (t.core c).wakeAfter = (s.core c).wakeAfter
  fields : ∀ g : Fld, g.key < 2 ^ 27 → g.key ∉ keys → t.fld g = s.fld g

theorem CoreMoved.refl (s : State) (c : Nat) (keys : List Nat) : CoreMoved s s c keys :=
  ⟨rfl, rfl, id, fun _ hx _ => hx, rfl, rfl, fun _ _ _ => rfl⟩

theorem CoreMoved.setFld (h : CoreMoved s t c keys) {f : Fld} (hf : 2 ^ 27 ≤ f.key ∨ f.key ∈ keys) (v : Nat) :
    CoreMoved s (t.setFld f v) c keys := by
  refine ⟨h.session, h.bops, h.sorted, h.others, h.request, h.wake, fun g hg hstate => ?_⟩
  rw [State.fld_setFld_ne _ fun he => ?_, h.fields g hg hstate]
  rcases hf with hf | hf
  · omega
  · exact hstate (he ▸ hf)

theorem CoreMoved.setCore (h : CoreMoved s t c keys) {x : CoreSt} (hrequest : x.powerOp = (t.core c).powerOp)
    (hwake : x.wakeAfter = (t.core c).wakeAfter) : CoreMoved s (t.setCore c x) c keys := by
  refine ⟨h.session, h.bops, fun hs => tset_sorted (h.sorted hs) _ _ _, fun y hy hne => ?_, ?_, ?_, h.fields⟩
  · rcases mem_tset hy with ⟨rfl, -⟩ | hy
    · exact absurd rfl hne
    · exact h.others y hy hne
  · rw [State.core_setCore, hrequest, h.request]
  · rw [State.core_setCore, hwake, h.wake]

theorem CoreMoved.drew (h : CoreMoved s t c keys) : CoreMoved s t.drew c keys :=
  ⟨h.session, h.bops, h.sorted, h.others, h.request, h.wake, h.fields⟩

theorem CoreMoved.sbClear (h : CoreMoved s t c keys) : CoreMoved s (t.sbClear c) c keys := by
  refine List.foldlRecOn (motive := (CoreMoved s · c keys)) _ _ h fun u hu i _ => ?_
  unfold State.sbRelease
  refine CoreMoved.setFld (CoreMoved.setCore hu ?_ ?_) (.inl ?_) 0
  · rfl
  · rfl
  · simp only [Fld.key, F.spdSbAValid]
    omega

/-- Banks that lose their contents. -/
theorem CoreMoved.loseBanks (h : CoreMoved s t c keys) (x : Nat) : CoreMoved s (t.loseBanks c x) c keys := by
  unfold State.loseBanks
  extract_lets keep
  refine List.foldlRecOn (motive := (CoreMoved s · c keys)) _ _ h fun u hu b _ => ?_
  split
  · exact hu
  · exact ⟨hu.session, hu.bops, hu.sorted, hu.others, hu.request, hu.wake, hu.fields⟩

/-- The core's own fields stand in its block. -/
theorem corFields_addr (p : Nat) : ∀ f ∈ corFields p, 2 ^ 22 ≤ f.addr := by
  have hshift : (corFields p).map Fld.addr = ((corFields 0).map Fld.addr).map (· + p * 0x10000) := rfl
  have hbase : ∀ a ∈ (corFields 0).map Fld.addr, 2 ^ 22 ≤ a := by decide
  intro f hf
  have hmem := List.mem_map_of_mem (f := Fld.addr) hf
  rw [hshift, List.mem_map] at hmem
  obtain ⟨a, ha, haddr⟩ := hmem
  exact haddr ▸ (hbase a ha).trans (Nat.le_add_right _ _)

theorem CoreMoved.loseCore (h : CoreMoved s t c keys) : CoreMoved s (t.loseCore c) c keys := by
  unfold State.loseCore
  extract_lets lost regs x cleared
  have hlost : CoreMoved s lost c keys := by
    refine List.foldlRecOn (motive := (CoreMoved s · c keys)) _ _ h fun u hu f hf => hu.setFld (.inl ?_) _
    have := corFields_addr c f.1 (List.fst_mem_of_mem_zipIdx hf)
    unfold Fld.key
    omega
  refine CoreMoved.sbClear (CoreMoved.drew (CoreMoved.setCore hlost ?_ ?_))
  · rfl
  · rfl

theorem CoreMoved.settleIn (h : CoreMoved s t c keys) (hstate : (F.pwrCoreStatusState l).key ∈ keys) (x : Nat) : CoreMoved s (t.settleIn c l x) c keys := by
  unfold State.settleIn
  have hset := (h.setFld (f := F.pwrCoreStatusState l) (.inr hstate) x).loseBanks x
  dsimp only
  split
  · exact hset.loseCore
  · exact hset

/-- A core in its target is in that state. -/
theorem State.fld_settleIn (hl : l < 96) (x : Nat) : (s.settleIn c l x).fld (F.pwrCoreStatusState l) = x % 2 ^ 3 := by
  have hlow : (F.pwrCoreStatusState l).key < 2 ^ 27 := by
    simp only [Fld.key, F.pwrCoreStatusState]
    omega
  have hbanks := (CoreMoved.refl (s.setFld (F.pwrCoreStatusState l) x) c []).loseBanks x
  unfold State.settleIn
  dsimp only
  split
  · rw [hbanks.loseCore.fields _ hlow List.not_mem_nil, State.fld_setFld]
    rfl
  · rw [hbanks.fields _ hlow List.not_mem_nil, State.fld_setFld]
    rfl

end

/-! ### The request of a transition answered (R429, R494) -/

/-- t follows s by the end of operation id, which was core c's request: more than that has only been logged. -/
structure RequestEnded (s t : State) (c id status : Nat) : Prop where
  finished : s.opLive id → finishes s t id status []
  asleep : t.session.asleep = s.session.asleep
  bops : t.bops = s.bops
  wake : (t.core c).wakeAfter = (s.core c).wakeAfter
  fields : fieldsKept s t [F.fltEvtNext.key, F.fltEvtLost.key]

section
variable {s t : State} {c l id status : Nat}

theorem State.asleep_finishOp (u : State) (id status : Nat) (results : List Byte) :
    (u.finishOp id status results).session.asleep = u.session.asleep := by
  unfold State.finishOp
  split
  · rfl
  · obtain ⟨_, _, hlogged⟩ := State.logEvent_eq (u.setOp id _) svInfo 10 status 0x0800 0 id _
    rw [hlogged]
    rfl

theorem State.fieldsKept_finishOp (u : State) (id status : Nat) (results : List Byte) :
    fieldsKept u (u.finishOp id status results) [F.fltEvtNext.key, F.fltEvtLost.key] := by
  intro g hg
  simp only [List.mem_cons, List.not_mem_nil, or_false, not_or] at hg
  exact State.fld_finishOp_ne u id status results hg.1 hg.2

/-- The request of the only core that still runs it is over (R494). -/
theorem State.powerDone_ends (hop : (s.core c).powerOp = some id) (hsorted : tsorted s.cores = true)
    (hothers : ∀ x ∈ s.cores, x.1 ≠ c → x.2.powerOp ≠ some id)
    (hpending : ∀ k, k < 96 → ¬ (s.bit (F.pwrCoreStatusPending k) = true ∧ s.fld (F.pwrCoreStatusPendingOp k) = id)) :
    RequestEnded s (s.powerDone c status) c id status := by
  obtain ⟨t, ht⟩ : ∃ t, t = s.setCore c { s.core c with powerOp := none } := ⟨_, rfl⟩
  have hfree : ∀ x ∈ t.cores, x.2.powerOp ≠ some id := by
    intro x hx
    by_cases hc : x.1 = c
    · have hsortedt : tsorted t.cores = true := ht ▸ tset_sorted hsorted _ _ _
      have hcore : t.core c = x.2 := by
        rw [← hc]
        exact tget_of_mem {} hsortedt hx
      rw [← hcore, ht, State.core_setCore]
      simp
    · have hmem : x ∈ s.cores := by
        rw [ht] at hx
        rcases mem_tset hx with ⟨rfl, -⟩ | hx
        · exact absurd rfl hc
        · exact hx
      exact hothers x hmem hc
  have hmore : (t.cores.any (fun c => c.2.powerOp == some id) ||
      (List.range 96).any fun l => t.bit (F.pwrCoreStatusPending l) && t.fld (F.pwrCoreStatusPendingOp l) == id) = false := by
    rw [Bool.or_eq_false_iff, List.any_eq_false, List.any_eq_false]
    refine ⟨fun x hx => by simpa using hfree x hx, fun k hk => ?_⟩
    have hbit : t.bit (F.pwrCoreStatusPending k) = s.bit (F.pwrCoreStatusPending k) := by rw [ht]; rfl
    have hop : t.fld (F.pwrCoreStatusPendingOp k) = s.fld (F.pwrCoreStatusPendingOp k) := by rw [ht]; rfl
    rw [hbit, hop]
    simpa using hpending k (List.mem_range.mp hk)
  have hdone : ∃ dieOp, s.powerDone c status = { t.finishOp id status [] with dieOp } := by
    unfold State.powerDone
    rw [hop]
    dsimp only
    rw [← ht, hmore, if_neg Bool.false_ne_true]
    split
    · exact ⟨_, rfl⟩
    · exact ⟨_, rfl⟩
  obtain ⟨dieOp, hdone⟩ := hdone
  have hbops : (t.finishOp id status []).bops = t.bops ∧ (t.finishOp id status []).cores = t.cores := by
    obtain ⟨_, _, _, heq⟩ := t.finishOp_eq id status []
    rw [heq]
    exact ⟨rfl, rfl⟩
  rw [hdone]
  refine ⟨fun hlive => ?_, ?_, ?_, ?_, fun g hg => ?_⟩
  · exact State.finishOp_finishes hlive (by rw [ht]; rfl)
  · exact (State.asleep_finishOp t id status []).trans (by rw [ht]; rfl)
  · exact hbops.1.trans (by rw [ht]; rfl)
  · show (tget {} (t.finishOp id status []).cores c).wakeAfter = _
    rw [hbops.2]
    show (t.core c).wakeAfter = _
    rw [ht, State.core_setCore]
  · exact (t.fieldsKept_finishOp id status [] g hg).trans (by rw [ht]; rfl)

theorem State.startPending_none (h : s.bit (F.pwrCoreStatusPending l) = false) : s.startPending c l = s := by
  unfold State.startPending State.takePending
  rw [h]
  rfl

end

/-- What follows a transition leaves a die that is awake and has nothing waiting as it is (R494, R496). -/
theorem State.afterDie_idle {t : State} (hawake : t.dieAwake = true) (hpending : t.bit F.pwrDieStatusPending = false)
    (hasleep : t.session.asleep = []) (hbops : t.bops = []) :
    t.afterDie = { t with session := { t.session with asleep := [] } } := by
  have hstart : t.startDiePending = t := by
    unfold State.startDiePending
    rw [hpending, if_neg (by simp)]
  have htake : t.takeAsleep handle = { t with session := { t.session with asleep := [] } } := by
    unfold State.takeAsleep
    rw [if_pos hawake, hasleep]
    rfl
  unfold State.afterDie
  rw [hstart, htake]
  exact State.unitWork_eq_self hbops

/-! ### POWER_TRANSITION_DONE of a core -/

section
variable {s : State} {c id : Nat} {l : CoreNo}

/-- A transition of core c that is the only one of its request. -/
structure OnlyRequest (s : State) (c id : Nat) (l : CoreNo) : Prop where
  phys : s.phys l.val = some c
  awake : s.dieAwake = true
  bops : s.bops = []
  asleep : s.session.asleep = []
  noDie : s.bit F.pwrDieStatusPending = false
  noCore : s.bit (F.pwrCoreStatusPending l.val) = false
  request : (s.core c).powerOp = some id
  sorted : tsorted s.cores = true
  others : ∀ x ∈ s.cores, x.1 ≠ c → x.2.powerOp ≠ some id
  pending : ∀ k, k < 96 → ¬ (s.bit (F.pwrCoreStatusPending k) = true ∧ s.fld (F.pwrCoreStatusPendingOp k) = id)

/-- The state of a core and the end of its request, the die at rest. -/
structure Settled (s t : State) (c id x : Nat) (l : CoreNo) : Prop where
  state : t.fld (F.pwrCoreStatusState l.val) = x
  finished : s.opLive id → finishes s t id stOk []
  asleep : t.session.asleep = []
  bops : t.bops = []
  wake : (t.core c).wakeAfter = (s.core c).wakeAfter
  fields : ∀ g : Fld, g.key < 0x70000 * 32 → g.key ≠ (F.pwrCoreStatusState l.val).key → t.fld g = s.fld g

variable (h : OnlyRequest s c id l)
include h

theorem CoreMoved.settled {u : State} {x : Nat} (hu : CoreMoved s u c [(F.pwrCoreStatusState l.val).key]) (hstate : u.fld (F.pwrCoreStatusState l.val) = x) :
    Settled s (u.powerDone c stOk) c id x l := by
  have hends : RequestEnded u (u.powerDone c stOk) c id stOk := by
    refine State.powerDone_ends (hu.request.trans h.request) (hu.sorted h.sorted) (fun x hx hne => h.others x (hu.others x hx hne) hne)
      fun k hk => ?_
    rw [State.bit, hu.fields, hu.fields]
    · exact h.pending k hk
    all_goals
      simp only [Fld.key, F.pwrCoreStatusPending, F.pwrCoreStatusPendingOp, F.pwrCoreStatusState, List.mem_singleton]
      omega
  refine ⟨(hends.fields _ ?_).trans hstate, fun hlive => ?_, ?_, ?_, ?_, fun g hg hne => ?_⟩
  · simp only [Fld.key, F.pwrCoreStatusState, F.fltEvtNext, F.fltEvtLost, List.mem_cons, List.not_mem_nil, or_false]
    omega
  · have hulive : u.opLive id := by
      unfold State.opLive
      rw [hu.session]
      exact hlive
    have := hends.finished hulive
    unfold finishes at this
    rwa [hu.session] at this
  · rw [hends.asleep, hu.session, h.asleep]
  · rw [hends.bops, hu.bops, h.bops]
  · rw [hends.wake, hu.wake]
  · rw [hends.fields g ?_, hu.fields g (by omega) (by simpa using hne)]
    simp only [Fld.key, F.fltEvtNext, F.fltEvtLost, List.mem_cons, List.not_mem_nil, or_false]
    unfold Fld.key at hg
    omega

theorem Settled.startPending {t : State} {x : Nat} (ht : Settled s t c id x l) : t.startPending c l.val = t := by
  refine State.startPending_none ?_
  rw [State.bit, ht.fields]
  · exact h.noCore
  · simp only [Fld.key, F.pwrCoreStatusPending]
    omega
  · simp only [ne_eq, Fld.key, F.pwrCoreStatusPending, F.pwrCoreStatusState]
    omega

theorem OnlyRequest.logical : s.logical c = some l.val := State.logical_of_phys h.phys

/-- An entry ends in its target (R475, R485). -/
theorem OnlyRequest.entryDone (hwake : (s.core c).wakeAfter = none) (htarget : (s.core c).target ≤ 3) :
    Settled s (s.entryDone c l.val) c id (s.core c).target l := by
  have hmoved := (CoreMoved.refl s c [(F.pwrCoreStatusState l.val).key]).settleIn (l := l.val) (List.mem_singleton_self _) (s.core c).target
  have hstate := State.fld_settleIn (s := s) (c := c) l.isLt (s.core c).target
  rw [Nat.mod_eq_of_lt (by omega)] at hstate
  have hsettled := hmoved.settled h hstate
  have hnone : (((s.settleIn c l.val (s.core c).target).powerDone c stOk).core c).wakeAfter = none := hsettled.wake.trans hwake
  unfold State.entryDone
  dsimp only
  rw [hnone]
  dsimp only
  rwa [hsettled.startPending h]

/-- A wake ends in Leaf, with no event latched and no WAIT to end (R150, R486). -/
theorem OnlyRequest.wakeDone (hlatch : (s.core c).latch = 0) (hwait : (s.core c).wait = none) :
    Settled s (s.wakeDone c l.val) c id pwLeaf l := by
  unfold State.wakeDone
  extract_lets leaf counted unloaded coded latch unlatched signalled waited
  have hstate : leaf.fld (F.pwrCoreStatusState l.val) = pwLeaf := State.fld_setFld _ _ _
  have hleaf : CoreMoved s leaf c [(F.pwrCoreStatusState l.val).key] :=
    (CoreMoved.refl s c _).setFld (.inr (List.mem_singleton_self _)) _
  have hcounted : CoreMoved s counted c [(F.pwrCoreStatusState l.val).key] ∧ counted.core c = s.core c ∧
      counted.fld (F.pwrCoreStatusState l.val) = pwLeaf := by
    by_cases hcause : leaf.fld (F.pwrCoreStatusWakeCause l.val) = 2
    · have hcounted : counted = leaf.addFld (F.spdMemWakes c) 1 := if_pos hcause
      have hl := l.isLt
      refine ⟨hcounted ▸ hleaf.setFld (.inl ?_) _, by rw [hcounted]; rfl, ?_⟩
      · simp only [Fld.key, F.spdMemWakes]
        omega
      · rw [hcounted, State.fld_addFld_ne, hstate]
        simp only [ne_eq, Fld.key, F.spdMemWakes, F.pwrCoreStatusState]
        omega
    · have hcounted : counted = leaf := if_neg hcause
      exact hcounted ▸ ⟨hleaf, rfl, hstate⟩
  obtain ⟨hmoved, hcore, hcstate⟩ := hcounted
  have hcoded : CoreMoved s coded c [(F.pwrCoreStatusState l.val).key] ∧ (coded.core c).latch = 0 ∧ (coded.core c).wait = none ∧
      coded.fld (F.pwrCoreStatusState l.val) = pwLeaf := by
    rw [← hcore] at hlatch hwait
    obtain hcoded | ⟨ucode, hcoded⟩ : coded = counted ∨ ∃ ucode, coded = counted.setCore c { counted.core c with ucode } := by
      unfold coded
      split
      · split
        · exact .inr ⟨_, rfl⟩
        · exact .inl rfl
      · exact .inl rfl
    · rw [hcoded]
      exact ⟨hmoved, hlatch, hwait, hcstate⟩
    · rw [hcoded, State.core_setCore]
      refine ⟨CoreMoved.setCore hmoved ?_ ?_, hlatch, hwait, hcstate⟩
      · rfl
      · rfl
  obtain ⟨hmoved, hlatch, hwait, hcstate⟩ := hcoded
  have hsignalled : signalled = coded.setCore c { coded.core c with latch := 0 } := by
    show (bitsOf 16 (coded.core c).latch).foldl _ _ = _
    rw [hlatch]
    rfl
  have hwaited : waited = signalled := by
    have hnone : (signalled.core c).wait = none := by rw [hsignalled, State.core_setCore]; exact hwait
    show (match (signalled.core c).wait with | some w => _ | none => signalled) = signalled
    rw [hnone]
  have hend : CoreMoved s waited c [(F.pwrCoreStatusState l.val).key] := by
    rw [hwaited, hsignalled]
    refine CoreMoved.setCore hmoved ?_ ?_
    · rfl
    · rfl
  have hsettled := hend.settled h (x := pwLeaf) (by rw [hwaited, hsignalled]; exact hcstate)
  rwa [hsettled.startPending h]

theorem Settled.afterDie {t : State} {x : Nat} (ht : Settled s t c id x l) :
    t.afterDie = { t with session := { t.session with asleep := [] } } := by
  have hfields : ∀ g ∈ [F.pwrDieStatusState, F.pwrDieStatusPending], t.fld g = s.fld g := by
    intro g hg
    simp only [List.mem_cons, List.not_mem_nil, or_false] at hg
    obtain rfl | rfl := hg <;>
    · refine ht.fields _ (by decide) ?_
      simp only [ne_eq, Fld.key, F.pwrDieStatusState, F.pwrDieStatusPending, F.pwrCoreStatusState]
      omega
  refine State.afterDie_idle ?_ ?_ ht.asleep ht.bops
  · rw [State.dieAwake, hfields _ (by simp)]
    exact h.awake
  · rw [State.bit, hfields _ (by simp)]
    exact h.noDie

/-- A core's transition at its end is all that POWER_TRANSITION_DONE brings. -/
theorem OnlyRequest.transitionDone {t : State} {x : Nat} (ht : Settled s t c id x l)
    (hdone : (s.power c = pwEntering ∧ s.entryDone c l.val = t) ∨ (s.power c = pwWaking ∧ s.wakeDone c l.val = t)) :
    Answers (.powerTransitionDone (some l)) s fun t => t.power c = x ∧ (s.opLive id → finishes s t id stOk []) := by
  have hlogical := h.logical
  have hpower : s.power c = s.fld (F.pwrCoreStatusState l.val) := by
    unfold State.power
    rw [hlogical]
  have hawake : t.fld F.pwrDieStatusState = 0 := by
    rw [ht.fields]
    · exact beq_iff_eq.mp h.awake
    · decide
    · simp only [ne_eq, Fld.key, F.pwrDieStatusState, F.pwrCoreStatusState]
      omega
  have hwhich : (if s.fld (F.pwrCoreStatusState l.val) = pwEntering then s.entryDone c l.val
      else if s.fld (F.pwrCoreStatusState l.val) = pwWaking then s.wakeDone c l.val else s) = t := by
    rw [← hpower]
    obtain ⟨hstate, hdone⟩ | ⟨hstate, hdone⟩ := hdone
    · rw [if_pos hstate, hdone]
    · rw [hstate, if_neg (by decide), if_pos rfl, hdone]
  have hcore : s.coreDone c = t := by
    unfold State.coreDone
    rw [hlogical]
    dsimp only
    rw [hwhich, hawake, if_neg (by simp)]
  refine .intro (t := { t with session := { t.session with asleep := [] } }) ?_ ⟨?_, fun hlive => ?_⟩
  · show execPowerTransitionDone (some l) s = _
    unfold execPowerTransitionDone
    dsimp only
    rw [h.phys]
    dsimp only
    rw [hcore, ht.afterDie h]
  · have hmap : ∀ k, k < 3 → t.fld (F.evgCoreMap k) = s.fld (F.evgCoreMap k) := by
      intro k hk
      refine ht.fields _ ?_ ?_ <;>
      · simp only [ne_eq, Fld.key, F.evgCoreMap, F.pwrCoreStatusState]
        omega
    have htlogical : t.logical c = some l.val := (State.logical_congr hmap c).trans hlogical
    show t.power c = x
    unfold State.power
    rw [htlogical]
    exact ht.state
  · exact ht.finished hlive

end

/-! ### A core that did not wake (R567, R568) -/

section
variable {s t u : State} {c l : Nat}

/-- Keys that say that core c is fenced. -/
def haltKeys (c : Nat) : List Nat := [(F.evgFenced (c / 32)).key, (F.corStatusState c).key]

theorem haltKeys_bounds (hc : c < 96) : ∀ k ∈ haltKeys c, k < 0x60 * 32 ∨ 2 ^ 27 ≤ k := by
  intro k hk
  simp only [haltKeys, Fld.key, F.evgFenced, F.corStatusState, List.mem_cons, List.not_mem_nil, or_false] at hk
  omega

theorem not_mem_haltKeys (hc : c < 96) {k : Nat} (hk : 0x60 * 32 ≤ k ∧ k < 2 ^ 27) : k ∉ haltKeys c := fun hmem => by
  have := haltKeys_bounds hc k hmem
  omega

theorem asideKeys_halt (hc : c < 96) : ∀ k ∈ asideKeys, k ∉ haltKeys c := by
  have hbounds : ∀ k ∈ asideKeys, 0x60 * 32 ≤ k ∧ k < 2 ^ 27 := by decide
  exact fun k hk => not_mem_haltKeys hc (hbounds k hk)

/-- Core c is fenced, in a die without kernels and binder operations. -/
structure Halted (t : State) (c : Nat) : Prop where
  kernels : t.kernels = []
  bops : t.bops = []
  fenced : t.fencedCore c = true
  state : t.coreState c = csFenced

theorem Halted.of_fields (h : Halted t c) (hkernels : u.kernels = t.kernels) (hbops : u.bops = t.bops)
    (hfields : ∀ g : Fld, g.key ∈ haltKeys c → u.fld g = t.fld g) : Halted u c := by
  refine ⟨hkernels.trans h.kernels, hbops.trans h.bops, ?_, (hfields _ (by simp [haltKeys])).trans h.state⟩
  rw [← h.fenced, State.fencedCore, State.fencedCore, hfields _ (by simp [haltKeys])]

theorem Halted.beside (h : Halted t c) (hu : Beside (haltKeys c) t u) (hkernels : u.kernels = t.kernels) : Halted u c :=
  h.of_fields hkernels hu.bops hu.fields

theorem Halted.setFld (h : Halted t c) (hc : c < 96) {f : Fld} (hf : 0x60 * 32 ≤ f.key ∧ f.key < 2 ^ 27) (v : Nat) :
    Halted (t.setFld f v) c :=
  h.of_fields rfl rfl fun _ hg => t.fld_setFld_ne (fun he => not_mem_haltKeys hc hf (he ▸ hg)) v

theorem State.kernels_logEvent (s : State) (severity kind status code unit context detail : Nat) :
    (s.logEvent severity kind status code unit context detail).kernels = s.kernels := by
  obtain ⟨_, _, hlog⟩ := s.logEvent_eq severity kind status code unit context detail
  rw [hlog]

theorem Halted.logEvent (h : Halted t c) (hc : c < 96) (severity kind status code unit context detail : Nat) :
    Halted (t.logEvent severity kind status code unit context detail) c :=
  h.beside ((Beside.refl _ t).logEvent (asideKeys_halt hc) _ _ _ _ _ _ _) (State.kernels_logEvent _ _ _ _ _ _ _ _)

theorem Halted.addDieback (h : Halted t c) (hc : c < 96) (kind source unit detail cause : Nat) :
    Halted (t.addDieback kind source unit detail cause) c := by
  refine h.beside ((Beside.refl _ t).addDieback (asideKeys_halt hc) _ _ _ _ _) ?_
  unfold State.addDieback State.addEntry
  extract_lets more victim rows others core last
  split
  · rfl
  · split
    · rfl
    · rfl

theorem Halted.settleReady (h : Halted t c) (hc : c < 96) : Halted t.settleReady c := by
  have hready : ∀ r, (t.setReady r).kernels = t.kernels := by
    intro r
    unfold State.setReady
    split
    · rfl
    · exact State.kernels_logEvent _ _ _ _ _ _ _ _
  refine h.beside ((Beside.refl _ t).settleReady (asideKeys_halt hc)) ?_
  unfold State.settleReady
  split
  · exact hready _
  · split
    · exact hready _
    · rfl

theorem Halted.finishOp (h : Halted t c) (hc : c < 96) (id status : Nat) : Halted (t.finishOp id status []) c := by
  have hfields := t.fieldsKept_finishOp id status []
  obtain ⟨_, _, _, heq⟩ := t.finishOp_eq id status []
  rw [heq] at hfields ⊢
  refine h.of_fields rfl rfl fun _ hg => hfields _ fun hmem => not_mem_haltKeys hc ?_ hg
  simp only [List.mem_cons, List.not_mem_nil, or_false] at hmem
  obtain hmem | hmem := hmem <;> exact hmem ▸ by decide

theorem Halted.setCore (h : Halted t c) (p : Nat) (x : CoreSt) : Halted (t.setCore p x) c := ⟨h.kernels, h.bops, h.fenced, h.state⟩

theorem Halted.dropRequest (h : Halted t c) (hc : c < 96) (hl : l < 96) (status : Nat) : Halted (t.dropRequest l status) c := by
  unfold State.dropRequest
  split
  · refine (((h.finishOp hc _ _).setFld hc ?_ _).setFld hc ?_ _).setFld hc ?_ _ <;>
    · simp only [Fld.key, F.pwrCoreStatusPending, F.pwrCoreStatusPendingState, F.pwrCoreStatusPendingOp]
      omega
  · exact h

theorem Halted.powerDone (h : Halted t c) (hc : c < 96) (p status : Nat) : Halted (t.powerDone p status) c := by
  unfold State.powerDone
  split
  · exact h
  · next id _ =>
    have hfree : Halted (t.setCore p { t.core p with powerOp := none }) c := h.setCore p _
    dsimp only
    split
    · exact hfree
    · split
      · exact ⟨(hfree.finishOp hc id status).kernels, (hfree.finishOp hc id status).bops, (hfree.finishOp hc id status).fenced,
          (hfree.finishOp hc id status).state⟩
      · exact hfree.finishOp hc id status

theorem State.fld_dropWaiter (g : Fld) : (s.dropWaiter l).fld g = s.fld g := rfl

theorem State.fld_haltUnits {g : Fld} (hmxe : g.key ≠ (F.mxeStatusBusy c).key) (hvxe : g.key ≠ (F.vxeStatusBusy c).key) :
    (s.haltUnits c).fld g = s.fld g := by
  unfold State.haltUnits
  dsimp only
  rw [State.fld_setFld_ne _ hvxe, State.fld_setFld_ne _ hmxe, State.fld_setCore]

/-- A core as its fence leaves it (R61). -/
theorem State.coreFenced_halted (hc : c < 96) (hkernels : s.kernels = []) (hbops : s.bops = []) : Halted (s.coreFenced c l) c := by
  obtain ⟨u, hu⟩ : ∃ u, u = s.setMaskBit (F.evgFenced (c / 32)) (c % 32) := ⟨_, rfl⟩
  obtain ⟨v, hv⟩ : ∃ v, v = (u.addFld F.fltFences 1).haltUnits c := ⟨_, rfl⟩
  have hbit : (u.fld (F.evgFenced (c / 32))).testBit (c % 32) = true := by
    have hlow : c % 32 < (F.evgFenced (c / 32)).w := Nat.mod_lt _ (by norm_num)
    rw [hu, State.testBit_setMaskBit _ _ _ hlow]
    simp
  have hcore : s.coreFenced c l = (v.setFld (F.corStatusState c) csFenced).dropWaiter l := by
    rw [hv, hu, State.coreFenced, State.setCoreState]
  have hwork : v.kernels = [] ∧ v.bops = [] := by
    rw [hv, hu]
    unfold State.haltUnits State.setMaskBit
    dsimp only
    simp only [State.setFld_kernels, State.setCore_kernels, State.addFld_kernels, State.setFld_bops, State.setCore_bops,
      State.addFld_bops]
    exact ⟨hkernels, hbops⟩
  rw [hcore]
  refine ⟨hwork.1, hwork.2, ?_, ?_⟩
  · rw [State.fencedCore, State.fld_dropWaiter, State.fld_setFld_ne, hv, State.fld_haltUnits, State.fld_addFld_ne]
    · exact hbit
    all_goals
      simp only [ne_eq, Fld.key, F.evgFenced, F.fltFences, F.mxeStatusBusy, F.vxeStatusBusy, F.corStatusState]
      omega
  · rw [State.coreState, State.fld_dropWaiter, State.fld_setFld]
    rfl

/-- In a die without kernels a core that is fenced stops, whatever request was pending for it (R61, R568). -/
theorem State.fenceCore_halted (hc : c < 96) (hlogical : s.logical c = some l) (hfree : s.fencedCore c = false)
    (hkernels : s.kernels = []) (hbops : s.bops = []) (cause : Nat) : Halted (s.fenceCore c cause false) c := by
  have hone : Halted (s.fenceOne c cause) c := by
    have hdropped := (State.coreFenced_halted (l := l) hc hkernels hbops).dropRequest hc (State.lt_of_logical hc hlogical) stUnitFailed
    have hnone : ((s.coreFenced c l).dropRequest l stUnitFailed).kernelOn c = none := by
      unfold State.kernelOn
      rw [hdropped.kernels]
      rfl
    unfold State.fenceOne
    rw [hlogical]
    dsimp only
    rw [if_neg (by simp [hfree])]
    rw [State.coreFenced] at hnone
    split
    · next k hsome => cases hnone.symm.trans hsome
    · obtain ⟨u, hu⟩ : ∃ u, u = (s.coreFenced c l).dropRequest l stUnitFailed := ⟨_, rfl⟩
      rw [← hu] at hdropped
      have hlogged := hdropped.logEvent hc svAlert 1 stUnitFailed 0x0201 l 0 (c + cause * 2 ^ 8 + s.fld F.evgNumberingEpoch * 2 ^ 16)
      rw [hu, State.coreFenced] at hlogged
      exact hlogged
  have hready : Halted ((s.fenceOne c cause).addDieback 1 3 c 0 0x0201).unitFenced c :=
    ((hone.addDieback hc _ _ _ _ _).setFld hc (f := F.fltStatusUnitFenced) (by decide) 1).settleReady hc
  unfold State.fenceCore
  dsimp only
  rw [hlogical, if_pos (show (some l).isSome = true from rfl), if_neg Bool.false_ne_true, State.settleKernels_eq_self hready.kernels]
  exact hready

end

/-- A core that does not wake is fenced, in a die without kernels (R568). -/
theorem powerExitTimeout_halted {s : State} {c : Nat} {l : CoreNo} (hphys : s.phys l.val = some c) (hpower : s.power c = pwWaking)
    (hfree : s.fencedCore c = false) (hkernels : s.kernels = []) (hbops : s.bops = []) :
    Answers (.powerExitTimeout l) s fun t => t.fencedCore c = true ∧ t.coreState c = csFenced := by
  have hc := State.phys_lt hphys
  have hdone := (State.fenceCore_halted hc (State.logical_of_phys hphys) hfree hkernels hbops 5).powerDone hc c stUnitFailed
  refine .intro ?_ ⟨hdone.fenced, hdone.state⟩
  show execPowerExitTimeout l s = _
  unfold execPowerExitTimeout
  rw [hphys]
  dsimp only
  rw [if_pos ⟨hpower, by simp [hfree]⟩, State.unitWork_eq_self hdone.bops]

end Sys2Proof.Machine
end

section
/-! Link operations, restores and die-level sleep end (R412, R413, R431, R456, R487, R490, R493). It settles O46. -/

namespace Sys2Proof.Machine

/-! ### Link operations -/

section
variable {s : State} {i id : Nat}

theorem State.links_finishOp (u : State) (id status : Nat) (results : List Byte) :
    (u.finishOp id status results).links = u.links ∧ (u.finishOp id status results).mem = u.mem ∧
      (u.finishOp id status results).bops = u.bops := by
  obtain ⟨_, _, _, heq⟩ := u.finishOp_eq id status results
  rw [heq]
  exact ⟨rfl, rfl, rfl⟩

theorem State.linkState_finishOp (u : State) (id status : Nat) (results : List Byte) (i : Nat) :
    (u.finishOp id status results).linkState i = u.linkState i := by
  refine u.fld_finishOp_ne id status results ?_ ?_ <;>
  · simp only [ne_eq, Fld.key, F.lnkStatusState, F.fltEvtNext, F.fltEvtLost]
    omega

/-- The end of LINK_RETRAIN answers its operation (R431). -/
theorem linkRetrainDone_ends {link : LinkNo} {status : Nat} (hop : (s.link link.val).op = some id) (hlive : s.opLive id)
    (hstatus : (status = stOk ∧ (s.linkState link.val = lkActive ∨ s.linkState link.val = lkDisabled)) ∨
      (status = stHwFault ∧ s.linkState link.val = lkFailed)) :
    Answers (.linkRetrainDone link) s fun t => finishes s t id status [] ∧ (t.link link.val).op = none ∧
      t.linkState link.val = s.linkState link.val := by
  obtain ⟨u, hu⟩ : ∃ u, u = s.setLink link.val { s.link link.val with op := none } := ⟨_, rfl⟩
  have hexec : exec (.linkRetrainDone link) s = .next (u.finishOp id status []) := by
    show execLinkRetrainDone link s = _
    unfold execLinkRetrainDone
    dsimp only
    rw [hop]
    dsimp only
    rw [← hu]
    obtain ⟨rfl, hst⟩ | ⟨rfl, hst⟩ := hstatus
    · rw [if_pos hst]
    · rw [if_neg (by rw [hst]; decide), if_pos hst]
  refine .intro hexec ⟨State.finishOp_finishes hlive (by rw [hu]; rfl), ?_, ?_⟩
  · rw [State.link_congr (u.links_finishOp id status []).1, hu, State.link_setLink]
  · rw [State.linkState_finishOp, hu, State.linkState_setLink]

/-! ### LOOPBACK_DONE and BER_TEST_DONE -/

/-- Keys of a link's lane error counts. -/
def laneErrorKey (i k : Nat) : Prop := (0xE1100 + i * 0x800) * 32 ≤ k ∧ k < (0xE1100 + i * 0x800 + 0x100) * 32

/-- Counting lane errors changes only their counts. -/
theorem State.laneErrors_counts (errs : List (Nat × Nat)) : (∃ regs, s.laneErrors i errs = { s with regs }) ∧
    ∀ g : Fld, ¬ laneErrorKey i g.key → (s.laneErrors i errs).fld g = s.fld g := by
  unfold State.laneErrors
  refine List.foldlRecOn (motive := fun u : State => (∃ regs, u = { s with regs }) ∧ ∀ g : Fld, ¬ laneErrorKey i g.key → u.fld g = s.fld g)
    _ _ ⟨⟨s.regs, rfl⟩, fun _ _ => rfl⟩ ?_
  rintro u ⟨⟨regs, rfl⟩, hfields⟩ e he
  have hlane : e.2 < 64 := by
    have := List.snd_lt_of_mem_zipIdx he
    rw [List.length_take] at this
    have := laneCount_le i
    omega
  refine ⟨⟨_, rfl⟩, fun g hg => ?_⟩
  have hne : ∀ f ∈ [F.lnkLaneErrStressed i e.2, F.lnkLaneErrNominal i e.2], g.key ≠ f.key := by
    intro f hf heq
    refine hg ?_
    simp only [List.mem_cons, List.not_mem_nil, or_false] at hf
    rw [heq, laneErrorKey]
    obtain rfl | rfl := hf <;>
    · simp only [Fld.key, F.lnkLaneErrStressed, F.lnkLaneErrNominal]
      omega
  unfold State.satFld
  rw [State.fld_setFld_ne _ (hne _ (by simp)), State.fld_setFld_ne _ (hne _ (by simp)), hfields g hg]

/-- LOOPBACK_DONE returns the link to its earlier state (R412). -/
theorem loopbackDone_ends {link : LinkNo} {errors : List Nat} (hstate : s.linkState link.val = lkLoopback)
    (hop : (s.link link.val).loopOp = some id) (hlive : s.opLive id) :
    Answers (.loopbackDone link errors) s fun t => t.linkState link.val = (s.link link.val).prior % 2 ^ 4 ∧
      (t.link link.val).loopOp = none ∧ t.mem = s.mem ∧
      finishes s t id stOk ((List.range 64).flatMap fun j => leBytes 2 (min 0xFFFF (errors.getD j 0))) := by
  obtain ⟨⟨regs, hcounts⟩, -⟩ := State.laneErrors_counts (s := s) (i := link.val) (errors.map fun e => (0, e))
  obtain ⟨u, hu⟩ : ∃ u, u = ((s.laneErrors link.val (errors.map fun e => (0, e))).setFld (F.lnkStatusState link.val)
    (s.link link.val).prior).setLink link.val { s.link link.val with loopOp := none } := ⟨_, rfl⟩
  have hrest : u.mem = s.mem ∧ u.session = s.session := by
    rw [hu, hcounts]
    exact ⟨rfl, rfl⟩
  refine .intro (t := u.finishOp id stOk ((List.range 64).flatMap fun j => leBytes 2 (min 0xFFFF (errors.getD j 0)))) ?_ ⟨?_, ?_, ?_, ?_⟩
  · show execLoopbackDone link errors s = _
    unfold execLoopbackDone
    dsimp only
    rw [if_neg (not_not.mpr hstate), hop, hu]
    simp only [List.getD_eq_getElem?_getD]
  · rw [State.linkState_finishOp, hu, State.linkState_setLink, State.linkState, State.fld_setFld]
    rfl
  · rw [State.link_congr (u.links_finishOp id stOk _).1, hu, State.link_setLink]
  · exact (u.links_finishOp id stOk _).2.1.trans hrest.1
  · exact State.finishOp_finishes hlive hrest.2

/-- What the end of a qualification leaves of what the test needs. -/
structure Qualified (s t : State) (i : Nat) : Prop where
  mem : t.mem = s.mem
  session : t.session = s.session
  bops : t.bops = s.bops
  tests : ∀ k, (t.link k).berOp = (s.link k).berOp
  state : t.linkState i = s.linkState i

theorem Qualified.toBerTest {t : State} (h : Qualified s t i) {j : Nat} (hj : i ≠ j) : Qualified s (t.toBerTest j) i := by
  obtain ⟨hmem, hsession, hbops, htests, hstate⟩ := h
  unfold State.toBerTest
  split
  · refine ⟨hmem, hsession, hbops, fun k => ?_, ?_⟩
    · by_cases hk : k = j
      · rw [hk, State.link_setLink, ← htests]
      · rw [State.link_setLink_ne _ hk]
        exact htests k
    · have hne : (F.lnkStatusState i).key ≠ (F.lnkStatusState j).key := by
        simp only [ne_eq, Fld.key, F.lnkStatusState]
        omega
      rw [State.linkState_setLink, State.linkState, State.fld_setFld_ne _ hne]
      exact hstate
  · exact ⟨hmem, hsession, hbops, htests, hstate⟩

theorem State.qualified_leaves : Qualified s (s.qualified i) i := by
  unfold State.qualified
  extract_lets u
  have hkept : Qualified s u i := ⟨rfl, rfl, rfl, fun _ => rfl, rfl⟩
  split
  · next h => exact hkept.toBerTest (by omega)
  · exact hkept

/-- The only link that an operation tests reports for it (R413). -/
theorem State.berDone_alone {res : List Byte} (hi : i < 32) (hop : (s.link i).berOp = some id) (hres : (s.link i).berRes = res)
    (hsome : res ≠ []) (honly : ∀ k, k < 32 → k ≠ i → (s.link k).berOp ≠ some id) :
    s.berDone id = (s.setLink i { s.link i with berOp := none, berRes := [] }).finishOp id stOk res := by
  have hmine : ((List.range 32).filter fun k => (s.link k).berOp == some id) = [i] := by
    have hpred : ((List.range 32).filter fun k => (s.link k).berOp == some id) = (List.range 32).filter (· == i) := by
      refine List.filter_congr fun k hk => ?_
      by_cases hki : k = i
      · rw [hki, hop]
        simp
      · have := honly k (List.mem_range.mp hk) hki
        simp [hki, this]
    rw [hpred, List.filter_beq, List.count_eq_one_of_mem List.nodup_range (List.mem_range.mpr hi)]
    rfl
  unfold State.berDone
  rw [hmine]
  dsimp only
  rw [if_pos (by simpa [hres] using hsome)]
  simp only [List.flatMap_cons, List.flatMap_nil, List.append_nil, List.foldl_cons, List.foldl_nil, hres]

theorem State.failedLanes_congr {t : State} (errs : List (Nat × Nat)) (hused : t.fld (F.lnkUsed i) = s.fld (F.lnkUsed i))
    (hlimit : t.fld F.lnkQualLimit = s.fld F.lnkQualLimit) : t.failedLanes i errs = s.failedLanes i errs := by
  unfold State.failedLanes
  rw [hused, hlimit]

theorem berBytes_ne_nil (errs : List (Nat × Nat)) : berBytes errs ≠ [] := by
  intro h
  have hfirst := List.flatMap_eq_nil_iff.mp h 0 (by simp)
  simp [leBytes] at hfirst

/-- A qualification whose lanes all pass leaves the link ACTIVE and reports its errors (R413). -/
theorem berTestDone_ends {link : LinkNo} {errors : List (Nat × Nat)} (hstate : s.linkState link.val = lkBerTest)
    (hop : (s.link link.val).berOp = some id) (hlive : s.opLive id)
    (honly : ∀ k, k < 32 → k ≠ link.val → (s.link k).berOp ≠ some id) (hgood : s.failedLanes link.val errors = 0)
    (hbops : s.bops = []) : Answers (.berTestDone link errors) s fun t => t.linkState link.val = lkActive ∧
      (t.link link.val).berOp = none ∧ t.mem = s.mem ∧ finishes s t id stOk (berBytes errors) := by
  obtain ⟨⟨regs, hcounts⟩, hfields⟩ := State.laneErrors_counts (s := s) (i := link.val) errors
  obtain ⟨v, hv⟩ : ∃ v, v = (s.laneErrors link.val errors).setFld (F.lnkStatusState link.val) lkActive := ⟨_, rfl⟩
  have hrest : v.mem = s.mem ∧ v.session = s.session ∧ v.bops = s.bops ∧ ∀ k, v.link k = s.link k := by
    refine ⟨?_, ?_, ?_, fun k => ?_⟩
    · rw [hv, State.setFld_mem, hcounts]
    · rw [hv, State.setFld_session, hcounts]
    · rw [hv, State.setFld_bops, hcounts]
    · rw [State.link_congr ((congrArg State.links hv).trans (State.setFld_links _ _ _)), hcounts]
      rfl
  obtain ⟨hmem, hsession, hvbops, hlinks⟩ := hrest
  have hfailed : v.failedLanes link.val errors = 0 := by
    rw [← hgood]
    refine State.failedLanes_congr errors ?_ ?_ <;>
    · rw [hv, State.fld_setFld_ne, hfields]
      all_goals
        simp only [ne_eq, laneErrorKey, Fld.key, F.lnkUsed, F.lnkQualLimit, F.lnkStatusState]
        omega
  obtain ⟨hqmem, hqsession, hqbops, htests, hqstate⟩ := v.qualified_leaves (i := link.val)
  obtain ⟨q, hq⟩ : ∃ q, q = v.qualified link.val := ⟨_, rfl⟩
  rw [← hq] at hqmem hqsession hqbops htests hqstate
  have hqop : ∀ k, (q.link k).berOp = (s.link k).berOp := fun k => (htests k).trans (by rw [hlinks])
  obtain ⟨w, hw⟩ : ∃ w, w = q.setLink link.val { q.link link.val with berRes := berBytes errors } := ⟨_, rfl⟩
  have hdone : w.berDone id = (w.setLink link.val { w.link link.val with berOp := none, berRes := [] }).finishOp id stOk (berBytes errors) := by
    refine State.berDone_alone link.isLt ?_ ?_ (berBytes_ne_nil errors) fun k hk hne => ?_
    · rw [hw, State.link_setLink]
      exact (hqop _).trans hop
    · rw [hw, State.link_setLink]
    · rw [hw, State.link_setLink_ne _ hne, hqop]
      exact honly k hk hne
  obtain ⟨e, he⟩ : ∃ e, e = w.setLink link.val { w.link link.val with berOp := none, berRes := [] } := ⟨_, rfl⟩
  have hekept : e.mem = q.mem ∧ e.session = q.session ∧ e.bops = q.bops := by
    rw [he, hw]
    simp only [State.setLink_mem, State.setLink_session, State.setLink_bops, and_self]
  obtain ⟨hemem, hesession, hebops⟩ := hekept
  rw [← he] at hdone
  have hexec : exec (.berTestDone link errors) s = .next (e.finishOp id stOk (berBytes errors)) := by
    show execBerTestDone link errors s = _
    unfold execBerTestDone
    dsimp only
    rw [if_neg (by simp [hstate]), if_pos hstate, ← hv, hfailed, if_pos rfl, ← hq]
    split
    · next hnone => cases hnone.symm.trans ((hqop _).trans hop)
    · next id' hsome =>
      obtain rfl := Option.some.inj (hsome.symm.trans ((hqop _).trans hop))
      rw [← hw, hdone, State.unitWork_eq_self]
      rw [(e.links_finishOp id' stOk _).2.2, hebops, hqbops, hvbops, hbops]
  refine .intro hexec ⟨?_, ?_, ?_, ?_⟩
  · rw [State.linkState_finishOp, he, State.linkState_setLink, hw, State.linkState_setLink, hqstate, hv, State.linkState, State.fld_setFld]
    rfl
  · rw [State.link_congr (e.links_finishOp id stOk _).1, he, State.link_setLink]
  · rw [(e.links_finishOp id stOk _).2.1, hemem, hqmem, hmem]
  · exact State.finishOp_finishes hlive (hesession.trans (hqsession.trans hsession))

/-! ### RESTORE_SETTINGS_DONE -/

/-- A measurement is only registers (R538). -/
theorem State.setMeas_keeps (k : Nat) (d : List Byte) : (s.setMeas k d).session = s.session ∧ (s.setMeas k d).blobIn = s.blobIn ∧
    (s.setMeas k d).blobOp = s.blobOp ∧ (s.setMeas k d).restored = s.restored := by
  have hregs : ∃ regs, s.setMeas k d = { s with regs } :=
    List.foldlRecOn (motive := fun u : State => ∃ regs, u = { s with regs }) _ _ ⟨s.regs, rfl⟩ fun _ ⟨_, hu⟩ _ _ => hu ▸ ⟨_, rfl⟩
  obtain ⟨_, hregs⟩ := hregs
  rw [hregs]
  exact ⟨rfl, rfl, rfl, rfl⟩

/-- A complete blob is accepted, or refused by the status of its check, and is no longer held (R456, R457). -/
theorem State.takeBlob_taken {n k : Nat} {b : List Byte} (hblob : s.blobIn = some (n, k, b)) :
    ∃ u, s.takeBlob = (u, s.blobStatus b) ∧ u.session = s.session ∧ u.blobIn = none ∧ u.blobOp = none ∧
      u.restored = if s.blobStatus b = stOk then some (readBlob b (leAt b 0x14 4 == s.placementWord)) else s.restored := by
  unfold State.takeBlob
  rw [hblob]
  dsimp only
  split
  · next h =>
    exact ⟨_, rfl, rfl, rfl, rfl, rfl⟩
  · next h =>
    rw [not_not] at h
    rw [h]
    obtain ⟨hsession, hin, hop, hrestored⟩ := State.setMeas_keeps (s := { s with
      blobIn := none, blobOp := none, restored := some (readBlob b (leAt b 0x14 4 == s.placementWord)) }) 3 (sha256 b)
    exact ⟨_, rfl, hsession, hin, hop, hrestored⟩

theorem restoreSettingsDone_ends {n k : Nat} {b : List Byte} (hop : s.blobOp = some id) (hblob : s.blobIn = some (n, k, b))
    (hlive : s.opLive id) : Answers .restoreSettingsDone s fun t => finishes s t id (s.blobStatus b) [] ∧ t.blobIn = none ∧
      t.blobOp = none ∧
      t.restored = if s.blobStatus b = stOk then some (readBlob b (leAt b 0x14 4 == s.placementWord)) else s.restored := by
  obtain ⟨u, htake, hsession, hin, hblobOp, hrestored⟩ := State.takeBlob_taken hblob
  have hkept : (u.finishOp id (s.blobStatus b) []).blobIn = u.blobIn ∧ (u.finishOp id (s.blobStatus b) []).blobOp = u.blobOp ∧
      (u.finishOp id (s.blobStatus b) []).restored = u.restored := by
    obtain ⟨_, _, _, heq⟩ := u.finishOp_eq id (s.blobStatus b) []
    rw [heq]
    exact ⟨rfl, rfl, rfl⟩
  refine .intro (t := u.finishOp id (s.blobStatus b) []) ?_
    ⟨State.finishOp_finishes hlive hsession, hkept.1.trans hin, hkept.2.1.trans hblobOp, hkept.2.2.trans hrestored⟩
  show execRestoreSettingsDone s = _
  unfold execRestoreSettingsDone
  rw [hop]
  dsimp only
  rw [htake]

end

/-! ### Sleep and wake of the die -/

section
variable {s : State}

/-- A die whose links that are up are all in TRICKLE sleeps, if nothing has come meanwhile (R487). -/
theorem transitionDone_asleep (hdie : s.fld F.pwrDieStatusState = 1)
    (hlinks : ∀ i, i < 32 → s.linkUp i = true → s.linkState i = lkTrickle) (hafter : s.dieWakeAfter = none) :
    Answers (.powerTransitionDone none) s fun t => t.fld F.pwrDieStatusState = 2 ∧ t.sleepAt = some s.time ∧
      t.fld F.pwrSleeps = (s.fld F.pwrSleeps + 1) % 2 ^ 32 ∧ t.mem = s.mem ∧ t.session = s.session := by
  have hstill : ((List.range 32).all fun i => !s.linkUp i || s.linkState i == lkTrickle) = true := by
    rw [List.all_eq_true]
    intro i hi
    have := hlinks i (List.mem_range.mp hi)
    cases hup : s.linkUp i
    · rfl
    · simp [this hup]
  obtain ⟨u, hu⟩ : ∃ u, u = (({ s with sleepAt := some s.time } : State).setFld F.pwrDieStatusState 2).addFld F.pwrSleeps 1 := ⟨_, rfl⟩
  have hkept : u.dieWakeAfter = none ∧ u.sleepAt = some s.time ∧ u.mem = s.mem ∧ u.session = s.session := by
    rw [hu]
    exact ⟨hafter, rfl, rfl, rfl⟩
  obtain ⟨hafter, hat, hmem, hsession⟩ := hkept
  refine .intro (t := u) ?_ ⟨?_, hat, ?_, hmem, hsession⟩
  · show execPowerTransitionDone none s = _
    unfold execPowerTransitionDone State.checkAsleep
    dsimp only
    rw [if_pos hdie, if_pos ⟨hdie, hstill⟩, ← hu]
    split
    · next cause hcause => cases hafter.symm.trans hcause
    · rfl
  · rw [hu, State.fld_addFld_ne _ (by decide), State.fld_setFld]
    rfl
  · rw [hu, State.fld_addFld, State.fld_setFld_ne _ (by decide)]
    rfl

/-- The substrate's links that were in TRICKLE are in WAKE, and neither scratchpads nor cores have changed. -/
structure SubstrateWoken (s t : State) : Prop where
  mem : t.mem = s.mem
  cores : t.cores = s.cores
  state : ∀ i, i = 30 ∨ i = 31 → s.linkState i = lkTrickle → t.linkState i = lkWake

theorem State.linkState_wakeLink (i : Nat) (h : s.linkState i = lkTrickle) : (s.wakeLink i).linkState i = lkWake := by
  have hkeys : (F.lnkStatusState i).key ≠ (F.lnkWakes i).key := by
    simp only [ne_eq, Fld.key, F.lnkWakes, F.lnkStatusState]
    omega
  unfold State.wakeLink
  rw [if_pos h, State.linkState, State.fld_ctlOn, State.fld_addFld_ne _ hkeys, State.fld_setFld]
  rfl

theorem State.linkState_wakeLink_ne {i j : Nat} (h : i ≠ j) : (s.wakeLink j).linkState i = s.linkState i := by
  refine s.fld_wakeLink_ne j ?_ ?_ <;>
  · simp only [ne_eq, Fld.key, F.lnkWakes, F.lnkStatusState]
    omega

theorem State.wakeLink_rest (i : Nat) : (s.wakeLink i).mem = s.mem ∧ (s.wakeLink i).cores = s.cores := by
  unfold State.wakeLink
  split
  · exact ⟨rfl, rfl⟩
  · exact ⟨rfl, rfl⟩

theorem SubstrateWoken.railRequest {t : State} (h : SubstrateWoken s t) (half mv : Nat) : SubstrateWoken s (t.railRequest half mv) := by
  have hrest : (t.railRequest half mv).mem = t.mem ∧ (t.railRequest half mv).cores = t.cores := by
    unfold State.railRequest
    split
    · exact ⟨rfl, rfl⟩
    · next j _ =>
      obtain ⟨_, hsent⟩ := t.sendOn_eq j 3 (.railRequest (half == 1) mv)
      rw [hsent]
      exact ⟨rfl, rfl⟩
  exact ⟨hrest.1.trans h.mem, hrest.2.trans h.cores, fun i hi htrickle => (t.fld_railRequest half mv _).trans (h.state i hi htrickle)⟩

/-- A die that begins to wake wakes its substrate links (R490). -/
theorem State.beginDieWake_substrate (hdie : s.fld F.pwrDieStatusState = 2) (cause : Nat) : SubstrateWoken s (s.beginDieWake cause) := by
  unfold State.beginDieWake
  rw [if_neg (not_not.mpr hdie)]
  extract_lets slept counted woken
  have hcounted : ∀ i, counted.linkState i = s.linkState i := by
    intro i
    have hne : ∀ f ∈ [F.pwrDieStatusState, F.pwrDieStatusWakeCause, F.pwrSleepMs], (F.lnkStatusState i).key ≠ f.key := by
      simp only [List.forall_mem_cons, ne_eq, Fld.key, F.lnkStatusState, F.pwrDieStatusState, F.pwrDieStatusWakeCause, F.pwrSleepMs,
        List.not_mem_nil, false_imp_iff, implies_true, and_true]
      omega
    rw [State.linkState, State.fld_addFld_ne _ (hne _ (by simp)), State.fld_setFld_ne _ (hne _ (by simp)),
      State.fld_setFld_ne _ (hne _ (by simp))]
    rfl
  obtain ⟨u, hu⟩ : ∃ u : State, u = { counted with sleepAt := none } := ⟨_, rfl⟩
  have hurest : u.mem = s.mem ∧ u.cores = s.cores := by
    rw [hu]
    exact ⟨rfl, rfl⟩
  have hustate : ∀ i, u.linkState i = s.linkState i := fun i => (by rw [hu]; rfl : u.linkState i = counted.linkState i).trans (hcounted i)
  have hwoken : SubstrateWoken s ((u.wakeLink 30).wakeLink 31) := by
    refine ⟨((State.wakeLink_rest 31).1.trans (State.wakeLink_rest 30).1).trans hurest.1,
      ((State.wakeLink_rest 31).2.trans (State.wakeLink_rest 30).2).trans hurest.2, fun i hi htrickle => ?_⟩
    obtain rfl | rfl := hi
    · rw [State.linkState_wakeLink_ne (by decide)]
      exact State.linkState_wakeLink 30 ((hustate 30).trans htrickle)
    · refine State.linkState_wakeLink 31 ?_
      rw [State.linkState_wakeLink_ne (by decide), hustate, htrickle]
  have hwokenEq : woken = (u.wakeLink 30).wakeLink 31 := by rw [hu]
  rw [hwokenEq]
  exact foldl_railRequest (P := fun t => SubstrateWoken s t) (fun _ _ _ ht => ht.railRequest _ _) _ hwoken

/-- PWR_SLEEP_TIMER wakes a sleeping die (R493). -/
theorem sleepTimer_wakes (hdie : s.fld F.pwrDieStatusState = 2) (hms : s.fld F.pwrSleepTimer ≠ 0) :
    Answers .sleepTimer s fun t => SubstrateWoken s t ∧ t.fld F.pwrDieStatusState = 3 ∧ t.fld F.pwrDieStatusWakeCause = 6 := by
  obtain ⟨u, hu⟩ : ∃ u : State, u = { s with time := max s.time ((s.sleepAt.getD s.time) + s.fld F.pwrSleepTimer * 1000) } := ⟨_, rfl⟩
  have hudie : u.fld F.pwrDieStatusState = 2 := by rw [← hdie, hu]; rfl
  have hlinks : ∀ i, s.linkState i = u.linkState i := fun i => by rw [hu]; rfl
  obtain ⟨hmem, hcores, hstate⟩ := State.beginDieWake_substrate hudie 6
  refine .intro (t := u.beginDieWake 6) ?_
    ⟨⟨hmem.trans (by rw [hu]), hcores.trans (by rw [hu]), fun i hi htrickle => hstate i hi ((hlinks i).symm.trans htrickle)⟩, ?_⟩
  · show execSleepTimer s = _
    unfold execSleepTimer
    dsimp only
    rw [if_pos ⟨hdie, hms⟩, ← hu]
  · exact State.beginDieWake_begins 6 hudie

/-! ### DIE_WAKE (R490) -/

/-- Only the halves' registers, their rails and what is sent of them have changed from s to t. -/
structure HalvesOnly (s t : State) : Prop where
  mem : t.mem = s.mem
  session : t.session = s.session
  bops : t.bops = s.bops
  fields : ∀ g ∈ [F.pwrDieStatusState, F.pwrDieStatusPending], t.fld g = s.fld g

theorem HalvesOnly.refl (s : State) : HalvesOnly s s := ⟨rfl, rfl, rfl, fun _ _ => rfl⟩

theorem HalvesOnly.setFld {t : State} (h : HalvesOnly s t) {f : Fld} (hf : 0x20001 * 32 ≤ f.key) (v : Nat) : HalvesOnly s (t.setFld f v) := by
  refine ⟨h.mem, h.session, h.bops, fun g hg => ?_⟩
  have hlow : ∀ g ∈ [F.pwrDieStatusState, F.pwrDieStatusPending], g.key < 0x20001 * 32 := by decide
  rw [State.fld_setFld_ne _ (by have := hlow g hg; omega), h.fields g hg]

theorem HalvesOnly.railRequest {t : State} (h : HalvesOnly s t) (half mv : Nat) : HalvesOnly s (t.railRequest half mv) := by
  have hrest : (t.railRequest half mv).mem = t.mem ∧ (t.railRequest half mv).session = t.session ∧
      (t.railRequest half mv).bops = t.bops := by
    unfold State.railRequest
    split
    · exact ⟨rfl, rfl, rfl⟩
    · next j _ =>
      obtain ⟨_, hsent⟩ := t.sendOn_eq j 3 (.railRequest (half == 1) mv)
      rw [hsent]
      exact ⟨rfl, rfl, rfl⟩
  exact ⟨hrest.1.trans h.mem, hrest.2.1.trans h.session, hrest.2.2.trans h.bops,
    fun g hg => (t.fld_railRequest half mv g).trans (h.fields g hg)⟩

theorem HalvesOnly.setRail {t : State} (h : HalvesOnly s t) (half : Nat) (r : RailSt) : HalvesOnly s (t.setRail half r) :=
  ⟨h.mem, h.session, h.bops, h.fields⟩

theorem HalvesOnly.retarget {t : State} (h : HalvesOnly s t) (half : Nat) (cap : Bool) : HalvesOnly s (t.retarget half cap) := by
  have hhigh : ∀ f ∈ [F.pwrCapPref half, F.pwrHalfTarget half, F.pwrHalfGliding half], 0x20001 * 32 ≤ f.key := by
    simp only [List.forall_mem_cons, Fld.key, F.pwrCapPref, F.pwrHalfTarget, F.pwrHalfGliding, List.not_mem_nil,
      false_imp_iff, implies_true, and_true]
    omega
  unfold State.retarget
  extract_lets u want cur
  have hu : HalvesOnly s u := h.setFld (hhigh _ (by simp)) _
  split
  · exact hu
  · split
    · exact (hu.setFld (hhigh (F.pwrHalfTarget half) (by simp)) _).setFld (hhigh (F.pwrHalfGliding half) (by simp)) _
    · split
      · unfold State.glideTo
        split
        · exact hu
        · exact ((hu.setRail half _).setFld (hhigh (F.pwrHalfTarget half) (by simp)) _).setFld (hhigh (F.pwrHalfGliding half) (by simp)) _
      · split
        · exact hu
        · exact (hu.setRail half _).railRequest half _

/-- Each half runs again as it did before the sleep. -/
theorem HalvesOnly.resumed {t : State} (h : HalvesOnly s t) (l : List ((Nat × Nat) × Nat)) : HalvesOnly s (l.foldl (fun s x =>
    ((s.setFld (F.pwrHalfLocked x.2) 1).setFld (F.pwrHalfFcode x.2) x.1.1).setFld (F.pwrHalfTarget x.2) x.1.1) t) := by
  refine List.foldlRecOn (motive := HalvesOnly s) _ _ h fun u hu x _ => ((hu.setFld ?_ _).setFld ?_ _).setFld ?_ _ <;>
  · simp only [Fld.key, F.pwrHalfLocked, F.pwrHalfFcode, F.pwrHalfTarget]
    omega

/-- The wake is complete when both rails have acknowledged and a substrate link is ACTIVE (R490). -/
theorem dieWake_completes (hdie : s.fld F.pwrDieStatusState = 3) (hlink : s.linkState 30 = lkActive)
    (hpending : s.fld F.pwrDieStatusPending = 0) (hasleep : s.session.asleep = []) (hbops : s.bops = [])
    (hrails : ∀ y ∈ s.sleepPoint.zipIdx, (s.rail y.2).requests = [] ∧ (s.rail y.2).mv = y.1.2) :
    Answers .dieWake s fun t => t.fld F.pwrDieStatusState = 0 ∧ t.mem = s.mem := by
  have hready : (s.sleepPoint.zipIdx.all fun x => (s.rail x.2).requests.isEmpty && (s.rail x.2).mv == x.1.2) = true := by
    rw [List.all_eq_true]
    intro y hy
    obtain ⟨hrequests, hmv⟩ := hrails y hy
    simp [hrequests, hmv]
  obtain ⟨u, hu⟩ : ∃ u, u = s.sleepPoint.zipIdx.foldl (fun s x =>
    ((s.setFld (F.pwrHalfLocked x.2) 1).setFld (F.pwrHalfFcode x.2) x.1.1).setFld (F.pwrHalfTarget x.2) x.1.1) s := ⟨_, rfl⟩
  have hresumed : HalvesOnly s u := hu ▸ (HalvesOnly.refl s).resumed _
  obtain ⟨v, hv⟩ : ∃ v, v = ({ u with sleepPoint := [] } : State).setFld F.pwrDieStatusState 0 := ⟨_, rfl⟩
  have hvstate : v.fld F.pwrDieStatusState = 0 := by rw [hv, State.fld_setFld]; rfl
  have hvpending : v.fld F.pwrDieStatusPending = 0 := by
    rw [hv, State.fld_setFld_ne _ (by decide)]
    exact (hresumed.fields _ (by simp)).trans hpending
  have hvrest : v.mem = u.mem ∧ v.session = u.session ∧ v.bops = u.bops := by
    rw [hv]
    exact ⟨rfl, rfl, rfl⟩
  obtain ⟨hvmem, hvsession, hvbops⟩ := hvrest
  have hend := ((HalvesOnly.refl v).retarget 0 false).retarget 1 false
  obtain ⟨w, hw⟩ : ∃ w, w = (v.retarget 0 false).retarget 1 false := ⟨_, rfl⟩
  rw [← hw] at hend
  obtain ⟨hmem, hsession, hwbops, hfields⟩ := hend
  have hstate : w.fld F.pwrDieStatusState = 0 := (hfields _ (by simp)).trans hvstate
  have hidle : w.afterDie = { w with session := { w.session with asleep := [] } } := by
    refine State.afterDie_idle (beq_iff_eq.mpr hstate) ?_ ?_ (hwbops.trans (hvbops.trans (hresumed.bops.trans hbops)))
    · rw [State.bit, (hfields _ (by simp)).trans hvpending]
      rfl
    · rw [hsession, hvsession, hresumed.session, hasleep]
  refine .intro (t := { w with session := { w.session with asleep := [] } }) ?_
    ⟨hstate, hmem.trans (hvmem.trans hresumed.mem)⟩
  show execDieWake s = _
  unfold execDieWake State.finishDieWake
  dsimp only
  rw [if_pos hdie, if_pos ⟨hdie, hready, by simp [hlink]⟩, ← hu, ← hv, ← hw, hidle]

end

/-- Settles O46: each completion ends its operation with the status and results of what it completes, and leaves the link, the
core or the die at rest (R412, R413, R431, R456, R475, R487, R490, R493, R568). -/
theorem longOperationsEnd : Obligations.LongOperationsEnd := by
  unfold Obligations.LongOperationsEnd
  refine ⟨fun s id hlive => ⟨fun link hop => ⟨fun hstate => ?_, fun hstate => ?_⟩, fun link errors hstate hop => ?_,
    fun link errors hstate hop honly hgood hbops => ?_, fun k n b hop hblob => ?_, ?_, fun hdie hlinks hafter => ?_,
    fun l c hphys hpower hfree hkernels hbops => ?_⟩, fun s => ⟨fun hdie hms => ?_, fun hms => ?_, fun hdie => ?_, ?_⟩⟩
  · exact linkRetrainDone_ends hop hlive (.inl ⟨rfl, hstate⟩)
  · exact (linkRetrainDone_ends hop hlive (.inr ⟨rfl, hstate⟩)).imp fun t ⟨hdone, hopNone, _⟩ => ⟨hdone, hopNone⟩
  · exact loopbackDone_ends hstate hop hlive
  · have hbytes : berBytes errors = (List.range 64).flatMap fun j =>
        leBytes 2 (min 0xFFFF (errors.getD j (0, 0)).2) ++ leBytes 2 (min 0xFFFF (errors.getD j (0, 0)).1) := by
      simp only [berBytes, List.getD_eq_getElem?_getD]
    rw [← hbytes]
    exact berTestDone_ends hstate hop hlive honly hgood hbops
  · exact restoreSettingsDone_ends hop hblob hlive
  · intro l c hphys hawake hbops hasleep hnoDie hnoCore hrequest hsorted hothers hpending
    have honly : OnlyRequest s c id l := ⟨hphys, hawake, hbops, hasleep, hnoDie, hnoCore, hrequest, hsorted, hothers, hpending⟩
    refine ⟨fun hpower hwake htarget => ?_, fun hpower hlatch hwait => ?_⟩
    · exact (honly.transitionDone (honly.entryDone hwake htarget) (.inl ⟨hpower, rfl⟩)).imp fun t ⟨hstate, hdone⟩ =>
        ⟨hstate, hdone hlive⟩
    · exact (honly.transitionDone (honly.wakeDone hlatch hwait) (.inr ⟨hpower, rfl⟩)).imp fun t ⟨hstate, hdone⟩ =>
        ⟨hstate, hdone hlive⟩
  · exact transitionDone_asleep hdie hlinks hafter
  · exact powerExitTimeout_halted hphys hpower hfree hkernels hbops
  · refine (sleepTimer_wakes hdie hms).imp fun t ⟨⟨hmem, hcores, hstate⟩, hwaking, hcause⟩ => ?_
    exact ⟨hmem, hcores, hwaking, hcause, hstate 30 (.inl rfl), hstate 31 (.inr rfl)⟩
  · exact congrArg Host.Outcome.next (if_neg fun h => h.2 hms)
  · exact congrArg Host.Outcome.next (if_neg hdie)
  · intro hdie hlink hpending _ hasleep hbops hrails
    exact dieWake_completes hdie hlink hpending hasleep hbops hrails

end Sys2Proof.Machine
end

section
/-! A command that goes on after its reply, and what a taken packet leaves of a link (R419 to R423, R426). A link sent to its
training again (R395, R431). The first step of O45. -/

namespace Sys2Proof.Machine

/-! ### A command that goes on after its reply -/

section
variable {s u : State} {op : Nat} {p : Packet} {fast : Bool} {status : Nat} {results : List Byte} {after : State → State}

theorem State.take_then {handle : Cmd → State → Resp} (h : s.Takes op p)
    (hr : handle { opcode := op, p, fast, dev := (s.session.dev + 1) % 2 ^ 32 } (s.offered p) = { s := u, status, results, after })
    (hu : Replying s u p) : s.take handle { opcode := op, p, fast } = after (u.replied s op p status results) := by
  have hdev : (s.offered p).session.dev = s.session.dev := by
    obtain ⟨_, _, _, _, he, -⟩ := s.offered_eq p
    rw [he]
  have hperform : (s.offered p).perform handle { opcode := op, p, fast, dev := (s.session.dev + 1) % 2 ^ 32 } =
      ({ s := u, status, results, after }, none) := by
    have hpoll : ({ opcode := op, p, fast, dev := (s.session.dev + 1) % 2 ^ 32 } : Cmd).poll = false := h.first
    unfold State.perform
    rw [if_neg (by simp [s.knownOpcode_offered p, h.known]),
      if_neg (by simp [s.available_offered p, h.ready]), if_neg (ne_true_of_eq_false hpoll), hr]
  unfold State.take
  extract_lets before taken offered dev r
  have hcount : dev = (s.session.dev + 1) % 2 ^ 32 := congrArg (fun d => (d + 1) % 2 ^ 32) hdev
  have hresp : r = ({ s := u, status, results, after }, none) :=
    (congrArg (fun d => (s.offered p).perform handle { opcode := op, p, fast, dev := d }) hcount).trans hperform
  clear_value r dev
  subst hcount hresp
  exact congrArg after (hu.take status results)

/-- A packet that is taken is answered, and what its command does beyond the reply follows (R419 to R423). -/
theorem State.Takes.command_then {handle : Cmd → State → Resp} (h : s.Takes op p)
    (hr : handle { opcode := op, p, fast, dev := (s.session.dev + 1) % 2 ^ 32 } (s.offered p) = { s := u, status, results, after })
    (hu : Replying s u p) (hheld : (after (u.replied s op p status results)).session.held = [])
    (hbops : (after (u.replied s op p status results)).bops = []) :
    s.command handle { opcode := op, p, fast } = after (u.replied s op p status results) := by
  have htake := State.take_then h hr hu
  obtain ⟨⟨hwell, hagreed, ⟨hhello, hsync⟩, hnext, hseen, -⟩, -, -, -⟩ := h
  obtain ⟨⟨halive, hlink, hawake, -⟩, hcrc, hsingle, hversion, hseason⟩ := hwell
  have hsequence : s.sequence handle { opcode := op, p, fast } = after (u.replied s op p status results) := by
    unfold State.sequence
    dsimp only
    rw [if_neg (Int.not_lt.mpr hseen), hnext, diff32_self, if_pos rfl, htake]
    unfold State.takeHeld
    rw [hheld]
    rfl
  have hreceive : s.receive handle { opcode := op, p, fast } = after (u.replied s op p status results) :=
    (if_neg (not_not.mpr hcrc)).trans ((if_neg (ne_true_of_eq_false hsingle)).trans ((if_neg (not_not.mpr hversion)).trans
      ((if_neg (not_not.mpr hseason)).trans ((if_neg hhello).trans ((if_neg hsync).trans ((if_neg hagreed).trans hsequence))))))
  unfold State.command
  rw [if_neg (by simp [halive, hlink]), if_pos hawake, hreceive, State.unitWork_eq_self hbops]

/-- A command that may complete at once and whose handler rejects it, or has nothing to do. -/
theorem State.Takes.answered_fast {i : Instr} (h : s.Takes op p) (hexec : exec i s = .next (s.command handle { opcode := op, p, fast }))
    (hr : handle { opcode := op, p, fast, dev := (s.session.dev + 1) % 2 ^ 32 } (s.offered p) = rej (s.offered p) status) :
    Answers i s fun t => Machine.onlyReplies s t op p status [] :=
  .intro (hexec.trans (congrArg _ (h.command_fast hr h.replying))) (h.onlyReplies status)

end

/-! ### The state in which a long operation begins -/

/-- u is s with a packet taken: but for the session and what the packet's DEV_SEEN frees, nothing has changed. -/
structure PacketTaken (s u : State) : Prop where
  mem : u.mem = s.mem
  bops : u.bops = s.bops
  links : u.links = s.links
  txIdle : u.txIdle = s.txIdle
  transfers : u.transfers = s.transfers
  blobIn : u.blobIn = s.blobIn
  fields : fieldsKept s u [F.evgDiebackUnsaved.key]

section
variable {s u t : State} {op : Nat} {p : Packet} {object : Nat}

theorem State.offered_taken (s : State) (p : Packet) : PacketTaken s (s.offered p) := by
  have hfields : fieldsKept s (s.offered p) [F.evgDiebackUnsaved.key] := fun g hg => s.fld_offered_ne p (by simpa using hg)
  have hrest : (s.offered p).bops = s.bops ∧ (s.offered p).txIdle = s.txIdle ∧ (s.offered p).transfers = s.transfers ∧
      (s.offered p).blobIn = s.blobIn := by
    obtain ⟨_, _, _, _, he, -⟩ := s.offered_eq p
    rw [he]
    exact ⟨rfl, rfl, rfl, rfl⟩
  obtain ⟨hbops, hidle, htransfers, hblob⟩ := hrest
  exact ⟨s.offered_mem p, hbops, s.offered_links p, hidle, htransfers, hblob, hfields⟩

theorem PacketTaken.linkState (h : PacketTaken s u) (i : Nat) : u.linkState i = s.linkState i := by
  refine h.fields _ ?_
  simp only [List.mem_singleton, Fld.key, F.lnkStatusState, F.evgDiebackUnsaved]
  omega

theorem PacketTaken.link (h : PacketTaken s u) (i : Nat) : u.link i = s.link i := State.link_congr h.links i

theorem PacketTaken.linkExists (h : PacketTaken s u) (i : Nat) : u.linkExists i = s.linkExists i :=
  linkExists_kept h.fields (by decide) i

theorem PacketTaken.linkUp (h : PacketTaken s u) (i : Nat) : u.linkUp i = s.linkUp i := by
  rw [State.linkUp, State.linkUp, h.linkState]

theorem PacketTaken.linkOpen (h : PacketTaken s u) (i : Nat) : u.linkOpen i = s.linkOpen i := by
  rw [State.linkOpen, State.linkOpen, h.linkState]

theorem State.Takes.open (h : s.Takes op p) : s.linkOpen (30 + p.link.val) = true := h.turn.well.hears.link

/-- The packet's own link is open, so no link in another state is it. -/
theorem State.Takes.ne_link (h : s.Takes op p) {i : Nat} (hi : s.linkOpen i = false) : i ≠ 30 + p.link.val := by
  rintro rfl
  exact absurd (hi.symm.trans h.open) (by decide)

/-- A reply is only the session and what stands on its link. -/
theorem State.replied_kept (u s : State) (op : Nat) (p : Packet) (status : Nat) (results : List Byte) :
    let v := u.replied s op p status results
    v.mem = u.mem ∧ v.bops = u.bops ∧ v.txIdle = u.txIdle ∧ v.regs = u.regs ∧ v.transfers = u.transfers ∧ v.blobIn = u.blobIn ∧
      v.blobOp = u.blobOp ∧ (∀ i, i ≠ 30 + p.link.val → v.link i = u.link i) ∧ ∀ i, (v.link i).berOp = (u.link i).berOp := by
  have hlink : ∀ i, i ≠ 30 + p.link.val → (u.replied s op p status results).link i = u.link i := fun i hi =>
    State.link_sendOn_ne _ hi _ _
  have hber : ∀ i, ((u.replied s op p status results).link i).berOp = (u.link i).berOp := by
    intro i
    by_cases hi : i = 30 + p.link.val
    · subst hi
      unfold State.replied State.sendOn
      dsimp only
      split
      · rw [State.link_setLink]
        rfl
      · rfl
    · rw [hlink i hi]
  intro v
  have hsent : ∃ links, v = { u.cached s op p status results with links } := (u.cached s op p status results).sendOn_eq _ _ _
  obtain ⟨_, hsent⟩ := hsent
  refine ⟨?_, ?_, ?_, ?_, ?_, ?_, ?_, hlink, hber⟩ <;>
  · rw [hsent]
    rfl

end

/-! ### A link sent to its training again (R395, R414, R431) -/

/-- Link i of t has left its state for DETECT, and no other link has changed. -/
structure Retrained (s t : State) (i : Nat) : Prop where
  work : linkWork s t
  others : ∀ j, j ≠ i → t.link j = s.link j
  state : t.linkState i = lkDetect
  op : (t.link i).op = (s.link i).op

section
variable {s : State} {i : Nat}

/-- A link enabled listens in DETECT, its attempts forgotten. -/
theorem State.retrain_enables (hexists : s.linkExists i = true) (hidle : s.txIdle.testBit i = false)
    (hstate : s.linkState i = lkDisabled ∨ s.linkState i = lkFailed) :
    Retrained s (s.retrain i) i ∧ ((s.retrain i).link i).listening = true ∧ (s.retrain i).fld (F.lnkStatusAttempts i) = 0 := by
  obtain ⟨u, hu⟩ : ∃ u, u = s.setLink i { s.link i with tries := 0, listening := true } := ⟨_, rfl⟩
  have hretrain : s.retrain i = (u.clearLink i lkDetect).setFld (F.lnkStatusAttempts i) 0 := by
    have hnot : ¬ (s.linkState i = lkLoopback ∨ ¬ s.linkExists i ∨ s.txIdle.testBit i) := by
      rw [hexists, hidle]
      rintro (h | h | h)
      · rw [h] at hstate
        exact absurd hstate (by decide)
      · exact h rfl
      · cases h
    have hdown : s.linkUp i = false := by
      rw [State.linkUp]
      obtain h | h := hstate <;> rw [h] <;> decide
    unfold State.retrain
    dsimp only
    rw [if_neg hnot, if_neg (by simp [hdown]), if_pos hstate, hu]
  have hlink : ∀ j, (s.retrain i).link j = u.link j := fun j => by
    rw [hretrain, State.link_congr (State.setFld_links _ _ _), State.link_clearLink]
  have hkey : (F.lnkStatusState i).key ≠ (F.lnkStatusAttempts i).key := by
    simp only [ne_eq, Fld.key, F.lnkStatusState, F.lnkStatusAttempts]
    omega
  refine ⟨⟨?_, fun j hj => ?_, ?_, ?_⟩, ?_, ?_⟩
  · rw [hretrain, hu]
    exact (((linkWork.refl s).setLink i _).clearLink i _).setFld _ _
  · rw [hlink, hu, State.link_setLink_ne _ hj]
  · rw [hretrain, State.linkState, State.fld_setFld_ne _ hkey]
    exact State.linkState_clearLink _ i (by decide)
  · rw [hlink, hu, State.link_setLink]
  · rw [hlink, hu, State.link_setLink]
  · rw [hretrain, State.fld_setFld]
    rfl

theorem State.link_leaveUp_ne {j : Nat} (hj : j ≠ i) : (s.leaveUp i).link j = s.link j := by
  obtain ⟨s', hs', h⟩ := s.leaveUp_eq i
  rw [h, State.link_clearLink, State.link_setLink_ne _ hj, hs']
  split
  · rfl
  · rfl

/-- A link that is ACTIVE goes to full training with its traffic held. -/
theorem State.retrain_up (hexists : s.linkExists i = true) (hidle : s.txIdle.testBit i = false) (hstate : s.linkState i = lkActive) :
    Retrained s (s.retrain i) i ∧ ((s.retrain i).link i).keepTraffic = true ∧ ((s.retrain i).link i).txq = (s.link i).txq ∧
      ((s.retrain i).link i).replay = (s.link i).replay := by
  have hretrain : s.retrain i = (s.leaveUp i).lose 5 2 := by
    have hnot : ¬ (s.linkState i = lkLoopback ∨ ¬ s.linkExists i ∨ s.txIdle.testBit i) := by
      rw [hexists, hidle, hstate]
      rintro (h | h | h)
      · exact absurd h (by decide)
      · exact h rfl
      · cases h
    have hup : s.linkUp i = true := by
      rw [State.linkUp, hstate]
      decide
    unfold State.retrain
    dsimp only
    rw [if_neg hnot, if_pos hup, State.retrainUp]
  have hlink : (s.retrain i).link i = (s.link i).leaving (s.fld (F.lnkStatusWidth i)) := by
    rw [hretrain, State.link_lose, State.link_leaveUp]
  refine ⟨⟨?_, fun j hj => ?_, ?_, ?_⟩, ?_, ?_, ?_⟩
  · rw [hretrain]
    exact (s.linkWork_leaveUp i).lose 5 2
  · rw [hretrain, State.link_lose, State.link_leaveUp_ne hj]
  · rw [hretrain, State.linkState_lose, State.linkState_leaveUp]
  · rw [hlink]; rfl
  · rw [hlink]; rfl
  · rw [hlink]; rfl
  · rw [hlink]; rfl

theorem State.retrain_loopback (hstate : s.linkState i = lkLoopback) : s.retrain i = s := by
  unfold State.retrain
  dsimp only
  rw [if_pos (.inl hstate)]

/-- LNK_CTL_RETRAIN acts as LINK_RETRAIN with action 0 (R414). -/
theorem exec_lnkCtlRetrain {link : LinkNo} (halive : s.alive = true) (hbops : s.bops = [])
    (hwork : linkWork s (s.retrain link.val)) : exec (.lnkCtlRetrain link) s = .next (s.retrain link.val) := by
  show execLnkCtlRetrain link s = _
  unfold execLnkCtlRetrain
  rw [if_pos halive, State.unitWork_eq_self (hwork.bops.trans hbops)]

end

end Sys2Proof.Machine
end

section
/-! Image commits, link operations and restores begin (R412, R413, R426, R427, R431, R446, R456). It settles O45. -/

namespace Sys2Proof.Machine

/-! ### A long operation begins -/

/-- The state in which a long operation of a taken packet begins, from state v. -/
def State.opBegun (v : State) (op : Nat) (p : Packet) (object : Nat) : State :=
  (v.startOp op p.hostSeq.toNat p.tag.toNat object false).1.drew

section
variable {s u v t : State} {op object dev : Nat} {p : Packet} {fast : Bool}

theorem State.opBegun_eq : ∃ session fresh, v.opBegun op p object = { v with session, fresh } := ⟨_, _, rfl⟩

theorem State.Takes.starting_from (h : s.Takes op p) (hv : Replying s v p) (hsession : v.session = (s.offered p).session) (object : Nat) :
    Starting s (v.opBegun op p object) op p object := by
  obtain ⟨-, ⟨o, hops, ho⟩, hnext⟩ := h.starting object
  have hsame : (v.opBegun op p object).session.ops = v.session.ops ++ [{
      id := v.session.nextOp, opcode := op, hostSeq := p.hostSeq.toNat, tag := p.tag.toNat, object, state := 0, status := stAccepted,
      season := v.session.season, started := v.time }] := rfl
  have hid : v.session.nextOp = s.session.nextOp := by rw [hsession, s.offered_nextOp p]
  have hbefore : v.session.ops = (s.offered p).session.ops := congrArg Session.ops hsession
  refine ⟨hv.startOp _ _ _ _ _, ⟨_, hsame.trans (congrArg (· ++ _) hbefore), hid, rfl, rfl, rfl, rfl, rfl⟩, ?_⟩
  rw [← hid]
  rfl

/-- With a slot free the operation begins, and the answer is ACCEPTED with its OP_ID (R426, R427). -/
theorem State.startLong_accepts (hstart : s.canStart op p object) (hsession : v.session = (s.offered p).session)
    (begin_ : State → Nat → State) : ∃ est, v.startLong { opcode := op, p, fast, dev } object begin_ =
      { s := begin_ (v.opBegun op p object) s.session.nextOp, status := stAccepted,
        results := leBytes 2 s.session.nextOp ++ [0, 0] ++ leBytes 4 est } := by
  obtain ⟨hroom, hnone⟩ := hstart
  rw [← hsession] at hroom hnone
  have hruns : v.opRuns op object = false := List.any_eq_false.mpr fun o ho => by simpa [and_assoc] using hnone o ho
  have hid : v.session.nextOp = s.session.nextOp := by rw [hsession, s.offered_nextOp p]
  refine ⟨(v.startOp op p.hostSeq.toNat p.tag.toNat object false).1.draw 0x426, ?_⟩
  unfold State.startLong
  rw [if_neg (by simp [State.opRoom, hroom, hruns]), ← hid]
  rfl

/-- What comes after the reply leaves the session and the packet's link alone. -/
theorem starts.moved (h : starts s v op p object) (hsession : t.session = v.session)
    (hlink : t.link (30 + p.link.val) = v.link (30 + p.link.val)) : starts s t op p object := by
  unfold starts answered at h ⊢
  rwa [hsession, hlink]

theorem replies.moved {status : Nat} {results : List Byte} (h : replies s v op p status results) (hsession : t.session = v.session)
    (hlink : t.link (30 + p.link.val) = v.link (30 + p.link.val)) : replies s t op p status results := by
  unfold replies sends at h ⊢
  rwa [hsession, hlink]

theorem Replying.held_replied (h : Replying s u p) (status : Nat) (results : List Byte) :
    (u.replied s op p status results).session.held = [] := by
  rw [(u.replied_moves s op p status results).session]
  exact h.held

/-- A packet whose handler begins a long operation on its own state is answered, and the operation runs. -/
theorem State.Takes.begun {i : Instr} {begin_ : State → Nat → State} (h : s.Takes op p) (hstart : s.canStart op p object)
    (hexec : exec i s = .next (s.command handle { opcode := op, p, fast }))
    (hv : Replying s v p) (hsession : v.session = (s.offered p).session)
    (hr : handle { opcode := op, p, fast, dev := (s.session.dev + 1) % 2 ^ 32 } (s.offered p) =
      v.startLong { opcode := op, p, fast, dev := (s.session.dev + 1) % 2 ^ 32 } object begin_)
    (hu : Starting s (v.opBegun op p object) op p object →
      Starting s (begin_ (v.opBegun op p object) s.session.nextOp) op p object) :
    Answers i s fun t => starts s t op p object ∧ ∃ status results,
      t = (begin_ (v.opBegun op p object) s.session.nextOp).replied s op p status results := by
  obtain ⟨est, hlong⟩ := State.startLong_accepts (fast := fast) (dev := (s.session.dev + 1) % 2 ^ 32) hstart hsession begin_
  have hstarting := hu (h.starting_from hv hsession object)
  refine .intro (hexec.trans (congrArg _ (h.command_fast (hr.trans hlong) hstarting.replying))) ⟨hstarting.starts, _, _, rfl⟩

end

/-! ### LOAD_IMAGE_COMMIT (R446) -/

section
variable {s : State} {p : Packet}

theorem handle_loadCommit (fast : Bool) (dev : Nat) (s : State) (p : Packet) :
    handle { opcode := 0x0104, p, fast, dev } s = hLoadCommit { opcode := 0x0104, p, fast, dev } s := by
  simp [handle, handlers, tfind]

theorem State.transfer_mem {id : Nat} {x : Transfer} (h : s.transfer id = some x) : x ∈ s.transfers := by
  unfold State.transfer at h
  cases hfirst : s.transfers.find? fun t => t.id == id && !t.committed with
  | some y =>
    rw [hfirst] at h
    obtain rfl := Option.some.inj h
    exact List.mem_of_find?_eq_some hfirst
  | none =>
    rw [hfirst] at h
    exact List.mem_of_find?_eq_some h

theorem loadImageCommit_unknown (h : s.Takes 0x0104 p) (hnone : (s.offered p).transfer (packetPar p 0 2) = none) :
    Answers (.loadImageCommit p) s fun t => onlyReplies s t 0x0104 p stBadParam [] := by
  refine h.rejected rfl ((handle_loadCommit _ _ _ _).trans ?_)
  have hnone : (s.offered p).transfer (({ opcode := 0x0104, p, dev := (s.session.dev + 1) % 2 ^ 32 } : Cmd).par 0 2) = none := hnone
  unfold hLoadCommit
  rw [hnone]

/-- A transfer's commit runs for an operation. -/
def State.commitBegun (s : State) (x : Transfer) (id : Nat) : State :=
  { s with transfers := s.transfers.map fun y =>
      if y.target = x.target ∧ y.id = x.id ∧ y.committed = x.committed then { y with op := some id } else y }

theorem State.mem_commitBegun {x : Transfer} (h : x ∈ s.transfers) (id : Nat) : { x with op := some id } ∈ (s.commitBegun x id).transfers :=
  List.mem_map.mpr ⟨x, h, if_pos ⟨rfl, rfl, rfl⟩⟩

theorem hLoadCommit_known {dev : Nat} {x : Transfer} (hlen : 2 ≤ p.params.length) (hx : s.transfer (packetPar p 0 2) = some x) :
    hLoadCommit { opcode := 0x0104, p, dev } s = s.startLong { opcode := 0x0104, p, dev } 0 fun s id => s.commitBegun x id := by
  have hx : s.transfer (({ opcode := 0x0104, p, dev } : Cmd).par 0 2) = some x := hx
  have hlong : ({ opcode := 0x0104, p, dev } : Cmd).has 2 = true := decide_eq_true hlen
  unfold hLoadCommit
  rw [hx]
  dsimp only
  rw [if_neg (not_not.mpr hlong)]
  rfl

theorem loadImageCommit_begins {x : Transfer} (h : s.Takes 0x0104 p) (hlen : 2 ≤ p.params.length)
    (hx : (s.offered p).transfer (packetPar p 0 2) = some x) (hstart : s.canStart 0x0104 p 0) :
    Answers (.loadImageCommit p) s fun t => starts s t 0x0104 p 0 ∧ { x with op := some s.session.nextOp } ∈ t.transfers ∧
      t.mem = s.mem := by
  have hcommit : ∀ {u : State}, Starting s u 0x0104 p 0 → Starting s (u.commitBegun x s.session.nextOp) 0x0104 p 0 :=
    fun hs => hs.of_session rfl rfl rfl
  obtain ⟨u, hu⟩ : ∃ u, u = (s.offered p).opBegun 0x0104 p 0 := ⟨_, rfl⟩
  have hkept : u.mem = s.mem ∧ u.transfers = (s.offered p).transfers := by
    have hmem := s.offered_mem p
    obtain ⟨_, _, heq⟩ := (s.offered p).opBegun_eq (op := 0x0104) (p := p) (object := 0)
    rw [hu, heq]
    exact ⟨hmem, rfl⟩
  refine (h.begun (fast := false) hstart rfl h.replying rfl ((handle_loadCommit _ _ _ _).trans (hLoadCommit_known hlen hx))
    hcommit).imp fun t ⟨hstarts, status, results, ht⟩ => ?_
  rw [← hu] at ht
  obtain ⟨hmem, -, -, -, htransfers, -⟩ := (u.commitBegun x s.session.nextOp).replied_kept s 0x0104 p status results
  rw [ht] at hstarts ⊢
  refine ⟨hstarts, ?_, hmem.trans hkept.1⟩
  rw [htransfers]
  exact State.mem_commitBegun (hkept.2 ▸ State.transfer_mem hx) _

end

/-! ### LINK_RETRAIN (R431) -/

section
variable {s u v : State} {p : Packet} {fast : Bool} {dev i act id : Nat}

theorem handle_linkRetrain (fast : Bool) (dev : Nat) (s : State) (p : Packet) :
    handle { opcode := 0x0402, p, fast, dev } s = hLinkRetrain { opcode := 0x0402, p, fast, dev } s := by
  simp [handle, handlers, tfind]

/-- The packet's parameters are within their ranges. -/
structure RetrainForm (p : Packet) (i act : Nat) : Prop where
  length : 2 ≤ p.params.length
  link : packetPar p 0 1 = i
  linkNo : i ≤ 31
  action : packetPar p 1 1 = act
  actionNo : act ≤ 2

theorem hLinkRetrain_noLink (hform : RetrainForm p i act) (hexists : s.linkExists i = false) :
    hLinkRetrain { opcode := 0x0402, p, fast, dev } s = rej s stBadParam := by
  obtain ⟨-, rfl, -, -, -⟩ := hform
  exact if_pos (.inr (.inr (.inr (ne_true_of_eq_false hexists))))

theorem RetrainForm.passes (hform : RetrainForm p i act) (hexists : s.linkExists i = true) :
    ¬ (¬ ({ opcode := 0x0402, p, fast, dev } : Cmd).has 2 ∨ 31 < ({ opcode := 0x0402, p, fast, dev } : Cmd).par 0 1 ∨
      2 < ({ opcode := 0x0402, p, fast, dev } : Cmd).par 1 1 ∨
      ¬ s.linkExists (({ opcode := 0x0402, p, fast, dev } : Cmd).par 0 1)) := by
  obtain ⟨hlength, rfl, hlink, rfl, hact⟩ := hform
  rintro (h | h | h | h)
  · exact h (decide_eq_true hlength)
  · exact absurd (show 31 < packetPar p 0 1 from h) (by omega)
  · exact absurd (show 2 < packetPar p 1 1 from h) (by omega)
  · exact h hexists

theorem hLinkRetrain_loopback (hform : RetrainForm p i act) (hexists : s.linkExists i = true) (hstate : s.linkState i = lkLoopback) :
    hLinkRetrain { opcode := 0x0402, p, fast, dev } s = rej s stBusy := by
  have hpasses := hform.passes (fast := fast) (dev := dev) hexists
  obtain ⟨-, rfl, -, -, -⟩ := hform
  exact (if_neg hpasses).trans (if_pos hstate)

/-- Action 2 on a link that is neither DISABLED nor FAILED has nothing to do. -/
theorem hLinkRetrain_enabled (hform : RetrainForm p i 2) (hexists : s.linkExists i = true) (hdisabled : s.linkState i ≠ lkDisabled)
    (hfailed : s.linkState i ≠ lkFailed) (hloop : s.linkState i ≠ lkLoopback) :
    hLinkRetrain { opcode := 0x0402, p, fast, dev } s = rej s stOk := by
  have hpasses := hform.passes (fast := fast) (dev := dev) hexists
  obtain ⟨-, rfl, -, hact, -⟩ := hform
  exact (if_neg hpasses).trans ((if_neg hloop).trans ((if_neg fun h => h.1 hact).trans (if_pos ⟨hact, hdisabled, hfailed⟩)))

/-- The link notes its operation. -/
def State.retrainNoted (s : State) (i id : Nat) : State := s.setLink i { s.link i with op := some id }

/-- Any other LINK_RETRAIN is a long operation, unless it disables a link at once. -/
theorem hLinkRetrain_begins {w : State} {results : List Byte} (hform : RetrainForm p i act) (hexists : s.linkExists i = true)
    (hloop : s.linkState i ≠ lkLoopback) (hother : act ≠ 2 → i < 30)
    (henable : act = 2 → s.linkState i = lkDisabled ∨ s.linkState i = lkFailed) (hslow : act ≠ 1)
    (hlong : (s.startLong { opcode := 0x0402, p, fast, dev } i fun s id => s.retrainNoted i id) = { s := w, status := stAccepted, results }) :
    hLinkRetrain { opcode := 0x0402, p, fast, dev } s =
      { s := w, status := stAccepted, results, after := fun s => s.retrainAs i act } := by
  have hpasses := hform.passes (fast := fast) (dev := dev) hexists
  obtain ⟨-, rfl, -, rfl, -⟩ := hform
  refine (if_neg hpasses).trans ((if_neg hloop).trans ((if_neg ?_).trans ((if_neg ?_).trans ((if_neg fun h => hslow h.1).trans ?_))))
  · rintro ⟨hact, h30, -⟩
    exact absurd (hother hact) (Nat.not_lt.mpr h30)
  · rintro ⟨hact, hdisabled, hfailed⟩
    exact (henable hact).elim hdisabled hfailed
  · refine (congrArg (fun r : Resp => if r.status = stAccepted then
      { r with after := fun s => s.retrainAs (packetPar p 0 1) (packetPar p 1 1) } else r) hlong).trans ?_
    exact if_pos rfl

/-- Action 1 that disables a link at once. -/
theorem hLinkRetrain_disables (hform : RetrainForm p i 1) (hexists : s.linkExists i = true) (hloop : s.linkState i ≠ lkLoopback)
    (hbase : i < 30) : hLinkRetrain { opcode := 0x0402, p, fast := true, dev } s = { s, after := fun s => s.retrainAs i 1 } := by
  have hpasses := hform.passes (fast := true) (dev := dev) hexists
  obtain ⟨-, rfl, -, hact, -⟩ := hform
  refine (if_neg hpasses).trans ((if_neg hloop).trans ((if_neg ?_).trans ((if_neg ?_).trans (if_pos ⟨hact, rfl⟩))))
  · rintro ⟨-, h30, -⟩
    exact absurd hbase (Nat.not_lt.mpr h30)
  · rintro ⟨h2, -⟩
    exact absurd (hact.symm.trans h2) (by decide)

/-- In v a packet has been answered, and of link i only its operation has changed from s. -/
structure LinkNoted (s v : State) (i : Nat) (op : Option Nat) : Prop where
  mem : v.mem = s.mem
  bops : v.bops = []
  txIdle : v.txIdle = s.txIdle
  fields : fieldsKept s v [F.evgDiebackUnsaved.key]
  link : v.link i = { s.link i with op }

theorem LinkNoted.linkState {op : Option Nat} (h : LinkNoted s v i op) : v.linkState i = s.linkState i := by
  refine h.fields _ ?_
  simp only [List.mem_singleton, Fld.key, F.lnkStatusState, F.evgDiebackUnsaved]
  omega

theorem LinkNoted.linkExists {op : Option Nat} (h : LinkNoted s v i op) : v.linkExists i = s.linkExists i :=
  linkExists_kept h.fields (by decide) i

/-- LINK_RETRAIN begins: the operation runs, and after its reply the link trains as LNK_CTL_RETRAIN has it. -/
theorem linkRetrain_begins (h : s.Takes 0x0402 p) (hform : RetrainForm p i act) (hexists : s.linkExists i = true)
    (hloop : s.linkState i ≠ lkLoopback) (hother : act ≠ 2 → i < 30)
    (henable : act = 2 → s.linkState i = lkDisabled ∨ s.linkState i = lkFailed) (hslow : act ≠ 1)
    (hstart : s.canStart 0x0402 p i) (hlink : i ≠ 30 + p.link.val)
    (hwork : ∀ v, LinkNoted s v i (some s.session.nextOp) → Retrained v (v.retrain i) i) :
    ∃ v, LinkNoted s v i (some s.session.nextOp) ∧ starts s (v.retrain i) 0x0402 p i ∧
      exec (.linkRetrain p fast) s = .next (v.retrain i) := by
  have htaken := s.offered_taken p
  obtain ⟨est, hlong⟩ := State.startLong_accepts (fast := fast) (dev := (s.session.dev + 1) % 2 ^ 32) hstart rfl
    fun s id => s.retrainNoted i id
  obtain ⟨u, hu⟩ : ∃ u, u = (s.offered p).opBegun 0x0402 p i := ⟨_, rfl⟩
  have hstarting : Starting s (u.retrainNoted i s.session.nextOp) 0x0402 p i := by
    have hfrom := h.starting_from h.replying rfl i
    rw [← hu] at hfrom
    exact hfrom.of_session rfl rfl rfl
  have hkept : u.mem = s.mem ∧ u.bops = [] ∧ u.txIdle = s.txIdle ∧ u.regs = (s.offered p).regs ∧ u.link i = s.link i := by
    have hbops := h.replying.bops
    obtain ⟨_, _, heq⟩ := (s.offered p).opBegun_eq (op := 0x0402) (p := p) (object := i)
    rw [hu, heq]
    exact ⟨htaken.mem, hbops, htaken.txIdle, rfl, htaken.link i⟩
  obtain ⟨humem, hubops, huidle, huregs, hulink⟩ := hkept
  rw [← hu] at hlong
  obtain ⟨w, hw⟩ : ∃ w, w = u.retrainNoted i s.session.nextOp := ⟨_, rfl⟩
  rw [← hw] at hstarting hlong
  have hnoted : w.mem = u.mem ∧ w.bops = u.bops ∧ w.txIdle = u.txIdle ∧ w.regs = u.regs ∧
      w.link i = { u.link i with op := some s.session.nextOp } := by
    rw [hw]
    exact ⟨rfl, rfl, rfl, rfl, State.link_setLink _ _ _⟩
  obtain ⟨hwmem, hwbops, hwidle, hwregs, hwlink⟩ := hnoted
  obtain ⟨v, hv⟩ : ∃ v, v = w.replied s 0x0402 p stAccepted (leBytes 2 s.session.nextOp ++ [0, 0] ++ leBytes 4 est) := ⟨_, rfl⟩
  have hreplied := w.replied_kept s 0x0402 p stAccepted (leBytes 2 s.session.nextOp ++ [0, 0] ++ leBytes 4 est)
  have hheld := hstarting.replying.held_replied stAccepted (leBytes 2 s.session.nextOp ++ [0, 0] ++ leBytes 4 est) (op := 0x0402)
  have hstarts := hstarting.starts (est := est)
  rw [← hv] at hreplied hheld hstarts
  obtain ⟨hvmem, hvbops, hvidle, hvregs, -, -, -, hvlink, -⟩ := hreplied
  have hvnoted : LinkNoted s v i (some s.session.nextOp) := by
    refine ⟨hvmem.trans (hwmem.trans humem), hvbops.trans (hwbops.trans hubops), hvidle.trans (hwidle.trans huidle), fun g hg => ?_, ?_⟩
    · rw [State.fld_congr (hvregs.trans (hwregs.trans huregs)) g]
      exact htaken.fields g hg
    · rw [hvlink i hlink, hwlink, hulink]
  have htrained := hwork v hvnoted
  have hafter : v.retrainAs i act = v.retrain i := by
    unfold State.retrainAs
    rw [if_neg hslow, State.unitWork_eq_self (htrained.work.bops.trans hvnoted.bops)]
  refine ⟨v, hvnoted, hstarts.moved htrained.work.session (htrained.others _ hlink.symm), ?_⟩
  have hcommand := h.command_then (fast := fast) ((handle_linkRetrain _ _ _ _).trans (hLinkRetrain_begins hform
    ((htaken.linkExists i).trans hexists) (by rw [htaken.linkState]; exact hloop) hother
    (fun hact => by rw [htaken.linkState]; exact henable hact) hslow hlong)) hstarting.replying
    (by rw [← hv, hafter, htrained.work.session]; exact hheld)
    (by rw [← hv, hafter]; exact htrained.work.bops.trans hvnoted.bops)
  rw [← hv, hafter] at hcommand
  exact congrArg Host.Outcome.next hcommand

/-- LINK_RETRAIN that disables a link in DETECT at once. -/
theorem linkRetrain_disables (h : s.Takes 0x0402 p) (hform : RetrainForm p i 1) (hexists : s.linkExists i = true)
    (hstate : s.linkState i = lkDetect) (hheld : (s.link i).keepTraffic = false) (hbase : i < 30) :
    Answers (.linkRetrain p true) s fun t => replies s t 0x0402 p stOk [] ∧ t.linkState i = lkDisabled ∧
      (t.link i).listening = false := by
  have htaken := s.offered_taken p
  obtain ⟨v, hv⟩ : ∃ v, v = (s.offered p).replied s 0x0402 p stOk [] := ⟨_, rfl⟩
  have hreplied := (s.offered p).replied_kept s 0x0402 p stOk []
  have hnone := h.replying.held_replied stOk [] (op := 0x0402)
  have hreplies := h.replying.replies (s.offered_links p) stOk [] (op := 0x0402)
  rw [← hv] at hreplied hnone hreplies
  obtain ⟨-, hvbops, -, hvregs, -, -, -, hvlink, -⟩ := hreplied
  have hlink : i ≠ 30 + p.link.val := by omega
  have hvstate : v.linkState i = lkDetect := by
    rw [State.linkState, State.fld_congr hvregs]
    exact (htaken.linkState i).trans hstate
  have hvkeep : (v.link i).keepTraffic = false := by rw [hvlink i hlink, htaken.link, hheld]
  obtain ⟨w, hw⟩ : ∃ w, w = (v.clearLink i lkDisabled).setLink i { (v.clearLink i lkDisabled).link i with listening := false } := ⟨_, rfl⟩
  have hwork : linkWork v w := hw ▸ ((linkWork.refl v).clearLink i _).setLink i _
  have hwbops : w.bops = [] := hwork.bops.trans (hvbops.trans h.replying.bops)
  have hafter : v.retrainAs i 1 = w := by
    have hdown : v.downIfUp i lkDisabled = v.clearLink i lkDisabled := by
      unfold State.downIfUp
      rw [State.linkUp, hvstate, hvkeep, if_neg (by decide)]
    unfold State.retrainAs
    dsimp only
    rw [if_pos rfl, if_neg (Nat.not_le.mpr hbase), hdown, ← hw, State.unitWork_eq_self hwbops]
  have hcommand := h.command_then (fast := true) ((handle_linkRetrain _ _ _ _).trans (hLinkRetrain_disables hform
    ((htaken.linkExists i).trans hexists) (by rw [htaken.linkState, hstate]; decide) hbase)) h.replying
    (by rw [← hv, hafter, hwork.session]; exact hnone) (by rw [← hv, hafter]; exact hwbops)
  rw [← hv, hafter] at hcommand
  refine .intro (congrArg Host.Outcome.next hcommand) ⟨hreplies.moved hwork.session ?_, ?_, ?_⟩
  · rw [hw, State.link_setLink_ne _ hlink.symm, State.link_clearLink]
  · rw [hw, State.linkState_setLink, State.linkState_clearLink _ i (by decide)]
  · rw [hw, State.link_setLink]

end

/-! ### LINK_LOOPBACK (R412) -/

section
variable {s u : State} {p : Packet} {dev i : Nat}

theorem handle_linkLoopback (fast : Bool) (dev : Nat) (s : State) (p : Packet) :
    handle { opcode := 0x0403, p, fast, dev } s = hLinkLoopback { opcode := 0x0403, p, fast, dev } s := by
  simp [handle, handlers, tfind]

/-- The packet names a link, a direction and a time of at most a minute. -/
structure LoopbackForm (p : Packet) (i : Nat) : Prop where
  length : 8 ≤ p.params.length
  link : packetPar p 0 1 = i
  linkNo : i ≤ 31
  action : packetPar p 1 1 ≤ 1
  some : 1 ≤ packetPar p 4 4
  short : packetPar p 4 4 ≤ 60000

theorem LoopbackForm.passes (hform : LoopbackForm p i) :
    ¬ (¬ ({ opcode := 0x0403, p, dev } : Cmd).has 8 ∨ 31 < packetPar p 0 1 ∨ 1 < packetPar p 1 1 ∨ packetPar p 4 4 = 0 ∨
      60000 < packetPar p 4 4) := by
  obtain ⟨hlength, rfl, hlink, hact, hsome, hshort⟩ := hform
  rintro (h | h | h | h | h)
  · exact h (decide_eq_true hlength)
  all_goals omega

/-- A link loops back for an operation. -/
def State.loopbackBegun (s : State) (i st id : Nat) : State :=
  (s.setLink i { s.link i with prior := st, loopOp := some id }).setFld (F.lnkStatusState i) lkLoopback

theorem hLinkLoopback_busy (hform : LoopbackForm p i)
    (hstate : ¬ (s.linkState i = lkDisabled ∨ s.linkState i = lkDetect ∨ s.linkState i = lkFailed)) :
    hLinkLoopback { opcode := 0x0403, p, dev } s = rej s stBusy := by
  have hpasses := hform.passes (dev := dev)
  obtain ⟨-, rfl, -, -, -, -⟩ := hform
  rw [not_or, not_or] at hstate
  exact (if_neg hpasses).trans (if_pos (.inl hstate))

theorem hLinkLoopback_begins (hform : LoopbackForm p i) (hexists : s.linkExists i = true)
    (hstate : s.linkState i = lkDisabled ∨ s.linkState i = lkDetect ∨ s.linkState i = lkFailed) :
    hLinkLoopback { opcode := 0x0403, p, dev } s =
      s.startLong { opcode := 0x0403, p, dev } i fun u id => u.loopbackBegun i (s.linkState i) id := by
  have hpasses := hform.passes (dev := dev)
  obtain ⟨-, rfl, -, -, -, -⟩ := hform
  refine (if_neg hpasses).trans (if_neg ?_)
  rintro (⟨hdisabled, hdetect, hfailed⟩ | ⟨hno, -⟩)
  · exact hstate.elim hdisabled (Or.elim · hdetect hfailed)
  · exact hno hexists

theorem linkLoopback_begins (h : s.Takes 0x0403 p) (hform : LoopbackForm p i) (hexists : s.linkExists i = true)
    (hstate : s.linkState i = lkDisabled ∨ s.linkState i = lkDetect ∨ s.linkState i = lkFailed) (hstart : s.canStart 0x0403 p i) :
    Answers (.linkLoopback p) s fun t => starts s t 0x0403 p i ∧ t.linkState i = lkLoopback ∧
      (t.link i).prior = s.linkState i ∧ (t.link i).loopOp = some s.session.nextOp ∧ t.mem = s.mem := by
  have htaken := s.offered_taken p
  have hlink : i ≠ 30 + p.link.val := by
    refine h.ne_link ?_
    rw [State.linkOpen]
    obtain hst | hst | hst := hstate <;> rw [hst] <;> decide
  have hst := htaken.linkState i
  have hup : ∀ u : State, (u.loopbackBegun i (s.linkState i) s.session.nextOp).linkUp (30 + p.link.val) = u.linkUp (30 + p.link.val) := by
    intro u
    have hkey : (F.lnkStatusState (30 + p.link.val)).key ≠ (F.lnkStatusState i).key := by
      simp only [ne_eq, Fld.key, F.lnkStatusState]
      omega
    unfold State.loopbackBegun
    rw [State.linkUp, State.linkUp, State.linkState, State.fld_setFld_ne _ hkey]
    rfl
  have hr := hLinkLoopback_begins (dev := (s.session.dev + 1) % 2 ^ 32) hform ((htaken.linkExists i).trans hexists)
    (by rw [hst]; exact hstate)
  rw [hst] at hr
  obtain ⟨u, hu⟩ : ∃ u, u = (s.offered p).opBegun 0x0403 p i := ⟨_, rfl⟩
  have hkept : u.mem = s.mem := by
    have hmem := s.offered_mem p
    obtain ⟨_, _, heq⟩ := (s.offered p).opBegun_eq (op := 0x0403) (p := p) (object := i)
    rw [hu, heq]
    exact hmem
  refine (h.begun (fast := false) hstart rfl h.replying rfl ((handle_linkLoopback _ _ _ _).trans hr)
    fun hs => hs.of_session rfl rfl (hup _)).imp fun t ⟨hstarts, status, results, ht⟩ => ?_
  rw [← hu] at ht
  obtain ⟨hmem, -, -, hregs, -, -, -, hlinks, -⟩ := (u.loopbackBegun i (s.linkState i) s.session.nextOp).replied_kept s 0x0403 p status results
  have hbegun : (u.loopbackBegun i (s.linkState i) s.session.nextOp).link i =
      { u.link i with prior := s.linkState i, loopOp := some s.session.nextOp } := by
    unfold State.loopbackBegun
    rw [State.link_congr (State.setFld_links _ _ _), State.link_setLink]
  rw [ht] at hstarts ⊢
  refine ⟨hstarts, ?_, ?_, ?_, hmem.trans hkept⟩
  · rw [State.linkState, State.fld_congr hregs, State.loopbackBegun, State.fld_setFld]
    rfl
  · rw [hlinks i hlink, hbegun]
  · rw [hlinks i hlink, hbegun]

end

/-! ### LINK_BER_TEST (R413) -/

/-- A link under test for an operation. -/
def State.testBegun (s : State) (k id : Nat) : State :=
  (s.toBerTest k).setLink k { (s.toBerTest k).link k with berOp := some id, berRes := [] }

/-- The named links under test for an operation. -/
def State.berBegun (s : State) (l : List Nat) (id : Nat) : State := l.foldl (fun s k => s.testBegun k id) s

/-- Link k is tested for an operation. -/
def State.tests (s : State) (k id : Nat) : Prop := s.linkState k = lkBerTest ∧ (s.link k).berOp = some id

/-- From s to t links have begun to be tested. -/
structure BerWork (s t : State) : Prop where
  mem : t.mem = s.mem
  session : t.session = s.session
  bops : t.bops = s.bops
  up : ∀ j, t.linkUp j = s.linkUp j

section
variable {s : State} {k id : Nat}

theorem State.toBerTest_rest : (s.toBerTest k).mem = s.mem ∧ (s.toBerTest k).session = s.session ∧ (s.toBerTest k).bops = s.bops := by
  unfold State.toBerTest
  split
  · exact ⟨rfl, rfl, rfl⟩
  · exact ⟨rfl, rfl, rfl⟩

theorem State.linkState_toBerTest (h : s.linkState k = lkActive ∨ s.linkState k = lkBerTest) : (s.toBerTest k).linkState k = lkBerTest := by
  unfold State.toBerTest
  split
  · rw [State.linkState_setLink, State.linkState, State.fld_setFld]
    rfl
  · next hactive => exact h.resolve_left hactive

theorem State.toBerTest_ne {j : Nat} (hj : j ≠ k) : (s.toBerTest k).linkState j = s.linkState j ∧ (s.toBerTest k).link j = s.link j := by
  have hkey : (F.lnkStatusState j).key ≠ (F.lnkStatusState k).key := by
    simp only [ne_eq, Fld.key, F.lnkStatusState]
    omega
  unfold State.toBerTest
  split
  · rw [State.linkState_setLink, State.linkState, State.fld_setFld_ne _ hkey, State.link_setLink_ne _ hj]
    exact ⟨rfl, rfl⟩
  · exact ⟨rfl, rfl⟩

/-- A link that is tested is up, as an ACTIVE one is. -/
theorem State.linkUp_toBerTest (j : Nat) : (s.toBerTest k).linkUp j = s.linkUp j := by
  by_cases hj : j = k
  · subst hj
    by_cases hactive : s.linkState j = lkActive
    · rw [State.linkUp, State.linkUp, State.linkState_toBerTest (.inl hactive), hactive]
      rfl
    · rw [State.toBerTest, if_neg hactive]
  · rw [State.linkUp, State.linkUp, (State.toBerTest_ne hj).1]

theorem BerWork.testBegun : BerWork s (s.testBegun k id) := by
  obtain ⟨hmem, hsession, hbops⟩ := State.toBerTest_rest (s := s) (k := k)
  exact ⟨hmem, hsession, hbops, State.linkUp_toBerTest⟩

theorem State.testBegun_tests (h : s.linkState k = lkActive ∨ s.tests k id) : (s.testBegun k id).tests k id := by
  have hstate := State.linkState_toBerTest (h.imp_right And.left)
  refine ⟨?_, ?_⟩
  · rw [State.testBegun, State.linkState_setLink, hstate]
  · rw [State.testBegun, State.link_setLink]

theorem State.testBegun_ne {j : Nat} (hj : j ≠ k) : (s.testBegun k id).linkState j = s.linkState j ∧ (s.testBegun k id).link j = s.link j := by
  obtain ⟨hstate, hlink⟩ := State.toBerTest_ne (s := s) hj
  rw [State.testBegun, State.linkState_setLink, State.link_setLink_ne _ hj]
  exact ⟨hstate, hlink⟩

theorem BerWork.berBegun (l : List Nat) : BerWork s (s.berBegun l id) := by
  refine List.foldlRecOn (motive := BerWork s) _ _ ⟨rfl, rfl, rfl, fun _ => rfl⟩ fun u hu j _ => ?_
  obtain ⟨hmem, hsession, hbops, hup⟩ := BerWork.testBegun (s := u) (k := j) (id := id)
  exact ⟨hmem.trans hu.mem, hsession.trans hu.session, hbops.trans hu.bops, fun i => (hup i).trans (hu.up i)⟩

/-- Every ACTIVE link that is named is tested. -/
theorem State.berBegun_tests {l : List Nat} (h : s.tests k id ∨ (k ∈ l ∧ s.linkState k = lkActive)) : (s.berBegun l id).tests k id := by
  induction l generalizing s with
  | nil => exact h.resolve_right fun h => nomatch h.1
  | cons j l ih =>
    refine ih (s := s.testBegun j id) ?_
    by_cases hj : k = j
    · subst hj
      exact .inl (State.testBegun_tests (h.symm.imp_left And.right))
    · obtain ⟨hstate, hlink⟩ := State.testBegun_ne (s := s) (id := id) hj
      rw [State.tests, hstate, hlink]
      exact h.imp_right fun ⟨hmem, hactive⟩ => ⟨(List.mem_cons.mp hmem).resolve_left hj, hactive⟩

end

section
variable {s u : State} {p : Packet} {dev i : Nat}

theorem handle_linkBerTest (fast : Bool) (dev : Nat) (s : State) (p : Packet) :
    handle { opcode := 0x0404, p, fast, dev } s = hLinkBerTest { opcode := 0x0404, p, fast, dev } s := by
  simp [handle, handlers, tfind]

/-- The packet names a link, or every link, and a time of at most a minute. -/
structure BerForm (p : Packet) (i : Nat) : Prop where
  length : 8 ≤ p.params.length
  link : packetPar p 0 1 = i
  linkNo : i ≤ 31 ∨ i = 0xFF
  some : 1 ≤ packetPar p 4 4
  short : packetPar p 4 4 ≤ 60000

theorem BerForm.passes (hform : BerForm p i) :
    ¬ (¬ ({ opcode := 0x0404, p, dev } : Cmd).has 8 ∨ (31 < packetPar p 0 1 ∧ packetPar p 0 1 ≠ 0xFF) ∨ packetPar p 4 4 = 0 ∨
      60000 < packetPar p 4 4) := by
  obtain ⟨hlength, rfl, hlink, hsome, hshort⟩ := hform
  rintro (h | h | h | h)
  · exact h (decide_eq_true hlength)
  all_goals omega

/-- The links that the packet names. -/
def State.berNamed (s : State) (i : Nat) : List Nat :=
  if i = 0xFF then (List.range 30).filter fun k => s.linkState k == lkActive && (s.link k).berOp.isNone else [i]

theorem hLinkBerTest_busy (hform : BerForm p i) (hone : i ≠ 0xFF) (hstate : s.linkState i ≠ lkActive) :
    hLinkBerTest { opcode := 0x0404, p, dev } s = rej s stBusy := by
  have hpasses := hform.passes (dev := dev)
  obtain ⟨-, rfl, -, -, -⟩ := hform
  exact (if_neg hpasses).trans (if_pos ⟨hone, .inl hstate⟩)

theorem hLinkBerTest_begins (hform : BerForm p i)
    (hfree : i ≠ 0xFF → s.linkState i = lkActive ∧ (s.link i).berOp = none ∧ (i < 30 ∨ s.linkOpen (61 - i) = true))
    (hnamed : s.berNamed i ≠ []) :
    hLinkBerTest { opcode := 0x0404, p, dev } s = s.startLong { opcode := 0x0404, p, dev } i fun u id => u.berBegun (s.berNamed i) id := by
  have hpasses := hform.passes (dev := dev)
  have hsome : (s.berNamed i).isEmpty = false := by simpa using hnamed
  obtain ⟨-, rfl, -, -, -⟩ := hform
  refine (if_neg hpasses).trans ((if_neg ?_).trans ?_)
  · rintro ⟨hone, hbusy⟩
    obtain ⟨hactive, hnone, hother⟩ := hfree hone
    obtain hbusy | hbusy | ⟨h30, hclosed⟩ := hbusy
    · exact hbusy hactive
    · exact absurd (hnone ▸ hbusy : (none : Option Nat).isSome = true) (by decide)
    · exact hother.elim (fun h => absurd h (Nat.not_lt.mpr h30)) hclosed
  · refine congrArg (s.startLong { opcode := 0x0404, p, dev } (packetPar p 0 1)) (funext fun u => funext fun id => ?_)
    exact if_neg (ne_true_of_eq_false hsome)

/-- LINK_BER_TEST of links that are ACTIVE begins: each named link is tested for the operation. -/
theorem linkBerTest_begins (h : s.Takes 0x0404 p) (hform : BerForm p i)
    (hfree : i ≠ 0xFF → s.linkState i = lkActive ∧ (s.link i).berOp = none ∧ (i < 30 ∨ s.linkOpen (61 - i) = true))
    (hnamed : s.berNamed i ≠ []) (hstart : s.canStart 0x0404 p i) :
    Answers (.linkBerTest p) s fun t => starts s t 0x0404 p i ∧ t.mem = s.mem ∧
      ∀ k ∈ s.berNamed i, s.linkState k = lkActive → t.tests k s.session.nextOp := by
  have htaken := s.offered_taken p
  have hsame : (s.offered p).berNamed i = s.berNamed i := by
    unfold State.berNamed
    simp only [htaken.linkState, htaken.link]
  have hr := hLinkBerTest_begins (dev := (s.session.dev + 1) % 2 ^ 32) (s := s.offered p) hform
    (by rw [htaken.linkState, htaken.link, htaken.linkOpen]; exact hfree) (hsame ▸ hnamed)
  rw [hsame] at hr
  obtain ⟨u, hu⟩ : ∃ u, u = (s.offered p).opBegun 0x0404 p i := ⟨_, rfl⟩
  have hkept : u.mem = s.mem ∧ ∀ k, u.linkState k = s.linkState k := by
    have hmem := s.offered_mem p
    have hstate := htaken.linkState
    obtain ⟨_, _, heq⟩ := (s.offered p).opBegun_eq (op := 0x0404) (p := p) (object := i)
    rw [hu, heq]
    exact ⟨hmem, hstate⟩
  have hwork := BerWork.berBegun (s := u) (id := s.session.nextOp) (s.berNamed i)
  refine (h.begun (fast := false) hstart rfl h.replying rfl ((handle_linkBerTest _ _ _ _).trans hr)
    fun hs => hs.of_session (hu ▸ hwork.session) (hu ▸ hwork.bops) (hu ▸ hwork.up _)).imp fun t ⟨hstarts, status, results, ht⟩ => ?_
  rw [← hu] at ht
  obtain ⟨hmem, -, -, hregs, -, -, -, -, hber⟩ := (u.berBegun (s.berNamed i) s.session.nextOp).replied_kept s 0x0404 p status results
  rw [ht] at hstarts ⊢
  refine ⟨hstarts, hmem.trans (hwork.mem.trans hkept.1), fun k hk hactive => ?_⟩
  obtain ⟨hstate, hop⟩ := State.berBegun_tests (s := u) (id := s.session.nextOp) (.inr ⟨hk, (hkept.2 k).trans hactive⟩)
  exact ⟨(State.fld_congr hregs _).trans hstate, (hber k).trans hop⟩

end

/-! ### RESTORE_SETTINGS (R456) -/

/-- A part of a blob put behind those before it. -/
def State.blobGot (s : State) (parts part : Nat) (b : List Byte) : State := { s with blobIn := some (parts, part, b) }

/-- The check of a complete blob runs for an operation. -/
def State.blobChecked (s : State) (id : Nat) : State := { s with blobOp := some id }

/-- The packet's part follows those that have come. -/
structure BlobNext (s : State) (p : Packet) (part parts : Nat) (b : List Byte) : Prop where
  length : 8 ≤ p.params.length
  number : packetPar p 0 2 = part
  total : packetPar p 2 2 = parts
  early : s.stage < 3
  idle : s.blobOp = none
  before : (part = 0 ∧ b = []) ∨ (part ≠ 0 ∧ s.blobIn = some (parts, part, b))

section
variable {s : State} {p : Packet} {fast : Bool} {dev part parts : Nat} {b : List Byte}

theorem handle_restoreSettings (fast : Bool) (dev : Nat) (s : State) (p : Packet) :
    handle { opcode := 0x0112, p, fast, dev } s = hRestoreSettings { opcode := 0x0112, p, fast, dev } s := by
  simp [handle, handlers, tfind]

/-- The parts before the packet's. -/
theorem BlobNext.prev (h : BlobNext s p part parts b) : (match s.blobIn with
    | some (n, k, b) => if part = 0 then some [] else if n = parts ∧ k = part then some b else none
    | none => if part = 0 then some [] else none) = some b := by
  obtain ⟨-, -, -, -, -, ⟨hpart, hb⟩ | ⟨hpart, hb⟩⟩ := h
  · subst hb
    split
    · exact if_pos hpart
    · exact if_pos hpart
  · rw [hb]
    exact (if_neg hpart).trans (if_pos ⟨rfl, rfl⟩)

theorem hRestoreSettings_gets (h : BlobNext s p part parts b) (hmore : part + 1 < parts) :
    hRestoreSettings { opcode := 0x0112, p, fast, dev } s = { s := s.blobGot parts (part + 1) (b ++ p.params.drop 8) } := by
  have hprev := h.prev
  obtain ⟨hlength, rfl, rfl, hearly, hidle, -⟩ := h
  have hlt : packetPar p 0 2 < packetPar p 2 2 := by omega
  unfold hRestoreSettings
  extract_lets part parts data prev
  have hlt : part < parts := hlt
  have hhas : ({ opcode := 0x0112, p, fast, dev } : Cmd).has 8 = true := decide_eq_true hlength
  have hprev : prev = some b := hprev
  have hmore : part + 1 < parts := hmore
  rw [if_neg (not_or.mpr ⟨not_not.mpr hhas, Nat.not_le.mpr hlt⟩), if_neg (by rw [hidle]; simp; omega), hprev]
  dsimp only
  rw [if_neg (by omega), if_pos hmore]
  rfl

theorem hRestoreSettings_checks (h : BlobNext s p part parts b) (hlast : part + 1 = parts) (hroom : s.opRoom = true) :
    hRestoreSettings { opcode := 0x0112, p, dev } s = (s.blobGot parts (part + 1) (b ++ p.params.drop 8)).startLong
      { opcode := 0x0112, p, dev } 0 fun u id => u.blobChecked id := by
  have hprev := h.prev
  obtain ⟨hlength, rfl, rfl, hearly, hidle, -⟩ := h
  have hlt : packetPar p 0 2 < packetPar p 2 2 := by omega
  unfold hRestoreSettings
  extract_lets part parts data prev
  have hlt : part < parts := hlt
  have hhas : ({ opcode := 0x0112, p, dev } : Cmd).has 8 = true := decide_eq_true hlength
  have hprev : prev = some b := hprev
  have hlast : part + 1 = parts := hlast
  rw [if_neg (not_or.mpr ⟨not_not.mpr hhas, Nat.not_le.mpr hlt⟩), if_neg (by rw [hidle]; simp; omega), hprev]
  dsimp only
  rw [if_neg (by simp [hroom]), if_neg (by omega), if_neg (by simp)]
  rfl

theorem State.offered_blobNext (h : BlobNext s p part parts b) : BlobNext (s.offered p) p part parts b := by
  obtain ⟨hlength, hpart, hparts, hearly, hidle, hbefore⟩ := h
  have hstage : (s.offered p).stage = s.stage := s.fld_offered_ne p (g := F.evgBootStage) (by decide)
  have hop : (s.offered p).blobOp = s.blobOp := by
    obtain ⟨_, _, _, _, he, -⟩ := s.offered_eq p
    rw [he]
  exact ⟨hlength, hpart, hparts, hstage ▸ hearly, hop.trans hidle, (s.offered_taken p).blobIn ▸ hbefore⟩

/-- A part that is not the last is kept. -/
theorem restoreSettings_gathers (h : s.Takes 0x0112 p) (hnext : BlobNext s p part parts b) (hmore : part + 1 < parts) :
    Answers (.restoreSettings p fast) s fun t => replies s t 0x0112 p stOk [] ∧
      t.blobIn = some (parts, part + 1, b ++ p.params.drop 8) ∧ t.mem = s.mem := by
  obtain ⟨v, hv⟩ : ∃ v, v = (s.offered p).blobGot parts (part + 1) (b ++ p.params.drop 8) := ⟨_, rfl⟩
  have hkept : v.mem = (s.offered p).mem ∧ v.links = (s.offered p).links ∧ v.blobIn = some (parts, part + 1, b ++ p.params.drop 8) := by
    rw [hv]
    exact ⟨rfl, rfl, rfl⟩
  have hreplying : Replying s v p := hv ▸ h.replying.of_session rfl rfl rfl
  have hcommand := h.command_fast (fast := fast) ((handle_restoreSettings _ _ _ _).trans
    (hRestoreSettings_gets (State.offered_blobNext hnext) hmore)) (hv ▸ hreplying)
  rw [← hv] at hcommand
  obtain ⟨hmem, -, -, -, -, hblob, -⟩ := v.replied_kept s 0x0112 p stOk []
  exact .intro (congrArg Host.Outcome.next hcommand) ⟨hreplying.replies (hkept.2.1.trans (s.offered_links p)) stOk [],
    hblob.trans hkept.2.2, hmem.trans (hkept.1.trans (s.offered_mem p))⟩

/-- The last part begins the check of the blob. -/
theorem restoreSettings_begins (h : s.Takes 0x0112 p) (hnext : BlobNext s p part parts b) (hlast : part + 1 = parts)
    (hstart : s.canStart 0x0112 p 0) : Answers (.restoreSettings p false) s fun t => starts s t 0x0112 p 0 ∧
      t.blobIn = some (parts, part + 1, b ++ p.params.drop 8) ∧ t.blobOp = some s.session.nextOp := by
  obtain ⟨v, hv⟩ : ∃ v, v = (s.offered p).blobGot parts (part + 1) (b ++ p.params.drop 8) := ⟨_, rfl⟩
  have hkept : v.session = (s.offered p).session ∧ v.blobIn = some (parts, part + 1, b ++ p.params.drop 8) := by
    rw [hv]
    exact ⟨rfl, rfl⟩
  have hreplying : Replying s v p := hv ▸ h.replying.of_session rfl rfl rfl
  have hr := hRestoreSettings_checks (dev := (s.session.dev + 1) % 2 ^ 32) (State.offered_blobNext hnext) hlast (decide_eq_true hstart.1)
  rw [← hv] at hr
  refine (h.begun (fast := false) hstart rfl hreplying hkept.1 ((handle_restoreSettings _ _ _ _).trans hr)
    fun hs => hs.of_session rfl rfl rfl).imp fun t ⟨hstarts, status, results, ht⟩ => ?_
  obtain ⟨u, hu⟩ : ∃ u, u = v.opBegun 0x0112 p 0 := ⟨_, rfl⟩
  have hublob : u.blobIn = v.blobIn := by
    obtain ⟨_, _, heq⟩ := v.opBegun_eq (op := 0x0112) (p := p) (object := 0)
    rw [hu, heq]
  rw [← hu] at ht
  obtain ⟨-, -, -, -, -, hblob, hop, -⟩ := (u.blobChecked s.session.nextOp).replied_kept s 0x0112 p status results
  rw [ht] at hstarts ⊢
  exact ⟨hstarts, hblob.trans (hublob.trans hkept.2), hop⟩

end

/-- Settles O45: each command that may begin is answered ACCEPTED and its link, transfer or blob notes the operation; the others
are answered with the status of the check that fails (R412, R413, R414, R427, R431, R446, R456). -/
theorem longOperationsBegin : Obligations.LongOperationsBegin := by
  unfold Obligations.LongOperationsBegin
  refine ⟨fun s p fast => ?_, fun s hbops link halive hexists hidle => ⟨fun hstate => ?_, fun hstate => ?_, fun hstate => ?_⟩⟩
  · intro u n i act ms id
    refine ⟨fun h hlen => ⟨fun hnone => loadImageCommit_unknown h hnone, fun x hx hstart => loadImageCommit_begins h hlen hx hstart⟩,
      ?_, ?_, fun h hlen hi hms hshort => ⟨fun hstate => ?_, fun hstate hnone hother hstart => ?_⟩,
      fun h hlen hi hms hshort hstart hsome => ?_, ?_⟩
    · intro h hlen hi hact st
      have htaken := s.offered_taken p
      have hform : RetrainForm p i act := ⟨hlen, rfl, hi, rfl, hact⟩
      refine ⟨fun hexists => ?_, fun hexists hidle => ?_⟩
      · exact h.answered_fast rfl ((handle_linkRetrain _ _ _ _).trans (hLinkRetrain_noLink hform ((htaken.linkExists i).trans hexists)))
      · have hexists' := (htaken.linkExists i).trans hexists
        have hstate' := htaken.linkState i
        refine ⟨fun hst => ?_, fun hact2 hdisabled hfailed hloop => ?_, fun hact2 hst hstart => ?_, fun hact0 hbase hst hstart => ?_,
          fun hact1 hfast hst hheld hbase => ?_⟩
        · exact h.answered_fast rfl ((handle_linkRetrain _ _ _ _).trans (hLinkRetrain_loopback hform hexists' (hstate'.trans hst)))
        · exact h.answered_fast rfl ((handle_linkRetrain _ _ _ _).trans (hLinkRetrain_enabled (hact2 ▸ hform) hexists'
            (by rw [hstate']; exact hdisabled) (by rw [hstate']; exact hfailed) (by rw [hstate']; exact hloop)))
        · have hst : s.linkState i = lkDisabled ∨ s.linkState i = lkFailed := hst
          have hlink : i ≠ 30 + p.link.val := by
            refine h.ne_link ?_
            rw [State.linkOpen]
            obtain hst | hst := hst <;> rw [hst] <;> decide
          have henables : ∀ v, LinkNoted s v i (some id) → _ := fun v hv => State.retrain_enables (hv.linkExists.trans hexists)
            (hv.txIdle ▸ hidle) (by rw [hv.linkState]; exact hst)
          obtain ⟨v, hv, hstarts, hexec⟩ := linkRetrain_begins (fast := fast) h hform hexists
            (by obtain hst | hst := hst <;> rw [hst] <;> decide) (fun hne => absurd hact2 hne) (fun _ => hst) (by omega) hstart hlink
            fun v hv => (henables v hv).1
          obtain ⟨hretrained, hlisten, hattempts⟩ := henables v hv
          exact .intro hexec ⟨hstarts, hretrained.state, hlisten, hretrained.op.trans (by rw [hv.link]), hattempts,
            hretrained.work.mem.trans hv.mem⟩
        · have hst : s.linkState i = lkActive := hst
          have hups : ∀ v, LinkNoted s v i (some id) → _ := fun v hv => State.retrain_up (hv.linkExists.trans hexists)
            (hv.txIdle ▸ hidle) (hv.linkState.trans hst)
          obtain ⟨v, hv, hstarts, hexec⟩ := linkRetrain_begins (fast := fast) h hform hexists
            (by rw [hst]; decide) (fun _ => hbase) (fun hact2 => absurd (hact0.symm.trans hact2) (by decide)) (by omega) hstart (by omega)
            fun v hv => (hups v hv).1
          obtain ⟨hretrained, hkeep, htxq, hreplay⟩ := hups v hv
          exact .intro hexec ⟨hstarts, hretrained.state, hkeep, hretrained.op.trans (by rw [hv.link]), htxq.trans (by rw [hv.link]),
            hreplay.trans (by rw [hv.link]), hretrained.work.mem.trans hv.mem⟩
        · rw [hfast]
          exact linkRetrain_disables h (hact1 ▸ hform) hexists hst hheld hbase
    · intro h hlen hi hact hms hshort hexists st free
      refine ⟨fun hbusy => ?_, fun hfree hstart => ?_⟩
      · refine h.rejected rfl ((handle_linkLoopback _ _ _ _).trans (hLinkLoopback_busy ⟨hlen, rfl, hi, hact, hms, hshort⟩ ?_))
        rw [(s.offered_taken p).linkState]
        exact hbusy
      · exact linkLoopback_begins h ⟨hlen, rfl, hi, hact, hms, hshort⟩ hexists hfree hstart
    · refine h.rejected rfl ((handle_linkBerTest _ _ _ _).trans (hLinkBerTest_busy ⟨hlen, rfl, .inl hi, hms, hshort⟩ ?_ ?_))
      · show i ≠ 0xFF
        omega
      · rw [(s.offered_taken p).linkState]
        exact hstate
    · have hnamed : s.berNamed i = [i] := if_neg (by omega)
      refine (linkBerTest_begins h ⟨hlen, rfl, .inl hi, hms, hshort⟩ (fun _ => ⟨hstate, hnone, hother⟩) (by rw [hnamed]; simp) hstart).imp
        fun t ⟨hstarts, hmem, htests⟩ => ?_
      obtain ⟨htest, hop⟩ := htests i (by rw [hnamed]; simp) hstate
      exact ⟨hstarts, htest, hop, hmem⟩
    · have hnamed : ∀ k, k < 30 → s.linkState k = lkActive → (s.link k).berOp = none → k ∈ s.berNamed i := by
        intro k hk hactive hnone
        rw [State.berNamed, if_pos hi]
        exact List.mem_filter.mpr ⟨List.mem_range.mpr hk, by simp [hactive, hnone]⟩
      obtain ⟨k, hk, hactive, hnone⟩ := hsome
      refine (linkBerTest_begins h ⟨hlen, rfl, .inr hi, hms, hshort⟩ (fun hne => absurd hi hne)
        (List.ne_nil_of_mem (hnamed k hk hactive hnone)) hstart).imp fun t ⟨hstarts, _, htests⟩ => ?_
      exact ⟨hstarts, fun k hk hactive hnone => htests k (hnamed k hk hactive hnone) hactive⟩
    · intro h hlen hearly hidle part parts b hbefore
      have hnext : BlobNext s p part parts b := ⟨hlen, rfl, rfl, hearly, hidle, hbefore⟩
      refine ⟨fun hmore => restoreSettings_gathers h hnext hmore, fun hlast hslow hstart => ?_⟩
      rw [hslow]
      exact restoreSettings_begins h hnext hlast hstart
  · obtain ⟨hretrained, hkeep, htxq, -⟩ := State.retrain_up hexists hidle hstate
    exact .intro (exec_lnkCtlRetrain halive hbops hretrained.work) ⟨hretrained.state, hkeep, htxq, hretrained.work.mem⟩
  · have hsame := State.retrain_loopback hstate
    have hexec := exec_lnkCtlRetrain (link := link) halive hbops (by rw [hsame]; exact linkWork.refl s)
    rwa [hsame] at hexec
  · obtain ⟨hretrained, hlisten, hattempts⟩ := State.retrain_enables hexists hidle hstate
    exact .intro (exec_lnkCtlRetrain halive hbops hretrained.work) ⟨hretrained.state, hlisten, hattempts, hretrained.work.mem⟩

end Sys2Proof.Machine
end

section
/-! Packets that arrive on a link (R54, R132, R319, R328, R369, R381, R382, R384). It settles O37. -/

namespace Sys2Proof.Machine

/-! ### Answers that go out on the link (R328, R382) -/

/-- From s to t one STATUS has gone out on link i, and no register or byte has changed. -/
structure StatusSent (s t : State) (i tag status : Nat) : Prop where
  sent : (t.link i).txq = (s.link i).txq ++ [(2, .status tag status)]
  regs : t.regs = s.regs
  mem : t.mem = s.mem

section
variable {s : State} {i a n tag : Nat}

theorem StatusSent.statusOn (hup : s.linkUp i = true) (status : Nat) : StatusSent s (s.statusOn i tag status) i tag status :=
  ⟨State.txq_sendOn_up hup _ _, State.sendOn_regs _ _ _ _, State.sendOn_mem _ _ _ _⟩

/-- The state in which the READBACKs of link i that wait for an answer are those listed. -/
def State.withBacks (s : State) (i : Nat) (l : List BackWait) : State := s.setLink i { s.link i with backs := l }

theorem State.link_withBacks (s : State) (i : Nat) (l : List BackWait) :
    (s.withBacks i l).link i = { s.link i with backs := l } := State.link_setLink _ _ _

theorem State.withBacks_regs (l : List BackWait) : (s.withBacks i l).regs = s.regs := rfl

theorem State.withBacks_mem (l : List BackWait) : (s.withBacks i l).mem = s.mem := rfl

theorem State.linkUp_withBacks (l : List BackWait) (j : Nat) : (s.withBacks i l).linkUp j = s.linkUp j := rfl

theorem State.backStatus_withBacks (l : List BackWait) (season : Option Nat) (fromLink : Bool) :
    (s.withBacks i l).backStatus a n season fromLink = s.backStatus a n season fromLink := rfl

/-- The one READBACK that waits on a link goes, answered, once no write is under way (R328). -/
theorem State.settleBacks_one {b : BackWait} (hquiet : s.underWay = []) (hbacks : (s.link i).backs = [b]) : s.settleBacks i =
    (s.withBacks i []).statusOn i b.tag (b.status.getD (s.backStatus b.addr b.len b.season true)) := by
  unfold State.settleBacks
  dsimp only
  rw [hquiet, hbacks, List.takeWhile_cons_of_pos (by simp), List.takeWhile_nil, if_neg (by simp)]
  rfl

/-- A READBACK with no write under way is answered at once (R328). -/
theorem StatusSent.backLater (hup : s.linkUp i = true) (hquiet : s.underWay = []) (hbacks : (s.link i).backs = [])
    (season status : Option Nat) :
    StatusSent s (s.backLater i tag a n season status) i tag (status.getD (s.backStatus a n season true)) := by
  obtain ⟨b, hb⟩ : ∃ b : BackWait, b = { seq := s.inSeq, tag, addr := a, len := n, season, status } := ⟨_, rfl⟩
  have hwaits : s.backLater i tag a n season status = (s.withBacks i [b]).settleBacks i := by
    unfold State.backLater
    dsimp only
    rw [hbacks, hb]
    rfl
  have hnone : (s.withBacks i [b]).underWay = [] := hquiet
  have hone : ((s.withBacks i [b]).link i).backs = [b] := congrArg LinkSt.backs (s.link_withBacks i [b])
  have htxq : (((s.withBacks i [b]).withBacks i []).link i).txq = (s.link i).txq := by
    rw [State.link_withBacks, State.link_withBacks]
  have hopen : ((s.withBacks i [b]).withBacks i []).linkUp i = true := by
    rw [State.linkUp_withBacks, State.linkUp_withBacks, hup]
  obtain ⟨hsent, hregs, hmem⟩ := StatusSent.statusOn (tag := tag) hopen (status.getD (s.backStatus a n season true))
  have hgoes : (s.withBacks i [b]).settleBacks i = ((s.withBacks i [b]).withBacks i []).statusOn i tag
      (status.getD (s.backStatus a n season true)) :=
    (State.settleBacks_one hnone hone).trans (by rw [State.backStatus_withBacks, hb])
  rw [hwaits, hgoes]
  exact ⟨hsent.trans (congrArg (· ++ _) htxq), hregs.trans (by rw [State.withBacks_regs, State.withBacks_regs]),
    hmem.trans (by rw [State.withBacks_mem, State.withBacks_mem])⟩

end

/-! ### Packets as commands, and the register spaces (R54, R381) -/

section
variable {s : State} {link : LinkNo} {p : LinkPacket}

theorem exec_write (hopen : s.linkOpen link.val = true) (hawake : s.fld F.pwrDieStatusState ≠ 1) :
    exec (.write link p) s = .next (s.serveWrite link.val p) :=
  congrArg Host.Outcome.next ((if_pos hopen).trans (by rw [State.stir_eq_self hawake]))

theorem exec_read (hopen : s.linkOpen link.val = true) (hawake : s.fld F.pwrDieStatusState ≠ 1) :
    exec (.read link p) s = .next (s.serveRead link.val p) :=
  congrArg Host.Outcome.next ((if_pos hopen).trans (by rw [State.stir_eq_self hawake]))

theorem exec_readback (hopen : s.linkOpen link.val = true) (hawake : s.fld F.pwrDieStatusState ≠ 1) :
    exec (.readback link p) s = .next (s.serveReadback link.val p) :=
  congrArg Host.Outcome.next ((if_pos hopen).trans (by rw [State.stir_eq_self hawake]))

theorem exec_data (hopen : s.linkOpen link.val = true) (hawake : s.fld F.pwrDieStatusState ≠ 1) : exec (.data link p) s =
    .next (s.answerTag link.val p.tag.toNat (p.address.toNat % 256) (some (slice p.data 0 p.length))) :=
  congrArg Host.Outcome.next ((if_pos hopen).trans (by rw [State.stir_eq_self hawake]))

theorem exec_status (hopen : s.linkOpen link.val = true) (hawake : s.fld F.pwrDieStatusState ≠ 1) :
    exec (.status link p) s = .next (s.answerTag link.val p.tag.toNat (p.address.toNat % 256) none) :=
  congrArg Host.Outcome.next ((if_pos hopen).trans (by rw [State.stir_eq_self hawake]))

theorem exec_mgmt {tag : BitVec 16} {m : Mgmt} (hopen : s.linkOpen link.val = true)
    (hawake : s.fld F.pwrDieStatusState ≠ 1) :
    exec (.mgmt link tag m) s = .next (s.serveMgmt link.val tag.toNat m) :=
  congrArg Host.Outcome.next ((if_pos hopen).trans (by rw [State.stir_eq_self hawake]))

/-- A state that has counted one more packet to a register space. -/
def State.remoteRejected (s : State) : State := s.addFld F.fltRemoteRegReject 1

theorem State.linkReject_registers {a n : Nat} (h : addrSpace a = 4) :
    s.linkReject a n = some (s.remoteRejected, stAuthFail) := if_pos h

theorem State.noteReject_other {a : Nat} (h : addrSpace a ≠ 2) : s.noteReject a = s := if_neg fun hb => h hb.2

theorem State.linkUp_remoteRejected (s : State) (i : Nat) : s.remoteRejected.linkUp i = s.linkUp i := by
  unfold State.linkUp State.linkState State.remoteRejected
  rw [State.fld_addFld_ne]
  simp only [ne_eq, Fld.key, F.lnkStatusState, F.fltRemoteRegReject]
  omega

theorem State.serveWrite_registers {i : Nat} (h : addrSpace p.address.toNat = 4) :
    s.serveWrite i p = s.remoteRejected.statusOn i p.tag.toNat stAuthFail := by
  unfold State.serveWrite
  dsimp only
  rw [State.linkReject_registers h]
  dsimp only
  rw [State.noteReject_other (by omega), if_neg fun hok => absurd hok.1 (by decide)]

theorem State.serveRead_registers {i : Nat} (h : addrSpace p.address.toNat = 4) :
    s.serveRead i p = s.remoteRejected.statusOn i p.tag.toNat stAuthFail := by
  unfold State.serveRead
  dsimp only
  rw [State.linkReject_registers h]
  dsimp only
  rw [State.noteReject_other (by omega)]

theorem State.serveReadback_registers {i : Nat} (h : addrSpace p.address.toNat = 4) : s.serveReadback i p =
    s.remoteRejected.backLater i p.tag.toNat p.address.toNat p.length none (some stAuthFail) := by
  unfold State.serveReadback
  dsimp only
  rw [State.linkReject_registers h]
  rfl

/-- R54: an access to a register space is counted and answered AUTH_FAIL. -/
theorem registerSpace_rejected {c : Instr} (hopen : s.linkOpen link.val = true) (hawake : s.fld F.pwrDieStatusState ≠ 1)
    (hspace : addrSpace p.address.toNat = 4) (hc : c ∈ [Instr.write link p, .read link p, .readback link p])
    (hback : c = .readback link p → s.underWay = [] ∧ (s.link link.val).backs = []) :
    Answers c s (StatusSent s.remoteRejected · link.val p.tag.toNat stAuthFail) := by
  have hup : s.remoteRejected.linkUp link.val = true :=
    (s.linkUp_remoteRejected _).trans (State.linkUp_of_linkOpen hopen)
  simp only [List.mem_cons, List.not_mem_nil, or_false] at hc
  rcases hc with rfl | rfl | rfl
  · exact .intro ((exec_write hopen hawake).trans (by rw [State.serveWrite_registers hspace])) (.statusOn hup _)
  · exact .intro ((exec_read hopen hawake).trans (by rw [State.serveRead_registers hspace])) (.statusOn hup _)
  · obtain ⟨hquiet, hbacks⟩ := hback rfl
    exact .intro ((exec_readback hopen hawake).trans (by rw [State.serveReadback_registers hspace]))
      (StatusSent.backLater (s := s.remoteRejected) hup hquiet hbacks none (some stAuthFail))

end

/-! ### Cores and doorbells (R62, R132, R328, R381) -/

section
variable {s : State} {i a n q : Nat}

theorem addrOff_core (a : Nat) : addrOff a % coreBytes = a % 2 ^ 22 := by
  show a % 2 ^ 44 % 2 ^ 22 = a % 2 ^ 22
  omega

/-- An address of an object of this die that passes the checks of R50 and R381. -/
theorem State.linkReject_local (hspace : addrSpace a = 1 ∨ addrSpace a = 3) (hdie : addrDie a = s.dieNo)
    (hrow : inRow a n = true) (hlayout : s.layoutOk a = true) : s.linkReject a n = none := by
  have hlocal : s.isLocal a = true := by
    unfold State.isLocal
    rw [hdie, beq_self_eq_true, Bool.and_true, bne_iff_ne]
    omega
  unfold State.linkReject
  rw [if_neg (by omega), if_neg (by omega), if_neg (by rw [hlocal]; decide), if_neg]
  rw [hrow, hlayout]
  simp

theorem inRow_iff : inRow a n = true ↔ 0 < n ∧ n ≤ 256 ∧ a % 256 + n ≤ 256 := by
  unfold inRow
  simp only [Bool.and_eq_true, decide_eq_true_eq, and_assoc]

theorem State.layoutOk_core (hspace : addrSpace a = 1) : s.layoutOk a = decide (addrOff a / coreBytes < s.nLogical) := by
  unfold State.layoutOk
  rw [hspace]
  rfl

theorem State.layoutOk_doorbell (hspace : addrSpace a = 3) : s.layoutOk a = decide (addrOff a < 2 ^ 19) := by
  unfold State.layoutOk
  rw [hspace]
  rfl

/-- A core in Leaf that is not fenced takes an unscheduled access as it is (R62). -/
theorem State.meetCore_leaf (hfenced : s.fencedCore q = false) (hleaf : s.power q = pwLeaf) : s.meetCore q = .ok s := by
  unfold State.meetCore
  rw [hfenced, hleaf]
  rfl

/-- A write that enters the mesh at its core's clump goes out on no link. -/
theorem State.acceptWrite_links (hopens : (s.router (q / 4)).opens = []) (hroom : (s.core q).inbox.length < 16)
    (home : Option Nat) (off : Nat) (data : List Byte) (o : Origin) (tag : Nat) (window : Option Nat) (ack : Bool) :
    (s.acceptWrite home (q / 4) q off data o tag window ack).links = s.links := by
  obtain ⟨r, hsent⟩ := State.sendRow_writeHere (s := { s with inSeq := s.inSeq + 1 })
    (o := { from_ := 0, home, dest := q / 4,
            load := .write q { seq := s.inSeq, off, data, from_ := o, tag, window, ack } }) hopens rfl rfl hroom
  unfold State.acceptWrite
  dsimp only
  rw [show clumpOf q = q / 4 from rfl, hsent]
  rfl

/-- An accepted read of a core of the clump where it enters stands last in the core's read queue. -/
theorem State.acceptRead_here (hopens : (s.router (q / 4)).opens = []) (hroom : (s.core q).readq.length < 8)
    (home : Option Nat) (off : Nat) (dest : ReadFor) :
    ((s.acceptRead home (q / 4) q off n dest).core q).readq = (s.core q).readq ++ [{ seq := s.inSeq, off, len := n, dest }] ∧
      (s.acceptRead home (q / 4) q off n dest).links = s.links ∧ (s.acceptRead home (q / 4) q off n dest).mem = s.mem := by
  obtain ⟨r, -, hsent⟩ := State.sendRow_readHere (s := { s with inSeq := s.inSeq + 1 })
    (o := { from_ := 0, home, dest := q / 4, load := .read q { seq := s.inSeq, off, len := n, dest } }) hopens rfl rfl hroom
  unfold State.acceptRead
  dsimp only
  rw [show clumpOf q = q / 4 from rfl, hsent]
  exact ⟨congrArg CoreSt.readq (State.core_setCore _ _ _), rfl, rfl⟩

/-- Address a, of n bytes of one row, names an unfenced core q in Leaf, of this die and of the clump where link i enters,
whose router has no open row. -/
structure State.CoreHere (s : State) (i a n q : Nat) : Prop where
  space : addrSpace a = 1
  die : addrDie a = s.dieNo
  row : inRow a n = true
  layout : s.layoutOk a = true
  phys : s.phys (addrOff a / coreBytes) = some q
  fenced : s.fencedCore q = false
  leaf : s.power q = pwLeaf
  clump : q / 4 = adapterClump i
  opens : (s.router (q / 4)).opens = []

theorem State.CoreHere.linkReject (h : s.CoreHere i a n q) : s.linkReject a n = none :=
  State.linkReject_local (.inl h.space) h.die h.row h.layout

theorem State.CoreHere.coreWrite (h : s.CoreHere i a n q) (data : List Byte) (o : Origin) (tag : Nat) (ack : Bool) :
    s.coreWrite (some i) (adapterClump i) a data o tag ack =
      (s.acceptWrite (some i) (q / 4) q (addrOff a % coreBytes) data o tag none ack, stOk) := by
  unfold State.coreWrite
  rw [h.phys]
  dsimp only
  rw [State.meetCore_leaf h.fenced h.leaf, h.clump]

theorem State.CoreHere.serveCoreRead (h : s.CoreHere i a n q) (tag : Nat) (back : Bool) :
    s.serveCoreRead i a n tag back =
      s.acceptRead (some i) (q / 4) q (addrOff a % coreBytes) n (.link i tag back) := by
  unfold State.serveCoreRead
  rw [h.phys]
  dsimp only
  rw [State.meetCore_leaf h.fenced h.leaf, h.clump]

theorem State.CoreHere.serveWrite {p : LinkPacket} (h : s.CoreHere i p.address.toNat p.length q) (hbops : s.bops = [])
    (hroom : (s.core q).inbox.length < 16) : s.serveWrite i p =
      s.acceptWrite (some i) (q / 4) q (addrOff p.address.toNat % coreBytes) (slice p.data 0 p.length) (.link i) p.tag.toNat none
        p.ackReq := by
  obtain ⟨-, -, -, hquiet⟩ := State.acceptWrite_here h.opens hroom (some i) (addrOff p.address.toNat % coreBytes)
    (slice p.data 0 p.length) (.link i) p.tag.toNat none p.ackReq
  unfold State.serveWrite
  dsimp only
  rw [h.linkReject]
  dsimp only
  rw [if_pos h.space, h.coreWrite, if_pos rfl, State.unitWork_eq_self (hquiet.trans hbops)]

theorem State.CoreHere.serveRead {p : LinkPacket} (h : s.CoreHere i p.address.toNat p.length q) : s.serveRead i p =
    s.acceptRead (some i) (q / 4) q (addrOff p.address.toNat % coreBytes) p.length (.link i p.tag.toNat false) := by
  unfold State.serveRead
  dsimp only
  rw [h.linkReject]
  dsimp only
  rw [if_pos h.space, h.serveCoreRead]

/-- A READBACK of a doorbell of this die waits for the earlier writes of its link alone (R328). -/
theorem State.serveReadback_doorbell {p : LinkPacket} (hspace : addrSpace p.address.toNat = 3)
    (hdie : addrDie p.address.toNat = s.dieNo) (hrow : inRow p.address.toNat p.length = true)
    (hoff : addrOff p.address.toNat < 2 ^ 19) :
    s.serveReadback i p = s.backLater i p.tag.toNat p.address.toNat p.length (s.seasonOf i p) none := by
  have hlayout : s.layoutOk p.address.toNat = true := (State.layoutOk_doorbell hspace).trans (decide_eq_true hoff)
  unfold State.serveReadback
  dsimp only
  rw [State.linkReject_local (.inr hspace) hdie hrow hlayout]
  dsimp only
  rw [if_neg (by omega)]

end

/-! ### DATA and STATUS (R85, R319) -/

section
variable {s : State} {i c tag status : Nat} {r : DmaRun} {o1 o2 : DmaOut} {more : List DmaOut}

/-- The row of a read behind the oldest one, which came from elsewhere, waits with it (R319). -/
theorem State.dmaReturned_second (hbops : s.bops = []) (hrun : (s.chan c).run = some r) (hok : r.failed = none)
    (hlive : r.sbLive = []) (hout : r.out = o1 :: o2 :: more) (hdata1 : o1.data = none) (hlost1 : o1.lost = false)
    (hlink1 : o1.link ≠ some i) (hlink2 : o2.link = some i) (hdata2 : o2.data = none) (hlost2 : o2.lost = false)
    (hbeat : o1.beat ≠ o2.beat) (hothers : ∀ m ∈ more, m.beat ≠ o2.beat) (row : List Byte) :
    s.dmaReturned c (some i) none row = s.setRun c
      { r with out := o1 :: { o2 with data := some (dmTake r.bytes o2.beat row) } :: more } := by
  obtain ⟨r', hr'⟩ : ∃ r', r' = { r with out := o1 :: { o2 with data := some (dmTake r.bytes o2.beat row) } :: more } := ⟨_, rfl⟩
  have hrun' : ((s.setRun c r').chan c).run = some r' := State.run_setRun _ _ _
  have hhead : ∀ m, r'.out.head? = some m → m.data = none ∧ m.lost = false := by
    intro m hm
    rw [hr', List.head?_cons, Option.some.injEq] at hm
    exact hm ▸ ⟨hdata1, hlost1⟩
  have hpump : (((s.setRun c r').dmaPump c 257).dmaAdvance c).unitWork = s.setRun c r' := by
    rw [State.dmaPump_waits hrun' hhead, State.dmaAdvance_moving hrun' (by rw [hr']; exact hok) (by rw [hr']; exact hlive)
      (.inr (by rw [hr']; simp)), State.setRun_setRun,
      State.unitWork_eq_self ((State.setRun_bops _ _ _).trans hbops)]
  unfold State.dmaReturned
  rw [hrun]
  dsimp only
  rw [hout, List.find?_cons_of_neg (by simp [hlink1]), List.find?_cons_of_pos (by simp [hlink2, hdata2, hlost2])]
  dsimp only
  rw [List.map_cons, List.map_cons, if_neg hbeat, if_pos rfl, map_other_beats hothers, ← hr']
  exact hpump

/-- DATA with a tag of a channel's running descriptor is an answer to its reads (R382). -/
theorem State.answerTag_row (htag : tag < 0x8000) (hc : c = tag / 4096 * 64 + tag / 64 % 64)
    (hrun : (s.chan c).run = some r) (hidx : r.idx % 64 = tag % 64) (hstep : r.step = 0) (row : List Byte) :
    s.answerTag i tag stOk (some row) = s.dmaReturned c (some i) none row := by
  unfold State.answerTag
  rw [if_pos htag]
  unfold State.dmaAnswer
  dsimp only
  rw [← hc, hrun]
  dsimp only
  rw [if_neg (not_not.mpr hidx), if_pos hstep, if_pos rfl]

/-- What the answer to an outstanding POST leaves (R85). -/
theorem State.postAnswered_status {q : Nat} (hout : (s.core q).postsOut ≠ 0) (hown : (s.core q).frozenOwn = false)
    (hlive : s.coreState q ≠ csFaulted) (hstatus : status < 256) :
    ((s.postAnswered q status).core q).postsOut = (s.core q).postsOut - 1 ∧ (s.postAnswered q status).mem = s.mem ∧
      (s.postAnswered q status).bops = s.bops ∧
      (status ≠ stOk → (s.postAnswered q status).fld (F.corPostStatusStatus q) = status) ∧
      (status = stOk → (s.postAnswered q status).regs = s.regs) := by
  have hdone : ((s.postDone q).core q).postsOut = (s.core q).postsOut - 1 :=
    congrArg CoreSt.postsOut (s.core_postDone q)
  rw [State.postAnswered_live hout hown hlive]
  split
  · next hok => exact ⟨hdone, rfl, rfl, fun hbad => absurd hok hbad, fun _ => rfl⟩
  · next hbad =>
    refine ⟨hdone, rfl, rfl, fun _ => ?_, fun hok => absurd hok hbad⟩
    refine (State.fld_setFld_ne _ ?_ _).trans ((State.fld_setFld _ _ _).trans (Nat.mod_eq_of_lt hstatus))
    simp only [Fld.key, F.corPostStatusStatus, F.corPostStatusRejects]
    omega

/-- STATUS with the tag of a core's POST answers it (R382). -/
theorem State.answerTag_post {q : Nat} (htag : tag / 256 = 0xFF) (hphys : s.phys (tag / 2 % 128) = some q) :
    s.answerTag i tag status none = (s.postAnswered q status).unitWork := by
  unfold State.answerTag
  rw [if_neg (by omega), if_pos htag, hphys]

end

/-! ### Messages of MGMT packets (R384, R515) -/

section
variable {s : State} {link : LinkNo} {y : Vc5Msg}

/-- The command that a pace or budget message is, by its KIND. -/
theorem exec_vc5 (hopen : s.linkOpen link.val = true) (hawake : s.fld F.pwrDieStatusState ≠ 1) :
    exec (if vcKind y = 2 then .demand link y else if vcKind y = 3 then .total link y else .pace link y) s =
      .next (s.vc5In y) := by
  have hstir : s.stir.vc5In y = s.vc5In y := by rw [State.stir_eq_self hawake]
  split
  · next h => exact congrArg Host.Outcome.next ((if_pos ⟨hopen, h⟩).trans hstir)
  · split
    · next h => exact congrArg Host.Outcome.next ((if_pos ⟨hopen, h⟩).trans hstir)
    · exact congrArg Host.Outcome.next ((if_pos ⟨hopen, by omega⟩).trans hstir)

theorem State.serveMgmt_taken {i tag : Nat} (h : 30 ≤ i ∨ s.below3 i = true) : s.serveMgmt i tag (.vc5 y) = s.vc5In y :=
  if_pos h

theorem State.serveMgmt_refused {i tag : Nat} (hi : i < 30) (h : s.below3 i = false) :
    s.serveMgmt i tag (.vc5 y) = s.statusOn i tag stBadParam :=
  if_neg fun hb => hb.elim (by omega) fun hlow => by rw [h] at hlow; exact absurd hlow (by decide)

end

/-- Settles O37: what a packet asks of this die is done or refused as its space, its tag and the link's version have it. -/
theorem linkPackets : Obligations.LinkPackets := by
  unfold Obligations.LinkPackets
  intro s link p q tag x
  dsimp only
  intro hopen hup hawake hbops
  have hrefused : ∀ {c : Instr} {t : State} {g status : Nat}, exec c s = .next t → StatusSent s t link.val g status →
      Answers c s fun t => ((t.link link.val).txq = (s.link link.val).txq ++ [(2, .status g status)] ∧ t.mem = s.mem) ∧
        t.regs = s.regs :=
    fun hexec h => .intro hexec ⟨⟨h.sent, h.mem⟩, h.regs⟩
  refine ⟨fun hspace c hc hback => ?_, fun ⟨hpos, hlen, hend⟩ hspace hdie hlogical hcore => ?_,
    fun ⟨hpos, hlen, hend⟩ hspace hdie hoff hquiet hbacks => ?_, ?_, fun htag hphys _ hout hown hlive => ?_, fun hi => ?_,
    fun hi => ?_, fun y => ⟨fun h => ?_, fun hi h => ?_⟩⟩
  · obtain ⟨t, hexec, hsent⟩ := registerSpace_rejected hopen hawake hspace hc hback
    exact .intro hexec ⟨⟨hsent.sent, hsent.mem⟩, (State.fld_congr hsent.regs _).trans (State.fld_addFld _ _ _)⟩
  · obtain ⟨hphys, -, hfenced, hleaf, hclump, hopens⟩ := hcore
    have hhere : s.CoreHere link.val p.address.toNat p.length q :=
      ⟨hspace, hdie, inRow_iff.mpr ⟨hpos, hlen, hend⟩, (State.layoutOk_core hspace).trans (decide_eq_true hlogical), hphys,
        hfenced, hleaf, hclump, hopens⟩
    refine ⟨fun hroom => ?_, fun hroom => ?_⟩
    · obtain ⟨hinbox, -, hmem, -⟩ := State.acceptWrite_here hopens hroom (some link.val)
        (addrOff p.address.toNat % coreBytes) (slice p.data 0 p.length) (.link link.val) p.tag.toNat none p.ackReq
      exact .intro ((exec_write hopen hawake).trans (congrArg _ (hhere.serveWrite hbops hroom)))
        ⟨hmem, State.acceptWrite_links hopens hroom _ _ _ _ _ _ _, _, hinbox, addrOff_core _, rfl, rfl, rfl, rfl⟩
    · obtain ⟨hreadq, hlinks, hmem⟩ := State.acceptRead_here (n := p.length) hopens hroom (some link.val)
        (addrOff p.address.toNat % coreBytes) (.link link.val p.tag.toNat false)
      exact .intro ((exec_read hopen hawake).trans (congrArg _ hhere.serveRead))
        ⟨hmem, hlinks, _, hreadq, addrOff_core _, rfl, rfl⟩
  · exact hrefused ((exec_readback hopen hawake).trans (congrArg _ (State.serveReadback_doorbell hspace hdie
      (inRow_iff.mpr ⟨hpos, hlen, hend⟩) hoff))) (.backLater hup hquiet hbacks _ none)
  · intro c r o1 o2 more hc htag hrun hidx hstep hok hlive hout hdata1 hlost1 hlink1 hlink2 hdata2 hlost2 hbeat hothers hstatus
    have hreturned := State.dmaReturned_second hbops hrun hok hlive hout hdata1 hlost1 hlink1 hlink2 hdata2 hlost2 hbeat
      hothers (slice p.data 0 p.length)
    have hrow : s.answerTag link.val p.tag.toNat (p.address.toNat % 256) (some (slice p.data 0 p.length)) = _ :=
      hstatus ▸ State.answerTag_row htag hc hrun hidx hstep _
    exact .intro ((exec_data hopen hawake).trans (congrArg _ (hrow.trans hreturned))) ⟨rfl, rfl, State.run_setRun _ _ _⟩
  · obtain ⟨hdone, hmem, hquiet, hbad, hok⟩ := State.postAnswered_status hout hown hlive
      (Nat.mod_lt p.address.toNat (by decide : 0 < 256))
    exact .intro ((exec_status hopen hawake).trans (congrArg _ ((State.answerTag_post htag hphys).trans
      (State.unitWork_eq_self (hquiet.trans hbops))))) ⟨hdone, hmem, hbad, hok⟩
  · exact hrefused (exec_mgmt hopen hawake |>.trans (congrArg _ (if_neg (by omega)))) (.statusOn hup _)
  · exact .intro (exec_mgmt hopen hawake |>.trans (congrArg _ (if_pos hi))) ⟨rfl, rfl, rfl⟩
  · exact .intro (exec_mgmt hopen hawake |>.trans (congrArg _ (State.serveMgmt_taken h))) (exec_vc5 hopen hawake)
  · exact hrefused (exec_mgmt hopen hawake |>.trans (congrArg _ (State.serveMgmt_refused hi h))) (.statusOn hup _)

end Sys2Proof.Machine
end
